-- ==== Sys2Proof/Word.lean ====
section
/-! DEFINITION. The word types of the TN8 manual: registers are 32 bits (R7), fields little-endian. -/

namespace Sys2Proof

/-- One byte, the smallest addressable unit of every memory of the package. -/
abbrev Byte := BitVec 8
/-- A 16-bit field: status codes, event codes, fabric identifiers. -/
abbrev U16 := BitVec 16
/-- A 32-bit field: every register is 32 bits wide (R7). -/
abbrev U32 := BitVec 32
/-- A 64-bit field: addresses, counters, sequence values. -/
abbrev U64 := BitVec 64

/-- The all-ones 64-bit value, at which event counters stick (R598). -/
def U64.ones : U64 := BitVec.allOnes 64

end Sys2Proof
end

