-- ==== Sys2Proof/Syntax.lean ====
section
/-! DEFINITION. The commands of the package: one constructor of `Instr` per row of
spec/opcode_table.json, with the operands the manual's layouts give the row. -/

namespace Sys2Proof

/-! ## Operand records -/

/-- A physical tile: arithmetic die and physical index 0-143 (Table 1.10, Table 3.12). -/
structure TileId where
  die  : BitVec 2
  phys : BitVec 8
  deriving DecidableEq, Repr

/-- The fields of a 128-bit tile instruction word after CLASS and OP (Table 3.8). -/
structure TWord where
  sa   : BitVec 4
  arg0 : U16
  arg1 : U32
  arg2 : U64
  deriving DecidableEq, Repr

/-- The fields of a 32-bit span instruction after MAJOR and OP[4:0] (Table 9.3); `scal` is OP[5]. -/
structure VWord where
  scal : Bool
  ew   : BitVec 2
  g    : BitVec 2
  zero : Bool
  ksel : BitVec 2
  vs2  : BitVec 5
  vs1  : BitVec 5
  vd   : BitVec 5
  deriving DecidableEq, Repr

/-- What a ring command carries beside its operands (R554): its submission ring (0-63 host,
64-127 internal, R562), CMD_TAG and the FENCE and QUIET flags. -/
structure CmdCtx where
  sq    : BitVec 7
  tag   : U32
  fence : Bool
  quiet : Bool
  deriving DecidableEq, Repr

/-- A unit of the spare pools (Table 1.13; row groups as in Table 1.8). -/
inductive UnitRef where
  | tile (die phys : Nat)
  | rowGroup (die phys bank group : Nat)
  | core (phys : Nat)
  | lane (fd phys : Nat)
  | wire (bridge phys : Nat)
  deriving DecidableEq, Repr

/-- What the surroundings and the self-test give a power-up (R572-R574, R606, R607). -/
structure PowerUpEnv where
  sledPos            : BitVec 2
  devOpen            : Bool
  holdWaterLow       : Bool
  failedUnits        : List UnitRef
  failedSupervisors  : List Nat
  failedStacks       : List Nat
  deriving DecidableEq, Repr

/-- A packet header (Table 11.4); `crcOk` stands for the trailer's CRC check (Table 11.6). -/
structure PktHdr where
  combinable : Bool
  retry      : Bool
  combined   : Bool
  last       : Bool
  lines      : BitVec 8
  op         : BitVec 8
  jobTag     : U16
  epoch      : U16
  srcId      : U16
  dstId      : U16
  seq        : U32
  addr       : U64
  released   : U32
  crcOk      : Bool
  deriving DecidableEq, Repr

/-- One constituent of a switch-combined packet (R389). -/
structure Constituent where
  srcId   : U16
  seq     : U32
  operand : U64
  deriving DecidableEq, Repr

/-- The preamble of a BULK packet (R392). -/
structure BulkPre where
  xferId  : U32
  total   : U32
  counter : U16
  deriving DecidableEq, Repr

/-- The chunk header of COLL_DATA (R431): the level, the child index and the element offset. -/
structure ChunkHdr where
  level  : BitVec 8
  child  : U32
  offset : U64
  digest : U64
  deriving DecidableEq, Repr

/-- What a COLL_CTRL packet carries (R431). `digest` gives the digest of the agreeing fields and that of the sender's list of the
group's ranks (R401, R404, log 28). -/
inductive CollCtrlBody where
  | digest (d list : U64)
  | mismatch
  | verdict (failure : U16)
  | counts (fromIndex : Nat) (cs : List U64)
  | exponents (offset : U64) (es : List U16)
  | arrive
  deriving DecidableEq, Repr

/-- Where a management message comes from (R588): an Azmarlink identifier or the tray controller. -/
inductive MgmtSrc where
  | fabric (id : U16)
  | tray
  deriving DecidableEq, Repr

/-- The memory plan of a launch (R336, Table 17.6). -/
structure MemPlan where
  checkFrames : List Nat
  ckptEn      : Bool
  hostBase    : U64
  hostLimit   : U64
  deriving DecidableEq, Repr

/-- The checkpoint plan of a launch (Table 14.3). -/
structure CkptPlan where
  buddyRank       : U32
  wardRank        : U32
  vbase           : U64
  vbytes          : U64
  wardStore       : U64
  hostStore       : U64
  intervalMs      : U32
  intervalStrokes : U32
  copyRate        : U16
  restoreRate     : U16
  resClear        : Bool
  deriving DecidableEq, Repr

/-- The body of BIND (Table 17.6). -/
structure BindBody where
  jobTag  : U16
  epoch   : U16
  ownRank : U32
  fabIds  : List U16
  deriving DecidableEq, Repr

/-- The body of LAUNCH (Table 17.6). -/
structure LaunchBody where
  mode          : U32
  seed          : U64
  logicalTiles  : U16
  startStroke   : U64
  gen           : U64
  nondetBase    : U64
  programDigest : List Byte
  plan          : MemPlan
  ckpt          : CkptPlan
  hintCount     : U32
  deriving DecidableEq, Repr

/-- An Evfek frame's header as received (Table 17.5). -/
structure EvfHdr where
  dst   : BitVec 8
  src   : BitVec 8
  seq   : BitVec 8
  crcOk : Bool
  deriving DecidableEq, Repr

/-- The payloads that the tray controller sends in command frames (R588: kinds 0x03 to 0x05). -/
inductive EvfCmd where
  | limit (watts : U16)
  | catchAt (matchTime : U64) (catchId : U32)
  | time (origin correction : U64)
  | other (kind : BitVec 8)
  deriving DecidableEq, Repr

/-- A pace message payload (Table 15.6). -/
structure PaceBody where
  point  : BitVec 8
  phase  : BitVec 8
  ratio  : U16
  rank   : U32
  holdMs : U16
  time   : U64
  deriving DecidableEq, Repr

/-- What the PMC has measured when it allocates power (R516), in watts, with the uncore power of
each arithmetic die, the stacks and PHYs, the steering die, the loss estimate, and 1 ms VIN in 10 mV. -/
structure PowerMeas where
  steering : Nat
  memPhys  : Nat
  loss     : Nat
  uncore   : List Nat
  vin10mV  : Nat
  inputW   : Nat
  deriving DecidableEq, Repr

/-- The measurement of one phase on one die over an occurrence, in milliwatts at point 15 (R515). -/
structure PhaseMeas where
  phase  : BitVec 8
  die    : BitVec 2
  demand : Nat
  deriving DecidableEq, Repr

/-- The error that a line read finds (R332-R334). -/
inductive LineErr where
  | none
  | correctable
  | uncorrectable
  deriving DecidableEq, Repr

/-- The tile units that hold queues (R120). -/
inductive TileUnit where
  | matrix
  | element
  | dma
  | sync
  deriving DecidableEq, Repr

/-- Who waits on a sync counter (Table 12.7). -/
inductive Waiter where
  | tile (t : TileId)
  | core (c : BitVec 8)
  | host (c : CmdCtx)
  deriving DecidableEq, Repr

/-- The work whose end ZN_UNIT_END marks (R254). -/
inductive ZnUnit where
  | iteration
  | panel
  | residual
  deriving DecidableEq, Repr

/-- What comes with the end of a unit of a SOLVE's work: how long it took, how long the FP64 residual within it took (R253), and the lead
member's decision whether the next unit starts (R264). -/
structure UnitReport where
  ns       : U64
  residual : U64
  go       : Bool
  deriving DecidableEq, Repr

/-- What another member sends at a rendezvous: its digest, row range and signature, and of the lead member its first decision; and
what this member reads of its memory: its matrix rows, or its blocks of a dense matrix, and its parts of b and of the starting
point (R263, R264). -/
structure Rendezvous where
  rank     : U32
  digest   : List Byte
  rowFirst : U64
  rows     : U64
  sig      : List Byte
  n        : Nat                       -- scalar rows or variables
  mat      : List (List (Nat × U64))   -- scalar rows of a block-sparse matrix: column and value
  cells    : List U64                  -- blocks of a dense matrix as they lie in memory (R246)
  rhs      : List U64
  start    : List U64
  go       : Bool
  deriving DecidableEq, Repr

/-- The sources a page restore reads (R469): the host store, or the buddy's bytes as fetched. -/
inductive RestoreSrc where
  | host
  | buddy (granules : List (Nat × List Byte))
  deriving DecidableEq, Repr

/-- Scalar floating-point operations of a steering core (R291). -/
inductive FpOp where
  | add | sub | mul | div | sqrt | fma | min | max | cvtFI | cvtIF
  deriving DecidableEq, Repr

/-- Scalar and vector floating-point widths (Table 9.1, R307). -/
inductive FpFmt where
  | f16 | f32 | f64
  deriving DecidableEq, Repr

/-- The time sources in descending priority (R592). -/
inductive TimeSrc where
  | ptp | azmarlink | evfek
  deriving DecidableEq, Repr

/-- Completion rings and the event ring, as interrupt sources (R564). -/
inductive IrqSrc where
  | cq (j : BitVec 6)
  | evq
  deriving DecidableEq, Repr

/-! ## The commands -/

/-- The package's commands, one constructor per row of the table of operations and events. -/
inductive Instr where
  -- power, pins and resets
  | powerUp (env : PowerUpEnv)
  | vinOutOfRange
  | vinLoss
  | perstAssert
  | perstDeassert
  | functionLevelReset
  | hotReset
  | hostLinkChanged (gen width : Nat) (busMaster : Bool)
  | holdWaterAsserted
  | holdWaterCleared
  | ppsInEdge
  | flyPresentChange (connector : BitVec 2) (seated : Bool)
  -- bridges and heartbeats
  | bridgeCrcRetry (bridge wire : Nat)
  | bridgeWireSpared (bridge : Nat)
  | dieHeartbeat (die : BitVec 3)
  | dieHeartbeatMissed (die : BitVec 3)
  | pmcHeartbeat
  -- BAR0 registers
  | latchedLowRead (off : BitVec 26)
  | latchedHighRead (off : BitVec 26)
  | bar0BadAccess (off : BitVec 26) (write : Bool)
  | registerWrite (off : BitVec 26) (value : U32)
  | glbSetupLock (value : U32)
  | counterClear (off : BitVec 26) (value : U32)
  | memThermMode (stack : BitVec 3) (value : U32)
  | tileFlagClr (t : TileId) (value : U32)
  | ckptNow (value : U32)
  | pwrLimit (value : U32)
  | hifSummaryReq (value : U32)
  | pmcRecovCtrl (value : U32)
  | sqEnable (j : BitVec 6) (cfg : U32)
  | sqDisable (j : BitVec 6)
  | cqEnable (j : BitVec 6) (cfg : U32)
  | cqDisable (j : BitVec 6)
  | evqEnable (cfg : U32)
  -- apertures, wake and the ring engine
  | bar2Read (addr : U64) (bytes : Nat)
  | bar2Write (addr : U64) (data : List Byte)
  | wake
  | doorbellPoll (hostOk : Bool)
  | idleEntry
  | heldCompletionWrite (ring : BitVec 7) (hostOk : Bool)
  | msixInterrupt (src : IrqSrc)
  | internalDoorbellWrite (sq : Bool) (index : BitVec 6) (value : U32)
  -- ring commands (Table 16.5)
  | nop (c : CmdCtx)
  | readSummary (c : CmdCtx) (out : U64)
  | phaseMark (c : CmdCtx) (phase : BitVec 8)
  | memMap (c : CmdCtx) (vaddr paddr : U64) (count : U32) (attr : BitVec 8)
  | memUnmap (c : CmdCtx) (vaddr : U64) (count : U32)
  | copy (c : CmdCtx) (src dst bytes : U64)
  | tileRun (c : CmdCtx) (script args : U64) (firstTile tileCount : U16) (dieMask options : BitVec 8)
  | steerRun (c : CmdCtx) (entry stack args : U64) (core : U16)
  | znAssemble (c : CmdCtx) (desc : U64)
  | znSolve (c : CmdCtx) (desc : U64)
  | coll (c : CmdCtx) (desc : U64)
  | collBatch (c : CmdCtx) (header : U64)
  | collGroup (c : CmdCtx) (list : U64) (group count : U16)
  | strokeEnd (c : CmdCtx) (stroke : U64)
  | syncOpAdd (c : CmdCtx) (value : U64) (member : U32) (counter : U16)
  | syncOpSet (c : CmdCtx) (value : U64) (member : U32) (counter : U16)
  | syncWait (c : CmdCtx) (value : U64) (counter : U16)
  | msgSend (c : CmdCtx) (src tag : U64) (member : U32) (bytes : U16) (queue : BitVec 8)
  | msgRecv (c : CmdCtx) (buf tag mask : U64) (bytes : U16) (queue : BitVec 8)
  | bufReg (c : CmdCtx) (vaddr bytes : U64) (key : U16)
  | bufDereg (c : CmdCtx) (key : U16)
  | bulkPut (c : CmdCtx) (src offset : U64) (lines member xferId : U32) (key counter : U16)
  | audit (c : CmdCtx) (desc : U64)
  | auditExecute (c : CmdCtx)
  | attest (c : CmdCtx) (nonce : List Byte) (out : U64)
  | ownerKey (c : CmdCtx) (block : U64)
  | ownerConfig (c : CmdCtx) (block : U64) (bytes : U32)
  | fwUpdate (c : CmdCtx) (image bytes : U64)
  | catchNow (c : CmdCtx)
  | ringIntSq (c : CmdCtx) (base doorbell : U64) (index log2 cq : BitVec 8)
  | ringIntCq (c : CmdCtx) (base doorbell : U64) (index log2 : BitVec 8) (notify : U16)
  | ringIntSqDisable (c : CmdCtx) (index : BitVec 8)
  | ringIntCqDisable (c : CmdCtx) (index : BitVec 8)
  -- the tile sequencer
  | tileScriptStart (t : TileId)
  | instructionCompletion (t : TileId) (u : TileUnit)
  | tileNop (t : TileId) (w : TWord)
  | endScript (t : TileId) (w : TWord)
  | loop (t : TileId) (w : TWord)
  | brnz (t : TileId) (w : TWord)
  | setS (t : TileId) (w : TWord)
  | adds (t : TileId) (w : TWord)
  | mma (t : TileId) (w : TWord)
  | dmaIn (t : TileId) (w : TWord)
  | dmaOut (t : TileId) (w : TWord)
  | dmaTransferDone (t : TileId)
  | scAdd (t : TileId) (w : TWord)
  | scSet (t : TileId) (w : TWord)
  | scWait (t : TileId) (w : TWord)
  | scWaitSatisfied (w : Waiter)
  | waitPoll (w : Waiter)
  | fence (t : TileId) (w : TWord)
  | flagRd (t : TileId) (w : TWord)
  | flagClr (t : TileId) (w : TWord)
  -- the element engine
  | eadd (t : TileId) (w : TWord)
  | esub (t : TileId) (w : TWord)
  | emul (t : TileId) (w : TWord)
  | efma (t : TileId) (w : TWord)
  | ediv (t : TileId) (w : TWord)
  | esqrt (t : TileId) (w : TWord)
  | emin (t : TileId) (w : TWord)
  | emax (t : TileId) (w : TWord)
  | eabs (t : TileId) (w : TWord)
  | eneg (t : TileId) (w : TWord)
  | ecmp (t : TileId) (w : TWord)
  | esel (t : TileId) (w : TWord)
  | ecopy (t : TileId) (w : TWord)
  | ecvt (t : TileId) (w : TWord)
  | eqrow (t : TileId) (w : TWord)
  | edqrow (t : TileId) (w : TWord)
  | epoly (t : TileId) (w : TWord)
  | eexp (t : TileId) (w : TWord)
  | eexp2 (t : TileId) (w : TWord)
  | elog (t : TileId) (w : TWord)
  | elog2 (t : TileId) (w : TWord)
  | ersqrt (t : TileId) (w : TWord)
  | esin (t : TileId) (w : TWord)
  | ecos (t : TileId) (w : TWord)
  | etanh (t : TileId) (w : TWord)
  | esigm (t : TileId) (w : TWord)
  | egelu (t : TileId) (w : TWord)
  | esilu (t : TileId) (w : TWord)
  | rsum (t : TileId) (w : TWord)
  | rsumsq (t : TileId) (w : TWord)
  | rmax (t : TileId) (w : TWord)
  | rmin (t : TileId) (w : TWord)
  | rstat (t : TileId) (w : TWord)
  | rmerge (t : TileId) (w : TWord)
  | csum (t : TileId) (w : TWord)
  | cmax (t : TileId) (w : TWord)
  | cmin (t : TileId) (w : TWord)
  | tileZeroingDone (t : TileId)
  -- Zenle
  | solveStart
  | znRendezvous (solveId : U32) (msgs : List Rendezvous) (expired : Bool)
  | znUnitEnd (solveId : U32) (u : ZnUnit) (report : UnitReport)
  | solveEnd (solveId : U32)
  | assemblyDone (asmId : U32)
  -- the stroke barrier
  | strokeBarrierComplete (generation : Bool)
  | barrierSecondRound
  | strokeSlow
  -- steering cores, scalar
  | supcall (core : BitVec 8)
  | supret (core : BitVec 8)
  | steerCoreFault (phys : BitVec 8)
  | passInterrupt (core : BitVec 8) (nextElement : Nat)
  | fpmrd (core : BitVec 8) (rd : BitVec 5)
  | fpmwr (core : BitVec 8) (rs1 : BitVec 5)
  | ldAcq (core : BitVec 8) (rd rs1 : BitVec 5)
  | stRel (core : BitVec 8) (rs1 rs2 : BitVec 5)
  | steerFence (core : BitVec 8)
  | atAdd (core : BitVec 8) (rd rs1 rs2 : BitVec 5)
  | atXchg (core : BitVec 8) (rd rs1 rs2 : BitVec 5)
  | atCas (core : BitVec 8) (rd rs1 rs2 : BitVec 5)
  | atMin (core : BitVec 8) (rd rs1 rs2 : BitVec 5)
  | atMax (core : BitVec 8) (rd rs1 rs2 : BitVec 5)
  | atMinu (core : BitVec 8) (rd rs1 rs2 : BitVec 5)
  | atMaxu (core : BitVec 8) (rd rs1 rs2 : BitVec 5)
  | scCoreAdd (core : BitVec 8) (vs1 vs2 : BitVec 5)
  | scCoreSet (core : BitVec 8) (vs1 vs2 : BitVec 5)
  | scCoreWait (core : BitVec 8) (vs1 vs2 : BitVec 5)
  -- the span vector extension
  | setspan (core : BitVec 8) (w : VWord)
  | vsrd (core : BitVec 8) (w : VWord)
  | vswr (core : BitVec 8) (w : VWord)
  | vadd (core : BitVec 8) (w : VWord)
  | vsub (core : BitVec 8) (w : VWord)
  | vmul (core : BitVec 8) (w : VWord)
  | vmulhi (core : BitVec 8) (w : VWord)
  | vmin (core : BitVec 8) (w : VWord)
  | vmax (core : BitVec 8) (w : VWord)
  | vminu (core : BitVec 8) (w : VWord)
  | vmaxu (core : BitVec 8) (w : VWord)
  | vand (core : BitVec 8) (w : VWord)
  | vor (core : BitVec 8) (w : VWord)
  | vxor (core : BitVec 8) (w : VWord)
  | vshl (core : BitVec 8) (w : VWord)
  | vshrl (core : BitVec 8) (w : VWord)
  | vshra (core : BitVec 8) (w : VWord)
  | vcmpeq (core : BitVec 8) (w : VWord)
  | vcmplt (core : BitVec 8) (w : VWord)
  | vmulx (core : BitVec 8) (w : VWord)
  | vmulxu (core : BitVec 8) (w : VWord)
  | vmacx (core : BitVec 8) (w : VWord)
  | vmacxu (core : BitVec 8) (w : VWord)
  | vdotq (core : BitVec 8) (w : VWord)
  | vdotqu (core : BitVec 8) (w : VWord)
  | vdotqsu (core : BitVec 8) (w : VWord)
  | vfadd (core : BitVec 8) (w : VWord)
  | vfsub (core : BitVec 8) (w : VWord)
  | vfmul (core : BitVec 8) (w : VWord)
  | vfdiv (core : BitVec 8) (w : VWord)
  | vfsqrt (core : BitVec 8) (w : VWord)
  | vfmac (core : BitVec 8) (w : VWord)
  | vfmsb (core : BitVec 8) (w : VWord)
  | vfmin (core : BitVec 8) (w : VWord)
  | vfmax (core : BitVec 8) (w : VWord)
  | vfcmpeq (core : BitVec 8) (w : VWord)
  | vfcmplt (core : BitVec 8) (w : VWord)
  | vfcmple (core : BitVec 8) (w : VWord)
  | vfcvtFi (core : BitVec 8) (w : VWord)
  | vfcvtIf (core : BitVec 8) (w : VWord)
  | vfcvtup (core : BitVec 8) (w : VWord)
  | vfcvtdn (core : BitVec 8) (w : VWord)
  | vfcvtupBf (core : BitVec 8) (w : VWord)
  | vfcvtdnBf (core : BitVec 8) (w : VWord)
  | vfmulx (core : BitVec 8) (w : VWord)
  | vfmacx (core : BitVec 8) (w : VWord)
  | vdotbf (core : BitVec 8) (w : VWord)
  | vld (core : BitVec 8) (w : VWord)
  | vlds (core : BitVec 8) (w : VWord)
  | vldx (core : BitVec 8) (w : VWord)
  | vldprobe (core : BitVec 8) (w : VWord)
  | vst (core : BitVec 8) (w : VWord)
  | vsts (core : BitVec 8) (w : VWord)
  | vstx (core : BitVec 8) (w : VWord)
  | vsumr (core : BitVec 8) (w : VWord)
  | vminr (core : BitVec 8) (w : VWord)
  | vmaxr (core : BitVec 8) (w : VWord)
  | vminur (core : BitVec 8) (w : VWord)
  | vmaxur (core : BitVec 8) (w : VWord)
  | vfsumord (core : BitVec 8) (w : VWord)
  | vfsumpair (core : BitVec 8) (w : VWord)
  | vfminr (core : BitVec 8) (w : VWord)
  | vfmaxr (core : BitVec 8) (w : VWord)
  | vshiftup (core : BitVec 8) (w : VWord)
  | vshiftdn (core : BitVec 8) (w : VWord)
  | vshuf (core : BitVec 8) (w : VWord)
  | vpack (core : BitVec 8) (w : VWord)
  | vbcast (core : BitVec 8) (w : VWord)
  | vfbcast (core : BitVec 8) (w : VWord)
  | vtog (core : BitVec 8) (w : VWord)
  | vtof (core : BitVec 8) (w : VWord)
  | kand (core : BitVec 8) (w : VWord)
  | kor (core : BitVec 8) (w : VWord)
  | kxor (core : BitVec 8) (w : VWord)
  | kandn (core : BitVec 8) (w : VWord)
  | kcount (core : BitVec 8) (w : VWord)
  | kfind (core : BitVec 8) (w : VWord)
  | kld (core : BitVec 8) (w : VWord)
  | kst (core : BitVec 8) (w : VWord)
  -- stack controllers
  | stackTempSample (stack : BitVec 3) (tempC thrC : BitVec 8) (rateReq : BitVec 4)
  | scrub (stack : BitVec 3) (line : U64) (err : LineErr)
  | blockRetired (stack : BitVec 3)
  | spareMapFlashWrite
  -- checkpoints and restore
  | stagingStallRelease (die : BitVec 2)
  | granuleCopy (die : BitVec 2)
  | close
  | manifestWrite (readBackOk : Bool)
  | commitAgreement (allOk : Bool)
  | demandFetch (page : U64)
  | backgroundRestore
  | pageRestored (page : U64) (src : RestoreSrc)
  | buddyReseed
  -- launch tree
  | launchImage (image : List Byte)
  | launchChildMissing (rank : U32)
  -- Azmarlink lanes and paths
  | laneFault (port : BitVec 4) (lane : BitVec 5)
  | laneSpared (port : BitVec 4)
  | portTraining (port : BitVec 4) (accepts : BitVec 3) (channelRate : BitVec 2) (fabId fmId : U16) (reversed : Bool)
  | fecReplay (port : BitVec 4)
  | pathDown (port : BitVec 4) (dst : U16)
  | pathUp (port : BitVec 4) (dst : U16)
  -- Azmarlink packets received
  | read (port : BitVec 4) (h : PktHdr)
  | write (port : BitVec 4) (h : PktHdr) (data : List Byte)
  | writeMasked (port : BitVec 4) (h : PktHdr) (mask : U16) (maskHi : BitVec 112) (data : List Byte)
  | atomic (port : BitVec 4) (h : PktHdr) (operand compare : U64)
  | combined (port : BitVec 4) (h : PktHdr) (cs : List Constituent)
  | combineSetClose (fd : BitVec 1)
  | scOp (port : BitVec 4) (h : PktHdr) (value : U64)
  | msg (port : BitVec 4) (h : PktHdr) (payload : List Byte)
  | bulk (port : BitVec 4) (h : PktHdr) (pre : BulkPre) (data : List Byte)
  | drain (port : BitVec 4) (h : PktHdr)
  | readResp (port : BitVec 4) (h : PktHdr) (data : List Byte) (poison : List Bool)
  | ack (port : BitVec 4) (h : PktHdr)
  | atomicResp (port : BitVec 4) (h : PktHdr) (prior : U64)
  | nack (port : BitVec 4) (h : PktHdr) (status : U16)
  | drainReturn (port : BitVec 4) (h : PktHdr)
  -- Azmarlink sender and receiver timers
  | requestResend (dst : U16) (fd : BitVec 1) (seq : U32)
  | targetUnresponsive (dst : U16) (fd : BitVec 1) (seq : U32)
  | drainTimeout (dst : U16) (port : BitVec 4)
  | releasedDrain (dst : U16) (fd : BitVec 1)
  | unexpectedResend (dst : U16) (fd : BitVec 1) (seq : U32)
  | queuedRequestSend (dst : U16) (fd : BitVec 1)
  | replayCacheWaitRelease (fd : BitVec 1)
  -- collectives
  | collStart
  | collData (port : BitVec 4) (h : PktHdr) (ch : ChunkHdr) (data : List Byte)
  | collCredit (port : BitVec 4) (h : PktHdr)
  | collCtrl (port : BitVec 4) (h : PktHdr) (body : CollCtrlBody)
  | collComplete (group : BitVec 6) (collId : U32)
  | rebalanceReport (fd : BitVec 1) (queued : List Nat)
  -- power
  | allocation (m : PowerMeas)
  | powerOverLimit (inputW : Nat) (ms : List PhaseMeas)
  | phaseOccurrenceEnd (phase : BitVec 8) (ms : List PhaseMeas)
  | wakeGroupGrant
  | ceilingStep (die : BitVec 2)
  | droopStretch (t : TileId)
  | droopCutExpiry (die : BitVec 2)
  | paceRenewal
  | paceRelease (h : PktHdr) (body : PaceBody)
  | paceMessage (h : PktHdr) (body : PaceBody)
  | paceHoldExpiry (rank : U32) (phase : BitVec 8)
  | junctionTempSample (ad : List Nat) (fabric steering : Nat)
  | thermalCapStep (die : BitVec 2)
  | ageingCheck (slackLow : List (Nat × Nat))
  | wearRefresh (hoursOn : Nat) (eye : Nat)
  -- management messages and the Evfek ring
  | bind (src : MgmtSrc) (body : BindBody)
  | jobAbort (src : MgmtSrc) (epoch : U16)
  | launch (src : MgmtSrc) (body : LaunchBody)
  | hints (src : MgmtSrc) (first : U32) (pages : List U64)
  | attention (src : MgmtSrc) (ack : BitVec 8)
  | go (src : MgmtSrc)
  | unbind (src : MgmtSrc) (jobTag : U16)
  | limit (src : MgmtSrc) (watts : U16)
  | time (src : MgmtSrc) (origin correction : U64)
  | catchMsg (src : MgmtSrc) (matchTime : U64) (catchId : U32)
  | mgmtFragmentTimeout (txn : U32)
  | evfekCommand (h : EvfHdr) (cmd : EvfCmd)
  | evfekReply (h : EvfHdr) (status : U16)
  | evfekCatch (h : EvfHdr) (matchTime : U64) (catchId : U32)
  | evfekTime (h : EvfHdr) (origin correction : U64)
  | evfekResend
  | ringPairFailed (inbound : Bool) (pair : BitVec 1)
  -- time, catch and debug
  | ptpMessage (domain : BitVec 8) (locked : Bool) (timeNs : U64)
  | timeOutOfTolerance (offset : U32) (holdoverBeyond : Bool)
  | timeMatch
  | dbgChallenge
  | dbgUnlock (sig : List Byte)
  | holdWaterDeasserted
  | vinExcursionEnd
  | holdover
  | ppsOutPulse
  | replayHoldExpiry (fd : BitVec 1)
  -- further steps
  | scalarAccess (core : BitVec 8) (store : Bool) (log2 : BitVec 2) (rd rs1 : BitVec 5)
  | scalarFpOperation (core : BitVec 8) (op : FpOp) (fmt : FpFmt) (rd rs1 rs2 rs3 : BitVec 5)
  | copyDone (c : CmdCtx)
  | fwUpdateStaged (c : CmdCtx)
  deriving DecidableEq, Repr

end Sys2Proof
end

