-- ==== Sys2Proof/Decode.lean ====
section
/-! DEFINITION. Words to commands. The table of operations gives no row any bits, so no word spells a
command; the words that the package's own sequencers fetch (Tables 3.8 and 9.3) are encoded here. -/

namespace Sys2Proof

/-- The command that `nbits` bits of the table's numbering spell: none, since no row has bits. -/
def decodeTableWord (_nbits _w : Nat) : Option Instr := none

/-- A tile instruction word: CLASS [3:0], OP [11:4], SA [15:12], ARG0 [31:16], ARG1 [63:32], ARG2 [127:64] (Table 3.8). -/
def tileWord (cls op : Nat) (w : TWord) : Nat :=
  cls + op * 2 ^ 4 + w.sa.toNat * 2 ^ 12 + w.arg0.toNat * 2 ^ 16 + w.arg1.toNat * 2 ^ 32 + w.arg2.toNat * 2 ^ 64

/-- The sixteen bytes of a tile instruction word in memory, little-endian (R7). -/
def tileWordBytes (cls op : Nat) (w : TWord) : List Byte :=
  (List.range 16).map (fun i => BitVec.ofNat 8 (tileWord cls op w / 2 ^ (8 * i)))

/-- Operations of the element class (Table 5.4, Table 5.7). -/
def elementOps : List Nat :=
  [0x01, 0x02, 0x03, 0x04, 0x05, 0x06, 0x07, 0x08, 0x09, 0x0A, 0x0B, 0x0C, 0x0D, 0x10, 0x11, 0x12, 0x20, 0x21, 0x22, 0x23,
   0x24, 0x25, 0x26, 0x27, 0x28, 0x29, 0x2A, 0x2B, 0x30, 0x31, 0x32, 0x33, 0x34, 0x35, 0x38, 0x39, 0x3A]

/-- CLASS and OP name an instruction of Table 3.9. -/
def tileOpListed (cls op : Nat) : Bool :=
  match cls with
  | 0 => op ≤ 5
  | 1 => op == 1
  | 2 => elementOps.contains op
  | 3 => op == 1 || op == 2
  | 4 => 1 ≤ op && op ≤ 4
  | 5 => op == 1 || op == 2
  | _ => false

/-- A span instruction word: MAJOR [31:28], OP [27:22] with OP[5] the scalar form, EW, G, ZERO, KSEL, VS2, VS1, VD (Table 9.3). -/
def spanWord (major op : Nat) (w : VWord) : Nat :=
  major * 2 ^ 28 + (op % 64 + if w.scal then 32 else 0) * 2 ^ 22 + w.ew.toNat * 2 ^ 20 + w.g.toNat * 2 ^ 18 +
  (if w.zero then 2 ^ 17 else 0) + w.ksel.toNat * 2 ^ 15 + w.vs2.toNat * 2 ^ 10 + w.vs1.toNat * 2 ^ 5 + w.vd.toNat

/-- A word of major 0xB, 0xC or 0xD whose OP names no operation of Table 9.4 (R307, R308). -/
def unlistedSpanWord (v : Nat) : Bool :=
  let op := v / 2 ^ 22 % 64
  match v / 2 ^ 28 % 16 with
  | 0xB => 0x16 < op % 32
  | 0xC => (0x0B < op % 32 && op % 32 < 0x10) || 0x18 < op % 32
  | 0xD => !([0, 2, 3].contains op || (8 ≤ op && op ≤ 0x0E) || (0x10 ≤ op && op ≤ 0x18) || (0x20 ≤ op && op ≤ 0x27) || 0x30 ≤ op && op ≤ 0x37)
  | _ => false

end Sys2Proof
end

