-- ==== Sys2Proof/Config.lean ====
section
/-! DEFINITION. What an implementation fixes and the manual leaves open: the free values (opaque
constants with no body, applied to the operands they depend on or to the state's counter of free
values) and the uninterpreted primitives the manual names by an outside standard. -/

namespace Sys2Proof.Config

/-- A free 64-bit value: the n-th one that a run draws. FREE VALUE (log 6). -/
opaque freeBits : Nat → BitVec 64

/-- A free truth value: the n-th one that a run draws. FREE VALUE (log 6). -/
opaque freeBool : Nat → Bool

/-- Clocks that a timing counter adds, which the model leaves out. FREE VALUE (log 10). -/
opaque freeClocks : Nat → Nat

/-- Misses of the translation cache that an access to an address adds to their counter. FREE VALUE (log 10). -/
opaque xltMisses : (count va : Nat) → Nat

/-- Whether a BAR0 offset holds a register, in a window of Table 1.10 whose registers no chapter lists. FREE VALUE (log 43). -/
opaque unlistedRegister : (offset : Nat) → Bool

/-- Transcendental functions of the element engine within the bounds of Table 5.7: the result bits of
function number `f` in compute format `c` at the operand bits `x`. The same bits for the same input
(R184). FREE VALUE (log 9). -/
opaque transc : (f c : Nat) → (x : BitVec 64) → BitVec 64


/-- Ed448 signature under the identity key (R454): 114 bytes given by index. UNINTERPRETED (log 8). -/
opaque ed448SignByte : (context : String) → (msg : List (BitVec 8)) → (i : Nat) → BitVec 8

/-- Byte `i` of the 64 KiB that a buddy's store holds under a digest-list entry, where no store of the own package
holds it. FREE VALUE (log 29). -/
opaque buddyByte : (entry : List (BitVec 8)) → (i : Nat) → BitVec 8

/-- Sync counter `c` of a generation's counter block in a buddy's store, where the own package has not kept it.
FREE VALUE (log 29). -/
opaque buddyCounter : (gen c : Nat) → BitVec 64

/-- Whether a spare's buddy store holds a valid manifest of a generation. FREE VALUE (log 29). -/
opaque buddyHolds : (gen : Nat) → Bool

/-- The digest of a collective's agreeing fields (R404), of which the manual gives no function. UNINTERPRETED (log 28). -/
opaque collDigest : (fields : Nat) → BitVec 64

/-- Component i of a vector that a solve's method forms from what it has read and formed so far, `what` naming the vector: the
manual names the methods and does not give their recurrences bit by bit (R237-R251). FREE VALUE (log 11). -/
opaque znVector : (inputs : List (List (BitVec 64))) → (what i : Nat) → BitVec 64

/-- Component i of a preconditioner applied to a vector: half 0 before the matrix, half 1, of the symmetric methods, after it
(R237). FREE VALUE (log 11). -/
opaque znPrecond : (inputs : List (List (BitVec 64))) → (half i : Nat) → BitVec 64

/-- The column, if any, in which a factor that the manual does not give bit by bit finds no pivot (R245, R247). FREE VALUE (log 11). -/
opaque znPivotFails : (inputs : List (List (BitVec 64))) → Option Nat

/-- Where the contiguous slice of tile `t` of `tiles` ends in a vector of `n` elements (R239). FREE VALUE (log 11). -/
opaque znSliceEnd : (n tiles t : Nat) → Nat

/-- Byte i of the digest that members of a solve exchange (R263), of which the manual gives no function.
UNINTERPRETED (log 11). -/
opaque znDigestByte : (fields : List (BitVec 8)) → (i : Nat) → BitVec 8

/-- The DRAM row of a 4 KiB block of a stack, the fixed function of R325. FREE VALUE (log 20). -/
opaque rowOfBlock : Nat → Nat

/-- Whether a less-than comparison of a steering core raises invalid operation for a quiet NaN (R291, which does not
say). FREE VALUE (log 34). -/
opaque lessSignals : Bool

/-- Whether a fused multiply-add raises invalid operation for zero times infinity plus a quiet NaN, which the standard
leaves to the implementation (R291). FREE VALUE (log 34). -/
opaque fmaSignals : Bool

/-- Whether an index of VSHUF between SPAN and SPANMAX is out of range (Table 9.4, which does not say). FREE VALUE (log 34). -/
opaque shufflePastSpan : Bool

/-- The CRC-32 of R369 over a packet, whose polynomial and bit order the manual does not give (log 46). -/
opaque crc32 : (bytes : List (BitVec 8)) → BitVec 32

end Sys2Proof.Config
end

