-- ==== Sys2Proof/Machine/State.lean ====
section
/-! DEFINITION. The state of one TN8 package as plain data: everything the manual gives it, the queue
of waiting commands, what it has sent to its surroundings, and the host memory that its rings lie in. -/

namespace Sys2Proof.Machine

/-! ## Stops -/

/-- Why the machine stops with a fault: never. Every refusal the manual gives the package completes
with a status code (R11) in a next state, so this type has no constructor. Raised by nobody; safe. -/
inductive Fault where
  deriving DecidableEq, Repr

/-- Why a command has no meaning. -/
inductive Refusal where
  /-- Raised by an arm of `exec` for a row that has no meaning yet; no arm does so. Safe: the machine stops. -/
  | notModelled (mnemonic : String)
  deriving DecidableEq, Repr

/-! ## Memories -/

/-- A sparse byte memory: addresses strictly rising, no zero byte listed (log 4, log 5). -/
abbrev Memory := List Host.Cell

/-- The BAR0 register file: offsets strictly rising, no register at its reset value listed. -/
abbrev RegFile := List (Nat × U32)

/-- A mark on a 128-byte line of stack memory (R333, R334). -/
inductive LineMark where
  | poisoned
  | lost
  deriving DecidableEq, Repr

/-! ## Tiles -/

/-- Why a tile-store line is poisoned (R109). -/
inductive PoisonKind where
  | source      -- filled by DMA_IN from a poisoned source (R112)
  | storeError  -- uncorrectable tile-store error (R108)
  deriving DecidableEq, Repr

/-- STATE of TILE_STATUS (Table 3.13). -/
inductive TilePhase where
  | idle | running | stopped | faulty
  deriving DecidableEq, Repr

/-- An active LOOP (R117): the address of its first body instruction, the address after its last, and
the runs of the body left after the current one. -/
structure LoopFrame where
  first : U64
  stop  : U64
  left  : U64
  deriving DecidableEq, Repr

/-- A launch of a script on a tile (R114). `cmd` indexes the TILE_RUN it belongs to. -/
structure TileLaunch where
  script     : U64
  args       : List U64
  clearFlags : Bool
  phase      : BitVec 8
  cmd        : CmdCtx
  order      : Nat
  deriving DecidableEq, Repr

/-- A tile-store byte range: first byte and length. -/
structure Span where
  base : Nat
  len  : Nat
  deriving DecidableEq, Repr

/-- A DMA transfer under way (R111), with its descriptor as read at dispatch: a local one with the index of its
next piece, a remote one with the number of its packets not yet answered. -/
structure DmaXfer where
  out      : Bool
  vaddr    : U64
  memPitch : U64
  remote   : Option U16      -- the target member's fabric identifier
  rows     : Nat
  rowBytes : Nat
  tsAddr   : Nat
  tsPitch  : Nat
  next     : Nat
  left     : Nat
  poisoned : List Nat        -- tile-store lines that have received poisoned bytes (R112)
  fence    : List (Nat × U32)   -- of a DMA_OUT to a member, the next SEQ of its spaces once all was sent (R383)
  landed   : List Span       -- tile-store ranges that a DMA_IN has written (R108)
  undo     : List (Nat × List Byte × List Byte)   -- lines of a DMA_OUT as before and as written, for an abort (R125)
  deriving DecidableEq, Repr

/-- An instruction dispatched and not completed (R120). -/
structure InFlight where
  unit   : TileUnit
  id     : Nat
  pc     : U64
  reads  : List Span
  writes : List Span
  dma    : Option DmaXfer
  deriving DecidableEq, Repr

/-- One physical tile (R90-R131). -/
structure Tile where
  phase       : TilePhase
  zeroing     : Bool
  poisonSeen  : Bool
  sregs       : List U64
  store       : Memory
  poison      : List (Nat × PoisonKind)
  pc          : U64
  loops       : List LoopFrame
  running     : Option TileLaunch
  waiting     : List TileLaunch
  wait        : Option (Nat × U64)     -- the counter and value of a pending SC_WAIT (R122)
  stopping    : Option (U16 × U64)     -- status and address of a stop that waits for dispatched instructions (R124)
  inflight    : List InFlight
  nextId      : Nat
  outIndex    : Nat
  outIndexEwl : Nat
  rowPending  : List (Nat × Nat)    -- (bank, group) awaiting replacement (R130)
  corrected   : List (Nat × U64)    -- (row group key, time) of corrected errors (R130)
  latent      : List (Nat × Bool)   -- hidden sector errors: (sector, uncorrectable)
  checkFault  : Bool                -- a residue mismatch that the next product finds (R131)
  parityFault : Bool                -- a parity mismatch in the sequencer's queues that its next dispatch finds (R131)
  used        : Bool                -- the bound job has used this tile (R110)
  reserved    : Option Nat          -- acceptance number of the SOLVE that holds it (R220)
  deriving DecidableEq, Repr

/-! ## Steering cores -/

/-- STATE of STR_CORE_STATUS (Table 9.8). -/
inductive CorePhase where
  | idle | running | stopped | faulty | held
  deriving DecidableEq, Repr

/-- What the supervisor resolves before it returns with SUPRET (R297, R298): vector use while VEN is clear, a page
that restore has not brought in, or an interrupt. -/
inductive CoreTrap where
  | ven
  | page (va : Nat)
  | irq
  deriving DecidableEq, Repr

/-- One logical steering core (R285-R322). -/
structure Core where
  phase    : CorePhase
  g        : List U64
  f        : List U64
  v        : List (BitVec 512)
  k        : List (BitVec 512)
  spanLen  : Nat
  vresumeU : Nat
  vresumeS : Nat
  vused    : U64
  ven      : Bool
  fpmode   : U64
  pc       : U64
  trap     : Option CoreTrap      -- the supervisor handles a trap (R297, R315)
  outer    : List CoreTrap        -- traps whose handling that of `trap` has interrupted, innermost first (R318)
  stackTop : U64                  -- STACK of STEER_RUN (R286)
  cmd      : Option CmdCtx
  tilePhaseId : BitVec 8
  scWait   : Option (Nat × U64)
  ack      : Option U64           -- address of an SCADD or SCSET whose acknowledgement is awaited (R295)
  irqAt    : Option Nat           -- an interrupt to be taken at the pass that begins with this element (R318)
  undo     : List (Nat × List (List Byte))   -- lines that its program has written: as before it, and after each store (R289)
  used     : Bool
  deriving DecidableEq, Repr

/-! ## Stacks and translation -/

/-- One stack controller (R324-R349), beside its registers. -/
structure Stack where
  trained     : Bool
  metering    : Bool
  hotStop     : Bool
  selfRefresh : Bool
  modeActive  : Bool               -- MEM_THERM_MODE in effect since the last bind (R341)
  refreshMul  : Nat
  blockMap    : List (Nat × Nat)   -- retired block and the reserve block that serves it (R344)
  retiring    : List Nat           -- blocks whose retirement is decided and not done
  history     : List (Nat × Nat × U64)   -- (block, kind 0 corrected 1 mismatch, time) (R344)
  inPlace     : List Nat           -- blocks that could not be retired (R348)
  foundEmpty  : Bool               -- a retirement has found the reserve empty (R348)
  repairRows  : List Nat           -- rows queued for post-package repair (R347)
  repairsDone : Nat
  deriving DecidableEq, Repr

/-- Stack memory, its line marks, the translation table and dirty tracking (chapter 10). -/
structure Mem where
  bytes      : Memory
  marks      : List (Nat × LineMark)     -- by line number (address / 128)
  latent     : List (Nat × Bool)         -- hidden line errors: (line, uncorrectable)
  eventLines : List Nat                  -- ACT lines whose 0x4207 has been raised
  stackCtl   : List Stack
  xlt        : List (Nat × U64)          -- page number and entry (Table 10.3)
  withdrawn  : List Nat                  -- withdrawn frames
  dirty      : List Nat                  -- live dirty granules (R350)
  ckptPend   : List Nat                  -- pending granules (R352)
  staging    : List (Nat × Memory)       -- captured pre-images by granule (R353)
  stalled    : List (Nat × List Byte)    -- writes waiting for a staging slot (R355)
  windowOpen : Bool
  counterSnap : List (Nat × U64)         -- sync counters latched at SNAP
  restorePending : List Nat              -- pages (R489)
  rollback   : List Nat                  -- job virtual granules of the rollback map (R468)
  deriving DecidableEq, Repr

/-! ## The job -/

/-- How far a launch has come (R493-R497). -/
inductive LaunchPhase where
  | bound | launched | ready | running
  deriving DecidableEq, Repr

/-- The bound job (R444, R588, R493). -/
structure Job where
  tag       : U16
  epoch     : U16
  rank      : Nat
  members   : List U16
  phase     : LaunchPhase
  launch    : Option LaunchBody
  image     : Option (List Byte)
  forwarded : Bool
  forwardedAt : U64                                -- when the image went to the children (R495)
  childAcks : List Nat
  hintPages : List (Nat × U64)
  timeSeed  : U64
  programDigest : List Byte
  shrunk    : Bool
  oldMembers : Nat
  deriving DecidableEq, Repr

/-- The stroke count and the stroke barrier (R269-R276). -/
structure Stroke where
  count    : U64
  entered  : Option (CmdCtx × U64)     -- the outstanding STROKE_END and the stroke it ends
  after    : List CmdCtx               -- commands submitted before it and not completed (R271)
  arrived  : Bool
  slowSent : Bool
  secondRound : Bool
  deriving DecidableEq, Repr

/-! ## Sync counters -/

/-- A pending wait (R435). -/
structure Wait where
  who     : Waiter
  counter : Nat
  value   : U64
  polled  : Bool
  deriving DecidableEq, Repr

/-- The 16,384 sync counters and their waits (R432-R436). -/
structure SyncState where
  counters : List (Nat × U64)
  waits    : List Wait
  wrapped  : List Nat
  deriving DecidableEq, Repr

/-! ## Azmarlink -/

/-- Packet types (Table 11.5). -/
inductive PktType where
  | read | write | writeMasked | atomic | scOp | msg | bulk | drain
  | readResp | ack | atomicResp | nack | drainReturn
  | collData | collCredit | collCtrl
  deriving DecidableEq, Repr

/-- What a sent request belongs to, so that its response completes it. -/
inductive Origin where
  | none
  | tileDma (t : TileId) (id packet : Nat)
  | tileSync (t : TileId) (id : Nat)
  | host (c : CmdCtx)
  | core (c : BitVec 8)
  | ckpt (granule : Nat)
  | coll (group : Nat) (id : U32)
  deriving DecidableEq, Repr

/-- A VC0 request of the sender (R377). -/
structure TxReq where
  typ     : PktType
  hdr     : PktHdr
  data    : List Byte
  origin  : Origin
  port    : Nat
  slot    : Nat
  resends : Nat
  sentAt  : U64                                    -- when it was first sent (R380)
  deriving DecidableEq, Repr

/-- The sequence space toward one destination's fabric die: `fd` 0 and 1 for VC0, 2 and 3 for VC3 (R377, R431). -/
structure TxSpace where
  dst      : U16
  fd       : Nat
  next     : U32
  out      : List TxReq
  queued   : List TxReq
  carried  : U32              -- RELEASED as the last packet of the space carried it
  lastPort : Nat
  deriving DecidableEq, Repr

/-- A receiver's window for one source and space, numbered as at the sender (R378, R431). -/
structure RxSpace where
  src    : U16
  fd     : Nat
  below  : Nat
  window : List Nat
  nacked : List (Nat × Nat)   -- SEQ and status of requests that used their number and were refused
  deriving DecidableEq, Repr

/-- A replay-cache entry (R379). -/
structure ReplayEntry where
  src      : U16
  fd       : Nat
  seq      : Nat
  prior    : U64
  at_      : U64
  released : Bool
  deriving DecidableEq, Repr

/-- A READ of one line in progress at a fabric die, which identical ones join: the line's number, its data, and when it
arrived (R386). -/
structure ReadEntry where
  fd     : Nat
  tag    : U16
  epoch  : U16
  line   : Nat
  data   : List Byte
  poison : List Bool
  at_    : U64
  deriving DecidableEq, Repr

/-- A combined set of FADD or FADDF operations (R387). -/
structure CombineSet where
  fd     : Nat
  word   : Nat
  op     : Nat
  vaddr  : U64
  ops    : List (U16 × U32 × U64 × Nat)   -- source, SEQ, operand, port
  deriving DecidableEq, Repr

/-- One port and its lanes (R359-R366). -/
structure Port where
  up        : Bool
  disabled  : Bool
  rate      : Nat
  width     : Nat
  lanes     : List Nat        -- connector lane carrying each port lane; 31 for none
  failed    : List Nat        -- failed connector lanes of this port
  sparing   : Option Nat      -- the port lane being spared
  spareUsed : Bool            -- the spare lane is one of the lanes in use (SPARE_USED, R364)
  spareOwned : Bool           -- the port has used its spare lane (R364)
  pathDown  : List U16        -- destinations whose PATH_DOWN stands (R366)
  deriving DecidableEq, Repr

/-- A drain under way toward a destination on an old port (R384). -/
structure DrainState where
  dst   : U16
  port  : Nat
  slots : List Nat
  held  : List TxReq
  since : U64                                      -- when its DRAIN was sent (R385)
  deriving DecidableEq, Repr

/-- A posted receive (R390). -/
structure Recv where
  queue : Nat
  buf   : U64
  tag   : U64
  mask  : U64
  bytes : Nat
  cmd   : CmdCtx
  deriving DecidableEq, Repr

/-- A message kept in the unexpected store (R391). -/
structure Unexpected where
  queue   : Nat
  tag     : U64
  src     : U16
  payload : List Byte
  deriving DecidableEq, Repr

/-- Azmarlink state of both fabric dies (chapter 11). -/
structure Fabric where
  ports      : List Port
  flySeated  : List Bool
  tx         : List TxSpace
  rx         : List RxSpace
  replay     : List ReplayEntry
  sets       : List CombineSet
  reads      : List ReadEntry                     -- one-line READs in progress (R386)
  cacheWait  : List (Nat × PktHdr × U64 × U64)    -- atomics waiting for the replay cache
  cacheFull  : List Nat                           -- fabric dies whose cache is full
  drains     : List DrainState
  drainsOut  : List (U16 × Nat × Bool)            -- DRAINs not answered: destination, port, for a path change (R384)
  unresponsive : List U16
  recvs      : List Recv
  unexpected : List Unexpected
  unexpFull  : Bool
  msgBusy    : List (U16 × U32)                   -- messages NACKed with 0x831B
  earlyMsgs  : List (Nat × PktHdr × List Byte)    -- held until their SEQ order (R390)
  bulkRegs   : List (Nat × U64 × U64)             -- key, address, bytes (R392)
  bulkCount  : List (U16 × U32 × Nat)             -- lines written per source and transfer (R393)
  bulkPuts   : List (CmdCtx × U16 × U32 × Nat)    -- own transfers and lines not acknowledged
  wardRecs   : List (Nat × Nat × Memory)          -- the ward's transfers under way: transfer, lowest offset, bytes (R483)
  deriving DecidableEq, Repr

/-! ## Collectives -/

/-- A collective descriptor (Table 12.2). -/
structure CollDesc where
  descType : Nat
  version  : Nat
  collId   : U32
  op       : Nat
  dtype    : Nat
  redop    : Nat
  flags    : Nat
  group    : Nat
  root     : Nat
  count    : Nat
  src      : Nat
  dst      : Nat
  counts   : Nat
  recvCounts : Nat
  work     : Nat
  workBytes : Nat
  dstBytes : Nat
  partStride : Nat
  result   : Nat
  chunkLog2 : Nat
  partsPerDie : Nat
  startCnt : Nat
  notifyCnt : Nat
  resNonzero : Bool
  startValue : U64
  deriving DecidableEq, Repr

/-- What packets have brought for a collective key, by the rank of their sender (R404, R420, R425, R431). -/
structure CollIn where
  group    : Nat
  id       : U32
  digests  : List (Nat × U64)
  credits  : List (Nat × Nat)                      -- rank and chunk that it may be sent
  pieces   : List (Nat × Nat × Nat × List Byte)    -- child, level, element offset, bytes, in the order of arrival
  counts   : List (Nat × Nat × U64)                -- rank, index in its COUNTS, count
  exps     : List (Nat × Nat × List U16)           -- rank, element offset, exponents
  verdicts : List (Nat × U16)
  arrived  : List Nat
  mismatch : Bool
  lists    : List (Nat × U64)                      -- rank, digest of its list of the group (R401)
  told     : List Nat                              -- ranks told that their list differs from the own one
  deriving DecidableEq, Repr

/-- An accepted collective of this member (R404-R408). -/
structure CollRun where
  desc     : CollDesc
  cmd      : CmdCtx
  batch    : Option Nat
  ranks    : List Nat               -- the group's ranks at acceptance
  after    : List CmdCtx            -- commands that a BARRIER waits for (R409)
  started  : Bool
  source   : List Byte              -- the source as read at the start, TILE_SCOPE parts in order
  counts   : List Nat               -- own COUNTS (OP 6-8)
  checked  : Bool                   -- the own count check has been made (R426)
  moving   : Bool                   -- the count phase is over, and data moves
  fail     : Nat                    -- the status that ends it; 0 for none
  warned   : Bool                   -- 0x0140 (R417)
  granted  : List (Nat × Nat)       -- credits given: rank and chunk (R420)
  sentTo   : List (Nat × Nat)       -- data sent: rank and chunk
  claims   : List (Nat × Option Nat × Nat)    -- chunk, fabric die of its slots (none on the endpoint path), slots
  done     : List Nat               -- chunks written to DST
  refused  : Bool                   -- a packet of it was answered with a NACK
  recvTotal : Nat
  chunks   : Nat
  endpoint : Nat
  rebalanced : Nat
  nonfinite : Nat
  saturated : Nat
  esumLoss : Nat
  esumDropped : Nat
  tAccept  : U64
  deriving DecidableEq, Repr

/-- A batch of collectives (R427). -/
structure Batch where
  number    : Nat
  batchId   : U32
  cmd       : CmdCtx
  startCnt  : Nat
  notifyCnt : Nat
  startValue : U64
  result    : Nat
  deriving DecidableEq, Repr

/-- The collective engine (chapter 12). -/
structure CollEngine where
  groups   : List (Nat × List Nat)
  runs     : List CollRun           -- accepted, in acceptance order
  batches  : List Batch
  inbox    : List CollIn
  slots    : List Nat               -- slots in use per fabric die
  dry      : Bool                   -- slots have run out (R423)
  queued   : List Nat               -- VC3 bytes queued per port, as last reported (R424)
  nextBatch : Nat
  deriving DecidableEq, Repr

/-! ## Zenle -/

/-- A matrix header (Table 7.1). -/
structure MatHdr where
  form   : Nat
  block  : Nat
  rows   : Nat
  nnzb   : Nat
  rowptr : Nat
  colidx : Nat
  values : Nat
  pitch  : Nat
  deriving DecidableEq, Repr

/-- A SOLVE descriptor (Table 7.4). -/
structure SolveDesc where
  descType : Nat
  version  : Nat
  solveId  : U32
  method   : Nat
  precond  : Nat
  restartM : Nat
  flags    : Nat
  matrix   : Nat
  rhs      : Nat
  x        : Nat
  work     : Nat
  workBytes : Nat
  result   : Nat
  warm     : Nat
  varId    : Nat
  conId    : Nat
  con      : Nat
  cost     : Nat
  mCons    : Nat
  deadline : U64
  reserveNs : Nat
  maxIter  : Nat
  tolRel   : U64
  tolAbs   : U64
  tolInfeas : U64
  chebMin  : U64
  chebMax  : U64
  firstTile : Nat
  tileCount : Nat
  dieMask  : Nat
  chebDegree : Nat
  members  : Nat
  leadRank : Nat
  rowFirst : Nat
  resNonzero : Bool
  deriving DecidableEq, Repr

/-- How far a SOLVE has come. -/
inductive SolvePhase where
  | held | rendezvous | running | ended
  deriving DecidableEq, Repr

/-- An accepted SOLVE (R218-R266), with its inputs as read when it starts (log 11). -/
structure Solve where
  desc     : SolveDesc
  raw      : List Byte         -- the descriptor as read at acceptance
  cmd      : CmdCtx
  number   : Nat               -- acceptance number
  phase    : SolvePhase
  core     : Option Nat        -- the logical core that it holds
  tAccept  : U64
  arrived  : U64               -- when it came to its rendezvous (R263)
  need     : Nat               -- WORK_NEEDED (R236)
  rows     : Nat               -- block rows held by this member
  n        : Nat               -- scalar rows or variables of this member
  mat      : List (List (Nat × U64))   -- scalar rows of the matrix, of every member once they have met: column and value
  qRows    : List (List (Nat × U64))   -- scalar rows of Q (METHOD 8)
  matBytes : Nat
  rhs      : List U64
  cost     : List U64          -- c (METHOD 8)
  own      : List Nat          -- places of this member's rows in the vectors of the solve
  parts    : List (List Nat)   -- the same of every member, in ascending solve rank
  ranges   : List U64          -- first row and rows of every member, on which bits may depend (R222)
  poison   : Nat               -- the status of a poisoned or lost input, 0 for none (R244)
  go       : Bool              -- the lead member's last decision (R264)
  ownSig   : List Byte
  signature : List Byte
  wsResult : Nat
  wsMapped : Nat
  hist     : List (List U64)   -- b, the point and the residual that the method last started from, and the products since (R237, R238)
  recRes   : List U64          -- the recurrence residual
  cycle    : Nat               -- iterations since the method last started
  start    : List U64          -- the starting point
  x        : List U64          -- current iterate
  best     : List U64
  bestIter : Nat
  bestNorm : U64
  recNorm  : U64
  rhsNorm  : U64
  rNorm    : U64               -- residual norm of the current iterate of a refinement
  merit    : U64               -- merit of the returned iterate of an interior-point solve
  bestRes  : List U64          -- its primal and dual residuals and its gap
  iter     : Nat
  restarts : Nat
  failedVer : Nat
  breakdowns : Nat             -- BiCGSTAB breakdowns since the last new best iterate
  slow     : Nat
  fallback : Bool              -- the factor of a refinement is in FP64
  normal   : Bool              -- METHOD 8 factorises the normal equations (R249)
  panelsDone : Nat
  panelsTotal : Nat
  unit     : ZnUnit            -- the unit of work under way
  status   : U16
  deadlineStop : Bool
  faultIndex : U64
  gap      : U64
  primal   : U64
  dual     : U64
  lastUnit : List (Nat × Nat)  -- last duration by kind of unit
  spent    : Nat               -- duration of the panels of the iteration under way (METHOD 8)
  lastResidual : Option Nat
  deriving DecidableEq, Repr

/-- An assembly descriptor (Table 7.2). -/
structure AsmDesc where
  asmId    : U32
  program  : Nat
  count    : Nat
  dies     : Nat
  block    : Nat
  nx       : Nat
  ny       : Nat
  nz       : Nat
  header   : Nat
  rhs      : Nat
  rowFirst : Nat
  rowCount : Nat
  deriving DecidableEq, Repr

/-- An accepted assembly (R224-R233): its descriptor and the entries of its program. -/
structure Assembly where
  desc    : AsmDesc
  cmd     : CmdCtx
  entries : List (List Byte)
  deriving DecidableEq, Repr

/-- Zenle (chapter 7). -/
structure Zenle where
  solves     : List Solve
  assemblies : List Assembly
  nextNumber : Nat
  deriving DecidableEq, Repr

/-! ## Host interface -/

/-- A completion entry before it is written (Table 16.4). -/
structure Completion where
  ctx    : CmdCtx
  status : U16
  value  : U64
  head   : U32
  tEnd   : U64
  deriving DecidableEq, Repr

/-- A submission ring, host (0-63) or internal (64-127), beside its registers (R547, R562). -/
structure SubRing where
  head    : U32
  tail    : U32
  state   : Nat                       -- 0 disabled, 1 running, 2 stopped
  stop    : U16
  phaseId : BitVec 8
  fetched : List (U32 × List Byte)    -- entries fetched and not yet accepted
  base    : U64                       -- internal rings only
  log2    : Nat
  cq      : Nat
  doorbell : U64
  closing : Bool
  deriving DecidableEq, Repr

/-- A completion ring, host or internal (R548, R564, R570). -/
structure CompRing where
  tail     : U32
  head     : U32
  held     : List Completion
  stopped  : Bool
  stop     : U16
  unsignalled : Nat
  firstAt  : U64
  enabled  : Bool                     -- internal rings only
  base     : U64
  log2     : Nat
  doorbell : U64
  notify   : U16
  deriving DecidableEq, Repr

/-- A command accepted and not completed (R557). -/
structure OutCmd where
  ctx     : CmdCtx
  opcode  : Nat
  started : Bool
  phase   : BitVec 8
  discard : Bool                      -- its completion is discarded after a function reset (R544)
  deriving DecidableEq, Repr

/-- A TILE_RUN under way: launches left, and the first tile in order that did not end OK (R558). -/
structure TileRunState where
  cmd    : CmdCtx
  left   : Nat
  worst  : Option (Nat × TileId × Nat × U16)    -- order, tile, logical index, status
  deriving DecidableEq, Repr

/-- A COPY under way (R559): the operands, with the address the next line is taken from. -/
structure CopyState where
  cmd  : CmdCtx
  src  : U64
  dst  : U64
  left : Nat
  status : Nat
  deriving DecidableEq, Repr

/-- An accepted AUDIT (R450-R453): its descriptor as read at acceptance. -/
structure AuditState where
  cmd  : CmdCtx
  flags : Nat
  resV : U64
  resB : U64
  wV   : U64
  wB   : U64
  iV   : U64
  iB   : U64
  out  : U64
  deriving DecidableEq, Repr

/-- A SYNC_OP accepted and waiting for the commands before it on its ring (R560). -/
structure SyncOpState where
  cmd     : CmdCtx
  setOp   : Bool
  target  : Option U16
  counter : Nat
  value   : U64
  deriving DecidableEq, Repr

/-- The host interface (chapter 16). -/
structure Hif where
  sqs      : List (Nat × SubRing)
  cqs      : List (Nat × CompRing)
  evqTail  : U32
  evqHead  : U32
  evqHeld  : Nat                      -- events lost since the last EVENT_OVERFLOW record
  evqLost  : U64
  evqStopped : Bool                   -- enabled with a bad configuration (R546)
  evqUnsignalled : Nat
  evqFirstAt : U64
  idle     : Bool
  idleSeq  : U32
  lastChange : U64
  summarySeq : U32
  eventCounts : List (U32 × U16)      -- families 0x41 to 0x49: count and last code
  outCmds  : List OutCmd
  tileRuns : List TileRunState
  copies   : List CopyState
  audits   : List AuditState
  syncOps  : List SyncOpState
  deriving DecidableEq, Repr

/-! ## Power and time -/

/-- What the controller has learned of a phase of a program on a die (R518), in milliwatts. -/
structure Demand where
  program : List Byte
  phase   : BitVec 8
  die     : Nat
  demand  : Nat
  sum     : Nat
  high    : Nat
  seen    : Nat
  deriving DecidableEq, Repr

/-- A pace limit that this member follows (R525). -/
structure PaceLimit where
  rank  : U32
  phase : BitVec 8
  point : Nat
  ends  : U64                         -- when HOLD_MS has passed without renewal
  deriving DecidableEq, Repr

/-- The power controller (chapter 15), beside its registers. -/
structure Power where
  holdCount   : Option U64            -- when the 10 ms count after a deassertion began, while it runs (R528)
  demands     : List Demand
  programs    : List (List Byte)      -- the last 16 programs bound, newest first
  target      : List Nat              -- ceilings set by the latest allocation
  thermalCap  : List Nat
  trims       : List (Nat × Nat)      -- island and trim in steps of 2.5 mV (R531)
  trimLoss    : List (Nat × Nat)      -- island and points withdrawn (R532)
  actual      : List Nat              -- the point each die's islands have stepped to (R519)
  awake       : Nat                   -- wake groups awake, 0 to 8 (R519)
  ballast     : Nat
  droops      : List (Nat × Nat × List U64)   -- die, tile, times of stretches (R522)
  droopCut    : List (Nat × Nat × U64)    -- die and tile whose cut is in force, and since when (R522)
  followed    : List PaceLimit
  paceSent    : List (BitVec 8)       -- phases with a pace message in force
  paceLast    : List (BitVec 8 × U64) -- when the last pace message of a phase left (R523)
  temps       : List Nat              -- last hottest island of each arithmetic die, in °C (R529)
  history     : List (Nat × List Nat) -- daily wear values per indicator (R534)
  eolWarned   : Bool
  vinExcursion : Bool
  deriving DecidableEq, Repr

/-- The time unit (R591-R595). -/
structure Time where
  now     : U64
  locked  : List TimeSrc
  source  : Option TimeSrc
  ppsSeen : Bool
  slew    : Int                       -- offset that slewing has still to remove, in ns (R595)
  slewAcc : Nat                       -- ticks since slewing last changed the count
  lostAt  : U64                       -- when holdover began (R595)
  deriving DecidableEq, Repr

/-! ## Security, firmware and flash -/

/-- A firmware image: header and payload (Table 17.4). -/
structure Image where
  magicOk    : Bool
  component  : Nat
  stepping   : BitVec 8
  version    : U32
  secVersion : U32
  length     : Nat
  digest     : List Byte
  header     : List Byte              -- bytes 0x000 to 0x05F, which the signatures cover
  beygilSig  : List Byte
  ownerSig   : List Byte
  payload    : List Byte
  factory    : Bool                          -- written at manufacture, so it verifies (R622)
  deriving DecidableEq, Repr

/-- A firmware bank: its commit record's SEQ when committed, and its three images (R576, R579). -/
structure Bank where
  seq    : Option U64
  images : List Image
  deriving DecidableEq, Repr

/-- What the SPI flash and the fuses keep across the removal of VIN (Table 17.2, R580, R460). -/
structure Flash where
  banks       : List Bank
  journal     : List (U32 × U32 × U16)       -- journal sequence, rigger entry, reason (R583)
  blockMaps   : List (List (Nat × Nat))
  withdrawn   : List Nat                     -- 2 MiB frames withdrawn for good, kept with the block maps (R349)
  trims       : List (Nat × Nat)
  ownerKey    : List Byte
  ownerPolicy : U32
  ownerSeq    : U64
  ownerConfig : List (Nat × U32)
  ownerConfigRaw : List Byte
  configSeq   : U64
  bootCount   : U64
  identityPub : List Byte
  certificate : List Byte
  rollback    : List Nat
  openedEver  : Bool
  grade120    : Bool
  repairs     : List Nat
  firmwareKey : List Byte
  dirty       : Bool                         -- changes not yet written (R345)
  deriving DecidableEq, Repr

/-- Security and firmware state of this boot (R454-R461, R572-R582, R599-R600). -/
structure Security where
  devOpen     : Bool
  ownerKey    : List Byte                    -- in effect since the power-up (R456)
  ownerPolicy : U32
  fwVerified  : List Bool
  fwDigests   : List (List Byte)
  bank        : Nat
  fallback    : Bool
  romRecovery : Bool
  bootStatus  : U16
  debugOpen   : Bool
  challenge   : Option (List Byte)
  dbgStatus   : U16
  updating    : Option (CmdCtx × List Image)
  deriving DecidableEq, Repr

/-! ## The rigger table, pins, checkpoints, bridges -/

/-- The rigger table (R34-R38, Table 1.13): for every logical unit the physical unit that serves it. -/
structure Rigger where
  tiles      : List (List (Option Nat))
  cores      : List (Option Nat)
  lanes      : List (List (Option Nat))
  wireSubs   : List (Nat × Nat × Nat)        -- bridge, data wire, position that carries it
  wireLost   : List (Nat × Nat)              -- data wires with no wire
  groupsOff  : List (Nat × Nat)              -- bridge and group disabled (R19)
  rowGroups  : List (Nat × Nat × Nat × Nat)  -- die, tile, bank, group served by the spare group
  failed     : List UnitRef                  -- failed units
  awaiting   : List UnitRef                  -- failed while a job is bound (R37)
  unwritten  : List (U32 × U16)              -- changes not yet appended to the journal (R583)
  deriving DecidableEq, Repr

/-- Pins and straps (R573, R593, R606-R608, R614). -/
structure Pins where
  powered   : Bool
  pkgReady  : Bool
  perst     : Bool
  holdWater : Bool
  bypassOpen : Bool
  sledPos   : BitVec 2
  pairsIn   : List Bool
  pairsOut  : List Bool
  deriving DecidableEq, Repr

/-- A store slot of the own checkpoint data (Tables 14.4, 14.5): the generation its manifest holds, when valid. -/
structure StoreSlot where
  gen    : Option U64
  nondet : Nat                               -- NONDET of its manifest (R449)
  stroke : U64
  digests : List (Nat × List Byte)           -- digest-list entries by granule of the durable range, zero entries unlisted
  counters : List (Nat × U64)                -- its counter block
  deriving DecidableEq, Repr

/-- The checkpoint firmware (R466-R500). -/
structure Ckpt where
  buddy       : List StoreSlot
  host        : List StoreSlot
  gen         : U64
  genStroke   : U64
  inProgress  : Option U64
  snapStroke  : U64
  snapNondet  : U64
  requested   : Bool
  lastSnap    : U64
  strokesSince : U64
  copied      : List Nat                     -- job virtual granules copied since the last commit (R468)
  received    : List Nat                     -- granules of the durable range copied in this generation
  windowClosed : Bool
  primaryOk   : Bool
  secondaryBad : Bool                        -- a write to the buddy store as the secondary did not complete (R480)
  unprotected : Bool
  restoring   : Bool
  restoreFailed : Bool
  reseeding   : Bool
  hostSlot    : Bool
  manifestDone : Bool                        -- steps 6 and 7 of Table 14.6 are over
  buddyId     : Option U16                   -- fabric identifier of the buddy (R500)
  blind       : Bool                         -- the lists of G* lie in a buddy store whose contents the model does not know
  fetches     : List (Nat × Bool)            -- pages being restored, and whether on demand (R491)
  wardBad     : Bool                         -- a record of the ward did not decode (R480, R484)
  wardGot     : List Nat                     -- granules of the ward received in this generation (R479)
  deriving DecidableEq, Repr

/-- Bridge retries by bridge and wire, with their times, and the wire being repaired (R17-R19). -/
structure Bridges where
  retries  : List (Nat × Nat × List U64)
  repairing : List (Nat × Nat)
  deriving DecidableEq, Repr

/-- Evfek ring and management assembly (R584-R588). -/
structure Mgmt where
  lastSeq    : List (BitVec 8 × BitVec 8 × U16)   -- sender, SEQ applied, its reply status
  partials   : List U32                            -- TXN of messages partly assembled
  outCmds    : List (BitVec 8 × Nat × U64)         -- the PMC's commands without a reply: SEQ, resends, last sent at (R586)
  nextSeq    : BitVec 8
  heartbeats : List Nat                            -- missed heartbeats per die supervisor
  faultyDies : List Nat
  firstFault : Bool                                -- a package fault found at power-up waits for the first heartbeat (R574)
  dropped    : Nat
  deriving DecidableEq, Repr

/-! ## What the package sends -/

/-- What the package gives its surroundings, oldest first in `State.sent` (log 12). -/
inductive Out where
  | regData (off : Nat) (v : U32)
  | bar2Data (addr : U64) (data : List Byte) (ep : List Bool)
  | interrupt (vector : Nat)
  | packet (port : Nat) (typ : PktType) (h : PktHdr) (data : List Byte) (poison : List Bool)
  | heartbeat (port : Nat) (body : List Byte)
  | report (code : U16) (addr data : U64)
  | mgmtReply (kind : BitVec 8) (status : U16)
  | attention (toFm : Bool) (rank : Nat)
  | image (toRank : Nat)
  | childMissing (rank : Nat)
  | evfReply (dst seq : BitVec 8) (status : U16)
  | evfCommand (seq : BitVec 8)
  | evfForward (h : EvfHdr)
  | pace (rank : Nat) (release : Bool) (body : PaceBody)
  | pps
  | dbgChallenge (bytes : List Byte)
  | dbgStatus (status : U16)
  | strokeArrive (stroke : U64)
  | znMeet (solveId : U32) (digest : List Byte) (rowFirst rows : U64) (sig : List Byte)
  | znDecide (solveId : U32) (go : Bool)
  | storesReport (slots : List (Option U64 × Nat))
  deriving DecidableEq, Repr

/-! ## The state -/

/-- The package, its pending commands, and what it has sent. -/
structure State where
  pending  : List Instr
  pins     : Pins
  regs     : RegFile
  latches  : List (Nat × U32)
  hostMem  : Memory
  mem      : Mem
  tiles    : List (TileId × Tile)
  cores    : List (Nat × Core)
  rig      : Rigger
  flash    : Flash
  sec      : Security
  job      : Option Job
  stroke   : Stroke
  sync     : SyncState
  fab      : Fabric
  collEng  : CollEngine
  zn       : Zenle
  hif      : Hif
  pwr      : Power
  tim      : Time
  ckpt     : Ckpt
  bridges  : Bridges
  mgmt     : Mgmt
  sent     : List Out
  free     : Nat
  deriving DecidableEq, Repr

/-! ## Reset -/

/-- A tile at power-up: idle, registers zero (Table 3.11). -/
def Tile.reset : Tile :=
  { phase := .idle, zeroing := false, poisonSeen := false, sregs := List.replicate 16 0, store := [],
    poison := [], pc := 0, loops := [], running := none, waiting := [], wait := none, stopping := none, inflight := [], nextId := 0,
    outIndex := 0, outIndexEwl := 0, rowPending := [], corrected := [], latent := [], checkFault := false, parityFault := false,
    used := false, reserved := none }

/-- A steering core at power-up (Table 9.2, R286). -/
def Core.reset : Core :=
  { phase := .idle, g := List.replicate 32 0, f := List.replicate 32 0, v := List.replicate 32 0,
    k := BitVec.allOnes 512 :: List.replicate 7 0, spanLen := 0, vresumeU := 0, vresumeS := 0, vused := 0,
    ven := false, fpmode := 0, pc := 0, trap := none, outer := [], stackTop := 0, cmd := none,
    tilePhaseId := 0, scWait := none, ack := none, irqAt := none, undo := [], used := false }

/-- A stack controller at power-up (Table 10.7). -/
def Stack.reset : Stack :=
  { trained := false, metering := false, hotStop := false, selfRefresh := false, modeActive := false,
    refreshMul := 1, blockMap := [], retiring := [], history := [], inPlace := [], foundEmpty := false, repairRows := [],
    repairsDone := 0 }

/-- Stack memory and translation at power-up: nothing mapped (R575). -/
def Mem.reset : Mem :=
  { bytes := [], marks := [], latent := [], eventLines := [], stackCtl := List.replicate 8 Stack.reset, xlt := [],
    withdrawn := [], dirty := [], ckptPend := [], staging := [], stalled := [], windowOpen := false,
    counterSnap := [], restorePending := [], rollback := [] }

/-- Port P before training: down, on the lanes of Table 11.1 (R359, R399). -/
def Port.reset (p : Nat) : Port :=
  { up := false, disabled := false, rate := 0, width := 0,
    lanes := (List.range 4).map (fun k => 4 * (p % 4) + k), failed := [], sparing := none,
    spareUsed := false, spareOwned := false, pathDown := [] }

/-- Azmarlink at power-up: every table empty (R575), cables seated (log 13). -/
def Fabric.reset : Fabric :=
  { ports := (List.range 16).map Port.reset, flySeated := List.replicate 4 true, tx := [], rx := [],
    replay := [], sets := [], reads := [], cacheWait := [], cacheFull := [], drains := [], drainsOut := [], unresponsive := [], recvs := [],
    unexpected := [], unexpFull := false, msgBusy := [], earlyMsgs := [], bulkRegs := [], bulkCount := [], bulkPuts := [], wardRecs := [] }

/-- The host interface at power-up: every ring disabled (Table 16.8). -/
def Hif.reset : Hif :=
  { sqs := [], cqs := [], evqTail := 0, evqHead := 0, evqHeld := 0, evqLost := 0, evqStopped := false, evqUnsignalled := 0, evqFirstAt := 0,
    idle := false, idleSeq := 0, lastChange := 0, summarySeq := 0,
    eventCounts := List.replicate 9 (0, 0), outCmds := [], tileRuns := [], copies := [], audits := [], syncOps := [] }

/-- The power controller at power-up: ceilings at point 15, trims at the factory baseline (R518, R531, Table 15.10). -/
def Power.reset : Power :=
  { holdCount := none, demands := [], programs := [], target := [15, 15, 15, 15], thermalCap := [15, 15, 15, 15],
    trims := [], trimLoss := [], actual := [15, 15, 15, 15], awake := 0, ballast := 0, droops := [], droopCut := [],
    followed := [], paceSent := [], paceLast := [], temps := [0, 0, 0, 0], history := [], eolWarned := false,
    vinExcursion := false }

/-- Zero bytes, the fill of fields that hold no value yet. -/
def zeroBytes (n : Nat) : List Byte := List.replicate n 0

/-- A committed factory image whose per-package contents the model does not know: a header that
matches the stepping, an empty payload (log 13). -/
def Image.shipped (c : Nat) : Image :=
  { magicOk := true, component := c, stepping := 0xB1, version := 1, secVersion := 0, length := 0,
    digest := [], header := [], beygilSig := [], ownerSig := [], payload := [], factory := true }

/-- SPI flash and fuses as shipped (R622): bank A committed, no owner key (log 13). -/
def Flash.reset : Flash :=
  { banks := [{ seq := some 1, images := [Image.shipped 0, Image.shipped 1, Image.shipped 2] }, { seq := none, images := [] }],
    journal := [], blockMaps := List.replicate 8 [], withdrawn := [], trims := [], ownerKey := [], ownerPolicy := 0, ownerSeq := 0,
    ownerConfig := [], ownerConfigRaw := [], configSeq := 0, bootCount := 0, identityPub := zeroBytes 57,
    certificate := [], rollback := [0, 0, 0], openedEver := false, grade120 := false,
    repairs := List.replicate 8 0, firmwareKey := zeroBytes 57, dirty := false }

/-- Security state before the boot ROM has run. -/
def Security.reset : Security :=
  { devOpen := false, ownerKey := [], ownerPolicy := 0, fwVerified := [false, false, false],
    fwDigests := List.replicate 3 (zeroBytes 64), bank := 0, fallback := false, romRecovery := false, bootStatus := 0,
    debugOpen := false, challenge := none, dbgStatus := 0, updating := none }

/-- The factory map, with logical unit i served by physical unit i of its pool, and port lane 4q + k on
connector lane 4(q mod 4) + k (R621, Table 1.13; log 13). -/
def Rigger.reset : Rigger :=
  { tiles := List.replicate 4 ((List.range 128).map some), cores := (List.range 96).map some,
    lanes := List.replicate 2 ((List.range 32).map (fun l => some (18 * (l / 16) + l % 16))),
    wireSubs := [], wireLost := [], groupsOff := [], rowGroups := [], failed := [], awaiting := [], unwritten := [] }

/-- A slot with no valid manifest. -/
def StoreSlot.empty : StoreSlot := { gen := none, stroke := 0, nondet := 0, digests := [], counters := [] }

/-- Checkpoint stores at power-up: unseeded (Table 17.2). -/
def Ckpt.reset : Ckpt :=
  { buddy := List.replicate 2 StoreSlot.empty, host := List.replicate 2 StoreSlot.empty, gen := 0, genStroke := 0, inProgress := none,
    snapStroke := 0, snapNondet := 0, requested := false, lastSnap := 0, strokesSince := 0, copied := [], received := [],
    windowClosed := false, primaryOk := false, secondaryBad := false, unprotected := false, restoring := false,
    restoreFailed := false, reseeding := false, hostSlot := false, manifestDone := false,
    buddyId := none, blind := false, fetches := [], wardBad := false, wardGot := [] }

/-- The package before VIN has been applied: every register at its reset value, no unit running
(R572, R575; log 3). `POWER_UP` runs the sequence of Table 17.1 from here. -/
def State.reset : State :=
  { pending := [],
    pins := { powered := false, pkgReady := false, perst := true, holdWater := false, bypassOpen := false, sledPos := 0,
              pairsIn := [true, true], pairsOut := [true, true] },
    regs := [], latches := [], hostMem := [], mem := Mem.reset, tiles := [], cores := [], rig := Rigger.reset,
    flash := Flash.reset, sec := Security.reset, job := none,
    stroke := { count := 0, entered := none, after := [], arrived := false, slowSent := false, secondRound := false },
    sync := { counters := [], waits := [], wrapped := [] }, fab := Fabric.reset,
    collEng := { groups := [], runs := [], batches := [], inbox := [], slots := [0, 0], dry := false, queued := List.replicate 16 0, nextBatch := 0 },
    zn := { solves := [], assemblies := [], nextNumber := 0 }, hif := Hif.reset, pwr := Power.reset,
    tim := { now := 0, locked := [], source := none, ppsSeen := false, slew := 0, slewAcc := 0, lostAt := 0 }, ckpt := Ckpt.reset,
    bridges := { retries := [], repairing := [] },
    mgmt := { lastSeq := [], partials := [], outCmds := [], nextSeq := 0, heartbeats := List.replicate 6 0, faultyDies := [], firstFault := false, dropped := 0 },
    sent := [], free := 0 }

end Sys2Proof.Machine
end

