-- ==== Sys2Proof/Machine/Mem.lean ====
section
/-! DEFINITION. Sorted lists as sparse tables, byte memories over them, and the little-endian reading
and writing of fields (R7, R49). -/

namespace Sys2Proof.Machine

/-! ## Tables keyed by a number -/

/-- The value listed for a key. -/
def kvGet {α : Type} : List (Nat × α) → Nat → Option α
  | [], _ => none
  | (k, v) :: r, a => if k = a then some v else kvGet r a

/-- The table without a key. -/
def kvErase {α : Type} (l : List (Nat × α)) (a : Nat) : List (Nat × α) := l.filter (fun e => e.1 != a)

/-- The table with a key set, in rising order of keys. -/
def kvSet {α : Type} : List (Nat × α) → Nat → α → List (Nat × α)
  | [], a, v => [(a, v)]
  | (k, w) :: r, a, v => if a < k then (a, v) :: (k, w) :: r else if k = a then (a, v) :: r else (k, w) :: kvSet r a v

/-- The value of a key, or a default. -/
def kvGetD {α : Type} (l : List (Nat × α)) (a : Nat) (d : α) : α := (kvGet l a).getD d

/-- Keys strictly rising. -/
abbrev kvSorted {α : Type} (l : List (Nat × α)) : Prop := l.Pairwise (fun x y => x.1 < y.1)

/-! ## Byte memories -/

/-- The byte at an address; an unlisted byte reads zero (log 4, log 5). -/
def Memory.get (m : Memory) (a : Nat) : Byte := kvGetD m a 0

/-- Write one byte; the canonical form lists no zero byte. -/
def Memory.put (m : Memory) (a : Nat) (b : Byte) : Memory := if b = 0 then kvErase m a else kvSet m a b

/-- The canonical form: addresses strictly rising and no zero byte listed. -/
abbrev Memory.wf (m : Memory) : Prop := kvSorted m ∧ ∀ c ∈ m, c.2 ≠ 0

/-- `n` bytes in ascending address. -/
def Memory.read (m : Memory) (a n : Nat) : List Byte := (List.range n).map (fun i => Memory.get m (a + i))

/-- Write bytes in ascending address. -/
def Memory.write : Memory → Nat → List Byte → Memory
  | m, _, [] => m
  | m, a, b :: r => Memory.write (Memory.put m a b) (a + 1) r

/-! ## Fields -/

/-- The unsigned value of little-endian bytes. -/
def leNat : List Byte → Nat
  | [] => 0
  | b :: r => b.toNat + 256 * leNat r

/-- A value as `n` little-endian bytes. -/
def leBytes : Nat → Nat → List Byte
  | 0, _ => []
  | n + 1, v => BitVec.ofNat 8 v :: leBytes n (v / 256)

/-- The little-endian field of `n` bytes at offset `o` of a record. -/
def fieldLE (bs : List Byte) (o n : Nat) : Nat := leNat ((bs.drop o).take n)

/-- A slice of a record. -/
def slice (bs : List Byte) (o n : Nat) : List Byte := (bs.drop o).take n

/-- `n` bytes of a record from a list that may be shorter: zero beyond its end. -/
def padTo (n : Nat) (bs : List Byte) : List Byte := (bs ++ zeroBytes (n - bs.length)).take n

/-- The ASCII bytes of a text. -/
def asciiBytes (t : String) : List Byte := t.toList.map (fun c => BitVec.ofNat 8 c.toNat)

/-- The little-endian value of `n` bytes of memory. -/
def Memory.readLE (m : Memory) (a n : Nat) : Nat := leNat (Memory.read m a n)

/-! ## Bits of numbers -/

/-- Bits [hi:lo] of a number. -/
def bitsOf (v hi lo : Nat) : Nat := (v >>> lo) % 2 ^ (hi - lo + 1)

/-- Bit `i` of a number. -/
def bitOf (v i : Nat) : Bool := (v >>> i) % 2 = 1

/-- A truth value as a bit at a place. -/
def bitAt (b : Bool) (i : Nat) : Nat := if b then 2 ^ i else 0

/-- A number with bits [hi:lo] replaced. -/
def setBits (v hi lo x : Nat) : Nat :=
  v - bitsOf v hi lo * 2 ^ lo + (x % 2 ^ (hi - lo + 1)) * 2 ^ lo

/-- The signed value of the low `w` bits. -/
def signedOf (w v : Nat) : Int :=
  let x := v % 2 ^ w
  if 2 ^ (w - 1) ≤ x then (x : Int) - (2 ^ w : Nat) else x

/-- The smallest multiple of `k` at or above `v`. -/
def roundUp (v k : Nat) : Nat := (v + k - 1) / k * k

/-- Two byte ranges share a byte. -/
def overlaps (a n b m : Nat) : Bool := 0 < n && 0 < m && a < b + m && b < a + n

end Sys2Proof.Machine
end

