-- ==== Sys2Proof/Machine/Regs.lean ====
section
/-! DEFINITION. The BAR0 register map: the blocks of Table 1.10 and the registers of Tables 1.12, 3.11,
7.11, 8.2, 9.7, 10.6, 10.9, 11.8, 11.9, 12.8, 13.5, 13.11, 14.8, 15.10, 16.8 and 17.7 to 17.9. -/

namespace Sys2Proof.Machine

/-- Access codes (Table 0.8). -/
inductive Access where
  | rw | ro | wo | w1c | w1s | rc | rwl
  deriving DecidableEq, Repr

/-- A register, or an array of registers, of a block: offset in the block, count, stride, access, reset
value, and the mask of its fields that are not reserved. -/
structure RegDef where
  off    : Nat
  count  : Nat
  stride : Nat
  acc    : Access
  reset  : Nat
  mask   : Nat
  deriving DecidableEq, Repr

/-- The kinds of block window. -/
inductive BlkKind where
  | glb | pmc | hif | pwr | tim | sec | snap | zenle | tile | port | fdXlt | coll | sync | stack | core | xlt
  deriving DecidableEq, Repr

/-- A block window: its kind, its index among its kind, and its base offset in BAR0. -/
structure Blk where
  kind : BlkKind
  idx  : Nat
  base : Nat
  deriving DecidableEq, Repr

def one (off : Nat) (acc : Access) (reset mask : Nat) : RegDef := ⟨off, 1, 4, acc, reset, mask⟩
def allOnes32 : Nat := 0xFFFFFFFF
/-- A 64-bit register as its low and high words. -/
def pair (off : Nat) (acc : Access) : List RegDef := [one off acc 0 allOnes32, one (off + 4) acc 0 allOnes32]

/-- The event counters of a group at `g`: SATURATED bits, clear register, counters and their snapshots (R597, R598). -/
def counterRegs (g n : Nat) : List RegDef :=
  [ one (g + 0xF0) .ro 0 (2 ^ n - 1), one (g + 0xF4) .wo 0 (2 ^ n - 1),
    ⟨g + 0x100, 2 * n, 4, .ro, 0, allOnes32⟩,
    one (g + 0x1F0) .ro 0 (2 ^ n - 1), ⟨g + 0x200, 2 * n, 4, .ro, 0, allOnes32⟩ ]

/-- The counter groups of a block: offset of the group and number of counters. -/
def counterGroups : BlkKind → List (Nat × Nat)
  | .glb => [(0, 1), (0x1000, 6)]
  | .pmc => [(0x1000, 4), (0x2000, 8), (0x3000, 4)]
  | .hif => [(0, 10)]
  | .pwr => [(0, 10)]
  | .tim => [(0, 4)]
  | .sec => [(0, 4)]
  | .snap => [(0, 2)]
  | .zenle => [(0, 4)]
  | .tile => [(0, 8)]
  | .port => [(0, 6)]
  | .fdXlt => [(0, 17)]
  | .coll => [(0, 10)]
  | .sync => []
  | .stack => [(0, 10)]
  | .core => [(0, 8)]
  | .xlt => [(0, 4)]

/-- The registers of a block that are not counters. -/
def plainRegs : BlkKind → List RegDef
  | .glb =>
    [ one 0x000 .ro 0 allOnes32, one 0x004 .ro 0 0x1F, one 0x008 .w1s 0 1, one 0x010 .ro 0 0x7FFFFFF,
      one 0x1000 .ro 0 allOnes32, one 0x1004 .ro 0 1 ] ++ pair 0x1008 .ro ++
    [ ⟨0x1040, 16, 4, .ro, 0, allOnes32⟩, ⟨0x1080, 16, 4, .ro, 0, allOnes32⟩ ]
  | .pmc =>
    [ one 0x000 .ro 0 0xFFFFF ] ++ pair 0x008 .ro ++ pair 0x010 .ro ++ pair 0x020 .rw ++
    [ one 0x028 .rw 0 0x3FFFFFF, one 0x02C .wo 0 1, one 0x030 .ro 0 0xFFFF0003 ] ++
    pair 0x1000 .ro ++ [ one 0x1008 .ro 0 3, one 0x100C .rw 0x3E8 0x1FFFF ] ++ pair 0x1010 .ro ++ pair 0x1018 .ro ++
    [ one 0x2000 .ro 0 0x7F, one 0x2004 .rw 0 1, one 0x2008 .wo 0 1 ] ++ pair 0x2010 .ro ++ pair 0x2018 .ro ++
    pair 0x2020 .ro ++ [ one 0x3000 .ro 0 0xFF ]
  | .hif =>
    [ one 0x000 .ro 0 0x7FF, one 0x004 .rw 0x32 0xFF, one 0x008 .rw 0 allOnes32, one 0x00C .rw 0 allOnes32,
      one 0x010 .wo 0 1, one 0x014 .ro 0 0xFFFF0003 ] ++ pair 0x018 .rw ++ pair 0x020 .rw ++
    [ one 0x028 .rw 0 allOnes32,
      ⟨0x1000, 64, 0x20, .rw, 0, allOnes32⟩, ⟨0x1004, 64, 0x20, .rw, 0, allOnes32⟩,
      ⟨0x1008, 64, 0x20, .rw, 0, 0x1FFF⟩, ⟨0x100C, 64, 0x20, .ro, 0, 0xFFFF0003⟩,
      ⟨0x2000, 64, 0x20, .rw, 0, allOnes32⟩, ⟨0x2004, 64, 0x20, .rw, 0, allOnes32⟩,
      ⟨0x2008, 64, 0x20, .rw, 0, allOnes32⟩, ⟨0x200C, 64, 0x20, .ro, 0, 0xFFFF0003⟩,
      ⟨0x100000, 512, 16, .rw, 0, 0xFFFFFFFC⟩, ⟨0x100004, 512, 16, .rw, 0, allOnes32⟩,
      ⟨0x100008, 512, 16, .rw, 0, allOnes32⟩, ⟨0x10000C, 512, 16, .rw, 1, 1⟩,
      ⟨0x110000, 16, 4, .ro, 0, allOnes32⟩ ]
  | .pwr =>
    [ one 0x000 .ro 0 0x1FF, one 0x004 .rw 0x30B 0x3FFF, one 0x008 .rw 0xD48 0x1FFF, one 0x00C .ro 0xE10 0x1FFF,
      one 0x010 .ro 0xE10 0x1FFF, one 0x014 .ro 0xD48 0x1FFF, one 0x018 .ro 0 allOnes32, one 0x01C .ro 0xFFFF 0xFFFF,
      one 0x020 .ro 0 0xFFFFFF, one 0x024 .rwl 0x5F 0xFF, one 0x028 .ro 0 0x1FFFFFFF, one 0x02C .ro 0 0xFFF,
      ⟨0x040, 9, 4, .ro, 0x003FFC00, 0x3FFFFF⟩, ⟨0x1000, 256, 4, .rw, 0xFFF, 0x7F0FFF⟩ ]
  | .tim =>
    pair 0x000 .ro ++ [ one 0x008 .ro 0 0x7F, one 0x00C .rwl 0x1F 0xFF1F, one 0x010 .ro 0 allOnes32 ]
  | .sec =>
    [ one 0x000 .ro 0 0x7F, ⟨0x010, 4, 4, .ro, 0, allOnes32⟩, one 0x020 .ro 0 7 ] ++ pair 0x028 .ro ++ pair 0x030 .ro
  | .snap =>
    [ one 0x000 .rw 0x11 0x1F, one 0x004 .ro 0 0x7FFFFFF ] ++ pair 0x008 .rw ++ [ one 0x010 .rw 0 0x3FFF ] ++
    pair 0x018 .rw ++ [ one 0x020 .rw 0 allOnes32 ] ++ pair 0x028 .ro ++ pair 0x030 .ro
  | .zenle => [ one 0x000 .ro 0 3 ]
  | .tile =>
    [ one 0x000 .ro 0 0x3FFFF, one 0x004 .ro 0xC00 0xFFF, one 0x008 .rw 0 3, one 0x00C .ro 0 0xFFFF ] ++ pair 0x010 .ro ++
    [ one 0x020 .ro 0 allOnes32, one 0x024 .ro 0 allOnes32, one 0x028 .wo 0 3 ] ++ pair 0x030 .ro ++
    [ one 0x038 .ro 0 0x3FFFFF ]
  | .port => [ one 0x000 .ro 0 0xFF, one 0x004 .rwl 3 7, one 0x008 .ro 0 0xFFFFF, one 0x00C .ro 0 allOnes32 ]
  | .fdXlt =>
    [ one 0x000 .ro 0 allOnes32, one 0x004 .ro 0 allOnes32, one 0x008 .rw 0x1F4 0x1FFF, one 0x00C .ro 0 0xF,
      one 0x010 .ro 0 0x7FFFF, one 0x014 .ro 0 0x1FFF, one 0x018 .ro 0 allOnes32 ] ++ pair 0x020 .ro
  | .coll => [ one 0x000 .ro 0 0x1FFFFFF, one 0x004 .rw 0 1, one 0x008 .ro 0 0x1FFF ]
  | .sync => [ ⟨0x000, 16384, 4, .ro, 0, allOnes32⟩ ]
  | .stack =>
    [ one 0x000 .ro 0 allOnes32, one 0x004 .ro 0 0x7F, one 0x008 .rwl 0 1, one 0x00C .rw 0x18 0xFF,
      one 0x010 .ro 0 0xFFFFF, one 0x014 .ro 0x20000 0x3FFFF, one 0x018 .ro 0 allOnes32, one 0x01C .ro 0 0x1FFFF ] ++
    pair 0x020 .ro ++ [ one 0x028 .ro 0 3, one 0x030 .ro 0 0x1FFFF, one 0x034 .ro 0 0x3FFF ]
  | .core =>
    [ one 0x000 .ro 0 0xFFFF, one 0x004 .ro 0 0xF, one 0x00C .ro 0 0xFFFF ] ++ pair 0x010 .ro
  | .xlt =>
    [ one 0x000 .ro 0 3, one 0x004 .ro 0 0xFFFFF ] ++ pair 0x008 .ro ++ pair 0x010 .ro ++ pair 0x018 .ro ++
    [ one 0x020 .ro 0 0x7FFFF ]

/-- Every register of a block. -/
def blockRegs (k : BlkKind) : List RegDef :=
  plainRegs k ++ (counterGroups k).flatMap (fun g => counterRegs g.1 g.2)

/-- The window that holds a BAR0 offset (Tables 0.9, 1.10; the translation unit at STR base + 0x0040_0000); none for a
reserved range and for a window whose registers the spec does not list (`unlistedWindow`, log 43). -/
def blockAt (o : Nat) : Option Blk :=
  if o < 0x100000 then some ⟨.glb, 0, 0⟩
  else if o < 0x200000 then some ⟨.pmc, 0, 0x100000⟩
  else if o < 0x400000 then some ⟨.hif, 0, 0x200000⟩
  else if o < 0x600000 then some ⟨.pwr, 0, 0x400000⟩
  else if o < 0x800000 then some ⟨.tim, 0, 0x600000⟩
  else if o < 0xC00000 then some ⟨.sec, 0, 0x800000⟩
  else if o < 0x1000000 then some ⟨.snap, 0, 0xC00000⟩
  else if o < 0x2000000 then
    let n := (o - 0x1000000) / 0x400000
    let b := 0x1000000 + n * 0x400000
    let r := o - b
    if 0x30000 ≤ r && r < 0x40000 then some ⟨.zenle, n, b + 0x30000⟩
    else if 0x100000 ≤ r && r < 0x100000 + 144 * 0x4000 then
      let p := (r - 0x100000) / 0x4000
      some ⟨.tile, n * 144 + p, b + 0x100000 + p * 0x4000⟩
    else none
  else if o < 0x2800000 then
    let m := (o - 0x2000000) / 0x400000
    let b := 0x2000000 + m * 0x400000
    let r := o - b
    if 0x10000 ≤ r && r < 0x90000 then
      let q := (r - 0x10000) / 0x10000
      some ⟨.port, 8 * m + q, b + 0x10000 + q * 0x10000⟩
    else if 0x100000 ≤ r && r < 0x200000 then some ⟨.fdXlt, m, b + 0x100000⟩
    else if 0x200000 ≤ r && r < 0x300000 then some ⟨.coll, m, b + 0x200000⟩
    else if 0x300000 ≤ r && r < 0x310000 then some ⟨.sync, m, b + 0x300000⟩
    else none
  else if o < 0x3000000 then none
  else if o < 0x3800000 then
    let n := (o - 0x3000000) / 0x100000
    some ⟨.stack, n, 0x3000000 + n * 0x100000⟩
  else if o < 0x3800000 + 104 * 0x1000 then
    let p := (o - 0x3800000) / 0x1000
    some ⟨.core, p, 0x3800000 + p * 0x1000⟩
  else if 0x3C00000 ≤ o && o < 0x3D00000 then some ⟨.xlt, 0, 0x3C00000⟩
  else none

/-! ## Bases of the blocks -/

def glbBase : Nat := 0
def detBase : Nat := 0x1000
def pmcBase : Nat := 0x100000
def strokeBase : Nat := 0x101000
def ckptBase : Nat := 0x102000
def evfBase : Nat := 0x103000
def hifBase : Nat := 0x200000
def pwrBase : Nat := 0x400000
def timBase : Nat := 0x600000
def secBase : Nat := 0x800000
def snapBase : Nat := 0xC00000
def zenleBase (n : Nat) : Nat := 0x1030000 + n * 0x400000
def tileBase (die p : Nat) : Nat := 0x1100000 + die * 0x400000 + p * 0x4000
def portBase (port : Nat) : Nat := 0x2010000 + port / 8 * 0x400000 + port % 8 * 0x10000
def fabBase (m : Nat) : Nat := 0x2100000 + m * 0x400000
def collBase (m : Nat) : Nat := 0x2200000 + m * 0x400000
def syncBase (m : Nat) : Nat := 0x2300000 + m * 0x400000
def stackBase (n : Nat) : Nat := 0x3000000 + n * 0x100000
def coreBase (p : Nat) : Nat := 0x3800000 + p * 0x1000
def xltBase : Nat := 0x3C00000

/-! ## The register file -/

/-- Whether a definition covers an offset in its block. -/
def RegDef.covers (d : RegDef) (r : Nat) : Bool :=
  d.off ≤ r && (r - d.off) % d.stride == 0 && (r - d.off) / d.stride < d.count

/-- The windows of Table 1.10 whose contents are named and whose registers no chapter lists: the die supervisors, the
mesh networks, the bridges and the ring engine of the steering die (log 43). -/
def unlistedWindow (o : Nat) : Bool :=
  (0x1000000 ≤ o && o < 0x2000000 && o % 0x400000 < 0x30000) ||
  (0x2000000 ≤ o && o < 0x2800000 && o % 0x400000 < 0x10000) ||
  (0x3D00000 ≤ o && o < 0x4000000) || (0x3868000 ≤ o && o < 0x3C00000)

/-- Whether an offset holds a register of such a window (R39). DESIGN CHOICE (log 43): which offsets do is open. -/
def unlistedReg (o : Nat) : Bool := unlistedWindow o && o % 4 == 0 && Config.unlistedRegister o

/-- The definition of the register at a BAR0 offset; none for a reserved or misaligned offset. -/
def regDef (o : Nat) : Option RegDef :=
  match blockAt o with
  | none => none
  | some b => (blockRegs b.kind).find? (fun d => d.covers (o - b.base))

/-- The reset value that the manual's tables give the register at an offset; zero elsewhere. -/
def regReset (o : Nat) : Nat := match regDef o with | none => 0 | some d => d.reset

/-- The value held for a register; a register not listed holds its reset value. -/
def RegFile.get (f : RegFile) (o : Nat) : Nat :=
  match kvGet f o with
  | some v => v.toNat
  | none => regReset o

/-- Hold a value for a register; the canonical form lists no register at its reset value. -/
def RegFile.put (f : RegFile) (o v : Nat) : RegFile :=
  if v % 2 ^ 32 = regReset o then kvErase f o else kvSet f o (BitVec.ofNat 32 v)

/-- The canonical form of the register file. -/
abbrev RegFile.wf (f : RegFile) : Prop := kvSorted f ∧ ∀ e ∈ f, e.2.toNat ≠ regReset e.1

/-- The 64-bit register whose low word lies at an offset. -/
def RegFile.get64 (f : RegFile) (o : Nat) : Nat := RegFile.get f o + 2 ^ 32 * RegFile.get f (o + 4)

/-- Hold a 64-bit value in the two words at an offset. -/
def RegFile.put64 (f : RegFile) (o v : Nat) : RegFile := RegFile.put (RegFile.put f o v) (o + 4) (v / 2 ^ 32)

/-- The snapshot register of a counter or SATURATED register, if the offset is one (R597). -/
def snapOf (o : Nat) : Option Nat :=
  match blockAt o with
  | none => none
  | some b =>
    let r := o - b.base
    if (counterGroups b.kind).any (fun g => r == g.1 + 0xF0) then some (o + 0x100)
    else if (counterGroups b.kind).any (fun g => g.1 + 0x100 ≤ r && r < g.1 + 0x100 + 8 * g.2) then some (o + 0x100)
    else none

/-- Whether an offset is a snapshot register. -/
def isSnapshot (o : Nat) : Bool := 0x100 ≤ o && (snapOf (o - 0x100)).isSome

/-- Whether an offset is the low word of a 64-bit register (R40). -/
def isLow64 (o : Nat) : Bool :=
  match blockAt o with
  | none => false
  | some b =>
    let r := o - b.base
    let inCounters := (counterGroups b.kind).any (fun g =>
      (g.1 + 0x100 ≤ r && r < g.1 + 0x100 + 8 * g.2 && (r - g.1) % 8 == 0) ||
      (g.1 + 0x200 ≤ r && r < g.1 + 0x200 + 8 * g.2 && (r - g.1) % 8 == 0))
    let plain : List Nat := match b.kind with
      | .glb => [0x1008]
      | .pmc => [0x008, 0x010, 0x020, 0x1000, 0x1010, 0x1018, 0x2010, 0x2018, 0x2020]
      | .hif => [0x008, 0x018, 0x020]
      | .tim => [0x000]
      | .sec => [0x028, 0x030]
      | .snap => [0x008, 0x018, 0x028, 0x030]
      | .tile => [0x010, 0x030]
      | .fdXlt => [0x020]
      | .stack => [0x020]
      | .core => [0x010]
      | .xlt => [0x008, 0x010, 0x018]
      | _ => []
    inCounters || plain.contains r || (b.kind == .sync && r % 8 == 0 && r < 0x10000) ||
    (b.kind == .hif && ((0x1000 ≤ r && r < 0x1800) || (0x2000 ≤ r && r < 0x2800)) && r % 0x20 == 0)

end Sys2Proof.Machine
end

