-- ==== Sys2Proof/Machine/Ops.lean ====
section
/-! DEFINITION. The shared operations: access to the parts of the state, event counters, events and
'catch', free values, translation, stack memory with its marks and dirty tracking, and sync counters. -/

namespace Sys2Proof.Machine

/-- What a meaning answers. -/
abbrev Res := Host.Outcome State Fault Refusal

/-! ## Sorted sets of numbers -/

/-- Insert into a rising list without repeats. -/
def natInsert : List Nat → Nat → List Nat
  | [], a => [a]
  | b :: r, a => if a < b then a :: b :: r else if a = b then b :: r else b :: natInsert r a

/-- Remove a number. -/
def natErase (l : List Nat) (a : Nat) : List Nat := l.filter (fun b => b != a)

/-- Replace the element at an index. -/
def setAt {α : Type} (l : List α) (i : Nat) (f : α → α) : List α := l.mapIdx (fun j x => if j = i then f x else x)

/-- Replace the first element that satisfies a test. -/
def updFirst {α : Type} (p : α → Bool) (f : α → α) : List α → List α
  | [] => []
  | x :: r => if p x then f x :: r else x :: updFirst p f r

/-- Remove the first element that satisfies a test. -/
def dropFirst {α : Type} (p : α → Bool) : List α → List α
  | [] => []
  | x :: r => if p x then r else x :: dropFirst p r

/-! ## Parts of the state -/

/-- The stored value of a register. -/
def State.reg (s : State) (o : Nat) : Nat := RegFile.get s.regs o
/-- The stored value of a 64-bit register. -/
def State.reg64 (s : State) (o : Nat) : Nat := RegFile.get64 s.regs o
/-- Store a register. -/
def State.setReg (s : State) (o v : Nat) : State := { s with regs := RegFile.put s.regs o v }
/-- Store a 64-bit register. -/
def State.setReg64 (s : State) (o v : Nat) : State := { s with regs := RegFile.put64 s.regs o v }
/-- Store a field of a register. -/
def State.setRegBits (s : State) (o hi lo v : Nat) : State := s.setReg o (setBits (s.reg o) hi lo v)
/-- Store one bit of a register. -/
def State.setRegBit (s : State) (o i : Nat) (b : Bool) : State := s.setRegBits o i i (if b then 1 else 0)
/-- One bit of a register. -/
def State.regBit (s : State) (o i : Nat) : Bool := bitOf (s.reg o) i

/-- Give something to the surroundings. -/
def State.emit (s : State) (o : Out) : State := { s with sent := s.sent ++ [o] }

/-- The work of every woken group ends at once: the groups run ballast and are released one by one (R519, R520). -/
def State.toBallast (s : State) : State := { s with pwr := { s.pwr with ballast := s.pwr.ballast + s.pwr.awake, awake := 0 } }

/-- A tile; one not listed is as at power-up. -/
def State.tile (s : State) (t : TileId) : Tile := ((s.tiles.find? (fun e => e.1 == t)).map Prod.snd).getD Tile.reset
/-- Replace a tile. -/
def State.setTile (s : State) (t : TileId) (x : Tile) : State :=
  { s with tiles := if s.tiles.any (fun e => e.1 == t) then s.tiles.map (fun e => if e.1 == t then (t, x) else e)
                    else s.tiles ++ [(t, x)] }
/-- Change a tile. -/
def State.modTile (s : State) (t : TileId) (f : Tile → Tile) : State := s.setTile t (f (s.tile t))

/-- A logical steering core; one not listed is as at power-up. -/
def State.core (s : State) (c : Nat) : Core := kvGetD s.cores c Core.reset
/-- Replace a core. -/
def State.setCore (s : State) (c : Nat) (x : Core) : State := { s with cores := kvSet s.cores c x }
/-- Change a core. -/
def State.modCore (s : State) (c : Nat) (f : Core → Core) : State := s.setCore c (f (s.core c))

/-- A stack controller. -/
def State.stk (s : State) (n : Nat) : Stack := s.mem.stackCtl.getD n Stack.reset
/-- Change a stack controller. -/
def State.modStk (s : State) (n : Nat) (f : Stack → Stack) : State :=
  { s with mem := { s.mem with stackCtl := setAt s.mem.stackCtl n f } }

/-- A port. -/
def State.port (s : State) (p : Nat) : Port := s.fab.ports.getD p (Port.reset p)
/-- Change a port. -/
def State.modPort (s : State) (p : Nat) (f : Port → Port) : State :=
  { s with fab := { s.fab with ports := setAt s.fab.ports p f } }

/-- The base of a tile's registers. -/
def tileRegs (t : TileId) : Nat := tileBase t.die.toNat t.phys.toNat

/-! ## The job -/

/-- A job tag is bound. -/
def State.bound (s : State) : Bool := s.job.isSome
/-- The job runs: 'go' has been given. -/
def State.running (s : State) : Bool := match s.job with | some j => j.phase == .running | none => false
/-- The launch that the bound job carries. -/
def State.launchOf (s : State) : Option LaunchBody := s.job.bind (fun j => j.launch)
/-- The job's logical tile count per die; 0 when none is bound or launched. -/
def State.logicalTiles (s : State) : Nat := match s.launchOf with | some l => l.logicalTiles.toNat | none => 0
/-- The job mode word (R444). -/
def State.mode (s : State) : Nat := match s.launchOf with | some l => l.mode.toNat | none => 0
/-- DET_STRICT of the bound job. -/
def State.strict (s : State) : Bool := bitOf s.mode 0
/-- SEED_PRESENT of the bound job. -/
def State.seedPresent (s : State) : Bool := bitOf s.mode 1
/-- The own rank; 0 when unbound. -/
def State.rank (s : State) : Nat := match s.job with | some j => j.rank | none => 0
/-- The member table: fabric identifiers by rank. -/
def State.members (s : State) : List U16 := match s.job with | some j => j.members | none => []
/-- The own fabric identifier (Table 11.9). -/
def State.fabId (s : State) : Nat := bitsOf (s.reg (fabBase 0)) 15 0
/-- The fabric manager's identifier. -/
def State.fmId (s : State) : Nat := bitsOf (s.reg (fabBase 0)) 31 16
/-- The crew of a fabric identifier (Table 11.4). -/
def crewOf (id : Nat) : Nat := id / 128
/-- 'hold water' or a thermal trip stops the package (R527, R529). -/
def State.holding (s : State) : Bool := s.regBit pwrBase 3 || s.regBit pwrBase 5
/-- The package is setup-only (R5, R579). -/
def State.setupOnly (s : State) : Bool := s.sec.bootStatus != 0 || s.sec.romRecovery
/-- The fabric identifier of a rank. -/
def State.memberId (s : State) (r : Nat) : Option Nat := (s.members[r]?).map (fun x => x.toNat)
/-- The rank of a fabric identifier. -/
def State.rankOf (s : State) (id : Nat) : Option Nat := s.members.findIdx? (fun x => x.toNat == id)

/-- The physical tile of a logical tile (R24, R34). -/
def State.physTile (s : State) (die log : Nat) : Option TileId :=
  match (s.rig.tiles.getD die []).getD log none with
  | some p => some ⟨BitVec.ofNat 2 die, BitVec.ofNat 8 p⟩
  | none => none
/-- The logical index of a physical tile. -/
def State.logTile (s : State) (t : TileId) : Option Nat :=
  (s.rig.tiles.getD t.die.toNat []).findIdx? (fun e => e == some t.phys.toNat)
/-- The physical core of a logical core. -/
def State.physCore (s : State) (c : Nat) : Option Nat := s.rig.cores.getD c none
/-- The logical core of a physical core. -/
def State.logCore (s : State) (p : Nat) : Option Nat := s.rig.cores.findIdx? (fun e => e == some p)

/-! ## Event counters, events and 'catch' -/

/-- Add to an event counter; true when this saturates it (R598). -/
def bumpRaw (s : State) (g n k : Nat) : State × Bool :=
  if s.regBit (g + 0xF0) n then (s, false)
  else
    let v := s.reg64 (g + 0x100 + 8 * n) + k
    if v < 2 ^ 64 then (s.setReg64 (g + 0x100 + 8 * n) v, false)
    else ((s.setReg64 (g + 0x100 + 8 * n) (2 ^ 64 - 1)).setRegBit (g + 0xF0) n true, true)

/-- SOURCE of a block (Table 16.6). -/
def blockSource (b : Blk) : Nat :=
  match b.kind with
  | .glb => 0x0000
  | .pmc | .snap => 0x1000
  | .hif => 0x2000
  | .pwr => 0x3000
  | .tim => 0x4000
  | .sec => 0x5000
  | .tile => 0x6000 + b.idx
  | .core => 0x7000 + b.idx
  | .stack => 0x8000 + b.idx
  | .port => 0x9000 + b.idx
  | .fdXlt | .coll | .sync => 0xA000 + b.idx
  | .zenle => 0xB000 + b.idx
  | .xlt => 0xC000

/-- SOURCE of the block at a BAR0 offset. -/
def sourceAt (o : Nat) : Nat := match blockAt o with | some b => blockSource b | none => 0

def srcPmc : Nat := 0x1000
def srcHif : Nat := 0x2000
def srcPwr : Nat := 0x3000
def srcTim : Nat := 0x4000
def srcSec : Nat := 0x5000
def srcTile (t : TileId) : Nat := 0x6000 + t.die.toNat * 144 + t.phys.toNat
def srcCore (p : Nat) : Nat := 0x7000 + p
def srcStack (n : Nat) : Nat := 0x8000 + n
def srcPort (p : Nat) : Nat := 0x9000 + p
def srcFab (m : Nat) : Nat := 0xA000 + m
def srcDie (n : Nat) : Nat := 0xB000 + n
def srcXlt : Nat := 0xC000

/-- The event ring is enabled and not stopped. -/
def State.evqOpen (s : State) : Bool := s.regBit (hifBase + 0x28) 14 && !s.hif.evqStopped
/-- The log2 of the event ring's length. -/
def State.evqLog (s : State) : Nat := bitsOf (s.reg (hifBase + 0x28)) 4 0
/-- The event ring has space for a record (R548). -/
def State.evqRoom (s : State) : Bool :=
  s.evqOpen && (s.hif.evqTail - s.hif.evqHead).toNat < 2 ^ s.evqLog

/-- PHASE of entry `k` of a ring of 2^n entries (R548). -/
def phaseBit (k n : Nat) : Nat := 1 - (k >>> n) % 2

/-- The bytes of an event record (Table 16.6). -/
def eventRecord (s : State) (code src addr data : Nat) : List Byte :=
  leBytes 2 code ++ leBytes 2 src ++ leBytes 1 (phaseBit s.hif.evqTail.toNat s.evqLog) ++ leBytes 3 0 ++
  leBytes 8 s.tim.now.toNat ++ leBytes 8 addr ++ leBytes 8 data

/-- Write a record at the event ring's tail (R565). -/
def putEvent (s : State) (code src addr data : Nat) : State :=
  let a := s.reg64 (hifBase + 0x20) + 32 * (s.hif.evqTail.toNat % 2 ^ s.evqLog)
  { s with hostMem := Memory.write s.hostMem a (eventRecord s code src addr data),
           hif := { s.hif with evqTail := s.hif.evqTail + 1, evqUnsignalled := s.hif.evqUnsignalled + 1,
                               evqFirstAt := if s.hif.evqUnsignalled = 0 then s.tim.now else s.hif.evqFirstAt } }

/-- Count an event of its family for the summary (Table 16.7): the count sticks at all-ones. -/
def countFamily (s : State) (code : Nat) : State :=
  let f (e : U32 × U16) : U32 × U16 := (if e.1 = BitVec.allOnes 32 then e.1 else e.1 + 1, BitVec.ofNat 16 code)
  { s with hif := { s.hif with eventCounts := setAt s.hif.eventCounts (code / 256 - 0x41) f } }

/-- Copy every counter and SATURATED register to its snapshot register in one step (R597). -/
def latchCounters (f : RegFile) : RegFile :=
  f.foldl (fun acc e => match snapOf e.1 with | some o => RegFile.put acc o e.2.toNat | none => acc)
    (f.filter (fun e => !isSnapshot e.1))

/-- A trigger within 1 µs of the previous catch (R597). -/
def State.catchRecent (s : State) : Bool :=
  0 < bitsOf (s.reg (snapBase + 4)) 23 0 && s.tim.now.toNat < s.reg64 (snapBase + 0x28) + 1000

/-- The registers of the SNAP block after a catch (R597). -/
def recordCatch (s : State) (src : Nat) : State :=
  let s := { s with regs := latchCounters s.regs }
  let s := s.setReg (snapBase + 4) ((bitsOf (s.reg (snapBase + 4)) 23 0 + 1) % 2 ^ 24 + src * 2 ^ 24)
  (s.setReg64 (snapBase + 0x28) s.tim.now.toNat).setReg64 (snapBase + 0x30) s.stroke.count.toNat

/-- An event code matches SNAP_EVENT under its mask (R596). -/
def State.catchEvent (s : State) (code : Nat) : Bool :=
  s.regBit snapBase 2 &&
  (code &&& bitsOf (s.reg (snapBase + 0x20)) 31 16) ==
  (bitsOf (s.reg (snapBase + 0x20)) 15 0 &&& bitsOf (s.reg (snapBase + 0x20)) 31 16)

/-- Count on a counter, with what raises its saturation event. -/
def bumpWith (r : Nat → Nat → Nat → Nat → State → State) (s : State) (g n k : Nat) : State :=
  match bumpRaw s g n k with
  | (s', true) => r 0x4901 (sourceAt g) 0 n s'
  | (s', false) => s'

/-- Raise an event, to a depth: its own counters and a catch may raise further events, each at most
once (R565, R566, R596, R598). -/
def raiseN : Nat → Nat → Nat → Nat → Nat → State → State
  | 0, _, _, _, _, s => s
  | d + 1, code, src, addr, data, s =>
    let s := countFamily s code
    let s :=
      if s.hif.evqHeld = 0 || !s.evqRoom then s
      else bumpWith (raiseN d) { putEvent s 0x4110 srcHif 0 s.hif.evqHeld with
             hif := { (putEvent s 0x4110 srcHif 0 s.hif.evqHeld).hif with evqHeld := 0 } } hifBase 3 1
    let s :=
      if s.evqRoom then bumpWith (raiseN d) (putEvent s code src addr data) hifBase 3 1
      else bumpWith (raiseN d)
        { s with hif := { s.hif with evqHeld := s.hif.evqHeld + 1, evqLost := s.hif.evqLost + 1 } } hifBase 4 1
    if !s.catchEvent code then s
    else if s.catchRecent then bumpWith (raiseN d) s snapBase 1 1
    else raiseN d 0x4908 srcPmc 0 0 (bumpWith (raiseN d) (recordCatch s 2) snapBase 0 1)

/-- Raise an event. -/
def raise (s : State) (code src addr data : Nat) : State := raiseN 6 code src addr data s

/-- Add `k` to counter `n` of the group at `g` (R598). -/
def bump (s : State) (g n k : Nat) : State := bumpWith (raiseN 6) s g n k

/-- A catch from a source: coalesced within 1 µs of the last, else taken (R597). -/
def takeCatch (s : State) (src : Nat) : State :=
  if s.catchRecent then bump s snapBase 1 1
  else raise (bump (recordCatch s src) snapBase 0 1) 0x4908 srcPmc 0 0

/-- The package can send on the ring port. -/
def State.ringOut (s : State) : Bool := s.pins.bypassOpen && s.pins.pairsOut.any (fun b => b)

/-- Send a command frame on the ring, where it waits for its reply (R586). -/
def sendRing (s : State) : State :=
  if s.ringOut then
    let cmds := s.mgmt.outCmds ++ [(s.mgmt.nextSeq, 0, s.tim.now)]
    { s with sent := s.sent ++ [.evfCommand s.mgmt.nextSeq],
             mgmt := { s.mgmt with outCmds := cmds, nextSeq := s.mgmt.nextSeq + 1 } }
  else s

/-- Bytes of the MGMT packets that carry a message: fragments of up to 248 bytes of its body, each with its 8-byte header, in
packets of 40 bytes and their payload (R369, R588). -/
def mgmtBytes (body : Nat) : Nat := 48 * max 1 ((body + 247) / 248) + body

/-- Count the bytes of a management message on counter `n` (0 sent, 1 received) of the port that carries it: the
lowest-numbered port that is up, where the manual names none. DESIGN CHOICE (log 46). -/
def countMgmt (s : State) (n bytes : Nat) : State :=
  match (List.range 16).find? (fun p => (s.port p).up) with
  | some p => bump s (portBase p) n bytes
  | none => s

/-- Report a fault to the fabric manager, and to the tray controller over the ring (R464, Table 14.1): an event record of 32 bytes. -/
def report (s : State) (code addr data : Nat) : State :=
  countMgmt (sendRing (s.emit (.report (BitVec.ofNat 16 code) (BitVec.ofNat 64 addr) (BitVec.ofNat 64 data)))) 0 (mgmtBytes 32)

/-- A 64-bit count in a register that follows the saturation rule without a SATURATED bit of its own. -/
def addSticky (s : State) (o k : Nat) : State := s.setReg64 o (min (s.reg64 o + k) (2 ^ 64 - 1))

/-- Count a non-deterministic event on counter `n` of Table 13.4, on counter 0 and on DET_JOB_NONDET (R447). -/
def countNondet (s : State) (n : Nat) : State :=
  let s := addSticky (bump (bump s detBase n 1) detBase 0 1) (detBase + 8) 1
  s.setReg (detBase + 4) 1

/-! ## Free values -/

/-- Draw a free 64-bit value. FREE VALUE (log 6). -/
def State.drawBits (s : State) : BitVec 64 × State := (Config.freeBits s.free, { s with free := s.free + 1 })
/-- Draw a free truth value. FREE VALUE (log 6). -/
def State.drawBool (s : State) : Bool × State := (Config.freeBool s.free, { s with free := s.free + 1 })
/-- Add free clocks to a timing counter. FREE VALUE (log 10). -/
def bumpClocks (s : State) (g n : Nat) : State :=
  bump { s with free := s.free + 1 } g n (Config.freeClocks s.free)

/-- The register block of a logical core's physical core. -/
def State.coreRegs (s : State) (c : Nat) : Nat := coreBase ((s.physCore c).getD 0)

/-- Clocks that a core has run, and errors that its code has corrected, which the manual times no further (Table 9.9).
FREE VALUES (log 10). -/
def coreTime (s : State) (c : Nat) : State := bumpClocks (bumpClocks s (s.coreRegs c) 0) (s.coreRegs c) 6

/-! ## Translation (R327, R329) -/

/-- What an address resolves to. -/
inductive Loc where
  | stack (pa : Nat)
  | store (die log off : Nat)
  | void
  | host (a : Nat)
  deriving DecidableEq, Repr

/-- Bits of a translation entry (Table 10.3). -/
def entryBit (e : U64) (i : Nat) : Bool := bitOf e.toNat i
/-- FRAME of an entry. -/
def entryFrame (e : U64) : Nat := bitsOf e.toNat 47 21
/-- CLASS of an entry: 0 STATE, 1 ACT. -/
def entryClass (e : U64) : Nat := bitsOf e.toNat 5 4

/-- A location of the tile-store window (Table 1.11, R46): tiles beyond the bound job's count read as zero. -/
def storeWindow (s : State) (o : Nat) : Except Nat Loc :=
  let t := o % 0x40000000 / 0x400000
  let off := o % 0x400000
  if 128 ≤ t || 0x300000 ≤ off then .error 0x8210
  else if t < s.logicalTiles then .ok (.store (o / 0x40000000) t off)
  else .ok .void

/-- HOST_BASE and HOST_LIMIT of the memory plan (R336). -/
def State.hostBounds (s : State) : Nat × Nat :=
  match s.launchOf with
  | some l => (l.plan.hostBase.toNat, l.plan.hostLimit.toNat)
  | none => (0, 0)

/-- Resolve a job virtual address for an own agent (Table 10.2, R329). -/
def resolve (s : State) (va : Nat) (write : Bool) : Except Nat Loc :=
  if va < 0x10000000000 then
    match kvGet s.mem.xlt (va / 0x200000) with
    | none => .error 0x8211
    | some e =>
      if !entryBit e 0 then .error 0x8211
      else if write && !entryBit e 1 then .error 0x8212
      else .ok (.stack (entryFrame e * 0x200000 + va % 0x200000))
  else if va < 0x10100000000 then storeWindow s (va - 0x10000000000)
  else if 0x100000000000 ≤ va && va < 0x200000000000 && s.hostBounds.1 ≤ va && va < s.hostBounds.2 then
    .ok (.host (va - 0x100000000000))
  else .error 0x8211

/-- Record a translation fault (R357): status, address and agent. -/
def xltFault (s : State) (agent va st : Nat) : State :=
  if st = 0x8211 || st = 0x8212 then
    let s := s.setReg64 (xltBase + 0x18) va
    bump (s.setReg (xltBase + 0x20) (st + agent * 0x10000)) xltBase 1 1
  else s

def agentTile : Nat := 0
def agentCore : Nat := 1
def agentZenle : Nat := 2
def agentFabric : Nat := 3
def agentHost : Nat := 4
def agentAudit : Nat := 5

/-! ## Stack memory -/

/-- The stack of a package physical address (R45). -/
def stackOf (pa : Nat) : Nat := 2 * (pa / 0x3000000000) + pa / 4096 % 2

/-- The translation entry whose page a frame backs. -/
def State.pageOfFrame (s : State) (frame : Nat) : Option (Nat × U64) :=
  s.mem.xlt.find? (fun e => entryBit e.2 0 && entryFrame e.2 == frame)

/-- The entry of the page that a physical address backs. -/
def State.entryAt (s : State) (pa : Nat) : Option U64 := (s.pageOfFrame (pa / 0x200000)).map Prod.snd

/-- The mark of the line at a physical address. -/
def State.lineMark (s : State) (pa : Nat) : Option LineMark := kvGet s.mem.marks (pa / 128)

/-- 24 hours in nanoseconds. -/
def dayNs : Nat := 86400000000000

/-- Blocks left in a stack's reserve (R346). -/
def Stack.blocksLeft (k : Stack) : Nat := 131072 - k.blockMap.length

/-- Decide the retirement of a block, or leave it in place on an empty reserve (R344, R348). -/
def decideRetire (s : State) (pa : Nat) : State :=
  let n := stackOf pa
  let b := pa / 4096
  let k := s.stk n
  if k.retiring.contains b || k.inPlace.contains b then s
  else if k.blocksLeft = 0 then
    raise (s.modStk n (fun k => { k with inPlace := k.inPlace ++ [b], foundEmpty := true })) 0x4202 (srcStack n) (b * 4096) 0
  else s.modStk n (fun k => { k with retiring := k.retiring ++ [b] })

/-- Record an error of a block for the thresholds of R344; kind 0 corrected, 1 CRC mismatch. -/
def noteError (s : State) (pa kind : Nat) : State :=
  let n := stackOf pa
  let b := pa / 4096
  let s := s.modStk n (fun k => { k with history := k.history ++ [(b, kind, s.tim.now)] })
  let recent := (s.stk n).history.filter (fun e => e.1 == b && e.2.1 == kind && s.tim.now.toNat < e.2.2.toNat + dayNs)
  if (kind = 0 && 16 ≤ recent.length) || (kind = 1 && 2 ≤ recent.length) then decideRetire s pa else s

/-- Set a line's mark. -/
def markLine (s : State) (pa : Nat) (k : LineMark) : State :=
  { s with mem := { s.mem with marks := kvSet s.mem.marks (pa / 128) k } }

/-- The address and kind of the last line poisoned or lost (Table 10.6). -/
def noteLost (s : State) (pa : Nat) (lost scrub : Bool) : State :=
  let b := stackBase (stackOf pa)
  (s.setReg64 (b + 0x20) (pa / 128 * 128)).setReg (b + 0x28) (bitAt lost 0 + bitAt scrub 1)

/-- What a read finds in a line with an error of a kind (R332, R333, R334). -/
def lineError (s : State) (pa : Nat) (uncorrectable scrub : Bool) : State :=
  let n := stackOf pa
  let ln := pa / 128
  let act := match s.entryAt pa with | some e => entryClass e == 1 | none => false
  if act then
    let s := noteLost (bump (markLine s pa .poisoned) (stackBase n) 3 1) pa false scrub
    let s := if s.mem.eventLines.contains ln then s
             else raise { s with mem := { s.mem with eventLines := natInsert s.mem.eventLines ln } } 0x4207 (srcStack n) (ln * 128) 0
    noteError s pa 1
  else if uncorrectable then
    let s := noteLost (bump (markLine s pa .lost) (stackBase n) 4 1) pa true scrub
    let s := report (raise s 0x4206 (srcStack n) (ln * 128) 0) 0x8221 (ln * 128) 0
    decideRetire s pa
  else noteError (bump s (stackBase n) 2 1) pa 0

/-- Read a line's check information: an error that the line holds is found now. -/
def senseLine (s : State) (pa : Nat) : State :=
  match kvGet s.mem.latent (pa / 128) with
  | none => s
  | some u => lineError { s with mem := { s.mem with latent := kvErase s.mem.latent (pa / 128) } } pa u false

/-- Read the check information of a range's lines: every error that they hold is found now (R332 to R334). -/
def senseLines (s : State) (pa n : Nat) : State :=
  ((s.mem.latent.map Prod.fst).filter (fun l => overlaps (l * 128) 128 pa n)).foldl (fun s l => senseLine s (l * 128)) s

/-- Read a granule for the checkpoint: its lines are sensed (R332 to R334). -/
def senseGranule (s : State) (g : Nat) : State := senseLines s (g * 65536) 65536

/-- The stored bytes of a granule as a memory of their own (R353). -/
def granuleCells (m : Memory) (g : Nat) : Memory :=
  (m.filter (fun c => g * 65536 ≤ c.1 && c.1 < (g + 1) * 65536)).map (fun c => (c.1 - g * 65536, c.2))

/-- Slots of a die's staging area in use (R353). -/
def State.slotsUsed (s : State) (die : Nat) : Nat :=
  (s.mem.staging.filter (fun e => e.1 * 65536 / 0x3000000000 == die)).length

/-- A write to a granule finds no staging slot for its capture (R355). -/
def noSlot (s : State) (g : Nat) : Bool :=
  s.mem.windowOpen && s.mem.ckptPend.contains g && 4096 ≤ s.slotsUsed (g * 65536 / 0x3000000000)

/-- A write to a granule must wait: it has no slot, or an earlier write to the granule waits. -/
def needsSlot (s : State) (g : Nat) : Bool := noSlot s g || s.mem.stalled.any (fun w => w.1 / 65536 == g)

/-- Stack memory as its readers find it: a write that waits for a slot is forwarded to later reads (log 26). -/
def State.viewBytes (s : State) : Memory := s.mem.stalled.foldl (fun m w => Memory.write m w.1 w.2) s.mem.bytes

/-- Dirty tracking of a write (R350, R353): capture the pre-image of a pending granule, set the live bit. -/
def trackWrite (s : State) (pa : Nat) : State :=
  match s.entryAt pa with
  | none => s
  | some e =>
    if !entryBit e 6 then s
    else
      let g := pa / 65536
      let s :=
        if s.mem.windowOpen && s.mem.ckptPend.contains g then
          let s := senseGranule s g
          bump { s with mem := { s.mem with staging := kvSet s.mem.staging g (granuleCells s.mem.bytes g),
                                            ckptPend := natErase s.mem.ckptPend g } } (stackBase (stackOf pa)) 8 1
        else s
      { s with mem := { s.mem with dirty := natInsert s.mem.dirty g } }

/-- Perform a write within one 128-byte line of stack memory (R337), after the capture that it needs (R353): a part of a
line keeps its mark, a whole line clears it. -/
def performWrite (s : State) (pa : Nat) (bs : List Byte) : State :=
  let s := trackWrite s pa
  let whole := pa % 128 = 0 && bs.length = 128
  let s := if whole then { s with mem := { s.mem with marks := kvErase s.mem.marks (pa / 128),
                                                       latent := kvErase s.mem.latent (pa / 128) } }
           else senseLine s pa
  bump { s with mem := { s.mem with bytes := Memory.write s.mem.bytes pa bs } } (stackBase (stackOf pa)) 1 bs.length

/-- Entries of a fabric die's combining table in use: its sets, and the reads that may still be in progress (R386). -/
def State.combineUsed (s : State) (fd : Nat) : Nat :=
  (s.fab.sets.filter (fun e => e.fd == fd)).length +
  (s.fab.reads.filter (fun e => e.fd == fd && s.tim.now.toNat ≤ e.at_.toNat + 2000)).length

/-- A write or atomic to a line closes the fabric reads of it that are in progress, so that later ones do not join (R386). -/
def closeReads (s : State) (pa : Nat) : State :=
  if s.fab.reads.any (fun e => e.line == pa / 128) then
    { s with fab := { s.fab with reads := s.fab.reads.filter (fun e => e.line != pa / 128) } }
  else s

/-- Write bytes within one line: performed at once, or stalled until a slot is free (R355). -/
def writeLine (s : State) (pa : Nat) (bs : List Byte) : State :=
  let s := closeReads s pa
  if needsSlot s (pa / 65536) then
    bumpClocks { s with mem := { s.mem with stalled := s.mem.stalled ++ [(pa, bs)] } } (stackBase (stackOf pa)) 9
  else performWrite s pa bs

/-- Read bytes within one line, with the line's mark. -/
def readLine (s : State) (pa n : Nat) : State × List Byte × Option LineMark :=
  let s := bump (senseLine s pa) (stackBase (stackOf pa)) 0 n
  (s, Memory.read s.viewBytes pa n, s.lineMark pa)

/-- The stack holds accesses to a physical address: it is hot or refreshes itself, or the block is being retired (R342,
R344, R526). -/
def State.stackHeld (s : State) (pa : Nat) : Bool :=
  let k := s.stk (stackOf pa)
  k.hotStop || k.selfRefresh || k.retiring.contains (pa / 4096)

/-- New accesses to a physical address wait: at the stack, or for a restore-pending page (R342, R344, R490, R526). -/
def State.paHeld (s : State) (pa : Nat) : Bool :=
  s.stackHeld pa ||
  (match s.pageOfFrame (pa / 0x200000) with | some p => s.mem.restorePending.contains p.1 | none => false)

/-! ## Tile stores as memory -/

/-- An entry of pool 0x1 (Table 1.8): 32 names the spare group, 0x3F no group. -/
def rowEntry (die tile bank group phys : Nat) : Nat :=
  0x10000000 + die * 0x4000000 + tile * 0x40000 + bank * 0x2000 + group * 0x100 + phys

/-- A bank's spare group has been used: one of its groups has been replaced (R130). -/
def Rigger.bankSpent (r : Rigger) (die tile bank : Nat) : Bool :=
  r.failed.any (fun u => match u with | .rowGroup d p b _ => d == die && p == tile && b == bank | _ => false)

/-- A row group of a tile store is marked for replacement at the next teardown (R130). A group that fails while a job is
bound is a member fault (R37), as is one for which its bank has no spare left (Table 14.1; DEDUCED, log 42). -/
def markRowGroup (s : State) (t : TileId) (line : Nat) : State :=
  let bank := line % 24
  let group := line / 24 / 32
  let d := t.die.toNat
  let p := t.phys.toNat
  if (s.tile t).rowPending.contains (bank, group) then s
  else
    let spent := s.rig.bankSpent d p bank || (s.tile t).rowPending.any (fun e => e.1 == bank)
    let s := s.modTile t (fun x => { x with rowPending := x.rowPending ++ [(bank, group)] })
    let s := { s with rig := { s.rig with awaiting := s.rig.awaiting ++ [.rowGroup d p bank group] } }
    let s := raise s 0x4611 (srcTile t) 0 0
    if s.bound || spent then
      report s 0x8712 (rowEntry d p bank group (if s.rig.rowGroups.contains (d, p, bank, group) then 32 else group)) 0x8635
    else s

/-- A read of a tile-store sector with an error (R107, R108, R130): corrected ones count toward the
threshold of 64 in 1 s, an uncorrectable one poisons its line. -/
def sectorError (s : State) (t : TileId) (sector : Nat) (uncorrectable : Bool) : State :=
  let line := sector / 4
  if uncorrectable then
    let s := s.modTile t (fun x => { x with poison := kvSet x.poison line .storeError, poisonSeen := true })
    markRowGroup (bump s (tileRegs t) 6 1) t line
  else
    let key := line % 24 * 32 + line / 24 / 32
    let s := s.modTile t (fun x => { x with corrected := (x.corrected ++ [(key, s.tim.now)]).filter (fun e =>
      s.tim.now.toNat < e.2.toNat + 1000000000) })
    let s := bump s (tileRegs t) 5 1
    if 64 ≤ ((s.tile t).corrected.filter (fun e => e.1 == key)).length then markRowGroup s t line else s

/-- A read of a range of a tile store finds the errors that its sectors hold. -/
def senseStore (s : State) (t : TileId) (off n : Nat) : State :=
  let hit (e : Nat × Bool) : Bool := overlaps (e.1 * 32) 32 off n
  let found := (s.tile t).latent.filter hit
  if found.isEmpty then s
  else found.foldl (fun s e => sectorError s t e.1 e.2) (s.modTile t (fun x => { x with latent := x.latent.filter (fun e => !hit e) }))

/-- Read a tile store through the window, with the poison of its line (R109). -/
def readStore (s : State) (die log off n : Nat) : State × List Byte × Option LineMark :=
  match s.physTile die log with
  | none => (s, zeroBytes n, none)
  | some t =>
    let s := senseStore s t off n
    let x := s.tile t
    (s, Memory.read x.store off n, (kvGet x.poison (off / 128)).map (fun _ => LineMark.poisoned))

/-- Write a tile store; a whole line clears its poison (R109), and a tile that a job writes is one that it used (R110). -/
def writeStore (s : State) (die log off : Nat) (bs : List Byte) : State :=
  match s.physTile die log with
  | none => s
  | some t => s.modTile t (fun x =>
      { x with store := Memory.write x.store off bs, used := x.used || s.bound,
               latent := x.latent.filter (fun e => !(off ≤ e.1 * 32 && e.1 * 32 + 32 ≤ off + bs.length)),
               poison := if off % 128 = 0 && bs.length = 128 then kvErase x.poison (off / 128) else x.poison })

/-! ## Accesses by job virtual address -/

/-- Read within one line at a location. -/
def readLoc (s : State) (l : Loc) (n : Nat) : State × List Byte × Option LineMark :=
  match l with
  | .stack pa => readLine s pa n
  | .store d t o => readStore s d t o n
  | .void => (s, zeroBytes n, none)
  | .host a => (s, Memory.read s.hostMem a n, none)

/-- Write within one line at a location. -/
def writeLoc (s : State) (l : Loc) (bs : List Byte) : State :=
  match l with
  | .stack pa => writeLine s pa bs
  | .store d t o => writeStore s d t o bs
  | .void => s
  | .host a => { s with hostMem := Memory.write s.hostMem a bs }

/-- Cut a range into pieces that lie within one line each: address and length. -/
def linePieces : Nat → Nat → Nat → List (Nat × Nat)
  | 0, _, _ => []
  | f + 1, a, n => if n = 0 then [] else
      let k := min n (128 - a % 128)
      (a, k) :: linePieces f (a + k) (n - k)

/-- The translation cache misses of an access to a mapped page: a free amount (R357). FREE VALUE (log 10). -/
def countMisses (s : State) (va : Nat) (l : Loc) : State :=
  match l with
  | .stack _ => bump s xltBase 0 (Config.xltMisses (s.reg64 (xltBase + 0x100)) va)
  | _ => s

/-- The pieces of a range. -/
def piecesOf (a n : Nat) : List (Nat × Nat) := linePieces (n / 128 + 2) a n

/-- The status of a mark: ACT_POISON or STATE_LOSS. -/
def markStatus (k : LineMark) : Nat := match k with | .poisoned => 0x8220 | .lost => 0x8221

/-- Whether an address would be held (R490, R527). -/
def State.vaHeld (s : State) (va : Nat) : Bool :=
  match resolve s va false with
  | .ok (.stack pa) => s.paHeld pa
  | _ => false

/-- Whether any line of a range is held. -/
def State.rangeHeld (s : State) (va n : Nat) : Bool := (piecesOf va n).any (fun p => s.vaHeld p.1)

/-- Read pieces in order; stops with a status at the first piece that faults or carries a mark. -/
def readPieces (agent : Nat) : List (Nat × Nat) → State → List Byte → State × Nat × List Byte
  | [], s, acc => (s, 0, acc)
  | (a, n) :: r, s, acc =>
    match resolve s a false with
    | .error st => (xltFault s agent a st, st, acc)
    | .ok l =>
      match readLoc (countMisses s a l) l n with
      | (s, _, some k) => (s, markStatus k, acc)
      | (s, bs, none) => readPieces agent r s (acc ++ bs)

/-- Read a range by job virtual address: the bytes, or the status that ends it. -/
def readVA (s : State) (agent va n : Nat) : State × Nat × List Byte := readPieces agent (piecesOf va n) s []

/-- Write pieces in order; stops with a status at the first piece that faults. -/
def writePieces (agent : Nat) : List (Nat × Nat) → State → List Byte → State × Nat
  | [], s, _ => (s, 0)
  | (a, n) :: r, s, bs =>
    match resolve s a true with
    | .error st => (xltFault s agent a st, st)
    | .ok l => writePieces agent r (writeLoc (countMisses s a l) l (bs.take n)) (bs.drop n)

/-- Write a range by job virtual address: the status. -/
def writeVA (s : State) (agent va : Nat) (bs : List Byte) : State × Nat :=
  writePieces agent (piecesOf va bs.length) s bs

/-- Write a record whose range is checked before any of it is written. -/
def writeRecord (s : State) (agent va : Nat) (bs : List Byte) : State × Nat :=
  match (piecesOf va bs.length).filterMap (fun p =>
      match resolve s p.1 true with | .error st => some (p.1, st) | .ok _ => none) with
  | (a, st) :: _ => (xltFault s agent a st, st)
  | [] => writeVA s agent va bs

/-- Bytes that the manual does not give. FREE VALUES (log 6). -/
def State.drawBytes (s : State) (n : Nat) : List Byte × State :=
  ((List.range n).map (fun i => BitVec.setWidth 8 (Config.freeBits (s.free + i))), { s with free := s.free + n })

/-- A range that a unit has used as its own work area holds bytes that the manual does not give. FREE VALUES (log 6). -/
def spoilRange (s : State) (agent va n : Nat) : State :=
  (piecesOf va n).foldl (fun s p => (writeVA (s.drawBytes p.2).2 agent p.1 (s.drawBytes p.2).1).1) s

/-- Each line of a range keeps what it holds or takes bytes that the manual does not give. FREE VALUES (log 6). -/
def tatterRange (s : State) (agent va n : Nat) : State :=
  (piecesOf va n).foldl (fun s p => if s.drawBool.1 then spoilRange s.drawBool.2 agent p.1 p.2 else s.drawBool.2) s

/-! ## Sync counters (R432 to R434) -/

/-- The value of a sync counter. -/
def State.syncVal (s : State) (c : Nat) : Nat := (kvGetD s.sync.counters c (0 : U64)).toNat

/-- Store a sync counter; a counter at zero is not listed. -/
def storeSync (s : State) (c v : Nat) : State :=
  { s with sync := { s.sync with counters :=
      if v % 2 ^ 64 = 0 then kvErase s.sync.counters c else kvSet s.sync.counters c (BitVec.ofNat 64 v) } }

/-- The fabric die of a sync counter (R432). -/
def syncDie (c : Nat) : Nat := c / 8192

/-- After an operation on a counter: the sync-counter catch condition (R596), which fires once. -/
def syncCatch (s : State) (c : Nat) : State :=
  if s.regBit snapBase 1 && bitsOf (s.reg (snapBase + 0x10)) 13 0 == c &&
     s.reg64 (snapBase + 0x18) ≤ s.syncVal c then
    takeCatch (s.setRegBit snapBase 1 false) 1
  else s

/-- Add to a sync counter: modulo 2^64, a wrap is counted and raised once per counter and job (R434). -/
def syncAdd (s : State) (c v : Nat) : State :=
  let old := s.syncVal c
  let s := storeSync s c (old + v)
  let s :=
    if old + v < 2 ^ 64 then s
    else
      let s := bump s (collBase (syncDie c)) 8 1
      if s.sync.wrapped.contains c then s
      else raise { s with sync := { s.sync with wrapped := natInsert s.sync.wrapped c } } 0x4402 (srcFab (syncDie c)) 0 c
  syncCatch s c

/-- Set a sync counter. -/
def syncSet (s : State) (c v : Nat) : State := syncCatch (storeSync s c v) c

/-- Wait entries in use on a fabric die (R435). -/
def State.waitsUsed (s : State) (m : Nat) : Nat :=
  (s.sync.waits.filter (fun w => syncDie w.counter == m && !w.polled)).length

/-- Enter a wait: in the table, or polled when the table is full, which is counted and raised once per
episode (R435). -/
def addWait (s : State) (who : Waiter) (c v : Nat) : State :=
  let m := syncDie c
  let full := 4096 ≤ s.waitsUsed m
  let first := full && !(s.sync.waits.any (fun w => syncDie w.counter == m && w.polled))
  let s := { s with sync := { s.sync with waits := s.sync.waits ++ [⟨who, c, BitVec.ofNat 64 v, full⟩] } }
  let s := if full then bump s (collBase m) 9 1 else s
  if first then raise s 0x4403 (srcFab m) 0 0 else s

/-- The pending wait of a waiter. -/
def State.waitOf (s : State) (who : Waiter) : Option Wait := s.sync.waits.find? (fun w => w.who == who)

/-- Remove a waiter's wait. -/
def dropWait (s : State) (who : Waiter) : State :=
  { s with sync := { s.sync with waits := dropFirst (fun w => w.who == who) s.sync.waits } }

end Sys2Proof.Machine
end

