-- ==== Sys2Proof/Machine/Clock.lean ====
section
/-! DEFINITION. The time unit's shared operations: choice of the source, stepping and slewing, and the
tick of an idle nanosecond (R591 to R595). -/

namespace Sys2Proof.Machine

/-- A source is enabled in TIM_CTRL. -/
def State.timeOn (s : State) (src : TimeSrc) : Bool :=
  match src with
  | .ptp => s.regBit (timBase + 0xC) 0
  | .azmarlink => s.regBit (timBase + 0xC) 1
  | .evfek => s.regBit (timBase + 0xC) 2

/-- The highest-priority source that is enabled and locked (R592). -/
def State.bestSource (s : State) : Option TimeSrc :=
  [TimeSrc.ptp, .azmarlink, .evfek].find? (fun x => s.timeOn x && s.tim.locked.contains x)

/-- SOURCE of TIM_STATUS. -/
def sourceCode (o : Option TimeSrc) : Nat :=
  match o with | none => 0 | some .ptp => 1 | some .azmarlink => 2 | some .evfek => 3

/-- The counter has been synchronised since power-up. -/
def State.synced (s : State) : Bool := s.regBit (timBase + 8) 0

/-- Follow the best source: a change is counted, shown, and raises 0x4906; with none the unit is in holdover. -/
def refreshSource (s : State) : State :=
  let b := s.bestSource
  if b = s.tim.source then s
  else
    let s := if s.tim.source.isNone && s.synced then bumpClocks s timBase 1 else s
    let s := { s with tim := { s.tim with source := b, lostAt := s.tim.now } }
    let s := s.setRegBits (timBase + 8) 4 1 (bitAt b.isSome 0 + sourceCode b * 2 + bitAt (b.isNone && s.synced) 3)
    raise (bump s timBase 0 1) 0x4906 srcTim 0 (sourceCode b)

/-- A signed offset as TIM_OFFSET shows it: saturated at ±(2^31 − 1). -/
def offsetReg (x : Int) : Nat := (max (-2147483647) (min 2147483647 x) % 4294967296).toNat

/-- The multiple of a second that lies nearest to a difference. -/
def nearestSecond (x : Int) : Int := (x + 500000000) / 1000000000 * 1000000000

/-- A time of the selected source: the first one steps the counter forward, later ones leave an offset
to slewing (R595); with a 1PPS input they supply only the seconds (R593). -/
def applyTime (s : State) (t : Nat) : State :=
  let off : Int := (t : Int) - (s.tim.now.toNat : Int)
  if !s.synced then
    let now := max s.tim.now.toNat t
    let rest : Int := (t : Int) - (now : Int)
    ({ s with tim := { s.tim with now := BitVec.ofNat 64 now, slew := rest } }.setRegBit (timBase + 8) 0 true).setReg
      (timBase + 0x10) (offsetReg rest)
  else
    let goal := if s.regBit (timBase + 0xC) 3 && s.tim.ppsSeen then nearestSecond off else off
    bumpClocks ({ s with tim := { s.tim with slew := goal } }.setReg (timBase + 0x10) (offsetReg off)) timBase 2

/-- A source delivers a time: it is locked, and the counter follows it when it is the selected one. -/
def timeFrom (s : State) (src : TimeSrc) (t : Nat) : State :=
  let s := { s with tim := { s.tim with locked := if s.tim.locked.contains src then s.tim.locked else s.tim.locked ++ [src] } }
  let s := refreshSource s
  if s.tim.source = some src then applyTime s t else s

/-- A source loses lock. -/
def loseSource (s : State) (src : TimeSrc) : State :=
  refreshSource { s with tim := { s.tim with locked := s.tim.locked.filter (fun x => x != src) } }

/-- One nanosecond: the counter advances by one, and every 2,000 ns by one more or one less while an
offset is left to slew, which is 500 ppm (R591, R595; log 2). -/
def tick (s : State) : State :=
  let t := s.tim
  if !s.pins.powered then s
  else if t.slew = 0 then { s with tim := { t with now := t.now + 1, slewAcc := 0 } }
  else if t.slewAcc < 1999 then { s with tim := { t with now := t.now + 1, slewAcc := t.slewAcc + 1 } }
  else if 0 < t.slew then { s with tim := { t with now := t.now + 2, slew := t.slew - 1, slewAcc := 0 } }
  else { s with tim := { t with slew := t.slew + 1, slewAcc := 0 } }

end Sys2Proof.Machine
end

