-- ==== Sys2Proof/Machine/Flags.lean ====
section
/-! DEFINITION. The two flag records of a tile (Table 2.8): setting by an output tile, clearing, and the
count of output tiles since the last clear (R76 to R78, R126). -/

namespace Sys2Proof.Machine

/-- What an output tile finds for NAN_INF: KIND, SOURCE (1 element engine) and POSITION. -/
structure NanInf where
  kind     : Nat
  element  : Bool
  position : Nat
  deriving DecidableEq, Repr

/-- The bits of a flag record (Table 2.8). -/
def flagRecord (kind : Nat) (element : Bool) (outIndex position : Nat) : Nat :=
  0x80000000 + kind % 4 * 0x10000000 + bitAt element 27 + outIndex % 8192 * 0x4000 + position % 0x4000

/-- A record after an output tile that sets its flag: the first one is described, a later one sets MORE. -/
def mergeFlag (old new : Nat) : Nat := if bitOf old 31 then setBits old 30 30 1 else new

/-- Count an output tile against both records, and set the flags that it raises. -/
def noteOutTile (s : State) (t : TileId) (nan : Option NanInf) (ewl : Option Nat) : State :=
  let x := s.tile t
  let s := match nan with
    | some k => s.setReg (tileRegs t + 0x20) (mergeFlag (s.reg (tileRegs t + 0x20)) (flagRecord k.kind k.element x.outIndex k.position))
    | none => s
  let s := match ewl with
    | some p => s.setReg (tileRegs t + 0x24) (mergeFlag (s.reg (tileRegs t + 0x24)) (flagRecord 0 false x.outIndexEwl p))
    | none => s
  s.modTile t (fun x => { x with outIndex := (x.outIndex + 1) % 8192, outIndexEwl := (x.outIndexEwl + 1) % 8192 })

/-- Clear the NAN_INF record (bit 0), the E_WINDOW_LOSS record (bit 1), or both (R126). -/
def clearFlags (s : State) (t : TileId) (which : Nat) : State :=
  let s := if bitOf which 0 then
      (s.setReg (tileRegs t + 0x20) 0).modTile t (fun x => { x with outIndex := 0 }) else s
  if bitOf which 1 then (s.setReg (tileRegs t + 0x24) 0).modTile t (fun x => { x with outIndexEwl := 0 }) else s

end Sys2Proof.Machine
end

