-- ==== Sys2Proof/Machine/Shake.lean ====
section
/-! DEFINITION. SHAKE256 (FIPS 202), the digest that the manual names by R35, R442, R443, R450, R474 and
R493. PRESUMED: the standard's algorithm (log 7). -/

namespace Sys2Proof.Machine

/-- The first bits of the register that gives the round constants: from the value x, its bit 0 and those of its next steps. -/
def roundBits : Nat → Nat → List Bool
  | 0, _ => []
  | n + 1, x => bitOf x 0 :: roundBits n (if 128 ≤ x then (2 * x) ^^^ 0x171 else 2 * x)

/-- The constants of the 24 rounds: seven bits each, at the places 2^j − 1. -/
def roundConstants : List (BitVec 64) :=
  (List.range 24).map (fun r =>
    BitVec.ofNat 64 (((roundBits 168 1).drop (7 * r)).take 7 |>.mapIdx (fun j b => if b then 2 ^ (2 ^ j - 1) else 0)).sum)

/-- The walk over the lanes but (0, 0): each with its turn, the triangular numbers. -/
def laneWalk : Nat → Nat → Nat → List (Nat × Nat)
  | 0, _, _ => []
  | n + 1, x, y => (x + 5 * y, (24 - n) * (25 - n) / 2) :: laneWalk n y ((2 * x + 3 * y) % 5)

/-- By how much a lane is turned. -/
def laneTurns : List Nat := (List.range 25).map (fun i => kvGetD (laneWalk 24 1 0) i 0 % 64)

/-- A state of 25 lanes, lane (x, y) at x + 5 y: a lane by its coordinates, taken modulo 5. -/
def laneAt (a : List (BitVec 64)) (x y : Nat) : BitVec 64 := a.getD (x % 5 + 5 * (y % 5)) 0

/-- A state from its lanes. -/
def lanes (f : Nat → Nat → BitVec 64) : List (BitVec 64) := (List.range 25).map (fun i => f (i % 5) (i / 5))

/-- θ: every lane takes the parity of the column before it and that of the column after it, turned by one. -/
def mixColumns (a : List (BitVec 64)) : List (BitVec 64) :=
  let par := (List.range 5).map (fun x => (List.range 5).foldl (fun p y => p ^^^ laneAt a x y) 0)
  lanes (fun x y => laneAt a x y ^^^ laneAt par (x + 4) 0 ^^^ (laneAt par (x + 1) 0).rotateLeft 1)

/-- ρ and π: the lanes are turned, and lane (x, y) of the result is lane (x + 3 y, x). -/
def turnLanes (a : List (BitVec 64)) : List (BitVec 64) :=
  let b := (a.zip laneTurns).map (fun e => e.1.rotateLeft e.2)
  lanes (fun x y => laneAt b (x + 3 * y) x)

/-- χ and ι: each row is combined, and lane (0, 0) takes the round's constant. -/
def mixRows (a : List (BitVec 64)) (rc : BitVec 64) : List (BitVec 64) :=
  lanes (fun x y => laneAt a x y ^^^ (laneAt a (x + 2) y &&& ~~~ laneAt a (x + 1) y) ^^^ (if x + y = 0 then rc else 0))

/-- The permutation of 24 rounds. -/
def keccakF (a : List (BitVec 64)) : List (BitVec 64) := roundConstants.foldl (fun a rc => mixRows (turnLanes (mixColumns a)) rc) a

/-- The rate of SHAKE256 in bytes. -/
def shakeRate : Nat := 136

/-- Absorb one block of 136 bytes. -/
def absorb (a : List (BitVec 64)) (blk : List Byte) : List (BitVec 64) :=
  keccakF (a.mapIdx (fun i x => x ^^^ BitVec.ofNat 64 (leNat ((blk.drop (8 * i)).take 8))))

/-- Absorb the message block by block; the last block carries the padding 0x1F … 0x80. -/
def absorbAll : Nat → List (BitVec 64) → List Byte → List (BitVec 64)
  | 0, a, _ => a
  | f + 1, a, m =>
    if m.length < shakeRate then
      let p := m ++ [0x1F] ++ List.replicate (shakeRate - 1 - m.length) (0 : Byte)
      absorb a (p.mapIdx (fun i b => if i = shakeRate - 1 then b ||| 0x80 else b))
    else absorbAll f (absorb a (m.take shakeRate)) (m.drop shakeRate)

/-- The lanes that have absorbed a message. -/
def shakeLanes (m : List Byte) : List (BitVec 64) := absorbAll (m.length / shakeRate + 1) (List.replicate 25 0) m

/-- The first 64 bytes of SHAKE256 of a byte string: every digest of the manual has at most 64. -/
def shake256 (m : List Byte) : List Byte := ((shakeLanes m).take 8).flatMap (fun x => leBytes 8 x.toNat)

/-- The first n bytes of SHAKE256 of a byte string, for n up to 136. -/
def shakeBytes (n : Nat) (m : List Byte) : List Byte := ((shakeLanes m).take 17).flatMap (fun x => leBytes 8 x.toNat) |>.take n

end Sys2Proof.Machine
end

