-- ==== Sys2Proof/Machine/Ed448.lean ====
section
/-! DEFINITION. Verifying Ed448 signatures (RFC 8032), which R454 names for every signature of the manual. PRESUMED: the
standard's curve, encodings and group equation (log 7). -/

namespace Sys2Proof.Machine

/-- The value of f at a number, with the number evaluated first. -/
def evalNat {α : Type} (n : Nat) (f : Nat → α) : α :=
  match n with
  | 0 => f 0
  | k + 1 => f (k + 1)

/-- The field's prime, and the order of the base point. -/
def edP : Nat := 2 ^ 448 - 2 ^ 224 - 1
def edL : Nat := 2 ^ 446 - 13818066809895115352007386748515426880336692474882178609894547503885

/-- The curve is x² + y² = 1 − 39081 x² y²; the difference of two field elements. -/
def edSub (a b : Nat) : Nat := (a + (edP - b % edP)) % edP
def edD : Nat := edP - 39081

/-- A point in projective coordinates: x = X/Z and y = Y/Z. -/
structure EdPoint where
  x : Nat
  y : Nat
  z : Nat
  deriving DecidableEq, Repr

/-- The neutral point. -/
def EdPoint.zero : EdPoint := ⟨0, 1, 1⟩

/-- The base point. -/
def EdPoint.base : EdPoint :=
  ⟨0x4f1970c66bed0ded221d15a622bf36da9e146570470f1767ea6de324a3d3a46412ae1af72ab66511433b80e18b00938e2626a82bc70cc05e,
   0x693f46716eb6bc248876203756c9c7624bea73736ca3984087789c1e05a0c2d73ad3ff1ce67c39c4fdbd132c4ed7c8ad9808795bf230fa14, 1⟩

/-- The sum of two points. -/
def EdPoint.add (p q : EdPoint) : EdPoint :=
  evalNat (p.z * q.z % edP) fun a =>
  evalNat (p.x * q.x % edP) fun c =>
  evalNat (p.y * q.y % edP) fun d =>
  evalNat (a * a % edP) fun b =>
  evalNat (edD * c % edP * d % edP) fun e =>
  evalNat (edSub b e) fun f =>
  evalNat ((b + e) % edP) fun g =>
  evalNat (edSub ((p.x + p.y) * (q.x + q.y)) (c + d)) fun h =>
  evalNat (a * f % edP * h % edP) fun x =>
  evalNat (a * g % edP * edSub d c % edP) fun y =>
  evalNat (f * g % edP) fun z => ⟨x, y, z⟩

/-- n times a point added to another, for n below 2^fuel. -/
def EdPoint.addTimes : Nat → Nat → EdPoint → EdPoint → EdPoint
  | 0, _, _, q => q
  | f + 1, n, p, q =>
    if n = 0 then q
    else match p.add p, (if n % 2 = 1 then q.add p else q) with
      | ⟨x, y, z⟩, ⟨a, b, c⟩ => evalNat (n / 2) fun m => EdPoint.addTimes f m ⟨x, y, z⟩ ⟨a, b, c⟩

/-- n times a point. -/
def EdPoint.times (n : Nat) (p : EdPoint) : EdPoint := EdPoint.addTimes 448 n p EdPoint.zero

/-- Four times a point. -/
def EdPoint.fourfold (p : EdPoint) : EdPoint := (p.add p).add (p.add p)

/-- Two points are the same. -/
def EdPoint.same (p q : EdPoint) : Bool := p.x * q.z % edP == q.x * p.z % edP && p.y * q.z % edP == q.y * p.z % edP

/-- r times the n-th power of a field element, for n below 2^fuel. -/
def edPow : Nat → Nat → Nat → Nat → Nat
  | 0, _, _, r => r
  | f + 1, n, b, r =>
    evalNat (b * b % edP) fun c =>
    evalNat (if n % 2 = 1 then r * b % edP else r) fun q =>
    evalNat (n / 2) fun m => edPow f m c q

/-- The point that 57 bytes encode, if they encode one: y in the low 455 bits, the parity of x in the top bit. -/
def decodePoint (bs : List Byte) : Option EdPoint :=
  evalNat (leNat bs % 2 ^ 455) fun y =>
  evalNat (edSub (y * y) 1) fun u =>
  evalNat (edSub (edD * (y * y % edP)) 1) fun v =>
  evalNat (edPow 448 ((edP - 3) / 4) (u ^ 5 * v ^ 3 % edP) (u ^ 3 * v % edP)) fun x =>
  if edP ≤ y || v * x % edP * x % edP != u || (x == 0 && leNat bs / 2 ^ 455 == 1) then none
  else some ⟨if x % 2 = leNat bs / 2 ^ 455 then x else edP - x, y, 1⟩

/-- The number that the digest of a signature's commitment, the key and the message gives, under a context. -/
def challengeNat (context r key msg : List Byte) : Nat :=
  leNat (shakeBytes 114 (asciiBytes "SigEd448" ++ [0, BitVec.ofNat 8 context.length] ++ context ++ r ++ key ++ msg)) % edL

/-- A signature of 114 bytes over a message verifies under a key of 57, pure Ed448 with a context (R454): four times S B
is four times R + k A. -/
def ed448Verify (key : List Byte) (context : String) (msg sig : List Byte) : Bool :=
  evalNat (leNat (sig.drop 57)) fun s =>
  evalNat (challengeNat (asciiBytes context) (sig.take 57) key msg) fun k =>
  match decodePoint key, decodePoint (sig.take 57) with
  | some a, some r =>
    key.length == 57 && sig.length == 114 && decide (s < edL) &&
    (EdPoint.base.times s).fourfold.same (EdPoint.addTimes 448 k a r).fourfold
  | _, _ => false

end Sys2Proof.Machine
end

