-- ==== Sys2Proof/Machine/View.lean ====
section
/-! DEFINITION. What the package shows of itself: the rigger entries and their digest (R34, R35), the
GEOMETRY descriptor (Table 1.4), the value that each register reads, and the summary record (Table 16.7). -/

namespace Sys2Proof.Machine

/-! ## Rigger entries -/

/-- An entry of pools 0x0 and 0x2 to 0x4 (Table 1.8). -/
def riggerEntry (pool unit logical : Nat) (phys : Option Nat) : Nat :=
  pool * 0x10000000 + unit * 0x100000 + logical * 0x400 + phys.getD 0x3FF

/-- Data wires of a bridge (Table 1.13). -/
def bridgeWires (b : Nat) : Nat := if b < 8 then 800 else 200

/-- The physical position of a data wire. -/
def wirePos (r : Rigger) (b w : Nat) : Option Nat :=
  if r.wireLost.contains (b, w) then none
  else match r.wireSubs.find? (fun e => e.1 == b && e.2.1 == w) with
    | some e => some e.2.2
    | none => some w

/-- Row groups with an entry: mapped to the spare group, or failed with none. -/
def rowGroupEntries (r : Rigger) : List Nat :=
  let mapped := r.rowGroups.map (fun e => rowEntry e.1 e.2.1 e.2.2.1 e.2.2.2 32)
  let lost := r.failed.filterMap (fun u => match u with
    | .rowGroup d p b g => if r.rowGroups.contains (d, p, b, g) then none else some (rowEntry d p b g 0x3F)
    | _ => none)
  (mapped ++ lost).foldl natInsert []

/-- All entries in ascending value (R35). -/
def riggerEntries (r : Rigger) : List Nat :=
  (r.tiles.mapIdx (fun n l => l.mapIdx (fun i e => riggerEntry 0 n i e))).flatten ++
  rowGroupEntries r ++
  r.cores.mapIdx (fun i e => riggerEntry 2 0 i e) ++
  (r.lanes.mapIdx (fun m l => l.mapIdx (fun i e => riggerEntry 3 m i e))).flatten ++
  (List.range 12).flatMap (fun b => (List.range (bridgeWires b)).map (fun w => riggerEntry 4 b w (wirePos r b w)))

/-- The rigger-table digest (R35). -/
def riggerDigest (r : Rigger) : List Byte := shake256 ((riggerEntries r).flatMap (leBytes 4))

/-! ## Counts of the GEOMETRY descriptor -/

/-- Active tiles per die of the grade. -/
def State.gradeTiles (s : State) : Nat := if s.flash.grade120 then 120 else 128

/-- Healthy mapped tiles of a die. -/
def mappedTiles (r : Rigger) (n : Nat) : Nat := ((r.tiles.getD n []).filter Option.isSome).length

/-- ACTIVE_TILES_PER_DIE: the lowest count over the dies. -/
def State.activeTiles (s : State) : Nat :=
  min (min (mappedTiles s.rig 0) (mappedTiles s.rig 1)) (min (mappedTiles s.rig 2) (mappedTiles s.rig 3))

/-- Physical tiles of a die that are healthy and serve no logical tile. -/
def spareTiles (r : Rigger) (n : Nat) : List Nat :=
  (List.range 144).filter (fun p => !(r.tiles.getD n []).contains (some p) && !r.failed.contains (.tile n p) &&
    !r.awaiting.contains (.tile n p))

/-- Physical cores that are healthy and serve no logical core. -/
def spareCores (r : Rigger) : List Nat :=
  (List.range 104).filter (fun p => !r.cores.contains (some p) && !r.failed.contains (.core p) && !r.awaiting.contains (.core p))

/-- CORES_ACTIVE. -/
def State.activeCores (s : State) : Nat := (s.rig.cores.filter Option.isSome).length

/-- The spare connector lanes of a fabric die (Table 1.13). -/
def spareLaneList : List Nat := [16, 17, 34, 35]

/-- Unused healthy spare lanes of a fabric die. -/
def spareLanes (r : Rigger) (m : Nat) : List Nat :=
  spareLaneList.filter (fun l => !(r.lanes.getD m []).contains (some l) && !r.failed.contains (.lane m l))

/-- LANES_ACTIVE: lanes in use on ports that are not disabled. -/
def State.activeLanes (s : State) : Nat :=
  ((List.range 64).filter (fun i => !(s.port (i / 4)).disabled &&
    ((s.rig.lanes.getD (i / 32) []).getD (i % 32) none).isSome)).length

/-- PORTS_ACTIVE. -/
def State.activePorts (s : State) : Nat := ((List.range 16).filter (fun p => !(s.port p).disabled)).length

/-- The first spare wire of a group of a bridge (Table 1.13). -/
def spareWireBase (b g : Nat) : Nat := bridgeWires b + 2 * g

/-- Unused healthy spare wires of a group. -/
def spareWires (r : Rigger) (b g : Nat) : List Nat :=
  [spareWireBase b g, spareWireBase b g + 1].filter (fun p =>
    !r.wireSubs.any (fun e => e.1 == b && e.2.2 == p) && !r.failed.contains (.wire b p))

/-- BRIDGE_SPARES_LEFT. -/
def bridgeSparesLeft (r : Rigger) : Nat :=
  ((List.range 12).map (fun b => ((List.range (bridgeWires b / 40)).map (fun g => (spareWires r b g).length)).sum)).sum

/-- MEM_USABLE_MIB of a die: two stacks less the reserve and withdrawn frames (R21, R324, R346, R349). A stack that has not
trained counts as one that failed training, so a package in ROM recovery shows 0 and DEGRADED (DESIGN CHOICE, log 42). -/
def State.memUsable (s : State) (n : Nat) : Nat :=
  if (s.stk (2 * n)).trained && (s.stk (2 * n + 1)).trained then
    195584 - 2 * (s.mem.withdrawn.filter (fun f => f * 0x200000 / 0x3000000000 == n)).length
  else 0

/-- Lane rate of a port's RATE field in Gb/s. -/
def rateGbps (r : Nat) : Nat := match r with | 1 => 100 | 2 => 200 | 3 => 400 | _ => 0

/-- LANE_RATE_GBPS: the lowest among the ports that are up (R361). -/
def State.laneRate (s : State) : Nat :=
  ((s.fab.ports.filter Port.up).map (fun p => rateGbps p.rate)).foldl (fun a r => if a = 0 then r else min a r) 0

/-- Unused spare row groups of a tile (Table 3.13). -/
def rowSparesLeft (r : Rigger) (die p : Nat) : Nat :=
  ((List.range 24).filter (fun b => !r.bankSpent die p b)).length

/-- The fewest unused spare row groups of a tile, over the tiles that have used one. -/
def fewestRowSpares (r : Rigger) : Nat :=
  r.failed.foldl (fun a u => match u with | .rowGroup d p _ _ => min a (rowSparesLeft r d p) | _ => a) 24

/-- SPARES_LOW: a pool has consumed three quarters of its spares (R22, R346). -/
def State.sparesLow (s : State) : Bool :=
  let t := 144 - s.gradeTiles
  let low (total left : Nat) : Bool := 3 * total ≤ 4 * (total - left)
  (List.range 4).any (fun n => low t (spareTiles s.rig n).length) ||
  low 24 (fewestRowSpares s.rig) ||
  low 8 (spareCores s.rig).length ||
  low 8 ((spareLanes s.rig 0).length + (spareLanes s.rig 1).length) ||
  low 360 (bridgeSparesLeft s.rig) ||
  s.mem.stackCtl.any (fun k => 98304 ≤ k.blockMap.length)

/-- DEGRADED: a count of Table 1.4 lies below its nominal value, or a failed unit has no spare (R22). -/
def State.degraded (s : State) : Bool :=
  s.activeTiles < s.gradeTiles || s.activeCores < 96 || s.activeLanes < 64 || s.activePorts < 16 ||
  (List.range 4).any (fun n => s.memUsable n < 195584) || !s.rig.groupsOff.isEmpty || !s.rig.wireLost.isEmpty ||
  s.rig.failed.any (fun u => match u with | .rowGroup d p b g => !s.rig.rowGroups.contains (d, p, b, g) | _ => false)

/-- The 64-byte GEOMETRY descriptor (Table 1.4). -/
def geometryBytes (s : State) : List Byte :=
  leBytes 2 1 ++ leBytes 2 1 ++ leBytes 1 (if s.flash.grade120 then 1 else 0) ++ leBytes 1 4 ++ leBytes 1 144 ++
  leBytes 1 s.activeTiles ++ leBytes 1 12 ++ leBytes 1 12 ++ leBytes 2 s.logicalTiles ++
  leBytes 4 (bitAt s.degraded 0 + bitAt s.sparesLow 1) ++
  (List.range 4).flatMap (fun n => leBytes 4 (s.memUsable n)) ++
  (List.range 4).flatMap (fun n => leBytes 1 (spareTiles s.rig n).length) ++
  leBytes 1 s.activeCores ++ leBytes 1 (spareCores s.rig).length ++ leBytes 1 s.activeLanes ++
  leBytes 1 ((spareLanes s.rig 0).length + (spareLanes s.rig 1).length) ++ leBytes 2 s.laneRate ++
  leBytes 1 s.activePorts ++ leBytes 1 0 ++ leBytes 4 (bridgeSparesLeft s.rig) ++ (riggerDigest s.rig).take 16

/-! ## Digests and identity -/

/-- FIRMWARE_DIGEST (R443). -/
def firmwareDigest (s : State) : List Byte := shake256 (s.sec.fwDigests.flatMap (padTo 64))

/-- KEY_ID (Table 13.8). -/
def keyId (s : State) : List Byte := (shake256 s.flash.identityPub).take 16

/-- The ordinals of the ranks' crews, numbered in ascending order of their lowest rank (R442). -/
def crewOrdinals (ms : List U16) : List Nat :=
  let crews := (ms.map (fun m => crewOf m.toNat)).eraseDups
  ms.map (fun m => (crews.findIdx? (fun c => c == crewOf m.toNat)).getD 0)

/-- GEOMETRY_DIGEST (R442). -/
def geometryDigest (ms : List U16) (tiles : Nat) : List Byte :=
  shake256 (leBytes 4 ms.length ++ leBytes 2 ((ms.map (fun m => crewOf m.toNat)).eraseDups).length ++ leBytes 2 tiles ++
    leBytes 1 4 ++ zeroBytes 7 ++ (crewOrdinals ms).flatMap (leBytes 2))

/-- SEC_STATUS (Table 13.11). -/
def State.secStatus (s : State) : Nat :=
  bitAt s.sec.devOpen 0 + bitAt s.flash.openedEver 1 + bitAt (!s.sec.ownerKey.isEmpty) 2 +
  bitAt (s.sec.fwVerified.getD 0 false) 3 + bitAt (s.sec.fwVerified.getD 1 false) 4 +
  bitAt (s.sec.fwVerified.getD 2 false) 5 + bitAt s.sec.debugOpen 6

/-! ## Register values -/

/-- GLB_ID (Table 0.2). -/
def State.glbId (s : State) : Nat := 0x780800B1 + (if s.flash.grade120 then 0x1000 else 0)

/-- Word `i` of a byte string. -/
def wordOf (bs : List Byte) (i : Nat) : Nat := fieldLE bs (4 * i) 4

/-- The words of a 64-bit value: low word for an even place. -/
def half (v r : Nat) : Nat := if r % 8 = 0 then v % 2 ^ 32 else v / 2 ^ 32

/-- STATE of TILE_STATUS. -/
def tilePhaseCode (p : TilePhase) : Nat := match p with | .idle => 0 | .running => 1 | .stopped => 2 | .faulty => 3
/-- STATE of STR_CORE_STATUS. -/
def corePhaseCode (p : CorePhase) : Nat := match p with | .idle => 0 | .running => 1 | .stopped => 2 | .faulty => 3 | .held => 4

/-- TILE_ID (Table 3.12). -/
def tileIdReg (s : State) (t : TileId) : Nat :=
  let l := match s.logTile t with
    | some l => if s.bound && l < s.logicalTiles then l else 0xFF
    | none => 0xFF
  t.phys.toNat + l * 0x100 + t.die.toNat * 0x10000

/-- TILE_STATUS (Table 3.13). -/
def tileStatusReg (s : State) (t : TileId) : Nat :=
  let x := s.tile t
  tilePhaseCode x.phase + bitAt (s.regBit (tileRegs t + 0x20) 31) 2 + bitAt (s.regBit (tileRegs t + 0x24) 31) 3 +
  bitAt x.poisonSeen 4 + bitAt (!x.rowPending.isEmpty) 5 + bitAt x.zeroing 6 +
  rowSparesLeft s.rig t.die.toNat t.phys.toNat * 0x80

/-- MEM_STATUS (Table 10.7). -/
def memStatusReg (s : State) (n : Nat) : Nat :=
  let k := s.stk n
  bitAt k.trained 0 + bitAt k.metering 1 + bitAt k.hotStop 2 + bitAt (!k.repairRows.isEmpty) 3 +
  bitAt (98304 ≤ k.blockMap.length) 4 + bitAt (k.foundEmpty && k.blocksLeft = 0) 5 + bitAt k.selfRefresh 6

/-- FAB_PORT_STATUS (Table 11.10). Once the fabric microprograms run, a port that is neither up nor disabled trains (Table 17.1). -/
def portStatusReg (s : State) (p : Port) : Nat :=
  (if p.disabled then 3 else if p.sparing.isSome then 1 else if p.up then 2 else if s.sec.romRecovery then 0 else 1) + (if p.up then p.rate * 4 + p.width * 16 else 0) + bitAt p.spareUsed 7

/-- Collectives running: those started, a batch counting as one (R407). -/
def CollEngine.running (e : CollEngine) : Nat :=
  (e.runs.filter (fun r => r.started && r.batch.isNone)).length +
  (e.batches.filter (fun b => e.runs.any (fun r => r.batch == some b.number && r.started))).length
/-- Collectives held accepted. -/
def CollEngine.accepted (e : CollEngine) : Nat := (e.runs.filter (fun r => r.batch.isNone)).length + e.batches.length

/-- A store is seeded when either slot holds a valid manifest (R482). -/
def seeded (st : List StoreSlot) : Bool := st.any (fun x => x.gen.isSome)

/-- Bytes still to restore (Table 14.8). -/
def State.restoreLeft (s : State) : Nat :=
  65536 * (s.mem.rollback.filter (fun g => s.mem.restorePending.contains (g / 32))).length

/-- CKPT_STATUS (Table 14.9). -/
def ckptStatusReg (s : State) : Nat :=
  let en := match s.launchOf with | some l => l.plan.ckptEn | none => false
  bitAt en 0 + bitAt s.ckpt.inProgress.isSome 1 + bitAt (seeded s.ckpt.buddy) 2 + bitAt (seeded s.ckpt.host) 3 +
  bitAt s.ckpt.unprotected 4 + bitAt s.ckpt.restoring 5 + bitAt s.ckpt.hostSlot 6

/-- PMC_BOOT_STATUS (Table 17.7). -/
def bootStatusReg (s : State) : Nat :=
  s.sec.bootStatus.toNat + bitAt (s.sec.bank = 1) 16 + bitAt s.sec.fallback 17 + bitAt s.sec.romRecovery 18 + bitAt s.pins.pkgReady 19

/-- EVF_STATUS (Table 17.7). -/
def evfStatusReg (s : State) : Nat :=
  (if s.pins.powered then s.pins.sledPos.toNat + 1 else 0) + bitAt s.pins.bypassOpen 3 +
  bitAt (s.pins.bypassOpen && s.pins.pairsIn.getD 0 false) 4 + bitAt (s.pins.bypassOpen && s.pins.pairsIn.getD 1 false) 5 +
  bitAt (s.pins.bypassOpen && s.pins.pairsOut.getD 0 false) 6 + bitAt (s.pins.bypassOpen && s.pins.pairsOut.getD 1 false) 7

/-- The outstanding record of a command. -/
def State.outCmd (s : State) (c : CmdCtx) : Option OutCmd := s.hif.outCmds.find? (fun o => o.ctx == c)

/-- The phase that a command took at acceptance (R513). -/
def State.phaseOf (s : State) (c : CmdCtx) : BitVec 8 := match s.outCmd c with | some o => o.phase | none => 0

/-- The phases that the tiles of an arithmetic die run, one per tile at work: a script's, or that of the solve
which holds the tile (R513). -/
def State.phasesOn (s : State) (n : Nat) : List Nat :=
  s.tiles.filterMap (fun e =>
    if e.1.die.toNat != n then none
    else match e.2.reserved with
      | some k => (s.zn.solves.find? (fun v => v.number == k)).map (fun v => (s.phaseOf v.cmd).toNat)
      | none => if e.2.phase = .running then e.2.running.map (fun r => r.phase.toNat) else none)

/-- Commands whose work takes their phase: scripts, steering programs, assemblies, solves, collectives and
STROKE_END (R513). -/
def phasedOp (op : Nat) : Bool := [0x20, 0x21, 0x30, 0x31, 0x40, 0x41, 0x43].contains op

/-- Some unit of the package runs a phase (R513, R515). -/
def State.runsPhase (s : State) (ph : Nat) : Bool :=
  (List.range 4).any (fun n => (s.phasesOn n).contains ph) ||
  s.hif.outCmds.any (fun o => o.started && o.phase.toNat == ph && phasedOp o.opcode)

/-- The key of the bound program's demands. -/
def State.program (s : State) : List Byte := match s.job with | some j => j.programDigest | none => []

/-- What the controller has learned of a phase on a die. -/
def State.demandOf (s : State) (ph n : Nat) : Option Demand :=
  s.pwr.demands.find? (fun d => d.program == s.program && d.phase.toNat == ph && d.die == n)

/-- Occurrences of a phase learned for the bound program: OCCURRENCES of Table 15.11. -/
def State.occurrences (s : State) (ph : Nat) : Nat :=
  (List.range 4).foldl (fun a n => max a (match s.demandOf ph n with | some d => min 64 d.seen | none => 0)) 0

/-- LEARNING: a running phase has fewer than 64 occurrences (R518). -/
def State.learning (s : State) : Bool :=
  (List.range 4).any (fun n => (s.phasesOn n).any (fun ph => s.occurrences ph < 64))

/-- Registers whose value is formed from other state. -/
def derivedReg (s : State) (b : Blk) (r : Nat) : Option Nat :=
  match b.kind with
  | .glb =>
    if r = 0 then some s.glbId
    else if r = 4 then some (bitAt s.setupOnly 0 + bitAt s.bound 1 + bitAt s.degraded 2 + bitAt s.sparesLow 3 + bitAt (s.regBit 8 0) 4)
    else if r = 0x1000 then some s.mode
    else if 0x1080 ≤ r && r < 0x10C0 then some (wordOf (firmwareDigest s) ((r - 0x1080) / 4))
    else none
  | .pmc =>
    if r = 0 then some (bootStatusReg s)
    else if 0x008 ≤ r && r < 0x010 then some (half (((s.flash.banks.getD 0 ⟨none, []⟩).seq.getD 0).toNat) r)
    else if 0x010 ≤ r && r < 0x018 then some (half (((s.flash.banks.getD 1 ⟨none, []⟩).seq.getD 0).toNat) r)
    else if r = 0x1000 || r = 0x1004 then some (half s.stroke.count.toNat r)
    else if r = 0x1008 then some (bitAt s.stroke.entered.isSome 0 + bitAt s.stroke.slowSent 1)
    else if r = 0x2000 then some (ckptStatusReg s)
    else if r = 0x2010 || r = 0x2014 then some (half s.ckpt.gen.toNat r)
    else if r = 0x2018 || r = 0x201C then some (half s.ckpt.genStroke.toNat r)
    else if r = 0x2020 || r = 0x2024 then some (half s.restoreLeft r)
    else if r = 0x3000 then some (evfStatusReg s)
    else none
  | .hif =>
    if r = 0 then some (setBits (s.reg hifBase) 1 0 (bitAt s.setupOnly 0 + bitAt s.hif.idle 1))
    else if 0x2000 ≤ r && r < 0x2800 && r % 0x20 = 0xC then
      some (match kvGet s.hif.cqs ((r - 0x2000) / 0x20) with
        | some q => bitAt (!q.held.isEmpty) 0 + bitAt q.stopped 1 + q.stop.toNat * 0x10000
        | none => 0)
    else none
  | .pwr =>
    if r = 0 then some (setBits (s.reg pwrBase) 1 1 (bitAt s.learning 0))
    else if 0x1000 ≤ r && r < 0x1400 then some (setBits (s.reg (pwrBase + r)) 22 16 (s.occurrences ((r - 0x1000) / 4)))
    else none
  | .tim => if r = 0 || r = 4 then some (half s.tim.now.toNat r) else none
  | .sec =>
    if r = 0 then some s.secStatus
    else if 0x010 ≤ r && r < 0x020 then some (wordOf (keyId s) ((r - 0x010) / 4))
    else if r = 0x020 then some s.sec.ownerPolicy.toNat
    else if r = 0x028 || r = 0x02C then some (half s.flash.ownerSeq.toNat r)
    else if r = 0x030 || r = 0x034 then some (half s.flash.bootCount.toNat r)
    else none
  | .zenle =>
    if r = 0 then some (bitAt (s.zn.assemblies.any (fun a => bitOf a.desc.dies b.idx)) 0 + bitAt (s.regBit b.base 1) 1) else none
  | .tile =>
    let t : TileId := ⟨BitVec.ofNat 2 (b.idx / 144), BitVec.ofNat 8 (b.idx % 144)⟩
    if r = 0 then some (tileIdReg s t) else if r = 4 then some (tileStatusReg s t) else none
  | .port =>
    if r = 0 then some (portStatusReg s (s.port b.idx))
    else if r = 8 then some ((s.port b.idx).lanes.mapIdx (fun k l => l * 32 ^ k)).sum
    else none
  | .fdXlt =>
    if r = 0 then some (s.reg (fabBase 0))
    else if r = 4 then some (match s.job with | some j => j.tag.toNat + j.epoch.toNat * 0x10000 | none => 0)
    else if r = 0xC then some (bitAt s.bound 0 + bitAt s.strict 1 + bitAt (s.fab.cacheFull.contains b.idx) 2 + bitAt s.fab.unexpFull 3)
    else if r = 0x10 then some (s.fab.replay.filter (fun e => e.fd == b.idx)).length
    else if r = 0x14 then some (s.combineUsed b.idx)
    else none
  | .coll =>
    if r = 0 then some (s.collEng.slots.getD b.idx 0 + s.collEng.running * 0x400 + s.collEng.accepted * 0x10000)
    else if r = 8 then some (s.waitsUsed b.idx)
    else none
  | .sync => some (half (s.syncVal (8192 * b.idx + r / 8)) r)
  | .stack =>
    let n := b.idx
    if r = 0 then some (n + n / 2 * 8 + 48 * 0x10000 + 16 * 0x1000000)
    else if r = 4 then some (memStatusReg s n)
    else if r = 0x14 then some (s.stk n).blocksLeft
    else if r = 0x18 then some (s.flash.repairs.getD n 0 + (s.stk n).repairRows.length * 0x10000)
    else if r = 0x1C then some (s.mem.withdrawn.filter (fun f => f * 0x200000 / 0x3000000000 == n / 2)).length
    else if r = 0x30 then some (match s.launchOf with | some l => l.plan.checkFrames.getD (n / 2) 0 | none => 0)
    else if r = 0x34 then some (bitAt s.mem.windowOpen 0 + s.slotsUsed (n / 2) * 2)
    else none
  | .core =>
    if r = 0 then some (b.idx + (s.logCore b.idx).getD 0xFF * 0x100)
    else if r = 4 then
      some (match s.logCore b.idx with
        | some c => corePhaseCode (s.core c).phase + bitAt (s.core c).trap.isSome 3
        | none => if s.rig.failed.contains (.core b.idx) || s.rig.awaiting.contains (.core b.idx) then 3 else 0)
    else none
  | .xlt =>
    if r = 0 then some (bitAt s.bound 0 + bitAt (match s.launchOf with | some l => l.plan.ckptEn | none => false) 1)
    else if r = 4 then some (s.mem.xlt.filter (fun e => entryBit e.2 0)).length
    else if r = 8 || r = 0xC then some (half s.hostBounds.1 r)
    else if r = 0x10 || r = 0x14 then some (half s.hostBounds.2 r)
    else none
  | _ => none

/-- The value that a read of a BAR0 register returns (Table 0.8): zero for a reserved offset and for a
write-only register, and zero in reserved bits (R8). -/
def regRead (s : State) (o : Nat) : Nat :=
  match blockAt o, regDef o with
  | some b, some d =>
    if d.acc = .wo then 0 else ((derivedReg s b (o - b.base)).getD (s.reg o) % 2 ^ 32) &&& d.mask
  | _, _ => 0

/-- BAR0 offsets that respond while the package is setup-only (R543): GLB, PMC, SEC, HIF_STATUS and the
summary registers. -/
def setupOnlyOk (o : Nat) : Bool :=
  o < 0x200000 || (0x800000 ≤ o && o < 0xC00000) || o = hifBase || (hifBase + 0x10 ≤ o && o < hifBase + 0x20)

/-- Whether an access at an offset is one that R41 treats as reserved. -/
def State.badOffset (s : State) (o : Nat) : Bool := ((regDef o).isNone && !unlistedReg o) || (s.setupOnly && !setupOnlyOk o)

/-! ## The summary record (Table 16.7) -/

/-- A block of counters has any SATURATED bit set. -/
def State.saturated (s : State) (g : Nat) : Bool := s.reg (g + 0xF0) != 0

/-- SATURATIONS of the summary record. -/
def saturationBytes (s : State) : List Byte :=
  let tiles := ((List.range 576).filter (fun i => s.saturated (tileBase (i / 144) (i % 144)))).length
  let cores := ((List.range 104).filter (fun p => s.saturated (coreBase p))).length
  let ports := ((List.range 16).filter (fun p => s.saturated (portBase p))).length
  let blocks := bitAt (s.saturated detBase) 0 + bitAt (s.saturated strokeBase) 1 + bitAt (s.saturated ckptBase) 2 +
    bitAt (s.saturated pwrBase) 3 + bitAt (s.saturated secBase) 4 + bitAt (s.saturated xltBase) 5 +
    ((List.range 8).map (fun n => bitAt (s.saturated (stackBase n)) (6 + n))).sum +
    ((List.range 2).map (fun m => bitAt (s.saturated (fabBase m)) (14 + m) + bitAt (s.saturated (collBase m)) (16 + m))).sum +
    ((List.range 4).map (fun n => bitAt (s.saturated (zenleBase n)) (18 + n))).sum + bitAt (s.saturated hifBase) 22
  leBytes 2 tiles ++ leBytes 2 cores ++ leBytes 2 ports ++ leBytes 2 0 ++ leBytes 8 blocks

/-- A submission ring at its disabled state. -/
def SubRing.off : SubRing :=
  { head := 0, tail := 0, state := 0, stop := 0, phaseId := 0, fetched := [], base := 0, log2 := 0, cq := 0, doorbell := 0,
    closing := false }
/-- A completion ring at its disabled state. -/
def CompRing.off : CompRing :=
  { tail := 0, head := 0, held := [], stopped := false, stop := 0, unsignalled := 0, firstAt := 0, enabled := false, base := 0,
    log2 := 0, doorbell := 0, notify := 0xFFFF }

/-- A submission ring. -/
def State.sq (s : State) (i : Nat) : SubRing := kvGetD s.hif.sqs i SubRing.off
/-- A completion ring. -/
def State.cq (s : State) (j : Nat) : CompRing := kvGetD s.hif.cqs j CompRing.off

/-- The SQ table of the summary record. -/
def sqTable (s : State) : List Byte :=
  (List.range 64).flatMap (fun i =>
    let q := s.sq i
    let cfg := s.reg (hifBase + 0x1008 + 0x20 * i)
    leBytes 4 q.head.toNat ++ leBytes 4 q.tail.toNat ++ leBytes 1 q.state ++ leBytes 1 (bitsOf cfg 5 5) ++
    leBytes 1 (bitsOf cfg 11 6) ++ leBytes 1 q.phaseId.toNat ++ leBytes 4 0)

/-- The CQ table of the summary record. -/
def cqTable (s : State) : List Byte :=
  (List.range 64).flatMap (fun j => leBytes 4 (s.cq j).tail.toNat ++ leBytes 4 (s.cq j).head.toNat)

/-- The outstanding list of the summary record. -/
def outList (s : State) : List Byte :=
  padTo 1024 ((s.hif.outCmds.take 128).flatMap (fun o =>
    leBytes 4 o.ctx.tag.toNat ++ leBytes 1 o.ctx.sq.toNat ++ leBytes 1 0 ++ leBytes 2 o.opcode))

/-- The 4 KiB summary record with its sequence number. -/
def summaryBytes (s : State) (seq : Nat) : List Byte :=
  let reg (o : Nat) : List Byte := leBytes 4 (regRead s o)
  leBytes 2 0x50 ++ leBytes 2 1 ++ leBytes 4 seq ++ leBytes 8 s.tim.now.toNat ++ leBytes 4 s.glbId ++
  leBytes 2 s.sec.bootStatus.toNat ++ leBytes 2 (bitAt s.setupOnly 0 + bitAt s.hif.idle 1) ++
  (match s.job with | some j => leBytes 2 j.tag.toNat ++ leBytes 2 j.epoch.toNat | none => zeroBytes 4) ++
  leBytes 4 s.mode ++ leBytes 8 s.stroke.count.toNat ++ leBytes 4 s.hif.outCmds.length ++
  leBytes 2 (min 128 s.hif.outCmds.length) ++ leBytes 2 (if 128 < s.hif.outCmds.length then 1 else 0) ++ zeroBytes 16 ++
  s.hif.eventCounts.flatMap (fun e => leBytes 4 e.1.toNat ++ leBytes 2 e.2.toNat ++ zeroBytes 2) ++ zeroBytes 56 ++
  riggerDigest s.rig ++ sqTable s ++ cqTable s ++
  leBytes 4 s.hif.evqTail.toNat ++ leBytes 4 s.hif.evqHead.toNat ++ leBytes 8 s.hif.evqLost.toNat ++ zeroBytes 48 ++
  reg (pwrBase + 0x14) ++ reg pwrBase ++ reg (pwrBase + 0x1C) ++ reg (pwrBase + 0x18) ++
  reg (pwrBase + 0x20) ++ (List.range 8).flatMap (fun n => leBytes 1 (s.reg (stackBase n + 0x10))) ++ zeroBytes 4 ++
  saturationBytes s ++ (List.range 9).flatMap (fun n => reg (pwrBase + 0x40 + 4 * n)) ++ reg (pwrBase + 0x28) ++ reg (pwrBase + 0x2C) ++
  zeroBytes 100 ++ s.sec.fwDigests.flatMap (padTo 64) ++ firmwareDigest s ++ geometryBytes s ++ zeroBytes 704 ++ outList s

/-- Form a summary record: its sequence number rises, the family counts start afresh (R567). -/
def takeSummary (s : State) : State × List Byte :=
  let seq := s.hif.summarySeq.toNat + 1
  ({ s with hif := { s.hif with summarySeq := BitVec.ofNat 32 seq,
                                eventCounts := s.hif.eventCounts.map (fun e => (0, e.2)) } }, summaryBytes s seq)

end Sys2Proof.Machine
end

