-- ==== Sys2Proof/Machine/Rigging.lean ====
section
/-! DEFINITION. Changes of the rigger table: the choice of a spare, live sparing, replacement at a
teardown, renumbering of an exhausted pool, and the journal that keeps them (R34 to R38, R583, R621). -/

namespace Sys2Proof.Machine

/-- Note a changed entry for the journal, with the code that caused it (R583). -/
def noteEntry (s : State) (e reason : Nat) : State :=
  { s with rig := { s.rig with unwritten := s.rig.unwritten ++ [(BitVec.ofNat 32 e, BitVec.ofNat 16 reason)] },
           flash := { s.flash with dirty := true } }

/-- Mark a unit failed and no longer awaiting replacement. -/
def markFailed (s : State) (u : UnitRef) : State :=
  { s with rig := { s.rig with failed := if s.rig.failed.contains u then s.rig.failed else s.rig.failed ++ [u],
                               awaiting := s.rig.awaiting.filter (fun v => v != u) } }

/-- Replace the tile map of a die. -/
def setTileMap (s : State) (n : Nat) (l : List (Option Nat)) : State :=
  { s with rig := { s.rig with tiles := setAt s.rig.tiles n (fun _ => l) } }

/-- A map without its entry at `i`: later entries move down and the last is left with no unit (R38). -/
def renumber (l : List (Option Nat)) (i : Nat) : List (Option Nat) := l.eraseIdx i ++ [none]

/-- Take a failed tile out of service: a spare takes its place, or its die is renumbered (R37, R38, R621). -/
def replaceTile (s : State) (n p reason : Nat) : State :=
  let s := markFailed s (.tile n p)
  let l := s.rig.tiles.getD n []
  match l.findIdx? (fun e => e == some p) with
  | none => s
  | some i =>
    match spareTiles s.rig n with
    | q :: _ => noteEntry (setTileMap s n (l.set i (some q))) (riggerEntry 0 n i (some q)) reason
    | [] =>
      let l' := renumber l i
      let s := raise (setTileMap s n l') 0x4603 (srcDie n) 0 n
      ((List.range l'.length).filter (fun k => i ≤ k)).foldl
        (fun s k => noteEntry s (riggerEntry 0 n k (l'.getD k none)) 0x4603) s

/-- The state of the logical cores when logical core `i` leaves: a spare starts afresh in its place, or later cores move down. -/
def dropCore (s : State) (i : Nat) (spare : Bool) : State :=
  let later (e : Nat × Core) : Option (Nat × Core) := if e.1 < i then some e else if e.1 = i then none else some (e.1 - 1, e.2)
  { s with cores := if spare then kvErase s.cores i else s.cores.filterMap later }

/-- Take a failed steering core out of service (R37, R38, R621). -/
def replaceCore (s : State) (p reason : Nat) : State :=
  let s := markFailed s (.core p)
  match s.rig.cores.findIdx? (fun e => e == some p) with
  | none => s
  | some i =>
    match spareCores s.rig with
    | q :: _ =>
      noteEntry (dropCore { s with rig := { s.rig with cores := s.rig.cores.set i (some q) } } i true) (riggerEntry 2 0 i (some q)) reason
    | [] =>
      let l' := renumber s.rig.cores i
      ((List.range l'.length).filter (fun k => i ≤ k)).foldl
        (fun s k => noteEntry s (riggerEntry 2 0 k (l'.getD k none)) reason) (dropCore { s with rig := { s.rig with cores := l' } } i false)

/-- A tile-store row group leaves service: its bank's spare group serves it, or where the bank has none left, or it was
that spare which failed, no group does (R34, R130). -/
def mapRowGroup (s : State) (n p bank group reason : Nat) : State :=
  let k := (n, p, bank, group)
  let rest := s.rig.rowGroups.filter (fun e => e != k)
  let spent := s.rig.bankSpent n p bank
  let s := markFailed s (.rowGroup n p bank group)
  noteEntry { s with rig := { s.rig with rowGroups := if spent then rest else rest ++ [k] } }
    (rowEntry n p bank group (if spent then 0x3F else 32)) reason

/-- Replace a tile-store row group by its bank's spare group; a bank without one fails its tile (R130). -/
def replaceRowGroup (s : State) (n p bank group reason : Nat) : State :=
  let v := mapRowGroup s n p bank group reason
  if s.rig.bankSpent n p bank then replaceTile v n p reason else v

/-- The lane, in connector lanes of its die, that is port lane `i` of fabric die `m`, and its connector's
spare lane that serves the port (Table 11.1). -/
def spareLaneFor (i : Nat) : Nat := (if i < 16 then 16 else 34) + i % 16 / 8

/-- Map a port lane of a fabric die to a connector lane, or to none. -/
def setLane (s : State) (m i : Nat) (l : Option Nat) (reason : Nat) : State :=
  noteEntry { s with rig := { s.rig with lanes := setAt s.rig.lanes m (fun x => x.set i l) } } (riggerEntry 3 m i l) reason

/-- A bridge wire position fails: the lower unused spare of its group takes over, or the group is
disabled (R18, R19, R621). `w` is the data wire it carries. -/
def replaceWire (s : State) (b w reason : Nat) : State :=
  match wirePos s.rig b w with
  | none => s
  | some pos =>
    let s := markFailed s (.wire b pos)
    let g := w / 40
    match spareWires s.rig b g with
    | q :: _ =>
      noteEntry { s with rig := { s.rig with wireSubs := s.rig.wireSubs.filter (fun e => !(e.1 == b && e.2.1 == w)) ++ [(b, w, q)] } }
        (riggerEntry 4 b w (some q)) reason
    | [] =>
      let s := noteEntry { s with rig := { s.rig with
          wireSubs := s.rig.wireSubs.filter (fun e => !(e.1 == b && e.2.1 == w)),
          wireLost := s.rig.wireLost ++ [(b, w)],
          groupsOff := if s.rig.groupsOff.contains (b, g) then s.rig.groupsOff else s.rig.groupsOff ++ [(b, g)] } }
        (riggerEntry 4 b w none) 0x4621
      raise s 0x4621 (if b < 8 then srcDie (b / 2) else srcDie (b - 8)) 0 b

/-- The data wire that a wire position of a bridge carries. -/
def wireAt (r : Rigger) (b pos : Nat) : Option Nat :=
  match r.wireSubs.find? (fun e => e.1 == b && e.2.2 == pos) with
  | some e => some e.2.1
  | none => if pos < bridgeWires b && wirePos r b pos = some pos then some pos else none

/-- Order of replacement at a teardown: row groups by tile, bank and group position, tiles by die and logical index,
cores by logical index (R37). -/
def awaitKey (s : State) (u : UnitRef) : Nat :=
  match u with
  | .rowGroup n p b g => ((n * 144 + p) * 24 + b) * 32 + g
  | .tile n p => 1000000 + n * 1024 + (s.rig.tiles.getD n []).findIdx (fun e => e == some p)
  | .core p => 2000000 + s.rig.cores.findIdx (fun e => e == some p)
  | _ => 3000000

/-- Insert a unit by its key. -/
def insertUnit (s : State) (l : List UnitRef) (u : UnitRef) : List UnitRef :=
  l.takeWhile (fun v => awaitKey s v ≤ awaitKey s u) ++ [u] ++ l.dropWhile (fun v => awaitKey s v ≤ awaitKey s u)

/-- Map the row group of a unit; one without a spare adds its tile to the units that await replacement (R130). -/
def settleRowGroup (s : State) (u : UnitRef) : State :=
  match u with
  | .rowGroup n p b g =>
    let v := mapRowGroup s n p b g 0x4611
    if s.rig.bankSpent n p b && !v.rig.awaiting.contains (.tile n p) then
      { v with rig := { v.rig with awaiting := v.rig.awaiting ++ [.tile n p] } }
    else v
  | _ => s

/-- Replace every unit that awaits replacement, while no job runs: the row groups first, since a bank without a spare
fails its tile, then tiles and cores in ascending logical index (R36 to R38, R130). -/
def replaceAwaiting (s : State) : State :=
  let own := s.rig.awaiting
  let s := (own.foldl (insertUnit s) []).foldl settleRowGroup s
  (s.rig.awaiting.foldl (insertUnit s) []).foldl (fun s u =>
    match u with
    | .tile n p => replaceTile s n p (if own.contains u then 0x8636 else 0x4611)
    | .rowGroup .. => s
    | .core p => replaceCore s p 0x8684
    | _ => markFailed s u) s

/-- The rigger entry of a unit, for member-fault reports (Table 14.1). -/
def entryOfUnit (s : State) (u : UnitRef) : Nat :=
  match u with
  | .tile n p => riggerEntry 0 n ((s.rig.tiles.getD n []).findIdx (fun e => e == some p)) (some p)
  | .rowGroup n p b g => rowEntry n p b g (if s.rig.rowGroups.contains (n, p, b, g) then 32 else g)
  | .core p => riggerEntry 2 0 (s.rig.cores.findIdx (fun e => e == some p)) (some p)
  | .lane m p => riggerEntry 3 m ((s.rig.lanes.getD m []).findIdx (fun e => e == some p)) (some p)
  | .wire b p => riggerEntry 4 b p (some p)

/-- A unit fails in service: it awaits the next teardown while a job is bound, and a member fault is
reported (R37, Table 14.1). -/
def memberFault (s : State) (u : UnitRef) (st : Nat) : State :=
  let s := report s 0x8712 (entryOfUnit s u) st
  if s.rig.awaiting.contains u || s.rig.failed.contains u then s
  else if s.bound then { s with rig := { s.rig with awaiting := s.rig.awaiting ++ [u] } }
  else replaceAwaiting { s with rig := { s.rig with awaiting := s.rig.awaiting ++ [u] } }

/-- Apply one journal entry to the map (R583). -/
def applyEntry (r : Rigger) (e : Nat) : Rigger :=
  let pool := e / 0x10000000
  let unit := bitsOf e 27 20
  let logical := bitsOf e 19 10
  let phys := if bitsOf e 9 0 = 0x3FF then none else some (bitsOf e 9 0)
  if pool = 0 then { r with tiles := setAt r.tiles unit (fun l => l.set logical phys) }
  else if pool = 1 then
    let k := (bitsOf e 27 26, bitsOf e 25 18, bitsOf e 17 13, bitsOf e 12 8)
    let rest := r.rowGroups.filter (fun x => x != k)
    { r with rowGroups := if bitsOf e 5 0 = 32 then rest ++ [k] else rest,
             failed := r.failed ++ [.rowGroup k.1 k.2.1 k.2.2.1 k.2.2.2] }
  else if pool = 2 then { r with cores := r.cores.set logical phys }
  else if pool = 3 then { r with lanes := setAt r.lanes unit (fun l => l.set logical phys) }
  else
    let subs := r.wireSubs.filter (fun x => !(x.1 == unit && x.2.1 == logical))
    match phys with
    | none => { r with wireSubs := subs, wireLost := r.wireLost ++ [(unit, logical)],
                       groupsOff := if r.groupsOff.contains (unit, logical / 40) then r.groupsOff else r.groupsOff ++ [(unit, logical / 40)] }
    | some q => { r with wireSubs := if q = logical then subs else subs ++ [(unit, logical, q)] }

/-- The factory map of the grade (R621; log 13). -/
def factoryRig (s : State) : Rigger :=
  { Rigger.reset with tiles := List.replicate 4 ((List.range s.gradeTiles).map some) }

/-- Whether a unit of pools 0x0, 0x2, 0x3 and 0x4 serves a logical unit. -/
def serves (r : Rigger) (u : UnitRef) : Bool :=
  match u with
  | .tile n p => (r.tiles.getD n []).contains (some p)
  | .core p => r.cores.contains (some p)
  | .lane m l => (r.lanes.getD m []).contains (some l)
  | .wire b pos => (wireAt r b pos).isSome
  | .rowGroup .. => false

/-- The physical units that a journal entry names or displaces: the one mapped, and of a bridge wire the position that
carried it at manufacture. -/
def entryUnits (e : Nat) : List UnitRef :=
  let unit := bitsOf e 27 20
  let p := bitsOf e 9 0
  let mapped : List UnitRef := if p = 0x3FF then [] else
    match e / 0x10000000 with
    | 0 => [.tile unit p]
    | 2 => [.core p]
    | 3 => [.lane unit p]
    | 4 => [.wire unit p]
    | _ => []
  if e / 0x10000000 = 4 then mapped ++ [.wire unit (bitsOf e 19 10)] else mapped

/-- The units that served at manufacture. -/
def factoryUnits (r : Rigger) : List UnitRef :=
  (r.tiles.mapIdx (fun n l => l.filterMap (Option.map (UnitRef.tile n)))).flatten ++ r.cores.filterMap (Option.map UnitRef.core) ++
  (r.lanes.mapIdx (fun m l => l.filterMap (Option.map (UnitRef.lane m)))).flatten

/-- The units that the journal shows displaced: each served once and serves no more, so it has failed (R583, R621). -/
def displaced (f r : Rigger) (journal : List Nat) : List UnitRef :=
  (factoryUnits f ++ journal.flatMap entryUnits).filter (fun u => !serves r u)

/-- The lanes of a port as the rigger table maps them: lane k of the port is port lane 4q + k of its die (Table 1.13). -/
def portLanes (r : Rigger) (p : Nat) : List Nat :=
  (List.range 4).map (fun k =>
    match ((r.lanes.getD (p / 8) []).getD (4 * (p % 8) + k) none) with
    | some l => l % 18
    | none => 31)

/-- A port takes its lanes from the rigger table (R38, R364, R621). -/
def riggedPort (r : Rigger) (p : Nat) (x : Port) : Port :=
  let ls := portLanes r p
  let spare := spareLaneFor (4 * (p % 8)) % 18
  { x with lanes := ls, spareUsed := ls.contains spare, spareOwned := ls.contains spare,
           failed := (List.range 18).filter (fun l => r.failed.contains (.lane (p / 8) (18 * (p % 8 / 4) + l)) && (l / 4 == p % 4 || l == spare)) }

/-- Build the rigger table from the factory map and the journal (R583): what the journal displaced has failed, and
the ports take their lanes from the table. -/
def buildRig (s : State) : State :=
  let f := factoryRig s
  let es := s.flash.journal.map (fun j => j.2.1.toNat)
  let r := es.foldl applyEntry f
  let r := { r with failed := r.failed ++ displaced f r es }
  { s with rig := r, fab := { s.fab with ports := s.fab.ports.mapIdx (riggedPort r) } }

/-- Append the waiting changes to the journal and store block maps and trims (R345, R531, R583). -/
def writeFlash (s : State) : State :=
  let seq := match s.flash.journal.getLast? with | some j => j.1.toNat | none => 0
  { s with
    flash := { s.flash with
      journal := s.flash.journal ++ s.rig.unwritten.mapIdx (fun i e => (BitVec.ofNat 32 (seq + 1 + i), e.1, e.2)),
      blockMaps := s.mem.stackCtl.map Stack.blockMap,
      withdrawn := s.mem.withdrawn,
      trims := s.pwr.trims,
      dirty := false },
    rig := { s.rig with unwritten := [] } }

end Sys2Proof.Machine
end

