-- ==== Sys2Proof/Machine/PowerCtl.lean ====
section
/-! DEFINITION. The power controller: limits, allocation, demand learning, slope limiting, droop, pace
messages, 'hold water', temperature and ageing (R504 to R534). -/

namespace Sys2Proof.Machine

/-! ## Limits (R507) -/

/-- Recompute PWR_LIMIT_EFF as the smallest of the three limits; a change raises 0x4809. -/
def refreshLimit (s : State) : State :=
  let eff := min (s.reg (pwrBase + 8)) (min (s.reg (pwrBase + 0xC)) (s.reg (pwrBase + 0x10)))
  if eff = s.reg (pwrBase + 0x14) then s else raise (s.setReg (pwrBase + 0x14) eff) 0x4809 srcPwr 0 eff

/-- A limit clamped into 2,400 to 3,600 W. -/
def clampLimit (w : Nat) : Nat := max 2400 (min 3600 w)

/-- Set one of the three limits at its register (R507). -/
def setLimit (s : State) (o w : Nat) : State :=
  let v := clampLimit w
  let s := if v != w then s.setRegBit pwrBase 8 true else s
  refreshLimit (s.setReg o v)

/-- The host's limit: a value within range also clears LIMIT_CLAMPED (Table 15.11); a raise while HOLDING
or TRIP is set has no effect (R527). -/
def setHostLimit (s : State) (w : Nat) : State :=
  if s.holding && s.reg (pwrBase + 8) < clampLimit w then s
  else setLimit (if clampLimit w = w then s.setRegBit pwrBase 8 false else s) (pwrBase + 8) w

/-! ## Points and demand -/

/-- Relative dynamic power of an arithmetic point, in thousandths (Table 15.4). -/
def relPower (p : Nat) : Nat :=
  [164, 197, 235, 274, 316, 362, 410, 461, 517, 575, 636, 703, 771, 843, 921, 1000].getD p 1000

/-- Arithmetic clock of a point in units of 10 MHz (Table 15.3). -/
def clock10 (p : Nat) : Nat := 40 + 6 * p

/-- Preferred arithmetic point of a phase (Table 15.11). -/
def State.prefArith (s : State) (ph : Nat) : Nat := bitsOf (s.reg (pwrBase + 0x1000 + 4 * ph)) 3 0

/-- The factory demand of a phase on a die: 5.4 W per active tile, in milliwatts (R518). -/
def factoryDemand (s : State) (n : Nat) : Nat := 5400 * mappedTiles s.rig n

/-- The demand of a phase on a die, in milliwatts at point 15. -/
def State.demandMw (s : State) (ph n : Nat) : Nat :=
  match s.demandOf ph n with | some d => d.demand | none => factoryDemand s n

/-- Replace what is learned of a phase on a die of the bound program. -/
def setDemand (s : State) (d : Demand) : State :=
  let rest := s.pwr.demands.filter (fun e => !(e.program == d.program && e.phase == d.phase && e.die == d.die))
  { s with pwr := { s.pwr with demands := rest ++ [d] } }

/-- Learn one measurement (R518). -/
def learn (s : State) (ph n m : Nat) : State :=
  let f := factoryDemand s n
  let d := (s.demandOf ph n).getD { program := s.program, phase := BitVec.ofNat 8 ph, die := n, demand := f, sum := 0, high := 0, seen := 0 }
  let d' :=
    if d.seen < 64 then
      let k := d.seen + 1
      let high := max d.high m
      { d with seen := k, sum := d.sum + m, high := high, demand := max high ((f * (64 - k) + (d.sum + m)) / 64) }
    else { d with high := max d.high m, demand := max m (if d.demand ≤ m then d.demand + (m - d.demand) / 64 else d.demand - (d.demand - m) / 64) }
  setDemand s d'

/-! ## Allocation (R516) -/

/-- Power of the dies' running phases when every ceiling is `c`: the numerator over `den` of milliwatts in
thousandths, each tile taking its share of its die's demand. -/
def arithPower (s : State) (c den : Nat) : Nat :=
  ((List.range 4).map (fun n =>
    let act := max 1 (mappedTiles s.rig n)
    ((s.phasesOn n).map (fun ph => s.demandMw ph n * relPower (min (s.prefArith ph) c) * (den / act))).sum)).sum

/-- The highest point at or below `c` at which what is fixed and the arithmetic power fit the limit; 0 when none does. -/
def findPoint (s : State) (den limitMw : Nat) (fixedMw : Nat) : Nat → Nat
  | 0 => 0
  | c + 1 => if fixedMw * 1000 * den + arithPower s (c + 1) den ≤ limitMw * 1000 * den then c + 1
             else findPoint s den limitMw fixedMw c

/-- The trim cap of a die: 15 less the most points that an island of it has lost (R532). -/
def trimCap (s : State) (n : Nat) : Nat :=
  15 - (s.pwr.trimLoss.filter (fun e => e.1 / 1024 = n)).foldl (fun a e => max a e.2) 0

/-- The ceiling of a die with its droop cuts (R522). -/
def cutCeiling (s : State) (n : Nat) : Nat :=
  s.pwr.target.getD n 15 - (s.pwr.droopCut.filter (fun e => e.1 == n)).length

/-- Show the ceilings in PWR_CEILING. -/
def showCeilings (s : State) : State :=
  s.setReg (pwrBase + 0x1C) ((List.range 4).map (fun n => cutCeiling s n * 16 ^ n)).sum

/-- CAPPED follows the ceilings: set while one lies below the preferred point of a phase running on its
die, with 0x4801 once per episode (R516). -/
def refreshCapped (s : State) : State :=
  let capped := (List.range 4).any (fun n => (s.phasesOn n).any (fun ph => cutCeiling s n < s.prefArith ph))
  let s' := s.setRegBit pwrBase 0 capped
  if capped && !s.regBit pwrBase 0 then raise s' 0x4801 srcPwr 0 0 else s'

/-! ## Pace messages (R523 to R525) -/

/-- A collective, batch or STROKE_END is outstanding. -/
def State.collectiveOut (s : State) : Bool := !s.collEng.runs.isEmpty || s.stroke.entered.isSome

/-- Dies that run a phase. -/
def State.diesRunning (s : State) (ph : Nat) : List Nat := (List.range 4).filter (fun n => (s.phasesOn n).contains ph)

/-- The lowest ceiling over the dies that run a phase. -/
def State.pacePoint (s : State) (ph : Nat) : Nat := (s.diesRunning ph).foldl (fun a n => min a (cutCeiling s n)) 15

/-- A phase whose pace condition holds (R523). -/
def State.paceDue (s : State) (ph : Nat) : Bool :=
  let steps := max 1 (bitsOf (s.reg (pwrBase + 4)) 5 2)
  s.regBit (pwrBase + 4) 0 && s.collectiveOut && !(s.diesRunning ph).isEmpty && s.pacePoint ph + steps ≤ s.prefArith ph

/-- Ranks of the groups with a collective outstanding; group 0 when only a STROKE_END is (R523). -/
def State.paceGroup (s : State) : List Nat :=
  let all := List.range s.members.length
  let ranks := s.collEng.runs.flatMap (fun r => if r.desc.group = 0 then all else (kvGetD s.collEng.groups r.desc.group []))
  if s.collEng.runs.isEmpty then all else (ranks.eraseDups)

/-- The crew of a rank. -/
def State.crewOfRank (s : State) (r : Nat) : Nat := crewOf ((s.memberId r).getD 0)

/-- Who receives a pace message: the own crew's ranks, and the lowest rank of each other crew (R523). -/
def State.paceTo (s : State) : List Nat :=
  let g := s.paceGroup.filter (fun r => r != s.rank)
  let own := s.crewOfRank s.rank
  g.filter (fun r => s.crewOfRank r == own || g.all (fun q => s.crewOfRank q != s.crewOfRank r || r ≤ q))

/-- The payload of a pace message (Table 15.6). -/
def paceBody (s : State) (ph : Nat) : PaceBody :=
  { point := BitVec.ofNat 8 (s.pacePoint ph), phase := BitVec.ofNat 8 ph,
    ratio := BitVec.ofNat 16 (1024 * clock10 (s.pacePoint ph) / clock10 (s.prefArith ph)),
    rank := BitVec.ofNat 32 s.rank, holdMs := 10, time := s.tim.now }

/-- Give a pace message, or its release, to a member: an MGMT packet with 32 bytes (R524). -/
def givePace (s : State) (r : Nat) (release : Bool) (b : PaceBody) : State := countMgmt (s.emit (.pace r release b)) 0 72

/-- A phase has sent no pace message within the last 1 ms (R523). -/
def State.maySendPace (s : State) (ph : Nat) : Bool :=
  !s.pwr.paceLast.any (fun e => e.1.toNat == ph && s.tim.now.toNat < e.2.toNat + 1000000)

/-- Release the pace messages of a phase (R523). -/
def releasePace (s : State) (ph : Nat) : State :=
  s.paceTo.foldl (fun t r => givePace t r true (paceBody s ph)) s

/-- Send the pace messages of a phase, unless it has sent one within the last 1 ms (R523). -/
def sendPace (s : State) (ph : Nat) : State :=
  if !s.maySendPace ph then s
  else
    let p := BitVec.ofNat 8 ph
    let t := bump (s.paceTo.foldl (fun t r => givePace t r false (paceBody s ph)) s) pwrBase 5 s.paceTo.length
    { t with pwr := { t.pwr with
      paceSent := t.pwr.paceSent.filter (fun q => q != p) ++ [p],
      paceLast := t.pwr.paceLast.filter (fun e => e.1 != p) ++ [(p, s.tim.now)] } }

/-- The phases whose pace condition holds (R523). -/
def State.pacesDue (s : State) : List Nat := ((List.range 4).flatMap s.phasesOn).eraseDups.filter s.paceDue

/-- Start, or release, the pace messages that the latest allocation calls for (R523). -/
def refreshPace (s : State) : State :=
  let due := s.pacesDue
  let s := (s.pwr.paceSent.filter (fun p => !due.contains p.toNat)).foldl (fun s p => releasePace s p.toNat) s
  let s := { s with pwr := { s.pwr with paceSent := s.pwr.paceSent.filter (fun p => due.contains p.toNat) } }
  (due.filter (fun p => !s.pwr.paceSent.contains (BitVec.ofNat 8 p))).foldl sendPace s

/-- What an interval of the controller adds to its counters: the energy drawn, and its time capped and under a thermal
cap (Table 15.10), which the manual ties to no clock of the model (log 10). -/
def chargeInterval (s : State) : State :=
  let s := bumpClocks s pwrBase 0
  let s := if s.regBit pwrBase 0 then bumpClocks s pwrBase 1 else s
  if s.pwr.thermalCap.any (fun c => c < 15) then bumpClocks s pwrBase 7 else s

/-- One allocation (R505, R509, R516). -/
def allocate (s : State) (m : PowerMeas) : State :=
  let s := s.setReg (pwrBase + 0x18) (m.vin10mV % 65536 + m.inputW % 65536 * 65536)
  let lim := min (s.reg (pwrBase + 0x14) * 1000) (m.vin10mV * 800)      -- 80 A times VIN, in milliwatts
  let fixedMw := (250 + m.steering + m.memPhys + m.loss + m.uncore.sum) * 1000
  let den := ((List.range 4).map (fun n => max 1 (mappedTiles s.rig n))).foldl Nat.lcm 1
  let c := findPoint s den lim fixedMw 15
  let target := (List.range 4).map (fun n => min c (min (s.pwr.thermalCap.getD n 15) (trimCap s n)))
  let s := chargeInterval { s with pwr := { s.pwr with target := target } }
  refreshPace (refreshCapped (showCeilings s))

/-- Raise the demands of running phases to what an interval measured (R517). -/
def raiseDemands (s : State) (ms : List PhaseMeas) : State :=
  ms.foldl (fun s m =>
    let ph := m.phase.toNat
    let n := m.die.toNat
    let d := (s.demandOf ph n).getD { program := s.program, phase := m.phase, die := n, demand := factoryDemand s n, sum := 0, high := 0, seen := 0 }
    setDemand s { d with demand := max d.demand m.demand }) s

/-! ## 'hold water' and thermal trip (R526 to R529) -/

/-- Put every stack into, or take it out of, self-refresh. -/
def selfRefreshAll (s : State) (b : Bool) : State :=
  { s with mem := { s.mem with stackCtl := s.mem.stackCtl.map (fun k => { k with selfRefresh := b }) } }

/-- The stop of Table 15.7 with its flag bit, event, and package fault: the groups that were awake run ballast and are
released one by one (R519, R520). -/
def stopWater (s : State) (bit ev : Nat) : State :=
  report (raise (selfRefreshAll (s.toBallast.setRegBit pwrBase bit true) true) ev srcPwr 0 0) 0x8711 0 ev

/-- Return to service (R528): the stacks leave self-refresh unless another stop still holds. -/
def restartWater (s : State) (bit : Nat) : State :=
  let s := s.setRegBit pwrBase bit false
  raise (if s.holding then s else selfRefreshAll s false) 0x4803 srcPwr 0 0

/-! ## Ageing (R531 to R534) -/

/-- An island's key: die times 1024 plus its index on the die. -/
def islandKey (e : Nat × Nat) : Nat := e.1 * 1024 + e.2

/-- One island's slack lies below its guard: its trim rises by 2.5 mV, or at +50 mV it loses a point. -/
def ageIsland (s : State) (e : Nat × Nat) : State :=
  let k := islandKey e
  let t := kvGetD s.pwr.trims k 0
  if t < 20 then
    bump { s with pwr := { s.pwr with trims := kvSet s.pwr.trims k (t + 1) }, flash := { s.flash with dirty := true } } pwrBase 9 1
  else
    raise { s with pwr := { s.pwr with trimLoss := kvSet s.pwr.trimLoss k (kvGetD s.pwr.trimLoss k 0 + 1) } } 0x4807 srcPwr 0 k

/-- A ratio in permille. -/
def permille (a b : Nat) : Nat := if b = 0 then 0 else min 1023 (1000 * a / b)

/-- The consumed fractions of Table 15.9 in permille; the eye indicator as measured. -/
def wearValues (s : State) (eye : Nat) : List Nat :=
  let margin := (s.pwr.trims.map (fun e => 25 * e.2 + 100 * kvGetD s.pwr.trimLoss e.1 0)).foldl max 0
  let tiles := (List.range 4).foldl (fun a n => max a (144 - s.gradeTiles - (spareTiles s.rig n).length)) 0
  let rows := 24 - fewestRowSpares s.rig
  let lanes := 8 - (spareLanes s.rig 0).length - (spareLanes s.rig 1).length
  let wires := (List.range 12).foldl (fun a b => (List.range (bridgeWires b / 40)).foldl (fun a g => max a (2 - (spareWires s.rig b g).length)) a) 0
  let reserve := s.mem.stackCtl.foldl (fun a k => max a k.blockMap.length) 0
  let repair := (s.mem.stackCtl.mapIdx (fun n k => permille k.repairsDone (k.repairsDone + s.flash.repairs.getD n 0))).foldl max 0
  [ permille margin 2000, permille tiles (144 - s.gradeTiles), permille rows 24, permille (8 - (spareCores s.rig).length) 8,
    permille lanes 8, permille wires 2, permille reserve 131072, repair, eye ]

/-- Least-squares sums of values at times 0, 1, …: Σ(x − x̄)(y − ȳ) and Σ(x − x̄)², each times the count,
and Σy. -/
def fitSums (ys : List Nat) : Int × Int × Int :=
  let n : Int := ys.length
  let sx : Int := (List.range ys.length).foldl (fun a i => a + (i : Int)) 0
  let sy : Int := ys.foldl (fun a y => a + (y : Int)) 0
  let sxy : Int := (ys.mapIdx (fun i y => (i : Int) * (y : Int))).foldl (fun a b => a + b) 0
  let sxx : Int := (List.range ys.length).foldl (fun a i => a + (i : Int) * (i : Int)) 0
  (n * sxy - sx * sy, n * sxx - sx * sx, sy)

/-- Months to exhaustion of daily values in permille: the fitted line projected to 1,000 from its value at
the last day, at 30.4 days to the month; 4,095 when it does not rise (R534; rounding down, log 16). -/
def monthsOf (ys : List Nat) : Nat :=
  let n : Int := ys.length
  let (a, b, sy) := fitSums ys
  if ys.length < 2 || a ≤ 0 || b ≤ 0 then 4095
  else
    -- line at the last day times 2 n b: 2 b Σy + a n (n − 1)
    let last2 := 2 * b * sy + a * n * (n - 1)
    let days10 := (10 * (2 * n * b * 1000 - last2)) / (2 * n * a)
    if days10 ≤ 0 then 0 else min 4094 (days10 / 304).toNat

/-- Refresh the wear indicators and the end-of-life prediction (R533, R534). -/
def refreshWear (s : State) (hours eye : Nat) : State :=
  let vs := wearValues s eye
  let hist := (List.range 9).map (fun n => (n, (((kvGetD s.pwr.history n []) ++ [vs.getD n 0]).reverse.take 90).reverse))
  let s := { s with pwr := { s.pwr with history := hist } }
  let months := (List.range 9).map (fun n => monthsOf (kvGetD hist n []))
  let s := (List.range 9).foldl (fun s n =>
    s.setReg (pwrBase + 0x40 + 4 * n) (vs.getD n 0 + months.getD n 4095 * 0x400)) s
  let least := months.foldl min 4095
  let ind := (months.findIdx? (fun m => m == least)).getD 0
  if hours < 720 then (s.setReg (pwrBase + 0x28) 0).setReg (pwrBase + 0x2C) 0
  else
    -- the band's edges are percentile slopes that the manual does not define further: free values (log 16)
    let (lo, s) := s.drawBits
    let (hi, s) := s.drawBits
    let s := s.setReg (pwrBase + 0x28) (least + lo.toNat % 4096 * 0x1000 + ind * 0x1000000 + 0x10000000)
    let s := s.setReg (pwrBase + 0x2C) (hi.toNat % 4096)
    let warn := least < bitsOf (s.reg (pwrBase + 4)) 13 6
    let s' := { s with pwr := { s.pwr with eolWarned := warn } }
    if warn && !s.pwr.eolWarned then raise s' 0x4808 srcPwr 0 least else s'

/-! ## The commands -/

/-- A command that acts only on a powered package (log 1). -/
def powered (s : State) (f : State → State) : Res := if s.pins.powered then .next (f s) else .next s

/-- VIN leaves 46 to 56 V: VIN_RANGE, and 0x4806 once per excursion (R504). -/
def execVinOutOfRange (s : State) : Res := powered s fun s =>
  if s.pwr.vinExcursion then s
  else raise ({ s with pwr := { s.pwr with vinExcursion := true } }.setRegBit pwrBase 6 true) 0x4806 srcPwr 0 0

/-- VIN returns within range: the excursion ends (R504; log 17). -/
def execVinExcursionEnd (s : State) : Res := powered s fun s =>
  { s with pwr := { s.pwr with vinExcursion := false } }.setRegBit pwrBase 6 false

/-- HOLD_WATER# has been low for 1 µs (R526, R607): a new assertion also restarts the count of R528. -/
def execHoldWaterAsserted (s : State) : Res := powered s fun s =>
  let s := { s with pins := { s.pins with holdWater := true }, pwr := { s.pwr with holdCount := none } }
  let s := bump (s.setRegBit pwrBase 2 true) pwrBase 8 1
  if s.regBit pwrBase 3 then s else stopWater s 3 0x4802

/-- The input goes high: HOLD_IN clears and the 10 ms count starts (R528). -/
def execHoldWaterDeasserted (s : State) : Res := powered s fun s =>
  { s with pins := { s.pins with holdWater := false }, pwr := { s.pwr with holdCount := some s.tim.now } }.setRegBit pwrBase 2 false

/-- The input has been deasserted for 10 ms (R528). -/
def execHoldWaterCleared (s : State) : Res := powered s fun s =>
  match s.pwr.holdCount with
  | some t =>
    if t.toNat + 10000000 ≤ s.tim.now.toNat && s.regBit pwrBase 3 then
      restartWater { s with pwr := { s.pwr with holdCount := none } } 3
    else s
  | none => s

/-- Every 100 µs (R516). -/
def execAllocation (m : PowerMeas) (s : State) : Res := powered s fun s => allocate s m

/-- Measured input power exceeds the effective limit over 100 µs (R517). -/
def execPowerOverLimit (inputW : Nat) (ms : List PhaseMeas) (s : State) : Res := powered s fun s =>
  if inputW ≤ s.reg (pwrBase + 0x14) then s
  else
    let s := { s with pwr := { s.pwr with target := s.pwr.target.map (fun c => c - 1) } }
    refreshCapped (showCeilings (raiseDemands s (ms.filter (fun m => (s.phasesOn m.die.toNat).contains m.phase.toNat))))

/-- An occurrence of a phase has ended: its measurements are learned (R515, R518). -/
def execPhaseOccurrenceEnd (phase : BitVec 8) (ms : List PhaseMeas) (s : State) : Res := powered s fun s =>
  if s.runsPhase phase.toNat then s
  else (ms.filter (fun m => m.phase == phase)).foldl (fun s m => learn s phase.toNat m.die.toNat m.demand) s

/-- One group of 64 idle tiles is woken, at most one per 10 µs and none while stopped; ballast that runs
is released instead (R519, R526). -/
def execWakeGroupGrant (s : State) : Res := powered s fun s =>
  if 0 < s.pwr.ballast then bumpClocks { s with pwr := { s.pwr with ballast := s.pwr.ballast - 1 } } pwrBase 4
  else if s.holding || 8 ≤ s.pwr.awake then s
  else bumpClocks { s with pwr := { s.pwr with awake := s.pwr.awake + 1 } } pwrBase 3

/-- The islands of a die step one point toward the ceiling (R519). -/
def execCeilingStep (die : BitVec 2) (s : State) : Res := powered s fun s =>
  let n := die.toNat
  { s with pwr := { s.pwr with actual := setAt s.pwr.actual n (fun a =>
      if a < cutCeiling s n then a + 1 else if cutCeiling s n < a then a - 1 else a) } }

/-- Record a stretch of an island: those of the last 1 ms are kept. -/
def noteStretch (s : State) (d p : Nat) : List (Nat × Nat × List U64) :=
  let old := ((s.pwr.droops.find? (fun e => e.1 == d && e.2.1 == p)).map (fun e => e.2.2)).getD []
  let kept := (old ++ [s.tim.now]).filter (fun t => s.tim.now.toNat < t.toNat + 1000000)
  s.pwr.droops.filter (fun e => !(e.1 == d && e.2.1 == p)) ++ [(d, p, kept)]

/-- A supply 5 % low stretches an island's clock (R521); more than 1,000 stretches in 1 ms lower its
class ceiling by one point, once in 10 ms (R522). -/
def execDroopStretch (t : TileId) (s : State) : Res := powered s fun s =>
  let d := t.die.toNat
  let p := t.phys.toNat
  let s := bump { s with pwr := { s.pwr with droops := noteStretch s d p } } pwrBase 2 1
  let n := ((s.pwr.droops.find? (fun e => e.1 == d && e.2.1 == p)).map (fun e => e.2.2.length)).getD 0
  if 1000 < n && !s.pwr.droopCut.any (fun e => e.1 == d && e.2.1 == p) then
    refreshCapped (showCeilings { s with pwr := { s.pwr with droopCut := s.pwr.droopCut ++ [(d, p, s.tim.now)] } })
  else s

/-- 10 ms after a cut the ceiling is restored (R522). -/
def execDroopCutExpiry (die : BitVec 2) (s : State) : Res := powered s fun s =>
  let past (e : Nat × Nat × U64) : Bool := e.1 == die.toNat && decide (e.2.2.toNat + 10000000 ≤ s.tim.now.toNat)
  refreshCapped (showCeilings { s with pwr := { s.pwr with droopCut := s.pwr.droopCut.filter (fun e => !past e) } })

/-- A phase's last pace message is 5 ms old: it is due for renewal (R523). -/
def State.paceAged (s : State) (ph : Nat) : Bool :=
  !s.pwr.paceLast.any (fun e => e.1.toNat == ph && s.tim.now.toNat < e.2.toNat + 5000000)

/-- Messages whose condition holds are renewed once they are 5 ms old, the others released (R523). -/
def execPaceRenewal (s : State) : Res := powered s fun s =>
  let due := s.pwr.paceSent.filter (fun p => s.paceAged p.toNat)
  let s := refreshPace s
  (s.pwr.paceSent.filter due.contains).foldl (fun s p => sendPace s p.toNat) s

/-- Checks 1 to 5 of Table 11.6 for a packet that takes no later check. -/
def headerPasses (s : State) (h : PktHdr) : Bool :=
  h.dstId.toNat == s.fabId && h.crcOk &&
  (match s.job with | some j => j.tag == h.jobTag && j.epoch == h.epoch | none => false) && (s.rankOf h.srcId.toNat).isSome

/-- PACE_FOLLOWING follows the limits held. -/
def refreshFollowing (s : State) : State := s.setRegBit pwrBase 7 (!s.pwr.followed.isEmpty)

/-- A pace message, or release, that comes from another crew is forwarded unchanged to the group's members of the
own crew: this member is the lowest rank that its sender gave it to (R523). -/
def forwardPace (s : State) (h : PktHdr) (release : Bool) (b : PaceBody) : State :=
  if crewOf h.srcId.toNat == crewOf s.fabId then s
  else
    (s.paceGroup.filter (fun r => r != s.rank && s.crewOfRank r == s.crewOfRank s.rank)).foldl (fun s r => givePace s r release b) s

/-- A pace message is forwarded to the own crew, and followed for HOLD_MS (R523, R525). -/
def execPaceMessage (h : PktHdr) (b : PaceBody) (s : State) : Res := powered s fun s =>
  let s := countMgmt s 1 72
  if !headerPasses s h then s
  else
    let s := forwardPace s h false b
    if !s.regBit (pwrBase + 4) 1 then s
    else
      let rest := s.pwr.followed.filter (fun f => !(f.rank == b.rank && f.phase == b.phase))
      let fresh := rest.length == s.pwr.followed.length
      let limit : PaceLimit := ⟨b.rank, b.phase, b.point.toNat, BitVec.ofNat 64 (s.tim.now.toNat + 1000000 * b.holdMs.toNat)⟩
      let s := refreshFollowing { s with pwr := { s.pwr with followed := rest ++ [limit] } }
      if fresh then bump s pwrBase 6 1 else s

/-- The limits of a sender for a phase end. -/
def dropFollowed (s : State) (rank : U32) (phase : BitVec 8) : State :=
  refreshFollowing { s with pwr := { s.pwr with followed := s.pwr.followed.filter (fun f => !(f.rank == rank && f.phase == phase)) } }

/-- A release lifts the sender's limit (R525); it is forwarded as the message is. -/
def execPaceRelease (h : PktHdr) (b : PaceBody) (s : State) : Res := powered s fun s =>
  let s := countMgmt s 1 72
  if !headerPasses s h then s else dropFollowed (forwardPace s h true b) b.rank b.phase

/-- HOLD_MS passes without renewal (R525). -/
def execPaceHoldExpiry (rank : U32) (phase : BitVec 8) (s : State) : Res := powered s fun s =>
  if s.pwr.followed.any (fun f => f.rank == rank && f.phase == phase && f.ends.toNat ≤ s.tim.now.toNat) then
    dropFollowed s rank phase
  else s

/-- The point at which a tile island runs: the lowest of its phase's preferred point, its die's stepped
ceiling and the limits it follows (R516, R525). -/
def islandPoint (s : State) (n ph : Nat) : Nat :=
  (s.pwr.followed.filter (fun f => f.phase.toNat == ph)).foldl (fun a f => min a f.point) (min (s.prefArith ph) (s.pwr.actual.getD n 15))

/-- Junction temperatures are read (R529): a throttle episode, and a thermal trip at 110 °C, which ends
once every die is below 90 °C. -/
def execJunctionTempSample (ad : List Nat) (fabric steering : Nat) (s : State) : Res := powered s fun s =>
  let hot := max (ad.foldl max 0) (max fabric steering)
  let thr := bitsOf (s.reg (pwrBase + 0x24)) 7 0
  let s := { s with pwr := { s.pwr with temps := padNat ad } }
  let s := s.setReg (pwrBase + 0x20) (ad.foldl max 0 % 256 + fabric % 256 * 0x100 + steering % 256 * 0x10000)
  let tooHot := ad.any (fun c => thr < c)
  let s := if tooHot && !s.regBit pwrBase 4 then raise (s.setRegBit pwrBase 4 true) 0x4804 srcPwr 0 0 else s
  if 110 ≤ hot && !s.regBit pwrBase 5 then stopWater s 5 0x4805
  else if s.regBit pwrBase 5 && hot < 90 then restartWater s 5
  else s
where
  /-- Four temperatures. -/
  padNat (l : List Nat) : List Nat := (List.range 4).map (fun n => l.getD n 0)

/-- The thermal cap of a die falls by one point while it is over the threshold, and rises by one once it
is 3 °C below; THROTTLE clears when every cap is back at 15 and no die is over (R529). -/
def execThermalCapStep (die : BitVec 2) (s : State) : Res := powered s fun s =>
  let n := die.toNat
  let thr := bitsOf (s.reg (pwrBase + 0x24)) 7 0
  let c := s.pwr.temps.getD n 0
  let s := { s with pwr := { s.pwr with thermalCap := setAt s.pwr.thermalCap n (fun k =>
    if thr < c then k - 1 else if c + 3 ≤ thr then min 15 (k + 1) else k) } }
  if s.pwr.thermalCap.all (fun k => k == 15) && s.pwr.temps.all (fun c => c ≤ thr) then s.setRegBit pwrBase 4 false else s

/-- Every 24 h the islands' slack is measured (R531, R532). -/
def execAgeingCheck (slackLow : List (Nat × Nat)) (s : State) : Res := powered s fun s => slackLow.foldl ageIsland s

/-- Every 24 h the wear indicators are refreshed (R533, R534). -/
def execWearRefresh (hoursOn eye : Nat) (s : State) : Res := powered s fun s => refreshWear s hoursOn eye

end Sys2Proof.Machine
end

