-- ==== Sys2Proof/Machine/FabSend.lean ====
section
/-! DEFINITION. The sending side of Azmarlink: paths and slots, sequence spaces, requests and responses,
path changes with their drains, dead paths (R365, R366, R370, R377 to R380, R383 to R385). -/

namespace Sys2Proof.Machine

/-! ## Paths (R365, R366) -/

/-- The slot of a request to a job virtual address: the XOR of the ten 4-bit groups of x[39:0]. -/
def addrSlot (va src dst : Nat) : Nat :=
  let x := (va >>> 10) ^^^ src ^^^ (dst <<< 16)
  (List.range 10).foldl (fun a i => a ^^^ ((x >>> (4 * i)) % 16)) 0

/-- The slot of a sync-counter operation. -/
def syncSlot (c : Nat) : Nat := 8 * (c / 8192) + c % 8

/-- The slot of a message to a queue. -/
def msgSlot (queue dst : Nat) : Nat := 8 * (queue % 2) + dst % 8

/-- A port is in the usable set toward a destination. -/
def State.usable (s : State) (p : Nat) (dst : U16) : Bool :=
  let x := s.port p
  x.up && !x.disabled && x.sparing.isNone && !x.pathDown.contains dst

/-- The eight ports of a half in ascending cyclic order from the port at an offset. -/
def halfOrder (half start : Nat) : List Nat := (List.range 8).map (fun k => 8 * half + (start + k) % 8)

/-- The first usable port of a half from a slot's offset. -/
def State.portInHalf (s : State) (half slot : Nat) (dst : U16) : Option Nat := (halfOrder half (slot % 8)).find? (fun p => s.usable p dst)

/-- The port of a slot toward a destination, with the fallback of R365. -/
def State.portFor (s : State) (slot : Nat) (dst : U16) : Option Nat :=
  match s.portInHalf (slot / 8) slot dst with
  | some p => some p
  | none => s.portInHalf (1 - slot / 8) slot dst

/-! ## Packets -/

/-- TYPE (Table 11.5, R431). -/
def PktType.code : PktType → Nat
  | .read => 0x01 | .write => 0x02 | .writeMasked => 0x03 | .atomic => 0x04 | .scOp => 0x05 | .msg => 0x06 | .bulk => 0x07 | .drain => 0x08
  | .readResp => 0x11 | .ack => 0x12 | .atomicResp => 0x13 | .nack => 0x14 | .drainReturn => 0x18
  | .collData => 0x30 | .collCredit => 0x31 | .collCtrl => 0x32

/-- The 32 bytes of a header (Table 11.4). -/
def headerBytes (typ : PktType) (h : PktHdr) : List Byte :=
  leBytes 1 typ.code ++ leBytes 1 (bitAt h.combinable 0 + bitAt h.retry 1 + bitAt h.combined 2 + bitAt h.last 3) ++
  leBytes 1 h.lines.toNat ++ leBytes 1 h.op.toNat ++ leBytes 2 h.jobTag.toNat ++ leBytes 2 h.epoch.toNat ++
  leBytes 2 h.srcId.toNat ++ leBytes 2 h.dstId.toNat ++ leBytes 4 h.seq.toNat ++ leBytes 8 h.addr.toNat ++
  leBytes 4 h.released.toNat ++ zeroBytes 4

/-- A packet as it goes out: header, payload, and the trailer with the CRC-32 over both (R369). -/
def packetBytes (typ : PktType) (h : PktHdr) (data : List Byte) : List Byte :=
  headerBytes typ h ++ data ++ leBytes 4 (Config.crc32 (headerBytes typ h ++ data)).toNat ++ zeroBytes 4

/-- Put a packet into a port's queue; the port counts its bytes. -/
def emitPacket (s : State) (p : Nat) (typ : PktType) (h : PktHdr) (data : List Byte) (poison : List Bool) : State :=
  bump (s.emit (.packet p typ h data poison)) (portBase p) 0 (packetBytes typ h data).length

/-- A header of the own package toward a destination. -/
def ownHdr (s : State) (dst : U16) : PktHdr :=
  { combinable := false, retry := false, combined := false, last := false, lines := 0, op := 0,
    jobTag := (match s.job with | some j => j.tag | none => 0), epoch := (match s.job with | some j => j.epoch | none => 0),
    srcId := BitVec.ofNat 16 s.fabId, dstId := dst, seq := 0, addr := 0, released := 0, crcOk := true }

/-- Answer a request on its arrival port or the fallback from it (R365). A requester that no port reaches
gets no answer and resends. -/
def respond (s : State) (port : Nat) (typ : PktType) (req : PktHdr) (data : List Byte) (poison : List Bool) : State :=
  match s.portFor port req.srcId with
  | none => s
  | some p =>
    let h := { ownHdr s req.srcId with seq := req.seq, addr := req.addr, lines := if typ = .readResp then req.lines else 0 }
    emitPacket s p typ h data poison

/-- Answer with a NACK: the last NACK's registers follow (Table 11.9). -/
def nackReq (s : State) (port : Nat) (req : PktHdr) (st : Nat) : State :=
  let b := fabBase (port / 8)
  let s := (s.setReg (b + 0x18) (st + req.srcId.toNat * 0x10000)).setReg64 (b + 0x20) req.addr.toNat
  respond s port .nack req (leBytes 2 st ++ zeroBytes 6) []

/-! ## Sequence spaces (R377, R379) -/

/-- The sequence space toward a destination's fabric die. -/
def State.txSpace (s : State) (dst : U16) (fd : Nat) : TxSpace :=
  (s.fab.tx.find? (fun x => x.dst == dst && x.fd == fd)).getD
    { dst := dst, fd := fd, next := 0, out := [], queued := [], carried := 0, lastPort := 8 * fd }

/-- Replace a sequence space. -/
def setTx (s : State) (x : TxSpace) : State :=
  { s with fab := { s.fab with tx := (s.fab.tx.filter (fun y => !(y.dst == x.dst && y.fd == x.fd))) ++ [x] } }

/-- RELEASED of a space: the oldest outstanding atomic's SEQ, or the next SEQ when none is outstanding. -/
def TxSpace.released (x : TxSpace) : U32 :=
  match x.out.find? (fun r => r.typ == .atomic) with | some r => r.hdr.seq | none => x.next

/-- Send an outstanding request on a port, carrying RELEASED. -/
def transmitReq (s : State) (x : TxSpace) (r : TxReq) (p : Nat) (retry : Bool) : State :=
  let h := { r.hdr with retry := retry, released := x.released }
  let put (e : TxReq) : TxReq := if e.hdr.seq = r.hdr.seq then { e with port := p } else e
  emitPacket (setTx s { x with out := x.out.map put, carried := x.released, lastPort := p }) p r.typ h r.data []

/-- A request takes the next number of the space of its port's half and is sent (R377). -/
def launchReq (s : State) (r : TxReq) (p : Nat) : State :=
  let x := s.txSpace r.hdr.dstId (p / 8)
  let r := { r with hdr := { r.hdr with seq := x.next }, port := p, sentAt := s.tim.now }
  transmitReq s { x with next := x.next + 1, out := x.out ++ [r] } r p false

/-- The space in which a request of a slot would wait: that of the port it would take. -/
def State.spaceFor (s : State) (slot : Nat) (dst : U16) : Nat := match s.portFor slot dst with | some p => p / 8 | none => slot / 8

/-- A new VC0 request: held while a drain of its slot is under way (R384), waiting while its space holds 4,096
requests or no port is usable (R377, R378), else sent. -/
def sendReq (s : State) (r : TxReq) : State :=
  let d := r.hdr.dstId
  let hit (x : DrainState) : Bool := x.dst == d && x.slots.contains r.slot
  let fd := s.spaceFor r.slot d
  let x := s.txSpace d fd
  if s.fab.drains.any hit then
    { s with fab := { s.fab with drains := updFirst hit (fun x => { x with held := x.held ++ [r] }) s.fab.drains } }
  else if x.queued.isEmpty && x.out.length < 4096 then
    match s.portFor r.slot d with
    | some p => launchReq s r p
    | none => setTx s { x with queued := x.queued ++ [r] }
  else setTx s { x with queued := x.queued ++ [r] }

/-- A request of the own job to a member, before it has a number. -/
def newReq (s : State) (typ : PktType) (dst : U16) (op lines addr slot : Nat) (data : List Byte) (origin : Origin) : TxReq :=
  { typ := typ,
    hdr := { ownHdr s dst with op := BitVec.ofNat 8 op, lines := BitVec.ofNat 8 lines, addr := BitVec.ofNat 64 addr },
    data := data, origin := origin, port := 0, slot := slot, resends := 0, sentAt := 0 }

/-- A memory request to a member: READ, WRITE or WRITE_MASKED at a job virtual address. -/
def memReq (s : State) (typ : PktType) (dst : U16) (lines va : Nat) (data : List Byte) (origin : Origin) : TxReq :=
  newReq s typ dst 0 lines va (addrSlot va s.fabId dst.toNat) data origin

/-- A sync-counter operation on a member: OP 1 add, 2 set. -/
def syncReq (s : State) (dst : U16) (op counter value : Nat) (origin : Origin) : TxReq :=
  newReq s .scOp dst op 0 counter (syncSlot counter) (leBytes 8 value ++ zeroBytes 8) origin

/-! ## Drains and dead paths (R384, R385) -/

/-- Resend a request in its own space with RETRY set (R378): on the first usable port of its half, else it waits. -/
def resendReq (s : State) (dst : U16) (fd : Nat) (seq : U32) : State :=
  let x := s.txSpace dst fd
  match x.out.find? (fun r => r.hdr.seq == seq) with
  | none => s
  | some r =>
    match s.portInHalf (fd % 2) r.slot dst with
    | none => s
    | some p => transmitReq s x r p true

/-- Remove a drain and send what it held. -/
def releaseDrain (s : State) (x : DrainState) : State :=
  x.held.foldl sendReq { s with fab := { s.fab with drains := dropFirst (fun y => y == x) s.fab.drains } }

/-- The old path on a port toward a destination is dead: what it carried unanswered is resent in SEQ order,
before the held requests (R385). -/
def deadPath (s : State) (dst : U16) (p : Nat) : State :=
  let sent := (s.txSpace dst (p / 8)).out.filter (fun r => r.port == p)
  let s := raise s 0x4304 (srcFab (p / 8)) 0 dst.toNat
  let s := sent.foldl (fun s r =>
    match s.portInHalf (p / 8) r.slot dst with
    | none => s
    | some _ => bump (resendReq s dst (p / 8) r.hdr.seq) (fabBase (p / 8)) 15 1) s
  let mine (x : DrainState) : Bool := x.dst == dst && x.port == p
  let held := (s.fab.drains.filter mine).flatMap (fun x => x.held)
  let drains := s.fab.drains.filter (fun x => !mine x)
  let s := { s with fab := { s.fab with drains := drains, drainsOut := s.fab.drainsOut.filter (fun e => !(e.1 == dst && e.2.1 == p)) } }
  held.foldl sendReq s

/-- A port is dead toward a destination (R385). -/
def State.pathDead (s : State) (p : Nat) (dst : U16) : Bool := (s.port p).disabled || (s.port p).pathDown.contains dst

/-- Send a DRAIN on a port; it takes no SEQ (R373). -/
def sendDrain (s : State) (dst : U16) (p : Nat) (forPath : Bool) : State :=
  let x := s.txSpace dst (p / 8)
  let h := { ownHdr s dst with released := x.released }
  let s := emitPacket (setTx s { x with carried := x.released }) p .drain h [] []
  { s with fab := { s.fab with drainsOut := s.fab.drainsOut ++ [(dst, p, forPath)] } }

/-- Slots of a destination that a change has moved away from a port. -/
def movedFrom (old new : List (Option Nat)) (p : Nat) : List Nat :=
  (List.range 16).filter (fun k => old.getD k none == some p && new.getD k none != some p)

/-- The ports of the sixteen slots toward a destination. -/
def State.paths (s : State) (dst : U16) : List (Option Nat) := (List.range 16).map (fun k => s.portFor k dst)

/-- What a path change toward one destination starts on each port that lost slots: the end of a dead path, or a drain; a
drain under way on a path that is now dead ends with it (R384, R385). -/
def drainPaths (s : State) (dst : U16) (old : List (Option Nat)) : State :=
  let new := s.paths dst
  (List.range 16).foldl (fun s p =>
    let slots := movedFrom old new p
    let draining := s.fab.drains.any (fun x => x.dst == dst && x.port == p)
    if slots.isEmpty then (if draining && s.pathDead p dst then deadPath s dst p else s)
    else if s.pathDead p dst then deadPath s dst p
    else
      let s := sendDrain s dst p true
      { s with fab := { s.fab with drains := s.fab.drains ++ [{ dst := dst, port := p, slots := slots, held := [], since := s.tim.now }] } }) s

/-- The other members of the job. -/
def State.peers (s : State) : List U16 := s.members.filter (fun x => x.toNat != s.fabId)

/-- Change the usable sets and act on every path that changes (R366, R384). -/
def pathChange (s : State) (f : State → State) : State :=
  let before := s.peers.map (fun d => (d, s.paths d))
  before.foldl (fun s e => drainPaths s e.1 e.2) (f s)

/-- A port taken down and kept disabled. -/
def portOff (x : Port) : Port := { x with disabled := true, up := false, rate := 0, width := 0, sparing := none }

/-! ## Responses at the sender -/

/-- The outstanding request of a kind that a response answers: same destination and SEQ, and the ADDR that the response
echoes, in the arrival half before the other, VC0 before VC3. A response that matches none in both is a duplicate of one
already taken. DESIGN CHOICE (log 27). -/
def State.answered (s : State) (port : Nat) (h : PktHdr) (types : List PktType) : Option (TxSpace × TxReq) :=
  let look (fd : Nat) : Option (TxSpace × TxReq) :=
    let x := s.txSpace h.srcId fd
    (x.out.find? (fun r => r.hdr.seq == h.seq && r.hdr.addr == h.addr && types.contains r.typ)).map (fun r => (x, r))
  let f := port / 8
  ([f, 1 - f, f + 2, 3 - f].map look |>.find? Option.isSome).getD none

/-- Every request toward a destination that is numbered below a fence's record has completed (R383). -/
def State.fencePassed (s : State) (dst : U16) (fence : List (Nat × U32)) : Bool :=
  fence.all (fun e => (s.txSpace dst e.1).out.all (fun r => 2 ^ 31 ≤ (e.2 - r.hdr.seq - 1).toNat))

/-- A request has completed and leaves its space. -/
def retireReq (s : State) (x : TxSpace) (r : TxReq) : State :=
  let out := x.out.filter (fun e => e.hdr.seq != r.hdr.seq)
  let busy := s.fab.msgBusy.filter (fun e => !(e.1 == x.dst && e.2 == r.hdr.seq))
  setTx { s with fab := { s.fab with msgBusy := busy } } { x with out := out }

/-! ## Collective packets (R424, R431) -/

/-- VC3 bytes queued at a port, as last reported. -/
def State.vcQueued (s : State) (p : Nat) : Nat := s.collEng.queued.getD p 0

/-- The port of a collective packet: the first usable one from a chunk's offset, or by R424 another usable one
when more than 64 KiB wait there and less than 16 KiB at the other; with whether it was moved. -/
def State.collPort (s : State) (dst : U16) (chunk : Nat) : Option (Nat × Bool) :=
  let order := (List.range 16).map (fun k => (chunk + k) % 16)
  match order.find? (fun p => s.usable p dst) with
  | none => none
  | some p =>
    let move := !s.regBit (collBase (p / 8) + 4) 0 && 65536 < s.vcQueued p
    match (if move then order.find? (fun q => s.usable q dst && s.vcQueued q < 16384) else none) with
    | some q => some (q, true)
    | none => some (p, false)

/-- Send a VC3 packet in the space of its port's fabric die (R431), or let it wait for a port or a number. -/
def sendColl (s : State) (r : TxReq) (chunk : Nat) : State × Bool :=
  let d := r.hdr.dstId
  let hold (fd : Nat) : State := let x := s.txSpace d fd
                                 setTx s { x with queued := x.queued ++ [r] }
  match s.collPort d chunk with
  | none => (hold 2, false)
  | some (p, moved) =>
    let x := s.txSpace d (p / 8 + 2)
    if x.queued.isEmpty && x.out.length < 4096 then
      let r := { r with hdr := { r.hdr with seq := x.next }, port := p, sentAt := s.tim.now }
      (transmitReq s { x with next := x.next + 1, out := x.out ++ [r] } r p false, moved)
    else (hold (p / 8 + 2), moved)

/-- A waiting VC3 packet is sent once its space has room and a port of its half is usable. -/
def sendQueuedColl (s : State) (dst : U16) (fd : Nat) : State :=
  let x := s.txSpace dst (fd + 2)
  match x.queued with
  | [] => s
  | r :: rest =>
    match (if 4096 ≤ x.out.length then none else s.portInHalf fd r.slot dst) with
    | none => s
    | some p =>
      let r := { r with hdr := { r.hdr with seq := x.next }, port := p, sentAt := s.tim.now }
      transmitReq s { x with next := x.next + 1, queued := rest, out := x.out ++ [r] } r p false

end Sys2Proof.Machine
end

