-- ==== Sys2Proof/Machine/Rings.lean ====
section
/-! DEFINITION. Rings in host and package memory: fetching entries, accepting commands, posting
completions (R545 to R557, R562, R570, Tables 16.3, 16.4, 16.5). -/

namespace Sys2Proof.Machine

/-! ## Ring parameters -/

/-- A host ring's configuration word. -/
def State.sqCfg (s : State) (i : Nat) : Nat := s.reg (hifBase + 0x1008 + 0x20 * i)
def State.cqCfg (s : State) (j : Nat) : Nat := s.reg (hifBase + 0x2008 + 0x20 * j)

/-- The log2 of a submission ring's length. -/
def State.sqLog (s : State) (i : Nat) : Nat := if i < 64 then bitsOf (s.sqCfg i) 4 0 else (s.sq i).log2
/-- Version 1 of a submission ring (R545); internal rings are of version 2 (R562). -/
def State.sqV1 (s : State) (i : Nat) : Bool := i < 64 && bitOf (s.sqCfg i) 5
/-- The completion ring of a submission ring. -/
def State.sqCq (s : State) (i : Nat) : Nat := if i < 64 then bitsOf (s.sqCfg i) 11 6 else 64 + (s.sq i).cq
/-- The log2 of a completion ring's length. -/
def State.cqLog (s : State) (j : Nat) : Nat := if j < 64 then bitsOf (s.cqCfg j) 4 0 else (s.cq j).log2
/-- A completion ring is enabled. -/
def State.cqOn (s : State) (j : Nat) : Bool := if j < 64 then bitOf (s.cqCfg j) 14 else (s.cq j).enabled
/-- HIF_DB_BASE. -/
def State.dbBase (s : State) : Nat := s.reg64 (hifBase + 8)

/-- Replace a submission ring. -/
def setSq (s : State) (i : Nat) (q : SubRing) : State := { s with hif := { s.hif with sqs := kvSet s.hif.sqs i q } }
/-- Replace a completion ring. -/
def setCq (s : State) (j : Nat) (q : CompRing) : State := { s with hif := { s.hif with cqs := kvSet s.hif.cqs j q } }

/-- Show a host submission ring's STATE and stop status (Table 16.8). -/
def showSq (s : State) (i : Nat) : State :=
  if i < 64 then s.setReg (hifBase + 0x100C + 0x20 * i) ((s.sq i).state + (s.sq i).stop.toNat * 0x10000) else s

/-- Stop a submission ring with a status and raise 0x4112 (R547). -/
def stopSq (s : State) (i st : Nat) : State :=
  let s := setSq s i { s.sq i with state := 2, stop := BitVec.ofNat 16 st }
  raise (showSq s i) 0x4112 srcHif 0 i

/-! ## Completions -/

/-- The bytes of a completion entry at ring index `k` (Table 16.4). -/
def completionBytes (v1 : Bool) (x : Completion) (phase : Nat) : List Byte :=
  if v1 then leBytes 2 x.ctx.tag.toNat ++ leBytes 2 x.status.toNat ++ leBytes 2 x.head.toNat ++ leBytes 1 x.ctx.sq.toNat ++
    leBytes 1 phase ++ leBytes 8 x.value.toNat
  else leBytes 4 x.ctx.tag.toNat ++ leBytes 2 x.status.toNat ++ leBytes 1 x.ctx.sq.toNat ++ leBytes 1 phase ++
    leBytes 4 x.head.toNat ++ leBytes 4 0 ++ leBytes 8 x.value.toNat ++ leBytes 8 x.tEnd.toNat

/-- A completion ring has space (R548). -/
def State.cqRoom (s : State) (j : Nat) : Bool := ((s.cq j).tail - (s.cq j).head).toNat < 2 ^ s.cqLog j

/-- Stop a completion ring after a failed write (R570). -/
def stopCq (s : State) (j : Nat) : State :=
  raise (setCq s j { s.cq j with stopped := true, stop := 0x8105 }) 0x4112 srcHif 0 j

/-- Count an entry written, for the interrupt moderation of R564. -/
def advanceCq (s : State) (j : Nat) : State :=
  let q := s.cq j
  bump (setCq s j { q with tail := q.tail + 1, unsignalled := q.unsignalled + 1,
                           firstAt := if q.unsignalled = 0 then s.tim.now else q.firstAt }) hifBase 1 1

/-- Write an entry at a completion ring's tail: into host memory, or for an internal ring into package
memory, with its notify counter as a release (R562). -/
def writeCompletion (s : State) (j : Nat) (x : Completion) : State :=
  let q := s.cq j
  let n := s.cqLog j
  let k := q.tail.toNat
  if j < 64 then
    let v1 := bitOf (s.cqCfg j) 31
    let a := s.reg64 (hifBase + 0x2000 + 0x20 * j) + (if v1 then 16 else 32) * (k % 2 ^ n)
    advanceCq { s with hostMem := Memory.write s.hostMem a (completionBytes v1 x (phaseBit k n)) } j
  else
    match writeRecord s agentHost (q.base.toNat + 32 * (k % 2 ^ n)) (completionBytes false x (phaseBit k n)) with
    | (s, 0) =>
      let s := advanceCq s j
      if q.notify = 0xFFFF then s else syncAdd s q.notify.toNat 1
    | (s, _) =>
      stopCq (setCq s j { s.cq j with held := x :: (s.cq j).held }) j

/-- Post a completion: written when its ring has space and holds none before it, else held (R548). -/
def post (s : State) (x : Completion) : State :=
  let j := s.sqCq x.ctx.sq.toNat
  let q := s.cq j
  if s.cqOn j && !q.stopped && q.held.isEmpty && s.cqRoom j then writeCompletion s j x
  else bump (setCq s j { q with held := q.held ++ [x] }) hifBase 2 1

/-- Write held completions in order while there is space (R548). -/
def drainHeld : Nat → State → Nat → State
  | 0, s, _ => s
  | f + 1, s, j =>
    let q := s.cq j
    match q.held with
    | [] => s
    | x :: r =>
      if s.cqOn j && !q.stopped && s.cqRoom j then
        drainHeld f (writeCompletion (setCq s j { q with held := r }) j x) j
      else s

/-- An internal ring that is closing and has no accepted command left is disabled (R563). -/
def closeRings (s : State) : State :=
  { s with hif := { s.hif with sqs := s.hif.sqs.map (fun e =>
      if e.2.closing && !(s.hif.outCmds.any (fun o => o.ctx.sq.toNat == e.1)) then (e.1, SubRing.off) else e) } }

/-- A request of this member's commands has not been answered yet. -/
def State.requestsOut (s : State) : Bool :=
  let own (r : TxReq) : Bool := match r.origin with | .tileDma .. | .tileSync .. | .host _ | .core _ => true | _ => false
  s.fab.tx.any (fun x => (x.out ++ x.queued).any own) || s.fab.drains.any (fun d => d.held.any own)

/-- The member arrives at the stroke barrier once every command submitted before its STROKE_END has
completed and their writes and sync-counter operations have been acknowledged, those that wait for a staging slot too
(R271, R355). -/
def tryArrive (s : State) : State :=
  if s.stroke.entered.isSome && !s.stroke.arrived && s.stroke.after.isEmpty && !s.requestsOut && s.mem.stalled.isEmpty then
    ({ s with stroke := { s.stroke with arrived := true } }.setReg64 (strokeBase + 0x10) s.tim.now.toNat).emit
      (.strokeArrive s.stroke.count)
  else s

/-- Commands accepted before this one on its ring are outstanding. -/
def State.earlierOnRing (s : State) (c : CmdCtx) : Bool :=
  (s.hif.outCmds.takeWhile (fun o => o.ctx != c)).any (fun o => o.ctx.sq == c.sq)

/-- A command ends: its record goes, and its completion is posted unless QUIET hides an OK, or a function
reset discarded it (R544, R555). -/
def finishOne (s : State) (c : CmdCtx) (st value : Nat) : State :=
  let disc := match s.outCmd c with | some o => o.discard | none => false
  let s := { s with hif := { s.hif with outCmds := dropFirst (fun o => o.ctx == c) s.hif.outCmds },
                    stroke := { s.stroke with after := dropFirst (fun x => x == c) s.stroke.after } }
  let x : Completion := { ctx := c, status := BitVec.ofNat 16 st, value := BitVec.ofNat 64 value,
                          head := (s.sq c.sq.toNat).head, tEnd := s.tim.now }
  let s := if disc || (c.quiet && st = 0) then s else post s x
  tryArrive (closeRings s)

/-- Apply an add or a set to an own counter. -/
def applySync (s : State) (setOp : Bool) (c v : Nat) : State := if setOp then syncSet s c v else syncAdd s c v

/-- Act on every waiting SYNC_OP whose earlier commands on its ring have all completed (R560). -/
def actSyncOps : Nat → State → State
  | 0, s => s
  | f + 1, s =>
    match s.hif.syncOps.find? (fun k => !s.earlierOnRing k.cmd) with
    | none => s
    | some k =>
      let s := { s with hif := { s.hif with syncOps := dropFirst (fun x => x == k) s.hif.syncOps } }
      match k.target with
      | none => actSyncOps f (finishOne (applySync s k.setOp k.counter k.value.toNat) k.cmd 0 0)
      | some dst => actSyncOps f (sendReq s (syncReq s dst (if k.setOp then 2 else 1) k.counter k.value.toNat (.host k.cmd)))

/-- A command ends, and the SYNC_OPs that waited for it act. -/
def finish (s : State) (c : CmdCtx) (st value : Nat) : State :=
  let s := finishOne s c st value
  actSyncOps s.hif.syncOps.length s

/-! ## Entries -/

/-- An entry in the layout of version 2: a version 1 entry's fields moved to their places (R554). -/
def normEntry (v1 : Bool) (bs : List Byte) : List Byte :=
  if v1 then
    padTo 64 (slice bs 0 1 ++ zeroBytes 1 ++ slice bs 1 1 ++ zeroBytes 1 ++ slice bs 2 2 ++ zeroBytes 2 ++ slice bs 4 28)
  else padTo 64 bs

/-- Operand fields of an opcode as (offset, bytes) (Table 16.5); none for an unlisted opcode. -/
def operandFields (op : Nat) : Option (List (Nat × Nat)) :=
  match op with
  | 0x0000 => some []
  | 0x0001 => some [(0x08, 8)]
  | 0x0002 => some [(0x08, 1)]
  | 0x0010 => some [(0x08, 8), (0x10, 8), (0x18, 4), (0x1C, 1)]
  | 0x0011 => some [(0x08, 8), (0x10, 4)]
  | 0x0012 => some [(0x08, 8), (0x10, 8), (0x18, 8)]
  | 0x0020 => some [(0x08, 8), (0x10, 8), (0x18, 2), (0x1A, 2), (0x1C, 1), (0x1D, 1)]
  | 0x0021 => some [(0x08, 8), (0x10, 8), (0x18, 8), (0x20, 2)]
  | 0x0030 | 0x0031 | 0x0040 | 0x0041 | 0x0043 | 0x0060 | 0x0062 => some [(0x08, 8)]
  | 0x0042 => some [(0x08, 8), (0x10, 2), (0x12, 2)]
  | 0x0044 => some [(0x08, 8), (0x10, 4), (0x14, 2), (0x16, 1)]
  | 0x0045 => some [(0x08, 8), (0x10, 2)]
  | 0x0050 => some [(0x08, 8), (0x10, 8), (0x18, 4), (0x1C, 2), (0x1E, 1)]
  | 0x0051 => some [(0x08, 8), (0x10, 8), (0x18, 8), (0x20, 2), (0x22, 1)]
  | 0x0052 => some [(0x08, 8), (0x10, 8), (0x18, 2)]
  | 0x0053 => some [(0x08, 2)]
  | 0x0054 => some [(0x08, 8), (0x10, 8), (0x18, 4), (0x1C, 4), (0x20, 4), (0x24, 2), (0x26, 2)]
  | 0x0061 => some [(0x08, 32), (0x28, 8)]
  | 0x0063 => some [(0x08, 8), (0x10, 4)]
  | 0x0070 => some [(0x08, 8), (0x10, 8)]
  | 0x0071 => some []
  | 0x0072 => some [(0x08, 8), (0x10, 8), (0x18, 1), (0x19, 1), (0x1A, 1), (0x1B, 1), (0x1C, 2)]
  | _ => none

/-- Opcodes not permitted on a version 1 ring (Table 16.5). -/
def notV1 (op : Nat) : Bool := op = 0x54 || op = 0x61
/-- Opcodes refused while no job is bound (Table 16.5, R556); AUDIT has a refusal of its own. -/
def jobScope (op : Nat) : Bool := (0x10 ≤ op && op < 0x60) || op = 0x72
/-- Opcodes refused on an internal ring (Table 16.5). -/
def hostScope (op : Nat) : Bool := op = 0x62 || op = 0x63 || op = 0x70

/-- The bytes 0x00 to 0x3F of a command's entry: opcode, FLAGS, CMD_TAG, operands given as offset, bytes and value. -/
def entryBytes (c : CmdCtx) (op : Nat) (ops : List (Nat × List Byte)) : List Byte :=
  let base := leBytes 2 op ++ leBytes 2 (bitAt c.fence 0 + bitAt c.quiet 1) ++ leBytes 4 c.tag.toNat ++ zeroBytes 56
  ops.foldl (fun e o => e.take o.1 ++ o.2 ++ e.drop (o.1 + o.2.length)) base

/-- A byte of an entry lies in one of an opcode's operand fields. -/
def inFields (fs : List (Nat × Nat)) (i : Nat) : Bool := fs.any (fun f => f.1 ≤ i && i < f.1 + f.2)

/-- The status that refuses a malformed entry at its turn (R554, R556, R560, R562); 0 for a well-formed one. -/
def entryFault (s : State) (i : Nat) (e : List Byte) : Nat :=
  let op := fieldLE e 0 2
  match operandFields op with
  | none => 0x8101
  | some fs =>
    if fieldLE e 2 2 / 4 != 0 then 0x8102
    else if s.sqV1 i && notV1 op then 0x8103
    else if (List.range 56).any (fun k => e.getD (8 + k) 0 != 0 && !inFields fs (8 + k)) then 0x8102
    else if op = 0x44 && !(fieldLE e 0x16 1 = 1 || fieldLE e 0x16 1 = 2) then 0x8102
    else if op = 0x72 && 3 < fieldLE e 0x19 1 then 0x8102
    else if op = 0x20 && fieldLE e 0x1D 1 / 2 != 0 then 0x8102
    else 0

/-- The context of an entry of ring `i`. -/
def entryCtx (i : Nat) (e : List Byte) : CmdCtx :=
  { sq := BitVec.ofNat 7 i, tag := BitVec.ofNat 32 (fieldLE e 4 4), fence := bitOf (fieldLE e 2 1) 0, quiet := bitOf (fieldLE e 2 1) 1 }

/-- Commands of a ring are outstanding. -/
def State.ringBusy (s : State) (i : Nat) : Bool := s.hif.outCmds.any (fun o => o.ctx.sq.toNat == i)

/-- Refuse the malformed entries at the front of a ring's fetched entries. -/
def refuseBad : Nat → State → Nat → State
  | 0, s, _ => s
  | f + 1, s, i =>
    let q := s.sq i
    match q.fetched with
    | [] => s
    | (_, e) :: r =>
      let st := entryFault s i e
      if st = 0 || (bitOf (fieldLE e 2 1) 0 && s.ringBusy i) then s
      else refuseBad f (finish (bump (setSq s i { q with fetched := r }) hifBase 0 1) (entryCtx i e) st 0) i

/-- Whether a command stands at its ring's front and can be accepted now (R557): its entry is the oldest
fetched one, a FENCE finds no earlier command of the ring outstanding, and fewer than 4,096 are outstanding. -/
def State.ready (s : State) (c : CmdCtx) (op : Nat) (ops : List (Nat × List Byte)) : Bool :=
  s.pins.powered && (s.sq c.sq.toNat).state == 1 && s.hif.outCmds.length < 4096 && !(c.fence && s.ringBusy c.sq.toNat) &&
  (match (s.sq c.sq.toNat).fetched with
   | [] => false
   | (_, e) :: _ => slice e 0 8 == slice (entryBytes c op []) 0 8 && ops.all (fun o => slice e o.1 o.2.length == o.2))

/-- Accept a command: its entry leaves the ring, it is counted and is outstanding, with its ring's phase (R513, R557). -/
def accept (s : State) (c : CmdCtx) (op : Nat) : State :=
  let i := c.sq.toNat
  let q := s.sq i
  let s := setSq s i { q with fetched := q.fetched.drop 1 }
  bump { s with hif := { s.hif with outCmds := s.hif.outCmds ++
    [{ ctx := c, opcode := op, started := false, phase := q.phaseId, discard := false }] } } hifBase 0 1

/-- The refusal that a command's scope gives (R556): host-only on an internal ring, or no job bound. -/
def scopeFault (s : State) (c : CmdCtx) (op : Nat) : Nat :=
  if hostScope op && 64 ≤ c.sq.toNat then 0x810A else if jobScope op && !s.bound then 0x8104 else 0

/-- Run a ring command: when it is ready it is accepted, a scope refusal completes it, and otherwise its
body runs; then malformed entries behind it are refused. A command that is not ready waits (log 1). -/
def onRing (s : State) (c : CmdCtx) (op : Nat) (ops : List (Nat × List Byte)) (body : State → State) : Res :=
  if !s.ready c op ops then .next s
  else
    let s := accept s c op
    let st := scopeFault s c op
    let s := if st != 0 then finish s c st 0 else body s
    .next (refuseBad (s.sq c.sq.toNat).fetched.length s c.sq.toNat)

/-- Mark a command as started (R563). -/
def markStarted (s : State) (c : CmdCtx) : State :=
  { s with hif := { s.hif with outCmds := updFirst (fun o => o.ctx == c) (fun o => { o with started := true }) s.hif.outCmds } }

/-! ## Fetching -/

/-- Read entry `k` of a submission ring: its bytes, or none when package memory refuses the read. -/
def readEntry (s : State) (i k : Nat) : State × Option (List Byte) :=
  let sz := if s.sqV1 i then 32 else 64
  let off := sz * (k % 2 ^ s.sqLog i)
  if i < 64 then (s, some (Memory.read s.hostMem (s.reg64 (hifBase + 0x1000 + 0x20 * i) + off) sz))
  else
    match readVA s agentHost ((s.sq i).base.toNat + off) 64 with
    | (s, 0, bs) => (s, some bs)
    | (s, _, _) => (s, none)

/-- Fetch entries from a ring's head up to its tail (R547), while fewer than 4,096 commands are outstanding (R557). -/
def fetchEntries : Nat → State → Nat → State
  | 0, s, _ => s
  | f + 1, s, i =>
    let q := s.sq i
    if q.head = q.tail || 4096 ≤ s.hif.outCmds.length then s
    else
      match readEntry s i q.head.toNat with
      | (s, none) => stopSq s i 0x8105
      | (s, some bs) =>
        fetchEntries f (setSq s i { q with head := q.head + 1, fetched := q.fetched ++ [(q.head, normEntry (s.sqV1 i) bs)] }) i

/-- A new tail value for a ring: an invalid one stops it with 0x8109 (R547), else its entries are fetched. -/
def newTail (s : State) (i : Nat) (tail : U32) : State :=
  let q := s.sq i
  if q.state != 1 then s
  else if 2 ^ s.sqLog i < (tail - q.head).toNat then stopSq s i 0x8109
  else
    let s := setSq s i { q with tail := tail }
    let s := fetchEntries (tail - q.head).toNat s i
    refuseBad (s.sq i).fetched.length s i

/-- A doorbell word of the block (Table 16.3). -/
def State.doorbell (s : State) (off : Nat) : U32 := BitVec.ofNat 32 (Memory.readLE s.hostMem (s.dbBase + off) 4)

/-- Whether a read of the doorbell block shows a change. -/
def State.doorbellChanged (s : State) : Bool :=
  (List.range 64).any (fun i => (s.sq i).state == 1 && s.doorbell (8 * i) != (s.sq i).tail) ||
  (List.range 64).any (fun j => s.cqOn j && s.doorbell (0x200 + 8 * j) != (s.cq j).head) ||
  (s.evqOpen && s.doorbell 0x400 != s.hif.evqHead)

/-- An event ring with space again first gets the overflow record (R566). -/
def resumeEvents (s : State) : State :=
  if s.hif.evqHeld != 0 && s.evqRoom then
    let lost := s.hif.evqHeld
    let s := putEvent s 0x4110 srcHif 0 lost
    bump { s with hif := { s.hif with evqHeld := 0 } } hifBase 3 1
  else s

/-- Apply the heads of a doorbell read: completion rings and the event ring. -/
def applyHeads (s : State) : State :=
  let s := (List.range 64).foldl (fun s j =>
    if s.cqOn j then setCq s j { s.cq j with head := s.doorbell (0x200 + 8 * j) } else s) s
  resumeEvents (if s.evqOpen then { s with hif := { s.hif with evqHead := s.doorbell 0x400 } } else s)

/-- Read the doorbell block and act on it (R547, R550). -/
def readDoorbells (s : State) : State :=
  let s := bump s hifBase 5 1
  let s := if s.doorbellChanged then { s with hif := { s.hif with lastChange := s.tim.now } } else s
  let s := applyHeads s
  (List.range 64).foldl (fun s i => if (s.sq i).state == 1 then newTail s i (s.doorbell (8 * i)) else s) s

/-- Write the idle word of the doorbell block (Table 16.3). -/
def writeIdle (s : State) (idle : Bool) : State :=
  { s with hostMem := Memory.write s.hostMem (s.dbBase + 0x800) (leBytes 4 (bitAt idle 0) ++ leBytes 4 s.hif.idleSeq.toNat),
           hif := { s.hif with idle := idle } }

/-- The package is busy (R550). -/
def State.busy (s : State) : Bool :=
  s.hif.outCmds.any (fun o => o.ctx.sq.toNat < 64) || s.hif.sqs.any (fun e => e.1 < 64 && !e.2.fetched.isEmpty) ||
  s.hif.cqs.any (fun e => e.1 < 64 && !e.2.held.isEmpty) || (s.evqOpen && s.hif.evqHeld != 0) ||
  s.tim.now.toNat < s.hif.lastChange.toNat + 1000 * max 1 (bitsOf (s.reg (hifBase + 4)) 7 0)

/-- Some host ring is enabled, so that doorbells are read. -/
def State.ringsOn (s : State) : Bool := s.dbBase != 0 && (s.hif.sqs.any (fun e => e.1 < 64 && e.2.state == 1) ||
  (List.range 64).any (fun j => s.cqOn j) || s.evqOpen)

end Sys2Proof.Machine
end

