-- ==== Sys2Proof/Machine/Sec.lean ====
section
/-! DEFINITION. Firmware images and banks, update packages, the owner key and owner configuration
(R456 to R458, R577 to R582). -/

namespace Sys2Proof.Machine

/-- Bytes that an image's place in a bank holds (R576). -/
def placeBytes (c : Nat) : Nat := match c with | 0 => 0x400000 | 1 => 0x2400000 | _ => 0x800000

/-- The ASCII byte strings of the manual's formats. -/
def fwMagic : List Byte := asciiBytes "BGLFWIMG"
def cfgMagic : List Byte := asciiBytes "BGLOCFG1"
def ckptMagic : List Byte := asciiBytes "BGLCKPT1"

/-- Read an image header and its payload from the bytes at its start (Table 17.4). -/
def parseImage (bs : List Byte) : Image :=
  { magicOk := slice bs 0 8 == fwMagic, component := fieldLE bs 8 1, stepping := BitVec.ofNat 8 (fieldLE bs 9 1),
    version := BitVec.ofNat 32 (fieldLE bs 0xC 4), secVersion := BitVec.ofNat 32 (fieldLE bs 0x10 4), length := fieldLE bs 0x18 8,
    digest := slice bs 0x20 64, header := slice bs 0 0x60, beygilSig := slice bs 0x60 114, ownerSig := slice bs 0xD4 114,
    payload := slice bs 0x200 (fieldLE bs 0x18 8), factory := false }

/-- MAGIC, COMPONENT and LENGTH fit the place (R578). -/
def imageFormatOk (i : Image) (c : Nat) : Bool := i.magicOk && i.component == c && i.length + 512 ≤ placeBytes c

/-- Digest and signatures hold (R578). An image of the factory release verifies (R622). -/
def imageSigned (s : State) (i : Image) : Bool :=
  i.factory ||
  (shake256 i.payload == i.digest && ed448Verify s.flash.firmwareKey "BGL-fw" i.header i.beygilSig &&
   (!bitOf s.sec.ownerPolicy.toNat 0 || ed448Verify s.sec.ownerKey "BGL-owner" i.header i.ownerSig))

/-- The status of verifying one image, in the order format, stepping, signature, rollback (log 15). -/
def imageStatus (s : State) (i : Image) (c : Nat) (open_ : Bool) : Nat :=
  if !imageFormatOk i c then 0x8907
  else if i.stepping != 0xB1 then 0x8901
  else if open_ then 0
  else if !imageSigned s i then 0x8903
  else if i.secVersion.toNat < s.flash.rollback.getD c 0 then 0x8904
  else 0

/-- The first failure among three images. -/
def imagesStatus (s : State) (l : List Image) (open_ : Bool) : Nat :=
  if l.length != 3 then 0x8907
  else ((l.mapIdx (fun c i => imageStatus s i c open_)).find? (fun st => st != 0)).getD 0

/-- Committed banks by descending SEQ (R579). -/
def bankOrder (s : State) : List Nat :=
  let seqOf (b : Nat) : Option Nat := ((s.flash.banks.getD b ⟨none, []⟩).seq).map (fun x => x.toNat)
  match seqOf 0, seqOf 1 with
  | some a, some b => if b ≤ a then [0, 1] else [1, 0]
  | some _, none => [0]
  | none, some _ => [1]
  | none, none => []

/-- The outcome of bank selection: the bank and whether it is a fallback, or the status of the last bank tried (R579, R580). -/
def selectBank (s : State) (open_ : Bool) : Except Nat (Nat × Bool) :=
  let st (b : Nat) : Nat := imagesStatus s (s.flash.banks.getD b ⟨none, []⟩).images open_
  match bankOrder s with
  | [] => .error 0x8902
  | [a] => if st a = 0 then .ok (a, false) else .error (st a)
  | a :: b :: _ => if st a = 0 then .ok (a, false) else if st b = 0 then .ok (b, true) else .error (st b)

/-- The three images of an update package, or none on a bad layout (R581). -/
def parsePackage (bs : List Byte) : Option (List Image) :=
  let i0 := parseImage bs
  let r1 := bs.drop (512 + i0.length)
  let i1 := parseImage r1
  let r2 := r1.drop (512 + i1.length)
  let i2 := parseImage r2
  if bs.length = 1536 + i0.length + i1.length + i2.length && imageFormatOk i0 0 && imageFormatOk i1 1 && imageFormatOk i2 2
  then some [i0, i1, i2] else none

/-- The status of an update package (R581): format 0x8907, then the codes of R579. -/
def packageStatus (s : State) (bs : List Byte) : Nat :=
  if 0x3000000 < bs.length then 0x8907
  else match parsePackage bs with
    | none => 0x8907
    | some l => imagesStatus s l false

/-- Step 2 of R581 begins: the commit record of the bank not running is erased. -/
def eraseOther (s : State) : State :=
  { s with flash := { s.flash with banks := setAt s.flash.banks (1 - s.sec.bank) (fun b => { b with seq := none }) } }

/-- Steps 2 and 3 of R581: the images stand in the other bank, committed with SEQ one above the running bank's; what the
power controller has learned is lost (R518). -/
def commitOther (s : State) (l : List Image) : State :=
  let seq := ((s.flash.banks.getD s.sec.bank ⟨none, []⟩).seq.getD 0) + 1
  { s with flash := { s.flash with banks := setAt s.flash.banks (1 - s.sec.bank) (fun _ => { seq := some seq, images := l }) },
           pwr := { s.pwr with demands := [], programs := [] } }

/-! ## Owner configuration (Table 13.13) -/

/-- COUNT of an owner configuration block. -/
def cfgCount (bs : List Byte) : Nat := fieldLE bs 0xA 2

/-- The entries of a block in list order. -/
def cfgEntries (bs : List Byte) : List (Nat × U32) :=
  (List.range (cfgCount bs)).map (fun i => (fieldLE bs (0x18 + 8 * i) 4, BitVec.ofNat 32 (fieldLE bs (0x1C + 8 * i) 4)))

/-- The signature of a block verifies under a key (R457). -/
def cfgSigned (key bs : List Byte) : Bool :=
  let n := 0x18 + 8 * cfgCount bs
  !key.isEmpty && ed448Verify key "BGL-owner" (slice bs 0 n) (slice bs n 114)

/-- An entry names a RW or RWL register outside SEC, SNAP and HIF (R457). -/
def cfgEntryOk (e : Nat × U32) : Bool :=
  e.1 % 4 = 0 &&
  (match blockAt e.1, regDef e.1 with
   | some b, some d => (d.acc = .rw || d.acc = .rwl) && !(b.kind = .sec || b.kind = .snap || b.kind = .hif)
   | _, _ => false)

/-- The format of a block holds (R457). -/
def cfgFormatOk (bs : List Byte) : Bool :=
  slice bs 0 8 == cfgMagic && fieldLE bs 8 2 = 1 && fieldLE bs 0xC 4 = 0 && cfgCount bs ≤ 1024 &&
  bs.length = 0x18 + 8 * cfgCount bs + 114 && (cfgEntries bs).all cfgEntryOk

/-- The register belongs to a unit failed by self-test (R458). -/
def regOfFailedUnit (s : State) (o : Nat) : Bool :=
  match blockAt o with
  | some b =>
    (b.kind = .tile && s.rig.failed.contains (.tile (b.idx / 144) (b.idx % 144))) || (b.kind = .core && s.rig.failed.contains (.core b.idx))
  | none => false

/-- Refusal of FW_UPDATE while an update or the recovery mailbox is busy (R581). -/
def State.updateBusy (s : State) : Bool := s.sec.updating.isSome || s.regBit (pmcBase + 0x30) 0

end Sys2Proof.Machine
end

