-- ==== Sys2Proof/Machine/Bar0.lean ====
section
/-! DEFINITION. BAR0 accesses: reads with their latches, writes by access code, and the registers whose
writes act (R9, R40 to R43, R341, R476, R507, R544 to R548, R564, R567, R582, R598). -/

namespace Sys2Proof.Machine

/-! ## Bad accesses -/

/-- Count an access that R41 completes without effect. -/
def badAccess (s : State) (o : Nat) (write : Bool) : State :=
  bump (s.setReg (glbBase + 0x10) (o % 2 ^ 26 + bitAt write 26)) glbBase 0 1

/-! ## Rings (R543 to R548) -/

/-- A ring's base and length are well formed, and the doorbell block is set (R545, R546). -/
def State.ringOk (s : State) (base log2 : Nat) : Bool :=
  base % 4096 == 0 && 4 ≤ log2 && log2 ≤ 16 && s.dbBase != 0 && s.dbBase % 4096 == 0

/-- A newly set up submission ring: indexes zero, phase 0 (R513, R547). -/
def SubRing.fresh (state stop : Nat) : SubRing := { SubRing.off with state := state, stop := BitVec.ofNat 16 stop }

/-- Set ENABLE of a submission ring whose configuration is stored. -/
def startSq (s : State) (i : Nat) : State :=
  if s.setupOnly then showSq (setSq s i (SubRing.fresh 2 0x8108)) i
  else if s.ringOk (s.reg64 (hifBase + 0x1000 + 0x20 * i)) (s.sqLog i) && s.cqOn (s.sqCq i) && !(s.cq (s.sqCq i)).stopped &&
     s.sqV1 i == bitOf (s.cqCfg (s.sqCq i)) 31 then
    showSq (setSq s i (SubRing.fresh 1 0)) i
  else stopSq (setSq s i (SubRing.fresh 0 0)) i 0x8106

/-- Clear ENABLE of a submission ring: fetching stops, and entries not accepted are left unread (log 24). -/
def stopFetch (s : State) (i : Nat) : State :=
  let o := hifBase + 0x1008 + 0x20 * i
  showSq (setSq (s.setRegBit o 12 false) i SubRing.off) i

/-- Write SQ_CFG. -/
def writeSqCfg (s : State) (i v : Nat) : State :=
  let o := hifBase + 0x1008 + 0x20 * i
  if bitOf (s.sqCfg i) 12 then (if bitOf v 12 then s else stopFetch s i)
  else
    let s := s.setReg o (v &&& 0x1FFF)
    if bitOf v 12 then startSq s i else s

/-- Set ENABLE of a completion ring whose configuration is stored: completions that it holds are written
from the new base (R546, R570). -/
def startCq (s : State) (j : Nat) : State :=
  let held := (s.cq j).held
  if s.setupOnly then setCq s j { CompRing.off with stopped := true, stop := 0x8108, held := held }
  else if s.ringOk (s.reg64 (hifBase + 0x2000 + 0x20 * j)) (s.cqLog j) then
    drainHeld held.length (setCq s j { CompRing.off with held := held }) j
  else raise (setCq s j { CompRing.off with stopped := true, stop := 0x8106, held := held }) 0x4112 srcHif 0 j

/-- An enabled submission ring names the completion ring. -/
def State.cqNamed (s : State) (j : Nat) : Bool := (List.range 64).any (fun i => bitOf (s.sqCfg i) 12 && s.sqCq i == j)

/-- Write CQ_CFG. -/
def writeCqCfg (s : State) (j v : Nat) : State :=
  let o := hifBase + 0x2008 + 0x20 * j
  if bitOf (s.cqCfg j) 14 then
    if bitOf v 14 || s.cqNamed j then s
    else setCq (s.setRegBit o 14 false) j { CompRing.off with held := (s.cq j).held }
  else
    let s := s.setReg o v
    if bitOf v 14 then startCq s j else s

/-- Set ENABLE of the event ring whose configuration is stored. -/
def startEvq (s : State) : State :=
  let h := { s.hif with evqTail := 0, evqHead := 0, evqUnsignalled := 0, evqStopped := false }
  if s.setupOnly then { s with hif := { h with evqStopped := true } }
  else if s.ringOk (s.reg64 (hifBase + 0x20)) s.evqLog then resumeEvents { s with hif := h }
  else raise { s with hif := { h with evqStopped := true } } 0x4112 srcHif 0 0

/-- Write HIF_EVQ_CFG. -/
def writeEvqCfg (s : State) (v : Nat) : State :=
  let o := hifBase + 0x28
  if s.regBit o 14 then
    if bitOf v 14 then s else { s.setRegBit o 14 false with hif := { s.hif with evqStopped := false } }
  else
    let s := s.setReg o v
    if bitOf v 14 then startEvq s else s

/-! ## Interrupts (R564) -/

/-- Send an interrupt on a vector, or leave it pending while the vector is masked. -/
def sendVector (s : State) (v : Nat) : State :=
  if s.regBit (hifBase + 0x10000C + 16 * v) 0 then s.setRegBit (hifBase + 0x110000 + v / 32 * 4) (v % 32) true
  else bump (s.emit (.interrupt v)) hifBase 9 1

/-- Write a vector's control word: unmasking sends what is pending. -/
def writeVectorCtl (s : State) (v x : Nat) : State :=
  let s := s.setReg (hifBase + 0x10000C + 16 * v) (x % 2)
  let p := hifBase + 0x110000 + v / 32 * 4
  if x % 2 = 0 && s.regBit p (v % 32) then sendVector (s.setRegBit p (v % 32) false) v else s

/-! ## Actions of single registers -/

/-- Clear the counters of a group that the bits of a value select (R598). -/
def clearCounters (s : State) (g n v : Nat) : State :=
  (List.range n).foldl (fun s k => if bitOf v k then (s.setReg64 (g + 0x100 + 8 * k) 0).setRegBit (g + 0xF0) k false else s) s

/-- Write the summary record to HIF_SUMMARY_ADDR (R567). -/
def summaryGo (s : State) : State :=
  let a := s.reg64 (hifBase + 0x18)
  let o := hifBase + 0x14
  if s.regBit o 0 then s
  else if a % 4096 != 0 then s.setReg o (2 + 0x8102 * 0x10000)
  else
    match takeSummary s with
    | (s, bs) => { s with hostMem := Memory.write s.hostMem a bs }.setReg o 2

/-- Load an update package through the recovery mailbox (R581, R582); it serves while the package is setup-only. -/
def recoveryGo (s : State) : State :=
  let o := pmcBase + 0x30
  if !s.setupOnly || s.regBit o 0 then s
  else if s.sec.updating.isSome then s.setReg o (2 + 0x8905 * 0x10000)
  else
    let bs := Memory.read s.hostMem (s.reg64 (pmcBase + 0x20)) (s.reg (pmcBase + 0x28))
    let st := packageStatus s bs
    if st != 0 then s.setReg o (2 + st * 0x10000)
    else raise ((commitOther (eraseOther s) ((parsePackage bs).getD [])).setReg o 2) 0x4902 srcPmc 0 0

/-- Write MEM_THERM_MODE: all eight copies take the value (R341). -/
def writeThermMode (s : State) (v : Nat) : State :=
  (List.range 8).foldl (fun s n => s.setReg (stackBase n + 8) (v % 2)) s

/-- A port can serve: its cable is seated and at least two lanes carry it (R364, R614). -/
def State.portServes (s : State) (p : Nat) : Bool :=
  s.fab.flySeated.getD (p / 4) true && 2 ≤ ((s.port p).lanes.filter (fun l => l != 31)).length

/-- Write FAB_PORT_CTRL: DISABLE takes the port down; clearing it leaves the port to train again (Table 11.10). -/
def writePortCtl (s : State) (p v : Nat) : State :=
  let s := s.setReg (portBase p + 4) (v % 8)
  if bitOf v 2 then pathChange s (fun s => s.modPort p portOff)
  else s.modPort p (fun x => { x with disabled := !s.portServes p })

/-- Write TIM_CTRL: the counter follows the best source that is then enabled (R592). -/
def writeTimCtrl (s : State) (v : Nat) : State := refreshSource (s.setReg (timBase + 0xC) (v &&& 0xFF1F))

/-- Write GLB_SETUP_LOCK (W1S). -/
def writeSetupLock (s : State) (v : Nat) : State := if bitOf v 0 then s.setRegBit (glbBase + 8) 0 true else s

/-- A write-only register acts. -/
def actWo (s : State) (b : Blk) (r v : Nat) : State :=
  match (counterGroups b.kind).find? (fun g => r == g.1 + 0xF4) with
  | some g => clearCounters s (b.base + g.1) g.2 v
  | none =>
    match b.kind with
    | .tile => clearFlags s ⟨BitVec.ofNat 2 (b.idx / 144), BitVec.ofNat 8 (b.idx % 144)⟩ (v % 4)
    | .pmc =>
      if r = 0x02C then (if bitOf v 0 then recoveryGo s else s)
      else if r = 0x2008 then (if bitOf v 0 then { s with ckpt := { s.ckpt with requested := true } } else s)
      else s
    | .hif => if bitOf v 0 then summaryGo s else s
    | _ => s

/-- A read-write register of the host interface is written (R546, R549, R564). -/
def writeHif (s : State) (r v : Nat) (d : RegDef) : State :=
  let o := hifBase + r
  if r = 0x008 || r = 0x00C then
    if (List.range 64).any (fun i => bitOf (s.sqCfg i) 12) then s else s.setReg o v
  else if r = 0x020 || r = 0x024 then if s.regBit (hifBase + 0x28) 14 then s else s.setReg o v
  else if r = 0x028 then writeEvqCfg s v
  else if 0x1000 ≤ r && r < 0x1800 then
    let i := (r - 0x1000) / 0x20
    if r % 0x20 = 8 then writeSqCfg s i v else if bitOf (s.sqCfg i) 12 then s else s.setReg o v
  else if 0x2000 ≤ r && r < 0x2800 then
    let j := (r - 0x2000) / 0x20
    if r % 0x20 = 8 then writeCqCfg s j v else if bitOf (s.cqCfg j) 14 then s else s.setReg o v
  else if 0x100000 ≤ r && r % 16 = 0xC then writeVectorCtl s ((r - 0x100000) / 16) v
  else s.setReg o (v &&& d.mask)

/-- A value of PWR_PHASE_n raises the preferred point of one of its three classes (Table 15.11). -/
def raisesPoint (old v : Nat) : Bool :=
  bitsOf old 3 0 < bitsOf v 3 0 || bitsOf old 7 4 < bitsOf v 7 4 || bitsOf old 11 8 < bitsOf v 11 8

/-- Write PWR_PHASE_n: a write that raises a point while HOLDING or TRIP is set has no effect (R28, R527). -/
def writePhase (s : State) (o v : Nat) : State :=
  if s.holding && raisesPoint (s.reg o) v then s else s.setRegBits o 11 0 v

/-- A RW or RWL register is written. -/
def writePlain (s : State) (b : Blk) (r v : Nat) (d : RegDef) : State :=
  let o := b.base + r
  match b.kind with
  | .hif => writeHif s r v d
  | .pwr =>
    if r = 8 then setHostLimit s (v % 8192)
    else if r = 0x24 then if 70 ≤ v % 256 && v % 256 ≤ 100 then s.setReg o (v % 256) else s
    else if 0x1000 ≤ r then writePhase s o v
    else s.setReg o (v &&& d.mask)
  | .tim => writeTimCtrl s v
  | .stack => if r = 8 then writeThermMode s v else s.setReg o (v &&& d.mask)
  | .port => writePortCtl s b.idx v
  | _ => s.setReg o (v &&& d.mask)

/-- In the setup-only state, an attempt to enable a ring stops it with 0x8108 (R543). -/
def refuseEnable (s : State) (o v : Nat) : State :=
  let r := o - hifBase
  if o < hifBase then s
  else if 0x1000 ≤ r && r < 0x1800 && r % 0x20 = 8 && bitOf v 12 then startSq s ((r - 0x1000) / 0x20)
  else if 0x2000 ≤ r && r < 0x2800 && r % 0x20 = 8 && bitOf v 14 then startCq s ((r - 0x2000) / 0x20)
  else if r = 0x28 && bitOf v 14 then startEvq s
  else s

/-- A 32-bit write to BAR0 from the host, a steering core or the debug port (R9, R40, R41, R43). -/
def hostWrite (s : State) (o v : Nat) : State :=
  if s.badOffset o then badAccess (if s.setupOnly then refuseEnable s o v else s) o true
  else
    match blockAt o, regDef o with
    | some b, some d =>
      match d.acc with
      | .ro | .rc | .w1c => s
      | .wo => actWo s b (o - b.base) v
      | .w1s => writeSetupLock s v
      | .rwl => if s.regBit (glbBase + 8) 0 then s else writePlain s b (o - b.base) v d
      | .rw => writePlain s b (o - b.base) v d
    | _, _ => s

/-! ## Reads (R40) -/

/-- The latch of the 64-bit register whose low word lies at an offset. -/
def State.latch (s : State) (o : Nat) : Option U32 := kvGet s.latches o

/-- A 32-bit read of BAR0: the value, with the capture or the release of a latch; a register of a window whose registers
the spec does not list reads as a free value. FREE VALUE (log 43). -/
def hostRead (s : State) (o : Nat) : State × Nat :=
  if s.badOffset o then (badAccess s o false, 0)
  else if isLow64 o then
    ({ s with latches := kvSet s.latches o (BitVec.ofNat 32 (regRead s (o + 4))) }, regRead s o)
  else if 4 ≤ o && isLow64 (o - 4) then
    match s.latch (o - 4) with
    | some v => ({ s with latches := kvErase s.latches (o - 4) }, v.toNat)
    | none => (s, regRead s o)
  else if unlistedReg o then
    match s.drawBits with
    | (v, s) => (s, v.toNat % 2 ^ 32)
  else (s, regRead s o)

/-- A read whose data goes to the requester. -/
def readOut (s : State) (o : Nat) : State :=
  match hostRead s o with
  | (s, v) => s.emit (.regData o (BitVec.ofNat 32 v))

/-! ## The commands -/

/-- A read of a 64-bit register's low word captures its high word (R40). -/
def execLatchedLowRead (off : BitVec 26) (s : State) : Res := powered s fun s => readOut s off.toNat

/-- A read of a high word returns the pending value and clears the mark, or the live word (R40). -/
def execLatchedHighRead (off : BitVec 26) (s : State) : Res := powered s fun s => readOut s off.toNat

/-- An access that R41 names completes, and is counted: at a reserved range, or of another size or alignment. The command has no
size operand; at the offset of a register it stands for an access of another size. -/
def execBar0BadAccess (off : BitVec 26) (write : Bool) (s : State) : Res := powered s fun s =>
  let s := badAccess s off.toNat write
  if write then s else s.emit (.regData off.toNat 0)

/-- A write to a register is applied or ignored according to its access code (R9). -/
def execRegisterWrite (off : BitVec 26) (value : U32) (s : State) : Res := powered s fun s =>
  if off.toNat % 4 != 0 then badAccess s off.toNat true else hostWrite s off.toNat value.toNat

/-- GLB_SETUP_LOCK is written (R43). -/
def execGlbSetupLock (value : U32) (s : State) : Res := powered s fun s => hostWrite s (glbBase + 8) value.toNat

/-- A _CNT_CLR register is written (R598). -/
def execCounterClear (off : BitVec 26) (value : U32) (s : State) : Res := powered s fun s =>
  if off.toNat % 4 != 0 then badAccess s off.toNat true else hostWrite s off.toNat value.toNat

/-- A copy of MEM_THERM_MODE is written (R341). -/
def execMemThermMode (stack : BitVec 3) (value : U32) (s : State) : Res := powered s fun s =>
  hostWrite s (stackBase stack.toNat + 8) value.toNat

/-- TILE_FLAG_CLR is written (R126). -/
def execTileFlagClr (t : TileId) (value : U32) (s : State) : Res := powered s fun s =>
  hostWrite s (tileRegs t + 0x28) value.toNat

/-- CKPT_NOW is written (R476). -/
def execCkptNow (value : U32) (s : State) : Res := powered s fun s => hostWrite s (ckptBase + 8) value.toNat

/-- PWR_LIMIT is written (R507). -/
def execPwrLimit (value : U32) (s : State) : Res := powered s fun s => hostWrite s (pwrBase + 8) value.toNat

/-- HIF_SUMMARY_REQ is written (R567). -/
def execHifSummaryReq (value : U32) (s : State) : Res := powered s fun s => hostWrite s (hifBase + 0x10) value.toNat

/-- PMC_RECOV_CTRL is written (R582). -/
def execPmcRecovCtrl (value : U32) (s : State) : Res := powered s fun s => hostWrite s (pmcBase + 0x2C) value.toNat

/-- SQ_CFG is written with ENABLE set (R546). -/
def execSqEnable (i : BitVec 6) (cfg : U32) (s : State) : Res := powered s fun s =>
  hostWrite s (hifBase + 0x1008 + 0x20 * i.toNat) (setBits cfg.toNat 12 12 1)

/-- SQ_CFG is written with ENABLE clear (R546). -/
def execSqDisable (i : BitVec 6) (s : State) : Res := powered s fun s =>
  let o := hifBase + 0x1008 + 0x20 * i.toNat
  hostWrite s o (setBits (s.reg o) 12 12 0)

/-- CQ_CFG is written with ENABLE set (R546, R570). -/
def execCqEnable (j : BitVec 6) (cfg : U32) (s : State) : Res := powered s fun s =>
  hostWrite s (hifBase + 0x2008 + 0x20 * j.toNat) (setBits cfg.toNat 14 14 1)

/-- CQ_CFG is written with ENABLE clear, which is ignored while an enabled SQ names the CQ (R546). -/
def execCqDisable (j : BitVec 6) (s : State) : Res := powered s fun s =>
  let o := hifBase + 0x2008 + 0x20 * j.toNat
  hostWrite s o (setBits (s.reg o) 14 14 0)

/-- HIF_EVQ_CFG is written with ENABLE set (R546). -/
def execEvqEnable (cfg : U32) (s : State) : Res := powered s fun s =>
  hostWrite s (hifBase + 0x28) (setBits cfg.toNat 14 14 1)

end Sys2Proof.Machine
end

