-- ==== Sys2Proof/Machine/Stacks.lean ====
section
/-! DEFINITION. The stack controllers: thermal control, scrub, live block retirement, row repair and the
withdrawal of frames, stalled writes (R339 to R349, R355). -/

namespace Sys2Proof.Machine

/-! ## Retirement and repair -/

/-- The DRAM row that a 4 KiB block lies in: the fixed function of R325 of its index in its stack. -/
def rowOf (b : Nat) : Nat := Config.rowOfBlock (b % 0x3000000 / 2)

/-- The lowest free block of a stack's reserve. -/
def freeReserve (k : Stack) : Nat :=
  ((List.range (k.blockMap.length + 1)).find? (fun i => !k.blockMap.any (fun e => e.2 == i))).getD 0

/-- Rows that hold two or more retired blocks (R347). -/
def rowsToRepair (m : List (Nat × Nat)) : List Nat :=
  ((m.map (fun e => rowOf e.1)).filter (fun r => 2 ≤ (m.filter (fun e => rowOf e.1 == r)).length)).eraseDups

/-- The block that is block `i` of a stack's reserve (R45, R346). -/
def reserveBlock (n i : Nat) : Nat := n / 2 * 0x3000000 + 0x2FC0000 + 2 * i + n % 2

/-- A stack's block map once block `b` has gone to a free reserve block. The reserve block that served it, if one did, has
failed: it stays out of the reserve, listed under its own number (log 45). -/
def remapBlock (k : Stack) (n b : Nat) : List (Nat × Nat) :=
  (k.blockMap.map (fun e => if e.1 = b then (reserveBlock n e.2, e.2) else e)) ++ [(b, freeReserve k)]

/-- A retirement completes: the block's 32 lines are copied, with what the reading of them finds, and the block map points at a
reserve block (Table 10.4). -/
def retireBlock (s : State) (n b : Nat) : State :=
  let s := senseLines s (b * 4096) 4096
  let s := s.modStk n (fun k => { k with retiring := natErase k.retiring b })
  if (s.stk n).blocksLeft = 0 then
    raise (s.modStk n (fun k => { k with inPlace := k.inPlace ++ [b], foundEmpty := true })) 0x4202 (srcStack n) (b * 4096) 0
  else
    let s := s.modStk n (fun k =>
      let m := remapBlock k n b
      { k with blockMap := m, history := k.history.filter (fun e => e.1 != b),
               repairRows := k.repairRows ++ (rowsToRepair m).filter (fun r => !k.repairRows.contains r) })
    raise (bump { s with flash := { s.flash with dirty := true } } (stackBase n) 7 1) 0x4201 (srcStack n) (b * 4096) 0

/-- Repair one queued row, while the stack reports a repair left: its blocks move back (R347). -/
def repairRow (s : State) (n r : Nat) : State :=
  let s := s.modStk n (fun k => { k with repairRows := natErase k.repairRows r })
  if s.flash.repairs.getD n 0 = 0 then s
  else
    let s := s.modStk n (fun k => { k with blockMap := k.blockMap.filter (fun e => rowOf e.1 != r), repairsDone := k.repairsDone + 1 })
    raise { s with flash := { s.flash with repairs := setAt s.flash.repairs n (fun x => x - 1), dirty := true } } 0x4203 (srcStack n) 0 r

/-- Up to 16 row repairs per stack, at a teardown or a power-up (R347). -/
def repairRows (s : State) : State :=
  (List.range 8).foldl (fun s n => ((s.stk n).repairRows.take 16).foldl (fun s r => repairRow s n r) s) s

/-- At a teardown the frames of blocks left in place are withdrawn (R349). -/
def withdrawFrames (s : State) : State :=
  (List.range 8).foldl (fun s n =>
    let s' := (s.stk n).inPlace.foldl (fun s b =>
      let f := b / 512
      if s.mem.withdrawn.contains f then s
      else raise { s with mem := { s.mem with withdrawn := natInsert s.mem.withdrawn f }, flash := { s.flash with dirty := true } }
        0x4208 (srcStack n) (f * 0x200000) 0) s
    s'.modStk n (fun k => { k with inPlace := [] })) s

/-! ## Thermal control (R340 to R343) -/

/-- The refresh multiplier of the second scheme at a temperature, with 2 °C of hysteresis (R341). -/
def refreshStep (m c : Nat) : Nat :=
  if 95 ≤ c || (m = 4 && 93 < c) then 4 else if 85 ≤ c || (2 ≤ m && 83 < c) then 2 else 1

/-- A stack's metering follows its temperature in the native scheme; 0x4204 once each time it begins. -/
def meterStack (s : State) (n c thr : Nat) : State :=
  let k := s.stk n
  if k.modeActive then s.modStk n (fun k => { k with metering := false, refreshMul := refreshStep k.refreshMul c })
  else if thr ≤ c then
    let s' := bumpClocks (s.modStk n (fun k => { k with metering := true, refreshMul := 1 })) (stackBase n) 5
    if k.metering then s' else raise s' 0x4204 (srcStack n) 0 0
  else if c + 2 ≤ thr then s.modStk n (fun k => { k with metering := false, refreshMul := 1 })
  else if k.metering then bumpClocks s (stackBase n) 5
  else s

/-- The hot stop at 100 °C, until below 95 °C (R342). -/
def hotStack (s : State) (n c : Nat) : State :=
  let k := s.stk n
  if 100 ≤ c && !k.hotStop then raise (s.modStk n (fun k => { k with hotStop := true })) 0x4205 (srcStack n) 0 0
  else if c < 95 then s.modStk n (fun k => { k with hotStop := false })
  else s

/-- Put MEM_THERM_MODE into effect, at a bind (R341): metering and added refresh follow the temperature that the stack last
reported, once it has reported one. -/
def applyThermMode (s : State) : State :=
  (List.range 8).foldl (fun s n =>
    let on := s.regBit (stackBase n + 8) 0
    let t := s.reg (stackBase n + 0x10)
    let s := s.modStk n (fun k => { k with modeActive := on, metering := k.metering && !on, refreshMul := if on then k.refreshMul else 1 })
    if bitsOf t 15 8 = 0 then s else meterStack s n (bitsOf t 7 0) (bitsOf t 15 8)) s

/-! ## The commands -/

/-- Every 10 µs a stack reports its temperature, threshold and rate request (R340). -/
def execStackTempSample (stack : BitVec 3) (tempC thrC : BitVec 8) (rateReq : BitVec 4) (s : State) : Res := powered s fun s =>
  let n := stack.toNat
  let s := s.setReg (stackBase n + 0x10) (tempC.toNat + thrC.toNat * 0x100 + rateReq.toNat * 0x10000)
  let s := hotStack (meterStack s n tempC.toNat thrC.toNat) n tempC.toNat
  if (s.stk n).hotStop then bumpClocks s (stackBase n) 6 else s

/-- A scrub read of a mapped line of the stack (R339): an error it finds acts as under R332 to R334. -/
def execScrub (stack : BitVec 3) (line : U64) (err : LineErr) (s : State) : Res := powered s fun s =>
  let pa := line.toNat / 128 * 128
  let n := stack.toNat
  if s.reg (stackBase n + 0xC) = 0 || 0xC000000000 ≤ pa || stackOf pa != n || (s.entryAt pa).isNone || s.paHeld pa || (s.lineMark pa).isSome then s
  else
    let found : Option Bool := match err with
      | .none => kvGet s.mem.latent (pa / 128)
      | .correctable => some false
      | .uncorrectable => some true
    match found with
    | none => s
    | some u => lineError { s with mem := { s.mem with latent := kvErase s.mem.latent (pa / 128) } } pa u true

/-- The copy of a block whose retirement was decided ends (R344). -/
def execBlockRetired (stack : BitVec 3) (s : State) : Res := powered s fun s =>
  match (s.stk stack.toNat).retiring with
  | [] => s
  | b :: _ => retireBlock s stack.toNat b

/-- Block-map, trim and journal changes are written to SPI flash (R345, R531, R583). -/
def execSpareMapFlashWrite (s : State) : Res := powered s fun s => if s.flash.dirty then writeFlash s else s

/-- The first stalled write of a die for which a slot is free, or whose granule needs none, proceeds (R355); a STROKE_END may
have waited for it (R271). -/
def execStagingStallRelease (die : BitVec 2) (s : State) : Res := powered s fun s =>
  let mine (e : Nat × List Byte) : Bool := e.1 / 0x3000000000 == die.toNat && !noSlot s (e.1 / 65536)
  match s.mem.stalled.find? mine with
  | none => s
  | some e => tryArrive (performWrite { s with mem := { s.mem with stalled := dropFirst mine s.mem.stalled } } e.1 e.2)

end Sys2Proof.Machine
end

