-- ==== Sys2Proof/Machine/Power.lean ====
section
/-! DEFINITION. Power-up and loss of VIN, resets of the host interface, the host link, pins, bridges and
heartbeats (R17 to R19, R30, R463, R539, R544, R572 to R583, R606 to R609, R614). -/

namespace Sys2Proof.Machine

/-! ## Power-up (Table 17.1) -/

/-- What a power-up starts from: State.reset with what Table 17.2 keeps, the host's memory, the queue and
what has been sent. -/
def coldStart (s : State) (env : PowerUpEnv) : State :=
  let flash := { s.flash with bootCount := s.flash.bootCount + 1, openedEver := s.flash.openedEver || env.devOpen, dirty := false }
  { State.reset with
    pending := s.pending, hostMem := s.hostMem, sent := s.sent, free := s.free, flash := flash,
    pins := { State.reset.pins with powered := true, perst := s.pins.perst, holdWater := env.holdWaterLow, sledPos := env.sledPos },
    sec := { State.reset.sec with devOpen := env.devOpen, debugOpen := env.devOpen, ownerKey := flash.ownerKey,
                                  ownerPolicy := flash.ownerPolicy } }

/-- The images of the chosen bank run (R443, R460, R579). -/
def runBank (s : State) (b : Nat) (fallback : Bool) : State :=
  let imgs := (s.flash.banks.getD b ⟨none, []⟩).images
  let s := { s with sec := { s.sec with bank := b, fallback := fallback,
                                        fwVerified := imgs.mapIdx (fun c i => imageStatus s i c false == 0),
                                        fwDigests := imgs.map (fun i => shake256 i.payload) } }
  if fallback then raise s 0x4903 srcPmc 0 0 else s

/-- Rollback fuses are blown up to the images' SEC_VERSION, unless DEV_OPEN is strapped (R580). -/
def blowFuses (s : State) : State :=
  if s.sec.devOpen then s
  else
    let imgs := (s.flash.banks.getD s.sec.bank ⟨none, []⟩).images
    let fuses := s.flash.rollback.mapIdx (fun c f => max f (match imgs[c]? with | some i => min 64 i.secVersion.toNat | none => 0))
    { s with flash := { s.flash with rollback := fuses } }

/-- A lane of a fabric die fails with no traffic on it: its port's spare lane carries it, else nothing does. -/
def replaceLane (s : State) (m l reason : Nat) : State :=
  match (s.rig.lanes.getD m []).findIdx? (fun e => e == some l) with
  | none => markFailed s (.lane m l)
  | some i =>
    let s := markFailed s (.lane m l)
    let sp := spareLaneFor i
    let p := 8 * m + i / 4
    if (spareLanes s.rig m).contains sp then
      (setLane s m i (some sp) reason).modPort p (fun x =>
        { x with lanes := setAt x.lanes (i % 4) (fun _ => sp % 18), spareUsed := true, spareOwned := true })
    else
      let s := (setLane s m i none reason).modPort p (fun x => { x with lanes := setAt x.lanes (i % 4) (fun _ => 31) })
      if s.portServes p then s else raise (s.modPort p (fun x => { x with disabled := true })) 0x4303 (srcPort p) 0 p

/-- A unit fails self-test: 0x4909, and its pool supplies a spare at once (R574). -/
def selfTestFailure (s : State) (u : UnitRef) : State :=
  match u with
  | .tile n p => replaceTile (raise s 0x4909 (srcTile ⟨BitVec.ofNat 2 n, BitVec.ofNat 8 p⟩) 0 0) n p 0x4909
  | .rowGroup n p b g => replaceRowGroup (raise s 0x4909 (srcTile ⟨BitVec.ofNat 2 n, BitVec.ofNat 8 p⟩) 0 0) n p b g 0x4909
  | .core p => replaceCore (raise s 0x4909 (srcCore p) 0 0) p 0x4909
  | .lane m l => replaceLane (raise s 0x4909 (srcFab m) 0 0) m l 0x4909
  | .wire b pos =>
    let s := raise s 0x4909 (if b < 8 then srcDie (b / 2) else srcDie (b - 8)) 0 0
    match wireAt s.rig b pos with
    | some w => replaceWire s b w 0x4909
    | none => markFailed s (.wire b pos)

/-- Stacks train; block maps and trims apply; queued rows are repaired (R324, R345, R347, R531). -/
def bringUpStacks (s : State) (failed : List Nat) : State :=
  let s := (List.range 8).foldl (fun s n => s.modStk n (fun k =>
    let m := s.flash.blockMaps.getD n []
    { k with trained := !failed.contains n, blockMap := m, repairRows := rowsToRepair m })) s
  repairRows { s with pwr := { s.pwr with trims := s.flash.trims }, mem := { s.mem with withdrawn := s.flash.withdrawn } }

/-- Apply the entries of an owner configuration, with the effect of host writes (R458). -/
def applyEntries (s : State) (l : List (Nat × U32)) : State :=
  l.foldl (fun s e => if regOfFailedUnit s e.1 then s else hostWrite s e.1 e.2.toNat) s

/-- The stored owner configuration is checked again and applied, and the setup lock set (R458). -/
def bootConfig (s : State) : State :=
  let raw := s.flash.ownerConfigRaw
  let s :=
    if raw.isEmpty then s
    else if cfgFormatOk raw && cfgSigned s.sec.ownerKey raw then applyEntries s (cfgEntries raw)
    else raise s 0x4912 srcSec 0 0x8914
  if bitOf s.sec.ownerPolicy.toNat 1 then s.setRegBit (glbBase + 8) 0 true else s

/-- A failed die supervisor or stack leaves the package setup-only; the first heartbeat carries the report (R574, R324). -/
def bootFaults (s : State) (env : PowerUpEnv) : State :=
  if env.failedSupervisors.isEmpty && env.failedStacks.isEmpty then s
  else { s with sec := { s.sec with bootStatus := 0x8909 }, mgmt := { s.mgmt with faultyDies := env.failedSupervisors, firstFault := true } }

/-- The steps of Table 17.1 that need verified PMC firmware. -/
def bootFirmware (s : State) (env : PowerUpEnv) (b : Nat) (fallback : Bool) : State :=
  let s := runBank s b fallback
  let s := if env.devOpen then raise s 0x4911 srcSec 0 0 else s
  let s := { s with pins := { s.pins with bypassOpen := true } }
  let s := env.failedUnits.foldl selfTestFailure (buildRig s)
  let s := blowFuses (bringUpStacks s env.failedStacks)
  bootFaults (bootConfig s) env

/-- 'Hold water' low at power-up: the sequence completes with HOLDING set (R607). -/
def holdAtBoot (s : State) : State :=
  if !s.pins.holdWater then s
  else stopWater (bump (s.setRegBit pwrBase 2 true) pwrBase 8 1) 3 0x4802

/-- VIN has stayed at or above 44 V for 1 ms: the sequence of Table 17.1 (R572). A powered package has no
such event left to act on (log 1). -/
def execPowerUp (env : PowerUpEnv) (s : State) : Res :=
  if s.pins.powered then .next s
  else
    let s := coldStart s env
    let s := match selectBank s env.devOpen with
      | .ok (b, fb) => holdAtBoot (bootFirmware s env b fb)
      | .error st => { s with rig := factoryRig s, sec := { s.sec with romRecovery := true, bootStatus := BitVec.ofNat 16 st } }
    .next { s with pins := { s.pins with pkgReady := true } }

/-- VIN has stayed below 42 V: everything but Table 17.2's kept items is lost (R504, R575, R587). -/
def execVinLoss (s : State) : Res := powered s fun s =>
  { State.reset with
    pending := s.pending, hostMem := s.hostMem, sent := s.sent, free := s.free, flash := { s.flash with dirty := false },
    pins := { State.reset.pins with perst := s.pins.perst, holdWater := s.pins.holdWater } }

/-! ## Resets of the host interface (R544, R609) -/

/-- A register of the host interface that R544 returns to its reset value: all but the counters. -/
def hifResettable (o : Nat) : Bool :=
  hifBase ≤ o && o < hifBase + 0x200000 &&
  !(hifBase + 0xF0 ≤ o && o < hifBase + 0x150) && !(hifBase + 0x1F0 ≤ o && o < hifBase + 0x250)

/-- The effects of R544: host rings disabled, registers reset, what is unwritten discarded, 0x4113. -/
def hostReset (s : State) : State :=
  let s := { s with
    regs := s.regs.filter (fun e => !hifResettable e.1),
    hif := { s.hif with
      sqs := s.hif.sqs.filter (fun e => 64 ≤ e.1), cqs := s.hif.cqs.filter (fun e => 64 ≤ e.1),
      evqTail := 0, evqHead := 0, evqHeld := 0, evqStopped := false, evqUnsignalled := 0, evqFirstAt := 0,
      idle := false,
      outCmds := s.hif.outCmds.map (fun o => if o.ctx.sq.toNat < 64 then { o with discard := true } else o) } }
  raise s 0x4113 srcHif 0 0

/-- PERST# is asserted: after PKG_READY it resets only the endpoint (R609). -/
def execPerstAssert (s : State) : Res := powered s fun s =>
  let s := { s with pins := { s.pins with perst := true } }
  if s.pins.pkgReady then hostReset s else s

/-- PERST# is deasserted: the endpoint starts link training (R573). -/
def execPerstDeassert (s : State) : Res := powered s fun s => { s with pins := { s.pins with perst := false } }

/-- The endpoint is out of reset. -/
def State.endpointUp (s : State) : Bool := s.pins.powered && s.pins.pkgReady && !s.pins.perst

/-- A command of the PCIe side, which reaches only an endpoint out of reset (log 1). -/
def overPcie (s : State) (f : State → State) : Res := if s.endpointUp then .next (f s) else .next s

/-- A Function Level Reset (R544). -/
def execFunctionLevelReset (s : State) : Res := overPcie s hostReset

/-- A hot reset (R544). -/
def execHotReset (s : State) : Res := overPcie s hostReset

/-- The PCIe link's rate, width or bus mastering changes; a change of rate or width raises 0x4111 (R539). -/
def execHostLinkChanged (gen width : Nat) (busMaster : Bool) (s : State) : Res := overPcie s fun s =>
  let old := bitsOf (s.reg hifBase) 9 2
  let s := (s.setRegBits hifBase 9 2 (gen % 8 + width % 32 * 8)).setRegBit hifBase 10 busMaster
  if bitsOf (s.reg hifBase) 9 2 = old then s else raise s 0x4111 srcHif 0 0

/-! ## Pins -/

/-- An edge at the 1PPS input: with PPS_IN_EN the counter's whole seconds align to it, by slewing (R593, R595). -/
def execPpsInEdge (s : State) : Res := powered s fun s =>
  let s := ({ s with tim := { s.tim with ppsSeen := true } }).setRegBit (timBase + 8) 6 true
  if s.regBit (timBase + 0xC) 3 && s.synced then
    let off : Int := nearestSecond (s.tim.now.toNat : Int) - (s.tim.now.toNat : Int)
    bumpClocks ({ s with tim := { s.tim with slew := off } }.setReg (timBase + 0x10) (offsetReg off)) timBase 2
  else s

/-- Keep the four ports of a connector disabled, with 0x4303 for each (R614). -/
def missingCable (s : State) (c : Nat) : State :=
  (List.range 4).foldl (fun s k =>
    let p := 4 * c + k
    raise (pathChange s (fun s => s.modPort p portOff)) 0x4303 (srcPort p) 0 p) s

/-- A flyover cable is seated, or found missing when its ports train (R614). -/
def execFlyPresentChange (connector : BitVec 2) (seated : Bool) (s : State) : Res := powered s fun s =>
  let c := connector.toNat
  let s := { s with fab := { s.fab with flySeated := setAt s.fab.flySeated c (fun _ => seated) } }
  if !seated then missingCable s c
  else (List.range 4).foldl (fun s k =>
    let p := 4 * c + k
    s.modPort p (fun x => { x with disabled := s.regBit (portBase p + 4) 2 || !s.portServes p })) s

/-! ## Bridges (R17 to R19) -/

/-- A flit on a data wire fails its CRC and is retried; the sixteenth retry within 1 ms makes the wire
faulty: a spare starts training, or its group is disabled (R18, R19). -/
def execBridgeCrcRetry (bridge wire : Nat) (s : State) : Res := powered s fun s =>
  if 12 ≤ bridge || bridgeWires bridge ≤ wire || (wirePos s.rig bridge wire).isNone || s.bridges.repairing.contains (bridge, wire) then s
  else
    let mine (e : Nat × Nat × List U64) : Bool := e.1 == bridge && e.2.1 == wire
    let old := ((s.bridges.retries.find? mine).map (fun e => e.2.2)).getD []
    let now := (old ++ [s.tim.now]).filter (fun t => s.tim.now.toNat < t.toNat + 1000000)
    let rest := s.bridges.retries.filter (fun e => !mine e)
    if now.length < 16 then { s with bridges := { s.bridges with retries := rest ++ [(bridge, wire, now)] } }
    else
      let s := { s with bridges := { s.bridges with retries := rest } }
      if (spareWires s.rig bridge (wire / 40)).isEmpty then replaceWire s bridge wire 0x4621
      else { s with bridges := { s.bridges with repairing := s.bridges.repairing ++ [(bridge, wire)] } }

/-- 20 µs later the spare wire is mapped and the bridge resumes, with 0x4620 (Table 1.3). -/
def execBridgeWireSpared (bridge : Nat) (s : State) : Res := powered s fun s =>
  match s.bridges.repairing.find? (fun e => e.1 == bridge) with
  | none => s
  | some e =>
    let s := { s with bridges := { s.bridges with repairing := dropFirst (fun x => x == e) s.bridges.repairing } }
    let spared := !(spareWires s.rig bridge (e.2 / 40)).isEmpty
    let s := replaceWire s bridge e.2 0x4620
    if spared then raise s 0x4620 (if bridge < 8 then srcDie (bridge / 2) else srcDie (bridge - 8)) 0 bridge else s

/-! ## Heartbeats -/

/-- A die supervisor's heartbeat reaches the PMC (R30). -/
def execDieHeartbeat (die : BitVec 3) (s : State) : Res := powered s fun s =>
  { s with mgmt := { s.mgmt with heartbeats := setAt s.mgmt.heartbeats die.toNat (fun _ => 0) } }

/-- A 1 ms period passes without a die's heartbeat; the third in a row is a package fault (R30; log 25). -/
def execDieHeartbeatMissed (die : BitVec 3) (s : State) : Res := powered s fun s =>
  let n := die.toNat
  if 6 ≤ n then s
  else
    let s := { s with mgmt := { s.mgmt with heartbeats := setAt s.mgmt.heartbeats n (fun k => k + 1) } }
    if s.mgmt.heartbeats.getD n 0 < 3 || s.mgmt.faultyDies.contains n then s
    else report { s with mgmt := { s.mgmt with faultyDies := s.mgmt.faultyDies ++ [n] } } 0x8711 0 0

/-- The body of a heartbeat (Table 17.6). -/
def heartbeatBody (s : State) : List Byte :=
  leBytes 4 s.glbId ++ leBytes 4 s.secStatus ++ leBytes 8 s.flash.bootCount.toNat ++ leBytes 8 s.tim.now.toNat ++ geometryBytes s

/-- Every 10 ms a heartbeat message leaves on every port that is up (R463); with the first goes the report of a
fault found at power-up (R574). -/
def execPmcHeartbeat (s : State) : Res := powered s fun s =>
  let up := (List.range 16).filter (fun p => (s.port p).up)
  let t := up.foldl (fun t p => bump (t.emit (.heartbeat p (heartbeatBody s))) (portBase p) 0 (mgmtBytes 88)) s
  if up.isEmpty || !s.mgmt.firstFault then t
  else report { t with mgmt := { t.mgmt with firstFault := false } } 0x8711 0 0x8909

end Sys2Proof.Machine
end

