-- ==== Sys2Proof/Machine/HostLink.lean ====
section
/-! DEFINITION. The host's apertures, the wake page, doorbell polling and idling, held completions,
interrupts and internal doorbells (R47, R48, R339, R541 to R553, R562, R564, R570). -/

namespace Sys2Proof.Machine

/-! ## BAR2 -/

/-- A package address that BAR2 reaches: a data frame that backs a page of the bound job (R339). -/
def State.bar2Data (s : State) (pa : Nat) : Bool := pa < 0xC000000000 && (s.entryAt pa).isSome

/-- An access that BAR2 reaches must wait. -/
def State.bar2Held (s : State) (addr n : Nat) : Bool := (piecesOf addr n).any (fun p => s.bar2Data p.1 && s.paHeld p.1)

/-- Read pieces through BAR2, line by line: data or all-ones, with EP per line (R47, R339). -/
def bar2Pieces : List (Nat × Nat) → State → List Byte → List Bool → State × List Byte × List Bool
  | [], s, bs, eps => (s, bs, eps)
  | (a, n) :: r, s, bs, eps =>
    if !s.bar2Data a then bar2Pieces r s (bs ++ List.replicate n 0xFF) (eps ++ [false])
    else match readLine s a n with
      | (s, _, some _) => bar2Pieces r s (bs ++ List.replicate n 0xFF) (eps ++ [true])
      | (s, d, none) => bar2Pieces r s (bs ++ d) (eps ++ [false])

/-- Write pieces through BAR2; those it does not reach are discarded. -/
def bar2Stores : List (Nat × Nat) → State → List Byte → State
  | [], s, _ => s
  | (a, n) :: r, s, bs => bar2Stores r (if s.bar2Data a then writeLine s a (bs.take n) else s) (bs.drop n)

/-- A host read through BAR2 (R47, R339, R543). -/
def execBar2Read (addr : U64) (bytes : Nat) (s : State) : Res := overPcie s fun s =>
  if s.setupOnly then (badAccess s addr.toNat false).emit (.bar2Data addr (zeroBytes bytes) [])
  else if s.bar2Held addr.toNat bytes then s
  else match bar2Pieces (piecesOf addr.toNat bytes) s [] [] with
    | (s, d, eps) => s.emit (.bar2Data addr d eps)

/-- A host write through BAR2 (R47, R339, R543). -/
def execBar2Write (addr : U64) (data : List Byte) (s : State) : Res := overPcie s fun s =>
  if s.setupOnly then badAccess s addr.toNat true
  else if s.bar2Held addr.toNat data.length then s
  else bar2Stores (piecesOf addr.toNat data.length) s data

/-! ## Wake, polling and idling -/

/-- A write to BAR4: IDLE = 0, the doorbell block is read, and the package is busy from then on; a wake
that finds no new work is spurious (R552, R553). -/
def execWake (s : State) : Res := overPcie s fun s =>
  let s := bump s hifBase 7 1
  if s.dbBase = 0 then bump s hifBase 8 1
  else
    let s := writeIdle s false
    let s := { s with hif := { s.hif with lastChange := s.tim.now } }
    if s.doorbellChanged then readDoorbells s else bump (readDoorbells s) hifBase 8 1

/-- The first running ring with entries to fetch. -/
def State.firstNew (s : State) : Option Nat :=
  (List.range 64).find? (fun i => (s.sq i).state == 1 && s.doorbell (8 * i) != (s.sq i).tail)

/-- While busy, the doorbell block is read and acted on; a failed host memory read stops the ring whose
entries were to be read (R547, R550; log 26). -/
def execDoorbellPoll (hostOk : Bool) (s : State) : Res := overPcie s fun s =>
  if !s.ringsOn || s.hif.idle then s
  else if hostOk then readDoorbells s
  else match s.firstNew with
    | some i => stopSq (bump s hifBase 5 1) i 0x8105
    | none => bump s hifBase 5 1

/-- The package ceases to be busy: IDLE = 1, one more read, and IDLE = 0 again when it shows a change (R551). -/
def execIdleEntry (s : State) : Res := overPcie s fun s =>
  if !s.ringsOn || s.hif.idle || s.busy then s
  else
    let s := { s with hif := { s.hif with idleSeq := s.hif.idleSeq + 1 } }
    let s := bump (writeIdle s true) hifBase 6 1
    if s.doorbellChanged then readDoorbells (writeIdle s false) else bump s hifBase 5 1

/-- A held completion is written once its ring has room; a failed write stops the ring (R548, R570). -/
def execHeldCompletionWrite (ring : BitVec 7) (hostOk : Bool) (s : State) : Res := powered s fun s =>
  let j := ring.toNat
  let q := s.cq j
  match q.held with
  | [] => s
  | x :: r =>
    if !s.cqOn j || q.stopped || !s.cqRoom j then s
    else if hostOk || 64 ≤ j then writeCompletion (setCq s j { q with held := r }) j x
    else stopCq s j

/-! ## Interrupts (R564) -/

/-- An interrupt is due: MOD_COUNT entries (0 as 1), or MOD_US since the oldest. -/
def State.irqDue (s : State) (n firstAt count us : Nat) : Bool :=
  0 < n && (max 1 count ≤ n || firstAt + 1000 * us ≤ s.tim.now.toNat)

/-- Send the interrupt of a ring when it is due. -/
def execMsixInterrupt (src : IrqSrc) (s : State) : Res := overPcie s fun s =>
  match src with
  | .cq j =>
    let c := s.cqCfg j.toNat
    let q := s.cq j.toNat
    if bitOf c 14 && bitOf c 15 && s.irqDue q.unsignalled q.firstAt.toNat (bitsOf c 23 16) (bitsOf c 30 24) then
      sendVector (setCq s j.toNat { q with unsignalled := 0 }) (bitsOf c 13 5)
    else s
  | .evq =>
    let c := s.reg (hifBase + 0x28)
    if bitOf c 14 && bitOf c 15 && s.irqDue s.hif.evqUnsignalled s.hif.evqFirstAt.toNat (bitsOf c 23 16) (bitsOf c 31 24) then
      sendVector { s with hif := { s.hif with evqUnsignalled := 0 } } (bitsOf c 13 5)
    else s

/-! ## Internal rings (R562) -/

/-- The directory reports a write to an internal ring's doorbell word to the ring engine. -/
def execInternalDoorbellWrite (sq : Bool) (index : BitVec 6) (value : U32) (s : State) : Res := powered s fun s =>
  let i := 64 + index.toNat
  if sq then newTail s i value
  else if s.cqOn i then drainHeld (s.cq i).held.length (setCq s i { s.cq i with head := value }) i
  else s

end Sys2Proof.Machine
end

