-- ==== Sys2Proof/Machine/Host.lean ====
section
/-! DEFINITION. Ring commands of the host family and of memory: NOP, READ_SUMMARY, PHASE_MARK, MEM_MAP,
MEM_UNMAP, COPY, SYNC_WAIT, CATCH_NOW, RING_INT (R330, R331, R513, R556 to R563, R567, R596). -/

namespace Sys2Proof.Machine

/-- An operand: offset in the entry, and its bytes. -/
def opnd (o n v : Nat) : Nat × List Byte := (o, leBytes n v)

/-- Write at an OUT operand: a host bus address on a host ring, a job virtual address on an internal one (R556). -/
def writeOut (s : State) (c : CmdCtx) (agent a : Nat) (bs : List Byte) : State × Nat :=
  if c.sq.toNat < 64 then ({ s with hostMem := Memory.write s.hostMem a bs }, 0) else writeRecord s agent a bs

/-- The command does nothing and completes (R556). -/
def execNop (c : CmdCtx) (s : State) : Res := onRing s c 0x0000 [] fun s => finish s c 0 0

/-- READ_SUMMARY writes the summary record to OUT (R567). -/
def execReadSummary (c : CmdCtx) (out : U64) (s : State) : Res := onRing s c 0x0001 [opnd 8 8 out.toNat] fun s =>
  if out.toNat % 4096 != 0 then finish s c 0x8102 0
  else match takeSummary s with
    | (s, bs) => match writeOut s c agentHost out.toNat bs with
      | (s, st) => finish s c st (if st = 0 then s.hif.summarySeq.toNat else 0)

/-- PHASE_MARK sets the phase of later commands on its ring and completes at acceptance (R513, R557). -/
def execPhaseMark (c : CmdCtx) (phase : BitVec 8) (s : State) : Res := onRing s c 0x0002 [opnd 8 1 phase.toNat] fun s =>
  finish (setSq s c.sq.toNat { s.sq c.sq.toNat with phaseId := phase }) c 0 0

/-! ## Mapping (R330, R331, R335) -/

/-- Frames of a die's region, and those below the reserve (R346). -/
def dieFrames : Nat := 98304
def usableFrames : Nat := 97792

/-- Withdrawn frames of a die, by index within the die. -/
def State.withdrawnOf (s : State) (n : Nat) : List Nat :=
  (s.mem.withdrawn.filter (fun f => f / dieFrames == n)).map (fun f => f % dieFrames)

/-- The memory plan of the bound job. -/
def State.plan (s : State) : Option MemPlan := s.launchOf.map LaunchBody.plan
/-- CHECK_FRAMES of a die. -/
def State.checkFrames (s : State) (n : Nat) : Nat := match s.plan with | some p => p.checkFrames.getD n 0 | none => 0
/-- CKPT_EN of the plan. -/
def State.ckptOn (s : State) : Bool := match s.plan with | some p => p.ckptEn | none => false

/-- Data frames of a die: the lowest frames left by the check pool, the staging area and withdrawn frames (R335). -/
def State.dataFrames (s : State) (n : Nat) : Nat :=
  usableFrames - (s.withdrawnOf n).length - s.checkFrames n - (if s.ckptOn then 128 else 0)

/-- A frame is a data frame that has not been withdrawn. -/
def State.isDataFrame (s : State) (f : Nat) : Bool :=
  let n := f / dieFrames
  let k := f % dieFrames
  let w := s.withdrawnOf n
  !w.contains k && k - (w.filter (fun x => x < k)).length < s.dataFrames n

/-- Check units of a page of a class (R335). -/
def unitsOf (cls : Nat) : Nat := if cls = 0 then 2 else 1

/-- Check units of a die in use. -/
def State.unitsUsed (s : State) (n : Nat) : Nat :=
  ((s.mem.xlt.filter (fun e => entryBit e.2 0 && entryFrame e.2 / dieFrames == n)).map (fun e => unitsOf (entryClass e.2))).sum +
  (if s.ckptOn then 256 else 0)

/-- The durable range of the checkpoint plan (R470). -/
def State.durable (s : State) : Nat × Nat :=
  match s.launchOf with
  | some l => if l.plan.ckptEn then (l.ckpt.vbase.toNat, l.ckpt.vbase.toNat + l.ckpt.vbytes.toNat) else (0, 0)
  | none => (0, 0)

/-- A page is mapped. -/
def State.pageMapped (s : State) (p : Nat) : Bool := match kvGet s.mem.xlt p with | some e => entryBit e 0 | none => false

/-- The status of MEM_MAP's checks in their order (R330); 0 when none fails. -/
def mapFault (s : State) (va pa count attr : Nat) : Nat :=
  let cls := bitsOf attr 5 4
  let frames := (List.range count).map (fun i => pa / 0x200000 + i)
  if va % 0x200000 != 0 || pa % 0x200000 != 0 || count = 0 || 0x10000000000 < va + count * 0x200000 ||
     0xC000000000 < pa + count * 0x200000 || bitOf attr 7 || 2 ≤ cls then 0x8217
  else if bitOf attr 6 && !(s.durable.1 ≤ va && va + count * 0x200000 ≤ s.durable.2) then 0x8702
  else if (List.range count).any (fun i => s.pageMapped (va / 0x200000 + i)) || frames.any (fun f => (s.pageOfFrame f).isSome) then 0x8215
  else if !frames.all s.isDataFrame then 0x8214
  else if (List.range 4).any (fun n =>
      32 * s.checkFrames n < s.unitsUsed n + unitsOf cls * (frames.filter (fun f => f / dieFrames == n)).length) then 0x8213
  else 0

/-- Remove what a range of addresses of a keyed list holds. -/
def dropRange {α : Type} (l : List (Nat × α)) (lo hi : Nat) : List (Nat × α) := l.filter (fun e => e.1 < lo || hi ≤ e.1)

/-- Granules of a frame. -/
def frameGranules (f : Nat) : List Nat := (List.range 32).map (fun i => f * 32 + i)

/-- Map one page: its frame reads zero with no error, and a CKPT page's dirty bits are set (R331, R351). -/
def mapPage (s : State) (page frame attr : Nat) : State :=
  let lo := frame * 0x200000
  let m := s.mem
  let entry : U64 := BitVec.ofNat 64 (setBits attr 0 0 1 + lo)
  { s with mem := { m with
      bytes := dropRange m.bytes lo (lo + 0x200000),
      marks := dropRange m.marks (frame * 16384) ((frame + 1) * 16384),
      latent := dropRange m.latent (frame * 16384) ((frame + 1) * 16384),
      eventLines := m.eventLines.filter (fun l => l / 16384 != frame),
      xlt := kvSet m.xlt page entry,
      dirty := if bitOf attr 6 then (frameGranules frame).foldl natInsert m.dirty else m.dirty } }

/-- A stack that MEM_MAP must zero holds its accesses (R342, R526). -/
def State.framesHeld (s : State) (pa count : Nat) : Bool :=
  (List.range count).any (fun i =>
    let n := (pa / 0x200000 + i) / dieFrames
    [2 * n, 2 * n + 1].any (fun k => (s.stk k).hotStop || (s.stk k).selfRefresh))

/-- MEM_MAP (R330, R331). -/
def execMemMap (c : CmdCtx) (vaddr paddr : U64) (count : U32) (attr : BitVec 8) (s : State) : Res :=
  if s.framesHeld paddr.toNat (min count.toNat 524288) then .next s
  else onRing s c 0x0010 [opnd 8 8 vaddr.toNat, opnd 0x10 8 paddr.toNat, opnd 0x18 4 count.toNat, opnd 0x1C 1 attr.toNat] fun s =>
    let n := count.toNat
    let st := mapFault s vaddr.toNat paddr.toNat n attr.toNat
    if st != 0 then finish s c st 0
    else
      let s := (List.range n).foldl (fun s i => mapPage s (vaddr.toNat / 0x200000 + i) (paddr.toNat / 0x200000 + i) attr.toNat) s
      let s := (List.range n).foldl (fun s i =>
        let k := 2 * ((paddr.toNat / 0x200000 + i) / dieFrames)
        bump (bump s (stackBase k) 1 0x100000) (stackBase (k + 1)) 1 0x100000) s
      finish (bump s xltBase 2 1) c 0 0

/-- Unmap one page, if it is mapped (R331, R351). -/
def unmapPage (s : State) (page : Nat) : State :=
  match kvGet s.mem.xlt page with
  | none => s
  | some e =>
    let g := frameGranules (entryFrame e)
    { s with mem := { s.mem with xlt := kvErase s.mem.xlt page, dirty := s.mem.dirty.filter (fun x => !g.contains x),
                                 restorePending := natErase s.mem.restorePending page } }

/-- MEM_UNMAP (R331, R351). -/
def execMemUnmap (c : CmdCtx) (vaddr : U64) (count : U32) (s : State) : Res :=
  onRing s c 0x0011 [opnd 8 8 vaddr.toNat, opnd 0x10 4 count.toNat] fun s =>
    let n := count.toNat
    let p := vaddr.toNat / 0x200000
    if vaddr.toNat % 0x200000 != 0 || n = 0 || 0x10000000000 < vaddr.toNat + n * 0x200000 then finish s c 0x8217 0
    else if s.mem.windowOpen && s.mem.xlt.any (fun e => p ≤ e.1 && e.1 < p + n && entryBit e.2 0 && entryBit e.2 6) then
      finish s c 0x8216 0
    else
      let pages := (s.mem.xlt.map Prod.fst).filter (fun k => p ≤ k && k < p + n)
      finish (bump (pages.foldl unmapPage s) xltBase 3 1) c 0 0

/-! ## COPY (R559) -/

/-- A range touches the tile-store window. -/
def touchesStore (a n : Nat) : Bool := overlaps a n 0x10000000000 0x100000000

/-- Move lines of a COPY until it ends, faults, or meets an access that is held. -/
def copyLines : Nat → State → CopyState → State × CopyState
  | 0, s, k => (s, k)
  | f + 1, s, k =>
    let n := min k.left (128 - k.dst.toNat % 128)
    if k.left = 0 || k.status != 0 || s.rangeHeld k.src.toNat n || s.vaHeld k.dst.toNat then (s, k)
    else match readVA s agentHost k.src.toNat n with
      | (s, 0, bs) =>
        match writeVA s agentHost k.dst.toNat bs with
        | (s, 0) => copyLines f s { k with src := k.src + BitVec.ofNat 64 n, dst := k.dst + BitVec.ofNat 64 n, left := k.left - n }
        | (s, st) => (s, { k with status := st })
      | (s, st, _) => (s, { k with status := st })

/-- Run a COPY as far as it goes. -/
def runCopy (s : State) (k : CopyState) : State × CopyState := copyLines (k.left / 128 + 2) s k

/-- COPY: the lines move from SRC to DST in ascending address; its completion is posted at COPY_DONE (R559). -/
def execCopy (c : CmdCtx) (src dst bytes : U64) (s : State) : Res :=
  onRing s c 0x0012 [opnd 8 8 src.toNat, opnd 0x10 8 dst.toNat, opnd 0x18 8 bytes.toNat] fun s =>
    let n := bytes.toNat
    if 2 ^ 40 < n || touchesStore src.toNat n || touchesStore dst.toNat n || overlaps src.toNat n dst.toNat n then finish s c 0x8102 0
    else match runCopy s { cmd := c, src := src, dst := dst, left := n, status := 0 } with
      | (s, k) => markStarted { s with hif := { s.hif with copies := s.hif.copies ++ [k] } } c

/-- A COPY has written its last line, or has met a fault: its completion is posted (R559). -/
def execCopyDone (c : CmdCtx) (s : State) : Res := powered s fun s =>
  match s.hif.copies.find? (fun k => k.cmd == c) with
  | none => s
  | some k =>
    match runCopy s k with
    | (s, k') =>
      if k'.left = 0 || k'.status != 0 then
        finish { s with hif := { s.hif with copies := dropFirst (fun x => x.cmd == c) s.hif.copies } } c k'.status 0
      else { s with hif := { s.hif with copies := updFirst (fun x => x.cmd == c) (fun _ => k') s.hif.copies } }

/-! ## Waits, catch and internal rings -/

/-- SYNC_WAIT completes when the own counter is at least VALUE; until then it holds a wait (R435, R560). -/
def execSyncWait (c : CmdCtx) (value : U64) (counter : U16) (s : State) : Res :=
  onRing s c 0x0045 [opnd 8 8 value.toNat, opnd 0x10 2 counter.toNat] fun s =>
    let k := counter.toNat
    if 16384 ≤ k then finish s c 0x8639 0
    else if value.toNat ≤ s.syncVal k then finish s c 0 (s.syncVal k)
    else addWait (markStarted s c) (.host c) k value.toNat

/-- CATCH_NOW triggers a catch from the host, when EN_HOST is set (R596). -/
def execCatchNow (c : CmdCtx) (s : State) : Res := onRing s c 0x0071 [] fun s =>
  finish (if s.regBit snapBase 0 then takeCatch s 0 else s) c 0 0

/-- INDEX and KIND of a RING_INT. -/
def ringIntKind (index : BitVec 8) (kind : Nat) : List (Nat × List Byte) := [opnd 0x18 1 index.toNat, opnd 0x19 1 kind]

/-- BASE, DOORBELL, INDEX, KIND and LOG2 of a RING_INT that sets up a ring. -/
def ringIntSetup (base doorbell : U64) (index log2 : BitVec 8) (kind : Nat) : List (Nat × List Byte) :=
  [opnd 8 8 base.toNat, opnd 0x10 8 doorbell.toNat, opnd 0x1A 1 log2.toNat] ++ ringIntKind index kind

/-- What R546 checks of an internal ring's set-up. -/
def intRingOk (base doorbell : U64) (index log2 : BitVec 8) : Bool :=
  index.toNat < 64 && base.toNat % 4096 == 0 && doorbell.toNat % 64 == 0 && 4 ≤ log2.toNat && log2.toNat ≤ 16

/-- RING_INT, KIND 0: an internal submission ring (R562). -/
def execRingIntSq (c : CmdCtx) (base doorbell : U64) (index log2 cq : BitVec 8) (s : State) : Res :=
  onRing s c 0x0072 (ringIntSetup base doorbell index log2 0 ++ [opnd 0x1B 1 cq.toNat]) fun s =>
    let i := 64 + index.toNat
    if !intRingOk base doorbell index log2 || (s.sq i).state != 0 || (s.sq i).closing || 64 ≤ cq.toNat || !s.cqOn (64 + cq.toNat) then
      finish s c 0x8106 0
    else
      finish (setSq s i { SubRing.off with state := 1, base := base, log2 := log2.toNat, cq := cq.toNat, doorbell := doorbell }) c 0 0

/-- RING_INT, KIND 1: an internal completion ring (R562). -/
def execRingIntCq (c : CmdCtx) (base doorbell : U64) (index log2 : BitVec 8) (notify : U16) (s : State) : Res :=
  onRing s c 0x0072 (ringIntSetup base doorbell index log2 1 ++ [opnd 0x1C 2 notify.toNat]) fun s =>
    let j := 64 + index.toNat
    if !intRingOk base doorbell index log2 || s.cqOn j || (16384 ≤ notify.toNat && notify != 0xFFFF) then finish s c 0x8106 0
    else
      let held := (s.cq j).held
      let s := setCq s j { CompRing.off with enabled := true, base := base, log2 := log2.toNat, doorbell := doorbell, notify := notify, held := held }
      finish (drainHeld held.length s j) c 0 0

/-- RING_INT, KIND 2: fetching stops, and the ring is off once its accepted commands have completed (R546, R562). -/
def execRingIntSqDisable (c : CmdCtx) (index : BitVec 8) (s : State) : Res :=
  onRing s c 0x0072 (ringIntKind index 2) fun s =>
    let i := 64 + index.toNat
    if 64 ≤ index.toNat then finish s c 0x8106 0
    else if (s.sq i).state = 0 then finish s c 0 0
    else finish (setSq s i { s.sq i with state := 0, fetched := [], closing := true }) c 0 0

/-- An enabled internal submission ring names an internal completion ring. -/
def State.intCqNamed (s : State) (j : Nat) : Bool := s.hif.sqs.any (fun e => 64 ≤ e.1 && e.2.state != 0 && e.2.cq == j)

/-- RING_INT, KIND 3: the completion ring is disabled, unless an enabled ring names it (R546, R562). -/
def execRingIntCqDisable (c : CmdCtx) (index : BitVec 8) (s : State) : Res :=
  onRing s c 0x0072 (ringIntKind index 3) fun s =>
    if 64 ≤ index.toNat then finish s c 0x8106 0
    else if s.intCqNamed index.toNat then finish s c 0 0
    else finish (setCq s (64 + index.toNat) { CompRing.off with held := (s.cq (64 + index.toNat)).held }) c 0 0

end Sys2Proof.Machine
end

