-- ==== Sys2Proof/Machine/Attest.lean ====
section
/-! DEFINITION. Audit, attestation, owner key and configuration, firmware update and the debug port
(R449 to R461, R561, R581, R599, R600). -/

namespace Sys2Proof.Machine

/-! ## Audit (R450 to R453) -/

/-- FLAGS of an audit descriptor. -/
def auditSign (k : AuditState) : Bool := bitOf k.flags 0
def auditWeightsByValue (k : AuditState) : Bool := bitOf k.flags 1
def auditInputByValue (k : AuditState) : Bool := bitOf k.flags 2
/-- Bytes that an audit writes to OUT. -/
def auditOutBytes (k : AuditState) : Nat := if auditSign k then 682 else 568

/-- An audit descriptor as read (Table 13.6). -/
def auditOf (c : CmdCtx) (bs : List Byte) : AuditState :=
  let f (o : Nat) : U64 := BitVec.ofNat 64 (fieldLE bs o 8)
  { cmd := c, flags := fieldLE bs 4 4, resV := f 8, resB := f 0x10, wV := f 0x18, wB := f 0x20, iV := f 0x28, iB := f 0x30, out := f 0x38 }

/-- The buffers that an audit hashes: address and bytes. -/
def auditBuffers (k : AuditState) : List (Nat × Nat) :=
  [(k.resV.toNat, k.resB.toNat)] ++ (if auditWeightsByValue k then [] else [(k.wV.toNat, k.wB.toNat)]) ++
  (if auditInputByValue k then [] else [(k.iV.toNat, k.iB.toNat)])

/-- A descriptor that R453 refuses. -/
def auditBad (bs : List Byte) (k : AuditState) : Bool :=
  fieldLE bs 0 2 != 0x0040 || fieldLE bs 2 2 != 1 || 8 ≤ k.flags || (auditBuffers k).any (fun b => 2 ^ 40 < b.2) ||
  (auditBuffers k).any (fun b => overlaps b.1 b.2 k.out.toNat (auditOutBytes k))

/-- AUDIT: the descriptor is read once and checked, and the audit is held accepted. -/
def execAudit (c : CmdCtx) (desc : U64) (s : State) : Res :=
  if s.rangeHeld desc.toNat 64 then .next s
  else onRing s c 0x0060 [opnd 8 8 desc.toNat] fun s =>
    if !s.bound then finish s c 0x8911 0
    else match readVA s agentAudit desc.toNat 64 with
      | (s, 0, bs) =>
        let k := auditOf c bs
        if auditBad bs k then finish s c 0x8910 0
        else if 64 ≤ s.hif.audits.length then finish s c 0x8912 0
        else { s with hif := { s.hif with audits := s.hif.audits ++ [k] } }
      | (s, st, _) => finish s c st 0

/-- The job seed of an audit's digest input (Table 13.7). -/
def State.auditSeed (s : State) : Nat :=
  if s.seedPresent then (match s.launchOf with | some l => l.seed.toNat | none => 0)
  else if s.reg64 (detBase + 0x108) != 0 then (match s.job with | some j => j.timeSeed.toNat | none => 0)
  else 0

/-- GEOMETRY_DIGEST as the package shows it. -/
def State.geomDigest (s : State) : List Byte := (List.range 16).flatMap (fun i => leBytes 4 (s.reg (detBase + 0x40 + 4 * i)))

/-- The 448-byte digest input (Table 13.7). -/
def digestInput (s : State) (weights input result : List Byte) (resBytes : Nat) : List Byte :=
  asciiBytes "BGLAUDT1" ++ leBytes 2 1 ++ zeroBytes 6 ++ padTo 64 s.program ++ padTo 64 weights ++ padTo 64 input ++ s.geomDigest ++
  firmwareDigest s ++ leBytes 4 s.mode ++ zeroBytes 4 ++ leBytes 8 s.auditSeed ++ padTo 64 result ++ leBytes 4 s.rank ++ zeroBytes 4 ++
  leBytes 8 s.stroke.count.toNat ++ leBytes 8 resBytes ++ zeroBytes 8

/-- JOB_TAG and EPOCH, zero when unbound. -/
def jobWords (s : State) : List Byte :=
  match s.job with | some j => leBytes 2 j.tag.toNat ++ leBytes 2 j.epoch.toNat | none => zeroBytes 4

/-- The audit statement (Table 13.8). -/
def auditStatement (s : State) (digest : List Byte) : List Byte :=
  leBytes 2 0x0041 ++ leBytes 2 1 ++ zeroBytes 4 ++ digest ++ keyId s ++ jobWords s ++ leBytes 4 s.rank ++
  leBytes 8 s.tim.now.toNat ++ leBytes 8 (s.reg64 (detBase + 8)) ++ leBytes 4 s.secStatus ++ zeroBytes 4

/-- A signature of the identity key (R454; log 8). -/
def signBytes (context : String) (msg : List Byte) : List Byte := (List.range 114).map (Config.ed448SignByte context msg)

/-- The digest of a buffer, or what a digest given by value holds; with the status that ends the audit. -/
def auditDigestOf (s : State) (byValue : Bool) (va n : Nat) : State × Nat × List Byte :=
  match readVA s agentAudit va (if byValue then 64 else n) with
  | (s, 0, bs) => (s, 0, if byValue then bs else shake256 bs)
  | (s, st, _) => (s, st, [])

/-- An audit forms its digests and writes OUT: its status. -/
def runAudit (s : State) (k : AuditState) : State × Nat :=
  match auditDigestOf s false k.resV.toNat k.resB.toNat with
  | (s, 0, res) =>
    match auditDigestOf s (auditWeightsByValue k) k.wV.toNat k.wB.toNat with
    | (s, 0, w) =>
      match auditDigestOf s (auditInputByValue k) k.iV.toNat k.iB.toNat with
      | (s, 0, i) =>
        let inp := digestInput s w i res k.resB.toNat
        let stm := auditStatement s (shake256 inp)
        match writeRecord s agentAudit k.out.toNat (inp ++ stm ++ (if auditSign k then signBytes "BGL-audit" stm else [])) with
        | (s, 0) => (if auditSign k then bump s secBase 1 1 else s, 0)
        | (s, st) => (s, st)
      | (s, st, _) => (s, st)
    | (s, st, _) => (s, st)
  | (s, st, _) => (s, st)

/-- An access of an audit is held. -/
def State.auditHeld (s : State) (k : AuditState) : Bool :=
  (auditBuffers k).any (fun b => s.rangeHeld b.1 b.2) || s.rangeHeld k.out.toNat (auditOutBytes k) ||
  (auditWeightsByValue k && s.rangeHeld k.wV.toNat 64) || (auditInputByValue k && s.rangeHeld k.iV.toNat 64)

/-- An accepted AUDIT acts, once every command before it on its ring has completed (R451, R452). -/
def execAuditExecute (c : CmdCtx) (s : State) : Res := powered s fun s =>
  match s.hif.audits.find? (fun k => k.cmd == c) with
  | none => s
  | some k =>
    if s.earlierOnRing c || s.auditHeld k then s
    else match runAudit { s with hif := { s.hif with audits := dropFirst (fun x => x.cmd == c) s.hif.audits } } k with
      | (s, st) => finish (bump s secBase 0 1) c st 0

/-! ## Attestation (R459) -/

/-- The attestation report's fields, 0x220 bytes. -/
def attestReport (s : State) (nonce : List Byte) : List Byte :=
  leBytes 2 0x0043 ++ leBytes 2 1 ++ zeroBytes 4 ++ padTo 32 nonce ++ keyId s ++ leBytes 4 s.glbId ++ leBytes 4 s.secStatus ++
  leBytes 8 s.flash.bootCount.toNat ++ leBytes 8 s.tim.now.toNat ++ s.sec.fwDigests.flatMap (padTo 64) ++ firmwareDigest s ++
  (if s.sec.ownerKey.isEmpty then zeroBytes 64 else shake256 s.sec.ownerKey) ++ leBytes 4 s.sec.ownerPolicy.toNat ++ zeroBytes 4 ++
  riggerDigest s.rig ++ jobWords s ++ leBytes 4 s.mode ++ (if s.bound then s.geomDigest else zeroBytes 64)

/-- ATTEST writes the report, its signature and the certificate (R459). -/
def execAttest (c : CmdCtx) (nonce : List Byte) (out : U64) (s : State) : Res :=
  onRing s c 0x0061 [(8, padTo 32 nonce), opnd 0x28 8 out.toNat] fun s =>
    let r := attestReport s nonce
    match writeOut s c agentHost out.toNat (r ++ signBytes "BGL-attest" r ++ s.flash.certificate) with
    | (s, 0) => finish (bump (bump s secBase 1 1) secBase 2 1) c 0 0
    | (s, st) => finish (bump s secBase 2 1) c st 0

/-! ## Owner key and configuration (R456 to R458, R561) -/

/-- Refuse an OWNER_KEY. -/
def refuseOwner (s : State) (c : CmdCtx) (st : Nat) : State := finish (bump s secBase 3 1) c st 0

/-- Install a key, its policy and its sequence value; an all-zero key removes the key, its policy and the
owner configuration. -/
def installOwner (s : State) (key : List Byte) (policy seq : Nat) : State :=
  if key.all (fun b => b == 0) then
    { s with flash := { s.flash with ownerKey := [], ownerPolicy := 0, ownerSeq := BitVec.ofNat 64 seq, ownerConfig := [], ownerConfigRaw := [] } }
  else { s with flash := { s.flash with ownerKey := key, ownerPolicy := BitVec.ofNat 32 policy, ownerSeq := BitVec.ofNat 64 seq } }

/-- OWNER_KEY (R456, R561). -/
def execOwnerKey (c : CmdCtx) (block : U64) (s : State) : Res := onRing s c 0x0062 [opnd 8 8 block.toNat] fun s =>
  let bs := Memory.read s.hostMem block.toNat 186
  let policy := fieldLE bs 0x3C 4
  let seq := fieldLE bs 0x40 8
  let free := s.flash.ownerKey.isEmpty || s.sec.devOpen
  let signed := ed448Verify s.flash.ownerKey "BGL-owner" (slice bs 0 0x48) (slice bs 0x48 114)
  if 8 ≤ policy then refuseOwner s c 0x8914
  else if !free && !signed then refuseOwner s c 0x8914
  else if !free && seq ≤ s.flash.ownerSeq.toNat then refuseOwner s c 0x8915
  else finish (raise (installOwner s (slice bs 0 57) policy seq) 0x4910 srcSec 0 0) c 0 0

/-- OWNER_CONFIG (R457, R458). -/
def execOwnerConfig (c : CmdCtx) (block : U64) (bytes : U32) (s : State) : Res :=
  onRing s c 0x0063 [opnd 8 8 block.toNat, opnd 0x10 4 bytes.toNat] fun s =>
    let bs := Memory.read s.hostMem block.toNat bytes.toNat
    let seq := fieldLE bs 0x10 8
    if !cfgSigned s.flash.ownerKey bs then finish s c 0x8914 0
    else if seq ≤ s.flash.configSeq.toNat then finish s c 0x8915 0
    else if !cfgFormatOk bs then finish s c 0x8917 0
    else
      let s := applyEntries s (cfgEntries bs)
      let keep := cfgCount bs != 0
      let s := { s with flash := { s.flash with ownerConfig := if keep then cfgEntries bs else [], ownerConfigRaw := if keep then bs else [],
                                                configSeq := BitVec.ofNat 64 seq } }
      finish (raise s 0x4912 srcSec 0 0) c 0 0

/-! ## Firmware update (R581) -/

/-- FW_UPDATE: the package is verified, and the other bank's commit record erased; the images are then being written. -/
def execFwUpdate (c : CmdCtx) (image bytes : U64) (s : State) : Res :=
  onRing s c 0x0070 [opnd 8 8 image.toNat, opnd 0x10 8 bytes.toNat] fun s =>
    if s.updateBusy then finish s c 0x8905 0
    else
      let bs := Memory.read s.hostMem image.toNat (min bytes.toNat 0x3000001)
      let st := packageStatus s bs
      if st != 0 then finish s c st 0
      else
        let s := eraseOther s
        markStarted { s with sec := { s.sec with updating := some (c, (parsePackage bs).getD []) } } c

/-- The images are written and read back, and the commit record is written: OK and 0x4902 (R581). -/
def execFwUpdateStaged (c : CmdCtx) (s : State) : Res := powered s fun s =>
  match s.sec.updating with
  | none => s
  | some (k, l) =>
    if k != c then s
    else raise (finish (commitOther { s with sec := { s.sec with updating := none } } l) c 0 0) 0x4902 srcPmc 0 0

/-! ## The debug port (R600) -/

/-- DBG_CHALLENGE returns 32 fresh random bytes. -/
def execDbgChallenge (s : State) : Res := powered s fun s =>
  let (a, s) := s.drawBits
  let (b, s) := s.drawBits
  let (d, s) := s.drawBits
  let (e, s) := s.drawBits
  let bs := leBytes 8 a.toNat ++ leBytes 8 b.toNat ++ leBytes 8 d.toNat ++ leBytes 8 e.toNat
  { s with sec := { s.sec with challenge := some bs } }.emit (.dbgChallenge bs)

/-- DBG_UNLOCK: a good signature over the challenge, KEY_ID and BOOT_COUNT opens the port while no job is
bound and DEBUG_DENY is clear; any other unlock is refused with 0x8908. A challenge serves one unlock (log 27). -/
def execDbgUnlock (sig : List Byte) (s : State) : Res := powered s fun s =>
  let good := match s.sec.challenge with
    | some ch => ed448Verify s.flash.firmwareKey "BGL-debug" (ch ++ keyId s ++ leBytes 8 s.flash.bootCount.toNat) sig
    | none => false
  let s := { s with sec := { s.sec with challenge := none } }
  if good && !s.bound && !bitOf s.sec.ownerPolicy.toNat 2 then
    raise ({ s with sec := { s.sec with debugOpen := true, dbgStatus := 0 } }.emit (.dbgStatus 0)) 0x490A srcSec 0 0
  else { s with sec := { s.sec with dbgStatus := 0x8908 } }.emit (.dbgStatus 0x8908)

end Sys2Proof.Machine
end

