-- ==== Sys2Proof/Machine/Num.lean ====
section
/-! DEFINITION. Exact numbers and the formats of Table 2.1: decoding, the one rounding of an exact value
into a format, conversion with saturation, and the operations that every chapter shares (R49 to R53, R64
to R73). -/

namespace Sys2Proof.Machine

/-- An exact value: NaN, an infinity, or (-1)^neg times m times 2^e; m = 0 is a signed zero. -/
inductive Fp where
  | nan
  | inf (neg : Bool)
  | fin (neg : Bool) (m : Nat) (e : Int)
  deriving DecidableEq, Repr

/-- How a format encodes infinity and NaN (Table 2.1). -/
inductive FmtKind where
  | ieee | e4m3 | e2m1
  deriving DecidableEq, Repr

/-- A floating-point format: exponent bits, mantissa bits, and its kind. -/
structure Fmt where
  eb   : Nat
  mb   : Nat
  kind : FmtKind
  deriving DecidableEq, Repr

def fp64 : Fmt := ⟨11, 52, .ieee⟩
def fp32 : Fmt := ⟨8, 23, .ieee⟩
def bf16 : Fmt := ⟨8, 7, .ieee⟩
def fp16 : Fmt := ⟨5, 10, .ieee⟩
def e5m2 : Fmt := ⟨5, 2, .ieee⟩
def e4m3 : Fmt := ⟨4, 3, .e4m3⟩
def e2m1 : Fmt := ⟨2, 1, .e2m1⟩

/-- Exponent bias (Table 2.1). -/
def Fmt.bias (f : Fmt) : Nat := 2 ^ (f.eb - 1) - 1
/-- Exponent of the last place of the subnormals. -/
def Fmt.emin (f : Fmt) : Int := 1 - (f.bias : Int) - (f.mb : Int)
/-- Width in bits. -/
def Fmt.width (f : Fmt) : Nat := 1 + f.eb + f.mb
/-- Significand and exponent of the largest finite value (Table 2.1). -/
def Fmt.maxSig (f : Fmt) : Nat := match f.kind with | .ieee => 2 ^ (f.mb + 1) - 1 | .e4m3 => 14 | .e2m1 => 3
def Fmt.maxExp (f : Fmt) : Int :=
  match f.kind with
  | .ieee => (2 ^ f.eb : Nat) - 2 - (f.bias : Int) - f.mb
  | .e4m3 => 5
  | .e2m1 => 1

/-- The canonical NaN (R52). -/
def Fmt.nanBits (f : Fmt) : Nat :=
  match f.kind with
  | .ieee => (2 ^ f.eb - 1) * 2 ^ f.mb + 2 ^ (f.mb - 1)
  | .e4m3 => 0x7F
  | .e2m1 => 0
/-- An infinity's bits. -/
def Fmt.infBits (f : Fmt) (neg : Bool) : Nat := bitAt neg (f.eb + f.mb) + (2 ^ f.eb - 1) * 2 ^ f.mb
/-- The largest finite value's bits. -/
def Fmt.maxBits (f : Fmt) (neg : Bool) : Nat :=
  bitAt neg (f.eb + f.mb) +
  (match f.kind with | .ieee => (2 ^ f.eb - 1) * 2 ^ f.mb - 1 | .e4m3 => 0x7E | .e2m1 => 7)

/-- Decode bits (Table 2.1, R50, R53). -/
def Fmt.decode (f : Fmt) (b : Nat) : Fp :=
  let s := bitOf b (f.eb + f.mb)
  let ex := (b >>> f.mb) % 2 ^ f.eb
  let m := b % 2 ^ f.mb
  let plain : Fp := if ex = 0 then .fin s m f.emin else .fin s (2 ^ f.mb + m) ((ex : Int) - f.bias - f.mb)
  match f.kind with
  | .ieee => if ex = 2 ^ f.eb - 1 then (if m = 0 then .inf s else .nan) else plain
  | .e4m3 => if ex = 15 && m = 7 then .nan else plain
  | .e2m1 => plain

/-! ## Rounding -/

/-- Rounding rules: the five directions, and stochastic rounding with its 16 random bits (R73). -/
inductive Rnd where
  | rne | rtz | rdn | rup | rna
  | sr (r : Nat)
  deriving DecidableEq, Repr

/-- Whether to step away from zero: quotient `q`, remainder `r` of 2^d. -/
def Rnd.away (k : Rnd) (neg : Bool) (q r d : Nat) : Bool :=
  match k with
  | .rne => 2 ^ d < 2 * r || (2 * r = 2 ^ d && d != 0 && q % 2 = 1)
  | .rtz => false
  | .rdn => neg && r != 0
  | .rup => !neg && r != 0
  | .rna => d != 0 && 2 ^ d ≤ 2 * r
  | .sr x => 65536 ≤ 65536 * r / 2 ^ d + x

/-- Bits of a number. -/
def bitLen (m : Nat) : Nat := if m = 0 then 0 else Nat.log2 m + 1

/-- Round m·2^e to `p` bits with no place below 2^lo: significand, exponent, and whether it is inexact. -/
def roundMag (p : Nat) (lo : Int) (k : Rnd) (neg : Bool) (m : Nat) (e : Int) : Nat × Int × Bool :=
  let u : Int := max (e + bitLen m - p) lo
  if u ≤ e then (m, e, false)
  else
    let d := (u - e).toNat
    let q := m >>> d
    let r := m % 2 ^ d
    (if k.away neg q r d then q + 1 else q, u, r != 0)

/-- m·2^e exceeds a·2^b. -/
def magGt (m : Nat) (e : Int) (a : Nat) (b : Int) : Bool :=
  let lo := min e b
  a * 2 ^ (b - lo).toNat < m * 2 ^ (e - lo).toNat

/-- The bits of a finite value that the format represents. -/
def Fmt.encodeFin (f : Fmt) (neg : Bool) (m : Nat) (e : Int) : Nat :=
  let s := bitAt neg (f.eb + f.mb)
  if m = 0 then s
  else
    let u : Int := max (e + bitLen m - (f.mb + 1 : Nat)) f.emin
    let q := if u ≤ e then m <<< (e - u).toNat else m >>> (u - e).toNat
    if q < 2 ^ f.mb then s + q else s + ((u - f.emin).toNat + 1) * 2 ^ f.mb + (q - 2 ^ f.mb)

/-- A rounded magnitude exceeds the largest finite value. -/
def Fmt.overflows (f : Fmt) (m : Nat) (e : Int) : Bool := magGt m e f.maxSig f.maxExp

/-- Round an exact value into a format, overflow giving an infinity (R60, R68). -/
def Fmt.round (f : Fmt) (x : Fp) : Fp :=
  match x with
  | .nan => .nan
  | .inf s => .inf s
  | .fin s m e =>
    match roundMag (f.mb + 1) f.emin .rne s m e with
    | (q, u, _) => if f.overflows q u then .inf s else .fin s q u

/-- The bits of a value that the format represents; of an infinity or a NaN in a format with them. -/
def Fmt.encode (f : Fmt) (x : Fp) : Nat :=
  match x with
  | .nan => f.nanBits
  | .inf s => f.infBits s
  | .fin s m e => f.encodeFin s m e

/-- Round and encode. -/
def Fmt.pack (f : Fmt) (x : Fp) : Nat := f.encode (f.round x)

/-! ## Integers -/

/-- A two's-complement value of `n` bits. -/
def toSigned (n v : Nat) : Int := if 2 ^ (n - 1) ≤ v % 2 ^ n then (v % 2 ^ n : Nat) - (2 ^ n : Nat) else ((v % 2 ^ n : Nat) : Int)
/-- The `n`-bit two's-complement encoding. -/
def ofSignedBits (n : Nat) (i : Int) : Nat := (i % (2 ^ n : Nat)).toNat

/-! ## Exact operations (R68) -/

/-- The signed integer of a sign and a magnitude. -/
def signed (neg : Bool) (m : Nat) : Int := if neg then -(m : Int) else m

/-- An exact signed value m·2^e as a number; zero takes the sign given. -/
def ofSigned (zneg : Bool) (m : Int) (e : Int) : Fp :=
  if m = 0 then .fin zneg 0 e else .fin (decide (m < 0)) m.natAbs e

/-- Exact sum; opposite values give +0, equal zeros keep their sign (R64). -/
def Fp.add (x y : Fp) : Fp :=
  match x, y with
  | .nan, _ => .nan
  | _, .nan => .nan
  | .inf a, .inf b => if a = b then .inf a else .nan
  | .inf a, _ => .inf a
  | _, .inf b => .inf b
  | .fin s m e, .fin t n f =>
    let lo := min e f
    ofSigned (s && t) (signed s (m * 2 ^ (e - lo).toNat) + signed t (n * 2 ^ (f - lo).toNat)) lo

/-- Negation. -/
def Fp.neg (x : Fp) : Fp := match x with | .nan => .nan | .inf s => .inf (!s) | .fin s m e => .fin (!s) m e
/-- Absolute value. -/
def Fp.abs (x : Fp) : Fp := match x with | .nan => .nan | .inf _ => .inf false | .fin _ m e => .fin false m e
/-- Exact difference. -/
def Fp.sub (x y : Fp) : Fp := Fp.add x (Fp.neg y)

/-- Exact product. -/
def Fp.mul (x y : Fp) : Fp :=
  match x, y with
  | .nan, _ => .nan
  | _, .nan => .nan
  | .inf a, .inf b => .inf (a != b)
  | .inf a, .fin b m _ => if m = 0 then .nan else .inf (a != b)
  | .fin a m _, .inf b => if m = 0 then .nan else .inf (a != b)
  | .fin a m e, .fin b n f => .fin (a != b) (m * n) (e + f)

/-- A value times 2^k. -/
def Fp.scale (x : Fp) (k : Int) : Fp := match x with | .fin s m e => .fin s m (e + k) | y => y

/-- A quotient to at least 160 bits with a sticky last bit, so that one rounding of it is the rounding of
the exact quotient. -/
def divSticky (m n : Nat) (e f : Int) : Nat × Int :=
  let k := 160 + bitLen n
  let q := m * 2 ^ k / n
  (2 * q + (if m * 2 ^ k % n = 0 then 0 else 1), e - f - k - 1)

/-- Quotient, for one rounding (R68): x/0 is an infinity, 0/0 and ∞/∞ are NaN. -/
def Fp.div (x y : Fp) : Fp :=
  match x, y with
  | .nan, _ => .nan
  | _, .nan => .nan
  | .inf _, .inf _ => .nan
  | .inf a, .fin b _ _ => .inf (a != b)
  | .fin a _ _, .inf b => .fin (a != b) 0 0
  | .fin a m e, .fin b n f =>
    if n = 0 then (if m = 0 then .nan else .inf (a != b))
    else if m = 0 then .fin (a != b) 0 0
    else match divSticky m n e f with | (q, g) => .fin (a != b) q g

/-- Integer square root by descending bits: the largest r with r² ≤ v, below 2^n. -/
def isqrt : Nat → Nat → Nat → Nat
  | 0, r, _ => r
  | n + 1, r, v => isqrt n (if (r + 2 ^ n) * (r + 2 ^ n) ≤ v then r + 2 ^ n else r) v

/-- Square root, for one rounding; of a negative value it is NaN, of −0 it is −0. -/
def Fp.sqrt (x : Fp) : Fp :=
  match x with
  | .nan => .nan
  | .inf s => if s then .nan else .inf false
  | .fin s m e =>
    if m = 0 then .fin s 0 0
    else if s then .nan
    else
      let odd : Nat := if e % 2 = 0 then 0 else 1
      let v := m * 2 ^ (320 + odd)
      let r := isqrt (bitLen v / 2 + 1) 0 v
      .fin false (2 * r + (if r * r = v then 0 else 1)) ((e - ((320 + odd : Nat) : Int)) / 2 - 1)

/-- Order of values: less than; false when one is NaN. -/
def Fp.lt (x y : Fp) : Bool :=
  match x, y with
  | .nan, _ => false
  | _, .nan => false
  | .inf a, .inf b => a && !b
  | .inf a, _ => a
  | _, .inf b => !b
  | .fin s m e, .fin t n f =>
    let lo := min e f
    signed s (m * 2 ^ (e - lo).toNat) < signed t (n * 2 ^ (f - lo).toNat)

/-- Equality of values: zeros equal, NaN equal to nothing. -/
def Fp.eqv (x y : Fp) : Bool :=
  match x, y with
  | .nan, _ => false
  | _, .nan => false
  | .inf a, .inf b => a == b
  | .inf _, _ => false
  | _, .inf _ => false
  | .fin s m e, .fin t n f =>
    let lo := min e f
    signed s (m * 2 ^ (e - lo).toNat) == signed t (n * 2 ^ (f - lo).toNat)

def Fp.le (x y : Fp) : Bool := Fp.lt x y || Fp.eqv x y

def Fp.isNan (x : Fp) : Bool := match x with | .nan => true | _ => false
def Fp.isInf (x : Fp) : Bool := match x with | .inf _ => true | _ => false
def Fp.isZero (x : Fp) : Bool := match x with | .fin _ 0 _ => true | _ => false
def Fp.isFinite (x : Fp) : Bool := match x with | .fin .. => true | _ => false
def Fp.isNeg (x : Fp) : Bool := match x with | .nan => false | .inf s => s | .fin s _ _ => s
/-- KIND of a flag record for a NaN or an infinity (Table 2.8). -/
def Fp.kind (x : Fp) : Nat := match x with | .inf false => 1 | .inf true => 2 | _ => 0

/-- ⌊log₂|x|⌋ of a finite non-zero value. -/
def Fp.logb (x : Fp) : Int := match x with | .fin _ m e => e + Nat.log2 m | _ => 0

def Fp.zero : Fp := .fin false 0 0
def Fp.one : Fp := .fin false 1 0
/-- An integer as a value. -/
def Fp.ofInt (n : Int) : Fp := .fin (decide (n < 0)) n.natAbs 0

/-! ## Conversion (R69 to R71) -/

/-- What a conversion gives: bits, a finite overflow that saturated under SAT (R75), and a NaN or infinite result. -/
structure Conv where
  bits  : Nat
  sat   : Bool
  special : Bool
  deriving DecidableEq, Repr

/-- Convert to a format under a rounding and a saturation control (Table 2.7). A finite overflow into FP64, which Table 2.7
excludes and an FP64 X times a scale can give, is treated as one into FP32 (DESIGN CHOICE, log 31). -/
def Fmt.convert (f : Fmt) (nonsat : Bool) (k : Rnd) (x : Fp) : Conv :=
  match x with
  | .nan => ⟨f.nanBits, false, true⟩
  | .inf s => match f.kind with
    | .ieee => ⟨f.infBits s, false, true⟩
    | .e4m3 => ⟨0x7F, false, true⟩
    | .e2m1 => ⟨0, false, true⟩
  | .fin s m e =>
    match roundMag (f.mb + 1) f.emin k s m e with
    | (q, u, _) =>
      if !f.overflows q u then ⟨f.encodeFin s q u, false, false⟩
      else match f.kind with
        | .ieee => if nonsat then ⟨f.infBits s, false, true⟩ else ⟨f.maxBits s, true, false⟩
        | .e4m3 => if nonsat then ⟨0x7F, false, true⟩ else ⟨f.maxBits s, true, false⟩
        | .e2m1 => ⟨f.maxBits s, !nonsat, false⟩

/-- Nearest integer, ties to even. -/
def Fp.nearestInt (x : Fp) : Int :=
  match x with
  | .fin s m e =>
    match roundMag (bitLen m + e.natAbs + 2) 0 .rne s m e with
    | (q, u, _) => signed s (q * 2 ^ u.toNat)
  | _ => 0

/-- Conversion to INT8 (R71, Table 2.7): the signed value. -/
def toInt8 (nonsat : Bool) (x : Fp) : Int × Bool :=
  match x with
  | .nan => (0, false)
  | .inf s => (if s then -127 else 127, false)
  | .fin .. =>
    let n := x.nearestInt
    if n < -127 then (-127, !nonsat) else if 127 < n then (127, !nonsat) else (n, false)

/-- The random bits of stochastic rounding (R73). -/
def srBits (seed stroke vaddr : Nat) : Nat :=
  let x := (seed ^^^ (stroke <<< 32) ^^^ vaddr) % 2 ^ 64
  let x := x ^^^ (x >>> 33)
  let x := x * 0xFF51AFD7ED558CCD % 2 ^ 64
  let x := x ^^^ (x >>> 33)
  let x := x * 0xC4CEB9FE1A85EC53 % 2 ^ 64
  let x := x ^^^ (x >>> 33)
  x >>> 48

end Sys2Proof.Machine
end

