-- ==== Sys2Proof/Machine/CollNum.lean ====
section
/-! DEFINITION. The arithmetic of collectives: data types, leaves and partials, folding under SUM, MIN, MAX and
E_SUM, and the final conversion (R80 to R82, R85, R410, R411, R415, R417, Tables 12.2, 12.3). -/

namespace Sys2Proof.Machine

/-! ## Descriptors and data types -/

/-- The descriptor in 128 bytes (Table 12.2). -/
def parseColl (b : List Byte) : CollDesc :=
  { descType := fieldLE b 0 2, version := fieldLE b 2 2, collId := BitVec.ofNat 32 (fieldLE b 4 4), op := fieldLE b 8 1,
    dtype := fieldLE b 9 1, redop := fieldLE b 0xA 1, flags := fieldLE b 0xB 1, group := fieldLE b 0xC 2, root := fieldLE b 0xE 2,
    count := fieldLE b 0x10 8, src := fieldLE b 0x18 8, dst := fieldLE b 0x20 8, counts := fieldLE b 0x28 8,
    recvCounts := fieldLE b 0x30 8, work := fieldLE b 0x38 8, workBytes := fieldLE b 0x40 8, dstBytes := fieldLE b 0x48 8,
    partStride := fieldLE b 0x50 8, result := fieldLE b 0x58 8, chunkLog2 := fieldLE b 0x60 1, partsPerDie := fieldLE b 0x61 1,
    startCnt := fieldLE b 0x62 2, notifyCnt := fieldLE b 0x64 2,
    resNonzero := fieldLE b 0x66 2 != 0 || fieldLE b 0x70 16 != 0, startValue := BitVec.ofNat 64 (fieldLE b 0x68 8) }

/-- Operations that fold elements. -/
def CollDesc.reducing (d : CollDesc) : Bool := [1, 2, 3, 7, 9].contains d.op
/-- Operations with a count phase (Table 12.1). -/
def CollDesc.counted (d : CollDesc) : Bool := d.op = 6 || d.op = 7 || d.op = 8
/-- SUM; MIN and MAX otherwise. -/
def CollDesc.sums (d : CollDesc) : Bool := d.redop = 0
/-- E_SUM of a folding operation. -/
def CollDesc.esum (d : CollDesc) : Bool := bitOf d.flags 0 && d.reducing
/-- OUT_WIDE of a SUM (R410). -/
def CollDesc.wide (d : CollDesc) : Bool := bitOf d.flags 1 && d.sums
/-- ARRIVAL_ORDER of a folding operation. -/
def CollDesc.arrivalOrder (d : CollDesc) : Bool := bitOf d.flags 2 && d.reducing
/-- TILE_SCOPE. -/
def CollDesc.tileScope (d : CollDesc) : Bool := bitOf d.flags 3
/-- EXCLUSIVE. -/
def CollDesc.exclusive (d : CollDesc) : Bool := bitOf d.flags 4

/-- Bytes of an element (Table 12.3). -/
def dtypeBytes (t : Nat) : Nat := match t with | 0 | 9 => 8 | 1 | 8 => 4 | 2 | 3 => 2 | _ => 1
/-- The floating-point format of a data type. -/
def dtypeFmt (t : Nat) : Option Fmt := match t with | 0 => some fp64 | 1 => some fp32 | 2 => some bf16 | 3 => some fp16 | _ => none
/-- The format in which a fold of floating-point elements works: MIN and MAX in DTYPE, SUM in its accumulation format. -/
def CollDesc.foldFmt (d : CollDesc) : Option Fmt :=
  if !d.sums then dtypeFmt d.dtype
  else match d.dtype with | 0 | 1 => some fp64 | 2 | 3 => some fp32 | _ => none
/-- Bytes of an element in the format in which it is folded (R418, R422). -/
def CollDesc.accBytes (d : CollDesc) : Nat :=
  if d.esum then 144
  else if !d.sums then dtypeBytes d.dtype
  else match d.dtype with | 2 | 3 => 4 | _ => 8
/-- Bytes of a source element. -/
def CollDesc.elemBytes (d : CollDesc) : Nat := dtypeBytes d.dtype
/-- Bytes of a result element. -/
def CollDesc.outBytes (d : CollDesc) : Nat :=
  if d.esum then 8 else if d.reducing && d.wide then d.accBytes else d.elemBytes

/-! ## Elements under a fold -/

/-- An element of a partial: a floating-point value in the folding format, an integer, or an E-sum window in units
of 2^B with its indicators. -/
inductive CElem where
  | fp (x : Fp)
  | int (n : Int)
  | win (w : Int) (dropped nan posInf negInf negZero : Bool)
  deriving DecidableEq, Repr

/-- A finite value truncated toward zero at 2^b, and whether bits were lost (R81). -/
def windowTerm (neg : Bool) (m : Nat) (e b : Int) : Int × Bool :=
  let k := e - b
  if 0 ≤ k then (signed neg (m * 2 ^ k.toNat), false)
  else (signed neg (m / 2 ^ (-k).toNat), m % 2 ^ (-k).toNat != 0)

/-- The exponent that a leaf contributes to the window's top: none for NaN and infinity, −1022 for zeros and subnormals (R80, R417). -/
def leafExp (x : Fp) : Option Int :=
  match x with
  | .fin _ m _ => some (if m = 0 then -1022 else max x.logb (-1022))
  | _ => none

/-- The bottom of an element's window (R417). -/
def windowBottom (top : Int) : Int := top + 66 - 1152

/-- A leaf, widened exactly; under E_SUM it enters the window of its element's top. -/
def CollDesc.leaf (d : CollDesc) (top : Int) (bits : Nat) : CElem :=
  if d.esum then
    match fp64.decode bits with
    | .nan => .win 0 false true false false false
    | .inf s => .win 0 false false (!s) s false
    | .fin s m e => match windowTerm s m e (windowBottom top) with
      | (w, lost) => .win w lost false false false (s && m = 0)
  else match dtypeFmt d.dtype with
    | some f => .fp (f.decode bits)
    | none => .int (toSigned (8 * d.elemBytes) bits)

/-- MIN and MAX of floating-point values: −0 below +0, any NaN gives NaN (R411). -/
def fpBelow (x y : Fp) : Bool := Fp.lt x y || (Fp.eqv x y && x.isNeg && !y.isNeg)
def fpPick (least : Bool) (x y : Fp) : Fp :=
  if x.isNan || y.isNan then .nan else if least then (if fpBelow y x then y else x) else (if fpBelow x y then y else x)

/-- The operation of a fold (R410, R411, R417). -/
def CollDesc.combine (d : CollDesc) (a b : CElem) : CElem :=
  match a, b with
  | .fp x, .fp y =>
    if d.sums then .fp (((d.foldFmt).getD fp64).round (Fp.add x y)) else .fp (fpPick (d.redop = 1) x y)
  | .int x, .int y =>
    if d.sums then .int (toSigned 64 (ofSignedBits 64 (x + y))) else .int (if d.redop = 1 then min x y else max x y)
  | .win w p q r t z, .win w' p' q' r' t' z' => .win (w + w') (p || p') (q || q') (r || r') (t || t') (z && z')
  | x, _ => x

/-- The identity of a SCAN with nothing before it (R415). -/
def CollDesc.identity (d : CollDesc) : CElem :=
  if d.esum then .win 0 false false false false false
  else match dtypeFmt d.dtype with
    | some _ => .fp (if d.sums then Fp.zero else .inf (d.redop = 2))
    | none =>
      let n := 8 * d.elemBytes
      .int (if d.sums then 0 else if d.redop = 1 then 2 ^ (n - 1) - 1 else -(2 ^ (n - 1)))

/-- Element by element combination of two partials. -/
def CollDesc.combineAll (d : CollDesc) (a b : List CElem) : List CElem := List.zipWith d.combine a b

/-- The left fold of children (R412). -/
def CollDesc.foldAll (d : CollDesc) : List (List CElem) → List CElem
  | [] => []
  | c :: r => r.foldl d.combineAll c

/-! ## Partials as bytes -/

/-- A partial's element as it travels. An E-sum partial of 144 bytes holds the window in bits [1143:0] and its
indicators in bits 1144 to 1148 (log 28). -/
def CollDesc.encodePart (d : CollDesc) (x : CElem) : List Byte :=
  match x with
  | .fp v => leBytes d.accBytes (((d.foldFmt).getD fp64).encode v)
  | .int n => leBytes d.accBytes (ofSignedBits (8 * d.accBytes) n)
  | .win w p q r t z =>
    leBytes 144 (ofSignedBits 1144 w + bitAt p 1144 + bitAt q 1145 + bitAt r 1146 + bitAt t 1147 + bitAt z 1148)

/-- A partial's element from the bytes that arrived. -/
def CollDesc.decodePart (d : CollDesc) (v : Nat) : CElem :=
  if d.esum then
    .win (toSigned 1144 v) (bitOf v 1144) (bitOf v 1145) (bitOf v 1146) (bitOf v 1147) (bitOf v 1148)
  else match d.foldFmt with
    | some f => .fp (f.decode v)
    | none => .int (toSigned (8 * d.accBytes) v)

/-! ## The final conversion (R410, R417) -/

/-- A result element: its bits, and what the result record counts. -/
structure CResult where
  bits      : Nat
  nonfinite : Bool
  saturated : Bool
  loss      : Bool
  dropped   : Bool
  deriving DecidableEq, Repr

/-- The value of an E-sum (R82 without re-passes, R84, R417). -/
def finishWindow (top : Int) (w : Int) (dropped nan posInf negInf negZero : Bool) : CResult :=
  let special (x : Fp) : CResult := ⟨fp64.encode x, true, false, false, false⟩
  if nan || (posInf && negInf) then special .nan
  else if posInf then special (.inf false)
  else if negInf then special (.inf true)
  else
    let x := fp64.round (ofSigned (negZero && !dropped) w (windowBottom top))
    let small := dropped && w.natAbs < 2 ^ 64
    ⟨fp64.encode x, x.isInf, false, small, dropped && !small⟩

/-- Convert a folded element to its result. -/
def CollDesc.finishElem (d : CollDesc) (top : Int) (x : CElem) : CResult :=
  match x with
  | .fp v =>
    let f := (if d.wide then d.foldFmt else dtypeFmt d.dtype).getD fp64
    let y := f.round v
    ⟨f.encode y, y.isNan || y.isInf, false, false, false⟩
  | .int n =>
    if d.sums && !d.wide && d.dtype = 8 then
      let lo : Int := -(2 ^ 31)
      let hi : Int := 2 ^ 31 - 1
      if n < lo then ⟨ofSignedBits 32 lo, false, true, false, false⟩
      else if hi < n then ⟨ofSignedBits 32 hi, false, true, false, false⟩
      else ⟨ofSignedBits 32 n, false, false, false, false⟩
    else ⟨ofSignedBits (8 * d.outBytes) n, false, false, false, false⟩
  | .win w p q r t z => finishWindow top w p q r t z

/-- A result element's bits are those of a NaN or an infinity. -/
def CollDesc.nonfiniteBits (d : CollDesc) (bits : Nat) : Bool :=
  match (if d.reducing && d.wide then d.foldFmt else dtypeFmt d.dtype) with
  | some f => !(f.decode bits).isFinite
  | none => false

/-! ## Exponents on the wire (R417, R418) -/

/-- A 16-bit exponent; 0x8000 for a leaf that is excluded. -/
def encodeExp (x : Option Int) : U16 := match x with | some e => BitVec.ofInt 16 e | none => 0x8000
/-- The larger of two 16-bit exponents, as signed values. -/
def maxExp (a b : U16) : U16 := if a.toInt < b.toInt then b else a
/-- The top of a window from its agreed exponent; an element with no finite leaf takes −1022. -/
def topOf (x : U16) : Int := if x = 0x8000 then -1022 else x.toInt

/-- The `n`-byte elements of a byte string. -/
def elemsOf (n : Nat) (bs : List Byte) (count : Nat) : List Nat := (List.range count).map (fun i => fieldLE bs (n * i) n)

end Sys2Proof.Machine
end

