-- ==== Sys2Proof/Machine/CoreFp.lean ====
section
/-! DEFINITION. Floating point of the steering cores: the five rounding directions, the exception flags, and the
operations on encoded values (R291, R313). -/

namespace Sys2Proof.Machine

/-- A result's bits and the exception flags it raises: 1 invalid operation, 2 division by zero, 4 overflow,
8 underflow, 16 inexact (R291). -/
structure FpResult where
  bits  : Nat
  flags : Nat
  deriving DecidableEq, Repr

/-- The rounding direction of FPMODE.RND. -/
def rndOf (m : Nat) : Rnd :=
  match m % 8 with | 1 => .rtz | 2 => .rdn | 3 => .rup | 4 => .rna | _ => .rne

/-- The floating-point format of a width. -/
def fpFmtOf (f : FpFmt) : Fmt := match f with | .f16 => fp16 | .f32 => fp32 | .f64 => fp64

/-- A signalling NaN: a NaN whose most significant mantissa bit is 0. -/
def isSnan (f : Fmt) (b : Nat) : Bool := (f.decode b).isNan && !bitOf b (f.mb - 1)

/-- Whether an overflowing value of a sign becomes an infinity. -/
def Rnd.toInf (k : Rnd) (neg : Bool) : Bool :=
  match k with | .rtz => false | .rdn => neg | .rup => !neg | _ => true

/-- A finite value is tiny after rounding with an unbounded exponent. -/
def Fmt.tiny (f : Fmt) (k : Rnd) (s : Bool) (m : Nat) (e : Int) : Bool :=
  match roundMag (f.mb + 1) (e - 4096) k s m e with
  | (q, u, _) => m != 0 && magGt 1 (f.emin + f.mb) q u

/-- Round an exact value into a format, with the flags that rounding raises. -/
def fpFinish (f : Fmt) (k : Rnd) (x : Fp) : FpResult :=
  match x with
  | .nan => ⟨f.nanBits, 0⟩
  | .inf s => ⟨f.infBits s, 0⟩
  | .fin s m e =>
    match roundMag (f.mb + 1) f.emin k s m e with
    | (q, u, inexact) =>
      if f.overflows q u then ⟨if k.toInf s then f.infBits s else f.maxBits s, 20⟩
      else ⟨f.encodeFin s q u, (if inexact then 16 else 0) + (if inexact && f.tiny k s m e then 8 else 0)⟩

/-- Exact sum; a zero from opposite signs is −0 when rounding toward −∞. -/
def addDir (k : Rnd) (x y : Fp) : Fp :=
  let r := x.add y
  if r.isZero && k == .rdn && x.isNeg != y.isNeg then .fin true 0 0 else r

/-- A result whose operands were `xs`: invalid for a signalling NaN, or for a NaN out of operands without one. -/
def withInvalid (f : Fmt) (xs : List Nat) (r : Fp) (k : Rnd) : FpResult :=
  let bad := xs.any (isSnan f) || (r.isNan && !xs.any (fun b => (f.decode b).isNan))
  let z := fpFinish f k r
  ⟨z.bits, z.flags ||| bitAt bad 0⟩

/-- Addition, subtraction, multiplication. -/
def fpAdd (f : Fmt) (k : Rnd) (a b : Nat) : FpResult := withInvalid f [a, b] (addDir k (f.decode a) (f.decode b)) k
def fpSub (f : Fmt) (k : Rnd) (a b : Nat) : FpResult := withInvalid f [a, b] (addDir k (f.decode a) (f.decode b).neg) k
def fpMul (f : Fmt) (k : Rnd) (a b : Nat) : FpResult := withInvalid f [a, b] ((f.decode a).mul (f.decode b)) k
/-- Division; a finite non-zero value over zero raises division by zero. -/
def fpDiv (f : Fmt) (k : Rnd) (a b : Nat) : FpResult :=
  let x := f.decode a
  let y := f.decode b
  let r := withInvalid f [a, b] (x.div y) k
  if x.isFinite && !x.isZero && y.isZero then ⟨r.bits, r.flags ||| 2⟩ else r
/-- Square root. -/
def fpSqrt (f : Fmt) (k : Rnd) (a : Nat) : FpResult := withInvalid f [a] (Fp.sqrt (f.decode a)) k

/-- a × b + c with one rounding; `neg` takes the product's negative. -/
def fpFma (f : Fmt) (k : Rnd) (neg : Bool) (a b c : Nat) : FpResult :=
  let p := (f.decode a).mul (f.decode b)
  let p := if neg then p.neg else p
  let r := withInvalid f [a, b, c] (addDir k p (f.decode c)) k
  let open0 := p.isNan && !(f.decode a).isNan && !(f.decode b).isNan && (f.decode c).isNan
  if open0 && Config.fmaSignals then ⟨r.bits, r.flags ||| 1⟩ else r

/-- minimumNumber and maximumNumber, −0 below +0 (R291). -/
def fpPickNum (f : Fmt) (least : Bool) (a b : Nat) : FpResult :=
  let x := f.decode a
  let y := f.decode b
  let lower := Fp.lt x y || (Fp.eqv x y && x.isNeg && !y.isNeg)
  let r := if x.isNan then y else if y.isNan then x else if least == lower then x else y
  ⟨f.encode r, bitAt (isSnan f a || isSnan f b) 0⟩

/-- Comparisons: 0 equal, 1 less, 2 less or equal; the flags they raise. -/
def fpCompare (f : Fmt) (rel a b : Nat) : Bool × Nat :=
  let x := f.decode a
  let y := f.decode b
  (match rel with | 0 => Fp.eqv x y | 1 => Fp.lt x y | _ => Fp.le x y,
   bitAt (isSnan f a || isSnan f b || (rel != 0 && (x.isNan || y.isNan) && Config.lessSignals)) 0)

/-- Conversion to a signed integer of `n` bits: saturating, NaN to 0, both raising invalid operation (R313). -/
def fpToInt (f : Fmt) (k : Rnd) (n a : Nat) : FpResult :=
  let hi : Int := 2 ^ (n - 1) - 1
  let lo : Int := -(2 ^ (n - 1))
  match f.decode a with
  | .nan => ⟨0, 1⟩
  | .inf s => ⟨ofSignedBits n (if s then lo else hi), 1⟩
  | .fin s m e =>
    match roundMag (bitLen m + e.natAbs + 2) 0 k s m e with
    | (q, u, inexact) =>
      let v := signed s (q * 2 ^ u.toNat)
      if v < lo then ⟨ofSignedBits n lo, 1⟩ else if hi < v then ⟨ofSignedBits n hi, 1⟩
      else ⟨ofSignedBits n v, if inexact then 16 else 0⟩
/-- Conversion from a signed integer of `n` bits. -/
def fpFromInt (f : Fmt) (k : Rnd) (n a : Nat) : FpResult := fpFinish f k (Fp.ofInt (toSigned n a))

/-- Conversion between floating-point formats (R313). -/
def fpConvert (f g : Fmt) (k : Rnd) (a : Nat) : FpResult :=
  let z := fpFinish g k (f.decode a)
  ⟨z.bits, z.flags ||| bitAt (isSnan f a) 0⟩

end Sys2Proof.Machine
end

