-- ==== Sys2Proof/Machine/Sequencer.lean ====
section
/-! DEFINITION. The tile sequencer's shared operations: launches and their ends, stops, script fetch,
dispatch with its hazards, the program counter and LOOP, and reading the tile store (R106 to R109, R114
to R125, R127, R131). -/

namespace Sys2Proof.Machine

/-! ## Ends of launches -/

/-- A launch of a TILE_RUN has ended: the command completes with the first tile, in order, that did not end OK (R558). -/
def endLaunch (s : State) (t : TileId) (l : TileLaunch) (st : Nat) : State :=
  match s.hif.tileRuns.find? (fun r => r.cmd == l.cmd) with
  | none => s
  | some r =>
    let log := (s.logTile t).getD 0
    let worse : Bool := st != 0 && (match r.worst with | none => true | some w => l.order < w.1)
    let r' : TileRunState := { r with left := r.left - 1, worst := if worse then some (l.order, t, log, BitVec.ofNat 16 st) else r.worst }
    let rest := dropFirst (fun x : TileRunState => x.cmd == l.cmd) s.hif.tileRuns
    if r'.left = 0 then
      let s := { s with hif := { s.hif with tileRuns := rest } }
      match r'.worst with
      | none => finish s l.cmd 0 0
      | some w => finish s l.cmd w.2.2.2.toNat (w.2.2.1 + w.2.1.die.toNat * 0x100)
    else { s with hif := { s.hif with tileRuns := rest ++ [r'] } }

/-- The running launch of a tile ends. -/
def endRunning (s : State) (t : TileId) (st : Nat) : State :=
  match (s.tile t).running with
  | none => s
  | some l => endLaunch (s.modTile t (fun x => { x with running := none })) t l st

/-- Every launch that waits for a tile completes without starting. -/
def endWaiting (s : State) (t : TileId) (st : Nat) : State :=
  let ls := (s.tile t).waiting
  ls.foldl (fun s l => endLaunch s t l st) (s.modTile t (fun x => { x with waiting := [] }))

/-! ## Stops (R124) -/

/-- Record a stop once every dispatched instruction has completed: status, address, event 0x4610, and the launch's end. -/
def settleStop (s : State) (t : TileId) : State :=
  let x := s.tile t
  match x.stopping with
  | none => s
  | some (st, pc) =>
    if !x.inflight.isEmpty then s
    else
      let s := (s.setReg (tileRegs t + 0xC) st.toNat).setReg64 (tileRegs t + 0x10) pc.toNat
      let s := s.modTile t (fun x => { x with stopping := none, phase := if x.phase = .faulty then .faulty else .stopped })
      endRunning (raise s 0x4610 (srcTile t) pc.toNat st.toNat) t st.toNat

/-- The sequencer stops with a status at an address; the first cause stands (R124). -/
def stopScript (s : State) (t : TileId) (st : Nat) (pc : U64) : State :=
  settleStop (s.modTile t (fun x => { x with stopping := match x.stopping with
    | some k => some k
    | none => some (BitVec.ofNat 16 st, pc) })) t

/-- Refuse the instruction at the program counter. -/
def refuseHere (s : State) (t : TileId) (st : Nat) : State := stopScript s t st (s.tile t).pc

/-- A residue or parity mismatch: the tile becomes faulty (R131). -/
def tileFault (s : State) (t : TileId) : State :=
  let pc := (s.tile t).pc
  let s := s.modTile t (fun x => { x with phase := .faulty, checkFault := false, parityFault := false })
  let s := memberFault (raise s 0x4612 (srcTile t) 0 0) (.tile t.die.toNat t.phys.toNat) 0x8636
  endWaiting (stopScript s t 0x8636 pc) t 0x8636

/-! ## Program counter and loops (R117) -/

/-- The loops and the address after an instruction whose successor in order is `pc`: at the end of a body
the next run starts, or the loop is left. -/
def loopEnd : Nat → List LoopFrame → U64 → List LoopFrame × U64
  | 0, fs, pc => (fs, pc)
  | n + 1, fs, pc =>
    match fs with
    | [] => ([], pc)
    | f :: r =>
      if pc != f.stop then (fs, pc)
      else if f.left = 0 then loopEnd n r pc
      else ({ f with left := f.left - 1 } :: r, f.first)

/-- Go on at an address reached in order. -/
def advanceTo (s : State) (t : TileId) (pc : U64) : State :=
  s.modTile t (fun x => { x with pc := (loopEnd 8 x.loops pc).2, loops := (loopEnd 8 x.loops pc).1 })

/-- Go on at the next instruction. -/
def advance (s : State) (t : TileId) : State := advanceTo s t ((s.tile t).pc + 16)

/-- The active loops whose bodies hold a branch target: a LOOP whose body does not, and every LOOP inside it, ends. -/
def loopsAround (fs : List LoopFrame) (target : U64) : List LoopFrame :=
  (fs.reverse.takeWhile (fun f => f.first.toNat ≤ target.toNat && target.toNat < f.stop.toNat)).reverse

/-- A scalar register; S0 reads as zero (R115). -/
def Tile.s (x : Tile) (i : BitVec 4) : U64 := if i = 0 then 0 else x.sregs.getD i.toNat 0
/-- Write a scalar register; S0 ignores writes. -/
def Tile.setS (x : Tile) (i : BitVec 4) (v : U64) : Tile := if i = 0 then x else { x with sregs := x.sregs.set i.toNat v }

/-! ## Fetch (R123) -/

/-- What a script fetch finds. -/
inductive Fetched where
  | held
  | fault (st : Nat)
  | word (bs : List Byte)
  deriving DecidableEq, Repr

/-- Fetch the word at a tile's program counter through the script cache; the caches' own traffic, and the clocks that
the fetch port loses to bank conflicts (R104), are not counted word by word (log 10). -/
def fetchScript (s : State) (t : TileId) : State × Fetched :=
  let pc := (s.tile t).pc.toNat
  if s.vaHeld pc then (s, .held)
  else match resolve s pc false with
    | .error st => (xltFault s agentTile pc st, .fault 0x8634)
    | .ok (.stack pa) =>
      let s := bumpClocks (bumpClocks (senseLine s pa) (stackBase (stackOf pa)) 0) (tileRegs t) 7
      if (s.lineMark pa).isSome then (s, .fault 0x8220) else (s, .word (Memory.read s.viewBytes pa 16))
    | .ok (.store d l o) =>
      match readStore s d l o 16 with
      | (s, bs, none) => (s, .word bs)
      | (s, _, some _) => (s, .fault 0x8220)
    | .ok .void => (s, .word (zeroBytes 16))
    | .ok (.host a) => (s, .word (Memory.read s.hostMem a 16))

/-- CLASS and OP of a word in memory. -/
def wordListed (bs : List Byte) : Bool := tileOpListed (bitsOf (leNat (bs.take 2)) 3 0) (bitsOf (leNat (bs.take 2)) 11 4)

/-! ## The pieces of a transfer: address, tile-store offset, bytes (R113, R370) -/

/-- Address and tile-store offset of a row. -/
def DmaXfer.row (d : DmaXfer) (r : Nat) : Nat × Nat :=
  ((d.vaddr.toNat + r * d.memPitch.toNat) % 2 ^ 64, d.tsAddr * 64 + r * (d.tsPitch * 64))

/-- The pieces of a local transfer, one memory line each, rows and bytes ascending. -/
def DmaXfer.pieces (d : DmaXfer) : List (Nat × Nat × Nat) :=
  (List.range d.rows).flatMap (fun r => (piecesOf (d.row r).1 d.rowBytes).map (fun p => (p.1, (d.row r).2 + (p.1 - (d.row r).1), p.2)))

/-- The packets of a range: address, bytes and whether whole lines; none crosses an aligned 1 KiB boundary (R370). -/
def packetPieces : Nat → Nat → Nat → List (Nat × Nat)
  | 0, _, _ => []
  | f + 1, a, n =>
    if n = 0 then []
    else
      let k := if a % 128 != 0 || n < 128 then min n (128 - a % 128) else min (n / 128 * 128) (1024 - a % 1024)
      (a, k) :: packetPieces f (a + k) (n - k)

/-- The packets of a remote transfer. -/
def DmaXfer.packets (d : DmaXfer) : List (Nat × Nat × Nat) :=
  (List.range d.rows).flatMap (fun r =>
    (packetPieces (d.rowBytes / 128 + 3) (d.row r).1 d.rowBytes).map (fun p => (p.1, (d.row r).2 + (p.1 - (d.row r).1), p.2)))

/-- A transfer has nothing left to move. -/
def DmaXfer.moved (d : DmaXfer) : Bool := if d.remote.isSome then d.left = 0 else d.pieces.length ≤ d.next

/-- An instruction that has been dispatched and may still be refused: a transfer with lines left to move, and a sync operation
on another member (R113, R374). -/
def InFlight.unsettled (e : InFlight) : Bool :=
  e.unit == .sync || (match e.dma with | some d => !d.moved | none => false)

/-- A tile runs, waits for nothing, and its clock is not stopped (R122, R124, R526). A later instruction never takes effect once
an earlier one faults (R124), so none is dispatched while an earlier one may still be refused (DEDUCED, log 44). -/
def State.tileRuns (s : State) (t : TileId) : Bool :=
  let x := s.tile t
  x.phase == .running && x.stopping.isNone && x.wait.isNone && !x.zeroing && !s.holding && !x.inflight.any InFlight.unsettled

/-- A tile can dispatch: it runs, and its sequencer's queues hold no parity mismatch (R131). -/
def State.tileLive (s : State) (t : TileId) : Bool := s.tileRuns t && !(s.tile t).parityFault

/-- The sequencer of a running tile finds a parity mismatch in its queues (R131). -/
def parityCheck (s : State) (t : TileId) : State := if s.tileRuns t && (s.tile t).parityFault then tileFault s t else s

/-- An instruction's step: the sequencer of a live tile fetches the word at its program counter. The word
is the instruction's: it is dispatched. The fetch is refused, or the word is not listed: the script stops.
The word is another instruction: nothing happens (log 14). A parity mismatch of the queues is found first (R131). -/
def onTile (t : TileId) (cls op : Nat) (w : TWord) (s : State) (body : State → State) : Res := powered s fun s =>
  if !s.tileLive t then parityCheck s t
  else match fetchScript s t with
    | (_, .held) => s
    | (s', .fault st) => refuseHere s' t st
    | (s', .word bs) =>
      if bs = tileWordBytes cls op w then body s'
      else if wordListed bs then s
      else refuseHere s' t 0x8630

/-! ## Dispatch (R120) -/

/-- Entries of a unit's queue (R120). -/
def queueDepth (u : TileUnit) : Nat := match u with | .matrix => 2 | .element => 4 | .dma => 8 | .sync => 4

/-- Two footprints share a byte. -/
def Span.hits (a b : Span) : Bool := overlaps a.base a.len b.base b.len

/-- An instruction with these footprints must wait at dispatch: its unit's queue is full, or it has a hazard
against an instruction that has not completed. -/
def Tile.mustWait (x : Tile) (u : TileUnit) (reads writes : List Span) : Bool :=
  queueDepth u ≤ (x.inflight.filter (fun e => e.unit == u)).length ||
  x.inflight.any (fun e =>
    writes.any (fun a => (e.reads ++ e.writes).any a.hits) || reads.any (fun a => e.writes.any a.hits))

/-- Dispatch an instruction to a unit: its entry is held until it completes. -/
def enqueue (s : State) (t : TileId) (u : TileUnit) (reads writes : List Span) (d : Option DmaXfer) : State :=
  s.modTile t (fun x => { x with
    inflight := x.inflight ++ [{ unit := u, id := x.nextId, pc := x.pc, reads := reads, writes := writes, dma := d }],
    nextId := x.nextId + 1 })

/-- An entry completes; a stop that waited for it is recorded. -/
def retireEntry (s : State) (t : TileId) (id : Nat) : State :=
  settleStop (s.modTile t (fun x => { x with inflight := dropFirst (fun e => e.id == id) x.inflight })) t

/-- The descriptor address of R116: ARG0 times 64 plus the low 22 bits of S[SA]. -/
def descAddr (x : Tile) (w : TWord) : Nat := w.arg0.toNat * 64 + (x.s w.sa).toNat % 0x400000

/-! ## Areas of the tile store (R106, R120) -/

/-- An area: base and pitch in bytes, rows, and the bytes of a row. -/
structure Area where
  base  : Nat
  pitch : Nat
  rows  : Nat
  bytes : Nat
  deriving DecidableEq, Repr

/-- The footprint of an area. -/
def Area.span (a : Area) : Span :=
  if a.rows = 0 then ⟨a.base, 0⟩ else ⟨a.base, (a.rows - 1) * (if a.rows = 1 then 0 else a.pitch) + a.bytes⟩

/-- The bytes of an area that its rows hold. -/
def Area.rowSpans (a : Area) : List Span := (List.range a.rows).map (fun r => ⟨a.base + r * a.pitch, a.bytes⟩)

/-- The status that R106 gives a set of areas: pitches first, then ranges; 0 for none. -/
def areasFault (l : List Area) : Nat :=
  if l.any (fun a => 1 < a.rows && a.pitch < a.bytes) then 0x8632
  else if l.any (fun a => 0x300000 < a.span.base + a.span.len) then 0x8631
  else 0

/-- The tile store's size in bytes. -/
def storeBytes : Nat := 0x300000

/-- The first poisoned line that a set of footprints touches, by offset. -/
def Tile.poisonIn (x : Tile) (l : List Span) : Option (Nat × PoisonKind) :=
  x.poison.find? (fun p => l.any (fun a => overlaps (p.1 * 128) 128 a.base a.len))

/-- Consume footprints: hidden errors are found, and a poisoned line gives the status of R109, with its
offset recorded; 0 when no line is poisoned. -/
def consume (s : State) (t : TileId) (l : List Span) : State × Nat :=
  let s := l.foldl (fun s a => senseStore s t a.base a.len) s
  match (s.tile t).poisonIn l with
  | none => (s, 0)
  | some (line, k) =>
    ((s.setReg (tileRegs t + 0x38) (line * 128)).modTile t (fun x => { x with poisonSeen := true }),
     match k with | .source => 0x8220 | .storeError => 0x8635)

/-- Read bytes of a tile's own store. -/
def Tile.read (x : Tile) (a n : Nat) : List Byte := Memory.read x.store a n

/-- Bytes that two ranges share. -/
def sharedBytes (a n b m : Nat) : Nat := min (a + n) (b + m) - max a b

/-- A range is covered by disjoint writes. -/
def coveredBy (ws : List (Nat × List Byte)) (a n : Nat) : Bool := n ≤ (ws.map (fun w => sharedBytes a n w.1 w.2.length)).sum

/-- Write disjoint byte ranges into a tile's own store; lines overwritten whole lose their poison, and sectors
overwritten whole their hidden errors (R108). -/
def tileWriteAll (s : State) (t : TileId) (ws : List (Nat × List Byte)) : State :=
  s.modTile t (fun x => { x with
    store := ws.foldl (fun m w => Memory.write m w.1 w.2) x.store,
    latent := x.latent.filter (fun e => !coveredBy ws (e.1 * 32) 32),
    poison := x.poison.filter (fun p => !coveredBy ws (p.1 * 128) 128) })

/-- A flag that TILE_CTRL selects was set by the instruction just dispatched: the script stops as if the next
instruction had been refused (R127). -/
def flagStop (s : State) (t : TileId) (nan ewl : Bool) : State :=
  if (nan && s.regBit (tileRegs t + 8) 0) || (ewl && s.regBit (tileRegs t + 8) 1) then refuseHere s t 0x8637 else s

end Sys2Proof.Machine
end

