-- ==== Sys2Proof/Machine/TileDma.lean ====
section
/-! DEFINITION. The tile DMA: descriptors, local transfers by line, remote transfers by packet, their ends
and faults (R111 to R113, R122, R370, R372). -/

namespace Sys2Proof.Machine

/-! ## Descriptors (Table 3.7) -/

/-- A DMA descriptor as read. -/
def dmaOf (out : Bool) (bs : List Byte) : DmaXfer :=
  { out := out, vaddr := BitVec.ofNat 64 (fieldLE bs 0 8), memPitch := BitVec.ofNat 64 (fieldLE bs 8 8), remote := none,
    rows := fieldLE bs 0x14 4, rowBytes := fieldLE bs 0x18 4, tsAddr := fieldLE bs 0x1C 2, tsPitch := fieldLE bs 0x1E 2,
    next := 0, left := 0, poisoned := [], fence := [], landed := [], undo := [] }

/-- The tile-store area of a transfer. -/
def DmaXfer.area (d : DmaXfer) : Area := ⟨d.tsAddr * 64, d.tsPitch * 64, d.rows, d.rowBytes⟩

/-- The status that refuses a descriptor at dispatch (R111); 0 for none. -/
def dmaFault (d : DmaXfer) : Nat :=
  if d.memPitch.toNat % 64 != 0 || d.rowBytes % 64 != 0 || d.rows = 0 || 2 ^ 24 < d.rows then 0x8632 else areasFault [d.area]

/-- The target of a transfer or a sync operation that names a rank: none for the own package, a fabric
identifier, or the status that refuses it at the sender (R372; log 27). -/
def memberTarget (s : State) (m : U32) : Except Nat (Option U16) :=
  if m = 0xFFFFFFFF || m.toNat = s.rank then .ok none
  else match s.memberId m.toNat with
    | none => .error 0x8312
    | some d => if crewOf d = crewOf s.fabId then .ok (some (BitVec.ofNat 16 d)) else .error 0x8313

/-! ## Transfers under way -/

/-- The entry of a transfer. -/
def State.dmaEntry (s : State) (t : TileId) (id : Nat) : Option (InFlight × DmaXfer) :=
  match (s.tile t).inflight.find? (fun e => e.id == id) with
  | some e => e.dma.map (fun d => (e, d))
  | none => none

/-- Replace a transfer's state. -/
def setDma (s : State) (t : TileId) (id : Nat) (d : DmaXfer) : State :=
  s.modTile t (fun x => { x with inflight := updFirst (fun e => e.id == id) (fun e => { e with dma := some d }) x.inflight })

/-! ## Moving lines -/

/-- Poisoned bytes reach the tile store: their lines are poisoned, and the source is recorded if none is (R112). -/
def poisonLines (s : State) (t : TileId) (ts n src : Nat) : State :=
  let lines := (List.range ((ts + n + 127) / 128 - ts / 128)).map (fun i => ts / 128 + i)
  let s := if s.reg64 (tileRegs t + 0x30) = 0 then s.setReg64 (tileRegs t + 0x30) src else s
  s.modTile t (fun x => { x with poisonSeen := true, poison := lines.foldl (fun m l => kvSet m l .source) x.poison })

/-- Put a piece into the tile store. -/
def landPiece (s : State) (t : TileId) (ts : Nat) (bs : List Byte) : State :=
  s.modTile t (fun x => { x with store := Memory.write x.store ts bs })

/-- The lines of a piece in the tile store. -/
def linesOf (ts n : Nat) : List Nat := (List.range ((ts + n + 127) / 128 - ts / 128)).map (fun i => ts / 128 + i)

/-- The address recorded for a poisoned source: the package address, where the source has one (R109). -/
def sourceAddr (va : Nat) (l : Loc) : Nat := match l with | .stack pa => pa / 128 * 128 | _ => va / 128 * 128

/-- The bytes at a location, as a reader without effect finds them. -/
def State.peekLoc (s : State) (l : Loc) (n : Nat) : List Byte :=
  match l with
  | .stack pa => Memory.read s.viewBytes pa n
  | .store d t o => (match s.physTile d t with | some x => (s.tile x).read o n | none => zeroBytes n)
  | .void => zeroBytes n
  | .host a => Memory.read s.hostMem a n

/-- Move one piece of a local transfer: the status that refuses it, or 0. -/
def movePiece (s : State) (t : TileId) (d : DmaXfer) (p : Nat × Nat × Nat) : State × DmaXfer × Nat :=
  let va := p.1
  let ts := p.2.1
  let n := p.2.2
  match resolve s va d.out with
  | .error st => (xltFault s agentTile va st, d, st)
  | .ok l =>
    let s := countMisses s va l
    if d.out then
      let new := (s.tile t).read ts n
      (writeLoc s l new, { d with undo := d.undo ++ [(va, s.peekLoc l n, new)] }, 0)
    else match readLoc s l n with
      | (s, bs, none) => (landPiece s t ts bs, { d with landed := d.landed ++ [⟨ts, n⟩] }, 0)
      | (s, bs, some _) =>
        (poisonLines (landPiece s t ts bs) t ts n (sourceAddr va l),
         { d with landed := d.landed ++ [⟨ts, n⟩], poisoned := d.poisoned ++ linesOf ts n }, 0)

/-- The line of the destination that a piece lies in: a memory line of a DMA_OUT, a tile-store line of a DMA_IN. -/
def DmaXfer.destLine (d : DmaXfer) (p : Nat × Nat × Nat) : Nat := if d.out then p.1 / 128 else p.2.1 / 128

/-- A piece cut where it crosses a line of its destination. -/
def DmaXfer.cut (d : DmaXfer) (p : Nat × Nat × Nat) : List (Nat × Nat × Nat) :=
  let k := 128 - p.2.1 % 128
  if d.out || p.2.2 ≤ k then [p] else [(p.1, p.2.1, k), (p.1 + k, p.2.1 + k, p.2.2 - k)]

/-- Lines after a refused one were in flight or not: each is written whole or not at all (R113). `known` holds the lines
decided so far. FREE CHOICE (log 6). -/
def straggle (s : State) (t : TileId) (d : DmaXfer) (known : List (Nat × Bool)) : List (Nat × Nat × Nat) → State × DmaXfer
  | [] => (s, d)
  | p :: r =>
    let line := d.destLine p
    let c : Bool × State := match kvGet known line with | some b => (b, s) | none => s.drawBool
    let known := kvSet known line c.1
    if c.1 then
      match movePiece c.2 t d p with
      | (s', d', 0) => straggle s' t d' known r
      | _ => straggle c.2 t d known r
    else straggle c.2 t d known r

/-- What is left of a transfer from a refused piece on: that piece's line is not written. -/
def straggleFrom (s : State) (t : TileId) (d : DmaXfer) (p : Nat × Nat × Nat) (r : List (Nat × Nat × Nat)) : State × DmaXfer :=
  straggle s t d [(d.destLine p, false)] (r.flatMap d.cut)

/-- Move pieces until the transfer ends, is refused, or meets an access that is held. -/
def movePieces : List (Nat × Nat × Nat) → State → TileId → DmaXfer → State × DmaXfer × Nat
  | [], s, _, d => (s, d, 0)
  | p :: r, s, t, d =>
    if s.vaHeld p.1 then (s, d, 0)
    else match movePiece s t d p with
      | (s, d, 0) => movePieces r s t { d with next := d.next + 1 }
      | (s, d, st) => ((straggleFrom s t d p r).1, (straggleFrom s t d p r).2, st)

/-- Tile-store lines that a transfer has overwritten whole lose older poison, and hidden errors with it (R108). -/
def settleLines (s : State) (t : TileId) (d : DmaXfer) : State :=
  let covers (line : Nat) : Bool := 128 ≤ (d.landed.map (fun r => sharedBytes (line * 128) 128 r.base r.len)).sum
  if d.landed.isEmpty then s
  else s.modTile t (fun x => { x with
    poison := x.poison.filter (fun p => d.poisoned.contains p.1 || !covers p.1),
    latent := x.latent.filter (fun e => !covers (e.1 / 4)) })

/-- A transfer has ended: its entry retires. -/
def endDma (s : State) (t : TileId) (id : Nat) (d : DmaXfer) : State := retireEntry (settleLines s t d) t id

/-- A transfer is refused while it runs: it stops the script at its own address (R113). -/
def failDma (s : State) (t : TileId) (id st : Nat) (pc : U64) (d : DmaXfer) : State :=
  endDma (stopScript s t st pc) t id d

/-- Run a local transfer as far as it goes; clocks that its port loses to bank conflicts are counted freely (R104; log 10). -/
def runDma (s : State) (t : TileId) (id : Nat) : State :=
  match s.dmaEntry t id with
  | none => s
  | some (e, d) =>
    if d.remote.isSome || d.moved then s
    else match movePieces (d.pieces.drop d.next) (bumpClocks s (tileRegs t) 7) t d with
      | (s, d, 0) => setDma s t id d
      | (s, d, st) => failDma s t id st e.pc d

/-! ## Remote transfers -/

/-- The byte mask of a WRITE_MASKED packet: bytes [a, a + n) of the line. -/
def byteMask (a n : Nat) : List Byte :=
  leBytes 16 ((2 ^ n - 1) * 2 ^ (a % 128))

/-- Send one packet of a remote transfer (R370): READ of the lines that hold the piece, WRITE of whole lines, or WRITE_MASKED. -/
def sendPacket (s : State) (t : TileId) (id i : Nat) (dst : U16) (d : DmaXfer) (p : Nat × Nat × Nat) : State :=
  let a := p.1
  let n := p.2.2
  let line := a / 128 * 128
  let bs := (s.tile t).read p.2.1 n
  let o : Origin := .tileDma t id i
  if !d.out then sendReq s (memReq s .read dst ((a % 128 + n + 127) / 128) line [] o)
  else if a % 128 = 0 && n % 128 = 0 then sendReq s (memReq s .write dst (n / 128) line bs o)
  else sendReq s (memReq s .writeMasked dst 0 line
    (byteMask a n ++ zeroBytes (a % 128) ++ bs ++ zeroBytes (128 - a % 128 - n)) o)

/-- Start a remote transfer: every packet is sent or queued. The acknowledgement of a DMA_OUT is a fence behind them (R383). -/
def startRemote (s : State) (t : TileId) (id : Nat) (dst : U16) (d : DmaXfer) : State :=
  let s := (d.packets.mapIdx (fun i p => (i, p))).foldl (fun s e => sendPacket s t id e.1 dst d e.2)
    (setDma s t id { d with left := d.packets.length })
  let fence := if d.out then [0, 1].map (fun fd => (fd, (s.txSpace dst fd).next)) else []
  match s.dmaEntry t id with
  | some (_, d) => setDma s t id { d with fence := fence }
  | none => s

/-- A transfer has moved its last line, and its fence has completed (R122, R383). -/
def State.dmaDone (s : State) (d : DmaXfer) : Bool :=
  d.moved && (match d.remote with | some dst => s.fencePassed dst d.fence | none => true)

/-- A transfer of a stopping script ends with its last answer (R124). -/
def endIfStopping (s : State) (t : TileId) (id : Nat) : State :=
  match s.dmaEntry t id with
  | some (_, d) => if s.dmaDone d && (s.tile t).stopping.isSome then endDma s t id d else s
  | none => s

/-- A packet of a remote transfer has been answered. -/
def answerPacket (s : State) (t : TileId) (id : Nat) (d : DmaXfer) : State :=
  endIfStopping (setDma s t id { d with left := d.left - 1, next := d.next + 1 }) t id

/-- Data of a READ packet of a transfer arrive (R112). -/
def landPacket (s : State) (t : TileId) (id i : Nat) (data : List Byte) (poison : List Bool) : State :=
  match s.dmaEntry t id with
  | none => s
  | some (_, d) =>
    match d.packets[i]? with
    | none => s
    | some p =>
      let off := p.1 % 128
      let s := landPiece (bumpClocks s (tileRegs t) 7) t p.2.1 (padTo p.2.2 (data.drop off))
      let d : DmaXfer := { d with landed := d.landed ++ [⟨p.2.1, p.2.2⟩] }
      let bad := (piecesOf p.1 p.2.2).filter (fun q => poison.getD ((q.1 - p.1 / 128 * 128) / 128) false)
      let r := bad.foldl (fun a q =>
        (poisonLines a.1 t (p.2.1 + (q.1 - p.1)) q.2 (q.1 / 128 * 128), a.2 ++ linesOf (p.2.1 + (q.1 - p.1)) q.2)) (s, d.poisoned)
      answerPacket r.1 t id { d with poisoned := r.2 }

/-- Requests of a transfer after its packet `i` that have not been sent are withdrawn; those of earlier lines go on (R113). -/
def dropQueued (s : State) (t : TileId) (id i : Nat) : State :=
  let mine (r : TxReq) : Bool := match r.origin with | .tileDma t' id' k => t' == t && id' == id && i < k | _ => false
  let n := (s.fab.tx.map (fun x => (x.queued.filter mine).length)).sum + (s.fab.drains.map (fun x => (x.held.filter mine).length)).sum
  let tx := s.fab.tx.map (fun x => { x with queued := x.queued.filter (fun r => !mine r) })
  let drains := s.fab.drains.map (fun x => { x with held := x.held.filter (fun r => !mine r) })
  let s := { s with fab := { s.fab with tx := tx, drains := drains } }
  match s.dmaEntry t id with
  | none => s
  | some (_, d) => setDma s t id { d with left := d.left - n }

/-- Packet `i` of a transfer is refused by the target member: the script stops with its status (R113, R374);
what the transfer had not sent of later lines is not sent. -/
def refusePacket (s : State) (t : TileId) (id i st : Nat) : State :=
  match s.dmaEntry t id with
  | none => s
  | some (e, d) => endIfStopping (dropQueued (stopScript (setDma s t id { d with left := d.left - 1 }) t st e.pc) t id i) t id

/-! ## Dispatch and end -/

/-- Read a 64-byte descriptor at dispatch (R116): refused at a bad address, waiting while an earlier
instruction still writes it. A descriptor in a poisoned line stops the script with the statuses of R109, also that of a
DMA_IN, which R109 does not name (DESIGN CHOICE, log 44). -/
def withDescriptor (s : State) (t : TileId) (u : TileUnit) (w : TWord) (f : State → Span → List Byte → State) : State :=
  let x := s.tile t
  let a := descAddr x w
  let sp : Span := ⟨a, 64⟩
  if a % 64 != 0 then refuseHere s t 0x8632
  else if storeBytes < a + 64 then refuseHere s t 0x8631
  else if x.mustWait u [sp] [] then s
  else match consume s t [sp] with
    | (s, 0) => f s sp ((s.tile t).read a 64)
    | (s, st) => refuseHere s t st

/-- Dispatch a DMA instruction. -/
def dispatchDma (s : State) (t : TileId) (w : TWord) (out : Bool) : State :=
  withDescriptor s t .dma w fun s sp bs =>
    let d := dmaOf out bs
    let st := dmaFault d
    let area := d.area.span
    let reads := if out then [sp, area] else [sp]
    let writes := if out then [] else [area]
    if st != 0 then refuseHere s t st
    else match memberTarget s (BitVec.ofNat 32 (fieldLE bs 0x10 4)) with
      | .error st => refuseHere s t st
      | .ok m =>
        if (s.tile t).mustWait .dma reads writes then s
        else match (if out then consume s t d.area.rowSpans else (s, 0)) with
          | (s, 0) =>
            let id := (s.tile t).nextId
            let s := enqueue s t .dma reads writes (some { d with remote := m })
            let s := advance s t
            match m with
            | none => runDma s t id
            | some dst => startRemote s t id dst { d with remote := m }
          | (s, st) => refuseHere s t st

/-- DMA_IN (R111, R112). -/
def execDmaIn (t : TileId) (w : TWord) (s : State) : Res := onTile t 3 1 w s fun s => dispatchDma s t w false

/-- DMA_OUT (R111, R122). -/
def execDmaOut (t : TileId) (w : TWord) (s : State) : Res := onTile t 3 2 w s fun s => dispatchDma s t w true

/-- End the first transfer, in script order, that has moved its last line; a held one goes on (R122). -/
def dmaStep (s : State) (t : TileId) : State :=
  let ids := ((s.tile t).inflight.filter (fun e => e.dma.isSome)).map InFlight.id
  let s := ids.foldl (fun s id => runDma s t id) s
  let done (e : InFlight) : Bool := match e.dma with | some d => s.dmaDone d | none => false
  match (s.tile t).inflight.find? done with
  | some e => match e.dma with
    | some d => endDma s t e.id d
    | none => s
  | none => s

/-- A transfer's last line has been acknowledged or is in the tile store (R122). -/
def execDmaTransferDone (t : TileId) (s : State) : Res := powered s fun s => dmaStep s t

/-- A dispatched instruction completes (R120); transfers and sync operations complete with their last answer. -/
def execInstructionCompletion (t : TileId) (u : TileUnit) (s : State) : Res := powered s fun s =>
  match u with
  | .dma => dmaStep s t
  | .sync => s
  | _ =>
    match (s.tile t).inflight.find? (fun e => e.unit == u) with
    | none => s
    | some e => retireEntry s t e.id

end Sys2Proof.Machine
end

