-- ==== Sys2Proof/Machine/CoreOps.lean ====
section
/-! DEFINITION. A steering core's shared operations: its registers, the end of a program and its stops, traps
and interrupts, and its accesses to memory (R286, R287, R289, R296 to R299, R314, R322, R490). -/

namespace Sys2Proof.Machine

/-! ## Registers -/

/-- An integer register; G0 reads as zero (Table 9.1). -/
def Core.gr (x : Core) (i : BitVec 5) : U64 := if i = 0 then 0 else x.g.getD i.toNat 0
/-- Write an integer register; G0 ignores writes. -/
def Core.setG (x : Core) (i : BitVec 5) (v : U64) : Core := if i = 0 then x else { x with g := x.g.set i.toNat v }
/-- A floating-point register. -/
def Core.fr (x : Core) (i : BitVec 5) : U64 := x.f.getD i.toNat 0
/-- Write a floating-point register; a value narrower than 64 bits zeroes the rest. -/
def Core.setF (x : Core) (i : BitVec 5) (v : U64) : Core := { x with f := x.f.set i.toNat v }
/-- Accumulate exception flags in FPMODE.STICKY (R291). -/
def Core.stick (x : Core) (flags : Nat) : Core := { x with fpmode := x.fpmode ||| BitVec.ofNat 64 (flags * 8) }
/-- The rounding direction in force. -/
def Core.rnd (x : Core) : Rnd := rndOf x.fpmode.toNat

/-- A program runs on the core, and neither a sync counter nor an acknowledgement is awaited. -/
def State.coreLive (s : State) (c : Nat) : Bool :=
  let x := s.core c
  x.phase == .running && x.scWait.isNone && x.ack.isNone && (s.physCore c).isSome

/-! ## Ends and stops -/

/-- A program ends: its completion is posted and the core is left in a phase. -/
def endProgram (s : State) (c : Nat) (ph : CorePhase) (st value : Nat) : State :=
  let k := (s.core c).cmd
  let s := s.modCore c (fun x =>
    { x with phase := ph, cmd := none, scWait := none, ack := none, trap := none, outer := [], irqAt := none })
  match k with
  | none => s
  | some cmd => finish s cmd st value

/-- The registers of Table 9.7 that record a stop. -/
def recordStop (s : State) (c st : Nat) (pc : U64) : State := (s.setReg (s.coreRegs c + 0xC) st).setReg64 (s.coreRegs c + 0x10) pc.toNat

/-- A program stops with a status at an address: the registers, event 0x4680, its completion (R297). -/
def stopProgram (s : State) (c st : Nat) (pc : U64) : State :=
  let s := recordStop (coreTime s c) c st pc
  endProgram (raise s 0x4680 (srcCore ((s.physCore c).getD 0)) pc.toNat st) c .stopped st 0

/-- A synchronous trap: at U it has its effect. One in the supervisor itself arises while trap entry is masked and stops
the core with 0x8683, or has its effect; which of the two, and its address, are the firmware's (R299). FREE VALUES
(log 33). -/
def trapWith (s : State) (c : Nat) (effect : State → U64 → State) : State :=
  if (s.core c).trap.isNone then effect s (s.core c).pc
  else
    let p := s.drawBits
    let m := p.2.drawBool
    if m.1 then stopProgram m.2 c 0x8683 p.1 else effect m.2 p.1

/-- A trap that the supervisor does not resolve stops the program (R297). -/
def stopTrap (s : State) (c st : Nat) : State := trapWith s c (fun s pc => stopProgram s c st pc)

/-- The core enters its supervisor for a cause, from U or from the handling of another trap (R297, R318). -/
def enterTrap (s : State) (c : Nat) (k : CoreTrap) : State :=
  s.modCore c (fun x => { x with trap := some k, outer := x.trap.toList ++ x.outer })

/-- A page that restore has not yet brought in: the supervisor is entered to wait for it (R297, R490). -/
def pageTrap (s : State) (c va : Nat) : State := trapWith s c (fun s _ => enterTrap s c (.page va))

/-! ## Instructions -/

/-- An instruction has completed: it is counted, and at U the program counter moves on. -/
def retire (s : State) (c : Nat) : State :=
  bump (coreTime (s.modCore c (fun x => if x.trap.isNone then { x with pc := x.pc + 4 } else x)) c) (s.coreRegs c) 1 1

/-- A pending interrupt is taken after an instruction that does not take it at a pass of its own (R298). -/
def takeIrq (s : State) (c : Nat) : State :=
  let x := s.core c
  if x.irqAt.isSome && x.phase == .running then enterTrap (s.modCore c (fun x => { x with irqAt := none })) c .irq else s

/-- The 32-bit word at an address, as a fetch without effect finds it. -/
def State.peekWord (s : State) (va : Nat) : Option Nat :=
  match resolve s va false with
  | .ok l => some (leNat (s.peekLoc l 4))
  | .error _ => none

/-- The program's next word belongs to the span extension and names no operation of it (R307). -/
def State.wordUnlisted (s : State) (c : Nat) : Bool :=
  (s.core c).trap.isNone && match s.peekWord (s.core c).pc.toNat with | some v => unlistedSpanWord v | none => false

/-- An instruction's step on a core whose program runs. A program whose next word is an unlisted encoding goes no further:
that word is vector use, and then illegal (R296, R307). -/
def onCore (c : BitVec 8) (s : State) (body : State → State) : Res := powered s fun s =>
  let k := c.toNat
  if !s.coreLive k then s
  else if s.wordUnlisted k then (if (s.core k).ven then stopTrap s k 0x8680 else enterTrap s k .ven)
  else takeIrq (body s) k

/-- The program counter of a span instruction at U: the scalar instructions that the manual does not describe may have
moved it since the last command, so it is known only while the word there is the instruction. FREE VALUE (log 33). -/
def seeWord (s : State) (c major op : Nat) (w : VWord) : State :=
  let x := s.core c
  if x.trap.isSome || s.peekWord x.pc.toNat == some (spanWord major op w) then s
  else s.drawBits.2.modCore c (fun x => { x with pc := s.drawBits.1 })

/-! ## Memory (R296, R314, R490) -/

/-- What an access of a core meets. -/
inductive CoreAccess where
  | ok (l : Loc)
  | trap (st : Nat)
  | page
  deriving DecidableEq, Repr

/-- A page that restore has not yet brought in (R490). -/
def State.restoring (s : State) (va : Nat) : Bool := s.mem.restorePending.contains (va / 0x200000)

/-- An access of `n` bytes at an address: misaligned, refused by translation, on a page not yet restored, or allowed. -/
def coreAccess (s : State) (va n : Nat) (write : Bool) : CoreAccess :=
  if va % n != 0 then .trap 0x8687
  else match resolve s va write with
    | .error _ => .trap 0x8682
    | .ok l => if va < 0x10000000000 && s.restoring va then .page else .ok l

/-- An access that must wait for a stack or a block (R342, R344, R526). -/
def State.coreHeld (s : State) (va : Nat) : Bool := s.vaHeld va && !(va < 0x10000000000 && s.restoring va)

/-- A translation fault of a core is recorded (R357). -/
def coreFaulted (s : State) (va : Nat) (write : Bool) (st : Nat) : State :=
  if st = 0x8682 then (match resolve s va write with | .error e => xltFault s agentCore va e | .ok _ => s) else s

/-- Read `n` bytes within a line: the value, or the status of a poisoned or lost line. -/
def coreRead (s : State) (l : Loc) (n : Nat) : State × Nat × Nat :=
  match readLoc s l n with
  | (s, bs, none) => (s, leNat bs, 0)
  | (s, _, some k) => (s, 0, markStatus k)

/-- Write bytes within a line; the line as it was before the program, and as each of its stores left it, is kept for an
abort (R289). -/
def coreWrite (s : State) (c va : Nat) (l : Loc) (bs : List Byte) : State :=
  match l with
  | .stack pa =>
    let line (s : State) : List Byte := Memory.read s.viewBytes (pa / 128 * 128) 128
    let old := line s
    let s := writeLoc s l bs
    s.modCore c (fun x => { x with
      undo := kvSet x.undo (va / 128 * 128) ((kvGet x.undo (va / 128 * 128)).getD [old] ++ [line s]) })
  | _ => writeLoc s l bs

/-- A scalar access of 2^k bytes at U or S: the body gets the location; a trap stops the program, and a page that is
not yet restored enters the supervisor, which waits for it (R297). -/
def scalarMem (s : State) (c va n : Nat) (write : Bool) (body : State → Loc → State) : State :=
  if s.coreHeld va then s
  else match coreAccess s va n write with
    | .trap st => stopTrap (coreFaulted s va write st) c st
    | .page => pageTrap s c va
    | .ok l => body s l

end Sys2Proof.Machine
end

