-- ==== Sys2Proof/Machine/Tile.lean ====
section
/-! DEFINITION. TILE_RUN and the tile sequencer's own instructions: control, sync and flag class, waits on
sync counters, zeroing (R110, R114 to R117, R122, R126, R432 to R436, R558). -/

namespace Sys2Proof.Machine

/-! ## TILE_RUN (R558) -/

/-- The tiles of a set in ascending (die, logical tile) order. -/
def tileSet (s : State) (first count mask : Nat) : List (Nat × Nat × TileId) :=
  (List.range 4).flatMap (fun n =>
    if bitOf mask n then (List.range count).filterMap (fun i => (s.physTile n (first + i)).map (fun t => (n, first + i, t))) else [])

/-- A tile set that R558 and R220 refuse: no die, a die that does not exist, or tiles beyond the job's count. -/
def badTileSet (s : State) (first count mask : Nat) : Bool := mask = 0 || 16 ≤ mask || s.logicalTiles < first + count

/-- Read the argument words of every tile in order; the index of the first that fails, with its status. -/
def readArgs : Nat → Nat → Nat → State → List (List U64) → State × List (List U64) × Option (Nat × Nat)
  | 0, _, _, s, acc => (s, acc, none)
  | n + 1, va, k, s, acc =>
    match readVA s agentHost va 64 with
    | (s, 0, bs) => readArgs n (va + 64) (k + 1) s (acc ++ [(List.range 8).map (fun i => BitVec.ofNat 64 (fieldLE bs (8 * i) 8))])
    | (s, st, _) => (s, acc, some (k, st))

/-- Give a launch to its tile: it completes at once on a faulty tile (R131) or one held by a SOLVE (R220),
and otherwise waits until the tile is idle. -/
def giveLaunch (s : State) (t : TileId) (l : TileLaunch) : State :=
  if (s.tile t).phase = .faulty then endLaunch s t l 0x8636
  else if (s.tile t).reserved.isSome then endLaunch s t l 0x8508
  else s.modTile t (fun x => { x with waiting := x.waiting ++ [l] })

/-- TILE_RUN: one script on each tile of the set (R558). -/
def execTileRun (c : CmdCtx) (script args : U64) (firstTile tileCount : U16) (dieMask options : BitVec 8) (s : State) : Res :=
  let tiles := tileSet s firstTile.toNat tileCount.toNat dieMask.toNat
  if !badTileSet s firstTile.toNat tileCount.toNat dieMask.toNat && s.rangeHeld args.toNat (64 * tiles.length) then .next s
  else onRing s c 0x0020 [opnd 8 8 script.toNat, opnd 0x10 8 args.toNat, opnd 0x18 2 firstTile.toNat, opnd 0x1A 2 tileCount.toNat,
                          opnd 0x1C 1 dieMask.toNat, opnd 0x1D 1 options.toNat] fun s =>
    if badTileSet s firstTile.toNat tileCount.toNat dieMask.toNat then finish s c 0x810B 0
    else if script.toNat % 16 != 0 then finish s c 0x8102 0
    else match readArgs tiles.length args.toNat 0 s [] with
      | (s, _, some (k, st)) =>
        let e := tiles.getD k (0, 0, ⟨0, 0⟩)
        finish s c st (e.1 * 0x100 + e.2.1)
      | (s, as, none) =>
        if tiles.isEmpty then finish s c 0 0
        else
          let ph := s.phaseOf c
          let runs := s.hif.tileRuns ++ [{ cmd := c, left := tiles.length, worst := none }]
          let s := markStarted { s with hif := { s.hif with tileRuns := runs } } c
          (tiles.mapIdx (fun k e => (k, e.2.2))).foldl (fun s e =>
            giveLaunch s e.2 { script := script, args := as.getD e.1 [], clearFlags := !bitOf options.toNat 0, phase := ph, cmd := c, order := e.1 }) s

/-- The tile's records and poison registers are cleared by a launch with CLEAR_FLAGS (R114, R126). -/
def clearForLaunch (s : State) (t : TileId) : State :=
  let s := ((clearFlags s t 3).setReg64 (tileRegs t + 0x30) 0).setReg (tileRegs t + 0x38) 0
  s.modTile t (fun x => { x with poisonSeen := false })

/-- The first launch that waits for an idle tile starts (R114, R115). -/
def execTileScriptStart (t : TileId) (s : State) : Res := powered s fun s =>
  let x := s.tile t
  match x.waiting with
  | [] => s
  | l :: r =>
    if x.running.isSome || x.phase = .faulty || x.zeroing || x.reserved.isSome || s.holding then s
    else
      let s := if l.clearFlags then clearForLaunch s t else s
      s.modTile t (fun x => { x with
        phase := .running, running := some l, waiting := r, pc := l.script, loops := [], wait := none, stopping := none,
        sregs := List.replicate 8 0 ++ l.args, used := true })

/-! ## Control instructions (Table 3.9) -/

/-- NOP. -/
def execTileNop (t : TileId) (w : TWord) (s : State) : Res := onTile t 0 0 w s fun s => advance s t

/-- END ends the script once every earlier instruction has completed. -/
def execEndScript (t : TileId) (w : TWord) (s : State) : Res := onTile t 0 1 w s fun s =>
  if !(s.tile t).inflight.isEmpty then s
  else endRunning (s.modTile t (fun x => { x with phase := .idle, loops := [] })) t 0

/-- LOOP runs the next ARG0 instructions S[SA] times; a fifth nested level is refused. -/
def execLoop (t : TileId) (w : TWord) (s : State) : Res := onTile t 0 2 w s fun s =>
  let x := s.tile t
  let n := x.s w.sa
  let first := x.pc + 16
  let stop := first + BitVec.ofNat 64 (16 * w.arg0.toNat)
  if 4 ≤ x.loops.length then refuseHere s t 0x8633
  else if n = 0 || w.arg0 = 0 then advanceTo s t stop
  else s.modTile t (fun x => { x with pc := first, loops := { first := first, stop := stop, left := n - 1 } :: x.loops })

/-- BRNZ: if S[SA] is not zero, go on at the current address plus ARG1 × 16, ending the loops that the target leaves. -/
def execBrnz (t : TileId) (w : TWord) (s : State) : Res := onTile t 0 3 w s fun s =>
  let x := s.tile t
  if x.s w.sa = 0 then advance s t
  else
    let target := x.pc + (w.arg1.signExtend 64) * 16
    s.modTile t (fun x => { x with pc := target, loops := loopsAround x.loops target })

/-- SET: S[SA] ← ARG2. -/
def execSetS (t : TileId) (w : TWord) (s : State) : Res := onTile t 0 4 w s fun s =>
  advance (s.modTile t (fun x => x.setS w.sa w.arg2)) t

/-- ADDS: S[SA] ← S[ARG0 bits [3:0]] + ARG2, modulo 2⁶⁴. -/
def execAdds (t : TileId) (w : TWord) (s : State) : Res := onTile t 0 5 w s fun s =>
  advance (s.modTile t (fun x => x.setS w.sa (x.s (w.arg0.setWidth 4) + w.arg2))) t

/-! ## Sync instructions (R122, R273, R432 to R436) -/

/-- The refusal of an add or set of counter `c` at a target (none is the own package): its range, or the own stroke mirror. -/
def syncFault (s : State) (c : Nat) (target : Option U16) : Nat :=
  if 16384 ≤ c then 0x8639 else if c = 16383 && target.isNone && s.bound then 0x8670 else 0

/-- SC_ADD and SC_SET act once every earlier instruction has completed; one on another member completes with its acknowledgement. -/
def tileSync (s : State) (t : TileId) (w : TWord) (setOp : Bool) : State :=
  let c := w.arg0.toNat
  if !(s.tile t).inflight.isEmpty then s
  else match (if 16384 ≤ c then .error 0x8639 else memberTarget s w.arg1) with
    | .error st => refuseHere s t st
    | .ok m =>
      if syncFault s c m != 0 then refuseHere s t (syncFault s c m)
      else match m with
        | none => advance (applySync s setOp c w.arg2.toNat) t
        | some dst =>
          let id := (s.tile t).nextId
          let s := advance (enqueue s t .sync [] [] none) t
          sendReq s (syncReq s dst (if setOp then 2 else 1) c w.arg2.toNat (.tileSync t id))

/-- SC_ADD. -/
def execScAdd (t : TileId) (w : TWord) (s : State) : Res := onTile t 4 1 w s fun s => tileSync s t w false
/-- SC_SET. -/
def execScSet (t : TileId) (w : TWord) (s : State) : Res := onTile t 4 2 w s fun s => tileSync s t w true

/-- SC_WAIT: no later instruction is dispatched until the own counter is at least ARG2. -/
def execScWait (t : TileId) (w : TWord) (s : State) : Res := onTile t 4 3 w s fun s =>
  let c := w.arg0.toNat
  if 16384 ≤ c then refuseHere s t 0x8639
  else if w.arg2.toNat ≤ s.syncVal c then advance s t
  else if (s.tile t).mustWait .sync [] [] then s
  else
    let s := (advance (enqueue s t .sync [] [] none) t).modTile t (fun x => { x with wait := some (c, w.arg2) })
    addWait s (.tile t) c w.arg2.toNat

/-- FENCE waits until every earlier instruction has completed. -/
def execFence (t : TileId) (w : TWord) (s : State) : Res := onTile t 4 4 w s fun s =>
  if (s.tile t).inflight.isEmpty then advance s t else s

/-- A waiter goes on: a tile's sequencer dispatches again, a core's program runs on, a SYNC_WAIT completes; a
collective whose START_CNT it was may start. -/
def endWait (s : State) (k : Wait) : State :=
  let s := dropWait s k.who
  match k.who with
  | .tile t =>
    let s := s.modTile t (fun x => { x with wait := none })
    match (s.tile t).inflight.reverse.find? (fun e => e.unit == .sync) with
    | some e => retireEntry s t e.id
    | none => s
  | .core c => s.modCore c.toNat (fun x => { x with scWait := none })
  | .host c => if (s.outCmd c).any (fun o => o.opcode == 0x45) then finish s c 0 (s.syncVal k.counter) else s

/-- A pending wait of a kind whose counter has reached its value ends (R435). -/
def tryWait (s : State) (who : Waiter) (polled : Bool) : State :=
  match s.waitOf who with
  | none => s
  | some k => if k.polled == polled && k.value.toNat ≤ s.syncVal k.counter then endWait s k else s

/-- A wait of the wait table is satisfied. -/
def execScWaitSatisfied (w : Waiter) (s : State) : Res := powered s fun s => tryWait s w false

/-- A wait outside the table polls its counter. -/
def execWaitPoll (w : Waiter) (s : State) : Res := powered s fun s => tryWait s w true

/-! ## Flag instructions (R117, R126) -/

/-- FLAGRD: S[SA] ← a flag record, as the earlier instructions leave it. -/
def execFlagRd (t : TileId) (w : TWord) (s : State) : Res := onTile t 5 1 w s fun s =>
  if 2 ≤ w.arg0.toNat then refuseHere s t 0x8630
  else
    let r := s.reg (tileRegs t + (if w.arg0 = 0 then 0x20 else 0x24))
    advance (s.modTile t (fun x => x.setS w.sa (BitVec.ofNat 64 r))) t

/-- FLAGCLR clears the records that ARG0 selects. -/
def execFlagClr (t : TileId) (w : TWord) (s : State) : Res := onTile t 5 2 w s fun s =>
  if 4 ≤ w.arg0.toNat then refuseHere s t 0x8630 else advance (clearFlags s t w.arg0.toNat) t

/-! ## Zeroing (R110) -/

/-- Start zeroing a tile's store. -/
def startZeroing (s : State) (t : TileId) : State := s.modTile t (fun x => { x with zeroing := true })

/-- Zeroing ends after 4,096 tile clocks: the store is zero and no line is poisoned. -/
def execTileZeroingDone (t : TileId) (s : State) : Res := powered s fun s =>
  if !(s.tile t).zeroing then s
  else s.modTile t (fun x => { x with zeroing := false, store := [], poison := [], latent := [], used := false })

end Sys2Proof.Machine
end

