-- ==== Sys2Proof/Machine/WardStore.lean ====
section
/-! DEFINITION. The layout of a checkpoint store and the coded records that fill it (Tables 14.4, 14.5 and
14.7, R473, R474, R483, R484). -/

namespace Sys2Proof.Machine

/-- The digest-list size of a durable range of D bytes (R473). -/
def listBytes (d : Nat) : Nat := roundUp ((d + 4095) / 4096) 0x200000

/-- Offset of slot j in a store. -/
def slotOff (d j : Nat) : Nat := 0x200000 + j * (d + listBytes d + 0x200000)
/-- Offset of a granule's image in a slot, from its place in the durable range. -/
def imageOff (d j rel : Nat) : Nat := slotOff d j + 0x200000 + rel
/-- Offset of a granule's digest-list entry. -/
def entryOff (d j rel : Nat) : Nat := slotOff d j + 0x200000 + d + rel / 65536 * 16
/-- Offset of the counter block of a slot. -/
def counterOff (d j : Nat) : Nat := slotOff d j + 0x10000

/-- A digest-list entry (R474). -/
def granuleDigest (bs : List Byte) : List Byte := (shake256 bs).take 16

/-- Decode LZ tokens (R484): none when corrupt. `out` is in reverse. -/
def lzDecode : Nat → List Byte → List Byte → Option (List Byte)
  | 0, _, _ => none
  | _ + 1, [], out => if out.length = 8192 then some out.reverse else none
  | f + 1, t :: s, out =>
    if t.toNat < 0x80 then
      if s.length < t.toNat + 1 then none else lzDecode f (s.drop (t.toNat + 1)) ((s.take (t.toNat + 1)).reverse ++ out)
    else
      match s with
      | a :: b :: s' =>
        let n := t.toNat % 128 + 3
        let o := a.toNat + 256 * b.toNat
        if o = 0 || out.length < o then none
        else lzDecode f s' ((List.range n).foldl (fun acc _ => acc.getD (o - 1) 0 :: acc) out)
      | _ => none

/-- Cut the body into its planes and decode them. -/
def planesOf : List Nat → List Byte → Option (List (List Byte))
  | [], _ => some []
  | n :: r, body =>
    let seg := body.take n
    match (if n = 8192 then (if seg.length = 8192 then some seg else none) else lzDecode (n + 1) seg []) with
    | none => none
    | some p => (planesOf r (body.drop n)).map (fun ps => p :: ps)

/-- Undo the delta of the plane codec. -/
def undoDelta : Nat → List Nat → List Byte
  | _, [] => []
  | w, d :: r => leBytes 8 (w ^^^ d) ++ undoDelta (w ^^^ d) r

/-- Decode a record's body (R484): the 65,536 raw bytes, or none when the record is corrupt. -/
def decodeRecord (r : List Byte) : Option (List Byte) :=
  let codec := fieldLE r 0xC 1
  let body := r.drop 32
  if codec = 0 then (if 65536 ≤ body.length then some (body.take 65536) else none)
  else if codec = 1 then
    match planesOf ((List.range 8).map (fun b => fieldLE r (0x10 + 2 * b) 2)) body with
    | none => none
    | some ps =>
      let words := (List.range 8192).map (fun i => leNat (ps.map (fun p => p.getD i 0)))
      some (undoDelta 0 words)
  else none

/-- The record of a raw granule: header and body under CODEC 0, padded to 128 bytes (Table 14.7; log 20). -/
def rawRecord (va gen : Nat) (bs : List Byte) : List Byte :=
  leBytes 8 va ++ leBytes 4 gen ++ leBytes 1 0 ++ zeroBytes 3 ++ zeroBytes 16 ++ bs ++ zeroBytes 96

/-- Where a decoded record belongs in the ward's store: its place and its digest-list place, by offset. -/
def recordPlace (vbase d : Nat) (r : List Byte) : Option (Nat × Option Nat) :=
  let va := fieldLE r 0 8
  let j := fieldLE r 8 4 % 2
  if va = 0xFFFFFFFFFFFF0000 then some (counterOff d j, none)
  else if va = 0xFFFFFFFFFFFF0001 then some (counterOff d j + 0x10000, none)
  else if vbase ≤ va && va + 65536 ≤ vbase + d && va % 65536 = 0 then some (imageOff d j (va - vbase), some (entryOff d j (va - vbase)))
  else none

/-- Carry a granule of the ward that was not received and whose entries differ from the other slot (R479). -/
def carryGranule (s : State) (base d j rel : Nat) : State :=
  match readVA s agentFabric (base + entryOff d j rel) 16, readVA s agentFabric (base + entryOff d (1 - j) rel) 16 with
  | (_, 0, a), (_, 0, b) =>
    if s.ckpt.wardGot.contains (rel / 65536) || a == b then s
    else match readVA s agentFabric (base + imageOff d (1 - j) rel) 65536 with
      | (s, 0, bs) =>
        let s := (writeVA s agentFabric (base + imageOff d j rel) bs).1
        (writeVA s agentFabric (base + entryOff d j rel) b).1
      | (s, _, _) => s
  | _, _ => s

/-- A slot of the ward store holds a manifest of the ward; before one does there is nothing to carry from it (R479, R482). -/
def State.wardSealed (s : State) (base d j ward : Nat) : Bool :=
  match readVA s agentFabric (base + slotOff d j) 0x28 with
  | (_, 0, m) => slice m 0 8 == ckptMagic && fieldLE m 0x24 4 = ward
  | _ => false

/-- The holder's part of step 5: every granule of the ward is carried where needed, and the next generation starts afresh. -/
def carryWard (s : State) (base d j ward : Nat) : State :=
  let s := if s.wardSealed base d (1 - j) ward then (List.range (d / 65536)).foldl (fun s i => carryGranule s base d j (65536 * i)) s else s
  { s with ckpt := { s.ckpt with wardGot := [] } }

/-- An offset of the ward store at which coded records go: a granule's image or the counter block of a slot. -/
def State.wardRecordPlace (s : State) (off : Nat) : Bool :=
  match s.launchOf with
  | none => false
  | some l =>
    let d := l.ckpt.vbytes.toNat
    [0, 1].any (fun j => (imageOff d j 0 ≤ off && off < imageOff d j d) || (counterOff d j ≤ off && off < counterOff d j + 0x20000))

/-- Write bytes raw into the ward store. -/
def storePlain (s : State) (off : Nat) (bs : List Byte) : State :=
  match s.launchOf with
  | none => s
  | some l => (writeVA s agentFabric (l.ckpt.wardStore.toNat + off) bs).1

/-- Write one of the ward's records into its place in the ward store; a corrupt one is noted (R480, R483). With the
second counter record step 3 is over, and the holder carries (R479). -/
def storeRecord (s : State) (r : List Byte) : State :=
  match s.launchOf with
  | none => s
  | some l =>
    let base := l.ckpt.wardStore.toNat
    match decodeRecord r, recordPlace l.ckpt.vbase.toNat l.ckpt.vbytes.toNat r with
    | some bs, some (o, e) =>
      let s := (writeVA s agentFabric (base + o) bs).1
      match e with
      | none =>
        if fieldLE r 0 8 = 0xFFFFFFFFFFFF0001 then carryWard s base l.ckpt.vbytes.toNat (fieldLE r 8 4 % 2) l.ckpt.wardRank.toNat else s
      | some eo =>
        let s := (writeVA s agentFabric (base + eo) (granuleDigest bs)).1
        let got := natInsert s.ckpt.wardGot ((fieldLE r 0 8 - l.ckpt.vbase.toNat) / 65536)
        { s with ckpt := { s.ckpt with wardGot := got } }
    | _, _ => { s with ckpt := { s.ckpt with wardBad := true } }

end Sys2Proof.Machine
end

