-- ==== Sys2Proof/Machine/FabRecv.lean ====
section
/-! DEFINITION. The receiving side of Azmarlink: the checks of Table 11.6, sequence windows, requests,
atomics with combining and the replay cache, messages, bulk transfers, and responses at the sender (R367,
R373 to R382, R385 to R393, R397). -/

namespace Sys2Proof.Machine

/-! ## Windows (R378) -/

/-- The window of a source on a fabric die. -/
def State.rxSpace (s : State) (src : U16) (fd : Nat) : RxSpace :=
  (s.fab.rx.find? (fun x => x.src == src && x.fd == fd)).getD { src := src, fd := fd, below := 0, window := [], nacked := [] }

/-- Replace a window. -/
def setRx (s : State) (x : RxSpace) : State :=
  let rest := s.fab.rx.filter (fun y => !(y.src == x.src && y.fd == x.fd))
  { s with fab := { s.fab with rx := rest ++ [x] } }

/-- Where a SEQ lies against a window. -/
inductive SeqPlace where
  | applied
  | refused (st : Nat)
  | fresh (n : Nat)
  | beyond
  deriving DecidableEq, Repr

/-- Place a SEQ: below or in the window it is applied (or was refused), within 4,096 of BELOW it is fresh. -/
def RxSpace.place (x : RxSpace) (seq : U32) : SeqPlace :=
  let d := (seq - BitVec.ofNat 32 x.below).toNat
  if 2 ^ 31 ≤ d then
    match x.nacked.find? (fun e => e.1 % 2 ^ 32 == seq.toNat) with
    | some e => .refused e.2
    | none => .applied
  else if 4096 ≤ d then .beyond
  else
    match x.nacked.find? (fun e => e.1 == x.below + d) with
    | some e => .refused e.2
    | none => if x.window.contains (x.below + d) then .applied else .fresh (x.below + d)

/-- Move BELOW past the numbers that are done. -/
def slideBelow : Nat → Nat → List Nat → Nat × List Nat
  | 0, b, w => (b, w)
  | f + 1, b, w => if w.contains b then slideBelow f (b + 1) (natErase w b) else (b, w)

/-- A number is done: applied, or refused with a status that its resends receive again. -/
def RxSpace.mark (x : RxSpace) (n : Nat) (refused : Option Nat) : RxSpace :=
  let w := natInsert x.window n
  let r := slideBelow (w.length + 1) x.below w
  { x with below := r.1, window := r.2, nacked := match refused with
      | some st => (x.nacked ++ [(n, st)]).filter (fun e => r.1 ≤ e.1 + 4096)
      | none => x.nacked.filter (fun e => r.1 ≤ e.1 + 4096) }

/-- Mark a number of a source as done. -/
def markSeq (s : State) (src : U16) (fd n : Nat) (refused : Option Nat) : State := setRx s ((s.rxSpace src fd).mark n refused)

/-! ## Refusals -/

/-- Count a refusal by its reason (Table 11.9). -/
def countNack (s : State) (fd st : Nat) : State :=
  if 0x8310 ≤ st && st ≤ 0x831A then bump s (fabBase fd) (st - 0x8310) 1 else s

/-- Refuse a request with a NACK. -/
def refuse (s : State) (port : Nat) (h : PktHdr) (st : Nat) : State := nackReq (countNack s (port / 8) st) port h st

/-- Refuse a request that has used its number. -/
def refuseSeq (s : State) (port : Nat) (h : PktHdr) (st n : Nat) : State :=
  refuse (markSeq s h.srcId (port / 8) n (some st)) port h st

/-! ## The replay cache (R379) -/

/-- A SEQ lies below a RELEASED value. -/
def seqBelow (seq : Nat) (released : U32) : Bool :=
  let d := (released - BitVec.ofNat 32 seq).toNat
  0 < d && d < 2 ^ 31

/-- RELEASED of a packet: entries below it are released, and those at least 1 ms old are freed. -/
def noteReleased (s : State) (h : PktHdr) (fd : Nat) : State :=
  let mine (e : ReplayEntry) : Bool := e.src == h.srcId && e.fd == fd && seqBelow e.seq h.released
  let marked := s.fab.replay.map (fun e => if mine e then { e with released := true } else e)
  let kept := marked.filter (fun e => !(mine e && e.at_.toNat + 1000000 ≤ s.tim.now.toNat))
  { s with fab := { s.fab with replay := kept } }

/-- Entries of a fabric die's replay cache. -/
def State.replayUsed (s : State) (fd : Nat) : Nat := (s.fab.replay.filter (fun e => e.fd == fd)).length

/-! ## Checks (Table 11.6) -/

/-- Checks 7 and 8 for a page access. -/
def pageCheck (s : State) (va : Nat) (write : Bool) : Nat :=
  if 0x10000000000 ≤ va then 0x8314
  else match kvGet s.mem.xlt (va / 0x200000) with
    | none => 0x8314
    | some e =>
      if !entryBit e 0 then 0x8314
      else if write then (if entryBit e 1 && entryBit e 3 then 0 else 0x8315)
      else if entryBit e 2 then 0 else 0x8315

/-- Check 9 for READ and WRITE: whole lines, 1 to 8, within an aligned 1 KiB chunk (R370). -/
def lineCheck (h : PktHdr) : Nat :=
  let a := h.addr.toNat
  if a % 128 != 0 || h.lines = 0 || 8 < h.lines.toNat || 1024 < a % 1024 + 128 * h.lines.toNat then 0x8316 else 0

/-- The first of two check results. -/
def orElseStatus (a b : Nat) : Nat := if a != 0 then a else b

/-- Checks 3 to 5: job tag, epoch and member. -/
def jobCheck (s : State) (h : PktHdr) : Nat :=
  match s.job with
  | none => 0x8310
  | some j => if j.tag != h.jobTag then 0x8310 else if j.epoch != h.epoch then 0x8311
    else if !j.members.contains h.srcId then 0x8312 else 0

/-! ## Messages in their SEQ order (R390, R391) -/

/-- Acknowledge a request whose number is done. -/
def ackDone (s : State) (port : Nat) (h : PktHdr) (n : Nat) : State :=
  respond (markSeq s h.srcId (port / 8) n none) port .ack h [] []

/-- A receive takes a message: as many bytes as its buffer holds, with the completion of R390. -/
def takeMessage (s : State) (r : Recv) (src : U16) (payload : List Byte) : State :=
  match writeVA s agentHost r.buf.toNat (payload.take r.bytes) with
  | (s, st) =>
    let st := if st != 0 then st else if r.bytes < payload.length then 0x0130 else 0
    finish s r.cmd st (payload.length + (s.rankOf src.toNat).getD 0 * 0x10000)

/-- A posted receive matches a tag. -/
def Recv.matches (r : Recv) (queue : Nat) (tag : U64) : Bool := r.queue == queue && (tag &&& r.mask) == (r.tag &&& r.mask)

/-- Bytes of the unexpected store in use. -/
def State.unexpUsed (s : State) : Nat := (s.fab.unexpected.map (fun u => u.payload.length)).sum

/-- Deliver a message in its SEQ order: to the first matching receive, into the unexpected store, or busy. -/
def deliver (s : State) (port : Nat) (h : PktHdr) (payload : List Byte) (n : Nat) : State :=
  let q := h.op.toNat
  match s.fab.recvs.find? (fun r => r.matches q h.addr) with
  | some r =>
    let s := { s with fab := { s.fab with recvs := dropFirst (fun x => x == r) s.fab.recvs } }
    ackDone (takeMessage s r h.srcId payload) port h n
  | none =>
    if s.unexpUsed + payload.length ≤ 0x100000 then
      let u := s.fab.unexpected ++ [{ queue := q, tag := h.addr, src := h.srcId, payload := payload }]
      ackDone { s with fab := { s.fab with unexpected := u } } port h n
    else nackReq { s with fab := { s.fab with unexpFull := true } } port h 0x831B

/-- Messages held for their SEQ order that can be delivered now. -/
def pumpEarly : Nat → State → U16 → Nat → State
  | 0, s, _, _ => s
  | f + 1, s, src, fd =>
    let x := s.rxSpace src fd
    match s.fab.earlyMsgs.find? (fun e => e.1 / 8 == fd && e.2.1.srcId == src && e.2.1.seq == BitVec.ofNat 32 x.below) with
    | none => s
    | some e =>
      let s := { s with fab := { s.fab with earlyMsgs := dropFirst (fun y => y == e) s.fab.earlyMsgs } }
      pumpEarly f (deliver s e.1 e.2.1 e.2.2 x.below) src fd

/-- Deliver the messages of a source that waited for the numbers now done. -/
def pumpFrom (s : State) (src : U16) (fd : Nat) : State := pumpEarly s.fab.earlyMsgs.length s src fd

/-! ## A request -/

/-- A request that has reached its port: counted, checked in the order of Table 11.6, and then refused,
answered as a duplicate, or applied with its number. -/
def request (s : State) (port : Nat) (h : PktHdr) (payload : Nat) (memsem : Bool) (checks : State → Nat)
    (dup : State → State) (apply : State → Nat → State) : State :=
  let fd := port / 8
  let s := bump s (portBase port) 1 (40 + payload)
  if h.dstId.toNat != s.fabId || !h.crcOk then bump s (fabBase fd) 11 1
  else if jobCheck s h != 0 then refuse s port h (jobCheck s h)
  else
    let s := noteReleased s h fd
    let st := if memsem && crewOf h.srcId.toNat != crewOf s.fabId then 0x8313 else checks s
    match (s.rxSpace h.srcId fd).place h.seq with
    | .fresh n => pumpFrom (if st != 0 then refuseSeq s port h st n else apply s n) h.srcId fd
    | .beyond => refuse s port h (if st != 0 then st else 0x8319)
    | .refused r => nackReq s port h (if st != 0 then st else r)
    | .applied => if st != 0 then refuse s port h st else dup (bump s (fabBase fd) 12 1)

/-- A request that must wait for this package's stacks (R490, R527): the command has no effect yet (log 1). -/
def waitsForStack (s : State) (va n : Nat) : Bool := s.holding || s.rangeHeld va n

/-! ## Atomics (R379, R381, R382, R386 to R389) -/

/-- The new value of a word (Table 11.7). -/
def atomicNew (op : Nat) (word operand compare : U64) : U64 :=
  match op with
  | 1 => word + operand
  | 2 => BitVec.ofNat 64 (fp64.pack (Fp.add (fp64.decode word.toNat) (fp64.decode operand.toNat)))
  | 3 => operand
  | 4 => if word = compare then operand else word
  | 5 => if word.toInt ≤ operand.toInt then word else operand
  | 6 => if operand.toInt ≤ word.toInt then word else operand
  | 7 => if word ≤ operand then word else operand
  | _ => if operand ≤ word then word else operand

/-- The physical address of a word of a mapped page. -/
def wordAddr (s : State) (va : Nat) : Nat := match resolve s va false with | .ok (.stack pa) => pa | _ => 0

/-- Apply one atomic to a word that may be read: the prior value. -/
def applyAtomic (s : State) (pa op : Nat) (operand compare : U64) : State × U64 :=
  match readLine s pa 8 with
  | (s, bs, _) =>
    let old : U64 := BitVec.ofNat 64 (leNat bs)
    let s := writeLine s pa (leBytes 8 (atomicNew op old operand compare).toNat)
    (if op = 2 then countNondet s 2 else s, old)

/-- Keep an atomic's result and answer it. -/
def answerAtomic (s : State) (port : Nat) (h : PktHdr) (n : Nat) (prior : U64) : State :=
  let e : ReplayEntry := { src := h.srcId, fd := port / 8, seq := h.seq.toNat, prior := prior, at_ := s.tim.now, released := false }
  let s := { s with fab := { s.fab with replay := s.fab.replay ++ [e] } }
  respond (markSeq s h.srcId (port / 8) n none) port .atomicResp h (leBytes 8 prior.toNat) []

/-- A marked line refuses an atomic (R382). -/
def atomicMark (s : State) (va : Nat) : State × Option Nat :=
  let pa := wordAddr s va
  let s := senseLine s pa
  (s, (s.lineMark pa).map markStatus)

/-- The lines of a range hold an address. -/
def inLines (va n a : Nat) : Bool := va / 128 ≤ a / 128 && a / 128 < (va + n + 127) / 128

/-- An earlier atomic of the request's source on the lines of a range waits for the replay cache. -/
def State.atomicWaits (s : State) (h : PktHdr) (va n : Nat) : Bool :=
  s.fab.cacheWait.any (fun e => e.2.1.srcId == h.srcId && e.2.1.seq != h.seq && inLines va n e.2.1.addr.toNat)

/-- Let an atomic wait for the replay cache, once. -/
def waitForCache (s : State) (port : Nat) (h : PktHdr) (operand compare : U64) : State :=
  let fd := port / 8
  if s.fab.cacheWait.any (fun e => e.1 / 8 == fd && e.2.1.srcId == h.srcId && e.2.1.seq == h.seq) then s
  else
    let t := { s with fab := { s.fab with
      cacheWait := s.fab.cacheWait ++ [(port, h, operand, compare)], cacheFull := natInsert s.fab.cacheFull fd } }
    if s.fab.cacheFull.contains fd then t else raise t 0x4306 (srcFab fd) 0 0

/-- Take an atomic whose checks have passed: refused on a marked line, else applied, or left to wait. -/
def takeAtomic (s : State) (port : Nat) (h : PktHdr) (operand compare : U64) (n : Nat) (wait : Bool) : State :=
  match atomicMark s h.addr.toNat with
  | (s, some st) => refuseSeq s port h st n
  | (s, none) =>
    if wait then waitForCache s port h operand compare
    else
      match applyAtomic s (wordAddr s h.addr.toNat) h.op.toNat operand compare with
      | (s, old) => answerAtomic s port h n old

/-- Run an atomic whose checks have passed: it waits while the replay cache is full, or its source's earlier ones to the
line wait (R367, R379). -/
def runAtomic (s : State) (port : Nat) (h : PktHdr) (operand compare : U64) (n : Nat) : State :=
  takeAtomic s port h operand compare n (262144 ≤ s.replayUsed (port / 8) || s.atomicWaits h h.addr.toNat 8)

/-- An open set of the word and operation. -/
def State.openSet (s : State) (fd va op : Nat) : Option CombineSet := s.fab.sets.find? (fun c => c.fd == fd && c.word == va && c.op == op)

/-- Members of a set in the order of R387: source rank, then SEQ. -/
def orderSet (s : State) (l : List (U16 × U32 × U64 × Nat)) : List (U16 × U32 × U64 × Nat) :=
  let key (e : U16 × U32 × U64 × Nat) : Nat := (s.rankOf e.1.toNat).getD 0 * 2 ^ 32 + e.2.1.toNat
  l.foldl (fun acc e => acc.takeWhile (fun x => key x ≤ key e) ++ [e] ++ acc.dropWhile (fun x => key x ≤ key e)) []

/-- Apply a set of FADD or FADDF operations: the k-th member receives the word as those before it left it (R387, R388). -/
def applySet (s : State) (fd op va : Nat) (ops : List (U16 × U32 × U64 × Nat)) : State :=
  let s := if 1 < ops.length then bump s (fabBase fd) 14 ops.length else s
  let s := if op = 2 && 1 < ops.length then countNondet s 3 else s
  (orderSet s ops).foldl (fun s e =>
    let h := { ownHdr s 0 with srcId := e.1, seq := e.2.1, addr := BitVec.ofNat 64 va, op := BitVec.ofNat 8 op }
    match (s.rxSpace e.1 fd).place e.2.1 with
    | .fresh n => runAtomic s e.2.2.2 h e.2.2.1 0 n
    | _ => s) s

/-- Close a set: it is applied. -/
def closeSet (s : State) (c : CombineSet) : State :=
  let s := applySet { s with fab := { s.fab with sets := dropFirst (fun x => x == c) s.fab.sets } } c.fd c.op c.vaddr.toNat c.ops
  c.ops.foldl (fun s e => pumpFrom s e.1 c.fd) s

/-- COMBINE_DIS of a fabric die. -/
def State.combineOff (s : State) (fd : Nat) : Bool := s.regBit (fabBase fd + 8) 12

/-! ## The order of one source's requests to a line (R367) -/

/-- A combined set holds an earlier operation of the request's source on the lines of a range. -/
def CombineSet.before (c : CombineSet) (h : PktHdr) (va n : Nat) : Bool :=
  inLines va n c.vaddr.toNat && c.ops.any (fun x => x.1 == h.srcId && x.2.1 != h.seq)

/-- An earlier atomic of the request's source on the lines of a range is queued. -/
def State.queuedBefore (s : State) (h : PktHdr) (va n : Nat) : Bool :=
  s.fab.sets.any (fun c => c.before h va n) || s.atomicWaits h va n

/-- A request after its source's earlier ones to the lines of a range: the atomics unit takes the sets that hold such
operations, but one that the request joins; while one waits for the replay cache, so does the request (log 1). -/
def inOrder (s : State) (h : PktHdr) (va n : Nat) (joins : CombineSet → Bool) (f : State → State) : State :=
  let s := (s.fab.sets.filter (fun c => c.before h va n && !joins c)).foldl closeSet s
  if s.atomicWaits h va n then s else f s

/-! ## READ, WRITE, WRITE_MASKED, SC_OP -/

/-- Read lines of a request with their poison tags. -/
def readLines : Nat → Nat → State → List Byte → List Bool → State × List Byte × List Bool
  | 0, _, s, bs, ps => (s, bs, ps)
  | n + 1, va, s, bs, ps =>
    match resolve s va false with
    | .ok l =>
      match readLoc s l 128 with
      | (s, d, k) => readLines n (va + 128) s (bs ++ d) (ps ++ [k.isSome])
    | .error _ => readLines n (va + 128) s (bs ++ zeroBytes 128) (ps ++ [false])

/-- The read in progress that a one-line READ at its address joins: the same job tag, epoch and line, begun at most 2 µs ago. -/
def State.joinable (s : State) (fd : Nat) (h : PktHdr) (pa : Nat) : Option ReadEntry :=
  s.fab.reads.find? (fun e =>
    e.fd == fd && e.tag == h.jobTag && e.epoch == h.epoch && e.line == pa / 128 && s.tim.now.toNat ≤ e.at_.toNat + 2000)

/-- Serve a READ from the stacks (R375). One of one line is in progress until its data returns; it has an entry where
the combining table has room. -/
def readStack (s : State) (port : Nat) (h : PktHdr) (pa : Nat) : State :=
  let fd := port / 8
  match readLines h.lines.toNat h.addr.toNat s [] [] with
  | (s, bs, ps) =>
    let e : ReadEntry := { fd := fd, tag := h.jobTag, epoch := h.epoch, line := pa / 128, data := bs, poison := ps, at_ := s.tim.now }
    let live := s.fab.reads.filter (fun x => s.tim.now.toNat ≤ x.at_.toNat + 2000 && !(x.fd == fd && x.line == e.line))
    let s := if h.lines = 1 && !s.combineOff fd && s.combineUsed fd < 4096 then { s with fab := { s.fab with reads := live ++ [e] } } else s
    respond s port .readResp h bs ps

/-- Serve a READ: one of one line that finds an identical one in progress receives its data (R386). Whether the data of
that one has returned by now is a matter of timing. FREE CHOICE (log 6). -/
def serveRead (s : State) (port : Nat) (h : PktHdr) : State :=
  let fd := port / 8
  let pa := wordAddr s h.addr.toNat
  match (if h.lines = 1 && !s.combineOff fd then s.joinable fd h pa else none) with
  | none => readStack s port h pa
  | some e =>
    if s.drawBool.1 then respond (bump s.drawBool.2 (fabBase fd) 13 1) port .readResp h e.data e.poison
    else readStack s.drawBool.2 port h pa

/-- READ (R373, R375, R378). -/
def execRead (port : BitVec 4) (h : PktHdr) (s : State) : Res := powered s fun s =>
  if waitsForStack s h.addr.toNat (128 * h.lines.toNat) then s
  else inOrder s h h.addr.toNat (128 * h.lines.toNat) (fun _ => false) fun s => request s port.toNat h 0 true
    (fun s => orElseStatus (pageCheck s h.addr.toNat false) (lineCheck h))
    (fun s => serveRead s port.toNat h)
    (fun s n => serveRead (markSeq s h.srcId (port.toNat / 8) n none) port.toNat h)

/-- WRITE (R373, R376). -/
def execWrite (port : BitVec 4) (h : PktHdr) (data : List Byte) (s : State) : Res := powered s fun s =>
  if waitsForStack s h.addr.toNat (128 * h.lines.toNat) then s
  else inOrder s h h.addr.toNat (128 * h.lines.toNat) (fun _ => false) fun s => request s port.toNat h (128 * h.lines.toNat) true
    (fun s => orElseStatus (pageCheck s h.addr.toNat true) (lineCheck h))
    (fun s => respond s port.toNat .ack h [] [])
    (fun s n => ackDone (writeVA s agentFabric h.addr.toNat (padTo (128 * h.lines.toNat) data)).1 port.toNat h n)

/-- The runs of set bits of a byte mask: first byte and length. -/
def maskRuns : Nat → Nat → Nat → List (Nat × Nat)
  | 0, _, _ => []
  | f + 1, m, i =>
    if 128 ≤ i then []
    else if bitOf m i then
      let n := ((List.range (128 - i)).takeWhile (fun k => bitOf m (i + k))).length
      (i, n) :: maskRuns f m (i + n)
    else maskRuns f m (i + 1)

/-- WRITE_MASKED: the bytes of one line whose mask bit is set (Table 11.5). -/
def execWriteMasked (port : BitVec 4) (h : PktHdr) (mask : U16) (maskHi : BitVec 112) (data : List Byte) (s : State) : Res :=
  powered s fun s =>
  if waitsForStack s h.addr.toNat 128 then s
  else inOrder s h h.addr.toNat 128 (fun _ => false) fun s => request s port.toNat h 144 true
    (fun s => orElseStatus (pageCheck s h.addr.toNat true) (if h.addr.toNat % 128 != 0 then 0x8316 else 0))
    (fun s => respond s port.toNat .ack h [] [])
    (fun s n =>
      let runs := maskRuns 129 (mask.toNat + maskHi.toNat * 0x10000) 0
      ackDone (runs.foldl (fun s r => (writeVA s agentFabric (h.addr.toNat + r.1) (padTo r.2 (data.drop r.1))).1) s) port.toNat h n)

/-- SC_OP: a remote add or set of a sync counter (R436). -/
def execScOp (port : BitVec 4) (h : PktHdr) (value : U64) (s : State) : Res := powered s fun s =>
  request s port.toNat h 16 true
    (fun _ => if 16383 ≤ h.addr.toNat || !(h.op = 1 || h.op = 2) then 0x8317 else 0)
    (fun s => respond s port.toNat .ack h [] [])
    (fun s n => ackDone (applySync s (h.op == 2) h.addr.toNat value.toNat) port.toNat h n)

/-! ## Atomics -/

/-- Queue an operation in the set of its word, which closes at 64 members. -/
def joinSet (s : State) (port : Nat) (h : PktHdr) (operand : U64) : State :=
  let fd := port / 8
  let va := h.addr.toNat
  let op := h.op.toNat
  let e := (h.srcId, h.seq, operand, port)
  match s.openSet fd va op with
  | some c =>
    if c.ops.any (fun x => x.1 == h.srcId && x.2.1 == h.seq) then s
    else
      let c' := { c with ops := c.ops ++ [e] }
      let s := { s with fab := { s.fab with sets := updFirst (fun x => x == c) (fun _ => c') s.fab.sets } }
      if 64 ≤ c'.ops.length then closeSet s c' else s
  | none => { s with fab := { s.fab with sets := s.fab.sets ++ [{ fd := fd, word := va, op := op, vaddr := h.addr, ops := [e] }] } }

/-- An atomic that may be combined finds another one on its word applied or held; with no set open for the
word, whether one is being applied is a matter of timing. FREE CHOICE (log 6). -/
def wordBusy (s : State) (fd va : Nat) : Bool × State :=
  if s.fab.sets.any (fun c => c.fd == fd && c.word == va) then (true, s) else s.drawBool

/-- Checks 7 to 11 for an atomic. -/
def atomicChecks (h : PktHdr) (s : State) : Nat :=
  orElseStatus (pageCheck s h.addr.toNat true)
    (if h.addr.toNat % 8 != 0 || h.op = 0 || 8 < h.op.toNat then 0x8316 else if h.op = 2 && s.strict then 0x8318 else 0)

/-- A duplicate atomic is answered from the replay cache; one whose entry is freed with 0x831A (R378, R379). -/
def dupAtomic (s : State) (port : Nat) (h : PktHdr) : State :=
  match s.fab.replay.find? (fun e => e.src == h.srcId && e.fd == port / 8 && e.seq == h.seq.toNat) with
  | some e => respond s port .atomicResp h (leBytes 8 e.prior.toNat) []
  | none => refuse s port h 0x831A

/-- ATOMIC (R379, R381, R382, R387). -/
def execAtomic (port : BitVec 4) (h : PktHdr) (operand compare : U64) (s : State) : Res := powered s fun s =>
  let fd := port.toNat / 8
  let combines := h.combinable && (h.op = 1 || h.op = 2) && !s.combineOff fd
  let joins (c : CombineSet) : Bool := combines && c.fd == fd && c.word == h.addr.toNat && c.op == h.op.toNat
  if waitsForStack s h.addr.toNat 8 then s
  else inOrder s h h.addr.toNat 8 joins fun s =>
    request s port.toNat h 16 true (atomicChecks h) (fun s => dupAtomic s port.toNat h) (fun s n =>
    if combines then
      match wordBusy s fd h.addr.toNat with
      | (true, s) => joinSet s port.toNat h operand
      | (false, s) => runAtomic s port.toNat h operand compare n
    else runAtomic s port.toNat h operand compare n)

/-- A packet that a switch has combined: each constituent is checked, deduplicated and answered on its own,
and those to be applied form one set (R389). -/
def execCombined (port : BitVec 4) (h : PktHdr) (cs : List Constituent) (s : State) : Res := powered s fun s =>
  if waitsForStack s h.addr.toNat 8 then s
  else
    let p := port.toNat
    let fd := p / 8
    let s := bump s (portBase p) 1 (40 + 16 * cs.length)
    let s := cs.foldl (fun s c => inOrder s { h with srcId := c.srcId, seq := c.seq } h.addr.toNat 8 (fun _ => false) id) s
    if h.dstId.toNat != s.fabId || !h.crcOk then bump s (fabBase fd) 11 1
    else
      let step (a : State × List (U16 × U32 × U64 × Nat)) (c : Constituent) : State × List (U16 × U32 × U64 × Nat) :=
        let s := a.1
        let hc := { h with srcId := c.srcId, seq := c.seq }
        if jobCheck s hc != 0 then (refuse s p hc (jobCheck s hc), a.2)
        else
          let st := if crewOf c.srcId.toNat != crewOf s.fabId then 0x8313 else atomicChecks h s
          match (s.rxSpace c.srcId fd).place c.seq with
          | .fresh n => if st != 0 then (refuseSeq s p hc st n, a.2) else (s, a.2 ++ [(c.srcId, c.seq, c.operand, p)])
          | .beyond => (refuse s p hc (if st != 0 then st else 0x8319), a.2)
          | .refused r => (nackReq s p hc (if st != 0 then st else r), a.2)
          | .applied => if st != 0 then (refuse s p hc st, a.2) else (dupAtomic (bump s (fabBase fd) 12 1) p hc, a.2)
      match cs.foldl step (s, []) with
      | (s, ops) => cs.foldl (fun s c => pumpFrom s c.srcId fd) (applySet s fd h.op.toNat h.addr.toNat ops)

/-- The atomics unit takes the oldest set of a fabric die (R387). -/
def execCombineSetClose (fd : BitVec 1) (s : State) : Res := powered s fun s =>
  match s.fab.sets.find? (fun c => c.fd == fd.toNat) with
  | none => s
  | some c => if waitsForStack s c.vaddr.toNat 8 then s else closeSet s c

/-- Entries that are released and have been held for 1 ms are freed (R379). -/
def execReplayHoldExpiry (fd : BitVec 1) (s : State) : Res := powered s fun s =>
  let keep := s.fab.replay.filter (fun e => !(e.fd == fd.toNat && e.released && e.at_.toNat + 1000000 ≤ s.tim.now.toNat))
  { s with fab := { s.fab with replay := keep } }

/-- An atomic that waited for the replay cache goes on once an entry is free; the episode ends with the last (R379). -/
def execReplayCacheWaitRelease (fd : BitVec 1) (s : State) : Res := powered s fun s =>
  let m := fd.toNat
  let mine (e : Nat × PktHdr × U64 × U64) : Bool := e.1 / 8 == m
  let s := match s.fab.cacheWait.find? mine with
    | none => s
    | some (p, h, operand, compare) =>
      if 262144 ≤ s.replayUsed m || waitsForStack s h.addr.toNat 8 then s
      else
        let s := { s with fab := { s.fab with cacheWait := dropFirst mine s.fab.cacheWait } }
        match (s.rxSpace h.srcId m).place h.seq with
        | .fresh n => pumpFrom (takeAtomic s p h operand compare n false) h.srcId m
        | _ => s
  if s.fab.cacheWait.any mine || 262144 ≤ s.replayUsed m then s
  else { s with fab := { s.fab with cacheFull := natErase s.fab.cacheFull m } }

/-! ## Messages (R390, R391) -/

/-- MSG (R390, R391). -/
def execMsg (port : BitVec 4) (h : PktHdr) (payload : List Byte) (s : State) : Res := powered s fun s =>
  request s port.toNat h payload.length false (fun _ => 0)
    (fun s => respond s port.toNat .ack h [] [])
    (fun s n =>
      let fd := port.toNat / 8
      if n = (s.rxSpace h.srcId fd).below then deliver s port.toNat h payload n
      else if s.fab.earlyMsgs.any (fun e => e.1 / 8 == fd && e.2.1.srcId == h.srcId && e.2.1.seq == h.seq) then s
      else
        let held := s.fab.earlyMsgs ++ [(port.toNat, h, payload)]
        { s with fab := { s.fab with earlyMsgs := held } })

/-! ## Bulk transfers (R392, R393) -/

/-- Whether a BULK packet comes from the ward with the checkpoint key (R472). -/
def State.fromWard (s : State) (src : U16) : Bool :=
  match s.launchOf with
  | some l => l.plan.ckptEn && s.memberId l.ckpt.wardRank.toNat == some src.toNat
  | none => false

/-- The registered range of a key. -/
def State.bulkRange (s : State) (key : Nat) : Option (Nat × Nat) :=
  (s.fab.bulkRegs.find? (fun e => e.1 == key)).map (fun e => (e.2.1.toNat, e.2.2.toNat))

/-- Key, range and counter of a BULK packet (R392); a range whose page refuses the write, or that lies in a window which
other members never reach (R373), fails as check 7 (log 27). -/
def bulkCheck (h : PktHdr) (pre : BulkPre) (s : State) : Nat :=
  let key := h.addr.toNat / 2 ^ 48
  let off := h.addr.toNat % 2 ^ 48
  let n := 128 * h.lines.toNat
  let cnt := if pre.counter = 16383 || (16384 ≤ pre.counter.toNat && pre.counter != 0xFFFF) then 0x8317 else 0
  if key = 0xFFFF then (if s.fromWard h.srcId then cnt else 0x831D)
  else match s.bulkRange key with
    | none => 0x831D
    | some (a, len) =>
      if len < off + n then 0x831D
      else if cnt != 0 then cnt
      else if (piecesOf (a + off) n).any (fun p => match resolve s p.1 true with | .ok (.stack _) => false | _ => true) then 0x8314
      else 0

/-- Count the lines of a transfer; with the last, its completion counter rises by one (R393). -/
def countBulk (s : State) (src : U16) (pre : BulkPre) (lines : Nat) : State × Bool :=
  let mine (e : U16 × U32 × Nat) : Bool := e.1 == src && e.2.1 == pre.xferId
  let n := ((s.fab.bulkCount.find? mine).map (fun e => e.2.2)).getD 0 + lines
  let rest := s.fab.bulkCount.filter (fun e => !mine e)
  if pre.total.toNat ≤ n then
    let s := { s with fab := { s.fab with bulkCount := rest } }
    (if pre.counter = 0xFFFF then s else syncAdd s pre.counter.toNat 1, true)
  else
    let all := rest ++ [(src, pre.xferId, n)]
    ({ s with fab := { s.fab with bulkCount := all } }, false)

/-- Bytes of a transfer to the ward store arrive. Once whole, a transfer to the place of a granule or of the counter
block is a coded record, which is decoded there; any other is written as it is (R483; log 29). -/
def wardBytes (s : State) (h : PktHdr) (pre : BulkPre) (data : List Byte) : State :=
  let x := pre.xferId.toNat
  let off := h.addr.toNat % 2 ^ 48
  let old := kvGet s.fab.wardRecs x
  let low := match old with | some e => min e.1 off | none => off
  let m := Memory.write (match old with | some e => e.2 | none => []) off data
  match countBulk s h.srcId pre h.lines.toNat with
  | (s, false) => { s with fab := { s.fab with wardRecs := kvSet s.fab.wardRecs x (low, m) } }
  | (s, true) =>
    let s := { s with fab := { s.fab with wardRecs := kvErase s.fab.wardRecs x } }
    let bs := Memory.read m low (128 * pre.total.toNat)
    if s.wardRecordPlace low then storeRecord s bs else storePlain s low bs

/-- BULK (R392, R393). -/
def execBulk (port : BitVec 4) (h : PktHdr) (pre : BulkPre) (data : List Byte) (s : State) : Res := powered s fun s =>
  let key := h.addr.toNat / 2 ^ 48
  let bs := padTo (128 * h.lines.toNat) data
  let held := match s.bulkRange key with | some (a, _) => waitsForStack s (a + h.addr.toNat % 2 ^ 48) bs.length | none => s.holding
  let at_ := match s.bulkRange key with | some (a, _) => a + h.addr.toNat % 2 ^ 48 | none => 0
  if held then s
  else inOrder s h at_ (if key = 0xFFFF then 0 else bs.length) (fun _ => false) fun s =>
    request s port.toNat h (16 + bs.length) false (bulkCheck h pre)
    (fun s => respond s port.toNat .ack h [] [])
    (fun s n =>
      let s := if key = 0xFFFF then wardBytes s h pre bs
        else match s.bulkRange key with
          | some (a, _) => (countBulk (writeVA s agentFabric (a + h.addr.toNat % 2 ^ 48) bs).1 h.srcId pre h.lines.toNat).1
          | none => s
      ackDone s port.toNat h n)

/-- DRAIN: checks 1 to 5 only, answered once all before it has been delivered, as it has on arrival (R367, R373, R385). -/
def execDrain (port : BitVec 4) (h : PktHdr) (s : State) : Res := powered s fun s =>
  let p := port.toNat
  let s := bump s (portBase p) 1 40
  if h.dstId.toNat != s.fabId || !h.crcOk then bump s (fabBase (p / 8)) 11 1
  else if jobCheck s h != 0 then refuse s p h (jobCheck s h)
  else respond (noteReleased s h (p / 8)) p .drainReturn h [] []

/-! ## Responses -/

/-- A transfer of BULK_PUT: a line count is acknowledged, or the transfer ends with a NACK's status (R392, R393). -/
def bulkAnswer (s : State) (c : CmdCtx) (lines st : Nat) : State :=
  let mine (e : CmdCtx × U16 × U32 × Nat) : Bool := e.1 == c
  match s.fab.bulkPuts.find? mine with
  | none => s
  | some e =>
    let rest := dropFirst mine s.fab.bulkPuts
    if st != 0 || e.2.2.2 ≤ lines then
      let own (r : TxReq) : Bool := r.origin == .host c
      let tx := s.fab.tx.map (fun x => { x with queued := x.queued.filter (fun r => !own r) })
      let drains := s.fab.drains.map (fun x => { x with held := x.held.filter (fun r => !own r) })
      finish { s with fab := { s.fab with bulkPuts := rest, tx := tx, drains := drains } } c st 0
    else
      let all := rest ++ [(e.1, e.2.1, e.2.2.1, e.2.2.2 - lines)]
      { s with fab := { s.fab with bulkPuts := all } }

/-- A checkpoint packet has been answered with a NACK: a write to the primary store did not complete; or one to the buddy store as
secondary did not, which leaves it without a manifest, with 0x4704 (R480). -/
def ckptRefused (s : State) : State :=
  let j := (s.ckpt.inProgress.getD s.ckpt.gen).toNat % 2
  let buddy := if s.ckpt.manifestDone then setAt s.ckpt.buddy j (fun x => { x with gen := none }) else s.ckpt.buddy
  let hostless := match s.launchOf with | some l => l.ckpt.hostStore = 0 || s.regBit (ckptBase + 4) 0 | none => true
  let primary := hostless || (s.ckpt.buddy.any (fun x => x.gen.isSome && x.gen != s.ckpt.inProgress) && !s.ckpt.reseeding)
  if primary then { s with ckpt := { s.ckpt with buddy := buddy, primaryOk := false } }
  else if s.ckpt.manifestDone then raise { s with ckpt := { s.ckpt with buddy := buddy } } 0x4704 srcPmc 0 0
  else { s with ckpt := { s.ckpt with secondaryBad := true } }

/-- The answer to a request reaches what it belongs to: status 0, or a NACK's. -/
def deliverAnswer (s : State) (r : TxReq) (st : Nat) (data : List Byte) (poison : List Bool) : State :=
  match r.origin with
  | .none => s
  | .tileDma t id i =>
    if st != 0 then refusePacket s t id i st
    else if r.typ = .read then landPacket s t id i data poison
    else match s.dmaEntry t id with
      | some (_, d) => answerPacket s t id d
      | none => s
  | .tileSync t id =>
    match (s.tile t).inflight.find? (fun e => e.id == id) with
    | none => s
    | some e => retireEntry (if st != 0 then stopScript s t st e.pc else s) t id
  | .host c => if r.typ = .bulk then bulkAnswer s c r.hdr.lines.toNat st else finish s c st 0
  | .core c =>
    match (s.core c.toNat).ack with
    | none => s
    | some pc =>
      let s := s.modCore c.toNat (fun x => { x with ack := none })
      if st != 0 then stopProgram s c.toNat st pc else s
  | .ckpt _ => if st != 0 then ckptRefused s else s
  | .coll g id =>
    let hit (k : CollRun) : Bool := k.desc.group == g && k.desc.collId == id
    let runs := updFirst hit (fun k => { k with refused := k.refused || st != 0 }) s.collEng.runs
    { s with collEng := { s.collEng with runs := runs } }

/-- A packet on VC1 arrives: one for another package, or whose CRC fails, is dropped; one of an old epoch is discarded and
counted (R397); with any other the destination is no longer unresponsive (R395). -/
def onResponse (s : State) (port : Nat) (h : PktHdr) (payload : Nat) (f : State → State) : State :=
  let s := bump s (portBase port) 1 (40 + payload)
  if h.dstId.toNat != s.fabId || !h.crcOk then s
  else if jobCheck s h = 0x8311 || jobCheck s h = 0x8310 then bump s (fabBase (port / 8)) 16 1
  else f { s with fab := { s.fab with unresponsive := s.fab.unresponsive.filter (fun d => d != h.srcId) } }

/-- A response of a kind arrives and answers its request; a duplicate of one already taken does nothing. -/
def response (s : State) (port : Nat) (h : PktHdr) (payload : Nat) (types : List PktType) (st : Nat)
    (data : List Byte) (poison : List Bool) : State :=
  onResponse s port h payload fun s =>
    match s.answered port h types with
    | none => s
    | some (x, r) => tryArrive (deliverAnswer (retireReq s x r) r st data poison)

/-- READ_RESP. -/
def execReadResp (port : BitVec 4) (h : PktHdr) (data : List Byte) (poison : List Bool) (s : State) : Res := powered s fun s =>
  response s port.toNat h data.length [.read] 0 data poison

/-- ACK. -/
def execAck (port : BitVec 4) (h : PktHdr) (s : State) : Res := powered s fun s =>
  response s port.toNat h 0 [.write, .writeMasked, .scOp, .msg, .bulk, .collData, .collCredit, .collCtrl] 0 [] []

/-- ATOMIC_RESP. -/
def execAtomicResp (port : BitVec 4) (h : PktHdr) (prior : U64) (s : State) : Res := powered s fun s =>
  response s port.toNat h 8 [.atomic] 0 (leBytes 8 prior.toNat) []

/-- A DRAIN has been answered: the first one sent on the port toward the destination, else the first toward it;
one sent for a path change ends its drain (R379, R385). -/
def drainAnswered (s : State) (dst : U16) (port : Nat) : State :=
  let here (e : U16 × Nat × Bool) : Bool := e.1 == dst && e.2.1 == port
  let found := match s.fab.drainsOut.find? here with
    | some e => some e
    | none => s.fab.drainsOut.find? (fun e => e.1 == dst)
  match found with
  | none => s
  | some e =>
    let s := { s with fab := { s.fab with drainsOut := dropFirst (fun x => x == e) s.fab.drainsOut } }
    if !e.2.2 then s
    else match s.fab.drains.find? (fun x => x.dst == dst && x.port == e.2.1) with
      | some x => releaseDrain s x
      | none => s

/-- A message that its receiver had no room for: resent without limit, with 0x4307 once (R391). -/
def noteBusy (s : State) (port : Nat) (h : PktHdr) : State :=
  if s.fab.msgBusy.contains (h.srcId, h.seq) then s
  else raise { s with fab := { s.fab with msgBusy := s.fab.msgBusy ++ [(h.srcId, h.seq)] } } 0x4307 (srcFab (port / 8)) 0 h.srcId.toNat

/-- NACK (R374, R379, R391): FAB_MSG_BUSY leaves a message to be resent; FAB_REPLAY_EXPIRED answers a late duplicate, whose
result is already held, and is counted; any other status completes the request, and the NACK of a DRAIN resolves it (R373). -/
def execNack (port : BitVec 4) (h : PktHdr) (status : U16) (s : State) : Res := powered s fun s =>
  let p := port.toNat
  onResponse s p h 8 fun s =>
    if status = 0x831A then bump s (fabBase (p / 8)) 10 1
    else match s.answered p h [.read, .write, .writeMasked, .atomic, .scOp, .msg, .bulk, .collData, .collCredit, .collCtrl] with
      | some (x, r) =>
        if status = 0x831B && r.typ = .msg then noteBusy s p h
        else tryArrive (deliverAnswer (retireReq s x r) r status.toNat [] [])
      | none => if h.seq = 0 then drainAnswered s h.srcId p else s

/-- DRAIN_RETURN (R379, R385). -/
def execDrainReturn (port : BitVec 4) (h : PktHdr) (s : State) : Res := powered s fun s =>
  onResponse s port.toNat h 0 fun s => drainAnswered s h.srcId port.toNat

end Sys2Proof.Machine
end

