-- ==== Sys2Proof/Machine/CollRun.lean ====
section
/-! DEFINITION. How an accepted collective runs: its blocks and chunks, the exchange of digests, counts, verdicts
and exponents, credits, the canonical tree, reduction slots and the endpoint path, and its end (R404, R406 to
R431). -/

namespace Sys2Proof.Machine

/-! ## Runs and what has arrived for them -/

/-- The key of a run. -/
def CollRun.is (r : CollRun) (g : Nat) (id : U32) : Bool := r.desc.group == g && r.desc.collId == id
/-- The outstanding run of a key. -/
def State.collRun (s : State) (g : Nat) (id : U32) : Option CollRun := s.collEng.runs.find? (fun r => r.is g id)
/-- Replace a run. -/
def setRun (s : State) (r : CollRun) : State :=
  let runs := updFirst (fun x => x.is r.desc.group r.desc.collId) (fun _ => r) s.collEng.runs
  { s with collEng := { s.collEng with runs := runs } }
/-- What has arrived for a key. -/
def State.collIn (s : State) (g : Nat) (id : U32) : CollIn :=
  (s.collEng.inbox.find? (fun x => x.group == g && x.id == id)).getD
    { group := g, id := id, digests := [], credits := [], pieces := [], counts := [], exps := [], verdicts := [], arrived := [],
      mismatch := false, lists := [], told := [] }
/-- Replace what has arrived for a key. -/
def setCollIn (s : State) (x : CollIn) : State :=
  let rest := s.collEng.inbox.filter (fun y => !(y.group == x.group && y.id == x.id))
  { s with collEng := { s.collEng with inbox := rest ++ [x] } }
/-- The runs of a batch, in entry order. -/
def State.batchRuns (s : State) (b : Nat) : List CollRun := s.collEng.runs.filter (fun r => r.batch == some b)
/-- Act on the run of a key. -/
def withRun (s : State) (g : Nat) (id : U32) (f : CollRun → State) : State := match s.collRun g id with | none => s | some r => f r

/-- Size of the group. -/
def CollRun.n (r : CollRun) : Nat := r.ranks.length
/-- A rank's group index (R401). -/
def CollRun.indexOf (r : CollRun) (rank : Nat) : Nat := r.ranks.findIdx (fun x => x == rank)
/-- The own group index. -/
def State.ownIndex (s : State) (r : CollRun) : Nat := r.indexOf s.rank
/-- Group indexes of the other members. -/
def State.others (s : State) (r : CollRun) : List Nat := (List.range r.n).filter (fun i => i != s.ownIndex r)
/-- The rank of a group index. -/
def CollRun.rankAt (r : CollRun) (i : Nat) : Nat := r.ranks.getD i 0
/-- The fabric identifier of a group index. -/
def State.idAt (s : State) (r : CollRun) (i : Nat) : U16 := s.members.getD (r.rankAt i) 0

/-- Crews in the hall order of Table 12.4: the group indexes of each, in the order given. -/
def State.crews (s : State) (r : CollRun) (order : List Nat) : List (List Nat) :=
  let crew (i : Nat) : Nat := crewOf (s.idAt r i).toNat
  (order.map crew).eraseDups.map (fun c => order.filter (fun i => crew i == c))
/-- Group indexes in fold order. -/
def State.hallOrder (s : State) (r : CollRun) : List Nat := (s.crews r (List.range r.n)).flatten

/-! ## Blocks and chunks (Table 12.1, R419) -/

/-- A count of a member: an own one, or one that has arrived. -/
def State.countOf (s : State) (r : CollRun) (q k : Nat) : Nat :=
  if q = s.ownIndex r then r.counts.getD k 0
  else match (s.collIn r.desc.group r.desc.collId).counts.find? (fun e => e.1 == r.rankAt q && e.2.1 == k) with
    | some e => e.2.2.toNat
    | none => 0

/-- The elements that member `q` gives member `m`: their offset in q's source, and their number. -/
def State.block (s : State) (r : CollRun) (q m : Nat) : Nat × Nat :=
  let c := r.desc.count
  let before (f : Nat → Nat) (k : Nat) : Nat := ((List.range k).map f).sum
  match r.desc.op with
  | 3 | 5 => (m * c, c)
  | 6 => (0, s.countOf r q 0)
  | 7 => (before (fun k => r.counts.getD k 0) m, r.counts.getD m 0)
  | 8 => (before (s.countOf r q) m, s.countOf r q m)
  | 10 => (0, 0)
  | _ => (0, c)

/-- Elements of a full chunk (R419). -/
def CollDesc.chunkElems (d : CollDesc) : Nat :=
  let log := (if d.chunkLog2 = 0 then 18 else d.chunkLog2) - (if d.esum then 4 else 0)
  max 1 (2 ^ log / d.elemBytes)
/-- Chunks of a block of elements. -/
def CollDesc.chunkCount (d : CollDesc) (elems : Nat) : Nat := (elems + d.chunkElems - 1) / d.chunkElems
/-- First element and number of elements of a chunk of a block. -/
def CollDesc.chunkSpan (d : CollDesc) (elems k : Nat) : Nat × Nat :=
  (k * d.chunkElems, min d.chunkElems (elems - k * d.chunkElems))

/-- Member `m` folds partials (R413): the root of a REDUCE, index 0 of an ALLREDUCE, every member for its own block or prefix. -/
def CollRun.foldsAt (r : CollRun) (m : Nat) : Bool :=
  match r.desc.op with | 1 => m == r.desc.root | 2 => m == 0 | 3 | 7 | 9 => true | _ => false
/-- The members whose partials `m` folds, in fold order (R412, R415). -/
def State.childrenOf (s : State) (r : CollRun) (m : Nat) : List Nat :=
  let order := s.hallOrder r
  if r.desc.op = 9 then
    let upTo := order.takeWhile (fun q => q != m)
    if r.desc.exclusive then upTo else upTo ++ [m]
  else order

/-- Where data that this member takes over whole comes from: the root of a BCAST, every member of a gather or an all-to-all. -/
def CollRun.sources (r : CollRun) : List Nat :=
  match r.desc.op with | 0 => [r.desc.root] | 4 | 5 | 6 | 8 => List.range r.n | _ => []
/-- The first result element of what member `q` gives this member. -/
def State.placeOf (s : State) (r : CollRun) (q : Nat) : Nat :=
  match r.desc.op with
  | 4 | 5 => q * r.desc.count
  | 6 => ((List.range q).map (fun i => s.countOf r i 0)).sum
  | 8 => ((List.range q).map (fun i => s.countOf r i (s.ownIndex r))).sum
  | _ => 0

/-- Number a piece of work of this member: the giving member and the chunk. -/
def workKey (q k : Nat) : Nat := q * 2 ^ 26 + k
/-- Chunks of a pair's block. -/
def State.chunksFor (s : State) (r : CollRun) (q m : Nat) : List Nat := List.range (r.desc.chunkCount (s.block r q m).2)

/-- What this member writes into DST: chunks taken over, chunks folded here, chunks of a result that index 0 folds. -/
def State.targets (s : State) (r : CollRun) : List Nat :=
  let own := s.ownIndex r
  if r.desc.reducing then
    if r.foldsAt own then (s.chunksFor r own own).map (workKey own)
    else if r.desc.op = 2 then (s.chunksFor r own own).map (workKey 0) else []
  else r.sources.flatMap (fun q => (s.chunksFor r q own).map (workKey q))

/-- What this member sends: the other member and the chunk. -/
def State.sendsOf (s : State) (r : CollRun) : List (Nat × Nat) :=
  let own := s.ownIndex r
  (s.others r).flatMap (fun m =>
    let gives := if r.desc.reducing then r.foldsAt m && (s.childrenOf r m).contains own else r.sources.contains own
    let result := r.desc.op == 2 && own == 0
    if gives || result then (s.chunksFor r own m).map (fun k => (m, k)) else [])

/-! ## Sending (R431) -/

/-- The bytes of a COLL_CTRL packet: its kind and contents (log 28). -/
def ctrlBytes (b : CollCtrlBody) : List Byte :=
  match b with
  | .digest d l => leBytes 1 0 ++ leBytes 8 d.toNat ++ leBytes 8 l.toNat
  | .mismatch => leBytes 1 1
  | .verdict st => leBytes 1 2 ++ leBytes 2 st.toNat
  | .counts k cs => leBytes 1 3 ++ leBytes 4 k ++ cs.flatMap (fun c => leBytes 8 c.toNat)
  | .exponents o es => leBytes 1 4 ++ leBytes 8 o.toNat ++ es.flatMap (fun e => leBytes 2 e.toNat)
  | .arrive => leBytes 1 5

/-- ADDR of a collective packet (R431). -/
def collAddr (g : Nat) (id : U32) (chunk : Nat) : Nat := g + id.toNat * 64 + chunk * 2 ^ 38

/-- Send a packet of a key to a rank; the answer says whether it was moved to another port (R424). -/
def sendRank (s : State) (g : Nat) (id : U32) (rank chunk : Nat) (typ : PktType) (lines : Nat) (data : List Byte) : State × Bool :=
  sendColl s (newReq s typ (s.members.getD rank 0) 0 lines (collAddr g id chunk) chunk data (.coll g id)) chunk

/-- Send a packet of a run to a group index. -/
def sendTo (s : State) (r : CollRun) (i chunk : Nat) (typ : PktType) (lines : Nat) (data : List Byte) : State :=
  (sendRank s r.desc.group r.desc.collId (r.rankAt i) chunk typ lines data).1

/-- Send a control packet to every other member of the group. -/
def sendCtrl (s : State) (r : CollRun) (b : CollCtrlBody) : State :=
  (s.others r).foldl (fun s i => sendTo s r i 0 .collCtrl 0 (ctrlBytes b)) s

/-- The digest of the agreeing fields (R404). -/
def CollDesc.digest (d : CollDesc) : U64 :=
  Config.collDigest (leNat (leBytes 1 d.op ++ leBytes 1 d.dtype ++ leBytes 1 d.redop ++ leBytes 1 (d.flags % 32) ++ leBytes 2 d.root ++
    leBytes 8 d.count ++ leBytes 1 d.chunkLog2 ++ leBytes 1 d.partsPerDie))

/-- The digest of a group's list of ranks (R401, log 28). -/
def listDigest (ranks : List Nat) : U64 := Config.collDigest (leNat (ranks.flatMap (leBytes 4)))

/-- The 16-byte chunk header: level, child index, element offset, digest (log 28). -/
def chunkHeader (level child offset : Nat) (d : U64) : List Byte := leBytes 1 level ++ leBytes 2 child ++ leBytes 5 offset ++ leBytes 8 d.toNat

/-- Levels of the canonical tree as chunk headers name them (Table 12.4, log 28). -/
def levelMember : Nat := 2
def levelCrew : Nat := 3
def levelResult : Nat := 4

/-- Cut a chunk's elements into packets of up to 8 lines: element offset and bytes. -/
def dataPackets (size : Nat) : Nat → Nat → List Byte → List (Nat × List Byte)
  | 0, _, _ => []
  | f + 1, o, bs =>
    let per := 1024 / size
    if bs.isEmpty then [] else (o, bs.take (per * size)) :: dataPackets size f (o + per) (bs.drop (per * size))

/-- Send a chunk's elements; a chunk of which a packet moved to another port is counted (R424). -/
def sendElems (s : State) (r : CollRun) (i chunk level child size offset : Nat) (bs : List Byte) : State :=
  let sent := (dataPackets size (bs.length + 1) offset bs).foldl (fun a p =>
    let b := sendRank a.1 r.desc.group r.desc.collId (r.rankAt i) chunk .collData ((p.2.length + 127) / 128)
      (chunkHeader level child p.1 r.desc.digest ++ p.2)
    (b.1, a.2 || b.2)) (s, false)
  let moved := if sent.2 then 1 else 0
  let s := bump sent.1 (collBase 0) 3 moved
  withRun s r.desc.group r.desc.collId fun x => setRun s { x with sentTo := x.sentTo ++ [(i, chunk)], rebalanced := x.rebalanced + moved }

/-- Record that a run fails, once, and tell the group (R404, R426, R428). -/
def failRun (s : State) (r : CollRun) (st : Nat) (say : Option CollCtrlBody) : State :=
  if r.fail != 0 then s
  else
    let r := { r with fail := st }
    let s := setRun s r
    match say with | some b => sendCtrl s r b | none => s

/-! ## The source -/

/-- Elements of the own source, of one part under TILE_SCOPE. -/
def State.sourceElems (s : State) (r : CollRun) : Nat :=
  match r.desc.op with
  | 0 => if s.ownIndex r = r.desc.root then r.desc.count else 0
  | 3 | 5 => r.n * r.desc.count
  | 6 => r.counts.getD 0 0
  | 7 | 8 => r.counts.sum
  | 10 => 0
  | _ => r.desc.count

/-- Parts of the own source: (d, t) in order under TILE_SCOPE, else one. -/
def CollDesc.partCount (d : CollDesc) : Nat := if d.tileScope then 4 * d.partsPerDie else 1
/-- Address of a part of the source (Table 12.2). -/
def CollDesc.partAddr (d : CollDesc) (i : Nat) : Nat := if d.tileScope then d.src + i * d.partStride else d.src

/-- Read the parts of the source in order: the bytes, or the status that ends the reads. -/
def readParts (d : CollDesc) (len : Nat) : List Nat → State → List Byte → State × Nat × List Byte
  | [], s, acc => (s, 0, acc)
  | i :: rest, s, acc =>
    match readVA s agentFabric (d.partAddr i) len with
    | (s, 0, bs) => readParts d len rest s (acc ++ bs)
    | (s, st, _) => (s, st, acc)

/-- The bits of an element of a part of the source. -/
def State.sourceBits (s : State) (r : CollRun) (part j : Nat) : Nat :=
  fieldLE r.source ((part * s.sourceElems r + j) * r.desc.elemBytes) r.desc.elemBytes

/-- The agreed exponent that this member contributes for an element (R417). -/
def State.ownExp (s : State) (r : CollRun) (j : Nat) : U16 :=
  ((List.range r.desc.partCount).map (fun p => encodeExp (leafExp (fp64.decode (s.sourceBits r p j))))).foldl maxExp 0x8000

/-- The agreed exponent of an element, once every member has given its own. -/
def State.elemTop (s : State) (r : CollRun) (j : Nat) : Option Int :=
  if !r.desc.esum then some 0
  else
    let got := (s.collIn r.desc.group r.desc.collId).exps
    let of (i : Nat) : Option U16 :=
      match got.find? (fun e => e.1 == r.rankAt i && e.2.1 ≤ j && j < e.2.1 + e.2.2.length) with
      | some e => e.2.2[j - e.2.1]?
      | none => none
    let xs := (s.others r).map of
    if xs.all Option.isSome then some (topOf (xs.foldl (fun a x => maxExp a (x.getD 0x8000)) (s.ownExp r j))) else none

/-- The tops of a span of elements of the operation's array, once all are known. -/
def State.tops (s : State) (r : CollRun) (first count : Nat) : Option (List Int) :=
  let xs := (List.range count).map (fun j => s.elemTop r (first + j))
  if xs.all Option.isSome then some (xs.map (fun x => x.getD 0)) else none

/-- The own partial of a span: the source's elements, or the fold of the tile parts by die and package (Table 12.4). -/
def State.ownPartial (s : State) (r : CollRun) (first : Nat) (tops : List Int) : List CElem :=
  let d := r.desc
  let part (p : Nat) : List CElem := tops.mapIdx (fun j t => d.leaf t (s.sourceBits r p (first + j)))
  if d.tileScope then
    d.foldAll ((List.range 4).map (fun n => d.foldAll ((List.range d.partsPerDie).map (fun t => part (n * d.partsPerDie + t)))))
  else part 0

/-- Partials travel as source elements, or under TILE_SCOPE and E_SUM in the folding format (R418, R421). -/
def CollDesc.rawPartials (d : CollDesc) : Bool := !d.esum && !d.tileScope
/-- Bytes of an element of a partial as it travels. -/
def CollDesc.partBytes (d : CollDesc) : Nat := if d.rawPartials then d.elemBytes else d.accBytes

/-! ## What has arrived of a chunk -/

/-- Bytes that have arrived from a child at a level for a span of elements, when all are there. -/
def CollIn.gather (x : CollIn) (level child first count size : Nat) : Option (List Byte) :=
  let got := (x.pieces.filter (fun p => p.1 == child && p.2.1 == level && first ≤ p.2.2.1 && p.2.2.1 < first + count)).map (fun p => p.2.2)
  let bs := (got.foldl byOffset []).flatMap Prod.snd
  if bs.length = count * size then some bs else none
where
  /-- Put a piece among others in rising element offset. -/
  byOffset (l : List (Nat × List Byte)) (p : Nat × List Byte) : List (Nat × List Byte) :=
    l.takeWhile (fun q => q.1 ≤ p.1) ++ p :: l.dropWhile (fun q => q.1 ≤ p.1)

/-- Keep an arrived piece behind those that came before it; one that is there already is not taken again. -/
def CollIn.addPiece (x : CollIn) (child level offset : Nat) (bs : List Byte) : CollIn :=
  let same (p : Nat × Nat × Nat × List Byte) : Bool := p.1 == child && p.2.1 == level && p.2.2.1 == offset
  if x.pieces.any same then x else { x with pieces := x.pieces ++ [(child, level, offset, bs)] }

/-- A child's partial of a span, when it is there. -/
def State.childPartial (s : State) (r : CollRun) (q first count : Nat) (tops : List Int) : Option (List CElem) :=
  let d := r.desc
  if q = s.ownIndex r then some (s.ownPartial r ((s.block r q (s.ownIndex r)).1 + first) tops)
  else (((s.collIn d.group d.collId).gather levelMember q first count d.partBytes).map (fun bs =>
    (elemsOf d.partBytes bs count).map (fun v => if d.rawPartials then d.leaf 0 v else d.decodePart v)))

/-- Every element of a list, when all are there. -/
def allOf {α : Type} : List (Option α) → Option (List α)
  | [] => some []
  | none :: _ => none
  | some a :: r => (allOf r).map (fun l => a :: l)

/-- The order in which a chunk's children are folded: that of Table 12.4, or under ARRIVAL_ORDER the own partial first
and then the others as they began to arrive (R416). -/
def State.foldOrder (s : State) (r : CollRun) (k : Nat) : List Nat :=
  let own := s.ownIndex r
  let children := s.childrenOf r own
  if r.desc.arrivalOrder then
    let span := r.desc.chunkSpan (s.block r own own).2 k
    let seen := ((s.collIn r.desc.group r.desc.collId).pieces.filter (fun p => span.1 ≤ p.2.2.1 && p.2.2.1 < span.1 + span.2)).map Prod.fst
    (own :: (seen ++ children).eraseDups.filter (fun q => q != own)).filter (fun q => children.contains q)
  else children

/-- The partial of a crew: as it arrived, or folded from its members. -/
def State.crewPartial (s : State) (r : CollRun) (c : Nat) (crew : List Nat) (first count : Nat) (tops : List Int) : Option (List CElem) :=
  let d := r.desc
  match (s.collIn d.group d.collId).gather levelCrew c first count d.accBytes with
  | some bs => some ((elemsOf d.accBytes bs count).map d.decodePart)
  | none => (allOf (crew.map (fun q => s.childPartial r q first count tops))).map d.foldAll

/-- The folded elements of a chunk, when every child's partial is there (R412, R415). -/
def State.foldChunk (s : State) (r : CollRun) (k : Nat) : Option (List CResult) :=
  let d := r.desc
  let own := s.ownIndex r
  let base := (s.block r own own).1
  let span := d.chunkSpan (s.block r own own).2 k
  match s.tops r (base + span.1) span.2 with
  | none => none
  | some ts =>
    let crews := s.crews r (s.foldOrder r k)
    match allOf (crews.mapIdx (fun c crew => s.crewPartial r c crew span.1 span.2 ts)) with
    | none => none
    | some ps =>
      let vs := if ps.isEmpty then ts.map (fun _ => d.identity) else d.foldAll ps
      some (List.zipWith d.finishElem ts vs)

/-! ## Reduction slots and the endpoint path (R422, R423) -/

/-- Slots that a chunk claims. -/
def CollDesc.slotsFor (d : CollDesc) (elems : Nat) : Nat := (elems * d.accBytes + 4095) / 4096
/-- Slots in use on a fabric die. -/
def State.slotsIn (s : State) (m : Nat) : Nat := s.collEng.slots.getD m 0

/-- Claim the slots of a chunk's fold: of FD(k mod 2), else of the other die, else the chunk takes the endpoint path. -/
def claimSlots (s : State) (r : CollRun) (k : Nat) : State :=
  if r.claims.any (fun c => c.1 == k) then s
  else
    let own := s.ownIndex r
    let n := r.desc.slotsFor (r.desc.chunkSpan (s.block r own own).2 k).2
    let room (m : Nat) : Bool := s.slotsIn m + n ≤ 512
    match [k % 2, 1 - k % 2].find? room with
    | some m =>
      let slots := setAt s.collEng.slots m (fun x => x + n)
      let s := bump { s with collEng := { s.collEng with slots := slots } } (collBase m) 1 1
      setRun s { r with claims := r.claims ++ [(k, some m, n)], chunks := r.chunks + 1 }
    | none =>
      let first := !s.collEng.dry
      let s := bump { s with collEng := { s.collEng with dry := true } } (collBase (k % 2)) 2 1
      let s := if first then raise (bump s (collBase 0) 7 1) 0x4401 (srcFab (k % 2)) 0 0 else s
      setRun s { r with claims := r.claims ++ [(k, none, 0)], chunks := r.chunks + 1, endpoint := r.endpoint + 1 }

/-- Release the slots of a claim. -/
def freeClaim (s : State) (c : Nat × Option Nat × Nat) : State :=
  match c.2.1 with
  | none => s
  | some m =>
    let slots := setAt s.collEng.slots m (fun x => x - c.2.2)
    { s with collEng := { s.collEng with slots := slots, dry := false } }

/-! ## Steps of a run -/

/-- The ranks of a group (R401). -/
def State.groupRanks (s : State) (g : Nat) : Option (List Nat) :=
  if g = 0 then some (List.range s.members.length) else kvGet s.collEng.groups g

/-- Ranks that have sent a list of the group other than this one. -/
def CollIn.differing (x : CollIn) (ranks : List Nat) : List Nat := (x.lists.filter (fun e => e.2 != listDigest ranks)).map Prod.fst

/-- Every sender whose list of the group differs from the own one is told so, once: its collective ends with 0x8407 as the own one
does (R401). -/
def listStep (s : State) (g : Nat) (id : U32) : State :=
  let ranks := match s.collRun g id with | some r => some r.ranks | none => s.groupRanks g
  match ranks with
  | none => s
  | some ranks =>
    let x := s.collIn g id
    let due := (x.differing ranks).filter (fun k => !x.told.contains k)
    if due.isEmpty then s
    else due.foldl (fun s k => (sendRank s g id k 0 .collCtrl 0 (ctrlBytes (.verdict 0x8407))).1) (setCollIn s { x with told := x.told ++ due })

/-- Failures that other members' packets show: a difference of the lists, of the digests, or a verdict (R401, R404, R426). -/
def failStep (s : State) (g : Nat) (id : U32) : State := withRun s g id fun r =>
  let x := s.collIn g id
  let senders := x.digests.map Prod.fst ++ x.credits.map Prod.fst ++ x.verdicts.map Prod.fst ++ x.arrived
  let count := [0, 0x140, 0x8402, 0x8403, 0x8404]
  let said := x.verdicts.filter (fun v => v.2 != 0 && !count.contains v.2.toNat)
  let s := if x.verdicts.any (fun v => v.2 == 0x140) then setRun s { r with warned := true } else s
  withRun s g id fun r =>
  if r.fail != 0 then s
  else if !(x.differing r.ranks).isEmpty || senders.any (fun k => !r.ranks.contains k) then failRun s r 0x8407 (some (.verdict 0x8407))
  else if x.mismatch then failRun s r 0x8406 none
  else if r.started && x.digests.any (fun e => e.2 != r.desc.digest) then failRun s r 0x8406 (some .mismatch)
  else match said with
    | v :: _ => failRun s r v.2.toNat none
    | [] => s

/-- A member's digest agrees, so that it has started. -/
def State.agreed (s : State) (r : CollRun) (i : Nat) : Bool :=
  (s.collIn r.desc.group r.desc.collId).digests.any (fun e => e.1 == r.rankAt i && e.2 == r.desc.digest)

/-- The counts that this member needs have all arrived (R425). -/
def State.countsIn (s : State) (r : CollRun) : Bool :=
  let got := (s.collIn r.desc.group r.desc.collId).counts
  let have_ (i k : Nat) : Bool := got.any (fun e => e.1 == r.rankAt i && e.2.1 == k)
  (s.others r).all (fun i =>
    match r.desc.op with
    | 6 => have_ i 0
    | 8 => have_ i (s.ownIndex r)
    | _ => (List.range r.n).all (have_ i))

/-- The counts that RECV_COUNTS receives (R425). -/
def State.recvCounts (s : State) (r : CollRun) : List Nat :=
  match r.desc.op with
  | 6 => (List.range r.n).map (fun i => s.countOf r i 0)
  | 8 => (List.range r.n).map (fun i => s.countOf r i (s.ownIndex r))
  | _ => r.counts

/-- Elements that this member receives (R426). -/
def State.received (s : State) (r : CollRun) : Nat := if r.desc.op = 7 then r.counts.getD (s.ownIndex r) 0 else (s.recvCounts r).sum

/-- A range lies within one range that the own member has registered (R405). -/
def State.registered (s : State) (a n : Nat) : Bool :=
  s.fab.bulkRegs.any (fun e => e.1 != 0xFFFF && e.2.1.toNat ≤ a && a + n ≤ e.2.1.toNat + e.2.2.toNat)

/-- The own count check: the most severe failure, or 0 (R426). -/
def State.countFault (s : State) (r : CollRun) : Nat :=
  let d := r.desc
  let differ := d.op = 7 && (s.others r).any (fun i => (List.range r.n).any (fun k => s.countOf r i k != r.counts.getD k 0))
  let len := s.sourceElems r * d.elemBytes
  if d.dstBytes < s.received r * d.outBytes then 0x8403
  else if differ then 0x8404
  else if len != 0 && !s.registered d.src len then 0x8402
  else 0

/-- Begin to move data: the source is read (R408); a source that cannot be read ends the collective on every member. -/
def beginMoving (s : State) (g : Nat) (id : U32) : State := withRun s g id fun r =>
  let d := r.desc
  match readParts d (s.sourceElems r * d.elemBytes) (List.range d.partCount) s [] with
  | (s, 0, bs) =>
    let r := { r with source := bs, moving := true }
    let s := setRun s r
    if d.esum then
      let n := s.sourceElems r
      (List.range ((n + 119) / 120)).foldl (fun s p =>
        let es := (List.range (min 120 (n - 120 * p))).map (fun j => s.ownExp r (120 * p + j))
        sendCtrl s r (.exponents (BitVec.ofNat 64 (120 * p)) es)) s
    else s
  | (s, st, _) => failRun s r st (some (.verdict (BitVec.ofNat 16 st)))

/-- The own part of the count phase, once the counts are there: RECV_COUNTS is written and the verdict sent (R425, R426); a batch has
one count phase (R428). -/
def countStep (s : State) (g : Nat) (id : U32) : State := withRun s g id fun r =>
  if !r.started || r.fail != 0 || !r.desc.counted || r.checked || !s.countsIn r then s
  else
    let first := match r.batch with | none => true | some k => (s.batchRuns k).all (fun x => !x.checked)
    let s := if first then bump s (collBase 0) 6 1 else s
    let bytes := (s.recvCounts r).flatMap (leBytes 8)
    match writeVA s agentFabric r.desc.recvCounts bytes with
    | (s, st) =>
      let r := { r with checked := true, recvTotal := s.received r }
      if st != 0 then failRun (setRun s r) r st (some (.verdict (BitVec.ofNat 16 st)))
      else sendCtrl (setRun s r) r (.verdict (BitVec.ofNat 16 (s.countFault r)))

/-- The verdict fold: with every member's verdict, data moves, or every member ends with the most severe failure (R426). -/
def verdictStep (s : State) (g : Nat) (id : U32) : State := withRun s g id fun r =>
  let x := s.collIn g id
  if !r.checked || r.moving || r.fail != 0 || !(s.others r).all (fun i => x.verdicts.any (fun v => v.1 == r.rankAt i)) then s
  else
    let all := s.countFault r :: x.verdicts.map (fun v => v.2.toNat)
    match [0x8403, 0x8404, 0x8402].find? (fun st => all.contains st) with
    | some st => failRun s r st none
    | none => beginMoving s g id

/-- Send what may go now: blocks to members whose digest agrees, partials to those that have given credit (R420, R421). -/
def sendStep (s : State) (g : Nat) (id : U32) : State := withRun s g id fun r =>
  if !r.moving || r.fail != 0 then s
  else
    let d := r.desc
    let own := s.ownIndex r
    let due := (s.sendsOf r).filter (fun e => !r.sentTo.contains e)
    due.foldl (fun s e =>
      let (m, k) := e
      let blk := s.block r own m
      let span := d.chunkSpan blk.2 k
      if d.reducing then
        if !(r.foldsAt m && (s.collIn g id).credits.contains (r.rankAt m, k)) then s
        else match s.tops r (blk.1 + span.1) span.2 with
          | none => s
          | some ts =>
            let bs := if d.rawPartials then slice r.source ((blk.1 + span.1) * d.elemBytes) (span.2 * d.elemBytes)
                      else (s.ownPartial r (blk.1 + span.1) ts).flatMap d.encodePart
            sendElems s r m k levelMember own d.partBytes span.1 bs
      else if s.agreed r m then
        sendElems s r m k levelMember own d.elemBytes span.1 (slice r.source ((blk.1 + span.1) * d.elemBytes) (span.2 * d.elemBytes))
      else s) s

/-- The first chunk that this folding point has not written. -/
def State.firstOpen (s : State) (r : CollRun) : Nat :=
  let own := s.ownIndex r
  ((s.chunksFor r own own).find? (fun k => !r.done.contains (workKey own k))).getD 0

/-- A child's partial of a chunk has begun to arrive. -/
def State.begun (s : State) (r : CollRun) (q k : Nat) : Bool :=
  let own := s.ownIndex r
  let span := r.desc.chunkSpan (s.block r own own).2 k
  (s.collIn r.desc.group r.desc.collId).pieces.any (fun p => p.1 == q && span.1 ≤ p.2.2.1 && p.2.2.1 < span.1 + span.2)

/-- Children of a chunk that may be given credit now: all under ARRIVAL_ORDER, else in fold order up to the first whose
partial has not begun to arrive (R420). -/
def State.creditable (s : State) (r : CollRun) (k : Nat) : List Nat :=
  let own := s.ownIndex r
  let kids := (s.childrenOf r own).filter (fun q => q != own)
  if r.desc.arrivalOrder then kids
  else
    let here := kids.takeWhile (fun q => s.begun r q k)
    here ++ (kids.drop here.length).take 1

/-- A folding point claims slots for up to four chunks at once and gives their children credit (R419, R420, R422). -/
def creditStep (s : State) (g : Nat) (id : U32) : State := withRun s g id fun r =>
  let own := s.ownIndex r
  if !r.moving || r.fail != 0 || !r.foldsAt own then s
  else
    let open_ := (s.chunksFor r own own).filter (fun k => s.firstOpen r ≤ k && k < s.firstOpen r + 4 && !r.done.contains (workKey own k))
    open_.foldl (fun s k =>
      let parts := if r.desc.tileScope then 2 else (s.childrenOf r own).length
      let s := if 1 < parts then withRun s g id (fun r => claimSlots s r k) else s
      (s.creditable r k).foldl (fun s q => withRun s g id fun r =>
        if r.granted.contains (q, k) then s
        else sendTo (setRun s { r with granted := r.granted ++ [(q, k)] }) r q k .collCredit 0 []) s) s

/-- Write a chunk's result into DST; a write that is refused ends the collective with its status. -/
def writeChunk (s : State) (r : CollRun) (key first : Nat) (bs : List Byte) : State :=
  match writeVA s agentFabric (r.desc.dst + first * r.desc.outBytes) bs with
  | (s, 0) => withRun s r.desc.group r.desc.collId fun r => setRun s { r with done := r.done ++ [key] }
  | (s, st) => withRun s r.desc.group r.desc.collId fun r => failRun s r st (some (.verdict (BitVec.ofNat 16 st)))

/-- Fold a chunk whose partials are all there, write it, count it and pass a replicated result on (R410, R412, R417, R419). -/
def foldOne (s : State) (g : Nat) (id : U32) (k : Nat) : State := withRun s g id fun r =>
  let d := r.desc
  let own := s.ownIndex r
  match (if r.done.contains (workKey own k) || r.fail != 0 then none else s.foldChunk r k) with
  | none => s
  | some vs =>
    let span := d.chunkSpan (s.block r own own).2 k
    let bs := vs.flatMap (fun v => leBytes d.outBytes v.bits)
    let tally (f : CResult → Bool) : Nat := (vs.filter f).length
    let mine := r.claims.filter (fun c => c.1 == k)
    let warn := vs.any CResult.dropped
    let r := { r with nonfinite := r.nonfinite + tally CResult.nonfinite, saturated := r.saturated + tally CResult.saturated,
                      esumLoss := r.esumLoss + tally CResult.loss, esumDropped := r.esumDropped + tally CResult.dropped,
                      warned := r.warned || warn, claims := r.claims.filter (fun c => c.1 != k) }
    let s := if d.esum then bump s (collBase 0) 4 span.2 else s
    let s := writeChunk (mine.foldl freeClaim (setRun s r)) r (workKey own k) span.1 bs
    if d.op != 2 then s
    else
      let s := if warn then sendCtrl s r (.verdict 0x0140) else s
      (s.others r).foldl (fun s m => sendElems s r m k levelResult 0 d.outBytes span.1 bs) s

/-- Take over a chunk that has arrived whole, or the own block of it (R421). -/
def takeOne (s : State) (g : Nat) (id : U32) (q k : Nat) : State := withRun s g id fun r =>
  let d := r.desc
  let own := s.ownIndex r
  let blk := if d.reducing then s.block r own own else s.block r q own
  let span := d.chunkSpan blk.2 k
  let level := if d.reducing then levelResult else levelMember
  let bytes := if !d.reducing && q = own then some (slice r.source ((blk.1 + span.1) * d.elemBytes) (span.2 * d.elemBytes))
               else (s.collIn g id).gather level q span.1 span.2 d.outBytes
  match (if r.done.contains (workKey q k) || r.fail != 0 then none else bytes) with
  | none => s
  | some bs =>
    let bad := ((elemsOf d.outBytes bs span.2).filter d.nonfiniteBits).length
    let s := setRun s { r with nonfinite := r.nonfinite + bad }
    writeChunk s r (workKey q k) ((if d.reducing then 0 else s.placeOf r q) + span.1) bs

/-- Fold and take over every chunk that can be. -/
def foldStep (s : State) (g : Nat) (id : U32) : State := withRun s g id fun r =>
  if !r.moving || r.fail != 0 then s
  else
    let own := s.ownIndex r
    (s.targets r).foldl (fun s key =>
      if r.foldsAt own then foldOne s g id (key % 2 ^ 26) else takeOne s g id (key / 2 ^ 26) (key % 2 ^ 26)) s

/-- Everything that a run can do now. -/
def pumpRun (s : State) (g : Nat) (id : U32) : State :=
  let s := verdictStep (countStep (failStep (listStep s g id) g id) g id) g id
  creditStep (foldStep (creditStep (sendStep s g id) g id) g id) g id

/-! ## The end of a run -/

/-- A packet of a run waits for a port or an acknowledgement (R408). -/
def State.collUnacked (s : State) (r : CollRun) : Bool :=
  s.fab.tx.any (fun x => (x.out ++ x.queued).any (fun q => q.origin == .coll r.desc.group r.desc.collId))

/-- A run has done all its work, or has failed, and what it sent has been acknowledged (R408). -/
def State.runDone (s : State) (r : CollRun) : Bool :=
  r.started && !r.refused && !s.collUnacked r &&
  (r.fail != 0 ||
    (r.moving && (s.targets r).all (fun k => r.done.contains k) && (s.sendsOf r).all (fun e => r.sentTo.contains e) &&
     (r.desc.op != 10 || (s.others r).all (fun i => (s.collIn r.desc.group r.desc.collId).arrived.contains (r.rankAt i)))))

/-- The status with which a run completes. -/
def CollRun.status (r : CollRun) : Nat := if r.fail != 0 then r.fail else if r.warned then 0x0140 else 0

/-- The result record (Table 12.6). -/
def collRecord (s : State) (r : CollRun) (st : Nat) : List Byte :=
  leBytes 2 st ++ leBytes 2 0 ++ leBytes 4 r.desc.collId.toNat ++ leBytes 4 r.chunks ++ leBytes 4 r.endpoint ++
  leBytes 4 r.rebalanced ++ leBytes 4 r.nonfinite ++ leBytes 4 r.saturated ++ leBytes 4 r.esumLoss ++ leBytes 4 r.esumDropped ++
  leBytes 4 0 ++ leBytes 8 r.recvTotal ++ leBytes 8 r.tAccept.toNat ++ leBytes 8 s.tim.now.toNat

/-- Add to a NOTIFY_CNT. -/
def notifyCounter (s : State) (c : Nat) : State := if c = 0xFFFF then s else syncAdd s c 1

/-- The range of DST that a chunk of this member's targets takes. -/
def State.targetRange (s : State) (r : CollRun) (key : Nat) : Nat × Nat :=
  let own := s.ownIndex r
  let q := key / 2 ^ 26
  let span := r.desc.chunkSpan (if r.desc.reducing then s.block r own own else s.block r q own).2 (key % 2 ^ 26)
  (r.desc.dst + ((if r.desc.reducing then 0 else s.placeOf r q) + span.1) * r.desc.outBytes, span.2 * r.desc.outBytes)

/-- After a mismatch each line of DST that the run has written holds its old value or the new one. FREE CHOICE (R404). -/
def tatterMismatch (s : State) (r : CollRun) (st : Nat) : State :=
  if st != 0x8406 then s
  else (r.done.map (s.targetRange r)).foldl (fun s a => tatterRange s agentFabric a.1 a.2) s

/-- Remove a run with its slots and what has arrived for it; its work area holds what the engine left there (R423); count it,
and its arrival-order fold (R416, R447); add to its NOTIFY_CNT; write its record (R408). -/
def endRun (s : State) (r : CollRun) (st : Nat) : State :=
  let s := tatterMismatch s r st
  let runs := dropFirst (fun x => x.is r.desc.group r.desc.collId) s.collEng.runs
  let inbox := s.collEng.inbox.filter (fun x => !(x.group == r.desc.group && x.id == r.desc.collId))
  let s := r.claims.foldl freeClaim { s with collEng := { s.collEng with runs := runs, inbox := inbox } }
  let s := if r.started && (r.desc.reducing || r.desc.counted) then spoilRange s agentFabric r.desc.work r.desc.workBytes else s
  let s := bump s (collBase 0) 0 1
  let s := if r.desc.arrivalOrder && r.fail = 0 && r.moving then
      (let s := bump s (collBase 0) 5 1
       if r.desc.esum then s else countNondet s 4) else s
  let s := notifyCounter s r.desc.notifyCnt
  if r.desc.result = 0 then s else (writeRecord s agentFabric r.desc.result (collRecord s r st)).1


/-- End a batch: its entries together, then NOTIFY_CNT, RESULT and the completion (R428). -/
def endBatch (s : State) (b : Batch) (st : CollRun → Nat) : State :=
  let rs := s.batchRuns b.number
  let worst := ((rs.map st).find? (fun x => x != 0)).getD 0
  let s := rs.foldl (fun s r => endRun s r (st r)) s
  let batches := dropFirst (fun x => x.number == b.number) s.collEng.batches
  let s := notifyCounter { s with collEng := { s.collEng with batches := batches } } b.notifyCnt
  let s := if b.result = 0 then s else (writeRecord s agentFabric b.result (leBytes 2 worst)).1
  finish s b.cmd worst 0

/-- End a collective that is no batch's entry. -/
def endColl (s : State) (r : CollRun) (st : Nat) : State := finish (endRun s r st) r.cmd st 0

/-- COLL_COMPLETE: a collective, or the whole batch of an entry, completes once its work is done (R408, R428). -/
def execCollComplete (group : BitVec 6) (collId : U32) (s : State) : Res := powered s fun s =>
  match s.collRun group.toNat collId with
  | none => s
  | some r =>
    match r.batch with
    | none => if s.runDone r then endColl s r r.status else s
    | some k =>
      match s.collEng.batches.find? (fun b => b.number == k) with
      | none => s
      | some b => if (s.batchRuns k).all s.runDone then endBatch s b CollRun.status else s

end Sys2Proof.Machine
end

