-- ==== Sys2Proof/Machine/HostFab.lean ====
section
/-! DEFINITION. Ring commands that act over Azmarlink: SYNC_OP, MSG_SEND, MSG_RECV, BUF_REG, BUF_DEREG and
BULK_PUT (R273, R372, R390 to R393, R472, R560). -/

namespace Sys2Proof.Machine

/-- SYNC_OP: checked at its turn; it acts once every command accepted before it on its ring has completed (R560). -/
def runSyncOp (s : State) (c : CmdCtx) (setOp : Bool) (value : U64) (member : U32) (counter : U16) : State :=
  let k := counter.toNat
  if 16384 ≤ k then finish s c 0x8639 0
  else match memberTarget s member with
    | .error st => finish s c st 0
    | .ok m =>
      if k = 16383 && m.isNone then finish s c 0x8670 0
      else
        let ops := s.hif.syncOps ++ [{ cmd := c, setOp := setOp, target := m, counter := k, value := value }]
        actSyncOps ops.length (markStarted { s with hif := { s.hif with syncOps := ops } } c)

/-- SYNC_OP's operands. -/
def syncOperands (value : U64) (member : U32) (counter : U16) (op : Nat) : List (Nat × List Byte) :=
  [opnd 8 8 value.toNat, opnd 0x10 4 member.toNat, opnd 0x14 2 counter.toNat, opnd 0x16 1 op]

/-- SYNC_OP with OP 1. -/
def execSyncOpAdd (c : CmdCtx) (value : U64) (member : U32) (counter : U16) (s : State) : Res :=
  onRing s c 0x0044 (syncOperands value member counter 1) fun s => runSyncOp s c false value member counter

/-- SYNC_OP with OP 2. -/
def execSyncOpSet (c : CmdCtx) (value : U64) (member : U32) (counter : U16) (s : State) : Res :=
  onRing s c 0x0044 (syncOperands value member counter 2) fun s => runSyncOp s c true value member counter

/-- MSG_SEND: one message of up to 1,024 bytes to a member of the job, in any crew (R390); it completes with the acknowledgement. -/
def execMsgSend (c : CmdCtx) (src tag : U64) (member : U32) (bytes : U16) (queue : BitVec 8) (s : State) : Res :=
  if s.rangeHeld src.toNat bytes.toNat then .next s
  else onRing s c 0x0050 [opnd 8 8 src.toNat, opnd 0x10 8 tag.toNat, opnd 0x18 4 member.toNat, opnd 0x1C 2 bytes.toNat, opnd 0x1E 1 queue.toNat] fun s =>
    if 1024 < bytes.toNat then finish s c 0x8102 0
    else match s.memberId member.toNat with
      | none => finish s c 0x8312 0
      | some d =>
        match readVA s agentHost src.toNat bytes.toNat with
        | (s, 0, bs) =>
          let dst : U16 := BitVec.ofNat 16 d
          sendReq (markStarted s c) (newReq s .msg dst queue.toNat 0 tag.toNat (msgSlot queue.toNat d) bs (.host c))
        | (s, st, _) => finish s c st 0

/-- A stored message matches a receive (R391). -/
def Recv.takes (r : Recv) (u : Unexpected) : Bool := r.queue == u.queue && (u.tag &&& r.mask) == (r.tag &&& r.mask)

/-- MSG_RECV: the unexpected store is searched first, then the receive is posted (R390, R391). -/
def execMsgRecv (c : CmdCtx) (buf tag mask : U64) (bytes : U16) (queue : BitVec 8) (s : State) : Res :=
  if s.rangeHeld buf.toNat bytes.toNat then .next s
  else onRing s c 0x0051 [opnd 8 8 buf.toNat, opnd 0x10 8 tag.toNat, opnd 0x18 8 mask.toNat, opnd 0x20 2 bytes.toNat, opnd 0x22 1 queue.toNat] fun s =>
    let r : Recv := { queue := queue.toNat, buf := buf, tag := tag, mask := mask, bytes := bytes.toNat, cmd := c }
    match s.fab.unexpected.find? r.takes with
    | none =>
      let rs := s.fab.recvs ++ [r]
      markStarted { s with fab := { s.fab with recvs := rs } } c
    | some u =>
      let rest := dropFirst (fun x => x == u) s.fab.unexpected
      let s := { s with fab := { s.fab with unexpected := rest, unexpFull := false } }
      match writeVA s agentHost buf.toNat (u.payload.take bytes.toNat) with
      | (s, st) =>
        let st := if st != 0 then st else if bytes.toNat < u.payload.length then 0x0130 else 0
        finish s c st (u.payload.length + (s.rankOf u.src.toNat).getD 0 * 0x10000)

/-- BUF_REG registers a range under a key; key 0xFFFF is the package's own (R392, R472). -/
def execBufReg (c : CmdCtx) (vaddr bytes : U64) (key : U16) (s : State) : Res :=
  onRing s c 0x0052 [opnd 8 8 vaddr.toNat, opnd 0x10 8 bytes.toNat, opnd 0x18 2 key.toNat] fun s =>
    let rest := s.fab.bulkRegs.filter (fun e => e.1 != key.toNat)
    if key = 0xFFFF then finish s c 0x8708 0
    else if 4096 ≤ (rest.filter (fun e => e.1 != 0xFFFF)).length then finish s c 0x8102 0
    else
      let regs := rest ++ [(key.toNat, vaddr, bytes)]
      finish { s with fab := { s.fab with bulkRegs := regs } } c 0 0

/-- BUF_DEREG ends a registration (R392). -/
def execBufDereg (c : CmdCtx) (key : U16) (s : State) : Res :=
  onRing s c 0x0053 [opnd 8 2 key.toNat] fun s =>
    let rest := s.fab.bulkRegs.filter (fun e => e.1 != key.toNat)
    if key = 0xFFFF then finish s c 0x8708 0 else finish { s with fab := { s.fab with bulkRegs := rest } } c 0 0

/-- The packets of a bulk transfer: offset and lines, none crossing an aligned 1 KiB chunk of the target's range (R370). -/
def bulkPackets : Nat → Nat → Nat → List (Nat × Nat)
  | 0, _, _ => []
  | f + 1, off, lines =>
    if lines = 0 then []
    else
      let k := min lines (8 - off / 128 % 8)
      (off, k) :: bulkPackets f (off + 128 * k) (lines - k)

/-- Send the packets of a bulk transfer. -/
def sendBulk (s : State) (dst : U16) (key : Nat) (pre data : List Byte) (off lines : Nat) (o : Origin) : State :=
  (bulkPackets lines off lines).foldl (fun s p =>
    let a := key * 2 ^ 48 + p.1
    sendReq s (newReq s .bulk dst 0 p.2 a (addrSlot a s.fabId dst.toNat) (pre ++ slice data (p.1 - off) (128 * p.2)) o)) s

/-- The preamble of a transfer's packets (R392). -/
def bulkPreamble (xfer lines counter : Nat) : List Byte := leBytes 4 xfer ++ leBytes 4 lines ++ leBytes 2 counter ++ zeroBytes 6

/-- BULK_PUT: LINES lines from SRC into a registered range of a member, completing with the last acknowledgement (R392, R393). -/
def execBulkPut (c : CmdCtx) (src offset : U64) (lines member xferId : U32) (key counter : U16) (s : State) : Res :=
  let n := 128 * lines.toNat
  if s.rangeHeld src.toNat n then .next s
  else onRing s c 0x0054 [opnd 8 8 src.toNat, opnd 0x10 8 offset.toNat, opnd 0x18 4 lines.toNat, opnd 0x1C 4 member.toNat,
                          opnd 0x20 4 xferId.toNat, opnd 0x24 2 key.toNat, opnd 0x26 2 counter.toNat] fun s =>
    if counter = 16383 || (16384 ≤ counter.toNat && counter != 0xFFFF) then finish s c 0x8102 0
    else if offset.toNat % 128 != 0 || 2 ^ 48 ≤ offset.toNat + n then finish s c 0x8102 0
    else match s.memberId member.toNat with
      | none => finish s c 0x8312 0
      | some d =>
        if lines = 0 then finish s c 0 0
        else match readVA s agentHost src.toNat n with
          | (s, 0, bs) =>
            let puts := s.fab.bulkPuts ++ [(c, BitVec.ofNat 16 d, xferId, lines.toNat)]
            let s := markStarted { s with fab := { s.fab with bulkPuts := puts } } c
            sendBulk s (BitVec.ofNat 16 d) key.toNat (bulkPreamble xferId.toNat lines.toNat counter.toNat) bs offset.toNat lines.toNat (.host c)
          | (s, st, _) => finish s c st 0

end Sys2Proof.Machine
end

