-- ==== Sys2Proof/Machine/Coll.lean ====
section
/-! DEFINITION. The collective commands: acceptance with its refusals, batches and groups, the start, and the
packets received (R401 to R409, R423, R424, R427, R431). -/

namespace Sys2Proof.Machine

/-! ## Acceptance (R405 to R407, R423) -/


/-- A run as accepted. -/
def newRun (s : State) (d : CollDesc) (c : CmdCtx) (ranks : List Nat) (batch : Option Nat) (after : List CmdCtx) : CollRun :=
  { desc := d, cmd := c, batch := batch, ranks := ranks, after := after, started := false, source := [], counts := [], checked := false,
    moving := false, fail := 0, warned := false, granted := [], sentTo := [], claims := [], done := [], refused := false,
    recvTotal := 0, chunks := 0, endpoint := 0, rebalanced := 0, nonfinite := 0, saturated := 0, esumLoss := 0, esumDropped := 0,
    tAccept := s.tim.now }

/-- The descriptor is malformed (0x8401 of R405). -/
def CollDesc.malformed (d : CollDesc) : Bool :=
  let known := [0, 1, 2, 3, 8, 9, 15].contains d.dtype
  d.descType != 0x30 || d.version != 1 || 10 < d.op || !known || (d.reducing && 2 < d.redop) || 32 ≤ d.flags || 63 < d.group ||
  (d.chunkLog2 != 0 && !(14 ≤ d.chunkLog2 && d.chunkLog2 ≤ 22)) || d.resNonzero ||
  (bitOf d.flags 0 && (d.dtype != 0 || d.redop != 0)) ||
  (d.tileScope && (!(d.op = 1 || d.op = 2 || d.op = 3) || d.partsPerDie = 0 || 128 < d.partsPerDie || d.partStride % 128 != 0)) ||
  (d.dtype = 15 && d.reducing) || (bitOf d.flags 1 && !d.reducing)

/-- Bytes of the source that are known at acceptance; those of OP 6 to 8 are not (R425). -/
def srcLen (d : CollDesc) (n own : Nat) : Nat :=
  let e := d.elemBytes
  if d.tileScope then (4 * d.partsPerDie - 1) * d.partStride + (if d.op = 3 then n else 1) * d.count * e
  else match d.op with
    | 0 => if own = d.root then d.count * e else 0
    | 3 | 5 => n * d.count * e
    | 6 | 7 | 8 | 10 => 0
    | _ => d.count * e

/-- Bytes of DST. -/
def dstLen (d : CollDesc) (n own : Nat) : Nat :=
  match d.op with
  | 1 => if own = d.root then d.count * d.outBytes else 0
  | 4 | 5 => n * d.count * d.outBytes
  | 6 | 7 | 8 => d.dstBytes
  | 10 => 0
  | _ => d.count * d.outBytes

/-- WORK is required (R423). -/
def CollDesc.usesWork (d : CollDesc) : Bool := d.reducing || d.counted
/-- WORK_BYTES that R423 asks for. -/
def CollDesc.workNeed (d : CollDesc) : Nat :=
  if d.counted then 65536 else 4 * (min d.chunkElems d.count * d.accBytes) + 65536

/-- The areas of a collective: SRC, DST, WORK, COUNTS, RECV_COUNTS, RESULT. -/
def CollDesc.areas (d : CollDesc) (n own : Nat) : List (Nat × Nat) :=
  [(d.src, srcLen d n own), (d.dst, dstLen d n own), (d.work, if d.usesWork then d.workBytes else 0),
   (d.counts, if d.counted then (if d.op = 6 then 8 else 8 * n) else 0), (d.recvCounts, if d.counted then 8 * n else 0),
   (d.result, if d.result = 0 then 0 else 64)]

/-- Two areas share a byte. -/
def areasMeet (a b : Nat × Nat) : Bool := a.2 != 0 && b.2 != 0 && a.1 < b.1 + b.2 && b.1 < a.1 + a.2

/-- SRC and DST may coincide exactly (R406). -/
def CollDesc.mayCoincide (d : CollDesc) (own : Nat) : Bool :=
  ((d.op = 2 || d.op = 9) && !bitOf d.flags 1) || (d.op = 0 && own = d.root)

/-- An overlap that R406 forbids. -/
def CollDesc.overlaps (d : CollDesc) (n own : Nat) : Bool :=
  let l := d.areas n own
  (List.range 6).any (fun i => (List.range 6).any (fun j =>
    i < j && areasMeet (l.getD i (0, 0)) (l.getD j (0, 0)) &&
    !(i = 0 && j = 1 && d.mayCoincide own && l.getD 0 (0, 0) == l.getD 1 (0, 0))))

/-- A counter field names no counter (0x840C). -/
def badCounter (start notify : Nat) : Bool :=
  (16384 ≤ start && start != 0xFFFF) || (16384 ≤ notify && notify != 0xFFFF) || notify = 16383

/-- The status that refuses a descriptor at acceptance, in the order in which R405 lists the refusals; 0 for none. -/
def collFault (s : State) (d : CollDesc) (batched : Bool) : Nat :=
  let held := s.collEng.runs.any (fun r => r.is d.group d.collId)
  let bad (a : Nat × Nat) : Bool := a.2 != 0 && !s.registered a.1 a.2
  if d.malformed || held then 0x8401
  else
    let ranks := (s.groupRanks d.group).getD []
    let n := ranks.length
    let own := ranks.findIdx (fun x => x == s.rank)
    let inGroup := ranks.contains s.rank && !((d.op = 0 || d.op = 1) && n ≤ d.root)
    if inGroup && ((d.areas n own).take 3).any bad then 0x8402
    else if inGroup && d.overlaps n own then 0x8405
    else if !inGroup then 0x8407
    else if bitOf d.flags 2 && s.strict then 0x8408
    else if !batched && 256 ≤ s.collEng.accepted then 0x8409
    else if d.usesWork && d.workBytes < d.workNeed then 0x840A
    else if badCounter d.startCnt d.notifyCnt then 0x840C
    else 0

/-- Commands submitted before a BARRIER (R271, R409): those outstanding, and those fetched on other rings. -/
def State.submittedBefore (s : State) (c : CmdCtx) : List CmdCtx :=
  let out := (s.hif.outCmds.map OutCmd.ctx).filter (fun x => x != c)
  let waiting := (s.hif.sqs.filter (fun e => e.1 != c.sq.toNat)).flatMap (fun e => e.2.fetched.map (fun f => entryCtx e.1 f.2))
  out ++ waiting

/-- A command submitted earlier has not completed. -/
def State.stillOut (s : State) (c : CmdCtx) : Bool :=
  s.hif.outCmds.any (fun o => o.ctx == c) || (s.sq c.sq.toNat).fetched.any (fun f => entryCtx c.sq.toNat f.2 == c)

/-- Wait for a START_CNT that has not reached its value (Table 12.7). -/
def waitStart (s : State) (c : CmdCtx) (counter : Nat) (value : U64) : State :=
  if counter = 0xFFFF || value.toNat ≤ s.syncVal counter then s else addWait s (.host c) counter value.toNat

/-- The record of a refused collective: STATUS and COLL_ID only (R405). -/
def refusedRecord (s : State) (d : CollDesc) (st : Nat) : State :=
  if d.result = 0 then s
  else
    let s := (writeRecord s agentFabric d.result (leBytes 2 st)).1
    (writeRecord s agentFabric (d.result + 4) (leBytes 4 d.collId.toNat)).1

/-- Add runs at the end of those accepted. -/
def addRuns (s : State) (rs : List CollRun) : State :=
  let runs := s.collEng.runs ++ rs
  { s with collEng := { s.collEng with runs := runs } }

/-- COLL: the descriptor is read once, at acceptance (R402), and is refused under R405 or held (R407). -/
def execColl (c : CmdCtx) (desc : U64) (s : State) : Res :=
  if s.rangeHeld desc.toNat 128 then .next s
  else onRing s c 0x0040 [opnd 8 8 desc.toNat] fun s =>
    match readVA s agentHost desc.toNat 128 with
    | (s, 0, bs) =>
      let d := parseColl bs
      let st := collFault s d false
      if st != 0 then finish (refusedRecord s d st) c st 0
      else
        let after := if d.op = 10 then s.submittedBefore c else []
        let s := addRuns (markStarted s c) [newRun s d c ((s.groupRanks d.group).getD []) none after]
        waitStart s c d.startCnt d.startValue
    | (s, st, _) => finish s c st 0

/-! ## Batches (R427) -/

/-- The areas that an entry writes. -/
def CollDesc.writeAreas (d : CollDesc) (n own : Nat) : List (Nat × Nat) :=
  let l := d.areas n own
  [l.getD 1 (0, 0), l.getD 2 (0, 0), l.getD 4 (0, 0), l.getD 5 (0, 0)]

/-- A batch's entries break the conditions of R427. -/
def State.badBatch (s : State) (ds : List CollDesc) : Bool :=
  let g := (ds.map CollDesc.group).headD 0
  let ranks := (s.groupRanks g).getD []
  let own := ranks.findIdx (fun x => x == s.rank)
  let areas := ds.map (fun d => d.writeAreas ranks.length own)
  ds.isEmpty || ds.any (fun d => d.group != g || d.op = 10 || d.startCnt != 0xFFFF || d.notifyCnt != 0xFFFF) ||
  !(ds.map CollDesc.collId).Nodup ||
  (List.range ds.length).any (fun i => (List.range i).any (fun j =>
    (areas.getD i []).any (fun a => (areas.getD j []).any (fun b => areasMeet a b))))

/-- Bytes of a batch's header and entries. -/
def State.batchLen (s : State) (header : Nat) : Nat :=
  match readVA s agentHost header 64 with
  | (_, 0, h) => 64 + 128 * min 64 (fieldLE h 8 2)
  | _ => 64

/-- COLL_BATCH: header and entries are read once; the batch is refused whole, or held as one collective (R427, R428). -/
def execCollBatch (c : CmdCtx) (header : U64) (s : State) : Res :=
  if s.rangeHeld header.toNat 64 || s.rangeHeld header.toNat (s.batchLen header.toNat) then .next s
  else onRing s c 0x0041 [opnd 8 8 header.toNat] fun s =>
    match readVA s agentHost header.toNat 64 with
    | (s, 0, h) =>
      let n := fieldLE h 8 2
      let startCnt := fieldLE h 0xA 2
      let notifyCnt := fieldLE h 0xC 2
      if fieldLE h 0 2 != 0x31 || fieldLE h 2 2 != 1 || fieldLE h 0xE 2 != 0 || fieldLE h 0x20 32 != 0 then finish s c 0x8401 0
      else if n = 0 || 64 < n then finish s c 0x840B 0
      else match readVA s agentHost (header.toNat + 64) (128 * n) with
        | (s, 0, bs) =>
          let ds := (List.range n).map (fun i => parseColl (slice bs (128 * i) 128))
          let faults := (ds.map (fun d => collFault s d true)).filter (fun st => st != 0)
          if s.badBatch ds then finish s c 0x840B 0
          else match faults with
            | st :: _ => finish s c st 0
            | [] =>
              if badCounter startCnt notifyCnt then finish s c 0x840C 0
              else if 256 ≤ s.collEng.accepted then finish s c 0x8409 0
              else
                let k := s.collEng.nextBatch
                let b : Batch := { number := k, batchId := BitVec.ofNat 32 (fieldLE h 4 4), cmd := c, startCnt := startCnt, notifyCnt := notifyCnt,
                                   startValue := BitVec.ofNat 64 (fieldLE h 0x10 8), result := fieldLE h 0x18 8 }
                let batches := s.collEng.batches ++ [b]
                let s := addRuns (markStarted s c) (ds.map (fun d => newRun s d c ((s.groupRanks d.group).getD []) (some k) []))
                let s := { s with collEng := { s.collEng with batches := batches, nextBatch := k + 1 } }
                waitStart s c b.startCnt b.startValue
        | (s, st, _) => finish s c st 0
    | (s, st, _) => finish s c st 0

/-! ## Groups (R401) -/

/-- COLL_GROUP registers a group: a number 1 to 63 and a strictly ascending list of ranks that includes the own one. -/
def execCollGroup (c : CmdCtx) (list : U64) (group count : U16) (s : State) : Res :=
  if s.rangeHeld list.toNat (4 * count.toNat) then .next s
  else onRing s c 0x0042 [opnd 8 8 list.toNat, opnd 0x10 2 group.toNat, opnd 0x12 2 count.toNat] fun s =>
    match readVA s agentHost list.toNat (4 * count.toNat) with
    | (s, 0, bs) =>
      let ranks := elemsOf 4 bs count.toNat
      let rising := (ranks.zip (ranks.drop 1)).all (fun p => p.1 < p.2)
      if group = 0 || 63 < group.toNat || !rising || !ranks.contains s.rank || ranks.any (fun r => s.members.length ≤ r) then finish s c 0x8407 0
      else
        let groups := kvSet s.collEng.groups group.toNat ranks
        finish { s with collEng := { s.collEng with groups := groups } } c 0 0
    | (s, st, _) => finish s c st 0

/-! ## The start (R407 to R409) -/

/-- The START condition of a run, or of its batch. -/
def State.startHolds (s : State) (r : CollRun) : Bool :=
  let (c, v) := match r.batch.bind (fun k => s.collEng.batches.find? (fun b => b.number == k)) with
    | some b => (b.startCnt, b.startValue.toNat)
    | none => (r.desc.startCnt, r.desc.startValue.toNat)
  c = 0xFFFF || v ≤ s.syncVal c

/-- A run may start now: its START condition holds, and a BARRIER's earlier commands are complete and acknowledged. -/
def State.mayStart (s : State) (r : CollRun) : Bool :=
  !r.started && s.startHolds r && (r.desc.op != 10 || (!(r.after.any s.stillOut) && !s.requestsOut && s.mem.stalled.isEmpty))

/-- An input of a run cannot be read now. -/
def State.runHeld (s : State) (r : CollRun) : Bool :=
  let n := r.n
  s.rangeHeld r.desc.src (srcLen r.desc n (s.ownIndex r)) || (r.desc.counted && s.rangeHeld r.desc.counts (8 * n))

/-- Send the own counts, thirty to a packet (R425, R431). -/
def sendCounts (s : State) (r : CollRun) : State :=
  (List.range ((r.counts.length + 29) / 30)).foldl (fun s p =>
    sendCtrl s r (.counts (30 * p) (((r.counts.drop (30 * p)).take 30).map (BitVec.ofNat 64)))) s

/-- Start a run: its digest goes out; a BARRIER arrives; OP 6 to 8 begin their count phase; the others read their source. -/
def startRun (s : State) (g : Nat) (id : U32) : State := withRun s g id fun r =>
  let d := r.desc
  let r := { r with started := true }
  let s := sendCtrl (setRun s r) r (.digest d.digest (listDigest r.ranks))
  let s :=
    if d.counted then
      let n := if d.op = 6 then 1 else r.n
      match readVA s agentFabric d.counts (8 * n) with
      | (s, 0, bs) =>
        let r := { r with counts := elemsOf 8 bs n }
        sendCounts (setRun s r) r
      | (s, st, _) => failRun s r st (some (.verdict (BitVec.ofNat 16 st)))
    else
      let s := if d.op = 10 then sendCtrl s r .arrive else s
      beginMoving s g id
  pumpRun s g id

/-- COLL_START: the first accepted collective or batch that may start does, while fewer than 32 run (R407). -/
def execCollStart (s : State) : Res := powered s fun s =>
  if 32 ≤ s.collEng.running then s
  else match s.collEng.runs.find? s.mayStart with
    | none => s
    | some r =>
      let rs := match r.batch with | none => [r] | some k => s.batchRuns k
      if rs.any s.runHeld then s
      else rs.foldl (fun s r => startRun s r.desc.group r.desc.collId) (dropWait s (.host r.cmd))

/-! ## Packets received (R431) -/

/-- The key and chunk of a collective packet. -/
def collKey (h : PktHdr) : Nat × U32 × Nat :=
  let a := h.addr.toNat
  (a % 64, BitVec.ofNat 32 (a / 64 % 2 ^ 32), a / 2 ^ 38)

/-- A collective packet has reached its port: checks 1 to 5 and 12 in VC3's own space, answered as there; a fresh one is
applied and acknowledged, and its run goes on. -/
def collPacket (s : State) (port : Nat) (h : PktHdr) (payload : Nat) (apply : State → Nat → CollIn → CollIn) : State :=
  let fd := port / 8
  let s := bump s (portBase port) 1 (40 + payload)
  if h.dstId.toNat != s.fabId || !h.crcOk then bump s (fabBase fd) 11 1
  else if jobCheck s h != 0 then refuse s port h (jobCheck s h)
  else match (s.rxSpace h.srcId (fd + 2)).place h.seq with
    | .beyond => refuse s port h 0x8319
    | .refused st => nackReq s port h st
    | .applied => respond (bump s (fabBase fd) 12 1) port .ack h [] []
    | .fresh n =>
      let (g, id, _) := collKey h
      let rank := (s.rankOf h.srcId.toNat).getD 0
      let s := setCollIn s (apply s rank (s.collIn g id))
      let s := respond (setRx s ((s.rxSpace h.srcId (fd + 2)).mark n none)) port .ack h [] []
      pumpRun s g id

/-- COLL_DATA: elements of a chunk arrive; nothing of a packet whose digest differs is used (R404). -/
def execCollData (port : BitVec 4) (h : PktHdr) (ch : ChunkHdr) (data : List Byte) (s : State) : Res := powered s fun s =>
  let (g, id, _) := collKey h
  let held := match s.collRun g id with | some r => s.rangeHeld r.desc.dst (dstLen r.desc r.n (s.ownIndex r)) | none => false
  if s.holding || held then s
  else collPacket s port.toNat h (16 + data.length) fun s rank x =>
    let x := if x.digests.any (fun e => e.1 == rank && e.2 == ch.digest) then x else { x with digests := x.digests ++ [(rank, ch.digest)] }
    let differs := match s.collRun g id with | some r => r.desc.digest != ch.digest | none => false
    if differs then x else x.addPiece ch.child.toNat ch.level.toNat ch.offset.toNat data

/-- COLL_CREDIT: a folding point lets this member send it its partial of a chunk (R420). -/
def execCollCredit (port : BitVec 4) (h : PktHdr) (s : State) : Res := powered s fun s =>
  if s.holding then s
  else collPacket s port.toNat h 0 fun _ rank x => { x with credits := x.credits ++ [(rank, (collKey h).2.2)] }

/-- What a control packet brings. -/
def applyCtrl (x : CollIn) (rank : Nat) (body : CollCtrlBody) : CollIn :=
  match body with
  | .digest d l =>
    let x := if x.digests.any (fun e => e.1 == rank && e.2 == d) then x else { x with digests := x.digests ++ [(rank, d)] }
    if x.lists.any (fun e => e.1 == rank && e.2 == l) then x else { x with lists := x.lists ++ [(rank, l)] }
  | .mismatch => { x with mismatch := true }
  | .verdict st => { x with verdicts := x.verdicts ++ [(rank, st)] }
  | .counts k cs =>
    let more := cs.mapIdx (fun i c => (rank, k + i, c))
    { x with counts := x.counts ++ more }
  | .exponents o es => { x with exps := x.exps ++ [(rank, o.toNat, es)] }
  | .arrive => { x with arrived := natInsert x.arrived rank }

/-- COLL_CTRL: digests, verdicts, counts, exponents and barrier arrivals (R404, R409, R417, R425, R426). -/
def execCollCtrl (port : BitVec 4) (h : PktHdr) (body : CollCtrlBody) (s : State) : Res := powered s fun s =>
  if s.holding then s
  else collPacket s port.toNat h (ctrlBytes body).length fun _ rank x => applyCtrl x rank body

/-- REBALANCE_REPORT: the VC3 bytes queued at a fabric die's ports, which later packets' ports follow (R424). -/
def execRebalanceReport (fd : BitVec 1) (queued : List Nat) (s : State) : Res := powered s fun s =>
  let old := s.collEng.queued
  let all := if fd = 0 then (queued ++ List.replicate 8 0).take 8 ++ old.drop 8 else old.take 8 ++ (queued ++ List.replicate 8 0).take 8
  { s with collEng := { s.collEng with queued := all } }

/-! ## JOB_ABORT (R401, R430) -/

/-- What a cancelled run leaves in DST and RECV_COUNTS: each line its old value or one that the collective would have written. -/
def tatterRun (s : State) (r : CollRun) : State :=
  if !r.started then s
  else
    let s := tatterRange s agentFabric r.desc.dst (dstLen r.desc r.n (s.ownIndex r))
    if r.desc.counted then tatterRange s agentFabric r.desc.recvCounts (8 * r.n) else s

/-- JOB_ABORT ends every collective and batch with 0x8480, releases their slots and erases the groups. -/
def abortColls (s : State) : State :=
  let s := s.collEng.runs.foldl tatterRun s
  let s := s.collEng.batches.foldl (fun s b => endBatch s b (fun _ => 0x8480)) s
  let s := s.collEng.runs.foldl (fun s r => endColl s r 0x8480) s
  { s with collEng := { s.collEng with groups := [], inbox := [], slots := [0, 0], dry := false } }

end Sys2Proof.Machine
end

