-- ==== Sys2Proof/Machine/Stroke.lean ====
section
/-! DEFINITION. The stroke barrier: STROKE_END, its completion with or without a checkpoint generation, and the
snapshot that a generation takes (R269 to R275, R352, R476 to R478). -/

namespace Sys2Proof.Machine

/-! ## STROKE_END (R270, R271) -/

/-- STROKE_END: refused while another is outstanding, then for a stroke other than STROKE; else the member enters the barrier. -/
def execStrokeEnd (c : CmdCtx) (stroke : U64) (s : State) : Res := onRing s c 0x0043 [opnd 8 8 stroke.toNat] fun s =>
  if s.stroke.entered.isSome then finish (bump s strokeBase 2 1) c 0x8471 0
  else if stroke != s.stroke.count then finish (bump s strokeBase 2 1) c 0x8470 0
  else
    let before := s.submittedBefore c
    tryArrive (markStarted { s with stroke := { s.stroke with entered := some (c, stroke), after := before, arrived := false, slowSent := false } } c)

/-- More than SLOW_MS after its own arrival a member still waits: 0x4470 once for the stroke (R275). -/
def execStrokeSlow (s : State) : Res := powered s fun s =>
  let ms := bitsOf (s.reg (strokeBase + 0xC)) 15 0
  if s.stroke.entered.isNone || !s.stroke.arrived || s.stroke.slowSent || ms = 0 ||
     s.tim.now.toNat ≤ s.reg64 (strokeBase + 0x10) + 1000000 * ms then s
  else raise (bump { s with stroke := { s.stroke with slowSent := true } } strokeBase 3 1) 0x4470 srcPmc 0 s.stroke.count.toNat

/-! ## Checkpoint stores (R473, R478) -/

/-- The checkpoint plan in force. -/
def State.ckptPlan (s : State) : Option CkptPlan :=
  match s.launchOf with | some l => if l.plan.ckptEn then some l.ckpt else none | none => none

/-- The fabric identifier of the buddy. -/
def State.buddyFab (s : State) (p : CkptPlan) : Option U16 := (s.memberId p.buddyRank.toNat).map (BitVec.ofNat 16)

/-- The host store may be written: there is one, and HOST_HOLD is clear (R482). -/
def State.hostStoreOpen (s : State) (p : CkptPlan) : Bool := p.hostStore != 0 && !s.regBit (ckptBase + 4) 0

/-- The host memory address of an offset in the host store. -/
def hostStoreAddr (p : CkptPlan) (off : Nat) : Nat := p.hostStore.toNat - 0x100000000000 + off

/-- Write into the host store. -/
def writeHostStore (s : State) (p : CkptPlan) (off : Nat) (bs : List Byte) : State :=
  { s with hostMem := Memory.write s.hostMem (hostStoreAddr p off) bs }

/-- Send bytes to an offset of the buddy's store, in BULK packets under key 0xFFFF (R472). -/
def sendBuddy (s : State) (p : CkptPlan) (xfer off : Nat) (bs : List Byte) : State :=
  match s.buddyFab p with
  | none => s
  | some dst =>
    let n := (bs.length + 127) / 128
    sendBulk s dst 0xFFFF (bulkPreamble xfer n 0xFFFF) (padTo (128 * n) bs) off n (.ckpt xfer)

/-- Transfer identifiers of what is no granule. -/
def xferManifest : Nat := 0xFFFFFFF0
def xferClear : Nat := 0xFFFFFFF1
def xferHeader : Nat := 0xFFFFFFF2

/-- Change a slot of a store. -/
def setSlot (st : List StoreSlot) (j : Nat) (f : StoreSlot → StoreSlot) : List StoreSlot := setAt st j f

/-- Write an entry of the digest list of the host store's slot. -/
def writeHostEntry (s : State) (p : CkptPlan) (j rel : Nat) (e : List Byte) : State :=
  writeHostStore s p (entryOff p.vbytes.toNat j (65536 * rel)) (padTo 16 e)

/-! ## SNAP (R352, R477, R478) -/

/-- Steps 1 and 2 of Table 14.6: the counters are latched with the mirror at the new STROKE, the live bitmap becomes
the pending one, the window opens, and the slot's manifests are cleared. -/
def takeSnap (s : State) : State :=
  let k := s.ckpt.gen.toNat + 1
  let j := k % 2
  let snap := if s.stroke.count = 0 then kvErase s.sync.counters 16383 else kvSet s.sync.counters 16383 s.stroke.count
  let m := { s.mem with ckptPend := s.mem.dirty, dirty := [], windowOpen := true, counterSnap := snap }
  let clear (x : StoreSlot) : StoreSlot := { x with gen := none }
  let c := { s.ckpt with
    inProgress := some (BitVec.ofNat 64 k), snapStroke := s.stroke.count, snapNondet := BitVec.ofNat 64 (s.reg64 (detBase + 8)),
    requested := false, lastSnap := s.tim.now, strokesSince := 0, received := [], windowClosed := false, primaryOk := true, secondaryBad := false,
    manifestDone := false, buddy := setSlot s.ckpt.buddy j clear }
  let s := { s with mem := m, ckpt := c }
  match s.ckptPlan with
  | none => s
  | some p =>
    let off := slotOff p.vbytes.toNat j
    let s := sendBuddy s p xferClear off (zeroBytes 128)
    if s.hostStoreOpen p then
      writeHostStore { s with ckpt := { s.ckpt with host := setSlot s.ckpt.host j clear } } p off (zeroBytes 128)
    else s

/-! ## The completion of the barrier (R272, R477) -/

/-- Steps 2 to 4 of R272: the mirror, 'catch', and the completion of STROKE_END. The stroke and the time that the member has
waited since its arrival are counted (Table 8.2). -/
def finishBarrier (s : State) : State :=
  let s := bump (bump s strokeBase 0 1) strokeBase 1 (s.tim.now.toNat - s.reg64 (strokeBase + 0x10))
  let s := syncSet s 16383 s.stroke.count.toNat
  let s := if s.regBit (strokeBase + 0xC) 16 then takeCatch s 5 else s
  let s := s.setReg64 (strokeBase + 0x18) s.tim.now.toNat
  match s.stroke.entered with
  | none => s
  | some (c, _) =>
    finish { s with stroke := { s.stroke with entered := none, after := [], arrived := false, slowSent := false, secondRound := false } } c 0 0

/-- A trigger of R476 has fallen due on this member. -/
def State.generationDue (s : State) (p : CkptPlan) : Bool :=
  (p.intervalMs != 0 && s.ckpt.lastSnap.toNat + 1000000 * p.intervalMs.toNat ≤ s.tim.now.toNat) ||
  (p.intervalStrokes != 0 && p.intervalStrokes.toNat ≤ s.ckpt.strokesSince.toNat) || s.ckpt.requested

/-- Every member has arrived (R272): STROKE advances; with a generation decision the member takes SNAP and waits for
the second round (R477), else the barrier completes. A trigger due while a generation or a restore is under way is
counted as deferred (R476). -/
def execStrokeBarrierComplete (generation : Bool) (s : State) : Res := powered s fun s =>
  if s.stroke.entered.isNone || !s.stroke.arrived || s.stroke.secondRound then s
  else
    let s := { s with stroke := { s.stroke with count := s.stroke.count + 1 },
                      ckpt := { s.ckpt with strokesSince := s.ckpt.strokesSince + 1 } }
    match s.ckptPlan with
    | none => finishBarrier s
    | some p =>
      let blocked := s.ckpt.inProgress.isSome || s.ckpt.restoring
      if generation && !blocked then
        let s := takeSnap s
        { s with stroke := { s.stroke with secondRound := true } }
      else finishBarrier (if blocked && s.generationDue p then bump s ckptBase 4 1 else s)

/-- The second round completes (R477). -/
def execBarrierSecondRound (s : State) : Res := powered s fun s => if s.stroke.secondRound then finishBarrier s else s

end Sys2Proof.Machine
end

