-- ==== Sys2Proof/Machine/Ckpt.lean ====
section
/-! DEFINITION. Differential checkpoints and restore: copying a generation, its manifests and commit, and the return
of pages (R352, R466 to R492, R500). -/

namespace Sys2Proof.Machine

/-! ## Copying (R481, R483) -/

/-- The job virtual granule that a physical granule backs. -/
def State.granuleVa (s : State) (g : Nat) : Option Nat := (s.pageOfFrame (g / 32)).map (fun p => p.1 * 32 + g % 32)

/-- The next granule of a die: the captured one of lowest index, else the pending one of lowest index (R481). -/
def State.nextGranule (s : State) (die : Nat) : Option (Nat × Bool) :=
  let mine (g : Nat) : Bool := g * 65536 / 0x3000000000 == die
  match (s.mem.staging.map Prod.fst).find? mine with
  | some g => some (g, true)
  | none => (s.mem.ckptPend.find? mine).map (fun g => (g, false))

/-- Send a granule to the buddy store as a record, in the place of its image; its bytes are counted (Table 14.10). -/
def sendRecord (s : State) (p : CkptPlan) (gen rel : Nat) (bs : List Byte) : State :=
  if (s.buddyFab p).isNone then s
  else
    let r := rawRecord (p.vbase.toNat + 65536 * rel) gen bs
    bump (sendBuddy s p rel (imageOff p.vbytes.toNat (gen % 2) (65536 * rel)) r) ckptBase 2 r.length

/-- Write a granule raw into the host store, with its entry. -/
def storeHostGranule (s : State) (p : CkptPlan) (j rel : Nat) (bs e : List Byte) : State :=
  writeHostEntry (writeHostStore s p (imageOff p.vbytes.toNat j (65536 * rel)) bs) p j rel e

/-- Note an entry of a slot. -/
def noteEntry16 (rel : Nat) (e : List Byte) (x : StoreSlot) : StoreSlot := { x with digests := kvSet x.digests rel e }

/-- COPY of a granule's bytes to both stores (Table 14.6 step 3): coded to the buddy's, raw to the host's. -/
def copyGranule (s : State) (p : CkptPlan) (k va : Nat) (bs : List Byte) : State :=
  let rel := va - p.vbase.toNat / 65536
  let e := granuleDigest bs
  let j := k % 2
  let s := bump s ckptBase 1 1
  let s := sendRecord s p k rel bs
  let c := { s.ckpt with copied := natInsert s.ckpt.copied va, received := natInsert s.ckpt.received rel,
                         buddy := setSlot s.ckpt.buddy j (noteEntry16 rel e) }
  let s := { s with ckpt := c }
  if s.hostStoreOpen p then
    storeHostGranule { s with ckpt := { s.ckpt with host := setSlot s.ckpt.host j (noteEntry16 rel e) } } p j rel bs e
  else s

/-- A block of a granule is held: its stack stands still or the block is being retired (R342, R344). -/
def State.granuleHeld (s : State) (g : Nat) : Bool := (List.range 16).any (fun i => s.stackHeld (g * 65536 + i * 4096))

/-- COPY's read of a granule from its stacks or its staging slot: lines of the stacks are sensed, and the bytes are counted,
half on each stack of the die, those of a staging slot too (R332 to R334, R352, R356; log 45). -/
def readGranule (s : State) (g : Nat) (captured : Bool) : State × List Byte :=
  let s := if captured then s else senseGranule s g
  let n := stackOf (g * 65536) / 2 * 2
  (bump (bump s (stackBase n) 0 32768) (stackBase (n + 1)) 0 32768,
   if captured then Memory.read (kvGetD s.mem.staging g []) 0 65536 else Memory.read s.mem.bytes (g * 65536) 65536)

/-- COPY frees a captured granule's staging slot, or clears a pending granule's bit (R352). -/
def Mem.copied (m : Mem) (g : Nat) (captured : Bool) : Mem :=
  if captured then { m with staging := kvErase m.staging g } else { m with ckptPend := natErase m.ckptPend g }

/-- GRANULE_COPY: COPY of the die's next granule, which waits while the granule is held (R342, R352, R481). -/
def execGranuleCopy (die : BitVec 2) (s : State) : Res := powered s fun s =>
  match s.ckptPlan, s.ckpt.inProgress, s.nextGranule die.toNat with
  | some p, some k, some (g, captured) =>
    if !s.mem.windowOpen || s.granuleHeld g then s
    else match readGranule s g captured with
      | (s, bs) =>
        let s := { s with mem := s.mem.copied g captured }
        match s.granuleVa g with
        | none => s
        | some va => copyGranule s p k.toNat va bs
  | _, _, _ => s

/-- Half of the counter block, from the snapshot latched at SNAP (Table 14.6 step 3). -/
def counterBytes (snap : List (Nat × U64)) (half : Nat) : List Byte :=
  (List.range 8192).flatMap (fun i => leBytes 8 (kvGetD snap (8192 * half + i) (0 : U64)).toNat)

/-- Send the counter block to both stores: to the buddy's as the two counter records. -/
def copyCounters (s : State) (p : CkptPlan) (k : Nat) : State :=
  let j := k % 2
  [0, 1].foldl (fun s h =>
    let bs := counterBytes s.mem.counterSnap h
    let r := rawRecord (0xFFFFFFFFFFFF0000 + h) k bs
    let s := if (s.buddyFab p).isNone then s
             else bump (sendBuddy s p (0xFFFFFFE0 + h) (counterOff p.vbytes.toNat j + 0x10000 * h) r) ckptBase 2 r.length
    if s.hostStoreOpen p then writeHostStore s p (counterOff p.vbytes.toNat j + 0x10000 * h) bs else s) s

/-- CLOSE: once every pending granule is copied and no slot is in use, the counter block follows and the window closes
(R352, Table 14.6 step 4). -/
def execClose (s : State) : Res := powered s fun s =>
  match s.ckptPlan, s.ckpt.inProgress with
  | some p, some k =>
    if !s.mem.windowOpen || !s.mem.ckptPend.isEmpty || !s.mem.staging.isEmpty || !s.mem.stalled.isEmpty then s
    else
      let s := copyCounters s p k.toNat
      { s with mem := { s.mem with windowOpen := false }, ckpt := { s.ckpt with windowClosed := true } }
  | _, _ => s

/-! ## Manifests (R475, R478, R479, R482) -/

/-- Transfer identifiers of lines of a digest list. -/
def xferList : Nat := 0x80000000

/-- The digest list of a slot as bytes. -/
def listOf (p : CkptPlan) (ds : List (Nat × List Byte)) : List Byte :=
  padTo (listBytes p.vbytes.toNat) ((List.range (p.vbytes.toNat / 65536)).flatMap (fun i => padTo 16 (kvGetD ds i [])))

/-- The counter block as bytes. -/
def counterBlock (snap : List (Nat × U64)) : List Byte := counterBytes snap 0 ++ counterBytes snap 1

/-- A signed manifest (Table 14.5). -/
def manifestBytes (s : State) (p : CkptPlan) (k carried : Nat) (ds : List (Nat × List Byte)) : List Byte :=
  let body := ckptMagic ++ leBytes 2 1 ++ leBytes 1 (k % 2) ++ zeroBytes 5 ++ leBytes 8 k ++ leBytes 8 s.ckpt.snapStroke.toNat ++ jobWords s ++
    leBytes 4 s.rank ++ leBytes 8 p.vbase.toNat ++ leBytes 8 p.vbytes.toNat ++ leBytes 8 s.ckpt.received.length ++ leBytes 8 carried ++
    keyId s ++ leBytes 8 s.ckpt.snapNondet.toNat ++ s.geomDigest ++ firmwareDigest s ++ shake256 (listOf p ds) ++
    shake256 (counterBlock s.mem.counterSnap)
  body ++ signBytes "BGL-ckpt" body

/-- The store header (Table 14.4; the places of its fields are the model's, log 29). -/
def storeHeader (s : State) (p : CkptPlan) : List Byte :=
  leBytes 4 s.rank ++ zeroBytes 4 ++ leBytes 8 p.vbase.toNat ++ leBytes 8 p.vbytes.toNat ++ s.flash.identityPub

/-- A page of the durable range is mapped with CKPT = 1. -/
def State.durablePages (s : State) : List Nat := (s.mem.xlt.filter (fun e => entryBit e.2 0 && entryBit e.2 6)).map Prod.fst

/-- A granule of the durable range lies in a mapped CKPT page. -/
def State.granuleMapped (s : State) (p : CkptPlan) (rel : Nat) : Bool := s.durablePages.contains ((p.vbase.toNat / 65536 + rel) / 32)

/-- Entries of the slot of generation k once its store has carried: received granules as received, the others as in the
other slot, none for an unmapped page (R474, R479). -/
def carriedEntries (s : State) (p : CkptPlan) (st : List StoreSlot) (k : Nat) : List (Nat × List Byte) :=
  let mine := (st.getD (k % 2) StoreSlot.empty).digests.filter (fun e => s.ckpt.received.contains e.1)
  let others := (st.getD (1 - k % 2) StoreSlot.empty).digests.filter (fun e => !s.ckpt.received.contains e.1)
  (others.foldl (fun l e => kvSet l e.1 e.2) mine).filter (fun e => s.granuleMapped p e.1)

/-- Granules that carrying copies: not received, and with entries that differ between the slots. -/
def carriedList (s : State) (p : CkptPlan) (st : List StoreSlot) (k : Nat) : List Nat :=
  let old := (st.getD (k % 2) StoreSlot.empty).digests
  ((carriedEntries s p st k).filter (fun e => !s.ckpt.received.contains e.1 && kvGet old e.1 != some e.2)).map Prod.fst

/-- The pending granules of the generation cover every mapped granule of the range (R482). -/
def State.fullGeneration (s : State) (p : CkptPlan) : Bool :=
  s.durablePages.all (fun pg => (List.range 32).all (fun i => s.ckpt.received.contains (pg * 32 + i - p.vbase.toNat / 65536)))

/-- A slot with its manifest. -/
def sealSlot (s : State) (k : Nat) (ds : List (Nat × List Byte)) (_ : StoreSlot) : StoreSlot :=
  { gen := some (BitVec.ofNat 64 k), stroke := s.ckpt.snapStroke.toNat, nondet := s.ckpt.snapNondet.toNat, digests := ds, counters := s.mem.counterSnap }

/-- Carry in the host store: images and entries from its other slot (R479 step 5). -/
def carryHost (s : State) (p : CkptPlan) (k : Nat) : State :=
  let j := k % 2
  (carriedList s p s.ckpt.host k).foldl (fun s rel =>
    let bs := Memory.read s.hostMem (hostStoreAddr p (imageOff p.vbytes.toNat (1 - j) (65536 * rel))) 65536
    storeHostGranule s p j rel bs (kvGetD (s.ckpt.host.getD (1 - j) StoreSlot.empty).digests rel [])) s

/-- The entries of a digest list, of zero bytes for a granule whose page was unmapped at SNAP (R474). -/
def entriesOf (p : CkptPlan) (ds : List (Nat × List Byte)) : List Byte :=
  (List.range (p.vbytes.toNat / 65536)).flatMap (fun i => padTo 16 (kvGetD ds i []))

/-- Write the digest list, the header and the manifest of a generation into the host store. -/
def sealHost (s : State) (p : CkptPlan) (k carried : Nat) (ds : List (Nat × List Byte)) : State :=
  let s := writeHostStore s p (entryOff p.vbytes.toNat (k % 2) 0) (entriesOf p ds)
  let s := writeHostStore s p 0 (storeHeader s p)
  let s := writeHostStore s p (slotOff p.vbytes.toNat (k % 2)) (manifestBytes s p k carried ds)
  { s with ckpt := { s.ckpt with host := setSlot s.ckpt.host (k % 2) (sealSlot s k ds) } }

/-- Send the lines of the digest list that hold an entry of an unmapped granule: the holder forms the other entries (R474, log 29). -/
def sendGone (s : State) (p : CkptPlan) (k : Nat) (ds : List (Nat × List Byte)) : State :=
  let all := entriesOf p ds
  let n := p.vbytes.toNat / 65536
  ((List.range ((n + 7) / 8)).filter (fun i => (List.range 8).any (fun x => 8 * i + x < n && (kvGet ds (8 * i + x)).isNone))).foldl (fun s i =>
    sendBuddy s p (xferList + i) (entryOff p.vbytes.toNat (k % 2) (65536 * (8 * i))) (slice all (128 * i) 128)) s

/-- Send the header and manifest of a generation to the buddy store. -/
def sealBuddy (s : State) (p : CkptPlan) (k carried : Nat) (ds : List (Nat × List Byte)) : State :=
  let s := sendGone s p k ds
  let s := sendBuddy s p xferHeader 0 (storeHeader s p)
  let s := sendBuddy s p xferManifest (slotOff p.vbytes.toNat (k % 2)) (manifestBytes s p k carried ds)
  { s with ckpt := { s.ckpt with buddy := setSlot s.ckpt.buddy (k % 2) (sealSlot s k ds) } }

/-- The raw bytes of a granule that the host's slot lacks: its other slot's when that holds the entry, else as the
buddy's store holds them, which the own package has not kept (log 29). -/
def bytesUnder (s : State) (p : CkptPlan) (k rel : Nat) (e : List Byte) : List Byte :=
  if kvGet (s.ckpt.host.getD (1 - k % 2) StoreSlot.empty).digests rel = some e then
    Memory.read s.hostMem (hostStoreAddr p (imageOff p.vbytes.toNat (1 - k % 2) (65536 * rel))) 65536
  else (List.range 65536).map (Config.buddyByte e)

/-- Step 7 into the host store: what differs from the primary, then the counter block and the manifest (R479). -/
def levelHost (s : State) (p : CkptPlan) (k carried : Nat) (ds : List (Nat × List Byte)) : State :=
  let j := k % 2
  let have_ := (s.ckpt.host.getD j StoreSlot.empty).digests
  let gone := have_.filter (fun e => (kvGet ds e.1).isNone)
  let s := gone.foldl (fun s e => writeHostEntry s p j e.1 (zeroBytes 16)) s
  let s := (ds.filter (fun e => kvGet have_ e.1 != some e.2)).foldl (fun s e => storeHostGranule s p j e.1 (bytesUnder s p k e.1 e.2) e.2) s
  let s := writeHostStore s p (counterOff p.vbytes.toNat j) (counterBlock s.mem.counterSnap)
  sealHost s p k carried ds

/-- Step 7 into the buddy store, from the host's slot (R479). -/
def levelBuddy (s : State) (p : CkptPlan) (k carried : Nat) (ds : List (Nat × List Byte)) : State :=
  let have_ := (s.ckpt.buddy.getD (k % 2) StoreSlot.empty).digests
  let s := (ds.filter (fun e => kvGet have_ e.1 != some e.2)).foldl (fun s e =>
    sendRecord s p k e.1 (Memory.read s.hostMem (hostStoreAddr p (imageOff p.vbytes.toNat (k % 2) (65536 * e.1))) 65536)) s
  sealBuddy (copyCounters s p k) p k carried ds

/-- Both stores are unseeded (R482, R500). -/
def refreshUnprotected (s : State) : State :=
  { s with ckpt := { s.ckpt with unprotected := !seeded s.ckpt.buddy && !seeded s.ckpt.host } }

/-- The buddy store is primary: while it is seeded, and where there is no host store (R478, R500). -/
def State.buddyPrimary (s : State) (p : CkptPlan) : Bool := (seeded s.ckpt.buddy && !s.ckpt.reseeding) || !s.hostStoreOpen p

/-- A checkpoint packet of this member is unanswered. -/
def State.ckptUnacked (s : State) : Bool :=
  let own (r : TxReq) : Bool := match r.origin with | .ckpt _ => true | _ => false
  s.fab.tx.any (fun x => (x.out ++ x.queued).any own) || s.fab.drains.any (fun d => d.held.any own)

/-- MANIFEST_WRITE: steps 5 to 7 of Table 14.6. A failed read-back leaves the primary without a manifest (R480); an
unseeded primary gets one only from a full generation (R482). -/
def execManifestWrite (readBackOk : Bool) (s : State) : Res := powered s fun s =>
  match s.ckptPlan, s.ckpt.inProgress with
  | some p, some k64 =>
    if !s.ckpt.windowClosed || s.ckpt.manifestDone || s.ckptUnacked then s
    else
      let k := k64.toNat
      let s := { s with ckpt := { s.ckpt with manifestDone := true } }
      if !readBackOk || !s.ckpt.primaryOk then { s with ckpt := { s.ckpt with primaryOk := false } }
      else
        let buddyFirst := s.buddyPrimary p
        let st := if buddyFirst then s.ckpt.buddy else s.ckpt.host
        let ds := carriedEntries s p st k
        let n := (carriedList s p st k).length
        let s := bump s ckptBase 3 n
        let whole := seeded st || s.fullGeneration p
        let s := if buddyFirst then (if whole then sealBuddy s p k n ds else s)
                 else
                   let s := carryHost s p k
                   if whole then sealHost s p k n ds else s
        if !whole then raise (refreshUnprotected s) 0x4704 srcPmc 0 k
        else
          let s := if buddyFirst then (if s.hostStoreOpen p then levelHost s p k n ds else s)
                   else if (s.buddyFab p).isNone || s.ckpt.reseeding then s
                   else if s.ckpt.secondaryBad then raise s 0x4704 srcPmc 0 k
                   else levelBuddy s p k n ds
          refreshUnprotected s
  | _, _ => s

/-! ## The commit (R480) -/

/-- COMMIT_AGREEMENT: the reduction of outcomes. With success on every member generation k is committed; a failure abandons
it, and its granules fall due again (R480; log 29). -/
def execCommitAgreement (allOk : Bool) (s : State) : Res := powered s fun s =>
  match s.ckpt.inProgress with
  | none => s
  | some k =>
    if !s.ckpt.manifestDone || s.ckptUnacked then s
    else
      let j := k.toNat % 2
      if allOk && s.ckpt.primaryOk && !s.ckpt.wardBad then
        let onHost := (s.ckpt.host.getD j StoreSlot.empty).gen == some k
        let c := { s.ckpt with gen := k, genStroke := s.ckpt.snapStroke, inProgress := none, copied := [], manifestDone := false,
                               hostSlot := if onHost then j == 1 else s.ckpt.hostSlot }
        raise (bump { s with ckpt := c } ckptBase 0 1) 0x4701 srcPmc 0 k.toNat
      else
        let again := s.ckpt.copied.filterMap (fun va => (kvGet s.mem.xlt (va / 32)).map (fun e => entryFrame e * 32 + va % 32))
        let dirty := again.foldl natInsert s.mem.dirty
        let c := { s.ckpt with inProgress := none, manifestDone := false, wardBad := false }
        raise (bump { s with ckpt := c, mem := { s.mem with dirty := dirty } } ckptBase 5 1) 0x4703 srcPmc 0 k.toNat

/-! ## Manifests in the host store (R486, R487) -/

/-- A slot of the host store as its bytes show it: its generation, stroke, digest list and counters when its manifest is valid. -/
def hostSlotOf (s : State) (p : CkptPlan) (j : Nat) : StoreSlot :=
  let rd (off n : Nat) : List Byte := Memory.read s.hostMem (hostStoreAddr p off) n
  let d := p.vbytes.toNat
  let m := rd (slotOff d j) 0x1D2
  let key := slice (rd 0 4096) 0x18 57
  let list := rd (slotOff d j + 0x200000 + d) (listBytes d)
  let block := rd (counterOff d j) 0x20000
  let ok := slice m 0 8 == ckptMagic && fieldLE m 8 2 = 1 && (shake256 key).take 16 == slice m 0x48 16 &&
    ed448Verify key "BGL-ckpt" (m.take 0x160) (slice m 0x160 114) &&
    fieldLE m 0x28 8 = p.vbase.toNat && fieldLE m 0x30 8 = d && shake256 list == slice m 0xE0 64 && shake256 block == slice m 0x120 64
  if p.hostStore = 0 || !ok then StoreSlot.empty
  else
    let entry (i : Nat) : Option (Nat × List Byte) :=
      let e := slice list (16 * i) 16
      if e.all (fun b => b == 0) then none else some (i, e)
    let counter (i : Nat) : Option (Nat × U64) :=
      let v := fieldLE block (8 * i) 8
      if v = 0 then none else some (i, BitVec.ofNat 64 v)
    { gen := some (BitVec.ofNat 64 (fieldLE m 0x10 8)), stroke := fieldLE m 0x18 8, nondet := fieldLE m 0x58 8,
      digests := (List.range (d / 65536)).filterMap entry, counters := (List.range 16384).filterMap counter }

/-! ## Restore (R467, R469, R488 to R491) -/

/-- The slot of a store that holds a generation. -/
def slotWith (st : List StoreSlot) (g : U64) : Option StoreSlot := st.find? (fun x => x.gen == some g)

/-- The generation being restored. -/
def State.resumeGen (s : State) : U64 := match s.launchOf with | some l => l.gen | none => 0

/-- Start restoring a page (R491). -/
def fetchPage (s : State) (pg : Nat) (demand : Bool) : State :=
  { s with ckpt := { s.ckpt with fetches := s.ckpt.fetches ++ [(pg, demand)] } }

/-- DEMAND_FETCH: an access to a restore-pending page has it fetched ahead of the background order; a page already on its
way is then one fetched on demand. -/
def execDemandFetch (page : U64) (s : State) : Res := powered s fun s =>
  let pg := page.toNat / 0x200000
  if !s.ckpt.restoring || !s.mem.restorePending.contains pg then s
  else
    let rest := s.ckpt.fetches.filter (fun e => e.1 != pg)
    fetchPage { s with ckpt := { s.ckpt with fetches := rest } } pg true

/-- The next page of the background order: the hints in index order, then ascending addresses (R491). -/
def State.nextRestore (s : State) : Option Nat :=
  let hints := match s.job with | some j => j.hintPages.map (fun e => e.2.toNat / 0x200000) | none => []
  (hints ++ s.mem.restorePending).find? (fun pg => s.mem.restorePending.contains pg && !s.ckpt.fetches.any (fun e => e.1 == pg))

/-- BACKGROUND_RESTORE: the next page of the background order is fetched. -/
def execBackgroundRestore (s : State) : Res := powered s fun s =>
  if !s.ckpt.restoring then s
  else match s.nextRestore with
    | none => s
    | some pg => fetchPage s pg false

/-- The granules of a page that a restore writes, as job virtual granules. -/
def State.pageGranules (s : State) (pg : Nat) : List Nat := s.mem.rollback.filter (fun g => g / 32 == pg)

/-- The last page has been restored (R491). -/
def endRestore (s : State) : State :=
  if s.mem.restorePending.isEmpty then raise { s with ckpt := { s.ckpt with restoring := false, fetches := [] } } 0x4706 srcPmc 0 0 else s

/-- The buddy store survives and holds G*, so that the member restores from it; else it restores from its host store (R469). -/
def State.fromBuddy (s : State) : Bool := s.ckpt.blind || (slotWith s.ckpt.buddy s.resumeGen).isSome

/-- Write a granule whole into the frame of its page, whatever the page permits the job (R490). -/
def restoreGranule (s : State) (va : Nat) (bs : List Byte) : State :=
  match kvGet s.mem.xlt (va / 32) with
  | none => s
  | some e => (List.range 512).foldl (fun s i =>
      writeLine s (entryFrame e * 0x200000 + va % 32 * 65536 + 128 * i) (slice bs (128 * i) 128)) s

/-- PAGE_RESTORED: each granule is checked against its digest-list entry and written, once its stacks take accesses (R342);
a mismatch ends the restore with 0x8705 and 0x4705 (R488); a granule whose page was unmapped at SNAP is not restored (R474). -/
def execPageRestored (page : U64) (src : RestoreSrc) (s : State) : Res := powered s fun s =>
  let pg := page.toNat / 0x200000
  match s.ckptPlan, s.ckpt.fetches.find? (fun e => e.1 == pg) with
  | some p, some (_, demand) =>
    let base := p.vbase.toNat / 65536
    let g := s.resumeGen
    let st := match src with | .host => s.ckpt.host | .buddy _ => s.ckpt.buddy
    let lists := (slotWith st g).map StoreSlot.digests
    let blind := match src with | .host => false | .buddy _ => s.ckpt.blind
    let bytesOf (va : Nat) : List Byte :=
      match src with
      | .host => Memory.read s.hostMem (hostStoreAddr p (imageOff p.vbytes.toNat (g.toNat % 2) (65536 * (va - base)))) 65536
      | .buddy l => padTo 65536 (((l.find? (fun e => e.1 == va % 32)).map Prod.snd).getD [])
    let sent (va : Nat) : Bool := match src with | .host => false | .buddy l => l.any (fun e => e.1 == va % 32)
    let due := (s.pageGranules pg).filter (fun va => match lists with | some ds => (kvGet ds (va - base)).isSome | none => sent va)
    let held (va : Nat) : Bool := match kvGet s.mem.xlt pg with | some e => s.granuleHeld (entryFrame e * 32 + va % 32) | none => true
    let right := match src with | .host => !s.fromBuddy | .buddy _ => s.fromBuddy
    if !s.ckpt.restoring || !right || !s.mem.restorePending.contains pg || due.any held || (lists.isNone && !blind) then s
    else
      let bad (va : Nat) : Bool := match lists with | some ds => kvGet ds (va - base) != some (granuleDigest (bytesOf va)) | none => false
      match due.find? bad with
      | some va =>
        raise { s with ckpt := { s.ckpt with restoring := false, restoreFailed := true, fetches := [] } } 0x4705 srcPmc (va * 65536) 0x8705
      | none =>
        let s := due.foldl (fun s va => restoreGranule s va (bytesOf va)) s
        let pend := natErase s.mem.restorePending pg
        let fetches := s.ckpt.fetches.filter (fun e => e.1 != pg)
        let s := { s with mem := { s.mem with restorePending := pend }, ckpt := { s.ckpt with fetches := fetches } }
        endRestore (bump s ckptBase (if demand then 6 else 7) 1)
  | _, _ => s

/-- BUDDY_RESEED: after 'go' the host slot of G* is copied into the new buddy store: image, digest list, counter block,
then manifest (R500). -/
def execBuddyReseed (s : State) : Res := powered s fun s =>
  match s.ckptPlan, slotWith s.ckpt.host s.resumeGen with
  | some p, some x =>
    if !s.ckpt.reseeding || !s.running then s
    else
      let k := s.resumeGen.toNat
      let j := k % 2
      let rd (off n : Nat) : List Byte := Memory.read s.hostMem (hostStoreAddr p off) n
      let d := p.vbytes.toNat
      let s := x.digests.foldl (fun s e => sendRecord s p k e.1 (rd (imageOff d j (65536 * e.1)) 65536)) s
      let s := sendBuddy s p xferList (entryOff d j 0) (rd (entryOff d j 0) (listBytes d))
      let s := [0, 1].foldl (fun s h =>
        sendBuddy s p (0xFFFFFFE0 + h) (counterOff d j + 0x10000 * h) (rawRecord (0xFFFFFFFFFFFF0000 + h) k (rd (counterOff d j + 0x10000 * h) 0x10000))) s
      let s := sendBuddy s p xferHeader 0 (rd 0 81)
      let s := sendBuddy s p xferManifest (slotOff d j) (rd (slotOff d j) 0x1D2)
      let buddy := setSlot s.ckpt.buddy j (fun _ => x)
      refreshUnprotected { s with ckpt := { s.ckpt with buddy := buddy, reseeding := false } }
  | _, _ => s

end Sys2Proof.Machine
end

