-- ==== Sys2Proof/Machine/Operands.lean ====
section
/-! DEFINITION. Operands of the tile: element formats, matrices and scale arrays in the tile store, the output
conversion with its block scales, stochastic rounding, macro-blocks and output tiles (R49 to R51, R55 to R59,
R69 to R77, R93, R94, R105, R106). -/

namespace Sys2Proof.Machine

/-! ## Element formats (Table 2.1, Table 3.10) -/

/-- The element formats. -/
inductive EFmt where
  | fp64 | fp32 | bf16 | fp16 | e5m2 | e4m3 | e2m1 | int8 | int32
  deriving DecidableEq, Repr

/-- The format of a code of Table 3.10. -/
def EFmt.ofCode (c : Nat) : Option EFmt :=
  match c with
  | 0 => some .fp64 | 1 => some .fp32 | 2 => some .bf16 | 3 => some .fp16 | 4 => some .e5m2
  | 5 => some .e4m3 | 6 => some .e2m1 | 7 => some .int8 | 8 => some .int32 | _ => none
/-- The floating-point format; none of the integers. -/
def EFmt.fmt (f : EFmt) : Option Fmt :=
  match f with
  | .fp64 => some Machine.fp64 | .fp32 => some Machine.fp32 | .bf16 => some Machine.bf16 | .fp16 => some Machine.fp16
  | .e5m2 => some Machine.e5m2 | .e4m3 => some Machine.e4m3 | .e2m1 => some Machine.e2m1 | .int8 => none | .int32 => none
/-- Width in bits. -/
def EFmt.bits (f : EFmt) : Nat :=
  match f with
  | .fp64 => 64 | .fp32 => 32 | .int32 => 32 | .bf16 => 16 | .fp16 => 16 | .e5m2 => 8 | .e4m3 => 8 | .int8 => 8 | .e2m1 => 4
/-- Bytes of a row of elements. -/
def EFmt.rowBytes (f : EFmt) (n : Nat) : Nat := (n * f.bits + 7) / 8
/-- The exact value of stored bits. -/
def EFmt.value (f : EFmt) (b : Nat) : Fp :=
  match f.fmt with
  | some g => g.decode b
  | none => Fp.ofInt (toSigned f.bits b)
/-- A target that stochastic rounding applies to (R73). -/
def EFmt.stochastic (f : EFmt) : Bool :=
  match f with | .bf16 => true | .fp16 => true | .e5m2 => true | .e4m3 => true | .e2m1 => true | _ => false

/-! ## Areas -/

/-- A contiguous area. -/
def flatArea (base n : Nat) : Area := ⟨base, 0, 1, n⟩

/-- A matrix of elements. -/
def matArea (f : EFmt) (base pitch rows cols : Nat) : Area := ⟨base, pitch, rows, f.rowBytes cols⟩

/-! ## Matrices -/

/-- An entry of a matrix. -/
def gridGet {α : Type} (g : List (List α)) (r c : Nat) (d : α) : α := (g.getD r []).getD c d
/-- A matrix given entry by entry. -/
def gridOf {α : Type} (rows cols : Nat) (f : Nat → Nat → α) : List (List α) :=
  (List.range rows).map (fun r => (List.range cols).map (fun c => f r c))
/-- The columns of a matrix. -/
def gridColumns {α : Type} (g : List (List α)) (cols : Nat) (d : α) : List (List α) :=
  (List.range cols).map (fun c => g.map (fun row => row.getD c d))

/-- The stored bits of element (r, c); two E2M1 elements share a byte (R51). -/
def Tile.elem (x : Tile) (f : EFmt) (base pitch r c : Nat) : Nat :=
  let a := base + r * pitch + c * f.bits / 8
  match f with
  | .e2m1 => (if c % 2 = 0 then leNat (x.read a 1) % 16 else leNat (x.read a 1) / 16)
  | _ => leNat (x.read a (f.bits / 8))

/-- A matrix of `rows` by `cols` as consumed; under `trans` it is stored transposed (R105). -/
def Tile.matrix (x : Tile) (f : EFmt) (base pitch rows cols : Nat) (trans : Bool) : List (List Fp) :=
  gridOf rows cols (fun r c => f.value (if trans then x.elem f base pitch c r else x.elem f base pitch r c))

/-- `n` contiguous elements. -/
def Tile.vector (x : Tile) (f : EFmt) (base n : Nat) : List Fp := (List.range n).map (fun i => f.value (x.elem f base 0 0 i))

/-- The writes of a row of codes; an absent code leaves its element as it is. -/
def Tile.rowWrites (x : Tile) (f : EFmt) (a : Nat) (row : List (Option Nat)) : List (Nat × List Byte) :=
  match f with
  | .e2m1 => (List.range ((row.length + 1) / 2)).filterMap (fun i =>
      let old := leNat (x.read (a + i) 1)
      match row.getD (2 * i) none, row.getD (2 * i + 1) none with
      | none, none => none
      | lo, hi => some (a + i, leBytes 1 (lo.getD (old % 16) + 16 * hi.getD (old / 16))))
  | _ => (row.mapIdx (fun j v => (j, v))).filterMap (fun e => e.2.map (fun v => (a + e.1 * (f.bits / 8), leBytes (f.bits / 8) v)))

/-- The writes of a matrix of codes (R95). -/
def Tile.matWrites (x : Tile) (f : EFmt) (base pitch : Nat) (g : List (List (Option Nat))) : List (Nat × List Byte) :=
  (g.mapIdx (fun r row => x.rowWrites f (base + r * pitch) row)).flatten

/-- The writes of a contiguous run of codes. -/
def vecWrites (f : EFmt) (base : Nat) (v : List (Option Nat)) : List (Nat × List Byte) :=
  (v.mapIdx (fun j e => (j, e))).filterMap (fun e => e.2.map (fun b => (base + e.1 * (f.bits / 8), leBytes (f.bits / 8) b)))

/-! ## Scale descriptors and block scales (Table 2.4, Table 2.5) -/

/-- MODE, BLOCK_SIZE in elements and BLOCK_DIR of a SCALE_DESC. -/
def scaleMode (d : Nat) : Nat := bitsOf d 1 0
def scaleBlock (d : Nat) : Nat := 16 <<< bitsOf d 4 2
def scaleAcross (d : Nat) : Bool := bitOf d 5
/-- MODE 3, or a reserved BLOCK_SIZE under MODE 2 (R55). -/
def scaleReserved (d : Nat) : Bool := scaleMode d = 3 || (scaleMode d = 2 && 4 < bitsOf d 4 2)

/-- Blocks of `bs` elements of a matrix: along its rows, or along its columns. -/
structure Blocks where
  along : Bool
  bs    : Nat
  rows  : Nat
  cols  : Nat
  deriving DecidableEq, Repr

/-- Block rows and block columns of the scale array. -/
def Blocks.grid (k : Blocks) : Nat × Nat :=
  if k.along then (k.rows, (k.cols + k.bs - 1) / k.bs) else ((k.rows + k.bs - 1) / k.bs, k.cols)
/-- Bytes of the scale array (Table 2.5). -/
def Blocks.bytes (k : Blocks) : Nat := k.grid.1 * k.grid.2
/-- The block of an element, as its index in the scale array. -/
def Blocks.index (k : Blocks) (r c : Nat) : Nat := if k.along then r * k.grid.2 + c / k.bs else r / k.bs * k.grid.2 + c
/-- The elements of block (br, bc) that are present. -/
def Blocks.cells (k : Blocks) (br bc : Nat) : List (Nat × Nat) :=
  if k.along then (List.range (min k.bs (k.cols - bc * k.bs))).map (fun i => (br, bc * k.bs + i))
  else (List.range (min k.bs (k.rows - br * k.bs))).map (fun i => (br * k.bs + i, bc))

/-- A value times a block scale byte; 0xFF makes a NaN (R57, R59). -/
def scaleBy (byte : Nat) (v : Fp) : Fp := if byte = 0xFF then .nan else v.scale ((byte : Int) - 127)

/-- A matrix times the block scales at `base`. -/
def Tile.unscale (x : Tile) (k : Blocks) (base : Nat) (g : List (List Fp)) : List (List Fp) :=
  g.mapIdx (fun r row => row.mapIdx (fun c v => scaleBy (leNat (x.read (base + k.index r c) 1)) v))

/-- The largest magnitude of a list; zero for none. -/
def amaxOf (vs : List Fp) : Fp := vs.foldl (fun a v => if Fp.lt a v.abs then v.abs else a) Fp.zero

/-- The scale byte of a block of values whose target's largest binary exponent is `emax` (R72, R204). -/
def blockByte (emax : Int) (vs : List Fp) : Nat :=
  if vs.any (fun v => !v.isFinite) then 0xFF
  else if (amaxOf vs).isZero then 0x7F
  else (max 0 (min 254 (127 + (amaxOf vs).logb - emax))).toNat

/-! ## Conversion of one element (R69 to R73, R173) -/

/-- Conversion to INT32: nearest, ties to even, saturating at −2³¹+1 and 2³¹−1, NaN to 0 (R173). -/
def toInt32 (nonsat : Bool) (x : Fp) : Int × Bool :=
  let lim : Int := 2 ^ 31 - 1
  match x with
  | .nan => (0, false)
  | .inf s => (if s then -lim else lim, false)
  | .fin .. =>
    let n := x.nearestInt
    if n < -lim then (-lim, !nonsat) else if lim < n then (lim, !nonsat) else (n, false)

/-- Convert a value: bits, and whether a finite overflow saturated under SAT. -/
def EFmt.convert (f : EFmt) (nonsat : Bool) (k : Rnd) (v : Fp) : Nat × Bool :=
  match f.fmt with
  | some g => ((g.convert nonsat (if f.stochastic then k else .rne) v).bits, (g.convert nonsat (if f.stochastic then k else .rne) v).sat)
  | none =>
    let r := if f = .int8 then toInt8 nonsat v else toInt32 nonsat v
    (ofSignedBits f.bits r.1, r.2)

/-- KIND of NAN_INF for an element: its value before the output conversion, or the bits after it (R76). An infinity that
becomes a NaN keeps the kind that it had before (DESIGN CHOICE, log 31). -/
def outKind (f : EFmt) (v : Fp) (bits : Nat) : Option Nat :=
  if !v.isFinite then some v.kind
  else match f.fmt with
    | some g => if (g.decode bits).isFinite then none else some (g.decode bits).kind
    | none => none

/-! ## Stochastic rounding (R73, R74, R446) -/

/-- How the conversions of an instruction round: stochastic with a seed and a stroke, at addresses from `vaddr` with a row pitch. -/
structure OutRound where
  sr     : Bool
  seed   : Nat
  stroke : Nat
  vaddr  : Nat
  pitch  : Nat
  width  : Nat      -- bytes between elements; 0 for E2M1, whose addresses are nibble addresses
  deriving DecidableEq, Repr

/-- The vaddr of element (r, c). -/
def OutRound.addr (o : OutRound) (r c : Nat) : Nat :=
  if o.width = 0 then 2 * (o.vaddr + r * o.pitch) + c else o.vaddr + r * o.pitch + c * o.width
/-- The rounding of element (r, c). -/
def OutRound.rnd (o : OutRound) (r c : Nat) : Rnd := if o.sr then .sr (srBits o.seed o.stroke (o.addr r c % 2 ^ 64)) else .rne

/-- The seed in force: the job's, or the time counter at launch (R74). -/
def State.roundSeed (s : State) : Nat :=
  if s.seedPresent then (match s.launchOf with | some l => l.seed.toNat | none => 0)
  else match s.job with | some j => j.timeSeed.toNat | none => 0

/-- The rounding of an instruction's output. -/
def outRound (s : State) (sr : Bool) (vaddr pitch : Nat) (f : EFmt) : OutRound :=
  { sr := sr, seed := s.roundSeed, stroke := s.stroke.count.toNat, vaddr := vaddr, pitch := pitch, width := f.bits / 8 }

/-- An instruction that rounds stochastically without a job seed is counted once (R74, R447). -/
def noteSeed (s : State) (sr : Bool) : State := if sr && !s.seedPresent then countNondet s 1 else s

/-- Stochastic rounding without a job seed under DET_STRICT (R446). -/
def State.unseededStrict (s : State) (sr : Bool) : Bool := sr && s.strict && !s.seedPresent

/-! ## Output conversion of a matrix -/

/-- What an output conversion gives: codes (absent: not written), scale bytes (absent: not written), saturations. -/
structure OutMat where
  codes  : List (List (Option Nat))
  scales : List (Option Nat)
  sats   : Nat
  deriving DecidableEq, Repr

/-- Convert values element by element; an absent value has no code. -/
def convertPlain (f : EFmt) (nonsat : Bool) (o : OutRound) (vals : List (List (Option Fp))) : OutMat :=
  let g := vals.mapIdx (fun r row => row.mapIdx (fun c v => v.map (fun v => f.convert nonsat (o.rnd r c) v)))
  { codes := g.map (fun row => row.map (fun e => e.map Prod.fst)), scales := [],
    sats := (g.map (fun row => (row.filter (fun e => match e with | some p => p.2 | none => false)).length)).sum }

/-- Convert values in blocks with a scale byte each (R72, R204); absent values take no part, and a block
without a present value has no scale byte. -/
def convertBlocks (f : EFmt) (emax : Int) (nonsat : Bool) (o : OutRound) (k : Blocks) (vals : List (List (Option Fp))) : OutMat :=
  let blocks := gridOf k.grid.1 k.grid.2 (fun br bc => (k.cells br bc).filterMap (fun p => gridGet vals p.1 p.2 none))
  let bytes : List (Option Nat) := blocks.flatten.map (fun vs => if vs.isEmpty then none else some (blockByte emax vs))
  let zeros := blocks.flatten.map (fun vs => (amaxOf vs).isZero)
  let code (r c : Nat) (v : Fp) : Nat × Bool :=
    let i := k.index r c
    let b := (bytes.getD i none).getD 0x7F
    if b = 0xFF || zeros.getD i true then (0, false) else f.convert nonsat (o.rnd r c) (v.scale (127 - (b : Int)))
  let g := vals.mapIdx (fun r row => row.mapIdx (fun c v => v.map (fun v => code r c v)))
  { codes := g.map (fun row => row.map (fun e => e.map Prod.fst)), scales := bytes,
    sats := (g.map (fun row => (row.filter (fun e => match e with | some p => p.2 | none => false)).length)).sum }

/-! ## Macro-blocks and output tiles (R93, R94, R154) -/

/-- The starts of pieces of length `k` of a range of length `n`. -/
def starts (n k : Nat) : List Nat := (List.range ((n + k - 1) / k)).map (fun i => i * k)

/-- Macro-block rows and columns of R93 from u, MCAP and CAP. -/
def macroBlock (m n u mcap cap : Nat) : Nat × Nat :=
  let mb := min (roundUp m u) mcap
  (mb, min (roundUp n u) (cap / mb / u * u))
/-- Macro-block rows and columns of a whole-row chain (R154). -/
def wholeRowBlock (m n : Nat) : Nat × Nat :=
  let nb := roundUp n 128
  (min (min (roundUp m 128) 384) (147456 / nb / 128 * 128), nb)

/-- The output tiles of side `ts` in write order: first row and column, rows and columns that exist (R94). -/
def outTiles (m n : Nat) (blk : Nat × Nat) (ts : Nat) : List (Nat × Nat × Nat × Nat) :=
  (starts m blk.1).flatMap (fun r => (starts n blk.2).flatMap (fun c =>
    (starts (min blk.1 (m - r)) ts).flatMap (fun i => (starts (min blk.2 (n - c)) ts).map (fun j =>
      (r + i, c + j, min ts (min blk.1 (m - r) - i), min ts (min blk.2 (n - c) - j))))))

/-- The lowest row-major position of an output tile at which a condition gives a value (R77). -/
def firstHit {α : Type} (cond : Nat → Nat → Option α) (p : Nat × Nat × Nat × Nat) : Option (Nat × α) :=
  (List.range p.2.2.1).findSome? (fun i => (List.range p.2.2.2).findSome? (fun j =>
    (cond (p.1 + i) (p.2.1 + j)).map (fun k => (i * 128 + j, k))))

/-- Count the output tiles of an instruction, in write order, against the flag records (R77, R186). -/
def noteOutTiles (s : State) (t : TileId) (element : Bool) (tiles : List (Nat × Nat × Nat × Nat))
    (kind : Nat → Nat → Option Nat) (ewl : Nat → Nat → Option Unit) : State :=
  tiles.foldl (fun s p => noteOutTile s t
    ((firstHit kind p).map (fun h => { kind := h.2, element := element, position := h.1 })) ((firstHit ewl p).map Prod.fst)) s

/-- Some element of the instruction raises a condition. -/
def anyHit {α : Type} (tiles : List (Nat × Nat × Nat × Nat)) (cond : Nat → Nat → Option α) : Bool :=
  tiles.any (fun p => (firstHit cond p).isSome)

/-- The timing counters of a tile's units advance by amounts that the model leaves free (log 10). -/
def bumpTimes (s : State) (t : TileId) (l : List Nat) : State := l.foldl (fun s n => bumpClocks s (tileRegs t) n) s

/-- Count `k` on a tile counter; nothing is counted for 0. -/
def countTile (s : State) (t : TileId) (n k : Nat) : State := if k = 0 then s else bump s (tileRegs t) n k

end Sys2Proof.Machine
end

