-- ==== Sys2Proof/Machine/Transc.lean ====
section
/-! DEFINITION. The functions of Table 5.7 to within a relative error below 2⁻¹⁰⁰, in fixed-point arithmetic, and the test
of a result against its bound in ulp (R184). -/

namespace Sys2Proof.Machine

/-- Fraction bits of the fixed-point numbers of this file: enough for every FP64 argument and result. -/
def fixBits : Nat := 1500
/-- One. -/
def fixOne : Int := 2 ^ fixBits
/-- The fixed-point number of a finite value. -/
def toFix (x : Fp) : Int :=
  match x with
  | .fin s m e => if 0 ≤ e + fixBits then signed s (m * 2 ^ (e + fixBits).toNat) else signed s (m / 2 ^ (-(e + fixBits)).toNat)
  | _ => 0
/-- The value of a fixed-point number. -/
def ofFix (n : Int) : Fp := ofSigned false n (-(fixBits : Int))
/-- Product and quotient of fixed-point numbers. -/
def mulFix (a b : Int) : Int := a * b / fixOne
def divFix (a b : Int) : Int := a * fixOne / b

/-- Σ ± z^(2k+1) / (2k+1): the series of atan (alternating) and of atanh. -/
def atanSeries (alternate : Bool) (z2 : Int) : Nat → Nat → Int → Int → Int
  | 0, _, _, acc => acc
  | f + 1, k, p, acc =>
    if p = 0 then acc
    else atanSeries alternate z2 f (k + 1) (mulFix p z2) (if alternate && k % 2 = 1 then acc - p / (2 * k + 1) else acc + p / (2 * k + 1))
/-- atan z and atanh z for a small argument. -/
def atanFix (z : Int) : Int := atanSeries true (mulFix z z) 800 0 z 0
def atanhFix (z : Int) : Int := atanSeries false (mulFix z z) 800 0 z 0
/-- π, by Machin's formula, and ln 2. -/
def piFix : Int := 16 * atanFix (fixOne / 5) - 4 * atanFix (fixOne / 239)
def ln2Fix : Int := 2 * atanhFix (fixOne / 3)

/-- Σ p r^n / (s (s+1) …): exponential-like series whose n-th factor is r over `step n`. -/
def factorSeries (r : Int) (step : Nat → Nat) : Nat → Nat → Int → Int → Int
  | 0, _, _, acc => acc
  | f + 1, n, p, acc => if p = 0 then acc else factorSeries r step f (n + 1) (mulFix p r / (step (n + 1) : Int)) (acc + p)
/-- e^r for 0 ≤ r < 1. -/
def expSmall (r : Int) : Int := factorSeries r id 400 0 fixOne 0
/-- sin r and cos r for |r| ≤ 1. -/
def sinSmall (r : Int) : Int := factorSeries (-(mulFix r r)) (fun n => 2 * n * (2 * n + 1)) 300 0 r 0
def cosSmall (r : Int) : Int := factorSeries (-(mulFix r r)) (fun n => (2 * n - 1) * (2 * n)) 300 0 fixOne 0

/-- e^x as a number; beyond the range of every format, infinity or a number that rounds to zero. -/
def expValue (x : Int) : Fp :=
  if 3000 * fixOne < x then .inf false
  else if x < -3000 * fixOne then .fin false 1 (-4000)
  else
    let k := x / ln2Fix
    ofSigned false (expSmall (x - k * ln2Fix)) (k - fixBits)
/-- e^(−a) in fixed point, for a ≥ 0. -/
def expNeg (a : Int) : Int := toFix (expValue (-a))

/-- ln of a positive number. -/
def lnFix (m : Nat) (e : Int) : Int :=
  let l := bitLen m
  let y : Int := (m : Int) * 2 ^ (fixBits + 64) / 2 ^ (l + 64)
  let low := 10 * y < 7 * fixOne
  let y := if low then 2 * y else y
  2 * atanhFix (divFix (y - fixOne) (y + fixOne)) + (e + l - (if low then 1 else 0)) * ln2Fix

/-- sin (x + q·π/2) for a whole number q of quarter turns. -/
def sinFix (x : Int) (q : Int) : Int :=
  let half := piFix / 2
  let n := (x + half / 2) / half
  let r := x - n * half
  match ((n + q) % 4).toNat with
  | 0 => sinSmall r
  | 1 => cosSmall r
  | 2 => -(sinSmall r)
  | _ => -(cosSmall r)

/-- 1/(1 + e^(−x)). -/
def sigmoidFix (x : Int) : Int :=
  let t := expNeg (if x < 0 then -x else x)
  divFix (if x < 0 then t else fixOne) (fixOne + t)

/-- 1/√(m·2^e). -/
def rsqrtValue (m : Nat) (e : Int) : Fp :=
  let odd : Nat := if e % 2 = 0 then 0 else 1
  let v := 2 ^ 800 / (m * 2 ^ odd)
  .fin false (isqrt (bitLen v / 2 + 1) 0 v) (-400 - (e - odd) / 2)

/-- Function `f` of Table 5.7, by its OP code, at a finite argument where no fixed result stands. -/
def transcExact (f : Nat) (x : Fp) : Fp :=
  let v := toFix x
  let half := fun (u : Int) => if u < 0 then -u else u
  match f, x with
  | 0x21, _ => expValue v
  | 0x22, _ => if 3000 * fixOne < half v then expValue v else expValue (mulFix v ln2Fix)
  | 0x23, .fin _ m e => ofFix (lnFix m e)
  | 0x24, .fin _ m e => ofFix (divFix (lnFix m e) ln2Fix)
  | 0x25, .fin _ m e => rsqrtValue m e
  | 0x26, _ => ofFix (sinFix v 0)
  | 0x27, _ => ofFix (sinFix v 1)
  | 0x28, _ =>
    let t := expNeg (2 * half v)
    let y := divFix (fixOne - t) (fixOne + t)
    ofFix (if v < 0 then -y else y)
  | 0x29, _ => ofFix (sigmoidFix v)
  | 0x2A, _ =>
    let c := divFix (44715 * fixOne) (1000000 * fixOne)
    let root : Int := (isqrt (3 * fixBits) 0 (2 * 2 ^ (3 * fixBits) / piFix.toNat) : Nat)
    let u := mulFix root (v + mulFix c (mulFix v (mulFix v v)))
    x.mul (ofFix (sigmoidFix (2 * u)))
  | _, _ => x.mul (ofFix (sigmoidFix v))

/-- The bound of Table 5.7 in half ulps. -/
def transcBound (f : Nat) : Nat := if f ≤ 0x25 then 2 else if f ≤ 0x27 then 3 else 4

/-- The ulp of R184 at a value: its exponent. -/
def ulpExp (g : Fmt) (y : Fp) : Int := if y.isZero then g.emin else max (y.logb - g.mb) g.emin

/-- A result lies within the bound of function `f` around the value `y`; the bound is wider by 2⁻⁴⁰ ulp, for the error of `y`. -/
def withinBound (f : Nat) (g : Fmt) (r y : Fp) : Bool :=
  let slack : Fp := .fin false (transcBound f * 2 ^ 40 + 1) (ulpExp g y - 41)
  match r, y with
  | .fin .., .fin .. => !Fp.lt slack (r.sub y).abs
  | .inf s, .inf t => s == t
  | .inf s, .fin t .. => s == t && Fp.lt (.fin false g.maxSig g.maxExp) (y.abs.add slack)
  | _, _ => false

end Sys2Proof.Machine
end

