-- ==== Sys2Proof/Machine/Reduce.lean ====
section
/-! DEFINITION. The arithmetic that fused chains and the element engine share: the reduction tree, row-statistics
records, the carried merge, and the transcendental functions with their fixed points (R138, R145 to R147,
R150 to R152, R177, R184, R185). -/

namespace Sys2Proof.Machine

/-- One rounding to FP32. -/
def f32 (x : Fp) : Fp := fp32.round x
/-- One rounding to FP64. -/
def f64 (x : Fp) : Fp := fp64.round x
/-- FP32 sum, one rounding. -/
def add32 (x y : Fp) : Fp := f32 (x.add y)

/-! ## The reduction tree (Table 5.5, R177) -/

/-- One level: neighbours combined. -/
def pairUp (op : Fp → Fp → Fp) : List Fp → List Fp
  | x :: y :: r => op x y :: pairUp op r
  | l => l

/-- The seven-level tree of a segment of 128 positions. -/
def tree128 (op : Fp → Fp → Fp) (v : List Fp) : Fp := (((List.range 7).foldl (fun v _ => pairUp op v) v).head?).getD Fp.zero

/-- Segment `t` of a row: absent positions and inactive elements hold the identity. -/
def segment (ident : Fp) (row : List (Option Fp)) (t : Nat) : List Fp :=
  (List.range 128).map (fun i => (row.getD (128 * t + i) none).getD ident)

/-- The reduction of a row: its segments by the tree, then in ascending order. -/
def rowReduce (op : Fp → Fp → Fp) (ident : Fp) (row : List (Option Fp)) : Fp :=
  ((List.range ((row.length + 127) / 128)).drop 1).foldl (fun a t => op a (tree128 op (segment ident row t))) (tree128 op (segment ident row 0))

/-- −0 is below +0 (R170). -/
def below (x y : Fp) : Bool := Fp.lt x y || (Fp.eqv x y && x.isNeg && !y.isNeg)

/-- The smaller or the larger of two values; with `skip` a NaN is ignored (R170). -/
def pickOf (least skip : Bool) (x y : Fp) : Fp :=
  if x.isNan || y.isNan then (if !skip then .nan else if x.isNan then y else x)
  else if (if least then below y x else below x y) then y else x

/-! ## Row-statistics records (Table 4.6, R150 to R152, R176) -/

/-- The largest or smallest of a list of values without NaN; canonical NaN for none. -/
def extremeOf (least : Bool) (l : List Fp) : Fp := match l with | [] => .nan | x :: r => r.foldl (pickOf least false) x

/-- The record of a segment; absent entries are inactive. -/
def statsRecord (row : List (Option Fp)) : List Byte :=
  let xs := row.filterMap id
  let sum := rowReduce add32 Fp.zero row
  let mean := f32 (sum.div (Fp.ofInt xs.length))
  let sq (x : Fp) : Fp := f32 ((f32 (x.sub mean)).mul (f32 (x.sub mean)))
  let sumsq := rowReduce add32 Fp.zero (row.map (fun e => e.map sq))
  let flags := bitAt (xs.any Fp.isNan) 0 + bitAt (xs.any (fun x => x == .inf false)) 1 + bitAt (xs.any (fun x => x == .inf true)) 2
  let real := xs.filter (fun x => !x.isNan)
  let max := if xs.isEmpty then .inf true else extremeOf false real
  let min := if xs.isEmpty then .inf false else extremeOf true real
  leBytes 4 (fp32.encode (if xs.isEmpty then Fp.zero else if flags != 0 then .nan else sum)) ++
  leBytes 4 (fp32.encode (if xs.isEmpty then Fp.zero else if flags != 0 then .nan else sumsq)) ++
  leBytes 4 (fp32.encode max) ++ leBytes 4 (fp32.encode min) ++ leBytes 2 xs.length ++ leBytes 2 flags ++ zeroBytes 12

/-! ## The carried merge (R145) -/

/-- The merge so far: whether a flag was seen, and n, mean and m2 once a record has counted. -/
structure Carried where
  bad  : Bool
  got  : Option (Fp × Fp × Fp)
  deriving DecidableEq, Repr

/-- Merge one record. -/
def carryRecord (a : Carried) (r : List Byte) : Carried :=
  let a := { a with bad := a.bad || fieldLE r 0x12 2 % 8 != 0 }
  let count := fieldLE r 0x10 2
  if count = 0 then a
  else
    let nb := Fp.ofInt count
    let mb := f32 ((fp32.decode (fieldLE r 0 4)).div nb)
    let sc := fp32.decode (fieldLE r 4 4)
    match a.got with
    | none => { a with got := some (nb, mb, sc) }
    | some (n, mean, m2) =>
      let nn := add32 n nb
      let delta := f32 (mb.sub mean)
      let mean' := add32 mean (f32 ((f32 (delta.mul nb)).div nn))
      let m2' := add32 (add32 m2 sc) (f32 ((f32 ((f32 (delta.mul delta)).mul (f32 (n.mul nb)))).div nn))
      { a with got := some (nn, mean', m2') }

/-- Mean and reciprocal standard deviation of a row; none for a row of NaN. -/
def carriedRow (recs : List (List Byte)) (eps : Fp) (rms : Bool) : Option (Fp × Fp) :=
  let a := recs.foldl carryRecord { bad := false, got := none }
  match a.got with
  | none => none
  | some (n, mean, m2) =>
    if a.bad then none
    else
      let var := f32 (m2.div n)
      let var := if rms then add32 var (f32 (mean.mul mean)) else var
      some (mean, f32 (Fp.one.div (f32 (Fp.sqrt (add32 var eps)))))

/-- The records of row `i` of `n` records of 32 bytes at `base`. -/
def Tile.records (x : Tile) (base i n : Nat) : List (List Byte) := (List.range n).map (fun t => x.read (base + (i * n + t) * 32) 32)

/-! ## Transcendental functions (Table 5.7) -/

/-- The integer that a finite value is, when it is one below 2^12. -/
def smallInt (x : Fp) : Option Int :=
  match x with
  | .fin s m e =>
    if m = 0 then some 0
    else if 12 ≤ x.logb then none
    else if 0 ≤ e then some (signed s (m * 2 ^ e.toNat))
    else if m % 2 ^ (-e).toNat = 0 then some (signed s (m / 2 ^ (-e).toNat))
    else none
  | _ => none

/-- A positive power of two. -/
def isPow2 (x : Fp) : Bool := match x with | .fin s m _ => !s && m != 0 && m = 2 ^ Nat.log2 m | _ => false

/-- The fixed points of the logarithms. -/
def logFixed (x : Fp) : Option Fp :=
  if x.isZero then some (.inf true) else if x == .inf false then some (.inf false) else if x.isNeg then some .nan else none

/-- The results that Table 5.7 fixes for function `f` (its OP code) in a format. -/
def transcFixed (f : Nat) (g : Fmt) (x : Fp) : Option Fp :=
  if x.isNan then some .nan
  else match f with
  | 0x21 => match x with | .inf s => some (if s then Fp.zero else .inf false) | _ => none
  | 0x22 => match x with
    | .inf s => some (if s then Fp.zero else .inf false)
    | _ => match smallInt x with
      | some n => if g.emin ≤ n && n ≤ (g.bias : Int) then some (.fin false 1 n) else none
      | none => none
  | 0x23 => match logFixed x with
    | some y => some y
    | none => if Fp.eqv x Fp.one then some Fp.zero else none
  | 0x24 => match logFixed x with
    | some y => some y
    | none => if isPow2 x then some (Fp.ofInt x.logb) else none
  | 0x25 => match x with
    | .inf s => some (if s then .nan else Fp.zero)
    | .fin s m _ => if m = 0 then some (.inf s) else if s then some .nan else none
    | .nan => some .nan
  | 0x26 => if x.isInf then some .nan else if x.isZero then some x else none
  | 0x27 => if x.isInf then some .nan else if x.isZero then some Fp.one else none
  | 0x28 => match x with | .inf s => some (.fin s 1 0) | _ => none
  | 0x29 => match x with | .inf s => some (if s then Fp.zero else Fp.one) | _ => none
  | _ => match x with | .inf s => some (if s then .fin true 0 0 else .inf false) | _ => none

/-- A function in FP32 or FP64: its fixed points, and elsewhere a value that is free within the bound of Table 5.7 and the
same for the same input (R184). FREE VALUE (log 9): a drawn value beyond the bound gives way to the nearest one. -/
def transcIn (f c : Nat) (g : Fmt) (x : Fp) : Fp :=
  match transcFixed f g x with
  | some y => y
  | none =>
    let y := transcExact f x
    let r := g.decode ((Config.transc f c (BitVec.ofNat 64 (g.encode x))).toNat % 2 ^ g.width)
    if withinBound f g r y then r else g.round y

/-- A function of the element engine in a compute format; BF16 and FP16 take the FP32 form, rounded once (R185). -/
def transcFn (f : Nat) (c : EFmt) (x : Fp) : Fp :=
  match c with
  | .fp64 => transcIn f 0 fp64 x
  | .bf16 => bf16.round (transcIn f 1 fp32 x)
  | .fp16 => fp16.round (transcIn f 1 fp32 x)
  | _ => transcIn f 1 fp32 x

/-- ReLU: x above zero, +0 for any other value, canonical NaN for NaN (R138). -/
def relu (x : Fp) : Fp := if x.isNan then .nan else if Fp.lt Fp.zero x then x else Fp.zero

end Sys2Proof.Machine
end

