-- ==== Sys2Proof/Machine/Product.lean ====
section
/-! DEFINITION. Products: the product descriptor, its checks, and stages 1 to 5 of every output element, with
E-accumulation (R54, R59 to R67, R79 to R86, R100, R118, R119). -/

namespace Sys2Proof.Machine

/-! ## The product descriptor (Table 3.10) -/

/-- The fields of CHAIN_CODE (Table 4.1). -/
structure ChainCode where
  pro     : Nat
  bias    : Bool
  act     : Nat
  resid   : Bool
  outq    : Nat
  rowstat : Bool
  proj    : Bool
  upd     : Nat
  deriving DecidableEq, Repr

/-- A product descriptor; bases and pitches in bytes. -/
structure MmaDesc where
  fmtA : Nat
  fmtB : Nat
  fmtOut : Nat
  accumulate : Bool
  eacc : Bool
  nonsat : Bool
  sr : Bool
  scaleA : Nat
  scaleB : Nat
  transA : Bool
  transB : Bool
  scaleOut : Nat
  code : Nat
  chain : ChainCode
  m : Nat
  n : Nat
  k : Nat
  addrA : Nat
  pitchA : Nat
  addrB : Nat
  pitchB : Nat
  addrC : Nat
  pitchC : Nat
  addrSA : Nat
  addrSB : Nat
  addrSOut : Nat
  addrChain : Nat
  outVaddr : Nat
  deriving DecidableEq, Repr

/-- The stages that a CHAIN_CODE selects. -/
def chainOf (c : Nat) : ChainCode :=
  { pro := bitsOf c 3 0, bias := bitOf c 4, act := bitsOf c 7 5, resid := bitOf c 8, outq := bitsOf c 10 9,
    rowstat := bitOf c 11, proj := bitOf c 12, upd := bitsOf c 15 13 }

/-- The descriptor in 64 bytes. -/
def parseMma (b : List Byte) : MmaDesc :=
  { fmtA := bitsOf (fieldLE b 0 1) 3 0, fmtB := bitsOf (fieldLE b 0 1) 7 4, fmtOut := bitsOf (fieldLE b 1 1) 3 0,
    accumulate := bitOf (fieldLE b 1 1) 4, eacc := bitOf (fieldLE b 1 1) 5, nonsat := bitOf (fieldLE b 1 1) 6,
    sr := bitOf (fieldLE b 1 1) 7, scaleA := fieldLE b 2 1, scaleB := fieldLE b 3 1, transA := bitOf (fieldLE b 4 1) 0,
    transB := bitOf (fieldLE b 4 1) 1, scaleOut := fieldLE b 5 1, code := fieldLE b 6 2, chain := chainOf (fieldLE b 6 2),
    m := fieldLE b 8 2 + 1, n := fieldLE b 0xA 2 + 1, k := fieldLE b 0xC 4 + 1, addrA := fieldLE b 0x10 2 * 64,
    pitchA := fieldLE b 0x12 2 * 64, addrB := fieldLE b 0x14 2 * 64, pitchB := fieldLE b 0x16 2 * 64,
    addrC := fieldLE b 0x18 2 * 64, pitchC := fieldLE b 0x1A 2 * 64, addrSA := fieldLE b 0x1C 2 * 64,
    addrSB := fieldLE b 0x1E 2 * 64, addrSOut := fieldLE b 0x20 2 * 64, addrChain := fieldLE b 0x22 2 * 64,
    outVaddr := fieldLE b 0x28 8 }

/-- The accumulator of a product. -/
inductive Accum where
  | fp32 | fp64 | int32
  deriving DecidableEq, Repr

/-- The accumulator of an operand pair; none for a pair that Table 2.3 does not list. -/
def pairAccum (a b : Nat) : Option Accum :=
  match a, b with
  | 6, 6 => some .fp32
  | 4, 4 => some .fp32
  | 4, 5 => some .fp32
  | 5, 4 => some .fp32
  | 5, 5 => some .fp32
  | 2, 2 => some .fp32
  | 3, 3 => some .fp32
  | 7, 7 => some .int32
  | 1, 1 => some .fp32
  | 0, 0 => some .fp64
  | _, _ => none

/-- A scale mode is permitted for an operand format (Table 2.3). -/
def modePermitted (fmt mode : Nat) : Bool :=
  match fmt with
  | 6 => mode = 2
  | 0 => mode ≤ 1
  | 1 => mode ≤ 1
  | 7 => mode ≤ 1
  | _ => mode ≤ 2

/-- The accumulator of the descriptor. -/
def MmaDesc.accum (d : MmaDesc) : Accum := (pairAccum d.fmtA d.fmtB).getD .fp32
/-- An operand has a vector scale. -/
def MmaDesc.vector (d : MmaDesc) : Bool := scaleMode d.scaleA = 1 || scaleMode d.scaleB = 1
/-- The output format. -/
def MmaDesc.out (d : MmaDesc) : EFmt := (EFmt.ofCode d.fmtOut).getD .fp32
/-- The consumed format of A, and the format of B. -/
def MmaDesc.aFmt (d : MmaDesc) : EFmt := (EFmt.ofCode d.fmtA).getD .fp32
def MmaDesc.bFmt (d : MmaDesc) : EFmt := (EFmt.ofCode d.fmtB).getD .fp32
/-- The output format matches the accumulator (R119). -/
def MmaDesc.outPermitted (d : MmaDesc) : Bool :=
  if d.accum = .int32 && !d.vector then d.fmtOut = 8 else d.fmtOut ≤ 7

/-- Steps 2 to 6 of R619: the status of the first failed check, or 0. K is at most 2^32 by its width (R79). -/
def MmaDesc.formFault (d : MmaDesc) : Nat :=
  if scaleReserved d.scaleA || scaleReserved d.scaleB || (d.fmtOut = 6 && scaleReserved d.scaleOut) then 0x8622
  else if (pairAccum d.fmtA d.fmtB).isNone then 0x8620
  else if !modePermitted d.fmtA (scaleMode d.scaleA) || !modePermitted d.fmtB (scaleMode d.scaleB) then 0x8621
  else if d.eacc && d.accum != .fp64 then 0x8624
  else if d.eacc && (4096 < d.m || 4096 < d.n) then 0x8626
  else if !d.outPermitted || (d.fmtOut = 6 && scaleMode d.scaleOut != 2) then 0x8625
  else 0

/-! ## Areas (R106) -/

/-- The blocks of A, of B, and of an E2M1 output. -/
def MmaDesc.blocksA (d : MmaDesc) : Blocks := ⟨!scaleAcross d.scaleA, scaleBlock d.scaleA, d.m, d.k⟩
def MmaDesc.blocksB (d : MmaDesc) : Blocks := ⟨scaleAcross d.scaleB, scaleBlock d.scaleB, d.k, d.n⟩
def MmaDesc.blocksOut (d : MmaDesc) : Blocks := ⟨!scaleAcross d.scaleOut, scaleBlock d.scaleOut, d.m, d.n⟩

/-- The stored A, in the format in which it is read. -/
def MmaDesc.areaA (d : MmaDesc) (f : EFmt) : Area :=
  if d.transA then matArea f d.addrA d.pitchA d.k d.m else matArea f d.addrA d.pitchA d.m d.k
def MmaDesc.areaB (d : MmaDesc) : Area :=
  if d.transB then matArea d.bFmt d.addrB d.pitchB d.n d.k else matArea d.bFmt d.addrB d.pitchB d.k d.n
/-- The scale arrays of A and B. -/
def MmaDesc.areaScales (d : MmaDesc) : List Area :=
  (match scaleMode d.scaleA with | 1 => [flatArea d.addrSA (4 * d.m)] | 2 => [flatArea d.addrSA d.blocksA.bytes] | _ => []) ++
  (match scaleMode d.scaleB with | 1 => [flatArea d.addrSB (4 * d.n)] | 2 => [flatArea d.addrSB d.blocksB.bytes] | _ => [])
/-- The output, which is also C. -/
def MmaDesc.areaC (d : MmaDesc) : Area := matArea d.out d.addrC d.pitchC d.m d.n
/-- The scale bytes of an E2M1 output. -/
def MmaDesc.areaSOut (d : MmaDesc) : List Area := if d.out = .e2m1 then [flatArea d.addrSOut d.blocksOut.bytes] else []

/-- Macro-block rows and columns (Table 3.3). -/
def MmaDesc.block (d : MmaDesc) : Nat × Nat :=
  if d.eacc then macroBlock d.m d.n 64 64 4096
  else if d.accum = .fp64 then macroBlock d.m d.n 128 256 73728
  else if d.code != 0 && d.chain.upd = 0 && (d.chain.outq = 1 || d.chain.proj) then wholeRowBlock d.m d.n
  else macroBlock d.m d.n 128 384 147456
/-- The side of an output tile (R94). -/
def MmaDesc.tileSide (d : MmaDesc) : Nat := if d.eacc then 64 else 128
/-- The output tiles in write order. -/
def MmaDesc.tiles (d : MmaDesc) : List (Nat × Nat × Nat × Nat) := outTiles d.m d.n d.block d.tileSide

/-! ## Stages 2 to 4 (Table 2.6, R62 to R67) -/

/-- The groups of 16 consecutive indices. -/
def groupsOf16 {α : Type} (l : List α) : List (List α) := (List.range ((l.length + 15) / 16)).map (fun g => (l.drop (16 * g)).take 16)

/-- The exact sum of a group (R64). -/
def groupSum (ps : List Fp) : Fp := match ps with | [] => Fp.zero | p :: r => r.foldl Fp.add p

/-- A short-format dot product: one FP32 rounding per group. -/
def shortDot (xs ys : List Fp) (acc : Fp) : Fp := (groupsOf16 (List.zipWith Fp.mul xs ys)).foldl (fun a g => add32 a (groupSum g)) acc

/-- A chain of fused multiply-adds in a format (R67). -/
def fmaDot (f : Fmt) (xs ys : List Fp) (acc : Fp) : Fp := (List.zipWith Fp.mul xs ys).foldl (fun a p => f.round (a.add p)) acc

/-- The INT32 accumulator after a group: saturated, with a count of saturations (R66). -/
def satAdd (a : Int × Nat) (g : Int) : Int × Nat :=
  let v := a.1 + g
  if 2 ^ 31 - 1 < v then (2 ^ 31 - 1, a.2 + 1) else if v < -(2 ^ 31) then (-(2 ^ 31), a.2 + 1) else (v, a.2)

/-- An INT8 dot product from a starting value. -/
def intDot (xs ys : List Int) (start : Int) : Int × Nat :=
  (groupsOf16 (List.zipWith (· * ·) xs ys)).foldl (fun a g => satAdd a g.sum) (start, 0)

/-! ## E-accumulation (R80 to R86) -/

/-- The largest exponent of a row or a column; NaN and infinity are excluded (R80). -/
def topExp (xs : List Fp) : Int := (xs.filterMap leafExp).foldl max (-1022)

/-- The window of a list of terms at a bottom, and whether a term lost bits (R81). -/
def windowOf (b : Int) (terms : List Fp) : Int × Bool :=
  terms.foldl (fun a x => match x with
    | .fin s m e => (a.1 + (windowTerm s m e b).1, a.2 || (windowTerm s m e b).2)
    | _ => a) (0, false)

/-- The rounding of S is not fixed: it changes within the bound of the truncated parts (R82, R83). -/
def stillOpen (w b : Int) (n : Nat) (scale : Fp) : Bool :=
  scale.isFinite && fp64.pack ((ofSigned false (w - n) b).mul scale) != fp64.pack ((ofSigned false (w + n) b).mul scale)

/-- Re-passes, each 1,088 bits further down: window, dropped, bottom and passes. -/
def rePass (terms : List Fp) (scale : Fp) : Nat → Int → Bool → Int → Nat → Int × Int × Nat
  | 0, w, _, b, p => (w, b, p)
  | f + 1, w, dropped, b, p =>
    if dropped && stillOpen w b terms.length scale then
      rePass terms scale f (windowOf (b - 1088) terms).1 (windowOf (b - 1088) terms).2 (b - 1088) (p + 1)
    else (w, b, p)

/-- An element after stage 5: its value, E_WINDOW_LOSS, re-passes, and INT32 saturations. -/
structure Staged where
  v      : Fp
  ewl    : Bool
  passes : Nat
  sats   : Nat
  deriving DecidableEq, Repr

/-- The result of an E-accumulation element from its terms, its top exponent and its scales (R82). -/
def eaccElement (terms : List Fp) (top : Int) (sa sb : Fp) : Staged :=
  let done (v : Fp) : Staged := { v := v, ewl := false, passes := 0, sats := 0 }
  if terms.any Fp.isNan || (terms.contains (.inf false) && terms.contains (.inf true)) then done .nan
  else if terms.contains (.inf false) then done (((Fp.inf false).mul sa).mul sb)
  else if terms.contains (.inf true) then done (((Fp.inf true).mul sa).mul sb)
  else
    let scale := sa.mul sb
    let b := windowBottom top
    let w := windowOf b terms
    let negZero := terms.all (fun x => x.isZero && x.isNeg)
    let value (w b : Int) : Fp := f64 (((ofSigned negZero w b).mul sa).mul sb)
    if w.2 && w.1.natAbs < 2 ^ 64 then
      let v := value w.1 b
      { v := v, ewl := v.isFinite, passes := 0, sats := 0 }
    else match rePass terms scale 3 w.1 w.2 b 0 with
      | (w, b, p) => { v := value w b, ewl := false, passes := p, sats := 0 }

/-! ## Stages 1 to 5 of an output element -/

/-- The operands of a product as staged: rows of A, columns of B, scales, and C. -/
structure Operands where
  a  : List (List Fp)
  b  : List (List Fp)
  sa : List Fp
  sb : List Fp
  c  : Option (List (List Fp))
  deriving DecidableEq, Repr

/-- Output element (i, j) after stage 5. C enters the FP32 accumulator by one rounding, which changes only an FP64 C and an
E2M1 C beyond the FP32 range (R63; log 31). -/
def MmaDesc.element (d : MmaDesc) (o : Operands) (i j : Nat) : Staged :=
  let xs := o.a.getD i []
  let ys := o.b.getD j []
  let sa := o.sa.getD i Fp.one
  let sb := o.sb.getD j Fp.one
  let c := o.c.map (fun g => gridGet g i j Fp.zero)
  let done (v : Fp) (sats : Nat) : Staged := { v := v, ewl := false, passes := 0, sats := sats }
  match d.accum with
  | .fp64 =>
    if d.eacc then
      let top := topExp xs + topExp ys
      eaccElement (List.zipWith Fp.mul xs ys ++ c.toList) (match c.bind leafExp with | some e => max top e | none => top) sa sb
    else
      let v := fmaDot fp64 xs ys (c.getD Fp.zero)
      done (if d.vector then f64 ((v.mul sa).mul sb) else v) 0
  | .fp32 =>
    let start := f32 (c.getD Fp.zero)
    let v := if d.fmtA = 1 then fmaDot fp32 xs ys start else shortDot xs ys start
    done (if d.vector then f32 ((v.mul sa).mul sb) else v) 0
  | .int32 =>
    let r := intDot (xs.map Fp.nearestInt) (ys.map Fp.nearestInt) (if d.vector then 0 else (c.getD Fp.zero).nearestInt)
    let v := Fp.ofInt r.1
    done (if d.vector then f32 (((v.mul sa).mul sb).add (c.getD (.fin true 0 0))) else v) r.2

/-- Read A, its scales applied when decoded; `f` is the stored format (R59, R105). -/
def MmaDesc.readA (d : MmaDesc) (x : Tile) (f : EFmt) : List (List Fp) :=
  let g := x.matrix f d.addrA d.pitchA d.m d.k d.transA
  if scaleMode d.scaleA = 2 then x.unscale d.blocksA d.addrSA g else g

/-- Read the columns of B. -/
def MmaDesc.readB (d : MmaDesc) (x : Tile) : List (List Fp) :=
  let g := x.matrix d.bFmt d.addrB d.pitchB d.k d.n d.transB
  gridColumns (if scaleMode d.scaleB = 2 then x.unscale d.blocksB d.addrSB g else g) d.n Fp.zero

/-- Read C, in the output format; an E2M1 C has its block scales (R63). One that they put beyond the FP32 range becomes a
signed infinity in the accumulator, as an FP64 C does there (DESIGN CHOICE, log 31). -/
def MmaDesc.readC (d : MmaDesc) (x : Tile) : Option (List (List Fp)) :=
  if !d.accumulate then none
  else
    let g := x.matrix d.out d.addrC d.pitchC d.m d.n false
    some (if d.out = .e2m1 then x.unscale d.blocksOut d.addrSOut g else g)

/-- The operands of a product whose A has been staged. -/
def MmaDesc.operands (d : MmaDesc) (x : Tile) (a : List (List Fp)) : Operands :=
  { a := a, b := d.readB x,
    sa := if scaleMode d.scaleA = 1 then x.vector .fp32 d.addrSA d.m else [],
    sb := if scaleMode d.scaleB = 1 then x.vector .fp32 d.addrSB d.n else [],
    c := d.readC x }

end Sys2Proof.Machine
end

