-- ==== Sys2Proof/Machine/Chain.lean ====
section
/-! DEFINITION. Fused prologues and epilogues: the chain argument block, its checks, the prologues on A, and the
stages E1 to E6 of an output row (R133 to R157, R160). -/

namespace Sys2Proof.Machine

/-! ## The chain argument block (Table 4.4) -/

/-- A chain argument block; bases and pitches in bytes. -/
structure ChainArgs where
  dqScale : Nat
  dqFmt : Nat
  statsIn : Nat
  gamma : Nat
  beta : Nat
  bias : Nat
  resid : Nat
  residPitch : Nat
  residFmt : Nat
  projMode : Nat
  statsOut : Nat
  qscaleOut : Nat
  projW : Nat
  projT : Nat
  projFlags : Nat
  eps : Nat
  deriving DecidableEq, Repr

/-- The block in 64 bytes. -/
def parseChain (b : List Byte) : ChainArgs :=
  { dqScale := fieldLE b 0 2 * 64, dqFmt := bitsOf (fieldLE b 2 1) 3 0, statsIn := fieldLE b 4 2 * 64, gamma := fieldLE b 6 2 * 64,
    beta := fieldLE b 8 2 * 64, bias := fieldLE b 0xA 2 * 64, resid := fieldLE b 0xC 2 * 64, residPitch := fieldLE b 0xE 2 * 64,
    residFmt := fieldLE b 0x10 1, projMode := fieldLE b 0x11 1, statsOut := fieldLE b 0x12 2 * 64, qscaleOut := fieldLE b 0x14 2 * 64,
    projW := fieldLE b 0x16 2 * 64, projT := fieldLE b 0x18 2 * 64, projFlags := fieldLE b 0x1A 2 * 64, eps := fieldLE b 0x1C 4 }

/-- The stored format of A under P1. -/
def ChainArgs.dq (a : ChainArgs) : Option EFmt := if a.dqFmt = 4 || a.dqFmt = 5 || a.dqFmt = 7 then EFmt.ofCode a.dqFmt else none
/-- The format of the residual. -/
def ChainArgs.residual (a : ChainArgs) : Option EFmt := if a.residFmt ≤ 3 then EFmt.ofCode a.residFmt else none

/-- The stored format of A under a chain; none when DQ_FMT gives none. A reserved PRO, which step 8 of R619 refuses, leaves
the format that FMT_AB names for step 7 (DESIGN CHOICE, log 31). -/
def MmaDesc.storedA (d : MmaDesc) (a : ChainArgs) : Option EFmt := if d.chain.pro = 1 then a.dq else some d.aFmt

/-- Records of a row. -/
def recordsOf (n : Nat) : Nat := (n + 127) / 128

/-- The areas that a chain only reads: A, B, scale arrays, and its own. -/
def chainReads (d : MmaDesc) (a : ChainArgs) : List Area :=
  (match d.storedA a with | some f => [d.areaA f] | none => []) ++ [d.areaB] ++ d.areaScales ++
  [flatArea d.addrChain 64] ++
  (if d.chain.pro = 1 then [flatArea a.dqScale (4 * d.m)] else []) ++
  (if d.chain.pro = 2 || d.chain.pro = 3 then
    [flatArea a.statsIn (d.m * recordsOf d.k * 32), flatArea a.gamma (4 * d.k)] ++ (if d.chain.pro = 2 then [flatArea a.beta (4 * d.k)] else [])
   else []) ++
  (if d.chain.bias then [flatArea a.bias (4 * d.n)] else []) ++
  (if d.chain.proj then [flatArea a.projW (8 * d.n), flatArea a.projT (8 * d.m)] else [])

/-- The residual's area. -/
def chainResid (d : MmaDesc) (a : ChainArgs) : List Area :=
  if !d.chain.resid then [] else match a.residual with | some f => [matArea f a.resid a.residPitch d.m d.n] | none => []

/-- The areas that a chain writes. -/
def chainWrites (d : MmaDesc) (a : ChainArgs) : List Area :=
  [d.areaC] ++ d.areaSOut ++
  (if d.chain.rowstat then [flatArea a.statsOut (d.m * recordsOf d.n * 32)] else []) ++
  (if d.chain.outq = 1 then [flatArea a.qscaleOut (4 * d.m)] else []) ++
  (if d.chain.proj then [flatArea a.projFlags d.m] else [])

/-! ## Checks (R134, R135, R142, R143, R154) -/

/-- The residual coincides exactly with the output (R142). -/
def residCoincides (d : MmaDesc) (a : ChainArgs) : Bool :=
  a.resid = d.addrC && a.residPitch = d.pitchC && a.residFmt = d.fmtOut

/-- Some write area overlaps another area: every pair of two written areas, and a written with a read one. Areas are
compared by their footprints, the gaps between rows included, as R120 measures them (DESIGN CHOICE, log 31). -/
def areasClash (writes reads : List Area) : Bool :=
  writes.any (fun w => reads.any (fun r => w.span.hits r.span)) ||
  (writes.mapIdx (fun i w => (i, w))).any (fun p => (writes.drop (p.1 + 1)).any (fun v => p.2.span.hits v.span))

/-- A chain format condition is broken (R134, Table 4.5). -/
def chainFormat (d : MmaDesc) (a : ChainArgs) : Bool :=
  let k := d.chain
  d.accum = .fp64 || (d.accum = .int32 && !d.vector) ||
  (k.pro = 1 && (!(d.fmtA = 2 || d.fmtA = 3) || a.dq.isNone || 1 < scaleMode d.scaleA)) ||
  ((k.pro = 2 || k.pro = 3) && (!(d.fmtA = 1 || d.fmtA = 2 || d.fmtA = 3) || scaleMode d.scaleA != 0)) ||
  (k.proj && 1 < d.fmtOut) ||
  (k.resid && a.residFmt = 0 && !k.proj) ||
  (k.outq = 1 && !(d.fmtOut = 4 || d.fmtOut = 5 || d.fmtOut = 7)) ||
  (k.rowstat && !(1 ≤ d.fmtOut && d.fmtOut ≤ 5))

/-- A reserved value in CHAIN_CODE (Table 4.1). -/
def codeReserved (k : ChainCode) : Bool := 3 < k.pro || 5 < k.act || 1 < k.outq || 3 < k.upd

/-- A combination of Table 4.2. -/
def codeClash (d : MmaDesc) : Bool :=
  let k := d.chain
  (k.upd != 0 && d.code % 0x2000 != 0) || (k.outq = 1 && k.rowstat) || (k.outq = 1 && k.proj) || (k.proj && k.rowstat && d.fmtOut = 0)

/-- Step 8 of R619 for a chain without an update: the status, or 0. -/
def chainFault (d : MmaDesc) (a : ChainArgs) : Nat :=
  let k := d.chain
  if codeReserved k || (k.resid && 3 < a.residFmt) || (k.proj && 1 < a.projMode) then 0x8640
  else if codeClash d then 0x8641
  else if chainFormat d a then 0x8642
  else if (k.outq = 1 || k.proj) && 1152 < d.n then 0x8643
  else if areasClash (chainWrites d a) (chainReads d a) then 0x8645
  else if (chainResid d a).any (fun r =>
      (chainWrites d a).any (fun w => w.span.hits r.span && !(w == d.areaC && residCoincides d a))) then 0x8645
  else 0

/-! ## Prologues (R137, R144 to R146) -/

/-- Round to A's consumed format under SAT: the value, and whether it saturated. -/
def stageRound (f : EFmt) (v : Fp) : Fp × Bool := (f.value (f.convert false .rne v).1, (f.convert false .rne v).2)

/-- A as staged, with the saturations of its elements: each element once. -/
def stageA (d : MmaDesc) (a : ChainArgs) (x : Tile) : List (List (Fp × Bool)) :=
  let g := d.readA x ((d.storedA a).getD d.aFmt)
  match d.chain.pro with
  | 1 =>
    let dq := x.vector .fp32 a.dqScale d.m
    g.mapIdx (fun i row => row.map (fun v => stageRound d.aFmt (v.mul (dq.getD i .nan))))
  | 0 => g.map (fun row => row.map (fun v => (v, false)))
  | p =>
    let rms := p = 3
    let gamma := x.vector .fp32 a.gamma d.k
    let beta := x.vector .fp32 a.beta d.k
    g.mapIdx (fun i row => match carriedRow (x.records a.statsIn i (recordsOf d.k)) (fp32.decode a.eps) rms with
      | none => row.map (fun _ => (.nan, false))
      | some (mean, rstd) => row.mapIdx (fun k v =>
          let gk := gamma.getD k .nan
          stageRound d.aFmt (if rms then f32 ((f32 (v.mul rstd)).mul gk)
            else f32 (((f32 ((f32 (v.sub mean)).mul rstd)).mul gk).add (beta.getD k .nan)))))

/-! ## Epilogues (R148 to R157) -/

/-- E2 (R138): the FP32 function of an ACT code. -/
def activate (act : Nat) (v : Fp) : Fp :=
  match act with
  | 0 => v
  | 1 => relu v
  | 2 => transcFn 0x2A .fp32 v
  | 3 => transcFn 0x2B .fp32 v
  | 4 => transcFn 0x28 .fp32 v
  | _ => transcFn 0x29 .fp32 v

/-- E3 on a row: the adjusted row and its flag byte (R155). -/
def projectRow (y w : List Fp) (t : Fp) (mode : Nat) (wsum : Fp) : List Fp × Nat :=
  let s := (List.zipWith Fp.mul w y).foldl (fun a p => f64 (a.add p)) Fp.zero
  if !s.isFinite || !t.isFinite || y.any (fun v => !v.isFinite) then (y, 4)
  else if mode = 0 then
    if s.isZero then (y, 2) else (y.map (fun v => f64 (v.mul (f64 (t.div s)))), 1)
  else if wsum.isZero || !wsum.isFinite then (y, 2)
  else (y.map (fun v => f64 (v.add (f64 ((f64 (t.sub s)).div wsum)))), 1)

/-- wsum: the FP64 sum of the weights (R156). -/
def weightSum (w : List Fp) : Fp := match w with | [] => Fp.zero | v :: r => r.foldl (fun a v => f64 (a.add v)) v

/-- The largest value of a quantisation target (R149, R182). -/
def qmaxOf (f : EFmt) : Fp := match f with | .e4m3 => Fp.ofInt 448 | .e5m2 => Fp.ofInt 57344 | .fp16 => Fp.ofInt 65504 | _ => Fp.ofInt 127

/-- The per-row scale of a quantisation: amax over the finite values (R149). -/
def quantScale (f : EFmt) (row : List Fp) : Fp :=
  let amax := amaxOf (row.filter Fp.isFinite)
  if amax.isZero then Fp.one
  else
    let s := f32 (amax.div (qmaxOf f))
    if s.isZero then .fin false 1 (-149) else s

/-- The values of a row that reach E5, with its projection flag byte. -/
def epilogueRow (d : MmaDesc) (a : ChainArgs) (bias w : List Fp) (wsum : Fp) (t : Fp) (resid : List Fp) (row : List Fp) : List Fp × Nat :=
  let row := if d.chain.bias then List.zipWith add32 row bias else row
  let row := row.map (activate d.chain.act)
  let p := if d.chain.proj then projectRow row w t a.projMode wsum else (row, 0)
  (if !d.chain.resid then p.1 else List.zipWith (fun v r => if d.chain.proj then f64 (v.add r) else add32 v r) p.1 resid, p.2)

/-- What the epilogue of a chain leaves: the values that reach E5, the codes, and the writes beside the output. -/
structure Finished where
  vals   : List (List Fp)
  out    : OutMat
  extra  : List (Nat × List Byte)
  deriving DecidableEq, Repr

/-- INT32 accumulators as they are written: unconverted (R66, R119). -/
def intOut (vals : List (List Fp)) : OutMat :=
  { codes := vals.map (fun row => row.map (fun v => some (ofSignedBits 32 v.nearestInt))), scales := [], sats := 0 }

/-- Convert the values that reach E5 to the output format, unquantised. -/
def convertOut (d : MmaDesc) (o : OutRound) (vals : List (List Fp)) : OutMat :=
  let g := vals.map (fun row => row.map some)
  if d.out = .int32 then intOut vals
  else if d.out = .e2m1 then convertBlocks .e2m1 2 d.nonsat o d.blocksOut g
  else convertPlain d.out d.nonsat o g

/-- Stages E1 to E6 over the rows of the product. -/
def finishChain (d : MmaDesc) (a : ChainArgs) (x : Tile) (o : OutRound) (y : List (List Fp)) : Finished :=
  let bias := if d.chain.bias then x.vector .fp32 a.bias d.n else []
  let w := if d.chain.proj then x.vector .fp64 a.projW d.n else []
  let t := if d.chain.proj then x.vector .fp64 a.projT d.m else []
  let resid := match a.residual with
    | some f => if d.chain.resid then x.matrix f a.resid a.residPitch d.m d.n false else []
    | none => []
  let rows := y.mapIdx (fun i row => epilogueRow d a bias w (weightSum w) (t.getD i .nan) (resid.getD i []) row)
  let vals := rows.map Prod.fst
  let q := vals.map (fun row => quantScale d.out row)
  let out := if d.chain.outq = 1
    then convertPlain d.out d.nonsat o (vals.mapIdx (fun i row => row.map (fun v => some (f32 (v.div (q.getD i Fp.one))))))
    else convertOut d o vals
  let written (i t : Nat) : List (Option Fp) := (((out.codes.getD i []).drop (128 * t)).take 128).map (fun c => c.map d.out.value)
  let stats := if !d.chain.rowstat then []
    else (List.range d.m).flatMap (fun i => (List.range (recordsOf d.n)).map (fun t =>
      (a.statsOut + (i * recordsOf d.n + t) * 32, statsRecord (written i t))))
  let scales := if d.chain.outq = 1 then q.mapIdx (fun i s => (a.qscaleOut + 4 * i, leBytes 4 (fp32.encode s))) else []
  let flags := if d.chain.proj then rows.mapIdx (fun i r => (a.projFlags + i, leBytes 1 r.2)) else []
  { vals := vals, out := out, extra := stats ++ scales ++ flags }

end Sys2Proof.Machine
end

