-- ==== Sys2Proof/Machine/Element.lean ====
section
/-! DEFINITION. The element engine: the element descriptor, the checks of R620, operand shapes and masks, the
operations of Table 5.4, and the dispatch that they share (R162 to R183, R186 to R188). -/

namespace Sys2Proof.Machine

/-! ## The element descriptor (Table 5.2) -/

/-- One operand: format code, shape code, base and pitch in bytes. -/
structure EOpnd where
  fmt   : Nat
  shape : Nat
  base  : Nat
  pitch : Nat
  deriving DecidableEq, Repr

/-- An element descriptor. -/
structure EDesc where
  cfmt : Nat
  fmtOut : Nat
  nonsat : Bool
  sr : Bool
  x : EOpnd
  y : EOpnd
  w : EOpnd
  maskMode : Nat
  param : Nat
  rows : Nat
  cols : Nat
  addrZ : Nat
  pitchZ : Nat
  addrMask : Nat
  pitchMask : Nat
  addrS : Nat
  scaleOut : Nat
  outVaddr : Nat
  deriving DecidableEq, Repr

/-- The descriptor in 64 bytes. -/
def parseEop (b : List Byte) : EDesc :=
  let opnd (f a : Nat) : EOpnd :=
    { fmt := bitsOf (fieldLE b f 1) 3 0, shape := bitsOf (fieldLE b f 1) 7 4, base := fieldLE b a 2 * 64, pitch := fieldLE b (a + 2) 2 * 64 }
  { cfmt := bitsOf (fieldLE b 0 1) 3 0, fmtOut := bitsOf (fieldLE b 1 1) 3 0, nonsat := bitOf (fieldLE b 1 1) 6, sr := bitOf (fieldLE b 1 1) 7,
    x := opnd 2 0xC, y := opnd 3 0x10, w := opnd 4 0x14, maskMode := bitsOf (fieldLE b 5 1) 1 0, param := fieldLE b 6 2,
    rows := fieldLE b 8 2 + 1, cols := fieldLE b 0xA 2 + 1, addrZ := fieldLE b 0x18 2 * 64, pitchZ := fieldLE b 0x1A 2 * 64,
    addrMask := fieldLE b 0x1C 2 * 64, pitchMask := fieldLE b 0x1E 2 * 64, addrS := fieldLE b 0x20 2 * 64,
    scaleOut := fieldLE b 0x22 1, outVaddr := fieldLE b 0x28 8 }

/-! ## Operations (Table 5.4), by OP code -/

/-- Operations of two operands. -/
def opBinary (op : Nat) : Bool := [0x01, 0x02, 0x03, 0x05, 0x07, 0x08, 0x0B, 0x0C].contains op
/-- Row reductions to one element. -/
def opRow (op : Nat) : Bool := 0x30 ≤ op && op ≤ 0x33
/-- Column reductions. -/
def opColumn (op : Nat) : Bool := 0x38 ≤ op && op ≤ 0x3A
/-- The operations permitted on INT32 (R169). -/
def opOnInt (op : Nat) : Bool :=
  [0x01, 0x02, 0x03, 0x07, 0x08, 0x09, 0x0A, 0x0B, 0x0C, 0x0D, 0x30, 0x32, 0x33, 0x38, 0x39, 0x3A].contains op
/-- The bits of PARAM that an operation defines. -/
def opParam (op : Nat) : Nat :=
  match op with
  | 0x07 => 1 | 0x08 => 1 | 0x0B => 7 | 0x11 => 1 | 0x20 => 0x1F | 0x32 => 1 | 0x33 => 1 | 0x35 => 1 | 0x39 => 1 | 0x3A => 1 | _ => 0
/-- The operands that an operation reads as Table 5.3 shapes. -/
def EDesc.operands (d : EDesc) (op : Nat) : List EOpnd :=
  if op = 0x35 then [] else if op = 0x04 then [d.x, d.y, d.w] else if opBinary op then [d.x, d.y] else [d.x]
/-- MASK_MODE applies: ESEL and RMERGE ignore it (R175, R181). -/
def maskApplies (op : Nat) : Bool := op != 0x0C && op != 0x35
/-- The result is converted to FMT_OUT: not a mask, a record or a pair (R171, R180, R181). -/
def opConverts (op : Nat) : Bool := op != 0x0B && op != 0x34 && op != 0x35
/-- Block scales of E2M1 codes are read (R173, R183), or written (R173). -/
def EDesc.e2m1In (d : EDesc) (op : Nat) : Bool := (op = 0x10 || op = 0x12) && d.x.fmt = 6
def EDesc.e2m1Out (d : EDesc) (op : Nat) : Bool := op = 0x10 && d.fmtOut = 6

/-- A compute format of Table 5.1. -/
def cfmtListed (c : Nat) : Bool := c ≤ 3 || c = 8
/-- The stored formats that a compute format accepts (Table 5.1). -/
def cfmtAccepts (c f : Nat) : Bool :=
  match c with
  | 0 => f ≤ 5 || f = 7 || f = 8
  | 1 => (1 ≤ f && f ≤ 5) || f = 7
  | 2 => f = 2 || f = 4 || f = 5 || f = 7
  | 3 => f = 3 || f = 4 || f = 5 || f = 7
  | 8 => f = 7 || f = 8
  | _ => false

/-- A value that R166 and Table 5.8 reserve. ECVT ignores CFMT. -/
def EDesc.reserved (d : EDesc) (op : Nat) : Bool :=
  (op != 0x10 && !cfmtListed d.cfmt) || (maskApplies op && d.maskMode = 3) || d.param != d.param &&& opParam op ||
  (d.operands op).any (fun o => 3 < o.shape) || (op = 0x0B && d.param = 7) || (op = 0x20 && (d.param < 2 || 16 < d.param)) ||
  ((d.e2m1In op || d.e2m1Out op) && (scaleMode d.scaleOut != 2 || scaleReserved d.scaleOut))

/-- Formats permitted for the operation (R162, R169, R180 to R183). -/
def EDesc.formats (d : EDesc) (op : Nat) : Bool :=
  if op = 0x10 then d.x.fmt ≤ 8 && d.fmtOut ≤ 8
  else if d.cfmt = 8 && !opOnInt op then false
  else if op = 0x11 then cfmtAccepts d.cfmt d.x.fmt && (d.fmtOut = 3 || d.fmtOut = 4 || d.fmtOut = 5 || d.fmtOut = 7)
  else if op = 0x12 then (cfmtAccepts d.cfmt d.x.fmt || d.x.fmt = 6) && d.fmtOut ≤ 1
  else if op = 0x34 then d.cfmt = 1 && 1 ≤ d.x.fmt && d.x.fmt ≤ 5 && d.fmtOut != 6
  else if op = 0x35 then d.cfmt = 1 && d.fmtOut != 6
  else (d.operands op).all (fun o => cfmtAccepts d.cfmt o.fmt) && (op = 0x0B || (d.fmtOut ≤ 8 && d.fmtOut != 6))

/-! ## Areas -/

/-- The format of a code; a code without a format is refused before it is used. -/
def fmtAt (c : Nat) : EFmt := (EFmt.ofCode c).getD .fp32
/-- Rows and columns of a shape (Table 5.3). -/
def EDesc.shapeDims (d : EDesc) (o : EOpnd) : Nat × Nat :=
  match o.shape with | 0 => (d.rows, d.cols) | 1 => (1, d.cols) | 2 => (d.rows, 1) | _ => (1, 1)
/-- The area of an operand. -/
def EDesc.opndArea (d : EDesc) (o : EOpnd) : Area :=
  if o.shape = 0 then matArea (fmtAt o.fmt) o.base o.pitch d.rows d.cols
  else flatArea o.base ((fmtAt o.fmt).rowBytes ((d.shapeDims o).1 * (d.shapeDims o).2))
/-- Blocks of E2M1 codes of X, or of the output. -/
def EDesc.xBlocks (d : EDesc) : Blocks := ⟨!scaleAcross d.scaleOut, scaleBlock d.scaleOut, (d.shapeDims d.x).1, (d.shapeDims d.x).2⟩
def EDesc.zBlocks (d : EDesc) : Blocks := ⟨!scaleAcross d.scaleOut, scaleBlock d.scaleOut, d.rows, d.cols⟩
/-- Where the block scales of E2M1 codes of X lie. -/
def EDesc.xScales (d : EDesc) (op : Nat) : Nat := if op = 0x12 then d.w.base else d.addrS

/-- The mask is read. -/
def EDesc.readsMask (d : EDesc) (op : Nat) : Bool := op = 0x0C || (maskApplies op && d.maskMode != 0)

/-- The areas read beside the operands of Table 5.3. -/
def EDesc.otherReads (d : EDesc) (op : Nat) : List Area :=
  (if op = 0x35 then [flatArea d.x.base (d.rows * d.cols * 32), flatArea d.w.base 4] else []) ++
  (if d.readsMask op then [⟨d.addrMask, d.pitchMask, d.rows, (d.cols + 7) / 8⟩] else []) ++
  (if op = 0x20 then [flatArea d.w.base ((fmtAt d.cfmt).rowBytes d.param)] else []) ++
  (if op = 0x12 then [flatArea d.addrS (4 * d.rows)] else []) ++
  (if d.e2m1In op then [flatArea (d.xScales op) d.xBlocks.bytes] else [])

/-- Rows and columns of the grid of elements that the instruction writes (R186). -/
def EDesc.outGrid (d : EDesc) (op : Nat) : Nat × Nat :=
  if opRow op || op = 0x35 then (d.rows, 1) else if opColumn op then (1, d.cols)
  else if op = 0x34 then (d.rows, recordsOf d.cols) else (d.rows, d.cols)

/-- The output area. -/
def EDesc.zArea (d : EDesc) (op : Nat) : Area :=
  if op = 0x34 then flatArea d.addrZ (d.rows * recordsOf d.cols * 32)
  else if op = 0x35 then ⟨d.addrZ, d.pitchZ, d.rows, 8⟩
  else if op = 0x0B then ⟨d.addrZ, d.pitchZ, d.rows, (d.cols + 7) / 8⟩
  else matArea (fmtAt d.fmtOut) d.addrZ d.pitchZ (d.outGrid op).1 (d.outGrid op).2

/-- The scale area, when it is written. -/
def EDesc.sArea (d : EDesc) (op : Nat) : List Area :=
  if op = 0x11 then [flatArea d.addrS (4 * d.rows)] else if d.e2m1Out op then [flatArea d.addrS d.zBlocks.bytes] else []

/-- Bytes of the broadcast buffer (R167). -/
def EDesc.broadcast (d : EDesc) (op : Nat) : Nat := (((d.operands op).filter (fun o => o.shape = 1)).map (fun o => (d.opndArea o).bytes)).sum

/-- The output coincides exactly with a tile-shaped operand (R168). -/
def EDesc.coincides (d : EDesc) (op : Nat) (o : EOpnd) : Bool :=
  opConverts op && o.shape = 0 && o.fmt = d.fmtOut && o.base = d.addrZ && o.pitch = d.pitchZ && d.opndArea o == d.zArea op

/-- An overlap that R168 forbids. The descriptor is no area that the instruction reads, and an overlap of the area at ADDR_S
with the output area is not refused (DESIGN CHOICE, log 32). -/
def EDesc.clash (d : EDesc) (op : Nat) : Bool :=
  let hits (w r : Area) : Bool := w.span.hits r.span
  (d.operands op).any (fun o => (hits (d.zArea op) (d.opndArea o) && !d.coincides op o) || (d.sArea op).any (fun w => hits w (d.opndArea o))) ||
  (d.otherReads op).any (fun r => hits (d.zArea op) r || (d.sArea op).any (fun w => hits w r))

/-- Every area that is read. -/
def EDesc.reads (d : EDesc) (op : Nat) : List Area := (d.operands op).map d.opndArea ++ d.otherReads op
/-- Every area that is written. -/
def EDesc.writes (d : EDesc) (op : Nat) : List Area := d.zArea op :: d.sArea op

/-- Stochastic rounding is selected (R446). -/
def EDesc.stochastic (d : EDesc) (op : Nat) : Bool := opConverts op && d.sr && (fmtAt d.fmtOut).stochastic

/-- The status that refuses an element instruction after its descriptor address: steps 2 to 7 of R620, or 0. -/
def eopFault (s : State) (d : EDesc) (op : Nat) : Nat :=
  if d.reserved op then 0x8651
  else if !d.formats op then 0x8650
  else if areasFault (d.reads op ++ d.writes op) != 0 then areasFault (d.reads op ++ d.writes op)
  else if 16384 < d.broadcast op then 0x8653
  else if d.clash op then 0x8652
  else if s.unseededStrict (d.stochastic op) then 0x8627
  else 0

/-! ## Operands and masks -/

/-- Element (r, j) of an operand, widened exactly (R166). -/
def EOpnd.value (o : EOpnd) (x : Tile) (r j : Nat) : Fp :=
  let f := fmtAt o.fmt
  match o.shape with
  | 0 => f.value (x.elem f o.base o.pitch r j)
  | 1 => f.value (x.elem f o.base 0 0 j)
  | 2 => f.value (x.elem f o.base 0 0 r)
  | _ => f.value (x.elem f o.base 0 0 0)

/-- Element (r, j) of X, E2M1 codes with their block scale. -/
def EDesc.xValue (d : EDesc) (x : Tile) (op r j : Nat) : Fp :=
  let v := d.x.value x r j
  if !d.e2m1In op then v
  else
    let p := match d.x.shape with | 0 => (r, j) | 1 => (0, j) | 2 => (r, 0) | _ => (0, 0)
    scaleBy (leNat (x.read (d.xScales op + d.xBlocks.index p.1 p.2) 1)) v

/-- The mask bit of an element (R174). -/
def EDesc.maskBit (d : EDesc) (x : Tile) (r j : Nat) : Bool := bitOf (leNat (x.read (d.addrMask + r * d.pitchMask + j / 8) 1)) (j % 8)
/-- The element is active (R175). -/
def EDesc.active (d : EDesc) (x : Tile) (op r j : Nat) : Bool := !(maskApplies op && d.maskMode != 0) || d.maskBit x r j

/-! ## Arithmetic -/

/-- One rounding to the compute format; INT32 wraps (R163). -/
def cround (c : EFmt) (v : Fp) : Fp :=
  match c.fmt with
  | some g => g.round v
  | none => Fp.ofInt (toSigned 32 (ofSignedBits 32 v.nearestInt))

/-- The predicates of ECMP (R171). -/
def ecmpHolds (pred : Nat) (x y : Fp) : Bool :=
  if x.isNan || y.isNan then pred = 1 || pred = 6
  else match pred with
  | 0 => Fp.eqv x y | 1 => !Fp.eqv x y | 2 => Fp.lt x y | 3 => Fp.le x y | 4 => Fp.lt y x | 5 => Fp.le y x | _ => false

/-- The smallest power of two not below amax / qmax, clamped (R182). -/
def pow2Scale (amax q : Fp) : Fp :=
  let e := amax.logb - q.logb
  let e := if Fp.le amax (q.scale (e - 1)) then e - 1 else if Fp.le amax (q.scale e) then e else e + 1
  .fin false 1 (max (-149) (min 127 e))

/-- EQROW's scale of a row from its active values, and whether it saturated (R182). -/
def eqrowScale (f : EFmt) (spow2 : Bool) (vals : List Fp) : Fp × Bool :=
  let amax := amaxOf (vals.filter Fp.isFinite)
  if amax.isZero then (Fp.one, false)
  else if spow2 then (pow2Scale amax (qmaxOf f), false)
  else
    let s := f32 (amax.div (qmaxOf f))
    if s.isInf then (fp32.decode 0x7F7FFFFF, true) else if s.isZero then (.fin false 1 (-149), false) else (s, false)

/-- An element-wise result in the compute format. -/
def EDesc.compute (d : EDesc) (x : Tile) (op r j : Nat) : Fp :=
  let c := fmtAt d.cfmt
  let a := d.xValue x op r j
  let b := d.y.value x r j
  match op with
  | 0x01 => cround c (a.add b)
  | 0x02 => cround c (a.sub b)
  | 0x03 => cround c (a.mul b)
  | 0x04 => cround c ((a.mul b).add (d.w.value x r j))
  | 0x05 => cround c (a.div b)
  | 0x06 => cround c (Fp.sqrt a)
  | 0x07 => pickOf true (bitOf d.param 0) a b
  | 0x08 => pickOf false (bitOf d.param 0) a b
  | 0x09 => cround c a.abs
  | 0x0A => cround c a.neg
  | 0x0C => if d.maskBit x r j then a else b
  | 0x12 => a.mul (EFmt.fp32.value (x.elem .fp32 d.addrS 0 0 r))
  | 0x20 => ((x.vector c d.w.base d.param).drop 1).foldl (fun p k => cround c ((p.mul a).add k)) ((x.vector c d.w.base d.param).headD .nan)
  | _ => if 0x21 ≤ op && op ≤ 0x2B then transcFn op c a else a

/-- A row reduction over the active elements; none when there is none (R176, R177, R178). -/
def EDesc.reduceRow (d : EDesc) (op : Nat) (row : List (Option Fp)) : Option Fp :=
  let c := fmtAt d.cfmt
  let plus (a b : Fp) : Fp := cround c (a.add b)
  if (row.filterMap id).isEmpty then none
  else
    match op with
    | 0x30 => some (rowReduce plus Fp.zero row)
    | 0x31 => some (rowReduce plus Fp.zero (row.map (fun e => e.map (fun v => cround c (v.mul v)))))
    | 0x32 => some (rowReduce (pickOf false (bitOf d.param 0)) (.inf true) row)
    | _ => some (rowReduce (pickOf true (bitOf d.param 0)) (.inf false) row)

/-- A column reduction in ascending row; none without an active element (R179). -/
def EDesc.reduceColumn (d : EDesc) (op : Nat) (col : List (Option Fp)) : Option Fp :=
  match col.filterMap id with
  | [] => none
  | v :: r =>
    match op with
    | 0x38 => some (r.foldl (fun a b => cround (fmtAt d.cfmt) (a.add b)) v)
    | 0x39 => some (r.foldl (pickOf false (bitOf d.param 0)) v)
    | _ => some (r.foldl (pickOf true (bitOf d.param 0)) v)

/-! ## Effects -/

/-- What an element instruction leaves: writes, kinds of NAN_INF over the grid of R186, and saturated conversions. -/
structure EopEffect where
  writes : List (Nat × List Byte)
  kinds  : List (List (Option Nat))
  convs  : Nat
  deriving DecidableEq, Repr

/-- An absent code under MASK_MODE zero is +0 (R175). -/
def EDesc.fill (d : EDesc) (e : Option Nat) : Option Nat := if d.maskMode = 2 then some (e.getD 0) else e

/-- Convert a grid of results to FMT_OUT and write it at Z (R175, R187). INT32 results of INT32 arithmetic are
written as they are (R163); an inactive element follows MASK_MODE. -/
def EDesc.emit (d : EDesc) (x : Tile) (op : Nat) (o : OutRound) (vals : List (List (Option Fp))) : EopEffect :=
  let f := fmtAt d.fmtOut
  let raw : Bool := op != 0x10 && d.cfmt = 8 && d.fmtOut = 8
  let out : OutMat :=
    if d.e2m1Out op then convertBlocks .e2m1 2 d.nonsat o d.zBlocks vals
    else if raw then { codes := vals.map (fun row => row.map (fun e => e.map (fun v => ofSignedBits 32 v.nearestInt))), scales := [], sats := 0 }
    else convertPlain f d.nonsat o vals
  let scales := out.scales.map (fun e => if d.maskMode = 2 then some (e.getD 0x7F) else e)
  { writes := x.matWrites f d.addrZ d.pitchZ (out.codes.map (fun row => row.map (fun e => if maskApplies op then d.fill e else e))) ++
      (if d.e2m1Out op then vecWrites .int8 d.addrS scales else []),
    kinds := vals.mapIdx (fun r row => row.mapIdx (fun j e =>
      if op != 0x10 && d.cfmt = 8 then none else e.bind (fun v => outKind f v ((gridGet out.codes r j none).getD 0)))),
    convs := out.sats }

/-- The active values of X in row r. -/
def EDesc.xRow (d : EDesc) (x : Tile) (op r : Nat) : List (Option Fp) :=
  (List.range d.cols).map (fun j => if d.active x op r j then some (d.xValue x op r j) else none)

/-- ECMP: mask bits at Z (R171, R175). -/
def EDesc.compare (d : EDesc) (x : Tile) (op : Nat) : EopEffect :=
  let bit (r j : Nat) : Option Bool :=
    if d.active x op r j then some (ecmpHolds d.param (d.xValue x op r j) (d.y.value x r j)) else if d.maskMode = 2 then some false else none
  let byte (r i : Nat) : List Byte :=
    let old := leNat (x.read (d.addrZ + r * d.pitchZ + i) 1)
    leBytes 1 (((List.range 8).map (fun k =>
      bitAt (if 8 * i + k < d.cols then (bit r (8 * i + k)).getD (bitOf old k) else bitOf old k) k)).sum)
  { writes := (List.range d.rows).flatMap (fun r => (List.range ((d.cols + 7) / 8)).map (fun i => (d.addrZ + r * d.pitchZ + i, byte r i))),
    kinds := [], convs := 0 }

/-- EQROW: codes and per-row scales (R182); where the two areas share bytes, the scales are written after the codes
(DESIGN CHOICE, log 32). -/
def EDesc.quantise (d : EDesc) (x : Tile) (op : Nat) (o : OutRound) : EopEffect :=
  let rows := (List.range d.rows).map (d.xRow x op)
  let f := fmtAt d.fmtOut
  let ss := rows.map (fun row => eqrowScale f (bitOf d.param 0) (row.filterMap id))
  let e := d.emit x op o (rows.mapIdx (fun r row => row.map (fun v => v.map (fun v => cround (fmtAt d.cfmt) (v.div (ss.getD r (Fp.one, false)).1)))))
  { e with writes := e.writes ++ vecWrites .fp32 d.addrS (ss.map (fun p => some (fp32.encode p.1))),
           convs := e.convs + (ss.filter Prod.snd).length }

/-- RSTAT: a record per row and segment (R180). -/
def EDesc.statistics (d : EDesc) (x : Tile) (op : Nat) : EopEffect :=
  { writes := (List.range d.rows).flatMap (fun r => (List.range (recordsOf d.cols)).map (fun t =>
      (d.addrZ + (r * recordsOf d.cols + t) * 32, statsRecord (((d.xRow x op r).drop (128 * t)).take 128)))),
    kinds := [], convs := 0 }

/-- RMERGE: mean and rstd per row (R181). -/
def EDesc.merge (d : EDesc) (x : Tile) : EopEffect :=
  let eps := EFmt.fp32.value (x.elem .fp32 d.w.base 0 0 0)
  let rows := (List.range d.rows).map (fun r => (carriedRow (x.records d.x.base r d.cols) eps (bitOf d.param 0)).getD (.nan, .nan))
  { writes := rows.mapIdx (fun r p => (d.addrZ + r * d.pitchZ, leBytes 4 (fp32.encode p.1) ++ leBytes 4 (fp32.encode p.2))),
    kinds := rows.map (fun p => [if !p.1.isFinite then some p.1.kind else if !p.2.isFinite then some p.2.kind else none]), convs := 0 }

/-- The effect of an element instruction. -/
def eopEffect (s : State) (d : EDesc) (x : Tile) (op : Nat) : EopEffect :=
  let o := outRound s (d.stochastic op) d.outVaddr d.pitchZ (fmtAt d.fmtOut)
  if op = 0x0B then d.compare x op
  else if op = 0x11 then d.quantise x op o
  else if op = 0x34 then d.statistics x op
  else if op = 0x35 then d.merge x
  else if opRow op then d.emit x op o ((List.range d.rows).map (fun r => [d.reduceRow op (d.xRow x op r)]))
  else if opColumn op then
    d.emit x op o [(gridColumns ((List.range d.rows).map (d.xRow x op)) d.cols none).map (d.reduceColumn op)]
  else d.emit x op o (gridOf d.rows d.cols (fun r j => if d.active x op r j then some (d.compute x op r j) else none))

/-- The output tiles of an element instruction (R186). -/
def eopTiles (d : EDesc) (op : Nat) : List (Nat × Nat × Nat × Nat) :=
  outTiles (d.outGrid op).1 (d.outGrid op).2 (roundUp (d.outGrid op).1 128, roundUp (d.outGrid op).2 128) 128

/-- NAN_INF as a condition of an output element. -/
def EopEffect.kindAt (e : EopEffect) (i j : Nat) : Option Nat := gridGet e.kinds i j none

/-- The state after an element instruction's effect: the store, the NAN_INF record, the counters. -/
def applyEop (s : State) (t : TileId) (d : EDesc) (op : Nat) (e : EopEffect) : State :=
  let s := tileWriteAll s t e.writes
  let s := noteOutTiles s t true (eopTiles d op) e.kindAt (fun _ _ => none)
  noteSeed (bumpTimes (countTile s t 3 e.convs) t [7]) (d.stochastic op)

/-- Dispatch an element instruction whose descriptor has been read. -/
def dispatchEop (s : State) (t : TileId) (sp : Span) (d : EDesc) (op : Nat) : State :=
  if eopFault s d op != 0 then refuseHere s t (eopFault s d op)
  else
    let reads := sp :: (d.reads op).map Area.span
    let writes := (d.writes op).map Area.span
    if (s.tile t).mustWait .element reads writes then s
    else match consume s t ((d.reads op).flatMap Area.rowSpans) with
      | (s, 0) =>
        let e := eopEffect s d (s.tile t) op
        let s := applyEop s t d op e
        let s := advance (enqueue s t .element reads writes none) t
        flagStop s t (anyHit (eopTiles d op) e.kindAt) false
      | (s, st) => refuseHere s t st

/-- An element-class instruction (R165). -/
def runEop (op : Nat) (t : TileId) (w : TWord) (s : State) : Res := onTile t 2 op w s fun s =>
  withDescriptor s t .element w fun s sp bs => dispatchEop s t sp (parseEop bs) op

end Sys2Proof.Machine
end

