-- ==== Sys2Proof/Machine/ElementOps.lean ====
section
/-! DEFINITION. The element-class instructions: one meaning per operation of Table 5.4 and Table 5.7. -/

namespace Sys2Proof.Machine

/-- EADD: x + y. -/
def execEadd (t : TileId) (w : TWord) (s : State) : Res := runEop 0x01 t w s
/-- ESUB: x − y. -/
def execEsub (t : TileId) (w : TWord) (s : State) : Res := runEop 0x02 t w s
/-- EMUL: x × y. -/
def execEmul (t : TileId) (w : TWord) (s : State) : Res := runEop 0x03 t w s
/-- EFMA: x × y + w with one rounding. -/
def execEfma (t : TileId) (w : TWord) (s : State) : Res := runEop 0x04 t w s
/-- EDIV: x / y, correctly rounded. -/
def execEdiv (t : TileId) (w : TWord) (s : State) : Res := runEop 0x05 t w s
/-- ESQRT: √x, correctly rounded. -/
def execEsqrt (t : TileId) (w : TWord) (s : State) : Res := runEop 0x06 t w s
/-- EMIN (R170). -/
def execEmin (t : TileId) (w : TWord) (s : State) : Res := runEop 0x07 t w s
/-- EMAX (R170). -/
def execEmax (t : TileId) (w : TWord) (s : State) : Res := runEop 0x08 t w s
/-- EABS: |x|. -/
def execEabs (t : TileId) (w : TWord) (s : State) : Res := runEop 0x09 t w s
/-- ENEG: −x. -/
def execEneg (t : TileId) (w : TWord) (s : State) : Res := runEop 0x0A t w s
/-- ECMP: mask bits (R171). -/
def execEcmp (t : TileId) (w : TWord) (s : State) : Res := runEop 0x0B t w s
/-- ESEL: x where the mask bit is 1, else y (R175). -/
def execEsel (t : TileId) (w : TWord) (s : State) : Res := runEop 0x0C t w s
/-- ECOPY: x. -/
def execEcopy (t : TileId) (w : TWord) (s : State) : Res := runEop 0x0D t w s
/-- ECVT: one conversion of the stored value (R173). -/
def execEcvt (t : TileId) (w : TWord) (s : State) : Res := runEop 0x10 t w s
/-- EQROW: per-row quantisation (R182). -/
def execEqrow (t : TileId) (w : TWord) (s : State) : Res := runEop 0x11 t w s
/-- EDQROW: per-row dequantisation (R183). -/
def execEdqrow (t : TileId) (w : TWord) (s : State) : Res := runEop 0x12 t w s
/-- EPOLY: Horner polynomial (R172). -/
def execEpoly (t : TileId) (w : TWord) (s : State) : Res := runEop 0x20 t w s
/-- EEXP: e to the x (Table 5.7). -/
def execEexp (t : TileId) (w : TWord) (s : State) : Res := runEop 0x21 t w s
/-- EEXP2: 2 to the x (Table 5.7). -/
def execEexp2 (t : TileId) (w : TWord) (s : State) : Res := runEop 0x22 t w s
/-- ELOG: ln x (Table 5.7). -/
def execElog (t : TileId) (w : TWord) (s : State) : Res := runEop 0x23 t w s
/-- ELOG2: log₂ x (Table 5.7). -/
def execElog2 (t : TileId) (w : TWord) (s : State) : Res := runEop 0x24 t w s
/-- ERSQRT: 1/√x (Table 5.7). -/
def execErsqrt (t : TileId) (w : TWord) (s : State) : Res := runEop 0x25 t w s
/-- ESIN: sin x (Table 5.7). -/
def execEsin (t : TileId) (w : TWord) (s : State) : Res := runEop 0x26 t w s
/-- ECOS: cos x (Table 5.7). -/
def execEcos (t : TileId) (w : TWord) (s : State) : Res := runEop 0x27 t w s
/-- ETANH: tanh x (Table 5.7). -/
def execEtanh (t : TileId) (w : TWord) (s : State) : Res := runEop 0x28 t w s
/-- ESIGM: 1/(1 + e to the −x) (Table 5.7). -/
def execEsigm (t : TileId) (w : TWord) (s : State) : Res := runEop 0x29 t w s
/-- EGELU: GELU, tanh form (Table 5.7). -/
def execEgelu (t : TileId) (w : TWord) (s : State) : Res := runEop 0x2A t w s
/-- ESILU: x/(1 + e to the −x) (Table 5.7). -/
def execEsilu (t : TileId) (w : TWord) (s : State) : Res := runEop 0x2B t w s
/-- RSUM: row sum (R177). -/
def execRsum (t : TileId) (w : TWord) (s : State) : Res := runEop 0x30 t w s
/-- RSUMSQ: row sum of squares (R178). -/
def execRsumsq (t : TileId) (w : TWord) (s : State) : Res := runEop 0x31 t w s
/-- RMAX: row maximum (R170, R177). -/
def execRmax (t : TileId) (w : TWord) (s : State) : Res := runEop 0x32 t w s
/-- RMIN: row minimum (R170, R177). -/
def execRmin (t : TileId) (w : TWord) (s : State) : Res := runEop 0x33 t w s
/-- RSTAT: row-statistics records (R180). -/
def execRstat (t : TileId) (w : TWord) (s : State) : Res := runEop 0x34 t w s
/-- RMERGE: mean and rstd of every row (R181). -/
def execRmerge (t : TileId) (w : TWord) (s : State) : Res := runEop 0x35 t w s
/-- CSUM: column sum (R179). -/
def execCsum (t : TileId) (w : TWord) (s : State) : Res := runEop 0x38 t w s
/-- CMAX: column maximum (R179). -/
def execCmax (t : TileId) (w : TWord) (s : State) : Res := runEop 0x39 t w s
/-- CMIN: column minimum (R179). -/
def execCmin (t : TileId) (w : TWord) (s : State) : Res := runEop 0x3A t w s

end Sys2Proof.Machine
end

