-- ==== Sys2Proof/Machine/FabPorts.lean ====
section
/-! DEFINITION. Azmarlink's ports and timers: lane faults and live sparing, training, path notices, and the
sender's resends, dead targets and drains (R361 to R366, R379, R380, R384, R385, R391, R395, R589, R614). -/

namespace Sys2Proof.Machine

/-! ## Lanes (R363, R364) -/

/-- The connector lane that is a port's spare lane (Table 11.1). -/
def portSpare (p : Nat) : Nat := 16 + p % 4 / 2

/-- The lane of a fabric die that a connector lane of a port is. -/
def dieLane (p l : Nat) : Nat := 18 * (p % 8 / 4) + l

/-- The spare lane serving a port is unused, and not being trained for the other port that it serves. -/
def State.spareFree (s : State) (p : Nat) : Bool :=
  (spareLanes s.rig (p / 8)).contains (dieLane p (portSpare p)) &&
  !((List.range 16).any (fun q => q != p && q / 4 == p / 4 && portSpare q == portSpare p && (s.port q).sparing.isSome))

/-- A port's healthy lanes in ascending order: its own and the spare that it has taken. -/
def Port.healthy (x : Port) (p : Nat) : List Nat :=
  ((List.range 4).map (fun k => 4 * (p % 4) + k) ++ (if x.spareOwned then [portSpare p] else [])).filter (fun l => !x.failed.contains l)

/-- Record which lanes carry the four port lanes of a port. -/
def mapLanes (s : State) (p : Nat) (ls : List Nat) (reason : Nat) : State :=
  (List.range 4).foldl (fun s k =>
    let l := ls.getD k 31
    setLane s (p / 8) (4 * (p % 8) + k) (if l = 31 then none else some (dieLane p l)) reason) s

/-- FAB_EYE after training: the eye margin of each lane in use, which is measured; 0 for a port lane that no lane carries.
FREE VALUES (log 46). -/
def measureEyes (s : State) (p : Nat) : State :=
  let n := s.drawBits.1.toNat
  s.drawBits.2.setReg (portBase p + 0xC)
    (((s.port p).lanes.mapIdx (fun k l => if l = 31 then 0 else bitsOf n (8 * k + 7) (8 * k) * 256 ^ k)).sum)

/-- Codewords that a port's code has corrected since they were last counted. FREE VALUE (log 10). -/
def countCorrected (s : State) (p : Nat) : State := bumpClocks s (portBase p) 2

/-- A port that has lost a lane for good: it retrains on its two lowest healthy lanes at half rate with 0x4302,
or with fewer than two it is disabled with 0x4303 (R364). -/
def narrowPort (s : State) (p : Nat) : State :=
  match (s.port p).healthy p with
  | a :: b :: _ =>
    let ls := [a, b, 31, 31]
    let s := pathChange s (fun s => s.modPort p (fun x => { x with
      lanes := ls, width := if x.up then 2 else 0, sparing := none, spareUsed := a == portSpare p || b == portSpare p }))
    raise (bump (measureEyes (mapLanes s p ls 0x4302) p) (portBase p) 5 1) 0x4302 (srcPort p) 0 p
  | _ =>
    let s := pathChange s (fun s => (s.modPort p portOff).modPort p (fun x => { x with lanes := [31, 31, 31, 31], spareUsed := false }))
    raise (mapLanes s p [31, 31, 31, 31] 0x4303) 0x4303 (srcPort p) 0 p

/-- A lane in use loses lock or exceeds the error ratio (R363): with its spare lane unused the port starts to
spare it live, and leaves the usable sets; else it narrows or is disabled. -/
def execLaneFault (port : BitVec 4) (lane : BitVec 5) (s : State) : Res := powered s fun s =>
  let p := port.toNat
  let l := lane.toNat
  match (s.port p).lanes.findIdx? (fun x => x == l && x != 31) with
  | none => s
  | some k =>
    if !(s.port p).up || (s.port p).disabled then s
    else
      let s := markFailed ((countCorrected s p).modPort p (fun x => { x with failed := x.failed ++ [l] })) (.lane (p / 8) (dieLane p l))
      if (s.port p).sparing.isNone && s.spareFree p then pathChange s (fun s => s.modPort p (fun x => { x with sparing := some k }))
      else narrowPort s p

/-- 60 µs later the spare lane is mapped: the port resumes at full width and rejoins the usable sets, with 0x4301 (Table 11.3). -/
def execLaneSpared (port : BitVec 4) (s : State) : Res := powered s fun s =>
  let p := port.toNat
  match (s.port p).sparing with
  | none => s
  | some k =>
    let sp := portSpare p
    let s := setLane s (p / 8) (4 * (p % 8) + k) (some (dieLane p sp)) 0x4301
    let s := pathChange s (fun s => s.modPort p (fun x => { x with
      sparing := none, lanes := setAt x.lanes k (fun _ => sp), spareUsed := true, spareOwned := true }))
    raise (bump (measureEyes s p) (portBase p) 4 1) 0x4301 (srcPort p) 0 p

/-! ## Training (R361, R589, R614) -/

/-- The rate at which a port trains, 3, 2 or 1 for 400, 200 or 100 Gb/s: the highest of those that the switch port accepts
(bits 2, 1 and 0 of `accepts`) that exceeds neither MAX_RATE (0 as 1) nor what the channel supports; 0 for none (R361). -/
def trainRate (s : State) (p accepts channel : Nat) : Nat :=
  ([3, 2, 1].find? (fun r => r ≤ max 1 (bitsOf (s.reg (portBase p + 4)) 1 0) && bitOf accepts (r - 1) && r ≤ channel)).getD 0

/-- Keep a port disabled, with 0x4303. -/
def disablePort (s : State) (p : Nat) : State := raise (pathChange s (fun s => s.modPort p portOff)) 0x4303 (srcPort p) 0 p

/-- A port ends its training: up at the highest rate permitted, or disabled. The first port up gives the
package its identifiers, and a port whose switch supplies others is kept disabled. -/
def execPortTraining (port : BitVec 4) (accepts : BitVec 3) (channelRate : BitVec 2) (fabId fmId : U16) (reversed : Bool) (s : State) : Res :=
  powered s fun s =>
  let p := port.toNat
  let x := s.port p
  let rate := trainRate s p accepts.toNat channelRate.toNat
  if s.sec.romRecovery || x.up || x.disabled then s
  else if !s.portServes p || rate = 0 then disablePort s p
  else
    let others := s.fab.ports.any Port.up
    if others && !(s.fabId == fabId.toNat && s.fmId == fmId.toNat) then disablePort s p
    else
      let s := if others then s else s.setReg (fabBase 0) (fabId.toNat + fmId.toNat * 0x10000)
      let carried := x.lanes.filter (fun l => l != 31)
      let order := (if reversed then carried.reverse else carried) ++ List.replicate (4 - carried.length) 31
      let s := measureEyes (s.modPort p (fun x => { x with lanes := order })) p
      pathChange s (fun s => s.modPort p (fun x => { x with up := true, rate := rate, width := min 4 carried.length / 2 * 2 }))

/-- An uncorrectable codeword is replayed, with no packet lost, repeated or reordered (R362). -/
def execFecReplay (port : BitVec 4) (s : State) : Res := powered s fun s =>
  bump (countCorrected s port.toNat) (portBase port.toNat) 3 1

/-- A switch plane reports that a member's port on it is down (R366, R385). -/
def execPathDown (port : BitVec 4) (dst : U16) (s : State) : Res := powered s fun s =>
  if (s.port port.toNat).pathDown.contains dst then s
  else pathChange s (fun s => s.modPort port.toNat (fun x => { x with pathDown := x.pathDown ++ [dst] }))

/-- A switch plane reports that a member's port on it is back (R366). -/
def execPathUp (port : BitVec 4) (dst : U16) (s : State) : Res := powered s fun s =>
  if (s.port port.toNat).pathDown.contains dst then
    pathChange s (fun s => s.modPort port.toNat (fun x => { x with pathDown := x.pathDown.filter (fun d => d != dst) }))
  else s

/-! ## The sender's timers -/

/-- The space of a fabric die in which a number is outstanding: VC0's, or VC3's when only it holds the number. -/
def State.outSpace (s : State) (dst : U16) (fd : Nat) (seq : U32) : Nat :=
  if (s.txSpace dst fd).out.any (fun r => r.hdr.seq == seq) then fd else fd + 2

/-- The outstanding request of a number. -/
def State.outReq (s : State) (dst : U16) (fd : Nat) (seq : U32) : Option TxReq :=
  (s.txSpace dst (s.outSpace dst fd seq)).out.find? (fun r => r.hdr.seq == seq)

/-- A number of microseconds has passed since a request was first sent. -/
def State.unanswered (s : State) (r : TxReq) (us : Nat) : Bool := r.sentAt.toNat + 1000 * us ≤ s.tim.now.toNat

/-- 200, 400, 600 and 800 µs without a response: the request is resent (R380). -/
def execRequestResend (dst : U16) (fd : BitVec 1) (seq : U32) (s : State) : Res := powered s fun s =>
  match s.outReq dst fd.toNat seq with
  | none => s
  | some r =>
    if 4 ≤ r.resends || s.fab.msgBusy.contains (dst, seq) || (s.portInHalf fd.toNat r.slot dst).isNone ||
        !s.unanswered r (200 * (r.resends + 1)) then s
    else
      let k := s.outSpace dst fd.toNat seq
      let x := s.txSpace dst k
      let out := x.out.map (fun e => if e.hdr.seq = seq then { e with resends := e.resends + 1 } else e)
      resendReq (setTx s { x with out := out }) dst k seq

/-- 1,000 µs without a response: the destination is unresponsive, said and reported once until that state ends (R395). -/
def execTargetUnresponsive (dst : U16) (fd : BitVec 1) (seq : U32) (s : State) : Res := powered s fun s =>
  match s.outReq dst fd.toNat seq with
  | none => s
  | some r =>
    if s.fab.unresponsive.contains dst || s.fab.msgBusy.contains (dst, seq) || !s.unanswered r 1000 then s
    else
      let un := s.fab.unresponsive ++ [dst]
      report (raise { s with fab := { s.fab with unresponsive := un } } 0x4305 (srcFab fd.toNat) 0 dst.toNat) 0x8713 0 dst.toNat

/-- DRAIN_TIMEOUT_US of a fabric die, in nanoseconds; 0 counts as 1 µs (Table 11.10). -/
def State.drainTimeout (s : State) (fd : Nat) : Nat := 1000 * max 1 (bitsOf (s.reg (fabBase fd + 8)) 11 0)

/-- DRAIN_TIMEOUT_US without a DRAIN_RETURN: the old path is dead (R385). -/
def execDrainTimeout (dst : U16) (port : BitVec 4) (s : State) : Res := powered s fun s =>
  let late (x : DrainState) : Bool := x.since.toNat + s.drainTimeout (port.toNat / 8) ≤ s.tim.now.toNat
  if s.fab.drains.any (fun x => x.dst == dst && x.port == port.toNat && late x) then deadPath s dst port.toNat else s

/-- A RELEASED value that has advanced and has not been carried for 20 µs is carried by a DRAIN, on the port of
the space's last request or the fallback from it (R379). -/
def execReleasedDrain (dst : U16) (fd : BitVec 1) (s : State) : Res := powered s fun s =>
  let x := s.txSpace dst fd.toNat
  if x.released = x.carried then s
  else match s.portFor x.lastPort dst with
    | none => s
    | some p =>
      let h := { ownHdr s dst with released := x.released }
      let s := emitPacket (setTx s { x with carried := x.released }) p .drain h [] []
      let out := s.fab.drainsOut ++ [(dst, p, false)]
      { s with fab := { s.fab with drainsOut := out } }

/-- A message that the receiver had no room for is resent every 200 µs (R391). -/
def execUnexpectedResend (dst : U16) (fd : BitVec 1) (seq : U32) (s : State) : Res := powered s fun s =>
  if s.fab.msgBusy.contains (dst, seq) then resendReq s dst fd.toNat seq else s

/-- A queued request is sent once its space has room and a port is usable (R377, R378). -/
def execQueuedRequestSend (dst : U16) (fd : BitVec 1) (s : State) : Res := powered s fun s =>
  let x := s.txSpace dst fd.toNat
  match x.queued with
  | [] => sendQueuedColl s dst fd.toNat
  | r :: rest =>
    match s.portFor r.slot dst with
    | none => s
    | some p =>
      if 4096 ≤ (s.txSpace dst (p / 8)).out.length || s.fab.drains.any (fun y => y.dst == dst && y.slots.contains r.slot) then s
      else launchReq (setTx s { x with queued := rest }) r p

end Sys2Proof.Machine
end

