-- ==== Sys2Proof/Machine/Launch.lean ====
section
/-! DEFINITION. Management messages of the job's launch: BIND, LAUNCH with its image and hints, 'attention'
and 'go' (R23, R110, R269, R336, R377, R398, R442, R444, R449, R467, R470 to R472, R489, R493 to R500, R588, R590). -/

namespace Sys2Proof.Machine

/-! ## Messages (R588) -/

/-- The PMC firmware runs and takes a management message: one over Azmarlink, of so many bytes of body, is counted by its port. -/
def onMgmt (s : State) (src : MgmtSrc) (body : Nat) (f : State → State) : Res := powered s fun s =>
  if s.sec.romRecovery then s
  else match src with
    | .fabric _ => f (countMgmt s 1 (mgmtBytes body))
    | .tray => f s

/-- The PMC firmware runs. -/
def onFirmware (s : State) (f : State → State) : Res := powered s fun s => if s.sec.romRecovery then s else f s

/-- A refused message: dropped and counted. -/
def dropMsg (s : State) : State := { s with mgmt := { s.mgmt with dropped := s.mgmt.dropped + 1 } }

/-- The sender is the fabric manager. -/
def State.fromFm (s : State) (src : MgmtSrc) : Bool := src == .fabric (BitVec.ofNat 16 s.fmId)

/-- Reply to a message: KIND with bit 7 set, and a status; a port counts the one that goes over Azmarlink. -/
def replyTo (s : State) (src : MgmtSrc) (kind st : Nat) : State :=
  let s := s.emit (.mgmtReply (BitVec.ofNat 8 (kind + 0x80)) (BitVec.ofNat 16 st))
  match src with
  | .fabric _ => countMgmt s 0 (mgmtBytes 2)
  | .tray => s

/-- Reply to the fabric manager. -/
def reply (s : State) (kind st : Nat) : State := replyTo s (.fabric (BitVec.ofNat 16 s.fmId)) kind st

/-- Replace the bound job. -/
def setJob (s : State) (j : Job) : State := { s with job := some j }

/-! ## BIND -/

/-- Tiles of the last job are zeroing (R110). -/
def State.stillZeroing (s : State) : Bool := s.tiles.any (fun e => e.2.zeroing)

/-- A job as a BIND gives it. -/
def freshJob (b : BindBody) : Job :=
  { tag := b.jobTag, epoch := b.epoch, rank := b.ownRank.toNat, members := b.fabIds, phase := .bound, launch := none, image := none,
    forwarded := false, forwardedAt := 0, childAcks := [], hintPages := [], timeSeed := 0, programDigest := [], shrunk := false,
    oldMembers := 0 }

/-- Bind a job tag: sequence spaces and sync counters start at zero, flag records are cleared, the thermal mode is
applied and every phase prefers point 15 (R126, R341, R377, R432, R514). -/
def bindJob (s : State) (b : BindBody) : State :=
  let s := setJob s (freshJob b)
  let s := { s with fab := { s.fab with tx := [], rx := [] }, sync := { counters := [], waits := [], wrapped := [] } }
  let s := (s.tiles.map Prod.fst).foldl (fun s t => clearFlags s t 3) s
  (List.range 256).foldl (fun s n => s.setRegBits (pwrBase + 0x1000 + 4 * n) 11 0 0xFFF) (applyThermMode s)

/-- The sequence spaces restart at 0 when the job's epoch changes (R377). -/
def newEpoch (s : State) (j : Job) (epoch : U16) : State :=
  if j.epoch = epoch then s else { s with fab := { s.fab with tx := [], rx := [] } }

/-- BIND: refused before the first time lock; the same tag reloads the member table (R398); another tag is not bound
while one is, nor before the last job's tiles are zero (R110). -/
def execBind (src : MgmtSrc) (body : BindBody) (s : State) : Res := onMgmt s src (12 + 2 * body.fabIds.length) fun s =>
  if !s.fromFm src then dropMsg s
  else if s.setupOnly then reply s 0x10 s.sec.bootStatus.toNat
  else if !s.synced then reply s 0x10 0x8906
  else match s.job with
    | some j =>
      if j.tag = body.jobTag then
        reply (setJob (newEpoch s j body.epoch) { j with epoch := body.epoch, rank := body.ownRank.toNat, members := body.fabIds }) 0x10 0
      else dropMsg s
    | none => if s.stillZeroing then s else reply (bindJob s body) 0x10 0

/-! ## The checks of a launch -/

/-- The size of a checkpoint store (R473). -/
def storeSize (d : Nat) : Nat := 0x200000 + 2 * (d + listBytes d + 0x200000)

/-- A checkpoint plan that R471 refuses. -/
def badCkptPlan (s : State) (p : CkptPlan) (m : MemPlan) : Bool :=
  let crewmate (r : Nat) : Bool :=
    r != s.rank && (match s.memberId r with | some id => crewOf id == crewOf s.fabId | none => false)
  let d := p.vbytes.toNat
  let size := storeSize d
  !crewmate p.buddyRank.toNat || !crewmate p.wardRank.toNat || p.vbase.toNat % 0x200000 != 0 || d % 0x200000 != 0 || d < 0x200000 ||
  2 ^ 40 < d || p.wardStore.toNat % 0x200000 != 0 || p.hostStore.toNat % 0x200000 != 0 || !p.resClear ||
  overlaps p.wardStore.toNat size p.vbase.toNat d ||
  (p.hostStore != 0 && !(m.hostBase.toNat ≤ p.hostStore.toNat && p.hostStore.toNat + size ≤ m.hostLimit.toNat))

/-- A memory plan whose check pool and staging area exceed a die's usable frames (R336). -/
def planTooLarge (s : State) (m : MemPlan) : Bool :=
  (List.range 4).any (fun n =>
    usableFrames - (s.withdrawnOf n).length < m.checkFrames.getD n 0 + (if m.ckptEn then 128 else 0))

/-- The status that refuses a launch's plans; 0 for none. -/
def launchFault (s : State) (l : LaunchBody) : Nat :=
  if 4 ≤ l.mode.toNat then 0x8916
  else if s.activeTiles < l.logicalTiles.toNat then 0x8602
  else if planTooLarge s l.plan then 0x8219
  else if l.plan.ckptEn && badCkptPlan s l.ckpt l.plan then 0x8701
  else 0

/-! ## Resume (R467 to R469, R489) -/

/-- This member held the rank before the resume: it is a survivor, no spare. -/
def State.survivor (s : State) : Bool := match s.job with | some j => j.oldMembers != 0 | none => false

/-- Pages of a durable range. -/
def rangePages (p : CkptPlan) : List Nat := (List.range (p.vbytes.toNat / 0x200000)).map (fun i => p.vbase.toNat / 0x200000 + i)

/-- Granules of the durable range. -/
def rangeGranules (p : CkptPlan) : List Nat := (List.range (p.vbytes.toNat / 65536)).map (fun i => p.vbase.toNat / 65536 + i)

/-- The granules that a member restores: a survivor's rollback map, or the whole range for a spare, and where G* is
older than the map covers (R468). -/
def State.restoreSet (s : State) (p : CkptPlan) (g : U64) : List Nat :=
  if s.survivor && s.ckpt.gen.toNat ≤ g.toNat then s.mem.rollback else rangeGranules p

/-- Pages of a rising list of granules. -/
def granulePages (gs : List Nat) : List Nat := gs.foldl (fun l g => natInsert l (g / 32)) []

/-- Sync counters of a generation whose manifest only the buddy's store shows (log 29). -/
def blindCounters (g : Nat) : List (Nat × U64) :=
  (List.range 16384).filterMap (fun c => if Config.buddyCounter g c = 0 then none else some (c, Config.buddyCounter g c))

/-- Where a member finds G* (R469, R489): the slots of both stores as they stand now, whether the buddy's contents are
not known here, and the sync counters of G*; none when no source holds it. -/
def findGeneration (s : State) (p : CkptPlan) (g : U64) : Option (List StoreSlot × List StoreSlot × Bool × List (Nat × U64)) :=
  let same := s.ckpt.buddyId == s.buddyFab p
  let buddy := if s.survivor && same then s.ckpt.buddy else List.replicate 2 StoreSlot.empty
  let host := [hostSlotOf s p 0, hostSlotOf s p 1]
  let hidden := !s.survivor && Config.buddyHolds g.toNat
  match slotWith buddy g, slotWith host g with
  | some x, _ => some (buddy, host, false, x.counters)
  | none, some x => some (buddy, host, hidden, x.counters)
  | none, none => if hidden then some (buddy, host, true, blindCounters g.toNat) else none

/-- Prepare the resume at G*: counters loaded, pages restore-pending, RESTORING set (R489). A member whose buddy changes
starts with an unseeded buddy store (R500). -/
def startResume (s : State) (p : CkptPlan) (l : LaunchBody) (f : List StoreSlot × List StoreSlot × Bool × List (Nat × U64)) : State :=
  let gs := s.restoreSet p l.gen
  let changed := s.survivor && s.ckpt.buddyId != s.buddyFab p
  let c := { Ckpt.reset with
    buddy := f.1, host := f.2.1, gen := l.gen, genStroke := l.startStroke, restoring := true, blind := f.2.2.1, reseeding := changed,
    hostSlot := (f.2.1.getD 1 StoreSlot.empty).gen == some l.gen, buddyId := s.buddyFab p }
  endRestore { s with ckpt := c, sync := { s.sync with counters := f.2.2.2 },
                      mem := { s.mem with restorePending := granulePages gs, rollback := gs } }

/-- Prepare checkpoints for a new job. -/
def startNew (s : State) (l : LaunchBody) : State :=
  let id := if l.plan.ckptEn then s.buddyFab l.ckpt else none
  { s with ckpt := { Ckpt.reset with buddyId := id }, mem := { s.mem with restorePending := [], rollback := [] } }

/-! ## 'attention' (R494) -/

/-- The children of the own rank in the launch tree (R493). -/
def State.children (s : State) : List Nat :=
  ((List.range 8).map (fun k => 8 * s.rank + 1 + k)).filter (fun r => r < s.members.length)

/-- The ward store is mapped as R472 requires. -/
def State.wardMapped (s : State) (l : LaunchBody) : Bool :=
  !l.plan.ckptEn || (List.range (storeSize l.ckpt.vbytes.toNat / 0x200000)).all (fun i =>
    match kvGet s.mem.xlt (l.ckpt.wardStore.toNat / 0x200000 + i) with
    | some e => bitsOf e.toNat 6 0 == 0b0000111
    | none => false)

/-- A launch ends with a status before 'go'. -/
def endLaunching (s : State) (j : Job) (st : Nat) : State :=
  let j := { j with phase := .bound, image := none, forwarded := false, childAcks := [], hintPages := [] }
  reply (setJob s j) 0x12 st

/-- Acknowledge 'attention' to the parent once everything R494 lists holds; a ward store that is not mapped as required
refuses the launch (R472). -/
def tryAck (s : State) : State :=
  match s.job with
  | none => s
  | some j =>
    match j.launch with
    | none => s
    | some l =>
      if j.phase != .launched || !j.forwarded || j.hintPages.length < l.hintCount.toNat || !s.children.all j.childAcks.contains then s
      else if !s.wardMapped l then endLaunching s j 0x8701
      else
        let s := setJob s { j with phase := .ready }
        countMgmt (if j.rank = 0 then s.emit (.attention true 0) else s.emit (.attention false ((j.rank - 1) / 8))) 0 (mgmtBytes 1)

/-- Act on the image held: one whose digest matches is forwarded to the children; another is refused with 0x8703 (R493, R496). -/
def checkImage (s : State) : State :=
  match s.job with
  | none => s
  | some j =>
    match j.launch, j.image with
    | some l, some bs =>
      if j.forwarded || j.phase != .launched then s
      else if shake256 bs = l.programDigest then
        let s := s.children.foldl (fun s r => s.emit (.image r)) (setJob s { j with forwarded := true, forwardedAt := s.tim.now })
        tryAck s
      else report (setJob s { j with image := none }) 0x8703 0 0
    | _, _ => s

/-! ## The commands -/

/-- Note the program of a job among the last sixteen (R518). -/
def noteProgram (s : State) (d : List Byte) : State :=
  let ps := (d :: s.pwr.programs.filter (fun x => x != d)).take 16
  let ds := s.pwr.demands.filter (fun x => ps.contains x.program)
  { s with pwr := { s.pwr with programs := ps, demands := ds } }

/-- An accepted launch: its plans apply. -/
def acceptLaunch (s : State) (j : Job) (l : LaunchBody) : State :=
  let shrunk := l.gen != 0 && j.oldMembers != 0 && j.members.length < j.oldMembers
  let j := { j with launch := some l, phase := .launched, forwarded := false, childAcks := [], hintPages := [],
                    timeSeed := s.tim.now, programDigest := l.programDigest, shrunk := shrunk }
  noteProgram (setJob s j) l.programDigest

/-- The job's translation entries and dirty bits, counters, registrations and groups go with it (R432; log 30). -/
def clearJob (s : State) : State :=
  { s with
    job := none,
    sync := { counters := [], waits := [], wrapped := [] },
    mem := { s.mem with xlt := [], dirty := [], ckptPend := [], staging := [], windowOpen := false, restorePending := [], rollback := [] },
    fab := { s.fab with bulkRegs := [] },
    ckpt := Ckpt.reset }

/-- A refused LAUNCH: no tile stays bound by an earlier launch (R23), and a plan that is too large leaves the job unbound (R336). -/
def refuseLaunch (s : State) (j : Job) (st : Nat) : State :=
  reply (if st = 0x8219 then clearJob s else setJob s { j with launch := none }) 0x12 st

/-- LAUNCH: checks, then the preparation of a new job or of a resume, then the image if it is already here. -/
def execLaunch (src : MgmtSrc) (body : LaunchBody) (s : State) : Res := onMgmt s src 216 fun s =>
  match s.job with
  | none => dropMsg s
  | some j =>
    if !s.fromFm src || j.phase != .bound then dropMsg s
    else if launchFault s body != 0 then refuseLaunch s j (launchFault s body)
    else if body.gen = 0 then checkImage (acceptLaunch (startNew s body) j body)
    else if !body.plan.ckptEn then refuseLaunch s j 0x8704
    else match findGeneration s body.ckpt body.gen with
      | none => refuseLaunch s j 0x8704
      | some f => checkImage (acceptLaunch (startResume s body.ckpt body f) j body)

/-- LAUNCH_IMAGE: the launch image arrives; a second one with the same digest is ignored (R493, R496). -/
def execLaunchImage (image : List Byte) (s : State) : Res := onFirmware s fun s =>
  match s.job with
  | none => s
  | some j =>
    if j.phase = .ready || j.phase = .running || j.forwarded then
      (if shake256 image = j.programDigest then s else report s 0x8703 0 0)
    else checkImage (setJob s { j with image := some image })

/-- LAUNCH_CHILD_MISSING: 100 ms after the image was forwarded a child has not acknowledged (R495). -/
def execLaunchChildMissing (rank : U32) (s : State) : Res := onFirmware s fun s =>
  match s.job with
  | none => s
  | some j =>
    if j.phase = .launched && j.forwarded && s.children.contains rank.toNat && !j.childAcks.contains rank.toNat &&
        j.forwardedAt.toNat + 100000000 ≤ s.tim.now.toNat then
      raise (countMgmt (s.emit (.childMissing rank.toNat)) 0 (mgmtBytes 32)) 0x4707 srcPmc 0 rank.toNat
    else s

/-- Hold hint pages from an index on; one already held stays. -/
def holdHints : Nat → List U64 → List (Nat × U64) → List (Nat × U64)
  | _, [], l => l
  | i, p :: r, l => holdHints (i + 1) r (if (kvGet l i).isSome then l else kvSet l i p)

/-- HINTS: a range of restore hints (R590). -/
def execHints (src : MgmtSrc) (first : U32) (pages : List U64) (s : State) : Res := onMgmt s src (8 + 8 * pages.length) fun s =>
  match s.job with
  | none => dropMsg s
  | some j =>
    let n := match j.launch with | some l => l.hintCount.toNat | none => 0
    if !s.fromFm src || !(j.phase = .launched || j.phase = .ready) || pages.isEmpty || 7900 < pages.length || n < first.toNat + pages.length then dropMsg s
    else tryAck (reply (setJob s { j with hintPages := holdHints first.toNat pages j.hintPages }) 0x16 0)

/-- ATTENTION: a child's acknowledgement (R494, R588). -/
def execAttention (src : MgmtSrc) (ack : BitVec 8) (s : State) : Res := onMgmt s src 1 fun s =>
  match s.job, src with
  | some j, .fabric id =>
    match s.rankOf id.toNat with
    | some r =>
      if j.phase = .launched && s.children.contains r && ack = 1 then tryAck (setJob s { j with childAcks := natInsert j.childAcks r }) else s
    | none => if s.fromFm src then s else dropMsg s
  | _, _ => dropMsg s

/-- GEOMETRY_DIGEST into its registers (R442). -/
def showGeometry (s : State) : State :=
  let d := geometryDigest s.members s.logicalTiles
  (List.range 16).foldl (fun s i => s.setReg (detBase + 0x40 + 4 * i) (fieldLE d (4 * i) 4)) s

/-- Register the ward store under key 0xFFFF (R472). -/
def registerWard (s : State) (l : LaunchBody) : State :=
  let rest := s.fab.bulkRegs.filter (fun e => e.1 != 0xFFFF)
  let regs := if l.plan.ckptEn then rest ++ [(0xFFFF, l.ckpt.wardStore, BitVec.ofNat 64 (storeSize l.ckpt.vbytes.toNat))] else rest
  { s with fab := { s.fab with bulkRegs := regs } }

/-- DET_JOB_NONDET at 'go': 0 for a new job, else NONDET_BASE (R449). -/
def setNondet (s : State) (l : LaunchBody) : State :=
  let n := if l.gen = 0 then 0 else l.nondetBase.toNat
  (s.setReg64 (detBase + 8) n).setReg (detBase + 4) (if n = 0 then 0 else 1)

/-- GO: STROKE and its mirror, the count of non-determinism, GEOMETRY_DIGEST and the ward store; the launch completes, with
0x0170 after a shrink, and a new buddy store is announced as unseeded (R269, R273, R442, R449, R472, R497, R499, R500). -/
def execGo (src : MgmtSrc) (s : State) : Res := onMgmt s src 0 fun s =>
  match s.job with
  | none => dropMsg s
  | some j =>
    match j.launch with
    | none => dropMsg s
    | some l =>
      if !s.fromFm src || j.phase != .ready then dropMsg s
      else
        let s := setJob s { j with phase := .running, oldMembers := j.members.length }
        let s := { s with stroke := { s.stroke with count := l.startStroke, entered := none, after := [], arrived := false, slowSent := false, secondRound := false },
                          ckpt := { s.ckpt with lastSnap := s.tim.now, strokesSince := 0 } }
        let s := registerWard (showGeometry (setNondet (syncSet s 16383 l.startStroke.toNat) l)) l
        let s := reply s 0x12 (if j.shrunk then 0x0170 else 0)
        if s.ckpt.reseeding then raise (refreshUnprotected s) 0x4704 srcPmc 0 l.gen.toNat else s

end Sys2Proof.Machine
end

