-- ==== Sys2Proof/Machine/Manage.lean ====
section
/-! DEFINITION. Management messages outside a launch, the Evfek ring, time sources and time matches (R507,
R527, R584 to R588, R591 to R597). -/

namespace Sys2Proof.Machine

/-! ## Limits and catches -/

/-- A tray limit: one that would raise it while HOLDING or TRIP is set has no effect and gives 0x8801 (R507, R527). -/
def trayLimit (s : State) (w : Nat) : State × Nat :=
  if s.holding && s.reg (pwrBase + 0xC) < clampLimit w then (s, 0x8801) else (setLimit s (pwrBase + 0xC) w, 0)

/-- LIMIT from the fabric manager or the tray controller. -/
def execLimit (src : MgmtSrc) (watts : U16) (s : State) : Res := onMgmt s src 2 fun s =>
  match src with
  | .tray => let r := trayLimit s watts.toNat; replyTo r.1 src 0x05 r.2
  | .fabric _ => if s.fromFm src then reply (setLimit s (pwrBase + 0x10) watts.toNat) 0x05 0 else dropMsg s

/-- A catch by message or frame, when SNAP_CTRL enables it: at once, or armed as a time match (R596). -/
def catchBy (s : State) (matchTime : U64) : State :=
  if !s.regBit snapBase 4 then s
  else if matchTime = 0 then takeCatch s 4
  else (s.setReg64 (snapBase + 8) matchTime.toNat).setRegBit snapBase 3 true

/-- CATCH from the fabric manager or the tray controller. -/
def execCatchMsg (src : MgmtSrc) (matchTime : U64) (_catchId : U32) (s : State) : Res := onMgmt s src 12 fun s =>
  if src == .tray || s.fromFm src then replyTo (catchBy s matchTime) src 0x04 0 else dropMsg s

/-- TIME_MATCH: the counter has reached SNAP_MATCH_TIME; the source fires once (R596, R597). -/
def execTimeMatch (s : State) : Res := powered s fun s =>
  if s.regBit snapBase 3 && s.reg64 (snapBase + 8) ≤ s.tim.now.toNat then takeCatch (s.setRegBit snapBase 3 false) 3 else s

/-! ## Time (R592 to R595) -/

/-- The time that a TIME message gives: ORIGIN and the correction in whole nanoseconds. -/
def messageTime (origin correction : U64) : Nat := (((origin.toNat : Int) + correction.toInt / 65536) % (2 ^ 64 : Nat)).toNat

/-- TIME over Azmarlink, or from the tray controller over the ring. -/
def execTime (src : MgmtSrc) (origin correction : U64) (s : State) : Res := onMgmt s src 16 fun s =>
  match src with
  | .fabric _ => timeFrom s .azmarlink (messageTime origin correction)
  | .tray => timeFrom s .evfek (messageTime origin correction)

/-- PTP_MESSAGE: counted and processed in the package's own domain. -/
def execPtpMessage (domain : BitVec 8) (locked : Bool) (timeNs : U64) (s : State) : Res := powered s fun s =>
  let s := bump s timBase 3 1
  if bitsOf (s.reg (timBase + 0xC)) 15 8 != domain.toNat then s
  else if locked then timeFrom s .ptp timeNs.toNat
  else loseSource s .ptp

/-- HOLDOVER: the selected source loses lock. -/
def execHoldover (s : State) : Res := powered s fun s =>
  match s.tim.source with
  | none => s
  | some x => loseSource s x

/-- Holdover has lasted beyond 10 s (R595). -/
def State.holdoverLong (s : State) : Bool :=
  s.regBit (timBase + 8) 4 && decide (s.tim.lostAt.toNat + 10000000000 < s.tim.now.toNat)

/-- TIME_OUT_OF_TOLERANCE: an offset above 1 ms, or holdover beyond 10 s, sets OUT_OF_TOLERANCE (R595). -/
def execTimeOutOfTolerance (offset : U32) (holdoverBeyond : Bool) (s : State) : Res := powered s fun s =>
  let far := 1000000 < offset.toInt.natAbs && !holdoverBeyond
  if !s.synced then s
  else if far || (holdoverBeyond && s.holdoverLong) then
    let s := if far then s.setReg (timBase + 0x10) offset.toNat else s
    raise (s.setRegBit (timBase + 8) 5 true) 0x4907 srcTim 0 0
  else s

/-- PPS_OUT_PULSE: at a whole second of the counter, with PPS_OUT_EN set, the output pulses (R593). -/
def execPpsOutPulse (s : State) : Res := powered s fun s =>
  if s.regBit (timBase + 0xC) 4 && s.tim.now.toNat % 1000000000 < 20 then s.emit .pps else s

/-! ## Fragments (R588) -/

/-- MGMT_FRAGMENT_TIMEOUT: a partial message is discarded. -/
def execMgmtFragmentTimeout (txn : U32) (s : State) : Res := powered s fun s =>
  let rest := s.mgmt.partials.filter (fun x => x != txn)
  { s with mgmt := { s.mgmt with partials := rest } }

/-! ## The Evfek ring (R584 to R587) -/

/-- The ring position: strap value plus one. -/
def State.ringPos (s : State) : Nat := s.pins.sledPos.toNat + 1

/-- A frame that is not addressed to this package goes on along the ring (R585). -/
def forwardFrame (s : State) (h : EvfHdr) : State :=
  if h.dst.toNat != s.ringPos && s.ringOut then s.emit (.evfForward h) else s

/-- A frame reaches the PMC: the bypass is open, a pair in is up, and the frame is for this package or for all; one whose
CRC fails is dropped and counted, and one that is not for this package alone is forwarded (R585). -/
def onFrame (s : State) (h : EvfHdr) (f : State → State) : Res := powered s fun s =>
  if !s.pins.bypassOpen || !s.pins.pairsIn.any (fun b => b) then s
  else if !h.crcOk then bump s evfBase 1 1
  else
    let s := forwardFrame s h
    if h.dst.toNat != s.ringPos && h.dst != 0xFF then s else f (bump s evfBase 0 1)

/-- Apply a command of the tray controller: its reply's status. -/
def applyRing (s : State) (cmd : EvfCmd) : Option (State × Nat) :=
  match cmd with
  | .limit w => some (trayLimit s w.toNat)
  | .catchAt t _ => some (catchBy s t, 0)
  | .time o k => some (timeFrom s .evfek (messageTime o k), 0)
  | .other _ => none

/-- EVFEK_COMMAND: a repeated SEQ is answered from the last reply; an unknown kind, or one that no tray controller sent, is
dropped and counted (R586, R588). -/
def execEvfekCommand (h : EvfHdr) (cmd : EvfCmd) (s : State) : Res := onFrame s h fun s =>
  match s.mgmt.lastSeq.find? (fun e => e.1 == h.src && e.2.1 == h.seq) with
  | some e => (bump s evfBase 2 1).emit (.evfReply h.src h.seq e.2.2)
  | none =>
    match (if h.src = 0 then applyRing s cmd else none) with
    | none => dropMsg (bump s evfBase 3 1)
    | some (s, st) =>
      let last := s.mgmt.lastSeq.filter (fun e => e.1 != h.src) ++ [(h.src, h.seq, BitVec.ofNat 16 st)]
      { s with mgmt := { s.mgmt with lastSeq := last } }.emit (.evfReply h.src h.seq (BitVec.ofNat 16 st))

/-- EVFEK_REPLY: the PMC's command with this SEQ is complete. -/
def execEvfekReply (h : EvfHdr) (_status : U16) (s : State) : Res := onFrame s h fun s =>
  let rest := s.mgmt.outCmds.filter (fun e => e.1 != h.seq)
  { s with mgmt := { s.mgmt with outCmds := rest } }

/-- EVFEK_CATCH: a catch frame. -/
def execEvfekCatch (h : EvfHdr) (matchTime : U64) (_catchId : U32) (s : State) : Res := onFrame s h fun s => catchBy s matchTime

/-- EVFEK_TIME: a time frame. -/
def execEvfekTime (h : EvfHdr) (origin correction : U64) (s : State) : Res := onFrame s h fun s =>
  timeFrom s .evfek (messageTime origin correction)

/-- A command has had no reply for 1 ms and fewer than three resends (R586). -/
def State.resendDue (s : State) (e : BitVec 8 × Nat × U64) : Bool :=
  e.2.1 < 3 && e.2.2.toNat + 1000000 ≤ s.tim.now.toNat

/-- EVFEK_RESEND: the oldest command that has had no reply for 1 ms is sent again with its SEQ, up to three times. -/
def execEvfekResend (s : State) : Res := powered s fun s =>
  match s.mgmt.outCmds.find? s.resendDue with
  | none => s
  | some (seq, k, _) =>
    if !s.ringOut then s
    else
      let cmds := s.mgmt.outCmds.map (fun e => if e.1 = seq then (seq, k + 1, s.tim.now) else e)
      { s with mgmt := { s.mgmt with outCmds := cmds } }.emit (.evfCommand seq)

/-- RING_PAIR_FAILED: the link of a direction runs on its other pair, or is broken (R584). -/
def execRingPairFailed (inbound : Bool) (pair : BitVec 1) (s : State) : Res := powered s fun s =>
  let old := if inbound then s.pins.pairsIn else s.pins.pairsOut
  if !old.getD pair.toNat false then s
  else
    let new := setAt old pair.toNat (fun _ => false)
    let s := if inbound then { s with pins := { s.pins with pairsIn := new } } else { s with pins := { s.pins with pairsOut := new } }
    raise s (if new.any (fun b => b) then 0x4904 else 0x4905) srcPmc 0 0

end Sys2Proof.Machine
end

