-- ==== Sys2Proof/Machine/Update.lean ====
section
/-! DEFINITION. The update chain: its argument block, checks and masks, the update of an element, the derived
copies and the row sums of squares (R196 to R210). -/

namespace Sys2Proof.Machine

/-! ## The update argument block (Table 6.2) -/

/-- An update argument block; bases and pitches in bytes. -/
structure UpdArgs where
  stateM : Nat
  stateV : Nat
  work : Nat
  workPitch : Nat
  fwd : Nat
  fwdPitch : Nat
  fwdScales : Nat
  fwdFmt : Nat
  fwdSize : Nat
  workEn : Bool
  fwdEn : Bool
  gradIn : Bool
  rowsqEn : Bool
  maskKind : Nat
  grad : Nat
  gradPitch : Nat
  mask : Nat
  rowsq : Nat
  lr : Fp
  gradScale : Fp
  beta1 : Fp
  beta2 : Fp
  eps : Fp
  wd : Fp
  c1 : Fp
  c2 : Fp
  deriving DecidableEq, Repr

/-- The block in 64 bytes. -/
def parseUpd (b : List Byte) : UpdArgs :=
  let fl := fieldLE b 0xF 1
  let fp (o : Nat) : Fp := fp32.decode (fieldLE b o 4)
  { stateM := fieldLE b 0 2 * 64, stateV := fieldLE b 2 2 * 64, work := fieldLE b 4 2 * 64, workPitch := fieldLE b 6 2 * 64,
    fwd := fieldLE b 8 2 * 64, fwdPitch := fieldLE b 0xA 2 * 64, fwdScales := fieldLE b 0xC 2 * 64,
    fwdFmt := bitsOf (fieldLE b 0xE 1) 3 0, fwdSize := bitsOf (fieldLE b 0xE 1) 6 4, workEn := bitOf fl 0, fwdEn := bitOf fl 1,
    gradIn := bitOf fl 2, rowsqEn := bitOf fl 3, maskKind := bitsOf fl 5 4, grad := fieldLE b 0x10 2 * 64,
    gradPitch := fieldLE b 0x12 2 * 64, mask := fieldLE b 0x14 2 * 64, rowsq := fieldLE b 0x16 2 * 64, lr := fp 0x20,
    gradScale := fp 0x24, beta1 := fp 0x28, beta2 := fp 0x2C, eps := fp 0x30, wd := fp 0x34, c1 := fp 0x38, c2 := fp 0x3C }

/-- A reserved value in FWD_FMT, which only FWD_EN uses. -/
def UpdArgs.fwdReserved (a : UpdArgs) : Bool := !(a.fwdFmt = 4 || a.fwdFmt = 5 || a.fwdFmt = 6) || 3 < a.fwdSize
/-- The forward copy is written, in a format that exists. -/
def UpdArgs.forward (a : UpdArgs) : Option EFmt := if a.fwdEn && !a.fwdReserved then EFmt.ofCode a.fwdFmt else none
/-- Blocks of the forward copy: along the columns of the output (R204). -/
def UpdArgs.blocks (a : UpdArgs) (d : MmaDesc) : Blocks := ⟨false, 16 <<< a.fwdSize, d.m, d.n⟩
/-- The largest binary exponent of a forward format (R204). -/
def UpdArgs.emax (a : UpdArgs) : Int := if a.fwdFmt = 5 then 8 else if a.fwdFmt = 4 then 15 else 2
/-- Bytes of the mask (Table 6.4). -/
def UpdArgs.maskBytes (a : UpdArgs) (d : MmaDesc) : Nat :=
  if a.maskKind = 1 then (d.m + 7) / 8 else (recordsOf d.m * recordsOf d.n + 7) / 8

/-- The master weights: the FP32 output. -/
def MmaDesc.areaW (d : MmaDesc) : Area := matArea .fp32 d.addrC d.pitchC d.m d.n

/-- The areas that an update writes. -/
def updWrites (d : MmaDesc) (a : UpdArgs) : List Area :=
  [d.areaW] ++
  (if d.chain.upd = 2 || d.chain.upd = 3 then [matArea .fp32 a.stateM d.pitchC d.m d.n] else []) ++
  (if d.chain.upd = 3 then [matArea .fp32 a.stateV d.pitchC d.m d.n] else []) ++
  (if a.workEn then [matArea .bf16 a.work a.workPitch d.m d.n] else []) ++
  (match a.forward with
    | some f => [matArea f a.fwd a.fwdPitch d.m d.n, flatArea a.fwdScales (a.blocks d).bytes]
    | none => []) ++
  (if a.rowsqEn then [flatArea a.rowsq (4 * d.m)] else [])

/-- The areas that an update only reads. -/
def updReads (d : MmaDesc) (a : UpdArgs) : List Area :=
  (if a.gradIn then [matArea .bf16 a.grad a.gradPitch d.m d.n] else [d.areaA d.aFmt, d.areaB]) ++
  (if a.maskKind = 1 || a.maskKind = 2 then [flatArea a.mask (a.maskBytes d)] else []) ++
  [flatArea d.addrChain 64]

/-- Steps 8 and 9 of R619 for an update: the status, or 0 (R134, R135, R196, R198, R207, R210). -/
def updFault (d : MmaDesc) (a : UpdArgs) : Nat :=
  if codeReserved d.chain then 0x8640
  else if codeClash d then 0x8641
  else if d.accum = .fp64 || (d.accum = .int32 && !d.vector) then 0x8642
  else if d.fmtA != 2 || d.fmtB != 2 || d.fmtOut != 1 || d.accumulate || d.eacc || scaleMode d.scaleA != 0 || scaleMode d.scaleB != 0 then 0x8660
  else if a.maskKind = 3 || (a.fwdEn && a.fwdReserved) then 0x8661
  else if a.maskKind = 1 && a.fwdEn then 0x8662
  else if areasClash (updWrites d a) (updReads d a) then 0x8663
  else 0

/-! ## Masks (Table 6.4) -/

/-- Element (i, j) is trained. -/
def UpdArgs.active (a : UpdArgs) (d : MmaDesc) (x : Tile) (i j : Nat) : Bool :=
  let bit (q : Nat) : Bool := bitOf (leNat (x.read (a.mask + q / 8) 1)) (q % 8)
  match a.maskKind with
  | 1 => bit i
  | 2 => bit (i / 128 * recordsOf d.n + j / 128)
  | _ => true

/-- The bytes that an update reads: only those of elements that are trained (R209, R211). -/
def updConsumes (d : MmaDesc) (a : UpdArgs) (x : Tile) : List Span :=
  let on (i j : Nat) : Bool := a.active d x i j
  let rows := List.range d.m
  let cols := List.range d.n
  let elems (base pitch w : Nat) : List Span := rows.flatMap (fun i => (cols.filter (fun j => on i j)).map (fun j => ⟨base + i * pitch + j * w, w⟩))
  let aRow (i : Nat) : List Span :=
    if d.transA then (List.range d.k).map (fun k => ⟨d.addrA + k * d.pitchA + i * 2, 2⟩) else [⟨d.addrA + i * d.pitchA, 2 * d.k⟩]
  let bCol (j : Nat) : List Span :=
    if d.transB then [⟨d.addrB + j * d.pitchB, 2 * d.k⟩] else (List.range d.k).map (fun k => ⟨d.addrB + k * d.pitchB + j * 2, 2⟩)
  [⟨d.addrChain, 64⟩] ++ (if a.maskKind = 0 then [] else [⟨a.mask, a.maskBytes d⟩]) ++
  elems d.addrC d.pitchC 4 ++ (if 2 ≤ d.chain.upd then elems a.stateM d.pitchC 4 else []) ++
  (if d.chain.upd = 3 then elems a.stateV d.pitchC 4 else []) ++
  (if a.gradIn then elems a.grad a.gradPitch 2
   else (rows.filter (fun i => cols.any (fun j => on i j))).flatMap aRow ++ (cols.filter (fun j => rows.any (fun i => on i j))).flatMap bCol)

/-! ## The update of an element (R200, R201) -/

/-- An updated element: scaled gradient, weight, moments, and whether it was skipped. -/
structure Updated where
  g : Fp
  w : Fp
  m : Fp
  v : Fp
  skipped : Bool
  deriving DecidableEq, Repr

/-- update_element. -/
def updateElement (a : UpdArgs) (upd : Nat) (g w m v : Fp) : Updated :=
  let g := f32 (g.mul a.gradScale)
  if !g.isFinite then { g := g, w := w, m := m, v := v, skipped := true }
  else
    let omb1 := f32 (Fp.one.sub a.beta1)
    let omb2 := f32 (Fp.one.sub a.beta2)
    let fma (x y z : Fp) : Fp := f32 ((x.mul y).add z)
    let m' := if upd = 1 then m else if upd = 2 then fma a.beta1 m g else fma a.beta1 m (f32 (omb1.mul g))
    let v' := if upd = 3 then fma a.beta2 v (f32 (omb2.mul (f32 (g.mul g)))) else v
    let step := if upd = 1 then g else if upd = 2 then m'
      else f32 ((f32 (m'.mul a.c1)).div (add32 (f32 (Fp.sqrt (f32 (v'.mul a.c2)))) a.eps))
    { g := g, w := f32 (w.sub (f32 (a.lr.mul (fma a.wd w step)))), m := m', v := v', skipped := false }

/-- KIND of NAN_INF for an element: the skipped gradient, or the first of w, m and v that is not finite (R201; log 31). -/
def Updated.kind (u : Updated) : Option Nat :=
  if u.skipped then some u.g.kind
  else if !u.w.isFinite then some u.w.kind
  else if !u.m.isFinite then some u.m.kind
  else if !u.v.isFinite then some u.v.kind
  else none

/-! ## The whole update -/

/-- What an update leaves: its elements (absent: masked), its writes, and its saturations. -/
structure UpdResult where
  elems  : List (List (Option Updated))
  writes : List (Nat × List Byte)
  sats   : Nat
  deriving DecidableEq, Repr

/-- The value written at ROWSQ for a row; none for a row that is masked whole (R205, R209). -/
def rowSquares (row : List (Option Updated)) : Option Nat :=
  if row.all Option.isNone then none
  else if row.any (fun e => match e with | some u => u.skipped | none => false) then some (fp32.encode .nan)
  else some (fp32.encode (rowReduce add32 Fp.zero (row.map (fun e => e.map (fun u => f32 (u.g.mul u.g))))))

/-- Update every trained element from its gradient. -/
def runUpdate (d : MmaDesc) (a : UpdArgs) (x : Tile) (o : OutRound) (grad : Nat → Nat → Fp) : UpdResult :=
  let at32 (base i j : Nat) : Fp := EFmt.fp32.value (x.elem .fp32 base d.pitchC i j)
  let elem (i j : Nat) : Updated := updateElement a d.chain.upd (grad i j) (at32 d.addrC i j)
    (if 2 ≤ d.chain.upd then at32 a.stateM i j else Fp.zero) (if d.chain.upd = 3 then at32 a.stateV i j else Fp.zero)
  let g : List (List (Option Updated)) := gridOf d.m d.n (fun i j => if a.active d x i j then some (elem i j) else none)
  let ws := g.map (fun row => row.map (fun e => e.map Updated.w))
  let col (f : Updated → Fp) : List (List (Option Nat)) :=
    g.map (fun row => row.map (fun e => e.bind (fun u => if u.skipped then none else some (fp32.encode (f u)))))
  let work := convertPlain .bf16 d.nonsat o ws
  let fwd := convertBlocks ((a.forward).getD .e4m3) a.emax false { o with sr := false } (a.blocks d) ws
  { elems := g,
    writes := x.matWrites .fp32 d.addrC d.pitchC (col Updated.w) ++
      (if 2 ≤ d.chain.upd then x.matWrites .fp32 a.stateM d.pitchC (col Updated.m) else []) ++
      (if d.chain.upd = 3 then x.matWrites .fp32 a.stateV d.pitchC (col Updated.v) else []) ++
      (if a.workEn then x.matWrites .bf16 a.work a.workPitch work.codes else []) ++
      (match a.forward with
        | some f => x.matWrites f a.fwd a.fwdPitch fwd.codes ++ vecWrites .int8 a.fwdScales fwd.scales
        | none => []) ++
      (if a.rowsqEn then vecWrites .fp32 a.rowsq (g.map rowSquares) else []),
    sats := (if a.workEn then work.sats else 0) + (if a.forward.isSome then fwd.sats else 0) }

end Sys2Proof.Machine
end

