-- ==== Sys2Proof/Machine/ProductTime.lean ====
section
/-! DEFINITION. The clocks that a product takes, as far as chapters 3 and 6 fix them: the K loops of R96 with their
read-limited share, and the E-accumulation product of R99 to R101 (R91, R93, R158, R209). -/

namespace Sys2Proof.Machine

/-- Multiply-accumulates per clock (Table 3.2). -/
def MmaDesc.rate (d : MmaDesc) : Nat :=
  if d.eacc then 256
  else match d.aFmt with
    | .e2m1 => 32768
    | .e4m3 => 16384 | .e5m2 => 16384 | .int8 => 16384
    | .bf16 => 8192 | .fp16 => 8192
    | .fp32 => 1024
    | _ => 512

/-- The unit u of Table 3.3. -/
def MmaDesc.unit (d : MmaDesc) : Nat := if d.eacc then 64 else 128

/-- The macro-blocks in order: first row and column, and the extent of R96. -/
def MmaDesc.macroBlocks (d : MmaDesc) : List (Nat × Nat × Nat × Nat) :=
  (starts d.m d.block.1).flatMap (fun r => (starts d.n d.block.2).map (fun c =>
    (r, c, roundUp (min d.block.1 (d.m - r)) d.unit, roundUp (min d.block.2 (d.n - c)) d.unit)))

/-- A k step of a macro-block in units of 2⁻¹⁵/96 clock: its compute term and its read term. -/
structure KStep where
  compute : Nat
  read    : Nat
  deriving DecidableEq, Repr

/-- Units of a k step's terms in a clock. -/
def stepUnits : Nat := 32768 * 96

/-- The read term of a count of bytes, given in 256ths of a byte, at 96 bytes per clock. -/
def readUnits (bytes256 : Nat) : Nat := bytes256 * 128

/-- 256ths of a byte that a k step takes for the block scales of an operand of `n` rows or columns. -/
def scaleShare (scale n : Nat) : Nat := if scaleMode scale = 2 then n * 256 / scaleBlock scale else 0

/-- The k step of a macro-block of extent mb × nb (R96), with the width of A as stored (R158). P2's γ and β add to its reads. -/
def MmaDesc.kStep (d : MmaDesc) (aBits : Nat) (mb nb : Nat) : KStep :=
  { compute := mb * nb * (stepUnits / d.rate),
    read := readUnits (32 * (mb * aBits + nb * d.bFmt.bits) + scaleShare d.scaleA mb + scaleShare d.scaleB nb +
      (if d.chain.pro = 2 then 8 * 256 else if d.chain.pro = 3 then 4 * 256 else 0)) }

/-- The k step of a macro-block of an update whose mask leaves some output tiles inactive (R209). -/
def MmaDesc.updStep (d : MmaDesc) (a : UpdArgs) (x : Tile) (r c mb nb : Nat) : KStep :=
  let on (i j : Nat) : Bool :=
    (List.range (min 128 (d.m - (r + 128 * i)))).any (fun p => (List.range (min 128 (d.n - (c + 128 * j)))).any (fun q =>
      a.active d x (r + 128 * i + p) (c + 128 * j + q)))
  let rows := List.range (mb / 128)
  let cols := List.range (nb / 128)
  let tiles := (rows.map (fun i => (cols.filter (fun j => on i j)).length)).sum
  let ra := (rows.filter (fun i => cols.any (fun j => on i j))).length
  let cb := (cols.filter (fun j => rows.any (fun i => on i j))).length
  { compute := tiles * 2 * stepUnits, read := readUnits (256 * (128 * (ra + cb)) * 2) }

/-- Clocks of a K loop, rounded up (the worked example of R97). -/
def KStep.clocks (p : KStep) (k : Nat) : Nat := (k * max p.compute p.read + stepUnits - 1) / stepUnits

/-- Clocks of a K loop that are read-limited: those beyond its compute term (R96 and the worked example of R97). -/
def KStep.limited (p : KStep) (k : Nat) : Nat :=
  if p.compute < p.read then p.clocks k - (k * p.compute + stepUnits - 1) / stepUnits else 0

/-- The k steps of a product's macro-blocks, in order. An update that reads its gradient runs no K loop. -/
def MmaDesc.kSteps (d : MmaDesc) (x : Tile) : List KStep :=
  let a := parseUpd (x.read d.addrChain 64)
  if d.code != 0 && d.chain.upd != 0 then
    if a.gradIn then [] else d.macroBlocks.map (fun b => d.updStep a x b.1 b.2.1 b.2.2.1 b.2.2.2)
  else
    let stored := if d.chain.pro = 1 then ((parseChain (x.read d.addrChain 64)).dq.getD d.aFmt).bits else d.aFmt.bits
    d.macroBlocks.map (fun b => d.kStep stored b.2.2.1 b.2.2.2)

/-- Clocks of a plain product: its K loops, one after another (R93, R96, the worked examples of R97). -/
def plainClocks (d : MmaDesc) (steps : List KStep) : Nat := (steps.map (fun p => p.clocks d.k)).sum

/-- The re-passes of the elements of a macro-block. -/
def blockPasses (d : MmaDesc) (passes : List (List Nat)) (r c : Nat) : Nat :=
  (((passes.drop r).take d.block.1).map (fun row => ((row.drop c).take d.block.2).sum)).sum

/-- Clocks of an E-accumulation product: the pre-pass, the K loops with their reads of C, and behind each K loop its finishing,
re-passes and write-out, which overlap the next K loop and not each other (R99, R101, Table 3.4). -/
def eaccClocks (d : MmaDesc) (steps : List KStep) (passes : List (List Nat)) : Nat :=
  let prePass := ((d.m + d.n) * d.k * 8 + 95) / 96
  let run := (d.macroBlocks.zip steps).foldl (fun (a : Nat × Nat) e =>
    let loopEnd := a.1 + (if d.accumulate then 342 else 0) + e.2.clocks d.k
    (loopEnd, max loopEnd a.2 + 64 + blockPasses d passes e.1.1 e.1.2.1 * ((16 * d.k + 95) / 96) + 256)) (prePass, prePass)
  run.2

/-- Clocks in which the matrix unit runs a product; none where R158 and R212 leave the write-out of a chain to bytes that
they do not count out (log 10). -/
def productClocks (d : MmaDesc) (steps : List KStep) (passes : List (List Nat)) : Option Nat :=
  if d.code != 0 then none
  else if d.eacc then some (eaccClocks d steps passes)
  else some (plainClocks d steps)

end Sys2Proof.Machine
end

