-- ==== Sys2Proof/Machine/Mma.lean ====
section
/-! DEFINITION. MMA: the checks of R619 in order, dispatch, and the effect of a plain, a chained and an update
product on the tile (R76, R89, R92 to R95, R106, R109, R120, R124, R126, R127, R131). -/

namespace Sys2Proof.Machine

/-! ## Checks and footprints -/

/-- The argument block of a chain lies in the tile store. -/
def MmaDesc.blockFits (d : MmaDesc) : Bool := d.addrChain + 64 ≤ storeBytes

/-- A product's chain argument block as read. -/
def chainArgs (d : MmaDesc) (x : Tile) : ChainArgs := parseChain (x.read d.addrChain 64)
def updArgs (d : MmaDesc) (x : Tile) : UpdArgs := parseUpd (x.read d.addrChain 64)

/-- The areas that a product reads, and those that it writes, C apart. -/
def mmaReads (d : MmaDesc) (x : Tile) : List Area :=
  if d.code = 0 then [d.areaA d.aFmt, d.areaB] ++ d.areaScales
  else if d.chain.upd != 0 then updReads d (updArgs d x)
  else chainReads d (chainArgs d x) ++ chainResid d (chainArgs d x)
def mmaWrites (d : MmaDesc) (x : Tile) : List Area :=
  if d.code = 0 then [d.areaC] ++ d.areaSOut
  else if d.chain.upd != 0 then updWrites d (updArgs d x)
  else chainWrites d (chainArgs d x)

/-- Every area that a product names and that can be measured (step 7 of R619): those that the argument block names when it
can be read, and under an update also the scale arrays that step 9 refuses. Where the block lies beyond the store, A is
measured in its consumed format, under P1 too (DESIGN CHOICE, log 31). -/
def mmaAreas (d : MmaDesc) (x : Tile) : List Area :=
  if d.code = 0 then mmaReads d x ++ mmaWrites d x
  else if !d.blockFits then [d.areaA d.aFmt, d.areaB, flatArea d.addrChain 64, d.areaC] ++ d.areaScales ++ d.areaSOut
  else if d.chain.upd = 0 then mmaReads d x ++ mmaWrites d x
  else mmaReads d x ++ mmaWrites d x ++ (if (updArgs d x).gradIn then [] else d.areaScales) ++ d.areaSOut

/-- A conversion of the product rounds stochastically (R446). -/
def mmaStochastic (d : MmaDesc) (x : Tile) : Bool :=
  d.sr && (if d.code != 0 && d.chain.upd != 0 then (updArgs d x).workEn else d.out.stochastic)

/-- The status that refuses a product at dispatch after its descriptor address: steps 2 to 10 of R619, or 0. -/
def mmaFault (s : State) (t : TileId) (d : MmaDesc) : Nat :=
  let x := s.tile t
  if d.formFault != 0 then d.formFault
  else if areasFault (mmaAreas d x) != 0 then areasFault (mmaAreas d x)
  else
    let st := if d.code = 0 then 0 else if d.chain.upd != 0 then updFault d (updArgs d x) else chainFault d (chainArgs d x)
    if st != 0 then st
    else if s.unseededStrict (mmaStochastic d x) then 0x8627
    else 0

/-- The bytes that a product reads (R109): a masked update reads only what it trains. -/
def mmaConsumes (d : MmaDesc) (x : Tile) : List Span :=
  if d.code != 0 && d.chain.upd != 0 then updConsumes d (updArgs d x) x
  else (mmaReads d x ++ (if d.accumulate then [d.areaC] ++ d.areaSOut else [])).flatMap Area.rowSpans

/-- A plain product of several macro-blocks whose output's footprint overlaps one that it reads. -/
def mmaTangled (d : MmaDesc) : Bool :=
  d.code = 0 && (d.block.1 < d.m || d.block.2 < d.n) &&
  ([d.areaC] ++ d.areaSOut).any (fun w => ([d.areaA d.aFmt, d.areaB] ++ d.areaScales).any (fun r => w.span.hits r.span))

/-- The bytes of element (r, c) of a stored matrix. -/
def storedSpan (f : EFmt) (base pitch r c : Nat) : Span := ⟨base + r * pitch + c * f.bits / 8, max 1 (f.bits / 8)⟩

/-- The bytes that output element (i, j) of a plain product reads, its own C apart. -/
def MmaDesc.elementReads (d : MmaDesc) (i j : Nat) : List Span :=
  let ks := List.range d.k
  (if d.transA then ks.map (fun k => storedSpan d.aFmt d.addrA d.pitchA k i) else [⟨d.addrA + i * d.pitchA, d.aFmt.rowBytes d.k⟩]) ++
  (if d.transB then [⟨d.addrB + j * d.pitchB, d.bFmt.rowBytes d.k⟩] else ks.map (fun k => storedSpan d.bFmt d.addrB d.pitchB k j)) ++
  (match scaleMode d.scaleA with
    | 1 => [⟨d.addrSA + 4 * i, 4⟩]
    | 2 => ks.map (fun k => ⟨d.addrSA + d.blocksA.index i k, 1⟩)
    | _ => []) ++
  (match scaleMode d.scaleB with
    | 1 => [⟨d.addrSB + 4 * j, 4⟩]
    | 2 => ks.map (fun k => ⟨d.addrSB + d.blocksB.index k j, 1⟩)
    | _ => [])

/-- The bytes that the macro-blocks before that of element (i, j) have written (R94). -/
def MmaDesc.earlierWrites (d : MmaDesc) (i j : Nat) : List Span :=
  let r0 := i / d.block.1 * d.block.1
  let c0 := j / d.block.2 * d.block.2
  (List.range (min d.m (r0 + d.block.1))).map (fun r => ⟨d.addrC + r * d.pitchC, d.out.rowBytes (if r < r0 then d.n else c0)⟩) ++
  (if r0 = 0 && c0 = 0 then [] else d.areaSOut.map Area.span)

/-- Output element (i, j) of a plain product reads a byte that an earlier macro-block writes: whether before or after is not
said, and the element is free (log 31). -/
def MmaDesc.readsWritten (d : MmaDesc) (i j : Nat) : Bool :=
  mmaTangled d && (d.earlierWrites i j).any (fun w => (d.elementReads i j).any w.hits)

/-! ## Effects -/

/-- What a product leaves on the tile: writes, kinds of NAN_INF, window losses, and counts. -/
structure MmaEffect where
  writes : List (Nat × List Byte)
  kinds  : List (List (Option Nat))
  losses : List (List Bool)
  convs  : Nat
  passes : List (List Nat)
  sats   : Nat
  deriving DecidableEq, Repr

/-- Elements after stage 5; those that may read what an earlier macro-block wrote are free (log 31). -/
def stagedGrid (d : MmaDesc) (ops : Operands) (free : Nat) : List (List Staged) :=
  gridOf d.m d.n (fun i j =>
    if d.readsWritten i j then
      let bits := (Config.freeBits (free + i * d.n + j)).toNat
      let v := match d.accum with
        | .fp64 => fp64.decode bits
        | .fp32 => fp32.decode (bits % 2 ^ 32)
        | .int32 => if d.vector then fp32.decode (bits % 2 ^ 32) else Fp.ofInt (toSigned 32 bits)
      { v := v, ewl := d.eacc && v.isFinite && Config.freeBool (free + i * d.n + j), passes := 0, sats := 0 }
    else d.element ops i j)

/-- Scale bytes that share a byte with the output of a plain product: which of the two writes stands is open (log 31). -/
def scaleWrites (d : MmaDesc) (free : Nat) (scales : List (Option Nat)) : List (Nat × List Byte) :=
  (vecWrites .int8 d.addrSOut scales).map (fun w =>
    if d.areaC.rowSpans.any (fun r => overlaps w.1 w.2.length r.base r.len) then (w.1, leBytes 1 (Config.freeBits (free + d.m * d.n + w.1)).toNat) else w)

/-- A plain or chained product. -/
def productEffect (s : State) (d : MmaDesc) (x : Tile) : MmaEffect :=
  let a := chainArgs d x
  let o := outRound s (mmaStochastic d x) d.outVaddr d.pitchC d.out
  let staged := if d.code = 0 then (d.readA x d.aFmt).map (fun row => row.map (fun v => (v, false))) else stageA d a x
  let ops := d.operands x (staged.map (fun row => row.map Prod.fst))
  let y := stagedGrid d ops s.free
  let vals := y.map (fun row => row.map Staged.v)
  let f : Finished := if d.code = 0 then { vals := vals, out := convertOut d o vals, extra := [] } else finishChain d a x o vals
  let kinds := gridOf d.m d.n (fun i j => outKind d.out (gridGet f.vals i j Fp.zero) ((gridGet f.out.codes i j none).getD 0))
  { writes := x.matWrites d.out d.addrC d.pitchC f.out.codes ++ (if d.out = .e2m1 then scaleWrites d s.free f.out.scales else []) ++ f.extra,
    kinds := kinds,
    losses := y.mapIdx (fun i row => row.mapIdx (fun j v => v.ewl && (gridGet kinds i j none).isNone)),
    convs := f.out.sats + (staged.map (fun row => (row.filter Prod.snd).length)).sum,
    passes := y.map (fun row => row.map Staged.passes),
    sats := (y.map (fun row => (row.map Staged.sats).sum)).sum }

/-- An update product. -/
def updateEffect (s : State) (d : MmaDesc) (x : Tile) : MmaEffect :=
  let a := updArgs d x
  let o := outRound s (mmaStochastic d x) d.outVaddr d.pitchC .fp32
  let ops := if a.gradIn then { a := [], b := [], sa := [], sb := [], c := none } else d.operands x (d.readA x .bf16)
  let grad (i j : Nat) : Fp := if a.gradIn then EFmt.bf16.value (x.elem .bf16 a.grad a.gradPitch i j) else (d.element ops i j).v
  let r := runUpdate d a x o grad
  { writes := r.writes, kinds := r.elems.map (fun row => row.map (fun e => e.bind Updated.kind)), losses := [], convs := r.sats,
    passes := [], sats := 0 }

/-- The effect of a product. -/
def mmaEffect (s : State) (d : MmaDesc) (x : Tile) : MmaEffect :=
  if d.code != 0 && d.chain.upd != 0 then updateEffect s d x else productEffect s d x

/-- A window loss as a condition of an output element. -/
def lossAt (e : MmaEffect) (i j : Nat) : Option Unit := if gridGet e.losses i j false then some () else none
/-- NAN_INF as a condition of an output element. -/
def kindAt (e : MmaEffect) (i j : Nat) : Option Nat := gridGet e.kinds i j none

/-- The clocks of a product are counted: those that the matrix unit runs it (free where log 10 says so), those that are
read-limited, and a free number of clocks lost to bank conflicts (R96, R104, R129; log 10). -/
def countClocks (s : State) (t : TileId) (d : MmaDesc) (x : Tile) (e : MmaEffect) : State :=
  let steps := d.kSteps x
  let s := match productClocks d steps e.passes with
    | some n => countTile s t 0 n
    | none => bumpTimes s t [0]
  bumpTimes (countTile s t 1 (steps.map (fun p => p.limited d.k)).sum) t [7]

/-- The state after a product's effect: the store, the flag records, the counters (R76, R77, R129). -/
def applyProduct (s : State) (t : TileId) (d : MmaDesc) (sr : Bool) (e : MmaEffect) : State :=
  let x := s.tile t
  let s := { s with free := s.free + d.m * d.n + storeBytes }
  let s := tileWriteAll s t e.writes
  let s := noteOutTiles s t false d.tiles (kindAt e) (lossAt e)
  let s := countTile (countTile (countTile s t 2 e.sats) t 3 e.convs) t 4 (e.passes.map List.sum).sum
  noteSeed (countClocks s t d x e) sr

/-- Dispatch a product whose descriptor has been read. One that finds a residue mismatch leaves its output area, the flag
records and the counters as they were (DESIGN CHOICE, log 31). -/
def dispatchMma (s : State) (t : TileId) (sp : Span) (d : MmaDesc) : State :=
  let x := s.tile t
  if d.formFault = 0 && d.code != 0 && d.blockFits && x.mustWait .matrix [⟨d.addrChain, 64⟩] [] then s
  else if mmaFault s t d != 0 then refuseHere s t (mmaFault s t d)
  else
    let reads := sp :: (mmaReads d x).map Area.span
    let writes := (mmaWrites d x).map Area.span
    if x.mustWait .matrix reads writes then s
    else match consume s t (mmaConsumes d x) with
      | (s, 0) =>
        if (s.tile t).checkFault then tileFault s t
        else
          let e := mmaEffect s d x
          let s := applyProduct s t d (mmaStochastic d x) e
          let s := advance (enqueue s t .matrix reads writes none) t
          flagStop s t (anyHit d.tiles (kindAt e)) (anyHit d.tiles (lossAt e))
      | (s, st) => refuseHere s t st

/-- MMA (R118). -/
def execMma (t : TileId) (w : TWord) (s : State) : Res := onTile t 1 1 w s fun s =>
  withDescriptor s t .matrix w fun s sp bs => dispatchMma s t sp (parseMma bs)

end Sys2Proof.Machine
end

