-- ==== Sys2Proof/Machine/Scalar.lean ====
section
/-! DEFINITION. STEER_RUN and the scalar instructions and events of the steering cores (R286, R287, R291, R293 to
R299, R318, R322). -/

namespace Sys2Proof.Machine

/-! ## Programs -/

/-- Active steering cores (Table 1.4). -/
def State.coresActive (s : State) : Nat := (s.rig.cores.filter Option.isSome).length

/-- A core as a launch leaves it (R286). -/
def launchCore (x : Core) (entry stack : U64) (args : List U64) (c : CmdCtx) (ph : BitVec 8) : Core :=
  { Core.reset with phase := .running, fpmode := x.fpmode, g := List.replicate 8 0 ++ args ++ List.replicate 16 0, pc := entry,
                    stackTop := stack, cmd := some c, tilePhaseId := ph, used := true }

/-- STEER_RUN (R286). -/
def execSteerRun (c : CmdCtx) (entry stack args : U64) (core : U16) (s : State) : Res :=
  let k := core.toNat
  if k < s.coresActive && s.rangeHeld args.toNat 64 then .next s
  else onRing s c 0x0021 [opnd 8 8 entry.toNat, opnd 0x10 8 stack.toNat, opnd 0x18 8 args.toNat, opnd 0x20 2 k] fun s =>
    if s.coresActive ≤ k then finish s c 0x8686 0
    else if (s.core k).phase = .running || (s.core k).phase = .held then finish s c 0x8681 0
    else if (s.core k).phase = .faulty then finish s c 0x8684 0
    else if entry.toNat % 4 != 0 then finish s c 0x8102 0
    else match readVA s agentHost args.toNat 64 with
      | (s, 0, bs) =>
        let as := (List.range 8).map (fun i => BitVec.ofNat 64 (fieldLE bs (8 * i) 8))
        let ph := s.phaseOf c
        markStarted (s.modCore k (fun x => launchCore x entry stack as c ph)) c
      | (s, st, _) => finish s c st 0

/-- SUPCALL: with G7 zero the program ends with the value of G8, otherwise it stops (R287). -/
def execSupcall (core : BitVec 8) (s : State) : Res := onCore core s fun s =>
  let c := core.toNat
  let x := s.core c
  trapWith s c fun s pc =>
    let s := bump s (s.coreRegs c) 1 1
    if x.gr 7 = 0 then endProgram (coreTime s c) c .idle 0 (x.gr 8).toNat else stopProgram s c 0x8688 pc

/-- The core returns to what its trap has interrupted. -/
def Core.back (x : Core) : Core := { x with trap := x.outer.head?, outer := x.outer.tail }

/-- SUPRET: the supervisor returns once what it resolves is resolved: VEN is set, or the page has been restored (R297). -/
def execSupret (core : BitVec 8) (s : State) : Res := onCore core s fun s =>
  let c := core.toNat
  match (s.core c).trap with
  | none => s
  | some .ven => (retire s c).modCore c (fun x => { x.back with ven := true })
  | some .irq => (retire s c).modCore c Core.back
  | some (.page va) => if s.restoring va then s else bump ((retire s c).modCore c Core.back) (s.coreRegs c) 5 1

/-- An uncorrectable register or cache error (R322). -/
def execSteerCoreFault (phys : BitVec 8) (s : State) : Res := powered s fun s =>
  let p := phys.toNat
  if 104 ≤ p then s
  else
    let s := match s.logCore p with
      | none => s
      | some c =>
        let s := if (s.core c).phase = .running then endProgram (recordStop s c 0x8684 (s.core c).pc) c .faulty 0x8684 0 else s
        s.modCore c (fun x => { x with phase := .faulty })
    memberFault (raise s 0x4681 (srcCore p) 0 0) (.core p) 0x8684

/-- An asynchronous interrupt: between instructions it is taken at once; at a pass boundary, by the next vector memory
instruction of more than one pass, at the level that runs (R298, R318). -/
def execPassInterrupt (core : BitVec 8) (nextElement : Nat) (s : State) : Res := powered s fun s =>
  let c := core.toNat
  if !s.coreLive c then s
  else if nextElement = 0 then enterTrap s c .irq
  else s.modCore c (fun x => { x with irqAt := some nextElement })

/-! ## FPMODE and scalar floating point (R291) -/

/-- FPMRD. -/
def execFpmrd (core : BitVec 8) (rd : BitVec 5) (s : State) : Res := onCore core s fun s =>
  retire (s.modCore core.toNat (fun x => x.setG rd x.fpmode)) core.toNat

/-- FPMWR: RND and STICKY; the rest of the word is reserved. -/
def execFpmwr (core : BitVec 8) (rs1 : BitVec 5) (s : State) : Res := onCore core s fun s =>
  retire (s.modCore core.toNat (fun x => { x with fpmode := BitVec.ofNat 64 ((x.gr rs1).toNat % 256) })) core.toNat

/-- A value in the low `n` bits of an integer register, whose other bits the manual does not give. FREE VALUE (log 33). -/
def setLow (s : State) (c : Nat) (rd : BitVec 5) (n v : Nat) : State :=
  if 64 ≤ n then s.modCore c (fun x => x.setG rd (BitVec.ofNat 64 v))
  else s.drawBits.2.modCore c (fun x => x.setG rd (BitVec.ofNat 64 (v % 2 ^ n + s.drawBits.1.toNat / 2 ^ n * 2 ^ n)))

/-- A scalar floating-point operation rounds under FPMODE.RND and accumulates its flags. -/
def execScalarFpOperation (core : BitVec 8) (op : FpOp) (fmt : FpFmt) (rd rs1 rs2 rs3 : BitVec 5) (s : State) : Res := onCore core s fun s =>
  let c := core.toNat
  let x := s.core c
  let f := fpFmtOf fmt
  let k := x.rnd
  let a := (x.fr rs1).toNat % 2 ^ f.width
  let b := (x.fr rs2).toNat % 2 ^ f.width
  let toF (r : FpResult) : State := s.modCore c (fun x => (x.setF rd (BitVec.ofNat 64 r.bits)).stick r.flags)
  retire (match op with
    | .add => toF (fpAdd f k a b)
    | .sub => toF (fpSub f k a b)
    | .mul => toF (fpMul f k a b)
    | .div => toF (fpDiv f k a b)
    | .sqrt => toF (fpSqrt f k a)
    | .fma => toF (fpFma f k false a b ((x.fr rs3).toNat % 2 ^ f.width))
    | .min => toF (fpPickNum f true a b)
    | .max => toF (fpPickNum f false a b)
    | .cvtFI => setLow (s.modCore c (fun x => x.stick (fpToInt f k f.width a).flags)) c rd f.width (fpToInt f k f.width a).bits
    | .cvtIF => toF (fpFromInt f k f.width ((x.gr rs1).toNat % 2 ^ f.width))) c

/-! ## Scalar accesses (R293, R296) -/

/-- Load `n` bytes into an integer register. -/
def loadG (s : State) (c : Nat) (rd rs1 : BitVec 5) (n : Nat) : State :=
  let va := ((s.core c).gr rs1).toNat
  scalarMem s c va n false fun s l =>
    match coreRead s l n with
    | (s, v, 0) => retire (setLow (bumpClocks s (s.coreRegs c) 7) c rd (8 * n) v) c
    | (s, _, st) => stopTrap s c st

/-- Store the low `n` bytes of an integer register. -/
def storeG (s : State) (c : Nat) (rs1 rs2 : BitVec 5) (n : Nat) : State :=
  let va := ((s.core c).gr rs1).toNat
  let v := ((s.core c).gr rs2).toNat
  scalarMem s c va n true fun s l => retire (bumpClocks (coreWrite s c va l (leBytes n v)) (s.coreRegs c) 7) c

/-- A scalar load or store of 2^log2 bytes; `rd` is the data register. -/
def execScalarAccess (core : BitVec 8) (store : Bool) (log2 : BitVec 2) (rd rs1 : BitVec 5) (s : State) : Res := onCore core s fun s =>
  if store then storeG s core.toNat rs1 rd (2 ^ log2.toNat) else loadG s core.toNat rd rs1 (2 ^ log2.toNat)

/-- LD.ACQ: a 64-bit load; program order holds in this model (R293). -/
def execLdAcq (core : BitVec 8) (rd rs1 : BitVec 5) (s : State) : Res := onCore core s fun s => loadG s core.toNat rd rs1 8

/-- ST.REL: a 64-bit store (R293). -/
def execStRel (core : BitVec 8) (rs1 rs2 : BitVec 5) (s : State) : Res := onCore core s fun s => storeG s core.toNat rs1 rs2 8

/-- FENCE orders accesses, which this model performs in program order (R293). -/
def execSteerFence (core : BitVec 8) (s : State) : Res := onCore core s fun s => retire s core.toNat

/-! ## Atomics (R294, R382) -/

/-- An atomic on an aligned word of stack memory: `f` gives the new value from the word, the operand and the old G[rd]. -/
def coreAtomic (core : BitVec 8) (rd rs1 rs2 : BitVec 5) (f : U64 → U64 → U64 → U64) (s : State) : Res := onCore core s fun s =>
  let c := core.toNat
  let x := s.core c
  let va := (x.gr rs1).toNat
  scalarMem s c va 8 true fun s l =>
    match l with
    | .stack _ =>
      match coreRead s l 8 with
      | (s, v, 0) =>
        let w := BitVec.ofNat 64 v
        let s := coreWrite s c va l (leBytes 8 (f w (x.gr rs2) (x.gr rd)).toNat)
        retire (bumpClocks (s.modCore c (fun x => x.setG rd w)) (s.coreRegs c) 7) c
      | (s, _, st) => stopTrap s c st
    | _ => stopTrap s c 0x8682

def execAtAdd (core : BitVec 8) (rd rs1 rs2 : BitVec 5) (s : State) : Res := coreAtomic core rd rs1 rs2 (fun w v _ => w + v) s
def execAtXchg (core : BitVec 8) (rd rs1 rs2 : BitVec 5) (s : State) : Res := coreAtomic core rd rs1 rs2 (fun _ v _ => v) s
def execAtCas (core : BitVec 8) (rd rs1 rs2 : BitVec 5) (s : State) : Res :=
  coreAtomic core rd rs1 rs2 (fun w v old => if w = old then v else w) s
def execAtMin (core : BitVec 8) (rd rs1 rs2 : BitVec 5) (s : State) : Res :=
  coreAtomic core rd rs1 rs2 (fun w v _ => if v.slt w then v else w) s
def execAtMax (core : BitVec 8) (rd rs1 rs2 : BitVec 5) (s : State) : Res :=
  coreAtomic core rd rs1 rs2 (fun w v _ => if w.slt v then v else w) s
def execAtMinu (core : BitVec 8) (rd rs1 rs2 : BitVec 5) (s : State) : Res :=
  coreAtomic core rd rs1 rs2 (fun w v _ => if v.ult w then v else w) s
def execAtMaxu (core : BitVec 8) (rd rs1 rs2 : BitVec 5) (s : State) : Res :=
  coreAtomic core rd rs1 rs2 (fun w v _ => if w.ult v then v else w) s

/-! ## Sync counters (R295) -/

/-- The status that stops a core's sync operation on a word of G[VS1]: illegal, out of range, or a target or the own
stroke mirror refused; or the target. -/
def coreSyncTarget (s : State) (a : U64) (wait : Bool) : Except Nat (Option U16) :=
  if bitsOf a.toNat 31 16 != 0 then .error 0x8680
  else if 16384 ≤ a.toNat % 65536 then .error 0x8639
  else if wait then .ok none
  else match memberTarget s (a.extractLsb' 32 32) with
    | .error st => .error st
    | .ok m => if syncFault s (a.toNat % 65536) m != 0 then .error (syncFault s (a.toNat % 65536) m) else .ok m

/-- SCADD and SCSET; one on another member holds the core until it is acknowledged. -/
def coreSync (core : BitVec 8) (vs1 vs2 : BitVec 5) (setOp : Bool) (s : State) : Res := onCore core s fun s =>
  let c := core.toNat
  let x := s.core c
  let n := (x.gr vs1).toNat % 65536
  match coreSyncTarget s (x.gr vs1) false with
  | .error st => stopTrap s c st
  | .ok none => retire (applySync s setOp n (x.gr vs2).toNat) c
  | .ok (some dst) =>
    let s := retire (s.modCore c (fun y => { y with ack := some x.pc })) c
    sendReq s (syncReq s dst (if setOp then 2 else 1) n (x.gr vs2).toNat (.core core))

def execScCoreAdd (core : BitVec 8) (vs1 vs2 : BitVec 5) (s : State) : Res := coreSync core vs1 vs2 false s
def execScCoreSet (core : BitVec 8) (vs1 vs2 : BitVec 5) (s : State) : Res := coreSync core vs1 vs2 true s

/-- SCWAIT waits on the own package's counter. -/
def execScCoreWait (core : BitVec 8) (vs1 vs2 : BitVec 5) (s : State) : Res := onCore core s fun s =>
  let c := core.toNat
  let x := s.core c
  let n := (x.gr vs1).toNat % 65536
  match coreSyncTarget s (x.gr vs1) true with
  | .error st => stopTrap s c st
  | .ok _ =>
    let v := x.gr vs2
    if v.toNat ≤ s.syncVal n then retire s c
    else addWait (retire (s.modCore c (fun x => { x with scWait := some (n, v) })) c) (.core core) n v.toNat

end Sys2Proof.Machine
end

