-- ==== Sys2Proof/Machine/Span.lean ====
section
/-! DEFINITION. The span vector extension's shared operations: elements of gangs, masks, the legality rules, a step of a
vector instruction, and the element loop (R301 to R309, R315, R316). -/

namespace Sys2Proof.Machine

/-! ## Widths, gangs and elements (R301, R303) -/

/-- Element width in bits. -/
def ewOf (w : VWord) : Nat := 8 * 2 ^ w.ew.toNat
/-- Gang size in registers. -/
def gangOf (w : VWord) : Nat := 2 ^ w.g.toNat
/-- SPANMAX of the instruction (VBITS is 512, R300). -/
def spanMaxOf (w : VWord) : Nat := gangOf w * 512 / ewOf w

/-- The bits of element `i` of width `ew` in the gang at register `n`. -/
def Core.elem (x : Core) (ew n i : Nat) : Nat :=
  ((x.v.getD (n + i * ew / 512) 0).toNat >>> (i * ew % 512)) % 2 ^ ew
/-- Write an element; its register is noted in VUSED (Table 9.2). -/
def Core.setElem (x : Core) (ew n i v : Nat) : Core :=
  let r := n + i * ew / 512
  let o := i * ew % 512
  { x with v := x.v.set r (BitVec.ofNat 512 (setBits (x.v.getD r 0).toNat (o + ew - 1) o v)),
           vused := x.vused ||| BitVec.ofNat 64 (2 ^ r) }

/-- A mask register; K0 reads as all ones. -/
def Core.mask (x : Core) (k : Nat) : BitVec 512 := if k = 0 then BitVec.allOnes 512 else x.k.getD k 0
/-- A bit of a mask register. -/
def Core.maskBit (x : Core) (k i : Nat) : Bool := (x.mask k).getLsbD i
/-- Write a mask register, noted in VUSED; K0 ignores writes. -/
def Core.setMask (x : Core) (k : Nat) (v : BitVec 512) : Core :=
  if k = 0 then x else { x with k := x.k.set k v, vused := x.vused ||| BitVec.ofNat 64 (2 ^ (31 + k)) }
/-- Write a bit of a mask register. -/
def Core.setMaskBit (x : Core) (k i : Nat) (b : Bool) : Core :=
  x.setMask k (BitVec.ofNat 512 (setBits (x.mask k).toNat i i (bitAt b 0)))

/-- Element `i` is active (R304). -/
def Core.activeAt (x : Core) (w : VWord) (i : Nat) : Bool := x.maskBit w.ksel.toNat i

/-! ## VRESUME (R315, R316) -/

/-- The copy of VRESUME of the running level. -/
def Core.vresume (x : Core) : Nat := if x.trap.isSome then x.vresumeS else x.vresumeU
/-- Set the copy of the running level. -/
def Core.setVresume (x : Core) (i : Nat) : Core := if x.trap.isSome then { x with vresumeS := i } else { x with vresumeU := i }

/-! ## Legality (R302, R303, R306 to R310) -/

/-- A register number is a multiple of a gang size. -/
def gangAligned (r : BitVec 5) (g : Nat) : Bool := r.toNat % g = 0
/-- The instruction's own SPANMAX is not below SPAN. -/
def spanFits (x : Core) (w : VWord) : Bool := x.spanLen ≤ spanMaxOf w
/-- The floating-point width of EW; none for 8 bits. -/
def fpOfEw (w : VWord) : Option Fmt := match w.ew.toNat with | 1 => some fp16 | 2 => some fp32 | 3 => some fp64 | _ => none
/-- The VS1 operand: a scalar, or an aligned gang. -/
def vs1Legal (w : VWord) : Bool := w.scal || gangAligned w.vs1 (gangOf w)

/-- Two gangs share a register. -/
def gangsMeet (a : BitVec 5) (n : Nat) (b : BitVec 5) (m : Nat) : Bool := overlaps a.toNat n b.toNat m

/-- vd ← vs2 op vs1 at one width. -/
def binaryLegal (x : Core) (w : VWord) : Bool := spanFits x w && gangAligned w.vd (gangOf w) && gangAligned w.vs2 (gangOf w) && vs1Legal w
/-- A compare writes a mask register other than K0 (R304). -/
def compareLegal (x : Core) (w : VWord) : Bool := spanFits x w && w.vd.toNat % 8 != 0 && gangAligned w.vs2 (gangOf w) && vs1Legal w
/-- vd ← f(vs2) without a scalar form. -/
def unaryLegal (x : Core) (w : VWord) : Bool := spanFits x w && !w.scal && gangAligned w.vd (gangOf w) && gangAligned w.vs2 (gangOf w)
/-- A widening form: the destination is a gang of 2G that meets no narrow source (R306, R309). -/
def widenLegal (x : Core) (w : VWord) : Bool :=
  spanFits x w && w.ew.toNat ≤ 2 && w.g.toNat ≤ 2 && gangAligned w.vd (2 * gangOf w) && gangAligned w.vs2 (gangOf w) && vs1Legal w &&
  !gangsMeet w.vd (2 * gangOf w) w.vs2 (gangOf w) && (w.scal || !gangsMeet w.vd (2 * gangOf w) w.vs1 (gangOf w))
/-- A widening conversion (R313). -/
def widenCvtLegal (x : Core) (w : VWord) : Bool :=
  spanFits x w && !w.scal && w.ew.toNat ≤ 2 && w.g.toNat ≤ 2 && gangAligned w.vd (2 * gangOf w) && gangAligned w.vs2 (gangOf w) &&
  !gangsMeet w.vd (2 * gangOf w) w.vs2 (gangOf w)
/-- A narrowing conversion: the source is a gang of 2G. -/
def narrowLegal (x : Core) (w : VWord) : Bool :=
  spanFits x w && !w.scal && w.ew.toNat ≤ 2 && w.g.toNat ≤ 2 && gangAligned w.vd (gangOf w) && gangAligned w.vs2 (2 * gangOf w)
/-- A dot form: EW 32, one gang size, a destination that meets no narrow source (R306, R310). -/
def dotLegal (x : Core) (w : VWord) : Bool :=
  spanFits x w && !w.scal && w.ew.toNat = 2 && gangAligned w.vd (gangOf w) && gangAligned w.vs2 (gangOf w) && gangAligned w.vs1 (gangOf w) &&
  w.vd != w.vs2 && w.vd != w.vs1
/-- A reduction: three vector operands (R311). -/
def reduceLegal (x : Core) (w : VWord) : Bool :=
  spanFits x w && !w.scal && gangAligned w.vd (gangOf w) && gangAligned w.vs2 (gangOf w) && gangAligned w.vs1 (gangOf w)

/-! ## A step of a vector instruction -/

/-- A vector instruction on a core whose program runs: vector use at U while VEN is clear enters the supervisor, and an
illegal instruction stops the program, having done nothing (R296, R316). -/
def onSpan (core : BitVec 8) (major op : Nat) (w : VWord) (s : State) (legal : Core → Bool) (body : State → State) : Res :=
  onCore core s fun s =>
    let s := seeWord s core.toNat major op w
    let x := s.core core.toNat
    if x.trap.isNone && !x.ven then enterTrap s core.toNat .ven
    else if !legal x then stopTrap s core.toNat 0x8680
    else body s

/-- Passes of a destination gang of `g` registers from element `begin` of width `ew` (R306). -/
def passesFrom (ew g begin : Nat) : Nat := 2 * g - min (2 * g) (begin * ew / 256)

/-- Count passes. Those that have no vector destination to be counted on are left free (log 10). -/
def countPasses (s : State) (c : Nat) (passes : Option Nat) : State :=
  match passes with
  | some n => if n = 0 then s else bump s (s.coreRegs c) 2 n
  | none => bumpClocks s (s.coreRegs c) 2

/-- A vector instruction that began at an element has completed: VRESUME is 0 and it is counted. -/
def doneSpan (s : State) (c begin : Nat) (passes : Option Nat) : State :=
  let s := countPasses (retire (s.modCore c (fun x => x.setVresume 0)) c) c passes
  if begin = 0 then s else bump s (s.coreRegs c) 3 1

/-- The core after the elements from VRESUME to SPAN: an active one takes its value and raises its flags, an inactive one
is treated by ZERO; every source is read from the core as it was (R305, R306). -/
def runElems (x : Core) (w : VWord) (put : Core → Nat → Nat → Core) (f : Nat → Nat × Nat) : Core :=
  (List.range (x.spanLen - x.vresume)).foldl (fun y k =>
    let i := x.vresume + k
    if x.activeAt w i then (put y i (f i).1).stick (f i).2 else if w.zero then put y i 0 else y) x

/-- A whole vector instruction by elements into a gang of `dg` registers of width `dew`. -/
def elemSpan (core : BitVec 8) (major op : Nat) (w : VWord) (s : State) (legal : Core → Bool) (dew dg : Nat)
    (f : Core → Nat → Nat × Nat) : Res :=
  onSpan core major op w s legal fun s =>
    let b := (s.core core.toNat).vresume
    doneSpan (s.modCore core.toNat (fun x => runElems x w (fun y i v => y.setElem dew w.vd.toNat i v) (f x))) core.toNat b (some (passesFrom dew dg b))

/-- A whole vector instruction by elements into a mask register. -/
def maskSpan (core : BitVec 8) (major op : Nat) (w : VWord) (s : State) (legal : Core → Bool) (f : Core → Nat → Bool × Nat) : Res :=
  onSpan core major op w s legal fun s =>
    let b := (s.core core.toNat).vresume
    let put (y : Core) (i v : Nat) : Core := y.setMaskBit (w.vd.toNat % 8) i (v != 0)
    doneSpan (s.modCore core.toNat (fun x => runElems x w put (fun i => (bitAt (f x i).1 0, (f x i).2)))) core.toNat b none

/-! ## Operands -/

/-- Element `i` of VS2. -/
def Core.opA (x : Core) (w : VWord) (i : Nat) : Nat := x.elem (ewOf w) w.vs2.toNat i
/-- Element `i` of VS1, or the low EW bits of G[VS1] (R308). -/
def Core.opB (x : Core) (w : VWord) (i : Nat) : Nat :=
  if w.scal then (x.gr w.vs1).toNat % 2 ^ ewOf w else x.elem (ewOf w) w.vs1.toNat i
/-- Element `i` of VS1, or the low EW bits of F[VS1]. -/
def Core.opF (x : Core) (w : VWord) (i : Nat) : Nat :=
  if w.scal then (x.fr w.vs1).toNat % 2 ^ ewOf w else x.elem (ewOf w) w.vs1.toNat i
/-- Element `i` of VD at a width. -/
def Core.opD (x : Core) (w : VWord) (ew i : Nat) : Nat := x.elem ew w.vd.toNat i

end Sys2Proof.Machine
end

