-- ==== Sys2Proof/Machine/SpanFp.lean ====
section
/-! DEFINITION. The floating-point instructions of the span extension (Table 9.4, major 0xC; R291, R309, R310, R313). -/

namespace Sys2Proof.Machine

/-- A result as value and flags. -/
def FpResult.pair (r : FpResult) : Nat × Nat := (r.bits, r.flags)
/-- The format of EW, used only where EW permits one. -/
def fpFmtEw (w : VWord) : Fmt := (fpOfEw w).getD fp32

/-- vd ← vs2 op vs1; `f` takes the format, the rounding direction, the two elements and the old destination. -/
def fpSpan (core : BitVec 8) (op : Nat) (w : VWord) (f : Fmt → Rnd → Nat → Nat → Nat → FpResult) (s : State) : Res :=
  elemSpan core 0xC op w s (fun x => binaryLegal x w && (fpOfEw w).isSome) (ewOf w) (gangOf w) fun x i =>
    (f (fpFmtEw w) x.rnd (x.opA w i) (x.opF w i) (x.opD w (ewOf w) i)).pair

def execVfadd (core : BitVec 8) (w : VWord) (s : State) : Res := fpSpan core 0x00 w (fun f k a b _ => fpAdd f k a b) s
def execVfsub (core : BitVec 8) (w : VWord) (s : State) : Res := fpSpan core 0x01 w (fun f k a b _ => fpSub f k a b) s
def execVfmul (core : BitVec 8) (w : VWord) (s : State) : Res := fpSpan core 0x02 w (fun f k a b _ => fpMul f k a b) s
def execVfdiv (core : BitVec 8) (w : VWord) (s : State) : Res := fpSpan core 0x03 w (fun f k a b _ => fpDiv f k a b) s
/-- VFSQRT has no scalar form (R308). -/
def execVfsqrt (core : BitVec 8) (w : VWord) (s : State) : Res :=
  elemSpan core 0xC 0x04 w s (fun x => unaryLegal x w && (fpOfEw w).isSome) (ewOf w) (gangOf w) fun x i => (fpSqrt (fpFmtEw w) x.rnd (x.opA w i)).pair
/-- VFMAC: vd ← vs2 × vs1 + vd. -/
def execVfmac (core : BitVec 8) (w : VWord) (s : State) : Res := fpSpan core 0x05 w (fun f k a b d => fpFma f k false a b d) s
/-- VFMSB: vd ← vd − vs2 × vs1. -/
def execVfmsb (core : BitVec 8) (w : VWord) (s : State) : Res := fpSpan core 0x06 w (fun f k a b d => fpFma f k true a b d) s
def execVfmin (core : BitVec 8) (w : VWord) (s : State) : Res := fpSpan core 0x07 w (fun f _ a b _ => fpPickNum f true a b) s
def execVfmax (core : BitVec 8) (w : VWord) (s : State) : Res := fpSpan core 0x08 w (fun f _ a b _ => fpPickNum f false a b) s

/-- A floating-point compare into K[VD[2:0]]. -/
def fpCompareSpan (core : BitVec 8) (op rel : Nat) (w : VWord) (s : State) : Res :=
  maskSpan core 0xC op w s (fun x => compareLegal x w && (fpOfEw w).isSome) fun x i => fpCompare (fpFmtEw w) rel (x.opA w i) (x.opF w i)

def execVfcmpeq (core : BitVec 8) (w : VWord) (s : State) : Res := fpCompareSpan core 0x09 0 w s
def execVfcmplt (core : BitVec 8) (w : VWord) (s : State) : Res := fpCompareSpan core 0x0A 1 w s
def execVfcmple (core : BitVec 8) (w : VWord) (s : State) : Res := fpCompareSpan core 0x0B 2 w s

/-- VFCVT.FI: floating point to a signed integer of the same width. -/
def execVfcvtFi (core : BitVec 8) (w : VWord) (s : State) : Res :=
  elemSpan core 0xC 0x10 w s (fun x => unaryLegal x w && (fpOfEw w).isSome) (ewOf w) (gangOf w) fun x i =>
    (fpToInt (fpFmtEw w) x.rnd (ewOf w) (x.opA w i)).pair
/-- VFCVT.IF: a signed integer to floating point of the same width. -/
def execVfcvtIf (core : BitVec 8) (w : VWord) (s : State) : Res :=
  elemSpan core 0xC 0x11 w s (fun x => unaryLegal x w && (fpOfEw w).isSome) (ewOf w) (gangOf w) fun x i =>
    (fpFromInt (fpFmtEw w) x.rnd (ewOf w) (x.opA w i)).pair

/-- The format of twice the width of EW. -/
def fpWide (w : VWord) : Fmt := if w.ew.toNat = 1 then fp32 else fp64
/-- EW is 16 or 32, or for BF16 forms 16. -/
def ewNarrow (w : VWord) (bf : Bool) : Bool := w.ew.toNat = 1 || (!bf && w.ew.toNat = 2)

/-- A widening conversion from a narrow format. -/
def cvtUp (core : BitVec 8) (op : Nat) (w : VWord) (bf : Bool) (s : State) : Res :=
  elemSpan core 0xC op w s (fun x => widenCvtLegal x w && ewNarrow w bf) (2 * ewOf w) (2 * gangOf w) fun x i =>
    (fpConvert (if bf then bf16 else fpFmtEw w) (fpWide w) x.rnd (x.opA w i)).pair
/-- A narrowing conversion to a narrow format, from a source of twice the width. -/
def cvtDown (core : BitVec 8) (op : Nat) (w : VWord) (bf : Bool) (s : State) : Res :=
  elemSpan core 0xC op w s (fun x => narrowLegal x w && ewNarrow w bf) (ewOf w) (gangOf w) fun x i =>
    (fpConvert (fpWide w) (if bf then bf16 else fpFmtEw w) x.rnd (x.elem (2 * ewOf w) w.vs2.toNat i)).pair

def execVfcvtup (core : BitVec 8) (w : VWord) (s : State) : Res := cvtUp core 0x12 w false s
def execVfcvtdn (core : BitVec 8) (w : VWord) (s : State) : Res := cvtDown core 0x13 w false s
def execVfcvtupBf (core : BitVec 8) (w : VWord) (s : State) : Res := cvtUp core 0x14 w true s
def execVfcvtdnBf (core : BitVec 8) (w : VWord) (s : State) : Res := cvtDown core 0x15 w true s

/-- A widening product: the operands taken exactly to the wide format, with `f` on wide elements and the old destination. -/
def widenFp (core : BitVec 8) (op : Nat) (w : VWord) (f : Fmt → Rnd → Nat → Nat → Nat → FpResult) (s : State) : Res :=
  elemSpan core 0xC op w s (fun x => widenLegal x w && ewNarrow w false) (2 * ewOf w) (2 * gangOf w) fun x i =>
    let up (v : Nat) : FpResult := fpConvert (fpFmtEw w) (fpWide w) .rne v
    let a := up (x.opA w i)
    let b := up (x.opF w i)
    let r := f (fpWide w) x.rnd a.bits b.bits (x.opD w (2 * ewOf w) i)
    (r.bits, r.flags ||| a.flags ||| b.flags)

def execVfmulx (core : BitVec 8) (w : VWord) (s : State) : Res := widenFp core 0x16 w (fun f k a b _ => fpMul f k a b) s
def execVfmacx (core : BitVec 8) (w : VWord) (s : State) : Res := widenFp core 0x17 w (fun f k a b d => fpFma f k false a b d) s

/-- The exact sum vd + a₀×b₀ + a₁×b₁ rounded once to FP32 (R310). -/
def dotBf (k : Rnd) (d a b : Nat) : FpResult :=
  let half (v j : Nat) : Nat := v / 2 ^ (16 * j) % 65536
  let p (j : Nat) : Fp := (bf16.decode (half a j)).mul (bf16.decode (half b j))
  let r := addDir k (addDir k (fp32.decode d) (p 0)) (p 1)
  let nans := (fp32.decode d).isNan || [half a 0, half a 1, half b 0, half b 1].any (fun v => (bf16.decode v).isNan)
  let snan := isSnan fp32 d || [half a 0, half a 1, half b 0, half b 1].any (isSnan bf16)
  let z := fpFinish fp32 k r
  ⟨z.bits, z.flags ||| bitAt (snan || (r.isNan && !nans)) 0⟩

def execVdotbf (core : BitVec 8) (w : VWord) (s : State) : Res :=
  elemSpan core 0xC 0x18 w s (fun x => dotLegal x w) 32 (gangOf w) fun x i => (dotBf x.rnd (x.opD w 32 i) (x.opA w i) (x.opB w i)).pair

end Sys2Proof.Machine
end

