-- ==== Sys2Proof/Machine/SpanInt.lean ====
section
/-! DEFINITION. The integer instructions of the span extension (Table 9.4, major 0xB; R309, R310). -/

namespace Sys2Proof.Machine

/-- vd ← vs2 op vs1 modulo 2^EW; `f` takes EW and the two elements. -/
def intSpan (core : BitVec 8) (op : Nat) (w : VWord) (f : Nat → Nat → Nat → Nat) (s : State) : Res :=
  elemSpan core 0xB op w s (fun x => binaryLegal x w) (ewOf w) (gangOf w) fun x i => (f (ewOf w) (x.opA w i) (x.opB w i) % 2 ^ ewOf w, 0)

/-- The smaller or larger by an order on values. -/
def pickInt (least : Bool) (a b : Int) (x y : Nat) : Nat := if least then (if b < a then y else x) else (if a < b then y else x)

def execVadd (core : BitVec 8) (w : VWord) (s : State) : Res := intSpan core 0x00 w (fun _ a b => a + b) s
def execVsub (core : BitVec 8) (w : VWord) (s : State) : Res := intSpan core 0x01 w (fun n a b => a + 2 ^ n - b) s
/-- VMUL: the low half. -/
def execVmul (core : BitVec 8) (w : VWord) (s : State) : Res := intSpan core 0x02 w (fun _ a b => a * b) s
/-- VMULHI: the high half of the signed product. -/
def execVmulhi (core : BitVec 8) (w : VWord) (s : State) : Res :=
  intSpan core 0x03 w (fun n a b => ofSignedBits (2 * n) (toSigned n a * toSigned n b) / 2 ^ n) s
def execVmin (core : BitVec 8) (w : VWord) (s : State) : Res := intSpan core 0x04 w (fun n a b => pickInt true (toSigned n a) (toSigned n b) a b) s
def execVmax (core : BitVec 8) (w : VWord) (s : State) : Res := intSpan core 0x05 w (fun n a b => pickInt false (toSigned n a) (toSigned n b) a b) s
def execVminu (core : BitVec 8) (w : VWord) (s : State) : Res := intSpan core 0x06 w (fun _ a b => pickInt true a b a b) s
def execVmaxu (core : BitVec 8) (w : VWord) (s : State) : Res := intSpan core 0x07 w (fun _ a b => pickInt false a b a b) s
def execVand (core : BitVec 8) (w : VWord) (s : State) : Res := intSpan core 0x08 w (fun _ a b => a &&& b) s
def execVor (core : BitVec 8) (w : VWord) (s : State) : Res := intSpan core 0x09 w (fun _ a b => a ||| b) s
def execVxor (core : BitVec 8) (w : VWord) (s : State) : Res := intSpan core 0x0A w (fun _ a b => a ^^^ b) s
/-- Shifts use the low log₂ EW bits of the amount. -/
def execVshl (core : BitVec 8) (w : VWord) (s : State) : Res := intSpan core 0x0B w (fun n a b => a <<< (b % n)) s
def execVshrl (core : BitVec 8) (w : VWord) (s : State) : Res := intSpan core 0x0C w (fun n a b => a >>> (b % n)) s
def execVshra (core : BitVec 8) (w : VWord) (s : State) : Res :=
  intSpan core 0x0D w (fun n a b => ofSignedBits n (toSigned n a / (2 : Int) ^ (b % n))) s

/-- Compares write K[VD[2:0]]. -/
def execVcmpeq (core : BitVec 8) (w : VWord) (s : State) : Res :=
  maskSpan core 0xB 0x0E w s (fun x => compareLegal x w) fun x i => (x.opA w i == x.opB w i, 0)
def execVcmplt (core : BitVec 8) (w : VWord) (s : State) : Res :=
  maskSpan core 0xB 0x0F w s (fun x => compareLegal x w) fun x i => (toSigned (ewOf w) (x.opA w i) < toSigned (ewOf w) (x.opB w i), 0)

/-- A widening integer form: the exact product of two elements read as `val`, added to the destination under `acc`
modulo 2^(2·EW) (R309). -/
def widenInt (core : BitVec 8) (op : Nat) (w : VWord) (val : Nat → Nat → Int) (acc : Bool) (s : State) : Res :=
  elemSpan core 0xB op w s (fun x => widenLegal x w) (2 * ewOf w) (2 * gangOf w) fun x i =>
    (ofSignedBits (2 * ewOf w) (val (ewOf w) (x.opA w i) * val (ewOf w) (x.opB w i) + (if acc then (x.opD w (2 * ewOf w) i : Int) else 0)), 0)

/-- An unsigned element. -/
def unsignedInt (_n v : Nat) : Int := v

def execVmulx (core : BitVec 8) (w : VWord) (s : State) : Res := widenInt core 0x10 w toSigned false s
def execVmulxu (core : BitVec 8) (w : VWord) (s : State) : Res := widenInt core 0x11 w unsignedInt false s
def execVmacx (core : BitVec 8) (w : VWord) (s : State) : Res := widenInt core 0x12 w toSigned true s
def execVmacxu (core : BitVec 8) (w : VWord) (s : State) : Res := widenInt core 0x13 w unsignedInt true s

/-- A dot form of four bytes per element; `va` reads vs2 and `vb` reads vs1 (R310). -/
def dotInt (core : BitVec 8) (op : Nat) (w : VWord) (va vb : Nat → Nat → Int) (s : State) : Res :=
  elemSpan core 0xB op w s (fun x => dotLegal x w) 32 (gangOf w) fun x i =>
    let byte (v k : Nat) : Nat := v / 2 ^ (8 * k) % 256
    let a := x.opA w i
    let b := x.opB w i
    (ofSignedBits 32 ((x.opD w 32 i : Int) + ((List.range 4).map (fun k => va 8 (byte a k) * vb 8 (byte b k))).sum), 0)

def execVdotq (core : BitVec 8) (w : VWord) (s : State) : Res := dotInt core 0x14 w toSigned toSigned s
def execVdotqu (core : BitVec 8) (w : VWord) (s : State) : Res := dotInt core 0x15 w unsignedInt unsignedInt s
def execVdotqsu (core : BitVec 8) (w : VWord) (s : State) : Res := dotInt core 0x16 w toSigned unsignedInt s

end Sys2Proof.Machine
end

