-- ==== Sys2Proof/Machine/SpanMem.lean ====
section
/-! DEFINITION. The vector memory instructions: their element loop, which faults, waits or is interrupted at an element,
and KLD and KST (R303, R314 to R319, R490). -/

namespace Sys2Proof.Machine

/-- How the element loop of a vector memory instruction ends. -/
inductive VecEnd where
  | done
  | trap (i st : Nat)
  | page (i va : Nat)
  | irq (i : Nat)
  deriving DecidableEq, Repr

/-- A vector memory instruction: its core as it was, its word, its direction, and the address of an element. -/
structure VecMem where
  core  : Nat
  x     : Core
  w     : VWord
  write : Bool
  probe : Bool
  addr  : Nat → Nat

/-- Bytes of an element. -/
def VecMem.bytes (m : VecMem) : Nat := ewOf m.w / 8

/-- The mask register that VLDPROBE writes. -/
def probeMask (w : VWord) : Nat := w.vs2.toNat % 8

/-- An inactive element: ZERO treatment of a load, a clear bit of a probe. -/
def VecMem.skip (m : VecMem) (s : State) (i : Nat) : State :=
  if m.write then s
  else s.modCore m.core (fun y =>
    let y := if m.w.zero then y.setElem (ewOf m.w) m.w.vd.toNat i 0 else y
    if m.probe then y.setMaskBit (probeMask m.w) i false else y)

/-- An active element at its location: the status of a poisoned or lost line, or 0. -/
def VecMem.perform (m : VecMem) (s : State) (i : Nat) (l : Loc) : State × Nat :=
  if m.write then (coreWrite s m.core (m.addr i) l (leBytes m.bytes (m.x.elem (ewOf m.w) m.w.vd.toNat i)), 0)
  else match coreRead s l m.bytes with
    | (s, v, 0) => (s.modCore m.core (fun y =>
        let y := y.setElem (ewOf m.w) m.w.vd.toNat i v
        if m.probe then y.setMaskBit (probeMask m.w) i true else y), 0)
    | (s, _, st) => (s, st)

/-- A pending interrupt is taken at an element that begins a pass after the first of the instruction's passes (R318). -/
def VecMem.irqAt (m : VecMem) (i : Nat) : Bool := m.x.vresume < i && i * ewOf m.w % 256 = 0 && i < spanMaxOf m.w

/-- Elements from `i`, in ascending order; `n` are left (R314). Passes at and past SPAN perform no element, and an interrupt
is taken before one of them too. -/
def VecMem.loop (m : VecMem) : Nat → Nat → State → State × VecEnd
  | 0, i, s => match m.x.irqAt with
    | some e => if i ≤ e && m.irqAt e then (s, .irq e) else (s, .done)
    | none => (s, .done)
  | n + 1, i, s =>
    if m.x.irqAt == some i && m.irqAt i then (s, .irq i)
    else if !m.x.activeAt m.w i then VecMem.loop m n (i + 1) (m.skip s i)
    else match coreAccess s (m.addr i) m.bytes m.write with
      | .trap st => (coreFaulted s (m.addr i) m.write st, .trap i st)
      | .page => (s, .page i (m.addr i))
      | .ok l =>
        match m.perform s i l with
        | (s, 0) => VecMem.loop m n (i + 1) s
        | (s, st) => (s, .trap i st)

/-- The active elements that the instruction would perform. -/
def VecMem.todo (m : VecMem) : List Nat :=
  ((List.range (m.x.spanLen - m.x.vresume)).map (fun k => m.x.vresume + k)).filter (fun i => m.x.activeAt m.w i)

/-- The bits of a probe's mask from element `i` to SPAN are clear (R317). -/
def VecMem.clearFrom (m : VecMem) (s : State) (i : Nat) : State :=
  s.modCore m.core (fun y => (List.range (m.x.spanLen - i)).foldl (fun y k => y.setMaskBit (probeMask m.w) (i + k) false) y)

/-- The loop ends at an element that faults: a probe that has loaded an earlier active element, in this run of it or in one
that it resumes, completes, and any other instruction leaves the element in VRESUME. -/
def VecMem.endsShort (m : VecMem) (i : Nat) : Bool := m.probe && (List.range i).any (m.x.activeAt m.w)

/-- The instruction is left at an element, with the passes before it counted. -/
def VecMem.leave (m : VecMem) (s : State) (i : Nat) : State :=
  let pass (e : Nat) : Nat := e * ewOf m.w / 256
  countPasses (s.modCore m.core (fun y => y.setVresume i)) m.core (some (pass i - pass m.x.vresume))

/-- Run a vector memory instruction (R314, R317, R318). -/
def runVecMem (s : State) (m : VecMem) : State :=
  let c := m.core
  let b := m.x.vresume
  let passes := some (passesFrom (ewOf m.w) (gangOf m.w) b)
  if m.todo.any (fun i => s.coreHeld (m.addr i)) then s
  else
    match VecMem.loop m (m.x.spanLen - b) b s with
    | (s, .done) => bumpClocks (doneSpan s c b passes) (s.coreRegs c) 7
    | (s, .trap i st) => if m.endsShort i then doneSpan (m.clearFrom s i) c b passes else stopTrap (m.leave s i) c st
    | (s, .page i va) => if m.endsShort i then doneSpan (m.clearFrom s i) c b passes else pageTrap (m.leave s i) c va
    | (s, .irq i) => bump (takeIrq (m.leave s i) c) (s.coreRegs c) 4 1

/-- Legality of a vector memory instruction; `idx` has an index vector in VS2. -/
def vmemLegal (x : Core) (w : VWord) (idx : Bool) : Bool :=
  spanFits x w && !w.scal && gangAligned w.vd (gangOf w) && (!idx || gangAligned w.vs2 (gangOf w))

/-- A vector memory instruction whose element addresses are `f` of the core. -/
def vmemSpan (core : BitVec 8) (op : Nat) (w : VWord) (write probe idx : Bool) (f : Core → Nat → Nat) (s : State) : Res :=
  onSpan core 0xD op w s (fun x => vmemLegal x w idx && (!probe || probeMask w != 0)) fun s =>
    let x := s.core core.toNat
    runVecMem s { core := core.toNat, x := x, w := w, write := write, probe := probe, addr := fun i => f x i % 2 ^ 64 }

/-- Unit stride, byte stride G[VS2], and unsigned byte offsets in V[VS2]. -/
def unitAddr (w : VWord) (x : Core) (i : Nat) : Nat := (x.gr w.vs1).toNat + i * (ewOf w / 8)
def strideAddr (w : VWord) (x : Core) (i : Nat) : Nat := (x.gr w.vs1).toNat + i * (x.gr w.vs2).toNat
def indexAddr (w : VWord) (x : Core) (i : Nat) : Nat := (x.gr w.vs1).toNat + x.opA w i

def execVld (core : BitVec 8) (w : VWord) (s : State) : Res := vmemSpan core 0x08 w false false false (unitAddr w) s
def execVlds (core : BitVec 8) (w : VWord) (s : State) : Res := vmemSpan core 0x09 w false false false (strideAddr w) s
def execVldx (core : BitVec 8) (w : VWord) (s : State) : Res := vmemSpan core 0x0A w false false true (indexAddr w) s
/-- VLDPROBE marks the elements that it loaded in K[VS2[2:0]] (R317). -/
def execVldprobe (core : BitVec 8) (w : VWord) (s : State) : Res := vmemSpan core 0x0B w false true false (unitAddr w) s
def execVst (core : BitVec 8) (w : VWord) (s : State) : Res := vmemSpan core 0x0C w true false false (unitAddr w) s
def execVsts (core : BitVec 8) (w : VWord) (s : State) : Res := vmemSpan core 0x0D w true false false (strideAddr w) s
def execVstx (core : BitVec 8) (w : VWord) (s : State) : Res := vmemSpan core 0x0E w true false true (indexAddr w) s

/-! ## KLD and KST: all 512 bits of a mask register, aligned to 8 bytes, whatever SPAN -/

/-- The eight words of a mask register's image, checked before any is moved. -/
def maskWords (s : State) (va : Nat) (write : Bool) : List CoreAccess :=
  (List.range 8).map (fun k => coreAccess s ((va + 8 * k) % 2 ^ 64) 8 write)

/-- A KLD or KST: held, trapped, waiting for a page, or with the locations of its words. -/
def maskMem (s : State) (c va : Nat) (write : Bool) (body : State → List Loc → State) : State :=
  let ws := maskWords s va write
  if (List.range 8).any (fun k => s.coreHeld ((va + 8 * k) % 2 ^ 64)) then s
  else match (ws.mapIdx (fun k a => (k, a))).find? (fun e => match e.2 with | .ok _ => false | _ => true) with
    | some (k, .trap st) => stopTrap (coreFaulted s ((va + 8 * k) % 2 ^ 64) write st) c st
    | some (k, _) => pageTrap s c ((va + 8 * k) % 2 ^ 64)
    | none => body s (ws.filterMap (fun a => match a with | .ok l => some l | _ => none))

/-- Read words in order: the value so far, or the status of a poisoned or lost line. -/
def readWords : List Loc → Nat → State → Nat → State × Nat × Nat
  | [], _, s, v => (s, v, 0)
  | l :: r, k, s, v =>
    match coreRead s l 8 with
    | (s, u, 0) => readWords r (k + 1) s (v + u * 2 ^ (64 * k))
    | (s, _, st) => (s, v, st)

/-- KLD. -/
def execKld (core : BitVec 8) (w : VWord) (s : State) : Res := onSpan core 0xD 0x36 w s (fun _ => !w.scal) fun s =>
  let c := core.toNat
  let b := (s.core c).vresume
  maskMem s c ((s.core c).gr w.vs1).toNat false fun s ls =>
    match readWords ls 0 s 0 with
    | (s, v, 0) => bumpClocks (doneSpan (s.modCore c (fun x => x.setMask (w.vd.toNat % 8) (BitVec.ofNat 512 v))) c b none) (s.coreRegs c) 7
    | (s, _, st) => stopTrap s c st

/-- KST. -/
def execKst (core : BitVec 8) (w : VWord) (s : State) : Res := onSpan core 0xD 0x37 w s (fun _ => !w.scal) fun s =>
  let c := core.toNat
  let b := (s.core c).vresume
  let va := ((s.core c).gr w.vs1).toNat
  let v := ((s.core c).mask (w.vd.toNat % 8)).toNat
  maskMem s c va true fun s ls =>
    let s := (ls.mapIdx (fun k l => (k, l))).foldl (fun s e =>
      coreWrite s c ((va + 8 * e.1) % 2 ^ 64) e.2 (leBytes 8 (v / 2 ^ (64 * e.1)))) s
    bumpClocks (doneSpan s c b none) (s.coreRegs c) 7

end Sys2Proof.Machine
end

