-- ==== Sys2Proof/Machine/SpanMisc.lean ====
section
/-! DEFINITION. Configuration, reductions, permutations and mask instructions of the span extension (Table 9.2, Table 9.4,
major 0xD; R303 to R306, R311). -/

namespace Sys2Proof.Machine

/-! ## Configuration -/

/-- SETSPAN: SPAN ← min(G[gs1], SPANMAX), also to G[gd] (R303). -/
def execSetspan (core : BitVec 8) (w : VWord) (s : State) : Res := onSpan core 0xD 0x00 w s (fun _ => !w.scal) fun s =>
  let c := core.toNat
  let b := (s.core c).vresume
  let n := min ((s.core c).gr w.vs1).toNat (spanMaxOf w)
  doneSpan (s.modCore c (fun x => { x with spanLen := n }.setG w.vd (BitVec.ofNat 64 n))) c b (some 0)

/-- A special register as VSRD reads it; none where Table 9.2 forbids the read. -/
def Core.readSpecial (x : Core) (i : Nat) : Option U64 :=
  match i with
  | 0 => some (BitVec.ofNat 64 x.spanLen)
  | 1 => some 512
  | 2 => some (BitVec.ofNat 64 x.vresume)
  | 3 => if x.trap.isSome then some (BitVec.ofNat 64 x.vresumeU) else none
  | 4 => if x.trap.isSome then some x.vused else none
  | 5 => if x.trap.isSome then some (if x.ven then 1 else 0) else none
  | _ => none

/-- VSRD: G[VD] ← special register VS1. -/
def execVsrd (core : BitVec 8) (w : VWord) (s : State) : Res :=
  onSpan core 0xD 0x02 w s (fun x => spanFits x w && !w.scal && (x.readSpecial w.vs1.toNat).isSome) fun s =>
    let c := core.toNat
    let b := (s.core c).vresume
    doneSpan (s.modCore c (fun x => x.setG w.vd ((x.readSpecial w.vs1.toNat).getD 0))) c b (some 0)

/-- VSWR, at S only: special register VD ← G[VS1]; VBITS cannot be written. A value written to VRESUME stands. -/
def execVswr (core : BitVec 8) (w : VWord) (s : State) : Res :=
  onSpan core 0xD 0x03 w s (fun x => spanFits x w && !w.scal && x.trap.isSome && w.vd.toNat != 1 && w.vd.toNat ≤ 5) fun s =>
    let c := core.toNat
    let b := (s.core c).vresume
    let v := (s.core c).gr w.vs1
    let s := doneSpan s c b (some 0)
    match w.vd.toNat with
    | 0 => s.modCore c (fun x => { x with spanLen := v.toNat })
    | 2 => s.modCore c (fun x => { x with vresumeS := v.toNat })
    | 3 => s.modCore c (fun x => { x with vresumeU := v.toNat })
    | 4 => s.modCore c (fun x => { x with vused := x.vused &&& ~~~v })
    | _ => s.modCore c (fun x => { x with ven := v.getLsbD 0 })

/-! ## Reductions (R311) -/

/-- The active elements from VRESUME to SPAN, in ascending index. -/
def Core.activeElems (x : Core) (w : VWord) : List Nat :=
  ((List.range (x.spanLen - x.vresume)).map (fun k => x.vresume + k)).filter (fun i => x.activeAt w i)

/-- A reduction: `f` takes the core, the start value and the active elements. -/
def reduceSpan (core : BitVec 8) (op : Nat) (w : VWord) (fp : Bool) (f : Core → Nat → List Nat → FpResult) (s : State) : Res :=
  onSpan core 0xD op w s (fun x => reduceLegal x w && (!fp || (fpOfEw w).isSome)) fun s =>
    let c := core.toNat
    let b := (s.core c).vresume
    let run (x : Core) : Core :=
      if x.spanLen ≤ x.vresume then x
      else
        let start := x.elem (ewOf w) w.vs1.toNat 0
        let es := x.activeElems w
        let r : FpResult := if es.isEmpty then ⟨start, 0⟩ else f x start es
        (x.setElem (ewOf w) w.vd.toNat 0 r.bits).stick r.flags
    doneSpan (s.modCore c run) c b none

/-- A reduction that combines element by element. -/
def foldSpan (core : BitVec 8) (op : Nat) (w : VWord) (fp : Bool) (f : Core → Nat → Nat → FpResult) (s : State) : Res :=
  reduceSpan core op w fp (fun x start es => es.foldl (fun a i =>
    let r := f x a.bits (x.opA w i)
    ⟨r.bits, a.flags ||| r.flags⟩) ⟨start, 0⟩) s

def execVsumr (core : BitVec 8) (w : VWord) (s : State) : Res := foldSpan core 0x10 w false (fun _ a b => ⟨(a + b) % 2 ^ ewOf w, 0⟩) s
def execVminr (core : BitVec 8) (w : VWord) (s : State) : Res :=
  foldSpan core 0x11 w false (fun _ a b => ⟨if toSigned (ewOf w) b < toSigned (ewOf w) a then b else a, 0⟩) s
def execVmaxr (core : BitVec 8) (w : VWord) (s : State) : Res :=
  foldSpan core 0x12 w false (fun _ a b => ⟨if toSigned (ewOf w) a < toSigned (ewOf w) b then b else a, 0⟩) s
def execVminur (core : BitVec 8) (w : VWord) (s : State) : Res := foldSpan core 0x13 w false (fun _ a b => ⟨min a b, 0⟩) s
def execVmaxur (core : BitVec 8) (w : VWord) (s : State) : Res := foldSpan core 0x14 w false (fun _ a b => ⟨max a b, 0⟩) s
/-- VFSUMORD adds in ascending index, from the start value. -/
def execVfsumord (core : BitVec 8) (w : VWord) (s : State) : Res :=
  foldSpan core 0x15 w true (fun x a b => fpAdd ((fpOfEw w).getD fp32) x.rnd a b) s
def execVfminr (core : BitVec 8) (w : VWord) (s : State) : Res :=
  foldSpan core 0x17 w true (fun _ a b => fpPickNum ((fpOfEw w).getD fp32) true a b) s
def execVfmaxr (core : BitVec 8) (w : VWord) (s : State) : Res :=
  foldSpan core 0x18 w true (fun _ a b => fpPickNum ((fpOfEw w).getD fp32) false a b) s

/-- The smallest power of two not below `n`, for `n` up to 512. -/
def pow2At (n : Nat) : Nat := ((List.range 10).map (fun k => 2 ^ k)).find? (fun p => n ≤ p) |>.getD 512

/-- One level of pairs, with the flags of its additions. -/
def pairLevel (f : Fmt) (k : Rnd) : List Nat → List Nat × Nat
  | a :: b :: r => match pairLevel f k r with | (l, fl) => ((fpAdd f k a b).bits :: l, (fpAdd f k a b).flags ||| fl)
  | l => (l, 0)

/-- Levels of pairs until one position is left. -/
def pairLevels (f : Fmt) (k : Rnd) : Nat → List Nat → Nat → List Nat × Nat
  | 0, l, fl => (l, fl)
  | n + 1, l, fl => if l.length ≤ 1 then (l, fl) else pairLevels f k n (pairLevel f k l).1 (fl ||| (pairLevel f k l).2)

/-- VFSUMPAIR: positions 0 to P − 1, +0 where no active element is, reduced by pairs; the start value is added last.
A sum of only −0 and filler is +0. -/
def sumPair (f : Fmt) (k : Rnd) (span : Nat) (active : Nat → Option Nat) (start : Nat) : FpResult :=
  let ps := (List.range (pow2At span)).map active
  let r := pairLevels f k 10 (ps.map (fun e => e.getD 0)) 0
  let vs := ps.filterMap id
  let filler := vs.length < ps.length
  let sum := if filler && vs.all (fun v => (f.decode v).isZero && (f.decode v).isNeg) then 0 else r.1.headD 0
  let z := fpAdd f k sum start
  ⟨z.bits, z.flags ||| r.2⟩

def execVfsumpair (core : BitVec 8) (w : VWord) (s : State) : Res :=
  reduceSpan core 0x16 w true (fun x start es =>
    sumPair ((fpOfEw w).getD fp32) x.rnd x.spanLen (fun i => if es.contains i then some (x.opA w i) else none) start) s

/-! ## Permutations -/

/-- A permutation: `f` takes the core, the index of the step's first free value, and an element. What the manual leaves
open is a FREE VALUE (log 34). -/
def permSpan (core : BitVec 8) (op : Nat) (w : VWord) (legal : Core → Bool) (f : Core → Nat → Nat → Nat) (s : State) : Res :=
  onSpan core 0xD op w s legal fun s =>
    let c := core.toNat
    let b := (s.core c).vresume
    let n := s.free
    let s := { s with free := n + 512 }
    doneSpan (s.modCore c (fun x => runElems x w (fun y i v => y.setElem (ewOf w) w.vd.toNat i v) (fun i => (f x n i % 2 ^ ewOf w, 0)))) c b
      (some (passesFrom (ewOf w) (gangOf w) b))

/-- The free value of an element. -/
def freeElem (n i : Nat) : Nat := (Config.freeBits (n + i)).toNat

/-- VSHIFTUP and VSHIFTDN by G[VS1] elements; what is shifted in from outside the elements 0 to SPAN − 1 is open. -/
def execVshiftup (core : BitVec 8) (w : VWord) (s : State) : Res :=
  permSpan core 0x20 w (fun x => unaryLegal x w) (fun x n i =>
    let k := (x.gr w.vs1).toNat
    if k ≤ i then x.opA w (i - k) else freeElem n i) s
def execVshiftdn (core : BitVec 8) (w : VWord) (s : State) : Res :=
  permSpan core 0x21 w (fun x => unaryLegal x w) (fun x n i =>
    let k := (x.gr w.vs1).toNat
    if i + k < x.spanLen then x.opA w (i + k) else freeElem n i) s
/-- VSHUF: vd[i] ← vs2[vs1[i]], or 0 when out of range. -/
def execVshuf (core : BitVec 8) (w : VWord) (s : State) : Res :=
  permSpan core 0x22 w (fun x => reduceLegal x w) (fun x _ i =>
    let j := x.elem (ewOf w) w.vs1.toNat i
    if spanMaxOf w ≤ j then 0 else if x.spanLen ≤ j && Config.shufflePastSpan then 0 else x.opA w j) s

/-- VPACK: the active elements packed downwards. Of the positions above them, below SPAN, the inactive ones are treated by
ZERO (R305), and the active ones are open. FREE VALUES (log 34). -/
def execVpack (core : BitVec 8) (w : VWord) (s : State) : Res :=
  onSpan core 0xD 0x23 w s (fun x => unaryLegal x w) fun s =>
    let c := core.toNat
    let b := (s.core c).vresume
    let n := s.free
    let run (x : Core) : Core :=
      let es := x.activeElems w
      let put (y : Core) (k v : Nat) : Core := y.setElem (ewOf w) w.vd.toNat (b + k) v
      (List.range (x.spanLen - b)).foldl (fun y k =>
        match es[k]? with
        | some i => put y k (x.opA w i)
        | none => if x.activeAt w (b + k) then put y k (freeElem n k) else if w.zero then put y k 0 else y) x
    doneSpan ({ s with free := n + 512 }.modCore c run) c b (some (passesFrom (ewOf w) (gangOf w) b))

/-- A broadcast needs only an aligned destination. -/
def bcastLegal (x : Core) (w : VWord) : Bool := spanFits x w && !w.scal && gangAligned w.vd (gangOf w)

/-- VBCAST from G[VS1] and VFBCAST from F[VS1]. -/
def execVbcast (core : BitVec 8) (w : VWord) (s : State) : Res :=
  elemSpan core 0xD 0x24 w s (fun x => bcastLegal x w) (ewOf w) (gangOf w) fun x _ => ((x.gr w.vs1).toNat % 2 ^ ewOf w, 0)
def execVfbcast (core : BitVec 8) (w : VWord) (s : State) : Res :=
  elemSpan core 0xD 0x25 w s (fun x => bcastLegal x w && (fpOfEw w).isSome) (ewOf w) (gangOf w) fun x _ => ((x.fr w.vs1).toNat % 2 ^ ewOf w, 0)

/-- A move of element 0 to a scalar register: performed when element 0 lies between VRESUME and SPAN; an inactive one is
treated by ZERO. -/
def moveSpan (core : BitVec 8) (op : Nat) (w : VWord) (fp : Bool) (put : State → Nat → State) (s : State) : Res :=
  onSpan core 0xD op w s (fun x => spanFits x w && !w.scal && gangAligned w.vs2 (gangOf w) && (!fp || (fpOfEw w).isSome)) fun s =>
    let c := core.toNat
    let x := s.core c
    let s :=
      if x.spanLen = 0 || x.vresume != 0 then s
      else if x.activeAt w 0 then put s (x.opA w 0) else if w.zero then put s 0 else s
    doneSpan s c x.vresume none

/-- VTOG: G[VD] ← element 0; the bits above EW are open. -/
def execVtog (core : BitVec 8) (w : VWord) (s : State) : Res :=
  moveSpan core 0x26 w false (fun s v => setLow s core.toNat w.vd (ewOf w) v) s
/-- VTOF: F[VD] ← element 0. -/
def execVtof (core : BitVec 8) (w : VWord) (s : State) : Res :=
  moveSpan core 0x27 w true (fun s v => s.modCore core.toNat (fun x => x.setF w.vd (BitVec.ofNat 64 v))) s

/-! ## Mask instructions (R304) -/

/-- K[VD] ← K[VS2] op K[VS1] on bits 0 to SPAN − 1. -/
def maskOp (core : BitVec 8) (op : Nat) (w : VWord) (f : Bool → Bool → Bool) (s : State) : Res :=
  maskSpan core 0xD op w s (fun x => spanFits x w && !w.scal) fun x i =>
    (f (x.maskBit (w.vs2.toNat % 8) i) (x.maskBit (w.vs1.toNat % 8) i), 0)

def execKand (core : BitVec 8) (w : VWord) (s : State) : Res := maskOp core 0x30 w (fun a b => a && b) s
def execKor (core : BitVec 8) (w : VWord) (s : State) : Res := maskOp core 0x31 w (fun a b => a || b) s
def execKxor (core : BitVec 8) (w : VWord) (s : State) : Res := maskOp core 0x32 w (fun a b => a != b) s
def execKandn (core : BitVec 8) (w : VWord) (s : State) : Res := maskOp core 0x33 w (fun a b => a && !b) s

/-- A count over the active set bits of K[VS2] below SPAN, to G[VD]; nothing is written when SPAN is 0. -/
def maskScan (core : BitVec 8) (op : Nat) (w : VWord) (f : List Nat → U64) (s : State) : Res :=
  onSpan core 0xD op w s (fun x => spanFits x w && !w.scal) fun s =>
    let c := core.toNat
    let x := s.core c
    let hits := (x.activeElems w).filter (fun i => x.maskBit (w.vs2.toNat % 8) i)
    let s := if x.spanLen ≤ x.vresume then s else s.modCore c (fun x => x.setG w.vd (f hits))
    doneSpan s c x.vresume none

def execKcount (core : BitVec 8) (w : VWord) (s : State) : Res := maskScan core 0x34 w (fun l => BitVec.ofNat 64 l.length) s
def execKfind (core : BitVec 8) (w : VWord) (s : State) : Res :=
  maskScan core 0x35 w (fun l => match l with | i :: _ => BitVec.ofNat 64 i | [] => BitVec.allOnes 64) s

end Sys2Proof.Machine
end

