-- ==== Sys2Proof/Machine/ZnAsm.lean ====
section
/-! DEFINITION. Zenle's matrix headers and front-stage assembly: ZN_ASSEMBLE and its end, and what JOB_ABORT leaves of its
outputs (R223 to R233, R265, R267, Tables 7.1 to 7.3). -/

namespace Sys2Proof.Machine

/-! ## Reading and writing for Zenle -/

/-- The status under which Zenle reports a failed read: poisoned and lost input is 0x8524. -/
def znStatus (st : Nat) : Nat := if st = 0x8220 || st = 0x8221 then 0x8524 else st

/-- The 64-bit words of a byte string. -/
def words64 (bs : List Byte) : List U64 := (List.range (bs.length / 8)).map (fun i => BitVec.ofNat 64 (fieldLE bs (8 * i) 8))

/-- FP64 words as bytes. -/
def bytes64 (l : List U64) : List Byte := l.flatMap (fun v => leBytes 8 v.toNat)

/-- Read FP64 values. -/
def readF64 (s : State) (va n : Nat) : State × Nat × List Fp :=
  match readVA s agentZenle va (8 * n) with
  | (s, st, bs) => (s, st, (words64 bs).map (fun w => fp64.decode w.toNat))

/-- The first of some ranges that may not be written: its address and status. -/
def State.writeFault (s : State) (l : List (Nat × Nat)) : Option (Nat × Nat) :=
  (l.flatMap (fun r => piecesOf r.1 r.2)).findSome? (fun p =>
    match resolve s p.1 true with | .error st => some (p.1, st) | .ok _ => none)

/-- Each line of a range takes one of some contents, or with `keep` may also stay as it is; which is not given (R265). FREE VALUES
(log 11). -/
def solveLines (s : State) (va : Nat) (keep : Bool) (choices : List (List Byte)) : State :=
  let n := (choices.map List.length).foldl max 0
  (piecesOf va n).foldl (fun s p =>
    let d := s.drawBits
    match choices[d.1.toNat % (choices.length + if keep then 1 else 0)]? with
    | none => d.2
    | some bs => (writeVA d.2 agentZenle p.1 (slice bs (p.1 - va) p.2)).1) s

/-! ## Matrix headers (Table 7.1) -/

/-- The header in 64 bytes. -/
def parseMatHdr (b : List Byte) : MatHdr :=
  { form := fieldLE b 0 1, block := fieldLE b 1 1, rows := fieldLE b 8 8, nnzb := fieldLE b 0x10 8, rowptr := fieldLE b 0x18 8,
    colidx := fieldLE b 0x20 8, values := fieldLE b 0x28 8, pitch := fieldLE b 0x30 8 }

/-- A reserved value in a header (0x8501). -/
def badMatHdr (b : List Byte) : Bool :=
  let h := parseMatHdr b
  1 < h.form || 5 < h.block || (h.form = 1 && h.block != 0) || fieldLE b 2 6 != 0 || fieldLE b 0x38 8 != 0

/-- Rows and columns of a block: 1 to 32. -/
def blockSide (code : Nat) : Nat := 2 ^ code

/-! ## The assembly descriptor and program (Tables 7.2, 7.3) -/

/-- The descriptor in 64 bytes. -/
def parseAsm (b : List Byte) : AsmDesc :=
  { asmId := BitVec.ofNat 32 (fieldLE b 4 4), program := fieldLE b 8 8, count := fieldLE b 0x10 4, dies := fieldLE b 0x14 1,
    block := fieldLE b 0x15 1, nx := fieldLE b 0x18 4, ny := fieldLE b 0x1C 4, nz := fieldLE b 0x20 4, header := fieldLE b 0x28 8,
    rhs := fieldLE b 0x30 8, rowFirst := fieldLE b 0x38 4, rowCount := fieldLE b 0x3C 4 }

/-- Cells of the grid. -/
def AsmDesc.cells (d : AsmDesc) : Nat := d.nx * d.ny * d.nz
/-- VALUE of a completion: ASM_ID, which the completion echoes (R224); the index of a failing record lies above it (R231, log 35). -/
def AsmDesc.echo (d : AsmDesc) (index : Nat := 0) : Nat := d.asmId.toNat + 2 ^ 32 * index
/-- Side of a block. -/
def AsmDesc.b (d : AsmDesc) : Nat := blockSide d.block

/-- The refusal of a descriptor by its own fields: a reserved value, a program length outside 1 to 256, or a grid, row range or
die set that does not exist (log 35). -/
def asmDescFault (b : List Byte) : Nat :=
  let d := parseAsm b
  if fieldLE b 0 2 != 0x20 || fieldLE b 2 2 != 1 || 15 < d.dies || 5 < d.block || fieldLE b 0x16 2 != 0 || fieldLE b 0x24 4 != 0 then 0x8501
  else if d.count = 0 || 256 < d.count then 0x850A
  else if 2 ^ 32 < d.cells || d.cells < d.rowFirst + d.rowCount || d.dies = 0 then 0x8504
  else 0

/-- Code of an entry. -/
def entryKind (e : List Byte) : Nat := fieldLE e 0 1

/-- A signed offset byte. -/
def entryOffset (e : List Byte) (i : Nat) : Int := signedOf 8 (fieldLE e i 1)

/-- Byte ranges of an entry that its kind uses. -/
def entryUses (k : Nat) : List (Nat × Nat) :=
  match k with
  | 1 => [(0, 6), (8, 16)]
  | 2 => [(0, 1), (4, 2), (8, 16)]
  | 3 => [(0, 7), (8, 48)]
  | 4 => [(0, 2), (4, 28)]
  | _ => [(0, 1), (8, 16)]

/-- An entry with a field outside its values, given the lookups defined before it. -/
def badEntry (defined : List Nat) (e : List Byte) : Bool :=
  let k := entryKind e
  let source := fieldLE e 4 1
  let badSource := 2 < source || (source = 2 && !defined.contains (fieldLE e 5 1))
  k = 0 || 5 < k || (List.range 64).any (fun i => e.getD i 0 != 0 && !inFields (entryUses k) i) ||
  (k = 1 && (badSource || [1, 2, 3].any (fun i => entryOffset e i < -8 || 7 < entryOffset e i))) ||
  (k = 2 && badSource) ||
  (k = 3 && (List.range 6).any (fun f => 2 < fieldLE e (1 + f) 1)) ||
  (k = 4 && (15 < fieldLE e 1 1 || fieldLE e 4 4 < 2 || 4096 < fieldLE e 4 4))

/-- Entries in list order, with the lookups defined so far. -/
def badEntries : List Nat → List (List Byte) → Bool
  | _, [] => false
  | defined, e :: r => badEntry defined e || badEntries (if entryKind e = 4 then fieldLE e 1 1 :: defined else defined) r

/-- Entries of a kind. -/
def kindCount (l : List (List Byte)) (k : Nat) : Nat := (l.filter (fun e => entryKind e == k)).length

/-- A program that R226 refuses. -/
def badProgram (l : List (List Byte)) : Bool :=
  badEntries [] l || 27 < kindCount l 1 || 1 < kindCount l 2 || 1 < kindCount l 3 || 16 < kindCount l 4 || 4 < kindCount l 5

/-- ZN_ASSEMBLE: the descriptor and its program are read and checked at acceptance; the assemblers then work until ASSEMBLY_DONE. -/
def execZnAssemble (c : CmdCtx) (desc : U64) (s : State) : Res :=
  let program := match readVA s agentHost desc.toNat 64 with
    | (_, 0, bs) => ((parseAsm bs).program, 64 * min 256 (parseAsm bs).count)
    | _ => (0, 0)
  if s.rangeHeld desc.toNat 64 || s.rangeHeld program.1 program.2 then .next s
  else onRing s c 0x0030 [opnd 8 8 desc.toNat] fun s =>
    match readVA s agentHost desc.toNat 64 with
    | (s, 0, bs) =>
      let d := parseAsm bs
      if asmDescFault bs != 0 then finish s c (asmDescFault bs) d.echo
      else match readVA s agentZenle d.program (64 * d.count) with
        | (s, 0, ps) =>
          let entries := (List.range d.count).map (fun i => slice ps (64 * i) 64)
          if badProgram entries then finish s c 0x850A d.echo
          else
            let l := s.zn.assemblies ++ [{ desc := d, cmd := c, entries := entries }]
            markStarted { s with zn := { s.zn with assemblies := l } } c
        | (s, st, _) => finish s c (znStatus st) d.echo
    | (s, st, _) => finish s c st 0

/-! ## The grid (R225, R229, R230) -/

/-- Index of a cell. -/
def AsmDesc.cell (d : AsmDesc) (i j k : Nat) : Nat := i + d.nx * (j + d.ny * k)

/-- Coordinates of a cell. -/
def AsmDesc.coords (d : AsmDesc) (c : Nat) : List Nat := [c % d.nx, c / d.nx % d.ny, c / d.nx / d.ny]

/-- Where a stencil point of a cell lies: a cell of the grid, or beyond the face that decides its treatment. -/
inductive StencilPoint where
  | cell (c : Nat)
  | face (f : Nat)
  deriving DecidableEq, Repr

/-- The faces that a point crosses, in the order −x, +x, −y, +y, −z, +z. -/
def crossedFaces (p : List Int) (extent : List Nat) : List Nat :=
  (List.range 3).flatMap (fun a =>
    (if p.getD a 0 < 0 then [2 * a] else []) ++ (if (extent.getD a 0 : Int) ≤ p.getD a 0 then [2 * a + 1] else []))

/-- A stencil point under the modes of the faces; beyond a periodic face it wraps modulo the extent. -/
def AsmDesc.point (d : AsmDesc) (modes : List Nat) (c : Nat) (off : List Int) : StencilPoint :=
  let extent := [d.nx, d.ny, d.nz]
  let p := List.zipWith (fun (x : Nat) (o : Int) => (x : Int) + o) (d.coords c) off
  let w := List.zipWith (fun (x : Int) (n : Nat) => (x % (n : Int)).toNat) p extent
  match crossedFaces p extent with
  | f :: _ => if modes.getD f 0 = 2 then .cell (d.cell (w.getD 0 0) (w.getD 1 0) (w.getD 2 0)) else .face f
  | [] => .cell (d.cell (w.getD 0 0) (w.getD 1 0) (w.getD 2 0))

/-- The pattern of a block row (R229). -/
def AsmDesc.pattern (d : AsmDesc) (modes : List Nat) (offs : List (List Int)) (c : Nat) : List Nat :=
  offs.foldl (fun l o => match d.point modes c o with | .cell t => natInsert l t | .face _ => l) [c]

/-! ## Coefficient sources (R227, R228) -/

/-- A lookup table. -/
structure AsmLookup where
  xMin   : Fp
  xMax   : Fp
  values : List Fp
  deriving DecidableEq, Repr

/-- The lookup of a value. -/
def AsmLookup.value (k : AsmLookup) (x : Fp) : Fp :=
  let n := k.values.length
  let h := f64 ((k.xMax.sub k.xMin).div (Fp.ofInt ((n : Int) - 1)))
  let t := f64 ((x.sub k.xMin).div h)
  if x.isNan || t.isNan then .nan
  else
    let top := Fp.ofInt ((n : Int) - 1)
    let t := if t.lt Fp.zero then Fp.zero else if top.lt t then top else t
    let q := min (match t with | .fin _ m e => if 0 ≤ e then m * 2 ^ e.toNat else m / 2 ^ (-e).toNat | _ => 0) (n - 2)
    let v := k.values.getD q Fp.zero
    let rise := f64 ((k.values.getD (q + 1) Fp.zero).sub v)
    f64 (((t.sub (Fp.ofInt q)).mul rise).add v)

/-- A coefficient source as read: BASE, FIELD from the first assembled cell on, and its lookup. -/
structure AsmSource where
  base   : List Fp
  field  : Option (List Fp)
  lookup : Option AsmLookup
  deriving DecidableEq, Repr

/-- The factor g of an assembled cell, counted from the first one (R227). -/
def AsmSource.factor (x : AsmSource) (r : Nat) : Fp :=
  match x.field with
  | none => Fp.one
  | some f => match x.lookup with | none => f.getD r Fp.zero | some k => k.value (f.getD r Fp.zero)

/-- The coefficient block of a cell, each element rounded once. -/
def AsmSource.coef (x : AsmSource) (r : Nat) : List Fp := x.base.map (fun v => f64 (v.mul (x.factor r)))

/-- One pair of an observation: cell, variable and weight. -/
structure ObsPair where
  cell : Nat
  var  : Nat
  h    : Fp
  deriving DecidableEq, Repr

/-- An observation record (R231). -/
structure ObsRec where
  y     : Fp
  w     : Fp
  p     : Nat
  pairs : List ObsPair
  deriving DecidableEq, Repr

/-- A record in 152 bytes. -/
def parseObs (b : List Byte) : ObsRec :=
  let p := fieldLE b 16 4
  { y := fp64.decode (fieldLE b 0 8), w := fp64.decode (fieldLE b 8 8), p := p,
    pairs := (List.range (min p 8)).map (fun i =>
      ⟨fieldLE b (24 + 16 * i) 4, fieldLE b (24 + 16 * i + 4) 1, fp64.decode (fieldLE b (24 + 16 * i + 8) 8)⟩) }

/-! ## The program as read -/

/-- What the assemblers work from: stencil entries, the right-hand side, faces and observations. -/
structure AsmInput where
  stencils : List (List Int × AsmSource)
  rhs      : Option AsmSource
  modes    : List Nat
  faces    : List (List Fp)        -- boundary values of the Dirichlet faces
  obs      : List (List ObsRec)
  lookups  : List (Nat × AsmLookup)
  status   : Nat
  deriving DecidableEq, Repr

/-- Read a coefficient source. -/
def readSource (s : State) (d : AsmDesc) (x : AsmInput) (e : List Byte) (n : Nat) : State × Nat × AsmSource :=
  match readF64 s (fieldLE e 8 8) n with
  | (s, 0, base) =>
    if fieldLE e 4 1 = 0 then (s, 0, ⟨base, none, none⟩)
    else match readF64 s (fieldLE e 0x10 8 + 8 * d.rowFirst) d.rowCount with
      | (s, st, f) => (s, st, ⟨base, some f, if fieldLE e 4 1 = 2 then kvGet x.lookups (fieldLE e 5 1) else none⟩)
  | (s, st, base) => (s, st, ⟨base, none, none⟩)

/-- Read the values of the Dirichlet faces. -/
def readFaces (s : State) (d : AsmDesc) (e : List Byte) : State × Nat × List (List Fp) :=
  (List.range 6).foldl (fun a f =>
    if a.2.1 != 0 || fieldLE e (1 + f) 1 != 0 then (a.1, a.2.1, a.2.2 ++ [[]])
    else match readF64 a.1 (fieldLE e (8 + 8 * f) 8) d.b with
      | (s, st, v) => (s, st, a.2.2 ++ [v])) (s, 0, [])

/-- Read what an entry names. -/
def readAsmEntry (d : AsmDesc) (a : State × AsmInput) (e : List Byte) : State × AsmInput :=
  let s := a.1
  let x := a.2
  if x.status != 0 then a
  else match entryKind e with
    | 1 => match readSource s d x e (d.b * d.b) with
      | (s, st, c) => (s, { x with status := st, stencils := x.stencils ++ [([entryOffset e 1, entryOffset e 2, entryOffset e 3], c)] })
    | 2 => match readSource s d x e d.b with
      | (s, st, c) => (s, { x with status := st, rhs := some c })
    | 3 => match readFaces s d e with
      | (s, st, v) => (s, { x with status := st, modes := (List.range 6).map (fun f => fieldLE e (1 + f) 1), faces := v })
    | 4 => match readF64 s (fieldLE e 0x18 8) (fieldLE e 4 4) with
      | (s, st, v) =>
        let k : AsmLookup := { xMin := fp64.decode (fieldLE e 8 8), xMax := fp64.decode (fieldLE e 0x10 8), values := v }
        (s, { x with status := st, lookups := kvSet x.lookups (fieldLE e 1 1) k })
    | _ => match readVA s agentZenle (fieldLE e 8 8) (152 * fieldLE e 0x10 8) with
      | (s, st, bs) => (s, { x with status := st, obs := x.obs ++ [(List.range (fieldLE e 0x10 8)).map (fun i => parseObs (slice bs (152 * i) 152))] })

/-- Read a program. Without a BOUNDARY entry the faces are Dirichlet faces whose values the manual does not give. FREE VALUES (log 35). -/
def readProgram (s : State) (a : Assembly) : State × AsmInput :=
  let faces := (List.range 6).map (fun f => (List.range a.desc.b).map (fun i => fp64.decode (Config.freeBits (s.free + 32 * f + i)).toNat))
  a.entries.foldl (readAsmEntry a.desc) ({ s with free := s.free + 192 },
    { stencils := [], rhs := none, modes := List.replicate 6 0, faces := faces, obs := [], lookups := [], status := 0 })

/-! ## Assembling (R231, R232) -/

/-- A contribution to an element of a block row: matrix element (i, j) of a column's block, or right-hand side element i. -/
inductive AsmTerm where
  | mat (col i j : Nat) (v : Fp)
  | rhs (i : Nat) (v : Fp)
  deriving DecidableEq, Repr

/-- The pattern of a row under a program. -/
def AsmInput.cols (x : AsmInput) (d : AsmDesc) (c : Nat) : List Nat := d.pattern x.modes (x.stencils.map Prod.fst) c

/-- What a stencil entry contributes to a row. -/
def AsmInput.stencilTerms (x : AsmInput) (d : AsmDesc) (c : Nat) (e : List Int × AsmSource) : List AsmTerm :=
  let coef := e.2.coef (c - d.rowFirst)
  let block (t : Nat) : List AsmTerm := coef.mapIdx (fun k v => .mat t (k / d.b) (k % d.b) v)
  match d.point x.modes c e.1 with
  | .cell t => block t
  | .face f =>
    if x.modes.getD f 0 = 1 then block c
    else coef.mapIdx (fun k v => .rhs (k / d.b) ((v.mul ((x.faces.getD f []).getD (k % d.b) Fp.zero)).neg))

/-- What an observation record contributes to a row: its pairs in record order. -/
def ObsRec.terms (o : ObsRec) (c : Nat) : List AsmTerm :=
  o.pairs.flatMap (fun r =>
    if r.cell != c then []
    else o.pairs.map (fun q => .mat q.cell r.var q.var ((o.w.mul r.h).mul q.h)) ++ [.rhs r.var ((o.w.mul r.h).mul o.y)])

/-- The contributions to a row, in the order of R232. -/
def AsmInput.terms (x : AsmInput) (d : AsmDesc) (c : Nat) : List AsmTerm :=
  x.stencils.flatMap (x.stencilTerms d c) ++
  (match x.rhs with | some e => (e.coef (c - d.rowFirst)).mapIdx (fun i v => .rhs i v) | none => []) ++
  x.obs.flatMap (fun t => t.flatMap (fun o => o.terms c))

/-- A sum that starts at +0, one rounding for each contribution. -/
def chainSum (l : List Fp) : Fp := l.foldl (fun a v => f64 (a.add v)) Fp.zero

/-- A matrix element of a row. -/
def matElem (l : List AsmTerm) (col i j : Nat) : Fp :=
  chainSum (l.filterMap (fun t => match t with | .mat c i' j' v => if c = col && i' = i && j' = j then some v else none | .rhs .. => none))

/-- A right-hand side element of a row. -/
def rhsElem (l : List AsmTerm) (i : Nat) : Fp :=
  chainSum (l.filterMap (fun t => match t with | .rhs i' v => if i' = i then some v else none | .mat .. => none))

/-- A record that R231 refuses. -/
def AsmInput.badObs (x : AsmInput) (d : AsmDesc) (o : ObsRec) : Bool :=
  o.p = 0 || 8 < o.p ||
  o.pairs.any (fun r => d.cells ≤ r.cell || d.b ≤ r.var || o.pairs.any (fun q => !(x.cols d q.cell).contains r.cell))

/-- The index, in its table, of the first record that fails. -/
def AsmInput.obsFault (x : AsmInput) (d : AsmDesc) : Option Nat :=
  x.obs.findSome? (fun t => let k := t.findIdx (fun o => x.badObs d o); if k < t.length then some k else none)


/-- The outputs of a program, or the status and value that refuse it. -/
def asmOutputs (x : AsmInput) (d : AsmDesc) (h : MatHdr) : Except (Nat × Nat) (List (Nat × List Byte)) :=
  match x.obsFault d with
  | some k => .error (0x850A, k)
  | none =>
    let cells := (List.range d.rowCount).map (fun r => d.rowFirst + r)
    let cols := cells.map (x.cols d)
    let count := (cols.map List.length).sum
    if h.nnzb < count then .error (0x850A, 0)
    else
      let side := List.range d.b
      let ptr := (List.range (d.rowCount + 1)).map (fun r => ((cols.take r).map List.length).sum)
      let rows := cells.map (fun c => (x.cols d c, x.terms d c))
      let word (v : Fp) : List Byte := leBytes 8 (fp64.encode v)
      .ok [(h.rowptr, ptr.flatMap (leBytes 8)), (h.colidx, cols.flatten.flatMap (leBytes 4)),
           (h.values, rows.flatMap (fun r => r.1.flatMap (fun c => side.flatMap (fun i => side.flatMap (fun j => word (matElem r.2 c i j)))))),
           (d.rhs, rows.flatMap (fun r => side.flatMap (fun i => word (rhsElem r.2 i)))),
           (d.header + 0x10, leBytes 8 count)]

/-- An assembly's result: its outputs, or the status and value of its refusal. -/
def runAssembly (s : State) (a : Assembly) : State × Except (Nat × Nat) (List (Nat × List Byte)) :=
  match readVA s agentZenle a.desc.header 64 with
  | (s, 0, hb) =>
    if badMatHdr hb then (s, .error (0x8501, 0))
    else match readProgram s a with
      | (s, x) =>
        if x.status != 0 then (s, .error (znStatus x.status, 0))
        else match asmOutputs x a.desc (parseMatHdr hb) with
          | .error e => (s, .error e)
          | .ok ws => match s.writeFault (ws.map (fun w => (w.1, w.2.length))) with
            | some (va, st) => (xltFault s agentZenle va st, .error (st, 0))
            | none => (s, .ok ws)
  | (s, st, _) => (s, .error (znStatus st, 0))

/-! ## The end -/

/-- Rows that each named die assembles: equal contiguous ranges, the last taking the remainder (R225). -/
def AsmDesc.shares (d : AsmDesc) : List (Nat × Nat × Nat) :=
  let dies := (List.range 4).filter (fun n => bitOf d.dies n)
  let each := d.rowCount / dies.length
  dies.mapIdx (fun i n => (n, d.rowFirst + i * each, if i + 1 = dies.length then d.rowCount - i * each else each))

/-- Ordered pairs of the records of a program that fall on a range of rows. -/
def AsmInput.pairsOn (x : AsmInput) (first count : Nat) : Nat :=
  (x.obs.flatten.map (fun o => (o.pairs.filter (fun r => first ≤ r.cell && r.cell < first + count)).length * o.pairs.length)).sum

/-- The counters of Table 7.11: multiply-adds and clocks are not given. FREE VALUES (log 35). -/
def countAssembly (s : State) (a : Assembly) : State :=
  let x := (readProgram s a).2
  a.desc.shares.foldl (fun s e =>
    let g := zenleBase e.1
    bumpClocks (bump (bump (bumpClocks s g 0) g 1 (x.pairsOn e.2.1 e.2.2)) g 2 e.2.2) g 3) s

/-- A refused assembly has kept its assemblers busy while they checked. FREE VALUES (log 35). -/
def countChecks (s : State) (a : Assembly) : State := a.desc.shares.foldl (fun s e => bumpClocks s (zenleBase e.1) 3) s

/-- A cancelled assembly has done some part of its work. FREE VALUES (log 35). -/
def countPart (s : State) (a : Assembly) : State :=
  let x := (readProgram s a).2
  let some_ (s : State) (g k most : Nat) : State := bump s.drawBits.2 g k (s.drawBits.1.toNat % (most + 1))
  a.desc.shares.foldl (fun s e =>
    let g := zenleBase e.1
    bumpClocks (some_ (some_ (bumpClocks s g 0) g 1 (x.pairsOn e.2.1 e.2.2)) g 2 e.2.2) g 3) s

/-- An assembly leaves the list. -/
def dropAssembly (s : State) (a : Assembly) : State :=
  let l := dropFirst (fun x => x == a) s.zn.assemblies
  { s with zn := { s.zn with assemblies := l } }

/-- Ranges that an assembly reads and writes. -/
def Assembly.ranges (s : State) (a : Assembly) : List (Nat × Nat) :=
  let d := a.desc
  (d.header, 64) ::
  (match runAssembly s a with | (_, .ok ws) => ws.map (fun w => (w.1, w.2.length)) | _ => []) ++
  a.entries.flatMap (fun e =>
    let field := if fieldLE e 4 1 = 0 then [] else [(fieldLE e 0x10 8 + 8 * d.rowFirst, 8 * d.rowCount)]
    match entryKind e with
    | 1 => (fieldLE e 8 8, 8 * d.b * d.b) :: field
    | 2 => (fieldLE e 8 8, 8 * d.b) :: field
    | 3 => (List.range 6).filterMap (fun f => if fieldLE e (1 + f) 1 = 0 then some (fieldLE e (8 + 8 * f) 8, 8 * d.b) else none)
    | 4 => [(fieldLE e 0x18 8, 8 * fieldLE e 4 4)]
    | _ => [(fieldLE e 8 8, 152 * fieldLE e 0x10 8)])

/-- ASSEMBLY_DONE: the outputs are written, NNZB is set and the command completes (R233). -/
def execAssemblyDone (asmId : U32) (s : State) : Res := powered s fun s =>
  match s.zn.assemblies.find? (fun a => a.desc.asmId == asmId) with
  | none => s
  | some a =>
    if s.holding || (a.ranges s).any (fun r => s.rangeHeld r.1 r.2) then s
    else match runAssembly s a with
      | (s, .error e) => finish (dropAssembly (countChecks s a) a) a.cmd e.1 (a.desc.echo e.2)
      | (s, .ok ws) =>
        let s := ws.foldl (fun s w => (writeVA s agentZenle w.1 w.2).1) (countAssembly s a)
        finish (dropAssembly s a) a.cmd 0 a.desc.echo

/-- JOB_ABORT cancels an assembly: each line of its outputs holds what it held or what was formed (R265). -/
def abortAssembly (s : State) (a : Assembly) : State :=
  let s := match runAssembly s a with
    | (s, .ok ws) => ws.foldl (fun s w => solveLines s w.1 true [w.2]) s
    | (s, .error _) => s
  finish (dropAssembly (countPart s a) a) a.cmd 0x8523 a.desc.echo

end Sys2Proof.Machine
end

