-- ==== Sys2Proof/Machine/ZnMat.lean ====
section
/-! DEFINITION. The arithmetic of Zenle's solves: matrices as read, the structure signature, the FP64 residual and norms, and
products, dense factorisation and substitution (R223, R235, R236, R238 to R240, R245, R246, R250, R259, Tables 7.5, 7.6). -/

namespace Sys2Proof.Machine

/-! ## The descriptor (Table 7.4) -/

/-- The descriptor in 256 bytes. -/
def parseSolve (b : List Byte) : SolveDesc :=
  { descType := fieldLE b 0 2, version := fieldLE b 2 2, solveId := BitVec.ofNat 32 (fieldLE b 4 4), method := fieldLE b 8 1,
    precond := fieldLE b 9 1, restartM := fieldLE b 0xA 2, flags := fieldLE b 0xC 4, matrix := fieldLE b 0x10 8, rhs := fieldLE b 0x18 8,
    x := fieldLE b 0x20 8, work := fieldLE b 0x28 8, workBytes := fieldLE b 0x30 8, result := fieldLE b 0x38 8, warm := fieldLE b 0x40 8,
    varId := fieldLE b 0x48 8, conId := fieldLE b 0x50 8, con := fieldLE b 0x58 8, cost := fieldLE b 0x60 8, mCons := fieldLE b 0x68 8,
    deadline := BitVec.ofNat 64 (fieldLE b 0x70 8), reserveNs := fieldLE b 0x78 4, maxIter := fieldLE b 0x7C 4,
    tolRel := BitVec.ofNat 64 (fieldLE b 0x80 8), tolAbs := BitVec.ofNat 64 (fieldLE b 0x88 8), tolInfeas := BitVec.ofNat 64 (fieldLE b 0x90 8),
    chebMin := BitVec.ofNat 64 (fieldLE b 0x98 8), chebMax := BitVec.ofNat 64 (fieldLE b 0xA0 8), firstTile := fieldLE b 0xA8 2,
    tileCount := fieldLE b 0xAA 2, dieMask := fieldLE b 0xAC 1, chebDegree := fieldLE b 0xAD 1, members := fieldLE b 0xAE 2,
    leadRank := fieldLE b 0xB0 4, rowFirst := fieldLE b 0xB8 8, resNonzero := fieldLE b 0xB4 4 != 0 || fieldLE b 0xC0 64 != 0 }

/-- DOT_EACC. -/
def SolveDesc.dotEacc (d : SolveDesc) : Bool := bitOf d.flags 0
/-- FALLBACK_FP64. -/
def SolveDesc.fallback64 (d : SolveDesc) : Bool := bitOf d.flags 1
/-- KEEP_A. -/
def SolveDesc.keepA (d : SolveDesc) : Bool := bitOf d.flags 2
/-- USE_WARM. -/
def SolveDesc.useWarm (d : SolveDesc) : Bool := bitOf d.flags 3
/-- WS_POLICY. -/
def SolveDesc.wsPolicy (d : SolveDesc) : Nat := bitsOf d.flags 5 4
/-- METHOD 0 to 3. -/
def SolveDesc.krylov (d : SolveDesc) : Bool := d.method < 4
/-- METHOD 4 and 5. -/
def SolveDesc.direct (d : SolveDesc) : Bool := d.method = 4 || d.method = 5
/-- METHOD 6 and 7. -/
def SolveDesc.refine (d : SolveDesc) : Bool := d.method = 6 || d.method = 7
/-- METHOD 8. -/
def SolveDesc.interior (d : SolveDesc) : Bool := d.method = 8
/-- A dense matrix. -/
def SolveDesc.dense (d : SolveDesc) : Bool := d.direct || d.refine
/-- Cholesky: only the lower triangle is read (Table 7.5). -/
def SolveDesc.cholesky (d : SolveDesc) : Bool := d.method = 5 || d.method = 7
/-- Arithmetic dies in use. -/
def SolveDesc.dieCount (d : SolveDesc) : Nat := ((List.range 4).filter (fun n => bitOf d.dieMask n)).length
/-- A solve of this member alone. -/
def SolveDesc.alone (d : SolveDesc) : Bool := d.members = 1

/-- A reserved value in a descriptor (R234); a length or a degree is looked at where its method uses it (log 36). -/
def SolveDesc.reservedValue (d : SolveDesc) : Bool :=
  d.descType != 0x21 || d.version != 1 || 4 < d.precond || 2 ^ 7 ≤ d.flags || d.wsPolicy = 3 || d.resNonzero ||
  15 < d.dieMask || d.members = 0 || 64 < d.members || d.maxIter = 0 ||
  (d.method = 2 && (d.restartM < 2 || 256 < d.restartM)) || (d.precond = 4 && (d.chebDegree = 0 || 32 < d.chebDegree))

/-- The combinations of Table 7.5; a METHOD above 8 has none. -/
def SolveDesc.permitted (d : SolveDesc) : Bool :=
  match d.method with
  | 0 | 1 => d.precond != 2
  | 2 | 3 => true
  | m => m ≤ 8 && d.precond = 0

/-- √p of a square count of members. -/
def squareSide (p : Nat) : Option Nat := (List.range 9).find? (fun k => k * k = p)

/-- The refusal of a descriptor by its own fields, in the order of the codes; 0 for none (R220, R221, R234, R235, R252). -/
def solveDescFault (s : State) (d : SolveDesc) : Nat :=
  if d.reservedValue then 0x8501
  else if !d.permitted then 0x8502
  else if d.dieMask = 0 || d.tileCount = 0 || s.logicalTiles < d.firstTile + d.tileCount ||
          (d.direct && (squareSide d.members).isNone) || (d.refine && d.members != 1) then 0x8504
  else if s.strict && d.deadline != 0 then 0x8507
  else if 64 ≤ s.zn.solves.length then 0x850B
  else 0

/-! ## Matrices as read -/

/-- A matrix as read: its header, offsets, column indices and values. -/
structure MatData where
  hdr    : MatHdr
  ptr    : List Nat
  cols   : List Nat
  values : List U64
  deriving DecidableEq, Repr

/-- Block rows as their pairs of block column and position in VALUES. -/
def MatData.blockRow (m : MatData) (r : Nat) : List (Nat × Nat) :=
  let p := m.ptr.getD r 0
  (List.range (m.ptr.getD (r + 1) 0 - p)).map (fun k => (m.cols.getD (p + k) 0, p + k))

/-- A pattern that R223 refuses, whatever the count of block columns. -/
def MatData.malformed (m : MatData) : Bool :=
  let rising (l : List Nat) : Bool := (l.zip (l.drop 1)).all (fun p => p.1 < p.2)
  !(m.ptr.zip (m.ptr.drop 1)).all (fun p => p.1 ≤ p.2) || m.ptr.any (fun p => m.hdr.nnzb < p) ||
  (List.range m.hdr.rows).any (fun r => !rising ((m.blockRow r).map Prod.fst))

/-- The scalar columns of a matrix that its stored blocks reach. -/
def MatData.width (m : MatData) : Nat := (m.cols.map (fun c => c + 1)).foldl max 0 * blockSide m.hdr.block

/-- Scalar rows of a block-sparse matrix: column and value, columns ascending. -/
def MatData.sparseRows (m : MatData) : List (List (Nat × U64)) :=
  let b := blockSide m.hdr.block
  (List.range m.hdr.rows).flatMap (fun r => (List.range b).map (fun i => (m.blockRow r).flatMap (fun e =>
    (List.range b).map (fun j => (e.1 * b + j, m.values.getD (e.2 * b * b + i * b + j) 0)))))

/-- Scalar rows of a dense matrix from its elements; Cholesky takes the upper triangle from the lower one. -/
def denseOf (n : Nat) (lower : Bool) (at_ : Nat → Nat → U64) : List (List (Nat × U64)) :=
  (List.range n).map (fun i => (List.range n).map (fun j => (j, if lower && i < j then at_ j i else at_ i j)))

/-- Scalar rows of a dense matrix read row by row. -/
def denseRows (rows : List (List U64)) (lower : Bool) : List (List (Nat × U64)) :=
  denseOf rows.length lower (fun i j => (rows.getD i []).getD j 0)

/-- The columns of a matrix given by its scalar rows: row and value. -/
def transposed (rows : List (List (Nat × U64))) (n : Nat) : List (List (Nat × U64)) :=
  (List.range n).map (fun j => (rows.mapIdx (fun i row => (row.find? (fun e => e.1 == j)).map (fun e => (i, e.2)))).filterMap id)

/-- Every block of a block-sparse matrix lies on the diagonal (R249). -/
def MatData.blockDiagonal (m : MatData) : Bool := (List.range m.hdr.rows).all (fun r => (m.blockRow r).all (fun e => e.1 = r))

/-- A status that tells of a poisoned or lost line (R333, R334). -/
def poisonStatus (st : Nat) : Bool := st = 0x8220 || st = 0x8221

/-- Read a block-sparse matrix; where only its values cannot be read, its pattern is there. -/
def readSparse (s : State) (h : MatHdr) : State × Nat × MatData :=
  let b := blockSide h.block
  match readVA s agentZenle h.rowptr (8 * (h.rows + 1)) with
  | (s, 0, pb) => match readVA s agentZenle h.colidx (4 * h.nnzb) with
    | (s, 0, cb) => match readVA s agentZenle h.values (8 * b * b * h.nnzb) with
      | (s, st, vb) => (s, st, ⟨h, elemsOf 8 pb (h.rows + 1), elemsOf 4 cb h.nnzb, words64 vb⟩)
    | (s, st, _) => (s, st, ⟨h, [], [], []⟩)
  | (s, st, _) => (s, st, ⟨h, [], [], []⟩)

/-- Read the rows of a dense matrix; of a Cholesky factorisation only the lower triangle. -/
def readDense (s : State) (h : MatHdr) (lower : Bool) : State × Nat × List (List U64) :=
  (List.range h.rows).foldl (fun a r =>
    if a.2.1 != 0 then a
    else match readVA a.1 agentZenle (h.values + r * h.pitch) (8 * (if lower then r + 1 else h.rows)) with
      | (s, st, bs) => (s, st, a.2.2 ++ [words64 bs])) (s, 0, [])

/-- Bytes of a matrix. -/
def MatHdr.bytes (h : MatHdr) : Nat :=
  if h.form = 1 then 8 * h.rows * h.rows
  else 8 * (h.rows + 1) + 4 * h.nnzb + 8 * blockSide h.block * blockSide h.block * h.nnzb

/-- The ranges of a matrix. -/
def MatHdr.ranges (h : MatHdr) : List (Nat × Nat) :=
  if h.form = 1 then (List.range h.rows).map (fun r => (h.values + r * h.pitch, 8 * h.rows))
  else [(h.rowptr, 8 * (h.rows + 1)), (h.colidx, 4 * h.nnzb), (h.values, 8 * blockSide h.block * blockSide h.block * h.nnzb)]

/-! ## The structure signature (R259) -/

/-- What a header and its pattern contribute. -/
def MatData.signed (m : MatData) : List Byte :=
  let h := m.hdr
  leBytes 2 h.form ++ leBytes 2 h.block ++ zeroBytes 4 ++ leBytes 8 h.rows ++ leBytes 8 h.nnzb ++
  (if h.form = 1 then [] else m.ptr.flatMap (leBytes 8) ++ m.cols.flatMap (leBytes 4))

/-- SHAKE256 with a 256-bit output. -/
def sig256 (bs : List Byte) : List Byte := (shake256 bs).take 32

/-- The signature of a solve on one member: its matrix, or for METHOD 8 its constraint count, CON and Q. -/
def ownSignature (d : SolveDesc) (m : MatData) (q : Option MatData) : List Byte :=
  if d.interior then sig256 (leBytes 8 d.mCons ++ m.signed ++ (match q with | some x => x.signed | none => zeroBytes 24))
  else sig256 m.signed

/-! ## A dense matrix over members (R246) -/

/-- Rows of block row or column I of an n × n matrix. -/
def bandLen (n i : Nat) : Nat := min 512 (n - 512 * i)
/-- Block rows, or columns, of an n × n matrix that lie at place g of a side of q members. -/
def bandsAt (n q g : Nat) : List Nat := (List.range ((n + 511) / 512)).filter (fun i => i % q = g)
/-- The scalar rows of those block rows, in the member's own order. -/
def bandRows (n q g : Nat) : List Nat := (bandsAt n q g).flatMap (fun i => (List.range (bandLen n i)).map (fun k => 512 * i + k))

/-- A run of a member's elements: its first element in memory, its row and first column, and its length. -/
structure CellRun where
  place : Nat
  row   : Nat
  col   : Nat
  len   : Nat
  deriving DecidableEq, Repr

/-- A member's blocks, row-major by local block index and each row-major, as runs of one row; blocks at the end are as small as the
matrix leaves them (log 36). -/
def cellRuns (n q gr gc : Nat) : List CellRun :=
  let blocks := (bandsAt n q gr).flatMap (fun i => (bandsAt n q gc).map (fun j => (i, j)))
  (blocks.foldl (fun a b =>
    let w := bandLen n b.2
    let h := bandLen n b.1
    (a.1 + h * w, a.2 ++ (List.range h).map (fun k => ⟨a.1 + k * w, 512 * b.1 + k, 512 * b.2, w⟩))) (0, ([] : List CellRun))).2

/-- Elements that a member holds. -/
def cellCount (n q gr gc : Nat) : Nat := (bandRows n q gr).length * (bandRows n q gc).length

/-- The elements of a run that are read: of a Cholesky factorisation the lower triangle. -/
def CellRun.read (c : CellRun) (lower : Bool) : Nat := if lower then min c.len (c.row + 1 - c.col) else c.len

/-- Read a member's own blocks: its elements in memory order, zero where nothing is read. -/
def readCells (s : State) (values : Nat) (runs : List CellRun) (lower : Bool) : State × Nat × List U64 :=
  runs.foldl (fun a c =>
    if a.2.1 != 0 then a
    else match readVA a.1 agentZenle (values + 8 * c.place) (8 * c.read lower) with
      | (s, st, bs) => (s, st, a.2.2 ++ words64 bs ++ List.replicate (c.len - c.read lower) 0)) (s, 0, [])

/-- Where element (i, j) lies: the solve rank of its member, and its place there. -/
def cellAt (n q i j : Nat) : Nat × Nat :=
  let bi := i / 512
  let bj := j / 512
  let above := (((bandsAt n q (bi % q)).filter (fun k => k < bi)).map (bandLen n)).sum * (bandRows n q (bj % q)).length
  let left := bandLen n bi * (((bandsAt n q (bj % q)).filter (fun k => k < bj)).map (bandLen n)).sum
  (bi % q * q + bj % q, above + left + i % 512 * bandLen n bj + j % 512)

/-! ## Workspace (R236, Table 7.6) -/

/-- Scalar columns that a member reads from others. -/
def outsideColumns (d : SolveDesc) (m : MatData) : Nat :=
  ((m.cols.foldl natInsert []).filter (fun c => c < d.rowFirst || d.rowFirst + m.hdr.rows ≤ c)).length * blockSide m.hdr.block

/-- The bytes that a solve's workspace must hold; `normal` says that METHOD 8 takes the normal-equation path, `cells` counts the local
elements of a dense matrix. -/
def workNeeded (d : SolveDesc) (m : MatData) (n cells : Nat) (normal : Bool) : Nat :=
  let b := blockSide m.hdr.block
  let h := if d.alone then 0 else outsideColumns d m
  let base := match d.method with
    | 0 => 8 * 6 * n + 8 * h
    | 1 => 8 * 10 * n + 8 * h
    | 2 => 8 * (d.restartM + 6) * n + 8 * d.restartM * d.restartM + 8 * h
    | 3 => 8 * 10 * n + 8 * h
    | 4 | 5 => 16 * n + (if d.keepA then 8 * cells else 0)
    | 6 | 7 => n * n * (if bitOf d.flags 6 then 2 else 4) + (if d.fallback64 then 8 * n * n else 0) + 48 * n
    | _ => 8 * (12 * n + 8 * d.mCons) + (if normal && d.mCons ≤ 65536 then 8 * d.mCons * d.mCons else 0)
  let pre := match d.precond with
    | 1 => 8 * n * b
    | 2 | 3 => 8 * m.hdr.nnzb * b * b
    | 4 => 16 * n
    | _ => 0
  base + pre + 0x100000

/-! ## Residuals and norms (R239, R240) -/

/-- The value of FP64 bits. -/
def val64 (w : U64) : Fp := fp64.decode w.toNat
/-- FP64 bits of a value. -/
def word64 (x : Fp) : U64 := BitVec.ofNat 64 (fp64.encode x)

/-- An E-accumulated dot product, rounded once. -/
def eDot (xs ys : List Fp) : Fp := (eaccElement (List.zipWith Fp.mul xs ys) (topExp xs + topExp ys) Fp.one Fp.one).v

/-- A dot product as an FP64 chain of fused multiply-adds in ascending index. -/
def chainDot (xs ys : List Fp) : Fp := fmaDot fp64 xs ys Fp.zero

/-- The correctly rounded square root of a dot product of a vector with itself. -/
def rootOf (x : Fp) : Fp := f64 x.sqrt

/-- The FP64 residual b − Ax of an iterate (R240). -/
def residual64 (mat : List (List (Nat × U64))) (rhs x : List U64) : List U64 :=
  List.zipWith (fun row b =>
    word64 (eDot (val64 b :: row.map (fun e => val64 e.2)) (Fp.one :: row.map (fun e => (val64 (x.getD e.1 0)).neg)))) mat rhs

/-- The E-summed norm of a vector (R240). -/
def eNorm (l : List U64) : U64 := let r := l.map val64; word64 (rootOf (eDot r r))

/-- The norm of the FP64 residual. -/
def residualNorm (mat : List (List (Nat × U64))) (rhs x : List U64) : U64 := eNorm (residual64 mat rhs x)

/-- A matrix-vector product: each scalar row a chain of fused multiply-adds over its columns in ascending order (R238). -/
def matVec (mat : List (List (Nat × U64))) (x : List U64) : List U64 :=
  mat.map (fun row => word64 (chainDot (row.map (fun e => val64 e.2)) (row.map (fun e => val64 (x.getD e.1 0)))))

/-- The elements before tile t's slice of n elements over some tiles. FREE VALUE (log 11). -/
def sliceStart (n tiles t : Nat) : Nat :=
  if tiles ≤ t then n else ((List.range t).map (fun k => min n (Config.znSliceEnd n tiles k))).foldl max 0

/-- One member's partial of a dot product: the tiles' chains over their contiguous slices, added in order (R239). -/
def memberDot (tiles : Nat) (xs ys : List Fp) : Fp :=
  let part (t : Nat) : Fp :=
    let a := sliceStart xs.length tiles t
    let n := sliceStart xs.length tiles (t + 1) - a
    chainDot ((xs.drop a).take n) ((ys.drop a).take n)
  ((List.range (tiles - 1)).map (fun t => part (t + 1))).foldl (fun a p => f64 (a.add p)) (part 0)

/-! ## Dense factorisation (R245) -/

/-- Eliminate column k of the rows below its pivot row: the multiplier is stored, the rest is updated. -/
def luRow (k : Nat) (pivot row : List Fp) : List Fp :=
  let l := f64 ((row.getD k Fp.zero).div (pivot.getD k Fp.zero))
  row.mapIdx (fun j v => if j < k then v else if j = k then l else f64 (v.add ((l.mul (pivot.getD j Fp.zero)).neg)))

/-- The row of the pivot of column k among the remaining rows: largest magnitude, ties to the lowest row; none when every
candidate is zero. -/
def pivotRow (rows : List (List Fp)) (k : Nat) : Option Nat :=
  let mags := rows.map (fun r => (r.getD k Fp.zero).abs)
  (mags.mapIdx (fun i v => (i, v))).foldl (fun best e =>
    if e.2.isZero then best
    else match best with
      | none => some e.1
      | some i => if (mags.getD i Fp.zero).lt e.2 then some e.1 else best) none

/-- LU with row interchanges, each row with its number in A: finished rows and those that remain; or the column without a pivot. -/
def luFrom : Nat → Nat → List (Nat × List Fp) → List (Nat × List Fp) → Except Nat (List (Nat × List Fp))
  | 0, _, upper, rest => .ok (upper ++ rest)
  | f + 1, k, upper, rest =>
    match pivotRow (rest.map Prod.snd) k with
    | none => .error k
    | some i =>
      let p := rest.getD i (0, [])
      let others := (rest.set i (rest.headD (0, []))).drop 1
      luFrom f (k + 1) (upper ++ [p]) (others.map (fun r => (r.1, luRow k p.2 r.2)))

/-- Column k of a Cholesky factor from the columns before it: each row's element, or the failing column. -/
def cholColumn (rows : List (List Fp)) (k : Nat) : Except Nat (List (List Fp)) :=
  let reduced (i : Nat) : Fp :=
    (List.range k).foldl (fun a j => f64 (a.add ((((rows.getD i []).getD j Fp.zero).mul ((rows.getD k []).getD j Fp.zero)).neg)))
      ((rows.getD i []).getD k Fp.zero)
  let d := reduced k
  if d.le Fp.zero then .error k
  else
    let r := f64 d.sqrt
    .ok (rows.mapIdx (fun i row => if i < k then row else row.set k (if i = k then r else f64 ((reduced i).div r))))

/-- Cholesky column by column. -/
def cholFrom : Nat → Nat → List (List Fp) → Except Nat (List (List Fp))
  | 0, _, rows => .ok rows
  | f + 1, k, rows => match cholColumn rows k with | .error c => .error c | .ok rows => cholFrom f (k + 1) rows

/-- The FP64 factor of a dense matrix, each row with its number in A, or its failing column. -/
def factor64 (chol : Bool) (mat : List (List (Nat × U64))) : Except Nat (List (Nat × List Fp)) :=
  let rows := mat.map (fun r => r.map (fun e => val64 e.2))
  if chol then (cholFrom rows.length 0 rows).map (fun l => l.mapIdx (fun i r => (i, r)))
  else luFrom rows.length 0 [] (rows.mapIdx (fun i r => (i, r)))

/-- b less the terms of a row over some columns, one fused multiply-add for each in ascending order (log 11). -/
def lessTerms (b : Fp) (row x : List Fp) : Fp := (List.zipWith Fp.mul row x).foldl (fun a p => f64 (a.add p.neg)) b

/-- Forward substitution: the unit lower factor of LU, or a Cholesky factor's own diagonal. -/
def forwardSub (chol : Bool) (l : List (List Fp)) (b : List Fp) : List Fp :=
  (l.zip b).foldl (fun y e =>
    let v := lessTerms e.2 (e.1.take y.length) y
    y ++ [if chol then f64 (v.div (e.1.getD y.length Fp.zero)) else v]) []

/-- Back substitution with an upper factor. -/
def backSub (u : List (List Fp)) (y : List Fp) : List Fp :=
  (u.zip y).foldr (fun e x =>
    let k := y.length - x.length - 1
    f64 ((lessTerms e.2 (e.1.drop (k + 1)) x).div (e.1.getD k Fp.zero)) :: x) []

/-- The factor applied to a right-hand side by forward and back substitution in FP64 (R245). -/
def solveFactor (chol : Bool) (f : List (Nat × List Fp)) (b : List U64) : List U64 :=
  let rows := f.map Prod.snd
  let y := forwardSub chol rows (f.map (fun r => val64 (b.getD r.1 0)))
  let u := if chol then (List.range rows.length).map (fun j => rows.map (fun r => r.getD j Fp.zero)) else rows
  (backSub u y).map word64

/-! ## Interior-point quantities (R250, R251) -/

/-- The norms of the primal and dual residuals of a point scaled by τ (R240, R250). -/
def primalDual (a q : List (List (Nat × U64))) (b c x y z : List U64) : U64 × U64 :=
  let row (r : List (Nat × U64)) (v : List U64) (neg : Bool) : List (Fp × Fp) :=
    r.map (fun e => (val64 e.2, let w := val64 (v.getD e.1 0); if neg then w.neg else w))
  let dot (l : List (Fp × Fp)) : U64 := word64 (eDot (l.map Prod.fst) (l.map Prod.snd))
  let primal := List.zipWith (fun r v => dot ((val64 v, Fp.one) :: row r x true)) a b
  let cols := transposed a c.length
  let dual := c.mapIdx (fun j v =>
    dot ((val64 v, Fp.one) :: row (q.getD j []) x false ++ row (cols.getD j []) y true ++ [(val64 (z.getD j 0), Fp.one.neg)]))
  (eNorm primal, eNorm dual)

end Sys2Proof.Machine
end

