-- ==== Sys2Proof/Machine/ZnRun.lean ====
section
/-! DEFINITION. How a SOLVE runs: its deadline checks, the values that a method forms, and the end of a unit of work with its
convergence checks (R237 to R258, R264, Tables 7.5, 7.7). -/

namespace Sys2Proof.Machine

/-! ## Parts of the state -/

/-- The first SOLVE with an identifier in a phase. -/
def State.solveIn (s : State) (id : U32) (ph : SolvePhase) : Option Solve :=
  s.zn.solves.find? (fun v => v.desc.solveId == id && v.phase == ph)

/-- Replace a SOLVE by its acceptance number. -/
def setSolve (s : State) (v : Solve) : State :=
  let l := s.zn.solves.map (fun x => if x.number = v.number then v else x)
  { s with zn := { s.zn with solves := l } }

/-- A SOLVE leaves the list. -/
def dropSolve (s : State) (v : Solve) : State :=
  let l := s.zn.solves.filter (fun x => x.number != v.number)
  { s with zn := { s.zn with solves := l } }

/-- The tiles of a SOLVE. -/
def State.solveTiles (s : State) (v : Solve) : List TileId :=
  (tileSet s v.desc.firstTile v.desc.tileCount v.desc.dieMask).map (fun e => e.2.2)

/-- The tiles and the core of a SOLVE are free again. -/
def releaseSolve (s : State) (v : Solve) : State :=
  let s := { s with tiles := s.tiles.map (fun e => if e.2.reserved = some v.number then (e.1, { e.2 with reserved := none }) else e) }
  match v.core with
  | none => s
  | some c => coreTime (s.modCore c (fun x => if x.phase = .held then { x with phase := .idle } else x)) c

/-! ## Deadlines (R253, R254, R256) -/

/-- The estimate E before a residual has been timed: the matrix and three vectors at 3 TB/s for each die, and 20 µs. -/
def Solve.firstEstimate (v : Solve) : Nat :=
  let bytes := v.matBytes + 24 * v.n
  let rate := 3000 * v.desc.dieCount
  (bytes + rate - 1) / rate + 20000

/-- The reserve R in force. -/
def Solve.reserve (v : Solve) : Nat :=
  max v.desc.reserveNs (match v.lastResidual with | some d => (5 * d + 3) / 4 | none => v.firstEstimate)

/-- Work of a duration that starts now ends by the stop point P. -/
def State.beforeStop (s : State) (v : Solve) (duration : Nat) : Bool :=
  v.desc.deadline = 0 || s.tim.now.toNat + duration + v.reserve ≤ v.desc.deadline.toNat

/-- Kinds of units whose durations are compared: iterations, panels of the low-precision factor, FP64 panels, setup panels. -/
def Solve.unitKind (v : Solve) (u : ZnUnit) : Nat :=
  match u with
  | .iteration => 0
  | .panel => if v.desc.refine && !v.fallback then 1 else if v.desc.krylov then 3 else 2
  | .residual => 4

/-- Whether the next unit of a kind may start. Of several members the lead member decides on its clock, and its decision travels with
the reduction that ends the unit before (R254, R264). -/
def mayGo (s : State) (v : Solve) (u : ZnUnit) : State × Bool :=
  let go := s.beforeStop v (kvGetD v.lastUnit (v.unitKind u) 0)
  if v.desc.deadline = 0 then (s, true)
  else if v.desc.alone then (s, go)
  else if s.rank = v.desc.leadRank then (s.emit (.znDecide v.desc.solveId go), go)
  else (s, v.go)

/-! ## Dot products, products and the vectors of a method (R222, R237 to R240) -/

/-- Scalar rows of the solve. -/
def Solve.size (v : Solve) : Nat := v.mat.length

/-- A dot product under R239: exact, or by tiles and then members. -/
def Solve.dot (v : Solve) (xs ys : List U64) : Fp :=
  let on (l : List U64) (p : List Nat) : List Fp := p.map (fun i => val64 (l.getD i 0))
  let tiles := v.desc.tileCount * v.desc.dieCount
  if v.desc.dotEacc then eDot (xs.map val64) (ys.map val64)
  else match v.parts with
    | [] => memberDot tiles (xs.map val64) (ys.map val64)
    | p :: r => r.foldl (fun a q => f64 (a.add (memberDot tiles (on xs q) (on ys q)))) (memberDot tiles (on xs p) (on ys p))

/-- A norm: the correctly rounded root of a dot product. -/
def Solve.norm (v : Solve) (x : List U64) : U64 := word64 (rootOf (v.dot x x))

/-- The norm of an input vector, which is cut into tiles' slices as the vectors of the solve are. -/
def Solve.normOf (v : Solve) (x : List U64) : U64 :=
  if v.desc.interior then ({ v with parts := [] } : Solve).norm x else v.norm x

/-- What a solve's bits do not depend on geometry for (R243). -/
def SolveDesc.anyGeometry (d : SolveDesc) : Bool :=
  d.krylov && d.dotEacc && (d.precond = 0 || d.precond = 1 || (d.precond = 4 && !(d.chebMin = 0 && d.chebMax = 0)))

/-- The choices of the descriptor and, where bits may depend on it, the geometry (R222, R243). -/
def Solve.choices (v : Solve) : List U64 :=
  let d := v.desc
  let w (n : Nat) : U64 := BitVec.ofNat 64 n
  [w d.method, w d.precond, w d.restartM, w (d.flags % 8), w (bitsOf d.flags 6 6), d.chebMin, d.chebMax, w d.chebDegree, w d.mCons] ++
  (if d.anyGeometry then [] else [w d.tileCount, w d.dieMask] ++ v.ranges)

/-- A matrix as a list of words: the length of each row, then its columns and values. -/
def matWords (mat : List (List (Nat × U64))) : List U64 :=
  mat.flatMap (fun r => BitVec.ofNat 64 r.length :: r.flatMap (fun e => [BitVec.ofNat 64 e.1, e.2]))

/-- Vectors that methods form: the direction that is multiplied, BiCGSTAB's second one, the recurrence residual, the iterate, the
shadow residual, the least-squares norm inside a GMRES cycle, the correction of a refinement, the interior point, the
matrix of its normal equations, its gap, and its residuals across members. -/
def vecDirection : Nat := 0
def vecSecond : Nat := 1
def vecResidual : Nat := 2
def vecIterate : Nat := 3
def vecShadow : Nat := 4
def vecCycleNorm : Nat := 5
def vecCorrection : Nat := 6
def vecPoint : Nat := 7
def vecNormal : Nat := 8
def vecGap : Nat := 9
def vecShared : Nat := 10

/-- A vector that the method forms from some inputs. FREE VALUE (log 11). -/
def Solve.vec (v : Solve) (inputs : List (List U64)) (what n : Nat) : List U64 :=
  (List.range n).map (fun i => Config.znVector (v.choices :: inputs) what i)

/-- Half of the preconditioner applied to a vector; none leaves it as it is. FREE VALUE (log 11). -/
def Solve.precondition (v : Solve) (half : Nat) (x : List U64) : List U64 :=
  if v.desc.precond = 0 then x
  else (List.range x.length).map (fun i => Config.znPrecond [v.choices, matWords v.mat, x] half i)

/-- The matrix of a Krylov method's recurrence applied to a vector: preconditioned symmetrically in CG and pipelined CG, on the
right in GMRES and BiCGSTAB (R237, R238). -/
def Solve.operate (v : Solve) (x : List U64) : List U64 :=
  let y := matVec v.mat (v.precondition 0 x)
  if v.desc.method < 2 then v.precondition 1 y else y

/-- A Krylov method starts, or starts again, from the current iterate: with the residual formed, or with that of its own recurrence. -/
def Solve.startFrom (v : Solve) (resid : Option (List U64)) : Solve :=
  let r := match resid with | some r => r | none => v.vec [v.rhs, v.x, matVec v.mat v.x] vecResidual v.size
  { v with hist := [v.rhs, v.x, r], recRes := r, cycle := 0 }

/-- max(TOL_ABS, TOL_REL × ‖b‖) (R241). -/
def Solve.bound (v : Solve) : Fp :=
  let r := f64 ((val64 v.desc.tolRel).mul (val64 v.rhsNorm))
  let a := val64 v.desc.tolAbs
  if a.lt r then r else a

/-- A norm meets the bound. -/
def Solve.meets (v : Solve) (norm : U64) : Bool := (val64 norm).le v.bound

/-- Keep an iterate that beats the best so far; ties go to the earlier one (R242). -/
def Solve.keepBest (v : Solve) (norm : U64) : Solve :=
  if (val64 norm).lt (val64 v.bestNorm) then { v with best := v.x, bestIter := v.iter, bestNorm := norm, breakdowns := 0 } else v

/-- The norm of an iterate's FP64 residual. -/
def Solve.resNorm (v : Solve) (x : List U64) : U64 := residualNorm v.mat v.rhs x

/-! ## Ends (R244, R252, R257) -/

/-- The solve's work is over with a status; SOLVE_END writes its results. -/
def stopSolve (s : State) (v : Solve) (st : Nat) : State := setSolve s { v with phase := .ended, status := BitVec.ofNat 16 st }

/-- A GMRES solve inside a cycle forms its iterate and compares it. -/
def Solve.formIterate (v : Solve) : Solve :=
  if v.desc.method = 2 && v.cycle != 0 then ({ v with x := v.vec v.hist vecIterate v.size }).keepBest v.recNorm else v

/-- A deadline stop: the best iterate, or the starting point; counted as non-deterministic. -/
def deadlineStop (s : State) (v : Solve) : State :=
  let v := v.formIterate
  stopSolve (countNondet s 5) { v with deadlineStop := true } (if v.bestIter = 0 then 0x0151 else 0x0150)

/-- A stop at the best iterate. -/
def stopBest (s : State) (v : Solve) (st : Nat) : State := stopSolve s v.formIterate st

/-- The solve ends at its current iterate. -/
def stopHere (s : State) (v : Solve) (st : Nat) : State := stopSolve s { v with best := v.x, bestIter := v.iter } st

/-- Go on with a unit, or stop at the deadline. -/
def goOn (s : State) (v : Solve) (u : ZnUnit) : State :=
  match mayGo s v u with
  | (s, true) => setSolve s { v with unit := u }
  | (s, false) => deadlineStop s v

/-- After an iteration that did not end the solve by its own result: the deadline comes before the iteration limit (Table 7.7). -/
def nextIteration (s : State) (v : Solve) (u : ZnUnit) (otherwise : State → Solve → State) : State :=
  match mayGo s v u with
  | (s, false) => deadlineStop s v
  | (s, true) => if v.desc.maxIter ≤ v.iter then stopBest s v 0x0152 else otherwise s v

/-! ## Factorisations (R245 to R247, R249, R254) -/

/-- METHOD 8 forms the normal equations and factorises them. -/
def Solve.factorsNormal (v : Solve) : Bool := v.desc.interior && v.normal

/-- Panels of the factorisation that a solve begins: 512 columns, or 512 block rows of a preconditioner's setup. -/
def Solve.panelCount (v : Solve) : Nat :=
  let size := if v.desc.krylov then v.rows else if v.desc.interior then v.desc.mCons else v.size
  (size + 511) / 512

/-- What an interior-point iteration reads: the matrices, b, c and the current point. -/
def Solve.interiorInputs (v : Solve) : List (List U64) := [matWords v.mat, matWords v.qRows, v.rhs, v.cost, v.x]

/-- The matrix of the normal equations of the iteration under way, whose scaling is the method's. FREE VALUE (log 11). -/
def Solve.normalMatrix (v : Solve) : List (List (Nat × U64)) :=
  denseOf v.desc.mCons true (fun i j => Config.znVector (v.choices :: v.interiorInputs) vecNormal (i * v.desc.mCons + j))

/-- The column in which the factorisation under way fails, if any. A factor in low precision, or of a preconditioner, is not given
bit by bit. FREE VALUE (log 11). -/
def Solve.failingColumn (v : Solve) : Option Nat :=
  let of (chol : Bool) (mat : List (List (Nat × U64))) : Option Nat := match factor64 chol mat with | .error c => some c | .ok _ => none
  if v.desc.interior then of true v.normalMatrix
  else if v.desc.direct || v.fallback then of v.desc.cholesky v.mat
  else if v.desc.precond = 2 then none
  else (Config.znPivotFails [v.choices, matWords v.mat]).filter (fun c => c < v.size)

/-- The panel in which a column lies: of 512 columns, or of 512 block rows. -/
def Solve.panelOf (v : Solve) (column : Nat) : Nat :=
  if v.desc.krylov then (column / (if v.rows = 0 then 1 else (v.n + v.rows - 1) / v.rows)) / 512 else column / 512

/-- What the panel that ends meets: the status and the failing column (Table 7.7). -/
def Solve.panelFault (v : Solve) : Option (Nat × Nat) :=
  match v.failingColumn with
  | some c =>
    if v.panelOf c = v.panelsDone then
      some (if v.desc.cholesky || v.desc.interior || v.desc.precond = 3 then 0x8520 else 0x8521, c)
    else none
  | none => none

/-- This member's place on the grid of R246: the side, its row and its column. -/
def Solve.gridPlace (v : Solve) (rank : Nat) : Nat × Nat × Nat :=
  let q := (squareSide v.desc.members).getD 1
  let r := rank - v.desc.leadRank
  (q, r / q, r % q)

/-- The elements of the matrix that this member holds: address, row, first column and count; of a Cholesky factorisation the lower
triangle. -/
def State.ownCells (s : State) (v : Solve) (h : MatHdr) : List (Nat × Nat × Nat × Nat) :=
  if v.desc.alone then (List.range v.size).map (fun i => (h.values + i * h.pitch, i, 0, if v.desc.cholesky then i + 1 else v.size))
  else
    let (q, gr, gc) := v.gridPlace s.rank
    (cellRuns v.size q gr gc).map (fun c => (h.values + 8 * c.place, c.row, c.col, c.read v.desc.cholesky))

/-- The ranges of those elements. -/
def State.ownCellRanges (s : State) (v : Solve) : List (Nat × Nat) :=
  match readVA s agentZenle v.desc.matrix 64 with
  | (_, 0, hb) => (v.desc.matrix, 64) :: (s.ownCells v (parseMatHdr hb)).map (fun c => (c.1, 8 * c.2.2.2))
  | _ => [(v.desc.matrix, 64)]

/-- The factor takes the matrix's place, each member's blocks in its own memory, unless KEEP_A or a refinement keeps A (R245, R246). -/
def storeFactor (s : State) (v : Solve) : State :=
  if !v.desc.direct || v.desc.keepA then s
  else match readVA s agentZenle v.desc.matrix 64, factor64 v.desc.cholesky v.mat with
    | (s, 0, hb), .ok rows => (s.ownCells v (parseMatHdr hb)).foldl (fun s c =>
        let row := (((rows.map Prod.snd).getD c.2.1 []).drop c.2.2.1).take c.2.2.2
        (writeVA s agentZenle c.1 (bytes64 (row.map word64))).1) s
    | (s, _, _), _ => s

/-- What a stop inside an in-place factorisation leaves of A is not given: each element is free. FREE VALUES (log 11). -/
def spoilMatrix (s : State) (v : Solve) : State :=
  if !v.desc.direct || v.desc.keepA || v.unit != .panel then s
  else match readVA s agentZenle v.desc.matrix 64 with
    | (s, 0, hb) => (s.ownCells v (parseMatHdr hb)).foldl (fun s c => spoilRange s agentZenle c.1 (8 * c.2.2.2)) s
    | (s, _, _) => s

/-- A refinement goes on while its residual is above the bound (R247). -/
def refineLoop (s : State) (v : Solve) : State :=
  if v.meets v.rNorm then stopHere s v 0 else nextIteration s v .iteration (fun s v => setSolve s { v with unit := .iteration })

/-- A factorisation is complete: a preconditioner's or an interior point's iteration goes on, a refinement corrects, and a direct
method applies its factor to b (R245). -/
def afterFactor (s : State) (v : Solve) : State :=
  if v.desc.krylov then goOn s v .iteration
  else if v.desc.interior then setSolve s { v with unit := .iteration }
  else if v.desc.refine then refineLoop s v
  else
    let x := match factor64 v.desc.cholesky v.mat with | .ok f => solveFactor v.desc.cholesky f v.rhs | .error _ => v.x
    stopSolve (storeFactor s v) { v with x := x, iter := 1, best := x, bestIter := 1, unit := .iteration } 0

/-- Begin a factorisation. -/
def beginFactor (s : State) (v : Solve) : State :=
  let v := { v with panelsDone := 0, panelsTotal := v.panelCount }
  if v.panelsTotal = 0 then afterFactor s v else goOn s v .panel

/-- A panel ends. -/
def panelEnd (s : State) (v : Solve) : State :=
  let next := { v with panelsDone := v.panelsDone + 1 }
  match v.panelFault with
  | some (st, col) => stopBest (spoilMatrix s v) { next with faultIndex := BitVec.ofNat 64 col } st
  | none =>
    if next.panelsDone < next.panelsTotal then
      match mayGo s next .panel with
      | (s, true) => setSolve s { next with unit := .panel }
      | (s, false) => deadlineStop (spoilMatrix s next) next
    else afterFactor s next

/-! ## Iterations (R241 to R244, R247 to R251) -/

/-- What a Krylov iteration forms: the products that join the history, the recurrence residual and its norm, and the scalars whose
zero, sign or failure ends or restarts the method. -/
structure KrylovStep where
  hist   : List (List U64)
  res    : List U64
  norm   : U64
  curv   : Fp
  rho    : Fp
  omega  : Fp
  deriving DecidableEq, Repr

/-- One iteration: the method picks a direction, which is multiplied (R237, R238), and forms its recurrence residual, whose norm follows
R239; inside a GMRES cycle the least-squares residual serves (R242). -/
def Solve.krylovStep (v : Solve) : KrylovStep :=
  let dir := v.vec v.hist vecDirection v.size
  let prod := v.operate dir
  let hist := v.hist ++ [prod]
  let sec := v.vec hist vecSecond v.size
  let prod2 := v.operate sec
  let hist := if v.desc.method = 3 then hist ++ [prod2] else hist
  let res := v.vec hist vecResidual v.size
  { hist := hist, res := res,
    norm := if v.desc.method = 2 then (v.vec hist vecCycleNorm 1).headD 0 else v.norm res,
    curv := v.dot dir prod,
    rho := v.dot (v.vec (v.hist.take 3) vecShadow v.size) v.recRes,
    omega := f64 ((v.dot prod2 sec).div (v.dot prod2 prod2)) }

/-- A recurrence quantity of the method is NaN or infinite (Table 7.7). -/
def KrylovStep.broken (k : KrylovStep) (method : Nat) : Bool :=
  !(val64 k.norm).isFinite || (method < 2 && !k.curv.isFinite) || (method = 3 && (!k.rho.isFinite || !k.omega.isFinite))

/-- A GMRES cycle that has ended starts the next one from its iterate. -/
def Solve.nextCycle (v : Solve) : Solve := if v.desc.method = 2 && v.desc.restartM ≤ v.cycle then v.startFrom none else v

/-- A Krylov iteration ends. The failing column of a non-positive curvature is not given. FREE VALUE (log 11). -/
def krylovEnd (s : State) (v : Solve) : State :=
  let k := v.krylovStep
  let v := { v with iter := v.iter + 1, cycle := v.cycle + 1, recNorm := k.norm, hist := k.hist, recRes := k.res }
  let formed := v.desc.method != 2 || v.desc.restartM ≤ v.cycle || v.meets v.recNorm
  let v := if formed then ({ v with x := v.vec v.hist vecIterate v.size }).keepBest v.recNorm else v
  if v.meets v.recNorm then setSolve s { v with unit := .residual }
  else if k.broken v.desc.method then stopBest s v 0x8522
  else if v.desc.method < 2 && k.curv.le Fp.zero then stopBest s.drawBits.2 { v with faultIndex := s.drawBits.1 } 0x8520
  else
    let stuck := v.desc.method = 3 && (k.rho.isZero || k.omega.isZero)
    let v := if stuck then { v with breakdowns := v.breakdowns + 1 } else v.nextCycle
    nextIteration s v .iteration (fun s v =>
      if stuck && 3 ≤ v.breakdowns then stopBest s v 0x0154
      else setSolve s (if stuck then { v.startFrom none with unit := .iteration, restarts := v.restarts + 1 } else { v with unit := .iteration }))

/-- The verification of a Krylov iterate by its FP64 residual: a failed one restarts the method from it (R241). -/
def verifyEnd (s : State) (v : Solve) : State :=
  if v.meets (v.resNorm v.x) then stopHere s v 0
  else
    let v := { v.startFrom (some (residual64 v.mat v.rhs v.x)) with failedVer := v.failedVer + 1, restarts := v.restarts + 1 }
    nextIteration s v .iteration (fun s v =>
      if 3 ≤ v.failedVer then stopBest s v 0x0153 else setSolve s { v with unit := .iteration })

/-- A correction of a refinement: by the FP64 factor, or by that in IR_FMT, whose FP32 results the manual does not give bit by bit
(R247). FREE VALUE (log 11). -/
def Solve.correction (v : Solve) : List Fp :=
  let r := residual64 v.mat v.rhs v.x
  if v.fallback then
    match factor64 v.desc.cholesky v.mat with
    | .ok f => (solveFactor v.desc.cholesky f r).map val64
    | .error _ => []
  else (v.vec [matWords v.mat, r] vecCorrection v.size).map (fun w => fp32.decode (w.toNat % 2 ^ 32))

/-- A refinement iteration ends: x = rne64(x + d), and its residual is formed (R247). -/
def refineEnd (s : State) (v : Solve) : State :=
  let d := v.correction
  let v := { v with iter := v.iter + 1, x := v.x.mapIdx (fun i w => word64 (f64 ((val64 w).add (d.getD i Fp.zero)))) }
  let norm := v.resNorm v.x
  let small := (val64 norm).le (f64 ((fp64.decode 0x3FE0000000000000).mul (val64 v.rNorm)))
  let v := ({ v with rNorm := norm, recNorm := norm, slow := if small then 0 else v.slow + 1 }).keepBest norm
  if v.meets norm then stopHere s v 0
  else if !(val64 norm).isFinite then stopBest s v 0x8522
  else if v.slow = 2 && v.desc.fallback64 && !v.fallback then
    let w := { v with fallback := true, slow := 0, panelsDone := 0, panelsTotal := v.panelCount }
    nextIteration s w .panel (fun s v => setSolve s { v with unit := .panel })
  else nextIteration s v .iteration (fun s v =>
    if v.slow = 2 then stopBest s v 0x0153 else setSolve s { v with unit := .iteration })

/-- The residual of the starting point of a refinement is known; its factorisation begins. -/
def refineStart (s : State) (v : Solve) : State :=
  let norm := v.resNorm v.x
  let v := { v with rNorm := norm, bestNorm := norm, recNorm := norm }
  if !(val64 norm).isFinite then stopBest s v 0x8522 else beginFactor s v

/-! ## The interior-point method (R248 to R251) -/

/-- The part of an interior-point X that holds τ, and κ after it (R248). -/
def Solve.tauAt (v : Solve) : Nat := v.start.length - 2

/-- x, y and s of the current point. -/
def Solve.pointParts (v : Solve) : List U64 × List U64 × List U64 :=
  (v.x.take v.n, (v.x.drop v.n).take v.desc.mCons, (v.x.drop (v.n + v.desc.mCons)).take v.n)

/-- The merit of R250 from its three residuals and the norms that scale them. -/
def meritOf (primal dual gap bn cn obj : Fp) : Fp :=
  let part (r n : Fp) : Fp := f64 (r.div (f64 (Fp.one.add n)))
  let m (a b : Fp) : Fp := if a.isNan || b.isNan then .nan else if a.lt b then b else a
  m (m (part primal bn) (part dual cn)) (part gap obj.abs)

/-- The merit of the current point with its primal and dual residuals and its gap, at (x/τ, y/τ, s/τ). The manual does not define the
gap, nor how rows and variables lie on several members. FREE VALUES (log 11). -/
def Solve.measure (v : Solve) : Solve :=
  let tau := val64 (v.x.getD v.tauAt 0)
  let scaled (l : List U64) : List U64 := l.map (fun w => word64 (f64 ((val64 w).div tau)))
  let p := v.pointParts
  let x := scaled p.1
  let free (k : Nat) : U64 := Config.znVector (v.choices :: v.interiorInputs) vecShared k
  let pd := if v.desc.alone then primalDual v.mat v.qRows v.rhs v.cost x (scaled p.2.1) (scaled p.2.2) else (free 0, free 1)
  let gap := Config.znVector (v.choices :: v.interiorInputs) vecGap 0
  let cn := if v.desc.alone then v.normOf v.cost else free 2
  let obj := if v.desc.alone then v.dot v.cost x else val64 (free 3)
  { v with primal := pd.1, dual := pd.2, gap := gap,
           recNorm := word64 (meritOf (val64 pd.1) (val64 pd.2) (val64 gap) (val64 v.rhsNorm) (val64 cn) obj) }

/-- The certificate of primal infeasibility of the current point: y scaled so that bᵀy = 1, and its violation ‖max(0, Aᵀy)‖ (R251). -/
def Solve.primalCert (v : Solve) : Option (List U64 × U64) :=
  let y := v.pointParts.2.1
  let by_ := v.dot v.rhs y
  if !Fp.zero.lt by_ then none
  else
    let ys := y.map (fun w => word64 (f64 ((val64 w).div by_)))
    let excess := (matVec (transposed v.mat v.n) ys).map (fun w => if (val64 w).lt Fp.zero then (0 : U64) else w)
    let viol := v.normOf excess
    if (val64 viol).le (val64 v.desc.tolInfeas) then some (ys, viol) else none

/-- The certificate of dual infeasibility: x ≥ 0 scaled so that cᵀx = −1, and its violation max(‖Ax‖, ‖Qx‖) (R251). -/
def Solve.dualCert (v : Solve) : Option (List U64 × U64) :=
  let x := v.pointParts.1
  let cx := v.dot v.cost x
  if !cx.lt Fp.zero || x.any (fun w => (val64 w).lt Fp.zero || (val64 w).isNan) then none
  else
    let xs := x.map (fun w => word64 (f64 ((val64 w).div cx.neg)))
    let a := v.normOf (matVec v.mat xs)
    let q := v.normOf (matVec v.qRows xs)
    let viol := if (val64 a).lt (val64 q) then q else a
    if (val64 viol).le (val64 v.desc.tolInfeas) then some (xs, viol) else none

/-- The certificate that the current point passes, if any: the X that it leaves, its violation and its status. Over several members
it is free whether one passes, and what it holds. FREE VALUES (log 11). -/
def Solve.certificate (v : Solve) : Option (List U64 × U64 × Nat) :=
  let cleared (lo hi : Nat) (l : List U64) : List U64 := v.x.mapIdx (fun i w => if lo ≤ i && i < hi then l.getD (i - lo) 0 else w)
  let m := v.desc.mCons
  let asPrimal (e : List U64 × U64) : List U64 × U64 × Nat := ((cleared v.n (v.n + m) e.1).mapIdx (fun i w => if i < v.n then 0 else w), e.2, 0x0155)
  let asDual (e : List U64 × U64) : List U64 × U64 × Nat :=
    ((cleared 0 v.n e.1).mapIdx (fun i w => if v.n ≤ i && i < v.n + m then 0 else w), e.2, 0x0156)
  if v.desc.alone then
    match v.primalCert, v.dualCert with
    | some e, _ => some (asPrimal e)
    | none, some e => some (asDual e)
    | none, none => none
  else
    let l := v.vec v.interiorInputs vecShared (5 + v.x.length)
    let e := (l.drop 5, l.getD 4 0)
    if (l.getD 4 0).toNat % 3 = 1 then some (asPrimal e) else if (l.getD 4 0).toNat % 3 = 2 then some (asDual e) else none

/-- An interior-point iteration ends: its point is the method's. FREE VALUE (log 11). -/
def interiorEnd (s : State) (v : Solve) : State :=
  let v := ({ v with iter := v.iter + 1, x := v.vec v.interiorInputs vecPoint v.x.length, spent := 0 }).measure
  let kept := if (val64 v.recNorm).lt (val64 v.bestNorm) then { v.keepBest v.recNorm with merit := v.recNorm, bestRes := [v.primal, v.dual, v.gap] } else v
  let tau := val64 (v.x.getD v.tauAt 0)
  let kappa := val64 (v.x.getD (v.tauAt + 1) 0)
  let most := if Fp.one.lt kappa then kappa else Fp.one
  let small := tau.le (f64 ((val64 v.desc.tolInfeas).mul most))
  let here := { v with merit := v.recNorm, bestRes := [v.primal, v.dual, v.gap] }
  if (val64 v.recNorm).le (val64 v.desc.tolRel) then stopHere s here 0
  else match (if small then v.certificate else none) with
    | some (x, viol, st) => stopHere s { here with x := x, bestRes := [viol, v.dual, v.gap] } st
    | none =>
      if !(val64 v.recNorm).isFinite then stopBest s kept 0x8522
      else nextIteration s kept .iteration (fun s v =>
        if v.factorsNormal then beginFactor s v else setSolve s { v with unit := .iteration })

/-- ZN_UNIT_END: the unit under way ends after a duration, of which an FP64 residual took a part, and the checks decide what follows
(R241, R253, R254). The lead member's decision comes with the reduction (R264). A direct method's panel waits while the
matrix that it overwrites is held (R342). -/
def execZnUnitEnd (solveId : U32) (u : ZnUnit) (report : UnitReport) (s : State) : Res := powered s fun s =>
  match s.solveIn solveId .running with
  | none => s
  | some v =>
    if v.unit != u || (u == .panel && v.desc.direct && !v.desc.keepA && (s.ownCellRanges v).any (fun r => s.rangeHeld r.1 r.2)) then s
    else
      let ns := report.ns.toNat
      let whole := ns + (if u = .iteration then v.spent else 0)
      let timed := u = .iteration && (v.desc.refine || v.desc.interior)
      let v := { v with lastUnit := kvSet v.lastUnit (v.unitKind u) whole, go := report.go,
                        spent := if u = .panel && v.desc.interior then v.spent + ns else v.spent,
                        lastResidual := if u = .residual then some ns else if timed then some report.residual.toNat else v.lastResidual }
      match u with
      | .panel => panelEnd s v
      | .residual => if v.desc.refine then refineStart s v else verifyEnd s v
      | .iteration => if v.desc.krylov then krylovEnd s v else if v.desc.refine then refineEnd s v else interiorEnd s v

end Sys2Proof.Machine
end

