-- ==== Sys2Proof/Machine/Zenle.lean ====
section
/-! DEFINITION. SOLVEs: acceptance, the start with its checks and warm start, the rendezvous of members, the end of a solve with its
record, and JOB_ABORT (R218 to R222, R234, R259 to R266, Tables 7.8, 7.10). -/

namespace Sys2Proof.Machine

/-! ## Acceptance (R219, R221, R234, R266) -/

/-- The record of a refused SOLVE: STATUS, SOLVE_ID and, for 0x8503, WORK_NEEDED. -/
def refusedSolve (s : State) (v : Solve) (st : Nat) : State :=
  let s := (writeRecord s agentZenle v.desc.result (leBytes 2 st)).1
  let s := (writeRecord s agentZenle (v.desc.result + 4) (leBytes 4 v.desc.solveId.toNat)).1
  if st = 0x8503 then (writeRecord s agentZenle (v.desc.result + 0x40) (leBytes 8 v.need)).1 else s

/-- A SOLVE as accepted. -/
def newSolve (s : State) (d : SolveDesc) (raw : List Byte) (c : CmdCtx) : Solve :=
  { desc := d, raw := raw, cmd := c, number := s.zn.nextNumber, phase := .held, core := none, tAccept := s.tim.now, arrived := 0,
    need := 0, rows := 0, n := 0, mat := [], qRows := [], matBytes := 0, rhs := [], cost := [], own := [], parts := [], ranges := [],
    poison := 0, go := true, ownSig := [], signature := [], wsResult := 0, wsMapped := 0, hist := [], recRes := [], cycle := 0, start := [],
    x := [], best := [], bestIter := 0, bestNorm := 0, recNorm := 0, rhsNorm := 0, rNorm := 0, merit := 0, bestRes := [], iter := 0, restarts := 0, failedVer := 0, breakdowns := 0, slow := 0, fallback := false, normal := false, panelsDone := 0, panelsTotal := 0,
    unit := .iteration, status := 0, deadlineStop := false, faultIndex := BitVec.allOnes 64, gap := 0, primal := 0, dual := 0,
    lastUnit := [], spent := 0, lastResidual := none }

/-- ZN_SOLVE: the descriptor is read once; the SOLVE is refused by its fields, or held. -/
def execZnSolve (c : CmdCtx) (desc : U64) (s : State) : Res :=
  if s.rangeHeld desc.toNat 256 then .next s
  else onRing s c 0x0031 [opnd 8 8 desc.toNat] fun s =>
    match readVA s agentHost desc.toNat 256 with
    | (s, 0, bs) =>
      let d := parseSolve bs
      let v := newSolve s d bs c
      let st := solveDescFault s d
      if st != 0 then finish (refusedSolve s v st) c st 0
      else
        let l := s.zn.solves ++ [v]
        markStarted { s with zn := { s.zn with solves := l, nextNumber := s.zn.nextNumber + 1 } } c
    | (s, st, _) => finish s c st 0

/-- A SOLVE that has not run is refused: its record, its completion, its tiles and its core. -/
def refuseSolve (s : State) (v : Solve) (st : Nat) : State :=
  finish (dropSolve (releaseSolve (refusedSolve s v st) v) v) v.cmd st 0

/-! ## Warm starts (R260 to R262) -/

/-- An earlier result record as a warm start reads it: STATUS, METHOD, SIGNATURE, X_VADDR, N, identifiers, M_CONS. -/
structure WarmRec where
  status : Nat
  method : Nat
  sig    : List Byte
  x      : Nat
  n      : Nat
  varId  : Nat
  conId  : Nat
  mCons  : Nat
  deriving DecidableEq, Repr

/-- The record in 192 bytes. -/
def parseWarm (b : List Byte) : WarmRec :=
  { status := fieldLE b 0 2, method := fieldLE b 0x16 1, sig := slice b 0x60 32, x := fieldLE b 0x80 8, n := fieldLE b 0x88 8,
    varId := fieldLE b 0x90 8, conId := fieldLE b 0x98 8, mCons := fieldLE b 0xA0 8 }

/-- A status whose record may start another solve: OK, a warning of R11, or 0x8520 to 0x8522. -/
def WarmRec.usable (w : WarmRec) : Bool :=
  w.status = 0 || (0x100 ≤ w.status && w.status ≤ 0x1FF) || (0x8520 ≤ w.status && w.status ≤ 0x8522)

/-- Values in X of a solve: n, or 2n + M_CONS + 2 (R248). -/
def xLength (interior : Bool) (n m : Nat) : Nat := if interior then 2 * n + m + 2 else n

/-- Entries of a new set of identifiers that an earlier set holds, with the earlier values. -/
def mapIds (old : List (U64 × U64)) (ids : List U64) : List (Option U64) :=
  ids.map (fun i => (old.find? (fun e => e.1 == i)).map Prod.snd)

/-- Values from mapped entries: zero where there is none. -/
def mappedValues (l : List (Option U64)) : List U64 := l.map (fun x => x.getD 0)

/-- The bound and the unit scales of R262 on a used or mapped point; `others` are the x parts of the other members, on which ‖x‖∞
depends. -/
def liftPoint (d : SolveDesc) (n : Nat) (others x : List U64) : List U64 :=
  let big := ((x.take n ++ others).map (fun w => (val64 w).abs)).foldl (fun a v => if a.lt v then v else a) Fp.zero
  let tiny := f64 (Fp.one.div (Fp.ofInt 100000000))
  let low := f64 (tiny.mul (f64 (Fp.one.add big)))
  let s0 := n + d.mCons
  x.mapIdx (fun i w =>
    if s0 + n ≤ i then word64 Fp.one
    else if n ≤ i && i < s0 then w
    else if (val64 w).lt low then word64 low else w)

/-- A cold starting point of zero, or that of METHOD 8 (R248, R260). -/
def coldPoint (d : SolveDesc) (n : Nat) : List U64 :=
  if d.interior then
    let one := word64 Fp.one
    List.replicate n one ++ List.replicate d.mCons 0 ++ List.replicate n one ++ [one, one]
  else List.replicate n 0

/-- What a start gives: the point, WS_RESULT and WS_MAPPED, or the status that refuses it. -/
structure WarmResult where
  x      : List U64
  result : Nat
  mapped : Nat
  status : Nat
  deriving DecidableEq, Repr

/-- A refused start. -/
def warmRefused (st : Nat) : WarmResult := ⟨[], 0, 0, st⟩

/-- Read identifiers: absent ones, a failed read or a repeated identifier refuse the start. -/
def readIds (s : State) (va n : Nat) : State × Nat × List U64 :=
  if va = 0 then (s, 0x8506, [])
  else match readVA s agentZenle va (8 * n) with
    | (s, 0, bs) => let l := words64 bs; (s, if l.Nodup then 0 else 0x8506, l)
    | (s, st, _) => (s, st, [])

/-- Map an earlier iterate by identifiers (R261). -/
def mapWarm (s : State) (d : SolveDesc) (n : Nat) (w : WarmRec) (old : List U64) : State × WarmResult :=
  match readIds s d.varId n with
  | (s, 0, ids) => match readIds s w.varId w.n with
    | (s, 0, oldIds) =>
      let xs := mapIds (oldIds.zip old) ids
      if !d.interior then (s, ⟨mappedValues xs, 2, (xs.filter Option.isSome).length, 0⟩)
      else match readIds s d.conId d.mCons with
        | (s, 0, cids) => match readIds s w.conId w.mCons with
          | (s, 0, oldCids) =>
            let whole := w.method = 8
            let ys := mapIds (if whole then oldCids.zip (old.drop w.n) else []) cids
            let ss := mapIds (if whole then oldIds.zip (old.drop (w.n + w.mCons)) else []) ids
            let l := xs ++ ys ++ ss
            (s, ⟨mappedValues l ++ [0, 0], 2, (l.filter Option.isSome).length, 0⟩)
          | (s, st, _) => (s, warmRefused st)
        | (s, st, _) => (s, warmRefused st)
    | (s, st, _) => (s, warmRefused st)
  | (s, st, _) => (s, warmRefused st)

/-- The starting point: X as given, or under USE_WARM that of an earlier record (R260). -/
def startPoint (s : State) (d : SolveDesc) (n : Nat) (sig : List Byte) : State × WarmResult :=
  if !d.useWarm then
    match readVA s agentZenle d.x (8 * xLength d.interior n d.mCons) with
    | (s, st, bs) => (s, ⟨words64 bs, 0, 0, st⟩)
  else match readVA s agentZenle d.warm 192 with
    | (s, 0, rb) =>
      let w := parseWarm rb
      if !w.usable then (s, warmRefused 0x8506)
      else if w.sig == sig then
        match readVA s agentZenle w.x (8 * xLength d.interior n d.mCons) with
        | (s, st, bs) => (s, ⟨words64 bs, 1, 0, st⟩)
      else if d.wsPolicy = 0 then (s, warmRefused 0x8505)
      else if d.wsPolicy = 2 then (s, ⟨coldPoint d n, 3, 0, 0⟩)
      else match readVA s agentZenle w.x (8 * xLength (w.method = 8) w.n w.mCons) with
        | (s, 0, bs) => mapWarm s d n w (words64 bs)
        | (s, st, _) => (s, warmRefused st)
    | (s, st, _) => (s, warmRefused st)

/-! ## The start (R220, R221, R223, R236, R256, R259, R288) -/

/-- What the headers of a solve name. `status` refuses it; `poison` tells of an input that the solve ends on once it has begun (R244);
without `known` the pattern that the signature needs could not be read. -/
structure SolveInput where
  m      : MatData
  q      : Option MatData
  rows   : List (List (Nat × U64))
  qRows  : List (List (Nat × U64))
  n      : Nat
  known  : Bool
  poison : Nat
  status : Nat
  deriving DecidableEq, Repr

/-- A matrix of which nothing is known. -/
def noMatrix : MatData := ⟨⟨0, 0, 0, 0, 0, 0, 0, 0⟩, [], [], []⟩

/-- A failed input: a poisoned or lost line lets the solve begin, any other failure refuses it. -/
def badInput (st : Nat) : SolveInput :=
  ⟨noMatrix, none, [], [], 0, false, if poisonStatus st then st else 0, if poisonStatus st then 0 else st⟩

/-- Read a header: a reserved value is 0x8501, a form that the method does not take 0x8502. -/
def readHeader (s : State) (va : Nat) (dense : Bool) : State × Nat × MatHdr :=
  match readVA s agentZenle va 64 with
  | (s, 0, hb) =>
    let h := parseMatHdr hb
    (s, if badMatHdr hb then 0x8501 else if (h.form = 1) != dense then 0x8502 else if 2 ^ 32 < h.rows then 0x8504 else 0, h)
  | (s, st, _) => (s, st, ⟨0, 0, 0, 0, 0, 0, 0, 0⟩)

/-- The status that refuses a block-sparse matrix as read: a read that failed, or a malformed pattern. -/
def sparseFault (st : Nat) (m : MatData) : Nat :=
  if st != 0 && !poisonStatus st then st else if (st = 0 || !m.ptr.isEmpty) && m.malformed then 0x850C else 0

/-- What a block-sparse matrix gives as read with a status. -/
def sparseInput (st : Nat) (m : MatData) : SolveInput :=
  ⟨m, none, if st = 0 then m.sparseRows else [], [], m.hdr.rows * blockSide m.hdr.block, st = 0 || !m.ptr.isEmpty,
   if poisonStatus st then st else 0, sparseFault st m⟩

/-- Read a block-sparse matrix by its header's address. -/
def readMatrix (s : State) (va : Nat) : State × SolveInput :=
  match readHeader s va false with
  | (s, 0, h) => match readSparse s h with | (s, st, m) => (s, sparseInput st m)
  | (s, st, _) => (s, badInput st)

/-- Read the matrices of METHOD 8: CON, and Q unless it is absent; its variables are Q's rows, or as many as CON reaches (log 36). -/
def readInterior (s : State) (d : SolveDesc) : State × SolveInput :=
  match readMatrix s d.con with
  | (s, a) =>
    let far := 2 ^ 32 * blockSide a.m.hdr.block < d.mCons
    if a.status != 0 then (s, a)
    else if far then (s, { a with status := 0x8504 })
    else if d.matrix = 0 then (s, { a with n := a.m.width })
    else match readMatrix s d.matrix with
      | (s, q) =>
        let poison := if a.poison != 0 then a.poison else q.poison
        (s, { a with q := some q.m, qRows := q.rows, n := q.n, known := a.known && q.known, poison := poison, status := q.status })

/-- Read the matrix of a solve. The blocks of a dense matrix spread over members are read once the members have met. -/
def readInput (s : State) (d : SolveDesc) : State × SolveInput :=
  if d.interior then readInterior s d
  else if !d.dense then readMatrix s d.matrix
  else match readHeader s d.matrix true with
    | (s, 0, h) =>
      let got (rows : List (List (Nat × U64))) (poison status : Nat) : SolveInput := ⟨⟨h, [], [], []⟩, none, rows, [], h.rows, true, poison, status⟩
      if 65536 * (squareSide d.members).getD 1 < h.rows then (s, got [] 0 0x8504)
      else if d.alone && (h.pitch % 8 != 0 || h.pitch < 8 * h.rows) then (s, got [] 0 0x8501)
      else if !d.alone then (s, got [] 0 0)
      else match readDense s h d.cholesky with
        | (s, 0, l) => (s, got (denseRows l d.cholesky) 0 0)
        | (s, st, _) => (s, got [] (if poisonStatus st then st else 0) (if poisonStatus st then 0 else st))
    | (s, st, _) => (s, badInput st)

/-- The columns of a solve's matrices lie below the count of its scalar rows or variables (R223). -/
def SolveInput.columnsBelow (i : SolveInput) (count : Nat) : Bool :=
  i.m.width ≤ count && (match i.q with | some q => q.width ≤ count | none => true)

/-- A poisoned or lost line of an input ends the solve, which has run, with 0x8524; any other failure refuses it. -/
def inputFault (s : State) (v : Solve) (st : Nat) (x : List U64) : State :=
  if poisonStatus st then stopSolve s { v with start := x, best := x, own := List.range x.length } 0x8524 else refuseSolve s v st

/-- Rows of the members: places in the vectors of the solve, ranges by rank, and the whole matrix, b and starting point (R264). An
interior-point solve keeps its own rows only, since the manual does not say how its vectors lie on several members. -/
def joinMembers (s : State) (v : Solve) (others : List Rendezvous) : Solve :=
  let alone := { v with own := List.range v.start.length }
  if v.desc.alone then alone
  else
    let me : Rendezvous := { rank := BitVec.ofNat 32 s.rank, digest := [], rowFirst := BitVec.ofNat 64 v.desc.rowFirst, rows := BitVec.ofNat 64 v.rows,
                             sig := [], n := v.n, mat := v.mat, cells := [], rhs := v.rhs, start := v.start, go := true }
    let all := (me :: others).mergeSort (fun a b => a.rank.toNat ≤ b.rank.toNat)
    let ranges := all.flatMap (fun m => [m.rowFirst, m.rows])
    if v.desc.interior then { alone with ranges := ranges }
    else if v.desc.krylov then
      let inRows := all.mergeSort (fun a b => a.rowFirst.toNat ≤ b.rowFirst.toNat)
      let first (m : Rendezvous) : Nat := ((inRows.filter (fun x => x.rowFirst.toNat < m.rowFirst.toNat)).map Rendezvous.n).sum
      let places (m : Rendezvous) : List Nat := (List.range m.n).map (fun i => first m + i)
      { v with mat := inRows.flatMap Rendezvous.mat, rhs := inRows.flatMap Rendezvous.rhs, start := inRows.flatMap Rendezvous.start,
               own := places me, parts := all.map places, ranges := ranges }
    else
      let (q, gr, _) := v.gridPlace s.rank
      let n := v.mat.length
      let holder (i : Nat) : Rendezvous := all.getD (i / 512 % q * q) me
      let pick (f : Rendezvous → List U64) : List U64 :=
        (List.range n).map (fun i => (f (holder i)).getD ((bandRows n q (i / 512 % q)).findIdx (fun k => k = i)) 0)
      { v with rhs := pick Rendezvous.rhs, start := pick Rendezvous.start, own := bandRows n q gr,
               parts := (List.range q).map (bandRows n q), ranges := ranges }

/-- The first unit of a solve whose point and inputs are in place (R254, R256). -/
def firstUnit (s : State) (v : Solve) : State :=
  match mayGo s v .residual with
  | (s, false) => deadlineStop s v
  | (s, true) =>
    if v.desc.refine then setSolve s { v with unit := .residual }
    else if (v.desc.krylov || v.desc.interior) && !(val64 v.recNorm).isFinite then stopBest s v 0x8522
    else if v.desc.direct || v.factorsNormal || v.desc.precond = 2 || v.desc.precond = 3 then beginFactor (setSolve s v) v
    else goOn s v .iteration

/-- The norms and the recurrence residual, or the merit, of the starting point (R239, R242, R250). A direct method has no recurrence
norm. FREE VALUE (log 11). -/
def startValues (s : State) (v : Solve) : State × Solve :=
  let v := { v with x := v.start, best := v.start, rhsNorm := v.normOf v.rhs }
  if v.desc.krylov then
    let v := v.startFrom none
    let norm := v.norm v.recRes
    (s, { v with recNorm := norm, bestNorm := norm })
  else if v.desc.interior then
    let v := v.measure
    (s, { v with bestNorm := v.recNorm, merit := v.recNorm, bestRes := [v.primal, v.dual, v.gap] })
  else (s.drawBits.2, { v with recNorm := s.drawBits.1, bestNorm := s.drawBits.1 })

/-- The solve runs: its starting point and its vectors are read, and its first unit starts. -/
def beginSolve (s : State) (v : Solve) (others : List Rendezvous) : State :=
  match startPoint s v.desc v.n v.signature with
  | (s, w) =>
    if w.status != 0 then inputFault s v w.status []
    else
      let xs := others.flatMap (fun m => m.start.take m.n)
      let point := if v.desc.interior && (w.result = 1 || w.result = 2) then liftPoint v.desc v.n xs w.x else w.x
      let v := { v with phase := .running, start := point, x := point, best := point, wsResult := w.result, wsMapped := w.mapped }
      if v.poison != 0 then inputFault s v v.poison point
      else match readVA s agentZenle v.desc.rhs (8 * (if v.desc.interior then v.desc.mCons else v.n)) with
        | (s, 0, bs) => match (if v.desc.interior then readVA s agentZenle v.desc.cost (8 * v.n) else (s, 0, [])) with
          | (s, 0, cs) =>
            let b := startValues s (joinMembers s { v with rhs := words64 bs, cost := words64 cs } others)
            firstUnit b.1 b.2
          | (s, st, _) => inputFault s v st point
        | (s, st, _) => inputFault s v st point

/-- A signature that no read could give. FREE VALUE (log 11). -/
def drawSignature (s : State) : State × List Byte :=
  (List.range 4).foldl (fun a _ => (a.1.drawBits.2, a.2 ++ leBytes 8 a.1.drawBits.1.toNat)) (s, [])

/-- The workspace is large enough, and X, it and the record may be written (R236); else the solve is refused. -/
def withWorkspace (s : State) (v : Solve) (go : State → State) : State :=
  if v.desc.workBytes < v.need then refuseSolve s v 0x8503
  else match s.writeFault [(v.desc.work, v.desc.workBytes), (v.desc.x, 8 * xLength v.desc.interior v.n v.desc.mCons), (v.desc.result, 192)] with
    | some (va, st) => refuseSolve (xltFault s agentZenle va st) v st
    | none => go s

/-- The digest that members exchange. UNINTERPRETED (log 11). -/
def solveDigest (raw : List Byte) : List Byte :=
  let own := [(0x20, 8), (0x28, 16), (0x38, 8), (0x40, 8), (0x48, 16), (0xB8, 8)]
  let agreeing := raw.mapIdx (fun i b => if inFields own i then 0 else b)
  (List.range 32).map (fun i => Config.znDigestByte agreeing i)

/-- The signature pass and the checks that follow it, on a solve that holds its tiles and core. Of several members each sends its
digest and row range, and waits (R263). -/
def openSolve (s : State) (v : Solve) : State :=
  match readInput s v.desc with
  | (s, i) =>
    if i.status != 0 then refuseSolve s { v with rows := i.m.hdr.rows, n := i.n } i.status
    else if v.desc.alone && !i.columnsBelow i.n then refuseSolve s v 0x850C
    else
      let normal := match i.q with | none => true | some q => q.blockDiagonal
      let sig := if i.known then (s, ownSignature v.desc i.m i.q) else drawSignature s
      let s := sig.1
      let v := { v with need := workNeeded v.desc i.m i.n (i.n * i.n) normal, rows := i.m.hdr.rows, n := i.n, mat := i.rows, qRows := i.qRows,
                        poison := i.poison, ownSig := sig.2, signature := sig.2,
                        matBytes := i.m.hdr.bytes + (match i.q with | some q => q.hdr.bytes | none => 0),
                        normal := normal && v.desc.mCons ≤ 65536 }
      if v.desc.alone then withWorkspace s v (fun s => beginSolve s v [])
      else
        let meet (s : State) : State :=
          (setSolve s { v with phase := .rendezvous, arrived := s.tim.now }).emit
            (.znMeet v.desc.solveId (solveDigest v.raw) (BitVec.ofNat 64 v.desc.rowFirst) (BitVec.ofNat 64 v.rows) v.ownSig)
        if v.desc.dense then meet s else withWorkspace s v meet

/-- The lowest-numbered logical core that runs no program and is held by no other SOLVE (R288). -/
def State.freeCore (s : State) : Option Nat :=
  (List.range s.rig.cores.length).find? (fun c =>
    (s.physCore c).isSome && ((s.core c).phase = .idle || (s.core c).phase = .stopped))

/-- Two tile sets share a tile. -/
def setsMeet (a b : SolveDesc) : Bool :=
  (a.dieMask &&& b.dieMask) != 0 && a.firstTile < b.firstTile + b.tileCount && b.firstTile < a.firstTile + a.tileCount

/-- A held SOLVE may start: its tiles are free, and no earlier one that waits names one of them (R220, R221). -/
def State.solveReady (s : State) (v : Solve) : Bool :=
  v.phase == .held &&
  (s.solveTiles v).all (fun t => (s.tile t).running.isNone && (s.tile t).reserved.isNone && !(s.tile t).zeroing) &&
  !s.zn.solves.any (fun w => w.number < v.number && w.phase == .held && setsMeet w.desc v.desc)

/-- Ranges that the start of a solve reads, as its headers give them. -/
def State.solveRanges (s : State) (d : SolveDesc) : List (Nat × Nat) :=
  let hdr (va : Nat) : List (Nat × Nat) := match readVA s agentZenle va 64 with
    | (_, 0, hb) => (va, 64) :: (if d.dense && !d.alone then [] else (parseMatHdr hb).ranges)
    | _ => [(va, 64)]
  let n := (readInput s d).2.n
  let len := 8 * xLength d.interior n d.mCons
  (if d.interior && d.matrix = 0 then [] else hdr d.matrix) ++ (if d.interior then (d.cost, 8 * n) :: hdr d.con else []) ++ [(d.rhs, 8 * n), (d.x, len), (d.result, 192)] ++
  (if d.useWarm then (d.warm, 192) :: (match readVA s agentZenle d.warm 192 with
     | (_, 0, rb) => [((parseWarm rb).x, 8 * xLength ((parseWarm rb).method = 8) (parseWarm rb).n (parseWarm rb).mCons)]
     | _ => []) else [])

/-- SOLVEs that run. -/
def State.solvesRunning (s : State) : Nat := (s.zn.solves.filter (fun v => v.phase != .held)).length

/-- SOLVE_START: the first held SOLVE that may start takes its tiles and a core (R221, R288). -/
def execSolveStart (s : State) : Res := powered s fun s =>
  match s.zn.solves.find? s.solveReady, s.freeCore with
  | some v, some c =>
    if 16 ≤ s.solvesRunning || s.holding || (s.solveRanges v.desc).any (fun r => s.rangeHeld r.1 r.2) then s
    else
      let v := { v with phase := .running, core := some c }
      let s := (s.solveTiles v).foldl (fun s t => s.modTile t (fun x => { x with reserved := some v.number, used := true })) s
      let s := s.modCore c (fun x => { x with phase := .held, used := true })
      openSolve (setSolve s v) v
  | _, _ => s

/-! ## Rendezvous (R223, R246, R263) -/

/-- The ranks of a solve. -/
def Solve.ranks (v : Solve) : List Nat := (List.range v.desc.members).map (fun i => v.desc.leadRank + i)

/-- All members exist, the own one is among them, and they share a crew. -/
def State.oneCrew (s : State) (v : Solve) : Bool :=
  v.ranks.contains s.rank &&
  v.ranks.all (fun r => match s.memberId r with | some i => crewOf i == crewOf s.fabId | none => false)

/-- The row ranges follow one another from 0, without gap or overlap. -/
def rowsCover (l : List (Nat × Nat)) : Bool :=
  let sorted := (l.filter (fun e => e.2 != 0)).mergeSort (fun a b => a.1 ≤ b.1)
  (sorted.foldl (fun a e => match a with | some k => if e.1 = k then some (k + e.2) else none | none => none) (some 0)).isSome

/-- What a member has sent for itself, and what others read of it. -/
def ownRendezvous (s : State) (v : Solve) : Rendezvous :=
  { rank := BitVec.ofNat 32 s.rank, digest := solveDigest v.raw, rowFirst := BitVec.ofNat 64 v.desc.rowFirst, rows := BitVec.ofNat 64 v.rows,
    sig := v.ownSig, n := v.n, mat := v.mat, cells := [], rhs := [], start := [], go := true }

/-- Rows of a dense matrix over a grid of members: what the first grid column's members hold (R246). -/
def gridSize (q : Nat) (all : List Rendezvous) : Nat := ((List.range q).map (fun g => ((all.map (fun m => m.rows.toNat)).getD (g * q) 0))).sum

/-- The members' row ranges fit: blocks of a dense matrix lie on the grid, other rows follow one another. -/
def Solve.rangesFit (v : Solve) (all : List Rendezvous) : Bool :=
  if v.desc.dense then
    let q := (squareSide v.desc.members).getD 1
    let n := gridSize q all
    (List.range all.length).all (fun r => (all.map (fun m => m.rows.toNat)).getD r 0 = (bandRows n q (r / q)).length)
  else rowsCover (all.map (fun m => (m.rowFirst.toNat, m.rows.toNat)))

/-- The column indices of a member's matrices lie below the global count (R223): its block rows', or METHOD 8's variables. -/
def Solve.columnsBelow (v : Solve) (all : List Rendezvous) : Bool :=
  let count := (all.map Rendezvous.n).sum
  v.desc.dense || v.mat.all (fun row => row.all (fun e => e.1 < count)) && v.qRows.all (fun row => row.all (fun e => e.1 < count))

/-- The ranges of a member's own blocks. -/
def State.blockRanges (s : State) (v : Solve) (all : List Rendezvous) : List (Nat × Nat) :=
  let (q, gr, gc) := v.gridPlace s.rank
  match readVA s agentZenle v.desc.matrix 64 with
  | (_, 0, hb) => (v.desc.matrix, 64) ::
      (cellRuns (gridSize q all) q gr gc).map (fun c => ((parseMatHdr hb).values + 8 * c.place, 8 * c.read v.desc.cholesky))
  | _ => [(v.desc.matrix, 64)]

/-- A dense solve reads its own blocks, and with those of the others its matrix, once its size is known (R236, R246). -/
def gatherBlocks (s : State) (v : Solve) (all : List Rendezvous) (go : State → Solve → State) : State :=
  let (q, gr, gc) := v.gridPlace s.rank
  let n := gridSize q all
  if 65536 * q < n then refuseSolve s v 0x8504
  else match readHeader s v.desc.matrix true with
    | (s, 0, h) =>
      let v := { v with need := workNeeded v.desc ⟨h, [], [], []⟩ v.n (cellCount n q gr gc) false,
                        matBytes := 8 * cellCount n q gr gc }
      let runs := cellRuns n q gr gc
      withWorkspace s v fun s =>
        match readCells s h.values runs v.desc.cholesky with
        | (s, st, own) =>
          let cells (r : Nat) : List U64 := if r = gr * q + gc then own else (all.map Rendezvous.cells).getD r []
          let elem (i j : Nat) : U64 := let c := cellAt n q i j; (cells c.1).getD c.2 0
          if st != 0 && !poisonStatus st then refuseSolve s v st
          else go s { v with mat := denseOf n v.desc.cholesky elem, poison := if st != 0 then st else v.poison }
    | (s, st, _) => refuseSolve s v st

/-- ZN_RENDEZVOUS: the other members' digests have come, or the limit of 1 s, or of P, has passed. -/
def execZnRendezvous (solveId : U32) (msgs : List Rendezvous) (expired : Bool) (s : State) : Res := powered s fun s =>
  match s.solveIn solveId .rendezvous with
  | none => s
  | some v =>
    let late := v.arrived.toNat + 1000000000 ≤ s.tim.now.toNat || !s.beforeStop v 0
    let others := v.ranks.filter (fun r => r != s.rank)
    let got := others.filterMap (fun r => msgs.find? (fun m => m.rank.toNat == r))
    let whole := got.length = others.length
    let all := ((ownRendezvous s v) :: got).mergeSort (fun a b => a.rank.toNat ≤ b.rank.toNat)
    if !s.oneCrew v || got.any (fun m => m.digest != solveDigest v.raw) then refuseSolve s v 0x8509
    else if !whole then (if expired && late then refuseSolve s v 0x8509 else s)
    else if !v.rangesFit all then refuseSolve s v 0x8509
    else if !v.columnsBelow all then refuseSolve s v 0x850C
    else
      let go := ((got.find? (fun m => m.rank.toNat == v.desc.leadRank)).map Rendezvous.go).getD true
      let v := { v with signature := sig256 (all.flatMap Rendezvous.sig), go := go }
      if v.desc.dense && (s.blockRanges v all).any (fun r => s.rangeHeld r.1 r.2) then s
      else if v.desc.dense then gatherBlocks s v all (fun s v => beginSolve s v got) else beginSolve s v got

/-! ## The end of a solve (R244, R257, R258, R266) -/

/-- The record does not depend on tiles, dies or members (R243). -/
def Solve.geometryFree (v : Solve) : Bool := v.desc.anyGeometry && !v.deadlineStop

/-- This member's part of a vector of the solve. -/
def Solve.ownPart (v : Solve) (x : List U64) : List U64 := v.own.filterMap (fun i => x[i]?)

/-- The result record (Table 7.8). The interior-point quantities of another method are free values. -/
def solveRecord (v : Solve) (resNorm now : U64) : List Byte :=
  let d := v.desc
  let late := d.deadline != 0 && d.deadline.toNat < now.toNat
  leBytes 2 v.status.toNat ++ leBytes 1 v.wsResult ++
  leBytes 1 (bitAt late 0 + bitAt v.geometryFree 1 + bitAt (v.bestIter = 0) 2) ++ leBytes 4 d.solveId.toNat ++
  leBytes 4 v.iter ++ leBytes 4 v.bestIter ++ leBytes 2 v.restarts ++ leBytes 2 v.panelsDone ++ leBytes 2 v.panelsTotal ++
  leBytes 1 d.method ++ leBytes 1 0 ++ leBytes 8 v.faultIndex.toNat ++ leBytes 8 resNorm.toNat ++ leBytes 8 v.rhsNorm.toNat ++
  leBytes 8 v.recNorm.toNat ++ leBytes 8 v.wsMapped ++ leBytes 8 v.need ++ leBytes 8 v.tAccept.toNat ++ leBytes 8 now.toNat ++
  leBytes 8 (if late then now.toNat - d.deadline.toNat else 0) ++ padTo 32 v.signature ++ leBytes 8 d.x ++ leBytes 8 v.n ++
  leBytes 8 d.varId ++ leBytes 8 d.conId ++ leBytes 8 d.mCons ++ leBytes 8 v.gap.toNat ++ leBytes 8 v.primal.toNat ++ leBytes 8 v.dual.toNat

/-- What a solve leaves in its workspace is not given. FREE VALUES (log 11). -/
def spoilWork (s : State) (v : Solve) : State := spoilRange s agentZenle v.desc.work v.desc.workBytes

/-- The quantities of R250 that a method does not form are free values. -/
def freeInterior (s : State) (v : Solve) : State × Solve :=
  if v.desc.interior then (s, { v with primal := v.bestRes.getD 0 0, dual := v.bestRes.getD 1 0, gap := v.bestRes.getD 2 0 })
  else
    let g := s.drawBits
    let p := g.2.drawBits
    let d := p.2.drawBits
    (d.2, { v with gap := g.1, primal := p.1, dual := d.1 })

/-- Write X, the workspace and the record, raise 0x4501 for a late one, and complete. -/
def endSolve (s : State) (v : Solve) (resNorm : U64) (writeX : Bool) : State :=
  let s := spoilWork s v
  let s := if writeX then (writeVA s agentZenle v.desc.x (bytes64 (v.ownPart v.best))).1 else s
  match freeInterior s v with
  | (s, v) =>
    let s := (writeRecord s agentZenle v.desc.result (solveRecord v resNorm s.tim.now)).1
    let late := v.desc.deadline != 0 && v.desc.deadline.toNat < s.tim.now.toNat
    let src := srcCore (((v.core).bind s.physCore).getD 0)
    let s := if late then raise s 0x4501 src 0 0 else s
    finish (dropSolve (releaseSolve s v) v) v.cmd v.status.toNat 0

/-- RES_NORM: the merit of METHOD 8, the norm that a refinement has formed, or the FP64 residual norm of the returned iterate; with a
poisoned input it cannot be formed. FREE VALUE (log 11). -/
def returnedNorm (s : State) (v : Solve) : State × U64 :=
  if v.status = 0x8524 then (s.drawBits.2, s.drawBits.1)
  else if v.desc.interior then (s, v.merit) else if v.desc.refine && v.bestIter != 0 then (s, v.bestNorm) else (s, v.resNorm v.best)

/-- SOLVE_END: the returned iterate is written, then the record and the completion follow. -/
def execSolveEnd (solveId : U32) (s : State) : Res := powered s fun s =>
  match s.solveIn solveId .ended with
  | none => s
  | some v =>
    if s.holding || s.rangeHeld v.desc.x (8 * (v.ownPart v.best).length) || s.rangeHeld v.desc.result 192 then s
    else match returnedNorm s v with
      | (s, norm) => endSolve s v norm (!v.best.isEmpty)

/-! ## JOB_ABORT (R265) -/

/-- A cancelled solve: one that is held has not started (R563); else each line of X holds that of the starting point or of an iterate,
and no best-iterate field is valid. FREE VALUES (log 11). -/
def abortSolve (s : State) (v : Solve) : State :=
  if v.phase = .held then finish (dropSolve s v) v.cmd 0x8107 0
  else
    let v := { v with status := 0x8523 }
    if v.phase = .rendezvous then finish (dropSolve (releaseSolve (refusedSolve s v 0x8523) v) v) v.cmd 0x8523 0
    else
      let s := solveLines (spoilMatrix s v) v.desc.x false ([v.start, v.x, v.best].map (fun x => bytes64 (v.ownPart x)))
      let k := s.drawBits
      let r := k.2.drawBits
      endSolve r.2 { v with bestIter := k.1.toNat % 2 ^ 32 } r.1 false

/-- JOB_ABORT cancels every assembly and SOLVE. -/
def abortZenle (s : State) : State :=
  let s := s.zn.assemblies.foldl abortAssembly s
  s.zn.solves.foldl abortSolve s

end Sys2Proof.Machine
end

