-- ==== Sys2Proof/Machine/Teardown.lean ====
section
/-! DEFINITION. JOB_ABORT and UNBIND (R36, R37, R110, R125, R265, R276, R289, R290, R347, R349, R352, R396 to R398, R430,
R453, R468, R492, R497, R563). -/

namespace Sys2Proof.Machine

/-! ## The fabric (R396) -/

/-- Host commands whose VC0 requests have no response yet. -/
def State.requestCmds (s : State) : List CmdCtx :=
  let rs := s.fab.tx.flatMap (fun x => x.out ++ x.queued) ++ s.fab.drains.flatMap (fun d => d.held)
  (s.hif.outCmds.map OutCmd.ctx).filter (fun c => rs.any (fun r => r.origin == .host c))

/-- From here on the commands that end let neither a waiting SYNC_OP act nor the member arrive at the stroke barrier. -/
def quietJob (s : State) : State :=
  let arrived := s.stroke.arrived || s.stroke.entered.isSome
  { s with hif := { s.hif with syncOps := [] }, stroke := { s.stroke with arrived := arrived } }

/-- Every outstanding VC0 request completes with 0x831C; those of tiles, cores and checkpoints end with their senders. -/
def failRequests (s : State) : State := s.requestCmds.foldl (fun s c => finish s c 0x831C 0) s

/-- The sequence spaces, windows, replay cache, combining entries, drain state, stores and registrations are cleared. -/
def clearFabric (s : State) : State :=
  { s with fab := { s.fab with
      tx := [], rx := [], replay := [], sets := [], reads := [], cacheWait := [], cacheFull := [], drains := [], drainsOut := [], unresponsive := [],
      recvs := [], unexpected := [], unexpFull := false, msgBusy := [], earlyMsgs := [], bulkRegs := [], bulkCount := [], bulkPuts := [],
      wardRecs := [] } }

/-- Steps 2 to 4 of R396. -/
def abortFabric (s : State) : State :=
  let s := clearFabric (failRequests s)
  raise (raise s 0x4308 (srcFab 0) 0 0) 0x4308 (srcFab 1) 0 0

/-! ## Tiles (R125) -/

/-- For each memory line that a cancelled DMA_OUT has written, whether it stands (R125, R214). FREE CHOICE (log 6). -/
def chooseLines : List (Nat × List Byte × List Byte) → State → List (Nat × Bool) → State × List (Nat × Bool)
  | [], s, known => (s, known)
  | e :: r, s, known =>
    if (kvGet known (e.1 / 128)).isSome then chooseLines r s known
    else chooseLines r s.drawBool.2 (kvSet known (e.1 / 128) s.drawBool.1)

/-- A piece that a cancelled DMA_OUT has written takes its old bytes again, where nothing else has written it since. -/
def undoPiece (s : State) (e : Nat × List Byte × List Byte) : State :=
  match resolve s e.1 true with
  | .error _ => s
  | .ok loc => if s.peekLoc loc e.2.2.length == e.2.2 then writeLoc s loc e.2.1 else s

/-- A transfer is cancelled: each memory line of a local DMA_OUT is written whole or not at all, with the pieces of it that
have been written and those that have not (R125, R214). -/
def cancelDma (s : State) (t : TileId) (d : DmaXfer) : State :=
  if !d.out then s
  else
    let c := chooseLines d.undo s []
    let s := (d.undo.filter (fun e => kvGet c.2 (e.1 / 128) == some false)).reverse.foldl undoPiece c.1
    if d.remote.isSome then s else (straggle s t d c.2 (d.pieces.drop d.next)).1

/-- The address that TILE_STOP_PC takes: the oldest instruction not completed, else the next to dispatch. -/
def Tile.abortPc (x : Tile) : U64 := match x.inflight with | e :: _ => e.pc | [] => x.pc

/-- A tile of the job stops: its record, its launches, and zeroing of its store. -/
def abortTile (s : State) (t : TileId) : State :=
  let x := s.tile t
  let s :=
    if x.running.isNone then s
    else
      let s := (x.inflight.filterMap InFlight.dma).foldl (fun s d => cancelDma s t d) s
      let s := (s.setReg (tileRegs t + 0xC) 0x8638).setReg64 (tileRegs t + 0x10) x.abortPc.toNat
      let s := s.modTile t (fun x => { x with
        inflight := [], loops := [], wait := none, stopping := none, phase := if x.phase = .faulty then .faulty else .stopped })
      endRunning s t 0x8638
  let s := endWaiting s t 0x8638
  if (s.tile t).used then startZeroing s t else s

/-- Every tile. -/
def abortTiles (s : State) : State := (s.tiles.map Prod.fst).foldl abortTile s

/-! ## Steering cores (R289) -/

/-- Each line that the program has written takes its value from before the program or one that a store of the program left
in it. FREE CHOICE (log 33). -/
def undoCore (s : State) (l : List (Nat × List (List Byte))) : State :=
  l.foldl (fun s e => (writeVA s.drawBits.2 agentCore e.1 (e.2.getD (s.drawBits.1.toNat % e.2.length) [])).1) s

/-- A core that runs a program stops and completes it with 0x8685. -/
def abortCore (s : State) (c : Nat) : State :=
  let x := s.core c
  if x.phase != .running then s
  else endProgram (recordStop (coreTime (undoCore s x.undo) c) c 0x8685 x.pc) c .stopped 0x8685 0

/-- Every core. -/
def abortCores (s : State) : State := (s.cores.map Prod.fst).foldl abortCore s

/-! ## Commands (R276, R453, R563) -/

/-- An outstanding STROKE_END completes with 0x8472; STROKE keeps its value. -/
def abortStroke (s : State) : State :=
  match s.stroke.entered with
  | none => s
  | some (c, _) =>
    finish { s with stroke := { s.stroke with entered := none, after := [], arrived := false, slowSent := false, secondRound := false } } c 0x8472 0

/-- Every AUDIT ends with 0x8913. -/
def abortAudits (s : State) : State :=
  s.hif.audits.foldl (fun s k => finish s k.cmd 0x8913 0) { s with hif := { s.hif with audits := [] } }

/-- The job's other accepted commands complete with 0x8107. -/
def abortCommands (s : State) : State :=
  let left := s.hif.outCmds.filter (fun o => jobScope o.opcode)
  let s := { s with hif := { s.hif with copies := [], syncOps := [], tileRuns := [] }, sync := { s.sync with waits := [] } }
  left.foldl (fun s o => finish s o.ctx 0x8107 0) s

/-- Every internal ring is disabled once its accepted commands have completed, and its other entries are discarded. -/
def abortRings (s : State) : State :=
  let sqs := s.hif.sqs.map (fun e => if 64 ≤ e.1 && e.2.state != 0 then (e.1, { e.2 with closing := true, fetched := [] }) else e)
  let s := closeRings { s with hif := { s.hif with sqs := sqs } }
  let cqs := s.hif.cqs.map (fun e => if 64 ≤ e.1 then (e.1, { CompRing.off with held := e.2.held }) else e)
  { s with hif := { s.hif with cqs := cqs } }

/-- Everything that the job has under way ends, after its requests. -/
def cancelWork (s : State) : State :=
  abortRings (abortCommands (abortAudits (abortStroke (abortColls (abortZenle (abortCores (abortTiles s)))))))

/-! ## Checkpoints (R352, R468, R492) -/

/-- Job virtual granules of physical ones. -/
def State.virtualGranules (s : State) (l : List Nat) : List Nat := l.filterMap s.granuleVa

/-- The rollback map (R468): granules copied since the last commit, live and pending ones, those with a lost line; after a
restore that did not end, those of that restore too. -/
def State.rollbackMap (s : State) : List Nat :=
  let lost := (s.mem.marks.filter (fun e => e.2 == .lost)).map (fun e => e.1 / 512)
  let l := s.ckpt.copied ++ s.virtualGranules (s.mem.dirty ++ s.mem.ckptPend ++ s.mem.staging.map Prod.fst ++ lost) ++
    (if s.ckpt.restoring then s.mem.rollback else [])
  l.foldl natInsert []

/-- DROP: the window closes at once; writes that waited for a slot proceed. -/
def dropWindow (s : State) : State :=
  let waiting := s.mem.stalled
  let s := { s with mem := { s.mem with windowOpen := false, ckptPend := [], staging := [], stalled := [] }, ckpt := { s.ckpt with inProgress := none } }
  waiting.foldl (fun s w => performWrite s w.1 w.2) s

/-- The rollback map is kept, the window dropped, and a restore ends. -/
def abortCkpt (s : State) : State :=
  let r := s.rollbackMap
  let s := dropWindow s
  { s with mem := { s.mem with rollback := r, restorePending := [] },
           ckpt := { s.ckpt with restoring := false, fetches := [], requested := false, windowClosed := false, manifestDone := false } }

/-- Report the generations of the own stores with their counts of non-determinism (Table 14.2). -/
def reportStores (s : State) : State :=
  match s.ckptPlan with
  | none => s
  | some p => s.emit (.storesReport ((s.ckpt.buddy ++ [hostSlotOf s p 0, hostSlotOf s p 1]).map (fun x => (x.gen, x.nondet))))

/-! ## The messages -/

/-- A tile after the teardown that replaced its pending row groups: nothing is pending, and what was counted or
hidden in the groups replaced is left behind with them (R130). -/
def Tile.regrouped (x : Tile) : Tile :=
  let gone (line : Nat) : Bool := x.rowPending.contains (line % 24, line / 24 / 32)
  { x with rowPending := [],
           corrected := x.corrected.filter (fun e => !x.rowPending.contains (e.1 / 32, e.1 % 32)),
           latent := x.latent.filter (fun e => !gone (e.1 / 4)),
           poison := x.poison.filter (fun e => !gone e.1) }

/-- What is repaired between jobs: failed units are replaced, DRAM rows repaired, frames withdrawn (R36, R37, R347, R349). -/
def betweenJobs (s : State) : State :=
  let s := replaceAwaiting s
  let s := { s with rig := { s.rig with awaiting := [] }, tiles := s.tiles.map (fun e => (e.1, e.2.regrouped)) }
  withdrawFrames (repairRows s)

/-- A launch that has not come to 'go' completes with 0x8707 (R497). -/
def abandonLaunch (s : State) : State :=
  match s.job with
  | some j => if j.phase = .launched || j.phase = .ready then endLaunching s j 0x8707 else s
  | none => s

/-- The job waits for its next launch. -/
def rewindJob (s : State) : State :=
  match s.job with
  | some j => setJob s { j with phase := .bound, image := none, forwarded := false, childAcks := [], hintPages := [] }
  | none => s

/-- JOB_ABORT from the fabric manager: the new epoch, the fabric, tiles, cores, Zenle, collectives and commands in this
order, then checkpoints and repairs (R396); the woken groups go to ballast (R520). -/
def execJobAbort (src : MgmtSrc) (epoch : U16) (s : State) : Res := onMgmt s src 2 fun s =>
  match s.job with
  | none => dropMsg s
  | some j =>
    if !s.fromFm src then dropMsg s
    else
      let s := cancelWork (abortFabric (quietJob (setJob s { j with epoch := epoch })))
      let s := betweenJobs (abortCkpt s.toBallast)
      reply (reportStores (rewindJob (abandonLaunch s))) 0x11 0

/-- The tiles that the job used zero their stores (R110). -/
def zeroTiles (s : State) : State :=
  (s.tiles.map Prod.fst).foldl (fun s t => if (s.tile t).used then startZeroing s t else s) s

/-- The cores that the job used zero all their registers; a faulty one stays so (R290). -/
def zeroCores (s : State) : State :=
  { s with cores := s.cores.map (fun e => if e.2.used then (e.1, { Core.reset with phase := if e.2.phase = .faulty then .faulty else .idle }) else e) }

/-- UNBIND from the fabric manager: what still runs ends as at a teardown, then stores, registers and counters are cleared. -/
def execUnbind (src : MgmtSrc) (jobTag : U16) (s : State) : Res := onMgmt s src 2 fun s =>
  match s.job with
  | none => dropMsg s
  | some j =>
    if !s.fromFm src || j.tag != jobTag then dropMsg s
    else
      let s := abandonLaunch (dropWindow (cancelWork (clearFabric (failRequests (quietJob s)))))
      reply (clearJob (betweenJobs (zeroCores (zeroTiles s)))) 0x15 0

end Sys2Proof.Machine
end

