-- ==== Sys2Proof/Machine/Dispatch.lean ====
section
/-! DEFINITION. One arm per command: the direct call of its meaning. -/

namespace Sys2Proof.Machine

/-- The effect of a command on everything but the queue. -/
def exec (i : Instr) (s : State) : Host.Outcome State Fault Refusal :=
  match i with
  | .powerUp env => Sys2Proof.Machine.execPowerUp env s
  | .vinOutOfRange => Sys2Proof.Machine.execVinOutOfRange s
  | .vinLoss => Sys2Proof.Machine.execVinLoss s
  | .perstAssert => Sys2Proof.Machine.execPerstAssert s
  | .perstDeassert => Sys2Proof.Machine.execPerstDeassert s
  | .functionLevelReset => Sys2Proof.Machine.execFunctionLevelReset s
  | .hotReset => Sys2Proof.Machine.execHotReset s
  | .hostLinkChanged gen width busMaster => Sys2Proof.Machine.execHostLinkChanged gen width busMaster s
  | .holdWaterAsserted => Sys2Proof.Machine.execHoldWaterAsserted s
  | .holdWaterCleared => Sys2Proof.Machine.execHoldWaterCleared s
  | .ppsInEdge => Sys2Proof.Machine.execPpsInEdge s
  | .flyPresentChange connector seated => Sys2Proof.Machine.execFlyPresentChange connector seated s
  | .bridgeCrcRetry bridge wire => Sys2Proof.Machine.execBridgeCrcRetry bridge wire s
  | .bridgeWireSpared bridge => Sys2Proof.Machine.execBridgeWireSpared bridge s
  | .dieHeartbeat die => Sys2Proof.Machine.execDieHeartbeat die s
  | .dieHeartbeatMissed die => Sys2Proof.Machine.execDieHeartbeatMissed die s
  | .pmcHeartbeat => Sys2Proof.Machine.execPmcHeartbeat s
  | .latchedLowRead off => Sys2Proof.Machine.execLatchedLowRead off s
  | .latchedHighRead off => Sys2Proof.Machine.execLatchedHighRead off s
  | .bar0BadAccess off write => Sys2Proof.Machine.execBar0BadAccess off write s
  | .registerWrite off value => Sys2Proof.Machine.execRegisterWrite off value s
  | .glbSetupLock value => Sys2Proof.Machine.execGlbSetupLock value s
  | .counterClear off value => Sys2Proof.Machine.execCounterClear off value s
  | .memThermMode stack value => Sys2Proof.Machine.execMemThermMode stack value s
  | .tileFlagClr t value => Sys2Proof.Machine.execTileFlagClr t value s
  | .ckptNow value => Sys2Proof.Machine.execCkptNow value s
  | .pwrLimit value => Sys2Proof.Machine.execPwrLimit value s
  | .hifSummaryReq value => Sys2Proof.Machine.execHifSummaryReq value s
  | .pmcRecovCtrl value => Sys2Proof.Machine.execPmcRecovCtrl value s
  | .sqEnable j cfg => Sys2Proof.Machine.execSqEnable j cfg s
  | .sqDisable j => Sys2Proof.Machine.execSqDisable j s
  | .cqEnable j cfg => Sys2Proof.Machine.execCqEnable j cfg s
  | .cqDisable j => Sys2Proof.Machine.execCqDisable j s
  | .evqEnable cfg => Sys2Proof.Machine.execEvqEnable cfg s
  | .bar2Read addr bytes => Sys2Proof.Machine.execBar2Read addr bytes s
  | .bar2Write addr data => Sys2Proof.Machine.execBar2Write addr data s
  | .wake => Sys2Proof.Machine.execWake s
  | .doorbellPoll hostOk => Sys2Proof.Machine.execDoorbellPoll hostOk s
  | .idleEntry => Sys2Proof.Machine.execIdleEntry s
  | .heldCompletionWrite ring hostOk => Sys2Proof.Machine.execHeldCompletionWrite ring hostOk s
  | .msixInterrupt src => Sys2Proof.Machine.execMsixInterrupt src s
  | .internalDoorbellWrite sq index value => Sys2Proof.Machine.execInternalDoorbellWrite sq index value s
  | .nop c => Sys2Proof.Machine.execNop c s
  | .readSummary c out => Sys2Proof.Machine.execReadSummary c out s
  | .phaseMark c phase => Sys2Proof.Machine.execPhaseMark c phase s
  | .memMap c vaddr paddr count attr => Sys2Proof.Machine.execMemMap c vaddr paddr count attr s
  | .memUnmap c vaddr count => Sys2Proof.Machine.execMemUnmap c vaddr count s
  | .copy c src dst bytes => Sys2Proof.Machine.execCopy c src dst bytes s
  | .tileRun c script args firstTile tileCount dieMask options => Sys2Proof.Machine.execTileRun c script args firstTile tileCount dieMask options s
  | .steerRun c entry stack args core => Sys2Proof.Machine.execSteerRun c entry stack args core s
  | .znAssemble c desc => Sys2Proof.Machine.execZnAssemble c desc s
  | .znSolve c desc => Sys2Proof.Machine.execZnSolve c desc s
  | .coll c desc => Sys2Proof.Machine.execColl c desc s
  | .collBatch c header => Sys2Proof.Machine.execCollBatch c header s
  | .collGroup c list group count => Sys2Proof.Machine.execCollGroup c list group count s
  | .strokeEnd c stroke => Sys2Proof.Machine.execStrokeEnd c stroke s
  | .syncOpAdd c value member counter => Sys2Proof.Machine.execSyncOpAdd c value member counter s
  | .syncOpSet c value member counter => Sys2Proof.Machine.execSyncOpSet c value member counter s
  | .syncWait c value counter => Sys2Proof.Machine.execSyncWait c value counter s
  | .msgSend c src tag member bytes queue => Sys2Proof.Machine.execMsgSend c src tag member bytes queue s
  | .msgRecv c buf tag mask bytes queue => Sys2Proof.Machine.execMsgRecv c buf tag mask bytes queue s
  | .bufReg c vaddr bytes key => Sys2Proof.Machine.execBufReg c vaddr bytes key s
  | .bufDereg c key => Sys2Proof.Machine.execBufDereg c key s
  | .bulkPut c src offset lines member xferId key counter => Sys2Proof.Machine.execBulkPut c src offset lines member xferId key counter s
  | .audit c desc => Sys2Proof.Machine.execAudit c desc s
  | .auditExecute c => Sys2Proof.Machine.execAuditExecute c s
  | .attest c nonce out => Sys2Proof.Machine.execAttest c nonce out s
  | .ownerKey c block => Sys2Proof.Machine.execOwnerKey c block s
  | .ownerConfig c block bytes => Sys2Proof.Machine.execOwnerConfig c block bytes s
  | .fwUpdate c image bytes => Sys2Proof.Machine.execFwUpdate c image bytes s
  | .catchNow c => Sys2Proof.Machine.execCatchNow c s
  | .ringIntSq c base doorbell index log2 cq => Sys2Proof.Machine.execRingIntSq c base doorbell index log2 cq s
  | .ringIntCq c base doorbell index log2 notify => Sys2Proof.Machine.execRingIntCq c base doorbell index log2 notify s
  | .ringIntSqDisable c index => Sys2Proof.Machine.execRingIntSqDisable c index s
  | .ringIntCqDisable c index => Sys2Proof.Machine.execRingIntCqDisable c index s
  | .tileScriptStart t => Sys2Proof.Machine.execTileScriptStart t s
  | .instructionCompletion t u => Sys2Proof.Machine.execInstructionCompletion t u s
  | .tileNop t w => Sys2Proof.Machine.execTileNop t w s
  | .endScript t w => Sys2Proof.Machine.execEndScript t w s
  | .loop t w => Sys2Proof.Machine.execLoop t w s
  | .brnz t w => Sys2Proof.Machine.execBrnz t w s
  | .setS t w => Sys2Proof.Machine.execSetS t w s
  | .adds t w => Sys2Proof.Machine.execAdds t w s
  | .mma t w => Sys2Proof.Machine.execMma t w s
  | .dmaIn t w => Sys2Proof.Machine.execDmaIn t w s
  | .dmaOut t w => Sys2Proof.Machine.execDmaOut t w s
  | .dmaTransferDone t => Sys2Proof.Machine.execDmaTransferDone t s
  | .scAdd t w => Sys2Proof.Machine.execScAdd t w s
  | .scSet t w => Sys2Proof.Machine.execScSet t w s
  | .scWait t w => Sys2Proof.Machine.execScWait t w s
  | .scWaitSatisfied w => Sys2Proof.Machine.execScWaitSatisfied w s
  | .waitPoll w => Sys2Proof.Machine.execWaitPoll w s
  | .fence t w => Sys2Proof.Machine.execFence t w s
  | .flagRd t w => Sys2Proof.Machine.execFlagRd t w s
  | .flagClr t w => Sys2Proof.Machine.execFlagClr t w s
  | .eadd t w => Sys2Proof.Machine.execEadd t w s
  | .esub t w => Sys2Proof.Machine.execEsub t w s
  | .emul t w => Sys2Proof.Machine.execEmul t w s
  | .efma t w => Sys2Proof.Machine.execEfma t w s
  | .ediv t w => Sys2Proof.Machine.execEdiv t w s
  | .esqrt t w => Sys2Proof.Machine.execEsqrt t w s
  | .emin t w => Sys2Proof.Machine.execEmin t w s
  | .emax t w => Sys2Proof.Machine.execEmax t w s
  | .eabs t w => Sys2Proof.Machine.execEabs t w s
  | .eneg t w => Sys2Proof.Machine.execEneg t w s
  | .ecmp t w => Sys2Proof.Machine.execEcmp t w s
  | .esel t w => Sys2Proof.Machine.execEsel t w s
  | .ecopy t w => Sys2Proof.Machine.execEcopy t w s
  | .ecvt t w => Sys2Proof.Machine.execEcvt t w s
  | .eqrow t w => Sys2Proof.Machine.execEqrow t w s
  | .edqrow t w => Sys2Proof.Machine.execEdqrow t w s
  | .epoly t w => Sys2Proof.Machine.execEpoly t w s
  | .eexp t w => Sys2Proof.Machine.execEexp t w s
  | .eexp2 t w => Sys2Proof.Machine.execEexp2 t w s
  | .elog t w => Sys2Proof.Machine.execElog t w s
  | .elog2 t w => Sys2Proof.Machine.execElog2 t w s
  | .ersqrt t w => Sys2Proof.Machine.execErsqrt t w s
  | .esin t w => Sys2Proof.Machine.execEsin t w s
  | .ecos t w => Sys2Proof.Machine.execEcos t w s
  | .etanh t w => Sys2Proof.Machine.execEtanh t w s
  | .esigm t w => Sys2Proof.Machine.execEsigm t w s
  | .egelu t w => Sys2Proof.Machine.execEgelu t w s
  | .esilu t w => Sys2Proof.Machine.execEsilu t w s
  | .rsum t w => Sys2Proof.Machine.execRsum t w s
  | .rsumsq t w => Sys2Proof.Machine.execRsumsq t w s
  | .rmax t w => Sys2Proof.Machine.execRmax t w s
  | .rmin t w => Sys2Proof.Machine.execRmin t w s
  | .rstat t w => Sys2Proof.Machine.execRstat t w s
  | .rmerge t w => Sys2Proof.Machine.execRmerge t w s
  | .csum t w => Sys2Proof.Machine.execCsum t w s
  | .cmax t w => Sys2Proof.Machine.execCmax t w s
  | .cmin t w => Sys2Proof.Machine.execCmin t w s
  | .tileZeroingDone t => Sys2Proof.Machine.execTileZeroingDone t s
  | .solveStart => Sys2Proof.Machine.execSolveStart s
  | .znRendezvous solveId msgs expired => Sys2Proof.Machine.execZnRendezvous solveId msgs expired s
  | .znUnitEnd solveId u report => Sys2Proof.Machine.execZnUnitEnd solveId u report s
  | .solveEnd solveId => Sys2Proof.Machine.execSolveEnd solveId s
  | .assemblyDone asmId => Sys2Proof.Machine.execAssemblyDone asmId s
  | .strokeBarrierComplete generation => Sys2Proof.Machine.execStrokeBarrierComplete generation s
  | .barrierSecondRound => Sys2Proof.Machine.execBarrierSecondRound s
  | .strokeSlow => Sys2Proof.Machine.execStrokeSlow s
  | .supcall core => Sys2Proof.Machine.execSupcall core s
  | .supret core => Sys2Proof.Machine.execSupret core s
  | .steerCoreFault phys => Sys2Proof.Machine.execSteerCoreFault phys s
  | .passInterrupt core nextElement => Sys2Proof.Machine.execPassInterrupt core nextElement s
  | .fpmrd core rd => Sys2Proof.Machine.execFpmrd core rd s
  | .fpmwr core rs1 => Sys2Proof.Machine.execFpmwr core rs1 s
  | .ldAcq core rd rs1 => Sys2Proof.Machine.execLdAcq core rd rs1 s
  | .stRel core rs1 rs2 => Sys2Proof.Machine.execStRel core rs1 rs2 s
  | .steerFence core => Sys2Proof.Machine.execSteerFence core s
  | .atAdd core rd rs1 rs2 => Sys2Proof.Machine.execAtAdd core rd rs1 rs2 s
  | .atXchg core rd rs1 rs2 => Sys2Proof.Machine.execAtXchg core rd rs1 rs2 s
  | .atCas core rd rs1 rs2 => Sys2Proof.Machine.execAtCas core rd rs1 rs2 s
  | .atMin core rd rs1 rs2 => Sys2Proof.Machine.execAtMin core rd rs1 rs2 s
  | .atMax core rd rs1 rs2 => Sys2Proof.Machine.execAtMax core rd rs1 rs2 s
  | .atMinu core rd rs1 rs2 => Sys2Proof.Machine.execAtMinu core rd rs1 rs2 s
  | .atMaxu core rd rs1 rs2 => Sys2Proof.Machine.execAtMaxu core rd rs1 rs2 s
  | .scCoreAdd core vs1 vs2 => Sys2Proof.Machine.execScCoreAdd core vs1 vs2 s
  | .scCoreSet core vs1 vs2 => Sys2Proof.Machine.execScCoreSet core vs1 vs2 s
  | .scCoreWait core vs1 vs2 => Sys2Proof.Machine.execScCoreWait core vs1 vs2 s
  | .setspan core w => Sys2Proof.Machine.execSetspan core w s
  | .vsrd core w => Sys2Proof.Machine.execVsrd core w s
  | .vswr core w => Sys2Proof.Machine.execVswr core w s
  | .vadd core w => Sys2Proof.Machine.execVadd core w s
  | .vsub core w => Sys2Proof.Machine.execVsub core w s
  | .vmul core w => Sys2Proof.Machine.execVmul core w s
  | .vmulhi core w => Sys2Proof.Machine.execVmulhi core w s
  | .vmin core w => Sys2Proof.Machine.execVmin core w s
  | .vmax core w => Sys2Proof.Machine.execVmax core w s
  | .vminu core w => Sys2Proof.Machine.execVminu core w s
  | .vmaxu core w => Sys2Proof.Machine.execVmaxu core w s
  | .vand core w => Sys2Proof.Machine.execVand core w s
  | .vor core w => Sys2Proof.Machine.execVor core w s
  | .vxor core w => Sys2Proof.Machine.execVxor core w s
  | .vshl core w => Sys2Proof.Machine.execVshl core w s
  | .vshrl core w => Sys2Proof.Machine.execVshrl core w s
  | .vshra core w => Sys2Proof.Machine.execVshra core w s
  | .vcmpeq core w => Sys2Proof.Machine.execVcmpeq core w s
  | .vcmplt core w => Sys2Proof.Machine.execVcmplt core w s
  | .vmulx core w => Sys2Proof.Machine.execVmulx core w s
  | .vmulxu core w => Sys2Proof.Machine.execVmulxu core w s
  | .vmacx core w => Sys2Proof.Machine.execVmacx core w s
  | .vmacxu core w => Sys2Proof.Machine.execVmacxu core w s
  | .vdotq core w => Sys2Proof.Machine.execVdotq core w s
  | .vdotqu core w => Sys2Proof.Machine.execVdotqu core w s
  | .vdotqsu core w => Sys2Proof.Machine.execVdotqsu core w s
  | .vfadd core w => Sys2Proof.Machine.execVfadd core w s
  | .vfsub core w => Sys2Proof.Machine.execVfsub core w s
  | .vfmul core w => Sys2Proof.Machine.execVfmul core w s
  | .vfdiv core w => Sys2Proof.Machine.execVfdiv core w s
  | .vfsqrt core w => Sys2Proof.Machine.execVfsqrt core w s
  | .vfmac core w => Sys2Proof.Machine.execVfmac core w s
  | .vfmsb core w => Sys2Proof.Machine.execVfmsb core w s
  | .vfmin core w => Sys2Proof.Machine.execVfmin core w s
  | .vfmax core w => Sys2Proof.Machine.execVfmax core w s
  | .vfcmpeq core w => Sys2Proof.Machine.execVfcmpeq core w s
  | .vfcmplt core w => Sys2Proof.Machine.execVfcmplt core w s
  | .vfcmple core w => Sys2Proof.Machine.execVfcmple core w s
  | .vfcvtFi core w => Sys2Proof.Machine.execVfcvtFi core w s
  | .vfcvtIf core w => Sys2Proof.Machine.execVfcvtIf core w s
  | .vfcvtup core w => Sys2Proof.Machine.execVfcvtup core w s
  | .vfcvtdn core w => Sys2Proof.Machine.execVfcvtdn core w s
  | .vfcvtupBf core w => Sys2Proof.Machine.execVfcvtupBf core w s
  | .vfcvtdnBf core w => Sys2Proof.Machine.execVfcvtdnBf core w s
  | .vfmulx core w => Sys2Proof.Machine.execVfmulx core w s
  | .vfmacx core w => Sys2Proof.Machine.execVfmacx core w s
  | .vdotbf core w => Sys2Proof.Machine.execVdotbf core w s
  | .vld core w => Sys2Proof.Machine.execVld core w s
  | .vlds core w => Sys2Proof.Machine.execVlds core w s
  | .vldx core w => Sys2Proof.Machine.execVldx core w s
  | .vldprobe core w => Sys2Proof.Machine.execVldprobe core w s
  | .vst core w => Sys2Proof.Machine.execVst core w s
  | .vsts core w => Sys2Proof.Machine.execVsts core w s
  | .vstx core w => Sys2Proof.Machine.execVstx core w s
  | .vsumr core w => Sys2Proof.Machine.execVsumr core w s
  | .vminr core w => Sys2Proof.Machine.execVminr core w s
  | .vmaxr core w => Sys2Proof.Machine.execVmaxr core w s
  | .vminur core w => Sys2Proof.Machine.execVminur core w s
  | .vmaxur core w => Sys2Proof.Machine.execVmaxur core w s
  | .vfsumord core w => Sys2Proof.Machine.execVfsumord core w s
  | .vfsumpair core w => Sys2Proof.Machine.execVfsumpair core w s
  | .vfminr core w => Sys2Proof.Machine.execVfminr core w s
  | .vfmaxr core w => Sys2Proof.Machine.execVfmaxr core w s
  | .vshiftup core w => Sys2Proof.Machine.execVshiftup core w s
  | .vshiftdn core w => Sys2Proof.Machine.execVshiftdn core w s
  | .vshuf core w => Sys2Proof.Machine.execVshuf core w s
  | .vpack core w => Sys2Proof.Machine.execVpack core w s
  | .vbcast core w => Sys2Proof.Machine.execVbcast core w s
  | .vfbcast core w => Sys2Proof.Machine.execVfbcast core w s
  | .vtog core w => Sys2Proof.Machine.execVtog core w s
  | .vtof core w => Sys2Proof.Machine.execVtof core w s
  | .kand core w => Sys2Proof.Machine.execKand core w s
  | .kor core w => Sys2Proof.Machine.execKor core w s
  | .kxor core w => Sys2Proof.Machine.execKxor core w s
  | .kandn core w => Sys2Proof.Machine.execKandn core w s
  | .kcount core w => Sys2Proof.Machine.execKcount core w s
  | .kfind core w => Sys2Proof.Machine.execKfind core w s
  | .kld core w => Sys2Proof.Machine.execKld core w s
  | .kst core w => Sys2Proof.Machine.execKst core w s
  | .stackTempSample stack tempC thrC rateReq => Sys2Proof.Machine.execStackTempSample stack tempC thrC rateReq s
  | .scrub stack line err => Sys2Proof.Machine.execScrub stack line err s
  | .blockRetired stack => Sys2Proof.Machine.execBlockRetired stack s
  | .spareMapFlashWrite => Sys2Proof.Machine.execSpareMapFlashWrite s
  | .stagingStallRelease die => Sys2Proof.Machine.execStagingStallRelease die s
  | .granuleCopy die => Sys2Proof.Machine.execGranuleCopy die s
  | .close => Sys2Proof.Machine.execClose s
  | .manifestWrite readBackOk => Sys2Proof.Machine.execManifestWrite readBackOk s
  | .commitAgreement allOk => Sys2Proof.Machine.execCommitAgreement allOk s
  | .demandFetch page => Sys2Proof.Machine.execDemandFetch page s
  | .backgroundRestore => Sys2Proof.Machine.execBackgroundRestore s
  | .pageRestored page src => Sys2Proof.Machine.execPageRestored page src s
  | .buddyReseed => Sys2Proof.Machine.execBuddyReseed s
  | .launchImage image => Sys2Proof.Machine.execLaunchImage image s
  | .launchChildMissing rank => Sys2Proof.Machine.execLaunchChildMissing rank s
  | .laneFault port lane => Sys2Proof.Machine.execLaneFault port lane s
  | .laneSpared port => Sys2Proof.Machine.execLaneSpared port s
  | .portTraining port accepts channelRate fabId fmId reversed => Sys2Proof.Machine.execPortTraining port accepts channelRate fabId fmId reversed s
  | .fecReplay port => Sys2Proof.Machine.execFecReplay port s
  | .pathDown port dst => Sys2Proof.Machine.execPathDown port dst s
  | .pathUp port dst => Sys2Proof.Machine.execPathUp port dst s
  | .read port h => Sys2Proof.Machine.execRead port h s
  | .write port h data => Sys2Proof.Machine.execWrite port h data s
  | .writeMasked port h mask maskHi data => Sys2Proof.Machine.execWriteMasked port h mask maskHi data s
  | .atomic port h operand compare => Sys2Proof.Machine.execAtomic port h operand compare s
  | .combined port h cs => Sys2Proof.Machine.execCombined port h cs s
  | .combineSetClose fd => Sys2Proof.Machine.execCombineSetClose fd s
  | .scOp port h value => Sys2Proof.Machine.execScOp port h value s
  | .msg port h payload => Sys2Proof.Machine.execMsg port h payload s
  | .bulk port h pre data => Sys2Proof.Machine.execBulk port h pre data s
  | .drain port h => Sys2Proof.Machine.execDrain port h s
  | .readResp port h data poison => Sys2Proof.Machine.execReadResp port h data poison s
  | .ack port h => Sys2Proof.Machine.execAck port h s
  | .atomicResp port h prior => Sys2Proof.Machine.execAtomicResp port h prior s
  | .nack port h status => Sys2Proof.Machine.execNack port h status s
  | .drainReturn port h => Sys2Proof.Machine.execDrainReturn port h s
  | .requestResend dst fd seq => Sys2Proof.Machine.execRequestResend dst fd seq s
  | .targetUnresponsive dst fd seq => Sys2Proof.Machine.execTargetUnresponsive dst fd seq s
  | .drainTimeout dst port => Sys2Proof.Machine.execDrainTimeout dst port s
  | .releasedDrain dst fd => Sys2Proof.Machine.execReleasedDrain dst fd s
  | .unexpectedResend dst fd seq => Sys2Proof.Machine.execUnexpectedResend dst fd seq s
  | .queuedRequestSend dst fd => Sys2Proof.Machine.execQueuedRequestSend dst fd s
  | .replayCacheWaitRelease fd => Sys2Proof.Machine.execReplayCacheWaitRelease fd s
  | .collStart => Sys2Proof.Machine.execCollStart s
  | .collData port h ch data => Sys2Proof.Machine.execCollData port h ch data s
  | .collCredit port h => Sys2Proof.Machine.execCollCredit port h s
  | .collCtrl port h body => Sys2Proof.Machine.execCollCtrl port h body s
  | .collComplete group collId => Sys2Proof.Machine.execCollComplete group collId s
  | .rebalanceReport fd queued => Sys2Proof.Machine.execRebalanceReport fd queued s
  | .allocation m => Sys2Proof.Machine.execAllocation m s
  | .powerOverLimit inputW ms => Sys2Proof.Machine.execPowerOverLimit inputW ms s
  | .phaseOccurrenceEnd phase ms => Sys2Proof.Machine.execPhaseOccurrenceEnd phase ms s
  | .wakeGroupGrant => Sys2Proof.Machine.execWakeGroupGrant s
  | .ceilingStep die => Sys2Proof.Machine.execCeilingStep die s
  | .droopStretch t => Sys2Proof.Machine.execDroopStretch t s
  | .droopCutExpiry die => Sys2Proof.Machine.execDroopCutExpiry die s
  | .paceRenewal => Sys2Proof.Machine.execPaceRenewal s
  | .paceRelease h body => Sys2Proof.Machine.execPaceRelease h body s
  | .paceMessage h body => Sys2Proof.Machine.execPaceMessage h body s
  | .paceHoldExpiry rank phase => Sys2Proof.Machine.execPaceHoldExpiry rank phase s
  | .junctionTempSample ad fabric steering => Sys2Proof.Machine.execJunctionTempSample ad fabric steering s
  | .thermalCapStep die => Sys2Proof.Machine.execThermalCapStep die s
  | .ageingCheck slackLow => Sys2Proof.Machine.execAgeingCheck slackLow s
  | .wearRefresh hoursOn eye => Sys2Proof.Machine.execWearRefresh hoursOn eye s
  | .bind src body => Sys2Proof.Machine.execBind src body s
  | .jobAbort src epoch => Sys2Proof.Machine.execJobAbort src epoch s
  | .launch src body => Sys2Proof.Machine.execLaunch src body s
  | .hints src first pages => Sys2Proof.Machine.execHints src first pages s
  | .attention src ack => Sys2Proof.Machine.execAttention src ack s
  | .go src => Sys2Proof.Machine.execGo src s
  | .unbind src jobTag => Sys2Proof.Machine.execUnbind src jobTag s
  | .limit src watts => Sys2Proof.Machine.execLimit src watts s
  | .time src origin correction => Sys2Proof.Machine.execTime src origin correction s
  | .catchMsg src matchTime catchId => Sys2Proof.Machine.execCatchMsg src matchTime catchId s
  | .mgmtFragmentTimeout txn => Sys2Proof.Machine.execMgmtFragmentTimeout txn s
  | .evfekCommand h cmd => Sys2Proof.Machine.execEvfekCommand h cmd s
  | .evfekReply h status => Sys2Proof.Machine.execEvfekReply h status s
  | .evfekCatch h matchTime catchId => Sys2Proof.Machine.execEvfekCatch h matchTime catchId s
  | .evfekTime h origin correction => Sys2Proof.Machine.execEvfekTime h origin correction s
  | .evfekResend => Sys2Proof.Machine.execEvfekResend s
  | .ringPairFailed inbound pair => Sys2Proof.Machine.execRingPairFailed inbound pair s
  | .ptpMessage domain locked timeNs => Sys2Proof.Machine.execPtpMessage domain locked timeNs s
  | .timeOutOfTolerance offset holdoverBeyond => Sys2Proof.Machine.execTimeOutOfTolerance offset holdoverBeyond s
  | .timeMatch => Sys2Proof.Machine.execTimeMatch s
  | .dbgChallenge => Sys2Proof.Machine.execDbgChallenge s
  | .dbgUnlock sig => Sys2Proof.Machine.execDbgUnlock sig s
  | .holdWaterDeasserted => Sys2Proof.Machine.execHoldWaterDeasserted s
  | .vinExcursionEnd => Sys2Proof.Machine.execVinExcursionEnd s
  | .holdover => Sys2Proof.Machine.execHoldover s
  | .ppsOutPulse => Sys2Proof.Machine.execPpsOutPulse s
  | .replayHoldExpiry fd => Sys2Proof.Machine.execReplayHoldExpiry fd s
  | .scalarAccess core store log2 rd rs1 => Sys2Proof.Machine.execScalarAccess core store log2 rd rs1 s
  | .scalarFpOperation core op fmt rd rs1 rs2 rs3 => Sys2Proof.Machine.execScalarFpOperation core op fmt rd rs1 rs2 rs3 s
  | .copyDone c => Sys2Proof.Machine.execCopyDone c s
  | .fwUpdateStaged c => Sys2Proof.Machine.execFwUpdateStaged c s

end Sys2Proof.Machine
end

