-- ==== Sys2Proof/WellFormed.lean ====
section
/-! DEFINITION. Commands whose operands lie in the ranges that the manual gives them: units that exist
(Table 1.2, Table 1.13), and packets that carry as many bytes as their header says (Table 11.4). -/

namespace Sys2Proof

/-- One of the 144 physical tiles of a die (Table 1.10). -/
def TileId.ok (t : TileId) : Bool := t.phys.toNat < 144

/-- A unit of a spare pool that exists (Table 1.8, Table 1.13). -/
def UnitRef.ok : UnitRef → Bool
  | .tile d p => d < 4 && p < 144
  | .rowGroup d p b g => d < 4 && p < 144 && b < 24 && g < 32
  | .core p => p < 104
  | .lane m p => m < 2 && p < 36
  | .wire b p => b < 12 && p < (if b < 8 then 840 else 210)

/-- A waiter that exists: a tile, a logical core, or a host command (Table 12.7). -/
def Waiter.ok : Waiter → Bool
  | .tile t => t.ok
  | .core c => c.toNat < 96
  | .host _ => true

/-- The packet carries LINES lines of data. -/
def dataFits (h : PktHdr) (d : List Byte) : Bool := d.length == 128 * h.lines.toNat

/-- The command's operands lie in their ranges. -/
def Instr.wf : Instr → Bool
  | .powerUp env => env.failedUnits.all UnitRef.ok && env.failedSupervisors.all (fun d => d < 6) && env.failedStacks.all (fun k => k < 8)
  | .vinOutOfRange | .vinLoss | .perstAssert | .perstDeassert | .functionLevelReset | .hotReset | .hostLinkChanged _ _ _
  | .holdWaterAsserted | .holdWaterCleared | .ppsInEdge | .flyPresentChange _ _ | .pmcHeartbeat | .latchedLowRead _
  | .latchedHighRead _ | .bar0BadAccess _ _ | .registerWrite _ _ | .glbSetupLock _ | .counterClear _ _ | .memThermMode _ _
  | .ckptNow _ | .pwrLimit _ | .hifSummaryReq _ | .pmcRecovCtrl _ | .sqEnable _ _ | .sqDisable _ | .cqEnable _ _
  | .cqDisable _ | .evqEnable _ | .bar2Read _ _ | .bar2Write _ _ | .wake | .doorbellPoll _ | .idleEntry
  | .heldCompletionWrite _ _ | .msixInterrupt _ | .internalDoorbellWrite _ _ _ | .nop _ | .readSummary _ _ | .phaseMark _ _
  | .memMap _ _ _ _ _ | .memUnmap _ _ _ | .copy _ _ _ _ | .tileRun _ _ _ _ _ _ _ | .steerRun _ _ _ _ _ | .znAssemble _ _
  | .znSolve _ _ | .coll _ _ | .collBatch _ _ | .collGroup _ _ _ _ | .strokeEnd _ _ | .syncOpAdd _ _ _ _
  | .syncOpSet _ _ _ _ | .syncWait _ _ _ | .msgSend _ _ _ _ _ _ | .msgRecv _ _ _ _ _ _ | .bufReg _ _ _ _ | .bufDereg _ _
  | .bulkPut _ _ _ _ _ _ _ _ | .audit _ _ | .auditExecute _ | .ownerKey _ _ | .ownerConfig _ _ _ | .fwUpdate _ _ _
  | .catchNow _ | .ringIntSq _ _ _ _ _ _ | .ringIntCq _ _ _ _ _ _ | .ringIntSqDisable _ _ | .ringIntCqDisable _ _
  | .solveStart | .znRendezvous _ _ _ | .znUnitEnd _ _ _ | .solveEnd _ | .assemblyDone _ | .strokeBarrierComplete _
  | .barrierSecondRound | .strokeSlow | .stackTempSample _ _ _ _ | .scrub _ _ _ | .blockRetired _ | .spareMapFlashWrite
  | .stagingStallRelease _ | .granuleCopy _ | .close | .manifestWrite _ | .commitAgreement _ | .demandFetch _
  | .backgroundRestore | .pageRestored _ _ | .buddyReseed | .launchImage _ | .launchChildMissing _ | .laneFault _ _
  | .laneSpared _ | .portTraining _ _ _ _ _ _ | .fecReplay _ | .pathDown _ _ | .pathUp _ _ | .read _ _ | .atomic _ _ _ _
  | .combined _ _ _ | .combineSetClose _ | .scOp _ _ _ | .drain _ _ | .ack _ _ | .atomicResp _ _ _ | .nack _ _ _
  | .drainReturn _ _ | .requestResend _ _ _ | .targetUnresponsive _ _ _ | .drainTimeout _ _ | .releasedDrain _ _
  | .unexpectedResend _ _ _ | .queuedRequestSend _ _ | .replayCacheWaitRelease _ | .collStart | .collCredit _ _
  | .collCtrl _ _ _ | .collComplete _ _ | .powerOverLimit _ _ | .phaseOccurrenceEnd _ _ | .wakeGroupGrant | .ceilingStep _
  | .droopCutExpiry _ | .paceRenewal | .paceRelease _ _ | .paceMessage _ _ | .paceHoldExpiry _ _ | .thermalCapStep _
  | .wearRefresh _ _ | .bind _ _ | .jobAbort _ _ | .hints _ _ _ | .attention _ _ | .go _ | .unbind _ _ | .limit _ _
  | .time _ _ _ | .catchMsg _ _ _ | .mgmtFragmentTimeout _ | .evfekCommand _ _ | .evfekReply _ _ | .evfekCatch _ _ _
  | .evfekTime _ _ _ | .evfekResend | .ringPairFailed _ _ | .ptpMessage _ _ _ | .timeOutOfTolerance _ _ | .timeMatch
  | .dbgChallenge | .holdWaterDeasserted | .vinExcursionEnd | .holdover | .ppsOutPulse | .replayHoldExpiry _ | .copyDone _
  | .fwUpdateStaged _ => true
  | .bridgeCrcRetry b w => b < 12 && w < (if b < 8 then 800 else 200)
  | .bridgeWireSpared b => b < 12
  | .dieHeartbeat d | .dieHeartbeatMissed d => d.toNat < 6
  | .tileFlagClr t _ | .tileScriptStart t | .instructionCompletion t _ | .tileNop t _ | .endScript t _ | .loop t _
  | .brnz t _ | .setS t _ | .adds t _ | .mma t _ | .dmaIn t _ | .dmaOut t _ | .dmaTransferDone t | .scAdd t _ | .scSet t _
  | .scWait t _ | .fence t _ | .flagRd t _ | .flagClr t _ | .eadd t _ | .esub t _ | .emul t _ | .efma t _ | .ediv t _
  | .esqrt t _ | .emin t _ | .emax t _ | .eabs t _ | .eneg t _ | .ecmp t _ | .esel t _ | .ecopy t _ | .ecvt t _ | .eqrow t _
  | .edqrow t _ | .epoly t _ | .eexp t _ | .eexp2 t _ | .elog t _ | .elog2 t _ | .ersqrt t _ | .esin t _ | .ecos t _
  | .etanh t _ | .esigm t _ | .egelu t _ | .esilu t _ | .rsum t _ | .rsumsq t _ | .rmax t _ | .rmin t _ | .rstat t _
  | .rmerge t _ | .csum t _ | .cmax t _ | .cmin t _ | .tileZeroingDone t | .droopStretch t => t.ok
  | .attest _ nonce _ => nonce.length == 32
  | .scWaitSatisfied x | .waitPoll x => x.ok
  | .supcall c | .supret c | .fpmrd c _ | .fpmwr c _ | .ldAcq c _ _ | .stRel c _ _ | .steerFence c | .atAdd c _ _ _
  | .atXchg c _ _ _ | .atCas c _ _ _ | .atMin c _ _ _ | .atMax c _ _ _ | .atMinu c _ _ _ | .atMaxu c _ _ _
  | .scCoreAdd c _ _ | .scCoreSet c _ _ | .scCoreWait c _ _ | .vadd c _ | .vsub c _ | .vmul c _ | .vmulhi c _ | .vmin c _
  | .vmax c _ | .vminu c _ | .vmaxu c _ | .vand c _ | .vor c _ | .vxor c _ | .vshl c _ | .vshrl c _ | .vshra c _
  | .vcmpeq c _ | .vcmplt c _ | .vmulx c _ | .vmulxu c _ | .vmacx c _ | .vmacxu c _ | .vdotq c _ | .vdotqu c _
  | .vdotqsu c _ | .vfadd c _ | .vfsub c _ | .vfmul c _ | .vfdiv c _ | .vfsqrt c _ | .vfmac c _ | .vfmsb c _ | .vfmin c _
  | .vfmax c _ | .vfcmpeq c _ | .vfcmplt c _ | .vfcmple c _ | .vfcvtFi c _ | .vfcvtIf c _ | .vfcvtup c _ | .vfcvtdn c _
  | .vfcvtupBf c _ | .vfcvtdnBf c _ | .vfmulx c _ | .vfmacx c _ | .vdotbf c _ | .scalarAccess c _ _ _ _
  | .scalarFpOperation c _ _ _ _ _ _ => c.toNat < 96
  | .steerCoreFault p => p.toNat < 104
  | .passInterrupt c e => c.toNat < 96 && e < 512
  | .setspan c w | .vsrd c w | .vswr c w | .vld c w | .vlds c w | .vldx c w | .vldprobe c w | .vst c w | .vsts c w
  | .vstx c w | .vsumr c w | .vminr c w | .vmaxr c w | .vminur c w | .vmaxur c w | .vfsumord c w | .vfsumpair c w
  | .vfminr c w | .vfmaxr c w | .vshiftup c w | .vshiftdn c w | .vshuf c w | .vpack c w | .vbcast c w | .vfbcast c w
  | .vtog c w | .vtof c w | .kand c w | .kor c w | .kxor c w | .kandn c w | .kcount c w | .kfind c w | .kld c w | .kst c w =>
    c.toNat < 96 && !w.scal
  | .write _ h d | .bulk _ h _ d => dataFits h d
  | .writeMasked _ _ _ _ d => d.length == 128
  | .msg _ _ p => p.length ≤ 1024
  | .readResp _ h d p => dataFits h d && p.length == h.lines.toNat
  | .collData _ _ _ d => d.length ≤ 1024
  | .rebalanceReport _ q => q.length == 8
  | .allocation m => m.uncore.length == 4
  | .junctionTempSample ad _ _ => ad.length == 4
  | .ageingCheck l => l.all (fun e => e.1 < 4)
  | .launch _ b => b.plan.checkFrames.length == 4 && b.programDigest.length == 64
  | .dbgUnlock sig => sig.length == 114

end Sys2Proof
end

