-- ==== Sys2Proof/Safety.lean ====
section
/-! DEFINITION. The terms that statements about the package use: what counting and raising events may
change (R565, R566, R596 to R598), how a ring command ends, and the canonical form of the state. -/

namespace Sys2Proof.Machine

/-! ## Frames -/

/-- A register that counting or a catch may change: an event counter, a SATURATED register, a snapshot
register, or one of the SNAP block (R597, R598). -/
def eventReg (o : Nat) : Bool :=
  isSnapshot o || (snapOf o).isSome || (match blockAt o with | some b => b.kind == .snap | none => false)

/-- An address of host memory that lies in the event ring (R565). -/
def inEventRing (s : State) (a : Nat) : Bool :=
  s.reg64 (hifBase + 0x20) ≤ a && a < s.reg64 (hifBase + 0x20) + 32 * 2 ^ s.evqLog

/-- `t` is `s` but for what counting and raising events may change: counters, the SNAP block, the event ring. -/
structure EventFrame (s t : State) : Prop where
  same : ∃ r m e1 e2 e3 e4 e5 e6, t = { s with regs := r, hostMem := m, hif := { s.hif with
    evqTail := e1, evqHeld := e2, evqLost := e3, evqUnsignalled := e4, evqFirstAt := e5, eventCounts := e6 } }
  regs : ∀ o, eventReg o = false → t.reg o = s.reg o
  host : ∀ a, inEventRing s a = false → Memory.get t.hostMem a = Memory.get s.hostMem a

/-- `t` is `s` but for counting, raising events, and the records that the host interface keeps of its rings and commands. -/
structure RingFrame (s t : State) : Prop where
  same : ∃ r m h, t = { s with regs := r, hostMem := m, hif := h }
  regs : ∀ o, eventReg o = false → t.reg o = s.reg o
  host : ∀ a, inEventRing s a = false → Memory.get t.hostMem a = Memory.get s.hostMem a

/-- `t` is `s` but for the host interface's records and one ring's configuration and state registers (Table 16.8). -/
def OnlyRing (s t : State) (cfg : Nat) : Prop :=
  t = { s with regs := t.regs, hif := t.hif } ∧ ∀ o, o ≠ cfg → o ≠ cfg + 4 → t.reg o = s.reg o

/-- The command takes `s` to `u`, and `u` is `v` but for counting and raising events. -/
def Answers (i : Instr) (s v u : State) : Prop := exec i s = .next u ∧ EventFrame v u

/-- The command takes `s` to `v`, but for counting and raising events. -/
def Reaches (i : Instr) (s v : State) : Prop := ∃ u, Answers i s v u

/-- Counter `n` of the group at `g` does not saturate when it counts one (R598). -/
def State.plainCount (s : State) (g n : Nat) : Prop := s.regBit (g + 0xF0) n = true ∨ s.reg64 (g + 0x100 + 8 * n) + 1 < 2 ^ 64

/-! ## The canonical form -/

/-- The register file, host memory, stack memory and every tile store stand in their canonical form. -/
structure Canonical (s : State) : Prop where
  regs  : RegFile.wf s.regs
  host  : Memory.wf s.hostMem
  stack : Memory.wf s.mem.bytes
  tiles : ∀ e ∈ s.tiles, Memory.wf e.2.store

/-- The package has no power, and no waiting command brings it up. -/
structure Dark (s : State) : Prop where
  off  : s.pins.powered = false
  none : ∀ env, Instr.powerUp env ∉ s.pending

/-! ## Ring commands -/

/-- The command's entry stands at its ring's front, it can be accepted now, and its scope admits it (R556, R557). -/
def AtTurn (s : State) (c : CmdCtx) (op : Nat) (ops : List (Nat × List Byte)) : Prop :=
  s.ready c op ops = true ∧ scopeFault s c op = 0

/-- What follows a ring command's own effect: malformed entries behind it are refused (R556). -/
def afterCommand (u : State) (c : CmdCtx) : State := refuseBad (u.sq c.sq.toNat).fetched.length u c.sq.toNat

/-- The command does its work up to `u` and completes there with a status and a VALUE. -/
def CompletesIn (i : Instr) (c : CmdCtx) (s u : State) (st v : Nat) : Prop :=
  exec i s = .next (afterCommand (finish u c st v) c)

/-- The command starts; its work stands at `u`, and its completion comes later. -/
def StartsIn (i : Instr) (c : CmdCtx) (s u : State) : Prop := exec i s = .next (afterCommand u c)

/-- The command is recorded as outstanding and started (R557, R563). -/
def State.started (s : State) (c : CmdCtx) : Prop := ∃ o ∈ s.hif.outCmds, o.ctx = c ∧ o.started = true

/-! ## Tile instructions -/

/-- The sequencer of a live tile finds the instruction's word at its program counter (R123). -/
def TileAt (s : State) (t : TileId) (cls op : Nat) (w : TWord) : Prop :=
  s.pins.powered = true ∧ s.tileLive t = true ∧ (fetchScript s t).2 = .word (tileWordBytes cls op w)

/-- The state once a tile's sequencer has fetched the word at its program counter. -/
def fetched (s : State) (t : TileId) : State := (fetchScript s t).1

/-- The tile holds no hidden error, no poisoned line and no pending check failure, stops on no flag, and goes on from
its last instruction without a stop. -/
structure CleanTile (s : State) (t : TileId) : Prop where
  latent   : (s.tile t).latent = []
  poison   : (s.tile t).poison = []
  check    : (s.tile t).checkFault = false
  stopping : (s.tile t).stopping = none
  nanStop  : s.regBit (tileRegs t + 8) 0 = false
  ewlStop  : s.regBit (tileRegs t + 8) 1 = false

/-- `u` is `v` but for tile `t`, its registers, counting and free values. -/
structure TileFrame (t : TileId) (v u : State) : Prop where
  same  : u = { v with tiles := u.tiles, regs := u.regs, hostMem := u.hostMem, hif := u.hif, free := u.free }
  tiles : ∀ x, x ≠ t → u.tile x = v.tile x
  regs  : ∀ o, eventReg o = false → ¬(tileRegs t ≤ o ∧ o < tileRegs t + 0x4000) → ¬(detBase ≤ o ∧ o < detBase + 0x10) → u.reg o = v.reg o
  host  : ∀ a, inEventRing v a = false → Memory.get u.hostMem a = Memory.get v.hostMem a

/-- The program counter and loops of a tile after an instruction that goes on in order (R117). -/
def Tile.next (x : Tile) : Tile := { x with pc := (loopEnd 8 x.loops (x.pc + 16)).2, loops := (loopEnd 8 x.loops (x.pc + 16)).1 }

/-- OP of an element-class instruction (Table 5.4, Table 5.7), with its tile and word. -/
def elementOp : Instr → Option (Nat × TileId × TWord)
  | .eadd t w => some (0x01, t, w) | .esub t w => some (0x02, t, w) | .emul t w => some (0x03, t, w)
  | .efma t w => some (0x04, t, w) | .ediv t w => some (0x05, t, w) | .esqrt t w => some (0x06, t, w)
  | .emin t w => some (0x07, t, w) | .emax t w => some (0x08, t, w) | .eabs t w => some (0x09, t, w)
  | .eneg t w => some (0x0A, t, w) | .ecmp t w => some (0x0B, t, w) | .esel t w => some (0x0C, t, w)
  | .ecopy t w => some (0x0D, t, w) | .ecvt t w => some (0x10, t, w) | .eqrow t w => some (0x11, t, w)
  | .edqrow t w => some (0x12, t, w) | .epoly t w => some (0x20, t, w) | .eexp t w => some (0x21, t, w)
  | .eexp2 t w => some (0x22, t, w) | .elog t w => some (0x23, t, w) | .elog2 t w => some (0x24, t, w)
  | .ersqrt t w => some (0x25, t, w) | .esin t w => some (0x26, t, w) | .ecos t w => some (0x27, t, w)
  | .etanh t w => some (0x28, t, w) | .esigm t w => some (0x29, t, w) | .egelu t w => some (0x2A, t, w)
  | .esilu t w => some (0x2B, t, w) | .rsum t w => some (0x30, t, w) | .rsumsq t w => some (0x31, t, w)
  | .rmax t w => some (0x32, t, w) | .rmin t w => some (0x33, t, w) | .rstat t w => some (0x34, t, w)
  | .rmerge t w => some (0x35, t, w) | .csum t w => some (0x38, t, w) | .cmax t w => some (0x39, t, w)
  | .cmin t w => some (0x3A, t, w)
  | _ => none

/-- The element descriptor that an instruction word names (R116). -/
def descOf (x : Tile) (w : TWord) : List Byte := x.read (descAddr x w) 64

/-! ## Steering cores -/

/-- A core whose program runs, with its registers in place, no interrupt that waits for a pass, and no unlisted word of the span
extension at its program counter (R286, R301, R307). -/
structure CoreAt (s : State) (c : BitVec 8) : Prop where
  powered : s.pins.powered = true
  live    : s.coreLive c.toNat = true
  irq     : (s.core c.toNat).irqAt = none
  word    : s.wordUnlisted c.toNat = false
  phys    : ∃ p, p < 104 ∧ s.physCore c.toNat = some p
  lengths : (s.core c.toNat).g.length = 32 ∧ (s.core c.toNat).f.length = 32 ∧ (s.core c.toNat).v.length = 32 ∧ (s.core c.toNat).k.length = 8

/-- A span instruction can run: at U the vector unit is enabled and the word at the program counter is the instruction; at
S the supervisor gives it (R297, R316). -/
def SpanAt (s : State) (c : BitVec 8) (major op : Nat) (w : VWord) : Prop :=
  CoreAt s c ∧ ((s.core c.toNat).trap ≠ none ∨
    ((s.core c.toNat).ven = true ∧ s.peekWord (s.core c.toNat).pc.toNat = some (spanWord major op w)))

/-- `u` is `s` but for core `c`, counting and free values. -/
structure CoreFrame (c : BitVec 8) (s u : State) : Prop where
  same  : u = { s with cores := u.cores, regs := u.regs, hostMem := u.hostMem, hif := u.hif, free := u.free }
  cores : ∀ k, k ≠ c.toNat → u.core k = s.core k
  regs  : ∀ o, eventReg o = false → u.reg o = s.reg o
  host  : ∀ a, inEventRing s a = false → Memory.get u.hostMem a = Memory.get s.hostMem a

/-- A core after an instruction that has completed: at U the program counter moves on. -/
def Core.moved (x : Core) : Core := if x.trap.isNone then { x with pc := x.pc + 4 } else x

/-- Stack memory holds no error, no mark and no write that waits, no checkpoint window is open, and no combining table
holds a read of it. -/
def cleanMem (s : State) : Prop :=
  s.mem.latent = [] ∧ s.mem.marks = [] ∧ s.mem.stalled = [] ∧ s.mem.windowOpen = false ∧ s.fab.reads = []

/-- An atomic instruction (R294): its core, G[rd], G[rs1], G[rs2], and the new word from the old one, the operand and the old G[rd]. -/
def atomicOp : Instr → Option (BitVec 8 × BitVec 5 × BitVec 5 × BitVec 5 × (U64 → U64 → U64 → U64))
  | .atAdd c d a b => some (c, d, a, b, fun w v _ => w + v)
  | .atXchg c d a b => some (c, d, a, b, fun _ v _ => v)
  | .atCas c d a b => some (c, d, a, b, fun w v old => if w = old then v else w)
  | .atMin c d a b => some (c, d, a, b, fun w v _ => if v.toInt < w.toInt then v else w)
  | .atMax c d a b => some (c, d, a, b, fun w v _ => if w.toInt < v.toInt then v else w)
  | .atMinu c d a b => some (c, d, a, b, fun w v _ => if v.toNat < w.toNat then v else w)
  | .atMaxu c d a b => some (c, d, a, b, fun w v _ => if w.toNat < v.toNat then v else w)
  | _ => none

/-- The value and flags of a scalar floating-point operation that writes F[rd] (R291). -/
def scalarFp (op : FpOp) (f : Fmt) (k : Rnd) (a b d g : Nat) : Option FpResult :=
  match op with
  | .add => some (fpAdd f k a b) | .sub => some (fpSub f k a b) | .mul => some (fpMul f k a b) | .div => some (fpDiv f k a b)
  | .sqrt => some (fpSqrt f k a) | .fma => some (fpFma f k false a b d) | .min => some (fpPickNum f true a b)
  | .max => some (fpPickNum f false a b) | .cvtIF => some (fpFromInt f k f.width g) | .cvtFI => none

/-! ## Span instructions -/

/-- A span instruction that writes each element of a gang of `dg` registers of width `dew`: the value and flags of element j. -/
structure VecOp where
  core  : BitVec 8
  major : Nat
  op    : Nat
  w     : VWord
  legal : Core → Bool
  dew   : Nat
  dg    : Nat
  val   : Core → Nat → Nat × Nat

/-- A span instruction that writes each bit of a mask register. -/
structure BitOp where
  core  : BitVec 8
  major : Nat
  op    : Nat
  w     : VWord
  legal : Core → Bool
  val   : Core → Nat → Bool × Nat

/-- An integer instruction of major 0xB (Table 9.4): the value from EW and the two elements. -/
def intVec (c : BitVec 8) (op : Nat) (w : VWord) (f : Nat → Nat → Nat → Nat) : Option VecOp :=
  some ⟨c, 0xB, op, w, fun x => binaryLegal x w, ewOf w, gangOf w, fun x j => (f (ewOf w) (x.opA w j) (x.opB w j), 0)⟩
/-- A widening integer instruction (R309). -/
def wideVec (c : BitVec 8) (op : Nat) (w : VWord) (f : Nat → Nat → Nat → Int) : Option VecOp :=
  some ⟨c, 0xB, op, w, fun x => widenLegal x w, 2 * ewOf w, 2 * gangOf w, fun x j =>
    ((f (x.opA w j) (x.opB w j) (x.opD w (2 * ewOf w) j) % (2 ^ (2 * ewOf w) : Nat)).toNat, 0)⟩
/-- A dot instruction of four bytes (R310). -/
def dotVec (c : BitVec 8) (op : Nat) (w : VWord) (va vb : Nat → Int) : Option VecOp :=
  some ⟨c, 0xB, op, w, fun x => dotLegal x w, 32, gangOf w, fun x j =>
    let p (k : Nat) : Int := va (x.opA w j / 2 ^ (8 * k) % 256) * vb (x.opB w j / 2 ^ (8 * k) % 256)
    ((((x.opD w 32 j : Int) + (p 0 + p 1 + p 2 + p 3)) % (2 ^ 32 : Nat)).toNat, 0)⟩
/-- A floating-point instruction of major 0xC: the value from the two elements and the old destination. -/
def fpVec (c : BitVec 8) (op : Nat) (w : VWord) (f : Fmt → Rnd → Nat → Nat → Nat → FpResult) : Option VecOp :=
  some ⟨c, 0xC, op, w, fun x => binaryLegal x w && (fpOfEw w).isSome, ewOf w, gangOf w, fun x j =>
    (f (fpFmtEw w) x.rnd (x.opA w j) (x.opF w j) (x.opD w (ewOf w) j)).pair⟩
/-- A floating-point instruction of one source. -/
def fpUnary (c : BitVec 8) (op : Nat) (w : VWord) (f : Fmt → Rnd → Nat → FpResult) : Option VecOp :=
  some ⟨c, 0xC, op, w, fun x => unaryLegal x w && (fpOfEw w).isSome, ewOf w, gangOf w, fun x j => (f (fpFmtEw w) x.rnd (x.opA w j)).pair⟩
/-- A widening conversion from a format (R313). -/
def upVec (c : BitVec 8) (op : Nat) (w : VWord) (bf : Bool) (f : Fmt) : Option VecOp :=
  some ⟨c, 0xC, op, w, fun x => widenCvtLegal x w && ewNarrow w bf, 2 * ewOf w, 2 * gangOf w, fun x j =>
    (fpConvert f (fpWide w) x.rnd (x.opA w j)).pair⟩
/-- A narrowing conversion to a format (R313). -/
def downVec (c : BitVec 8) (op : Nat) (w : VWord) (bf : Bool) (f : Fmt) : Option VecOp :=
  some ⟨c, 0xC, op, w, fun x => narrowLegal x w && ewNarrow w bf, ewOf w, gangOf w, fun x j =>
    (fpConvert (fpWide w) f x.rnd (x.elem (2 * ewOf w) w.vs2.toNat j)).pair⟩
/-- A widening product (R309). -/
def wideFp (c : BitVec 8) (op : Nat) (w : VWord) (f : Fmt → Rnd → Nat → Nat → Nat → FpResult) : Option VecOp :=
  some ⟨c, 0xC, op, w, fun x => widenLegal x w && ewNarrow w false, 2 * ewOf w, 2 * gangOf w, fun x j =>
    let a := fpConvert (fpFmtEw w) (fpWide w) .rne (x.opA w j)
    let b := fpConvert (fpFmtEw w) (fpWide w) .rne (x.opF w j)
    let r := f (fpWide w) x.rnd a.bits b.bits (x.opD w (2 * ewOf w) j)
    (r.bits, r.flags ||| a.flags ||| b.flags)⟩

/-- The span instructions that write a gang element by element (Table 9.4; R308 to R310, R313). -/
def vecOp : Instr → Option VecOp
  | .vadd c w => intVec c 0x00 w (fun n a b => (a + b) % 2 ^ n)
  | .vsub c w => intVec c 0x01 w (fun n a b => (a + 2 ^ n - b) % 2 ^ n)
  | .vmul c w => intVec c 0x02 w (fun n a b => a * b % 2 ^ n)
  | .vmulhi c w => intVec c 0x03 w (fun n a b => (toSigned n a * toSigned n b / (2 ^ n : Nat) % (2 ^ n : Nat)).toNat)
  | .vmin c w => intVec c 0x04 w (fun n a b => if toSigned n b < toSigned n a then b else a)
  | .vmax c w => intVec c 0x05 w (fun n a b => if toSigned n a < toSigned n b then b else a)
  | .vminu c w => intVec c 0x06 w (fun _ a b => min a b)
  | .vmaxu c w => intVec c 0x07 w (fun _ a b => max a b)
  | .vand c w => intVec c 0x08 w (fun _ a b => a &&& b)
  | .vor c w => intVec c 0x09 w (fun _ a b => a ||| b)
  | .vxor c w => intVec c 0x0A w (fun _ a b => a ^^^ b)
  | .vshl c w => intVec c 0x0B w (fun n a b => a * 2 ^ (b % n) % 2 ^ n)
  | .vshrl c w => intVec c 0x0C w (fun n a b => a / 2 ^ (b % n))
  | .vshra c w => intVec c 0x0D w (fun n a b => (toSigned n a / (2 : Int) ^ (b % n) % (2 ^ n : Nat)).toNat)
  | .vmulx c w => wideVec c 0x10 w (fun a b _ => toSigned (ewOf w) a * toSigned (ewOf w) b)
  | .vmulxu c w => wideVec c 0x11 w (fun a b _ => (a : Int) * b)
  | .vmacx c w => wideVec c 0x12 w (fun a b d => toSigned (ewOf w) a * toSigned (ewOf w) b + d)
  | .vmacxu c w => wideVec c 0x13 w (fun a b d => (a : Int) * b + d)
  | .vdotq c w => dotVec c 0x14 w (toSigned 8) (toSigned 8)
  | .vdotqu c w => dotVec c 0x15 w (fun a => a) (fun b => b)
  | .vdotqsu c w => dotVec c 0x16 w (toSigned 8) (fun b => b)
  | .vfadd c w => fpVec c 0x00 w (fun f k a b _ => fpAdd f k a b)
  | .vfsub c w => fpVec c 0x01 w (fun f k a b _ => fpSub f k a b)
  | .vfmul c w => fpVec c 0x02 w (fun f k a b _ => fpMul f k a b)
  | .vfdiv c w => fpVec c 0x03 w (fun f k a b _ => fpDiv f k a b)
  | .vfsqrt c w => fpUnary c 0x04 w (fun f k a => fpSqrt f k a)
  | .vfmac c w => fpVec c 0x05 w (fun f k a b d => fpFma f k false a b d)
  | .vfmsb c w => fpVec c 0x06 w (fun f k a b d => fpFma f k true a b d)
  | .vfmin c w => fpVec c 0x07 w (fun f _ a b _ => fpPickNum f true a b)
  | .vfmax c w => fpVec c 0x08 w (fun f _ a b _ => fpPickNum f false a b)
  | .vfcvtFi c w => fpUnary c 0x10 w (fun f k a => fpToInt f k (ewOf w) a)
  | .vfcvtIf c w => fpUnary c 0x11 w (fun f k a => fpFromInt f k (ewOf w) a)
  | .vfcvtup c w => upVec c 0x12 w false (fpFmtEw w)
  | .vfcvtdn c w => downVec c 0x13 w false (fpFmtEw w)
  | .vfcvtupBf c w => upVec c 0x14 w true bf16
  | .vfcvtdnBf c w => downVec c 0x15 w true bf16
  | .vfmulx c w => wideFp c 0x16 w (fun f k a b _ => fpMul f k a b)
  | .vfmacx c w => wideFp c 0x17 w (fun f k a b d => fpFma f k false a b d)
  | .vdotbf c w => some ⟨c, 0xC, 0x18, w, fun x => dotLegal x w, 32, gangOf w, fun x j => (dotBf x.rnd (x.opD w 32 j) (x.opA w j) (x.opB w j)).pair⟩
  | .vbcast c w => some ⟨c, 0xD, 0x24, w, fun x => bcastLegal x w, ewOf w, gangOf w, fun x _ => ((x.gr w.vs1).toNat % 2 ^ ewOf w, 0)⟩
  | .vfbcast c w => some ⟨c, 0xD, 0x25, w, fun x => bcastLegal x w && (fpOfEw w).isSome, ewOf w, gangOf w, fun x _ => ((x.fr w.vs1).toNat % 2 ^ ewOf w, 0)⟩
  | _ => none

/-- A compare of floating-point elements. -/
def fpBits (c : BitVec 8) (op rel : Nat) (w : VWord) : Option BitOp :=
  some ⟨c, 0xC, op, w, fun x => compareLegal x w && (fpOfEw w).isSome, fun x j => fpCompare (fpFmtEw w) rel (x.opA w j) (x.opF w j)⟩
/-- An operation on mask bits. -/
def kBits (c : BitVec 8) (op : Nat) (w : VWord) (f : Bool → Bool → Bool) : Option BitOp :=
  some ⟨c, 0xD, op, w, fun x => spanFits x w && !w.scal, fun x j => (f (x.maskBit (w.vs2.toNat % 8) j) (x.maskBit (w.vs1.toNat % 8) j), 0)⟩

/-- The span instructions that write a mask register bit by bit (R304). -/
def bitOp : Instr → Option BitOp
  | .vcmpeq c w => some ⟨c, 0xB, 0x0E, w, fun x => compareLegal x w, fun x j => (x.opA w j == x.opB w j, 0)⟩
  | .vcmplt c w => some ⟨c, 0xB, 0x0F, w, fun x => compareLegal x w, fun x j => (toSigned (ewOf w) (x.opA w j) < toSigned (ewOf w) (x.opB w j), 0)⟩
  | .vfcmpeq c w => fpBits c 0x09 0 w
  | .vfcmplt c w => fpBits c 0x0A 1 w
  | .vfcmple c w => fpBits c 0x0B 2 w
  | .kand c w => kBits c 0x30 w (fun a b => a && b)
  | .kor c w => kBits c 0x31 w (fun a b => a || b)
  | .kxor c w => kBits c 0x32 w (fun a b => a != b)
  | .kandn c w => kBits c 0x33 w (fun a b => a && !b)
  | _ => none

/-- The reductions (R311): core, OP, word, whether they are of floating point, and the result with flags from the core, the start
value and the active elements in rising index. -/
def reduceOp : Instr → Option (BitVec 8 × Nat × VWord × Bool × (Core → Nat → List Nat → FpResult))
  | .vsumr c w => some (c, 0x10, w, false, fun x a es => ⟨(es.foldl (fun a j => (a + x.opA w j) % 2 ^ ewOf w) a), 0⟩)
  | .vminr c w => some (c, 0x11, w, false, fun x a es => ⟨es.foldl (fun a j => if toSigned (ewOf w) (x.opA w j) < toSigned (ewOf w) a then x.opA w j else a) a, 0⟩)
  | .vmaxr c w => some (c, 0x12, w, false, fun x a es => ⟨es.foldl (fun a j => if toSigned (ewOf w) a < toSigned (ewOf w) (x.opA w j) then x.opA w j else a) a, 0⟩)
  | .vminur c w => some (c, 0x13, w, false, fun x a es => ⟨es.foldl (fun a j => min a (x.opA w j)) a, 0⟩)
  | .vmaxur c w => some (c, 0x14, w, false, fun x a es => ⟨es.foldl (fun a j => max a (x.opA w j)) a, 0⟩)
  | .vfsumord c w => some (c, 0x15, w, true, fun x a es =>
      es.foldl (fun r j => let t := fpAdd (fpFmtEw w) x.rnd r.bits (x.opA w j); ⟨t.bits, r.flags ||| t.flags⟩) ⟨a, 0⟩)
  | .vfsumpair c w => some (c, 0x16, w, true, fun x a es =>
      sumPair (fpFmtEw w) x.rnd x.spanLen (fun j => if es.contains j then some (x.opA w j) else none) a)
  | .vfminr c w => some (c, 0x17, w, true, fun x a es =>
      es.foldl (fun r j => let t := fpPickNum (fpFmtEw w) true r.bits (x.opA w j); ⟨t.bits, r.flags ||| t.flags⟩) ⟨a, 0⟩)
  | .vfmaxr c w => some (c, 0x18, w, true, fun x a es =>
      es.foldl (fun r j => let t := fpPickNum (fpFmtEw w) false r.bits (x.opA w j); ⟨t.bits, r.flags ||| t.flags⟩) ⟨a, 0⟩)
  | _ => none

/-- The vector memory instructions (R314, R317): core, OP, word, whether they store, whether they probe, whether VS2 is an index
vector, and the address of element j. -/
def memOp : Instr → Option (BitVec 8 × Nat × VWord × Bool × Bool × Bool × (Core → Nat → Nat))
  | .vld c w => some (c, 0x08, w, false, false, false, unitAddr w)
  | .vlds c w => some (c, 0x09, w, false, false, false, strideAddr w)
  | .vldx c w => some (c, 0x0A, w, false, false, true, indexAddr w)
  | .vldprobe c w => some (c, 0x0B, w, false, true, false, unitAddr w)
  | .vst c w => some (c, 0x0C, w, true, false, false, unitAddr w)
  | .vsts c w => some (c, 0x0D, w, true, false, false, strideAddr w)
  | .vstx c w => some (c, 0x0E, w, true, false, true, indexAddr w)
  | _ => none

end Sys2Proof.Machine
end

