-- ==== Sys2Proof/Certificates/Slice0/Obligations.lean ====
section
/-! DEFINITION. The statements about the package, for the provers. `RingFrame` and `EventFrame`
(Sys2Proof/Safety.lean) say what counting, raising events and the rings' own records may change. -/

open Sys2Proof Sys2Proof.Machine

/-! ## Stepping -/

/-- A step with a command at the front of the queue is exec of that command on the state with the queue's rest. -/
def Obligations.StepRunsFrontCommand : Prop :=
  ∀ (c : Instr) (rest : List Instr) (s : State),
    step { s with pending := c :: rest } = exec c { s with pending := rest }

/-- On an empty queue one nanosecond passes and nothing but the time unit changes; a powered package whose
counter has no offset left to slew counts exactly one (R591, R595). The idle tick is the model's choice (log 2). -/
def Obligations.IdleStepCountsTime : Prop :=
  ∀ s : State, s.pending = [] →
    ∃ t, step s = .next t ∧ t = { s with tim := t.tim } ∧ t.tim.source = s.tim.source ∧ t.tim.locked = s.tim.locked ∧
      (s.pins.powered = false → t = s) ∧
      (s.pins.powered = true → s.tim.slew = 0 → t.tim.now = s.tim.now + 1 ∧ t.tim.slew = 0) ∧
      (s.pins.powered = true → s.tim.now.toNat + 2 < 2 ^ 64 →
        s.tim.now.toNat ≤ t.tim.now.toNat ∧ t.tim.now.toNat ≤ s.tim.now.toNat + 2 ∧
        ((t.tim.now.toNat : Int) + t.tim.slew = (s.tim.now.toNat : Int) + s.tim.slew + 1))

/-- Every step answers a next state: no command faults and none is refused, since every refusal of the manual
completes with a status code in a next state (R11). -/
def Obligations.EveryStepAnswersNext : Prop :=
∀ s : State, ∃ t, step s = .next t

/-! ## BAR0 -/

/-- A low read captures the register's high word, and the next high read returns what was captured (R40).

A register write follows the access code (R9): a read-only register keeps its value, and so does an RWL register
while GLB_SETUP_LOCK.LOCK is set (R43); an RW or RWL register whose write starts nothing else takes the written
value in its fields and zero in its reserved bits, and nothing else changes. A base register keeps its value while its ring is enabled (R546), a
phase its points while a raise is barred (R28), and a threshold out of range is ignored (Table 15.11); the time source follows TIM_CTRL (R592), a
port FAB_PORT_CTRL, and an interrupt that waited for its vector leaves when it is unmasked (R564). -/
def Obligations.RegisterAccessesFollowTheirCodes : Prop :=
  (∀ (s : State) (off : BitVec 26), s.pins.powered = true →
    (s.badOffset off.toNat = false → isLow64 off.toNat = true →
      exec (.latchedLowRead off) s = .next { s with
        latches := kvSet s.latches off.toNat (BitVec.ofNat 32 (regRead s (off.toNat + 4))),
        sent := s.sent ++ [.regData off.toNat (BitVec.ofNat 32 (regRead s off.toNat))] }) ∧
    (s.badOffset off.toNat = false → isLow64 off.toNat = false → 4 ≤ off.toNat → isLow64 (off.toNat - 4) = true →
      (∀ v, kvGet s.latches (off.toNat - 4) = some v →
        exec (.latchedHighRead off) s = .next { s with
          latches := kvErase s.latches (off.toNat - 4), sent := s.sent ++ [.regData off.toNat v] }) ∧
      (kvGet s.latches (off.toNat - 4) = none →
        exec (.latchedHighRead off) s =
          .next { s with sent := s.sent ++ [.regData off.toNat (BitVec.ofNat 32 (regRead s off.toNat))] }))) ∧
  (∀ (s : State) (off : BitVec 26) (v : U32) (b : Blk) (d : RegDef), s.pins.powered = true → off.toNat % 4 = 0 →
    s.badOffset off.toNat = false → blockAt off.toNat = some b → regDef off.toNat = some d →
    let i := Instr.registerWrite off v
    let r := off.toNat - b.base
    let plain := exec i s = .next (s.setReg off.toNat (v.toNat &&& d.mask))
    (d.acc = .ro → exec i s = .next s) ∧
    (d.acc = .rwl → s.regBit 8 0 = true → exec i s = .next s) ∧
    ((d.acc = .rw ∨ (d.acc = .rwl ∧ s.regBit 8 0 = false)) →
      (b.kind ≠ .hif → b.kind ≠ .pwr → b.kind ≠ .tim → b.kind ≠ .port → ¬(b.kind = .stack ∧ r = 8) → plain) ∧
      (b.kind = .pwr → (r = 4 → plain) ∧
        (r = 0x24 → exec i s = .next (if 70 ≤ v.toNat % 256 ∧ v.toNat % 256 ≤ 100 then s.setReg off.toNat (v.toNat % 256) else s)) ∧
        (0x1000 ≤ r → exec i s = .next (if s.holding && raisesPoint (s.reg off.toNat) v.toNat then s else s.setRegBits off.toNat 11 0 v.toNat))) ∧
      (b.kind = .tim → ∃ u, exec i s = .next u ∧ u.reg off.toNat = (v.toNat &&& 0xFF1F) ∧
        u.tim.source = [TimeSrc.ptp, .azmarlink, .evfek].find? (fun y => u.timeOn y && s.tim.locked.contains y) ∧
        u = { s with tim := { s.tim with source := u.tim.source, lostAt := u.tim.lostAt }, regs := u.regs, hostMem := u.hostMem, hif := u.hif, free := u.free }) ∧
      (b.kind = .port → s.fab.ports.length = 16 → ∃ u, exec i s = .next u ∧ u.reg off.toNat = v.toNat % 8 ∧
        u.port b.idx = (if bitOf v.toNat 2 then portOff (s.port b.idx) else { s.port b.idx with disabled := !s.portServes b.idx }) ∧
        (∀ q, q ≠ b.idx → u.port q = s.port q) ∧ u.mem = s.mem ∧ u.tiles = s.tiles ∧ u.cores = s.cores) ∧
      (b.kind = .hif →
        (r ∈ [0x4, 0x18, 0x1C] ∨ (0x100000 ≤ r ∧ r % 16 ≠ 0xC) → plain) ∧
        (r = 8 ∨ r = 0xC → exec i s = .next (if (List.range 64).any (fun k => bitOf (s.sqCfg k) 12) then s else s.setReg off.toNat v.toNat)) ∧
        (r = 0x20 ∨ r = 0x24 → exec i s = .next (if s.regBit (hifBase + 0x28) 14 = true then s else s.setReg off.toNat v.toNat)) ∧
        (0x1000 ≤ r → r < 0x1800 → r % 0x20 ≠ 8 →
          exec i s = .next (if bitOf (s.sqCfg ((r - 0x1000) / 0x20)) 12 = true then s else s.setReg off.toNat v.toNat)) ∧
        (0x2000 ≤ r → r < 0x2800 → r % 0x20 ≠ 8 →
          exec i s = .next (if bitOf (s.cqCfg ((r - 0x2000) / 0x20)) 14 = true then s else s.setReg off.toNat v.toNat)) ∧
        (0x100000 ≤ r → r % 16 = 0xC → let k := (r - 0x100000) / 16; let p := hifBase + 0x110000 + k / 32 * 4
          exec i s = .next (if v.toNat % 2 = 0 ∧ s.regBit p (k % 32) = true
            then sendVector ((s.setReg off.toNat 0).setRegBit p (k % 32) false) k else s.setReg off.toNat (v.toNat % 2))))))

/-- An access that R41 names is counted and recorded and changes nothing else: a read returns zero, a write is ignored. The
access is named by BAR0_BAD_ACCESS, or it is a read or write at an offset where no register is (in a window whose registers no
chapter lists, where log 43 leaves open which offsets hold one, at an offset that holds none). -/
def Obligations.BadAccessHasNoEffect : Prop :=
  ∀ (s : State) (off : BitVec 26), s.pins.powered = true →
    let counted (write : Bool) (u : State) : Prop := EventFrame (s.setReg 0x10 (off.toNat + (if write then 2 ^ 26 else 0))) u ∧
      (s.regBit 0xF0 0 = false → s.reg64 0x100 + 1 < 2 ^ 64 → u.reg64 0x100 = s.reg64 0x100 + 1)
    (∃ u, exec (.bar0BadAccess off false) s = .next (u.emit (.regData off.toNat 0)) ∧ counted false u) ∧
    (∃ u, exec (.bar0BadAccess off true) s = .next u ∧ counted true u) ∧
    (regDef off.toNat = none → unlistedReg off.toNat = false →
      (∃ u, exec (.latchedLowRead off) s = .next (u.emit (.regData off.toNat 0)) ∧ counted false u) ∧
      (∃ u, exec (.latchedHighRead off) s = .next (u.emit (.regData off.toNat 0)) ∧ counted false u) ∧
      (s.setupOnly = false → ∀ v, ∃ u, exec (.registerWrite off v) s = .next u ∧ counted true u))

/-- A write of 1 to a bit of a _CNT_CLR register sets the counter and its SATURATED bit to zero (R598); counters that
it does not select, and every other register, keep their values.

The single registers whose writes act: LOCK is set and never cleared (R43); a write to one copy of
MEM_THERM_MODE, unlocked, reaches all eight (R341); TILE_FLAG_CLR resets the records that it selects and their
counts of output tiles (R126); CKPT_NOW requests a generation (R476); PWR_LIMIT takes the watts clamped
into 2,400 to 3,600 W and PWR_LIMIT_EFF the smallest of the three limits (R507); a
HIF_SUMMARY_REQ writes the summary record at a 4 KiB aligned address and shows DONE (R567); PMC_RECOV_CTRL serves
only a setup-only package (R582).

The recovery mailbox of a setup-only package: a package of images that verifies is committed in the other bank
with the SEQ above the running bank's, and DONE is shown with status 0; one that does not leaves the banks alone
and shows its status (R581, R582). -/
def Obligations.ActingRegistersAct : Prop :=
  ((∀ (s : State) (off : BitVec 26) (v : U32) (b : Blk) (g n : Nat), s.pins.powered = true → off.toNat % 4 = 0 →
    s.badOffset off.toNat = false → blockAt off.toNat = some b → (g, n) ∈ counterGroups b.kind →
    off.toNat = b.base + g + 0xF4 →
    ∃ t, exec (.counterClear off v) s = .next t ∧ t = { s with regs := t.regs } ∧
      (∀ k < n, (bitOf v.toNat k = true → t.reg64 (b.base + g + 0x100 + 8 * k) = 0 ∧ t.regBit (b.base + g + 0xF0) k = false) ∧
        (bitOf v.toNat k = false → t.reg64 (b.base + g + 0x100 + 8 * k) = s.reg64 (b.base + g + 0x100 + 8 * k) ∧
          t.regBit (b.base + g + 0xF0) k = s.regBit (b.base + g + 0xF0) k)) ∧
      (∀ o, o ≠ b.base + g + 0xF0 → ¬(b.base + g + 0x100 ≤ o ∧ o < b.base + g + 0x100 + 8 * n) → t.reg o = s.reg o)) ∧
  (∀ (s : State) (v : U32), s.pins.powered = true → s.setupOnly = false →
    (∃ t, exec (.glbSetupLock v) s = .next t ∧ t = { s with regs := t.regs } ∧
      t.regBit 8 0 = (s.regBit 8 0 || bitOf v.toNat 0) ∧ ∀ o, o ≠ 8 → t.reg o = s.reg o) ∧
    (∀ k : BitVec 3, s.regBit 8 0 = false → ∃ t, exec (.memThermMode k v) s = .next t ∧ t = { s with regs := t.regs } ∧
      (∀ n < 8, t.reg (stackBase n + 8) = v.toNat % 2) ∧
      ∀ o, (∀ n < 8, o ≠ stackBase n + 8) → t.reg o = s.reg o) ∧
    (∀ t : TileId, t.ok = true → ∃ u, exec (.tileFlagClr t v) s = .next u ∧
      u.reg (tileRegs t + 0x20) = (if bitOf v.toNat 0 then 0 else s.reg (tileRegs t + 0x20)) ∧
      u.reg (tileRegs t + 0x24) = (if bitOf v.toNat 1 then 0 else s.reg (tileRegs t + 0x24)) ∧
      (∀ o, o ≠ tileRegs t + 0x20 → o ≠ tileRegs t + 0x24 → u.reg o = s.reg o) ∧
      u.tile t = { s.tile t with outIndex := if bitOf v.toNat 0 then 0 else (s.tile t).outIndex,
                                 outIndexEwl := if bitOf v.toNat 1 then 0 else (s.tile t).outIndexEwl } ∧
      (∀ x, x ≠ t → u.tile x = s.tile x) ∧ u = { s with regs := u.regs, tiles := u.tiles }) ∧
    exec (.ckptNow v) s = .next { s with ckpt := { s.ckpt with requested := s.ckpt.requested || bitOf v.toNat 0 } } ∧
    (s.holding = false → ∃ t, exec (.pwrLimit v) s = .next t ∧ EventFrame { s with regs := t.regs } t ∧
      t.reg (pwrBase + 8) = clampLimit (v.toNat % 8192) ∧
      t.reg (pwrBase + 0x14) = min (t.reg (pwrBase + 8)) (min (s.reg (pwrBase + 0xC)) (s.reg (pwrBase + 0x10))) ∧
      ∀ o, eventReg o = false → o ∉ [pwrBase, pwrBase + 8, pwrBase + 0x14] → t.reg o = s.reg o) ∧
    (bitOf v.toNat 0 = true → s.regBit (hifBase + 0x14) 0 = false → s.reg64 (hifBase + 0x18) % 4096 = 0 →
      ∃ t, exec (.hifSummaryReq v) s = .next t ∧ t.reg (hifBase + 0x14) = 2 ∧
        t.hostMem = Memory.write s.hostMem (s.reg64 (hifBase + 0x18)) (summaryBytes s (s.hif.summarySeq.toNat + 1)) ∧
        t.tiles = s.tiles ∧ t.cores = s.cores ∧ t.mem = s.mem) ∧
    exec (.pmcRecovCtrl v) s = .next s)) ∧
  (∀ (s : State) (v : U32), s.pins.powered = true → s.setupOnly = true → bitOf v.toNat 0 = true →
    s.regBit (pmcBase + 0x30) 0 = false → s.sec.updating = none →
    let bs := Memory.read s.hostMem (s.reg64 (pmcBase + 0x20)) (s.reg (pmcBase + 0x28))
    (packageStatus s bs = 0 → ∃ u, exec (.pmcRecovCtrl v) s = .next u ∧
      EventFrame ((commitOther (eraseOther s) ((parsePackage bs).getD [])).setReg (pmcBase + 0x30) 2) u ∧
      (u.flash.banks.getD s.sec.bank ⟨none, []⟩) = (s.flash.banks.getD s.sec.bank ⟨none, []⟩)) ∧
    (packageStatus s bs ≠ 0 →
      exec (.pmcRecovCtrl v) s = .next (s.setReg (pmcBase + 0x30) (2 + packageStatus s bs * 0x10000))))

/-- ENABLE is written on a well-formed ring: it starts with its indexes at zero and phase 0, and RUNNING is
shown; ENABLE is cleared: it is off, and entries not accepted are dropped; a base or length that R546 refuses
leaves it stopped with 0x8106. -/
def Obligations.RingEnableChecksConfiguration : Prop :=
  ∀ (s : State), s.pins.powered = true → s.setupOnly = false →
    (∀ (i : BitVec 6) (cfg : U32), bitOf (s.sqCfg i.toNat) 12 = false →
      let n := bitsOf cfg.toNat 4 0
      let j := bitsOf cfg.toNat 11 6
      (s.ringOk (s.reg64 (hifBase + 0x1000 + 0x20 * i.toNat)) n = true → s.cqOn j = true → (s.cq j).stopped = false →
        bitOf cfg.toNat 5 = bitOf (s.cqCfg j) 31 →
        ∃ t, exec (.sqEnable i cfg) s = .next t ∧ t.sq i.toNat = SubRing.fresh 1 0 ∧
          t.reg (hifBase + 0x100C + 0x20 * i.toNat) = 1 ∧ bitOf (t.sqCfg i.toNat) 12 = true ∧
          OnlyRing s t (hifBase + 0x1008 + 0x20 * i.toNat)) ∧
      (s.ringOk (s.reg64 (hifBase + 0x1000 + 0x20 * i.toNat)) n = false →
        ∃ t, exec (.sqEnable i cfg) s = .next t ∧ (t.sq i.toNat).state = 2 ∧ (t.sq i.toNat).stop = 0x8106 ∧
          RingFrame s { t with regs := s.regs })) ∧
    (∀ i : BitVec 6, bitOf (s.sqCfg i.toNat) 12 = true →
      ∃ t, exec (.sqDisable i) s = .next t ∧ t.sq i.toNat = SubRing.off ∧ bitOf (t.sqCfg i.toNat) 12 = false ∧
        OnlyRing s t (hifBase + 0x1008 + 0x20 * i.toNat)) ∧
    (∀ (j : BitVec 6) (cfg : U32), bitOf (s.cqCfg j.toNat) 14 = false → (s.cq j.toNat).held = [] →
      s.ringOk (s.reg64 (hifBase + 0x2000 + 0x20 * j.toNat)) (bitsOf cfg.toNat 4 0) = true →
      ∃ t, exec (.cqEnable j cfg) s = .next t ∧ t.cq j.toNat = CompRing.off ∧ bitOf (t.cqCfg j.toNat) 14 = true ∧
        OnlyRing s t (hifBase + 0x2008 + 0x20 * j.toNat)) ∧
    (∀ j : BitVec 6, bitOf (s.cqCfg j.toNat) 14 = true →
      (s.cqNamed j.toNat = true → exec (.cqDisable j) s = .next s) ∧
      (s.cqNamed j.toNat = false → ∃ t, exec (.cqDisable j) s = .next t ∧
        t.cq j.toNat = { CompRing.off with held := (s.cq j.toNat).held } ∧ bitOf (t.cqCfg j.toNat) 14 = false ∧
        OnlyRing s t (hifBase + 0x2008 + 0x20 * j.toNat))) ∧
    (∀ cfg : U32, s.regBit (hifBase + 0x28) 14 = false → s.hif.evqHeld = 0 →
      s.ringOk (s.reg64 (hifBase + 0x20)) (bitsOf cfg.toNat 4 0) = true →
      ∃ t, exec (.evqEnable cfg) s = .next t ∧ t.hif.evqTail = 0 ∧ t.hif.evqHead = 0 ∧ t.evqOpen = true ∧
        OnlyRing s t (hifBase + 0x28))

/-! ## Ring commands -/

/-- NOP, PHASE_MARK, READ_SUMMARY and CATCH_NOW complete with status OK at their turn. PHASE_MARK sets the phase of its ring
and of no other (R513); READ_SUMMARY writes the summary record at a 4 KiB aligned OUT and is refused with 0x8102
otherwise (R567); CATCH_NOW triggers a catch exactly while EN_HOST is set (R596). -/
def Obligations.HostCommandsComplete : Prop :=
  ∀ (s : State) (c : CmdCtx),
    (AtTurn s c 0x0000 [] → ∃ u, CompletesIn (.nop c) c s u 0 0 ∧ RingFrame s u) ∧
    (∀ phase, AtTurn s c 0x0002 [opnd 8 1 phase.toNat] →
      ∃ u, CompletesIn (.phaseMark c phase) c s u 0 0 ∧ RingFrame s u ∧ (u.sq c.sq.toNat).phaseId = phase ∧
        ∀ i, i ≠ c.sq.toNat → u.sq i = s.sq i) ∧
    (∀ out, AtTurn s c 0x0001 [opnd 8 8 out.toNat] → c.sq.toNat < 64 →
      (out.toNat % 4096 = 0 → ∃ v u, CompletesIn (.readSummary c out) c s u 0 (s.hif.summarySeq + 1).toNat ∧ RingFrame s v ∧
        u = { v with hostMem := u.hostMem, hif := u.hif } ∧
        u.hostMem = Memory.write v.hostMem out.toNat (summaryBytes v (s.hif.summarySeq.toNat + 1)) ∧
        u.hif.eventCounts = v.hif.eventCounts.map (fun e => (0, e.2))) ∧
      (out.toNat % 4096 ≠ 0 → ∃ u, CompletesIn (.readSummary c out) c s u 0x8102 0 ∧ RingFrame s u)) ∧
    (AtTurn s c 0x0071 [] →
      ∃ v u, CompletesIn (.catchNow c) c s u 0 0 ∧ RingFrame s v ∧ RingFrame s u ∧
        u = if v.regBit snapBase 0 then takeCatch v 0 else v)

/-- RING_INT: a well-formed submission or completion ring of a free index is set up in package memory with its
indexes at zero; disabling a submission ring drops what it has fetched and not accepted; a completion ring is
disabled unless an enabled ring names it (R546, R562). Other rings keep their state. -/
def Obligations.InternalRingsFollowRingInt : Prop :=
  ∀ (s : State) (c : CmdCtx) (base doorbell : U64) (index log2 : BitVec 8),
    (∀ cq : BitVec 8, AtTurn s c 0x0072 (ringIntSetup base doorbell index log2 0 ++ [opnd 0x1B 1 cq.toNat]) →
      intRingOk base doorbell index log2 = true → (s.sq (64 + index.toNat)).state = 0 →
      (s.sq (64 + index.toNat)).closing = false → cq.toNat < 64 → s.cqOn (64 + cq.toNat) = true →
      ∃ u, CompletesIn (.ringIntSq c base doorbell index log2 cq) c s u 0 0 ∧ RingFrame s u ∧
        u.sq (64 + index.toNat) = { SubRing.off with state := 1, base := base, log2 := log2.toNat, cq := cq.toNat, doorbell := doorbell } ∧
        (∀ k, k ≠ 64 + index.toNat → k ≠ c.sq.toNat → u.sq k = s.sq k) ∧ ∀ k, u.cq k = s.cq k) ∧
    (∀ notify : U16, AtTurn s c 0x0072 (ringIntSetup base doorbell index log2 1 ++ [opnd 0x1C 2 notify.toNat]) →
      intRingOk base doorbell index log2 = true → s.cqOn (64 + index.toNat) = false → (s.cq (64 + index.toNat)).held = [] →
      (notify.toNat < 16384 ∨ notify = 0xFFFF) →
      ∃ u, CompletesIn (.ringIntCq c base doorbell index log2 notify) c s u 0 0 ∧ RingFrame s u ∧
        u.cq (64 + index.toNat) = { CompRing.off with enabled := true, base := base, log2 := log2.toNat, doorbell := doorbell, notify := notify } ∧
        (∀ k, k ≠ 64 + index.toNat → u.cq k = s.cq k) ∧ ∀ k, k ≠ c.sq.toNat → u.sq k = s.sq k) ∧
    (AtTurn s c 0x0072 (ringIntKind index 2) → index.toNat < 64 → (s.sq (64 + index.toNat)).state ≠ 0 →
      ∃ u, CompletesIn (.ringIntSqDisable c index) c s u 0 0 ∧ RingFrame s u ∧
        u.sq (64 + index.toNat) = { s.sq (64 + index.toNat) with state := 0, fetched := [], closing := true } ∧
        (∀ k, k ≠ 64 + index.toNat → k ≠ c.sq.toNat → u.sq k = s.sq k) ∧ ∀ k, u.cq k = s.cq k) ∧
    (AtTurn s c 0x0072 (ringIntKind index 3) → index.toNat < 64 →
      ∃ u, CompletesIn (.ringIntCqDisable c index) c s u 0 0 ∧ RingFrame s u ∧
        (s.intCqNamed index.toNat = true → ∀ k, u.cq k = s.cq k) ∧
        (s.intCqNamed index.toNat = false →
          u.cq (64 + index.toNat) = { CompRing.off with held := (s.cq (64 + index.toNat)).held } ∧
          ∀ k, k ≠ 64 + index.toNat → u.cq k = s.cq k))

/-- MEM_MAP, when none of R330's refusals applies, maps every page of its range onto its frame, and every byte of
the frames reads zero with no mark (R331); MEM_UNMAP removes the entries of its range and ignores pages that are not
mapped. Entries, bytes and marks outside the ranges keep their values.

COPY: ranges that touch the tile-store window or each other are refused with 0x8102 and nothing moves; otherwise
the command starts and its lines move, and a range within one line of the host memory window arrives whole; once
its last line is written, COPY_DONE posts its completion (R559). -/
def Obligations.MappingAndCopyCommandsAct : Prop :=
  (∀ (s : State) (c : CmdCtx) (vaddr paddr : U64) (count : U32) (attr : BitVec 8),
    (AtTurn s c 0x0010 [opnd 8 8 vaddr.toNat, opnd 0x10 8 paddr.toNat, opnd 0x18 4 count.toNat, opnd 0x1C 1 attr.toNat] →
      s.framesHeld paddr.toNat (min count.toNat 524288) = false →
      mapFault s vaddr.toNat paddr.toNat count.toNat attr.toNat = 0 →
      ∃ u, CompletesIn (.memMap c vaddr paddr count attr) c s u 0 0 ∧ RingFrame { s with mem := u.mem } u ∧
        (∀ i < count.toNat, ∃ e, kvGet u.mem.xlt (vaddr.toNat / 0x200000 + i) = some e ∧ entryBit e 0 = true ∧
          entryFrame e = paddr.toNat / 0x200000 + i ∧ entryClass e = bitsOf attr.toNat 5 4 ∧
          ∀ b, 1 ≤ b → b < 7 → entryBit e b = bitOf attr.toNat b) ∧
        (∀ p, ¬(vaddr.toNat / 0x200000 ≤ p ∧ p < vaddr.toNat / 0x200000 + count.toNat) → kvGet u.mem.xlt p = kvGet s.mem.xlt p) ∧
        (∀ a, Memory.get u.mem.bytes a = if paddr.toNat ≤ a ∧ a < paddr.toNat + count.toNat * 0x200000 then 0 else Memory.get s.mem.bytes a) ∧
        (∀ a, u.lineMark a = if paddr.toNat ≤ a ∧ a < paddr.toNat + count.toNat * 0x200000 then none else s.lineMark a)) ∧
    (AtTurn s c 0x0011 [opnd 8 8 vaddr.toNat, opnd 0x10 4 count.toNat] → vaddr.toNat % 0x200000 = 0 → count ≠ 0 →
      vaddr.toNat + count.toNat * 0x200000 ≤ 0x10000000000 → s.mem.windowOpen = false →
      ∃ u, CompletesIn (.memUnmap c vaddr count) c s u 0 0 ∧ RingFrame { s with mem := u.mem } u ∧
        (∀ p, kvGet u.mem.xlt p = if vaddr.toNat / 0x200000 ≤ p ∧ p < vaddr.toNat / 0x200000 + count.toNat then none else kvGet s.mem.xlt p) ∧
        u.mem.bytes = s.mem.bytes ∧ u.mem.marks = s.mem.marks)) ∧
  (∀ (s : State) (c : CmdCtx) (src dst bytes : U64),
    (AtTurn s c 0x0012 [opnd 8 8 src.toNat, opnd 0x10 8 dst.toNat, opnd 0x18 8 bytes.toNat] →
      ((touchesStore src.toNat bytes.toNat = true ∨ touchesStore dst.toNat bytes.toNat = true ∨
          overlaps src.toNat bytes.toNat dst.toNat bytes.toNat = true) →
        ∃ u, CompletesIn (.copy c src dst bytes) c s u 0x8102 0 ∧ RingFrame s u) ∧
      (0 < bytes.toNat → src.toNat % 128 + bytes.toNat ≤ 128 → dst.toNat % 128 + bytes.toNat ≤ 128 →
        resolve s src.toNat false = .ok (.host (src.toNat - 0x100000000000)) →
        resolve s dst.toNat true = .ok (.host (dst.toNat - 0x100000000000)) →
        resolve s dst.toNat false = .ok (.host (dst.toNat - 0x100000000000)) →
        overlaps src.toNat bytes.toNat dst.toNat bytes.toNat = false →
        ∃ v u, StartsIn (.copy c src dst bytes) c s u ∧ RingFrame s v ∧ u.started c ∧
          u = { v with hostMem := u.hostMem, hif := u.hif } ∧
          u.hostMem = Memory.write v.hostMem (dst.toNat - 0x100000000000)
            (Memory.read v.hostMem (src.toNat - 0x100000000000) bytes.toNat) ∧
          ∃ k ∈ u.hif.copies, k.cmd = c ∧ k.left = 0 ∧ k.status = 0)) ∧
    (∀ k, s.pins.powered = true → s.hif.copies.find? (fun x => x.cmd == c) = some k → k.left = 0 →
      exec (.copyDone c) s = .next (finish { s with hif := { s.hif with
        copies := dropFirst (fun x => x.cmd == c) s.hif.copies } } c k.status 0)))

/-- SYNC_OP on an own counter, when nothing accepted before it on its ring is outstanding, adds or sets modulo 2^64,
completes with OK, and leaves every other counter alone; SYNC_WAIT completes at once with the counter's value when it
is at least VALUE, and otherwise stays outstanding with a wait for it (R434, R435, R560).

A bulk registration is made and ended under its key (R392); MSG_SEND and BULK_PUT to a member start with their
request sent or queued toward its fabric identifier; MSG_RECV posts its receive when the unexpected store holds no
match, and otherwise takes the oldest match (R390, R391). -/
def Obligations.SyncAndMessageCommandsAct : Prop :=
  (∀ (s : State) (c : CmdCtx) (value : U64) (counter : U16), counter.toNat < 16384 →
    (∀ member, memberTarget s member = .ok none → counter ≠ 16383 → s.hif.syncOps = [] → s.ringBusy c.sq.toNat = false →
      (AtTurn s c 0x0044 (syncOperands value member counter 1) →
        ∃ u, exec (.syncOpAdd c value member counter) s = .next (afterCommand (finishOne u c 0 0) c) ∧
          RingFrame { s with sync := u.sync } u ∧ u.sync.waits = s.sync.waits ∧
          u.syncVal counter.toNat = (s.syncVal counter.toNat + value.toNat) % 2 ^ 64 ∧
          ∀ k, k ≠ counter.toNat → u.syncVal k = s.syncVal k) ∧
      (AtTurn s c 0x0044 (syncOperands value member counter 2) →
        ∃ u, exec (.syncOpSet c value member counter) s = .next (afterCommand (finishOne u c 0 0) c) ∧
          RingFrame { s with sync := u.sync } u ∧ u.sync.waits = s.sync.waits ∧
          u.syncVal counter.toNat = value.toNat ∧ ∀ k, k ≠ counter.toNat → u.syncVal k = s.syncVal k)) ∧
    (AtTurn s c 0x0045 [opnd 8 8 value.toNat, opnd 0x10 2 counter.toNat] →
      (value.toNat ≤ s.syncVal counter.toNat →
        ∃ u, CompletesIn (.syncWait c value counter) c s u 0 (s.syncVal counter.toNat) ∧ RingFrame s u) ∧
      (s.syncVal counter.toNat < value.toNat →
        ∃ u, StartsIn (.syncWait c value counter) c s u ∧ RingFrame { s with sync := u.sync } u ∧ u.started c ∧
          (∀ k, u.syncVal k = s.syncVal k) ∧
          ∃ w, u.sync.waits = s.sync.waits ++ [w] ∧ w.who = .host c ∧ w.counter = counter.toNat ∧ w.value = value))) ∧
  (∀ (s : State) (c : CmdCtx),
    (∀ vaddr bytes key, AtTurn s c 0x0052 [opnd 8 8 vaddr.toNat, opnd 0x10 8 bytes.toNat, opnd 0x18 2 key.toNat] →
      key ≠ 0xFFFF → s.fab.bulkRegs.length < 4096 →
      ∃ u, CompletesIn (.bufReg c vaddr bytes key) c s u 0 0 ∧
        RingFrame { s with fab := u.fab } u ∧ u.fab = { s.fab with bulkRegs := u.fab.bulkRegs } ∧
        u.fab.bulkRegs = s.fab.bulkRegs.filter (fun e => e.1 != key.toNat) ++ [(key.toNat, vaddr, bytes)]) ∧
    (∀ key, AtTurn s c 0x0053 [opnd 8 2 key.toNat] →
      (key ≠ 0xFFFF → ∃ u, CompletesIn (.bufDereg c key) c s u 0 0 ∧
        RingFrame { s with fab := u.fab } u ∧ u.fab = { s.fab with bulkRegs := u.fab.bulkRegs } ∧
        u.fab.bulkRegs = s.fab.bulkRegs.filter (fun e => e.1 != key.toNat)) ∧
      (key = 0xFFFF → ∃ u, CompletesIn (.bufDereg c key) c s u 0x8708 0 ∧ RingFrame s u)) ∧
    (∀ src tag member bytes queue d, AtTurn s c 0x0050 [opnd 8 8 src.toNat, opnd 0x10 8 tag.toNat, opnd 0x18 4 member.toNat,
        opnd 0x1C 2 bytes.toNat, opnd 0x1E 1 queue.toNat] →
      s.rangeHeld src.toNat bytes.toNat = false → bytes.toNat ≤ 1024 → s.memberId member.toNat = some d →
      (readVA (accept s c 0x50) agentHost src.toNat bytes.toNat).2.1 = 0 →
      ∃ v bs r u, readVA (accept s c 0x50) agentHost src.toNat bytes.toNat = (v, 0, bs) ∧
        StartsIn (.msgSend c src tag member bytes queue) c s u ∧ u = sendReq (markStarted v c) r ∧
        r.typ = .msg ∧ r.hdr.dstId = BitVec.ofNat 16 d ∧ r.hdr.op = queue ∧ r.hdr.addr = tag ∧ r.data = bs ∧ r.origin = .host c) ∧
    (∀ buf tag mask bytes queue, AtTurn s c 0x0051 [opnd 8 8 buf.toNat, opnd 0x10 8 tag.toNat, opnd 0x18 8 mask.toNat,
        opnd 0x20 2 bytes.toNat, opnd 0x22 1 queue.toNat] → s.rangeHeld buf.toNat bytes.toNat = false →
      let r : Recv := { queue := queue.toNat, buf := buf, tag := tag, mask := mask, bytes := bytes.toNat, cmd := c }
      (s.fab.unexpected.find? r.takes = none →
        ∃ u, StartsIn (.msgRecv c buf tag mask bytes queue) c s u ∧ u.started c ∧
          RingFrame { s with fab := u.fab } u ∧ u.fab = { s.fab with recvs := s.fab.recvs ++ [r] }) ∧
      (∀ x, s.fab.unexpected.find? r.takes = some x →
        ∃ v u st, CompletesIn (.msgRecv c buf tag mask bytes queue) c s u st
            (x.payload.length + (s.rankOf x.src.toNat).getD 0 * 0x10000) ∧
          RingFrame { s with fab := v.fab } v ∧ v.fab = { s.fab with unexpected := v.fab.unexpected, unexpFull := false } ∧
          v.fab.unexpected = dropFirst (fun y => y == x) s.fab.unexpected ∧
          u = (writeVA v agentHost buf.toNat (x.payload.take bytes.toNat)).1 ∧
          ((writeVA v agentHost buf.toNat (x.payload.take bytes.toNat)).2 = 0 →
            st = if bytes.toNat < x.payload.length then 0x0130 else 0))) ∧
    (∀ src offset lines member xferId key counter d, AtTurn s c 0x0054 [opnd 8 8 src.toNat, opnd 0x10 8 offset.toNat,
        opnd 0x18 4 lines.toNat, opnd 0x1C 4 member.toNat, opnd 0x20 4 xferId.toNat, opnd 0x24 2 key.toNat, opnd 0x26 2 counter.toNat] →
      s.rangeHeld src.toNat (128 * lines.toNat) = false → (counter.toNat < 16383 ∨ counter = 0xFFFF) →
      offset.toNat % 128 = 0 → offset.toNat + 128 * lines.toNat < 2 ^ 48 → lines ≠ 0 → s.memberId member.toNat = some d →
      (readVA (accept s c 0x54) agentHost src.toNat (128 * lines.toNat)).2.1 = 0 →
      ∃ u, StartsIn (.bulkPut c src offset lines member xferId key counter) c s u ∧
        (c, BitVec.ofNat 16 d, xferId, lines.toNat) ∈ u.fab.bulkPuts))

/-- A completion on a host ring that has space and holds none before it is written in host memory at its position with
PHASE = 1 − ((k >> n) & 1), and the tail moves on by one (R548, R555). Other completion rings keep their state. -/
def Obligations.CompletionIsWrittenAtTail : Prop :=
  ∀ (s : State) (x : Completion), let j := s.sqCq x.ctx.sq.toNat
    x.ctx.sq.toNat < 64 → s.cqOn j = true → (s.cq j).stopped = false → (s.cq j).held = [] → s.cqRoom j = true →
    bitOf (s.cqCfg j) 31 = false →
    let k := (s.cq j).tail.toNat
    let a := s.reg64 (hifBase + 0x2000 + 0x20 * j) + 32 * (k % 2 ^ s.cqLog j)
    (∀ b, a ≤ b → b < a + 32 → inEventRing s b = false) →
    (post s x).cq j = { s.cq j with tail := (s.cq j).tail + 1, unsignalled := (s.cq j).unsignalled + 1,
                                    firstAt := if (s.cq j).unsignalled = 0 then s.tim.now else (s.cq j).firstAt } ∧
    (∀ i, i ≠ j → (post s x).cq i = s.cq i) ∧
    Memory.read (post s x).hostMem a 32 = completionBytes false x (1 - (k >>> s.cqLog j) % 2) ∧
    (∀ b, ¬(a ≤ b ∧ b < a + 32) → inEventRing s b = false → Memory.get (post s x).hostMem b = Memory.get s.hostMem b) ∧
    RingFrame s { post s x with hostMem := s.hostMem }

/-! ## Tiles -/

/-- A script fetch leaves every core, the job, the translation table, the stored bytes of stack memory, the
synchronisation counters, the fabric's state and the outstanding commands as they were; one from stack memory changes
no tile either (R123). -/
def Obligations.ScriptFetchFrame : Prop :=
  ∀ (s : State) (t : TileId),
    (fetched s t).cores = s.cores ∧ (fetched s t).job = s.job ∧ (fetched s t).mem.xlt = s.mem.xlt ∧
    (fetched s t).mem.bytes = s.mem.bytes ∧ (fetched s t).sync = s.sync ∧ (fetched s t).fab = s.fab ∧
    (fetched s t).hif.outCmds = s.hif.outCmds ∧
    (∀ pa, resolve s (s.tile t).pc.toNat false = .ok (.stack pa) → (fetched s t).tiles = s.tiles)

/-- The control instructions of a tile (R115, R117): NOP goes on; SET and ADDS write their scalar register, of which S0
stays zero; LOOP enters its body with its count less one and skips an empty one; BRNZ goes to the branch target and
ends the loops that the target leaves; a fifth nested LOOP stops the script with 0x8633. Nothing outside the tile
changes. -/
def Obligations.TileControlInstructions : Prop :=
  ∀ (s : State) (t : TileId) (w : TWord), let v := fetched s t; let x := v.tile t
    (TileAt s t 0 0 w → exec (.tileNop t w) s = .next (v.setTile t x.next)) ∧
    (TileAt s t 0 4 w → exec (.setS t w) s = .next (v.setTile t (x.setS w.sa w.arg2).next)) ∧
    (TileAt s t 0 5 w → exec (.adds t w) s = .next (v.setTile t (x.setS w.sa (x.s (w.arg0.setWidth 4) + w.arg2)).next)) ∧
    (∀ i n : BitVec 4, ∀ d : U64, x.sregs.length = 16 →
      (x.setS i d).s n = if n = 0 then 0 else if n = i then d else x.s n) ∧
    (TileAt s t 0 2 w → x.loops.length < 4 → x.s w.sa ≠ 0 → w.arg0 ≠ 0 →
      exec (.loop t w) s = .next (v.setTile t { x with pc := x.pc + 16, loops :=
        { first := x.pc + 16, stop := x.pc + 16 + BitVec.ofNat 64 (16 * w.arg0.toNat), left := x.s w.sa - 1 } :: x.loops })) ∧
    (TileAt s t 0 2 w → x.loops.length < 4 → (x.s w.sa = 0 ∨ w.arg0 = 0) → ∃ u, exec (.loop t w) s = .next u ∧
      u = v.setTile t { x with pc := (u.tile t).pc, loops := (u.tile t).loops } ∧
      (x.loops = [] → (u.tile t).pc = x.pc + 16 + BitVec.ofNat 64 (16 * w.arg0.toNat))) ∧
    (TileAt s t 0 2 w → 4 ≤ x.loops.length → exec (.loop t w) s = .next (stopScript v t 0x8633 x.pc)) ∧
    (TileAt s t 0 3 w → x.s w.sa = 0 → exec (.brnz t w) s = .next (v.setTile t x.next)) ∧
    (TileAt s t 0 3 w → x.s w.sa ≠ 0 → exec (.brnz t w) s = .next (v.setTile t { x with
      pc := x.pc + w.arg1.signExtend 64 * 16, loops := loopsAround x.loops (x.pc + w.arg1.signExtend 64 * 16) }))

/-- SC_ADD and SC_SET on an own counter, once every earlier instruction has completed, add or set it modulo 2^64 and go
on; SC_WAIT goes on at once when its counter has the value and otherwise waits; FENCE goes on when no instruction is
outstanding and leaves the tile as it is before (R122, R432, R434, R435).

A wait ends once its counter is at least its value: a tile's SC_WAIT lets its sequencer go on, a core's lets its
program run, and a SYNC_WAIT completes with the counter's value. A wait whose counter is below its value stays
(R435). -/
def Obligations.TileSyncInstructionsAndWaits : Prop :=
  (∀ (s : State) (t : TileId) (w : TWord), let v := fetched s t; let x := v.tile t; let c := w.arg0.toNat
    (x.inflight = [] → c < 16383 → memberTarget v w.arg1 = .ok none →
      (TileAt s t 4 1 w → ∃ u, exec (.scAdd t w) s = .next u ∧ RingFrame { v with sync := u.sync, tiles := u.tiles } u ∧
        u.syncVal c = (v.syncVal c + w.arg2.toNat) % 2 ^ 64 ∧ (∀ k, k ≠ c → u.syncVal k = v.syncVal k) ∧
        u.tile t = x.next ∧ ∀ y, y ≠ t → u.tile y = v.tile y) ∧
      (TileAt s t 4 2 w → ∃ u, exec (.scSet t w) s = .next u ∧ RingFrame { v with sync := u.sync, tiles := u.tiles } u ∧
        u.syncVal c = w.arg2.toNat ∧ (∀ k, k ≠ c → u.syncVal k = v.syncVal k) ∧
        u.tile t = x.next ∧ ∀ y, y ≠ t → u.tile y = v.tile y)) ∧
    (TileAt s t 4 3 w → c < 16384 →
      (w.arg2.toNat ≤ v.syncVal c → exec (.scWait t w) s = .next (v.setTile t x.next)) ∧
      (v.syncVal c < w.arg2.toNat → x.mustWait .sync [] [] = false →
        ∃ u k, exec (.scWait t w) s = .next u ∧ (u.tile t).wait = some (c, w.arg2) ∧ u.sync.waits = v.sync.waits ++ [k] ∧
          k.who = .tile t ∧ k.counter = c ∧ k.value = w.arg2 ∧ (∀ j, u.syncVal j = v.syncVal j) ∧
          (∀ y, y ≠ t → u.tile y = v.tile y) ∧ (u.tile t).store = x.store)) ∧
    (TileAt s t 4 4 w → exec (.fence t w) s = .next (if x.inflight.isEmpty then v.setTile t x.next else v))) ∧
  (∀ (s : State) (k : Wait), s.pins.powered = true → s.waitOf k.who = some k →
    (s.syncVal k.counter < k.value.toNat → exec (.scWaitSatisfied k.who) s = .next s ∧ exec (.waitPoll k.who) s = .next s) ∧
    (k.value.toNat ≤ s.syncVal k.counter →
      (if k.polled then exec (.waitPoll k.who) s else exec (.scWaitSatisfied k.who) s) = .next (endWait s k) ∧
      (∀ t, k.who = .tile t → ((endWait s k).tile t).wait = none ∧ ∀ y, y ≠ t → (endWait s k).tile y = s.tile y) ∧
      (∀ c, k.who = .core c → endWait s k = (dropWait s k.who).modCore c.toNat (fun x => { x with scWait := none })) ∧
      (∀ c, k.who = .host c → (∃ o, s.outCmd c = some o ∧ o.opcode = 0x45) →
        endWait s k = finish (dropWait s k.who) c 0 (s.syncVal k.counter))))

/-- FLAGRD reads the flag record that ARG0 names into its scalar register; FLAGCLR clears the records that ARG0 selects
and their counts of output tiles (R126).

END, once every earlier instruction has completed, leaves the tile idle; while other launches of its TILE_RUN are
left, the command's record counts one down, and with the last one the command completes with the status of the first
tile that did not end OK (R114, R558). -/
def Obligations.FlagsAndEndOfAScript : Prop :=
  (∀ (s : State) (t : TileId) (w : TWord), let v := fetched s t; let x := v.tile t
    (TileAt s t 5 1 w → w.arg0.toNat < 2 → exec (.flagRd t w) s = .next (v.setTile t
      (x.setS w.sa (BitVec.ofNat 64 (v.reg (tileRegs t + (if w.arg0 = 0 then 0x20 else 0x24))))).next)) ∧
    (TileAt s t 5 2 w → w.arg0.toNat < 4 → ∃ u, exec (.flagClr t w) s = .next u ∧
      u = { v with regs := u.regs, tiles := u.tiles } ∧
      u.tile t = ({ x with outIndex := if bitOf w.arg0.toNat 0 then 0 else x.outIndex,
                           outIndexEwl := if bitOf w.arg0.toNat 1 then 0 else x.outIndexEwl } : Tile).next ∧
      (∀ y, y ≠ t → u.tile y = v.tile y) ∧
      u.reg (tileRegs t + 0x20) = (if bitOf w.arg0.toNat 0 then 0 else v.reg (tileRegs t + 0x20)) ∧
      u.reg (tileRegs t + 0x24) = (if bitOf w.arg0.toNat 1 then 0 else v.reg (tileRegs t + 0x24)) ∧
      ∀ o, o ≠ tileRegs t + 0x20 → o ≠ tileRegs t + 0x24 → u.reg o = v.reg o)) ∧
  (∀ (s : State) (t : TileId) (w : TWord) (l : TileLaunch) (r : TileRunState), let v := fetched s t; let x := v.tile t
    TileAt s t 0 1 w → x.inflight = [] → x.running = some l → v.hif.tileRuns.find? (fun e => e.cmd == l.cmd) = some r →
    let y := v.setTile t { x with phase := .idle, loops := [], running := none }
    let rest := dropFirst (fun e : TileRunState => e.cmd == l.cmd) v.hif.tileRuns
    (2 ≤ r.left → exec (.endScript t w) s = .next { y with hif := { y.hif with tileRuns := rest ++ [{ r with left := r.left - 1 }] } }) ∧
    (r.left = 1 → r.worst = none →
      exec (.endScript t w) s = .next (finish { y with hif := { y.hif with tileRuns := rest } } l.cmd 0 0)) ∧
    (∀ k, r.left = 1 → r.worst = some k → exec (.endScript t w) s = .next (finish { y with hif := { y.hif with tileRuns := rest } } l.cmd
      k.2.2.2.toNat (k.2.2.1 + k.2.1.die.toNat * 0x100))))

/-- A launch that waits for an idle tile starts with its script's address, its argument words in S8 to S15 and zero in
S0 to S7 (R114, R115); a completed matrix or element instruction frees its queue entry; zeroing leaves the store zero and no line
poisoned (R110). A TILE_RUN on idle, healthy tiles is outstanding with one launch waiting on each of them (R558). -/
def Obligations.TileLaunchesStart : Prop :=
  ∀ (s : State) (t : TileId), s.pins.powered = true →
    (∀ l r, (s.tile t).waiting = l :: r → (s.tile t).running = none → (s.tile t).phase ≠ .faulty → (s.tile t).zeroing = false →
      (s.tile t).reserved = none → s.holding = false →
      ∃ u, exec (.tileScriptStart t) s = .next u ∧ u = { s with tiles := u.tiles, regs := u.regs } ∧
        (u.tile t).phase = .running ∧ (u.tile t).running = some l ∧ (u.tile t).waiting = r ∧ (u.tile t).pc = l.script ∧
        (u.tile t).sregs = List.replicate 8 0 ++ l.args ∧ (u.tile t).loops = [] ∧ (u.tile t).store = (s.tile t).store ∧
        (l.clearFlags = true → u.reg (tileRegs t + 0x20) = 0 ∧ u.reg (tileRegs t + 0x24) = 0 ∧ (u.tile t).outIndex = 0) ∧
        (l.clearFlags = false → u.regs = s.regs) ∧ ∀ y, y ≠ t → u.tile y = s.tile y) ∧
    (∀ un e, (un = .matrix ∨ un = .element) → (s.tile t).inflight.find? (fun e => e.unit == un) = some e →
      (s.tile t).stopping = none →
      exec (.instructionCompletion t un) s =
        .next (s.modTile t (fun x => { x with inflight := dropFirst (fun k => k.id == e.id) x.inflight }))) ∧
    ((s.tile t).zeroing = true → exec (.tileZeroingDone t) s =
      .next (s.modTile t (fun x => { x with zeroing := false, store := [], poison := [], latent := [], used := false }))) ∧
    (∀ c script args first count dies opts, AtTurn s c 0x0020 [opnd 8 8 script.toNat, opnd 0x10 8 args.toNat, opnd 0x18 2 first.toNat,
        opnd 0x1A 2 count.toNat, opnd 0x1C 1 dies.toNat, opnd 0x1D 1 opts.toNat] →
      badTileSet s first.toNat count.toNat dies.toNat = false → script.toNat % 16 = 0 →
      let set := (tileSet s first.toNat count.toNat dies.toNat).map (fun e => e.2.2)
      set ≠ [] → set.Nodup → s.rangeHeld args.toNat (64 * set.length) = false →
      (∀ y, (readArgs set.length args.toNat 0 (accept s c 0x20) []).1.tile y = s.tile y) →
      (readArgs set.length args.toNat 0 (accept s c 0x20) []).2.2 = none →
      (∀ y ∈ set, (s.tile y).phase ≠ .faulty ∧ (s.tile y).reserved = none) →
      ∃ u, StartsIn (.tileRun c script args first count dies opts) c s u ∧ u.started c ∧
        (∀ y ∈ set, ∃ l, (u.tile y).waiting = (s.tile y).waiting ++ [l] ∧ l.script = script ∧ l.cmd = c ∧
          l.clearFlags = !bitOf opts.toNat 0) ∧
        (∀ y, y ∉ set → u.tile y = s.tile y) ∧
        ∃ k ∈ u.hif.tileRuns, k.cmd = c ∧ k.left = set.length ∧ k.worst = none)

/-- DMA_IN and DMA_OUT of the own package, when the descriptor and its tile-store area are in order and nothing is held:
the transfer is dispatched, and DMA_IN of a row within one line of host memory lands in the tile store while DMA_OUT
of one lands in host memory; DMA_TRANSFER_DONE retires the first transfer that has moved its last line (R111,
R122). -/
def Obligations.DmaMovesRows : Prop :=
  ∀ (s : State) (t : TileId) (w : TWord), let v := fetched s t; let x := v.tile t
    (∀ out, TileAt s t 3 (if out then 2 else 1) w → CleanTile v t → descAddr x w % 64 = 0 → descAddr x w + 64 ≤ storeBytes →
      let d := dmaOf out (descOf x w)
      x.inflight = [] → dmaFault d = 0 → memberTarget v (BitVec.ofNat 32 (fieldLE (descOf x w) 0x10 4)) = .ok none →
      d.rows = 1 → 0 < d.rowBytes → d.vaddr.toNat % 128 + d.rowBytes ≤ 128 → v.vaHeld d.vaddr.toNat = false →
      ∀ a, resolve v d.vaddr.toNat out = .ok (.host a) → (∀ b, a ≤ b → b < a + d.rowBytes → inEventRing v b = false) →
      ∃ u e, exec (if out then .dmaOut t w else .dmaIn t w) s = .next u ∧ (u.tile t).inflight = [e] ∧ e.unit = .dma ∧
        (∃ k, e.dma = some k ∧ k.moved = true) ∧ (u.tile t).pc = x.next.pc ∧
        (out = false → TileFrame t v u ∧ (u.tile t).store = Memory.write x.store (d.tsAddr * 64) (Memory.read v.hostMem a d.rowBytes)) ∧
        (out = true → TileFrame t { v with hostMem := Memory.write v.hostMem a (Memory.read x.store (d.tsAddr * 64) d.rowBytes) } u ∧
          (u.tile t).store = x.store)) ∧
    (∀ e d, s.pins.powered = true → (s.tile t).inflight = [e] → e.dma = some d → d.remote = none →
      d.pieces.length ≤ d.next → (s.tile t).stopping = none →
      ∃ u, exec (.dmaTransferDone t) s = .next u ∧ (u.tile t).inflight = [] ∧ (u.tile t).store = (s.tile t).store ∧
        u = { s with tiles := u.tiles } ∧ ∀ y, y ≠ t → u.tile y = s.tile y)

/-- Every element-class instruction (EADD to CMIN), when its descriptor passes the checks of R620 and nothing it
waits for is outstanding, is dispatched: exactly the writes of its effect reach the tile store, its queue entry holds its
footprints, and the sequencer goes on. Every byte of the store outside those writes, every scalar register, every
other tile and everything outside the tile but counters stay as they were. -/
def Obligations.ElementInstructionsComplete : Prop :=
  ∀ (s : State) (i : Instr) (op : Nat) (t : TileId) (w : TWord), elementOp i = some (op, t, w) → t.ok = true →
    let v := fetched s t; let x := v.tile t; let d := parseEop (descOf x w)
    TileAt s t 2 op w → CleanTile v t → x.inflight = [] → descAddr x w % 64 = 0 → descAddr x w + 64 ≤ storeBytes →
    eopFault v d op = 0 →
    let e := eopEffect v d x op
    ∃ u k, exec i s = .next u ∧ TileFrame t v u ∧ (u.tile t).inflight = [k] ∧ k.unit = .element ∧
      k.writes = (d.writes op).map Area.span ∧
      (u.tile t).store = e.writes.foldl (fun m p => Memory.write m p.1 p.2) x.store ∧
      (∀ a, (∀ p ∈ e.writes, ¬(p.1 ≤ a ∧ a < p.1 + p.2.length)) → Memory.get (u.tile t).store a = Memory.get x.store a) ∧
      (u.tile t).sregs = x.sregs ∧ (u.tile t).pc = x.next.pc ∧ (u.tile t).loops = x.next.loops ∧ (u.tile t).phase = x.phase

/-- Element-wise results in FP32 without a mask or stochastic rounding: element (r, j) of the output holds the code of the
operation's value, rounded once (R163, R170, R175). -/
def Obligations.ElementWiseResultIsStored : Prop :=
  ∀ (s : State) (i : Instr) (op : Nat) (t : TileId) (w : TWord), elementOp i = some (op, t, w) → t.ok = true →
    let v := fetched s t; let x := v.tile t; let d := parseEop (descOf x w)
    TileAt s t 2 op w → CleanTile v t → x.inflight = [] → descAddr x w % 64 = 0 → descAddr x w + 64 ≤ storeBytes →
    eopFault v d op = 0 → op ∈ [0x01, 0x02, 0x03, 0x04, 0x05, 0x06, 0x09, 0x0A, 0x0D] →
    d.cfmt = 1 → d.fmtOut = 1 → d.maskMode = 0 → d.sr = false →
    ∃ u, exec i s = .next u ∧ ∀ r j, r < d.rows → j < d.cols →
      let a := d.x.value x r j; let b := d.y.value x r j
      (u.tile t).elem .fp32 d.addrZ d.pitchZ r j = (fp32.convert d.nonsat .rne (match op with
        | 0x01 => fp32.round (a.add b) | 0x02 => fp32.round (a.sub b) | 0x03 => fp32.round (a.mul b)
        | 0x04 => fp32.round ((a.mul b).add (d.w.value x r j)) | 0x05 => fp32.round (a.div b)
        | 0x06 => fp32.round (Fp.sqrt a) | 0x09 => fp32.round a.abs | 0x0A => fp32.round a.neg | _ => a)).bits

/-- MMA, when its descriptor passes the checks of R619 and nothing it waits for is outstanding, is dispatched: exactly
the writes of its effect reach the tile store, and the sequencer goes on. Everything else stays as it was but the
tile's flag records and counters. -/
def Obligations.MmaCompletes : Prop :=
  ∀ (s : State) (t : TileId) (w : TWord), t.ok = true →
    let v := fetched s t; let x := v.tile t; let d := parseMma (descOf x w)
    TileAt s t 1 1 w → CleanTile v t → x.inflight = [] → descAddr x w % 64 = 0 → descAddr x w + 64 ≤ storeBytes →
    mmaFault v t d = 0 →
    let e := mmaEffect v d x
    ∃ u k, exec (.mma t w) s = .next u ∧ TileFrame t v u ∧ (u.tile t).inflight = [k] ∧ k.unit = .matrix ∧
      (u.tile t).store = e.writes.foldl (fun m p => Memory.write m p.1 p.2) x.store ∧
      (∀ a, (∀ p ∈ e.writes, ¬(p.1 ≤ a ∧ a < p.1 + p.2.length)) → Memory.get (u.tile t).store a = Memory.get x.store a) ∧
      (u.tile t).sregs = x.sregs ∧ (u.tile t).pc = x.next.pc ∧ (u.tile t).loops = x.next.loops ∧ (u.tile t).phase = x.phase

/-! ## Power-up, resets, pins and the host link -/

/-- POWER_UP of an unpowered package ends with PKG_READY. With no bank to run the boot ROM waits for recovery and shows
the status; else the chosen bank runs, the rollback fuses follow its images, the rigger table is built from the journal, stacks
train, no job is bound and no tile or core holds anything; 'hold water' low at power-up leaves HOLDING set (R572 to R583,
R607). VIN_LOSS loses everything but what the flash keeps (R575, R587). -/
def Obligations.PowerUpBoots : Prop :=
  ∀ (s : State) (env : PowerUpEnv), let a := coldStart s env
    (s.pins.powered = false →
      (∃ t, exec (.powerUp env) s = .next t ∧ t.pins.pkgReady = true) ∧
      (∀ st, selectBank a env.devOpen = .error st → exec (.powerUp env) s = .next { a with
        rig := factoryRig s, sec := { a.sec with romRecovery := true, bootStatus := BitVec.ofNat 16 st },
        pins := { a.pins with pkgReady := true } }) ∧
      (∀ b fb, selectBank a env.devOpen = .ok (b, fb) → env.failedUnits = [] → env.failedSupervisors = [] → env.failedStacks = [] →
        s.flash.ownerConfigRaw = [] → ∃ t, exec (.powerUp env) s = .next t ∧
        t.pins = { State.reset.pins with powered := true, pkgReady := true, perst := s.pins.perst, holdWater := env.holdWaterLow,
                                         bypassOpen := true, sledPos := env.sledPos } ∧
        t.sec.bank = b ∧ t.sec.fallback = fb ∧ t.setupOnly = false ∧ t.sec.debugOpen = env.devOpen ∧
        (let es := s.flash.journal.map (fun j => j.2.1.toNat)
         let r := es.foldl applyEntry (factoryRig s)
         t.rig = { r with failed := r.failed ++ displaced (factoryRig s) r es }) ∧
        t.flash.bootCount = s.flash.bootCount + 1 ∧
        t.flash.rollback = (if env.devOpen then s.flash.rollback else s.flash.rollback.mapIdx (fun c f =>
          max f (match (s.flash.banks.getD b ⟨none, []⟩).images[c]? with | some i => min 64 i.secVersion.toNat | none => 0))) ∧
        t.regBit 8 0 = bitOf s.flash.ownerPolicy.toNat 1 ∧ t.holding = env.holdWaterLow ∧
        (∀ n < 8, (t.stk n).trained = true ∧ (t.stk n).selfRefresh = env.holdWaterLow) ∧
        t.mem.bytes = [] ∧ t.mem.xlt = [] ∧ t.tiles = [] ∧ t.cores = [] ∧ t.job = none ∧ t.sync = State.reset.sync)) ∧
    (s.pins.powered = true → ∃ t, exec .vinLoss s = .next t ∧ t.pins.powered = false ∧ t.pins.pkgReady = false ∧
      t = { State.reset with pins := t.pins, pending := s.pending, hostMem := s.hostMem, sent := s.sent, free := s.free,
                             flash := { s.flash with dirty := false } })

/-- A Function Level Reset, a hot reset and PERST# after PKG_READY act on the endpoint alone: host rings are disabled
and forget what they hold, registers of the host interface but counters return to their reset values, completions of
host commands are discarded; internal rings, tiles, cores, memory and the job keep theirs (R544, R609). PERST# deasserted changes the
pin alone. -/
def Obligations.HostResetsActOnTheEndpoint : Prop :=
  ∀ (s : State) (i : Instr), s.pins.powered = true →
    (s.pins.pkgReady = true → i = .perstAssert ∨ ((i = .functionLevelReset ∨ i = .hotReset) ∧ s.pins.perst = false) →
      ∃ t, exec i s = .next t ∧ (∀ k < 64, t.sq k = SubRing.off ∧ t.cq k = CompRing.off) ∧
        (∀ k, 64 ≤ k → t.sq k = s.sq k ∧ t.cq k = s.cq k) ∧
        t.hif.outCmds = s.hif.outCmds.map (fun o => if o.ctx.sq.toNat < 64 then { o with discard := true } else o) ∧
        (∀ o, hifResettable o = true → eventReg o = false → t.reg o = regReset o) ∧
        (∀ o, hifResettable o = false → eventReg o = false → t.reg o = s.reg o) ∧
        t = { s with pins := { s.pins with perst := s.pins.perst || i == .perstAssert }, regs := t.regs, hif := t.hif }) ∧
    exec .perstDeassert s = .next { s with pins := { s.pins with perst := false } }

/-- A change of the PCIe link's rate, width or bus mastering is shown in HIF_STATUS, and a new rate or width raises 0x4111
(R539); a 1PPS edge with PPS_IN_EN on a synchronised counter leaves the distance to the nearest whole second to slewing
(R593, R595); a seated cable lets its four ports serve again, and a missing one keeps them disabled (R614).

A bridge wire that retries fewer than sixteen times within 1 ms keeps its times; at the sixteenth it is repaired when
its group has a spare, which BRIDGE_WIRE_SPARED maps with 0x4620, and otherwise its group is disabled with 0x4621 (R17 to R19).
Heartbeats: one clears a die's count of misses, the third miss in a row is a package fault (R30), and the package's own leaves on
every port that is up (R463). -/
def Obligations.LinksBridgesAndHeartbeatsAct : Prop :=
  (∀ (s : State), s.pins.powered = true →
    (∀ gen width master, s.pins.pkgReady = true → s.pins.perst = false →
      let v := (s.setRegBits hifBase 9 2 (gen % 8 + width % 32 * 8)).setRegBit hifBase 10 master
      let new := bitsOf (v.reg hifBase) 9 2
      new = gen % 8 + width % 32 * 8 ∧ v.regBit hifBase 10 = master ∧ v.regBit hifBase 1 = s.regBit hifBase 1 ∧
      Answers (.hostLinkChanged gen width master) s v (if new = bitsOf (s.reg hifBase) 9 2 then v else raise v 0x4111 srcHif 0 0)) ∧
    (s.regBit (timBase + 0xC) 3 = true → s.synced = true →
      ∃ t, exec .ppsInEdge s = .next t ∧ t.tim = { s.tim with ppsSeen := true, slew := t.tim.slew } ∧
        (t.tim.slew + (s.tim.now.toNat : Int)) % 1000000000 = 0 ∧ -500000000 ≤ t.tim.slew ∧ t.tim.slew ≤ 500000000 ∧
        t.regBit (timBase + 8) 6 = true ∧ t.reg (timBase + 0x10) = offsetReg t.tim.slew ∧
        EventFrame { s with tim := t.tim, regs := t.regs, free := s.free + 1 } t ∧
        ∀ o, eventReg o = false → o ≠ timBase + 8 → o ≠ timBase + 0x10 → t.reg o = s.reg o) ∧
    ((s.regBit (timBase + 0xC) 3 = false ∨ s.synced = false) → exec .ppsInEdge s =
      .next (({ s with tim := { s.tim with ppsSeen := true } }).setRegBit (timBase + 8) 6 true)) ∧
    (∀ c : BitVec 2, s.fab.ports.length = 16 → s.fab.flySeated.length = 4 →
      (∃ t, exec (.flyPresentChange c true) s = .next t ∧ t.fab.flySeated.getD c.toNat false = true ∧
        (∀ p < 16, let off := s.regBit (portBase p + 4) 2 || decide (((s.port p).lanes.filter (fun l => l != 31)).length < 2)
          t.port p = if p / 4 = c.toNat then { s.port p with disabled := off } else s.port p) ∧
        t = { s with fab := { s.fab with flySeated := t.fab.flySeated, ports := t.fab.ports } }) ∧
      ∃ t, exec (.flyPresentChange c false) s = .next t ∧ t.fab.flySeated.getD c.toNat true = false ∧
        (∀ p < 16, t.port p = if p / 4 = c.toNat then portOff (s.port p) else s.port p) ∧
        t.tiles = s.tiles ∧ t.cores = s.cores ∧ t.mem = s.mem ∧ t.job = s.job ∧ t.pins = s.pins ∧ t.rig = s.rig)) ∧
  (∀ (s : State), s.pins.powered = true →
    (∀ b w pos, b < 12 → w < bridgeWires b → wirePos s.rig b w = some pos → s.bridges.repairing.contains (b, w) = false →
      let old := ((s.bridges.retries.find? (fun e => e.1 == b && e.2.1 == w)).map (fun e => e.2.2)).getD []
      let now := (old ++ [s.tim.now]).filter (fun t => s.tim.now.toNat < t.toNat + 1000000)
      let rest := s.bridges.retries.filter (fun e => !(e.1 == b && e.2.1 == w))
      (now.length < 16 → exec (.bridgeCrcRetry b w) s = .next { s with bridges := { s.bridges with retries := rest ++ [(b, w, now)] } }) ∧
      (16 ≤ now.length → spareWires s.rig b (w / 40) ≠ [] → exec (.bridgeCrcRetry b w) s =
        .next { s with bridges := { s.bridges with retries := rest, repairing := s.bridges.repairing ++ [(b, w)] } }) ∧
      (16 ≤ now.length → spareWires s.rig b (w / 40) = [] →
        ∃ t, exec (.bridgeCrcRetry b w) s = .next t ∧ t.rig.groupsOff.contains (b, w / 40) = true ∧ wirePos t.rig b w = none ∧
          t.rig.failed.contains (.wire b pos) = true ∧ t.tiles = s.tiles ∧ t.mem = s.mem)) ∧
    (∀ b w pos q r, s.bridges.repairing.find? (fun e => e.1 == b) = some (b, w) → w < bridgeWires b →
      wirePos s.rig b w = some pos → spareWires s.rig b (w / 40) = q :: r →
      ∃ v, Answers (.bridgeWireSpared b) s v (raise v 0x4620 (if b < 8 then srcDie (b / 2) else srcDie (b - 8)) 0 b) ∧
        wirePos v.rig b w = some q ∧ (∀ x, x ≠ (b, w) → wirePos v.rig x.1 x.2 = wirePos s.rig x.1 x.2) ∧
        v = { s with bridges := v.bridges, rig := v.rig, flash := { s.flash with dirty := true } }) ∧
    (∀ die : BitVec 3, exec (.dieHeartbeat die) s =
      .next { s with mgmt := { s.mgmt with heartbeats := setAt s.mgmt.heartbeats die.toNat (fun _ => 0) } }) ∧
    (∀ die : BitVec 3, die.toNat < 6 → s.mgmt.heartbeats.length = 6 →
      let h := setAt s.mgmt.heartbeats die.toNat (fun k => k + 1)
      (s.mgmt.heartbeats.getD die.toNat 0 < 2 → exec (.dieHeartbeatMissed die) s = .next { s with mgmt := { s.mgmt with heartbeats := h } }) ∧
      (2 ≤ s.mgmt.heartbeats.getD die.toNat 0 → s.mgmt.faultyDies.contains die.toNat = false →
        exec (.dieHeartbeatMissed die) s = .next (report { s with mgmt := { s.mgmt with
          heartbeats := h, faultyDies := s.mgmt.faultyDies ++ [die.toNat] } } 0x8711 0 0))) ∧
    (let up := (List.range 16).filter (fun p => (s.port p).up)
     let v := { s with sent := s.sent ++ up.map (fun p => Out.heartbeat p (heartbeatBody s)) }
     (up = [] ∨ s.mgmt.firstFault = false → Reaches .pmcHeartbeat s v) ∧
     (up ≠ [] → s.mgmt.firstFault = true → ∃ u, EventFrame v u ∧
       exec .pmcHeartbeat s = .next (report { u with mgmt := { u.mgmt with firstFault := false } } 0x8711 0 0x8909))))

/-! ## Apertures, wake and the ring engine -/

/-- BAR2 within one line: an address that backs no page reads all-ones and discards writes; one that does reads the
line's bytes, or all-ones with the error mark on a marked line, and a write stores exactly its bytes (R47, R339). A setup-only package
reads zero (R543).

A doorbell read finds new entries on one ring, and nothing else has changed: the entries from its head up to the new
tail are fetched in order behind those that wait (R547, R550); other rings keep theirs. A failed read stops the ring
with 0x8105. -/
def Obligations.Bar2AndDoorbellsReachTheirTargets : Prop :=
  (∀ (s : State) (addr : U64) (n : Nat), s.endpointUp = true → 0 < n → addr.toNat % 128 + n ≤ 128 →
    let a := addr.toNat
    (s.setupOnly = true → ∃ u, exec (.bar2Read addr n) s = .next (u.emit (.bar2Data addr (zeroBytes n) [])) ∧
      EventFrame (s.setReg 0x10 (a % 2 ^ 26)) u) ∧
    (s.setupOnly = false → s.bar2Data a = false →
      exec (.bar2Read addr n) s = .next (s.emit (.bar2Data addr (List.replicate n 0xFF) [false])) ∧
      ∀ bs : List Byte, bs.length = n → exec (.bar2Write addr bs) s = .next s) ∧
    (s.setupOnly = false → s.bar2Data a = true → s.paHeld a = false → kvGet s.mem.latent (a / 128) = none →
      (∃ u, exec (.bar2Read addr n) s = .next (u.emit (match s.lineMark a with
          | none => .bar2Data addr (Memory.read s.viewBytes a n) [false]
          | some _ => .bar2Data addr (List.replicate n 0xFF) [true])) ∧ EventFrame s u) ∧
      ∀ bs : List Byte, bs.length = n → needsSlot s (a / 65536) = false →
        ∃ u, exec (.bar2Write addr bs) s = .next u ∧ u.mem.bytes = Memory.write s.mem.bytes a bs ∧
          (∀ x, x < a ∨ a + n ≤ x → Memory.get u.mem.bytes x = Memory.get s.mem.bytes x) ∧
          u.mem.marks = (if n = 128 then kvErase s.mem.marks (a / 128) else s.mem.marks) ∧
          u = { s with regs := u.regs, hostMem := u.hostMem, hif := u.hif, mem := u.mem } ∧ u.mem.xlt = s.mem.xlt ∧ u.mem.stackCtl = s.mem.stackCtl)) ∧
  (∀ (s : State) (i : Nat), s.endpointUp = true → i < 64 → (s.sq i).state = 1 → s.dbBase ≠ 0 → s.hif.idle = false →
    s.sqV1 i = false → s.plainCount hifBase 5 → s.doorbell (8 * i) ≠ (s.sq i).tail →
    (∀ j < 64, j ≠ i → (s.sq j).state ≠ 1) → (∀ j < 64, s.cqOn j = true → s.doorbell (0x200 + 8 * j) = (s.cq j).head) →
    s.evqOpen = false →
    let q := s.sq i
    let d := s.doorbell (8 * i)
    let k := (d - q.head).toNat
    let entry (x : Nat) : List Byte := normEntry false (Memory.read s.hostMem
      (s.reg64 (hifBase + 0x1000 + 0x20 * i) + 64 * (x % 2 ^ s.sqLog i)) 64)
    let new := (List.range k).map (fun x => (q.head + BitVec.ofNat 32 x, entry (q.head + BitVec.ofNat 32 x).toNat))
    (k ≤ 2 ^ s.sqLog i → s.hif.outCmds.length < 4096 → (∀ e ∈ (q.fetched ++ new).head?, entryFault s i e.2 = 0) →
      ∃ t, exec (.doorbellPoll true) s = .next t ∧ t.sq i = { q with head := d, tail := d, fetched := q.fetched ++ new } ∧
        (∀ j, j ≠ i → t.sq j = s.sq j) ∧ (∀ j, t.cq j = s.cq j) ∧ t.hif.lastChange = s.tim.now ∧ RingFrame s t ∧ t.hostMem = s.hostMem) ∧
    (2 ^ s.sqLog i < k → ∃ t, exec (.doorbellPoll true) s = .next t ∧ (t.sq i).state = 2 ∧ (t.sq i).stop = 0x8109) ∧
    ∃ t, exec (.doorbellPoll false) s = .next t ∧ (t.sq i).state = 2 ∧ (t.sq i).stop = 0x8105)

/-- WAKE clears IDLE and reads the doorbell block; without a block it is spurious (R552, R553). IDLE_ENTRY, once the package is
not busy, writes IDLE with a rising sequence number and reads once more; new work clears it again (R551).

A held completion leaves its ring's queue at the tail once there is room (R548), or stops the ring when the write fails
(R570). An interrupt that is due leaves on its vector, or stays pending while the vector is masked (R564). A write to an internal doorbell
is the ring's new tail or head (R562). -/
def Obligations.RingEngineWakesIdlesAndPosts : Prop :=
  (∀ s : State, s.endpointUp = true →
    (s.dbBase = 0 → exec .wake s = .next (bump (bump s hifBase 7 1) hifBase 8 1)) ∧
    (s.dbBase ≠ 0 → let u := writeIdle (bump s hifBase 7 1) false
      let v := { u with hif := { u.hif with lastChange := s.tim.now } }
      v.hif.idle = false ∧ exec .wake s = .next (if v.doorbellChanged then readDoorbells v else bump (readDoorbells v) hifBase 8 1)) ∧
    (s.ringsOn = true → s.hif.idle = false → s.busy = false →
      let v := writeIdle { s with hif := { s.hif with idleSeq := s.hif.idleSeq + 1 } } true
      let u := bump v hifBase 6 1
      v.hif.idle = true ∧ Memory.read v.hostMem (s.dbBase + 0x800) 4 = leBytes 4 1 ∧ EventFrame v u ∧
      exec .idleEntry s = .next (if u.doorbellChanged then readDoorbells (writeIdle u false) else bump u hifBase 5 1))) ∧
  (∀ (s : State), s.pins.powered = true →
    (∀ (j : BitVec 7) (x : Completion) (r : List Completion), (s.cq j.toNat).held = x :: r → s.cqOn j.toNat = true →
      (s.cq j.toNat).stopped = false → s.cqRoom j.toNat = true → let q := s.cq j.toNat
      (j.toNat < 64 → let k := q.tail.toNat
        let v1 := bitOf (s.cqCfg j.toNat) 31
        let a := s.reg64 (hifBase + 0x2000 + 0x20 * j.toNat) + (if v1 then 16 else 32) * (k % 2 ^ s.cqLog j.toNat)
        let m := Memory.write s.hostMem a (completionBytes v1 x (phaseBit k (s.cqLog j.toNat)))
        let first := if q.unsignalled = 0 then s.tim.now else q.firstAt
        ∃ t, exec (.heldCompletionWrite j true) s = .next t ∧
          t.cq j.toNat = { q with held := r, tail := q.tail + 1, unsignalled := q.unsignalled + 1, firstAt := first } ∧
          (∀ m, m ≠ j.toNat → t.cq m = s.cq m) ∧
          EventFrame { s with hostMem := m, hif := { s.hif with cqs := t.hif.cqs } } t) ∧
      (64 ≤ j.toNat → ∀ ok, exec (.heldCompletionWrite j ok) s = .next (writeCompletion (setCq s j.toNat { q with held := r }) j.toNat x)) ∧
      (j.toNat < 64 → ∃ t, exec (.heldCompletionWrite j false) s = .next t ∧ t.cq j.toNat = { q with stopped := true, stop := 0x8105 })) ∧
    (s.pins.pkgReady = true → s.pins.perst = false →
      (∀ j : BitVec 6, let c := s.cqCfg j.toNat; let q := s.cq j.toNat; let v := bitsOf c 13 5
        bitOf c 14 = true → bitOf c 15 = true → 0 < q.unsignalled →
        (bitsOf c 23 16 ≤ q.unsignalled ∨ q.firstAt.toNat + 1000 * bitsOf c 30 24 ≤ s.tim.now.toNat) →
        let u := setCq s j.toNat { q with unsignalled := 0 }
        (s.regBit (hifBase + 0x10000C + 16 * v) 0 = false → Reaches (.msixInterrupt (.cq j)) s (u.emit (.interrupt v))) ∧
        (s.regBit (hifBase + 0x10000C + 16 * v) 0 = true →
          exec (.msixInterrupt (.cq j)) s = .next (u.setRegBit (hifBase + 0x110000 + v / 32 * 4) (v % 32) true))) ∧
      (let c := s.reg (hifBase + 0x28); let v := bitsOf c 13 5
        bitOf c 14 = true → bitOf c 15 = true → 0 < s.hif.evqUnsignalled →
        (bitsOf c 23 16 ≤ s.hif.evqUnsignalled ∨ s.hif.evqFirstAt.toNat + 1000 * bitsOf c 31 24 ≤ s.tim.now.toNat) →
        let u := { s with hif := { s.hif with evqUnsignalled := 0 } }
        (s.regBit (hifBase + 0x10000C + 16 * v) 0 = false → Reaches (.msixInterrupt .evq) s (u.emit (.interrupt v))) ∧
        (s.regBit (hifBase + 0x10000C + 16 * v) 0 = true →
          exec (.msixInterrupt .evq) s = .next (u.setRegBit (hifBase + 0x110000 + v / 32 * 4) (v % 32) true)))) ∧
    (∀ (k : BitVec 6) (x : U32), exec (.internalDoorbellWrite true k x) s = .next (newTail s (64 + k.toNat) x) ∧
      (s.cqOn (64 + k.toNat) = true → (s.cq (64 + k.toNat)).held = [] →
        exec (.internalDoorbellWrite false k x) s = .next (setCq s (64 + k.toNat) { s.cq (64 + k.toNat) with head := x })) ∧
      ((s.sq (64 + k.toNat)).state = 1 → 2 ^ s.sqLog (64 + k.toNat) < (x - (s.sq (64 + k.toNat)).head).toNat →
        ∃ t, exec (.internalDoorbellWrite true k x) s = .next t ∧ (t.sq (64 + k.toNat)).state = 2 ∧ (t.sq (64 + k.toNat)).stop = 0x8109)))

/-! ## Ring commands that read a descriptor or a block -/

/-- STEER_RUN starts a program on an idle or stopped core: ENTRY in the program counter, the argument words in G8 to G15,
every other register zero, FPMODE as it was; a core that is not active, busy, faulty, or a misaligned entry is refused (R286). -/
def Obligations.SteerRunLaunchesACore : Prop :=
  ∀ (s : State) (c : CmdCtx) (entry stack args : U64) (core : U16), let k := core.toNat; let i := Instr.steerRun c entry stack args core
    let free := (s.core k).phase = .idle ∨ (s.core k).phase = .stopped
    let v := accept s c 0x21
    AtTurn s c 0x0021 [opnd 8 8 entry.toNat, opnd 0x10 8 stack.toNat, opnd 0x18 8 args.toNat, opnd 0x20 2 k] →
    (s.coresActive ≤ k → CompletesIn i c s v 0x8686 0) ∧
    (k < s.coresActive → s.rangeHeld args.toNat 64 = false →
      ((s.core k).phase = .running ∨ (s.core k).phase = .held → CompletesIn i c s v 0x8681 0) ∧
      ((s.core k).phase = .faulty → CompletesIn i c s v 0x8684 0) ∧
      (free → entry.toNat % 4 ≠ 0 → CompletesIn i c s v 0x8102 0) ∧
      (free → entry.toNat % 4 = 0 → let r := readVA v agentHost args.toNat 64
        r.2.1 = 0 → ∃ u, StartsIn i c s u ∧ u.started c ∧ u = { r.1 with cores := u.cores, hif := u.hif } ∧
          let x := u.core k
          x.phase = .running ∧ x.pc = entry ∧ x.stackTop = stack ∧ x.cmd = some c ∧ x.fpmode = (s.core k).fpmode ∧
          x.g = List.replicate 8 0 ++ (List.range 8).map (fun j => BitVec.ofNat 64 (fieldLE r.2.2 (8 * j) 8)) ++ List.replicate 16 0 ∧
          x.f = List.replicate 32 0 ∧ x.v = List.replicate 32 0 ∧ x.spanLen = 0 ∧ x.ven = false ∧ x.trap = none ∧
          ∀ m, m ≠ k → u.core m = s.core m))

/-- ZN_ASSEMBLE and ZN_SOLVE read their descriptor once: one with no fault is held behind those before it, and one that a field
refuses completes with the fault's status, an assembly's with its ASM_ID as VALUE (R219 to R221, R224, R225, R234, R266). -/
def Obligations.ZenleCommandsAreHeld : Prop :=
  ∀ (s : State) (c : CmdCtx) (desc : U64),
    (AtTurn s c 0x0031 [opnd 8 8 desc.toNat] → s.rangeHeld desc.toNat 256 = false →
      let r := readVA (accept s c 0x31) agentHost desc.toNat 256
      let d := parseSolve r.2.2
      r.2.1 = 0 →
      (solveDescFault r.1 d = 0 → ∃ u, StartsIn (.znSolve c desc) c s u ∧ u.started c ∧ u = { r.1 with zn := u.zn, hif := u.hif } ∧
        u.zn = { s.zn with solves := s.zn.solves ++ [newSolve s d r.2.2 c], nextNumber := s.zn.nextNumber + 1 }) ∧
      (solveDescFault r.1 d ≠ 0 → CompletesIn (.znSolve c desc) c s (refusedSolve r.1 (newSolve s d r.2.2 c) (solveDescFault r.1 d))
        (solveDescFault r.1 d) 0)) ∧
    (AtTurn s c 0x0030 [opnd 8 8 desc.toNat] → s.rangeHeld desc.toNat 64 = false →
      (let a := parseAsm (readVA s agentHost desc.toNat 64).2.2
       s.rangeHeld a.program (64 * min 256 a.count) = false) →
      let r := readVA (accept s c 0x30) agentHost desc.toNat 64
      let d := parseAsm r.2.2
      r.2.1 = 0 →
      (asmDescFault r.2.2 ≠ 0 → CompletesIn (.znAssemble c desc) c s r.1 (asmDescFault r.2.2) d.echo) ∧
      (asmDescFault r.2.2 = 0 → let e := readVA r.1 agentZenle d.program (64 * d.count)
        let entries := (List.range d.count).map (fun k => slice e.2.2 (64 * k) 64)
        e.2.1 = 0 →
        (badProgram entries = true → CompletesIn (.znAssemble c desc) c s e.1 0x850A d.echo) ∧
        (badProgram entries = false → ∃ u, StartsIn (.znAssemble c desc) c s u ∧ u.started c ∧
          u = { e.1 with zn := u.zn, hif := u.hif } ∧
          u.zn = { s.zn with assemblies := s.zn.assemblies ++ [{ desc := d, cmd := c, entries := entries }] })))

/-- COLL and COLL_BATCH read their descriptors once: a refusal of R405 or R427 completes with its status and leaves no run; else the
collectives are held accepted behind those before them (R402, R407, R427). COLL_GROUP registers a strictly ascending list of the
job's ranks that includes the own one, under a number from 1 to 63 (R401). -/
def Obligations.CollectivesAreAccepted : Prop :=
  ∀ (s : State) (c : CmdCtx),
    (∀ desc : U64, AtTurn s c 0x0040 [opnd 8 8 desc.toNat] → s.rangeHeld desc.toNat 128 = false →
      let r := readVA (accept s c 0x40) agentHost desc.toNat 128
      let d := parseColl r.2.2
      r.2.1 = 0 →
      (collFault r.1 d false ≠ 0 →
        CompletesIn (.coll c desc) c s (refusedRecord r.1 d (collFault r.1 d false)) (collFault r.1 d false) 0) ∧
      (collFault r.1 d false = 0 → ∃ u x, StartsIn (.coll c desc) c s u ∧ u.started c ∧ u.collEng.runs = s.collEng.runs ++ [x] ∧
        x.desc = d ∧ x.cmd = c ∧ x.batch = none ∧ x.started = false ∧ x.ranks = (s.groupRanks d.group).getD [] ∧
        RingFrame { r.1 with collEng := u.collEng, sync := u.sync } u ∧ (∀ k, u.syncVal k = s.syncVal k) ∧
        (d.startCnt = 0xFFFF ∨ d.startValue.toNat ≤ s.syncVal d.startCnt → u.sync = s.sync))) ∧
    (∀ header : U64, AtTurn s c 0x0041 [opnd 8 8 header.toNat] → s.rangeHeld header.toNat 64 = false →
      s.rangeHeld header.toNat (s.batchLen header.toNat) = false →
      let r := readVA (accept s c 0x41) agentHost header.toNat 64
      let n := fieldLE r.2.2 8 2
      r.2.1 = 0 → fieldLE r.2.2 0 2 = 0x31 → fieldLE r.2.2 2 2 = 1 → fieldLE r.2.2 0xE 2 = 0 → fieldLE r.2.2 0x20 32 = 0 →
      ((n = 0 ∨ 64 < n) → CompletesIn (.collBatch c header) c s r.1 0x840B 0) ∧
      (0 < n → n ≤ 64 → let e := readVA r.1 agentHost (header.toNat + 64) (128 * n)
        let ds := (List.range n).map (fun k => parseColl (slice e.2.2 (128 * k) 128))
        e.2.1 = 0 →
        (e.1.badBatch ds = true → CompletesIn (.collBatch c header) c s e.1 0x840B 0) ∧
        (e.1.badBatch ds = false → (∀ d ∈ ds, collFault e.1 d true = 0) → badCounter (fieldLE r.2.2 0xA 2) (fieldLE r.2.2 0xC 2) = false →
          s.collEng.accepted < 256 →
          ∃ u b rs, StartsIn (.collBatch c header) c s u ∧ u.started c ∧ u.collEng.batches = s.collEng.batches ++ [b] ∧
            b.cmd = c ∧ b.number = s.collEng.nextBatch ∧ u.collEng.nextBatch = s.collEng.nextBatch + 1 ∧
            u.collEng.runs = s.collEng.runs ++ rs ∧ rs.map CollRun.desc = ds ∧ (∀ x ∈ rs, x.batch = some b.number ∧ x.cmd = c)))) ∧
    (∀ (list : U64) (group count : U16), AtTurn s c 0x0042 [opnd 8 8 list.toNat, opnd 0x10 2 group.toNat, opnd 0x12 2 count.toNat] →
      s.rangeHeld list.toNat (4 * count.toNat) = false →
      let r := readVA (accept s c 0x42) agentHost list.toNat (4 * count.toNat)
      let ranks := elemsOf 4 r.2.2 count.toNat
      r.2.1 = 0 →
      (0 < group.toNat → group.toNat ≤ 63 → ranks.Pairwise (· < ·) → s.rank ∈ ranks → (∀ x ∈ ranks, x < s.members.length) →
        ∃ u, CompletesIn (.collGroup c list group count) c s u 0 0 ∧ u = { r.1 with collEng := u.collEng } ∧
          u.collEng = { s.collEng with groups := kvSet s.collEng.groups group.toNat ranks }) ∧
      ((group = 0 ∨ 63 < group.toNat ∨ s.rank ∉ ranks ∨ ¬ranks.Pairwise (· < ·) ∨ ∃ x ∈ ranks, s.members.length ≤ x) →
        CompletesIn (.collGroup c list group count) c s r.1 0x8407 0))

/-- STROKE_END of the running stroke enters the barrier with the commands submitted before it, and arrives at once when
none of them is left and no write waits (R270, R271, R355); another while one is outstanding, or of another stroke, is refused and counted. -/
def Obligations.StrokeEndEntersTheBarrier : Prop :=
  ∀ (s : State) (c : CmdCtx) (stroke : U64), AtTurn s c 0x0043 [opnd 8 8 stroke.toNat] →
    let v := accept s c 0x43
    let i := Instr.strokeEnd c stroke
    (s.stroke.entered ≠ none → CompletesIn i c s (bump v strokeBase 2 1) 0x8471 0) ∧
    (s.stroke.entered = none → stroke ≠ s.stroke.count → CompletesIn i c s (bump v strokeBase 2 1) 0x8470 0) ∧
    (s.stroke.entered = none → stroke = s.stroke.count → ∃ u, StartsIn i c s u ∧ u.started c ∧
      u.stroke.entered = some (c, stroke) ∧ u.stroke.after = v.submittedBefore c ∧ u.stroke.count = s.stroke.count ∧
      u.stroke.arrived = (u.stroke.after.isEmpty && !s.requestsOut && s.mem.stalled.isEmpty) ∧
      u.sent = s.sent ++ (if u.stroke.arrived then [.strokeArrive stroke] else []) ∧
      u = { v with stroke := u.stroke, hif := u.hif, regs := u.regs, sent := u.sent } ∧
      ∀ o, o ≠ strokeBase + 0x10 → o ≠ strokeBase + 0x14 → u.reg o = v.reg o)

/-- AUDIT is held accepted once its descriptor is in order, and acts when no earlier command of its ring is outstanding: its digests
and record are formed, the audit is counted, and it completes with their status (R450 to R453). -/
def Obligations.AuditsActInOrder : Prop :=
  ∀ (s : State) (c : CmdCtx),
    (∀ desc : U64, AtTurn s c 0x0060 [opnd 8 8 desc.toNat] → s.rangeHeld desc.toNat 64 = false →
      let v := accept s c 0x60
      (s.bound = false → CompletesIn (.audit c desc) c s v 0x8911 0) ∧
      (s.bound = true → let r := readVA v agentAudit desc.toNat 64
        let k := auditOf c r.2.2
        r.2.1 = 0 →
        (auditBad r.2.2 k = true → CompletesIn (.audit c desc) c s r.1 0x8910 0) ∧
        (auditBad r.2.2 k = false → 64 ≤ s.hif.audits.length → CompletesIn (.audit c desc) c s r.1 0x8912 0) ∧
        (auditBad r.2.2 k = false → s.hif.audits.length < 64 →
          StartsIn (.audit c desc) c s { r.1 with hif := { r.1.hif with audits := s.hif.audits ++ [k] } }))) ∧
    (∀ k : AuditState, s.pins.powered = true → s.hif.audits.find? (fun x => x.cmd == c) = some k → s.earlierOnRing c = false →
      s.auditHeld k = false →
      let v := { s with hif := { s.hif with audits := dropFirst (fun x => x.cmd == c) s.hif.audits } }
      let res := auditDigestOf v false k.resV.toNat k.resB.toNat
      let w := auditDigestOf res.1 (auditWeightsByValue k) k.wV.toNat k.wB.toNat
      let inp := auditDigestOf w.1 (auditInputByValue k) k.iV.toNat k.iB.toNat
      (res.2.1 ≠ 0 → exec (.auditExecute c) s = .next (finish (bump res.1 secBase 0 1) c res.2.1 0)) ∧
      (res.2.1 = 0 → w.2.1 = 0 → inp.2.1 = 0 → ∃ u, exec (.auditExecute c) s = .next u ∧
        let text := digestInput inp.1 w.2.2 inp.2.2 res.2.2 k.resB.toNat
        let stm := auditStatement inp.1 (shake256 text)
        let out := writeRecord inp.1 agentAudit k.out.toNat (text ++ stm ++ (if auditSign k then signBytes "BGL-audit" stm else []))
        u = finish (bump (if out.2 = 0 ∧ auditSign k = true then bump out.1 secBase 1 1 else out.1) secBase 0 1) c out.2 0))

/-- ATTEST writes report, signature and certificate at OUT and counts both (R459). OWNER_KEY installs a key whose block an
earlier key signed with a higher sequence value, or any while there is none (R456, R561); OWNER_CONFIG applies a block that
verifies (R457, R458); FW_UPDATE stages a package that verifies and FW_UPDATE_STAGED commits it in the bank that does not run (R581). -/
def Obligations.SecurityCommandsAct : Prop :=
  ∀ (s : State) (c : CmdCtx),
    (∀ nonce out, AtTurn s c 0x0061 [(8, padTo 32 nonce), opnd 0x28 8 out.toNat] → c.sq.toNat < 64 →
      let v := accept s c 0x61
      let r := attestReport v nonce
      ∃ u, CompletesIn (.attest c nonce out) c s u 0 0 ∧
        EventFrame { v with hostMem := Memory.write v.hostMem out.toNat (r ++ signBytes "BGL-attest" r ++ s.flash.certificate) } u) ∧
    (∀ block, AtTurn s c 0x0062 [opnd 8 8 block.toNat] →
      let v := accept s c 0x62
      let bs := Memory.read v.hostMem block.toNat 186
      let key := slice bs 0 57
      let gone := key.all (fun b => b == 0)
      let seq := fieldLE bs 0x40 8
      let free := s.flash.ownerKey = [] ∨ s.sec.devOpen = true
      let signed := ed448Verify s.flash.ownerKey "BGL-owner" (slice bs 0 0x48) (slice bs 0x48 114) = true
      ((8 ≤ fieldLE bs 0x3C 4 ∨ (¬free ∧ ¬signed)) → CompletesIn (.ownerKey c block) c s (bump v secBase 3 1) 0x8914 0) ∧
      (fieldLE bs 0x3C 4 < 8 → ¬free → signed → seq ≤ s.flash.ownerSeq.toNat →
        CompletesIn (.ownerKey c block) c s (bump v secBase 3 1) 0x8915 0) ∧
      (fieldLE bs 0x3C 4 < 8 → (free ∨ (signed ∧ s.flash.ownerSeq.toNat < seq)) →
        ∃ w, CompletesIn (.ownerKey c block) c s (raise w 0x4910 srcSec 0 0) 0 0 ∧ w = { v with flash := w.flash } ∧
          w.flash.ownerKey = (if gone then [] else key) ∧ w.flash.ownerSeq = BitVec.ofNat 64 seq ∧
          w.flash.ownerPolicy = (if gone then 0 else BitVec.ofNat 32 (fieldLE bs 0x3C 4)) ∧
          (gone = true → w.flash.ownerConfigRaw = []) ∧ w.flash.banks = s.flash.banks ∧ w.sec = s.sec)) ∧
    (∀ block bytes, AtTurn s c 0x0063 [opnd 8 8 block.toNat, opnd 0x10 4 bytes.toNat] →
      let v := accept s c 0x63
      let bs := Memory.read v.hostMem block.toNat bytes.toNat
      let seq := fieldLE bs 0x10 8
      (cfgSigned s.flash.ownerKey bs = false → CompletesIn (.ownerConfig c block bytes) c s v 0x8914 0) ∧
      (cfgSigned s.flash.ownerKey bs = true → seq ≤ s.flash.configSeq.toNat → CompletesIn (.ownerConfig c block bytes) c s v 0x8915 0) ∧
      (cfgSigned s.flash.ownerKey bs = true → s.flash.configSeq.toNat < seq → cfgFormatOk bs = false →
        CompletesIn (.ownerConfig c block bytes) c s v 0x8917 0) ∧
      (cfgSigned s.flash.ownerKey bs = true → s.flash.configSeq.toNat < seq → cfgFormatOk bs = true →
        ∃ w, CompletesIn (.ownerConfig c block bytes) c s (raise w 0x4912 srcSec 0 0) 0 0 ∧ w = { applyEntries v (cfgEntries bs) with flash := w.flash } ∧
          w.flash.configSeq = BitVec.ofNat 64 seq ∧ w.flash.ownerConfigRaw = (if cfgCount bs = 0 then [] else bs))) ∧
    (∀ image bytes, AtTurn s c 0x0070 [opnd 8 8 image.toNat, opnd 0x10 8 bytes.toNat] →
      let v := accept s c 0x70
      let bs := Memory.read v.hostMem image.toNat (min bytes.toNat 0x3000001)
      (s.updateBusy = true → CompletesIn (.fwUpdate c image bytes) c s v 0x8905 0) ∧
      (s.updateBusy = false → packageStatus v bs ≠ 0 → CompletesIn (.fwUpdate c image bytes) c s v (packageStatus v bs) 0) ∧
      (s.updateBusy = false → packageStatus v bs = 0 → ∃ u, StartsIn (.fwUpdate c image bytes) c s u ∧ u.started c ∧
        u.sec.updating = some (c, (parsePackage bs).getD []) ∧ u.flash = (eraseOther s).flash ∧
        u = { v with sec := u.sec, flash := u.flash, hif := u.hif })) ∧
    (∀ l, s.pins.powered = true → s.sec.updating = some (c, l) → s.flash.banks.length = 2 → s.sec.bank < 2 →
      ∃ u, exec (.fwUpdateStaged c) s = .next u ∧ u.sec.updating = none ∧
        u.flash.banks.getD s.sec.bank ⟨none, []⟩ = s.flash.banks.getD s.sec.bank ⟨none, []⟩ ∧
        u.flash.banks.getD (1 - s.sec.bank) ⟨none, []⟩ =
          { seq := some (((s.flash.banks.getD s.sec.bank ⟨none, []⟩).seq.getD 0) + 1), images := l } ∧
        u.pwr.demands = [] ∧ u.pwr.programs = [])

/-! ## Zenle -/

/-- SOLVE_START gives the first solve that may start its tiles and the lowest free core, and opens it (R220, R221, R288).
ZN_RENDEZVOUS compares what the members sent: a difference, row ranges that do not fit, or one missing when the limit passes, refuses the
solve with 0x8509, a column beyond the matrix with 0x850C (R223); agreement begins it under the common signature, a dense matrix once its
blocks are gathered (R246, R263). -/
def Obligations.SolvesStartAndMeet : Prop :=
  ∀ (s : State), s.pins.powered = true →
    (∀ v c, s.zn.solves.find? s.solveReady = some v → s.freeCore = some c → s.solvesRunning < 16 → s.holding = false →
      (∀ r ∈ s.solveRanges v.desc, s.rangeHeld r.1 r.2 = false) →
      ∃ b, exec .solveStart s = .next (openSolve b { v with phase := .running, core := some c }) ∧
        b = { s with tiles := b.tiles, cores := b.cores, zn := b.zn } ∧
        (∀ t ∈ s.solveTiles v, b.tile t = { s.tile t with reserved := some v.number, used := true }) ∧
        (∀ t, t ∉ s.solveTiles v → b.tile t = s.tile t) ∧
        b.core c = { s.core c with phase := .held, used := true } ∧ (∀ k, k ≠ c → b.core k = s.core k)) ∧
    (∀ (id : U32) (msgs : List Rendezvous) (expired : Bool) (v : Solve), s.solveIn id .rendezvous = some v →
      let others := v.ranks.filter (fun r => r != s.rank)
      let got := others.filterMap (fun r => msgs.find? (fun m => m.rank.toNat == r))
      let all := (ownRendezvous s v :: got).mergeSort (fun a b => a.rank.toNat ≤ b.rank.toNat)
      let agree := s.oneCrew v = true ∧ ∀ m ∈ got, m.digest = solveDigest v.raw
      let late := v.arrived.toNat + 1000000000 ≤ s.tim.now.toNat ∨ s.beforeStop v 0 = false
      (¬agree → exec (.znRendezvous id msgs expired) s = .next (refuseSolve s v 0x8509)) ∧
      (agree → got.length ≠ others.length → (expired = true ∧ late → exec (.znRendezvous id msgs expired) s = .next (refuseSolve s v 0x8509)) ∧
        (¬(expired = true ∧ late) → exec (.znRendezvous id msgs expired) s = .next s)) ∧
      (agree → got.length = others.length → (v.rangesFit all = false → exec (.znRendezvous id msgs expired) s = .next (refuseSolve s v 0x8509)) ∧
        (v.rangesFit all = true → v.columnsBelow all = false → exec (.znRendezvous id msgs expired) s = .next (refuseSolve s v 0x850C)) ∧
        (v.rangesFit all = true → v.columnsBelow all = true →
          let go := ((got.find? (fun m => m.rank.toNat == v.desc.leadRank)).map Rendezvous.go).getD true
          let w := { v with signature := sig256 (all.flatMap Rendezvous.sig), go := go }
          (v.desc.dense = false → exec (.znRendezvous id msgs expired) s = .next (beginSolve s w got)) ∧
          (v.desc.dense = true → (∀ r ∈ s.blockRanges v all, s.rangeHeld r.1 r.2 = false) →
            exec (.znRendezvous id msgs expired) s = .next (gatherBlocks s w all (fun s v => beginSolve s v got))))))

/-- ZN_UNIT_END of a running solve records the unit's duration and replaces the solve by its next state, which runs on
or has ended: an iteration counts one, a panel counts one; a Krylov iteration's recurrence norm sends it to verification when it meets the
bound, and its iterate ends the solve as converged exactly when the FP64 residual norm meets it too; otherwise the method starts again from
the iterate with that residual (R241, R244, R254). No other solve changes. -/
def Obligations.UnitEndsAdvanceASolve : Prop :=
  ∀ (s : State) (id : U32) (u : ZnUnit) (d : UnitReport) (v : Solve), s.pins.powered = true → s.solveIn id .running = some v → v.unit = u →
    (u = .panel → v.desc.direct = true → v.desc.keepA = false → ∀ r ∈ s.ownCellRanges v, s.rangeHeld r.1 r.2 = false) →
    ∃ t w, exec (.znUnitEnd id u d) s = .next t ∧ t.zn.assemblies = s.zn.assemblies ∧ t.zn.nextNumber = s.zn.nextNumber ∧
      t.zn.solves = s.zn.solves.map (fun x => if x.number = v.number then w else x) ∧
      w.number = v.number ∧ w.desc = v.desc ∧ w.cmd = v.cmd ∧ w.core = v.core ∧ (w.phase = .running ∨ w.phase = .ended) ∧
      kvGet w.lastUnit (v.unitKind u) = some (d.ns.toNat + if u = .iteration then v.spent else 0) ∧
      (u = .iteration → w.iter = v.iter + 1) ∧ (u = .panel → w.panelsDone = v.panelsDone + 1) ∧
      (u = .residual → w.lastResidual = some d.ns.toNat ∧ w.iter = v.iter) ∧
      (u = .iteration → v.desc.krylov = true → w.recNorm = v.krylovStep.norm ∧
        (v.meets v.krylovStep.norm = true → w.phase = .running ∧ w.unit = .residual)) ∧
      (u = .residual → v.desc.refine = false →
        (v.meets (residualNorm v.mat v.rhs v.x) = true → w.phase = .ended ∧ w.status = 0 ∧ w.best = v.x ∧ w.bestIter = v.iter) ∧
        (v.meets (residualNorm v.mat v.rhs v.x) = false → w.failedVer = v.failedVer + 1 ∧ (w.phase = .ended → w.status ≠ 0) ∧
          w.hist = [v.rhs, v.x, residual64 v.mat v.rhs v.x]))

/-- SOLVE_END writes the returned iterate (the member's own part) and the record, leaves WORK with free values, frees the tiles and the core, and completes with the solve's status (R244, R257);
ASSEMBLY_DONE writes the outputs of a program that is in order and completes, or completes with the refusal of what it read (R231 to R233);
either completion's VALUE echoes ASM_ID (R224; the place is the model's choice, log 35). -/
def Obligations.ZenleWorkEnds : Prop :=
  ∀ (s : State) (id : U32), s.pins.powered = true →
    (∀ v, s.solveIn id .ended = some v → s.holding = false → s.rangeHeld v.desc.x (8 * (v.ownPart v.best).length) = false →
      s.rangeHeld v.desc.result 192 = false →
      ∃ u, exec (.solveEnd id) s = .next (finish u v.cmd v.status.toNat 0) ∧
        u.zn.solves = s.zn.solves.filter (fun x => x.number != v.number) ∧
        (∀ t, (u.tile t).reserved = if (s.tile t).reserved = some v.number then none else (s.tile t).reserved) ∧
        (∀ c, v.core = some c → (s.core c).phase = .held → (u.core c).phase = .idle) ∧
        (∀ c, v.core ≠ some c → u.core c = s.core c) ∧ u.hif.outCmds = s.hif.outCmds ∧ u.job = s.job ∧
        (let n := returnedNorm s v
         let w := spoilWork n.1 v
         let x := if v.best = [] then w else (writeVA w agentZenle v.desc.x (bytes64 (v.ownPart v.best))).1
         let f := freeInterior x v
         u.mem = (writeRecord f.1 agentZenle v.desc.result (solveRecord f.2 n.2 s.tim.now)).1.mem)) ∧
    (∀ a, s.zn.assemblies.find? (fun a => a.desc.asmId == id) = some a → s.holding = false →
      (∀ r ∈ a.ranges s, s.rangeHeld r.1 r.2 = false) → let r := runAssembly s a
      (∀ e, r.2 = .error e → exec (.assemblyDone id) s = .next (finish (dropAssembly (countChecks r.1 a) a) a.cmd e.1 (a.desc.echo e.2))) ∧
      (∀ ws, r.2 = .ok ws → ∃ u, exec (.assemblyDone id) s = .next (finish u a.cmd 0 a.desc.echo) ∧
        u = dropAssembly (ws.foldl (fun s w => (writeVA s agentZenle w.1 w.2).1) (countAssembly r.1 a)) a ∧
        u.zn.assemblies = dropFirst (fun x => x == a) s.zn.assemblies ∧ u.zn.solves = s.zn.solves))

/-! ## The stroke barrier -/

/-- The barrier of a member that has arrived completes: STROKE advances by one; without a generation the mirror counter takes
the new STROKE and STROKE_END completes (R272, R273); with one the member takes SNAP and waits for the second round (R352, R477), which then completes
it. A member that has waited longer than SLOW_MS since it arrived says so once (R275). -/
def Obligations.StrokeBarrierCompletes : Prop :=
  ∀ (s : State) (c : CmdCtx) (n : U64), s.pins.powered = true → s.stroke.entered = some (c, n) →
    let ended (b u : State) : Prop :=
      u = { b with stroke := u.stroke, sync := u.sync, regs := u.regs, hostMem := u.hostMem, hif := u.hif, ckpt := u.ckpt } ∧
      u.stroke.entered = none ∧ u.stroke.after = [] ∧ u.stroke.arrived = false ∧ u.stroke.secondRound = false ∧
      u.syncVal 16383 = u.stroke.count.toNat ∧ (∀ k, k ≠ 16383 → u.syncVal k = b.syncVal k) ∧
      u.reg64 (strokeBase + 0x18) = s.tim.now.toNat ∧
      (∀ o, eventReg o = false → o ≠ strokeBase + 0x18 → o ≠ strokeBase + 0x1C → u.reg o = b.reg o)
    (s.stroke.arrived = true → s.stroke.secondRound = false →
      (∀ g, (g = false ∨ s.ckptPlan = none ∨ s.ckpt.inProgress ≠ none ∨ s.ckpt.restoring = true) →
        ∃ u, exec (.strokeBarrierComplete g) s = .next (finish u c 0 0) ∧ ended s u ∧ u.stroke.count = s.stroke.count + 1 ∧
          u.ckpt = { s.ckpt with strokesSince := s.ckpt.strokesSince + 1 }) ∧
      (∀ p, s.ckptPlan = some p → s.ckpt.inProgress = none → s.ckpt.restoring = false →
        ∃ t, exec (.strokeBarrierComplete true) s = .next t ∧ t.stroke = { s.stroke with count := s.stroke.count + 1, secondRound := true } ∧
          t.mem.ckptPend = s.mem.dirty ∧ t.mem.dirty = [] ∧ t.mem.windowOpen = true ∧ t.mem.bytes = s.mem.bytes ∧
          kvGetD t.mem.counterSnap 16383 0 = s.stroke.count + 1 ∧ (∀ k, k ≠ 16383 → kvGet t.mem.counterSnap k = kvGet s.sync.counters k) ∧
          t.ckpt.inProgress = some (BitVec.ofNat 64 (s.ckpt.gen.toNat + 1)) ∧ t.ckpt.snapStroke = s.stroke.count + 1 ∧
          t.ckpt.lastSnap = s.tim.now ∧ t.tiles = s.tiles ∧ t.sync = s.sync)) ∧
    (s.stroke.secondRound = true → ∃ u, exec .barrierSecondRound s = .next (finish u c 0 0) ∧ ended s u ∧
      u.stroke.count = s.stroke.count ∧ u.ckpt = s.ckpt) ∧
    (let ms := bitsOf (s.reg (strokeBase + 0xC)) 15 0
     (s.stroke.arrived = true → s.stroke.slowSent = false → ms ≠ 0 →
       s.reg64 (strokeBase + 0x10) + 1000000 * ms < s.tim.now.toNat →
       exec .strokeSlow s = .next (raise (bump { s with stroke := { s.stroke with slowSent := true } } strokeBase 3 1)
         0x4470 srcPmc 0 s.stroke.count.toNat)) ∧
     (s.stroke.slowSent = true ∨ ms = 0 ∨ s.tim.now.toNat ≤ s.reg64 (strokeBase + 0x10) + 1000000 * ms → exec .strokeSlow s = .next s))

/-! ## Collectives -/

/-- COLL_START starts the first collective that may start, while fewer than 32 run (R407). COLL_COMPLETE ends one whose work is done and acknowledged: it leaves the
engine, is counted, adds to its NOTIFY_CNT and completes with its status (R408); a batch ends with the first failing status of its
entries (R428). REBALANCE_REPORT keeps what each fabric die reports (R424). -/
def Obligations.CollectivesStartAndEnd : Prop :=
  ∀ (s : State), s.pins.powered = true →
    (∀ r, s.collEng.running < 32 → s.collEng.runs.find? s.mayStart = some r →
      (s.collEng.runs.map (fun x => (x.desc.group, x.desc.collId))).Nodup →
      let rs := match r.batch with | none => [r] | some k => s.batchRuns k
      (∀ x ∈ rs, s.runHeld x = false) →
      ∃ t, exec .collStart s = .next t ∧
        (∀ x ∈ rs, ∃ y, t.collRun x.desc.group x.desc.collId = some y ∧ y.started = true ∧ y.desc = x.desc ∧ y.cmd = x.cmd ∧ y.batch = x.batch) ∧
        (∀ x ∈ s.collEng.runs, x ∉ rs → x ∈ t.collEng.runs)) ∧
    (∀ (g : BitVec 6) (id : U32) (r : CollRun), s.collRun g.toNat id = some r →
      (r.batch = none → s.runDone r = true → ∃ u, exec (.collComplete g id) s = .next (finish u r.cmd r.status 0) ∧ u = endRun s r r.status ∧
        u.collEng.runs = dropFirst (fun x => x.is g.toNat id) s.collEng.runs) ∧
      (∀ b, r.batch = some b.number → s.collEng.batches.find? (fun x => x.number == b.number) = some b →
        (∀ x ∈ s.batchRuns b.number, s.runDone x = true) →
        ∃ u, exec (.collComplete g id) s =
          .next (finish u b.cmd ((((s.batchRuns b.number).map CollRun.status).find? (fun x => x != 0)).getD 0) 0) ∧
          u.collEng.batches = dropFirst (fun x => x.number == b.number) s.collEng.batches)) ∧
    (∀ (fd : BitVec 1) (q : List Nat), q.length = 8 → s.collEng.queued.length = 16 →
      exec (.rebalanceReport fd q) s = .next { s with collEng := { s.collEng with
        queued := if fd = 0 then q ++ s.collEng.queued.drop 8 else s.collEng.queued.take 8 ++ q } })

/-- A collective packet that passes its checks and has a fresh number is kept for its collective, its number is done, it is acknowledged, and
its collective goes on: COLL_DATA brings elements of the own digest, COLL_CREDIT a leave to send a chunk, COLL_CTRL what its body says (R404, R409, R420,
R425, R431). -/
def Obligations.CollectivePacketsArrive : Prop :=
  ∀ (s : State) (port : BitVec 4) (h : PktHdr) (n : Nat), s.pins.powered = true → s.holding = false →
    h.dstId.toNat = s.fabId → h.crcOk = true → jobCheck s h = 0 → (s.rxSpace h.srcId (port.toNat / 8 + 2)).place h.seq = .fresh n →
    let g := (collKey h).1
    let id := (collKey h).2.1
    let rank := (s.rankOf h.srcId.toNat).getD 0
    let x := s.collIn g id
    let takes (i : Instr) (y : CollIn) : Prop :=
      ∃ u, exec i s = .next (pumpRun u g id) ∧ u.collIn g id = y ∧ u.collEng.runs = s.collEng.runs ∧
        u.rxSpace h.srcId (port.toNat / 8 + 2) = (s.rxSpace h.srcId (port.toNat / 8 + 2)).mark n none ∧
        u = { s with collEng := u.collEng, fab := { s.fab with rx := u.fab.rx }, sent := u.sent, regs := u.regs, hostMem := u.hostMem, hif := u.hif } ∧
        (∀ p, s.portFor port.toNat h.srcId = some p → ∃ a, u.sent = s.sent ++ [.packet p .ack a [] []] ∧
          a.dstId = h.srcId ∧ a.seq = h.seq ∧ a.addr = h.addr)
    takes (.collCredit port h) { x with credits := x.credits ++ [(rank, (collKey h).2.2)] } ∧
    (∀ body, takes (.collCtrl port h body) (applyCtrl x rank body)) ∧
    (∀ (ch : ChunkHdr) (data : List Byte), (∀ r, s.collRun g id = some r → s.rangeHeld r.desc.dst (dstLen r.desc r.n (s.ownIndex r)) = false) →
      let y := if x.digests.any (fun e => e.1 == rank && e.2 == ch.digest) then x else { x with digests := x.digests ++ [(rank, ch.digest)] }
      ((∀ r, s.collRun g id = some r → r.desc.digest = ch.digest) →
        takes (.collData port h ch data) (y.addPiece ch.child.toNat ch.level.toNat ch.offset.toNat data)) ∧
      ((∃ r, s.collRun g id = some r ∧ r.desc.digest ≠ ch.digest) → takes (.collData port h ch data) y))

/-! ## Steering cores -/

/-- A program ends at SUPCALL with G7 zero: its completion carries OK and the value of G8, and the core is free; with any other G7
the program stops with 0x8688 (R287). -/
def Obligations.SupcallEndsTheProgram : Prop :=
  ∀ (s : State) (c : BitVec 8), let k := c.toNat; let x := s.core k
    CoreAt s c → x.trap = none →
      (x.gr 7 = 0 → ∃ v, EventFrame { s with free := v.free } v ∧
        let u := v.modCore k (fun y =>
          { y with phase := .idle, cmd := none, scWait := none, ack := none, trap := none, outer := [], irqAt := none })
        exec (.supcall c) s = .next (match x.cmd with | none => u | some cmd => finish u cmd 0 (x.gr 8).toNat)) ∧
      (x.gr 7 ≠ 0 → ∃ u, exec (.supcall c) s = .next u ∧ (u.core k).phase = .stopped ∧ (u.core k).g = x.g ∧
        u.reg (s.coreRegs k + 0xC) = 0x8688 ∧ u.reg64 (s.coreRegs k + 0x10) = x.pc.toNat ∧ ∀ m, m ≠ k → u.core m = s.core m)

/-- The supervisor returns once VEN is set or the page is restored, and an interrupt between instructions enters it; one within an
instruction waits for the next pass (R297, R298). SUPCALL in the supervisor itself has its effect or stops with 0x8683 (R299; which is a free value,
log 33). A faulty core is marked, and it awaits replacement while a job is bound (R322). -/
def Obligations.SupervisorReturns : Prop :=
  ∀ (s : State) (c : BitVec 8), let k := c.toNat; let x := s.core k
    (CoreAt s c →
      (x.trap = some .ven → ∃ u, exec (.supret c) s = .next u ∧ CoreFrame c s u ∧ u.core k = { x.back with ven := true }) ∧
      (x.trap = some .irq → ∃ u, exec (.supret c) s = .next u ∧ CoreFrame c s u ∧ u.core k = x.back) ∧
      (∀ va, x.trap = some (.page va) →
        (s.restoring va = true → exec (.supret c) s = .next s) ∧
        (s.restoring va = false → ∃ u, exec (.supret c) s = .next u ∧ CoreFrame c s u ∧ u.core k = x.back)) ∧
      (x.trap ≠ none → let p := s.drawBits; let m := p.2.drawBool
        ∃ u, exec (.supcall c) s = .next u ∧ if m.1 then u = stopProgram m.2 k 0x8683 p.1
          else (u.core k).phase = (if x.gr 7 = 0 then .idle else .stopped) ∧ (u.core k).trap = none ∧ ∀ m, m ≠ k → u.core m = s.core m) ∧
      exec (.passInterrupt c 0) s = .next (s.modCore k (fun y => { y with trap := some .irq, outer := y.trap.toList ++ y.outer })) ∧
      ∀ e, e ≠ 0 → exec (.passInterrupt c e) s = .next (s.modCore k (fun y => { y with irqAt := some e }))) ∧
    (∀ phys : BitVec 8, s.pins.powered = true → phys.toNat < 104 → s.bound = true → ∃ u, exec (.steerCoreFault phys) s = .next u ∧
      (∀ m, s.logCore phys.toNat = some m → (u.core m).phase = .faulty ∧ ∀ n, n ≠ m → u.core n = s.core n) ∧
      (.core phys.toNat ∈ u.rig.awaiting ∨ .core phys.toNat ∈ u.rig.failed))

/-- FPMRD, FPMWR and FENCE, the scalar floating-point operations under FPMODE with their flags accumulated, and the sync-counter
instructions on the own package's counters complete; SCWAIT on a counter below its value waits (R291, R293, R295). -/
def Obligations.ScalarInstructionsComplete : Prop :=
  ∀ (s : State) (c : BitVec 8), CoreAt s c → let k := c.toNat; let x := s.core k
    (∀ rd, ∃ u, exec (.fpmrd c rd) s = .next u ∧ CoreFrame c s u ∧ u.core k = (x.setG rd x.fpmode).moved) ∧
    (∀ rs, ∃ u, exec (.fpmwr c rs) s = .next u ∧ CoreFrame c s u ∧
      u.core k = { x with fpmode := BitVec.ofNat 64 ((x.gr rs).toNat % 256) }.moved) ∧
    (∃ u, exec (.steerFence c) s = .next u ∧ CoreFrame c s u ∧ u.core k = x.moved) ∧
    (∀ op fmt rd r1 r2 r3, let f := fpFmtOf fmt; let n := f.width
      (∀ z, scalarFp op f x.rnd ((x.fr r1).toNat % 2 ^ n) ((x.fr r2).toNat % 2 ^ n) ((x.fr r3).toNat % 2 ^ n) ((x.gr r1).toNat % 2 ^ n) = some z →
        ∃ u, exec (.scalarFpOperation c op fmt rd r1 r2 r3) s = .next u ∧ CoreFrame c s u ∧
          u.core k = ((x.setF rd (BitVec.ofNat 64 z.bits)).stick z.flags).moved) ∧
      (op = .cvtFI → let z := fpToInt f x.rnd n ((x.fr r1).toNat % 2 ^ n)
        ∃ u y, exec (.scalarFpOperation c op fmt rd r1 r2 r3) s = .next u ∧ CoreFrame c s u ∧
          y.toNat % 2 ^ n = z.bits % 2 ^ n ∧ u.core k = ((x.stick z.flags).setG rd y).moved)) ∧
    (∀ r1 r2, let a := x.gr r1; let n := a.toNat % 65536
      bitsOf a.toNat 31 16 = 0 → n < 16384 →
      (memberTarget s (a.extractLsb' 32 32) = .ok none → n ≠ 16383 →
        (∃ u, exec (.scCoreAdd c r1 r2) s = .next u ∧ RingFrame { s with sync := u.sync, cores := u.cores, free := u.free } u ∧ u.core k = x.moved ∧
          (∀ m, m ≠ k → u.core m = s.core m) ∧ u.syncVal n = (s.syncVal n + (x.gr r2).toNat) % 2 ^ 64 ∧ ∀ m, m ≠ n → u.syncVal m = s.syncVal m) ∧
        (∃ u, exec (.scCoreSet c r1 r2) s = .next u ∧ RingFrame { s with sync := u.sync, cores := u.cores, free := u.free } u ∧ u.core k = x.moved ∧
          (∀ m, m ≠ k → u.core m = s.core m) ∧ u.syncVal n = (x.gr r2).toNat ∧ ∀ m, m ≠ n → u.syncVal m = s.syncVal m)) ∧
      ((x.gr r2).toNat ≤ s.syncVal n → ∃ u, exec (.scCoreWait c r1 r2) s = .next u ∧ CoreFrame c s u ∧ u.core k = x.moved) ∧
      (s.syncVal n < (x.gr r2).toNat → ∃ u q, exec (.scCoreWait c r1 r2) s = .next u ∧
        RingFrame { s with sync := u.sync, cores := u.cores, free := u.free } u ∧ u.core k = { x.moved with scWait := some (n, x.gr r2) } ∧
        (∀ m, m ≠ k → u.core m = s.core m) ∧ (∀ m, u.syncVal m = s.syncVal m) ∧
        u.sync.waits = s.sync.waits ++ [q] ∧ q.who = .core c ∧ q.counter = n ∧ q.value = x.gr r2))

/-- Scalar loads and stores, LD.ACQ and ST.REL and the atomics act on a location of stack memory; a load gives the bytes in the
low bits of its register, an atomic the word as it was, and no byte outside the stored ones changes (R293, R294, R296). -/
def Obligations.ScalarAccessesReachMemory : Prop :=
  ∀ (s : State) (c : BitVec 8) (r1 : BitVec 5) (n pa : Nat) (write : Bool), CoreAt s c → cleanMem s → let k := c.toNat; let x := s.core k
    let va := (x.gr r1).toNat
    va % n = 0 → resolve s va write = .ok (.stack pa) → pa < 0xC000000000 → s.restoring va = false → s.coreHeld va = false →
    (∀ i rd, write = false → ((∃ l, i = .scalarAccess c false l rd r1 ∧ n = 2 ^ l.toNat) ∨ (i = .ldAcq c rd r1 ∧ n = 8)) →
      ∃ u y, exec i s = .next u ∧ CoreFrame c s u ∧ y.toNat % 2 ^ (8 * n) = leNat (Memory.read s.mem.bytes pa n) ∧
        u.core k = (x.setG rd y).moved) ∧
    (∀ i rs, write = true → ((∃ l, i = .scalarAccess c true l rs r1 ∧ n = 2 ^ l.toNat) ∨ (i = .stRel c r1 rs ∧ n = 8)) →
      ∃ u, exec i s = .next u ∧ CoreFrame c { s with mem := u.mem } u ∧ u.core k = { x.moved with undo := (u.core k).undo } ∧
        u.mem = { s.mem with bytes := Memory.write s.mem.bytes pa (leBytes n (x.gr rs).toNat), dirty := u.mem.dirty } ∧
        ∀ a, ¬(pa ≤ a ∧ a < pa + n) → Memory.get u.mem.bytes a = Memory.get s.mem.bytes a) ∧
    (∀ i rd r2 f, write = true → n = 8 → atomicOp i = some (c, rd, r1, r2, f) →
      let w := BitVec.ofNat 64 (leNat (Memory.read s.mem.bytes pa 8))
      ∃ u, exec i s = .next u ∧ CoreFrame c { s with mem := u.mem } u ∧ u.core k = { (x.setG rd w).moved with undo := (u.core k).undo } ∧
        u.mem = { s.mem with bytes := Memory.write s.mem.bytes pa (leBytes 8 (f w (x.gr r2) (x.gr rd)).toNat), dirty := u.mem.dirty } ∧
        ∀ a, ¬(pa ≤ a ∧ a < pa + 8) → Memory.get u.mem.bytes a = Memory.get s.mem.bytes a)

/-! ## The span vector extension -/

/-- Every span instruction that writes a gang or a mask register by elements: an element from VRESUME to SPAN takes its value when it
is active, and 0 or what it held, by ZERO, when it is not; every other element and register stays, and the flags accumulate. An
illegal form stops the program with 0x8680, and vector use at U while VEN is clear enters the supervisor (R303 to R310, R313, R316). -/
def Obligations.VectorElements : Prop :=
  (∀ (s : State) (i : Instr) (o : VecOp), vecOp i = some o → SpanAt s o.core o.major o.op o.w →
    let k := o.core.toNat; let x := s.core k; let d := o.w.vd.toNat
    (o.legal x = false → x.trap = none → exec i s = .next (stopProgram s k 0x8680 x.pc)) ∧
    (o.legal x = true → ∃ u, exec i s = .next u ∧ CoreFrame o.core s u ∧
      let y := u.core k
      (∀ j, x.vresume ≤ j → j < x.spanLen → y.elem o.dew d j =
        if x.activeAt o.w j then (o.val x j).1 % 2 ^ o.dew else if o.w.zero then 0 else x.elem o.dew d j) ∧
      (∀ j, (j < x.vresume ∨ x.spanLen ≤ j) → j * o.dew / 512 < o.dg → y.elem o.dew d j = x.elem o.dew d j) ∧
      (∀ r, ¬(d ≤ r ∧ r < d + o.dg) → y.v.getD r 0 = x.v.getD r 0) ∧
      y.fpmode = (List.range (x.spanLen - x.vresume)).foldl (fun m n =>
        if x.activeAt o.w (x.vresume + n) then m ||| BitVec.ofNat 64 ((o.val x (x.vresume + n)).2 * 8) else m) x.fpmode ∧
      y = { (x.setVresume 0).moved with v := y.v, vused := y.vused, fpmode := y.fpmode })) ∧
  (∀ (s : State) (i : Instr) (o : BitOp), bitOp i = some o → SpanAt s o.core o.major o.op o.w →
    let k := o.core.toNat; let x := s.core k; let d := o.w.vd.toNat % 8
    (o.legal x = false → x.trap = none → exec i s = .next (stopProgram s k 0x8680 x.pc)) ∧
    (o.legal x = true → ∃ u, exec i s = .next u ∧ CoreFrame o.core s u ∧
      let y := u.core k
      (d = 0 → y.k = x.k) ∧
      (d ≠ 0 → ∀ j, j < 512 → y.maskBit d j =
        if x.vresume ≤ j ∧ j < x.spanLen then (if x.activeAt o.w j then (o.val x j).1 else !o.w.zero && x.maskBit d j) else x.maskBit d j) ∧
      (∀ r, r ≠ d → y.k.getD r 0 = x.k.getD r 0) ∧
      y.fpmode = (List.range (x.spanLen - x.vresume)).foldl (fun m n =>
        if x.activeAt o.w (x.vresume + n) then m ||| BitVec.ofNat 64 ((o.val x (x.vresume + n)).2 * 8) else m) x.fpmode ∧
      y = { (x.setVresume 0).moved with k := y.k, vused := y.vused, fpmode := y.fpmode })) ∧
  (∀ (s : State) (i : Instr) (o : VecOp), vecOp i = some o → CoreAt s o.core → let x := s.core o.core.toNat
    s.peekWord x.pc.toNat = some (spanWord o.major o.op o.w) → x.trap = none → x.ven = false →
    exec i s = .next (s.modCore o.core.toNat (fun y => { y with trap := some .ven, outer := y.trap.toList ++ y.outer })))

/-- The reductions combine the start value, element 0 of VS1, with the active elements into element 0 of VD; with SPAN at or below
VRESUME nothing is written (R311). The permutations, the moves of element 0, KCOUNT and KFIND, SETSPAN, VSRD and VSWR (R303, R304, R311,
Table 9.2, Table 9.4). -/
def Obligations.VectorReductionsAndMoves : Prop :=
  (∀ (s : State) (i : Instr) (c : BitVec 8) (op : Nat) (w : VWord) (fp : Bool) (f : Core → Nat → List Nat → FpResult),
    reduceOp i = some (c, op, w, fp, f) → SpanAt s c 0xD op w → let x := s.core c.toNat
    reduceLegal x w = true → (fp = true → (fpOfEw w).isSome = true) → ∃ u, exec i s = .next u ∧ CoreFrame c s u ∧
      let start := x.elem (ewOf w) w.vs1.toNat 0; let es := x.activeElems w
      let r : FpResult := if es = [] then ⟨start, 0⟩ else f x start es
      u.core c.toNat = ((if x.spanLen ≤ x.vresume then x else (x.setElem (ewOf w) w.vd.toNat 0 r.bits).stick r.flags).setVresume 0).moved) ∧
  (∀ (s : State) (c : BitVec 8) (w : VWord), let x := s.core c.toNat; let d := w.vd.toNat; let n := (x.gr w.vs1).toNat
    let perm (i : Instr) (op : Nat) (legal : Bool) (val : Nat → Nat → Prop) : Prop := SpanAt s c 0xD op w → legal = true →
      ∃ u, exec i s = .next u ∧ CoreFrame c s u ∧ let y := u.core c.toNat
        (∀ j, x.vresume ≤ j → j < x.spanLen → if x.activeAt w j then val j (y.elem (ewOf w) d j)
          else y.elem (ewOf w) d j = if w.zero then 0 else x.elem (ewOf w) d j) ∧
        (∀ j, (j < x.vresume ∨ x.spanLen ≤ j) → j * ewOf w / 512 < gangOf w → y.elem (ewOf w) d j = x.elem (ewOf w) d j) ∧
        (∀ r, ¬(d ≤ r ∧ r < d + gangOf w) → y.v.getD r 0 = x.v.getD r 0) ∧
        y = { (x.setVresume 0).moved with v := y.v, vused := y.vused }
    perm (.vshiftup c w) 0x20 (unaryLegal x w) (fun j v => n ≤ j → v = x.opA w (j - n)) ∧
    perm (.vshiftdn c w) 0x21 (unaryLegal x w) (fun j v => j + n < x.spanLen → v = x.opA w (j + n)) ∧
    perm (.vshuf c w) 0x22 (reduceLegal x w) (fun j v => let m := x.elem (ewOf w) w.vs1.toNat j
      (spanMaxOf w ≤ m → v = 0) ∧ (m < x.spanLen → v = x.opA w m) ∧ (m < spanMaxOf w → v = 0 ∨ v = x.opA w m)) ∧
    (SpanAt s c 0xD 0x23 w → unaryLegal x w = true → ∃ u, exec (.vpack c w) s = .next u ∧ CoreFrame c s u ∧ let y := u.core c.toNat
      (∀ j e, (x.activeElems w)[j]? = some e → y.elem (ewOf w) d (x.vresume + j) = x.opA w e) ∧
      (∀ j, x.vresume + (x.activeElems w).length ≤ j → j < x.spanLen → x.activeAt w j = false →
        y.elem (ewOf w) d j = if w.zero then 0 else x.elem (ewOf w) d j) ∧
      (∀ j, (j < x.vresume ∨ x.spanLen ≤ j) → j * ewOf w / 512 < gangOf w → y.elem (ewOf w) d j = x.elem (ewOf w) d j) ∧
      (∀ r, ¬(d ≤ r ∧ r < d + gangOf w) → y.v.getD r 0 = x.v.getD r 0) ∧
      y = { (x.setVresume 0).moved with v := y.v, vused := y.vused })) ∧
  (∀ (s : State) (c : BitVec 8) (w : VWord), let x := s.core c.toNat
    let run (i : Instr) (y : Core) : Prop := ∃ u, exec i s = .next u ∧ CoreFrame c s u ∧ u.core c.toNat = (y.setVresume 0).moved
    let moves := spanFits x w = true ∧ w.scal = false ∧ gangAligned w.vs2 (gangOf w) = true
    let idle := x.spanLen = 0 ∨ x.vresume ≠ 0 ∨ (x.activeAt w 0 = false ∧ w.zero = false)
    let v := if x.activeAt w 0 then x.opA w 0 else 0
    (SpanAt s c 0xD 0x26 w → moves →
      (idle → run (.vtog c w) x) ∧ (¬idle → ∃ g, g.toNat % 2 ^ ewOf w = v ∧ run (.vtog c w) (x.setG w.vd g))) ∧
    (SpanAt s c 0xD 0x27 w → moves → (fpOfEw w).isSome = true →
      (idle → run (.vtof c w) x) ∧ (¬idle → run (.vtof c w) (x.setF w.vd (BitVec.ofNat 64 v)))) ∧
    (spanFits x w = true → w.scal = false → let hits := (x.activeElems w).filter (fun j => x.maskBit (w.vs2.toNat % 8) j)
      (SpanAt s c 0xD 0x34 w → run (.kcount c w) (if x.spanLen ≤ x.vresume then x else x.setG w.vd (BitVec.ofNat 64 hits.length))) ∧
      (SpanAt s c 0xD 0x35 w → run (.kfind c w) (if x.spanLen ≤ x.vresume then x
        else x.setG w.vd (match hits with | j :: _ => BitVec.ofNat 64 j | [] => BitVec.allOnes 64)))) ∧
    (w.scal = false →
      (SpanAt s c 0xD 0x00 w → let n := min (x.gr w.vs1).toNat (spanMaxOf w)
        run (.setspan c w) ({ x with spanLen := n }.setG w.vd (BitVec.ofNat 64 n))) ∧
      (SpanAt s c 0xD 0x02 w →
        (∀ v, x.readSpecial w.vs1.toNat = some v → spanFits x w = true → run (.vsrd c w) (x.setG w.vd v)) ∧
        (x.readSpecial w.vs1.toNat = none ∨ spanFits x w = false → x.trap = none →
          exec (.vsrd c w) s = .next (stopProgram s c.toNat 0x8680 x.pc))) ∧
      (SpanAt s c 0xD 0x03 w → let v := x.gr w.vs1; let z := x.setVresume 0
        (x.trap = none → exec (.vswr c w) s = .next (stopProgram s c.toNat 0x8680 x.pc)) ∧
        (x.trap ≠ none → spanFits x w = true → ∃ u, (w.vd ∈ [(0 : BitVec 5), 2, 3, 4, 5] → exec (.vswr c w) s = .next u ∧ CoreFrame c s u) ∧
          (w.vd = 0 → u.core c.toNat = { z with spanLen := v.toNat }) ∧ (w.vd = 2 → u.core c.toNat = { z with vresumeS := v.toNat }) ∧
          (w.vd = 3 → u.core c.toNat = { z with vresumeU := v.toNat }) ∧ (w.vd = 4 → u.core c.toNat = { z with vused := x.vused &&& ~~~v }) ∧
          (w.vd = 5 → u.core c.toNat = { z with ven := v.getLsbD 0 })))))

/-- The vector loads and stores, VLDPROBE, KLD and KST, where every access of an active element is allowed: each active element takes
its bytes of memory, or memory takes them in rising order of the elements; an inactive element is not accessed (R304, R314, R317). -/
def Obligations.VectorMemoryAccesses : Prop :=
  (∀ (s : State) (i : Instr) (c : BitVec 8) (op : Nat) (w : VWord) (write probe idx : Bool) (addr : Core → Nat → Nat) (pa : Nat → Nat),
    memOp i = some (c, op, w, write, probe, idx, addr) → SpanAt s c 0xD op w → cleanMem s →
    let x := s.core c.toNat; let n := ewOf w / 8; let es := x.activeElems w; let d := w.vd.toNat; let m := w.vs2.toNat % 8
    vmemLegal x w idx = true → (probe = true → m ≠ 0) →
    (∀ j ∈ es, coreAccess s (addr x j % 2 ^ 64) n write = .ok (.stack (pa j)) ∧ pa j < 0xC000000000 ∧ s.coreHeld (addr x j % 2 ^ 64) = false) →
    ∃ u, exec i s = .next u ∧ let y := u.core c.toNat
      (write = false → CoreFrame c s u ∧
        (∀ j, x.vresume ≤ j → j < x.spanLen → y.elem (ewOf w) d j =
          if x.activeAt w j then leNat (Memory.read s.mem.bytes (pa j) n) else if w.zero then 0 else x.elem (ewOf w) d j) ∧
        (∀ j, (j < x.vresume ∨ x.spanLen ≤ j) → j * ewOf w / 512 < gangOf w → y.elem (ewOf w) d j = x.elem (ewOf w) d j) ∧
        (∀ r, ¬(d ≤ r ∧ r < d + gangOf w) → y.v.getD r 0 = x.v.getD r 0) ∧
        (probe = false → y.k = x.k) ∧
        (probe = true → (∀ j, j < 512 → y.maskBit m j = if x.vresume ≤ j ∧ j < x.spanLen then x.activeAt w j else x.maskBit m j) ∧
          ∀ r, r ≠ m → y.k.getD r 0 = x.k.getD r 0) ∧
        y = { (x.setVresume 0).moved with v := y.v, vused := y.vused, k := y.k }) ∧
      (write = true → CoreFrame c { s with mem := u.mem } u ∧ y = { (x.setVresume 0).moved with undo := y.undo } ∧
        u.mem = { s.mem with bytes := u.mem.bytes, dirty := u.mem.dirty } ∧
        u.mem.bytes = es.foldl (fun b j => Memory.write b (pa j) (leBytes n (x.elem (ewOf w) d j))) s.mem.bytes ∧
        ∀ a, (∀ j ∈ es, ¬(pa j ≤ a ∧ a < pa j + n)) → Memory.get u.mem.bytes a = Memory.get s.mem.bytes a)) ∧
  (∀ (s : State) (c : BitVec 8) (w : VWord) (write : Bool) (pa : Nat → Nat), w.scal = false → cleanMem s →
    let x := s.core c.toNat; let va := (x.gr w.vs1).toNat; let d := w.vd.toNat % 8
    (∀ n, n < 8 → coreAccess s ((va + 8 * n) % 2 ^ 64) 8 write = .ok (.stack (pa n)) ∧ pa n < 0xC000000000 ∧
      s.coreHeld ((va + 8 * n) % 2 ^ 64) = false) →
    (write = false → SpanAt s c 0xD 0x36 w → ∃ u, exec (.kld c w) s = .next u ∧ CoreFrame c s u ∧
      u.core c.toNat = ((x.setMask d (BitVec.ofNat 512 (leNat ((List.range 8).flatMap (fun n => Memory.read s.mem.bytes (pa n) 8))))).setVresume 0).moved) ∧
    (write = true → SpanAt s c 0xD 0x37 w → ∃ u, exec (.kst c w) s = .next u ∧ CoreFrame c { s with mem := u.mem } u ∧
      u.core c.toNat = { (x.setVresume 0).moved with undo := (u.core c.toNat).undo } ∧
      u.mem = { s.mem with bytes := u.mem.bytes, dirty := u.mem.dirty } ∧
      u.mem.bytes = (List.range 8).foldl (fun b n => Memory.write b (pa n) (leBytes 8 ((x.mask d).toNat / 2 ^ (64 * n)))) s.mem.bytes ∧
      ∀ a, (∀ n, n < 8 → ¬(pa n ≤ a ∧ a < pa n + 8)) → Memory.get u.mem.bytes a = Memory.get s.mem.bytes a))

/-! ## Memory controllers and checkpoints -/

/-- A stack's temperature report sets its register, its metering or refresh step and its hot stop (R340 to R342); a scrub read acts on
the error it finds by the class of its page (R332 to R334, R339); a decided retirement takes a reserve block, or is left in place (R344,
R348); a changed spare map goes to SPI flash (R345, R583); a stalled write goes on once it has a slot (R355). -/
def Obligations.MemoryControllersAct : Prop :=
  ∀ (s : State) (stack : BitVec 3), let n := stack.toNat; let k := s.stk n
    s.pins.powered = true → s.mem.stackCtl.length = 8 →
    (∀ (tempC thrC : BitVec 8) (rate : BitVec 4), let c := tempC.toNat; let thr := thrC.toNat
      ∃ u, exec (.stackTempSample stack tempC thrC rate) s = .next u ∧
        u = { s with mem := { s.mem with stackCtl := u.mem.stackCtl }, regs := u.regs, hostMem := u.hostMem, hif := u.hif, free := u.free } ∧
        u.reg (stackBase n + 0x10) = c + thr * 0x100 + rate.toNat * 0x10000 ∧
        (∀ o, eventReg o = false → o ≠ stackBase n + 0x10 → u.reg o = s.reg o) ∧ (∀ m, m ≠ n → u.stk m = s.stk m) ∧
        (u.stk n).hotStop = (if 100 ≤ c then true else if c < 95 then false else k.hotStop) ∧
        (k.modeActive = true → (u.stk n).metering = false ∧ (u.stk n).refreshMul = refreshStep k.refreshMul c) ∧
        (k.modeActive = false → (u.stk n).metering = (if thr ≤ c then true else if c + 2 ≤ thr then false else k.metering))) ∧
    (∀ (line : U64) (err : LineErr) (e : U64), let pa := line.toNat / 128 * 128
      s.reg (stackBase n + 0xC) ≠ 0 → pa < 0xC000000000 → stackOf pa = n → s.entryAt pa = some e → s.paHeld pa = false → s.lineMark pa = none →
      let act := entryClass e == 1
      (err = .none → kvGet s.mem.latent (pa / 128) = none → exec (.scrub stack line err) s = .next s) ∧
      (err ≠ .none → ∃ u, exec (.scrub stack line err) s = .next u ∧ u.mem.bytes = s.mem.bytes ∧ u.mem.xlt = s.mem.xlt ∧
        u.lineMark pa = (if act then some .poisoned else if err = .uncorrectable then some .lost else none) ∧
        (act = true ∨ err = .uncorrectable → u.reg64 (stackBase n + 0x20) = pa))) ∧
    (∀ b r, k.retiring = b :: r → (∀ e ∈ s.mem.latent, ¬(32 * b ≤ e.1 ∧ e.1 < 32 * b + 32)) →
      ∃ u, exec (.blockRetired stack) s = .next u ∧ (u.stk n).retiring = natErase k.retiring b ∧
      u.mem.bytes = s.mem.bytes ∧ (∀ m, m ≠ n → u.stk m = s.stk m) ∧
      (k.blocksLeft ≠ 0 → (u.stk n).blockMap = remapBlock k n b ∧ (b, freeReserve k) ∈ remapBlock k n b ∧ u.flash.dirty = true ∧
        ((∀ e ∈ k.blockMap, e.1 ≠ b) → remapBlock k n b = k.blockMap ++ [(b, freeReserve k)])) ∧
      (k.blocksLeft = 0 → (u.stk n).blockMap = k.blockMap ∧ (u.stk n).inPlace = k.inPlace ++ [b])) ∧
    (s.flash.dirty = true → ∃ u, exec .spareMapFlashWrite s = .next u ∧ u = { s with flash := u.flash, rig := u.rig } ∧
      u.flash.blockMaps = s.mem.stackCtl.map Stack.blockMap ∧ u.flash.trims = s.pwr.trims ∧ u.flash.dirty = false ∧
      u.flash.journal.length = s.flash.journal.length + s.rig.unwritten.length ∧ u.rig = { s.rig with unwritten := [] }) ∧
    (∀ (die : BitVec 2) w r, s.mem.stalled = w :: r → w.1 / 0x3000000000 = die.toNat → noSlot s (w.1 / 65536) = false →
      ∃ u, exec (.stagingStallRelease die) s = .next u ∧ u.mem.stalled = r ∧ u.mem.bytes = Memory.write s.mem.bytes w.1 w.2)

/-- A generation's granules are copied to both stores and the window closes once none is left (R352, R481); the manifest needs the
read-back, and a full generation where its store has none (R479, R480, R482); the reduction commits or abandons (R480); pages return on demand
and in the background order, each checked against its entry (R488, R490, R491); the host slot of G* reseeds the buddy store (R500). -/
def Obligations.CheckpointsProceed : Prop :=
  ∀ (s : State) (p : CkptPlan), s.pins.powered = true → s.ckptPlan = some p →
    let base := p.vbase.toNat / 65536; let d := p.vbytes.toNat
    (∀ k, s.ckpt.inProgress = some k →
      (∀ (die : BitVec 2) g cap, s.mem.windowOpen = true → s.nextGranule die.toNat = some (g, cap) →
        (s.granuleHeld g = true → exec (.granuleCopy die) s = .next s) ∧
        (s.granuleHeld g = false → s.granuleVa g = none → s.mem.latent = [] →
          Reaches (.granuleCopy die) s { s with mem := s.mem.copied g cap })) ∧
      (∀ (die : BitVec 2) g cap va, s.mem.windowOpen = true → s.nextGranule die.toNat = some (g, cap) → s.granuleVa g = some va →
        s.granuleHeld g = false → s.mem.latent = [] →
        let bs := if cap then Memory.read (kvGetD s.mem.staging g []) 0 65536 else Memory.read s.mem.bytes (g * 65536) 65536
        ∃ u, exec (.granuleCopy die) s = .next u ∧
          u.mem = (if cap then { s.mem with staging := kvErase s.mem.staging g } else { s.mem with ckptPend := natErase s.mem.ckptPend g }) ∧
          u.ckpt.copied = natInsert s.ckpt.copied va ∧ u.ckpt.received = natInsert s.ckpt.received (va - base) ∧ u.ckpt.inProgress = some k ∧
          (s.hostStoreOpen p = true → 65536 * (va - base) + 65536 ≤ d →
            Memory.read u.hostMem (hostStoreAddr p (imageOff d (k.toNat % 2) (65536 * (va - base)))) 65536 = bs)) ∧
      (s.mem.windowOpen = true → s.mem.ckptPend = [] → s.mem.staging = [] → s.mem.stalled = [] → ∃ u, exec .close s = .next u ∧
        u.mem = { s.mem with windowOpen := false } ∧ u.ckpt = { s.ckpt with windowClosed := true }) ∧
      (∀ ok, s.ckpt.windowClosed = true → s.ckpt.manifestDone = false → s.ckptUnacked = false → s.ckpt.buddy.length = 2 → s.ckpt.host.length = 2 →
        ((ok = false ∨ s.ckpt.primaryOk = false) →
          exec (.manifestWrite ok) s = .next { s with ckpt := { s.ckpt with manifestDone := true, primaryOk := false } }) ∧
        (ok = true → s.ckpt.primaryOk = true → ∃ u, exec (.manifestWrite ok) s = .next u ∧ u.ckpt.manifestDone = true ∧ u.mem = s.mem ∧
          let first := s.buddyPrimary p
          let whole := seeded (if first then s.ckpt.buddy else s.ckpt.host) || s.fullGeneration p
          (whole = true → ((if first then u.ckpt.buddy else u.ckpt.host).getD (k.toNat % 2) StoreSlot.empty).gen = some k) ∧
          (whole = false → u.ckpt.buddy = s.ckpt.buddy ∧ u.ckpt.host = s.ckpt.host))) ∧
      (s.ckpt.manifestDone = true → s.ckptUnacked = false →
        (s.ckpt.primaryOk = true → s.ckpt.wardBad = false → ∃ v, Reaches (.commitAgreement true) s v ∧ v = { s with ckpt := v.ckpt } ∧
          v.ckpt = { s.ckpt with gen := k, genStroke := s.ckpt.snapStroke, inProgress := none, copied := [], manifestDone := false, hostSlot := v.ckpt.hostSlot } ∧
          ((s.ckpt.host.getD (k.toNat % 2) StoreSlot.empty).gen = some k → v.ckpt.hostSlot = (k.toNat % 2 == 1))) ∧
        (∃ v, Reaches (.commitAgreement false) s v ∧ v = { s with ckpt := v.ckpt, mem := { s.mem with dirty := v.mem.dirty } } ∧
          v.ckpt = { s.ckpt with inProgress := none, manifestDone := false, wardBad := false } ∧ (∀ g ∈ s.mem.dirty, g ∈ v.mem.dirty) ∧
          ∀ va ∈ s.ckpt.copied, ∀ e, kvGet s.mem.xlt (va / 32) = some e → entryFrame e * 32 + va % 32 ∈ v.mem.dirty))) ∧
    (s.ckpt.restoring = true → ∀ page : U64, let pg := page.toNat / 0x200000
      (s.mem.restorePending.contains pg = true → exec (.demandFetch page) s =
        .next { s with ckpt := { s.ckpt with fetches := s.ckpt.fetches.filter (fun e => e.1 != pg) ++ [(pg, true)] } }) ∧
      (∀ q, s.nextRestore = some q → exec .backgroundRestore s = .next { s with ckpt := { s.ckpt with fetches := s.ckpt.fetches ++ [(q, false)] } }) ∧
      (∀ (src : RestoreSrc) x onDemand, let buddy := src ≠ .host
        slotWith (if src = .host then s.ckpt.host else s.ckpt.buddy) s.resumeGen = some x →
        (buddy ↔ s.fromBuddy = true) → s.ckpt.fetches.find? (fun e => e.1 == pg) = some (pg, onDemand) →
        s.mem.restorePending.contains pg = true → ∀ e, kvGet s.mem.xlt pg = some e →
        let read (va : Nat) : List Byte := match src with
          | .host => Memory.read s.hostMem (hostStoreAddr p (imageOff d (s.resumeGen.toNat % 2) (65536 * (va - base)))) 65536
          | .buddy l => padTo 65536 (((l.find? (fun e => e.1 == va % 32)).map Prod.snd).getD [])
        let due := (s.pageGranules pg).filter (fun va => (kvGet x.digests (va - base)).isSome)
        (∀ va ∈ due, s.granuleHeld (entryFrame e * 32 + va % 32) = false) →
        ((∀ va ∈ due, kvGet x.digests (va - base) = some (granuleDigest (read va))) → ∃ u, exec (.pageRestored page src) s = .next u ∧
          u.mem = { (due.foldl (fun v va => restoreGranule v va (read va)) s).mem with restorePending := natErase s.mem.restorePending pg } ∧
          u.ckpt.restoring = !(natErase s.mem.restorePending pg).isEmpty) ∧
        ((∃ va ∈ due, kvGet x.digests (va - base) ≠ some (granuleDigest (read va))) → Reaches (.pageRestored page src) s
          { s with ckpt := { s.ckpt with restoring := false, restoreFailed := true, fetches := [] } }))) ∧
    (∀ x, slotWith s.ckpt.host s.resumeGen = some x → s.ckpt.reseeding = true → s.running = true → ∃ u, exec .buddyReseed s = .next u ∧
      u.ckpt.reseeding = false ∧ u.ckpt.buddy = setSlot s.ckpt.buddy (s.resumeGen.toNat % 2) (fun _ => x) ∧ u.ckpt.host = s.ckpt.host ∧ u.mem = s.mem)

/-! ## Management messages, the Evfek ring and time -/

/-- The launch (R493 to R497, R588): BIND binds a tag with fresh sequence spaces and sync counters, or reloads the bound tag's member
table, with fresh spaces under a new epoch (R377); LAUNCH replies with the status that refuses it and leaves no tile bound, or no job where the
plan is too large (R23, R336), or prepares a new job or a resume (R467, R471, R489); the image whose digest matches is
forwarded to the children; hints are held; a member acknowledges once all that R494 lists holds; GO starts the job. -/
def Obligations.LaunchMessagesAct : Prop :=
  ∀ (s : State) (src : MgmtSrc), s.pins.powered = true → s.sec.romRecovery = false →
    let fm := s.fromFm src
    let drop := { s with mgmt := { s.mgmt with dropped := s.mgmt.dropped + 1 } }
    let say (kind : BitVec 8) (st : U16) (j : Option Job) : State := { s with job := j, sent := s.sent ++ [.mgmtReply kind st] }
    (∀ b, (fm = false → Reaches (.bind src b) s drop) ∧
      (fm = true → s.setupOnly = true → Reaches (.bind src b) s (say 0x90 s.sec.bootStatus s.job)) ∧
      (fm = true → s.setupOnly = false → (s.synced = false → Reaches (.bind src b) s (say 0x90 0x8906 s.job)) ∧
        (s.synced = true →
          (∀ j, s.job = some j → j.tag = b.jobTag →
            let v := say 0x90 0 (some { j with epoch := b.epoch, rank := b.ownRank.toNat, members := b.fabIds })
            Reaches (.bind src b) s (if j.epoch = b.epoch then v else { v with fab := { s.fab with tx := [], rx := [] } })) ∧
          (∀ j, s.job = some j → j.tag ≠ b.jobTag → Reaches (.bind src b) s drop) ∧
          (s.job = none → s.stillZeroing = true → Reaches (.bind src b) s s) ∧
          (s.job = none → s.stillZeroing = false → ∃ u, exec (.bind src b) s = .next u ∧ u.job = some (freshJob b) ∧
            u.sent = s.sent ++ [.mgmtReply 0x90 0] ∧ u.fab.tx = [] ∧ u.fab.rx = [] ∧ u.sync = { counters := [], waits := [], wrapped := [] } ∧
            u.cores = s.cores ∧ u.mem.bytes = s.mem.bytes ∧ ∀ a, inEventRing s a = false → Memory.get u.hostMem a = Memory.get s.hostMem a)))) ∧
    (s.job = none → ∀ l e n ps t, Reaches (.launch src l) s drop ∧ Reaches (.go src) s drop ∧
      Reaches (.hints src n ps) s drop ∧ Reaches (.jobAbort src e) s drop ∧ Reaches (.unbind src t) s drop) ∧
    (∀ j, s.job = some j →
      (∀ l, fm = true → j.phase = .bound → j.image = none →
        let taken := { j with launch := some l, phase := .launched, forwarded := false, childAcks := [], hintPages := [], timeSeed := s.tim.now, programDigest := l.programDigest }
        let refusedBy (st : U16) : State := say 0x92 st (some { j with launch := none })
        (launchFault s l ≠ 0 → launchFault s l ≠ 0x8219 → Reaches (.launch src l) s (refusedBy (BitVec.ofNat 16 (launchFault s l)))) ∧
        (launchFault s l = 0x8219 → ∃ u, exec (.launch src l) s = .next u ∧ u.job = none ∧ u.sent = s.sent ++ [.mgmtReply 0x92 0x8219] ∧
          u.mem.xlt = [] ∧ u.sync = { counters := [], waits := [], wrapped := [] } ∧ u.fab.bulkRegs = [] ∧ u.mem.bytes = s.mem.bytes) ∧
        (launchFault s l = 0 → l.gen = 0 → ∃ u, exec (.launch src l) s = .next u ∧ u.job = some { taken with shrunk := false } ∧
          u.ckpt = { Ckpt.reset with buddyId := if l.plan.ckptEn then s.buddyFab l.ckpt else none } ∧ u.sent = s.sent ∧
          u.mem = { s.mem with restorePending := [], rollback := [] } ∧ u.sync = s.sync) ∧
        (launchFault s l = 0 → l.gen ≠ 0 → (l.plan.ckptEn = false ∨ findGeneration s l.ckpt l.gen = none) →
          Reaches (.launch src l) s (refusedBy 0x8704)) ∧
        (launchFault s l = 0 → l.gen ≠ 0 → l.plan.ckptEn = true → ∀ f, findGeneration s l.ckpt l.gen = some f →
          ∃ u, exec (.launch src l) s = .next u ∧ (∃ b, u.job = some { taken with shrunk := b }) ∧ u.sync.counters = f.2.2.2 ∧
            u.ckpt.gen = l.gen ∧ u.ckpt.buddy = f.1 ∧ u.ckpt.host = f.2.1 ∧ u.ckpt.genStroke = l.startStroke ∧
            u.mem.rollback = s.restoreSet l.ckpt l.gen ∧ u.mem.restorePending = granulePages (s.restoreSet l.ckpt l.gen) ∧
            u.ckpt.restoring = !u.mem.restorePending.isEmpty)) ∧
      (∀ image l, j.launch = some l → j.phase = .launched → j.forwarded = false →
        let kept := { j with image := some image, forwarded := true, forwardedAt := s.tim.now }
        (shake256 image = l.programDigest → s.children ≠ [] → j.childAcks = [] → exec (.launchImage image) s =
          .next { s with job := some kept, sent := s.sent ++ s.children.map Out.image }) ∧
        (shake256 image = l.programDigest → s.children = [] → l.hintCount = 0 → s.wardMapped l = true → Reaches (.launchImage image) s
          { s with job := some { kept with phase := .ready }, sent := s.sent ++ [if j.rank = 0 then .attention true 0 else .attention false ((j.rank - 1) / 8)] }) ∧
        (shake256 image ≠ l.programDigest → ∃ u r, exec (.launchImage image) s = .next u ∧ u.job = some { j with image := none } ∧
          u.sent = s.sent ++ .report 0x8703 0 0 :: r ∧ u.mem = s.mem ∧ u.tiles = s.tiles ∧ u.sync = s.sync)) ∧
      (∀ image, j.phase = .ready ∨ j.phase = .running → shake256 image = j.programDigest → exec (.launchImage image) s = .next s) ∧
      (∀ rank : U32, j.phase = .launched → j.forwarded = true → s.children.contains rank.toNat = true → j.childAcks.contains rank.toNat = false →
        (j.forwardedAt.toNat + 100000000 ≤ s.tim.now.toNat → Reaches (.launchChildMissing rank) s { s with sent := s.sent ++ [.childMissing rank.toNat] }) ∧
        (s.tim.now.toNat < j.forwardedAt.toNat + 100000000 → exec (.launchChildMissing rank) s = .next s)) ∧
      (∀ l (first : U32) pages, fm = true → j.launch = some l → pages ≠ [] → pages.length ≤ 7900 → first.toNat + pages.length ≤ l.hintCount.toNat →
        (j.phase = .ready ∨ (j.phase = .launched ∧ j.forwarded = false)) →
        Reaches (.hints src first pages) s (say 0x96 0 (some { j with hintPages := holdHints first.toNat pages j.hintPages }))) ∧
      (∀ id l r, src = .fabric id → s.rankOf id.toNat = some r → j.launch = some l → j.phase = .launched → s.children.contains r = true →
        let told := { j with childAcks := natInsert j.childAcks r }
        (j.forwarded = false → Reaches (.attention src 1) s { s with job := some told }) ∧
        (j.forwarded = true → l.hintCount.toNat ≤ j.hintPages.length → s.children.all told.childAcks.contains = true → s.wardMapped l = true →
          Reaches (.attention src 1) s { s with job := some { told with phase := .ready }, sent := s.sent ++ [if j.rank = 0 then .attention true 0 else .attention false ((j.rank - 1) / 8)] })) ∧
      (∀ l, fm = true → j.launch = some l → j.phase = .ready → ∃ u, exec (.go src) s = .next u ∧
        u.job = some { j with phase := .running, oldMembers := j.members.length } ∧ u.stroke.count = l.startStroke ∧ u.stroke.entered = none ∧
        u.syncVal 16383 = l.startStroke.toNat ∧ (∀ k, k ≠ 16383 → u.syncVal k = s.syncVal k) ∧
        u.reg64 (detBase + 8) = (if l.gen = 0 then 0 else l.nondetBase.toNat) ∧
        u.sent = s.sent ++ [.mgmtReply 0x92 (if j.shrunk then 0x0170 else 0)] ∧
        (l.plan.ckptEn = true → (0xFFFF, l.ckpt.wardStore, BitVec.ofNat 64 (storeSize l.ckpt.vbytes.toNat)) ∈ u.fab.bulkRegs)) ∧
      (fm = true → j.phase ≠ .ready → j.launch ≠ none → Reaches (.go src) s drop))

/-- An image that arrives again with the job's digest is ignored; one whose digest differs from the PROGRAM_DIGEST of the launch is
reported with 0x8703, kept by nobody and forwarded to nobody, whether it arrives before the launch, after it or a second time (R496). -/
def Obligations.ImagesFollowTheirDigest : Prop :=
  ∀ (s : State) (j : Job) (image : List Byte), s.pins.powered = true → s.sec.romRecovery = false → s.job = some j →
    let refused (u : State) : Prop := ∃ r, u.sent = s.sent ++ .report 0x8703 0 0 :: r ∧ ∀ k, Out.image k ∉ r
    (j.forwarded = true ∨ j.phase = .ready ∨ j.phase = .running →
      (shake256 image = j.programDigest → exec (.launchImage image) s = .next s) ∧
      (shake256 image ≠ j.programDigest → ∃ u, exec (.launchImage image) s = .next u ∧ refused u ∧ u.job = s.job)) ∧
    (∀ l, j.launch = some l → j.phase = .launched → j.forwarded = false → shake256 image ≠ l.programDigest →
      ∃ u, exec (.launchImage image) s = .next u ∧ refused u ∧ u.job = some { j with image := none }) ∧
    (∀ src l, s.fromFm src = true → j.phase = .bound → j.image = some image → launchFault s l = 0 → l.gen = 0 →
      shake256 image ≠ l.programDigest → ∃ u k, exec (.launch src l) s = .next u ∧ refused u ∧ u.job = some k ∧ k.image = none ∧ k.forwarded = false)

/-- JOB_ABORT takes the new epoch, clears the fabric, ends every wait, stroke, audit and copy window, and leaves the job bound for its
next launch (R276, R352, R396, R497); UNBIND leaves no job, no translation, no sync counter and no registration (R110, R432, R588). -/
def Obligations.TeardownEndsTheJob : Prop :=
  ∀ (s : State) (src : MgmtSrc) (j : Job), s.pins.powered = true → s.sec.romRecovery = false → s.job = some j →
    (s.fromFm src = false → ∀ e t, let drop := { s with mgmt := { s.mgmt with dropped := s.mgmt.dropped + 1 } }
      Reaches (.jobAbort src e) s drop ∧ Reaches (.unbind src t) s drop) ∧
    (s.fromFm src = true →
      (∀ epoch, ∃ u, exec (.jobAbort src epoch) s = .next u ∧
        u.job = some { j with epoch := epoch, phase := .bound, image := none, forwarded := false, childAcks := [], hintPages := [] } ∧
        u.fab.tx = [] ∧ u.fab.rx = [] ∧ u.fab.replay = [] ∧ u.fab.drains = [] ∧ u.fab.bulkRegs = [] ∧ u.fab.recvs = [] ∧
        u.sync.waits = [] ∧ u.stroke.entered = none ∧ u.stroke.count = s.stroke.count ∧ u.mem.windowOpen = false ∧ u.mem.ckptPend = [] ∧
        u.mem.staging = [] ∧ u.mem.restorePending = [] ∧ u.ckpt.inProgress = none ∧ u.ckpt.restoring = false ∧
        u.pwr.awake = 0 ∧ u.pwr.ballast = s.pwr.ballast + s.pwr.awake ∧ u.sent.getLast? = some (.mgmtReply 0x91 0)) ∧
      (∃ u, exec (.unbind src j.tag) s = .next u ∧ u.job = none ∧ u.mem.xlt = [] ∧ u.sync = { counters := [], waits := [], wrapped := [] } ∧
        u.fab.bulkRegs = [] ∧ u.ckpt = Ckpt.reset ∧ u.mem.windowOpen = false ∧ u.sent.getLast? = some (.mgmtReply 0x95 0)))

/-- A catch within 1 µs of the last is counted as coalesced; another copies every counter into its snapshot register, with the time, the
stroke and its source (R596, R597): by CATCH, by EVFEK_CATCH, and once when the counter reaches SNAP_MATCH_TIME. LIMIT
messages act for the fabric manager and the tray controller (R507, R527, R588); frames act on the package that they name, and one that is not for it
alone goes on along the ring (R585); a repeated command is answered from its last reply, a command without a reply for 1 ms is sent again, and a
failed pair is reported (R584 to R587). A debug unlock opens the port
by a good signature over the challenge while no job is bound and the owner does not deny it (R599, R600). -/
def Obligations.MessagesAndFramesAct : Prop :=
  ∀ s : State, s.pins.powered = true →
    let drop := { s with mgmt := { s.mgmt with dropped := s.mgmt.dropped + 1 } }
    let open_ := s.pins.bypassOpen = true ∧ s.pins.pairsIn.any (fun b => b) = true
    let heard (h : EvfHdr) := open_ ∧ h.crcOk = true ∧ (h.dst.toNat = s.ringPos ∨ h.dst = 0xFF)
    let from_ (h : EvfHdr) : State := { s with sent := s.sent ++ if h.dst.toNat ≠ s.ringPos ∧ s.ringOut = true then [.evfForward h] else [] }
    let armed (m : U64) (v u : State) : Prop := if s.regBit snapBase 4 = false then EventFrame v u else if m = 0 then EventFrame v u
      else u.reg64 (snapBase + 8) = m.toNat ∧ u.regBit snapBase 3 = true ∧ RingFrame v u
    (∀ k o p v, RegFile.wf s.regs → kvGet s.regs o = some v → snapOf o = some p → s.catchRecent = false →
      (takeCatch s k = raise (bump (recordCatch s k) snapBase 0 1) 0x4908 srcPmc 0 0) ∧ (recordCatch s k).reg p = v.toNat ∧
      (recordCatch s k).reg64 (snapBase + 0x28) = s.tim.now.toNat ∧ (recordCatch s k).reg64 (snapBase + 0x30) = s.stroke.count.toNat) ∧
    (s.regBit snapBase 3 = true → s.reg64 (snapBase + 8) ≤ s.tim.now.toNat → exec .timeMatch s = .next (takeCatch (s.setRegBit snapBase 3 false) 3)) ∧
    (s.sec.romRecovery = false → ∀ src,
      (∀ m id, (src = .tray ∨ s.fromFm src = true) → ∃ u, exec (.catchMsg src m id) s = .next u ∧ armed m { s with sent := s.sent ++ [.mgmtReply 0x84 0] } u) ∧
      (∀ w : U16, let c := clampLimit w.toNat
        (src = .tray → s.holding = true → s.reg (pwrBase + 0xC) < c → exec (.limit src w) s = .next { s with sent := s.sent ++ [.mgmtReply 0x85 0x8801] }) ∧
        (src = .tray → ¬(s.holding = true ∧ s.reg (pwrBase + 0xC) < c) → ∃ u, exec (.limit src w) s = .next u ∧ u.reg (pwrBase + 0xC) = c ∧
          u.reg (pwrBase + 0x14) = min (s.reg (pwrBase + 8)) (min c (s.reg (pwrBase + 0x10))) ∧ u.sent = s.sent ++ [.mgmtReply 0x85 0]) ∧
        (s.fromFm src = true → ∃ u, exec (.limit src w) s = .next u ∧ u.reg (pwrBase + 0x10) = c ∧
          u.reg (pwrBase + 0x14) = min (s.reg (pwrBase + 8)) (min (s.reg (pwrBase + 0xC)) c) ∧ u.sent = s.sent ++ [.mgmtReply 0x85 0]) ∧
        (src ≠ .tray → s.fromFm src = false → Reaches (.limit src w) s drop))) ∧
    (∀ txn, exec (.mgmtFragmentTimeout txn) s = .next { s with mgmt := { s.mgmt with partials := s.mgmt.partials.filter (fun x => x != txn) } }) ∧
    (∀ h m id, (heard h → ∃ u, exec (.evfekCatch h m id) s = .next u ∧ armed m (from_ h) u) ∧
      (open_ → h.crcOk = true → h.dst.toNat ≠ s.ringPos → h.dst ≠ 0xFF → exec (.evfekCatch h m id) s = .next (from_ h)) ∧
      (open_ → h.crcOk = false → Reaches (.evfekCatch h m id) s s) ∧
      (s.pins.bypassOpen = false → exec (.evfekCatch h m id) s = .next s)) ∧
    (∀ h st, heard h → Reaches (.evfekReply h st) s { from_ h with mgmt := { s.mgmt with outCmds := s.mgmt.outCmds.filter (fun e => e.1 != h.seq) } }) ∧
    (∀ h cmd, heard h →
      let fresh := s.mgmt.lastSeq.find? (fun e => e.1 == h.src && e.2.1 == h.seq) = none
      let answered (st : U16) (u : State) : Prop := u.sent = (from_ h).sent ++ [.evfReply h.src h.seq st] ∧
        u.mgmt = { s.mgmt with lastSeq := s.mgmt.lastSeq.filter (fun e => e.1 != h.src) ++ [(h.src, h.seq, st)] }
      (∀ e, s.mgmt.lastSeq.find? (fun e => e.1 == h.src && e.2.1 == h.seq) = some e →
        Reaches (.evfekCommand h cmd) s { s with sent := (from_ h).sent ++ [.evfReply h.src h.seq e.2.2] }) ∧
      (fresh → (h.src ≠ 0 ∨ ∃ k, cmd = .other k) → Reaches (.evfekCommand h cmd) s { drop with sent := (from_ h).sent }) ∧
      (fresh → h.src = 0 → ∀ w, cmd = .limit w → let c := clampLimit w.toNat; let high := s.holding && s.reg (pwrBase + 0xC) < c
        ∃ u, exec (.evfekCommand h cmd) s = .next u ∧ answered (if high then 0x8801 else 0) u ∧
          u.reg (pwrBase + 0xC) = (if high then s.reg (pwrBase + 0xC) else c)) ∧
      (fresh → h.src = 0 → ∀ m id, cmd = .catchAt m id → ∃ u, exec (.evfekCommand h cmd) s = .next u ∧ answered 0 u ∧
        armed m { s with sent := u.sent, mgmt := u.mgmt } u) ∧
      (fresh → h.src = 0 → ∀ o k, cmd = .time o k → ∃ u, exec (.evfekCommand h cmd) s = .next u ∧ answered 0 u ∧ TimeSrc.evfek ∈ u.tim.locked)) ∧
    (∀ seq n t, s.mgmt.outCmds.find? (fun e => e.2.1 < 3 && e.2.2.toNat + 1000000 ≤ s.tim.now.toNat) = some (seq, n, t) →
      let cmds := s.mgmt.outCmds.map (fun e => if e.1 = seq then (seq, n + 1, s.tim.now) else e)
      exec .evfekResend s = .next (if s.ringOut = true then
        { s with sent := s.sent ++ [.evfCommand seq], mgmt := { s.mgmt with outCmds := cmds } } else s)) ∧
    ((∀ e ∈ s.mgmt.outCmds, 3 ≤ e.2.1 ∨ s.tim.now.toNat < e.2.2.toNat + 1000000) → exec .evfekResend s = .next s) ∧
    (∀ (inward : Bool) (pair : BitVec 1), let old := if inward then s.pins.pairsIn else s.pins.pairsOut; let new := setAt old pair.toNat (fun _ => false)
      old.getD pair.toNat false = true → Reaches (.ringPairFailed inward pair) s
        { s with pins := if inward then { s.pins with pairsIn := new } else { s.pins with pairsOut := new } }) ∧
    (∃ bs, exec .dbgChallenge s = .next { s with sec := { s.sec with challenge := some bs }, sent := s.sent ++ [.dbgChallenge bs], free := s.free + 4 } ∧ bs.length = 32) ∧
    (∀ sig, let good := match s.sec.challenge with
        | some ch => ed448Verify s.flash.firmwareKey "BGL-debug" (ch ++ keyId s ++ leBytes 8 s.flash.bootCount.toNat) sig
        | none => false
      let ok := good && !s.bound && !bitOf s.sec.ownerPolicy.toNat 2
      (ok = true → Reaches (.dbgUnlock sig) s { s with sec := { s.sec with challenge := none, debugOpen := true, dbgStatus := 0 }, sent := s.sent ++ [.dbgStatus 0] }) ∧
      (ok = false → exec (.dbgUnlock sig) s = .next { s with sec := { s.sec with challenge := none, dbgStatus := 0x8908 }, sent := s.sent ++ [.dbgStatus 0x8908] }))

/-- A source that gives the time is locked; the selected one is the enabled and locked source of the highest priority, and the first time
of the selected source steps the counter forward, while a later one leaves its offset to slewing (R592, R593, R595). A lost source gives way to
the next; a time out of tolerance is marked; PPS_OUT pulses at a whole second (R593, R595). -/
def Obligations.TimeSourcesAct : Prop :=
  ∀ s : State, s.pins.powered = true →
    let best (l : List TimeSrc) := [TimeSrc.ptp, .azmarlink, .evfek].find? (fun y => s.timeOn y && l.contains y)
    let took (v : State) (i : Instr) (x : TimeSrc) (t : Nat) : Prop := ∃ u, exec i s = .next u ∧
      u = { v with tim := u.tim, regs := u.regs, hostMem := u.hostMem, hif := u.hif, free := u.free } ∧
      u.tim.locked = (if s.tim.locked.contains x then s.tim.locked else s.tim.locked ++ [x]) ∧ u.tim.source = best u.tim.locked ∧
      (u.tim.source ≠ some x → u.tim.now = s.tim.now ∧ u.tim.slew = s.tim.slew) ∧
      (u.tim.source = some x → s.synced = false → u.tim.now = BitVec.ofNat 64 (max s.tim.now.toNat t) ∧ u.synced = true) ∧
      (u.tim.source = some x → s.synced = true → u.tim.now = s.tim.now ∧ u.tim.slew =
        if s.regBit (timBase + 0xC) 3 && s.tim.ppsSeen then nearestSecond ((t : Int) - (s.tim.now.toNat : Int)) else (t : Int) - (s.tim.now.toNat : Int))
    let lost (i : Instr) (x : TimeSrc) : Prop := ∃ u, exec i s = .next u ∧ u = { s with tim := u.tim, regs := u.regs, hostMem := u.hostMem, hif := u.hif, free := u.free } ∧
      let b := best (s.tim.locked.filter (fun y => y != x))
      u.tim = { s.tim with locked := s.tim.locked.filter (fun y => y != x), source := b, lostAt := if b = s.tim.source then s.tim.lostAt else s.tim.now }
    (∀ o k, s.sec.romRecovery = false → (∀ id, took s (.time (.fabric id) o k) .azmarlink (messageTime o k)) ∧ took s (.time .tray o k) .evfek (messageTime o k)) ∧
    (∀ (h : EvfHdr) o k, s.pins.bypassOpen = true → s.pins.pairsIn.any (fun b => b) = true → h.crcOk = true → (h.dst.toNat = s.ringPos ∨ h.dst = 0xFF) →
      took { s with sent := s.sent ++ if h.dst.toNat ≠ s.ringPos ∧ s.ringOut = true then [.evfForward h] else [] } (.evfekTime h o k) .evfek (messageTime o k)) ∧
    (∀ (domain : BitVec 8) (t : U64),
      (bitsOf (s.reg (timBase + 0xC)) 15 8 = domain.toNat → took s (.ptpMessage domain true t) .ptp t.toNat ∧ lost (.ptpMessage domain false t) .ptp) ∧
      (bitsOf (s.reg (timBase + 0xC)) 15 8 ≠ domain.toNat → ∀ l, Reaches (.ptpMessage domain l t) s s)) ∧
    (∀ x, s.tim.source = some x → lost .holdover x) ∧ (s.tim.source = none → exec .holdover s = .next s) ∧
    (∀ offset : U32, (s.synced = true → 1000000 < offset.toInt.natAbs → ∃ u, exec (.timeOutOfTolerance offset false) s = .next u ∧
        u.reg (timBase + 0x10) = offset.toNat ∧ u.regBit (timBase + 8) 5 = true ∧ u.tim = s.tim) ∧
      (s.synced = true → s.regBit (timBase + 8) 4 = true → s.tim.lostAt.toNat + 10000000000 < s.tim.now.toNat → ∃ u, exec (.timeOutOfTolerance offset true) s = .next u ∧
        u.regBit (timBase + 8) 5 = true ∧ u.reg (timBase + 0x10) = s.reg (timBase + 0x10) ∧ u.tim = s.tim) ∧
      (s.regBit (timBase + 8) 4 = false ∨ s.tim.now.toNat ≤ s.tim.lostAt.toNat + 10000000000 →
        exec (.timeOutOfTolerance offset true) s = .next s) ∧
      (s.synced = false → ∀ b, exec (.timeOutOfTolerance offset b) s = .next s)) ∧
    exec .ppsOutPulse s = .next (if s.regBit (timBase + 0xC) 4 && s.tim.now.toNat % 1000000000 < 20 then { s with sent := s.sent ++ [.pps] } else s)

/-! ## Azmarlink -/

/-- A lane fault starts the live sparing of the lane, or narrows the port to two healthy lanes, or disables it (R363, R364); the spared port
runs at full width again; training brings a port up at the highest rate that the switch accepts within MAX_RATE and the channel (R361, R589), the first one with its identifiers and a
later one only under the same (R589); replays are counted (R362); path notices
change the usable sets (R366). -/
def Obligations.LanesAndPathsChange : Prop :=
  ∀ (s : State) (port : BitVec 4), let p := port.toNat; let x := s.port p
    s.pins.powered = true → s.fab.ports.length = 16 →
    let others (u : State) : Prop := (∀ q, q ≠ p → u.port q = s.port q) ∧ u.mem = s.mem ∧ u.tiles = s.tiles ∧ u.cores = s.cores
    (∀ (lane : BitVec 5) k, x.lanes.findIdx? (fun y => y == lane.toNat && y != 31) = some k → x.up = true → x.disabled = false →
      let y := { x with failed := x.failed ++ [lane.toNat] }
      let v := markFailed (s.modPort p (fun _ => y)) (.lane (p / 8) (dieLane p lane.toNat))
      let spares := x.sparing = none ∧ v.spareFree p = true
      ∃ u, exec (.laneFault port lane) s = .next u ∧ others u ∧
        (spares → u.port p = { y with sparing := some k }) ∧
        (¬spares → ∀ a b r, y.healthy p = a :: b :: r → u.port p =
          { y with lanes := [a, b, 31, 31], width := 2, sparing := none, spareUsed := a == portSpare p || b == portSpare p }) ∧
        (¬spares → (y.healthy p).length < 2 → u.port p = { portOff y with lanes := [31, 31, 31, 31], spareUsed := false })) ∧
    (∀ k, x.sparing = some k → ∃ u, exec (.laneSpared port) s = .next u ∧ others u ∧
      u.port p = { x with sparing := none, lanes := setAt x.lanes k (fun _ => portSpare p), spareUsed := true, spareOwned := true }) ∧
    (∀ (sw : BitVec 3) (ch : BitVec 2) (id fm : U16) (rev : Bool), let rate := trainRate s p sw.toNat ch.toNat
      (∀ r, r = rate ↔ (r = 0 ∨ (1 ≤ r ∧ r ≤ 3 ∧ r ≤ max 1 (bitsOf (s.reg (portBase p + 4)) 1 0) ∧ r ≤ ch.toNat ∧ bitOf sw.toNat (r - 1) = true)) ∧
        ∀ k, r < k → k ≤ 3 → k ≤ max 1 (bitsOf (s.reg (portBase p + 4)) 1 0) → k ≤ ch.toNat → bitOf sw.toNat (k - 1) = false) ∧
      (x.up = true ∨ x.disabled = true → exec (.portTraining port sw ch id fm rev) s = .next s) ∧
      (x.up = false → x.disabled = false → s.sec.romRecovery = false →
        (s.portServes p = false ∨ rate = 0 → ∃ u, exec (.portTraining port sw ch id fm rev) s = .next u ∧ others u ∧ u.port p = portOff x) ∧
        (s.portServes p = true → 0 < rate → s.fab.ports.any Port.up = true → ¬(s.fabId = id.toNat ∧ s.fmId = fm.toNat) →
          ∃ u, exec (.portTraining port sw ch id fm rev) s = .next u ∧ others u ∧ u.port p = portOff x) ∧
        (s.portServes p = true → 0 < rate → (s.fab.ports.any Port.up = true → s.fabId = id.toNat ∧ s.fmId = fm.toNat) →
          ∃ u, exec (.portTraining port sw ch id fm rev) s = .next u ∧ others u ∧
          u.reg (fabBase 0) = id.toNat + fm.toNat * 0x10000 ∧ (u.port p).up = true ∧ (u.port p).rate = rate ∧
          (x.lanes.length = 4 → x.lanes.all (fun l => l != 31) = true →
            (u.port p).width = 4 ∧ (u.port p).lanes = if rev then x.lanes.reverse else x.lanes)))) ∧
    ((∃ u, exec (.fecReplay port) s = .next u ∧ EventFrame { s with free := u.free } u) ∧ (s.regBit (portBase p + 0xF0) 3 = false → s.reg64 (portBase p + 0x118) + 1 < 2 ^ 64 →
      ∃ u, exec (.fecReplay port) s = .next u ∧ u.reg64 (portBase p + 0x118) = s.reg64 (portBase p + 0x118) + 1)) ∧
    (∀ dst, (x.pathDown.contains dst = true → exec (.pathDown port dst) s = .next s) ∧
      (x.pathDown.contains dst = false → exec (.pathUp port dst) s = .next s ∧
        ∃ u, exec (.pathDown port dst) s = .next u ∧ others u ∧ u.port p = { x with pathDown := x.pathDown ++ [dst] }) ∧
      (x.pathDown.contains dst = true → ∃ u, exec (.pathUp port dst) s = .next u ∧ others u ∧
        u.port p = { x with pathDown := x.pathDown.filter (fun d => d != dst) }))

/-- The sender's timers: a request unanswered for 200, 400, 600 and 800 µs is resent with RETRY in its own space (R378, R380), a destination
silent for 1,000 µs is said and reported once (R395), an old path ends after DRAIN_TIMEOUT_US, 0 counting as 1, and its held requests go on (R385), RELEASED is carried by a DRAIN (R379), a busy message is resent (R391), a
queued request takes the next number of its space (R377). The receiver's: replay entries are freed 1 ms after their release (R379), an
atomic that waited for the cache and the oldest set of combined operations go on (R379, R387). -/
def Obligations.FabricTimersAct : Prop :=
  ∀ s : State, s.pins.powered = true →
    let quiet (u : State) : Prop := u.mem = s.mem ∧ u.tiles = s.tiles ∧ u.cores = s.cores ∧ u.rig = s.rig
    let aged (r : TxReq) (ns : Nat) : Prop := r.sentAt.toNat + ns ≤ s.tim.now.toNat
    (∀ dst (fd : BitVec 1) seq r q, s.outReq dst fd.toNat seq = some r → s.portInHalf fd.toNat r.slot dst = some q →
      let x := s.txSpace dst (s.outSpace dst fd.toNat seq)
      (r.resends < 4 → s.fab.msgBusy.contains (dst, seq) = false → aged r (200000 * (r.resends + 1)) → ∃ u, exec (.requestResend dst fd seq) s = .next u ∧ quiet u ∧
        u.sent = s.sent ++ [.packet q r.typ { r.hdr with retry := true, released := x.released } r.data []] ∧
        (((u.txSpace dst (s.outSpace dst fd.toNat seq)).out.find? (fun e => e.hdr.seq == seq)).map TxReq.resends) = some (r.resends + 1)) ∧
      (4 ≤ r.resends ∨ ¬aged r (200000 * (r.resends + 1)) → exec (.requestResend dst fd seq) s = .next s) ∧
      (s.fab.msgBusy.contains (dst, seq) = false → s.fab.unresponsive.contains dst = false → aged r 1000000 → ∃ u more, exec (.targetUnresponsive dst fd seq) s = .next u ∧
        quiet u ∧ u.fab = { s.fab with unresponsive := s.fab.unresponsive ++ [dst] } ∧ u.sent = s.sent ++ .report 0x8713 0 (BitVec.ofNat 64 dst.toNat) :: more) ∧
      (s.fab.unresponsive.contains dst = true ∨ ¬aged r 1000000 → exec (.targetUnresponsive dst fd seq) s = .next s)) ∧
    (∀ dst (port : BitVec 4), let us := max 1 (bitsOf (s.reg (fabBase (port.toNat / 8) + 8)) 11 0)
      ((∃ x ∈ s.fab.drains, x.dst = dst ∧ x.port = port.toNat ∧ x.since.toNat + 1000 * us ≤ s.tim.now.toNat) →
        ∃ u, exec (.drainTimeout dst port) s = .next u ∧ quiet u ∧ u.fab.drains.any (fun x => x.dst == dst && x.port == port.toNat) = false ∧
          u.fab.ports = s.fab.ports) ∧
      ((∀ x ∈ s.fab.drains, x.dst = dst → x.port = port.toNat → s.tim.now.toNat < x.since.toNat + 1000 * us) → exec (.drainTimeout dst port) s = .next s)) ∧
    (∀ dst (fd : BitVec 1) q, let x := s.txSpace dst fd.toNat
      x.released ≠ x.carried → s.portFor x.lastPort dst = some q → ∃ u, exec (.releasedDrain dst fd) s = .next u ∧ quiet u ∧
        u.sent = s.sent ++ [.packet q .drain { ownHdr s dst with released := x.released } [] []] ∧
        (u.txSpace dst fd.toNat).carried = x.released ∧ u.fab.drainsOut = s.fab.drainsOut ++ [(dst, q, false)]) ∧
    (∀ dst (fd : BitVec 1) seq r q, let x := s.txSpace dst fd.toNat
      s.fab.msgBusy.contains (dst, seq) = true → x.out.find? (fun e => e.hdr.seq == seq) = some r → s.portInHalf fd.toNat r.slot dst = some q →
      ∃ u, exec (.unexpectedResend dst fd seq) s = .next u ∧ quiet u ∧
        u.sent = s.sent ++ [.packet q r.typ { r.hdr with retry := true, released := x.released } r.data []]) ∧
    (∀ dst (fd : BitVec 1) r rest q, (s.txSpace dst fd.toNat).queued = r :: rest → r.hdr.dstId = dst → s.portFor r.slot dst = some q →
      (s.txSpace dst (q / 8)).out.length < 4096 → s.fab.drains.any (fun y => y.dst == dst && y.slots.contains r.slot) = false →
      ∃ u rel, exec (.queuedRequestSend dst fd) s = .next u ∧ quiet u ∧ (u.txSpace dst (q / 8)).next = (s.txSpace dst (q / 8)).next + 1 ∧
        u.sent = s.sent ++ [.packet q r.typ { r.hdr with seq := (s.txSpace dst (q / 8)).next, retry := false, released := rel } r.data []]) ∧
    (∀ dst (fd : BitVec 1) r rest q, let x := s.txSpace dst (fd.toNat + 2)
      (s.txSpace dst fd.toNat).queued = [] → x.queued = r :: rest → x.out.length < 4096 → s.portInHalf fd.toNat r.slot dst = some q →
      ∃ u rel, exec (.queuedRequestSend dst fd) s = .next u ∧ quiet u ∧ (u.txSpace dst (fd.toNat + 2)).queued = rest ∧
        u.sent = s.sent ++ [.packet q r.typ { r.hdr with seq := x.next, retry := false, released := rel } r.data []]) ∧
    (∀ fd : BitVec 1, exec (.replayHoldExpiry fd) s = .next { s with fab := { s.fab with
      replay := s.fab.replay.filter (fun e => !(e.fd == fd.toNat && e.released && e.at_.toNat + 1000000 ≤ s.tim.now.toNat)) } }) ∧
    (∀ fd : BitVec 1, let m := fd.toNat
      (s.replayUsed m < 262144 → s.fab.cacheWait.any (fun e => e.1 / 8 == m) = false →
        exec (.replayCacheWaitRelease fd) s = .next { s with fab := { s.fab with cacheFull := natErase s.fab.cacheFull m } }) ∧
      (262144 ≤ s.replayUsed m → exec (.replayCacheWaitRelease fd) s = .next s) ∧
      (∀ port h operand compare rest n pa, s.fab.cacheWait = (port, h, operand, compare) :: rest → port / 8 = m → s.replayUsed m < 262144 →
        waitsForStack s h.addr.toNat 8 = false → (s.rxSpace h.srcId m).place h.seq = .fresh n → resolve s h.addr.toNat false = .ok (.stack pa) →
        pa < 0xC000000000 → pa % 8 = 0 → cleanMem s → ∃ u, exec (.replayCacheWaitRelease fd) s = .next u ∧ u.fab.cacheWait = rest ∧
          let old := BitVec.ofNat 64 (leNat (Memory.read s.mem.bytes pa 8))
          u.mem = { s.mem with bytes := Memory.write s.mem.bytes pa (leBytes 8 (atomicNew h.op.toNat old operand compare).toNat), dirty := u.mem.dirty })) ∧
    (∀ (fd : BitVec 1) group, s.fab.sets.find? (fun c => c.fd == fd.toNat) = some group → waitsForStack s group.vaddr.toNat 8 = false → s.fab.cacheWait = [] →
      ∃ u, exec (.combineSetClose fd) s = .next u ∧ u.fab.sets = dropFirst (fun x => x == group) s.fab.sets ∧
        ∀ e n pa, group.ops = [e] → (s.rxSpace e.1 group.fd).place e.2.1 = .fresh n → s.replayUsed (e.2.2.2 / 8) < 262144 → cleanMem s →
          resolve s group.vaddr.toNat false = .ok (.stack pa) → pa < 0xC000000000 → pa % 8 = 0 → group.op < 256 →
          let old := BitVec.ofNat 64 (leNat (Memory.read s.mem.bytes pa 8))
          u.mem = { s.mem with bytes := Memory.write s.mem.bytes pa (leBytes 8 (atomicNew group.op old e.2.2.1 0).toNat), dirty := u.mem.dirty })

/-- A request of the job that passes the checks of Table 11.6 under a fresh number is applied once and answered on its port or the
fallback: READ with the lines, WRITE and WRITE_MASKED with the bytes written, SC_OP on the counter, MSG to a receive or the unexpected store,
BULK into its range, ATOMIC and a combined packet with the word's new value, a combinable one in a set (R387); a message ahead of its turn is held
(R390); a packet for another destination or with a bad check is dropped and counted, and a DRAIN is answered (R373 to R382, R385 to R393). -/
def Obligations.RequestsAreServed : Prop :=
  ∀ (s : State) (port : BitVec 4) (h : PktHdr) (q n pa : Nat), s.pins.powered = true →
    let fd := port.toNat / 8; let a := h.addr.toNat
    let stray := h.dstId.toNat ≠ s.fabId ∨ h.crcOk = false
    let due := h.dstId.toNat = s.fabId ∧ h.crcOk = true ∧ jobCheck s h = 0 ∧ s.portFor port.toNat h.srcId = some q
    let fresh := (s.rxSpace h.srcId fd).place h.seq = .fresh n ∧ ∀ e ∈ s.fab.earlyMsgs, ¬(e.1 / 8 = fd ∧ e.2.1.srcId = h.srcId)
    let first (k : Nat) := s.queuedBefore h a k = false
    let own := crewOf h.srcId.toNat = crewOf s.fabId
    let reply (typ : PktType) (lines : BitVec 8) (data : List Byte) (tags : List Bool) : Out := .packet q typ { ownHdr s h.srcId with seq := h.seq, addr := h.addr, lines := lines } data tags
    let done (u : State) := u.rxSpace h.srcId fd = (s.rxSpace h.srcId fd).mark n none
    let wrote (u : State) := u.mem = { s.mem with bytes := u.mem.bytes, dirty := u.mem.dirty }
    let inPage (k : Nat) (w : Bool) := resolve s a w = .ok (.stack pa) ∧ pa < 0xC000000000 ∧ a % 0x200000 + k ≤ 0x200000 ∧ cleanMem s ∧ first k
    (stray → (waitsForStack s a (128 * h.lines.toNat) = false → first (128 * h.lines.toNat) → Reaches (.read port h) s s ∧ ∀ d, Reaches (.write port h d) s s) ∧
      (∀ v, Reaches (.scOp port h v) s s) ∧ (∀ p, Reaches (.msg port h p) s s) ∧ Reaches (.drain port h) s s) ∧
    (due → ∃ u, exec (.drain port h) s = .next u ∧ u.mem = s.mem ∧ u.sent = s.sent ++ [reply .drainReturn 0 [] []]) ∧
    (due → fresh → own →
      (waitsForStack s a (128 * h.lines.toNat) = false → lineCheck h = 0 → pageCheck s a false = 0 → inPage (128 * h.lines.toNat) false →
        ∃ u, exec (.read port h) s = .next u ∧ u.mem = s.mem ∧ done u ∧
          u.sent = s.sent ++ [reply .readResp h.lines (Memory.read s.mem.bytes pa (128 * h.lines.toNat)) (List.replicate h.lines.toNat false)]) ∧
      (∀ data, waitsForStack s a (128 * h.lines.toNat) = false → lineCheck h = 0 → pageCheck s a true = 0 → inPage (128 * h.lines.toNat) true →
        ∃ u, exec (.write port h data) s = .next u ∧ wrote u ∧ done u ∧ u.sent = s.sent ++ [reply .ack 0 [] []] ∧
          u.mem.bytes = Memory.write s.mem.bytes pa (padTo (128 * h.lines.toNat) data)) ∧
      (∀ mask maskHi data, waitsForStack s a 128 = false → a % 128 = 0 → pageCheck s a true = 0 → inPage 128 true →
        ∃ u, exec (.writeMasked port h mask maskHi data) s = .next u ∧ wrote u ∧ done u ∧ u.sent = s.sent ++ [reply .ack 0 [] []] ∧
          (∀ i, i < 128 → Memory.get u.mem.bytes (pa + i) =
            if bitOf (mask.toNat + maskHi.toNat * 0x10000) i then data.getD i 0 else Memory.get s.mem.bytes (pa + i)) ∧
          ∀ b, ¬(pa ≤ b ∧ b < pa + 128) → Memory.get u.mem.bytes b = Memory.get s.mem.bytes b) ∧
      (∀ v, a < 16383 → h.op = 1 ∨ h.op = 2 → ∃ u, exec (.scOp port h v) s = .next u ∧ u.mem = s.mem ∧ done u ∧
        u.sent = s.sent ++ [reply .ack 0 [] []] ∧ u.syncVal a = (if h.op = 1 then (s.syncVal a + v.toNat) % 2 ^ 64 else v.toNat) ∧
        ∀ k, k ≠ a → u.syncVal k = s.syncVal k) ∧
      (∀ operand compare, waitsForStack s a 8 = false → atomicChecks h s = 0 → let old := BitVec.ofNat 64 (leNat (Memory.read s.mem.bytes pa 8))
        let applied (u : State) := wrote u ∧ done u ∧ u.sent = s.sent ++ [reply .atomicResp 0 (leBytes 8 old.toNat) []] ∧
          u.mem.bytes = Memory.write s.mem.bytes pa (leBytes 8 (atomicNew h.op.toNat old operand compare).toNat) ∧
          ∃ e ∈ u.fab.replay, e.src = h.srcId ∧ e.fd = fd ∧ e.seq = h.seq.toNat ∧ e.prior = old
        (h.combinable = true → h.op = 1 ∨ h.op = 2 → s.combineOff fd = false → s.fab.sets = [] → s.fab.cacheWait = [] →
          ∃ u, exec (.atomic port h operand compare) s = .next u ∧ (s.drawBool.1 = true → u.mem = s.mem ∧ u.sent = s.sent ∧
              u.fab.sets = [{ fd := fd, word := a, op := h.op.toNat, vaddr := h.addr, ops := [(h.srcId, h.seq, operand, port.toNat)] }]) ∧
            (s.drawBool.1 = false → inPage 8 false → s.replayUsed fd < 262144 → applied u)) ∧
        (h.combinable = false ∨ (h.op ≠ 1 ∧ h.op ≠ 2) ∨ s.combineOff fd = true → inPage 8 false → s.replayUsed fd < 262144 →
          ∃ u, exec (.atomic port h operand compare) s = .next u ∧ applied u))) ∧
    (∀ k : Constituent, h.dstId.toNat = s.fabId → h.crcOk = true → jobCheck s { h with srcId := k.srcId, seq := k.seq } = 0 →
      crewOf k.srcId.toNat = crewOf s.fabId → (s.rxSpace k.srcId fd).place k.seq = .fresh n → waitsForStack s a 8 = false → atomicChecks h s = 0 →
      resolve s a false = .ok (.stack pa) → pa < 0xC000000000 → cleanMem s → s.queuedBefore { h with srcId := k.srcId, seq := k.seq } a 8 = false →
      s.replayUsed fd < 262144 → let old := BitVec.ofNat 64 (leNat (Memory.read s.mem.bytes pa 8))
      ∃ u, exec (.combined port h [k]) s = .next u ∧ wrote u ∧
        u.mem.bytes = Memory.write s.mem.bytes pa (leBytes 8 (atomicNew h.op.toNat old k.operand 0).toNat)) ∧
    (due → fresh →
      (∀ payload, n ≠ (s.rxSpace h.srcId fd).below → Reaches (.msg port h payload) s
        { s with fab := { (noteReleased s h fd).fab with earlyMsgs := s.fab.earlyMsgs ++ [(port.toNat, h, payload)] } }) ∧
      (∀ payload, n = (s.rxSpace h.srcId fd).below →
        (∀ r, s.fab.recvs.find? (fun r => r.matches h.op.toNat h.addr) = some r → ∃ u, exec (.msg port h payload) s = .next u ∧ done u ∧
          u.fab.recvs = dropFirst (fun x => x == r) s.fab.recvs ∧ u.fab.unexpected = s.fab.unexpected) ∧
        (s.fab.recvs.find? (fun r => r.matches h.op.toNat h.addr) = none → s.unexpUsed + payload.length ≤ 0x100000 →
          ∃ u, exec (.msg port h payload) s = .next u ∧ done u ∧ u.mem = s.mem ∧ u.sent = s.sent ++ [reply .ack 0 [] []] ∧
            u.fab.unexpected = s.fab.unexpected ++ [{ queue := h.op.toNat, tag := h.addr, src := h.srcId, payload := payload }]) ∧
        (s.fab.recvs.find? (fun r => r.matches h.op.toNat h.addr) = none → 0x100000 < s.unexpUsed + payload.length →
          ∃ u, exec (.msg port h payload) s = .next u ∧ u.fab.unexpFull = true ∧ u.fab.unexpected = s.fab.unexpected ∧
            u.sent = s.sent ++ [reply .nack 0 (leBytes 2 0x831B ++ zeroBytes 6) []])) ∧
      (∀ pre data base len, let key := a / 2 ^ 48; let off := a % 2 ^ 48; let k := 128 * h.lines.toNat
        key ≠ 0xFFFF → s.bulkRange key = some (base, len) → off + k ≤ len → pre.counter = 0xFFFF ∨ pre.counter.toNat < 16383 →
        waitsForStack s (base + off) k = false → resolve s (base + off) true = .ok (.stack pa) → pa < 0xC000000000 →
        (base + off) % 0x200000 + k ≤ 0x200000 → cleanMem s → s.queuedBefore h (base + off) k = false →
        ∃ u, exec (.bulk port h pre data) s = .next u ∧ done u ∧ wrote u ∧ u.mem.bytes = Memory.write s.mem.bytes pa (padTo k data) ∧
          u.sent = s.sent ++ [reply .ack 0 [] []] ∧
          (pre.total.toNat ≤ h.lines.toNat → pre.counter ≠ 0xFFFF → u.syncVal pre.counter.toNat = (s.syncVal pre.counter.toNat + 1) % 2 ^ 64)))

/-- An answer of the current epoch completes the request that it answers: the request leaves its space, its command, core or transfer goes on
with OK or the NACK's status, and the destination is no longer unresponsive (R374, R377, R395); one that answers nothing outstanding, or a late 0x831A,
does no more (R378, R379; log 27), and one of another job or epoch is discarded (R397); a busy message stays and is noted (R391); an answered DRAIN is resolved, and one of a path change releases what it held (R379, R385). -/
def Obligations.AnswersCompleteRequests : Prop :=
  ∀ (s : State) (port : BitVec 4) (h : PktHdr), s.pins.powered = true →
    let p := port.toNat
    let answers (i : Instr) (x : TxSpace) (r : TxReq) (st : Nat) : Prop :=
      (∀ c, r.origin = .host c → r.typ ≠ .bulk → ∃ v, exec i s = .next (tryArrive (finish v c st 0)) ∧ RingFrame { s with fab := v.fab } v ∧
        (v.txSpace x.dst x.fd).out = x.out.filter (fun e => e.hdr.seq != r.hdr.seq) ∧ v.fab.unresponsive.contains h.srcId = false) ∧
      (r.origin = .none → ∃ u, exec i s = .next u ∧ (u.txSpace x.dst x.fd).out = x.out.filter (fun e => e.hdr.seq != r.hdr.seq)) ∧
      (∀ c pc, r.origin = .core c → (s.core c.toNat).ack = some pc → ∃ u, exec i s = .next u ∧ (u.core c.toNat).ack = none ∧
        (st = 0 → (u.core c.toNat).phase = (s.core c.toNat).phase) ∧ (st ≠ 0 → (u.core c.toNat).phase = .stopped))
    (jobCheck s h = 0x8310 ∨ jobCheck s h = 0x8311 → Reaches (.ack port h) s s ∧ (∀ d t, Reaches (.readResp port h d t) s s) ∧
      (∀ v, Reaches (.atomicResp port h v) s s) ∧ Reaches (.drainReturn port h) s s ∧ ∀ st, Reaches (.nack port h st) s s) ∧
    let mine := h.dstId.toNat = s.fabId ∧ h.crcOk = true ∧ jobCheck s h = 0
    let heard : State := { s with fab := { s.fab with unresponsive := s.fab.unresponsive.filter (fun d => d != h.srcId) } }
    let acks := [PktType.write, .writeMasked, .scOp, .msg, .bulk, .collData, .collCredit, .collCtrl]
    let all := [PktType.read, .write, .writeMasked, .atomic, .scOp, .msg, .bulk, .collData, .collCredit, .collCtrl]
    (mine → (s.answered p h acks = none → Reaches (.ack port h) s heard) ∧
      (∀ v, s.answered p h [.atomic] = none → Reaches (.atomicResp port h v) s heard) ∧
      (∀ d t, s.answered p h [.read] = none → Reaches (.readResp port h d t) s heard) ∧ Reaches (.nack port h 0x831A) s heard ∧
      (∀ x r, s.answered p h acks = some (x, r) → answers (.ack port h) x r 0) ∧
      (∀ x r v, s.answered p h [.atomic] = some (x, r) → answers (.atomicResp port h v) x r 0) ∧
      (∀ x r data tags, s.answered p h [.read] = some (x, r) → answers (.readResp port h data tags) x r 0 ∧
        ∀ t id k, r.origin = .tileDma t id k → ∃ v, exec (.readResp port h data tags) s = .next (tryArrive (landPacket v t id k data tags)) ∧
          RingFrame { s with fab := v.fab } v ∧ (v.txSpace x.dst x.fd).out = x.out.filter (fun e => e.hdr.seq != r.hdr.seq)) ∧
      (∀ x r, s.answered p h all = some (x, r) →
        (∀ st, st ≠ 0 → st ≠ 0x831A → ¬(st = 0x831B ∧ r.typ = .msg) → answers (.nack port h st) x r st.toNat) ∧
        (r.typ = .msg → s.fab.msgBusy.contains (h.srcId, h.seq) = false → Reaches (.nack port h 0x831B) s
          { heard with fab := { heard.fab with msgBusy := s.fab.msgBusy ++ [(h.srcId, h.seq)] } }))) ∧
    (∀ i forPath, mine → (i = .drainReturn port h ∨ ∃ st, i = .nack port h st ∧ st ≠ 0x831A ∧ h.seq = 0 ∧ s.answered p h all = none) →
      s.fab.drainsOut.find? (fun e => e.1 == h.srcId && e.2.1 == p) = some (h.srcId, p, forPath) →
      ∃ u, exec i s = .next u ∧ u.mem = s.mem ∧ u.fab.unresponsive.contains h.srcId = false ∧
        u.fab.drainsOut = dropFirst (fun x => x == (h.srcId, p, forPath)) s.fab.drainsOut ∧
        (forPath = false → u.fab.drains = s.fab.drains) ∧
        (∀ x, forPath = true → s.fab.drains = [x] → x.dst = h.srcId → x.port = p → u.fab.drains = []))

/-! ## Power -/

/-- The power controller: an excursion of VIN (R504), 'hold water' and the thermal trip, which leave every woken group in ballast and
every stack in self-refresh, and their end (R520, R526 to R529), the common ceiling as the highest point whose power is available (R516), its fall over the limit (R517), learning
(R518), one group, one point at a time (R519), droop cuts and their end (R521, R522), pace messages (R523, R525), thermal caps (R529), ageing
and wear (R531 to R534). -/
def Obligations.PowerControllerActs : Prop :=
  ∀ s : State, s.pins.powered = true →
    let quiet (u : State) : Prop := u = { s with pwr := u.pwr, regs := u.regs, hostMem := u.hostMem, hif := u.hif, sent := u.sent, free := u.free }
    let allRefresh (u : State) (b : Bool) : Prop := u.mem.stackCtl = s.mem.stackCtl.map (fun k => { k with selfRefresh := b })
    let released := { s.pwr with ballast := s.pwr.ballast + s.pwr.awake, awake := 0 }
    (s.pwr.vinExcursion = true → exec .vinOutOfRange s = .next s) ∧
    (s.pwr.vinExcursion = false → Reaches .vinOutOfRange s ({ s with pwr := { s.pwr with vinExcursion := true } }.setRegBit pwrBase 6 true)) ∧
    exec .vinExcursionEnd s = .next ({ s with pwr := { s.pwr with vinExcursion := false } }.setRegBit pwrBase 6 false) ∧
    (∃ u, exec .holdWaterAsserted s = .next u ∧ u.pins = { s.pins with holdWater := true } ∧ u.regBit pwrBase 2 = true ∧ u.regBit pwrBase 3 = true ∧
      u.mem.bytes = s.mem.bytes ∧ (s.regBit pwrBase 3 = false → allRefresh u true ∧ u.pwr = { released with holdCount := none }) ∧
      (s.regBit pwrBase 3 = true → u.mem = s.mem ∧ u.pwr = { s.pwr with holdCount := none })) ∧
    exec .holdWaterDeasserted s = .next ({ s with pins := { s.pins with holdWater := false }, pwr := { s.pwr with holdCount := some s.tim.now } }.setRegBit pwrBase 2 false) ∧
    (∀ t, s.pwr.holdCount = some t → t.toNat + 10000000 ≤ s.tim.now.toNat → s.regBit pwrBase 3 = true →
      ∃ u, exec .holdWaterCleared s = .next u ∧ u.regBit pwrBase 3 = false ∧ u.pwr.holdCount = none ∧
      (s.regBit pwrBase 5 = false → allRefresh u false) ∧ (s.regBit pwrBase 5 = true → u.mem = s.mem)) ∧
    ((∀ t, s.pwr.holdCount = some t → s.tim.now.toNat < t.toNat + 10000000) ∨ s.regBit pwrBase 3 = false → exec .holdWaterCleared s = .next s) ∧
    (∀ m : PowerMeas, let den := ((List.range 4).map (fun n => max 1 (mappedTiles s.rig n))).foldl Nat.lcm 1
      let limit := min (s.reg (pwrBase + 0x14) * 1000) (m.vin10mV * 800)
      let need (c : Nat) := (250 + m.steering + m.memPhys + m.loss + m.uncore.sum) * 1000 * 1000 * den + arithPower s c den
      ∃ u c, exec (.allocation m) s = .next u ∧ quiet u ∧ c ≤ 15 ∧ (c = 0 ∨ need c ≤ limit * 1000 * den) ∧
        (∀ d, c < d → d ≤ 15 → limit * 1000 * den < need d) ∧
        u.pwr.target = (List.range 4).map (fun n => min c (min (s.pwr.thermalCap.getD n 15) (trimCap s n))) ∧
        u.reg (pwrBase + 0x1C) = ((List.range 4).map (fun n => cutCeiling u n * 16 ^ n)).sum ∧
        u.reg (pwrBase + 0x18) = m.vin10mV % 65536 + m.inputW % 65536 * 65536) ∧
    (∀ w ms, (w ≤ s.reg (pwrBase + 0x14) → exec (.powerOverLimit w ms) s = .next s) ∧
      (s.reg (pwrBase + 0x14) < w → ∃ u, exec (.powerOverLimit w ms) s = .next u ∧ quiet u ∧ u.pwr.target = s.pwr.target.map (fun c => c - 1))) ∧
    (∀ (ph : BitVec 8) (m : PhaseMeas), let n := m.die.toNat; let old := s.demandOf ph.toNat n
      (s.runsPhase ph.toNat = true → exec (.phaseOccurrenceEnd ph [m]) s = .next s) ∧
      (s.runsPhase ph.toNat = false → m.phase = ph → ∃ u d, exec (.phaseOccurrenceEnd ph [m]) s = .next u ∧
        quiet u ∧ u.demandOf ph.toNat n = some d ∧ d.high = max ((old.map Demand.high).getD 0) m.demand ∧ m.demand ≤ d.demand ∧
        d.seen = min (max 64 ((old.map Demand.seen).getD 0)) ((old.map Demand.seen).getD 0 + 1))) ∧
    (∃ u, exec .wakeGroupGrant s = .next u ∧ quiet u ∧ u.sent = s.sent ∧ u.pwr = if 0 < s.pwr.ballast then { s.pwr with ballast := s.pwr.ballast - 1 }
      else if s.holding = true ∨ 8 ≤ s.pwr.awake then s.pwr else { s.pwr with awake := s.pwr.awake + 1 }) ∧
    (∀ die : BitVec 2, exec (.ceilingStep die) s = .next { s with pwr := { s.pwr with actual := setAt s.pwr.actual die.toNat (fun a => if a < cutCeiling s die.toNat then a + 1 else if cutCeiling s die.toNat < a then a - 1 else a) } }) ∧
    (∀ t : TileId, let d := t.die.toNat; let p := t.phys.toNat; let log := noteStretch s d p
      let n : Nat := ((log.find? (fun e => e.1 == d && e.2.1 == p)).map (fun e => e.2.2.length)).getD 0
      ∃ u, exec (.droopStretch t) s = .next u ∧ quiet u ∧ u.pwr = { s.pwr with droops := log, droopCut := u.pwr.droopCut } ∧
        u.pwr.droopCut = (if 1000 < n ∧ ∀ e ∈ s.pwr.droopCut, ¬(e.1 = d ∧ e.2.1 = p) then s.pwr.droopCut ++ [(d, p, s.tim.now)] else s.pwr.droopCut)) ∧
    (∀ die : BitVec 2, ∃ u, exec (.droopCutExpiry die) s = .next u ∧ quiet u ∧
      u.pwr = { s.pwr with droopCut := s.pwr.droopCut.filter (fun e => !(e.1 == die.toNat && e.2.2.toNat + 10000000 ≤ s.tim.now.toNat)) }) ∧
    (let due := s.pacesDue
      let told (free : Bool) := s.pwr.paceSent.flatMap (fun p => s.paceTo.map (fun r => Out.pace r free (paceBody s p.toNat)))
      ∃ u, exec .paceRenewal s = .next u ∧ quiet u ∧ u.pwr = { s.pwr with paceSent := u.pwr.paceSent, paceLast := u.pwr.paceLast } ∧
        (due = [] → u.sent = s.sent ++ told true ∧ u.pwr = { s.pwr with paceSent := [] }) ∧
        (due = s.pwr.paceSent.map BitVec.toNat → (∀ ph ∈ due, ∀ e ∈ s.pwr.paceLast, e.1.toNat = ph → e.2.toNat + 5000000 ≤ s.tim.now.toNat) →
          u.sent = s.sent ++ told false ∧ u.pwr.paceSent = s.pwr.paceSent ∧ ∀ p ∈ s.pwr.paceSent, (p, s.tim.now) ∈ u.pwr.paceLast) ∧
        (due = s.pwr.paceSent.map BitVec.toNat → (∀ ph ∈ due, ∃ e ∈ s.pwr.paceLast, e.1.toNat = ph ∧ s.tim.now.toNat < e.2.toNat + 5000000) →
          u.sent = s.sent ∧ u.pwr = s.pwr)) ∧
    (∀ h (b : PaceBody), let mine := crewOf h.srcId.toNat = crewOf s.fabId
      let rest := s.pwr.followed.filter (fun f => !(f.rank == b.rank && f.phase == b.phase))
      let passOn (free : Bool) := (s.paceGroup.filter (fun r => r != s.rank && s.crewOfRank r == s.crewOfRank s.rank)).map (fun r => Out.pace r free b)
      (headerPasses s h = false → Reaches (.paceMessage h b) s s ∧ Reaches (.paceRelease h b) s s) ∧
      (headerPasses s h = true →
        (∃ u, exec (.paceMessage h b) s = .next u ∧ quiet u ∧ (mine → u.sent = s.sent) ∧ (¬mine → u.sent = s.sent ++ passOn false) ∧
          (s.regBit (pwrBase + 4) 1 = false → u.pwr = s.pwr) ∧
          (s.regBit (pwrBase + 4) 1 = true → u.pwr = { s.pwr with followed := rest ++ [⟨b.rank, b.phase, b.point.toNat, BitVec.ofNat 64 (s.tim.now.toNat + 1000000 * b.holdMs.toNat)⟩] } ∧ u.regBit pwrBase 7 = true)) ∧
        (∃ u, exec (.paceRelease h b) s = .next u ∧ quiet u ∧ (mine → u.sent = s.sent) ∧ (¬mine → u.sent = s.sent ++ passOn true) ∧
          u.pwr = { s.pwr with followed := rest } ∧ u.regBit pwrBase 7 = !rest.isEmpty))) ∧
    (∀ rank phase, let rest := s.pwr.followed.filter (fun f => !(f.rank == rank && f.phase == phase))
      let past := s.pwr.followed.any (fun f => f.rank == rank && f.phase == phase && f.ends.toNat ≤ s.tim.now.toNat)
      (past = true → exec (.paceHoldExpiry rank phase) s = .next ({ s with pwr := { s.pwr with followed := rest } }.setRegBit pwrBase 7 (!rest.isEmpty))) ∧
      (past = false → exec (.paceHoldExpiry rank phase) s = .next s)) ∧
    (∀ (ad : List Nat) fabric steering, let hot := max (ad.foldl max 0) (max fabric steering); let thr := bitsOf (s.reg (pwrBase + 0x24)) 7 0
      ∃ u, exec (.junctionTempSample ad fabric steering) s = .next u ∧
        u.pwr = { (if 110 ≤ hot ∧ s.regBit pwrBase 5 = false then released else s.pwr) with temps := (List.range 4).map (fun n => ad.getD n 0) } ∧
        u.reg (pwrBase + 0x20) = ad.foldl max 0 % 256 + fabric % 256 * 0x100 + steering % 256 * 0x10000 ∧
        u.regBit pwrBase 4 = (s.regBit pwrBase 4 || ad.any (fun c => thr < c)) ∧
        u.regBit pwrBase 5 = (if 110 ≤ hot then true else if hot < 90 then false else s.regBit pwrBase 5) ∧
        (110 ≤ hot → s.regBit pwrBase 5 = false → allRefresh u true)) ∧
    (∀ die : BitVec 2, let thr := bitsOf (s.reg (pwrBase + 0x24)) 7 0; let c := s.pwr.temps.getD die.toNat 0
      let caps := setAt s.pwr.thermalCap die.toNat (fun k => if thr < c then k - 1 else if c + 3 ≤ thr then min 15 (k + 1) else k)
      let v := { s with pwr := { s.pwr with thermalCap := caps } }
      exec (.thermalCapStep die) s = .next (if caps.all (fun k => k == 15) && s.pwr.temps.all (fun c => c ≤ thr) then v.setRegBit pwrBase 4 false else v)) ∧
    (exec (.ageingCheck []) s = .next s ∧ ∀ e l, let k := islandKey e; let t := kvGetD s.pwr.trims k 0
      ∃ v, exec (.ageingCheck (e :: l)) s = exec (.ageingCheck l) v ∧
        (t < 20 → v.pwr = { s.pwr with trims := kvSet s.pwr.trims k (t + 1) } ∧ v.flash = { s.flash with dirty := true }) ∧
        (20 ≤ t → v.pwr = { s.pwr with trimLoss := kvSet s.pwr.trimLoss k (kvGetD s.pwr.trimLoss k 0 + 1) } ∧ v.flash = s.flash)) ∧
    (∀ hours eye, let vs := wearValues s eye
      let past (n : Nat) := ((kvGetD s.pwr.history n [] ++ [vs.getD n 0]).reverse.take 90).reverse
      ∃ u, exec (.wearRefresh hours eye) s = .next u ∧ quiet u ∧ (∀ n, n < 9 → kvGetD u.pwr.history n [] = past n) ∧
        (∀ n, n < 8 → u.reg (pwrBase + 0x40 + 4 * n) = vs.getD n 0 + monthsOf (past n) * 0x400) ∧
        (hours < 720 → u.reg (pwrBase + 0x28) = 0 ∧ u.reg (pwrBase + 0x2C) = 0) ∧
        (720 ≤ hours → bitsOf (u.reg (pwrBase + 0x28)) 11 0 = ((List.range 9).map (fun n => monthsOf (past n))).foldl min 4095))

/-! ## Invariants -/

/-- Every step keeps the canonical form (Sys2Proof/Safety.lean): registers and bytes are listed in rising order, and none at the
value that an unlisted one reads. The form is the model's own (log 4, log 5). -/
def Obligations.EveryStepKeepsTheCanonicalForm : Prop :=
  ∀ s t : State, Canonical s → step s = .next t → Canonical t

/-- Without power nothing acts until POWER_UP: a step takes the front command from the queue and changes nothing else, and the
package stays dark (R572). That a command that finds no power does nothing is the model's reading (log 1). -/
def Obligations.UnpoweredStaysQuiet : Prop :=
  ∀ s : State, Dark s → step s = .next { s with pending := s.pending.tail } ∧ Dark { s with pending := s.pending.tail }

/-- What reset leaves: the canonical form, no power, an empty queue, no host request, and every register at its reset value (R42, R572). -/
def Obligations.ResetIsDark : Prop :=
  Canonical State.reset ∧ Dark State.reset ∧ State.reset.pending = [] ∧ State.reset.sent = [] ∧ State.reset.job = none ∧
    (∀ o, State.reset.reg o = regReset o)
end

