-- ==== Sys2Proof/Laws/Mem.lean ====
section
/-! SUPPORT. Laws of the sorted tables, the byte memories and the register file: reading after
writing, and the canonical forms. -/

namespace Sys2Proof.Machine

/-! ## Tables -/

theorem kvGet_kvSet_self {α : Type} (l : List (Nat × α)) (a : Nat) (v : α) : kvGet (kvSet l a v) a = some v := by
  induction l with
  | nil => simp [kvSet, kvGet]
  | cons e r ih =>
    obtain ⟨k, w⟩ := e
    simp only [kvSet]
    split_ifs with h1 h2
    · simp [kvGet]
    · simp [kvGet]
    · simp [kvGet, h2, ih]

theorem kvGet_kvSet_ne {α : Type} (l : List (Nat × α)) {a b : Nat} (v : α) (h : b ≠ a) :
    kvGet (kvSet l a v) b = kvGet l b := by
  induction l with
  | nil => simp [kvSet, kvGet, h.symm]
  | cons e r ih =>
    obtain ⟨k, w⟩ := e
    simp only [kvSet]
    split_ifs with h1 h2
    · simp [kvGet, h.symm]
    · subst h2; simp [kvGet, h.symm]
    · simp [kvGet, ih]

theorem kvGet_kvErase_self {α : Type} (l : List (Nat × α)) (a : Nat) : kvGet (kvErase l a) a = none := by
  induction l with
  | nil => rfl
  | cons e r ih =>
    obtain ⟨k, w⟩ := e
    by_cases h : k = a
    · simpa [kvErase, h] using ih
    · simpa [kvErase, h, kvGet] using ih

theorem kvGet_kvErase_ne {α : Type} (l : List (Nat × α)) {a b : Nat} (h : b ≠ a) :
    kvGet (kvErase l a) b = kvGet l b := by
  induction l with
  | nil => rfl
  | cons e r ih =>
    obtain ⟨k, w⟩ := e
    by_cases hk : k = a
    · subst hk
      simpa [kvErase, kvGet, h.symm] using ih
    · by_cases hb : k = b
      · subst hb; simp [kvErase, hk, kvGet]
      · simpa [kvErase, hk, kvGet, hb] using ih

theorem mem_kvSet {α : Type} {l : List (Nat × α)} {a : Nat} {v : α} {e : Nat × α} (h : e ∈ kvSet l a v) :
    e = (a, v) ∨ e ∈ l := by
  induction l with
  | nil => simpa [kvSet] using h
  | cons x r ih =>
    obtain ⟨k, w⟩ := x
    simp only [kvSet] at h
    split_ifs at h with h1 h2
    · simpa using h
    · rcases List.mem_cons.1 h with h | h
      · exact .inl h
      · exact .inr (List.mem_cons_of_mem _ h)
    · rcases List.mem_cons.1 h with h | h
      · exact .inr (h ▸ List.mem_cons_self ..)
      · exact (ih h).imp id (List.mem_cons_of_mem _)

theorem kvSet_sorted {α : Type} {l : List (Nat × α)} (a : Nat) (v : α) (h : kvSorted l) : kvSorted (kvSet l a v) := by
  induction l with
  | nil => simp [kvSet, kvSorted]
  | cons x r ih =>
    obtain ⟨k, w⟩ := x
    have hr := List.pairwise_cons.1 h
    simp only [kvSet]
    split_ifs with h1 h2
    · refine List.pairwise_cons.2 ⟨fun e he => ?_, h⟩
      rcases List.mem_cons.1 he with rfl | he
      · exact h1
      · exact lt_trans h1 (hr.1 e he)
    · subst h2
      exact List.pairwise_cons.2 ⟨hr.1, hr.2⟩
    · refine List.pairwise_cons.2 ⟨fun e he => ?_, ih hr.2⟩
      rcases mem_kvSet he with rfl | he
      · show k < a
        omega
      · exact hr.1 e he

theorem kvErase_sorted {α : Type} {l : List (Nat × α)} (a : Nat) (h : kvSorted l) : kvSorted (kvErase l a) :=
  h.filter _

theorem mem_kvErase {α : Type} {l : List (Nat × α)} {a : Nat} {e : Nat × α} (h : e ∈ kvErase l a) : e ∈ l :=
  (List.mem_filter.1 h).1

/-! ## Byte memories -/

/-- What a byte reads as after one byte is written. -/
theorem Memory.get_put (m : Memory) (a c : Nat) (b : Byte) :
    Memory.get (Memory.put m a b) c = if c = a then b else Memory.get m c := by
  unfold Memory.get Memory.put kvGetD
  split_ifs with hb hc hc
  · subst hc; subst hb; simp [kvGet_kvErase_self]
  · rw [kvGet_kvErase_ne _ hc]
  · subst hc; simp [kvGet_kvSet_self]
  · rw [kvGet_kvSet_ne _ _ hc]

/-- One byte written keeps the canonical form. -/
theorem Memory.put_wf {m : Memory} (a : Nat) (b : Byte) (h : Memory.wf m) : Memory.wf (Memory.put m a b) := by
  unfold Memory.put
  split_ifs with hb
  · exact ⟨kvErase_sorted a h.1, fun c hc => h.2 c (mem_kvErase hc)⟩
  · refine ⟨kvSet_sorted a b h.1, fun c hc => ?_⟩
    rcases mem_kvSet hc with rfl | hc
    · exact hb
    · exact h.2 c hc

/-- A write keeps the canonical form. -/
theorem Memory.write_wf {m : Memory} (a : Nat) (bs : List Byte) (h : Memory.wf m) : Memory.wf (Memory.write m a bs) := by
  induction bs generalizing m a with
  | nil => exact h
  | cons b r ih => exact ih (a + 1) (Memory.put_wf a b h)

/-- What a byte reads as after a write: the written byte inside the range, the old one outside. -/
theorem Memory.get_write (m : Memory) (a c : Nat) (bs : List Byte) :
    Memory.get (Memory.write m a bs) c =
      if a ≤ c ∧ c < a + bs.length then bs.getD (c - a) 0 else Memory.get m c := by
  induction bs generalizing m a with
  | nil =>
    have : ¬(a ≤ c ∧ c < a + 0) := by omega
    simp only [Memory.write, List.length_nil, if_neg this]
  | cons b r ih =>
    rw [Memory.write, ih, Memory.get_put]
    simp only [List.length_cons]
    by_cases h1 : c = a
    · subst h1
      simp
    · by_cases h2 : a + 1 ≤ c ∧ c < a + 1 + r.length
      · rw [if_pos h2, if_pos (by omega)]
        obtain ⟨k, rfl⟩ := Nat.exists_eq_add_of_le h2.1
        have : a + 1 + k - a = k + 1 := by omega
        simp [this]
      · rw [if_neg h2, if_neg h1, if_neg (by omega)]

/-- Bytes outside a write keep their values. -/
theorem Memory.get_write_outside (m : Memory) {a c : Nat} {bs : List Byte} (h : c < a ∨ a + bs.length ≤ c) :
    Memory.get (Memory.write m a bs) c = Memory.get m c := by
  rw [Memory.get_write, if_neg (by omega)]

/-- A range reads as written. -/
theorem Memory.read_write (m : Memory) (a : Nat) (bs : List Byte) :
    Memory.read (Memory.write m a bs) a bs.length = bs := by
  refine List.ext_getElem (by simp [Memory.read]) fun i h1 h2 => ?_
  simp [Memory.read, Memory.get_write, h2]

/-! ## Fields -/

theorem length_leBytes (n v : Nat) : (leBytes n v).length = n := by
  induction n generalizing v with
  | zero => rfl
  | succ n ih => simp [leBytes, ih]

theorem leNat_leBytes (n v : Nat) : leNat (leBytes n v) = v % 256 ^ n := by
  induction n generalizing v with
  | zero => simp [leBytes, leNat, Nat.mod_one]
  | succ n ih =>
    rw [leBytes, leNat, ih, BitVec.toNat_ofNat, show (256 : Nat) ^ (n + 1) = 256 * 256 ^ n from Nat.pow_succ',
      Nat.mod_mul]

/-! ## The register file -/

/-- What a register holds after one is stored. -/
theorem RegFile.get_put (f : RegFile) (o p v : Nat) :
    RegFile.get (RegFile.put f o v) p = if p = o then v % 2 ^ 32 else RegFile.get f p := by
  unfold RegFile.get RegFile.put
  split_ifs with h1 h2 h2
  · subst h2; rw [kvGet_kvErase_self]; exact h1.symm
  · rw [kvGet_kvErase_ne _ h2]
  · subst h2; rw [kvGet_kvSet_self]; simp
  · rw [kvGet_kvSet_ne _ _ h2]

/-- A stored register keeps the canonical form of the file. -/
theorem RegFile.put_wf {f : RegFile} (o v : Nat) (h : RegFile.wf f) : RegFile.wf (RegFile.put f o v) := by
  unfold RegFile.put
  split_ifs with hv
  · exact ⟨kvErase_sorted o h.1, fun e he => h.2 e (mem_kvErase he)⟩
  · refine ⟨kvSet_sorted o _ h.1, fun e he => ?_⟩
    rcases mem_kvSet he with rfl | he
    · simpa using hv
    · exact h.2 e he

theorem RegFile.put64_wf {f : RegFile} (o v : Nat) (h : RegFile.wf f) : RegFile.wf (RegFile.put64 f o v) :=
  RegFile.put_wf _ _ (RegFile.put_wf _ _ h)

/-- A 64-bit register reads as stored. -/
theorem RegFile.get64_put64 (f : RegFile) (o v : Nat) (h : v < 2 ^ 64) :
    RegFile.get64 (RegFile.put64 f o v) o = v := by
  unfold RegFile.get64 RegFile.put64
  simp only [RegFile.get_put]
  simp only [if_pos, if_neg (show ¬o = o + 4 by omega)]
  omega

/-- A register outside the two words keeps its value. -/
theorem RegFile.get_put64 (f : RegFile) {o p : Nat} (v : Nat) (h : p ≠ o) (h4 : p ≠ o + 4) :
    RegFile.get (RegFile.put64 f o v) p = RegFile.get f p := by
  unfold RegFile.put64
  rw [RegFile.get_put, if_neg h4, RegFile.get_put, if_neg h]

end Sys2Proof.Machine
end

