-- ==== Sys2Proof/Laws/State.lean ====
section
/-! SUPPORT. What each plain update of the state leaves alone, one lemma per field, and what reads after it give. -/

namespace Sys2Proof.Machine

/-! ## State.setReg changes `regs` only -/

@[simp] theorem State.setReg_pending (s : State) (o v : Nat) : (s.setReg o v).pending = s.pending := rfl
@[simp] theorem State.setReg_pins (s : State) (o v : Nat) : (s.setReg o v).pins = s.pins := rfl
@[simp] theorem State.setReg_latches (s : State) (o v : Nat) : (s.setReg o v).latches = s.latches := rfl
@[simp] theorem State.setReg_hostMem (s : State) (o v : Nat) : (s.setReg o v).hostMem = s.hostMem := rfl
@[simp] theorem State.setReg_mem (s : State) (o v : Nat) : (s.setReg o v).mem = s.mem := rfl
@[simp] theorem State.setReg_tiles (s : State) (o v : Nat) : (s.setReg o v).tiles = s.tiles := rfl
@[simp] theorem State.setReg_cores (s : State) (o v : Nat) : (s.setReg o v).cores = s.cores := rfl
@[simp] theorem State.setReg_rig (s : State) (o v : Nat) : (s.setReg o v).rig = s.rig := rfl
@[simp] theorem State.setReg_flash (s : State) (o v : Nat) : (s.setReg o v).flash = s.flash := rfl
@[simp] theorem State.setReg_sec (s : State) (o v : Nat) : (s.setReg o v).sec = s.sec := rfl
@[simp] theorem State.setReg_job (s : State) (o v : Nat) : (s.setReg o v).job = s.job := rfl
@[simp] theorem State.setReg_stroke (s : State) (o v : Nat) : (s.setReg o v).stroke = s.stroke := rfl
@[simp] theorem State.setReg_sync (s : State) (o v : Nat) : (s.setReg o v).sync = s.sync := rfl
@[simp] theorem State.setReg_fab (s : State) (o v : Nat) : (s.setReg o v).fab = s.fab := rfl
@[simp] theorem State.setReg_collEng (s : State) (o v : Nat) : (s.setReg o v).collEng = s.collEng := rfl
@[simp] theorem State.setReg_zn (s : State) (o v : Nat) : (s.setReg o v).zn = s.zn := rfl
@[simp] theorem State.setReg_hif (s : State) (o v : Nat) : (s.setReg o v).hif = s.hif := rfl
@[simp] theorem State.setReg_pwr (s : State) (o v : Nat) : (s.setReg o v).pwr = s.pwr := rfl
@[simp] theorem State.setReg_tim (s : State) (o v : Nat) : (s.setReg o v).tim = s.tim := rfl
@[simp] theorem State.setReg_ckpt (s : State) (o v : Nat) : (s.setReg o v).ckpt = s.ckpt := rfl
@[simp] theorem State.setReg_bridges (s : State) (o v : Nat) : (s.setReg o v).bridges = s.bridges := rfl
@[simp] theorem State.setReg_mgmt (s : State) (o v : Nat) : (s.setReg o v).mgmt = s.mgmt := rfl
@[simp] theorem State.setReg_sent (s : State) (o v : Nat) : (s.setReg o v).sent = s.sent := rfl
@[simp] theorem State.setReg_free (s : State) (o v : Nat) : (s.setReg o v).free = s.free := rfl

/-! ## State.setReg64 changes `regs` only -/

@[simp] theorem State.setReg64_pending (s : State) (o v : Nat) : (s.setReg64 o v).pending = s.pending := rfl
@[simp] theorem State.setReg64_pins (s : State) (o v : Nat) : (s.setReg64 o v).pins = s.pins := rfl
@[simp] theorem State.setReg64_latches (s : State) (o v : Nat) : (s.setReg64 o v).latches = s.latches := rfl
@[simp] theorem State.setReg64_hostMem (s : State) (o v : Nat) : (s.setReg64 o v).hostMem = s.hostMem := rfl
@[simp] theorem State.setReg64_mem (s : State) (o v : Nat) : (s.setReg64 o v).mem = s.mem := rfl
@[simp] theorem State.setReg64_tiles (s : State) (o v : Nat) : (s.setReg64 o v).tiles = s.tiles := rfl
@[simp] theorem State.setReg64_cores (s : State) (o v : Nat) : (s.setReg64 o v).cores = s.cores := rfl
@[simp] theorem State.setReg64_rig (s : State) (o v : Nat) : (s.setReg64 o v).rig = s.rig := rfl
@[simp] theorem State.setReg64_flash (s : State) (o v : Nat) : (s.setReg64 o v).flash = s.flash := rfl
@[simp] theorem State.setReg64_sec (s : State) (o v : Nat) : (s.setReg64 o v).sec = s.sec := rfl
@[simp] theorem State.setReg64_job (s : State) (o v : Nat) : (s.setReg64 o v).job = s.job := rfl
@[simp] theorem State.setReg64_stroke (s : State) (o v : Nat) : (s.setReg64 o v).stroke = s.stroke := rfl
@[simp] theorem State.setReg64_sync (s : State) (o v : Nat) : (s.setReg64 o v).sync = s.sync := rfl
@[simp] theorem State.setReg64_fab (s : State) (o v : Nat) : (s.setReg64 o v).fab = s.fab := rfl
@[simp] theorem State.setReg64_collEng (s : State) (o v : Nat) : (s.setReg64 o v).collEng = s.collEng := rfl
@[simp] theorem State.setReg64_zn (s : State) (o v : Nat) : (s.setReg64 o v).zn = s.zn := rfl
@[simp] theorem State.setReg64_hif (s : State) (o v : Nat) : (s.setReg64 o v).hif = s.hif := rfl
@[simp] theorem State.setReg64_pwr (s : State) (o v : Nat) : (s.setReg64 o v).pwr = s.pwr := rfl
@[simp] theorem State.setReg64_tim (s : State) (o v : Nat) : (s.setReg64 o v).tim = s.tim := rfl
@[simp] theorem State.setReg64_ckpt (s : State) (o v : Nat) : (s.setReg64 o v).ckpt = s.ckpt := rfl
@[simp] theorem State.setReg64_bridges (s : State) (o v : Nat) : (s.setReg64 o v).bridges = s.bridges := rfl
@[simp] theorem State.setReg64_mgmt (s : State) (o v : Nat) : (s.setReg64 o v).mgmt = s.mgmt := rfl
@[simp] theorem State.setReg64_sent (s : State) (o v : Nat) : (s.setReg64 o v).sent = s.sent := rfl
@[simp] theorem State.setReg64_free (s : State) (o v : Nat) : (s.setReg64 o v).free = s.free := rfl

/-! ## State.setRegBits changes `regs` only -/

@[simp] theorem State.setRegBits_pending (s : State) (o hi lo v : Nat) : (s.setRegBits o hi lo v).pending = s.pending := rfl
@[simp] theorem State.setRegBits_pins (s : State) (o hi lo v : Nat) : (s.setRegBits o hi lo v).pins = s.pins := rfl
@[simp] theorem State.setRegBits_latches (s : State) (o hi lo v : Nat) : (s.setRegBits o hi lo v).latches = s.latches := rfl
@[simp] theorem State.setRegBits_hostMem (s : State) (o hi lo v : Nat) : (s.setRegBits o hi lo v).hostMem = s.hostMem := rfl
@[simp] theorem State.setRegBits_mem (s : State) (o hi lo v : Nat) : (s.setRegBits o hi lo v).mem = s.mem := rfl
@[simp] theorem State.setRegBits_tiles (s : State) (o hi lo v : Nat) : (s.setRegBits o hi lo v).tiles = s.tiles := rfl
@[simp] theorem State.setRegBits_cores (s : State) (o hi lo v : Nat) : (s.setRegBits o hi lo v).cores = s.cores := rfl
@[simp] theorem State.setRegBits_rig (s : State) (o hi lo v : Nat) : (s.setRegBits o hi lo v).rig = s.rig := rfl
@[simp] theorem State.setRegBits_flash (s : State) (o hi lo v : Nat) : (s.setRegBits o hi lo v).flash = s.flash := rfl
@[simp] theorem State.setRegBits_sec (s : State) (o hi lo v : Nat) : (s.setRegBits o hi lo v).sec = s.sec := rfl
@[simp] theorem State.setRegBits_job (s : State) (o hi lo v : Nat) : (s.setRegBits o hi lo v).job = s.job := rfl
@[simp] theorem State.setRegBits_stroke (s : State) (o hi lo v : Nat) : (s.setRegBits o hi lo v).stroke = s.stroke := rfl
@[simp] theorem State.setRegBits_sync (s : State) (o hi lo v : Nat) : (s.setRegBits o hi lo v).sync = s.sync := rfl
@[simp] theorem State.setRegBits_fab (s : State) (o hi lo v : Nat) : (s.setRegBits o hi lo v).fab = s.fab := rfl
@[simp] theorem State.setRegBits_collEng (s : State) (o hi lo v : Nat) : (s.setRegBits o hi lo v).collEng = s.collEng := rfl
@[simp] theorem State.setRegBits_zn (s : State) (o hi lo v : Nat) : (s.setRegBits o hi lo v).zn = s.zn := rfl
@[simp] theorem State.setRegBits_hif (s : State) (o hi lo v : Nat) : (s.setRegBits o hi lo v).hif = s.hif := rfl
@[simp] theorem State.setRegBits_pwr (s : State) (o hi lo v : Nat) : (s.setRegBits o hi lo v).pwr = s.pwr := rfl
@[simp] theorem State.setRegBits_tim (s : State) (o hi lo v : Nat) : (s.setRegBits o hi lo v).tim = s.tim := rfl
@[simp] theorem State.setRegBits_ckpt (s : State) (o hi lo v : Nat) : (s.setRegBits o hi lo v).ckpt = s.ckpt := rfl
@[simp] theorem State.setRegBits_bridges (s : State) (o hi lo v : Nat) : (s.setRegBits o hi lo v).bridges = s.bridges := rfl
@[simp] theorem State.setRegBits_mgmt (s : State) (o hi lo v : Nat) : (s.setRegBits o hi lo v).mgmt = s.mgmt := rfl
@[simp] theorem State.setRegBits_sent (s : State) (o hi lo v : Nat) : (s.setRegBits o hi lo v).sent = s.sent := rfl
@[simp] theorem State.setRegBits_free (s : State) (o hi lo v : Nat) : (s.setRegBits o hi lo v).free = s.free := rfl

/-! ## State.setRegBit changes `regs` only -/

@[simp] theorem State.setRegBit_pending (s : State) (o i : Nat) (b : Bool) : (s.setRegBit o i b).pending = s.pending := rfl
@[simp] theorem State.setRegBit_pins (s : State) (o i : Nat) (b : Bool) : (s.setRegBit o i b).pins = s.pins := rfl
@[simp] theorem State.setRegBit_latches (s : State) (o i : Nat) (b : Bool) : (s.setRegBit o i b).latches = s.latches := rfl
@[simp] theorem State.setRegBit_hostMem (s : State) (o i : Nat) (b : Bool) : (s.setRegBit o i b).hostMem = s.hostMem := rfl
@[simp] theorem State.setRegBit_mem (s : State) (o i : Nat) (b : Bool) : (s.setRegBit o i b).mem = s.mem := rfl
@[simp] theorem State.setRegBit_tiles (s : State) (o i : Nat) (b : Bool) : (s.setRegBit o i b).tiles = s.tiles := rfl
@[simp] theorem State.setRegBit_cores (s : State) (o i : Nat) (b : Bool) : (s.setRegBit o i b).cores = s.cores := rfl
@[simp] theorem State.setRegBit_rig (s : State) (o i : Nat) (b : Bool) : (s.setRegBit o i b).rig = s.rig := rfl
@[simp] theorem State.setRegBit_flash (s : State) (o i : Nat) (b : Bool) : (s.setRegBit o i b).flash = s.flash := rfl
@[simp] theorem State.setRegBit_sec (s : State) (o i : Nat) (b : Bool) : (s.setRegBit o i b).sec = s.sec := rfl
@[simp] theorem State.setRegBit_job (s : State) (o i : Nat) (b : Bool) : (s.setRegBit o i b).job = s.job := rfl
@[simp] theorem State.setRegBit_stroke (s : State) (o i : Nat) (b : Bool) : (s.setRegBit o i b).stroke = s.stroke := rfl
@[simp] theorem State.setRegBit_sync (s : State) (o i : Nat) (b : Bool) : (s.setRegBit o i b).sync = s.sync := rfl
@[simp] theorem State.setRegBit_fab (s : State) (o i : Nat) (b : Bool) : (s.setRegBit o i b).fab = s.fab := rfl
@[simp] theorem State.setRegBit_collEng (s : State) (o i : Nat) (b : Bool) : (s.setRegBit o i b).collEng = s.collEng := rfl
@[simp] theorem State.setRegBit_zn (s : State) (o i : Nat) (b : Bool) : (s.setRegBit o i b).zn = s.zn := rfl
@[simp] theorem State.setRegBit_hif (s : State) (o i : Nat) (b : Bool) : (s.setRegBit o i b).hif = s.hif := rfl
@[simp] theorem State.setRegBit_pwr (s : State) (o i : Nat) (b : Bool) : (s.setRegBit o i b).pwr = s.pwr := rfl
@[simp] theorem State.setRegBit_tim (s : State) (o i : Nat) (b : Bool) : (s.setRegBit o i b).tim = s.tim := rfl
@[simp] theorem State.setRegBit_ckpt (s : State) (o i : Nat) (b : Bool) : (s.setRegBit o i b).ckpt = s.ckpt := rfl
@[simp] theorem State.setRegBit_bridges (s : State) (o i : Nat) (b : Bool) : (s.setRegBit o i b).bridges = s.bridges := rfl
@[simp] theorem State.setRegBit_mgmt (s : State) (o i : Nat) (b : Bool) : (s.setRegBit o i b).mgmt = s.mgmt := rfl
@[simp] theorem State.setRegBit_sent (s : State) (o i : Nat) (b : Bool) : (s.setRegBit o i b).sent = s.sent := rfl
@[simp] theorem State.setRegBit_free (s : State) (o i : Nat) (b : Bool) : (s.setRegBit o i b).free = s.free := rfl

/-! ## State.emit changes `sent` only -/

@[simp] theorem State.emit_pending (s : State) (o : Out) : (s.emit o).pending = s.pending := rfl
@[simp] theorem State.emit_pins (s : State) (o : Out) : (s.emit o).pins = s.pins := rfl
@[simp] theorem State.emit_regs (s : State) (o : Out) : (s.emit o).regs = s.regs := rfl
@[simp] theorem State.emit_latches (s : State) (o : Out) : (s.emit o).latches = s.latches := rfl
@[simp] theorem State.emit_hostMem (s : State) (o : Out) : (s.emit o).hostMem = s.hostMem := rfl
@[simp] theorem State.emit_mem (s : State) (o : Out) : (s.emit o).mem = s.mem := rfl
@[simp] theorem State.emit_tiles (s : State) (o : Out) : (s.emit o).tiles = s.tiles := rfl
@[simp] theorem State.emit_cores (s : State) (o : Out) : (s.emit o).cores = s.cores := rfl
@[simp] theorem State.emit_rig (s : State) (o : Out) : (s.emit o).rig = s.rig := rfl
@[simp] theorem State.emit_flash (s : State) (o : Out) : (s.emit o).flash = s.flash := rfl
@[simp] theorem State.emit_sec (s : State) (o : Out) : (s.emit o).sec = s.sec := rfl
@[simp] theorem State.emit_job (s : State) (o : Out) : (s.emit o).job = s.job := rfl
@[simp] theorem State.emit_stroke (s : State) (o : Out) : (s.emit o).stroke = s.stroke := rfl
@[simp] theorem State.emit_sync (s : State) (o : Out) : (s.emit o).sync = s.sync := rfl
@[simp] theorem State.emit_fab (s : State) (o : Out) : (s.emit o).fab = s.fab := rfl
@[simp] theorem State.emit_collEng (s : State) (o : Out) : (s.emit o).collEng = s.collEng := rfl
@[simp] theorem State.emit_zn (s : State) (o : Out) : (s.emit o).zn = s.zn := rfl
@[simp] theorem State.emit_hif (s : State) (o : Out) : (s.emit o).hif = s.hif := rfl
@[simp] theorem State.emit_pwr (s : State) (o : Out) : (s.emit o).pwr = s.pwr := rfl
@[simp] theorem State.emit_tim (s : State) (o : Out) : (s.emit o).tim = s.tim := rfl
@[simp] theorem State.emit_ckpt (s : State) (o : Out) : (s.emit o).ckpt = s.ckpt := rfl
@[simp] theorem State.emit_bridges (s : State) (o : Out) : (s.emit o).bridges = s.bridges := rfl
@[simp] theorem State.emit_mgmt (s : State) (o : Out) : (s.emit o).mgmt = s.mgmt := rfl
@[simp] theorem State.emit_free (s : State) (o : Out) : (s.emit o).free = s.free := rfl

/-! ## State.toBallast changes `pwr` only -/

@[simp] theorem State.toBallast_pending (s : State) : s.toBallast.pending = s.pending := rfl
@[simp] theorem State.toBallast_pins (s : State) : s.toBallast.pins = s.pins := rfl
@[simp] theorem State.toBallast_regs (s : State) : s.toBallast.regs = s.regs := rfl
@[simp] theorem State.toBallast_latches (s : State) : s.toBallast.latches = s.latches := rfl
@[simp] theorem State.toBallast_hostMem (s : State) : s.toBallast.hostMem = s.hostMem := rfl
@[simp] theorem State.toBallast_mem (s : State) : s.toBallast.mem = s.mem := rfl
@[simp] theorem State.toBallast_tiles (s : State) : s.toBallast.tiles = s.tiles := rfl
@[simp] theorem State.toBallast_cores (s : State) : s.toBallast.cores = s.cores := rfl
@[simp] theorem State.toBallast_rig (s : State) : s.toBallast.rig = s.rig := rfl
@[simp] theorem State.toBallast_flash (s : State) : s.toBallast.flash = s.flash := rfl
@[simp] theorem State.toBallast_sec (s : State) : s.toBallast.sec = s.sec := rfl
@[simp] theorem State.toBallast_job (s : State) : s.toBallast.job = s.job := rfl
@[simp] theorem State.toBallast_stroke (s : State) : s.toBallast.stroke = s.stroke := rfl
@[simp] theorem State.toBallast_sync (s : State) : s.toBallast.sync = s.sync := rfl
@[simp] theorem State.toBallast_fab (s : State) : s.toBallast.fab = s.fab := rfl
@[simp] theorem State.toBallast_collEng (s : State) : s.toBallast.collEng = s.collEng := rfl
@[simp] theorem State.toBallast_zn (s : State) : s.toBallast.zn = s.zn := rfl
@[simp] theorem State.toBallast_hif (s : State) : s.toBallast.hif = s.hif := rfl
@[simp] theorem State.toBallast_tim (s : State) : s.toBallast.tim = s.tim := rfl
@[simp] theorem State.toBallast_ckpt (s : State) : s.toBallast.ckpt = s.ckpt := rfl
@[simp] theorem State.toBallast_bridges (s : State) : s.toBallast.bridges = s.bridges := rfl
@[simp] theorem State.toBallast_mgmt (s : State) : s.toBallast.mgmt = s.mgmt := rfl
@[simp] theorem State.toBallast_free (s : State) : s.toBallast.free = s.free := rfl
@[simp] theorem State.toBallast_sent (s : State) : s.toBallast.sent = s.sent := rfl
@[simp] theorem State.toBallast_pwr (s : State) :
    s.toBallast.pwr = { s.pwr with ballast := s.pwr.ballast + s.pwr.awake, awake := 0 } := rfl

/-! ## State.setTile changes `tiles` only -/

@[simp] theorem State.setTile_pending (s : State) (t : TileId) (x : Tile) : (s.setTile t x).pending = s.pending := rfl
@[simp] theorem State.setTile_pins (s : State) (t : TileId) (x : Tile) : (s.setTile t x).pins = s.pins := rfl
@[simp] theorem State.setTile_regs (s : State) (t : TileId) (x : Tile) : (s.setTile t x).regs = s.regs := rfl
@[simp] theorem State.setTile_latches (s : State) (t : TileId) (x : Tile) : (s.setTile t x).latches = s.latches := rfl
@[simp] theorem State.setTile_hostMem (s : State) (t : TileId) (x : Tile) : (s.setTile t x).hostMem = s.hostMem := rfl
@[simp] theorem State.setTile_mem (s : State) (t : TileId) (x : Tile) : (s.setTile t x).mem = s.mem := rfl
@[simp] theorem State.setTile_cores (s : State) (t : TileId) (x : Tile) : (s.setTile t x).cores = s.cores := rfl
@[simp] theorem State.setTile_rig (s : State) (t : TileId) (x : Tile) : (s.setTile t x).rig = s.rig := rfl
@[simp] theorem State.setTile_flash (s : State) (t : TileId) (x : Tile) : (s.setTile t x).flash = s.flash := rfl
@[simp] theorem State.setTile_sec (s : State) (t : TileId) (x : Tile) : (s.setTile t x).sec = s.sec := rfl
@[simp] theorem State.setTile_job (s : State) (t : TileId) (x : Tile) : (s.setTile t x).job = s.job := rfl
@[simp] theorem State.setTile_stroke (s : State) (t : TileId) (x : Tile) : (s.setTile t x).stroke = s.stroke := rfl
@[simp] theorem State.setTile_sync (s : State) (t : TileId) (x : Tile) : (s.setTile t x).sync = s.sync := rfl
@[simp] theorem State.setTile_fab (s : State) (t : TileId) (x : Tile) : (s.setTile t x).fab = s.fab := rfl
@[simp] theorem State.setTile_collEng (s : State) (t : TileId) (x : Tile) : (s.setTile t x).collEng = s.collEng := rfl
@[simp] theorem State.setTile_zn (s : State) (t : TileId) (x : Tile) : (s.setTile t x).zn = s.zn := rfl
@[simp] theorem State.setTile_hif (s : State) (t : TileId) (x : Tile) : (s.setTile t x).hif = s.hif := rfl
@[simp] theorem State.setTile_pwr (s : State) (t : TileId) (x : Tile) : (s.setTile t x).pwr = s.pwr := rfl
@[simp] theorem State.setTile_tim (s : State) (t : TileId) (x : Tile) : (s.setTile t x).tim = s.tim := rfl
@[simp] theorem State.setTile_ckpt (s : State) (t : TileId) (x : Tile) : (s.setTile t x).ckpt = s.ckpt := rfl
@[simp] theorem State.setTile_bridges (s : State) (t : TileId) (x : Tile) : (s.setTile t x).bridges = s.bridges := rfl
@[simp] theorem State.setTile_mgmt (s : State) (t : TileId) (x : Tile) : (s.setTile t x).mgmt = s.mgmt := rfl
@[simp] theorem State.setTile_sent (s : State) (t : TileId) (x : Tile) : (s.setTile t x).sent = s.sent := rfl
@[simp] theorem State.setTile_free (s : State) (t : TileId) (x : Tile) : (s.setTile t x).free = s.free := rfl

/-! ## State.modTile changes `tiles` only -/

@[simp] theorem State.modTile_pending (s : State) (t : TileId) (f : Tile → Tile) : (s.modTile t f).pending = s.pending := rfl
@[simp] theorem State.modTile_pins (s : State) (t : TileId) (f : Tile → Tile) : (s.modTile t f).pins = s.pins := rfl
@[simp] theorem State.modTile_regs (s : State) (t : TileId) (f : Tile → Tile) : (s.modTile t f).regs = s.regs := rfl
@[simp] theorem State.modTile_latches (s : State) (t : TileId) (f : Tile → Tile) : (s.modTile t f).latches = s.latches := rfl
@[simp] theorem State.modTile_hostMem (s : State) (t : TileId) (f : Tile → Tile) : (s.modTile t f).hostMem = s.hostMem := rfl
@[simp] theorem State.modTile_mem (s : State) (t : TileId) (f : Tile → Tile) : (s.modTile t f).mem = s.mem := rfl
@[simp] theorem State.modTile_cores (s : State) (t : TileId) (f : Tile → Tile) : (s.modTile t f).cores = s.cores := rfl
@[simp] theorem State.modTile_rig (s : State) (t : TileId) (f : Tile → Tile) : (s.modTile t f).rig = s.rig := rfl
@[simp] theorem State.modTile_flash (s : State) (t : TileId) (f : Tile → Tile) : (s.modTile t f).flash = s.flash := rfl
@[simp] theorem State.modTile_sec (s : State) (t : TileId) (f : Tile → Tile) : (s.modTile t f).sec = s.sec := rfl
@[simp] theorem State.modTile_job (s : State) (t : TileId) (f : Tile → Tile) : (s.modTile t f).job = s.job := rfl
@[simp] theorem State.modTile_stroke (s : State) (t : TileId) (f : Tile → Tile) : (s.modTile t f).stroke = s.stroke := rfl
@[simp] theorem State.modTile_sync (s : State) (t : TileId) (f : Tile → Tile) : (s.modTile t f).sync = s.sync := rfl
@[simp] theorem State.modTile_fab (s : State) (t : TileId) (f : Tile → Tile) : (s.modTile t f).fab = s.fab := rfl
@[simp] theorem State.modTile_collEng (s : State) (t : TileId) (f : Tile → Tile) : (s.modTile t f).collEng = s.collEng := rfl
@[simp] theorem State.modTile_zn (s : State) (t : TileId) (f : Tile → Tile) : (s.modTile t f).zn = s.zn := rfl
@[simp] theorem State.modTile_hif (s : State) (t : TileId) (f : Tile → Tile) : (s.modTile t f).hif = s.hif := rfl
@[simp] theorem State.modTile_pwr (s : State) (t : TileId) (f : Tile → Tile) : (s.modTile t f).pwr = s.pwr := rfl
@[simp] theorem State.modTile_tim (s : State) (t : TileId) (f : Tile → Tile) : (s.modTile t f).tim = s.tim := rfl
@[simp] theorem State.modTile_ckpt (s : State) (t : TileId) (f : Tile → Tile) : (s.modTile t f).ckpt = s.ckpt := rfl
@[simp] theorem State.modTile_bridges (s : State) (t : TileId) (f : Tile → Tile) : (s.modTile t f).bridges = s.bridges := rfl
@[simp] theorem State.modTile_mgmt (s : State) (t : TileId) (f : Tile → Tile) : (s.modTile t f).mgmt = s.mgmt := rfl
@[simp] theorem State.modTile_sent (s : State) (t : TileId) (f : Tile → Tile) : (s.modTile t f).sent = s.sent := rfl
@[simp] theorem State.modTile_free (s : State) (t : TileId) (f : Tile → Tile) : (s.modTile t f).free = s.free := rfl

/-! ## State.setCore changes `cores` only -/

@[simp] theorem State.setCore_pending (s : State) (c : Nat) (x : Core) : (s.setCore c x).pending = s.pending := rfl
@[simp] theorem State.setCore_pins (s : State) (c : Nat) (x : Core) : (s.setCore c x).pins = s.pins := rfl
@[simp] theorem State.setCore_regs (s : State) (c : Nat) (x : Core) : (s.setCore c x).regs = s.regs := rfl
@[simp] theorem State.setCore_latches (s : State) (c : Nat) (x : Core) : (s.setCore c x).latches = s.latches := rfl
@[simp] theorem State.setCore_hostMem (s : State) (c : Nat) (x : Core) : (s.setCore c x).hostMem = s.hostMem := rfl
@[simp] theorem State.setCore_mem (s : State) (c : Nat) (x : Core) : (s.setCore c x).mem = s.mem := rfl
@[simp] theorem State.setCore_tiles (s : State) (c : Nat) (x : Core) : (s.setCore c x).tiles = s.tiles := rfl
@[simp] theorem State.setCore_rig (s : State) (c : Nat) (x : Core) : (s.setCore c x).rig = s.rig := rfl
@[simp] theorem State.setCore_flash (s : State) (c : Nat) (x : Core) : (s.setCore c x).flash = s.flash := rfl
@[simp] theorem State.setCore_sec (s : State) (c : Nat) (x : Core) : (s.setCore c x).sec = s.sec := rfl
@[simp] theorem State.setCore_job (s : State) (c : Nat) (x : Core) : (s.setCore c x).job = s.job := rfl
@[simp] theorem State.setCore_stroke (s : State) (c : Nat) (x : Core) : (s.setCore c x).stroke = s.stroke := rfl
@[simp] theorem State.setCore_sync (s : State) (c : Nat) (x : Core) : (s.setCore c x).sync = s.sync := rfl
@[simp] theorem State.setCore_fab (s : State) (c : Nat) (x : Core) : (s.setCore c x).fab = s.fab := rfl
@[simp] theorem State.setCore_collEng (s : State) (c : Nat) (x : Core) : (s.setCore c x).collEng = s.collEng := rfl
@[simp] theorem State.setCore_zn (s : State) (c : Nat) (x : Core) : (s.setCore c x).zn = s.zn := rfl
@[simp] theorem State.setCore_hif (s : State) (c : Nat) (x : Core) : (s.setCore c x).hif = s.hif := rfl
@[simp] theorem State.setCore_pwr (s : State) (c : Nat) (x : Core) : (s.setCore c x).pwr = s.pwr := rfl
@[simp] theorem State.setCore_tim (s : State) (c : Nat) (x : Core) : (s.setCore c x).tim = s.tim := rfl
@[simp] theorem State.setCore_ckpt (s : State) (c : Nat) (x : Core) : (s.setCore c x).ckpt = s.ckpt := rfl
@[simp] theorem State.setCore_bridges (s : State) (c : Nat) (x : Core) : (s.setCore c x).bridges = s.bridges := rfl
@[simp] theorem State.setCore_mgmt (s : State) (c : Nat) (x : Core) : (s.setCore c x).mgmt = s.mgmt := rfl
@[simp] theorem State.setCore_sent (s : State) (c : Nat) (x : Core) : (s.setCore c x).sent = s.sent := rfl
@[simp] theorem State.setCore_free (s : State) (c : Nat) (x : Core) : (s.setCore c x).free = s.free := rfl

/-! ## State.modCore changes `cores` only -/

@[simp] theorem State.modCore_pending (s : State) (c : Nat) (f : Core → Core) : (s.modCore c f).pending = s.pending := rfl
@[simp] theorem State.modCore_pins (s : State) (c : Nat) (f : Core → Core) : (s.modCore c f).pins = s.pins := rfl
@[simp] theorem State.modCore_regs (s : State) (c : Nat) (f : Core → Core) : (s.modCore c f).regs = s.regs := rfl
@[simp] theorem State.modCore_latches (s : State) (c : Nat) (f : Core → Core) : (s.modCore c f).latches = s.latches := rfl
@[simp] theorem State.modCore_hostMem (s : State) (c : Nat) (f : Core → Core) : (s.modCore c f).hostMem = s.hostMem := rfl
@[simp] theorem State.modCore_mem (s : State) (c : Nat) (f : Core → Core) : (s.modCore c f).mem = s.mem := rfl
@[simp] theorem State.modCore_tiles (s : State) (c : Nat) (f : Core → Core) : (s.modCore c f).tiles = s.tiles := rfl
@[simp] theorem State.modCore_rig (s : State) (c : Nat) (f : Core → Core) : (s.modCore c f).rig = s.rig := rfl
@[simp] theorem State.modCore_flash (s : State) (c : Nat) (f : Core → Core) : (s.modCore c f).flash = s.flash := rfl
@[simp] theorem State.modCore_sec (s : State) (c : Nat) (f : Core → Core) : (s.modCore c f).sec = s.sec := rfl
@[simp] theorem State.modCore_job (s : State) (c : Nat) (f : Core → Core) : (s.modCore c f).job = s.job := rfl
@[simp] theorem State.modCore_stroke (s : State) (c : Nat) (f : Core → Core) : (s.modCore c f).stroke = s.stroke := rfl
@[simp] theorem State.modCore_sync (s : State) (c : Nat) (f : Core → Core) : (s.modCore c f).sync = s.sync := rfl
@[simp] theorem State.modCore_fab (s : State) (c : Nat) (f : Core → Core) : (s.modCore c f).fab = s.fab := rfl
@[simp] theorem State.modCore_collEng (s : State) (c : Nat) (f : Core → Core) : (s.modCore c f).collEng = s.collEng := rfl
@[simp] theorem State.modCore_zn (s : State) (c : Nat) (f : Core → Core) : (s.modCore c f).zn = s.zn := rfl
@[simp] theorem State.modCore_hif (s : State) (c : Nat) (f : Core → Core) : (s.modCore c f).hif = s.hif := rfl
@[simp] theorem State.modCore_pwr (s : State) (c : Nat) (f : Core → Core) : (s.modCore c f).pwr = s.pwr := rfl
@[simp] theorem State.modCore_tim (s : State) (c : Nat) (f : Core → Core) : (s.modCore c f).tim = s.tim := rfl
@[simp] theorem State.modCore_ckpt (s : State) (c : Nat) (f : Core → Core) : (s.modCore c f).ckpt = s.ckpt := rfl
@[simp] theorem State.modCore_bridges (s : State) (c : Nat) (f : Core → Core) : (s.modCore c f).bridges = s.bridges := rfl
@[simp] theorem State.modCore_mgmt (s : State) (c : Nat) (f : Core → Core) : (s.modCore c f).mgmt = s.mgmt := rfl
@[simp] theorem State.modCore_sent (s : State) (c : Nat) (f : Core → Core) : (s.modCore c f).sent = s.sent := rfl
@[simp] theorem State.modCore_free (s : State) (c : Nat) (f : Core → Core) : (s.modCore c f).free = s.free := rfl

/-! ## State.modStk changes `mem` only -/

@[simp] theorem State.modStk_pending (s : State) (n : Nat) (f : Stack → Stack) : (s.modStk n f).pending = s.pending := rfl
@[simp] theorem State.modStk_pins (s : State) (n : Nat) (f : Stack → Stack) : (s.modStk n f).pins = s.pins := rfl
@[simp] theorem State.modStk_regs (s : State) (n : Nat) (f : Stack → Stack) : (s.modStk n f).regs = s.regs := rfl
@[simp] theorem State.modStk_latches (s : State) (n : Nat) (f : Stack → Stack) : (s.modStk n f).latches = s.latches := rfl
@[simp] theorem State.modStk_hostMem (s : State) (n : Nat) (f : Stack → Stack) : (s.modStk n f).hostMem = s.hostMem := rfl
@[simp] theorem State.modStk_tiles (s : State) (n : Nat) (f : Stack → Stack) : (s.modStk n f).tiles = s.tiles := rfl
@[simp] theorem State.modStk_cores (s : State) (n : Nat) (f : Stack → Stack) : (s.modStk n f).cores = s.cores := rfl
@[simp] theorem State.modStk_rig (s : State) (n : Nat) (f : Stack → Stack) : (s.modStk n f).rig = s.rig := rfl
@[simp] theorem State.modStk_flash (s : State) (n : Nat) (f : Stack → Stack) : (s.modStk n f).flash = s.flash := rfl
@[simp] theorem State.modStk_sec (s : State) (n : Nat) (f : Stack → Stack) : (s.modStk n f).sec = s.sec := rfl
@[simp] theorem State.modStk_job (s : State) (n : Nat) (f : Stack → Stack) : (s.modStk n f).job = s.job := rfl
@[simp] theorem State.modStk_stroke (s : State) (n : Nat) (f : Stack → Stack) : (s.modStk n f).stroke = s.stroke := rfl
@[simp] theorem State.modStk_sync (s : State) (n : Nat) (f : Stack → Stack) : (s.modStk n f).sync = s.sync := rfl
@[simp] theorem State.modStk_fab (s : State) (n : Nat) (f : Stack → Stack) : (s.modStk n f).fab = s.fab := rfl
@[simp] theorem State.modStk_collEng (s : State) (n : Nat) (f : Stack → Stack) : (s.modStk n f).collEng = s.collEng := rfl
@[simp] theorem State.modStk_zn (s : State) (n : Nat) (f : Stack → Stack) : (s.modStk n f).zn = s.zn := rfl
@[simp] theorem State.modStk_hif (s : State) (n : Nat) (f : Stack → Stack) : (s.modStk n f).hif = s.hif := rfl
@[simp] theorem State.modStk_pwr (s : State) (n : Nat) (f : Stack → Stack) : (s.modStk n f).pwr = s.pwr := rfl
@[simp] theorem State.modStk_tim (s : State) (n : Nat) (f : Stack → Stack) : (s.modStk n f).tim = s.tim := rfl
@[simp] theorem State.modStk_ckpt (s : State) (n : Nat) (f : Stack → Stack) : (s.modStk n f).ckpt = s.ckpt := rfl
@[simp] theorem State.modStk_bridges (s : State) (n : Nat) (f : Stack → Stack) : (s.modStk n f).bridges = s.bridges := rfl
@[simp] theorem State.modStk_mgmt (s : State) (n : Nat) (f : Stack → Stack) : (s.modStk n f).mgmt = s.mgmt := rfl
@[simp] theorem State.modStk_sent (s : State) (n : Nat) (f : Stack → Stack) : (s.modStk n f).sent = s.sent := rfl
@[simp] theorem State.modStk_free (s : State) (n : Nat) (f : Stack → Stack) : (s.modStk n f).free = s.free := rfl

/-! ## State.modPort changes `fab` only -/

@[simp] theorem State.modPort_pending (s : State) (p : Nat) (f : Port → Port) : (s.modPort p f).pending = s.pending := rfl
@[simp] theorem State.modPort_pins (s : State) (p : Nat) (f : Port → Port) : (s.modPort p f).pins = s.pins := rfl
@[simp] theorem State.modPort_regs (s : State) (p : Nat) (f : Port → Port) : (s.modPort p f).regs = s.regs := rfl
@[simp] theorem State.modPort_latches (s : State) (p : Nat) (f : Port → Port) : (s.modPort p f).latches = s.latches := rfl
@[simp] theorem State.modPort_hostMem (s : State) (p : Nat) (f : Port → Port) : (s.modPort p f).hostMem = s.hostMem := rfl
@[simp] theorem State.modPort_mem (s : State) (p : Nat) (f : Port → Port) : (s.modPort p f).mem = s.mem := rfl
@[simp] theorem State.modPort_tiles (s : State) (p : Nat) (f : Port → Port) : (s.modPort p f).tiles = s.tiles := rfl
@[simp] theorem State.modPort_cores (s : State) (p : Nat) (f : Port → Port) : (s.modPort p f).cores = s.cores := rfl
@[simp] theorem State.modPort_rig (s : State) (p : Nat) (f : Port → Port) : (s.modPort p f).rig = s.rig := rfl
@[simp] theorem State.modPort_flash (s : State) (p : Nat) (f : Port → Port) : (s.modPort p f).flash = s.flash := rfl
@[simp] theorem State.modPort_sec (s : State) (p : Nat) (f : Port → Port) : (s.modPort p f).sec = s.sec := rfl
@[simp] theorem State.modPort_job (s : State) (p : Nat) (f : Port → Port) : (s.modPort p f).job = s.job := rfl
@[simp] theorem State.modPort_stroke (s : State) (p : Nat) (f : Port → Port) : (s.modPort p f).stroke = s.stroke := rfl
@[simp] theorem State.modPort_sync (s : State) (p : Nat) (f : Port → Port) : (s.modPort p f).sync = s.sync := rfl
@[simp] theorem State.modPort_collEng (s : State) (p : Nat) (f : Port → Port) : (s.modPort p f).collEng = s.collEng := rfl
@[simp] theorem State.modPort_zn (s : State) (p : Nat) (f : Port → Port) : (s.modPort p f).zn = s.zn := rfl
@[simp] theorem State.modPort_hif (s : State) (p : Nat) (f : Port → Port) : (s.modPort p f).hif = s.hif := rfl
@[simp] theorem State.modPort_pwr (s : State) (p : Nat) (f : Port → Port) : (s.modPort p f).pwr = s.pwr := rfl
@[simp] theorem State.modPort_tim (s : State) (p : Nat) (f : Port → Port) : (s.modPort p f).tim = s.tim := rfl
@[simp] theorem State.modPort_ckpt (s : State) (p : Nat) (f : Port → Port) : (s.modPort p f).ckpt = s.ckpt := rfl
@[simp] theorem State.modPort_bridges (s : State) (p : Nat) (f : Port → Port) : (s.modPort p f).bridges = s.bridges := rfl
@[simp] theorem State.modPort_mgmt (s : State) (p : Nat) (f : Port → Port) : (s.modPort p f).mgmt = s.mgmt := rfl
@[simp] theorem State.modPort_sent (s : State) (p : Nat) (f : Port → Port) : (s.modPort p f).sent = s.sent := rfl
@[simp] theorem State.modPort_free (s : State) (p : Nat) (f : Port → Port) : (s.modPort p f).free = s.free := rfl

/-! ## storeSync changes `sync` only -/

@[simp] theorem storeSync_pending (s : State) (c v : Nat) : (storeSync s c v).pending = s.pending := rfl
@[simp] theorem storeSync_pins (s : State) (c v : Nat) : (storeSync s c v).pins = s.pins := rfl
@[simp] theorem storeSync_regs (s : State) (c v : Nat) : (storeSync s c v).regs = s.regs := rfl
@[simp] theorem storeSync_latches (s : State) (c v : Nat) : (storeSync s c v).latches = s.latches := rfl
@[simp] theorem storeSync_hostMem (s : State) (c v : Nat) : (storeSync s c v).hostMem = s.hostMem := rfl
@[simp] theorem storeSync_mem (s : State) (c v : Nat) : (storeSync s c v).mem = s.mem := rfl
@[simp] theorem storeSync_tiles (s : State) (c v : Nat) : (storeSync s c v).tiles = s.tiles := rfl
@[simp] theorem storeSync_cores (s : State) (c v : Nat) : (storeSync s c v).cores = s.cores := rfl
@[simp] theorem storeSync_rig (s : State) (c v : Nat) : (storeSync s c v).rig = s.rig := rfl
@[simp] theorem storeSync_flash (s : State) (c v : Nat) : (storeSync s c v).flash = s.flash := rfl
@[simp] theorem storeSync_sec (s : State) (c v : Nat) : (storeSync s c v).sec = s.sec := rfl
@[simp] theorem storeSync_job (s : State) (c v : Nat) : (storeSync s c v).job = s.job := rfl
@[simp] theorem storeSync_stroke (s : State) (c v : Nat) : (storeSync s c v).stroke = s.stroke := rfl
@[simp] theorem storeSync_fab (s : State) (c v : Nat) : (storeSync s c v).fab = s.fab := rfl
@[simp] theorem storeSync_collEng (s : State) (c v : Nat) : (storeSync s c v).collEng = s.collEng := rfl
@[simp] theorem storeSync_zn (s : State) (c v : Nat) : (storeSync s c v).zn = s.zn := rfl
@[simp] theorem storeSync_hif (s : State) (c v : Nat) : (storeSync s c v).hif = s.hif := rfl
@[simp] theorem storeSync_pwr (s : State) (c v : Nat) : (storeSync s c v).pwr = s.pwr := rfl
@[simp] theorem storeSync_tim (s : State) (c v : Nat) : (storeSync s c v).tim = s.tim := rfl
@[simp] theorem storeSync_ckpt (s : State) (c v : Nat) : (storeSync s c v).ckpt = s.ckpt := rfl
@[simp] theorem storeSync_bridges (s : State) (c v : Nat) : (storeSync s c v).bridges = s.bridges := rfl
@[simp] theorem storeSync_mgmt (s : State) (c v : Nat) : (storeSync s c v).mgmt = s.mgmt := rfl
@[simp] theorem storeSync_sent (s : State) (c v : Nat) : (storeSync s c v).sent = s.sent := rfl
@[simp] theorem storeSync_free (s : State) (c v : Nat) : (storeSync s c v).free = s.free := rfl

/-! ## dropWait changes `sync` only -/

@[simp] theorem dropWait_pending (s : State) (who : Waiter) : (dropWait s who).pending = s.pending := rfl
@[simp] theorem dropWait_pins (s : State) (who : Waiter) : (dropWait s who).pins = s.pins := rfl
@[simp] theorem dropWait_regs (s : State) (who : Waiter) : (dropWait s who).regs = s.regs := rfl
@[simp] theorem dropWait_latches (s : State) (who : Waiter) : (dropWait s who).latches = s.latches := rfl
@[simp] theorem dropWait_hostMem (s : State) (who : Waiter) : (dropWait s who).hostMem = s.hostMem := rfl
@[simp] theorem dropWait_mem (s : State) (who : Waiter) : (dropWait s who).mem = s.mem := rfl
@[simp] theorem dropWait_tiles (s : State) (who : Waiter) : (dropWait s who).tiles = s.tiles := rfl
@[simp] theorem dropWait_cores (s : State) (who : Waiter) : (dropWait s who).cores = s.cores := rfl
@[simp] theorem dropWait_rig (s : State) (who : Waiter) : (dropWait s who).rig = s.rig := rfl
@[simp] theorem dropWait_flash (s : State) (who : Waiter) : (dropWait s who).flash = s.flash := rfl
@[simp] theorem dropWait_sec (s : State) (who : Waiter) : (dropWait s who).sec = s.sec := rfl
@[simp] theorem dropWait_job (s : State) (who : Waiter) : (dropWait s who).job = s.job := rfl
@[simp] theorem dropWait_stroke (s : State) (who : Waiter) : (dropWait s who).stroke = s.stroke := rfl
@[simp] theorem dropWait_fab (s : State) (who : Waiter) : (dropWait s who).fab = s.fab := rfl
@[simp] theorem dropWait_collEng (s : State) (who : Waiter) : (dropWait s who).collEng = s.collEng := rfl
@[simp] theorem dropWait_zn (s : State) (who : Waiter) : (dropWait s who).zn = s.zn := rfl
@[simp] theorem dropWait_hif (s : State) (who : Waiter) : (dropWait s who).hif = s.hif := rfl
@[simp] theorem dropWait_pwr (s : State) (who : Waiter) : (dropWait s who).pwr = s.pwr := rfl
@[simp] theorem dropWait_tim (s : State) (who : Waiter) : (dropWait s who).tim = s.tim := rfl
@[simp] theorem dropWait_ckpt (s : State) (who : Waiter) : (dropWait s who).ckpt = s.ckpt := rfl
@[simp] theorem dropWait_bridges (s : State) (who : Waiter) : (dropWait s who).bridges = s.bridges := rfl
@[simp] theorem dropWait_mgmt (s : State) (who : Waiter) : (dropWait s who).mgmt = s.mgmt := rfl
@[simp] theorem dropWait_sent (s : State) (who : Waiter) : (dropWait s who).sent = s.sent := rfl
@[simp] theorem dropWait_free (s : State) (who : Waiter) : (dropWait s who).free = s.free := rfl

/-! ## markLine changes `mem` only -/

@[simp] theorem markLine_pending (s : State) (pa : Nat) (k : LineMark) : (markLine s pa k).pending = s.pending := rfl
@[simp] theorem markLine_pins (s : State) (pa : Nat) (k : LineMark) : (markLine s pa k).pins = s.pins := rfl
@[simp] theorem markLine_regs (s : State) (pa : Nat) (k : LineMark) : (markLine s pa k).regs = s.regs := rfl
@[simp] theorem markLine_latches (s : State) (pa : Nat) (k : LineMark) : (markLine s pa k).latches = s.latches := rfl
@[simp] theorem markLine_hostMem (s : State) (pa : Nat) (k : LineMark) : (markLine s pa k).hostMem = s.hostMem := rfl
@[simp] theorem markLine_tiles (s : State) (pa : Nat) (k : LineMark) : (markLine s pa k).tiles = s.tiles := rfl
@[simp] theorem markLine_cores (s : State) (pa : Nat) (k : LineMark) : (markLine s pa k).cores = s.cores := rfl
@[simp] theorem markLine_rig (s : State) (pa : Nat) (k : LineMark) : (markLine s pa k).rig = s.rig := rfl
@[simp] theorem markLine_flash (s : State) (pa : Nat) (k : LineMark) : (markLine s pa k).flash = s.flash := rfl
@[simp] theorem markLine_sec (s : State) (pa : Nat) (k : LineMark) : (markLine s pa k).sec = s.sec := rfl
@[simp] theorem markLine_job (s : State) (pa : Nat) (k : LineMark) : (markLine s pa k).job = s.job := rfl
@[simp] theorem markLine_stroke (s : State) (pa : Nat) (k : LineMark) : (markLine s pa k).stroke = s.stroke := rfl
@[simp] theorem markLine_sync (s : State) (pa : Nat) (k : LineMark) : (markLine s pa k).sync = s.sync := rfl
@[simp] theorem markLine_fab (s : State) (pa : Nat) (k : LineMark) : (markLine s pa k).fab = s.fab := rfl
@[simp] theorem markLine_collEng (s : State) (pa : Nat) (k : LineMark) : (markLine s pa k).collEng = s.collEng := rfl
@[simp] theorem markLine_zn (s : State) (pa : Nat) (k : LineMark) : (markLine s pa k).zn = s.zn := rfl
@[simp] theorem markLine_hif (s : State) (pa : Nat) (k : LineMark) : (markLine s pa k).hif = s.hif := rfl
@[simp] theorem markLine_pwr (s : State) (pa : Nat) (k : LineMark) : (markLine s pa k).pwr = s.pwr := rfl
@[simp] theorem markLine_tim (s : State) (pa : Nat) (k : LineMark) : (markLine s pa k).tim = s.tim := rfl
@[simp] theorem markLine_ckpt (s : State) (pa : Nat) (k : LineMark) : (markLine s pa k).ckpt = s.ckpt := rfl
@[simp] theorem markLine_bridges (s : State) (pa : Nat) (k : LineMark) : (markLine s pa k).bridges = s.bridges := rfl
@[simp] theorem markLine_mgmt (s : State) (pa : Nat) (k : LineMark) : (markLine s pa k).mgmt = s.mgmt := rfl
@[simp] theorem markLine_sent (s : State) (pa : Nat) (k : LineMark) : (markLine s pa k).sent = s.sent := rfl
@[simp] theorem markLine_free (s : State) (pa : Nat) (k : LineMark) : (markLine s pa k).free = s.free := rfl

/-! ## Reading after an update -/

@[simp] theorem State.reg_setReg_self (s : State) (o v : Nat) : (s.setReg o v).reg o = v % 2 ^ 32 := by
  simp [State.reg, State.setReg, RegFile.get_put]

theorem State.reg_setReg_ne (s : State) {o p : Nat} (v : Nat) (h : p ≠ o) : (s.setReg o v).reg p = s.reg p := by
  simp [State.reg, State.setReg, RegFile.get_put, h]

theorem State.reg_setReg64_ne (s : State) {o p : Nat} (v : Nat) (h : p ≠ o) (h4 : p ≠ o + 4) :
    (s.setReg64 o v).reg p = s.reg p :=
  RegFile.get_put64 s.regs v h h4

theorem State.reg64_setReg64_self (s : State) (o v : Nat) (h : v < 2 ^ 64) : (s.setReg64 o v).reg64 o = v :=
  RegFile.get64_put64 s.regs o v h

theorem State.reg_setRegBits_ne (s : State) {o p : Nat} (hi lo v : Nat) (h : p ≠ o) :
    (s.setRegBits o hi lo v).reg p = s.reg p :=
  State.reg_setReg_ne s _ h

theorem State.reg_setRegBit_ne (s : State) {o p : Nat} (i : Nat) (b : Bool) (h : p ≠ o) :
    (s.setRegBit o i b).reg p = s.reg p :=
  State.reg_setReg_ne s _ h

/-- A register reads the same in two states that hold the same register file. -/
theorem State.reg_congr {s t : State} (h : t.regs = s.regs) (o : Nat) : t.reg o = s.reg o := by
  simp [State.reg, h]

@[simp] theorem State.core_setCore_self (s : State) (c : Nat) (x : Core) : (s.setCore c x).core c = x := by
  simp [State.core, State.setCore, kvGetD, kvGet_kvSet_self]

theorem State.core_setCore_ne (s : State) {c d : Nat} (x : Core) (h : d ≠ c) : (s.setCore c x).core d = s.core d := by
  simp [State.core, State.setCore, kvGetD, kvGet_kvSet_ne _ _ h]

@[simp] theorem State.core_modCore_self (s : State) (c : Nat) (f : Core → Core) : (s.modCore c f).core c = f (s.core c) :=
  State.core_setCore_self s c _

theorem State.core_modCore_ne (s : State) {c d : Nat} (f : Core → Core) (h : d ≠ c) :
    (s.modCore c f).core d = s.core d :=
  State.core_setCore_ne s _ h

theorem find_map_tile (l : List (TileId × Tile)) (t u : TileId) (x : Tile) :
    ((l.map (fun e => if e.1 == t then (t, x) else e)).find? (fun e => e.1 == u)).map Prod.snd =
      if u = t then (if l.any (fun e => e.1 == t) then some x else none)
      else (l.find? (fun e => e.1 == u)).map Prod.snd := by
  induction l with
  | nil => simp
  | cons e r ih =>
    by_cases he : e.1 = t
    · by_cases hu : u = t
      · subst hu; simp [he]
      · have h1 : ¬t = u := fun h => hu h.symm
        simpa [he, hu, h1] using ih
    · by_cases hu : u = t
      · subst hu
        have he' : (e.1 == u) = false := by simpa using he
        rw [List.any_cons, he', Bool.false_or]
        simpa [he] using ih
      · by_cases h2 : e.1 = u
        · simp [h2, hu]
        · simpa [he, h2, hu] using ih

@[simp] theorem State.tile_setTile_self (s : State) (t : TileId) (x : Tile) : (s.setTile t x).tile t = x := by
  unfold State.tile State.setTile
  by_cases h : s.tiles.any (fun e => e.1 == t)
  · simp only [h, if_true, find_map_tile, Option.getD_some]
  · have h2 : s.tiles.find? (fun e => e.1 == t) = none := by
      rw [List.find?_eq_none]
      intro e he hc
      exact h (List.any_eq_true.2 ⟨e, he, hc⟩)
    simp [h, List.find?_append, h2]

theorem State.tile_setTile_ne (s : State) {t u : TileId} (x : Tile) (hu : u ≠ t) : (s.setTile t x).tile u = s.tile u := by
  unfold State.tile State.setTile
  by_cases h : s.tiles.any (fun e => e.1 == t)
  · simp only [h, if_true, find_map_tile, if_neg hu]
  · have h1 : (t == u) = false := by simpa using fun hc => hu (Eq.symm hc)
    simp [h, List.find?_append, h1]

@[simp] theorem State.tile_modTile_self (s : State) (t : TileId) (f : Tile → Tile) :
    (s.modTile t f).tile t = f (s.tile t) :=
  State.tile_setTile_self s t _

theorem State.tile_modTile_ne (s : State) {t u : TileId} (f : Tile → Tile) (h : u ≠ t) :
    (s.modTile t f).tile u = s.tile u :=
  State.tile_setTile_ne s _ h

/-- A sync counter reads as stored, modulo 2^64 (R434). -/
theorem State.syncVal_storeSync_self (s : State) (c v : Nat) : (storeSync s c v).syncVal c = v % 2 ^ 64 := by
  unfold State.syncVal storeSync kvGetD
  split_ifs with h
  · simp only [kvGet_kvErase_self]; exact h.symm
  · simp [kvGet_kvSet_self]

theorem State.syncVal_storeSync_ne (s : State) {c d : Nat} (v : Nat) (h : d ≠ c) :
    (storeSync s c v).syncVal d = s.syncVal d := by
  unfold State.syncVal storeSync kvGetD
  split_ifs
  · simp [kvGet_kvErase_ne _ h]
  · simp [kvGet_kvSet_ne _ _ h]

end Sys2Proof.Machine
end

