-- ==== Sys2Proof/Laws/Ops.lean ====
section
/-! SUPPORT. What raising an event, counting and taking a catch can change: the registers of the counters
and of the catch, the event ring and what the host interface keeps of it, and nothing else (R565, R566,
R596 to R598). -/

namespace Sys2Proof.Machine

/-! ## The fields that an event can change -/

/-- The equation part of `EventFrame`. -/
def SameBut (s t : State) : Prop := ∃ r m e1 e2 e3 e4 e5 e6, t = { s with regs := r, hostMem := m, hif := { s.hif with
    evqTail := e1, evqHeld := e2, evqLost := e3, evqUnsignalled := e4, evqFirstAt := e5, eventCounts := e6 } }

theorem SameBut.refl (s : State) : SameBut s s :=
  ⟨s.regs, s.hostMem, s.hif.evqTail, s.hif.evqHeld, s.hif.evqLost, s.hif.evqUnsignalled, s.hif.evqFirstAt, s.hif.eventCounts, rfl⟩

theorem SameBut.trans {s t u : State} (h1 : SameBut s t) (h2 : SameBut t u) : SameBut s u := by
  obtain ⟨_, _, _, _, _, _, _, _, rfl⟩ := h1
  obtain ⟨_, _, _, _, _, _, _, _, rfl⟩ := h2
  exact ⟨_, _, _, _, _, _, _, _, rfl⟩

theorem SameBut.pending {s t : State} (h : SameBut s t) : t.pending = s.pending := by
  obtain ⟨_, _, _, _, _, _, _, _, rfl⟩ := h; rfl
theorem SameBut.pins {s t : State} (h : SameBut s t) : t.pins = s.pins := by
  obtain ⟨_, _, _, _, _, _, _, _, rfl⟩ := h; rfl
theorem SameBut.latches {s t : State} (h : SameBut s t) : t.latches = s.latches := by
  obtain ⟨_, _, _, _, _, _, _, _, rfl⟩ := h; rfl
theorem SameBut.mem {s t : State} (h : SameBut s t) : t.mem = s.mem := by
  obtain ⟨_, _, _, _, _, _, _, _, rfl⟩ := h; rfl
theorem SameBut.tiles {s t : State} (h : SameBut s t) : t.tiles = s.tiles := by
  obtain ⟨_, _, _, _, _, _, _, _, rfl⟩ := h; rfl
theorem SameBut.cores {s t : State} (h : SameBut s t) : t.cores = s.cores := by
  obtain ⟨_, _, _, _, _, _, _, _, rfl⟩ := h; rfl
theorem SameBut.rig {s t : State} (h : SameBut s t) : t.rig = s.rig := by
  obtain ⟨_, _, _, _, _, _, _, _, rfl⟩ := h; rfl
theorem SameBut.flash {s t : State} (h : SameBut s t) : t.flash = s.flash := by
  obtain ⟨_, _, _, _, _, _, _, _, rfl⟩ := h; rfl
theorem SameBut.sec {s t : State} (h : SameBut s t) : t.sec = s.sec := by
  obtain ⟨_, _, _, _, _, _, _, _, rfl⟩ := h; rfl
theorem SameBut.job {s t : State} (h : SameBut s t) : t.job = s.job := by
  obtain ⟨_, _, _, _, _, _, _, _, rfl⟩ := h; rfl
theorem SameBut.stroke {s t : State} (h : SameBut s t) : t.stroke = s.stroke := by
  obtain ⟨_, _, _, _, _, _, _, _, rfl⟩ := h; rfl
theorem SameBut.sync {s t : State} (h : SameBut s t) : t.sync = s.sync := by
  obtain ⟨_, _, _, _, _, _, _, _, rfl⟩ := h; rfl
theorem SameBut.fab {s t : State} (h : SameBut s t) : t.fab = s.fab := by
  obtain ⟨_, _, _, _, _, _, _, _, rfl⟩ := h; rfl
theorem SameBut.collEng {s t : State} (h : SameBut s t) : t.collEng = s.collEng := by
  obtain ⟨_, _, _, _, _, _, _, _, rfl⟩ := h; rfl
theorem SameBut.zn {s t : State} (h : SameBut s t) : t.zn = s.zn := by
  obtain ⟨_, _, _, _, _, _, _, _, rfl⟩ := h; rfl
theorem SameBut.pwr {s t : State} (h : SameBut s t) : t.pwr = s.pwr := by
  obtain ⟨_, _, _, _, _, _, _, _, rfl⟩ := h; rfl
theorem SameBut.tim {s t : State} (h : SameBut s t) : t.tim = s.tim := by
  obtain ⟨_, _, _, _, _, _, _, _, rfl⟩ := h; rfl
theorem SameBut.ckpt {s t : State} (h : SameBut s t) : t.ckpt = s.ckpt := by
  obtain ⟨_, _, _, _, _, _, _, _, rfl⟩ := h; rfl
theorem SameBut.bridges {s t : State} (h : SameBut s t) : t.bridges = s.bridges := by
  obtain ⟨_, _, _, _, _, _, _, _, rfl⟩ := h; rfl
theorem SameBut.mgmt {s t : State} (h : SameBut s t) : t.mgmt = s.mgmt := by
  obtain ⟨_, _, _, _, _, _, _, _, rfl⟩ := h; rfl
theorem SameBut.sent {s t : State} (h : SameBut s t) : t.sent = s.sent := by
  obtain ⟨_, _, _, _, _, _, _, _, rfl⟩ := h; rfl
theorem SameBut.free {s t : State} (h : SameBut s t) : t.free = s.free := by
  obtain ⟨_, _, _, _, _, _, _, _, rfl⟩ := h; rfl
theorem SameBut.hif_sqs {s t : State} (h : SameBut s t) : t.hif.sqs = s.hif.sqs := by
  obtain ⟨_, _, _, _, _, _, _, _, rfl⟩ := h; rfl
theorem SameBut.hif_cqs {s t : State} (h : SameBut s t) : t.hif.cqs = s.hif.cqs := by
  obtain ⟨_, _, _, _, _, _, _, _, rfl⟩ := h; rfl
theorem SameBut.hif_evqStopped {s t : State} (h : SameBut s t) : t.hif.evqStopped = s.hif.evqStopped := by
  obtain ⟨_, _, _, _, _, _, _, _, rfl⟩ := h; rfl
theorem SameBut.hif_idle {s t : State} (h : SameBut s t) : t.hif.idle = s.hif.idle := by
  obtain ⟨_, _, _, _, _, _, _, _, rfl⟩ := h; rfl
theorem SameBut.hif_idleSeq {s t : State} (h : SameBut s t) : t.hif.idleSeq = s.hif.idleSeq := by
  obtain ⟨_, _, _, _, _, _, _, _, rfl⟩ := h; rfl
theorem SameBut.hif_lastChange {s t : State} (h : SameBut s t) : t.hif.lastChange = s.hif.lastChange := by
  obtain ⟨_, _, _, _, _, _, _, _, rfl⟩ := h; rfl
theorem SameBut.hif_summarySeq {s t : State} (h : SameBut s t) : t.hif.summarySeq = s.hif.summarySeq := by
  obtain ⟨_, _, _, _, _, _, _, _, rfl⟩ := h; rfl
theorem SameBut.hif_outCmds {s t : State} (h : SameBut s t) : t.hif.outCmds = s.hif.outCmds := by
  obtain ⟨_, _, _, _, _, _, _, _, rfl⟩ := h; rfl
theorem SameBut.hif_tileRuns {s t : State} (h : SameBut s t) : t.hif.tileRuns = s.hif.tileRuns := by
  obtain ⟨_, _, _, _, _, _, _, _, rfl⟩ := h; rfl
theorem SameBut.hif_copies {s t : State} (h : SameBut s t) : t.hif.copies = s.hif.copies := by
  obtain ⟨_, _, _, _, _, _, _, _, rfl⟩ := h; rfl
theorem SameBut.hif_audits {s t : State} (h : SameBut s t) : t.hif.audits = s.hif.audits := by
  obtain ⟨_, _, _, _, _, _, _, _, rfl⟩ := h; rfl
theorem SameBut.hif_syncOps {s t : State} (h : SameBut s t) : t.hif.syncOps = s.hif.syncOps := by
  obtain ⟨_, _, _, _, _, _, _, _, rfl⟩ := h; rfl
theorem RingFrame.pending {s t : State} (h : RingFrame s t) : t.pending = s.pending := by obtain ⟨_, _, _, rfl⟩ := h.same; rfl
theorem RingFrame.pins {s t : State} (h : RingFrame s t) : t.pins = s.pins := by obtain ⟨_, _, _, rfl⟩ := h.same; rfl
theorem RingFrame.latches {s t : State} (h : RingFrame s t) : t.latches = s.latches := by obtain ⟨_, _, _, rfl⟩ := h.same; rfl
theorem RingFrame.mem {s t : State} (h : RingFrame s t) : t.mem = s.mem := by obtain ⟨_, _, _, rfl⟩ := h.same; rfl
theorem RingFrame.tiles {s t : State} (h : RingFrame s t) : t.tiles = s.tiles := by obtain ⟨_, _, _, rfl⟩ := h.same; rfl
theorem RingFrame.cores {s t : State} (h : RingFrame s t) : t.cores = s.cores := by obtain ⟨_, _, _, rfl⟩ := h.same; rfl
theorem RingFrame.rig {s t : State} (h : RingFrame s t) : t.rig = s.rig := by obtain ⟨_, _, _, rfl⟩ := h.same; rfl
theorem RingFrame.flash {s t : State} (h : RingFrame s t) : t.flash = s.flash := by obtain ⟨_, _, _, rfl⟩ := h.same; rfl
theorem RingFrame.sec {s t : State} (h : RingFrame s t) : t.sec = s.sec := by obtain ⟨_, _, _, rfl⟩ := h.same; rfl
theorem RingFrame.job {s t : State} (h : RingFrame s t) : t.job = s.job := by obtain ⟨_, _, _, rfl⟩ := h.same; rfl
theorem RingFrame.stroke {s t : State} (h : RingFrame s t) : t.stroke = s.stroke := by obtain ⟨_, _, _, rfl⟩ := h.same; rfl
theorem RingFrame.sync {s t : State} (h : RingFrame s t) : t.sync = s.sync := by obtain ⟨_, _, _, rfl⟩ := h.same; rfl
theorem RingFrame.fab {s t : State} (h : RingFrame s t) : t.fab = s.fab := by obtain ⟨_, _, _, rfl⟩ := h.same; rfl
theorem RingFrame.collEng {s t : State} (h : RingFrame s t) : t.collEng = s.collEng := by obtain ⟨_, _, _, rfl⟩ := h.same; rfl
theorem RingFrame.zn {s t : State} (h : RingFrame s t) : t.zn = s.zn := by obtain ⟨_, _, _, rfl⟩ := h.same; rfl
theorem RingFrame.pwr {s t : State} (h : RingFrame s t) : t.pwr = s.pwr := by obtain ⟨_, _, _, rfl⟩ := h.same; rfl
theorem RingFrame.tim {s t : State} (h : RingFrame s t) : t.tim = s.tim := by obtain ⟨_, _, _, rfl⟩ := h.same; rfl
theorem RingFrame.ckpt {s t : State} (h : RingFrame s t) : t.ckpt = s.ckpt := by obtain ⟨_, _, _, rfl⟩ := h.same; rfl
theorem RingFrame.bridges {s t : State} (h : RingFrame s t) : t.bridges = s.bridges := by obtain ⟨_, _, _, rfl⟩ := h.same; rfl
theorem RingFrame.mgmt {s t : State} (h : RingFrame s t) : t.mgmt = s.mgmt := by obtain ⟨_, _, _, rfl⟩ := h.same; rfl
theorem RingFrame.sent {s t : State} (h : RingFrame s t) : t.sent = s.sent := by obtain ⟨_, _, _, rfl⟩ := h.same; rfl
theorem RingFrame.free {s t : State} (h : RingFrame s t) : t.free = s.free := by obtain ⟨_, _, _, rfl⟩ := h.same; rfl
theorem EventFrame.refl (s : State) : EventFrame s s := ⟨SameBut.refl s, fun _ _ => rfl, fun _ _ => rfl⟩

theorem inEventRing_congr {s t : State} (h : ∀ o, eventReg o = false → t.reg o = s.reg o) (a : Nat) :
    inEventRing t a = inEventRing s a := by
  have h1 : t.reg64 (hifBase + 0x20) = s.reg64 (hifBase + 0x20) := by
    have e1 := h (hifBase + 0x20) (by decide +revert)
    have e2 := h (hifBase + 0x24) (by decide +revert)
    simp only [State.reg, State.reg64, RegFile.get64] at *
    rw [e1, e2]
  have h2 : t.evqLog = s.evqLog := by simp only [State.evqLog, h (hifBase + 0x28) (by decide +revert)]
  simp only [inEventRing, h1, h2]

theorem EventFrame.trans {s t u : State} (h1 : EventFrame s t) (h2 : EventFrame t u) : EventFrame s u :=
  ⟨SameBut.trans h1.same h2.same, fun o ho => (h2.regs o ho).trans (h1.regs o ho),
   fun a ha => (h2.host a (by rw [inEventRing_congr h1.regs, ha])).trans (h1.host a ha)⟩

theorem EventFrame.ring {s t : State} (h : EventFrame s t) : RingFrame s t := by
  obtain ⟨_, _, _, _, _, _, _, _, e⟩ := h.same
  exact ⟨⟨_, _, _, e⟩, h.regs, h.host⟩

theorem RingFrame.refl (s : State) : RingFrame s s := (EventFrame.refl s).ring

theorem RingFrame.trans {s t u : State} (h1 : RingFrame s t) (h2 : RingFrame t u) : RingFrame s u := by
  have hr := fun a => inEventRing_congr h1.regs a
  obtain ⟨_, _, _, e1⟩ := h1.same
  obtain ⟨_, _, _, e2⟩ := h2.same
  exact ⟨⟨_, _, _, by rw [e2, e1]⟩, fun o ho => (h2.regs o ho).trans (h1.regs o ho),
   fun a ha => (h2.host a (by rw [hr, ha])).trans (h1.host a ha)⟩

/-- The three registers of counter `n` of the group at `g` are counter registers (R598). -/
abbrev IsCounter (g n : Nat) : Prop :=
  eventReg (g + 0xF0) = true ∧ eventReg (g + 0x100 + 8 * n) = true ∧ eventReg (g + 0x104 + 8 * n) = true

theorem frame_regs {s t : State} (h : SameBut s t) (hm : t.hostMem = s.hostMem)
    (hr : ∀ o, eventReg o = false → t.reg o = s.reg o) : EventFrame s t :=
  ⟨h, hr, fun _ _ => by rw [hm]⟩

theorem frame_setReg (s : State) {o : Nat} (v : Nat) (h : eventReg o = true) : EventFrame s (s.setReg o v) :=
  frame_regs ⟨_, _, _, _, _, _, _, _, rfl⟩ rfl fun p hp => State.reg_setReg_ne s v (by rintro rfl; simp [h] at hp)

theorem frame_setReg64 (s : State) {o : Nat} (v : Nat) (h : eventReg o = true) (h4 : eventReg (o + 4) = true) :
    EventFrame s (s.setReg64 o v) :=
  frame_regs ⟨_, _, _, _, _, _, _, _, rfl⟩ rfl fun p hp =>
    State.reg_setReg64_ne s v (by rintro rfl; simp [h] at hp) (by rintro rfl; simp [h4] at hp)

theorem frame_setRegBit (s : State) {o : Nat} (i : Nat) (b : Bool) (h : eventReg o = true) :
    EventFrame s (s.setRegBit o i b) :=
  frame_setReg s _ h

theorem frame_evqHeld (s : State) (n : Nat) (l : U64) :
    EventFrame s { s with hif := { s.hif with evqHeld := n, evqLost := l } } :=
  ⟨⟨_, _, _, _, _, _, _, _, rfl⟩, fun _ _ => rfl, fun _ _ => rfl⟩

theorem frame_countFamily (s : State) (code : Nat) : EventFrame s (countFamily s code) :=
  ⟨⟨_, _, _, _, _, _, _, _, rfl⟩, fun _ _ => rfl, fun _ _ => rfl⟩

/-- An event record is 32 bytes long (Table 16.6). -/
theorem length_eventRecord (s : State) (code src addr data : Nat) : (eventRecord s code src addr data).length = 32 := by
  simp [eventRecord, length_leBytes]

theorem frame_putEvent (s : State) (c r a d : Nat) : EventFrame s (putEvent s c r a d) := by
  refine ⟨⟨_, _, _, _, _, _, _, _, rfl⟩, fun _ _ => rfl, fun x hx => ?_⟩
  refine Memory.get_write_outside _ ?_
  rw [length_eventRecord]
  have hp : 0 < 2 ^ s.evqLog := Nat.pow_pos (by decide)
  have hl : s.hif.evqTail.toNat % 2 ^ s.evqLog < 2 ^ s.evqLog := Nat.mod_lt _ hp
  have hx' : ¬(s.reg64 (hifBase + 0x20) ≤ x ∧ x < s.reg64 (hifBase + 0x20) + 32 * 2 ^ s.evqLog) := by
    simpa [inEventRing] using hx
  generalize s.hif.evqTail.toNat % 2 ^ s.evqLog = k at *
  generalize 2 ^ s.evqLog = n at *
  omega

/-- A snapshot register lies 0x100 above the register that it copies (R597). -/
theorem snapOf_eq {o p : Nat} (h : snapOf o = some p) : p = o + 0x100 := by
  unfold snapOf at h
  split at h
  · cases h
  · simp only at h
    split_ifs at h <;> simp_all

theorem kvGet_filter {α : Type} (p : Nat → Bool) (l : List (Nat × α)) {o : Nat} (h : p o = true) :
    kvGet (l.filter (fun e => p e.1)) o = kvGet l o := by
  induction l with
  | nil => rfl
  | cons e r ih =>
    obtain ⟨k, w⟩ := e
    by_cases hk : p k
    · simp [hk, kvGet, ih]
    · have : k ≠ o := by rintro rfl; exact hk h
      simp [hk, kvGet, this, ih]

/-- Latching changes snapshot registers only (R597). -/
theorem latchCounters_get (f : RegFile) {o : Nat} (h : isSnapshot o = false) :
    RegFile.get (latchCounters f) o = RegFile.get f o := by
  have h0 : RegFile.get (f.filter (fun e => !isSnapshot e.1)) o = RegFile.get f o := by
    unfold RegFile.get
    rw [kvGet_filter (fun k => !isSnapshot k) f (by simp [h])]
  unfold latchCounters
  rw [← h0]
  generalize f.filter (fun e => !isSnapshot e.1) = g
  clear h0
  induction f generalizing g with
  | nil => rfl
  | cons e r ih =>
    rw [List.foldl_cons, ih]
    split
    · next p hp =>
      rw [RegFile.get_put, if_neg]
      rintro rfl
      have := snapOf_eq hp
      subst this
      simp [isSnapshot, hp] at h
    · rfl

theorem frame_recordCatch (s : State) (src : Nat) : EventFrame s (recordCatch s src) := by
  unfold recordCatch
  refine EventFrame.trans (t := { s with regs := latchCounters s.regs }) ?_ ?_
  · refine frame_regs ⟨_, _, _, _, _, _, _, _, rfl⟩ rfl fun o ho => latchCounters_get s.regs ?_
    simp only [eventReg, Bool.or_eq_false_iff] at ho
    exact ho.1.1
  · exact ((frame_setReg _ _ (by decide +revert)).trans (frame_setReg64 _ _ (by decide +revert) (by decide +revert))).trans
      (frame_setReg64 _ _ (by decide +revert) (by decide +revert))

theorem frame_bumpRaw (s : State) {g n : Nat} (k : Nat) (h : IsCounter g n) : EventFrame s (bumpRaw s g n k).1 := by
  obtain ⟨h0, h1, h2⟩ := h
  have h2' : eventReg (g + 0x100 + 8 * n + 4) = true := by rw [show g + 0x100 + 8 * n + 4 = g + 0x104 + 8 * n by omega]; exact h2
  unfold bumpRaw
  split_ifs
  · exact EventFrame.refl s
  · simp only
    split_ifs
    · exact frame_setReg64 _ _ h1 h2'
    · exact (frame_setReg64 _ _ h1 h2').trans (frame_setRegBit _ _ _ h0)

theorem frame_bumpWith {r : Nat → Nat → Nat → Nat → State → State}
    (hr : ∀ a b c d s, EventFrame s (r a b c d s)) (s : State) {g n : Nat} (k : Nat) (h : IsCounter g n) :
    EventFrame s (bumpWith r s g n k) := by
  have h := frame_bumpRaw s k h
  unfold bumpWith
  split
  · next s' heq => rw [heq] at h; exact h.trans (hr ..)
  · next s' heq => rw [heq] at h; exact h

theorem frame_raiseN (d : Nat) : ∀ code src addr data s, EventFrame s (raiseN d code src addr data s) := by
  induction d with
  | zero => exact fun _ _ _ _ s => EventFrame.refl s
  | succ d ih =>
    intro code src addr data s
    have b3 := fun s => frame_bumpWith ih s (g := hifBase) (n := 3) 1 (by decide)
    have b4 := fun s => frame_bumpWith ih s (g := hifBase) (n := 4) 1 (by decide)
    have c0 := fun s => frame_bumpWith ih s (g := snapBase) (n := 0) 1 (by decide)
    have c1 := fun s => frame_bumpWith ih s (g := snapBase) (n := 1) 1 (by decide)
    have h0 := frame_countFamily s code
    simp only [raiseN]
    generalize countFamily s code = s0 at *
    generalize hs1 : (if s0.hif.evqHeld = 0 || !s0.evqRoom then s0
      else bumpWith (raiseN d) { putEvent s0 0x4110 srcHif 0 s0.hif.evqHeld with
             hif := { (putEvent s0 0x4110 srcHif 0 s0.hif.evqHeld).hif with evqHeld := 0 } } hifBase 3 1) = s1
    have h1 : EventFrame s s1 := by
      rw [← hs1]
      split_ifs
      · exact h0
      · have hp := frame_putEvent s0 0x4110 srcHif 0 s0.hif.evqHeld
        generalize putEvent s0 0x4110 srcHif 0 s0.hif.evqHeld = p at *
        exact ((h0.trans hp).trans (frame_evqHeld p 0 p.hif.evqLost)).trans (b3 _)
    generalize hs2 : (if s1.evqRoom then bumpWith (raiseN d) (putEvent s1 code src addr data) hifBase 3 1
      else bumpWith (raiseN d)
        { s1 with hif := { s1.hif with evqHeld := s1.hif.evqHeld + 1, evqLost := s1.hif.evqLost + 1 } } hifBase 4 1) = s2
    have h2 : EventFrame s s2 := by
      rw [← hs2]
      split_ifs
      · exact (h1.trans (frame_putEvent ..)).trans (b3 _)
      · exact (h1.trans (frame_evqHeld s1 _ _)).trans (b4 _)
    split_ifs
    · exact h2
    · exact h2.trans (c1 _)
    · exact ((h2.trans (frame_recordCatch s2 2)).trans (c0 _)).trans (ih ..)

theorem raise_frame (s : State) (code src addr data : Nat) : EventFrame s (raise s code src addr data) := frame_raiseN ..

theorem bump_frame (s : State) {g n : Nat} (k : Nat) (h : IsCounter g n) : EventFrame s (bump s g n k) :=
  frame_bumpWith (frame_raiseN 6) s k h

theorem takeCatch_frame (s : State) (src : Nat) : EventFrame s (takeCatch s src) := by
  unfold takeCatch
  split_ifs
  · exact bump_frame _ _ (by decide)
  · exact ((frame_recordCatch ..).trans (bump_frame _ _ (by decide))).trans (raise_frame ..)

/-- Counting on any offset changes no field but those of `SameBut`. -/
theorem same_bump (s : State) (g n k : Nat) : SameBut s (bump s g n k) := by
  have hraw : SameBut s (bumpRaw s g n k).1 := by
    unfold bumpRaw
    split_ifs
    · exact SameBut.refl s
    · simp only
      split_ifs <;> exact ⟨_, _, _, _, _, _, _, _, rfl⟩
  unfold bump bumpWith
  split
  · next s' heq => rw [heq] at hraw; exact hraw.trans (raise_frame ..).same
  · next s' heq => rw [heq] at hraw; exact hraw

theorem same_raise (s : State) (code src addr data : Nat) : SameBut s (raise s code src addr data) := (raise_frame ..).same
theorem same_takeCatch (s : State) (src : Nat) : SameBut s (takeCatch s src) := (takeCatch_frame ..).same

/-! ## One lemma per field -/

@[simp] theorem raise_pending (s : State) (code src addr data : Nat) : (raise s code src addr data).pending = s.pending := (same_raise ..).pending
@[simp] theorem raise_pins (s : State) (code src addr data : Nat) : (raise s code src addr data).pins = s.pins := (same_raise ..).pins
@[simp] theorem raise_latches (s : State) (code src addr data : Nat) : (raise s code src addr data).latches = s.latches := (same_raise ..).latches
@[simp] theorem raise_mem (s : State) (code src addr data : Nat) : (raise s code src addr data).mem = s.mem := (same_raise ..).mem
@[simp] theorem raise_tiles (s : State) (code src addr data : Nat) : (raise s code src addr data).tiles = s.tiles := (same_raise ..).tiles
@[simp] theorem raise_cores (s : State) (code src addr data : Nat) : (raise s code src addr data).cores = s.cores := (same_raise ..).cores
@[simp] theorem raise_rig (s : State) (code src addr data : Nat) : (raise s code src addr data).rig = s.rig := (same_raise ..).rig
@[simp] theorem raise_flash (s : State) (code src addr data : Nat) : (raise s code src addr data).flash = s.flash := (same_raise ..).flash
@[simp] theorem raise_sec (s : State) (code src addr data : Nat) : (raise s code src addr data).sec = s.sec := (same_raise ..).sec
@[simp] theorem raise_job (s : State) (code src addr data : Nat) : (raise s code src addr data).job = s.job := (same_raise ..).job
@[simp] theorem raise_stroke (s : State) (code src addr data : Nat) : (raise s code src addr data).stroke = s.stroke := (same_raise ..).stroke
@[simp] theorem raise_sync (s : State) (code src addr data : Nat) : (raise s code src addr data).sync = s.sync := (same_raise ..).sync
@[simp] theorem raise_fab (s : State) (code src addr data : Nat) : (raise s code src addr data).fab = s.fab := (same_raise ..).fab
@[simp] theorem raise_collEng (s : State) (code src addr data : Nat) : (raise s code src addr data).collEng = s.collEng := (same_raise ..).collEng
@[simp] theorem raise_zn (s : State) (code src addr data : Nat) : (raise s code src addr data).zn = s.zn := (same_raise ..).zn
@[simp] theorem raise_pwr (s : State) (code src addr data : Nat) : (raise s code src addr data).pwr = s.pwr := (same_raise ..).pwr
@[simp] theorem raise_tim (s : State) (code src addr data : Nat) : (raise s code src addr data).tim = s.tim := (same_raise ..).tim
@[simp] theorem raise_ckpt (s : State) (code src addr data : Nat) : (raise s code src addr data).ckpt = s.ckpt := (same_raise ..).ckpt
@[simp] theorem raise_bridges (s : State) (code src addr data : Nat) : (raise s code src addr data).bridges = s.bridges := (same_raise ..).bridges
@[simp] theorem raise_mgmt (s : State) (code src addr data : Nat) : (raise s code src addr data).mgmt = s.mgmt := (same_raise ..).mgmt
@[simp] theorem raise_sent (s : State) (code src addr data : Nat) : (raise s code src addr data).sent = s.sent := (same_raise ..).sent
@[simp] theorem raise_free (s : State) (code src addr data : Nat) : (raise s code src addr data).free = s.free := (same_raise ..).free
@[simp] theorem raise_hif_sqs (s : State) (code src addr data : Nat) : (raise s code src addr data).hif.sqs = s.hif.sqs := (same_raise ..).hif_sqs
@[simp] theorem raise_hif_cqs (s : State) (code src addr data : Nat) : (raise s code src addr data).hif.cqs = s.hif.cqs := (same_raise ..).hif_cqs
@[simp] theorem raise_hif_evqStopped (s : State) (code src addr data : Nat) : (raise s code src addr data).hif.evqStopped = s.hif.evqStopped := (same_raise ..).hif_evqStopped
@[simp] theorem raise_hif_idle (s : State) (code src addr data : Nat) : (raise s code src addr data).hif.idle = s.hif.idle := (same_raise ..).hif_idle
@[simp] theorem raise_hif_idleSeq (s : State) (code src addr data : Nat) : (raise s code src addr data).hif.idleSeq = s.hif.idleSeq := (same_raise ..).hif_idleSeq
@[simp] theorem raise_hif_lastChange (s : State) (code src addr data : Nat) : (raise s code src addr data).hif.lastChange = s.hif.lastChange := (same_raise ..).hif_lastChange
@[simp] theorem raise_hif_summarySeq (s : State) (code src addr data : Nat) : (raise s code src addr data).hif.summarySeq = s.hif.summarySeq := (same_raise ..).hif_summarySeq
@[simp] theorem raise_hif_outCmds (s : State) (code src addr data : Nat) : (raise s code src addr data).hif.outCmds = s.hif.outCmds := (same_raise ..).hif_outCmds
@[simp] theorem raise_hif_tileRuns (s : State) (code src addr data : Nat) : (raise s code src addr data).hif.tileRuns = s.hif.tileRuns := (same_raise ..).hif_tileRuns
@[simp] theorem raise_hif_copies (s : State) (code src addr data : Nat) : (raise s code src addr data).hif.copies = s.hif.copies := (same_raise ..).hif_copies
@[simp] theorem raise_hif_audits (s : State) (code src addr data : Nat) : (raise s code src addr data).hif.audits = s.hif.audits := (same_raise ..).hif_audits
@[simp] theorem raise_hif_syncOps (s : State) (code src addr data : Nat) : (raise s code src addr data).hif.syncOps = s.hif.syncOps := (same_raise ..).hif_syncOps

@[simp] theorem bump_pending (s : State) (g n k : Nat) : (bump s g n k).pending = s.pending := (same_bump ..).pending
@[simp] theorem bump_pins (s : State) (g n k : Nat) : (bump s g n k).pins = s.pins := (same_bump ..).pins
@[simp] theorem bump_latches (s : State) (g n k : Nat) : (bump s g n k).latches = s.latches := (same_bump ..).latches
@[simp] theorem bump_mem (s : State) (g n k : Nat) : (bump s g n k).mem = s.mem := (same_bump ..).mem
@[simp] theorem bump_tiles (s : State) (g n k : Nat) : (bump s g n k).tiles = s.tiles := (same_bump ..).tiles
@[simp] theorem bump_cores (s : State) (g n k : Nat) : (bump s g n k).cores = s.cores := (same_bump ..).cores
@[simp] theorem bump_rig (s : State) (g n k : Nat) : (bump s g n k).rig = s.rig := (same_bump ..).rig
@[simp] theorem bump_flash (s : State) (g n k : Nat) : (bump s g n k).flash = s.flash := (same_bump ..).flash
@[simp] theorem bump_sec (s : State) (g n k : Nat) : (bump s g n k).sec = s.sec := (same_bump ..).sec
@[simp] theorem bump_job (s : State) (g n k : Nat) : (bump s g n k).job = s.job := (same_bump ..).job
@[simp] theorem bump_stroke (s : State) (g n k : Nat) : (bump s g n k).stroke = s.stroke := (same_bump ..).stroke
@[simp] theorem bump_sync (s : State) (g n k : Nat) : (bump s g n k).sync = s.sync := (same_bump ..).sync
@[simp] theorem bump_fab (s : State) (g n k : Nat) : (bump s g n k).fab = s.fab := (same_bump ..).fab
@[simp] theorem bump_collEng (s : State) (g n k : Nat) : (bump s g n k).collEng = s.collEng := (same_bump ..).collEng
@[simp] theorem bump_zn (s : State) (g n k : Nat) : (bump s g n k).zn = s.zn := (same_bump ..).zn
@[simp] theorem bump_pwr (s : State) (g n k : Nat) : (bump s g n k).pwr = s.pwr := (same_bump ..).pwr
@[simp] theorem bump_tim (s : State) (g n k : Nat) : (bump s g n k).tim = s.tim := (same_bump ..).tim
@[simp] theorem bump_ckpt (s : State) (g n k : Nat) : (bump s g n k).ckpt = s.ckpt := (same_bump ..).ckpt
@[simp] theorem bump_bridges (s : State) (g n k : Nat) : (bump s g n k).bridges = s.bridges := (same_bump ..).bridges
@[simp] theorem bump_mgmt (s : State) (g n k : Nat) : (bump s g n k).mgmt = s.mgmt := (same_bump ..).mgmt
@[simp] theorem bump_sent (s : State) (g n k : Nat) : (bump s g n k).sent = s.sent := (same_bump ..).sent
@[simp] theorem bump_free (s : State) (g n k : Nat) : (bump s g n k).free = s.free := (same_bump ..).free
@[simp] theorem bump_hif_sqs (s : State) (g n k : Nat) : (bump s g n k).hif.sqs = s.hif.sqs := (same_bump ..).hif_sqs
@[simp] theorem bump_hif_cqs (s : State) (g n k : Nat) : (bump s g n k).hif.cqs = s.hif.cqs := (same_bump ..).hif_cqs
@[simp] theorem bump_hif_evqStopped (s : State) (g n k : Nat) : (bump s g n k).hif.evqStopped = s.hif.evqStopped := (same_bump ..).hif_evqStopped
@[simp] theorem bump_hif_idle (s : State) (g n k : Nat) : (bump s g n k).hif.idle = s.hif.idle := (same_bump ..).hif_idle
@[simp] theorem bump_hif_idleSeq (s : State) (g n k : Nat) : (bump s g n k).hif.idleSeq = s.hif.idleSeq := (same_bump ..).hif_idleSeq
@[simp] theorem bump_hif_lastChange (s : State) (g n k : Nat) : (bump s g n k).hif.lastChange = s.hif.lastChange := (same_bump ..).hif_lastChange
@[simp] theorem bump_hif_summarySeq (s : State) (g n k : Nat) : (bump s g n k).hif.summarySeq = s.hif.summarySeq := (same_bump ..).hif_summarySeq
@[simp] theorem bump_hif_outCmds (s : State) (g n k : Nat) : (bump s g n k).hif.outCmds = s.hif.outCmds := (same_bump ..).hif_outCmds
@[simp] theorem bump_hif_tileRuns (s : State) (g n k : Nat) : (bump s g n k).hif.tileRuns = s.hif.tileRuns := (same_bump ..).hif_tileRuns
@[simp] theorem bump_hif_copies (s : State) (g n k : Nat) : (bump s g n k).hif.copies = s.hif.copies := (same_bump ..).hif_copies
@[simp] theorem bump_hif_audits (s : State) (g n k : Nat) : (bump s g n k).hif.audits = s.hif.audits := (same_bump ..).hif_audits
@[simp] theorem bump_hif_syncOps (s : State) (g n k : Nat) : (bump s g n k).hif.syncOps = s.hif.syncOps := (same_bump ..).hif_syncOps

@[simp] theorem takeCatch_pending (s : State) (src : Nat) : (takeCatch s src).pending = s.pending := (same_takeCatch ..).pending
@[simp] theorem takeCatch_pins (s : State) (src : Nat) : (takeCatch s src).pins = s.pins := (same_takeCatch ..).pins
@[simp] theorem takeCatch_latches (s : State) (src : Nat) : (takeCatch s src).latches = s.latches := (same_takeCatch ..).latches
@[simp] theorem takeCatch_mem (s : State) (src : Nat) : (takeCatch s src).mem = s.mem := (same_takeCatch ..).mem
@[simp] theorem takeCatch_tiles (s : State) (src : Nat) : (takeCatch s src).tiles = s.tiles := (same_takeCatch ..).tiles
@[simp] theorem takeCatch_cores (s : State) (src : Nat) : (takeCatch s src).cores = s.cores := (same_takeCatch ..).cores
@[simp] theorem takeCatch_rig (s : State) (src : Nat) : (takeCatch s src).rig = s.rig := (same_takeCatch ..).rig
@[simp] theorem takeCatch_flash (s : State) (src : Nat) : (takeCatch s src).flash = s.flash := (same_takeCatch ..).flash
@[simp] theorem takeCatch_sec (s : State) (src : Nat) : (takeCatch s src).sec = s.sec := (same_takeCatch ..).sec
@[simp] theorem takeCatch_job (s : State) (src : Nat) : (takeCatch s src).job = s.job := (same_takeCatch ..).job
@[simp] theorem takeCatch_stroke (s : State) (src : Nat) : (takeCatch s src).stroke = s.stroke := (same_takeCatch ..).stroke
@[simp] theorem takeCatch_sync (s : State) (src : Nat) : (takeCatch s src).sync = s.sync := (same_takeCatch ..).sync
@[simp] theorem takeCatch_fab (s : State) (src : Nat) : (takeCatch s src).fab = s.fab := (same_takeCatch ..).fab
@[simp] theorem takeCatch_collEng (s : State) (src : Nat) : (takeCatch s src).collEng = s.collEng := (same_takeCatch ..).collEng
@[simp] theorem takeCatch_zn (s : State) (src : Nat) : (takeCatch s src).zn = s.zn := (same_takeCatch ..).zn
@[simp] theorem takeCatch_pwr (s : State) (src : Nat) : (takeCatch s src).pwr = s.pwr := (same_takeCatch ..).pwr
@[simp] theorem takeCatch_tim (s : State) (src : Nat) : (takeCatch s src).tim = s.tim := (same_takeCatch ..).tim
@[simp] theorem takeCatch_ckpt (s : State) (src : Nat) : (takeCatch s src).ckpt = s.ckpt := (same_takeCatch ..).ckpt
@[simp] theorem takeCatch_bridges (s : State) (src : Nat) : (takeCatch s src).bridges = s.bridges := (same_takeCatch ..).bridges
@[simp] theorem takeCatch_mgmt (s : State) (src : Nat) : (takeCatch s src).mgmt = s.mgmt := (same_takeCatch ..).mgmt
@[simp] theorem takeCatch_sent (s : State) (src : Nat) : (takeCatch s src).sent = s.sent := (same_takeCatch ..).sent
@[simp] theorem takeCatch_free (s : State) (src : Nat) : (takeCatch s src).free = s.free := (same_takeCatch ..).free
@[simp] theorem takeCatch_hif_sqs (s : State) (src : Nat) : (takeCatch s src).hif.sqs = s.hif.sqs := (same_takeCatch ..).hif_sqs
@[simp] theorem takeCatch_hif_cqs (s : State) (src : Nat) : (takeCatch s src).hif.cqs = s.hif.cqs := (same_takeCatch ..).hif_cqs
@[simp] theorem takeCatch_hif_evqStopped (s : State) (src : Nat) : (takeCatch s src).hif.evqStopped = s.hif.evqStopped := (same_takeCatch ..).hif_evqStopped
@[simp] theorem takeCatch_hif_idle (s : State) (src : Nat) : (takeCatch s src).hif.idle = s.hif.idle := (same_takeCatch ..).hif_idle
@[simp] theorem takeCatch_hif_idleSeq (s : State) (src : Nat) : (takeCatch s src).hif.idleSeq = s.hif.idleSeq := (same_takeCatch ..).hif_idleSeq
@[simp] theorem takeCatch_hif_lastChange (s : State) (src : Nat) : (takeCatch s src).hif.lastChange = s.hif.lastChange := (same_takeCatch ..).hif_lastChange
@[simp] theorem takeCatch_hif_summarySeq (s : State) (src : Nat) : (takeCatch s src).hif.summarySeq = s.hif.summarySeq := (same_takeCatch ..).hif_summarySeq
@[simp] theorem takeCatch_hif_outCmds (s : State) (src : Nat) : (takeCatch s src).hif.outCmds = s.hif.outCmds := (same_takeCatch ..).hif_outCmds
@[simp] theorem takeCatch_hif_tileRuns (s : State) (src : Nat) : (takeCatch s src).hif.tileRuns = s.hif.tileRuns := (same_takeCatch ..).hif_tileRuns
@[simp] theorem takeCatch_hif_copies (s : State) (src : Nat) : (takeCatch s src).hif.copies = s.hif.copies := (same_takeCatch ..).hif_copies
@[simp] theorem takeCatch_hif_audits (s : State) (src : Nat) : (takeCatch s src).hif.audits = s.hif.audits := (same_takeCatch ..).hif_audits
@[simp] theorem takeCatch_hif_syncOps (s : State) (src : Nat) : (takeCatch s src).hif.syncOps = s.hif.syncOps := (same_takeCatch ..).hif_syncOps

/-! ## Views that rest on other fields -/

@[simp] theorem raise_tile (s : State) (code src addr data : Nat) (t : TileId) :
    (raise s code src addr data).tile t = s.tile t := by simp [State.tile]
@[simp] theorem bump_tile (s : State) (g n k : Nat) (t : TileId) : (bump s g n k).tile t = s.tile t := by simp [State.tile]
@[simp] theorem raise_core (s : State) (code src addr data c : Nat) :
    (raise s code src addr data).core c = s.core c := by simp [State.core]
@[simp] theorem bump_core (s : State) (g n k c : Nat) : (bump s g n k).core c = s.core c := by simp [State.core]
@[simp] theorem raise_syncVal (s : State) (code src addr data c : Nat) :
    (raise s code src addr data).syncVal c = s.syncVal c := by simp [State.syncVal]
@[simp] theorem bump_syncVal (s : State) (g n k c : Nat) : (bump s g n k).syncVal c = s.syncVal c := by simp [State.syncVal]
@[simp] theorem takeCatch_syncVal (s : State) (r c : Nat) : (takeCatch s r).syncVal c = s.syncVal c := by simp [State.syncVal]
@[simp] theorem raise_sq (s : State) (code src addr data i : Nat) :
    (raise s code src addr data).sq i = s.sq i := by simp [State.sq]
@[simp] theorem bump_sq (s : State) (g n k i : Nat) : (bump s g n k).sq i = s.sq i := by simp [State.sq]
@[simp] theorem raise_cq (s : State) (code src addr data i : Nat) :
    (raise s code src addr data).cq i = s.cq i := by simp [State.cq]
@[simp] theorem bump_cq (s : State) (g n k i : Nat) : (bump s g n k).cq i = s.cq i := by simp [State.cq]

/-- A counter that does not saturate takes the sum, and nothing else changes (R598). -/
theorem bump_plain (s : State) {g n k : Nat} (h0 : s.regBit (g + 0xF0) n = false)
    (h : s.reg64 (g + 0x100 + 8 * n) + k < 2 ^ 64) :
    bump s g n k = s.setReg64 (g + 0x100 + 8 * n) (s.reg64 (g + 0x100 + 8 * n) + k) := by
  unfold bump bumpWith bumpRaw
  rw [if_neg (by rw [h0]; exact Bool.false_ne_true)]
  simp only [if_pos h]

end Sys2Proof.Machine
end

