-- ==== Sys2Proof/Laws/Rings.lean ====
section
/-! SUPPORT. How a ring command comes to its own work, and what accepting it changes (R554 to R557). -/

namespace Sys2Proof.Machine

theorem frame_hif (s : State) (h : Hif) : RingFrame s { s with hif := h } :=
  ⟨⟨_, _, _, rfl⟩, fun _ _ => rfl, fun _ _ => rfl⟩

theorem setSq_frame (s : State) (i : Nat) (q : SubRing) : RingFrame s (setSq s i q) := frame_hif ..
theorem setCq_frame (s : State) (j : Nat) (q : CompRing) : RingFrame s (setCq s j q) := frame_hif ..
theorem markStarted_frame (s : State) (c : CmdCtx) : RingFrame s (markStarted s c) := frame_hif ..

theorem accept_frame (s : State) (c : CmdCtx) (op : Nat) : RingFrame s (accept s c op) := by
  unfold accept
  exact (frame_hif s _).trans ((frame_hif (setSq s c.sq.toNat _) _).trans (bump_frame _ _ (by decide)).ring)

@[simp] theorem sq_setSq_self (s : State) (i : Nat) (q : SubRing) : (setSq s i q).sq i = q := by
  simp [State.sq, setSq, kvGetD, kvGet_kvSet_self]
theorem sq_setSq_ne (s : State) {i k : Nat} (q : SubRing) (h : k ≠ i) : (setSq s i q).sq k = s.sq k := by
  simp [State.sq, setSq, kvGetD, kvGet_kvSet_ne _ _ h]
@[simp] theorem cq_setCq_self (s : State) (i : Nat) (q : CompRing) : (setCq s i q).cq i = q := by
  simp [State.cq, setCq, kvGetD, kvGet_kvSet_self]
theorem cq_setCq_ne (s : State) {i k : Nat} (q : CompRing) (h : k ≠ i) : (setCq s i q).cq k = s.cq k := by
  simp [State.cq, setCq, kvGetD, kvGet_kvSet_ne _ _ h]
@[simp] theorem sq_setCq (s : State) (i k : Nat) (q : CompRing) : (setCq s i q).sq k = s.sq k := rfl
@[simp] theorem cq_setSq (s : State) (i k : Nat) (q : SubRing) : (setSq s i q).cq k = s.cq k := rfl

/-- Acceptance takes the entry from the front of its ring. -/
theorem accept_sq (s : State) (c : CmdCtx) (op : Nat) :
    (accept s c op).sq c.sq.toNat = { s.sq c.sq.toNat with fetched := (s.sq c.sq.toNat).fetched.drop 1 } := by
  simp only [accept, bump_sq]
  exact sq_setSq_self ..

theorem accept_sq_ne (s : State) (c : CmdCtx) (op : Nat) {i : Nat} (h : i ≠ c.sq.toNat) :
    (accept s c op).sq i = s.sq i := by
  simp only [accept, bump_sq]
  exact sq_setSq_ne _ _ h

@[simp] theorem accept_cq (s : State) (c : CmdCtx) (op j : Nat) : (accept s c op).cq j = s.cq j := by
  simp only [accept, bump_cq]
  rfl

/-- Acceptance makes the command the youngest outstanding one. -/
theorem accept_outCmds (s : State) (c : CmdCtx) (op : Nat) : (accept s c op).hif.outCmds =
    s.hif.outCmds ++ [{ ctx := c, opcode := op, started := false, phase := (s.sq c.sq.toNat).phaseId, discard := false }] := by
  simp [accept, setSq]

@[simp] theorem accept_syncOps (s : State) (c : CmdCtx) (op : Nat) : (accept s c op).hif.syncOps = s.hif.syncOps := by
  simp [accept, setSq]

@[simp] theorem scopeFault_accept (s : State) (c : CmdCtx) (op : Nat) :
    scopeFault (accept s c op) c op = scopeFault s c op := by
  simp [scopeFault, State.bound, (accept_frame s c op).job]

/-- A command that is ready and in scope is accepted and does its work. -/
theorem onRing_ready {s : State} {c : CmdCtx} {op : Nat} {ops : List (Nat × List Byte)} (body : State → State)
    (h : s.ready c op ops = true) (hs : scopeFault s c op = 0) :
    onRing s c op ops body = .next (afterCommand (body (accept s c op)) c) := by
  simp only [onRing, h, Bool.not_true, Bool.false_eq_true, if_false, scopeFault_accept, hs, bne_self_eq_false, afterCommand]

/-- A command whose entry does not stand at its ring's front leaves the state as it was (log 1). -/
theorem onRing_waits {s : State} {c : CmdCtx} {op : Nat} {ops : List (Nat × List Byte)} (body : State → State)
    (h : s.ready c op ops = false) : onRing s c op ops body = .next s := by
  simp [onRing, h]

/-- A command out of its scope completes with the scope's status (R556). -/
theorem onRing_scope {s : State} {c : CmdCtx} {op : Nat} {ops : List (Nat × List Byte)} (body : State → State)
    (h : s.ready c op ops = true) (hs : scopeFault s c op ≠ 0) :
    onRing s c op ops body = .next (afterCommand (finish (accept s c op) c (scopeFault s c op) 0) c) := by
  simp [onRing, h, hs, afterCommand]

end Sys2Proof.Machine
end

