-- ==== Sys2Proof/Tests/Slice0.lean ====
section
/-! SUPPORT. Tests of the model on small states: ill-formed commands are refused by `Instr.wf`, the words of Tables 3.8 and 9.3
are spelled as the manual's bit layouts say, and for every statement with hypotheses a state and operands that meet them. -/

namespace Sys2Proof.Tests

-- Each theorem is checked in turn: checked side by side, their threads exceed the memory that one compile is given.
set_option Elab.async false

open Sys2Proof Sys2Proof.Machine

/-! ## States -/

/-- A powered package whose endpoint is out of reset. -/
def on : State := { State.reset with pins := { State.reset.pins with powered := true, pkgReady := true, perst := false } }

/-- A memory plan with 1 MiB of host memory. -/
def plan : MemPlan := { checkFrames := [0, 0, 0, 0], ckptEn := false, hostBase := 0x100000000000, hostLimit := 0x100000100000 }

/-- A checkpoint plan of one page. -/
def ckptPlan : CkptPlan :=
  { buddyRank := 0, wardRank := 0, vbase := 0, vbytes := 0x200000, wardStore := 0, hostStore := 0x100000000000, intervalMs := 0,
    intervalStrokes := 1, copyRate := 0, restoreRate := 0, resClear := true }

/-- A launch with no checkpoints. -/
def launch : LaunchBody :=
  { mode := 0, seed := 0, logicalTiles := 128, startStroke := 0, gen := 0, nondetBase := 0, programDigest := shake256 [], plan := plan,
    ckpt := ckptPlan, hintCount := 0 }

/-- A job of members 1 and 2, running as rank 0. -/
def job : Job :=
  { tag := 5, epoch := 1, rank := 0, members := [1, 2], phase := .running, launch := some launch, image := none, forwarded := true,
    forwardedAt := 0, childAcks := [], hintPages := [], timeSeed := 0, programDigest := shake256 [], shrunk := false, oldMembers := 2 }

/-- The package with the job. -/
def jobOn : State := { on with job := some job }

/-- A state at a time. -/
def atTime (s : State) (ns : U64) : State := { s with tim := { s.tim with now := ns } }

/-- A command context on host ring 0. -/
def ctx : CmdCtx := ⟨0, 7, false, false⟩

/-- The state with the command's entry at the front of its ring. -/
def front (s : State) (op : Nat) (ops : List (Nat × List Byte)) : State :=
  { s with hif := { s.hif with sqs := [(0, { SubRing.off with state := 1, fetched := [(0, entryBytes ctx op ops)] })] } }

/-- Tile 0 of die 0. -/
def tile0 : TileId := ⟨0, 0⟩

/-- A launch of a script in host memory. -/
def script : TileLaunch :=
  { script := 0x100000000000, args := List.replicate 8 9, clearFlags := true, phase := 0, cmd := ctx, order := 0 }

/-- Tile 0 running at a word in host memory, with a descriptor at 0 of its store. -/
def running (cls op : Nat) (w : TWord) (store : Memory) : State :=
  { jobOn with hostMem := Memory.write [] 0 (tileWordBytes cls op w),
               tiles := [(tile0, { Tile.reset with phase := .running, pc := 0x100000000000, running := some script, store := store })] }

/-- A tile word without arguments. -/
def w0 : TWord := ⟨0, 0, 0, 0⟩

/-- Core 0 running at address 0 of host memory. -/
def core (x : Core) (word : Nat) : State :=
  { jobOn with hostMem := Memory.write [] 0 (leBytes 4 word), cores := [(0, { x with phase := .running, pc := 0x100000000000, ven := true })] }

/-- A span word without operands. -/
def v0 : VWord := ⟨false, 2, 0, false, 0, 0, 0, 0⟩

/-! ## Well-formed commands (WellFormed.lean) -/

theorem test_wf_tile : Instr.wf (.tileNop ⟨0, 143⟩ w0) = true ∧ Instr.wf (.tileNop ⟨0, 144⟩ w0) = false := by decide
theorem test_wf_core : Instr.wf (.supcall 95) = true ∧ Instr.wf (.supcall 96) = false := by decide
theorem test_wf_scal : Instr.wf (.kand 0 v0) = true ∧ Instr.wf (.kand 0 { v0 with scal := true }) = false := by decide
theorem test_wf_bridge : Instr.wf (.bridgeCrcRetry 7 799) = true ∧ Instr.wf (.bridgeCrcRetry 8 200) = false ∧ Instr.wf (.bridgeWireSpared 12) = false := by decide
theorem test_wf_die : Instr.wf (.dieHeartbeat 5) = true ∧ Instr.wf (.dieHeartbeat 6) = false := by decide
theorem test_wf_phys_core : Instr.wf (.steerCoreFault 103) = true ∧ Instr.wf (.steerCoreFault 104) = false := by decide
theorem test_wf_pass : Instr.wf (.passInterrupt 0 511) = true ∧ Instr.wf (.passInterrupt 0 512) = false := by decide
theorem test_wf_nonce : Instr.wf (.attest ctx (zeroBytes 32) 0) = true ∧ Instr.wf (.attest ctx (zeroBytes 31) 0) = false := by decide
theorem test_wf_waiter : Instr.wf (.waitPoll (.core 95)) = true ∧ Instr.wf (.waitPoll (.core 96)) = false ∧ Instr.wf (.waitPoll (.tile ⟨0, 144⟩)) = false := by decide
theorem test_wf_units : Instr.wf (.powerUp ⟨0, false, false, [.wire 8 209], [5], [7]⟩) = true ∧
    Instr.wf (.powerUp ⟨0, false, false, [.wire 8 210], [], []⟩) = false ∧ Instr.wf (.powerUp ⟨0, false, false, [], [6], []⟩) = false ∧
    Instr.wf (.powerUp ⟨0, false, false, [], [], [8]⟩) = false := by decide

/-- A packet header with one line. -/
def hdr : PktHdr :=
  { combinable := false, retry := false, combined := false, last := true, lines := 1, op := 1, jobTag := 5, epoch := 1, srcId := 2,
    dstId := 0, seq := 0, addr := 0, released := 0, crcOk := true }

theorem test_wf_data : Instr.wf (.write 0 hdr (zeroBytes 128)) = true ∧ Instr.wf (.write 0 hdr (zeroBytes 127)) = false ∧
    Instr.wf (.bulk 0 hdr ⟨0, 1, 0⟩ []) = false ∧ Instr.wf (.writeMasked 0 hdr 0 0 (zeroBytes 64)) = false ∧
    Instr.wf (.readResp 0 hdr (zeroBytes 128) []) = false ∧ Instr.wf (.msg 0 hdr (zeroBytes 1025)) = false ∧
    Instr.wf (.collData 0 hdr ⟨0, 0, 0, 0⟩ (zeroBytes 1025)) = false := by decide +kernel
theorem test_wf_lists : Instr.wf (.rebalanceReport 0 []) = false ∧ Instr.wf (.allocation ⟨0, 0, 0, [], 5200, 0⟩) = false ∧
    Instr.wf (.junctionTempSample [] 0 0) = false ∧ Instr.wf (.dbgUnlock []) = false := by decide
theorem test_wf_launch : Instr.wf (.launch .tray { launch with programDigest := [] }) = false ∧
    Instr.wf (.launch .tray { launch with programDigest := zeroBytes 64, plan := { plan with checkFrames := [] } }) = false := by decide

/-! ## Words -/

/-- SET S3 ← 0x0102: CLASS 0, OP 4, SA 3 (Table 3.8). -/
theorem test_word_set : tileWord 0 4 ⟨3, 0, 0, 0x0102⟩ = 0b0011_00000100_0000 + 0x0102 * 2 ^ 64 := by decide
/-- BRNZ S1, −1: CLASS 0, OP 3, SA 1, ARG1 all ones. -/
theorem test_word_brnz : tileWord 0 3 ⟨1, 0, 0xFFFFFFFF, 0⟩ = 0x0000_0000_0000_0000_FFFF_FFFF_0000_1030 := by decide
/-- EADD with its descriptor at ARG0 = 2: CLASS 2, OP 1. -/
theorem test_word_eadd : (tileWordBytes 2 1 ⟨0, 2, 0, 0⟩).take 4 = [0x12, 0x00, 0x02, 0x00] := by decide
/-- VADD V3, V2, V1 at EW 32: MAJOR 0xB, OP 0, EW 2 (Table 9.3). -/
theorem test_word_vadd : spanWord 0xB 0 { v0 with vs2 := 2, vs1 := 1, vd := 3 } = 0b1011_000000_10_00_0_00_00010_00001_00011 := by decide
/-- The scalar form sets OP[5]. -/
theorem test_word_scalar : spanWord 0xB 0 { v0 with scal := true } = 0xB820_0000 := by decide

/-! ## Witnesses: stepping and BAR0 -/

theorem test_witness_IdleStepCountsTime : on.pending = [] ∧ on.pins.powered = true ∧ on.tim.slew = 0 ∧ on.tim.now.toNat + 2 < 2 ^ 64 ∧
    State.reset.pins.powered = false ∧ State.reset.pending = [] := by decide

theorem test_witness_RegisterAccesses_reads : let off := hifBase + 8; let s := { on with latches := [(hifBase + 8, 3)] }
    on.badOffset off = false ∧ isLow64 off = true ∧ on.badOffset (off + 4) = false ∧ isLow64 (off + 4) = false ∧ s.badOffset (off + 4) = false ∧
    kvGet s.latches off = some 3 ∧ kvGet on.latches off = none ∧ off + 4 < 2 ^ 26 := by decide +kernel

/-- `o` is a register of a kind and access code at offset `r` of its block, which `s` accepts. -/
def hasReg (s : State) (o : Nat) (k : BlkKind) (a : Access) (r : Nat) : Bool :=
  !s.badOffset o && o % 4 == 0 && o < 2 ^ 26 &&
  (match blockAt o, regDef o with | some b, some d => b.kind == k && d.acc == a && o - b.base == r | _, _ => false)

theorem test_witness_RegisterAccesses_readOnly : hasReg on 0 .glb .ro 0 = true := by decide +kernel
theorem test_witness_RegisterAccesses_locked : let s := on.setReg 8 1; hasReg s (stackBase 0 + 8) .stack .rwl 8 = true ∧ s.regBit 8 0 = true := by decide +kernel
theorem test_witness_RegisterAccesses_plain : hasReg on snapBase .snap .rw 0 = true := by decide +kernel
theorem test_witness_RegisterAccesses_power : on.regBit 8 0 = false ∧ hasReg on (pwrBase + 4) .pwr .rw 4 = true ∧ hasReg on (pwrBase + 0x24) .pwr .rwl 0x24 = true ∧
    hasReg on (pwrBase + 0x13FC) .pwr .rw 0x13FC = true := by decide +kernel
theorem test_witness_RegisterAccesses_time : on.regBit 8 0 = false ∧ hasReg on (timBase + 0xC) .tim .rwl 0xC = true := by decide +kernel
theorem test_witness_RegisterAccesses_port : on.regBit 8 0 = false ∧ hasReg on (portBase 15 + 4) .port .rwl 4 = true ∧ on.fab.ports.length = 16 := by decide +kernel
theorem test_witness_RegisterAccesses_host : hasReg on (hifBase + 4) .hif .rw 4 = true ∧ hasReg on (hifBase + 0x1C) .hif .rw 0x1C = true ∧
    hasReg on (hifBase + 0x101FF8) .hif .rw 0x101FF8 = true ∧ hasReg on (hifBase + 0xC) .hif .rw 0xC = true ∧ hasReg on (hifBase + 0x24) .hif .rw 0x24 = true ∧
    hasReg on (hifBase + 0x17E4) .hif .rw 0x17E4 = true ∧ hasReg on (hifBase + 0x27E4) .hif .rw 0x27E4 = true ∧
    hasReg on (hifBase + 0x101FFC) .hif .rw 0x101FFC = true := by decide +kernel

theorem test_witness_BadAccess : regDef 0xFC = none ∧ unlistedReg 0xFC = false ∧ regDef 1 = none ∧ unlistedReg 1 = false ∧ on.regBit 0xF0 0 = false ∧ on.reg64 0x100 + 1 < 2 ^ 64 ∧
    on.setupOnly = false := by decide +kernel

theorem test_witness_ActingRegisters_clear : ∃ b, blockAt (hifBase + 0xF4) = some b ∧ (∃ n, (0, n) ∈ counterGroups b.kind) ∧ b.base = hifBase ∧
    on.badOffset (hifBase + 0xF4) = false := ⟨_, rfl, ⟨_, List.mem_cons_self ..⟩, by decide, by decide⟩
theorem test_witness_ActingRegisters : on.setupOnly = false ∧ on.regBit 8 0 = false ∧ tile0.ok = true ∧ on.holding = false ∧
    on.regBit (hifBase + 0x14) 0 = false ∧ on.reg64 (hifBase + 0x18) % 4096 = 0 ∧ bitOf 1 0 = true := by decide +kernel

/-! ## Keys under which every message verifies -/

/-- The identity point as a public key: with it as R and S = 0 the verification of RFC 8032 accepts every message. -/
def idKey : List Byte := leBytes 57 1

/-- The signature that `idKey` accepts. -/
def idSig : List Byte := leBytes 114 1

/-- SHAKE256 of the empty string with 512 bits of output, as FIPS 202's examples give it. -/
def emptyDigest : List Byte := leBytes 64 0xbec4b7b3ac2e294086b49a47491c82fcf692b5679d0105cb00f2c0d8ddc45dd72f76d56e64270cb5821bb862ea52cd3f24eb3e74eb3f3b23138da80b2bddb946

theorem test_shake256_empty : shake256 [] = emptyDigest := by decide +kernel

/-- A header, its signatures and the padding of an image of a component without payload (Table 17.4). -/
def emptyImage (c : Nat) : List Byte :=
  padTo 512 (fwMagic ++ leBytes 1 c ++ leBytes 1 0xB1 ++ zeroBytes 2 ++ leBytes 4 1 ++ leBytes 4 0 ++ zeroBytes 4 ++ leBytes 8 0 ++ emptyDigest ++ idSig ++ idSig)

/-- An update package of three images that verify under `idKey`. -/
def emptyPackage : List Byte := emptyImage 0 ++ emptyImage 1 ++ emptyImage 2

/-- A package whose firmware key is `idKey`, with bytes at host address 0x9000. -/
def keyed (s : State) (bs : List Byte) : State :=
  { s with flash := { s.flash with firmwareKey := idKey }, hostMem := Memory.write s.hostMem 0x9000 bs }

theorem evalNat_eq {α : Type} (n : Nat) (f : Nat → α) : evalNat n f = f n := by cases n <;> rfl

theorem addTimes_zero (f n : Nat) : EdPoint.addTimes f n EdPoint.zero EdPoint.zero = EdPoint.zero := by
  induction f generalizing n with
  | zero => rfl
  | succ f ih =>
    have h : EdPoint.zero.add EdPoint.zero = EdPoint.zero := by decide +kernel
    unfold EdPoint.addTimes
    rw [h]
    split
    · rfl
    · simp only [ite_self, evalNat_eq]
      exact ih (n / 2)

theorem test_ed448_identity (context : String) (msg : List Byte) : ed448Verify idKey context msg idSig = true := by
  have hk : decodePoint idKey = some EdPoint.zero := by decide +kernel
  have hr : decodePoint (idSig.take 57) = some EdPoint.zero := by decide +kernel
  have hs : leNat (idSig.drop 57) = 0 := by decide +kernel
  have hb : (EdPoint.base.times 0).fourfold = EdPoint.zero.fourfold := by decide +kernel
  have hl : (idKey.length == 57 && idSig.length == 114 && decide (0 < edL)) = true := by decide +kernel
  have hz : EdPoint.zero.fourfold.same EdPoint.zero.fourfold = true := by decide +kernel
  simp only [ed448Verify, evalNat_eq, hk, hr, hs, addTimes_zero, hb, hz, Bool.and_true]
  exact hl

/-- The images of the package. -/
def emptyImages : List Image := [parseImage (emptyImage 0), parseImage (emptyImage 1), parseImage (emptyImage 2)]

theorem test_parse_package : parsePackage emptyPackage = some emptyImages := by decide +kernel

theorem emptyImage_ok : ∀ c < 3, imageFormatOk (parseImage (emptyImage c)) c = true ∧ (parseImage (emptyImage c)).stepping = 0xB1 ∧
    (parseImage (emptyImage c)).factory = false ∧ (parseImage (emptyImage c)).payload = [] ∧
    (parseImage (emptyImage c)).digest = emptyDigest ∧ (parseImage (emptyImage c)).beygilSig = idSig := by decide +kernel

theorem imageStatus_empty (s : State) (c : Nat) (hc : c < 3) (hk : s.flash.firmwareKey = idKey) (hp : bitOf s.sec.ownerPolicy.toNat 0 = false)
    (hr : s.flash.rollback.getD c 0 = 0) : imageStatus s (parseImage (emptyImage c)) c false = 0 := by
  have h := emptyImage_ok c hc
  simp only [imageStatus, imageSigned, h.1, h.2.1, h.2.2.1, h.2.2.2.1, h.2.2.2.2, test_shake256_empty, hk, hp, hr, test_ed448_identity]
  rfl

theorem packageStatus_empty (s : State) (hk : s.flash.firmwareKey = idKey) (hp : bitOf s.sec.ownerPolicy.toNat 0 = false)
    (hr : s.flash.rollback = [0, 0, 0]) : packageStatus s emptyPackage = 0 := by
  have hl : (0x3000000 < emptyPackage.length) = False := by simp only [eq_iff_iff, iff_false]; decide +kernel
  have h (c : Nat) (hc : c < 3) := imageStatus_empty s c hc hk hp (by rw [hr]; revert c; decide)
  simp only [packageStatus, hl, if_false, test_parse_package, imagesStatus, emptyImages, List.mapIdx, List.mapIdx.go]
  simp [h 0, h 1, h 2]
theorem keyed_hostMem (s : State) (bs : List Byte) : (keyed s bs).hostMem = Memory.write s.hostMem 0x9000 bs := rfl

/-- A setup-only package with an empty mailbox. -/
def setup : State := { on with sec := { on.sec with romRecovery := true, bootStatus := 0x8900 } }

theorem test_witness_ActingRegisters_mailboxRefuses : setup.setupOnly = true ∧ setup.regBit (pmcBase + 0x30) 0 = false ∧ setup.sec.updating = none ∧
    bitOf (1 : U32).toNat 0 = true ∧ packageStatus setup (Memory.read setup.hostMem (setup.reg64 (pmcBase + 0x20)) (setup.reg (pmcBase + 0x28))) ≠ 0 := by decide +kernel

/-- The state with its mailbox naming those bytes. -/
def boxed (s : State) : State := (s.setReg64 (pmcBase + 0x20) 0x9000).setReg (pmcBase + 0x28) 1536

theorem boxed_hostMem (s : State) : (boxed s).hostMem = s.hostMem := rfl

/-- The mailbox with a package of images that verify. -/
def mailbox : State := boxed (keyed setup emptyPackage)

theorem length_package : emptyPackage.length = 1536 := by decide +kernel

/-- Host memory that holds the package reads as the package. -/
theorem read_package (m : Memory) : Memory.read (Memory.write m 0x9000 emptyPackage) 0x9000 1536 = emptyPackage :=
  (congrArg (Memory.read (Memory.write m 0x9000 emptyPackage) 0x9000) length_package.symm).trans (Memory.read_write m 0x9000 emptyPackage)

theorem test_witness_ActingRegisters_mailboxLoads : mailbox.setupOnly = true ∧ mailbox.regBit (pmcBase + 0x30) 0 = false ∧ mailbox.sec.updating = none ∧
    packageStatus mailbox (Memory.read mailbox.hostMem (mailbox.reg64 (pmcBase + 0x20)) (mailbox.reg (pmcBase + 0x28))) = 0 :=
  ⟨by decide, by decide, by decide, by
    rw [show mailbox.reg64 (pmcBase + 0x20) = 0x9000 by decide, show mailbox.reg (pmcBase + 0x28) = 1536 by decide,
      mailbox, boxed_hostMem, keyed_hostMem, read_package, packageStatus_empty _ rfl rfl rfl]⟩

/-! ## Witnesses: rings -/

/-- A package with its doorbell block at 0x1000 and ring 0's base at 0x2000. -/
def rings : State := (on.setReg64 (hifBase + 8) 0x1000).setReg64 (hifBase + 0x1000) 0x2000

/-- Completion ring 0 enabled at 0x3000 with 16 entries. -/
def cqReady : State := (rings.setReg64 (hifBase + 0x2000) 0x3000).setReg (hifBase + 0x2008) (4 + 2 ^ 14)

theorem test_witness_RingEnable_sq : bitOf (cqReady.sqCfg 0) 12 = false ∧ cqReady.ringOk (cqReady.reg64 (hifBase + 0x1000)) 4 = true ∧
    cqReady.cqOn 0 = true ∧ (cqReady.cq 0).stopped = false ∧ bitOf 4 5 = bitOf (cqReady.cqCfg 0) 31 ∧
    cqReady.ringOk (cqReady.reg64 (hifBase + 0x1000)) 3 = false ∧ cqReady.ringOk (cqReady.reg64 (hifBase + 0x1000)) 17 = false ∧
    cqReady.setupOnly = false := by decide +kernel
theorem test_witness_RingEnable_off : bitOf ((cqReady.setReg (hifBase + 0x1008) 0x1004).sqCfg 0) 12 = true ∧
    bitOf (cqReady.cqCfg 0) 14 = true ∧ cqReady.cqNamed 0 = false ∧ (cqReady.setReg (hifBase + 0x1008) 0x1004).cqNamed 0 = true := by decide +kernel
theorem test_witness_RingEnable_cq : bitOf (cqReady.cqCfg 1) 14 = false ∧ (cqReady.cq 1).held = [] ∧
    (cqReady.setReg64 (hifBase + 0x2020) 0x4000).ringOk 0x4000 16 = true ∧ cqReady.regBit (hifBase + 0x28) 14 = false ∧
    cqReady.hif.evqHeld = 0 ∧ (cqReady.setReg64 (hifBase + 0x20) 0x5000).ringOk ((cqReady.setReg64 (hifBase + 0x20) 0x5000).reg64 (hifBase + 0x20)) 4 = true := by
  decide +kernel

theorem test_witness_HostCommands : AtTurn (front on 0 []) ctx 0 [] ∧ AtTurn (front on 2 [opnd 8 1 7]) ctx 2 [opnd 8 1 7] ∧
    AtTurn (front on 1 [opnd 8 8 0x1000]) ctx 1 [opnd 8 8 0x1000] ∧ AtTurn (front on 1 [opnd 8 8 0x1001]) ctx 1 [opnd 8 8 0x1001] ∧
    AtTurn (front on 0x71 []) ctx 0x71 [] := by
  refine ⟨⟨?_, ?_⟩, ⟨?_, ?_⟩, ⟨?_, ?_⟩, ⟨?_, ?_⟩, ⟨?_, ?_⟩⟩ <;> decide +kernel

/-- Internal completion ring 0 enabled. -/
def intCq (s : State) : State := { s with hif := { s.hif with cqs := [(64, { CompRing.off with enabled := true })] } }
/-- Internal submission ring 0 enabled. -/
def intSq (s : State) : State := { s with hif := { s.hif with sqs := s.hif.sqs ++ [(64, { SubRing.off with state := 1 })] } }

theorem test_witness_InternalRings :
    (let ops := ringIntSetup 0x1000 0x2000 0 4 0 ++ [opnd 0x1B 1 0]; let s := intCq (front jobOn 0x72 ops)
      AtTurn s ctx 0x72 ops ∧ intRingOk 0x1000 0x2000 0 4 = true ∧ (s.sq 64).state = 0 ∧ (s.sq 64).closing = false ∧ s.cqOn 64 = true) ∧
    (let ops := ringIntSetup 0x1000 0x2000 63 16 1 ++ [opnd 0x1C 2 0xFFFF]; let s := front jobOn 0x72 ops
      AtTurn s ctx 0x72 ops ∧ intRingOk 0x1000 0x2000 63 16 = true ∧ s.cqOn 127 = false ∧ (s.cq 127).held = []) ∧
    (let s := intSq (front jobOn 0x72 (ringIntKind 0 2)); AtTurn s ctx 0x72 (ringIntKind 0 2) ∧ (s.sq 64).state ≠ 0) ∧
    (let s := intCq (front jobOn 0x72 (ringIntKind 0 3)); AtTurn s ctx 0x72 (ringIntKind 0 3) ∧ s.intCqNamed 0 = false) := by
  refine ⟨⟨⟨?_, ?_⟩, ?_⟩, ⟨⟨?_, ?_⟩, ?_⟩, ⟨⟨?_, ?_⟩, ?_⟩, ⟨⟨?_, ?_⟩, ?_⟩⟩ <;> decide +kernel

theorem test_witness_MemMap : (let ops := [opnd 8 8 0, opnd 0x10 8 0, opnd 0x18 4 1, opnd 0x1C 1 0b0000011]; let s := front { jobOn with job := some { job with launch := some { launch with plan := { plan with checkFrames := [1, 0, 0, 0] } } } } 0x10 ops
      AtTurn s ctx 0x10 ops ∧ s.framesHeld 0 1 = false ∧ mapFault s 0 0 1 0b0000011 = 0) ∧
    (let ops := [opnd 8 8 0, opnd 0x10 4 1]; AtTurn (front jobOn 0x11 ops) ctx 0x11 ops ∧ jobOn.mem.windowOpen = false) := by
  refine ⟨⟨⟨?_, ?_⟩, ?_, ?_⟩, ⟨?_, ?_⟩, ?_⟩ <;> decide +kernel

theorem test_witness_Copy : (let ops := [opnd 8 8 0x100000000000, opnd 0x10 8 0x100000000080, opnd 0x18 8 128]; let s := front jobOn 0x12 ops
      AtTurn s ctx 0x12 ops ∧ resolve s 0x100000000000 false = .ok (.host 0) ∧ resolve s 0x100000000080 true = .ok (.host 0x80) ∧
      resolve s 0x100000000080 false = .ok (.host 0x80) ∧ overlaps 0x100000000000 128 0x100000000080 128 = false) ∧
    (let ops := [opnd 8 8 0x10000000000, opnd 0x10 8 0, opnd 0x18 8 1]; AtTurn (front jobOn 0x12 ops) ctx 0x12 ops ∧ touchesStore 0x10000000000 1 = true) ∧
    overlaps 0 129 128 129 = true ∧
    (let k : CopyState := { cmd := ctx, src := 0, dst := 0, left := 0, status := 0 };
      [k].find? (fun x => x.cmd == ctx) = some k) := by
  refine ⟨⟨⟨?_, ?_⟩, ?_⟩, ⟨⟨?_, ?_⟩, ?_⟩, ?_⟩ <;> decide +kernel

theorem test_witness_SyncCommands :
    (let ops := syncOperands 3 0xFFFFFFFF 0 1; AtTurn (front jobOn 0x44 ops) ctx 0x44 ops ∧ memberTarget (front jobOn 0x44 ops) 0xFFFFFFFF = .ok none ∧
      (front jobOn 0x44 ops).hif.syncOps = [] ∧ (front jobOn 0x44 ops).ringBusy 0 = false) ∧
    (let ops := syncOperands 3 0xFFFFFFFF 16382 2; AtTurn (front jobOn 0x44 ops) ctx 0x44 ops) ∧
    (let ops := [opnd 8 8 0, opnd 0x10 2 16383]; AtTurn (front jobOn 0x45 ops) ctx 0x45 ops ∧ 0 ≤ jobOn.syncVal 16383) ∧
    (let ops := [opnd 8 8 1, opnd 0x10 2 0]; AtTurn (front jobOn 0x45 ops) ctx 0x45 ops ∧ jobOn.syncVal 0 < 1) := by
  refine ⟨⟨⟨?_, ?_⟩, ?_⟩, ⟨?_, ?_⟩, ⟨⟨?_, ?_⟩, ?_⟩, ⟨?_, ?_⟩, ?_⟩ <;> decide +kernel

/-- A completion of the context's command. -/
def done0 : Completion := { ctx := ctx, status := 0, value := 0, head := 0, tEnd := 0 }

theorem test_witness_MessageCommands :
    (let ops := [opnd 8 8 0, opnd 0x10 8 128, opnd 0x18 2 7]; AtTurn (front jobOn 0x52 ops) ctx 0x52 ops ∧ jobOn.fab.bulkRegs.length < 4096) ∧
    AtTurn (front jobOn 0x53 [opnd 8 2 7]) ctx 0x53 [opnd 8 2 7] ∧ AtTurn (front jobOn 0x53 [opnd 8 2 0xFFFF]) ctx 0x53 [opnd 8 2 0xFFFF] ∧
    (let ops := [opnd 8 8 0x100000000000, opnd 0x10 8 1, opnd 0x18 4 1, opnd 0x1C 2 64, opnd 0x1E 1 0]; let s := front jobOn 0x50 ops
      AtTurn s ctx 0x50 ops ∧ s.rangeHeld 0x100000000000 64 = false ∧ s.memberId 1 = some 2 ∧ (readVA (accept s ctx 0x50) agentHost 0x100000000000 64).2.1 = 0) ∧
    (let ops := [opnd 8 8 0x100000000000, opnd 0x10 8 1, opnd 0x18 8 0, opnd 0x20 2 64, opnd 0x22 1 0]; let s := front jobOn 0x51 ops
      AtTurn s ctx 0x51 ops ∧ s.rangeHeld 0x100000000000 64 = false ∧ s.fab.unexpected = []) ∧
    (let ops := [opnd 8 8 0x100000000000, opnd 0x10 8 0, opnd 0x18 4 1, opnd 0x1C 4 1, opnd 0x20 4 9, opnd 0x24 2 7, opnd 0x26 2 0xFFFF]; let s := front jobOn 0x54 ops
      AtTurn s ctx 0x54 ops ∧ s.rangeHeld 0x100000000000 128 = false ∧ s.memberId 1 = some 2 ∧ (readVA (accept s ctx 0x54) agentHost 0x100000000000 128).2.1 = 0) := by
  refine ⟨⟨⟨?_, ?_⟩, ?_⟩, ⟨?_, ?_⟩, ⟨?_, ?_⟩, ⟨⟨?_, ?_⟩, ?_⟩, ⟨⟨?_, ?_⟩, ?_⟩, ⟨⟨?_, ?_⟩, ?_⟩⟩ <;> decide +kernel

theorem test_witness_InternalRings_named : let s := intSq (intCq (front jobOn 0x72 (ringIntKind 0 3)))
    AtTurn s ctx 0x72 (ringIntKind 0 3) ∧ s.intCqNamed 0 = true := by refine ⟨⟨?_, ?_⟩, ?_⟩ <;> decide +kernel

theorem test_witness_Copy_refused :
    (let ops := [opnd 8 8 0x100000000000, opnd 0x10 8 0x10000000000, opnd 0x18 8 1]; AtTurn (front jobOn 0x12 ops) ctx 0x12 ops ∧ touchesStore 0x10000000000 1 = true) ∧
    (let ops := [opnd 8 8 0x100000000000, opnd 0x10 8 0x100000000080, opnd 0x18 8 129]; AtTurn (front jobOn 0x12 ops) ctx 0x12 ops ∧
      overlaps 0x100000000000 129 0x100000000080 129 = true) := by refine ⟨⟨⟨?_, ?_⟩, ?_⟩, ⟨?_, ?_⟩, ?_⟩ <;> decide +kernel

/-- A message from member 1 that waits in the unexpected store. -/
def waitingMsg : Unexpected := { queue := 0, tag := 5, src := 2, payload := [1, 2] }

theorem test_witness_MessageCommands_recvTakes :
    let ops := [opnd 8 8 0x100000000000, opnd 0x10 8 5, opnd 0x18 8 0xF, opnd 0x20 2 1, opnd 0x22 1 0]
    let s := { front jobOn 0x51 ops with fab := { on.fab with unexpected := [waitingMsg] } }
    let r : Recv := { queue := 0, buf := 0x100000000000, tag := 5, mask := 0xF, bytes := 1, cmd := ctx }
    AtTurn s ctx 0x51 ops ∧ s.rangeHeld 0x100000000000 1 = false ∧ s.fab.unexpected.find? r.takes = some waitingMsg ∧
      (writeVA s agentHost 0x100000000000 (waitingMsg.payload.take 1)).2 = 0 := by
  refine ⟨⟨?_, ?_⟩, ?_⟩ <;> decide +kernel

theorem test_witness_MessageTaken : (let r : Recv := { queue := 1, buf := 0, tag := 4, mask := 0, bytes := 8, cmd := ctx };
    [({ queue := 1, tag := 5, src := 2, payload := [1] } : Unexpected)].find? r.takes = some { queue := 1, tag := 5, src := 2, payload := [1] }) := by decide

theorem test_witness_CompletionAtTail : cqReady.sqCq 0 = 0 ∧ cqReady.cqOn 0 = true ∧ (cqReady.cq 0).stopped = false ∧ (cqReady.cq 0).held = [] ∧
    cqReady.cqRoom 0 = true ∧ bitOf (cqReady.cqCfg 0) 31 = false ∧ cqReady.evqLog = 0 ∧ done0.ctx.sq.toNat < 64 ∧
    (∀ b, b < 32 → inEventRing cqReady (0x3000 + b) = false) := by decide +kernel

/-! ## Witnesses: tiles -/

theorem test_fetch_host : fetched (running 0 0 w0 []) tile0 = running 0 0 w0 [] := rfl

theorem test_witness_TileControl :
    TileAt (running 0 0 w0 []) tile0 0 0 w0 ∧ TileAt (running 0 4 ⟨15, 0, 0, 7⟩ []) tile0 0 4 ⟨15, 0, 0, 7⟩ ∧
    TileAt (running 0 5 ⟨0, 0xF, 0, 7⟩ []) tile0 0 5 ⟨0, 0xF, 0, 7⟩ ∧ ((running 0 0 w0 []).tile tile0).sregs.length = 16 ∧
    TileAt (running 0 3 ⟨0, 0, 1, 0⟩ []) tile0 0 3 ⟨0, 0, 1, 0⟩ ∧ ((running 0 3 ⟨0, 0, 1, 0⟩ []).tile tile0).s 0 = 0 := by
  refine ⟨⟨?_, ?_, ?_⟩, ⟨?_, ?_, ?_⟩, ⟨?_, ?_, ?_⟩, ?_, ⟨?_, ?_, ?_⟩, ?_⟩ <;> decide +kernel

/-- Tile 0 with a scalar register and loops. -/
def looping (cls op : Nat) (w : TWord) (v : U64) (fs : List LoopFrame) : State :=
  (running cls op w []).modTile tile0 (fun x => { x with sregs := List.replicate 16 v, loops := fs })

/-- A loop around the word. -/
def frame : LoopFrame := ⟨0x100000000000, 0x100000000020, 1⟩

theorem test_witness_TileLoop :
    (let w : TWord := ⟨1, 2, 0, 0⟩; let s := looping 0 2 w 3 [frame, frame, frame]
      TileAt s tile0 0 2 w ∧ (s.tile tile0).loops.length = 3 ∧ (s.tile tile0).s 1 ≠ 0 ∧ fetched s tile0 = s) ∧
    (let w : TWord := ⟨1, 2, 0, 0⟩; TileAt (looping 0 2 w 0 []) tile0 0 2 w ∧ ((looping 0 2 w 0 []).tile tile0).s 1 = 0) ∧
    (let w : TWord := ⟨1, 2, 0, 0⟩; let s := looping 0 2 w 3 [frame, frame, frame, frame]; TileAt s tile0 0 2 w ∧ 4 ≤ (s.tile tile0).loops.length) ∧
    (let w : TWord := ⟨1, 0, 0xFFFFFFFF, 0⟩; let s := looping 0 3 w 3 [frame]; TileAt s tile0 0 3 w ∧ (s.tile tile0).s 1 ≠ 0) := by
  refine ⟨⟨⟨?_, ?_, ?_⟩, ?_, ?_, ?_⟩, ⟨⟨?_, ?_, ?_⟩, ?_⟩, ⟨⟨?_, ?_, ?_⟩, ?_⟩, ⟨⟨?_, ?_, ?_⟩, ?_⟩⟩ <;> decide +kernel

theorem test_witness_TileSync :
    (let w : TWord := ⟨0, 16382, 0xFFFFFFFF, 5⟩; let s := running 4 1 w []
      TileAt s tile0 4 1 w ∧ (s.tile tile0).inflight = [] ∧ memberTarget s w.arg1 = .ok none) ∧
    (let w : TWord := ⟨0, 0, 0xFFFFFFFF, 5⟩; TileAt (running 4 2 w []) tile0 4 2 w) ∧
    (let w : TWord := ⟨0, 16383, 0, 0⟩; TileAt (running 4 3 w []) tile0 4 3 w ∧ (running 4 3 w []).syncVal 16383 = 0) ∧
    (let w : TWord := ⟨0, 0, 0, 1⟩; TileAt (running 4 3 w []) tile0 4 3 w ∧ ((running 4 3 w []).tile tile0).mustWait .sync [] [] = false) ∧
    TileAt (running 4 4 w0 []) tile0 4 4 w0 := by
  refine ⟨⟨⟨?_, ?_, ?_⟩, ?_, ?_⟩, ⟨?_, ?_, ?_⟩, ⟨⟨?_, ?_, ?_⟩, ?_⟩, ⟨⟨?_, ?_, ?_⟩, ?_⟩, ⟨?_, ?_, ?_⟩⟩ <;> decide +kernel

/-- A wait of a waiter for counter 0 to reach a value. -/
def waiting (who : Waiter) (v : U64) (polled : Bool) : State :=
  { jobOn with sync := { jobOn.sync with waits := [⟨who, 0, v, polled⟩] } }

theorem test_witness_Waits : (waiting (.tile tile0) 0 false).waitOf (.tile tile0) = some ⟨.tile tile0, 0, 0, false⟩ ∧
    (waiting (.core 0) 0 true).waitOf (.core 0) = some ⟨.core 0, 0, 0, true⟩ ∧ (waiting (.host ctx) 1 false).waitOf (.host ctx) = some ⟨.host ctx, 0, 1, false⟩ ∧
    jobOn.syncVal 0 = 0 ∧ (∃ o, ({ jobOn with hif := { jobOn.hif with outCmds := [⟨ctx, 0x45, true, 0, false⟩] } }).outCmd ctx = some o ∧ o.opcode = 0x45) :=
  ⟨by decide, by decide, by decide, by decide, _, rfl, rfl⟩

theorem test_witness_Flags : (let w : TWord := ⟨2, 0, 0, 0⟩; TileAt (running 5 1 w []) tile0 5 1 w) ∧ (let w : TWord := ⟨2, 1, 0, 0⟩; TileAt (running 5 1 w []) tile0 5 1 w) ∧
    (let w : TWord := ⟨0, 3, 0, 0⟩; TileAt (running 5 2 w []) tile0 5 2 w) := by
  refine ⟨⟨?_, ?_, ?_⟩, ⟨?_, ?_, ?_⟩, ⟨?_, ?_, ?_⟩⟩ <;> decide +kernel

/-- END with the TILE_RUN's record. -/
def ending (left : Nat) (worst : Option (Nat × TileId × Nat × U16)) : State :=
  { running 0 1 w0 [] with hif := { on.hif with tileRuns := [⟨ctx, left, worst⟩] } }

theorem test_witness_End : TileAt (ending 2 none) tile0 0 1 w0 ∧ ((ending 2 none).tile tile0).running = some script ∧ ((ending 2 none).tile tile0).inflight = [] ∧
    (ending 2 none).hif.tileRuns.find? (fun e => e.cmd == script.cmd) = some ⟨ctx, 2, none⟩ ∧ TileAt (ending 1 none) tile0 0 1 w0 ∧
    TileAt (ending 1 (some (0, tile0, 0, 0x8630))) tile0 0 1 w0 := by
  refine ⟨⟨?_, ?_, ?_⟩, ?_, ?_, ?_, ⟨?_, ?_, ?_⟩, ⟨?_, ?_, ?_⟩⟩ <;> decide +kernel

/-- Tile 0 with a launch that waits. -/
def launched : State := { jobOn with tiles := [(tile0, { Tile.reset with waiting := [script] })] }
/-- Tile 0 with an instruction in a unit. -/
def busyUnit (u : TileUnit) (d : Option DmaXfer) : State :=
  { jobOn with tiles := [(tile0, { Tile.reset with inflight := [⟨u, 3, 0, [], [], d⟩], zeroing := true })] }

theorem test_witness_End_last : (ending 1 none).hif.tileRuns.find? (fun e => e.cmd == script.cmd) = some ⟨ctx, 1, none⟩ ∧
    (ending 1 (some (0, tile0, 0, 0x8630))).hif.tileRuns.find? (fun e => e.cmd == script.cmd) = some ⟨ctx, 1, some (0, tile0, 0, 0x8630)⟩ := by decide

theorem test_witness_TileStarts : (launched.tile tile0).waiting = [script] ∧ (launched.tile tile0).running = none ∧ (launched.tile tile0).phase ≠ .faulty ∧
    (launched.tile tile0).zeroing = false ∧ (launched.tile tile0).reserved = none ∧ launched.holding = false ∧ script.clearFlags = true ∧
    (((busyUnit .matrix none).tile tile0).inflight.find? (fun e => e.unit == .matrix)).isSome = true ∧
    (((busyUnit .element none).tile tile0).inflight.find? (fun e => e.unit == .element)).isSome = true ∧
    ((busyUnit .element none).tile tile0).stopping = none ∧ ((busyUnit .element none).tile tile0).zeroing = true := by decide +kernel

theorem test_witness_TileRun :
    let ops := [opnd 8 8 0x100000000100, opnd 0x10 8 0x100000000200, opnd 0x18 2 127, opnd 0x1A 2 1, opnd 0x1C 1 8, opnd 0x1D 1 0]
    let s := front jobOn 0x20 ops
    AtTurn s ctx 0x20 ops ∧ badTileSet s 127 1 8 = false ∧ (tileSet s 127 1 8).map (fun e => e.2.2) = [⟨3, 127⟩] ∧ s.rangeHeld 0x100000000200 64 = false ∧
    (readArgs 1 0x100000000200 0 (accept s ctx 0x20) []).1.tiles = s.tiles ∧ (readArgs 1 0x100000000200 0 (accept s ctx 0x20) []).2.2 = none ∧
    (s.tile ⟨3, 127⟩).phase ≠ .faulty := by
  refine ⟨⟨?_, ?_⟩, ?_⟩ <;> decide +kernel

/-- Bytes of a record from (offset, byte) pairs. -/
def record (n : Nat) (l : List (Nat × Byte)) : List Byte := (List.range n).map (fun i => kvGetD l i 0)

/-- DMA of one row of 64 bytes between 0x80 of host memory and 0x40 of the store. -/
def dmaStore : Memory := Memory.write [] 0 (record 64 [(0, 0x80), (5, 0x10), (0x10, 0xFF), (0x11, 0xFF), (0x12, 0xFF), (0x13, 0xFF), (0x14, 1), (0x18, 64), (0x1C, 1)])

theorem test_witness_Dma :
    (let s := running 3 1 w0 dmaStore; let x := s.tile tile0; let d := dmaOf false (descOf x w0)
      TileAt s tile0 3 1 w0 ∧ CleanTile s tile0 ∧ descAddr x w0 = 0 ∧ x.inflight = [] ∧ dmaFault d = 0 ∧
      memberTarget s (BitVec.ofNat 32 (fieldLE (descOf x w0) 0x10 4)) = .ok none ∧ d.rows = 1 ∧ d.rowBytes = 64 ∧ d.vaddr.toNat % 128 = 0 ∧
      s.vaHeld d.vaddr.toNat = false ∧ resolve s d.vaddr.toNat false = .ok (.host 0x80)) ∧
    (let s := running 3 2 w0 dmaStore; let x := s.tile tile0; let d := dmaOf true (descOf x w0)
      TileAt s tile0 3 2 w0 ∧ CleanTile s tile0 ∧ dmaFault d = 0 ∧ d.rows = 1 ∧ d.rowBytes = 64 ∧ resolve s d.vaddr.toNat true = .ok (.host 0x80) ∧
      ∀ b < 64, inEventRing s (0x80 + b) = false) := by
  refine ⟨⟨⟨?_, ?_, ?_⟩, ⟨?_, ?_, ?_, ?_, ?_, ?_⟩, ?_⟩, ⟨?_, ?_, ?_⟩, ⟨?_, ?_, ?_, ?_, ?_, ?_⟩, ?_⟩ <;> decide +kernel

/-- A transfer out that has moved its last line. -/
def sentDma : DmaXfer := { dmaOf true (record 64 [(0x14, 1), (0x18, 64)]) with next := 1 }

theorem test_witness_DmaDone : ((busyUnit .dma (some sentDma)).tile tile0).inflight = [⟨.dma, 3, 0, [], [], some sentDma⟩] ∧ sentDma.out = true ∧
    sentDma.remote = none ∧ sentDma.pieces.length ≤ sentDma.next ∧ ((busyUnit .dma (some sentDma)).tile tile0).stopping = none := by decide +kernel

/-- One FP32 element: X = 1.5 at 64, Y = 2.25 at 128, Z at 192. -/
def eopStore (op0 : Byte) : Memory :=
  Memory.write (Memory.write (Memory.write [] 0 (record 64 [(0, 1), (1, 1), (2, 1), (3, 1), (4, 1), (6, op0), (0xC, 1), (0x10, 2), (0x14, 2), (0x18, 3), (0x1C, 4), (0x20, 5)]))
    64 [0, 0, 0xC0, 0x3F]) 128 [0, 0, 0x10, 0x40]

theorem test_witness_Element : let s := running 2 1 w0 (eopStore 0); let x := s.tile tile0; let d := parseEop (descOf x w0)
    elementOp (.eadd tile0 w0) = some (1, tile0, w0) ∧ TileAt s tile0 2 1 w0 ∧ CleanTile s tile0 ∧ x.inflight = [] ∧ eopFault s d 1 = 0 ∧
    d.cfmt = 1 ∧ d.fmtOut = 1 ∧ d.maskMode = 0 ∧ d.sr = false ∧ d.rows = 1 ∧ d.cols = 1 := by
  refine ⟨?_, ⟨?_, ?_, ?_⟩, ⟨?_, ?_, ?_, ?_, ?_, ?_⟩, ?_⟩ <;> decide +kernel

/-- 1.5 + 2.25 = 3.75 (R163). -/
theorem test_eadd : let s := running 2 1 w0 (eopStore 0); let x := s.tile tile0
    (eopEffect s (parseEop (descOf x w0)) x 1).writes = [(192, [0, 0, 0x70, 0x40])] := by decide +kernel
/-- 1.5 − 2.25 = −0.75. -/
theorem test_esub : let s := running 2 2 w0 (eopStore 0); let x := s.tile tile0
    (eopEffect s (parseEop (descOf x w0)) x 2).writes = [(192, [0, 0, 0x40, 0xBF])] := by decide +kernel
/-- 1.5 × 2.25 = 3.375. -/
theorem test_emul : let s := running 2 3 w0 (eopStore 0); let x := s.tile tile0
    (eopEffect s (parseEop (descOf x w0)) x 3).writes = [(192, [0, 0, 0x58, 0x40])] := by decide +kernel
/-- 1.5 × 2.25 + 2.25 = 5.625. -/
theorem test_efma : let s := running 2 4 w0 (eopStore 0); let x := s.tile tile0
    (eopEffect s (parseEop (descOf x w0)) x 4).writes = [(192, [0, 0, 0xB4, 0x40])] := by decide +kernel
/-- 1.5 / 2.25 = 2/3, rounded to 0x3F2A_AAAB. -/
theorem test_ediv : let s := running 2 5 w0 (eopStore 0); let x := s.tile tile0
    (eopEffect s (parseEop (descOf x w0)) x 5).writes = [(192, [0xAB, 0xAA, 0x2A, 0x3F])] := by decide +kernel

/-- One FP32 product: A = 1.5 at 64, B = 2.25 at 128, the output at 192. -/
def mmaStore : Memory :=
  Memory.write (Memory.write (Memory.write [] 0 (record 64 [(0, 0x11), (1, 1), (0x10, 1), (0x14, 2), (0x18, 3)])) 64 [0, 0, 0xC0, 0x3F]) 128 [0, 0, 0x10, 0x40]

theorem test_witness_Mma : let s := running 1 1 w0 mmaStore; let x := s.tile tile0; let d := parseMma (descOf x w0)
    TileAt s tile0 1 1 w0 ∧ CleanTile s tile0 ∧ x.inflight = [] ∧ mmaFault s tile0 d = 0 := by
  refine ⟨⟨?_, ?_, ?_⟩, ⟨?_, ?_, ?_, ?_, ?_, ?_⟩, ?_⟩ <;> decide +kernel

/-- 1.5 × 2.25 = 3.375. -/
theorem test_mma : let s := running 1 1 w0 mmaStore; let x := s.tile tile0
    (mmaEffect s (parseMma (descOf x w0)) x).writes = [(192, [0, 0, 0x58, 0x40])] := by decide +kernel

/-! ## Witnesses: power, resets, the host link and the ring engine -/

/-- Nothing failed, no straps. -/
def env : PowerUpEnv := ⟨2, false, true, [], [], []⟩
/-- A package with no committed bank. -/
def blank : State := { State.reset with flash := { State.reset.flash with banks := [{ seq := none, images := [] }, { seq := none, images := [] }] } }

theorem test_witness_PowerUp : State.reset.pins.powered = false ∧ selectBank (coldStart State.reset env) false = .ok (0, false) ∧
    (∃ st, selectBank (coldStart blank env) false = .error st) ∧ State.reset.flash.ownerConfigRaw = [] ∧ on.pins.powered = true :=
  ⟨rfl, by decide +kernel, ⟨_, by rfl⟩, rfl, rfl⟩

theorem test_witness_HostResets : on.pins.pkgReady = true ∧ on.pins.perst = false ∧ on.pins.powered = true := by decide

/-- A synchronised counter with PPS_IN_EN. -/
def pps : State := (on.setReg (timBase + 0xC) 8).setReg (timBase + 8) 1

theorem test_witness_Pins : pps.regBit (timBase + 0xC) 3 = true ∧ pps.synced = true ∧ (on.setReg (timBase + 0xC) 7).regBit (timBase + 0xC) 3 = false ∧ on.synced = false ∧
    on.fab.ports.length = 16 ∧ on.fab.flySeated.length = 4 := by decide +kernel

/-- Fifteen retries of wire 0 of bridge 0 just now. -/
def retried : State := { on with bridges := { on.bridges with retries := [(0, 0, List.replicate 15 0)] } }
/-- The same with no spare wire left in the group. -/
def noSpare : State := { retried with rig := { retried.rig with failed := [.wire 0 800, .wire 0 801] } }

theorem test_witness_Bridges : 799 < bridgeWires 0 ∧ 199 < bridgeWires 11 ∧ bridgeWires 11 ≤ 200 ∧ wirePos on.rig 0 0 = some 0 ∧ on.bridges.repairing = [] ∧
    spareWires retried.rig 0 0 ≠ [] ∧ spareWires noSpare.rig 0 0 = [] ∧ wirePos noSpare.rig 0 0 = some 0 ∧
    (let s := { on with bridges := { on.bridges with repairing := [(0, 0)] } };
      s.bridges.repairing.find? (fun e => e.1 == 0) = some (0, 0) ∧ spareWires s.rig 0 0 = 800 :: (spareWires s.rig 0 0).tail) := by decide +kernel

theorem test_witness_Heartbeats : on.mgmt.heartbeats.length = 6 ∧ on.mgmt.heartbeats.getD 5 0 < 2 ∧ on.mgmt.faultyDies = [] ∧
    ({ on with mgmt := { on.mgmt with heartbeats := [0, 0, 0, 0, 0, 2] } }).mgmt.heartbeats.getD 5 0 = 2 := by decide

/-- Port 0 up, and a package fault of power-up that no heartbeat has carried yet. -/
def faultHeld : State := { on with mgmt := { on.mgmt with firstFault := true },
                                   fab := { on.fab with ports := setAt on.fab.ports 0 (fun p => { p with up := true }) } }

theorem test_witness_Heartbeats_first : (List.range 16).filter (fun p => (faultHeld.port p).up) ≠ [] ∧ faultHeld.mgmt.firstFault = true ∧
    (List.range 16).filter (fun p => (on.port p).up) = [] := by decide +kernel

/-- Page 0 mapped on frame 0. -/
def paged : State := { jobOn with mem := { jobOn.mem with xlt := [(0, 3)] } }

theorem test_witness_Bar2 : on.endpointUp = true ∧ setup.endpointUp = true ∧ setup.setupOnly = true ∧ on.setupOnly = false ∧ on.bar2Data 0 = false ∧
    paged.endpointUp = true ∧ paged.setupOnly = false ∧ paged.bar2Data 0 = true ∧ paged.paHeld 0 = false ∧ kvGet paged.mem.latent 0 = none ∧
    needsSlot paged 0 = false ∧ ({ paged with mem := { paged.mem with marks := [(0, .lost)] } } : State).lineMark 0 = some .lost := by decide +kernel

/-- Ring 0 running with one new entry announced. -/
def announced (tail : Byte) : State :=
  { cqReady.setReg (hifBase + 0x1008) 0x1004 with hostMem := Memory.write [] 0x1000 [tail], hif := { cqReady.hif with sqs := [(0, SubRing.fresh 1 0)] } }

theorem test_witness_Doorbell : let s := announced 1
    s.endpointUp = true ∧ (s.sq 0).state = 1 ∧ s.dbBase ≠ 0 ∧ s.hif.idle = false ∧ s.sqV1 0 = false ∧ (s.regBit (hifBase + 0xF0) 5 = true ∨ s.reg64 (hifBase + 0x128) + 1 < 2 ^ 64) ∧
    s.doorbell 0 ≠ (s.sq 0).tail ∧ (s.doorbell 0 - (s.sq 0).head).toNat ≤ 2 ^ s.sqLog 0 ∧
    2 ^ s.sqLog 0 < ((announced 17).doorbell 0 - ((announced 17).sq 0).head).toNat ∧
    (∀ e ∈ [(0, normEntry false (Memory.read s.hostMem 0x2000 64))].head?, entryFault s 0 e.2 = 0) := by decide +kernel

theorem test_witness_DoorbellOthers : let s := announced 1
    (∀ j < 64, j ≠ 0 → (s.sq j).state ≠ 1) ∧ (∀ j < 64, s.cqOn j = true → s.doorbell (0x200 + 8 * j) = (s.cq j).head) ∧ s.evqOpen = false := by decide +kernel

theorem test_witness_WakeIdle : on.endpointUp = true ∧ on.dbBase = 0 ∧ cqReady.dbBase ≠ 0 ∧ (announced 0).ringsOn = true ∧ (announced 0).hif.idle = false ∧
    ({ announced 0 with tim := { on.tim with now := 10000000 } } : State).busy = false := by decide +kernel

/-- Completion ring 0 holding a completion, with interrupts on. -/
def holding0 : State := { cqReady.setReg (hifBase + 0x2008) (4 + 2 ^ 14 + 2 ^ 15 + 2 ^ 16) with hif := { on.hif with cqs := [(0, { CompRing.off with held := [done0], unsignalled := 1 })] } }

theorem test_witness_RingEngine : (holding0.cq 0).held = [done0] ∧ holding0.cqOn 0 = true ∧ (holding0.cq 0).stopped = false ∧ holding0.cqRoom 0 = true ∧
    bitOf (holding0.cqCfg 0) 14 = true ∧ bitOf (holding0.cqCfg 0) 15 = true ∧ 0 < (holding0.cq 0).unsignalled ∧ bitsOf (holding0.cqCfg 0) 23 16 ≤ 1 ∧
    holding0.regBit (hifBase + 0x10000C) 0 = true ∧ (holding0.setReg (hifBase + 0x10000C) 0).regBit (hifBase + 0x10000C) 0 = false := by decide +kernel

theorem test_witness_InternalRingEngine : let s := intCq jobOn; let h := { s with hif := { s.hif with cqs := [(64, { CompRing.off with enabled := true, held := [done0] })] } }
    s.cqOn 64 = true ∧ (s.cq 64).held = [] ∧ (h.cq 64).held = [done0] ∧ h.cqOn 64 = true ∧ h.cqRoom 64 = true ∧
    ((intSq jobOn).sq 64).state = 1 ∧ 2 ^ (intSq jobOn).sqLog 64 < ((2 : U32) - ((intSq jobOn).sq 64).head).toNat := by decide +kernel

theorem test_witness_EventInterrupt : let s := { on.setReg (hifBase + 0x28) (4 + 2 ^ 14 + 2 ^ 15) with hif := { on.hif with evqUnsignalled := 1 } }; let c := s.reg (hifBase + 0x28)
    bitOf c 14 = true ∧ bitOf c 15 = true ∧ bitsOf c 23 16 ≤ s.hif.evqUnsignalled := by decide +kernel

/-! ## Witnesses: descriptors, security, Zenle and the stroke -/

/-- A ring command at its turn whose descriptor or block stands at 0x1000 of host memory. -/
def withDesc (op : Nat) (ops : List (Nat × List Byte)) (bs : List Byte) : State :=
  { front jobOn op ops with hostMem := Memory.write [] 0x1000 bs }
/-- Address of that descriptor. -/
def descVA : U64 := 0x100000001000

theorem test_witness_SteerRun (ph : CorePhase) (h : ph = .idle ∨ ph = .stopped ∨ ph = .running ∨ ph = .held ∨ ph = .faulty) (e : U64) (he : e = 0x100000000000 ∨ e = 2) :
    let ops := [opnd 8 8 e.toNat, opnd 0x10 8 0, opnd 0x18 8 descVA.toNat, opnd 0x20 2 0]
    let s := { withDesc 0x21 ops [7] with cores := [(0, { Core.reset with phase := ph })] }
    AtTurn s ctx 0x0021 ops ∧ 0 < s.coresActive ∧ s.rangeHeld descVA.toNat 64 = false ∧ (s.core 0).phase = ph ∧
    (readVA (accept s ctx 0x21) agentHost descVA.toNat 64).2.1 = 0 := by
  rcases h with rfl | rfl | rfl | rfl | rfl <;> rcases he with rfl | rfl <;> refine ⟨⟨?_, ?_⟩, ?_⟩ <;> decide +kernel
theorem test_witness_SteerRun_absent : let ops := [opnd 8 8 0, opnd 0x10 8 0, opnd 0x18 8 0, opnd 0x20 2 96]
    AtTurn (front jobOn 0x21 ops) ctx 0x0021 ops ∧ (front jobOn 0x21 ops).coresActive ≤ 96 := by refine ⟨⟨?_, ?_⟩, ?_⟩ <;> decide +kernel

/-- CG without preconditioner on tile 0, of this member alone, with one field at choice. -/
def solveBytes (l : List (Nat × Byte)) : List Byte := record 256 (l ++ [(0, 0x21), (2, 1), (0x7C, 1), (0xAA, 1), (0xAC, 1), (0xAE, 1)])
/-- A one-cell grid whose program has one entry at 0x1040. -/
def asmBytes (l : List (Nat × Byte)) : List Byte :=
  record 128 (l ++ [(0, 0x20), (2, 1), (8, 0x40), (9, 0x10), (0xD, 0x10), (0x10, 1), (0x14, 1), (0x18, 1), (0x1C, 1), (0x20, 1), (0x3C, 1), (0x40, 1)])

theorem test_witness_ZenleHeld (f : Byte) (hf : f = 1 ∨ f = 2) : let ops := [opnd 8 8 descVA.toNat]; let s := withDesc 0x31 ops (solveBytes [(2, f)])
    let r := readVA (accept s ctx 0x31) agentHost descVA.toNat 256
    AtTurn s ctx 0x0031 ops ∧ s.rangeHeld descVA.toNat 256 = false ∧ r.2.1 = 0 ∧ solveDescFault r.1 (parseSolve r.2.2) = if f = 1 then 0 else 0x8501 := by
  rcases hf with rfl | rfl <;> refine ⟨⟨?_, ?_⟩, ?_⟩ <;> decide +kernel
theorem test_witness_AssembleHeld (f k : Byte) (hf : f = 1 ∨ f = 2) (hk : k = 1 ∨ k = 9) : let ops := [opnd 8 8 descVA.toNat]; let s := withDesc 0x30 ops (asmBytes [(2, f), (0x40, k)])
    let r := readVA (accept s ctx 0x30) agentHost descVA.toNat 64
    let d := parseAsm r.2.2
    let e := readVA r.1 agentZenle d.program (64 * d.count)
    AtTurn s ctx 0x0030 ops ∧ s.rangeHeld descVA.toNat 64 = false ∧ s.rangeHeld d.program (64 * min 256 d.count) = false ∧ r.2.1 = 0 ∧ e.2.1 = 0 ∧
    asmDescFault r.2.2 = (if f = 1 then 0 else 0x8501) ∧
    badProgram ((List.range d.count).map (fun k => slice e.2.2 (64 * k) 64)) = (if k = 1 then false else true) := by
  rcases hf with rfl | rfl <;> rcases hk with rfl | rfl <;> refine ⟨⟨?_, ?_⟩, ?_⟩ <;> decide +kernel

/-- A BARRIER collective of all members, at `o`, with one field at choice. -/
def collBytes (o : Nat) (op : Byte) (l : List (Nat × Byte)) : List Byte := record (o + 128) (l ++ [(o, 0x30), (o + 2, 1), (o + 8, op), (o + 0x62, 0xFF), (o + 0x63, 0xFF), (o + 0x64, 0xFF), (o + 0x65, 0xFF)])

theorem test_witness_Coll (f : Byte) (hf : f = 1 ∨ f = 2) : let ops := [opnd 8 8 descVA.toNat]; let s := withDesc 0x40 ops (collBytes 0 10 [(2, f)])
    let r := readVA (accept s ctx 0x40) agentHost descVA.toNat 128
    AtTurn s ctx 0x0040 ops ∧ s.rangeHeld descVA.toNat 128 = false ∧ r.2.1 = 0 ∧ collFault r.1 (parseColl r.2.2) false = if f = 1 then 0 else 0x8401 := by
  rcases hf with rfl | rfl <;> refine ⟨⟨?_, ?_⟩, ?_⟩ <;> decide +kernel
/-- A batch of one ALLGATHER of no elements (op 4), or of one BARRIER, which no batch takes. -/
theorem test_witness_CollBatch (op n : Byte) (ho : op = 4 ∨ op = 10) (hn : n = 1 ∨ n = 0) : let ops := [opnd 8 8 descVA.toNat]
    let s := withDesc 0x41 ops (collBytes 64 op [(0, 0x31), (2, 1), (8, n), (0xA, 0xFF), (0xB, 0xFF), (0xC, 0xFF), (0xD, 0xFF)])
    let r := readVA (accept s ctx 0x41) agentHost descVA.toNat 64
    let e := readVA r.1 agentHost (descVA.toNat + 64) 128
    let ds := [parseColl (slice e.2.2 0 128)]
    AtTurn s ctx 0x0041 ops ∧ s.rangeHeld descVA.toNat 64 = false ∧ s.rangeHeld descVA.toNat (s.batchLen descVA.toNat) = false ∧ r.2.1 = 0 ∧
    fieldLE r.2.2 0 2 = 0x31 ∧ fieldLE r.2.2 2 2 = 1 ∧ fieldLE r.2.2 0xE 2 = 0 ∧ fieldLE r.2.2 0x20 32 = 0 ∧ fieldLE r.2.2 8 2 = n.toNat ∧ e.2.1 = 0 ∧
    e.1.badBatch ds = (if op = 4 then false else true) ∧ (∀ d ∈ ds, op = 4 → collFault e.1 d true = 0) ∧ badCounter (fieldLE r.2.2 0xA 2) (fieldLE r.2.2 0xC 2) = false ∧
    s.collEng.accepted < 256 := by
  rcases ho with rfl | rfl <;> rcases hn with rfl | rfl <;> refine ⟨⟨?_, ?_⟩, ?_⟩ <;> decide +kernel
theorem test_witness_CollGroup (g : U16) (hg : g = 1 ∨ g = 63 ∨ g = 0 ∨ g = 64) : let ops := [opnd 8 8 descVA.toNat, opnd 0x10 2 g.toNat, opnd 0x12 2 2]
    let s := withDesc 0x42 ops [0, 0, 0, 0, 1]
    let r := readVA (accept s ctx 0x42) agentHost descVA.toNat 8
    let ranks := elemsOf 4 r.2.2 2
    AtTurn s ctx 0x0042 ops ∧ s.rangeHeld descVA.toNat 8 = false ∧ r.2.1 = 0 ∧ ranks.Pairwise (· < ·) ∧ s.rank ∈ ranks ∧ (∀ x ∈ ranks, x < s.members.length) := by
  rcases hg with rfl | rfl | rfl | rfl <;> refine ⟨⟨?_, ?_⟩, ?_⟩ <;> decide +kernel

/-- The stroke after a member has entered the barrier, and what remains. -/
def entered (e : Stroke) : State := { jobOn with stroke := e }
theorem test_witness_StrokeEnd : let ops := [opnd 8 8 0]; let s := front jobOn 0x43 ops
    AtTurn s ctx 0x0043 ops ∧ s.stroke.entered = none ∧ s.stroke.count = 0 ∧
    (let t := front (entered { jobOn.stroke with entered := some (ctx, 0) }) 0x43 ops; AtTurn t ctx 0x0043 ops ∧ t.stroke.entered ≠ none) ∧
    (let o := [opnd 8 8 1]; AtTurn (front jobOn 0x43 o) ctx 0x0043 o) := by
  refine ⟨⟨?_, ?_⟩, ?_, ?_, ⟨⟨?_, ?_⟩, ?_⟩, ⟨?_, ?_⟩⟩ <;> decide +kernel

/-- An audit of nothing with OUT at 0x100000002000. -/
def auditBytes (v : Byte) : List Byte := record 64 [(0, 0x40), (2, v), (0x39, 0x20), (0x3D, 0x10)]
/-- Audits outstanding on another ring. -/
def manyAudits (n : Nat) (s : State) : State := { s with hif := { s.hif with audits := List.replicate n (auditOf ⟨1, 1, false, false⟩ (auditBytes 1)) } }
theorem test_witness_Audit (v : Byte) (n : Nat) (hv : v = 1 ∨ v = 2) (hn : n = 0 ∨ n = 63 ∨ n = 64) : let ops := [opnd 8 8 descVA.toNat]
    let s := manyAudits n (withDesc 0x60 ops (auditBytes v))
    let r := readVA (accept s ctx 0x60) agentAudit descVA.toNat 64
    AtTurn s ctx 0x0060 ops ∧ s.rangeHeld descVA.toNat 64 = false ∧ s.bound = true ∧ r.2.1 = 0 ∧ s.hif.audits.length = n ∧
    auditBad r.2.2 (auditOf ctx r.2.2) = (if v = 1 then false else true) := by
  rcases hv with rfl | rfl <;> rcases hn with rfl | rfl | rfl <;> refine ⟨⟨?_, ?_⟩, ?_⟩ <;> decide +kernel
theorem test_witness_Audit_unbound : let ops := [opnd 8 8 descVA.toNat]; let s := { front on 0x60 ops with job := none }
    AtTurn s ctx 0x0060 ops ∧ s.bound = false := by refine ⟨⟨?_, ?_⟩, ?_⟩ <;> decide +kernel
/-- An audit of no bytes passes each of its three reads. -/
theorem test_witness_AuditExecute : let k := auditOf ctx (auditBytes 1); let s := { jobOn with hif := { jobOn.hif with audits := [k] } }
    s.hif.audits.find? (fun x => x.cmd == ctx) = some k ∧ s.earlierOnRing ctx = false ∧ s.auditHeld k = false ∧
    (let res := auditDigestOf s false k.resV.toNat k.resB.toNat
     let w := auditDigestOf res.1 (auditWeightsByValue k) k.wV.toNat k.wB.toNat
     let inp := auditDigestOf w.1 (auditInputByValue k) k.iV.toNat k.iB.toNat
     res.2.1 = 0 ∧ w.2.1 = 0 ∧ inp.2.1 = 0) ∧
    (auditDigestOf s false 0 1).2.1 ≠ 0 := by decide +kernel

theorem test_witness_AuditExecute_faults : let k := auditOf ctx (record 64 [(0, 0x40), (2, 1), (0x10, 1), (0x39, 0x20), (0x3D, 0x10)])
    let s := { jobOn with hif := { jobOn.hif with audits := [k] } }
    s.hif.audits.find? (fun x => x.cmd == ctx) = some k ∧ s.earlierOnRing ctx = false ∧ s.auditHeld k = false ∧
    (auditDigestOf s false k.resV.toNat k.resB.toNat).2.1 ≠ 0 := by decide +kernel

theorem test_witness_SecurityCommandsAct_attest : let ops := [(8, padTo 32 (zeroBytes 32)), opnd 0x28 8 0]
    AtTurn (front on 0x61 ops) ctx 0x0061 ops ∧ ctx.sq.toNat < 64 := by refine ⟨⟨?_, ?_⟩, ?_⟩ <;> decide +kernel

/-- A command of the security unit at its turn, with a block at address 0 of host memory. -/
def atBlock (op : Nat) (ops : List (Nat × List Byte)) (bs : List Byte) : State := { front on op ops with hostMem := Memory.write [] 0 bs }
/-- The package with an owner key under which every block verifies, and sequence values in use. -/
def owned (s : State) : State := { s with flash := { s.flash with ownerKey := idKey, ownerSeq := 5, configSeq := 5 } }
/-- Operands of OWNER_KEY. -/
def okOps : List (Nat × List Byte) := [opnd 8 8 0]
/-- An OWNER_KEY block that takes the key away, with a policy and a sequence value. -/
def okBlock (policy seq : Nat) : List Byte := zeroBytes 0x3C ++ leBytes 4 policy ++ leBytes 8 seq ++ idSig

theorem test_witness_SecurityCommandsAct_ownerKeyFree : let s := atBlock 0x62 okOps (okBlock 7 0)
    AtTurn s ctx 0x0062 okOps ∧ s.flash.ownerKey = [] ∧ fieldLE (Memory.read (accept s ctx 0x62).hostMem 0 186) 0x3C 4 < 8 := by refine ⟨⟨?_, ?_⟩, ?_⟩ <;> decide +kernel
theorem test_witness_SecurityCommandsAct_ownerKeyReserved : let s := atBlock 0x62 okOps (okBlock 8 0)
    AtTurn s ctx 0x0062 okOps ∧ 8 ≤ fieldLE (Memory.read (accept s ctx 0x62).hostMem 0 186) 0x3C 4 := by refine ⟨⟨?_, ?_⟩, ?_⟩ <;> decide +kernel

theorem okBlock_fields : slice (okBlock 0 5) 0x48 114 = idSig ∧ slice (okBlock 0 6) 0x48 114 = idSig ∧ fieldLE (okBlock 0 5) 0x3C 4 < 8 ∧
    fieldLE (okBlock 0 6) 0x3C 4 < 8 ∧ fieldLE (okBlock 0 5) 0x40 8 = 5 ∧ fieldLE (okBlock 0 6) 0x40 8 = 6 := by decide +kernel
theorem okBlock_turn : (let s := owned (atBlock 0x62 okOps (okBlock 0 5)); AtTurn s ctx 0x0062 okOps ∧ Memory.read (accept s ctx 0x62).hostMem 0 186 = okBlock 0 5) ∧
    (let s := owned (atBlock 0x62 okOps (okBlock 0 6)); AtTurn s ctx 0x0062 okOps ∧ Memory.read (accept s ctx 0x62).hostMem 0 186 = okBlock 0 6) := by
  refine ⟨⟨⟨?_, ?_⟩, ?_⟩, ⟨?_, ?_⟩, ?_⟩ <;> decide +kernel

theorem test_witness_SecurityCommandsAct_ownerKeyOldSeq : let s := owned (atBlock 0x62 okOps (okBlock 0 5)); let bs := Memory.read (accept s ctx 0x62).hostMem 0 186
    AtTurn s ctx 0x0062 okOps ∧ fieldLE bs 0x3C 4 < 8 ∧ s.flash.ownerKey ≠ [] ∧ s.sec.devOpen = false ∧
    ed448Verify s.flash.ownerKey "BGL-owner" (slice bs 0 0x48) (slice bs 0x48 114) = true ∧ fieldLE bs 0x40 8 ≤ s.flash.ownerSeq.toNat := by
  have h := okBlock_turn.1; have f := okBlock_fields
  refine ⟨h.1, ?_, by decide, rfl, ?_, ?_⟩ <;> rw [h.2]
  · exact f.2.2.1
  · rw [f.1]; exact test_ed448_identity ..
  · rw [f.2.2.2.2.1]; decide
theorem test_witness_SecurityCommandsAct_ownerKeyNewSeq : let s := owned (atBlock 0x62 okOps (okBlock 0 6)); let bs := Memory.read (accept s ctx 0x62).hostMem 0 186
    AtTurn s ctx 0x0062 okOps ∧ fieldLE bs 0x3C 4 < 8 ∧ s.flash.ownerSeq.toNat < fieldLE bs 0x40 8 ∧
    ed448Verify s.flash.ownerKey "BGL-owner" (slice bs 0 0x48) (slice bs 0x48 114) = true := by
  have h := okBlock_turn.2; have f := okBlock_fields
  refine ⟨h.1, ?_, ?_, ?_⟩ <;> rw [h.2]
  · exact f.2.2.2.1
  · rw [f.2.2.2.2.2]; decide
  · rw [f.2.1]; exact test_ed448_identity ..
/-- Bytes that encode no point: under such a key no message verifies. -/
def badKey : List Byte := List.replicate 57 0xFF
theorem badKey_refuses (context : String) (msg sig : List Byte) : ed448Verify badKey context msg sig = false := by
  have h : decodePoint badKey = none := by decide +kernel
  simp only [ed448Verify, evalNat_eq, h]
theorem test_witness_SecurityCommandsAct_ownerKeyUnsigned : let t := atBlock 0x62 okOps (okBlock 0 6); let s := { t with flash := { t.flash with ownerKey := badKey } }
    let bs := Memory.read (accept s ctx 0x62).hostMem 0 186
    AtTurn s ctx 0x0062 okOps ∧ s.flash.ownerKey ≠ [] ∧ s.sec.devOpen = false ∧
    ed448Verify s.flash.ownerKey "BGL-owner" (slice bs 0 0x48) (slice bs 0x48 114) = false :=
  ⟨⟨by decide +kernel, by decide +kernel⟩, by decide, rfl, badKey_refuses ..⟩

/-- Operands of OWNER_CONFIG with a block of 138 bytes. -/
def ocOps : List (Nat × List Byte) := [opnd 8 8 0, opnd 0x10 4 138]
/-- An owner configuration block without entries, of a format version and a sequence value. -/
def ocBlock (version seq : Nat) : List Byte := cfgMagic ++ leBytes 2 version ++ leBytes 2 0 ++ leBytes 4 0 ++ leBytes 8 seq ++ idSig

theorem ocBlock_signed (b : List Byte) (h : slice b (0x18 + 8 * cfgCount b) 114 = idSig) : cfgSigned idKey b = true := by
  simp only [cfgSigned, h, test_ed448_identity]; rfl
theorem ocBlock_fields : ∀ p ∈ [(1, 5), (2, 6), (1, 6)], let b := ocBlock p.1 p.2
    slice b (0x18 + 8 * cfgCount b) 114 = idSig ∧ fieldLE b 0x10 8 = p.2 ∧ cfgFormatOk b = (p.1 == 1) := by decide +kernel
theorem ocBlock_turn : ∀ p ∈ [(1, 5), (2, 6), (1, 6)], let s := owned (atBlock 0x63 ocOps (ocBlock p.1 p.2))
    (s.ready ctx 0x63 ocOps = true ∧ scopeFault s ctx 0x63 = 0) ∧ Memory.read (accept s ctx 0x63).hostMem 0 138 = ocBlock p.1 p.2 := by decide +kernel

theorem test_witness_SecurityCommandsAct_ownerConfig (p : Nat × Nat) (hp : p ∈ [(1, 5), (2, 6), (1, 6)]) :
    let s := owned (atBlock 0x63 ocOps (ocBlock p.1 p.2)); let bs := Memory.read (accept s ctx 0x63).hostMem 0 138
    AtTurn s ctx 0x0063 ocOps ∧ cfgSigned s.flash.ownerKey bs = true ∧ fieldLE bs 0x10 8 = p.2 ∧ cfgFormatOk bs = (p.1 == 1) ∧ s.flash.configSeq = 5 := by
  have h := ocBlock_turn p hp; have f := ocBlock_fields p hp
  refine ⟨h.1, ?_, ?_, ?_, rfl⟩ <;> rw [h.2]
  · exact ocBlock_signed _ f.1
  · exact f.2.1
  · exact f.2.2
theorem test_witness_SecurityCommandsAct_ownerConfigUnsigned : let s := atBlock 0x63 ocOps (ocBlock 1 5)
    AtTurn s ctx 0x0063 ocOps ∧ cfgSigned s.flash.ownerKey (Memory.read (accept s ctx 0x63).hostMem 0 138) = false := by refine ⟨⟨?_, ?_⟩, ?_⟩ <;> decide +kernel

/-- Operands of FW_UPDATE. -/
def fwOps (bytes : Nat) : List (Nat × List Byte) := [opnd 8 8 0x9000, opnd 0x10 8 bytes]
theorem test_witness_SecurityCommandsAct_fwUpdateBusy : let s := { front on 0x70 (fwOps 0) with sec := { on.sec with updating := some (ctx, []) } }
    AtTurn s ctx 0x0070 (fwOps 0) ∧ s.updateBusy = true := by refine ⟨⟨?_, ?_⟩, ?_⟩ <;> decide +kernel
theorem test_witness_SecurityCommandsAct_fwUpdateRefused : let s := front on 0x70 (fwOps 0)
    AtTurn s ctx 0x0070 (fwOps 0) ∧ s.updateBusy = false ∧ packageStatus (accept s ctx 0x70) (Memory.read (accept s ctx 0x70).hostMem 0x9000 (min 0 0x3000001)) ≠ 0 := by
  refine ⟨⟨?_, ?_⟩, ?_⟩ <;> decide +kernel
theorem accept_keyed (bs : List Byte) : (accept (keyed (front on 0x70 (fwOps 1536)) bs) ctx 0x70).hostMem = Memory.write [] 0x9000 bs := rfl
theorem keyed_ready (bs : List Byte) : AtTurn (keyed (front on 0x70 (fwOps 1536)) bs) ctx 0x0070 (fwOps 1536) ∧
    (keyed (front on 0x70 (fwOps 1536)) bs).updateBusy = false := by refine ⟨⟨?_, ?_⟩, ?_⟩ <;> rfl
theorem test_witness_SecurityCommandsAct_fwUpdate : let s := keyed (front on 0x70 (fwOps 1536)) emptyPackage
    AtTurn s ctx 0x0070 (fwOps 1536) ∧ s.updateBusy = false ∧
    packageStatus (accept s ctx 0x70) (Memory.read (accept s ctx 0x70).hostMem 0x9000 (min 1536 0x3000001)) = 0 :=
  ⟨(keyed_ready _).1, (keyed_ready _).2, by
    rw [show min 1536 0x3000001 = 1536 from rfl, accept_keyed, read_package]; exact packageStatus_empty _ rfl rfl rfl⟩
theorem test_witness_SecurityCommandsAct_fwUpdateStaged : let s := { on with sec := { on.sec with updating := some (ctx, emptyImages) } }
    s.pins.powered = true ∧ s.sec.updating = some (ctx, emptyImages) ∧ s.flash.banks.length = 2 ∧ s.sec.bank < 2 := by
  refine ⟨rfl, rfl, ?_, ?_⟩ <;> decide +kernel

/-! ## Witnesses: Zenle at work and the stroke barrier -/

/-- A held SOLVE on tile 0 whose areas are in host memory, with one field of its descriptor at choice. -/
def solve0 : Solve := newSolve jobOn (parseSolve (solveBytes [])) (solveBytes []) ctx
/-- The job with one SOLVE. -/
def solving (v : Solve) : State := { jobOn with zn := { jobOn.zn with solves := [v] } }

theorem test_witness_SolveStart : let s := solving solve0
    s.zn.solves.find? s.solveReady = some solve0 ∧ s.freeCore = some 0 ∧ s.solvesRunning < 16 ∧ s.holding = false ∧
    (∀ r ∈ s.solveRanges solve0.desc, s.rangeHeld r.1 r.2 = false) := by decide +kernel

/-- A SOLVE waiting for its rendezvous, led by rank `lead`, of `p` members. -/
def meeting (lead p : Byte) : Solve :=
  let b := solveBytes [(0xAE, p), (0xB0, lead)]
  { newSolve jobOn (parseSolve b) b ctx with phase := .rendezvous }
theorem test_witness_Rendezvous_alone : let s := solving (meeting 0 1); let v := meeting 0 1; let all := [ownRendezvous s v]
    s.solveIn 0 .rendezvous = some v ∧ s.oneCrew v = true ∧ v.ranks.filter (fun r => r != s.rank) = [] ∧
    v.rangesFit all = true ∧ v.columnsBelow all = true ∧ v.desc.dense = false := by decide +kernel
/-- Rank 1 alone does not hold this member; with rank 1 missing and two seconds passed the meeting ends. -/
theorem test_witness_Rendezvous_others : (solving (meeting 1 1)).solveIn 0 .rendezvous = some (meeting 1 1) ∧ (solving (meeting 1 1)).oneCrew (meeting 1 1) = false ∧
    (solving (meeting 0 2)).solveIn 0 .rendezvous = some (meeting 0 2) ∧
    (solving (meeting 0 2)).oneCrew (meeting 0 2) = true ∧ ([] : List Rendezvous).length ≠ ((meeting 0 2).ranks.filter (fun r => r != 0)).length ∧
    (meeting 0 2).arrived.toNat + 1000000000 ≤ ({ solving (meeting 0 2) with tim := { jobOn.tim with now := 2000000000 } } : State).tim.now.toNat := by decide +kernel
/-- What rank 1 sends for the same descriptor. -/
def sentOne (v : Solve) (first rows : U64) (n : Nat) : Rendezvous :=
  { rank := 1, digest := solveDigest v.raw, rowFirst := first, rows := rows, sig := [], n := n, mat := [], cells := [], rhs := [], start := [], go := true }
/-- What the two members sent, in rank order. -/
def bothSent (s : State) (v : Solve) (first rows : U64) (n : Nat) : List Rendezvous :=
  (ownRendezvous s v :: [sentOne v first rows n]).mergeSort (fun a b => a.rank.toNat ≤ b.rank.toNat)
theorem bothSent_eq (first rows : U64) (n : Nat) : bothSent (solving (meeting 0 2)) (meeting 0 2) first rows n =
    [ownRendezvous (solving (meeting 0 2)) (meeting 0 2), sentOne (meeting 0 2) first rows n] :=
  List.mergeSort_of_pairwise (by
    simp only [List.pairwise_cons, List.mem_singleton, forall_eq, List.not_mem_nil, false_imp_iff, implies_true, and_true, List.Pairwise.nil]
    rfl)
/-- Rank 1's words agree with the own ones, and its rows follow (from 0) or leave a gap (from 5). -/
theorem test_witness_Rendezvous_agree (k : U64) : let v := meeting 0 2; let s := solving v
    let got := (v.ranks.filter (fun r => r != s.rank)).filterMap (fun r => [sentOne v k 3 3].find? (fun m => m.rank.toNat == r))
    got = [sentOne v k 3 3] ∧ (∀ m ∈ got, m.digest = solveDigest v.raw) ∧ s.oneCrew v = true ∧
    got.length = (v.ranks.filter (fun r => r != s.rank)).length :=
  ⟨rfl, fun m h => by rw [show m = sentOne (meeting 0 2) k 3 3 from List.mem_singleton.mp h]; rfl, by decide +kernel, rfl⟩
theorem test_witness_Rendezvous_fit : let v := meeting 0 2; let s := solving v
    v.rangesFit (bothSent s v 5 3 3) = false ∧ v.rangesFit (bothSent s v 0 3 3) = true ∧ v.columnsBelow (bothSent s v 0 3 3) = true ∧
    { v with mat := [[(3, 0)]] }.columnsBelow (bothSent s v 0 3 3) = false := by
  simp only [bothSent_eq]
  decide +kernel
/-- A dense SOLVE of this member alone (METHOD 4). -/
def meetingDense : Solve := { newSolve jobOn (parseSolve (solveBytes [(8, 4)])) (solveBytes [(8, 4)]) ctx with phase := .rendezvous, rows := 0 }
theorem test_witness_Rendezvous_dense : let v := meetingDense; let s := solving v; let all := [ownRendezvous s v]
    v.desc.dense = true ∧ s.solveIn 0 .rendezvous = some v ∧ s.oneCrew v = true ∧ v.rangesFit all = true ∧ v.columnsBelow all = true ∧
    ∀ r ∈ s.blockRanges v all, s.rangeHeld r.1 r.2 = false := by decide +kernel

/-- A SOLVE whose unit of work is under way: x + 0 = 0 from x = 1, under a given absolute tolerance. -/
def working (u : ZnUnit) (tol : U64) : Solve :=
  let r := { solve0 with phase := .running, unit := u, n := 1, rows := 1, mat := [[(0, 0x3FF0000000000000)]], rhs := [0], x := [0x3FF0000000000000] }
  { r with desc := { r.desc with tolAbs := tol } }
/-- |0 − 1| = 1 meets TOL_ABS = 1, and not TOL_ABS = 0.5 (R244). -/
theorem test_witness_UnitEnd : (solving (working .residual 0x3FF0000000000000)).solveIn 0 .running = some (working .residual 0x3FF0000000000000) ∧
    (working .residual 0).desc.refine = false ∧ (working .residual 0).desc.alone = true ∧
    (let v := working .residual 0x3FF0000000000000; v.meets (residualNorm v.mat v.rhs v.x) = true) ∧
    (let v := working .residual 0x3FE0000000000000; v.meets (residualNorm v.mat v.rhs v.x) = false) ∧
    (solving (working .iteration 0)).solveIn 0 .running = some (working .iteration 0) ∧ (solving (working .panel 0)).solveIn 0 .running = some (working .panel 0) := by decide +kernel
/-- Without rows the recurrence norm is zero, which meets every bound. -/
theorem test_witness_UnitEnd_krylov : let v := { working .iteration 0 with n := 0, rows := 0, mat := [], rhs := [], x := [], own := [] }
    v.desc.krylov = true ∧ v.meets v.krylovStep.norm = true ∧ (solving v).solveIn 0 .running = some v := by decide +kernel
/-- A panel of a direct method whose factor stays. -/
theorem test_witness_UnitEnd_panel : let w := working .panel 0; let v := { w with desc := { w.desc with method := 4 } }
    v.desc.direct = true ∧ v.desc.keepA = false ∧ (solving v).solveIn 0 .running = some v ∧ ∀ r ∈ (solving v).ownCellRanges v, (solving v).rangeHeld r.1 r.2 = false := by decide +kernel
/-- The residual of x = 1 is exactly −1, and its norm 1 (R239, R240). -/
theorem test_residual : residualNorm [[(0, 0x3FF0000000000000)]] [0] [0x3FF0000000000000] = 0x3FF0000000000000 := by decide +kernel

/-- A SOLVE that has ended. -/
def endedSolve : Solve := { solve0 with phase := .ended, core := some 0 }
/-- An assembly of an empty row range whose header is at 0x100000001000. -/
def asm0 (dies : Byte) : Assembly := { desc := parseAsm (record 64 [(0, 0x20), (2, 1), (0x14, dies), (0x18, 1), (0x1C, 1), (0x20, 1), (0x29, 0x10), (0x2D, 0x10), (0x31, 0x20), (0x35, 0x10)]), cmd := ctx, entries := [] }
theorem test_witness_ZenleWorkEnds_solveEnd : let s := { solving endedSolve with cores := [(0, { Core.reset with phase := .held })] }
    s.solveIn 0 .ended = some endedSolve ∧ s.holding = false ∧ s.rangeHeld endedSolve.desc.x (8 * (endedSolve.ownPart endedSolve.best).length) = false ∧
    s.rangeHeld endedSolve.desc.result 192 = false ∧ endedSolve.core = some 0 ∧ (s.core 0).phase = .held := by decide +kernel
/-- A SOLVE that has ended with an iterate whose two elements are its own. -/
def endedWith : Solve := { endedSolve with best := [1, 2], own := [0, 1], desc := { endedSolve.desc with x := 0x100000002000, result := 0x100000003000 } }
theorem test_witness_ZenleWorkEnds_solveEndIterate : let s := solving endedWith
    s.solveIn 0 .ended = some endedWith ∧ s.rangeHeld endedWith.desc.x (8 * (endedWith.ownPart endedWith.best).length) = false ∧
    s.rangeHeld endedWith.desc.result 192 = false ∧ endedWith.best ≠ [] ∧ endedWith.ownPart endedWith.best = [1, 2] := by decide +kernel
/-- The job with that assembly, and the header at 0x1000 of host memory, with ROWPTR at 0x100000002000 or in a page not mapped. -/
def assembling (mapped : Bool) : State :=
  { jobOn with zn := { jobOn.zn with assemblies := [asm0 1] },
               hostMem := if mapped then Memory.write [] 0x1018 [0, 0x20, 0, 0, 0, 0x10, 0, 0] else [] }
theorem test_witness_ZenleWorkEnds_assemblyDone : let s := assembling true; let a := asm0 1
    s.zn.assemblies.find? (fun a => a.desc.asmId == 0) = some a ∧ s.holding = false ∧ (∀ r ∈ a.ranges s, s.rangeHeld r.1 r.2 = false) ∧
    (match (runAssembly s a).2 with | .error _ => false | .ok ws => ws.map (fun w => w.1) == [0x100000002000, 0, 0, 0x100000002000, 0x100000001010]) = true := by decide +kernel
theorem test_witness_ZenleWorkEnds_assemblyRefused : let s := assembling false; let a := asm0 1
    s.zn.assemblies.find? (fun a => a.desc.asmId == 0) = some a ∧ s.holding = false ∧ (∀ r ∈ a.ranges s, s.rangeHeld r.1 r.2 = false) ∧
    (match (runAssembly s a).2 with | .error e => e.1 | .ok _ => 0) ≠ 0 := by decide +kernel

theorem test_witness_StrokeBarrier (p : CkptPlan) (h : p = ckptPlan) :
    let e := entered { jobOn.stroke with entered := some (ctx, 0), arrived := true }
    let g := { e with job := some { job with launch := some { launch with plan := { plan with ckptEn := true }, ckpt := p } } }
    e.stroke.entered = some (ctx, 0) ∧ e.stroke.arrived = true ∧ e.stroke.secondRound = false ∧ e.ckptPlan = none ∧ g.ckptPlan = some p ∧
    g.ckpt.inProgress = none ∧ g.ckpt.restoring = false ∧ g.stroke.secondRound = false ∧
    (entered { jobOn.stroke with entered := some (ctx, 0), secondRound := true }).stroke.secondRound = true ∧
    e.stroke.slowSent = false ∧ bitsOf ((e.setReg (strokeBase + 0xC) 10).reg (strokeBase + 0xC)) 15 0 ≠ 0 := by
  subst h; decide +kernel

/-! ## Witnesses: collectives -/

/-- A BARRIER of this member alone, as accepted. -/
def run0 (started : Bool) : CollRun := { newRun jobOn (parseColl (collBytes 0 10 [])) ctx [0] none [] with started := started, checked := started, moving := started }
/-- The job with collectives. -/
def colling (l : List CollRun) : State := { jobOn with collEng := { jobOn.collEng with runs := l } }
theorem test_witness_CollStart : let s := colling [run0 false]
    s.collEng.running < 32 ∧ s.collEng.runs.find? s.mayStart = some (run0 false) ∧ (s.collEng.runs.map (fun x => (x.desc.group, x.desc.collId))).Nodup ∧
    s.runHeld (run0 false) = false := by decide +kernel
/-- A run that has failed with nothing left to receive is done. -/
def ended0 : CollRun := { run0 true with fail := 0x8461 }
theorem test_witness_CollComplete : (colling [ended0]).collRun 0 0 = some ended0 ∧ ended0.batch = none ∧ (colling [ended0]).runDone ended0 = true ∧
    (let b : Batch := { number := 1, batchId := 0, cmd := ctx, startCnt := 0xFFFF, notifyCnt := 0xFFFF, startValue := 0, result := 0 };
     let r := { ended0 with batch := some 1 }; let s := { colling [r] with collEng := { (colling [r]).collEng with batches := [b] } }
     s.collRun 0 0 = some r ∧ r.batch = some b.number ∧ s.collEng.batches.find? (fun x => x.number == b.number) = some b ∧
     (∀ x ∈ s.batchRuns b.number, s.runDone x = true)) ∧ jobOn.collEng.queued.length = 16 := by decide +kernel

/-- Rank 1 sends elements of another collective than the one begun here. -/
theorem test_witness_CollPacket_digest : (colling [run0 true]).collRun 0 0 = some (run0 true) ∧
    (∃ ch : ChunkHdr, (run0 true).desc.digest = ch.digest) ∧ ∃ ch : ChunkHdr, (run0 true).desc.digest ≠ ch.digest :=
  ⟨by decide +kernel, ⟨⟨0, 0, 0, (run0 true).desc.digest⟩, rfl⟩, ⟨0, 0, 0, (run0 true).desc.digest + 1⟩, by simp⟩

/-- A header from member 2 to this package. -/
def fromTwo : PktHdr := hdr
theorem test_witness_CollPacket : jobOn.holding = false ∧ fromTwo.dstId.toNat = jobOn.fabId ∧ fromTwo.crcOk = true ∧ jobCheck jobOn fromTwo = 0 ∧
    (jobOn.rxSpace fromTwo.srcId 2).place fromTwo.seq = .fresh 0 ∧ jobOn.collRun (collKey fromTwo).1 (collKey fromTwo).2.1 = none ∧
    ∃ r, (colling [run0 true]).collRun (collKey fromTwo).1 (collKey fromTwo).2.1 = some r ∧
      (colling [run0 true]).rangeHeld r.desc.dst (dstLen r.desc r.n ((colling [run0 true]).ownIndex r)) = false :=
  ⟨by decide +kernel, by decide +kernel, by decide +kernel, by decide +kernel, by decide +kernel, by decide +kernel, run0 true, by decide +kernel, by decide +kernel⟩

/-! ## Witnesses: steering cores -/

/-- Core 0 with its program, in the supervisor for a cause. -/
def core0 (t : Option CoreTrap) : State := core { Core.reset with trap := t } 0

theorem coreAt (x : Core) (w : Nat) (h : (x.g.length = 32 ∧ x.f.length = 32 ∧ x.v.length = 32 ∧ x.k.length = 8) ∧ x.irqAt = none ∧ x.scWait = none ∧ x.ack = none)
    (hw : (core x w).wordUnlisted 0 = false := by decide +kernel) : CoreAt (core x w) 0 :=
  have p : (core x w).physCore 0 = some 0 := (by decide +kernel : jobOn.physCore 0 = some 0)
  have l : (core x w).coreLive 0 = true := by
    show ((true && x.scWait.isNone) && x.ack.isNone && ((core x w).physCore 0).isSome) = true
    rw [h.2.2.1, h.2.2.2, p]; rfl
  ⟨rfl, l, h.2.1, hw, ⟨0, by decide, p⟩, h.1⟩

/-- Core 0 of jobOn enters the supervisor for each cause, and leaves it. -/
theorem test_witness_Supervisor (t : Option CoreTrap) : CoreAt (core0 t) 0 ∧ (core0 t).core 0 = { Core.reset with phase := .running, pc := 0x100000000000, ven := true, trap := t } :=
  ⟨coreAt _ 0 ⟨⟨rfl, rfl, rfl, rfl⟩, rfl, rfl, rfl⟩ (match t with | none => by decide +kernel | some _ => rfl), rfl⟩
theorem test_witness_Supervisor_page : ({ core0 (some (.page 0)) with mem := { jobOn.mem with restorePending := [0] } } : State).restoring 0 = true ∧
    (core0 (some (.page 0))).restoring 0 = false ∧ jobOn.bound = true ∧ jobOn.logCore 0 = some 0 := by decide +kernel
theorem test_witness_Supcall : ((core0 none).core 0).gr 7 = 0 ∧ ((core { Core.reset with g := List.replicate 32 1 } 0).core 0).gr 7 ≠ 0 ∧
    CoreAt (core { Core.reset with g := List.replicate 32 1 } 0) 0 := ⟨by decide +kernel, by decide +kernel, coreAt _ 0 ⟨⟨rfl, rfl, rfl, rfl⟩, rfl, rfl, rfl⟩⟩
theorem test_witness_Scalar : let s := core0 none; let x := s.core 0
    CoreAt s 0 ∧ (scalarFp .add fp64 x.rnd ((x.fr 0).toNat % 2 ^ 64) ((x.fr 0).toNat % 2 ^ 64) 0 0).isSome = true ∧
    bitsOf (x.gr 1).toNat 31 16 = 0 ∧ (x.gr 1).toNat % 65536 < 16384 ∧
    (let y := core { Core.reset with g := List.replicate 32 0xFFFFFFFF00000001 } 0
     memberTarget y (((y.core 0).gr 1).extractLsb' 32 32) = .ok none ∧ ((y.core 0).gr 1).toNat % 65536 = 1 ∧ bitsOf ((y.core 0).gr 1).toNat 31 16 = 0 ∧ y.syncVal 1 < ((y.core 0).gr 2).toNat ∧ CoreAt y 0) ∧
    (x.gr 2).toNat ≤ s.syncVal 0 :=
  ⟨coreAt _ 0 ⟨⟨rfl, rfl, rfl, rfl⟩, rfl, rfl, rfl⟩, by decide +kernel, by decide +kernel, by decide +kernel,
   ⟨by decide +kernel, by decide +kernel, by decide +kernel, by decide +kernel, coreAt _ 0 ⟨⟨rfl, rfl, rfl, rfl⟩, rfl, rfl, rfl⟩⟩, by decide +kernel⟩

/-- Core 0 at a span word with a span of four elements of 32 bits, and page 0 mapped for reading and writing. -/
def spanned (n : Nat) (major op : Nat) (w : VWord) (t : Option CoreTrap) : State :=
  let s := core { Core.reset with spanLen := n, trap := t } (spanWord major op w)
  { s with mem := { s.mem with xlt := [(0, 3)] } }

theorem coreAt_spanned (n major op : Nat) (w : VWord) (t : Option CoreTrap) (hw : (spanned n major op w t).wordUnlisted 0 = false := by decide +kernel) :
    CoreAt (spanned n major op w t) 0 :=
  have h := coreAt { Core.reset with spanLen := n, trap := t } (spanWord major op w) ⟨⟨rfl, rfl, rfl, rfl⟩, rfl, rfl, rfl⟩ hw
  ⟨h.powered, h.live, h.irq, h.word, h.phys, h.lengths⟩

theorem test_witness_ScalarAccess (wr : Bool) : let s := spanned 0 0 0 v0 none; let va := ((s.core 0).gr 1).toNat
    CoreAt s 0 ∧ cleanMem s ∧ va % 8 = 0 ∧ resolve s va wr = .ok (.stack 0) ∧ s.restoring va = false ∧ s.coreHeld va = false :=
  ⟨coreAt_spanned _ _ _ _ _, ⟨rfl, rfl, rfl, rfl, rfl⟩, by decide +kernel, by revert wr; decide +kernel, by decide +kernel, by decide +kernel⟩

/-- A span instruction at the program counter of a core with VEN set. -/
theorem spanAt (n major op : Nat) (w : VWord) (h : (spanned n major op w none).peekWord 0x100000000000 = some (spanWord major op w))
    (hw : (spanned n major op w none).wordUnlisted 0 = false := by decide +kernel) :
    SpanAt (spanned n major op w none) 0 major op w := ⟨coreAt_spanned _ _ _ _ _ hw, Or.inr ⟨rfl, h⟩⟩

/-- An instruction of each list of the specification, legal at a span of 4 and 16 and illegal at 17. -/
theorem test_witness_Vector : (∃ o, vecOp (.vadd 0 v0) = some o ∧ SpanAt (spanned 4 o.major o.op o.w none) o.core o.major o.op o.w ∧
      o.legal ((spanned 4 o.major o.op o.w none).core 0) = true ∧ o.legal ((spanned 16 o.major o.op o.w none).core 0) = true ∧
      o.legal ((spanned 17 o.major o.op o.w none).core 0) = false) ∧
    (∃ o, vecOp (.vfadd 0 v0) = some o ∧ SpanAt (spanned 4 o.major o.op o.w none) o.core o.major o.op o.w ∧ o.legal ((spanned 4 o.major o.op o.w none).core 0) = true) ∧
    (∃ o, bitOp (.vcmpeq 0 { v0 with vd := 1 }) = some o ∧ SpanAt (spanned 4 o.major o.op o.w none) o.core o.major o.op o.w ∧
      o.legal ((spanned 4 o.major o.op o.w none).core 0) = true) ∧
    (∃ o, bitOp (.vcmpeq 0 v0) = some o ∧ SpanAt (spanned 4 o.major o.op o.w none) o.core o.major o.op o.w ∧
      o.legal ((spanned 4 o.major o.op o.w none).core 0) = false) ∧
    (∃ o, bitOp (.kand 0 v0) = some o ∧ SpanAt (spanned 4 o.major o.op o.w none) o.core o.major o.op o.w ∧ o.legal ((spanned 4 o.major o.op o.w none).core 0) = true) :=
  ⟨⟨_, rfl, spanAt _ _ _ _ (by decide +kernel), by decide +kernel, by decide +kernel, by decide +kernel⟩,
   ⟨_, rfl, spanAt _ _ _ _ (by decide +kernel), by decide +kernel⟩, ⟨_, rfl, spanAt _ _ _ _ (by decide +kernel), by decide +kernel⟩,
   ⟨_, rfl, spanAt _ _ _ _ (by decide +kernel), by decide +kernel⟩, ⟨_, rfl, spanAt _ _ _ _ (by decide +kernel), by decide +kernel⟩⟩
/-- The same word while VEN is clear, and in the supervisor. -/
theorem test_witness_Vector_ven : let s := spanned 4 0xB 0 v0 none; let t : State := s.modCore 0 (fun x => { x with ven := false }); CoreAt t 0 ∧
    (t.core 0).ven = false ∧ t.peekWord (t.core 0).pc.toNat = some (spanWord 0xB 0 v0) ∧ SpanAt (spanned 4 0xB 0 v0 (some .ven)) 0 0xB 0 v0 :=
  ⟨⟨rfl, by decide +kernel, rfl, by decide +kernel, ⟨0, by decide, by decide +kernel⟩, ⟨rfl, rfl, rfl, rfl⟩⟩, rfl, by decide +kernel, coreAt_spanned _ _ _ _ _, Or.inl (by decide)⟩

theorem test_witness_Reductions : (∃ f, reduceOp (.vsumr 0 v0) = some (0, 0x10, v0, false, f)) ∧ SpanAt (spanned 4 0xD 0x10 v0 none) 0 0xD 0x10 v0 ∧
    reduceLegal ((spanned 4 0xD 0x10 v0 none).core 0) v0 = true ∧ (∃ f, reduceOp (.vfsumord 0 v0) = some (0, 0x15, v0, true, f)) ∧
    SpanAt (spanned 4 0xD 0x15 v0 none) 0 0xD 0x15 v0 ∧ (fpOfEw v0).isSome = true :=
  ⟨⟨_, rfl⟩, spanAt _ _ _ _ (by decide +kernel), by decide +kernel, ⟨_, rfl⟩, spanAt _ _ _ _ (by decide +kernel), rfl⟩
/-- Each permutation and move at its word, with a span of 4, of 0, and of 4 with no active element 0. -/
theorem test_witness_Moves (n op : Nat) (hn : n = 0 ∨ n = 4) (h : op ∈ [0x20, 0x21, 0x22, 0x23, 0x26, 0x27, 0x34, 0x35, 0x00, 0x02, 0x03]) :
    SpanAt (spanned n 0xD op v0 none) 0 0xD op v0 ∧ (let x := (spanned n 0xD op v0 none).core 0
      unaryLegal x v0 = true ∧ reduceLegal x v0 = true ∧ spanFits x v0 = true ∧ v0.scal = false ∧ gangAligned v0.vs2 (gangOf v0) = true ∧ (fpOfEw v0).isSome = true) := by
  refine ⟨spanAt _ _ _ _ ?_ ?_, ?_⟩ <;> rcases hn with rfl | rfl <;> revert op <;> decide +kernel
theorem test_witness_Vswr : SpanAt (spanned 4 0xD 0x03 v0 (some .ven)) 0 0xD 0x03 v0 ∧ ((spanned 4 0xD 0x03 v0 (some .ven)).core 0).trap ≠ none ∧
    ((spanned 4 0xD 0x02 { v0 with vs1 := 9 } none).core 0).readSpecial 9 = none ∧ (((spanned 4 0xD 0x02 v0 none).core 0).readSpecial 0).isSome = true :=
  ⟨⟨coreAt_spanned _ _ _ _ _, Or.inl (by decide)⟩, by decide, by decide +kernel, by decide +kernel⟩

theorem test_witness_Vsrd_illegal : SpanAt (spanned 4 0xD 0x02 { v0 with vs1 := 9 } none) 0 0xD 0x02 { v0 with vs1 := 9 } ∧
    SpanAt (spanned 17 0xD 0x02 v0 none) 0 0xD 0x02 v0 ∧ spanFits ((spanned 17 0xD 0x02 v0 none).core 0) v0 = false ∧
    spanFits ((spanned 4 0xD 0x03 v0 (some .ven)).core 0) v0 = true :=
  ⟨spanAt _ _ _ _ (by decide +kernel), spanAt _ _ _ _ (by decide +kernel), by decide +kernel, by decide +kernel⟩

theorem test_witness_VectorMemory_ops : (∃ f, memOp (.vld 0 v0) = some (0, 0x08, v0, false, false, false, f)) ∧ (∃ f, memOp (.vst 0 v0) = some (0, 0x0C, v0, true, false, false, f)) :=
  ⟨⟨_, rfl⟩, ⟨_, rfl⟩⟩
theorem test_witness_VectorMemory (wr : Bool) : let op := if wr then 0x0C else 0x08; let s := spanned 4 0xD op v0 none; let x := s.core 0
    SpanAt s 0 0xD op v0 ∧ cleanMem s ∧ vmemLegal x v0 false = true ∧ x.activeElems v0 = [0, 1, 2, 3] ∧
    ∀ j ∈ [0, 1, 2, 3], coreAccess s (unitAddr v0 x j % 2 ^ 64) 4 wr = .ok (.stack (4 * j)) ∧ s.coreHeld (unitAddr v0 x j % 2 ^ 64) = false := by
  refine ⟨spanAt _ _ _ _ ?_ ?_, ⟨rfl, rfl, rfl, rfl, rfl⟩, ?_⟩ <;> revert wr <;> decide +kernel
theorem test_witness_VectorProbe : (∃ f, memOp (.vldprobe 0 { v0 with vs2 := 1 }) = some (0, 0x0B, { v0 with vs2 := 1 }, false, true, false, f)) ∧
    SpanAt (spanned 0 0xD 0x0B { v0 with vs2 := 1 } none) 0 0xD 0x0B { v0 with vs2 := 1 } ∧ vmemLegal ((spanned 0 0xD 0x0B { v0 with vs2 := 1 } none).core 0) v0 false = true :=
  ⟨⟨_, rfl⟩, spanAt _ _ _ _ (by decide +kernel), by decide +kernel⟩
theorem test_witness_MaskMemory (wr : Bool) : let op := if wr then 0x37 else 0x36; let s := spanned 4 0xD op v0 none
    SpanAt s 0 0xD op v0 ∧ cleanMem s ∧ ∀ n < 8, coreAccess s (8 * n) 8 wr = .ok (.stack (8 * n)) ∧ s.coreHeld (8 * n) = false := by
  refine ⟨spanAt _ _ _ _ ?_ ?_, ⟨rfl, rfl, rfl, rfl, rfl⟩, ?_⟩ <;> revert wr <;> decide +kernel

/-- 2 + 3 = 5 (R307). -/
theorem test_vadd : let x := { Core.reset with v := (List.range 32).map (fun j => if j = 1 then 2 else if j = 2 then 3 else 0), spanLen := 1 }
    let w := { v0 with vs2 := 1, vs1 := 2, vd := 3 }
    (vecOp (.vadd 0 w)).map (fun o => (runElems x w (fun y i v => y.setElem o.dew w.vd.toNat i v) (o.val x)).elem 32 3 0) = some 5 := by decide +kernel
/-- Words of the three majors that name an operation, and that name none (R307). -/
theorem test_unlisted : [0xB0000000, 0xB5800000, 0xC6000000, 0xDDC00000].map unlistedSpanWord = [false, false, false, false] ∧
    [0xB5C00000, 0xC3000000, 0xC6400000, 0xD0400000, 0xDA000000].map unlistedSpanWord = [true, true, true, true, true] := by decide +kernel

/-! ## Witnesses: memory controllers, checkpoints, launch and teardown -/

/-- Page 0 of class weights or activations on frame 0. -/
def pageOf (e : U64) : State := { jobOn with mem := { jobOn.mem with xlt := [(0, e)] } }

theorem test_witness_Scrub : jobOn.mem.stackCtl.length = 8 ∧
    (let s := pageOf 3; s.entryAt 0 = some 3 ∧ stackOf 0 = 0 ∧ (s.setReg (stackBase 0 + 0xC) 24).reg (stackBase 0 + 0xC) ≠ 0 ∧ s.paHeld 0 = false ∧
      s.lineMark 0 = none ∧ kvGet s.mem.latent 0 = none ∧ (entryClass 3 == 1) = false ∧ (entryClass (3 + 16) == 1) = true) := by decide +kernel
theorem test_witness_Retire : (let s := jobOn.modStk 0 (fun k => { k with retiring := [5] }); (s.stk 0).retiring = [5] ∧ (s.stk 0).blocksLeft ≠ 0 ∧ (s.stk 0).blockMap = [] ∧ s.mem.latent = []) := by decide +kernel
theorem test_witness_Retire_reserveEmpty : let k0 := jobOn.stk 0; let s := jobOn.modStk 0 (fun k => { k with retiring := [5], blockMap := (List.range k0.blocksLeft).map (fun n => (n + 8, n)) })
    (s.stk 0).retiring = [5] ∧ (s.stk 0).blocksLeft = 0 := by decide +kernel
theorem test_witness_FlashWrite : ({ jobOn with flash := { jobOn.flash with dirty := true } } : State).flash.dirty = true := by decide +kernel
theorem test_witness_Stalled : let s := { jobOn with mem := { jobOn.mem with stalled := [(0, [1])] } }; s.mem.stalled = [(0, [1])] ∧ 0 / 0x3000000000 = (0 : BitVec 2).toNat ∧ noSlot s 0 = false := by
  decide +kernel

/-- A running job whose plan takes checkpoints of page 0, generation 1 under way. -/
def copying (m : Mem) (k : Ckpt) : State :=
  { jobOn with job := some { job with launch := some { launch with plan := { plan with ckptEn := true } } }, mem := m, ckpt := { k with inProgress := some 1 } }
/-- The same while it restores. -/
def restoring0 (k : Ckpt) : State :=
  { copying { jobOn.mem with xlt := [(0, 3)], restorePending := [0] } k with ckpt := { k with restoring := true } }

/-- Page 0 mapped within an open checkpoint window. -/
def window : Mem := { jobOn.mem with xlt := [(0, 3)], windowOpen := true }
/-- What every clause over a generation under way assumes. -/
def underWay (s : State) : Bool := s.ckptPlan == some ckptPlan && s.ckpt.inProgress == some 1 && s.pins.powered

theorem test_witness_CheckpointsProceed_granuleCopyHeld : let s := (copying { window with ckptPend := [0] } Ckpt.reset).modStk 0 (fun k => { k with hotStop := true })
    underWay s = true ∧ s.mem.windowOpen = true ∧ s.nextGranule (0 : BitVec 2).toNat = some (0, false) ∧ s.granuleHeld 0 = true := by decide +kernel
theorem test_witness_CheckpointsProceed_granuleCopyUnmapped : let s := copying { window with ckptPend := [0], xlt := [] } Ckpt.reset
    underWay s = true ∧ s.mem.windowOpen = true ∧ s.nextGranule (0 : BitVec 2).toNat = some (0, false) ∧ s.granuleVa 0 = none ∧ s.granuleHeld 0 = false ∧ s.mem.latent = [] := by decide +kernel
theorem test_witness_CheckpointsProceed_granuleCopyPending : let s := copying { window with ckptPend := [0] } Ckpt.reset
    underWay s = true ∧ s.mem.windowOpen = true ∧ s.nextGranule (0 : BitVec 2).toNat = some (0, false) ∧ s.granuleVa 0 = some 0 ∧ s.granuleHeld 0 = false ∧ s.mem.latent = [] ∧
    s.hostStoreOpen ckptPlan = true ∧ 65536 * (0 - ckptPlan.vbase.toNat / 65536) + 65536 ≤ ckptPlan.vbytes.toNat := by decide +kernel
theorem test_witness_CheckpointsProceed_granuleCopyCaptured : let s := copying { window with staging := [(0, [(0, 7)])] } Ckpt.reset
    underWay s = true ∧ s.mem.windowOpen = true ∧ s.nextGranule (0 : BitVec 2).toNat = some (0, true) ∧ s.granuleVa 0 = some 0 ∧ s.granuleHeld 0 = false ∧ s.mem.latent = [] := by decide +kernel
theorem test_witness_CheckpointsProceed_close : let s := copying window Ckpt.reset
    underWay s = true ∧ s.mem.windowOpen = true ∧ s.mem.ckptPend = [] ∧ s.mem.staging = [] ∧ s.mem.stalled = [] := by decide +kernel
/-- A store slot with generation 0, so that its store is seeded. -/
def seedSlot : StoreSlot := { StoreSlot.empty with gen := some 0 }
theorem test_witness_CheckpointsProceed_manifestWrite (ok seed : Bool) : let k := { Ckpt.reset with windowClosed := true, primaryOk := ok }
    let s := copying { window with xlt := [(0, 67)] } { k with host := [if seed then seedSlot else StoreSlot.empty, StoreSlot.empty] }
    underWay s = true ∧ s.ckpt.windowClosed = true ∧ s.ckpt.manifestDone = false ∧ s.ckptUnacked = false ∧ s.ckpt.buddy.length = 2 ∧ s.ckpt.host.length = 2 ∧
    s.ckpt.primaryOk = ok ∧ s.buddyPrimary ckptPlan = false ∧ (seeded s.ckpt.host || s.fullGeneration ckptPlan) = seed := by
  revert ok seed; decide +kernel
theorem test_witness_CheckpointsProceed_commitAgreement (ok : Bool) : let s := copying window { Ckpt.reset with manifestDone := true, primaryOk := ok, copied := [0] }
    underWay s = true ∧ s.ckpt.manifestDone = true ∧ s.ckptUnacked = false ∧ s.ckpt.wardBad = false ∧ s.ckpt.primaryOk = ok ∧ s.ckpt.copied = [0] ∧
    kvGet s.mem.xlt (0 / 32) = some 3 := by
  revert ok; decide +kernel
/-- The slot of the generation has been written to the host store. -/
theorem test_witness_CheckpointsProceed_commitAgreementHost : let s := copying window { Ckpt.reset with manifestDone := true, primaryOk := true, host := [StoreSlot.empty, { seedSlot with gen := some 1 }] }
    underWay s = true ∧ (s.ckpt.host.getD ((1 : U64).toNat % 2) StoreSlot.empty).gen = some 1 := by decide +kernel

/-- Page 0 waits for its granule 0 of generation 0, which the host store holds, or the buddy store. -/
def fetching (fromBuddy : Bool) (digest : List Byte) : State :=
  let slot := { seedSlot with digests := [(0, digest)] }
  restoring0With { Ckpt.reset with host := if fromBuddy then [] else [slot], buddy := if fromBuddy then [slot] else [], fetches := [(0, true)] }
where
  /-- The member while it restores, with its rollback list. -/
  restoring0With (k : Ckpt) : State := { restoring0 k with mem := { (restoring0 k).mem with rollback := [0] } }
theorem test_witness_CheckpointsProceed_demandFetch : (restoring0 Ckpt.reset).ckptPlan = some ckptPlan ∧ (restoring0 Ckpt.reset).ckpt.restoring = true ∧
    (restoring0 Ckpt.reset).mem.restorePending.contains ((0 : U64).toNat / 0x200000) = true ∧ (restoring0 Ckpt.reset).pins.powered = true := by decide +kernel
theorem test_witness_CheckpointsProceed_backgroundRestore : (restoring0 Ckpt.reset).ckptPlan = some ckptPlan ∧ (restoring0 Ckpt.reset).ckpt.restoring = true ∧
    (restoring0 Ckpt.reset).nextRestore = some 0 := by decide +kernel
theorem test_witness_CheckpointsProceed_pageRestored (buddy : Bool) (digest : List Byte) : let s := fetching buddy digest
    s.ckptPlan = some ckptPlan ∧ s.pins.powered = true ∧ s.ckpt.restoring = true ∧
    slotWith (if buddy then s.ckpt.buddy else s.ckpt.host) s.resumeGen = some { seedSlot with digests := [(0, digest)] } ∧ s.fromBuddy = buddy ∧
    s.ckpt.fetches.find? (fun e => e.1 == 0) = some (0, true) ∧ s.mem.restorePending.contains 0 = true ∧ kvGet s.mem.xlt 0 = some 3 ∧
    s.pageGranules 0 = [0] ∧ s.granuleHeld (entryFrame 3 * 32 + 0 % 32) = false ∧ kvGet { seedSlot with digests := [(0, digest)] }.digests 0 = some digest := by
  refine ⟨rfl, rfl, rfl, ?_, ?_, rfl, rfl, rfl, rfl, ?_, rfl⟩ <;> cases buddy <;> rfl
/-- A digest-list entry has at most 16 bytes, so that one of 17 matches no granule; each granule matches its own. -/
theorem test_witness_CheckpointsProceed_pageRestoredDigest (bs : List Byte) : some (zeroBytes 17) ≠ some (granuleDigest bs) ∧ some (granuleDigest bs) = some (granuleDigest bs) := by
  refine ⟨fun h => ?_, rfl⟩
  have : (granuleDigest bs).length ≤ 16 := List.length_take_le ..
  rw [← Option.some.inj h] at this
  exact absurd this (by decide)
theorem test_witness_CheckpointsProceed_buddyReseed : let k := { Ckpt.reset with host := [seedSlot], reseeding := true }; let s := copying jobOn.mem k
    s.ckptPlan = some ckptPlan ∧ slotWith s.ckpt.host s.resumeGen = some seedSlot ∧ s.ckpt.reseeding = true ∧ s.running = true := by decide +kernel

/-- The fabric manager's messages come from its identifier. -/
def fm : MgmtSrc := .fabric 0
/-- The job in a phase with a launch. -/
def phased (p : LaunchPhase) (l : Option LaunchBody) : State := { jobOn with job := some { job with phase := p, launch := l, forwarded := false } }
/-- The binding of members 1 and 2. -/
def binding (tag : U16) : BindBody := { jobTag := tag, epoch := 1, ownRank := 0, fabIds := [1, 2] }

/-- What every clause over a message of the fabric manager assumes. -/
def spoken (s : State) : Bool := s.fromFm fm && s.pins.powered && !s.sec.romRecovery

theorem test_witness_LaunchMessages_bind : (jobOn.fromFm .tray = false ∧ jobOn.sec.romRecovery = false) ∧
    (let s := { jobOn with sec := { jobOn.sec with bootStatus := 0x8902 } }; spoken s = true ∧ s.setupOnly = true) ∧
    (spoken jobOn = true ∧ jobOn.setupOnly = false ∧ jobOn.synced = false) ∧
    (let s := { pps with job := some job }; spoken s = true ∧ s.setupOnly = false ∧ s.synced = true ∧
      job.tag = (binding 5).jobTag ∧ job.epoch = (binding 5).epoch ∧ job.epoch ≠ { binding 5 with epoch := 2 }.epoch ∧ job.tag ≠ (binding 6).jobTag) ∧
    (spoken pps = true ∧ pps.setupOnly = false ∧ pps.synced = true ∧ pps.job = none ∧ pps.stillZeroing = false) ∧
    (let s := { pps with tiles := [(tile0, { Tile.reset with zeroing := true })] }; spoken s = true ∧ s.setupOnly = false ∧ s.synced = true ∧ s.job = none ∧ s.stillZeroing = true) := by
  decide +kernel

/-- The job bound and not launched. -/
def boundJob : Job := { job with phase := .bound, launch := none, forwarded := false }
/-- A job with an owner's store: a survivor that resumes generation 1. -/
def resumeLaunch : LaunchBody :=
  { launch with gen := 1, plan := { plan with ckptEn := true }, ckpt := { ckptPlan with buddyRank := 1, wardRank := 1, wardStore := 0x8000000000, hostStore := 0 } }
theorem test_witness_LaunchMessages_launch : let s := phased .bound none
    spoken s = true ∧ s.job = some boundJob ∧ boundJob.phase = .bound ∧ boundJob.image = none ∧ launchFault s launch = 0 ∧ launch.gen = 0 ∧
    (launchFault s { launch with mode := 4 } ≠ 0 ∧ launchFault s { launch with mode := 4 } ≠ 0x8219) ∧
    launchFault s { launch with plan := { plan with checkFrames := [100000, 0, 0, 0] } } = 0x8219 ∧
    (launchFault s { launch with gen := 1 } = 0 ∧ { launch with gen := 1 }.gen ≠ 0 ∧ { launch with gen := 1 }.plan.ckptEn = false) := by decide +kernel
/-- A survivor whose buddy store holds generation 1 resumes from it; one whose stores hold nothing finds none. -/
theorem test_witness_LaunchMessages_resume : let s := { phased .bound none with ckpt := { Ckpt.reset with buddy := [{ StoreSlot.empty with gen := some 1 }], buddyId := some 2 } }
    spoken s = true ∧ launchFault s resumeLaunch = 0 ∧ resumeLaunch.gen ≠ 0 ∧ resumeLaunch.plan.ckptEn = true ∧
    (findGeneration s resumeLaunch.ckpt resumeLaunch.gen).isSome = true ∧
    launchFault (phased .bound none) resumeLaunch = 0 ∧ findGeneration (phased .bound none) resumeLaunch.ckpt resumeLaunch.gen = none := by decide +kernel

/-- A launched job whose image has not come, with or without a child in the tree. -/
def launchedJob (child : Bool) : Job := { job with phase := .launched, forwarded := false, members := if child then [1, 2] else [1] }
theorem test_witness_LaunchMessages_image (child : Bool) : let s := { jobOn with job := some (launchedJob child) }
    spoken s = true ∧ (launchedJob child).launch = some launch ∧ (launchedJob child).phase = .launched ∧ (launchedJob child).forwarded = false ∧
    (launchedJob child).childAcks = [] ∧ shake256 [] = launch.programDigest ∧ s.children = (if child then [1] else []) ∧ launch.hintCount = 0 ∧ s.wardMapped launch = true := by
  refine ⟨?_, rfl, rfl, rfl, rfl, rfl, ?_, rfl, ?_⟩ <;> revert child <;> decide +kernel
/-- A launch whose PROGRAM_DIGEST is not the image's. -/
theorem test_witness_LaunchMessages_wrongImage : let l := { launch with programDigest := zeroBytes 64 }; let s := phased .launched (some l)
    spoken s = true ∧ s.job = some { job with phase := .launched, launch := some l, forwarded := false } ∧ shake256 [] ≠ l.programDigest := by
  refine ⟨by decide +kernel, rfl, ?_⟩
  rw [test_shake256_empty]; decide +kernel
theorem test_witness_LaunchMessages_imageAgain : jobOn.job = some job ∧ job.phase = .running ∧ shake256 [] = job.programDigest ∧
    (phased .ready (some launch)).job = some { job with phase := .ready, forwarded := false } := ⟨rfl, rfl, rfl, rfl⟩
theorem test_witness_ImagesFollowTheirDigest : shake256 [] ≠ { job with programDigest := zeroBytes 64 }.programDigest ∧ job.forwarded = true ∧
    (let s := { phased .bound none with job := some { boundJob with image := some [] } }; let l := { launch with programDigest := zeroBytes 64 }
      spoken s = true ∧ launchFault s l = 0 ∧ l.gen = 0 ∧ shake256 [] ≠ l.programDigest) := by
  refine ⟨?_, rfl, ?_, ?_, rfl, ?_⟩
  · rw [test_shake256_empty]; decide +kernel
  · decide +kernel
  · decide +kernel
  · rw [test_shake256_empty]; decide +kernel

/-- The launched job after its image. -/
def waitingJob : Job := { job with phase := .launched }
theorem test_witness_LaunchMessages_acknowledge : let s := { jobOn with job := some waitingJob }
    spoken s = true ∧ waitingJob.phase = .launched ∧ waitingJob.forwarded = true ∧ s.children.contains 1 = true ∧ waitingJob.childAcks.contains 1 = false ∧
    waitingJob.forwardedAt.toNat + 100000000 ≤ (atTime s 100000000).tim.now.toNat ∧ s.tim.now.toNat < waitingJob.forwardedAt.toNat + 100000000 ∧
    s.rankOf (2 : U16).toNat = some 1 ∧ waitingJob.launch = some launch ∧ launch.hintCount.toNat ≤ waitingJob.hintPages.length ∧
    s.children.all (natInsert waitingJob.childAcks 1).contains = true ∧ s.wardMapped launch = true ∧
    (let t := phased .launched (some launch); t.rankOf (2 : U16).toNat = some 1 ∧ t.children.contains 1 = true ∧ t.sec.romRecovery = false) := by decide +kernel
theorem test_witness_LaunchMessages_hints : let l := { launch with hintCount := 1 }; let s := phased .ready (some l); let t := phased .launched (some l)
    spoken s = true ∧ spoken t = true ∧ [(0 : U64)] ≠ [] ∧ [(0 : U64)].length ≤ 7900 ∧ (0 : U32).toNat + [(0 : U64)].length ≤ l.hintCount.toNat ∧
    s.job = some { job with phase := .ready, launch := some l, forwarded := false } ∧ t.job = some { job with phase := .launched, launch := some l, forwarded := false } := by decide +kernel
theorem test_witness_LaunchMessages_go : let s := phased .ready (some resumeLaunch)
    spoken s = true ∧ s.job = some { job with phase := .ready, launch := some resumeLaunch, forwarded := false } ∧ resumeLaunch.plan.ckptEn = true ∧ resumeLaunch.gen ≠ 0 ∧
    spoken jobOn = true ∧ job.phase ≠ .ready ∧ job.launch ≠ none := by decide +kernel
theorem test_witness_TeardownEndsTheJob : spoken jobOn = true ∧ jobOn.job = some job ∧ jobOn.fromFm .tray = false := by decide +kernel

/-- The job with its bypass relays open. -/
def ringed : State := { jobOn with pins := { jobOn.pins with bypassOpen := true } }
/-- A frame to every package, from the tray controller. -/
def frameAll : EvfHdr := { dst := 0xFF, src := 0, seq := 1, crcOk := true }

theorem test_witness_MessagesAndFrames_heard : ringed.pins.powered = true ∧ ringed.pins.bypassOpen = true ∧ ringed.pins.pairsIn.any (fun b => b) = true ∧ frameAll.crcOk = true ∧
    frameAll.dst = 0xFF ∧ { frameAll with dst := BitVec.ofNat 8 ringed.ringPos }.dst.toNat = ringed.ringPos ∧ ringed.ringOut = true := by decide +kernel
theorem test_witness_MessagesAndFrames_notHeard : { frameAll with dst := 9 }.dst.toNat ≠ ringed.ringPos ∧ { frameAll with dst := 9 }.dst ≠ 0xFF ∧
    { frameAll with crcOk := false }.crcOk = false ∧ jobOn.pins.bypassOpen = false := by decide +kernel
theorem test_witness_MessagesAndFrames_catch : let s := { jobOn with regs := [(secBase + 0x100, (7 : U32))] }
    RegFile.wf s.regs ∧ kvGet s.regs (secBase + 0x100) = some 7 ∧ (∃ p, snapOf (secBase + 0x100) = some p) ∧ s.catchRecent = false ∧ snapOf (detBase + 8) = none :=
  ⟨by decide +kernel, by decide +kernel, ⟨_, by rfl⟩, by decide +kernel, by decide +kernel⟩
theorem test_witness_MessagesAndFrames_timeMatch : let s := jobOn.setReg snapBase 8
    s.pins.powered = true ∧ s.regBit snapBase 3 = true ∧ s.reg64 (snapBase + 8) ≤ s.tim.now.toNat := by decide +kernel
/-- A catch by message acts at once, at a time, or not at all where EN_EVFEK is clear. -/
theorem test_witness_MessagesAndFrames_catchMsg : jobOn.sec.romRecovery = false ∧ jobOn.fromFm fm = true ∧ (jobOn.setReg snapBase 0).regBit snapBase 4 = false ∧ jobOn.regBit snapBase 4 = true ∧
    (0 : U64) = 0 ∧ (5 : U64) ≠ 0 := by decide +kernel
theorem test_witness_MessagesAndFrames_limit : let s := (jobOn.setReg pwrBase 8).setReg (pwrBase + 0xC) 2500
    s.sec.romRecovery = false ∧ s.holding = true ∧ s.reg (pwrBase + 0xC) < clampLimit (3000 : U16).toNat ∧ ¬(s.reg (pwrBase + 0xC) < clampLimit (2400 : U16).toNat) ∧
    jobOn.holding = false ∧ s.fromFm fm = true ∧ (MgmtSrc.fabric 7) ≠ .tray ∧ s.fromFm (.fabric 7) = false := by decide +kernel
/-- A command is fresh, or is the one last applied. -/
theorem test_witness_MessagesAndFrames_evfekCommand : ringed.mgmt.lastSeq.find? (fun e => e.1 == frameAll.src && e.2.1 == frameAll.seq) = none ∧ frameAll.src = 0 ∧
    { frameAll with src := 3 }.src ≠ 0 ∧ ringed.mgmt.lastSeq.find? (fun e => e.1 == { frameAll with src := 3 }.src && e.2.1 == { frameAll with src := 3 }.seq) = none ∧
    ({ ringed with mgmt := { ringed.mgmt with lastSeq := [(0, 1, 7)] } } : State).mgmt.lastSeq.find? (fun e => e.1 == frameAll.src && e.2.1 == frameAll.seq) = some (0, 1, 7) := by decide +kernel
theorem test_witness_MessagesAndFrames_evfekResend : let s := { ringed with mgmt := { ringed.mgmt with outCmds := [(3, 2, 0)] }, tim := { ringed.tim with now := 1000000 } }
    s.mgmt.outCmds.find? (fun e => e.2.1 < 3 && e.2.2.toNat + 1000000 ≤ s.tim.now.toNat) = some (3, 2, 0) ∧
    (let t := { ringed with mgmt := { ringed.mgmt with outCmds := [(3, 2, 0), (4, 3, 0)] }, tim := { ringed.tim with now := 999999 } };
      ∀ e ∈ t.mgmt.outCmds, 3 ≤ e.2.1 ∨ t.tim.now.toNat < e.2.2.toNat + 1000000) := by decide +kernel
theorem test_witness_MessagesAndFrames_ringPairFailed : jobOn.pins.pairsOut.getD (1 : BitVec 1).toNat false = true ∧ jobOn.pins.pairsIn.getD (0 : BitVec 1).toNat false = true := by decide +kernel
/-- An unbound package with a challenge outstanding, under the key for which `idSig` signs every message: the unlock succeeds; while a job is bound,
or without a challenge, it does not. -/
theorem test_witness_MessagesAndFrames_dbgUnlock : let s := { on with sec := { on.sec with challenge := some (zeroBytes 32) }, flash := { on.flash with firmwareKey := idKey } }
    (ed448Verify s.flash.firmwareKey "BGL-debug" (zeroBytes 32 ++ keyId s ++ leBytes 8 s.flash.bootCount.toNat) idSig && !s.bound && !bitOf s.sec.ownerPolicy.toNat 2) = true ∧
    s.sec.challenge = some (zeroBytes 32) ∧ s.pins.powered = true ∧ on.sec.challenge = none ∧ jobOn.bound = true := by
  refine ⟨?_, rfl, rfl, rfl, rfl⟩
  simp only [test_ed448_identity]
  rfl


/-! ## Witnesses: time, Azmarlink, power and the invariants -/

/-- PTP enabled and locked, the counter synchronised. -/
def timed : State := let s := pps.setReg (timBase + 0xC) 7; { s with tim := { s.tim with locked := [.ptp], source := some .ptp } }
theorem test_witness_TimeSourcesAct_message : timed.sec.romRecovery = false ∧ timed.pins.powered = true ∧ timed.timeOn .ptp = true ∧ timed.timeOn .azmarlink = true ∧ timed.timeOn .evfek = true ∧
    timed.synced = true ∧ on.synced = false ∧ (timed.setReg (timBase + 0xC) 8).regBit (timBase + 0xC) 3 = true ∧
    [TimeSrc.ptp, .azmarlink, .evfek].find? (fun y => timed.timeOn y && timed.tim.locked.contains y) = some .ptp := by decide +kernel
theorem test_witness_TimeSourcesAct_frame : ringed.pins.bypassOpen = true ∧ ringed.pins.pairsIn.any (fun b => b) = true ∧ frameAll.crcOk = true ∧ frameAll.dst = 0xFF := by decide +kernel
theorem test_witness_TimeSourcesAct_ptp : bitsOf (timed.reg (timBase + 0xC)) 15 8 = (0 : BitVec 8).toNat ∧ bitsOf (timed.reg (timBase + 0xC)) 15 8 ≠ (1 : BitVec 8).toNat := by decide +kernel
theorem test_witness_TimeSourcesAct_holdover : timed.tim.source = some .ptp ∧ on.tim.source = none := by decide +kernel
theorem test_witness_TimeSourcesAct_tolerance : let s := timed.setReg (timBase + 8) 17
    s.synced = true ∧ 1000000 < (2000000 : U32).toInt.natAbs ∧ s.regBit (timBase + 8) 4 = true ∧
    (let t := { s with tim := { s.tim with now := 10000000001 } }; t.synced = true ∧ t.regBit (timBase + 8) 4 = true ∧ t.tim.lostAt.toNat + 10000000000 < t.tim.now.toNat) ∧
    on.regBit (timBase + 8) 4 = false ∧ s.tim.now.toNat ≤ s.tim.lostAt.toNat + 10000000000 ∧ on.synced = false := by decide +kernel

/-- Port 0 with its state at choice. -/
def ported (x : Port) : State := { jobOn with fab := { jobOn.fab with ports := x :: (jobOn.fab.ports.drop 1) } }
/-- Port 0 up at full width. -/
def up0 : Port := { Port.reset 0 with up := true, rate := 3, width := 4 }
/-- What every clause over a lane fault of port 0 assumes. -/
def laneFaulty (x : Port) : Bool :=
  let s := ported x
  (s.port 0).lanes.findIdx? (fun y => y == (1 : BitVec 5).toNat && y != 31) == some 1 && (s.port 0).up && !(s.port 0).disabled && s.fab.ports.length == 16
/-- The faulted lane can be spared. -/
def laneSpares (x : Port) : Bool :=
  x.sparing == none && (markFailed ((ported x).modPort 0 (fun _ => { x with failed := x.failed ++ [1] })) (.lane 0 (dieLane 0 1))).spareFree 0
theorem test_witness_LanesAndPathsChange_spared : laneFaulty up0 = true ∧ laneSpares up0 = true := by decide +kernel
theorem test_witness_LanesAndPathsChange_narrowed : let x := { up0 with sparing := some 0 }
    laneFaulty x = true ∧ laneSpares x = false ∧ { x with failed := x.failed ++ [1] }.healthy 0 = [0, 2, 3] := by decide +kernel
theorem test_witness_LanesAndPathsChange_disabled : let x := { up0 with sparing := some 0, failed := [0, 2] }
    laneFaulty x = true ∧ laneSpares x = false ∧ ({ x with failed := x.failed ++ [1] }.healthy 0).length < 2 := by decide +kernel
theorem test_witness_LanesAndPathsChange_laneSpared : ((ported { up0 with sparing := some 2 }).port 0).sparing = some 2 := by decide +kernel
theorem test_witness_LanesAndPathsChange_training : (up0.up = true ∧ ({ Port.reset 0 with disabled := true } : Port).disabled = true) ∧
    ((jobOn.port 0).up = false ∧ (jobOn.port 0).disabled = false ∧ jobOn.sec.romRecovery = false) ∧
    (jobOn.portServes 0 = true ∧ 0 < trainRate jobOn 0 7 3 ∧ trainRate jobOn 0 0 3 = 0 ∧ jobOn.fab.ports.any Port.up = false) ∧
    ((Port.reset 0).lanes.length = 4 ∧ (Port.reset 0).lanes.all (fun l => l != 31) = true) ∧
    (let s := { jobOn with fab := { jobOn.fab with flySeated := [false, true, true, true] } }; s.portServes 0 = false ∧ (s.port 0).up = false ∧ (s.port 0).disabled = false) := by
  decide +kernel
/-- Port 1 is up: port 0 trains under the identifiers that it brought, and under no others. -/
theorem test_witness_LanesAndPathsChange_laterPort : let s := { jobOn with fab := { jobOn.fab with ports := setAt jobOn.fab.ports 1 (fun x => { x with up := true }) } }
    s.fab.ports.any Port.up = true ∧ (s.port 0).up = false ∧ (s.port 0).disabled = false ∧ s.portServes 0 = true ∧ 0 < trainRate s 0 7 3 ∧
    (s.fabId = (BitVec.ofNat 16 s.fabId : U16).toNat ∧ s.fmId = (BitVec.ofNat 16 s.fmId : U16).toNat) ∧ ¬(s.fabId = (9 : U16).toNat ∧ s.fmId = (0 : U16).toNat) := by decide +kernel
theorem test_witness_LanesAndPathsChange_replay : jobOn.regBit (portBase 0 + 0xF0) 3 = false ∧ jobOn.reg64 (portBase 0 + 0x118) + 1 < 2 ^ 64 := by decide +kernel
theorem test_witness_LanesAndPathsChange_paths : ((ported { up0 with pathDown := [2] }).port 0).pathDown.contains 2 = true ∧ ((ported up0).port 0).pathDown.contains 2 = false := by decide +kernel

/-- Port 0 up toward member 2, with a space toward it. -/
def linked (out queued : List TxReq) : State :=
  { ported up0 with fab := { (ported up0).fab with tx := [{ dst := 2, fd := 0, next := 8, out := out, queued := queued, carried := 0, lastPort := 0 }] } }
/-- A request of host ring 0 to member 2. -/
def req (t : PktType) (o : Origin) : TxReq := { typ := t, hdr := { hdr with srcId := 0, dstId := 2, seq := 7 }, data := [], origin := o, port := 0, slot := 0, resends := 0, sentAt := 0 }
theorem test_witness_FabricTimersAct_resend : let s := atTime (linked [req .write (.host ctx)] []) 1000000
    let r := req .write (.host ctx)
    r.sentAt.toNat + 200000 * (r.resends + 1) ≤ s.tim.now.toNat ∧ r.sentAt.toNat + 1000000 ≤ s.tim.now.toNat ∧
    ¬(r.sentAt.toNat + 200000 * (r.resends + 1) ≤ (linked [r] []).tim.now.toNat) ∧
    s.pins.powered = true ∧ s.outReq 2 (0 : BitVec 1).toNat 7 = some (req .write (.host ctx)) ∧ s.portInHalf (0 : BitVec 1).toNat 0 2 = some 0 ∧ (req .write (.host ctx)).resends < 4 ∧
    s.fab.msgBusy.contains (2, 7) = false ∧ s.fab.unresponsive.contains 2 = false := by decide +kernel
theorem test_witness_FabricTimersAct_resentFourTimes : let r := { req .write (.host ctx) with resends := 4 }; let s := linked [r] []
    s.outReq 2 (0 : BitVec 1).toNat 7 = some r ∧ s.portInHalf (0 : BitVec 1).toNat 0 2 = some 0 ∧ 4 ≤ r.resends := by decide +kernel
theorem test_witness_FabricTimersAct_unresponsive : let l := linked [req .write (.host ctx)] []; let s := { l with fab := { l.fab with unresponsive := [2] } }
    s.outReq 2 (0 : BitVec 1).toNat 7 = some (req .write (.host ctx)) ∧ s.portInHalf (0 : BitVec 1).toNat 0 2 = some 0 ∧ s.fab.unresponsive.contains 2 = true := by decide +kernel
theorem test_witness_FabricTimersAct_drainTimeout : let l := linked [] []; let s := { l with fab := { l.fab with drains := [⟨2, 0, [0], [], 0⟩] } }
    let us := max 1 (bitsOf (s.reg (fabBase ((0 : BitVec 4).toNat / 8) + 8)) 11 0)
    us = 500 ∧ (∃ x ∈ s.fab.drains, x.dst = 2 ∧ x.port = (0 : BitVec 4).toNat ∧ x.since.toNat + 1000 * us ≤ (atTime s 500000).tim.now.toNat) ∧
    (∀ x ∈ s.fab.drains, x.dst = 2 → x.port = (0 : BitVec 4).toNat → (atTime s 499999).tim.now.toNat < x.since.toNat + 1000 * us) := by decide +kernel
theorem test_witness_FabricTimersAct_releasedDrain : let s := linked [req .write (.host ctx)] []; let x := s.txSpace 2 (0 : BitVec 1).toNat
    x.released ≠ x.carried ∧ s.portFor x.lastPort 2 = some 0 := by decide +kernel
theorem test_witness_FabricTimersAct_unexpectedResend : let l := linked [req .msg (.host ctx)] []; let s := { l with fab := { l.fab with msgBusy := [(2, 7)] } }
    s.fab.msgBusy.contains (2, 7) = true ∧ (s.txSpace 2 (0 : BitVec 1).toNat).out.find? (fun e => e.hdr.seq == 7) = some (req .msg (.host ctx)) ∧
    s.portInHalf (0 : BitVec 1).toNat 0 2 = some 0 := by decide +kernel
theorem test_witness_FabricTimersAct_queued : let s := linked [] [req .write (.host ctx)]
    (s.txSpace 2 (0 : BitVec 1).toNat).queued = [req .write (.host ctx)] ∧ (req .write (.host ctx)).hdr.dstId = 2 ∧ s.portFor 0 2 = some 0 ∧
    (s.txSpace 2 (0 / 8)).out.length < 4096 ∧ s.fab.drains.any (fun y => y.dst == 2 && y.slots.contains 0) = false := by decide +kernel
theorem test_witness_FabricTimersAct_queuedColl : let l := linked [] []
    let s := { l with fab := { l.fab with tx := [{ dst := 2, fd := 2, next := 8, out := [], queued := [req .collCtrl .none], carried := 0, lastPort := 0 }] } }
    (s.txSpace 2 (0 : BitVec 1).toNat).queued = [] ∧ (s.txSpace 2 ((0 : BitVec 1).toNat + 2)).queued = [req .collCtrl .none] ∧
    (s.txSpace 2 ((0 : BitVec 1).toNat + 2)).out.length < 4096 ∧ s.portInHalf (0 : BitVec 1).toNat 0 2 = some 0 := by decide +kernel

/-- Page 0 open to the fabric for reading and writing. -/
def served : State := { linked [] [] with mem := { jobOn.mem with xlt := [(0, 15)] } }
/-- A header at address 0. -/
def hdr0 (op : BitVec 8) : PktHdr := { hdr with op := op, addr := 0 }
theorem test_witness_FabricTimersAct_replayFree : served.replayUsed (0 : BitVec 1).toNat < 262144 ∧ served.fab.cacheWait.any (fun e => e.1 / 8 == (0 : BitVec 1).toNat) = false := by decide +kernel
/-- A fabric die's replay cache with that many entries. -/
theorem replayUsed_many (n : Nat) (e : ReplayEntry) (h : e.fd = 0) :
    ({ served with fab := { served.fab with replay := List.replicate n e } } : State).replayUsed 0 = n := by
  simp [State.replayUsed, h]
theorem test_witness_FabricTimersAct_replayFull :
    262144 ≤ ({ served with fab := { served.fab with replay := List.replicate 262144 ⟨2, 0, 0, 0, 0, false⟩ } } : State).replayUsed (0 : BitVec 1).toNat :=
  Nat.le_of_eq (replayUsed_many 262144 _ rfl).symm
theorem test_witness_FabricTimersAct_cacheWait : let s := { served with fab := { served.fab with cacheWait := [(0, hdr0 1, 1, 0)] } }
    s.fab.cacheWait = [(0, hdr0 1, 1, 0)] ∧ 0 / 8 = (0 : BitVec 1).toNat ∧ s.replayUsed 0 < 262144 ∧ waitsForStack s (hdr0 1).addr.toNat 8 = false ∧
    (s.rxSpace (hdr0 1).srcId 0).place (hdr0 1).seq = .fresh 0 ∧ resolve s (hdr0 1).addr.toNat false = .ok (.stack 0) ∧ cleanMem s := by
  refine ⟨rfl, rfl, ?_, ?_, ?_, ?_, ⟨rfl, rfl, rfl, rfl, rfl⟩⟩ <;> decide +kernel
theorem test_witness_FabricTimersAct_combineSet : let c : CombineSet := ⟨0, 0, 1, 0, [(2, 0, 1, 0)]⟩; let s := { served with fab := { served.fab with sets := [c] } }
    s.fab.sets.find? (fun c => c.fd == (0 : BitVec 1).toNat) = some c ∧ waitsForStack s c.vaddr.toNat 8 = false ∧ s.fab.cacheWait = [] ∧
    (s.rxSpace 2 c.fd).place 0 = .fresh 0 ∧ s.replayUsed (0 / 8) < 262144 ∧ cleanMem s ∧ resolve s c.vaddr.toNat false = .ok (.stack 0) := by
  refine ⟨?_, ?_, rfl, ?_, ?_, ⟨rfl, rfl, rfl, rfl, rfl⟩, ?_⟩ <;> decide +kernel

/-- A packet for this package with a good check, of the job's epoch, whose answer leaves on port 0. -/
theorem test_witness_RequestsAreServed_due (op : BitVec 8) : let h := hdr0 op; let s := served
    s.pins.powered = true ∧ h.dstId.toNat = s.fabId ∧ h.crcOk = true ∧ jobCheck s h = 0 ∧ s.portFor (0 : BitVec 4).toNat h.srcId = some 0 ∧
    (s.rxSpace h.srcId 0).place h.seq = .fresh 0 ∧ s.fab.earlyMsgs = [] ∧ crewOf h.srcId.toNat = crewOf s.fabId :=
  ⟨rfl, rfl, rfl, rfl, (by decide +kernel : served.portFor 0 2 = some 0), (by decide +kernel : (served.rxSpace 2 0).place 0 = .fresh 0), rfl, (by decide +kernel : crewOf 2 = crewOf served.fabId)⟩
theorem test_witness_RequestsAreServed_stray : ({ hdr0 1 with crcOk := false } : PktHdr).crcOk = false ∧ ({ hdr0 1 with dstId := 9 } : PktHdr).dstId.toNat ≠ served.fabId ∧
    waitsForStack served 0 (128 * (hdr0 1).lines.toNat) = false ∧ served.queuedBefore (hdr0 1) 0 (128 * (hdr0 1).lines.toNat) = false := by decide +kernel
/-- Address 0 is clear for a request of one line or one word. -/
theorem test_witness_RequestsAreServed_place (w : Bool) : resolve served (hdr0 1).addr.toNat w = .ok (.stack 0) ∧ 0 < 0xC000000000 ∧ 0 % 0x200000 + 128 ≤ 0x200000 ∧ cleanMem served ∧
    served.queuedBefore (hdr0 1) 0 128 = false ∧ served.queuedBefore (hdr0 1) 0 8 = false :=
  ⟨by revert w; decide +kernel, by decide, by decide, ⟨rfl, rfl, rfl, rfl, rfl⟩, by decide +kernel, by decide +kernel⟩
theorem test_witness_RequestsAreServed_lines : let h := hdr0 1
    128 * h.lines.toNat = 128 ∧ waitsForStack served 0 128 = false ∧ lineCheck h = 0 ∧ pageCheck served 0 false = 0 ∧ pageCheck served 0 true = 0 ∧ h.addr.toNat % 128 = 0 := by decide +kernel
theorem test_witness_RequestsAreServed_scOp : (hdr0 1).addr.toNat < 16383 ∧ (hdr0 1).op = 1 ∧ (hdr0 2).op = 2 := by decide
theorem test_witness_RequestsAreServed_atomicCombinable : let h := { hdr0 1 with combinable := true }
    waitsForStack served 0 8 = false ∧ atomicChecks h served = 0 ∧ h.combinable = true ∧ h.op = 1 ∧ served.combineOff (0 / 8) = false ∧ served.fab.sets = [] ∧ served.fab.cacheWait = [] ∧
    served.replayUsed 0 < 262144 := by decide +kernel
theorem test_witness_RequestsAreServed_atomic : let h := hdr0 3
    waitsForStack served 0 8 = false ∧ atomicChecks h served = 0 ∧ h.combinable = false ∧ served.replayUsed 0 < 262144 := by decide +kernel
theorem test_witness_RequestsAreServed_combined : let h := hdr0 1; let k : Constituent := ⟨2, 0, 1⟩
    jobCheck served { h with srcId := k.srcId, seq := k.seq } = 0 ∧ crewOf k.srcId.toNat = crewOf served.fabId ∧ (served.rxSpace k.srcId 0).place k.seq = .fresh 0 ∧
    waitsForStack served 0 8 = false ∧ atomicChecks h served = 0 ∧ served.queuedBefore { h with srcId := k.srcId, seq := k.seq } 0 8 = false ∧ served.replayUsed 0 < 262144 := by decide +kernel
theorem test_witness_RequestsAreServed_msgEarly : let h := { hdr0 3 with seq := 2 }
    (served.rxSpace h.srcId 0).place h.seq = .fresh 2 ∧ 2 ≠ (served.rxSpace h.srcId 0).below ∧ jobCheck served h = 0 := by decide +kernel
theorem test_witness_RequestsAreServed_msgReceive : let r : Recv := { queue := 3, buf := 0x100000000000, tag := 0, mask := 0, bytes := 8, cmd := ctx }; let h := hdr0 3
    let s := { served with fab := { served.fab with recvs := [r] } }
    0 = (s.rxSpace h.srcId 0).below ∧ s.fab.recvs.find? (fun r => r.matches h.op.toNat h.addr) = some r ∧ (s.rxSpace h.srcId 0).place h.seq = .fresh 0 := by decide +kernel
theorem test_witness_RequestsAreServed_msgUnexpected : let h := hdr0 3
    0 = (served.rxSpace h.srcId 0).below ∧ served.fab.recvs.find? (fun r => r.matches h.op.toNat h.addr) = none ∧ served.unexpUsed + 8 ≤ 0x100000 := by decide +kernel
theorem test_witness_RequestsAreServed_msgStoreFull : 0x100000 < served.unexpUsed + (List.replicate 0x100001 (0 : Byte)).length := by
  rw [List.length_replicate]; decide +kernel
theorem test_witness_RequestsAreServed_bulk : let h := hdr0 1; let s := { served with fab := { served.fab with bulkRegs := [(0, 0, 4096)] } }
    h.addr.toNat / 2 ^ 48 ≠ 0xFFFF ∧ s.bulkRange 0 = some (0, 4096) ∧ 0 + 128 ≤ 4096 ∧ waitsForStack s 0 128 = false ∧ resolve s 0 true = .ok (.stack 0) ∧ cleanMem s ∧
    s.queuedBefore h 0 128 = false ∧ (⟨5, 1, 16382⟩ : BulkPre).counter.toNat < 16383 ∧ (⟨5, 1, 16382⟩ : BulkPre).total.toNat ≤ h.lines.toNat :=
  ⟨by decide +kernel, by decide +kernel, by decide, by decide +kernel, by decide +kernel, ⟨rfl, rfl, rfl, rfl, rfl⟩, by decide +kernel, by decide, by decide⟩

/-- A response of member 2 to request 7. -/
def resp : PktHdr := { hdr0 0 with seq := 7 }
/-- The request of a kind and origin that it answers. -/
def answeredReq (t : PktType) (o : Origin) : TxReq := { req t o with hdr := { (req t o).hdr with addr := 0 } }
theorem test_witness_AnswersCompleteRequests (e : PktType × List PktType) (ht : e ∈ [(.write, [.write, .writeMasked, .scOp, .msg, .bulk, .collData, .collCredit, .collCtrl]), (.atomic, [.atomic]), (.read, [.read]),
      (.msg, [.read, .write, .writeMasked, .atomic, .scOp, .msg, .bulk, .collData, .collCredit, .collCtrl])])
    (o : Origin) (ho : o ∈ [.host ctx, .none, .core 0, .tileDma tile0 0 0]) : let r := answeredReq e.1 o; let s := linked [r] []
    resp.dstId.toNat = s.fabId ∧ resp.crcOk = true ∧ jobCheck s resp = 0 ∧ (s.answered (0 : BitVec 4).toNat resp e.2).map Prod.snd = some r ∧ r.origin = o ∧
    s.fab.msgBusy.contains (resp.srcId, resp.seq) = false ∧ (1 : U16) ≠ 0 := by
  simp only [List.mem_cons, List.not_mem_nil, or_false] at ht ho
  rcases ht with rfl | rfl | rfl | rfl <;> rcases ho with rfl | rfl | rfl | rfl <;> decide +kernel
theorem test_witness_AnswersCompleteRequests_core : ((core { Core.reset with ack := some 4 } 0).core 0).ack = some 4 := rfl
theorem test_witness_AnswersCompleteRequests_none : resp.dstId.toNat = served.fabId ∧ jobCheck served resp = 0 ∧ served.answered (0 : BitVec 4).toNat resp [.atomic] = none ∧
    served.answered (0 : BitVec 4).toNat resp [.read] = none ∧
    served.answered (0 : BitVec 4).toNat resp [.write, .writeMasked, .scOp, .msg, .bulk, .collData, .collCredit, .collCtrl] = none := by decide +kernel
theorem test_witness_AnswersCompleteRequests_otherJob : jobCheck served { resp with jobTag := 9 } = 0x8310 ∧ jobCheck served { resp with epoch := 9 } = 0x8311 := by decide +kernel
theorem test_witness_AnswersCompleteRequests_drain (b : Bool) : let s := { served with fab := { served.fab with drainsOut := [(2, 0, b)], drains := [⟨2, 0, [0], [], 0⟩] } }; let h := { resp with seq := 0 }
    jobCheck s h = 0 ∧ s.fab.drainsOut.find? (fun e => e.1 == h.srcId && e.2.1 == (0 : BitVec 4).toNat) = some (2, 0, b) ∧ s.fab.drains = [⟨2, 0, [0], [], 0⟩] ∧
    (⟨2, 0, [0], [], 0⟩ : DrainState).dst = h.srcId ∧ h.seq = 0 ∧
    s.answered (0 : BitVec 4).toNat h [.read, .write, .writeMasked, .atomic, .scOp, .msg, .bulk, .collData, .collCredit, .collCtrl] = none := by revert b; decide +kernel

theorem test_witness_PowerControllerActs_vin : ({ on with pwr := { on.pwr with vinExcursion := true } } : State).pwr.vinExcursion = true ∧ on.pwr.vinExcursion = false ∧ on.pins.powered = true := by decide +kernel
theorem test_witness_PowerControllerActs_holdWater : on.regBit pwrBase 3 = false ∧ (on.setReg pwrBase 8).regBit pwrBase 3 = true := by decide +kernel
/-- HOLDING with the 10 ms count begun at 0, at a time. -/
def counting (now : U64) (bits : Nat) : State := { on.setReg pwrBase bits with pwr := { on.pwr with holdCount := some 0 }, tim := { on.tim with now := now } }
theorem test_witness_PowerControllerActs_holdWaterCleared :
    (let s := counting 10000000 8; s.pwr.holdCount = some 0 ∧ (0 : U64).toNat + 10000000 ≤ s.tim.now.toNat ∧ s.regBit pwrBase 3 = true ∧ s.regBit pwrBase 5 = false) ∧
    (counting 10000000 40).regBit pwrBase 3 = true ∧ (counting 10000000 40).regBit pwrBase 5 = true ∧
    (let s := counting 9999999 8; s.pwr.holdCount = some 0 ∧ s.tim.now.toNat < (0 : U64).toNat + 10000000) := by decide +kernel
theorem test_witness_PowerControllerActs_overLimit : on.reg (pwrBase + 0x14) < 6000 ∧ 0 ≤ on.reg (pwrBase + 0x14) := by decide +kernel
theorem test_witness_PowerControllerActs_phaseEnd : on.runsPhase (1 : BitVec 8).toNat = false ∧ (running 0 0 w0 []).runsPhase (0 : BitVec 8).toNat = true := by decide +kernel
theorem test_witness_PowerControllerActs_wake : 0 < ({ on with pwr := { on.pwr with ballast := 1 } } : State).pwr.ballast ∧ on.pwr.ballast = 0 ∧ on.holding = false ∧ on.pwr.awake < 8 ∧
    (on.setReg pwrBase 8).holding = true := by decide +kernel
/-- A tile runs phase 0 with a collective outstanding, its die capped at point 0. -/
def pacing : State :=
  let s := (running 0 0 w0 []).setReg (pwrBase + 4) 1
  { s with collEng := { s.collEng with runs := [run0 true] }, pwr := { s.pwr with thermalCap := [0, 0, 0, 0], target := [0, 0, 0, 0], paceSent := [0] } }
theorem test_witness_PowerControllerActs_pace : on.pacesDue = [] ∧ pacing.pacesDue = pacing.pwr.paceSent.map BitVec.toNat ∧ pacing.pwr.paceLast = [] ∧
    (let s := atTime { pacing with pwr := { pacing.pwr with paceLast := [(0, 0)] } } 5000000; s.pacesDue = s.pwr.paceSent.map BitVec.toNat ∧
      s.pwr.paceLast = [(0, 0)] ∧ (0 : U64).toNat + 5000000 ≤ s.tim.now.toNat) ∧
    (let s := atTime { pacing with pwr := { pacing.pwr with paceLast := [(0, 0)] } } 4999999; s.pacesDue = s.pwr.paceSent.map BitVec.toNat ∧
      s.pwr.paceLast = [(0, 0)] ∧ ∀ ph ∈ s.pacesDue, (0 : BitVec 8).toNat = ph ∧ s.tim.now.toNat < (0 : U64).toNat + 5000000) := by decide +kernel
theorem test_witness_PowerControllerActs_paceMessage : headerPasses jobOn hdr = true ∧ headerPasses on hdr = false ∧ crewOf hdr.srcId.toNat = crewOf jobOn.fabId ∧
    (let s := { jobOn with job := some { job with members := [1, 128] } }; headerPasses s { hdr with srcId := 128 } = true ∧ crewOf (128 : U16).toNat ≠ crewOf s.fabId) ∧
    (jobOn.setReg (pwrBase + 4) 0).regBit (pwrBase + 4) 1 = false ∧ jobOn.regBit (pwrBase + 4) 1 = true := by decide +kernel
theorem test_witness_PowerControllerActs_paceHold : let s := { on with pwr := { on.pwr with followed := [⟨1, 0, 3, 5⟩] }, tim := { on.tim with now := 5 } }
    s.pwr.followed.any (fun f => f.rank == 1 && f.phase == 0 && f.ends.toNat ≤ s.tim.now.toNat) = true ∧
    on.pwr.followed.any (fun f => f.rank == 1 && f.phase == 0 && f.ends.toNat ≤ on.tim.now.toNat) = false := by decide +kernel
theorem test_witness_PowerControllerActs_temperature : on.regBit pwrBase 5 = false ∧ 110 ≤ max (([110] : List Nat).foldl max 0) (max 0 0) ∧ (on.setReg pwrBase 32).regBit pwrBase 5 = true := by decide +kernel
theorem test_witness_PowerControllerActs_ageing : kvGetD on.pwr.trims (islandKey (0, 0)) 0 < 20 ∧ kvGetD (kvSet on.pwr.trims (islandKey (0, 0)) 20) (islandKey (0, 0)) 0 = 20 := by decide +kernel

/-- The running job is in its canonical form, and reset is dark with a waiting command that does not power the package. -/
theorem test_witness_Canonical : Canonical jobOn ∧ (∃ t, step jobOn = .next t) :=
  ⟨⟨by decide, by decide, by decide, by decide⟩, ⟨_, rfl⟩⟩
theorem test_witness_Dark : Dark State.reset ∧ Dark { State.reset with pending := [.perstDeassert] } :=
  ⟨⟨rfl, fun _ h => by cases h⟩, ⟨rfl, fun _ h => by simp at h⟩⟩

/-! ## Worked examples of the manual -/

/-- A running tile 0 whose store holds some records. -/
def storing (cls op : Nat) (l : List (Nat × List Byte)) : State := running cls op w0 (l.foldl (fun m e => Memory.write m e.1 e.2) [])
/-- What an MMA writes. -/
def mmaWrites (l : List (Nat × List Byte)) : List (Nat × List Byte) :=
  let s := storing 1 1 l; let x := s.tile tile0
  (mmaEffect s (parseMma (descOf x w0)) x).writes
/-- What an element operation writes. -/
def eopWrites (op : Nat) (l : List (Nat × List Byte)) : List (Nat × List Byte) :=
  let s := storing 2 op l; let x := s.tile tile0
  (eopEffect s (parseEop (descOf x w0)) x op).writes

/-- The hydrology surrogate of chapter 2: E4M3 with a vector scale of 1.5 on A and block scales 2¹² and 1 on B gives 0x4BC0_0002 (R61 to R67). -/
theorem test_worked_product : mmaWrites
    [(0, record 64 [(0, 0x55), (1, 1), (2, 1), (3, 2), (4, 2), (0xC, 31), (0x10, 1), (0x14, 2), (0x16, 1), (0x18, 3), (0x1C, 4), (0x1E, 5)]),
     (64, List.replicate 32 0x38), (128, List.replicate 16 0x78 ++ List.replicate 16 0x20),
     (256, [0, 0, 0xC0, 0x3F]), (320, [0x8B, 0x7F])] = [(192, [0x02, 0, 0xC0, 0x4B])] := by decide +kernel

/-- A FP64 product of four terms (chapter 2, R67 and R80): a and b in rows of their own, with or without E_ACC. -/
def residual4 (eacc : Byte) (a b : List Nat) : List (Nat × List Byte) := mmaWrites
  [(0, record 64 [(0, 0), (1, eacc), (4, 2), (0xC, BitVec.ofNat 8 (a.length - 1)), (0x10, 1), (0x14, 2), (0x16, 1), (0x18, 3)]),
   (64, a.flatMap (leBytes 8)), (128, b.flatMap (leBytes 8))]
theorem test_worked_normal_path : residual4 0 [0x4340000000000000, 0x3FF0000000000000, 0xC340000000000000, 0x3FF0000000000000] (List.replicate 4 0x3FF0000000000000) =
    [(192, leBytes 8 0x3FF0000000000000)] := by decide +kernel
theorem test_worked_eacc : residual4 0x20 [0x4340000000000000, 0x3FF0000000000000, 0xC340000000000000, 0x3FF0000000000000] (List.replicate 4 0x3FF0000000000000) =
    [(192, leBytes 8 0x4000000000000000)] := by decide +kernel
/-- 2¹⁰⁰⁰, 2⁻¹⁰⁰ × 2⁻⁶⁰ and −2¹⁰⁰⁰: +0. -/
theorem test_worked_cancellation : residual4 0x20 [0x7E70000000000000, 0x39B0000000000000, 0xFE70000000000000] [0x3FF0000000000000, 0x3C30000000000000, 0x3FF0000000000000] =
    [(192, leBytes 8 0)] := by decide +kernel

/-- The ocean model of chapter 5: EQROW of a row with amax 896 to E4M3 has the scale 2 and the codes 0x3E, 0xCC, 0x15 and 0x7E. -/
theorem test_worked_eqrow : eopWrites 0x11
    [(0, record 64 [(0, 0), (1, 5), (0xA, 3), (0xC, 1), (0x18, 2), (0x20, 3)]),
     (64, [0x400C000000000000, 0xC028800000000000, 0x3FB999999999999A, 0x408C000000000000].flatMap (leBytes 8))] =
    [(128, [0x3E]), (129, [0xCC]), (130, [0x15]), (131, [0x7E]), (192, leBytes 4 0x40000000)] := by decide +kernel

/-- The flood-forecast job of chapter 12: crews 3 and 7 of two members each fold 2²⁵ + 1 + 1 − 2²⁵ in BF16 to 0x0000 (R410, R412). -/
theorem test_worked_allreduce : let d := parseColl (collBytes 0 2 [(9, 2)])
    let leaf (b : Nat) : List CElem := [d.leaf 0 b]
    let crew3 := d.foldAll [leaf 0x4C00, leaf 0x3F80]; let crew7 := d.foldAll [leaf 0x3F80, leaf 0xCC00]
    (d.foldAll [crew3, crew7]).map (fun x => (d.finishElem 0 x).bits) = [0x0000] := by decide +kernel

/-- A bias of −1 under BIAS and ReLU leaves 0x3B80 of 1 + 2⁻⁸ in BF16, where a stored BF16 product would leave 0 (chapter 4). -/
theorem test_worked_chain : bf16.encode (bf16.round (fp32.round (Fp.add (fp32.decode 0x3F808000) (fp32.decode 0xBF800000)))) = 0x3B80 := by decide +kernel

end Sys2Proof.Tests
end

section
/-! Every command answers a next state: the wrappers that a meaning is written with (log 1) lead to `.next` on each
of their branches, and every arm of `exec` is one of them (R11). -/

namespace Sys2Proof.Machine

/-- The answer is a next state, neither a fault nor a refusal. -/
def AnswersNext (r : Res) : Prop := ∃ t, r = .next t

theorem next_answersNext (t : State) : AnswersNext (.next t) := ⟨t, rfl⟩

theorem AnswersNext.ite {p : Prop} [Decidable p] {a b : Res} (ha : AnswersNext a) (hb : AnswersNext b) :
    AnswersNext (if p then a else b) := by
  split
  · exact ha
  · exact hb

/-! ## The wrappers of a meaning -/

theorem powered_answersNext {s f} : AnswersNext (powered s f) := (next_answersNext _).ite (next_answersNext _)
theorem overPcie_answersNext {s f} : AnswersNext (overPcie s f) := (next_answersNext _).ite (next_answersNext _)
theorem onTile_answersNext {t cls op w s body} : AnswersNext (onTile t cls op w s body) := powered_answersNext
theorem onMgmt_answersNext {s src body f} : AnswersNext (onMgmt s src body f) := powered_answersNext
theorem onFirmware_answersNext {s f} : AnswersNext (onFirmware s f) := powered_answersNext
theorem onFrame_answersNext {s h f} : AnswersNext (onFrame s h f) := powered_answersNext
theorem onCore_answersNext {c s body} : AnswersNext (onCore c s body) := powered_answersNext

/-- A ring command waits, completes with its scope's status, or does its work. -/
theorem onRing_answersNext {s c op ops body} : AnswersNext (onRing s c op ops body) := by
  cases hready : s.ready c op ops with
  | false => exact ⟨_, onRing_waits body hready⟩
  | true =>
    by_cases hscope : scopeFault s c op = 0
    · exact ⟨_, onRing_ready body hready hscope⟩
    · exact ⟨_, onRing_scope body hready hscope⟩

/-- A ring command that waits while the memory of its operands is held. -/
theorem heldOrOnRing_answersNext {held : Prop} [Decidable held] {s c op ops body} :
    AnswersNext (if held then .next s else onRing s c op ops body) :=
  (next_answersNext s).ite onRing_answersNext

/-! ## The shapes of tile, core and span instructions -/

theorem runEop_answersNext {op t w s} : AnswersNext (runEop op t w s) := onTile_answersNext
theorem coreAtomic_answersNext {core rd rs1 rs2 f s} : AnswersNext (coreAtomic core rd rs1 rs2 f s) := onCore_answersNext
theorem coreSync_answersNext {core vs1 vs2 setOp s} : AnswersNext (coreSync core vs1 vs2 setOp s) := onCore_answersNext

theorem onSpan_answersNext {core major op w s legal body} : AnswersNext (onSpan core major op w s legal body) :=
  onCore_answersNext
theorem elemSpan_answersNext {core major op w s legal dew dg f} :
    AnswersNext (elemSpan core major op w s legal dew dg f) := onSpan_answersNext
theorem maskSpan_answersNext {core major op w s legal f} : AnswersNext (maskSpan core major op w s legal f) :=
  onSpan_answersNext
theorem vmemSpan_answersNext {core op w write probe idx f s} :
    AnswersNext (vmemSpan core op w write probe idx f s) := onSpan_answersNext
theorem permSpan_answersNext {core op w legal f s} : AnswersNext (permSpan core op w legal f s) := onSpan_answersNext
theorem moveSpan_answersNext {core op w fp put s} : AnswersNext (moveSpan core op w fp put s) := onSpan_answersNext
theorem maskScan_answersNext {core op w f s} : AnswersNext (maskScan core op w f s) := onSpan_answersNext
theorem reduceSpan_answersNext {core op w fp f s} : AnswersNext (reduceSpan core op w fp f s) := onSpan_answersNext
theorem foldSpan_answersNext {core op w fp f s} : AnswersNext (foldSpan core op w fp f s) := reduceSpan_answersNext

theorem intSpan_answersNext {core op w f s} : AnswersNext (intSpan core op w f s) := elemSpan_answersNext
theorem widenInt_answersNext {core op w val acc s} : AnswersNext (widenInt core op w val acc s) := elemSpan_answersNext
theorem dotInt_answersNext {core op w va vb s} : AnswersNext (dotInt core op w va vb s) := elemSpan_answersNext
theorem fpSpan_answersNext {core op w f s} : AnswersNext (fpSpan core op w f s) := elemSpan_answersNext
theorem cvtUp_answersNext {core op w bf s} : AnswersNext (cvtUp core op w bf s) := elemSpan_answersNext
theorem cvtDown_answersNext {core op w bf s} : AnswersNext (cvtDown core op w bf s) := elemSpan_answersNext
theorem widenFp_answersNext {core op w f s} : AnswersNext (widenFp core op w f s) := elemSpan_answersNext
theorem fpCompareSpan_answersNext {core op rel w s} : AnswersNext (fpCompareSpan core op rel w s) :=
  maskSpan_answersNext
theorem maskOp_answersNext {core op w f s} : AnswersNext (maskOp core op w f s) := maskSpan_answersNext

/-- Power-up answers a next state on a powered package, and on a dark one whatever bank is found (R572 to R583). -/
theorem execPowerUp_answersNext {env s} : AnswersNext (execPowerUp env s) :=
  (next_answersNext s).ite (next_answersNext _)

/-! ## All commands -/

/-- The meaning of each command is one of the wrappers; the last arm is the commands that only need power. -/
theorem exec_answersNext (i : Instr) (s : State) : AnswersNext (exec i s) := by
  unfold exec
  cases i with
  | powerUp => exact execPowerUp_answersNext
  | functionLevelReset | hotReset | hostLinkChanged | bar2Read | bar2Write | wake | doorbellPoll | idleEntry |
  msixInterrupt => exact overPcie_answersNext
  | nop | readSummary | phaseMark | memUnmap | copy | syncWait | catchNow | ringIntSq | ringIntCq | ringIntSqDisable |
  ringIntCqDisable | attest | ownerKey | ownerConfig | fwUpdate | syncOpAdd | syncOpSet | bufReg | bufDereg |
  strokeEnd => exact onRing_answersNext
  | memMap | audit | tileRun | msgSend | msgRecv | bulkPut | coll | collBatch | collGroup | steerRun | znAssemble |
  znSolve => exact heldOrOnRing_answersNext
  | dmaIn | dmaOut | tileNop | endScript | loop | brnz | setS | adds | scAdd | scSet | scWait | fence | flagRd |
  flagClr | mma => exact onTile_answersNext
  | eadd | esub | emul | efma | ediv | esqrt | emin | emax | eabs | eneg | ecmp | esel | ecopy | ecvt | eqrow | edqrow
  | epoly | eexp | eexp2 | elog | elog2 | ersqrt | esin | ecos | etanh | esigm | egelu | esilu | rsum | rsumsq | rmax
  | rmin | rstat | rmerge | csum | cmax | cmin => exact runEop_answersNext
  | bind | launch | hints | attention | go | limit | catchMsg | time | jobAbort | unbind =>
    exact onMgmt_answersNext
  | launchImage | launchChildMissing => exact onFirmware_answersNext
  | evfekCommand | evfekReply | evfekCatch | evfekTime => exact onFrame_answersNext
  | supcall | supret | fpmrd | fpmwr | scalarFpOperation | scalarAccess | ldAcq | stRel | steerFence | scCoreWait =>
    exact onCore_answersNext
  | atAdd | atXchg | atCas | atMin | atMax | atMinu | atMaxu => exact coreAtomic_answersNext
  | scCoreAdd | scCoreSet => exact coreSync_answersNext
  | kld | kst | setspan | vsrd | vswr | vpack => exact onSpan_answersNext
  | vfsqrt | vfcvtFi | vfcvtIf | vdotbf | vbcast | vfbcast => exact elemSpan_answersNext
  | vcmpeq | vcmplt => exact maskSpan_answersNext
  | vld | vlds | vldx | vldprobe | vst | vsts | vstx => exact vmemSpan_answersNext
  | vshiftup | vshiftdn | vshuf => exact permSpan_answersNext
  | vtog | vtof => exact moveSpan_answersNext
  | kcount | kfind => exact maskScan_answersNext
  | vfsumpair => exact reduceSpan_answersNext
  | vsumr | vminr | vmaxr | vminur | vmaxur | vfsumord | vfminr | vfmaxr => exact foldSpan_answersNext
  | vadd | vsub | vmul | vmulhi | vmin | vmax | vminu | vmaxu | vand | vor | vxor | vshl | vshrl | vshra =>
    exact intSpan_answersNext
  | vmulx | vmulxu | vmacx | vmacxu => exact widenInt_answersNext
  | vdotq | vdotqu | vdotqsu => exact dotInt_answersNext
  | vfadd | vfsub | vfmul | vfdiv | vfmac | vfmsb | vfmin | vfmax => exact fpSpan_answersNext
  | vfcvtup | vfcvtupBf => exact cvtUp_answersNext
  | vfcvtdn | vfcvtdnBf => exact cvtDown_answersNext
  | vfmulx | vfmacx => exact widenFp_answersNext
  | vfcmpeq | vfcmplt | vfcmple => exact fpCompareSpan_answersNext
  | kand | kor | kxor | kandn => exact maskOp_answersNext
  | _ => exact powered_answersNext

theorem step_answersNext (s : State) : AnswersNext (step s) := by
  unfold step
  split
  · exact next_answersNext _
  · exact exec_answersNext _ _

end Sys2Proof.Machine

/-- Settles O3: on an empty queue time passes, and the front command's meaning answers a next state. -/
theorem everyStepAnswersNext : Obligations.EveryStepAnswersNext := by
  unfold Obligations.EveryStepAnswersNext
  exact Sys2Proof.Machine.step_answersNext
end

section
/-! BAR0 reads and bad accesses: what the four commands do on a powered package, the capture of a high word, and the count of
an access that R41 names (R40, R41). -/

namespace Sys2Proof.Machine

/-- A command that needs power acts on a powered package. -/
theorem powered_on {s : State} (f : State → State) (h : s.pins.powered = true) : powered s f = .next (f s) :=
  if_pos h

/-- A command of the PCIe side acts while the endpoint is out of reset. -/
theorem overPcie_up {s : State} (f : State → State) (h : s.endpointUp = true) : overPcie s f = .next (f s) :=
  if_pos h

/-! ## The four BAR0 commands on a powered package -/

theorem exec_latchedLowRead {s : State} (off : BitVec 26) (h : s.pins.powered = true) :
    exec (.latchedLowRead off) s = .next (readOut s off.toNat) := by
  show execLatchedLowRead off s = _
  exact powered_on _ h

theorem exec_latchedHighRead {s : State} (off : BitVec 26) (h : s.pins.powered = true) :
    exec (.latchedHighRead off) s = .next (readOut s off.toNat) := by
  show execLatchedHighRead off s = _
  exact powered_on _ h

theorem exec_bar0BadAccess_read {s : State} (off : BitVec 26) (h : s.pins.powered = true) :
    exec (.bar0BadAccess off false) s = .next ((badAccess s off.toNat false).emit (.regData off.toNat 0)) := by
  show execBar0BadAccess off false s = _
  exact powered_on _ h

theorem exec_bar0BadAccess_write {s : State} (off : BitVec 26) (h : s.pins.powered = true) :
    exec (.bar0BadAccess off true) s = .next (badAccess s off.toNat true) := by
  show execBar0BadAccess off true s = _
  simp [execBar0BadAccess, powered, h]

/-- A write at a misaligned offset is a bad access (R41). -/
theorem exec_registerWrite_misaligned {s : State} {off : BitVec 26} (v : U32) (h : s.pins.powered = true)
    (ha : off.toNat % 4 ≠ 0) : exec (.registerWrite off v) s = .next (badAccess s off.toNat true) := by
  show execRegisterWrite off v s = _
  simp [execRegisterWrite, powered, h, ha]

theorem exec_registerWrite_aligned {s : State} {off : BitVec 26} (v : U32) (h : s.pins.powered = true)
    (ha : off.toNat % 4 = 0) : exec (.registerWrite off v) s = .next (hostWrite s off.toNat v.toNat) := by
  show execRegisterWrite off v s = _
  simp [execRegisterWrite, powered, h, ha]

/-! ## Reads -/

theorem readOut_bad {s : State} {o : Nat} (h : s.badOffset o = true) :
    readOut s o = (badAccess s o false).emit (.regData o 0) := by
  simp [readOut, hostRead, h]

/-- A low read captures the high word (R40). -/
theorem readOut_low {s : State} {o : Nat} (h : s.badOffset o = false) (hl : isLow64 o = true) :
    readOut s o = { s with latches := kvSet s.latches o (BitVec.ofNat 32 (regRead s (o + 4))),
                           sent := s.sent ++ [.regData o (BitVec.ofNat 32 (regRead s o))] } := by
  simp [readOut, hostRead, h, hl, State.emit]

/-- A high read returns what the low read captured, and releases it (R40). -/
theorem readOut_high_latched {s : State} {o : Nat} {v : U32} (h : s.badOffset o = false) (hl : isLow64 o = false)
    (h4 : 4 ≤ o) (hh : isLow64 (o - 4) = true) (hv : kvGet s.latches (o - 4) = some v) :
    readOut s o = { s with latches := kvErase s.latches (o - 4), sent := s.sent ++ [.regData o v] } := by
  simp [readOut, hostRead, h, hl, h4, hh, State.latch, hv, State.emit]

/-- A high read that finds no capture returns the register itself (R40). -/
theorem readOut_high_live {s : State} {o : Nat} (h : s.badOffset o = false) (hl : isLow64 o = false)
    (h4 : 4 ≤ o) (hh : isLow64 (o - 4) = true) (hv : kvGet s.latches (o - 4) = none) :
    readOut s o = { s with sent := s.sent ++ [.regData o (BitVec.ofNat 32 (regRead s o))] } := by
  simp [readOut, hostRead, h, hl, h4, hh, State.latch, hv, State.emit]

/-! ## Bad accesses -/

/-- An offset without a register is one that R41 names. -/
theorem badOffset_of_noReg {s : State} {o : Nat} (hd : regDef o = none) (hu : unlistedReg o = false) :
    s.badOffset o = true := by
  simp [State.badOffset, hd, hu]

theorem hostWrite_bad {s : State} {o v : Nat} (h : s.badOffset o = true) (hs : s.setupOnly = false) :
    hostWrite s o v = badAccess s o true := by
  simp [hostWrite, h, hs]

theorem badAccess_frame (s : State) (o : Nat) (write : Bool) :
    EventFrame (s.setReg 0x10 (o % 2 ^ 26 + bitAt write 26)) (badAccess s o write) :=
  bump_frame _ _ (by decide)

theorem State.reg64_setReg_ne (s : State) {o p : Nat} (v : Nat) (h : p ≠ o) (h4 : p + 4 ≠ o) :
    (s.setReg o v).reg64 p = s.reg64 p := by
  have hlow := State.reg_setReg_ne s v h
  have hhigh := State.reg_setReg_ne s v h4
  simp only [State.reg] at hlow hhigh
  simp only [State.reg64, RegFile.get64, hlow, hhigh]

/-- A counter that does not saturate reads the sum (R598). -/
theorem bump_counts {s : State} {g n k : Nat} (h0 : s.regBit (g + 0xF0) n = false)
    (h : s.reg64 (g + 0x100 + 8 * n) + k < 2 ^ 64) :
    (bump s g n k).reg64 (g + 0x100 + 8 * n) = s.reg64 (g + 0x100 + 8 * n) + k := by
  rw [bump_plain s h0 h]
  exact State.reg64_setReg64_self _ _ _ h

/-- A bad access counts one on GLB_BAD_ACCESS unless the counter is full. -/
theorem badAccess_counts {s : State} (o : Nat) (write : Bool) (h0 : s.regBit 0xF0 0 = false)
    (h : s.reg64 0x100 + 1 < 2 ^ 64) : (badAccess s o write).reg64 0x100 = s.reg64 0x100 + 1 := by
  have h64 : (s.setReg 0x10 (o % 2 ^ 26 + bitAt write 26)).reg64 0x100 = s.reg64 0x100 :=
    State.reg64_setReg_ne s _ (by decide) (by decide)
  have hbit : (s.setReg 0x10 (o % 2 ^ 26 + bitAt write 26)).regBit 0xF0 0 = false :=
    (congrArg (bitOf · 0) (State.reg_setReg_ne s _ (by decide))).trans h0
  have hroom : (s.setReg 0x10 (o % 2 ^ 26 + bitAt write 26)).reg64 0x100 + 1 < 2 ^ 64 := by rw [h64]; exact h
  exact (bump_counts (g := 0) (n := 0) hbit hroom).trans (congrArg (· + 1) h64)

/-- What R41 says of an access at an offset of BAR0: it is recorded and counted, and nothing else changes. -/
theorem badAccess_counted (s : State) (off : BitVec 26) (write : Bool) :
    EventFrame (s.setReg 0x10 (off.toNat + (if write then 2 ^ 26 else 0))) (badAccess s off.toNat write) ∧
      (s.regBit 0xF0 0 = false → s.reg64 0x100 + 1 < 2 ^ 64 →
        (badAccess s off.toNat write).reg64 0x100 = s.reg64 0x100 + 1) := by
  refine ⟨?_, badAccess_counts off.toNat write⟩
  have h := badAccess_frame s off.toNat write
  rwa [Nat.mod_eq_of_lt off.isLt] at h

end Sys2Proof.Machine

open Sys2Proof Sys2Proof.Machine

/-- Settles O5: each access ends in `badAccess`, with zero as the data of a read. -/
theorem badAccessHasNoEffect : Obligations.BadAccessHasNoEffect := by
  unfold Obligations.BadAccessHasNoEffect
  intro s off hp counted
  refine ⟨⟨_, exec_bar0BadAccess_read off hp, badAccess_counted s off false⟩,
    ⟨_, exec_bar0BadAccess_write off hp, badAccess_counted s off true⟩, fun hd hu => ?_⟩
  have hbad : s.badOffset off.toNat = true := badOffset_of_noReg hd hu
  have hread : readOut s off.toNat = (badAccess s off.toNat false).emit (.regData off.toNat 0) := readOut_bad hbad
  refine ⟨⟨_, ?_, badAccess_counted s off false⟩, ⟨_, ?_, badAccess_counted s off false⟩, fun hs v =>
    ⟨_, ?_, badAccess_counted s off true⟩⟩
  · rw [exec_latchedLowRead off hp, hread]
  · rw [exec_latchedHighRead off hp, hread]
  · by_cases ha : off.toNat % 4 = 0
    · rw [exec_registerWrite_aligned v hp ha, hostWrite_bad hbad hs]
    · exact exec_registerWrite_misaligned v hp ha

/-- Settles O60: the register file and every memory are empty, so each register reads its reset value. -/
theorem resetIsDark : Obligations.ResetIsDark := by
  unfold Obligations.ResetIsDark
  have hregs : RegFile.wf [] := ⟨List.Pairwise.nil, fun _ h => absurd h List.not_mem_nil⟩
  have hbytes : Memory.wf [] := ⟨List.Pairwise.nil, fun _ h => absurd h List.not_mem_nil⟩
  have hcanonical : Canonical State.reset := ⟨hregs, hbytes, hbytes, fun _ h => absurd h List.not_mem_nil⟩
  have hdark : Dark State.reset := ⟨rfl, fun _ => List.not_mem_nil⟩
  exact ⟨hcanonical, hdark, rfl, rfl, rfl, fun _ => rfl⟩
end

section
/-! Where the blocks of BAR0 lie (Table 1.10), and which registers of the time unit and of a port software can write. -/

namespace Sys2Proof.Machine

/-- The base that Table 1.10 gives the blocks whose writes name a register by that base. -/
def InPlace : BlkKind → Nat → Nat → Prop
  | .hif, _, base => base = hifBase
  | .tim, _, base => base = timBase
  | .port, p, base => p < 16 ∧ base = portBase p
  | _, _, _ => True

/-- The window that is found for an offset, if any, starts at or below it and lies in its place. -/
def FoundInPlace (o : Nat) (x : Option Blk) : Prop := ∀ b, x = some b → b.base ≤ o ∧ InPlace b.kind b.idx b.base

theorem FoundInPlace.none {o : Nat} : FoundInPlace o none := fun _ h => absurd h (Option.some_ne_none _).symm

theorem FoundInPlace.some {o p base : Nat} {k : BlkKind} (hle : base ≤ o) (hp : InPlace k p base) :
    FoundInPlace o (some ⟨k, p, base⟩) :=
  fun _ h => Option.some.inj h ▸ ⟨hle, hp⟩

theorem FoundInPlace.ite {o : Nat} {c : Prop} [Decidable c] {x y : Option Blk} (hx : c → FoundInPlace o x)
    (hy : ¬c → FoundInPlace o y) : FoundInPlace o (if c then x else y) := by
  split
  · exact hx ‹_›
  · exact hy ‹_›

theorem blockAt_inPlace (o : Nat) : FoundInPlace o (blockAt o) := by
  unfold blockAt
  refine .ite (fun _ => .some (by omega) trivial) fun _ => .ite (fun _ => .some (by omega) trivial) fun _ =>
    .ite (fun _ => .some (by omega) rfl) fun _ => .ite (fun _ => .some (by omega) trivial) fun _ =>
    .ite (fun _ => .some (by omega) rfl) fun _ => .ite (fun _ => .some (by omega) trivial) fun _ =>
    .ite (fun _ => .some (by omega) trivial) fun _ => .ite (fun _ => ?_) fun _ => .ite (fun _ => ?_) fun _ =>
    .ite (fun _ => .none) fun _ => .ite (fun _ => .some (by omega) trivial) fun _ =>
    .ite (fun _ => .some (by omega) trivial) fun _ => .ite (fun h => .some ?_ trivial) fun _ => .none
  · -- the compute dies
    refine .ite (fun h => .some ?_ trivial) fun _ => .ite (fun h => .some ?_ trivial) fun _ => .none
    all_goals
      simp only [Bool.and_eq_true, decide_eq_true_eq] at h
      omega
  · -- the fabric dies
    refine .ite (fun h => .some ?_ ⟨?_, ?_⟩) fun _ => .ite (fun h => .some ?_ trivial) fun _ =>
      .ite (fun h => .some ?_ trivial) fun _ => .ite (fun h => .some ?_ trivial) fun _ => .none
    all_goals
      simp only [Bool.and_eq_true, decide_eq_true_eq, portBase] at h ⊢
      omega
  · simp only [Bool.and_eq_true, decide_eq_true_eq] at h
    omega

theorem base_add_offset {o : Nat} {b : Blk} (h : blockAt o = some b) : b.base + (o - b.base) = o :=
  Nat.add_sub_cancel' (blockAt_inPlace o b h).1

theorem blockAt_hif {o : Nat} {b : Blk} (h : blockAt o = some b) (hk : b.kind = .hif) : b.base = hifBase := by
  simpa only [hk, InPlace] using (blockAt_inPlace o b h).2

theorem blockAt_tim {o : Nat} {b : Blk} (h : blockAt o = some b) (hk : b.kind = .tim) : b.base = timBase := by
  simpa only [hk, InPlace] using (blockAt_inPlace o b h).2

theorem blockAt_port {o : Nat} {b : Blk} (h : blockAt o = some b) (hk : b.kind = .port) :
    b.idx < 16 ∧ b.base = portBase b.idx := by
  simpa only [hk, InPlace] using (blockAt_inPlace o b h).2

/-- A register's definition is one of its block's that covers its offset there. -/
theorem regDef_covers {o : Nat} {b : Blk} {d : RegDef} (hb : blockAt o = some b) (hd : regDef o = some d) :
    d ∈ blockRegs b.kind ∧ d.covers (o - b.base) = true := by
  simp only [regDef, hb] at hd
  exact ⟨List.mem_of_find?_eq_some hd, List.find?_some (p := fun d : RegDef => d.covers (o - b.base)) hd⟩

/-- A register of its own covers its own offset only. -/
theorem covers_single {d : RegDef} {r : Nat} (h : d.covers r = true) (h1 : d.count = 1) (h4 : d.stride = 4) :
    r = d.off := by
  simp only [RegDef.covers, h1, h4, Bool.and_eq_true, decide_eq_true_eq, beq_iff_eq] at h
  omega

/-- TIM_CTRL is the one register of the time unit that software can write (Table 17.9). -/
theorem tim_writable {o : Nat} {b : Blk} {d : RegDef} (hb : blockAt o = some b) (hd : regDef o = some d)
    (hk : b.kind = .tim) (hacc : d.acc = .rw ∨ d.acc = .rwl) : o = timBase + 0xC := by
  obtain ⟨hmem, hcov⟩ := regDef_covers hb hd
  rw [hk] at hmem
  have honly : ∀ d ∈ blockRegs .tim, d.acc = .rw ∨ d.acc = .rwl → d.off = 0xC ∧ d.count = 1 ∧ d.stride = 4 := by
    decide
  obtain ⟨hoff, hcount, hstride⟩ := honly d hmem hacc
  rw [← base_add_offset hb, covers_single hcov hcount hstride, hoff, blockAt_tim hb hk]

/-- FAB_PORT_CTRL is the one register of a port that software can write (Table 11.8). -/
theorem port_writable {o : Nat} {b : Blk} {d : RegDef} (hb : blockAt o = some b) (hd : regDef o = some d)
    (hk : b.kind = .port) (hacc : d.acc = .rw ∨ d.acc = .rwl) : o = portBase b.idx + 4 := by
  obtain ⟨hmem, hcov⟩ := regDef_covers hb hd
  rw [hk] at hmem
  have honly : ∀ d ∈ blockRegs .port, d.acc = .rw ∨ d.acc = .rwl → d.off = 4 ∧ d.count = 1 ∧ d.stride = 4 := by
    decide
  obtain ⟨hoff, hcount, hstride⟩ := honly d hmem hacc
  rw [← base_add_offset hb, covers_single hcov hcount hstride, hoff, (blockAt_port hb hk).2]

end Sys2Proof.Machine
end

section
/-! What following a time source changes (R592), and what the sending side of Azmarlink changes when a path changes
(R366, R384, R385): the ports stay as the change itself leaves them. -/

namespace Sys2Proof.Machine

/-! ## The time source -/

/-- `t` is `s` but for counting, raising events and free values. -/
structure DrawFrame (s t : State) : Prop where
  same : ∃ r m h f, t = { s with regs := r, hostMem := m, hif := h, free := f }
  regs : ∀ o, eventReg o = false → t.reg o = s.reg o

theorem bumpClocks_frame (s : State) {g n : Nat} (h : IsCounter g n) : DrawFrame s (bumpClocks s g n) := by
  have hf : EventFrame { s with free := s.free + 1 } (bumpClocks s g n) := bump_frame _ _ h
  obtain ⟨_, _, _, _, _, _, _, _, e⟩ := hf.same
  exact ⟨⟨_, _, _, _, e⟩, hf.regs⟩

/-- Following the best source changes the time unit's source and status, and counts and raises what the change asks
(R592). -/
theorem refreshSource_frame (s : State) :
    (refreshSource s).tim.source = s.bestSource ∧
    (∃ l r m h f, refreshSource s =
      { s with tim := { s.tim with source := s.bestSource, lostAt := l }, regs := r, hostMem := m, hif := h, free := f }) ∧
    ∀ o, eventReg o = false → o ≠ timBase + 8 → (refreshSource s).reg o = s.reg o := by
  by_cases hb : s.bestSource = s.tim.source
  · have hsame : refreshSource s = s := if_pos hb
    rw [hsame, hb]
    exact ⟨rfl, ⟨_, _, _, _, _, rfl⟩, fun _ _ _ => rfl⟩
  · simp only [refreshSource, hb, if_false]
    generalize hs1 : (if s.tim.source.isNone && s.synced then bumpClocks s timBase 1 else s) = s1
    have h1 : DrawFrame s s1 := by
      rw [← hs1]
      split
      · exact bumpClocks_frame s (by decide)
      · exact ⟨⟨_, _, _, _, rfl⟩, fun _ _ => rfl⟩
    obtain ⟨r, m, h, f, e1⟩ := h1.same
    generalize hs2 : State.setRegBits _ _ _ _ _ = s2
    have h2 : EventFrame s2 (raise (bump s2 timBase 0 1) 0x4906 srcTim 0 (sourceCode s.bestSource)) :=
      (bump_frame _ _ (by decide)).trans (raise_frame ..)
    obtain ⟨_, _, _, _, _, _, _, _, e2⟩ := h2.same
    have hreg2 (o : Nat) (ho : o ≠ timBase + 8) : s2.reg o = s1.reg o := by
      rw [← hs2]; exact State.reg_setRegBits_ne _ _ _ _ ho
    refine ⟨?_, ⟨s.tim.now, ?_⟩, fun o he ho => (h2.regs o he).trans ((hreg2 o ho).trans (h1.regs o he))⟩
    · rw [raise_tim, bump_tim, ← hs2]; rfl
    · rw [e2, ← hs2, e1]
      exact ⟨_, _, _, _, rfl⟩

/-! ## Sending on Azmarlink -/

/-- `t` is `s` but for what the sending side of Azmarlink changes: its spaces and drains, what has been sent, counters and
events; the ports themselves, memory, tiles, cores and every other register stay. -/
structure SendFrame (s t : State) : Prop where
  ports : t.fab.ports = s.fab.ports
  mem   : t.mem = s.mem
  tiles : t.tiles = s.tiles
  cores : t.cores = s.cores
  regs  : ∀ o, eventReg o = false → t.reg o = s.reg o

theorem SendFrame.refl (s : State) : SendFrame s s := ⟨rfl, rfl, rfl, rfl, fun _ _ => rfl⟩

theorem SendFrame.trans {s t u : State} (h1 : SendFrame s t) (h2 : SendFrame t u) : SendFrame s u :=
  ⟨h2.ports.trans h1.ports, h2.mem.trans h1.mem, h2.tiles.trans h1.tiles, h2.cores.trans h1.cores,
   fun o ho => (h2.regs o ho).trans (h1.regs o ho)⟩

theorem EventFrame.send {s t : State} (h : EventFrame s t) : SendFrame s t :=
  ⟨congrArg Fabric.ports h.ring.fab, h.ring.mem, h.ring.tiles, h.ring.cores, h.regs⟩

theorem sendFrame_fab (s : State) (f : Fabric) (h : f.ports = s.fab.ports) : SendFrame s { s with fab := f } :=
  ⟨h, rfl, rfl, rfl, fun _ _ => rfl⟩

theorem setTx_send (s : State) (x : TxSpace) : SendFrame s (setTx s x) := sendFrame_fab s _ rfl

/-- Steps that each send keep the frame when they are taken in turn. -/
theorem SendFrame.foldl {α : Type} {f : State → α → State} (l : List α)
    (hf : ∀ a ∈ l, ∀ s : State, s.fab.ports.length = 16 → SendFrame s (f s a)) (s : State)
    (h16 : s.fab.ports.length = 16) : SendFrame s (l.foldl f s) := by
  induction l generalizing s with
  | nil => exact SendFrame.refl s
  | cons a r ih =>
    have hstep : SendFrame s (f s a) := hf a List.mem_cons_self s h16
    exact hstep.trans (ih (fun b hb => hf b (List.mem_cons_of_mem _ hb)) (f s a) (by rw [hstep.ports, h16]))

/-- A port that can be used is one of the sixteen. -/
theorem usable_lt {s : State} {p : Nat} {dst : U16} (h16 : s.fab.ports.length = 16) (h : s.usable p dst = true) :
    p < 16 := by
  by_contra hp
  have hdown : s.port p = Port.reset p := by
    rw [State.port, List.getD_eq_default _ _ (by omega)]
  simp [State.usable, hdown, Port.reset] at h

theorem portInHalf_lt {s : State} {half slot p : Nat} {dst : U16} (h16 : s.fab.ports.length = 16)
    (h : s.portInHalf half slot dst = some p) : p < 16 :=
  usable_lt h16 (List.find?_some (p := fun p => s.usable p dst) h)

theorem portFor_lt {s : State} {slot p : Nat} {dst : U16} (h16 : s.fab.ports.length = 16)
    (h : s.portFor slot dst = some p) : p < 16 := by
  unfold State.portFor at h
  split at h
  · next q hq => exact Option.some.inj h ▸ portInHalf_lt h16 hq
  · exact portInHalf_lt h16 h

theorem portSent_counter {p : Nat} (hp : p < 16) : IsCounter (portBase p) 0 := by
  have h : ∀ p < 16, IsCounter (portBase p) 0 := by decide
  exact h p hp

theorem deadResent_counter {p : Nat} (hp : p < 16) : IsCounter (fabBase (p / 8)) 15 := by
  have h : ∀ m < 2, IsCounter (fabBase m) 15 := by decide
  exact h _ (by omega)

theorem emitPacket_send (s : State) {p : Nat} (typ : PktType) (h : PktHdr) (data : List Byte) (poison : List Bool)
    (hp : p < 16) : SendFrame s (emitPacket s p typ h data poison) :=
  (⟨rfl, rfl, rfl, rfl, fun _ _ => rfl⟩ : SendFrame s (s.emit (.packet p typ h data poison))).trans
    (bump_frame _ _ (portSent_counter hp)).send

theorem transmitReq_send (s : State) (x : TxSpace) (r : TxReq) {p : Nat} (retry : Bool) (hp : p < 16) :
    SendFrame s (transmitReq s x r p retry) :=
  (setTx_send s _).trans (emitPacket_send _ _ _ _ _ hp)

theorem launchReq_send (s : State) (r : TxReq) {p : Nat} (hp : p < 16) : SendFrame s (launchReq s r p) :=
  transmitReq_send s _ _ _ hp

/-- A request is held behind a drain, queued, or sent. -/
theorem sendReq_send (s : State) (r : TxReq) (h16 : s.fab.ports.length = 16) : SendFrame s (sendReq s r) := by
  unfold sendReq
  simp only
  split
  · exact sendFrame_fab s _ rfl
  · split
    · split
      · next p hp => exact launchReq_send s r (portFor_lt h16 hp)
      · exact setTx_send s _
    · exact setTx_send s _

theorem resendReq_send (s : State) (dst : U16) (fd : Nat) (seq : U32) (h16 : s.fab.ports.length = 16) :
    SendFrame s (resendReq s dst fd seq) := by
  unfold resendReq
  simp only
  split
  · exact SendFrame.refl s
  · split
    · exact SendFrame.refl s
    · next p hp => exact transmitReq_send s _ _ _ (portInHalf_lt h16 hp)

/-- The end of a dead path resends what it carried and sends what its drains held (R385). -/
theorem deadPath_send (s : State) (dst : U16) {p : Nat} (hp : p < 16) (h16 : s.fab.ports.length = 16) :
    SendFrame s (deadPath s dst p) := by
  unfold deadPath
  simp only
  have hraise : SendFrame s (raise s 0x4304 (srcFab (p / 8)) 0 dst.toNat) := (raise_frame ..).send
  generalize raise s 0x4304 (srcFab (p / 8)) 0 dst.toNat = s1 at hraise ⊢
  generalize hs2 : List.foldl _ s1 _ = s2
  have hresent : SendFrame s1 s2 := by
    rw [← hs2]
    refine SendFrame.foldl _ (fun r _ t ht => ?_) s1 (by rw [hraise.ports, h16])
    split
    · exact SendFrame.refl t
    · exact (resendReq_send t dst _ _ ht).trans (bump_frame _ _ (deadResent_counter hp)).send
  refine (hraise.trans hresent).trans (.trans (sendFrame_fab s2 _ ?_) (.foldl _ (fun r _ t ht => sendReq_send t r ht) _ ?_))
  · rfl
  · show s2.fab.ports.length = 16
    rw [hresent.ports, hraise.ports, h16]

theorem sendDrain_send (s : State) (dst : U16) {p : Nat} (forPath : Bool) (hp : p < 16) :
    SendFrame s (sendDrain s dst p forPath) :=
  ((setTx_send s _).trans (emitPacket_send _ _ _ _ _ hp)).trans (sendFrame_fab _ _ rfl)

theorem drainPaths_send (s : State) (dst : U16) (old : List (Option Nat)) (h16 : s.fab.ports.length = 16) :
    SendFrame s (drainPaths s dst old) := by
  unfold drainPaths
  refine SendFrame.foldl _ (fun p hp t ht => ?_) s h16
  have hp : p < 16 := List.mem_range.1 hp
  simp only
  split
  · split
    · exact deadPath_send t dst hp ht
    · exact SendFrame.refl t
  · split
    · exact deadPath_send t dst hp ht
    · exact (sendDrain_send t dst true hp).trans (sendFrame_fab _ _ rfl)

/-- A path change does what it is given to do to the ports, and otherwise only sends (R366, R384). -/
theorem pathChange_send (s : State) (f : State → State) (h16 : (f s).fab.ports.length = 16) :
    SendFrame (f s) (pathChange s f) :=
  SendFrame.foldl _ (fun e _ t ht => drainPaths_send t e.1 e.2 ht) _ h16

end Sys2Proof.Machine
end

section
/-! Register writes by access code (R9): the plain registers, those of the host interface and the power controller, TIM_CTRL
and FAB_PORT_CTRL. -/

namespace Sys2Proof.Machine

/-! ## A port's control register -/

theorem getD_setAt_ne {α : Type} (l : List α) {i j : Nat} (f : α → α) (d : α) (h : j ≠ i) :
    (setAt l i f).getD j d = l.getD j d := by
  simp [setAt, List.getD_eq_getElem?_getD, List.getElem?_mapIdx, h]

theorem getD_setAt_self {α : Type} (l : List α) {i : Nat} (f : α → α) (d : α) (h : i < l.length) :
    (setAt l i f).getD i d = f (l.getD i d) := by
  simp [setAt, List.getD_eq_getElem?_getD, h]

theorem State.port_modPort_self (s : State) {p : Nat} (f : Port → Port) (h : p < s.fab.ports.length) :
    (s.modPort p f).port p = f (s.port p) :=
  getD_setAt_self _ f _ h

theorem State.port_modPort_ne (s : State) {p q : Nat} (f : Port → Port) (h : q ≠ p) : (s.modPort p f).port q = s.port q :=
  getD_setAt_ne _ f _ h

theorem SendFrame.port {s t : State} (h : SendFrame s t) (p : Nat) : t.port p = s.port p := by
  rw [State.port, h.ports]; rfl

/-- What FAB_PORT_CTRL does to its port (Table 11.10). -/
def portSet (s : State) (p v : Nat) (x : Port) : Port :=
  if bitOf v 2 then portOff x else { x with disabled := !s.portServes p }

/-- A write of FAB_PORT_CTRL sets its port, and otherwise only sends. -/
theorem writePortCtl_frame (s : State) (p v : Nat) (h16 : s.fab.ports.length = 16) :
    SendFrame ((s.setReg (portBase p + 4) (v % 8)).modPort p (portSet s p v)) (writePortCtl s p v) := by
  unfold writePortCtl
  by_cases hv : bitOf v 2 = true
  · have hset : portSet s p v = portOff := funext fun x => if_pos hv
    simp only [hv, if_true, hset]
    refine pathChange_send _ (fun s => s.modPort p portOff) ?_
    simpa [State.modPort, setAt] using h16
  · have hset : portSet s p v = fun x => { x with disabled := !s.portServes p } := funext fun x => if_neg hv
    simp only [hv, hset]
    exact SendFrame.refl _

theorem portCtl_not_eventReg {p : Nat} (hp : p < 16) : eventReg (portBase p + 4) = false := by
  have h : ∀ p < 16, eventReg (portBase p + 4) = false := by decide
  exact h p hp

/-! ## Writes by access code (R9) -/

section
variable {s : State} {o v : Nat} {b : Blk} {d : RegDef} (hbad : s.badOffset o = false) (hb : blockAt o = some b)
  (hd : regDef o = some d)
include hbad hb hd

theorem hostWrite_ro (hacc : d.acc = .ro) : hostWrite s o v = s := by
  simp [hostWrite, hbad, hb, hd, hacc]

theorem hostWrite_locked (hacc : d.acc = .rwl) (hlock : s.regBit 8 0 = true) : hostWrite s o v = s := by
  simp [hostWrite, hbad, hb, hd, hacc, glbBase, hlock]

theorem hostWrite_writable (hacc : d.acc = .rw ∨ (d.acc = .rwl ∧ s.regBit 8 0 = false)) :
    hostWrite s o v = writePlain s b (o - b.base) v d := by
  rcases hacc with hrw | ⟨hrwl, hopen⟩
  · simp [hostWrite, hbad, hb, hd, hrw]
  · simp [hostWrite, hbad, hb, hd, hrwl, glbBase, hopen]

end

section
variable (s : State) {b : Blk} {r : Nat} (v : Nat) (d : RegDef)

/-- A register whose write starts nothing else takes the written value in its fields. -/
theorem writePlain_other (hhif : b.kind ≠ .hif) (hpwr : b.kind ≠ .pwr) (htim : b.kind ≠ .tim) (hport : b.kind ≠ .port)
    (hstack : ¬(b.kind = .stack ∧ r = 8)) : writePlain s b r v d = s.setReg (b.base + r) (v &&& d.mask) := by
  obtain ⟨kind, idx, base⟩ := b
  cases kind with
  | hif => exact absurd rfl hhif
  | pwr => exact absurd rfl hpwr
  | tim => exact absurd rfl htim
  | port => exact absurd rfl hport
  | stack => exact if_neg fun hr => hstack ⟨rfl, hr⟩
  | _ => rfl

theorem writePlain_powerCtrl (hk : b.kind = .pwr) :
    writePlain s b 4 v d = s.setReg (b.base + 4) (v &&& d.mask) := by
  simp [writePlain, hk]

/-- A thermal threshold out of range is ignored (Table 15.11). -/
theorem writePlain_threshold (hk : b.kind = .pwr) : writePlain s b 0x24 v d =
    if 70 ≤ v % 256 ∧ v % 256 ≤ 100 then s.setReg (b.base + 0x24) (v % 256) else s := by
  simp [writePlain, hk]

/-- A phase keeps its points while a raise is barred (R28). -/
theorem writePlain_phase (hk : b.kind = .pwr) (hr : 0x1000 ≤ r) : writePlain s b r v d =
    if s.holding && raisesPoint (s.reg (b.base + r)) v then s else s.setRegBits (b.base + r) 11 0 v := by
  have h8 : r ≠ 8 := by omega
  have h24 : r ≠ 0x24 := by omega
  simp [writePlain, hk, h8, h24, hr, writePhase]

theorem writePlain_tim (hk : b.kind = .tim) : writePlain s b r v d = writeTimCtrl s v := by simp [writePlain, hk]
theorem writePlain_port (hk : b.kind = .port) : writePlain s b r v d = writePortCtl s b.idx v := by simp [writePlain, hk]
theorem writePlain_hif (hk : b.kind = .hif) : writePlain s b r v d = writeHif s r v d := by simp [writePlain, hk]

/-! ## Registers of the host interface -/

theorem writeHif_plain (hr : r ∈ [0x4, 0x18, 0x1C] ∨ (0x100000 ≤ r ∧ r % 16 ≠ 0xC)) :
    writeHif s r v d = s.setReg (hifBase + r) (v &&& d.mask) := by
  rcases hr with hr | ⟨hge, hmod⟩
  · simp only [List.mem_cons, List.not_mem_nil, or_false] at hr
    rcases hr with rfl | rfl | rfl <;> rfl
  · have hlow : r ≠ 0x8 ∧ r ≠ 0xC ∧ r ≠ 0x20 ∧ r ≠ 0x24 ∧ r ≠ 0x28 ∧ ¬r < 0x1800 ∧ ¬r < 0x2800 := by omega
    simp [writeHif, hlow, hmod]

/-- The doorbell block's base keeps its value while any submission ring is enabled (R546). -/
theorem writeHif_doorbellBase (hr : r = 8 ∨ r = 0xC) : writeHif s r v d =
    if (List.range 64).any (fun k => bitOf (s.sqCfg k) 12) then s else s.setReg (hifBase + r) v := by
  rcases hr with rfl | rfl <;> rfl

/-- The event ring's base keeps its value while the ring is enabled (R546). -/
theorem writeHif_eventBase (hr : r = 0x20 ∨ r = 0x24) : writeHif s r v d =
    if s.regBit (hifBase + 0x28) 14 = true then s else s.setReg (hifBase + r) v := by
  rcases hr with rfl | rfl <;> rfl

/-- A submission ring's base keeps its value while the ring is enabled (R546). -/
theorem writeHif_sqBase (hge : 0x1000 ≤ r) (hlt : r < 0x1800) (hr : r % 0x20 ≠ 8) : writeHif s r v d =
    if bitOf (s.sqCfg ((r - 0x1000) / 0x20)) 12 = true then s else s.setReg (hifBase + r) v := by
  have hlow : r ≠ 0x8 ∧ r ≠ 0xC ∧ r ≠ 0x20 ∧ r ≠ 0x24 ∧ r ≠ 0x28 := by omega
  simp [writeHif, hlow, hge, hlt, hr]

/-- A completion ring's base keeps its value while the ring is enabled (R546). -/
theorem writeHif_cqBase (hge : 0x2000 ≤ r) (hlt : r < 0x2800) (hr : r % 0x20 ≠ 8) : writeHif s r v d =
    if bitOf (s.cqCfg ((r - 0x2000) / 0x20)) 14 = true then s else s.setReg (hifBase + r) v := by
  have hlow : r ≠ 0x8 ∧ r ≠ 0xC ∧ r ≠ 0x20 ∧ r ≠ 0x24 ∧ r ≠ 0x28 ∧ ¬r < 0x1800 := by omega
  simp [writeHif, hlow, hge, hlt, hr]

/-- A pending interrupt leaves when its vector is unmasked; else only the mask changes (R564). -/
theorem writeVectorCtl_eq (k : Nat) : writeVectorCtl s k v =
    if v % 2 = 0 ∧ s.regBit (hifBase + 0x110000 + k / 32 * 4) (k % 32) = true
    then sendVector ((s.setReg (hifBase + 0x10000C + 16 * k) 0).setRegBit (hifBase + 0x110000 + k / 32 * 4) (k % 32) false) k
    else s.setReg (hifBase + 0x10000C + 16 * k) (v % 2) := by
  have hpend : (s.setReg (hifBase + 0x10000C + 16 * k) (v % 2)).regBit (hifBase + 0x110000 + k / 32 * 4) (k % 32) =
      s.regBit (hifBase + 0x110000 + k / 32 * 4) (k % 32) :=
    congrArg (bitOf · _) (State.reg_setReg_ne s _ (by omega))
  by_cases hv : v % 2 = 0
  · rw [hv] at hpend
    simp only [writeVectorCtl, hpend, hv, decide_true, Bool.true_and, true_and]
  · simp [writeVectorCtl, hv]

theorem writeHif_vector (hge : 0x100000 ≤ r) (hr : r % 16 = 0xC) : writeHif s r v d =
    let k := (r - 0x100000) / 16
    let p := hifBase + 0x110000 + k / 32 * 4
    if v % 2 = 0 ∧ s.regBit p (k % 32) = true
    then sendVector ((s.setReg (hifBase + r) 0).setRegBit p (k % 32) false) k else s.setReg (hifBase + r) (v % 2) := by
  have hlow : r ≠ 0x8 ∧ r ≠ 0xC ∧ r ≠ 0x20 ∧ r ≠ 0x24 ∧ r ≠ 0x28 ∧ ¬r < 0x1800 ∧ ¬r < 0x2800 := by omega
  have hctl : writeHif s r v d = writeVectorCtl s ((r - 0x100000) / 16) v := by simp [writeHif, hlow, hge, hr]
  have ho : hifBase + 0x10000C + 16 * ((r - 0x100000) / 16) = hifBase + r := by omega
  rw [hctl, writeVectorCtl_eq, ho]

end

/-- A write of TIM_CTRL stores it and follows the best source that is then enabled (R592). -/
theorem writeTimCtrl_effect (s : State) (v : U32) :
    (writeTimCtrl s v.toNat).reg (timBase + 0xC) = (v.toNat &&& 0xFF1F) ∧
    (writeTimCtrl s v.toNat).tim.source = [TimeSrc.ptp, .azmarlink, .evfek].find?
      (fun y => (writeTimCtrl s v.toNat).timeOn y && s.tim.locked.contains y) ∧
    ∃ l r m h f, writeTimCtrl s v.toNat =
      { s with tim := { s.tim with source := (writeTimCtrl s v.toNat).tim.source, lostAt := l }, regs := r, hostMem := m,
               hif := h, free := f } := by
  obtain ⟨hsource, ⟨l, r, m, h, f, hsame⟩, hregs⟩ := refreshSource_frame (s.setReg (timBase + 0xC) (v.toNat &&& 0xFF1F))
  have hctrl := hregs (timBase + 0xC) (by decide) (by decide)
  have hon (y : TimeSrc) : (writeTimCtrl s v.toNat).timeOn y =
      (s.setReg (timBase + 0xC) (v.toNat &&& 0xFF1F)).timeOn y := by
    cases y <;> exact congrArg (bitOf · _) hctrl
  refine ⟨?_, ?_, l, r, m, h, f, ?_⟩
  · rw [State.reg_setReg_self, Nat.mod_eq_of_lt (Nat.and_lt_two_pow _ (by decide))] at hctrl
    exact hctrl
  · simp only [hon]
    exact hsource
  · rw [show (writeTimCtrl s v.toNat).tim.source = _ from hsource]
    exact hsame

/-- A write of FAB_PORT_CTRL stores it, sets its port and no other, and leaves memory, tiles and cores alone. -/
theorem writePortCtl_effect (s : State) {p : Nat} (v : Nat) (hp : p < 16) (h16 : s.fab.ports.length = 16) :
    (writePortCtl s p v).reg (portBase p + 4) = v % 8 ∧ (writePortCtl s p v).port p = portSet s p v (s.port p) ∧
    (∀ q, q ≠ p → (writePortCtl s p v).port q = s.port q) ∧ (writePortCtl s p v).mem = s.mem ∧
    (writePortCtl s p v).tiles = s.tiles ∧ (writePortCtl s p v).cores = s.cores := by
  have hframe := writePortCtl_frame s p v h16
  refine ⟨?_, ?_, fun q hq => ?_, hframe.mem, hframe.tiles, hframe.cores⟩
  · rw [hframe.regs _ (portCtl_not_eventReg hp)]
    exact (State.reg_setReg_self s _ _).trans (by omega)
  · rw [hframe.port]
    exact State.port_modPort_self _ _ (by rw [State.setReg_fab, h16]; exact hp)
  · rw [hframe.port]
    exact State.port_modPort_ne _ _ hq

end Sys2Proof.Machine

open Sys2Proof Sys2Proof.Machine

/-- Settles O4: a read is `readOut`, and a write that the access code admits is `writePlain`, whose branches over the kinds of
block and their registers are the statement's cases. -/
theorem registerAccessesFollowTheirCodes : Obligations.RegisterAccessesFollowTheirCodes := by
  unfold Obligations.RegisterAccessesFollowTheirCodes
  refine ⟨fun s off hp => ⟨fun hgood hlow => ?_, fun hgood hlow h4 hhigh => ⟨fun v hv => ?_, fun hv => ?_⟩⟩, ?_⟩
  · rw [exec_latchedLowRead off hp, readOut_low hgood hlow]
  · rw [exec_latchedHighRead off hp, readOut_high_latched hgood hlow h4 hhigh hv]
  · rw [exec_latchedHighRead off hp, readOut_high_live hgood hlow h4 hhigh hv]
  intro s off v b d hp ha hgood hb hd i r plain
  have hexec : exec i s = .next (hostWrite s off.toNat v.toNat) := exec_registerWrite_aligned v hp ha
  have hoff : b.base + r = off.toNat := base_add_offset hb
  refine ⟨fun hacc => ?_, fun hacc hlock => ?_, fun hacc => ?_⟩
  · rw [hexec, hostWrite_ro hgood hb hd hacc]
  · rw [hexec, hostWrite_locked hgood hb hd hacc hlock]
  have hwritable : d.acc = .rw ∨ d.acc = .rwl := hacc.imp_right And.left
  have hwrite : exec i s = .next (writePlain s b r v.toNat d) := by
    rw [hexec, hostWrite_writable hgood hb hd hacc]
  refine ⟨fun hhif hpwr htim hport hstack => ?_, fun hk => ⟨fun hr => ?_, fun hr => ?_, fun hr => ?_⟩, fun hk => ?_,
    fun hk h16 => ?_, fun hk => ?_⟩
  · show exec i s = _
    rw [hwrite, writePlain_other s _ d hhif hpwr htim hport hstack, hoff]
  · show exec i s = _
    rw [hwrite, hr, writePlain_powerCtrl s _ d hk, ← hr, hoff]
  · rw [hwrite, hr, writePlain_threshold s _ d hk, ← hr, hoff]
  · rw [hwrite, writePlain_phase s _ d hk hr, hoff]
  · obtain ⟨hreg, hsource, l, rs, m, h, f, hsame⟩ := writeTimCtrl_effect s v
    rw [tim_writable hb hd hk hwritable]
    refine ⟨_, hwrite.trans (congrArg _ (writePlain_tim s _ d hk)), hreg, hsource, ?_⟩
    rw [hsame]
  · obtain ⟨hp16, -⟩ := blockAt_port hb hk
    rw [port_writable hb hd hk hwritable]
    exact ⟨_, hwrite.trans (congrArg _ (writePlain_port s _ d hk)), writePortCtl_effect s v.toNat hp16 h16⟩
  · have hbase : b.base = hifBase := blockAt_hif hb hk
    rw [hbase] at hoff
    have hhif : exec i s = .next (writeHif s r v.toNat d) := hwrite.trans (congrArg _ (writePlain_hif s _ d hk))
    refine ⟨fun hr => ?_, fun hr => ?_, fun hr => ?_, fun hge hlt hr => ?_, fun hge hlt hr => ?_, fun hge hr => ?_⟩
    · show exec i s = _
      rw [hhif, writeHif_plain s _ d hr, hoff]
    · rw [hhif, writeHif_doorbellBase s _ d hr, hoff]
    · rw [hhif, writeHif_eventBase s _ d hr, hoff]
    · rw [hhif, writeHif_sqBase s _ d hge hlt hr, hoff]
    · rw [hhif, writeHif_cqBase s _ d hge hlt hr, hoff]
    · rw [hhif, writeHif_vector s _ d hge hr, hoff]
end

section
/-! BAR2 writes within one line, and the reads in progress that they close (R47, R339, R386). -/

namespace Sys2Proof.Machine

/-- A range that lies within one line is one piece. -/
theorem piecesOf_line {a n : Nat} (hn : 0 < n) (hline : a % 128 + n ≤ 128) : piecesOf a n = [(a, n)] := by
  have hmin : min n (128 - a % 128) = n := by omega
  simp [piecesOf, linePieces, hn.ne', hmin]

/-- A BAR2 write within one line that reaches a data frame is a write of that line (R47, R339). -/
theorem exec_bar2Write_line {s : State} {addr : U64} {bs : List Byte} (hup : s.endpointUp = true)
    (hsetup : s.setupOnly = false) (hbs : 0 < bs.length) (hline : addr.toNat % 128 + bs.length ≤ 128)
    (hdata : s.bar2Data addr.toNat = true) (hheld : s.paHeld addr.toNat = false) :
    exec (.bar2Write addr bs) s = .next (writeLine s addr.toNat bs) := by
  show execBar2Write addr bs s = _
  rw [execBar2Write, overPcie_up _ hup]
  simp [hsetup, State.bar2Held, piecesOf_line hbs hline, hdata, hheld, bar2Stores]

/-- A write that finds a slot, in a granule without dirty tracking and a line without a hidden error, changes of the fabric
only the reads in progress of its line, which it closes (R386). -/
theorem writeLine_fab {s : State} {pa : Nat} {bs : List Byte} {e : U64} (he : s.entryAt pa = some e)
    (htrack : entryBit e 6 = false) (hlatent : kvGet s.mem.latent (pa / 128) = none)
    (hslot : needsSlot s (pa / 65536) = false) : (writeLine s pa bs).fab = (closeReads s pa).fab := by
  have hmem : (closeReads s pa).mem = s.mem := by unfold closeReads; split <;> rfl
  have htracked : trackWrite (closeReads s pa) pa = closeReads s pa := by
    have he' : (closeReads s pa).entryAt pa = some e := by
      rw [State.entryAt, State.pageOfFrame, hmem]; exact he
    simp [trackWrite, he', htrack]
  have hsensed : senseLine (closeReads s pa) pa = closeReads s pa := by
    simp [senseLine, hmem, hlatent]
  have hslot' : needsSlot (closeReads s pa) (pa / 65536) = false := by
    rw [needsSlot, noSlot, State.slotsUsed, hmem]; exact hslot
  simp only [writeLine, hslot', Bool.false_eq_true, if_false, performWrite, htracked, hsensed, bump_fab]
  split <;> rfl

/-- An endpoint that is up, with frame 0 behind page 0 and a one-line READ of line 0 in progress on a fabric die. -/
def readInProgress : State :=
  { State.reset with
    pins := { State.reset.pins with powered := true, pkgReady := true, perst := false }
    mem := { Mem.reset with xlt := [(0, 1)] }
    fab := { Fabric.reset with
      reads := [{ fd := 0, tag := 0, epoch := 0, line := 0, data := zeroBytes 128, poison := [false], at_ := 0 }] } }

end Sys2Proof.Machine

open Sys2Proof Sys2Proof.Machine

/-- Refutes O25: a BAR2 write to a line of which a fabric die has a READ in progress closes that READ (R386), so it also
changes the fabric, which the statement's frame of a write keeps. -/
theorem not_bar2AndDoorbellsReachTheirTargets : ¬ Obligations.Bar2AndDoorbellsReachTheirTargets := by
  unfold Obligations.Bar2AndDoorbellsReachTheirTargets
  rintro ⟨hbar2, -⟩
  obtain ⟨-, -, hdata⟩ := hbar2 readInProgress 0 1 (by decide) (by decide) (by decide)
  obtain ⟨-, hwrite⟩ := hdata (by decide) (by decide) (by decide) (by decide)
  obtain ⟨u, hexec, -, -, -, hframe, -⟩ := hwrite [0] rfl (by decide)
  have hu : writeLine readInProgress 0 [0] = u := by
    have hnext := exec_bar2Write_line (s := readInProgress) (addr := 0) (bs := [0]) (by decide) (by decide) (by decide)
      (by decide) (by decide) (by decide)
    rw [hexec] at hnext
    exact (Host.Outcome.next.inj hnext).symm
  have hkept : u.fab.reads = readInProgress.fab.reads := by rw [hframe]
  have hclosed : u.fab.reads = [] := by
    rw [← hu, writeLine_fab (e := 1) (by decide) (by decide) (by decide) (by decide)]
    decide
  rw [hclosed] at hkept
  exact absurd hkept (by decide)
end

section
/-! What a read of memory or of a tile store changes: the errors that it finds are marked, counted and reported (R108, R130,
R332 to R334), and a script fetch is such a read (R123). -/

namespace Sys2Proof.Machine

/-- What no read changes, whatever errors it finds. -/
structure ReadFrame (s u : State) : Prop where
  cores   : u.cores = s.cores
  job     : u.job = s.job
  xlt     : u.mem.xlt = s.mem.xlt
  bytes   : u.mem.bytes = s.mem.bytes
  sync    : u.sync = s.sync
  fab     : u.fab = s.fab
  outCmds : u.hif.outCmds = s.hif.outCmds

/-- What no read of stack memory changes: the tiles too. -/
structure LineFrame (s u : State) : Prop extends ReadFrame s u where
  tiles : u.tiles = s.tiles

theorem ReadFrame.refl (s : State) : ReadFrame s s := ⟨rfl, rfl, rfl, rfl, rfl, rfl, rfl⟩

theorem ReadFrame.trans {s u v : State} (h1 : ReadFrame s u) (h2 : ReadFrame u v) : ReadFrame s v :=
  ⟨h2.cores.trans h1.cores, h2.job.trans h1.job, h2.xlt.trans h1.xlt, h2.bytes.trans h1.bytes, h2.sync.trans h1.sync,
   h2.fab.trans h1.fab, h2.outCmds.trans h1.outCmds⟩

theorem LineFrame.refl (s : State) : LineFrame s s := ⟨ReadFrame.refl s, rfl⟩

theorem LineFrame.trans {s u v : State} (h1 : LineFrame s u) (h2 : LineFrame u v) : LineFrame s v :=
  ⟨h1.toReadFrame.trans h2.toReadFrame, h2.tiles.trans h1.tiles⟩

theorem LineFrame.ite {c : Prop} [Decidable c] {s u v : State} (hu : LineFrame s u) (hv : LineFrame s v) :
    LineFrame s (if c then u else v) := by
  split
  · exact hu
  · exact hv

/-- Steps that each keep the frame keep it when they are taken in turn. -/
theorem ReadFrame.foldl {α : Type} {f : State → α → State} (hf : ∀ s a, ReadFrame s (f s a)) (l : List α) (s : State) :
    ReadFrame s (l.foldl f s) := by
  induction l generalizing s with
  | nil => exact ReadFrame.refl s
  | cons a r ih => exact (hf s a).trans (ih (f s a))

/-! ## The plain updates -/

theorem SameBut.line {s u : State} (h : SameBut s u) : LineFrame s u :=
  ⟨⟨h.cores, h.job, congrArg Mem.xlt h.mem, congrArg Mem.bytes h.mem, h.sync, h.fab, h.hif_outCmds⟩, h.tiles⟩

theorem bump_line (s : State) (g n k : Nat) : LineFrame s (bump s g n k) := (same_bump ..).line
theorem raise_line (s : State) (code src addr data : Nat) : LineFrame s (raise s code src addr data) := (same_raise ..).line
theorem setReg_line (s : State) (o v : Nat) : LineFrame s (s.setReg o v) := ⟨⟨rfl, rfl, rfl, rfl, rfl, rfl, rfl⟩, rfl⟩
theorem setReg64_line (s : State) (o v : Nat) : LineFrame s (s.setReg64 o v) := ⟨⟨rfl, rfl, rfl, rfl, rfl, rfl, rfl⟩, rfl⟩
theorem modStk_line (s : State) (n : Nat) (f : Stack → Stack) : LineFrame s (s.modStk n f) :=
  ⟨⟨rfl, rfl, rfl, rfl, rfl, rfl, rfl⟩, rfl⟩
theorem markLine_line (s : State) (pa : Nat) (k : LineMark) : LineFrame s (markLine s pa k) :=
  ⟨⟨rfl, rfl, rfl, rfl, rfl, rfl, rfl⟩, rfl⟩
theorem modTile_read (s : State) (t : TileId) (f : Tile → Tile) : ReadFrame s (s.modTile t f) :=
  ⟨rfl, rfl, rfl, rfl, rfl, rfl, rfl⟩

theorem latent_line (s : State) (l : List (Nat × Bool)) : LineFrame s { s with mem := { s.mem with latent := l } } :=
  ⟨⟨rfl, rfl, rfl, rfl, rfl, rfl, rfl⟩, rfl⟩
theorem eventLines_line (s : State) (l : List Nat) : LineFrame s { s with mem := { s.mem with eventLines := l } } :=
  ⟨⟨rfl, rfl, rfl, rfl, rfl, rfl, rfl⟩, rfl⟩
theorem rig_read (s : State) (r : Rigger) : ReadFrame s { s with rig := r } := ⟨rfl, rfl, rfl, rfl, rfl, rfl, rfl⟩

theorem bumpClocks_line (s : State) (g n : Nat) : LineFrame s (bumpClocks s g n) := by
  have hfree : LineFrame s { s with free := s.free + 1 } := ⟨⟨rfl, rfl, rfl, rfl, rfl, rfl, rfl⟩, rfl⟩
  exact hfree.trans (bump_line _ _ _ _)

/-- A fault report leaves on the management path and the ring port only (R464). -/
theorem report_line (s : State) (code addr data : Nat) : LineFrame s (report s code addr data) := by
  have hemit (o : Out) : LineFrame s (s.emit o) := ⟨⟨rfl, rfl, rfl, rfl, rfl, rfl, rfl⟩, rfl⟩
  have hring (u : State) : LineFrame u (sendRing u) := by
    unfold sendRing
    split
    · exact ⟨⟨rfl, rfl, rfl, rfl, rfl, rfl, rfl⟩, rfl⟩
    · exact LineFrame.refl u
  have hcount (u : State) (n k : Nat) : LineFrame u (countMgmt u n k) := by
    unfold countMgmt
    split
    · exact bump_line ..
    · exact LineFrame.refl u
  unfold report
  exact ((hemit _).trans (hring _)).trans (hcount _ _ _)

/-! ## Reads of stack memory -/

theorem decideRetire_line (s : State) (pa : Nat) : LineFrame s (decideRetire s pa) := by
  unfold decideRetire
  simp only
  split
  · exact LineFrame.refl s
  · split
    · exact (modStk_line ..).trans (raise_line ..)
    · exact modStk_line ..

theorem noteError_line (s : State) (pa kind : Nat) : LineFrame s (noteError s pa kind) := by
  unfold noteError
  simp only
  split
  · exact (modStk_line ..).trans (decideRetire_line ..)
  · exact modStk_line ..

theorem noteLost_line (s : State) (pa : Nat) (lost scrub : Bool) : LineFrame s (noteLost s pa lost scrub) :=
  (setReg64_line ..).trans (setReg_line ..)

theorem lineError_line (s : State) (pa : Nat) (uncorrectable scrub : Bool) :
    LineFrame s (lineError s pa uncorrectable scrub) := by
  have hmark (k : LineMark) (n : Nat) (lost : Bool) : LineFrame s
      (noteLost (bump (markLine s pa k) (stackBase (stackOf pa)) n 1) pa lost scrub) :=
    ((markLine_line s pa k).trans (bump_line ..)).trans (noteLost_line ..)
  unfold lineError
  simp only
  refine LineFrame.ite ?_ (LineFrame.ite ?_ ?_)
  · refine (hmark .poisoned 3 false).trans (LineFrame.trans (LineFrame.ite ?_ ?_) (noteError_line _ _ _))
    · exact LineFrame.refl _
    · exact (eventLines_line ..).trans (raise_line ..)
  · exact (((hmark .lost 4 true).trans (raise_line ..)).trans (report_line ..)).trans (decideRetire_line ..)
  · exact (bump_line ..).trans (noteError_line ..)

theorem senseLine_line (s : State) (pa : Nat) : LineFrame s (senseLine s pa) := by
  unfold senseLine
  split
  · exact LineFrame.refl s
  · exact (latent_line s _).trans (lineError_line ..)

theorem readLine_line (s : State) (pa n : Nat) : LineFrame s (readLine s pa n).1 := by
  unfold readLine
  exact (senseLine_line s pa).trans (bump_line ..)

theorem xltFault_line (s : State) (agent va st : Nat) : LineFrame s (xltFault s agent va st) := by
  unfold xltFault
  split
  · exact ((setReg64_line ..).trans (setReg_line ..)).trans (bump_line ..)
  · exact LineFrame.refl s

/-! ## Reads of tile stores -/

theorem markRowGroup_read (s : State) (t : TileId) (line : Nat) : ReadFrame s (markRowGroup s t line) := by
  unfold markRowGroup
  simp only
  split
  · exact ReadFrame.refl s
  · have hawait (rig : Rigger) (f : Tile → Tile) : ReadFrame s
        (raise { s.modTile t f with rig := rig } 0x4611 (srcTile t) 0 0) :=
      ((modTile_read s t f).trans (rig_read _ rig)).trans (raise_line ..).toReadFrame
    split
    · exact (hawait _ _).trans (report_line ..).toReadFrame
    · exact hawait _ _

theorem sectorError_read (s : State) (t : TileId) (sector : Nat) (uncorrectable : Bool) :
    ReadFrame s (sectorError s t sector uncorrectable) := by
  unfold sectorError
  simp only
  split
  · exact ((modTile_read ..).trans (bump_line ..).toReadFrame).trans (markRowGroup_read ..)
  · split
    · exact ((modTile_read ..).trans (bump_line ..).toReadFrame).trans (markRowGroup_read ..)
    · exact (modTile_read ..).trans (bump_line ..).toReadFrame

theorem senseStore_read (s : State) (t : TileId) (off n : Nat) : ReadFrame s (senseStore s t off n) := by
  unfold senseStore
  simp only
  split
  · exact ReadFrame.refl s
  · exact (modTile_read ..).trans (ReadFrame.foldl (fun u (e : Nat × Bool) => sectorError_read u t e.1 e.2) _ _)

theorem readStore_read (s : State) (die log off n : Nat) : ReadFrame s (readStore s die log off n).1 := by
  unfold readStore
  split
  · exact ReadFrame.refl s
  · exact senseStore_read ..

/-! ## Reads by job virtual address -/

theorem readLoc_read (s : State) (l : Loc) (n : Nat) : ReadFrame s (readLoc s l n).1 := by
  cases l with
  | stack pa => exact (readLine_line s pa n).toReadFrame
  | store d k o => exact readStore_read s d k o n
  | void => exact ReadFrame.refl s
  | host a => exact ReadFrame.refl s

theorem countMisses_line (s : State) (va : Nat) (l : Loc) : LineFrame s (countMisses s va l) := by
  cases l with
  | stack pa => exact bump_line ..
  | store d k o => exact LineFrame.refl s
  | void => exact LineFrame.refl s
  | host a => exact LineFrame.refl s

theorem readPieces_read (agent : Nat) (l : List (Nat × Nat)) (s : State) (acc : List Byte) :
    ReadFrame s (readPieces agent l s acc).1 := by
  induction l generalizing s acc with
  | nil => exact ReadFrame.refl s
  | cons p r ih =>
    obtain ⟨a, n⟩ := p
    unfold readPieces
    split
    · exact (xltFault_line ..).toReadFrame
    · next l _ =>
      have hloc : ReadFrame s (readLoc (countMisses s a l) l n).1 :=
        (countMisses_line s a l).toReadFrame.trans (readLoc_read ..)
      split
      · next h => rw [h] at hloc; exact hloc
      · next h => rw [h] at hloc; exact hloc.trans (ih _ _)

theorem readVA_read (s : State) (agent va n : Nat) : ReadFrame s (readVA s agent va n).1 := readPieces_read ..

/-! ## The script fetch -/

theorem fetched_read (s : State) (t : TileId) : ReadFrame s (fetched s t) := by
  unfold fetched fetchScript
  simp only
  split
  · exact ReadFrame.refl s
  · split
    · exact (xltFault_line ..).toReadFrame
    · have hline (pa : Nat) : ReadFrame s
          (bumpClocks (bumpClocks (senseLine s pa) (stackBase (stackOf pa)) 0) (tileRegs t) 7) :=
        (((senseLine_line s pa).trans (bumpClocks_line ..)).trans (bumpClocks_line ..)).toReadFrame
      split <;> exact hline _
    · next d k o _ =>
      have hstore := readStore_read s d k o 16
      split
      · next h => rw [h] at hstore; exact hstore
      · next h => rw [h] at hstore; exact hstore
    · exact ReadFrame.refl s
    · exact ReadFrame.refl s

/-- A fetch from stack memory changes no tile. -/
theorem fetched_stack_tiles {s : State} {t : TileId} {pa : Nat}
    (h : resolve s (s.tile t).pc.toNat false = .ok (.stack pa)) : (fetched s t).tiles = s.tiles := by
  unfold fetched fetchScript
  simp only [h]
  split
  · rfl
  · have hline : LineFrame s (bumpClocks (bumpClocks (senseLine s pa) (stackBase (stackOf pa)) 0) (tileRegs t) 7) :=
      ((senseLine_line s pa).trans (bumpClocks_line ..)).trans (bumpClocks_line ..)
    split <;> exact hline.tiles

end Sys2Proof.Machine

open Sys2Proof Sys2Proof.Machine

/-- Settles O13: a fetch is a read, and a read from stack memory reaches no tile. -/
theorem scriptFetchFrame : Obligations.ScriptFetchFrame := by
  unfold Obligations.ScriptFetchFrame
  intro s t
  obtain ⟨hcores, hjob, hxlt, hbytes, hsync, hfab, houtCmds⟩ := fetched_read s t
  exact ⟨hcores, hjob, hxlt, hbytes, hsync, hfab, houtCmds, fun _ h => fetched_stack_tiles h⟩
end

section
/-! The tile sequencer: an instruction at its program counter, and the control instructions (R115, R117). -/

namespace Sys2Proof.Machine

/-! ## Replacing a tile -/

/-- The last replacement of a tile stands. -/
@[simp] theorem State.setTile_setTile (s : State) (t : TileId) (x y : Tile) : (s.setTile t x).setTile t y = s.setTile t y := by
  have hlist : ((s.setTile t x).setTile t y).tiles = (s.setTile t y).tiles := by
    by_cases h : s.tiles.any (fun e => e.1 == t)
    · have hmap : (s.tiles.map (fun e => if e.1 == t then (t, x) else e)).any (fun e => e.1 == t) = true := by
        obtain ⟨e, he, ht⟩ := List.any_eq_true.1 h
        exact List.any_eq_true.2 ⟨(t, x), List.mem_map.2 ⟨e, he, if_pos ht⟩, beq_self_eq_true t⟩
      simp only [State.setTile, h, if_true, hmap, List.map_map]
      refine List.map_congr_left fun e _ => ?_
      by_cases he : e.1 = t <;> simp [he]
    · have hnone : s.tiles.map (fun e => if e.1 == t then (t, y) else e) = s.tiles :=
        (List.map_congr_left fun e he => if_neg fun ht => h (List.any_eq_true.2 ⟨e, he, ht⟩)).trans (List.map_id _)
      simpa [State.setTile, h] using hnone
  exact congrArg (fun l => { s with tiles := l }) hlist

theorem State.modTile_modTile (s : State) (t : TileId) (f g : Tile → Tile) :
    (s.modTile t f).modTile t g = s.modTile t (fun x => g (f x)) := by
  simp only [State.modTile, State.tile_setTile_self, State.setTile_setTile]

/-! ## An instruction at the program counter -/

/-- An instruction whose word stands at the program counter of a live tile acts on the state behind its fetch. -/
theorem onTile_word {s : State} {t : TileId} {cls op : Nat} {w : TWord} (body : State → State) (h : TileAt s t cls op w) :
    onTile t cls op w s body = .next (body (fetched s t)) := by
  obtain ⟨hpowered, hlive, hword⟩ := h
  have hfetch : fetchScript s t = (fetched s t, .word (tileWordBytes cls op w)) := Prod.ext rfl hword
  unfold onTile
  rw [powered_on _ hpowered]
  simp only [hlive, Bool.not_true, Bool.false_eq_true, if_false, hfetch, if_true]

theorem advance_eq (s : State) (t : TileId) : advance s t = s.setTile t (s.tile t).next := rfl

theorem advance_setTile (s : State) (t : TileId) (x : Tile) : advance (s.setTile t x) t = s.setTile t x.next := by
  rw [advance_eq, State.tile_setTile_self, State.setTile_setTile]

/-- A scalar register after a write: S0 reads zero, the written one its value (R115). -/
theorem Tile.s_setS (x : Tile) (i n : BitVec 4) (d : U64) (h : x.sregs.length = 16) :
    (x.setS i d).s n = if n = 0 then 0 else if n = i then d else x.s n := by
  unfold Tile.s Tile.setS
  by_cases hn : n = 0
  · rw [if_pos hn, if_pos hn]
  · rw [if_neg hn, if_neg hn, if_neg hn]
    by_cases hi : i = 0
    · rw [if_pos hi, if_neg (hi ▸ hn)]
    · rw [if_neg hi, List.getD_eq_getElem?_getD, List.getElem?_set]
      by_cases hni : n = i
      · have hlt : i.toNat < x.sregs.length := by omega
        simp [hni, hlt]
      · have hne : i.toNat ≠ n.toNat := fun h => hni (BitVec.eq_of_toNat_eq h.symm)
        rw [if_neg hne, if_neg hni, List.getD_eq_getElem?_getD]

/-! ## LOOP -/

section
variable {s : State} {t : TileId} {w : TWord} (h : TileAt s t 0 2 w)
include h

/-- A LOOP with a count and a body starts its first run (R117). -/
theorem exec_loop_enters (hroom : ((fetched s t).tile t).loops.length < 4) (hcount : ((fetched s t).tile t).s w.sa ≠ 0)
    (hbody : w.arg0 ≠ 0) :
    let x := (fetched s t).tile t
    exec (.loop t w) s = .next ((fetched s t).setTile t { x with pc := x.pc + 16, loops :=
      { first := x.pc + 16, stop := x.pc + 16 + BitVec.ofNat 64 (16 * w.arg0.toNat), left := x.s w.sa - 1 } :: x.loops }) := by
  refine (onTile_word _ h).trans ?_
  simp only [Nat.not_le.2 hroom, if_false, hcount, hbody, decide_false, Bool.or_self, Bool.false_eq_true]
  rfl

/-- A LOOP without a count or a body goes on behind its body (R117). -/
theorem exec_loop_skips (hroom : ((fetched s t).tile t).loops.length < 4)
    (hempty : ((fetched s t).tile t).s w.sa = 0 ∨ w.arg0 = 0) :
    exec (.loop t w) s = .next (advanceTo (fetched s t) t
      (((fetched s t).tile t).pc + 16 + BitVec.ofNat 64 (16 * w.arg0.toNat))) := by
  refine (onTile_word _ h).trans ?_
  rw [if_neg (Nat.not_le.2 hroom), if_pos (by simpa using hempty)]

/-- A fifth nested LOOP is refused (R117). -/
theorem exec_loop_nested (hfull : 4 ≤ ((fetched s t).tile t).loops.length) :
    exec (.loop t w) s = .next (stopScript (fetched s t) t 0x8633 ((fetched s t).tile t).pc) := by
  refine (onTile_word _ h).trans ?_
  rw [if_pos hfull]
  rfl

end

/-- An empty LOOP changes the program counter and the loops of its tile only. -/
theorem advanceTo_frame (s : State) (t : TileId) (pc : U64) :
    advanceTo s t pc = s.setTile t { s.tile t with pc := ((advanceTo s t pc).tile t).pc, loops := ((advanceTo s t pc).tile t).loops } ∧
      ((s.tile t).loops = [] → ((advanceTo s t pc).tile t).pc = pc) := by
  have htile : (advanceTo s t pc).tile t =
      { s.tile t with pc := (loopEnd 8 (s.tile t).loops pc).2, loops := (loopEnd 8 (s.tile t).loops pc).1 } :=
    State.tile_modTile_self ..
  rw [htile]
  exact ⟨rfl, fun hnone => by rw [hnone]; rfl⟩

end Sys2Proof.Machine

open Sys2Proof Sys2Proof.Machine

/-- Settles O14: behind the fetch, each control instruction replaces its tile, and nothing else. -/
theorem tileControlInstructions : Obligations.TileControlInstructions := by
  unfold Obligations.TileControlInstructions
  intro s t w v x
  refine ⟨fun h => onTile_word _ h, fun h => ?_, fun h => ?_, fun i n d hlen => x.s_setS i n d hlen,
    fun h hroom hcount hbody => exec_loop_enters h hroom hcount hbody,
    fun h hroom hempty => ⟨_, exec_loop_skips h hroom hempty, advanceTo_frame ..⟩,
    fun h hfull => exec_loop_nested h hfull, fun h hzero => ?_, fun h hcount => ?_⟩
  · exact (onTile_word _ h).trans (congrArg _ (advance_setTile ..))
  · exact (onTile_word _ h).trans (congrArg _ (advance_setTile ..))
  · exact (onTile_word _ h).trans (congrArg _ (if_pos hzero))
  · exact (onTile_word _ h).trans (congrArg _ (if_neg hcount))
end

section
/-! Flag records (R126) and the end of a script (R114, R558). -/

namespace Sys2Proof.Machine

@[simp] theorem State.tile_setReg (s : State) (o v : Nat) (t : TileId) : (s.setReg o v).tile t = s.tile t := rfl
@[simp] theorem State.tile_setReg64 (s : State) (o v : Nat) (t : TileId) : (s.setReg64 o v).tile t = s.tile t := rfl
@[simp] theorem State.reg_modTile (s : State) (t : TileId) (f : Tile → Tile) (o : Nat) : (s.modTile t f).reg o = s.reg o := rfl

/-- `u` is `s` but for registers and tiles. -/
def RegTileFrame (s u : State) : Prop := ∃ r l, u = { s with regs := r, tiles := l }

theorem RegTileFrame.refl (s : State) : RegTileFrame s s := ⟨s.regs, s.tiles, rfl⟩

theorem RegTileFrame.trans {s u v : State} (h1 : RegTileFrame s u) (h2 : RegTileFrame u v) : RegTileFrame s v := by
  obtain ⟨_, _, rfl⟩ := h1
  obtain ⟨_, _, rfl⟩ := h2
  exact ⟨_, _, rfl⟩

theorem RegTileFrame.eq {s u : State} (h : RegTileFrame s u) : u = { s with regs := u.regs, tiles := u.tiles } := by
  obtain ⟨_, _, rfl⟩ := h; rfl

theorem State.setReg_regTile (s : State) (o v : Nat) : RegTileFrame s (s.setReg o v) := ⟨_, _, rfl⟩
theorem State.setReg64_regTile (s : State) (o v : Nat) : RegTileFrame s (s.setReg64 o v) := ⟨_, _, rfl⟩
theorem State.modTile_regTile (s : State) (t : TileId) (f : Tile → Tile) : RegTileFrame s (s.modTile t f) := ⟨_, _, rfl⟩

/-! ## Clearing the flag records -/

/-- A tile's counts of output tiles after a clear of the records that `which` selects (R126). -/
def Tile.clearCounts (x : Tile) (which : Nat) : Tile :=
  { x with outIndex := if bitOf which 0 then 0 else x.outIndex, outIndexEwl := if bitOf which 1 then 0 else x.outIndexEwl }

/-- What a clear of flag records changes: the selected records and their counts of output tiles. -/
structure FlagsCleared (t : TileId) (which : Nat) (s u : State) : Prop where
  same  : RegTileFrame s u
  tile  : u.tile t = (s.tile t).clearCounts which
  tiles : ∀ y, y ≠ t → u.tile y = s.tile y
  nan   : u.reg (tileRegs t + 0x20) = if bitOf which 0 then 0 else s.reg (tileRegs t + 0x20)
  ewl   : u.reg (tileRegs t + 0x24) = if bitOf which 1 then 0 else s.reg (tileRegs t + 0x24)
  regs  : ∀ o, o ≠ tileRegs t + 0x20 → o ≠ tileRegs t + 0x24 → u.reg o = s.reg o

/-- A record's register set to zero with its count of output tiles, or left alone. -/
def clearRecord (s : State) (t : TileId) (b : Bool) (o : Nat) (f : Tile → Tile) : State :=
  if b then (s.setReg o 0).modTile t f else s

theorem clearFlags_eq (s : State) (t : TileId) (which : Nat) : clearFlags s t which =
    clearRecord (clearRecord s t (bitOf which 0) (tileRegs t + 0x20) (fun x => { x with outIndex := 0 })) t (bitOf which 1)
      (tileRegs t + 0x24) (fun x => { x with outIndexEwl := 0 }) := rfl

section
variable (s : State) (t : TileId) (b : Bool) (o : Nat) (f : Tile → Tile)

theorem clearRecord_same : RegTileFrame s (clearRecord s t b o f) := by
  cases b
  · exact RegTileFrame.refl s
  · exact (s.setReg_regTile o 0).trans (State.modTile_regTile ..)

theorem clearRecord_tile : (clearRecord s t b o f).tile t = if b then f (s.tile t) else s.tile t := by
  cases b
  · rfl
  · exact State.tile_modTile_self ..

theorem clearRecord_tile_ne {y : TileId} (h : y ≠ t) : (clearRecord s t b o f).tile y = s.tile y := by
  cases b
  · rfl
  · exact State.tile_modTile_ne _ _ h

theorem clearRecord_reg (p : Nat) : (clearRecord s t b o f).reg p = if b ∧ p = o then 0 else s.reg p := by
  cases b
  · simp [clearRecord]
  · simp [clearRecord, State.reg, State.setReg, State.modTile, RegFile.get_put]

end

theorem clearFlags_cleared (s : State) (t : TileId) (which : Nat) : FlagsCleared t which s (clearFlags s t which) := by
  rw [clearFlags_eq]
  refine ⟨?_, ?_, fun y hy => ?_, ?_, ?_, fun o ho ho' => ?_⟩
  · exact (clearRecord_same ..).trans (clearRecord_same ..)
  · rw [clearRecord_tile, clearRecord_tile, Tile.clearCounts]
    cases bitOf which 0 <;> cases bitOf which 1 <;> rfl
  · rw [clearRecord_tile_ne _ _ _ _ _ hy, clearRecord_tile_ne _ _ _ _ _ hy]
  · simp [clearRecord_reg]
  · simp [clearRecord_reg]
  · simp [clearRecord_reg, ho, ho']

/-- Going on to the next instruction changes its tile only. -/
theorem FlagsCleared.advance {t : TileId} {which : Nat} {s u : State} (h : FlagsCleared t which s u) :
    advance u t = { s with regs := (advance u t).regs, tiles := (advance u t).tiles } ∧
    (advance u t).tile t = ((s.tile t).clearCounts which).next ∧ (∀ y, y ≠ t → (advance u t).tile y = s.tile y) ∧
    (advance u t).reg (tileRegs t + 0x20) = (if bitOf which 0 then 0 else s.reg (tileRegs t + 0x20)) ∧
    (advance u t).reg (tileRegs t + 0x24) = (if bitOf which 1 then 0 else s.reg (tileRegs t + 0x24)) ∧
    ∀ o, o ≠ tileRegs t + 0x20 → o ≠ tileRegs t + 0x24 → (advance u t).reg o = s.reg o := by
  rw [advance_eq]
  refine ⟨?_, ?_, fun y hy => ?_, h.nan, h.ewl, h.regs⟩
  · exact (h.same.trans (State.modTile_regTile u t Tile.next)).eq
  · rw [State.tile_setTile_self, h.tile]
  · rw [State.tile_setTile_ne _ _ hy, h.tiles y hy]

/-! ## The end of a launch -/

/-- The state with other records of TILE_RUNs. -/
def State.withTileRuns (s : State) (l : List TileRunState) : State := { s with hif := { s.hif with tileRuns := l } }

/-- The records of the other TILE_RUNs. -/
def State.otherRuns (s : State) (c : CmdCtx) : List TileRunState :=
  dropFirst (fun e : TileRunState => e.cmd == c) s.hif.tileRuns

section
variable {s : State} {t : TileId} {l : TileLaunch} {r : TileRunState}
  (hr : s.hif.tileRuns.find? (fun e => e.cmd == l.cmd) = some r)
include hr

/-- While other launches of the TILE_RUN are left, its record counts one down. -/
theorem endLaunch_ok_left (hleft : 2 ≤ r.left) :
    endLaunch s t l 0 = s.withTileRuns (s.otherRuns l.cmd ++ [{ r with left := r.left - 1 }]) := by
  have hne : r.left - 1 ≠ 0 := by omega
  simp [endLaunch, hr, hne, State.withTileRuns, State.otherRuns]

/-- The last launch of a TILE_RUN whose tiles all ended OK completes the command with OK. -/
theorem endLaunch_ok_last (hleft : r.left = 1) (hworst : r.worst = none) :
    endLaunch s t l 0 = finish (s.withTileRuns (s.otherRuns l.cmd)) l.cmd 0 0 := by
  simp [endLaunch, hr, hleft, hworst, State.withTileRuns, State.otherRuns]

/-- The last launch completes the command with the first tile, in order, that did not end OK. -/
theorem endLaunch_ok_worst {k : Nat × TileId × Nat × U16} (hleft : r.left = 1) (hworst : r.worst = some k) :
    endLaunch s t l 0 = finish (s.withTileRuns (s.otherRuns l.cmd)) l.cmd k.2.2.2.toNat
      (k.2.2.1 + k.2.1.die.toNat * 0x100) := by
  simp [endLaunch, hr, hleft, hworst, State.withTileRuns, State.otherRuns]

end

/-- END behind the last completion leaves the tile idle and ends its launch (R114). -/
theorem exec_endScript {s : State} {t : TileId} {w : TWord} {l : TileLaunch} (h : TileAt s t 0 1 w)
    (hdone : ((fetched s t).tile t).inflight = []) (hrun : ((fetched s t).tile t).running = some l) :
    exec (.endScript t w) s = .next (endLaunch
      ((fetched s t).setTile t { (fetched s t).tile t with phase := .idle, loops := [], running := none }) t l 0) := by
  refine (onTile_word _ h).trans ?_
  rw [hdone]
  simp only [List.isEmpty_nil, Bool.not_true, Bool.false_eq_true, if_false, endRunning, State.tile_modTile_self, hrun,
    State.modTile_modTile]
  rfl

end Sys2Proof.Machine

open Sys2Proof Sys2Proof.Machine

/-- Settles O16: FLAGRD and FLAGCLR act behind the fetch, and END ends its launch with status OK. -/
theorem flagsAndEndOfAScript : Obligations.FlagsAndEndOfAScript := by
  unfold Obligations.FlagsAndEndOfAScript
  refine ⟨?_, ?_⟩
  · intro s t w v x
    refine ⟨fun h hrange => ?_, fun h hrange => ?_⟩
    · exact (onTile_word _ h).trans (congrArg _ ((if_neg (Nat.not_le.2 hrange)).trans (advance_setTile ..)))
    · have hexec : exec (.flagClr t w) s = .next (advance (clearFlags v t w.arg0.toNat) t) :=
        (onTile_word _ h).trans (congrArg _ (if_neg (Nat.not_le.2 hrange)))
      exact ⟨_, hexec, (clearFlags_cleared ..).advance⟩
  · intro s t w l r v x h hdone hrun hr y rest
    have hexec : exec (.endScript t w) s = .next (endLaunch y t l 0) := exec_endScript h hdone hrun
    have hry : y.hif.tileRuns.find? (fun e => e.cmd == l.cmd) = some r := hr
    refine ⟨fun hleft => ?_, fun hleft hworst => ?_, fun k hleft hworst => ?_⟩
    · exact hexec.trans (congrArg _ (endLaunch_ok_left hry hleft))
    · exact hexec.trans (congrArg _ (endLaunch_ok_last hry hleft hworst))
    · exact hexec.trans (congrArg _ (endLaunch_ok_worst hry hleft hworst))
end

section
/-! Launches of scripts, completions and zeroing (R110, R114, R115, R558). -/

namespace Sys2Proof.Machine

/-! ## A script starts -/

/-- A tile as a launch starts on it: its script's address and its argument words (R114, R115). -/
def Tile.start (x : Tile) (l : TileLaunch) (r : List TileLaunch) : Tile :=
  { x with phase := .running, running := some l, waiting := r, pc := l.script, loops := [], wait := none, stopping := none,
           sregs := List.replicate 8 0 ++ l.args, used := true }

/-- An idle tile starts its first waiting launch, behind the clear that CLEAR_FLAGS asks for. -/
theorem exec_tileScriptStart {s : State} {t : TileId} {l : TileLaunch} {r : List TileLaunch} (hp : s.pins.powered = true)
    (hwait : (s.tile t).waiting = l :: r) (hrun : (s.tile t).running = none) (hok : (s.tile t).phase ≠ .faulty)
    (hzero : (s.tile t).zeroing = false) (hres : (s.tile t).reserved = none) (hhold : s.holding = false) :
    exec (.tileScriptStart t) s =
      .next ((if l.clearFlags then clearForLaunch s t else s).modTile t (fun x => x.start l r)) := by
  show execTileScriptStart t s = _
  rw [execTileScriptStart, powered_on _ hp]
  simp only [hwait, hrun, hok, hzero, hres, hhold, Option.isSome_none, decide_false, Bool.or_self, Bool.false_eq_true, if_false]
  rfl

/-- What the start of a launch leaves, whatever was cleared before it. -/
theorem start_effect {s z : State} {t : TileId} (l : TileLaunch) (r : List TileLaunch) (hz : RegTileFrame s z)
    (hstore : (z.tile t).store = (s.tile t).store) (htiles : ∀ y, y ≠ t → z.tile y = s.tile y) :
    let u := z.modTile t (fun x => x.start l r)
    u = { s with tiles := u.tiles, regs := u.regs } ∧ u.tile t = (z.tile t).start l r ∧
      (u.tile t).store = (s.tile t).store ∧ ∀ y, y ≠ t → u.tile y = s.tile y := by
  have htile : (z.modTile t (fun x => x.start l r)).tile t = (z.tile t).start l r := State.tile_modTile_self ..
  refine ⟨(hz.trans (State.modTile_regTile ..)).eq, htile, ?_, fun y hy => ?_⟩
  · rw [htile]
    exact hstore
  · rw [State.tile_modTile_ne _ _ hy, htiles y hy]

/-- What a launch with CLEAR_FLAGS clears (R114, R126). -/
theorem clearForLaunch_effect (s : State) (t : TileId) :
    RegTileFrame s (clearForLaunch s t) ∧
    (clearForLaunch s t).tile t = { (s.tile t).clearCounts 3 with poisonSeen := false } ∧
    (∀ y, y ≠ t → (clearForLaunch s t).tile y = s.tile y) ∧
    (clearForLaunch s t).reg (tileRegs t + 0x20) = 0 ∧ (clearForLaunch s t).reg (tileRegs t + 0x24) = 0 := by
  obtain ⟨hsame, htile, htiles, hnan, hewl, -⟩ := clearFlags_cleared s t 3
  have hreg (o : Nat) (h30 : o < tileRegs t + 0x30) : (clearForLaunch s t).reg o = (clearFlags s t 3).reg o := by
    rw [clearForLaunch, State.reg_modTile, State.reg_setReg_ne _ _ (by omega), State.reg_setReg64_ne _ _ (by omega) (by omega)]
  refine ⟨?_, ?_, fun y hy => ?_, ?_, ?_⟩
  · rw [clearForLaunch]
    exact ((hsame.trans (State.setReg64_regTile ..)).trans (State.setReg_regTile ..)).trans (State.modTile_regTile ..)
  · rw [clearForLaunch, State.tile_modTile_self, State.tile_setReg, State.tile_setReg64, htile]
  · rw [clearForLaunch, State.tile_modTile_ne _ _ hy, State.tile_setReg, State.tile_setReg64, htiles y hy]
  · rw [hreg _ (by omega), hnan, if_pos (by decide)]
  · rw [hreg _ (by omega), hewl, if_pos (by decide)]

/-! ## Completions and zeroing -/

/-- On a tile that is not stopping, a retired entry leaves the queue, and nothing else changes. -/
theorem retireEntry_going {s : State} {t : TileId} (id : Nat) (h : (s.tile t).stopping = none) :
    retireEntry s t id = s.modTile t (fun x => { x with inflight := dropFirst (fun e => e.id == id) x.inflight }) := by
  simp [retireEntry, settleStop, h]

/-- A completed matrix or element instruction frees its queue entry (R120). -/
theorem exec_instructionCompletion {s : State} {t : TileId} {un : TileUnit} {e : InFlight} (hp : s.pins.powered = true)
    (hun : un = .matrix ∨ un = .element) (he : (s.tile t).inflight.find? (fun e => e.unit == un) = some e)
    (hgo : (s.tile t).stopping = none) : exec (.instructionCompletion t un) s =
      .next (s.modTile t (fun x => { x with inflight := dropFirst (fun k => k.id == e.id) x.inflight })) := by
  show execInstructionCompletion t un s = _
  rw [execInstructionCompletion, powered_on _ hp, ← retireEntry_going _ hgo]
  rcases hun with rfl | rfl <;> simp only [he]

theorem exec_tileZeroingDone {s : State} {t : TileId} (hp : s.pins.powered = true) (hz : (s.tile t).zeroing = true) :
    exec (.tileZeroingDone t) s =
      .next (s.modTile t (fun x => { x with zeroing := false, store := [], poison := [], latent := [], used := false })) := by
  show execTileZeroingDone t s = _
  rw [execTileZeroingDone, powered_on _ hp, hz]
  rfl

/-! ## TILE_RUN -/

theorem State.logicalTiles_congr {s u : State} (h : u.job = s.job) : u.logicalTiles = s.logicalTiles := by
  unfold State.logicalTiles State.launchOf
  rw [h]

theorem readArgs_read (n va k : Nat) (s : State) (acc : List (List U64)) : ReadFrame s (readArgs n va k s acc).1 := by
  induction n generalizing va k s acc with
  | zero => exact ReadFrame.refl s
  | succ n ih =>
    have hread := readVA_read s agentHost va 64
    unfold readArgs
    split
    · next h => rw [h] at hread; exact hread.trans (ih _ _ _ _)
    · next h => rw [h] at hread; exact hread

/-- A healthy tile that no SOLVE holds takes a launch behind those that wait (R131, R220). -/
theorem giveLaunch_waits {s : State} {t : TileId} (l : TileLaunch) (hok : (s.tile t).phase ≠ .faulty)
    (hres : (s.tile t).reserved = none) :
    giveLaunch s t l = s.modTile t (fun x => { x with waiting := x.waiting ++ [l] }) := by
  simp [giveLaunch, hok, hres]

/-- Launches given to distinct healthy tiles wait, one on each; nothing else changes. -/
theorem giveLaunch_foldl {α : Type} (tile : α → TileId) (launch : α → TileLaunch) (l : List α) (s : State)
    (hset : (l.map tile).Nodup) (hok : ∀ a ∈ l, (s.tile (tile a)).phase ≠ .faulty ∧ (s.tile (tile a)).reserved = none) :
    (∃ ts, l.foldl (fun s a => giveLaunch s (tile a) (launch a)) s = { s with tiles := ts }) ∧
    (∀ a ∈ l, ((l.foldl (fun s a => giveLaunch s (tile a) (launch a)) s).tile (tile a)).waiting =
      (s.tile (tile a)).waiting ++ [launch a]) ∧
    ∀ y, y ∉ l.map tile → (l.foldl (fun s a => giveLaunch s (tile a) (launch a)) s).tile y = s.tile y := by
  induction l generalizing s with
  | nil => exact ⟨⟨s.tiles, rfl⟩, fun a ha => absurd ha List.not_mem_nil, fun _ _ => rfl⟩
  | cons a r ih =>
    obtain ⟨hnotin, hrest⟩ := List.nodup_cons.1 hset
    obtain ⟨hphase, hfree⟩ := hok a List.mem_cons_self
    have hgive := giveLaunch_waits (launch a) hphase hfree
    have hother (y : TileId) (hy : y ≠ tile a) : (giveLaunch s (tile a) (launch a)).tile y = s.tile y := by
      rw [hgive]; exact State.tile_modTile_ne _ _ hy
    have hne (b : α) (hb : b ∈ r) : tile b ≠ tile a := fun h => hnotin (h ▸ List.mem_map_of_mem hb)
    obtain ⟨⟨ts, hsame⟩, hwait, hrestTiles⟩ := ih (giveLaunch s (tile a) (launch a)) hrest fun b hb => by
      rw [hother _ (hne b hb)]; exact hok b (List.mem_cons_of_mem _ hb)
    rw [List.foldl_cons]
    refine ⟨⟨ts, ?_⟩, fun b hb => ?_, fun y hy => ?_⟩
    · rw [hsame, hgive]; rfl
    · rcases List.mem_cons.1 hb with rfl | hb
      · rw [hrestTiles _ hnotin, hgive, State.tile_modTile_self]
      · rw [hwait b hb, hother _ (hne b hb)]
    · rw [List.map_cons, List.mem_cons, not_or] at hy
      rw [hrestTiles y hy.2, hother y hy.1]

/-- An outstanding command that is marked started is recorded so. -/
theorem markStarted_started {s : State} {c : CmdCtx} (h : ∃ o ∈ s.hif.outCmds, o.ctx = c) : (markStarted s c).started c := by
  obtain ⟨o, ho, hc⟩ := h
  show ∃ o ∈ updFirst (fun o => o.ctx == c) (fun o => { o with started := true }) s.hif.outCmds, o.ctx = c ∧ o.started = true
  generalize s.hif.outCmds = l at ho
  induction l with
  | nil => exact absurd ho List.not_mem_nil
  | cons x r ih =>
    unfold updFirst
    by_cases hx : x.ctx = c
    · exact ⟨{ x with started := true }, by simp [hx], hx, rfl⟩
    · have hr : o ∈ r := (List.mem_cons.1 ho).resolve_left fun h => hx (h ▸ hc)
      obtain ⟨o', ho', hstarted⟩ := ih hr
      exact ⟨o', by simp [hx, ho'], hstarted⟩

/-- The TILE_RUN is outstanding and started, with one launch to end for each of its tiles. -/
def openRun (v : State) (c : CmdCtx) (tiles : List (Nat × Nat × TileId)) : State :=
  markStarted (v.withTileRuns (v.hif.tileRuns ++ [{ cmd := c, left := tiles.length, worst := none }])) c

/-- The launch that a TILE_RUN gives to the tile of an index. -/
def runLaunch (v : State) (c : CmdCtx) (script : U64) (as : List (List U64)) (opts : BitVec 8) (e : Nat × TileId) : TileLaunch :=
  { script := script, args := as.getD e.1 [], clearFlags := !bitOf opts.toNat 0, phase := v.phaseOf c, cmd := c, order := e.1 }

/-- The tiles of a set with their indexes in it. -/
def indexedTiles (tiles : List (Nat × Nat × TileId)) : List (Nat × TileId) := tiles.mapIdx (fun k e => (k, e.2.2))

theorem indexedTiles_snd (tiles : List (Nat × Nat × TileId)) :
    (indexedTiles tiles).map Prod.snd = tiles.map (fun e => e.2.2) := by
  refine List.ext_getElem (by simp [indexedTiles]) fun i h1 h2 => ?_
  simp [indexedTiles]

/-- A TILE_RUN whose set and script are in order and whose argument words can be read gives every tile its launch (R558). -/
theorem exec_tileRun {s v : State} {c : CmdCtx} {script args : U64} {first count : U16} {dies opts : BitVec 8}
    {as : List (List U64)}
    (hturn : AtTurn s c 0x0020 [opnd 8 8 script.toNat, opnd 0x10 8 args.toNat, opnd 0x18 2 first.toNat, opnd 0x1A 2 count.toNat,
      opnd 0x1C 1 dies.toNat, opnd 0x1D 1 opts.toNat])
    (hset : badTileSet s first.toNat count.toNat dies.toNat = false) (halign : script.toNat % 16 = 0)
    (hne : tileSet s first.toNat count.toNat dies.toNat ≠ [])
    (hheld : s.rangeHeld args.toNat (64 * (tileSet s first.toNat count.toNat dies.toNat).length) = false)
    (hread : readArgs (tileSet s first.toNat count.toNat dies.toNat).length args.toNat 0 (accept s c 0x20) [] = (v, as, none)) :
    StartsIn (.tileRun c script args first count dies opts) c s
      ((indexedTiles (tileSet s first.toNat count.toNat dies.toNat)).foldl
        (fun s e => giveLaunch s e.2 (runLaunch v c script as opts e))
        (openRun v c (tileSet s first.toNat count.toNat dies.toNat))) := by
  have hsetAccepted : badTileSet (accept s c 0x20) first.toNat count.toNat dies.toNat = false := by
    rw [← hset]
    simp only [badTileSet, State.logicalTiles_congr (accept_frame s c 0x20).job]
  show execTileRun c script args first count dies opts s = _
  unfold execTileRun
  simp only [hheld, Bool.and_false, Bool.false_eq_true, if_false]
  refine (onRing_ready _ hturn.1 hturn.2).trans (congrArg (fun u => Host.Outcome.next (afterCommand u c)) ?_)
  simp only [hsetAccepted, Bool.false_eq_true, if_false, halign, bne_self_eq_false, hread, List.isEmpty_iff, hne]
  rfl

end Sys2Proof.Machine

open Sys2Proof Sys2Proof.Machine

/-- Settles O17: a start replaces its tile behind the clear, a completion retires its entry, and the launches of a TILE_RUN are
given to distinct tiles one by one. -/
theorem tileLaunchesStart : Obligations.TileLaunchesStart := by
  unfold Obligations.TileLaunchesStart
  intro s t hp
  refine ⟨fun l r hwait hrun hok hzero hres hhold => ⟨_, exec_tileScriptStart hp hwait hrun hok hzero hres hhold, ?_⟩,
    fun un e hun he hgo => exec_instructionCompletion hp hun he hgo, fun hz => exec_tileZeroingDone hp hz, ?_⟩
  · cases hclear : l.clearFlags with
    | true =>
      obtain ⟨hsame, hcleared, htiles, hnan, hewl⟩ := clearForLaunch_effect s t
      obtain ⟨hu, htile, hstore, hother⟩ := start_effect l r hsame (by rw [hcleared]; rfl) htiles
      rw [if_pos rfl]
      refine ⟨hu, ?_, ?_, ?_, ?_, ?_, ?_, hstore,
        fun _ => ⟨(State.reg_modTile ..).trans hnan, (State.reg_modTile ..).trans hewl, ?_⟩, (fun h => nomatch h), hother⟩
      all_goals
        rw [htile, hcleared]
        rfl
    | false =>
      obtain ⟨hu, htile, hstore, hother⟩ := start_effect l r (RegTileFrame.refl s) rfl (t := t) fun _ _ => rfl
      rw [if_neg Bool.false_ne_true]
      refine ⟨hu, ?_, ?_, ?_, ?_, ?_, ?_, hstore, (fun h => nomatch h), fun _ => rfl, hother⟩
      all_goals
        rw [htile]
        rfl
  · intro c script args first count dies opts hturn hset halign set hne hnodup hheld hkept hread hok
    let tiles := tileSet s first.toNat count.toNat dies.toNat
    have hlen : set.length = tiles.length := List.length_map ..
    rw [hlen] at hheld hkept hread
    obtain ⟨v, as, hargs⟩ : ∃ v as, readArgs tiles.length args.toNat 0 (accept s c 0x20) [] = (v, as, none) :=
      ⟨_, _, Prod.ext rfl (Prod.ext rfl hread)⟩
    rw [hargs] at hkept
    have hreadFrame := readArgs_read tiles.length args.toNat 0 (accept s c 0x20) []
    rw [hargs] at hreadFrame
    have hindexed : (indexedTiles tiles).map Prod.snd = set := indexedTiles_snd tiles
    have hmem (e : Nat × TileId) (he : e ∈ indexedTiles tiles) : e.2 ∈ set := hindexed ▸ List.mem_map_of_mem he
    have hopen (y : TileId) : (openRun v c tiles).tile y = s.tile y := hkept y
    obtain ⟨⟨ts, hsame⟩, hwait, hother⟩ := giveLaunch_foldl Prod.snd (runLaunch v c script as opts) (indexedTiles tiles)
      (openRun v c tiles) (hindexed.symm ▸ hnodup) fun e he => by rw [hopen]; exact hok _ (hmem e he)
    refine ⟨_, exec_tileRun hturn hset halign (fun h => hne (by simp [set, h])) hheld hargs, ?_, fun y hy => ?_, fun y hy => ?_, ?_⟩
    · rw [hsame]
      have haccepted : ∃ o ∈ v.hif.outCmds, o.ctx = c := by
        rw [hreadFrame.outCmds, accept_outCmds]
        exact ⟨_, List.mem_append_right _ (List.mem_singleton.2 rfl), rfl⟩
      exact markStarted_started (s := v.withTileRuns _) haccepted
    · rw [← hindexed] at hy
      obtain ⟨e, he, rfl⟩ := List.mem_map.1 hy
      exact ⟨_, (hwait e he).trans (by rw [hopen]), rfl, rfl, rfl⟩
    · rw [hother y (hindexed.symm ▸ hy), hopen]
    · rw [hsame]
      exact ⟨_, List.mem_append_right _ (List.mem_singleton.2 rfl), rfl, hlen.symm, rfl⟩
end

section
/-! What the units of a tile change beside its store: counters, flag records and free values (R104, R129, R446). -/

namespace Sys2Proof.Machine

/-! ## The frame of a tile -/

/-- A register that the frame of a tile's instruction keeps: no event's, no register of the tile, not DET_STATUS (Table 13.3). -/
def OutsideTile (t : TileId) (o : Nat) : Prop :=
  eventReg o = false ∧ ¬(tileRegs t ≤ o ∧ o < tileRegs t + 0x4000) ∧ ¬(detBase ≤ o ∧ o < detBase + 0x10)

/-- The registers of the host interface lie below every tile's (Table 1.10). -/
theorem outsideTile_hif (t : TileId) {o : Nat} (he : eventReg o = false) (hlow : 0x2000 ≤ o) (hhigh : o < 0x1000000) :
    OutsideTile t o := by
  have hbase : 0x1100000 ≤ tileRegs t := by simp only [tileRegs, tileBase]; omega
  have hdet : detBase + 0x10 ≤ 0x2000 := by decide
  exact ⟨he, by omega, by omega⟩

theorem TileFrame.inEventRing {t : TileId} {v u : State} (h : TileFrame t v u) (a : Nat) :
    inEventRing u a = inEventRing v a := by
  have hreg (o : Nat) (ho : o ∈ [hifBase + 0x20, hifBase + 0x24, hifBase + 0x28]) : u.reg o = v.reg o := by
    have hall : ∀ o ∈ [hifBase + 0x20, hifBase + 0x24, hifBase + 0x28], eventReg o = false ∧ 0x2000 ≤ o ∧ o < 0x1000000 := by
      decide
    obtain ⟨he, hlow, hhigh⟩ := hall o ho
    obtain ⟨_, hout, hdet⟩ := outsideTile_hif t he hlow hhigh
    exact h.regs o he hout hdet
  have hlow := hreg (hifBase + 0x20) (by simp)
  have hhigh := hreg (hifBase + 0x24) (by simp)
  have hcfg := hreg (hifBase + 0x28) (by simp)
  have hbase : u.reg64 (hifBase + 0x20) = v.reg64 (hifBase + 0x20) := by
    simp only [State.reg] at hlow hhigh
    simp only [State.reg64, RegFile.get64, hlow, hhigh]
  have hlog : u.evqLog = v.evqLog := congrArg (bitsOf · 4 0) hcfg
  unfold Machine.inEventRing
  rw [hbase, hlog]

theorem TileFrame.refl (t : TileId) (v : State) : TileFrame t v v := ⟨rfl, fun _ _ => rfl, fun _ _ _ _ => rfl, fun _ _ => rfl⟩

theorem TileFrame.trans {t : TileId} {v u z : State} (h1 : TileFrame t v u) (h2 : TileFrame t u z) : TileFrame t v z := by
  refine ⟨?_, fun x hx => (h2.tiles x hx).trans (h1.tiles x hx),
    fun o he ho hd => (h2.regs o he ho hd).trans (h1.regs o he ho hd),
    fun a ha => (h2.host a (by rw [h1.inEventRing, ha])).trans (h1.host a ha)⟩
  rw [h2.same, h1.same]

theorem EventFrame.tile {v u : State} (t : TileId) (h : EventFrame v u) : TileFrame t v u := by
  refine ⟨?_, fun x _ => ?_, fun o he _ _ => h.regs o he, h.host⟩
  · obtain ⟨_, _, _, _, _, _, _, _, hu⟩ := h.same
    rw [hu]
  · simp only [State.tile, h.ring.tiles]

theorem State.setReg_tileFrame (t : TileId) (v : State) {o : Nat} (x : Nat) (ho : ¬OutsideTile t o) :
    TileFrame t v (v.setReg o x) :=
  ⟨rfl, fun _ _ => rfl, fun _ he hp hd => State.reg_setReg_ne v x fun h => ho (h ▸ ⟨he, hp, hd⟩), fun _ _ => rfl⟩

theorem State.modTile_tileFrame (t : TileId) (v : State) (f : Tile → Tile) : TileFrame t v (v.modTile t f) :=
  ⟨rfl, fun _ hx => State.tile_modTile_ne _ _ hx, fun _ _ _ _ => rfl, fun _ _ => rfl⟩

theorem free_tileFrame (t : TileId) (v : State) (n : Nat) : TileFrame t v { v with free := n } :=
  ⟨rfl, fun _ _ => rfl, fun _ _ _ _ => rfl, fun _ _ => rfl⟩

theorem tileCtrl_not_eventReg {t : TileId} (h : t.ok = true) : eventReg (tileRegs t + 8) = false := by
  have hall : ∀ d < 4, ∀ p < 144, eventReg (tileBase d p + 8) = false := by decide +kernel
  exact hall _ t.die.isLt _ (by simpa [TileId.ok] using h)

/-! ## Counting on a tile -/

/-- Counting writes its counter first; the events of a saturation follow (R598). -/
theorem bump_after_raw (s : State) (g n k : Nat) : EventFrame (bumpRaw s g n k).1 (bump s g n k) := by
  unfold bump bumpWith
  split
  · next h => rw [h]; exact raise_frame ..
  · next h => rw [h]; exact EventFrame.refl _

theorem State.setReg64_tileFrame (t : TileId) (v : State) {o : Nat} (x : Nat) (ho : ¬OutsideTile t o)
    (ho4 : ¬OutsideTile t (o + 4)) : TileFrame t v (v.setReg64 o x) :=
  (State.setReg_tileFrame t v x ho).trans (State.setReg_tileFrame t _ _ ho4)

/-- A register of a tile is not kept by its frame. -/
theorem not_outsideTile {t : TileId} {r : Nat} (h : r < 0x4000) : ¬OutsideTile t (tileRegs t + r) :=
  fun ⟨_, hout, _⟩ => hout ⟨by omega, by omega⟩

theorem bumpRaw_tileFrame (t : TileId) (s : State) {n : Nat} (k : Nat) (hn : n < 8) :
    TileFrame t s (bumpRaw s (tileRegs t) n k).1 := by
  have hcount (x : Nat) : TileFrame t s (s.setReg64 (tileRegs t + 0x100 + 8 * n) x) := by
    rw [Nat.add_assoc]
    refine State.setReg64_tileFrame t s x (not_outsideTile (by omega)) ?_
    rw [Nat.add_assoc]
    exact not_outsideTile (by omega)
  unfold bumpRaw
  split
  · exact TileFrame.refl t s
  · simp only
    split
    · exact hcount _
    · exact (hcount _).trans (State.setReg_tileFrame t _ _ (not_outsideTile (by omega)))

theorem bumpTile_tileFrame (t : TileId) (s : State) {n : Nat} (k : Nat) (hn : n < 8) :
    TileFrame t s (bump s (tileRegs t) n k) :=
  (bumpRaw_tileFrame t s k hn).trans ((bump_after_raw ..).tile t)

theorem bumpClocks_tileFrame (t : TileId) (s : State) {n : Nat} (hn : n < 8) :
    TileFrame t s (bumpClocks s (tileRegs t) n) :=
  (free_tileFrame t s _).trans (bumpTile_tileFrame t _ _ hn)

/-- Counting leaves the registers below its group's counters alone but for those of events. -/
theorem bump_reg {s : State} {g n k o : Nat} (he : eventReg o = false) (h0 : o < g + 0xF0) :
    (bump s g n k).reg o = s.reg o := by
  rw [(bump_after_raw s g n k).regs o he]
  unfold bumpRaw
  split
  · rfl
  · simp only
    split
    · exact State.reg_setReg64_ne _ _ (by omega) (by omega)
    · exact (State.reg_setRegBit_ne _ _ _ (by omega)).trans (State.reg_setReg64_ne _ _ (by omega) (by omega))

/-! ## What an instruction notes beside its effect -/

/-- `u` is `v` but for the tile's counters, flag records and counts of output tiles, counting and free values; TILE_CTRL stays. -/
structure NoteFrame (t : TileId) (v u : State) : Prop where
  frame : TileFrame t v u
  tile  : ∃ a b, u.tile t = { v.tile t with outIndex := a, outIndexEwl := b }
  ctrl  : u.reg (tileRegs t + 8) = v.reg (tileRegs t + 8)

theorem NoteFrame.refl (t : TileId) (v : State) : NoteFrame t v v := ⟨TileFrame.refl t v, ⟨_, _, rfl⟩, rfl⟩

theorem NoteFrame.trans {t : TileId} {v u z : State} (h1 : NoteFrame t v u) (h2 : NoteFrame t u z) : NoteFrame t v z := by
  obtain ⟨_, _, htile1⟩ := h1.tile
  obtain ⟨a, b, htile2⟩ := h2.tile
  exact ⟨h1.frame.trans h2.frame, ⟨a, b, by rw [htile2, htile1]⟩, h2.ctrl.trans h1.ctrl⟩

/-- Steps that each note keep the frame when they are taken in turn. -/
theorem NoteFrame.foldl {α : Type} {t : TileId} {f : State → α → State} (l : List α)
    (hf : ∀ s, ∀ a ∈ l, NoteFrame t s (f s a)) (s : State) : NoteFrame t s (l.foldl f s) := by
  induction l generalizing s with
  | nil => exact NoteFrame.refl t s
  | cons a r ih =>
    exact (hf s a List.mem_cons_self).trans (ih (fun s b hb => hf s b (List.mem_cons_of_mem _ hb)) (f s a))

/-- The NoteFrame of an update that leaves the tile itself alone. -/
theorem TileFrame.note {t : TileId} {v u : State} (h : TileFrame t v u) (htile : u.tile t = v.tile t)
    (hctrl : u.reg (tileRegs t + 8) = v.reg (tileRegs t + 8)) : NoteFrame t v u :=
  ⟨h, ⟨_, _, htile⟩, hctrl⟩

theorem State.setReg_note (t : TileId) (v : State) {r : Nat} (x : Nat) (hr : r < 0x4000) (h8 : r ≠ 8) :
    NoteFrame t v (v.setReg (tileRegs t + r) x) :=
  (State.setReg_tileFrame t v x (not_outsideTile hr)).note rfl (State.reg_setReg_ne _ _ (by omega))

theorem noteOutTile_note (t : TileId) (s : State) (nan : Option NanInf) (ewl : Option Nat) :
    NoteFrame t s (noteOutTile s t nan ewl) := by
  have hcount (v : State) : NoteFrame t v (v.modTile t (fun x =>
      { x with outIndex := (x.outIndex + 1) % 8192, outIndexEwl := (x.outIndexEwl + 1) % 8192 })) :=
    ⟨State.modTile_tileFrame .., ⟨_, _, State.tile_modTile_self ..⟩, rfl⟩
  have hflag (v : State) (x : Nat) {r : Nat} (hr : r ∈ [0x20, 0x24]) : NoteFrame t v (v.setReg (tileRegs t + r) x) := by
    have hsmall : ∀ r ∈ [0x20, 0x24], r < 0x4000 ∧ r ≠ 8 := by decide
    exact State.setReg_note t v x (hsmall r hr).1 (hsmall r hr).2
  unfold noteOutTile
  cases nan <;> cases ewl
  · exact hcount s
  · exact (hflag s _ (by decide)).trans (hcount _)
  · exact (hflag s _ (by decide)).trans (hcount _)
  · exact ((hflag s _ (by decide)).trans (hflag _ _ (by decide))).trans (hcount _)

theorem noteOutTiles_note (t : TileId) (s : State) (element : Bool) (tiles : List (Nat × Nat × Nat × Nat))
    (kind : Nat → Nat → Option Nat) (ewl : Nat → Nat → Option Unit) :
    NoteFrame t s (noteOutTiles s t element tiles kind ewl) :=
  NoteFrame.foldl tiles (fun s _ _ => noteOutTile_note t s _ _) s

section
variable {t : TileId} (ht : t.ok = true)
include ht

theorem bumpTile_note (s : State) {n : Nat} (k : Nat) (hn : n < 8) : NoteFrame t s (bump s (tileRegs t) n k) :=
  (bumpTile_tileFrame t s k hn).note (bump_tile ..) (bump_reg (tileCtrl_not_eventReg ht) (by omega))

theorem countTile_note (s : State) {n : Nat} (k : Nat) (hn : n < 8) : NoteFrame t s (countTile s t n k) := by
  unfold countTile
  split
  · exact NoteFrame.refl t s
  · exact bumpTile_note ht s k hn

theorem bumpTimes_note (s : State) (l : List Nat) (hl : ∀ n ∈ l, n < 8) : NoteFrame t s (bumpTimes s t l) := by
  have hfree (s : State) : NoteFrame t s { s with free := s.free + 1 } := (free_tileFrame t s _).note rfl rfl
  exact NoteFrame.foldl l (fun s n hn => (hfree s).trans (bumpTile_note ht _ _ (hl n hn))) s

/-- A non-deterministic event is counted in the DET registers (R447). -/
theorem countNondet_note (s : State) {n : Nat} (hn : n < 6) : NoteFrame t s (countNondet s n) := by
  have hbase : 0x1100000 ≤ tileRegs t := by simp only [tileRegs, tileBase]; omega
  have hdet : detBase = 0x1000 := rfl
  have hevent (s : State) {m : Nat} (hm : m < 6) : NoteFrame t s (bump s detBase m 1) := by
    have hcounter : ∀ m < 6, IsCounter detBase m := by decide
    have hframe : EventFrame s (bump s detBase m 1) := bump_frame s 1 (hcounter m hm)
    exact (hframe.tile t).note (bump_tile ..) (hframe.regs _ (tileCtrl_not_eventReg ht))
  have hstatus (s : State) {r : Nat} (x : Nat) (hr : r < 0x10) : NoteFrame t s (s.setReg (detBase + r) x) := by
    have hin : ¬OutsideTile t (detBase + r) := fun ⟨_, _, hout⟩ => hout ⟨by omega, by omega⟩
    exact (State.setReg_tileFrame t s x hin).note rfl (State.reg_setReg_ne _ _ (by omega))
  have hsticky (s : State) : NoteFrame t s (addSticky s (detBase + 8) 1) :=
    (hstatus s (r := 8) _ (by decide)).trans (hstatus _ (r := 12) _ (by decide))
  exact (((hevent s hn).trans (hevent _ (by decide))).trans (hsticky _)).trans (hstatus _ (r := 4) _ (by decide))

theorem noteSeed_note (s : State) (sr : Bool) : NoteFrame t s (noteSeed s sr) := by
  unfold noteSeed
  split
  · exact countNondet_note ht s (by decide)
  · exact NoteFrame.refl t s

end

end Sys2Proof.Machine
end

section
/-! The dispatch of an instruction to a unit of an idle, clean tile (R106 to R109, R116, R120, R127), and products (R619). -/

namespace Sys2Proof.Machine

/-! ## Dispatch on an idle, clean tile -/

/-- Nothing waits on a tile without outstanding instructions (R120). -/
theorem Tile.mustWait_idle {x : Tile} (h : x.inflight = []) (u : TileUnit) (reads writes : List Span) :
    x.mustWait u reads writes = false := by
  have hdepth : queueDepth u ≠ 0 := by cases u <;> decide
  simp [Tile.mustWait, h, hdepth]

/-- Footprints of a clean tile are consumed without an error (R107 to R109). -/
theorem consume_clean {s : State} {t : TileId} (h : CleanTile s t) (l : List Span) : consume s t l = (s, 0) := by
  have hsense (a : Span) : senseStore s t a.base a.len = s := by simp [senseStore, h.latent]
  have hall : l.foldl (fun s a => senseStore s t a.base a.len) s = s := by
    induction l with
    | nil => rfl
    | cons a r ih => rw [List.foldl_cons, hsense, ih]
  have hpoison : (s.tile t).poisonIn l = none := by simp [Tile.poisonIn, h.poison]
  simp only [consume, hall, hpoison]

/-- A descriptor in its place is read at dispatch (R116). -/
theorem withDescriptor_clean {s : State} {t : TileId} {w : TWord} (u : TileUnit) (f : State → Span → List Byte → State)
    (h : CleanTile s t) (hidle : (s.tile t).inflight = []) (halign : descAddr (s.tile t) w % 64 = 0)
    (hfit : descAddr (s.tile t) w + 64 ≤ storeBytes) :
    withDescriptor s t u w f = f s ⟨descAddr (s.tile t) w, 64⟩ (descOf (s.tile t) w) := by
  simp only [withDescriptor, halign, bne_self_eq_false, Bool.false_eq_true, if_false, Nat.not_lt.2 hfit,
    Tile.mustWait_idle hidle, consume_clean h, descOf]

/-- Without a flag that TILE_CTRL selects the script goes on (R127). -/
theorem flagStop_unselected {s : State} {t : TileId} (nan ewl : Bool) (h0 : s.regBit (tileRegs t + 8) 0 = false)
    (h1 : s.regBit (tileRegs t + 8) 1 = false) : flagStop s t nan ewl = s := by
  simp [flagStop, h0, h1]

/-- Bytes outside every one of a list of writes keep their values. -/
theorem Memory.get_writes_outside (ws : List (Nat × List Byte)) (m : Memory) {a : Nat}
    (h : ∀ p ∈ ws, ¬(p.1 ≤ a ∧ a < p.1 + p.2.length)) :
    Memory.get (ws.foldl (fun m p => Memory.write m p.1 p.2) m) a = Memory.get m a := by
  induction ws generalizing m with
  | nil => rfl
  | cons p r ih =>
    rw [List.foldl_cons, ih _ fun q hq => h q (List.mem_cons_of_mem _ hq)]
    exact Memory.get_write_outside m (by have := h p List.mem_cons_self; omega)

theorem advance_tileFrame (t : TileId) (v : State) : TileFrame t v (advance v t) :=
  State.modTile_tileFrame t v Tile.next
theorem enqueue_tileFrame (t : TileId) (v : State) (un : TileUnit) (reads writes : List Span) (d : Option DmaXfer) :
    TileFrame t v (enqueue v t un reads writes d) := State.modTile_tileFrame ..
theorem tileWriteAll_tileFrame (t : TileId) (v : State) (ws : List (Nat × List Byte)) : TileFrame t v (tileWriteAll v t ws) :=
  State.modTile_tileFrame ..

/-- A tile whose sequencer has dispatched an instruction and gone on. -/
theorem advance_enqueue_tile (v : State) (t : TileId) (un : TileUnit) (reads writes : List Span) (d : Option DmaXfer) :
    (advance (enqueue v t un reads writes d) t).tile t = Tile.next { v.tile t with
      inflight := (v.tile t).inflight ++ [⟨un, (v.tile t).nextId, (v.tile t).pc, reads, writes, d⟩]
      nextId := (v.tile t).nextId + 1 } := by
  rw [advance_eq, State.tile_setTile_self, enqueue, State.tile_modTile_self]

/-- What a dispatched instruction of a unit leaves: its entry in the queue, its writes in the store, and the sequencer at the next
instruction. -/
structure Dispatched (t : TileId) (un : TileUnit) (reads writes : List Span) (ws : List (Nat × List Byte)) (v u : State) :
    Prop where
  frame    : TileFrame t v u
  inflight : ∃ k, (u.tile t).inflight = (v.tile t).inflight ++ [k] ∧ k.unit = un ∧ k.reads = reads ∧ k.writes = writes
  store    : (u.tile t).store = ws.foldl (fun m p => Memory.write m p.1 p.2) (v.tile t).store
  sregs    : (u.tile t).sregs = (v.tile t).sregs
  pc       : (u.tile t).pc = (v.tile t).next.pc
  loops    : (u.tile t).loops = (v.tile t).next.loops
  phase    : (u.tile t).phase = (v.tile t).phase
  ctrl     : u.reg (tileRegs t + 8) = v.reg (tileRegs t + 8)

/-- An instruction that draws free values, writes its effect, notes what it counts and takes its queue entry is dispatched. -/
theorem dispatched_of_note {t : TileId} {v z : State} {ws : List (Nat × List Byte)} {n : Nat} (un : TileUnit)
    (reads writes : List Span) (hnote : NoteFrame t (tileWriteAll { v with free := n } t ws) z) :
    Dispatched t un reads writes ws v (advance (enqueue z t un reads writes none) t) := by
  obtain ⟨hframe, ⟨a, b, htile⟩, hctrl⟩ := hnote
  have hwritten : (tileWriteAll { v with free := n } t ws).tile t = { v.tile t with
      store := ws.foldl (fun m w => Memory.write m w.1 w.2) (v.tile t).store
      latent := (v.tile t).latent.filter (fun e => !coveredBy ws (e.1 * 32) 32)
      poison := (v.tile t).poison.filter (fun p => !coveredBy ws (p.1 * 128) 128) } := State.tile_modTile_self ..
  rw [hwritten] at htile
  have hlast := advance_enqueue_tile z t un reads writes none
  rw [htile] at hlast
  have hall : TileFrame t v (advance (enqueue z t un reads writes none) t) :=
    ((((free_tileFrame t v n).trans (tileWriteAll_tileFrame ..)).trans hframe).trans (enqueue_tileFrame ..)).trans
      (advance_tileFrame ..)
  refine ⟨hall, ⟨⟨un, (v.tile t).nextId, (v.tile t).pc, reads, writes, none⟩, ?_, rfl, rfl, rfl⟩, ?_, ?_, ?_, ?_, ?_, hctrl⟩
  all_goals
    rw [hlast]
    rfl

theorem Dispatched.flagStop {t : TileId} {un : TileUnit} {reads writes : List Span} {ws : List (Nat × List Byte)} {v u : State}
    (h : Dispatched t un reads writes ws v u) (hclean : CleanTile v t) (nan ewl : Bool) : flagStop u t nan ewl = u := by
  have hbit (i : Nat) : u.regBit (tileRegs t + 8) i = v.regBit (tileRegs t + 8) i := congrArg (bitOf · i) h.ctrl
  exact flagStop_unselected nan ewl ((hbit 0).trans hclean.nanStop) ((hbit 1).trans hclean.ewlStop)

/-! ## Products -/

section
variable {t : TileId} (ht : t.ok = true)
include ht

theorem countClocks_note (s : State) (d : MmaDesc) (x : Tile) (e : MmaEffect) : NoteFrame t s (countClocks s t d x e) := by
  unfold countClocks
  refine NoteFrame.trans ?_ (bumpTimes_note ht _ [7] (by decide))
  refine NoteFrame.trans ?_ (countTile_note ht _ _ (by decide))
  split
  · exact countTile_note ht s _ (by decide)
  · exact bumpTimes_note ht s [0] (by decide)

/-- Behind its writes a product notes its output tiles, its counts and its clocks (R76, R77, R129). -/
theorem applyProduct_note (s : State) (d : MmaDesc) (sr : Bool) (e : MmaEffect) :
    NoteFrame t (tileWriteAll { s with free := s.free + d.m * d.n + storeBytes } t e.writes) (applyProduct s t d sr e) := by
  unfold applyProduct
  refine NoteFrame.trans ?_ (noteSeed_note ht _ _)
  refine NoteFrame.trans ?_ (countClocks_note ht _ _ _ _)
  refine NoteFrame.trans ?_ (countTile_note ht _ _ (by decide))
  refine NoteFrame.trans ?_ (countTile_note ht _ _ (by decide))
  refine NoteFrame.trans ?_ (countTile_note ht _ _ (by decide))
  exact noteOutTiles_note ..

/-- A product that passes its checks on an idle, clean tile is dispatched with its effect (R619). -/
theorem dispatchMma_clean {v : State} {d : MmaDesc} (sp : Span) (h : CleanTile v t) (hidle : (v.tile t).inflight = [])
    (hfault : mmaFault v t d = 0) :
    Dispatched t .matrix (sp :: (mmaReads d (v.tile t)).map Area.span) ((mmaWrites d (v.tile t)).map Area.span)
      (mmaEffect v d (v.tile t)).writes v (dispatchMma v t sp d) := by
  have hdone := dispatched_of_note .matrix (sp :: (mmaReads d (v.tile t)).map Area.span) ((mmaWrites d (v.tile t)).map Area.span)
    (applyProduct_note ht v d (mmaStochastic d (v.tile t)) (mmaEffect v d (v.tile t)))
  have hstays := hdone.flagStop h (anyHit d.tiles (kindAt (mmaEffect v d (v.tile t))))
    (anyHit d.tiles (lossAt (mmaEffect v d (v.tile t))))
  have heq : dispatchMma v t sp d = advance (enqueue (applyProduct v t d (mmaStochastic d (v.tile t)) (mmaEffect v d (v.tile t))) t
      .matrix (sp :: (mmaReads d (v.tile t)).map Area.span) ((mmaWrites d (v.tile t)).map Area.span) none) t := by
    rw [← hstays]
    simp only [dispatchMma, Tile.mustWait_idle hidle, Bool.and_false, Bool.false_eq_true, if_false, hfault, bne_self_eq_false,
      consume_clean h, h.check]
  rw [heq]
  exact hdone

end

end Sys2Proof.Machine

open Sys2Proof Sys2Proof.Machine

/-- Settles O21: behind the fetch and its descriptor the product is dispatched on an idle, clean tile. -/
theorem mmaCompletes : Obligations.MmaCompletes := by
  unfold Obligations.MmaCompletes
  intro s t w ht v x d h hclean hidle halign hfit hfault e
  have hexec : exec (.mma t w) s = .next (dispatchMma v t ⟨descAddr x w, 64⟩ d) :=
    (onTile_word _ h).trans (congrArg _ (withDescriptor_clean .matrix _ hclean hidle halign hfit))
  obtain ⟨hframe, ⟨k, hinflight, hunit, -, -⟩, hstore, hsregs, hpc, hloops, hphase, -⟩ :=
    dispatchMma_clean ht ⟨descAddr x w, 64⟩ hclean hidle hfault
  rw [hidle] at hinflight
  refine ⟨_, k, hexec, hframe, hinflight, hunit, hstore, fun a ha => ?_, hsregs, hpc, hloops, hphase⟩
  rw [hstore]
  exact Memory.get_writes_outside _ _ ha
end

section
/-! Transfers of the tile DMA within the own package (R111 to R113, R122). -/

namespace Sys2Proof.Machine

/-! ## What an address reaches -/

theorem resolve_congr {s u : State} (hx : u.mem.xlt = s.mem.xlt) (hj : u.job = s.job) (va : Nat) (write : Bool) :
    resolve u va write = resolve s va write := by
  have hbounds : u.hostBounds = s.hostBounds := by unfold State.hostBounds State.launchOf; rw [hj]
  have hwindow (o : Nat) : storeWindow u o = storeWindow s o := by
    unfold storeWindow; rw [State.logicalTiles_congr hj]
  unfold resolve
  rw [hx, hwindow, hbounds]

theorem vaHeld_congr {s u : State} (hm : u.mem = s.mem) (hj : u.job = s.job) (va : Nat) : u.vaHeld va = s.vaHeld va := by
  have hpa (pa : Nat) : u.paHeld pa = s.paHeld pa := by
    unfold State.paHeld State.stackHeld State.pageOfFrame State.stk; rw [hm]
  unfold State.vaHeld
  rw [resolve_congr (congrArg Mem.xlt hm) hj]
  simp only [hpa]

theorem TileFrame.mem {t : TileId} {v u : State} (h : TileFrame t v u) : u.mem = v.mem := by rw [h.same]
theorem TileFrame.job {t : TileId} {v u : State} (h : TileFrame t v u) : u.job = v.job := by rw [h.same]

theorem TileFrame.resolve {t : TileId} {v u : State} (h : TileFrame t v u) (va : Nat) (write : Bool) :
    Machine.resolve u va write = Machine.resolve v va write := resolve_congr (congrArg Mem.xlt h.mem) h.job va write

theorem TileFrame.vaHeld {t : TileId} {v u : State} (h : TileFrame t v u) (va : Nat) : u.vaHeld va = v.vaHeld va :=
  vaHeld_congr h.mem h.job va

/-- A range outside the event ring reads the same behind a tile's instruction. -/
theorem TileFrame.read_host {t : TileId} {v u : State} (h : TileFrame t v u) {a n : Nat}
    (hring : ∀ b, a ≤ b → b < a + n → Machine.inEventRing v b = false) : Memory.read u.hostMem a n = Memory.read v.hostMem a n :=
  List.map_congr_left fun i hi =>
    have hi : i < n := List.mem_range.1 hi
    h.host _ (hring _ (by omega) (by omega))

/-- The same bytes written to host memory keep the frame. -/
theorem TileFrame.write_host {t : TileId} {v u : State} (h : TileFrame t v u) (a : Nat) (bs : List Byte) :
    TileFrame t { v with hostMem := Memory.write v.hostMem a bs } { u with hostMem := Memory.write u.hostMem a bs } := by
  refine ⟨congrArg (fun s : State => { s with hostMem := Memory.write u.hostMem a bs }) h.same, h.tiles, h.regs, fun b hb => ?_⟩
  rw [Memory.get_write, Memory.get_write, h.host b hb]

/-! ## A row within one line -/

section
variable {d : DmaXfer} (hrows : d.rows = 1) (hpos : 0 < d.rowBytes) (hline : d.vaddr.toNat % 128 + d.rowBytes ≤ 128)
include hrows hpos hline

/-- A row that lies within one line is one piece. -/
theorem DmaXfer.pieces_row : d.pieces = [(d.vaddr.toNat, d.tsAddr * 64, d.rowBytes)] := by
  have hrow : d.row 0 = (d.vaddr.toNat, d.tsAddr * 64) := by
    simp only [DmaXfer.row, Nat.zero_mul, Nat.add_zero, Nat.mod_eq_of_lt d.vaddr.isLt]
  simp [DmaXfer.pieces, hrows, hrow, piecesOf_line hpos hline]

/-- A local transfer of one piece that has moved it has moved its last line. -/
theorem DmaXfer.moved_row (hlocal : d.remote = none) (hnext : d.next = 1) : d.moved = true := by
  simp [DmaXfer.moved, hlocal, hnext, DmaXfer.pieces_row hrows hpos hline]

end

/-- A piece that has reached the tile store of a DMA_IN from host memory. -/
theorem movePieces_host_in {s : State} {t : TileId} {d : DmaXfer} {va ts n a : Nat} (hout : d.out = false)
    (hheld : s.vaHeld va = false) (hres : resolve s va false = .ok (.host a)) :
    movePieces [(va, ts, n)] s t d =
      (landPiece s t ts (Memory.read s.hostMem a n), { d with landed := d.landed ++ [⟨ts, n⟩], next := d.next + 1 }, 0) := by
  simp [movePieces, movePiece, hheld, hout, hres, countMisses, readLoc]

/-- A piece that has reached host memory from the tile store of a DMA_OUT. -/
theorem movePieces_host_out {s : State} {t : TileId} {d : DmaXfer} {va ts n a : Nat} (hout : d.out = true)
    (hheld : s.vaHeld va = false) (hres : resolve s va true = .ok (.host a)) :
    movePieces [(va, ts, n)] s t d =
      ({ s with hostMem := Memory.write s.hostMem a ((s.tile t).read ts n) },
       { d with undo := d.undo ++ [(va, Memory.read s.hostMem a n, (s.tile t).read ts n)], next := d.next + 1 }, 0) := by
  simp [movePieces, movePiece, hheld, hout, hres, countMisses, writeLoc, State.peekLoc]

/-! ## Running a transfer -/

/-- A transfer under way moves its pieces from the next one on; its port's clocks are counted (R104). -/
theorem runDma_moves {s y : State} {t : TileId} {id : Nat} {e : InFlight} {d d' : DmaXfer} (he : s.dmaEntry t id = some (e, d))
    (hlocal : d.remote = none) (hleft : d.next < d.pieces.length)
    (hmove : movePieces (d.pieces.drop d.next) (bumpClocks s (tileRegs t) 7) t d = (y, d', 0)) :
    runDma s t id = setDma y t id d' := by
  simp [runDma, he, hlocal, DmaXfer.moved, hleft, hmove]

/-- A transfer that has moved its last line stays as it is. -/
theorem runDma_moved {s : State} {t : TileId} {id : Nat} {e : InFlight} {d : DmaXfer} (he : s.dmaEntry t id = some (e, d))
    (hmoved : d.moved = true) : runDma s t id = s := by
  simp [runDma, he, hmoved]

/-- The only entry of a queue is found by its identity. -/
theorem dmaEntry_only {s : State} {t : TileId} {e : InFlight} {d : DmaXfer} (hq : (s.tile t).inflight = [e])
    (hd : e.dma = some d) : s.dmaEntry t e.id = some (e, d) := by
  simp [State.dmaEntry, hq, hd]

/-! ## Dispatch -/

/-- The footprints of a transfer's instruction (R120): its descriptor and its area of the tile store. -/
def dmaReads (sp : Span) (d : DmaXfer) : List Span := if d.out then [sp, d.area.span] else [sp]
def dmaWrites (d : DmaXfer) : List Span := if d.out then [] else [d.area.span]

/-- A transfer of the own package whose descriptor is in order is dispatched on an idle, clean tile, and runs (R111). -/
theorem dispatchDma_clean {v : State} {t : TileId} {w : TWord} {out : Bool} (h : CleanTile v t)
    (hidle : (v.tile t).inflight = []) (halign : descAddr (v.tile t) w % 64 = 0)
    (hfit : descAddr (v.tile t) w + 64 ≤ storeBytes) (hfault : dmaFault (dmaOf out (descOf (v.tile t) w)) = 0)
    (hown : memberTarget v (BitVec.ofNat 32 (fieldLE (descOf (v.tile t) w) 0x10 4)) = .ok none) :
    let d := dmaOf out (descOf (v.tile t) w)
    dispatchDma v t w out = runDma (advance (enqueue v t .dma (dmaReads ⟨descAddr (v.tile t) w, 64⟩ d) (dmaWrites d) (some d)) t)
      t (v.tile t).nextId := by
  cases out <;>
    simp only [dispatchDma, withDescriptor_clean _ _ h hidle halign hfit, hfault, hown, Tile.mustWait_idle hidle,
      bne_self_eq_false, Bool.false_eq_true, if_false, if_true, consume_clean h] <;>
    rfl

theorem setDma_tileFrame (t : TileId) (v : State) (id : Nat) (d : DmaXfer) : TileFrame t v (setDma v t id d) :=
  State.modTile_tileFrame ..

theorem landPiece_tileFrame (t : TileId) (v : State) (ts : Nat) (bs : List Byte) : TileFrame t v (landPiece v t ts bs) :=
  State.modTile_tileFrame ..

/-- The only transfer of a queue takes its new state; the rest of the tile stays. -/
theorem setDma_only {s : State} {t : TileId} {e : InFlight} (d : DmaXfer) (hq : (s.tile t).inflight = [e]) :
    (setDma s t e.id d).tile t = { s.tile t with inflight := [{ e with dma := some d }] } := by
  rw [setDma, State.tile_modTile_self]
  simp [hq, updFirst]

@[simp] theorem bumpClocks_tile (s : State) (g n : Nat) (t : TileId) : (bumpClocks s g n).tile t = s.tile t := by
  simp only [State.tile, (bumpClocks_line s g n).tiles]

/-- The entry of a transfer as it is dispatched. -/
def dmaEntryOf (x : Tile) (sp : Span) (d : DmaXfer) : InFlight :=
  ⟨.dma, x.nextId, x.pc, dmaReads sp d, dmaWrites d, some d⟩

/-- A tile with a transfer dispatched to it, before the transfer's first line has moved. -/
def withTransfer (v : State) (t : TileId) (sp : Span) (d : DmaXfer) : State :=
  advance (enqueue v t .dma (dmaReads sp d) (dmaWrites d) (some d)) t

theorem withTransfer_tileFrame (v : State) (t : TileId) (sp : Span) (d : DmaXfer) : TileFrame t v (withTransfer v t sp d) :=
  (enqueue_tileFrame ..).trans (advance_tileFrame ..)

section
variable {v : State} {t : TileId} (sp : Span) {d : DmaXfer} {a : Nat} (hidle : (v.tile t).inflight = [])
  (hlocal : d.remote = none) (hnext : d.next = 0) (hrows : d.rows = 1) (hpos : 0 < d.rowBytes)
  (hline : d.vaddr.toNat % 128 + d.rowBytes ≤ 128) (hheld : v.vaHeld d.vaddr.toNat = false)
  (hres : resolve v d.vaddr.toNat d.out = .ok (.host a))
  (hring : ∀ b, a ≤ b → b < a + d.rowBytes → inEventRing v b = false)

include hidle in
theorem withTransfer_tile : (withTransfer v t sp d).tile t = Tile.next { v.tile t with
    inflight := [dmaEntryOf (v.tile t) sp d], nextId := (v.tile t).nextId + 1 } := by
  rw [withTransfer, advance_enqueue_tile, hidle]
  rfl

include hidle hlocal hnext hrows hpos hline in
/-- A transfer of one piece that moves it at once is left with its piece moved. -/
theorem runDma_withTransfer {y : State} {d' : DmaXfer}
    (hmove : movePieces [(d.vaddr.toNat, d.tsAddr * 64, d.rowBytes)] (bumpClocks (withTransfer v t sp d) (tileRegs t) 7) t d =
      (y, d', 0)) : runDma (withTransfer v t sp d) t (v.tile t).nextId = setDma y t (v.tile t).nextId d' := by
  have hpieces := DmaXfer.pieces_row hrows hpos hline
  have hentry : (withTransfer v t sp d).dmaEntry t (v.tile t).nextId = some (dmaEntryOf (v.tile t) sp d, d) :=
    dmaEntry_only (e := dmaEntryOf (v.tile t) sp d) (by rw [withTransfer_tile sp hidle]; rfl) rfl
  refine runDma_moves hentry hlocal (by rw [hpieces, hnext]; exact Nat.one_pos) ?_
  rw [hpieces, hnext]
  exact hmove

include hidle in
/-- The tile behind its transfer's piece, with the store that the piece leaves. -/
theorem setDma_withTransfer {y : State} {m : Memory} (d' : DmaXfer)
    (hy : y.tile t = { (withTransfer v t sp d).tile t with store := m }) :
    let u := setDma y t (v.tile t).nextId d'
    (u.tile t).inflight = [{ dmaEntryOf (v.tile t) sp d with dma := some d' }] ∧ (u.tile t).pc = (v.tile t).next.pc ∧
      (u.tile t).store = m := by
  rw [withTransfer_tile sp hidle] at hy
  have htile : (setDma y t (v.tile t).nextId d').tile t =
      { y.tile t with inflight := [{ dmaEntryOf (v.tile t) sp d with dma := some d' }] } :=
    setDma_only (e := dmaEntryOf (v.tile t) sp d) d' (by rw [hy]; rfl)
  exact ⟨by rw [htile], by rw [htile, hy]; rfl, by rw [htile, hy]⟩

/-- What the transfer of one row leaves of its tile: its entry has moved its last line, and the sequencer has gone on. -/
def RowMoved (t : TileId) (v u : State) (m : Memory) : Prop :=
  ∃ e, (u.tile t).inflight = [e] ∧ e.unit = .dma ∧ (∃ k, e.dma = some k ∧ k.moved = true) ∧
    (u.tile t).pc = (v.tile t).next.pc ∧ (u.tile t).store = m

include hidle hlocal hnext hrows hpos hline hheld hres

include hring in
/-- A DMA_IN of a row of host memory lands in the tile store (R111, R112). -/
theorem runDma_host_in (hout : d.out = false) :
    let u := runDma (withTransfer v t sp d) t (v.tile t).nextId
    TileFrame t v u ∧
    RowMoved t v u (Memory.write (v.tile t).store (d.tsAddr * 64) (Memory.read v.hostMem a d.rowBytes)) := by
  have hframe : TileFrame t v (bumpClocks (withTransfer v t sp d) (tileRegs t) 7) :=
    (withTransfer_tileFrame v t sp d).trans (bumpClocks_tileFrame t _ (by decide))
  have hread := hframe.read_host hring
  rw [hout] at hres
  rw [runDma_withTransfer sp hidle hlocal hnext hrows hpos hline (movePieces_host_in hout ((hframe.vaHeld _).trans hheld)
    ((hframe.resolve _ _).trans hres)), hread]
  have hstore : ((withTransfer v t sp d).tile t).store = (v.tile t).store := by rw [withTransfer_tile sp hidle]; rfl
  obtain ⟨hentry, hpc, hlanded⟩ := setDma_withTransfer sp hidle
    { d with landed := d.landed ++ [⟨d.tsAddr * 64, d.rowBytes⟩], next := d.next + 1 }
    (y := landPiece (bumpClocks (withTransfer v t sp d) (tileRegs t) 7) t (d.tsAddr * 64) (Memory.read v.hostMem a d.rowBytes))
    (by rw [landPiece, State.tile_modTile_self, bumpClocks_tile])
  have hmoved := DmaXfer.moved_row (d := { d with landed := d.landed ++ [⟨d.tsAddr * 64, d.rowBytes⟩], next := d.next + 1 })
    hrows hpos hline hlocal (by rw [hnext])
  rw [hstore] at hlanded
  exact ⟨(hframe.trans (landPiece_tileFrame ..)).trans (setDma_tileFrame ..), _, hentry, rfl, ⟨_, rfl, hmoved⟩, hpc, hlanded⟩

/-- A DMA_OUT of a row lands in host memory (R111, R122). -/
theorem runDma_host_out (hout : d.out = true) :
    let u := runDma (withTransfer v t sp d) t (v.tile t).nextId
    TileFrame t { v with hostMem := Memory.write v.hostMem a (Memory.read (v.tile t).store (d.tsAddr * 64) d.rowBytes) } u ∧
    RowMoved t v u (v.tile t).store := by
  have hframe : TileFrame t v (bumpClocks (withTransfer v t sp d) (tileRegs t) 7) :=
    (withTransfer_tileFrame v t sp d).trans (bumpClocks_tileFrame t _ (by decide))
  have hstore : ((withTransfer v t sp d).tile t).store = (v.tile t).store := by rw [withTransfer_tile sp hidle]; rfl
  have hread : ((bumpClocks (withTransfer v t sp d) (tileRegs t) 7).tile t).read (d.tsAddr * 64) d.rowBytes =
      Memory.read (v.tile t).store (d.tsAddr * 64) d.rowBytes := by rw [bumpClocks_tile, Tile.read, hstore]
  rw [hout] at hres
  rw [runDma_withTransfer sp hidle hlocal hnext hrows hpos hline (movePieces_host_out hout ((hframe.vaHeld _).trans hheld)
    ((hframe.resolve _ _).trans hres)), hread]
  generalize hd : { d with undo := _, next := d.next + 1 } = d'
  have hmoved : d'.moved = true := by
    subst hd
    exact DmaXfer.moved_row hrows hpos hline hlocal (by rw [hnext])
  obtain ⟨hentry, hpc, hkept⟩ := setDma_withTransfer sp hidle d' (m := (v.tile t).store)
    (y := { bumpClocks (withTransfer v t sp d) (tileRegs t) 7 with hostMem := _ }) (by rw [← hstore]; exact bumpClocks_tile ..)
  exact ⟨(hframe.write_host ..).trans (setDma_tileFrame ..), _, hentry, rfl, ⟨_, rfl, hmoved⟩, hpc, hkept⟩

end

/-! ## The end of a transfer -/

/-- The only transfer of a tile that is not stopping retires once it has moved its last line (R122). -/
theorem dmaStep_only {s : State} {t : TileId} {e : InFlight} {d : DmaXfer} (hq : (s.tile t).inflight = [e])
    (hd : e.dma = some d) (hlocal : d.remote = none) (hmoved : d.moved = true) (hgo : (s.tile t).stopping = none) :
    dmaStep s t = (settleLines s t d).modTile t
      (fun x => { x with inflight := dropFirst (fun k => k.id == e.id) x.inflight }) := by
  have hdone : s.dmaDone d = true := by simp [State.dmaDone, hmoved, hlocal]
  have hsettled : ((settleLines s t d).tile t).stopping = none := by
    unfold settleLines
    split
    · exact hgo
    · rw [State.tile_modTile_self]; exact hgo
  simp only [dmaStep, hq, List.filter_cons, hd, Option.isSome_some, if_true, List.filter_nil, List.map_cons, List.map_nil,
    List.foldl_cons, List.foldl_nil, runDma_moved (dmaEntry_only hq hd) hmoved, List.find?_cons_of_pos, hdone]
  exact retireEntry_going _ hsettled

/-- Settling the lines of a transfer changes what its tile knows of poison and hidden errors only (R108). -/
theorem settleLines_tile (s : State) (t : TileId) (d : DmaXfer) :
    (∃ p l, (settleLines s t d).tile t = { s.tile t with poison := p, latent := l }) ∧
    (∀ y, y ≠ t → (settleLines s t d).tile y = s.tile y) ∧ ∃ ts, settleLines s t d = { s with tiles := ts } := by
  unfold settleLines
  simp only
  split
  · exact ⟨⟨_, _, rfl⟩, fun _ _ => rfl, _, rfl⟩
  · exact ⟨⟨_, _, State.tile_modTile_self ..⟩, fun y hy => State.tile_modTile_ne _ _ hy, _, rfl⟩

end Sys2Proof.Machine

open Sys2Proof Sys2Proof.Machine

/-- Settles O18: the dispatched transfer moves its one piece at once, and DMA_TRANSFER_DONE retires a transfer that has moved
all of its pieces. -/
theorem dmaMovesRows : Obligations.DmaMovesRows := by
  unfold Obligations.DmaMovesRows
  intro s t w v x
  refine ⟨?_, fun e d hp hq hd hlocal hleft hgo => ?_⟩
  · intro out h hclean halign hfit d hidle hfault hown hrows hpos hline hheld a hres hring
    let sp : Span := ⟨descAddr x w, 64⟩
    have hexec : exec (if out then .dmaOut t w else .dmaIn t w) s =
        .next (runDma (withTransfer v t sp d) t (v.tile t).nextId) := by
      have hrun := dispatchDma_clean (out := out) hclean hidle halign hfit hfault hown
      cases out with
      | false => exact (onTile_word _ h).trans (congrArg _ hrun)
      | true => exact (onTile_word _ h).trans (congrArg _ hrun)
    cases out with
    | false =>
      obtain ⟨hframe, e, hentry, hunit, hmoved, hpc, hstore⟩ :=
        runDma_host_in sp hidle (d := d) rfl rfl hrows hpos hline hheld hres hring rfl
      exact ⟨_, e, hexec, hentry, hunit, hmoved, hpc, fun _ => ⟨hframe, hstore⟩, (fun h => nomatch h)⟩
    | true =>
      obtain ⟨hframe, e, hentry, hunit, hmoved, hpc, hstore⟩ :=
        runDma_host_out sp hidle (d := d) rfl rfl hrows hpos hline hheld hres rfl
      exact ⟨_, e, hexec, hentry, hunit, hmoved, hpc, (fun h => nomatch h), fun _ => ⟨hframe, hstore⟩⟩
  · have hmoved : d.moved = true := by simp [DmaXfer.moved, hlocal, hleft]
    have hexec : exec (.dmaTransferDone t) s = .next (dmaStep s t) := by
      show execDmaTransferDone t s = _
      rw [execDmaTransferDone, powered_on _ hp]
    obtain ⟨⟨p, l, htile⟩, hother, ts, hsame⟩ := settleLines_tile s t d
    refine ⟨_, hexec, ?_⟩
    rw [dmaStep_only hq hd hlocal hmoved hgo, State.tile_modTile_self, htile]
    refine ⟨by simp [hq, dropFirst], rfl, ?_, fun y hy => ?_⟩
    · rw [hsame]
      rfl
    · rw [State.tile_modTile_ne _ _ hy, hother y hy]
end

section
/-! The end of a tile's SC_WAIT can end the tile's stop, its launch and its TILE_RUN, whose completion is then posted (R124,
R548, R558). -/

namespace Sys2Proof.Machine

/-- A powered package whose job has two logical tiles on each die. -/
def twoTileJob : State :=
  { State.reset with
    pins := { State.reset.pins with powered := true }
    job := some {
      tag := 5, epoch := 1, rank := 0, members := [1], phase := .running, image := none, forwarded := true, forwardedAt := 0,
      childAcks := [], hintPages := [], timeSeed := 0, programDigest := [], shrunk := false, oldMembers := 1
      launch := some {
        mode := 0, seed := 0, logicalTiles := 2, startStroke := 0, gen := 0, nondetBase := 0, programDigest := [], hintCount := 0
        plan := { checkFrames := [0, 0, 0, 0], ckptEn := false, hostBase := 0, hostLimit := 0 }
        ckpt := { buddyRank := 0, wardRank := 0, vbase := 0, vbytes := 0, wardStore := 0, hostStore := 0, intervalMs := 0,
                  intervalStrokes := 0, copyRate := 0, restoreRate := 0, resClear := true } } } }

/-- A TILE_RUN of internal ring 0, and its one launch, on tile 0 of die 0. -/
def internalRun : CmdCtx := ⟨64, 7, false, false⟩
def internalLaunch : TileLaunch := ⟨0, [], false, 0, internalRun, 0⟩

/-- The wait of tile 0 of die 0 for counter 0 to reach 0. -/
def doneWait : Wait := ⟨.tile ⟨0, 0⟩, 0, 0, false⟩

/-- Tile 0 of die 0 stops behind an SC_WAIT whose counter has its value; its launch is the last of a TILE_RUN of internal
ring 0, whose completion ring lies in the store of tile 1. -/
def stoppingWaiter : State :=
  { twoTileJob with
    tiles := [(⟨0, 0⟩, { Tile.reset with
      phase := .running, running := some internalLaunch, wait := some (0, 0), stopping := some (0x8633, 0),
      inflight := [⟨.sync, 0, 0, [], [], none⟩] })]
    sync := { twoTileJob.sync with waits := [doneWait] }
    hif := { Hif.reset with
      cqs := [(64, { CompRing.off with enabled := true, base := 0x10000400000, log2 := 4 })]
      tileRuns := [⟨internalRun, 1, none⟩] } }

/-- The completion of the TILE_RUN is written to the store of tile 1. -/
theorem endWait_stoppingWaiter : ((endWait stoppingWaiter doneWait).tile ⟨0, 1⟩).store ≠ (stoppingWaiter.tile ⟨0, 1⟩).store := by
  decide +kernel

end Sys2Proof.Machine

open Sys2Proof Sys2Proof.Machine

/-- Refutes O15: the end of a tile's SC_WAIT may be the last that a stop of its script waits for (R124). The launch then ends,
and the completion of its TILE_RUN goes to an internal completion ring (R562); where that ring lies in the tile-store window,
the store of another tile changes, which the statement keeps. -/
theorem not_tileSyncInstructionsAndWaits : ¬ Obligations.TileSyncInstructionsAndWaits := by
  unfold Obligations.TileSyncInstructionsAndWaits
  rintro ⟨-, hwaits⟩
  obtain ⟨-, hreached⟩ := hwaits stoppingWaiter doneWait rfl rfl
  obtain ⟨-, htile, -⟩ := hreached (by decide)
  obtain ⟨-, hother⟩ := htile ⟨0, 0⟩ rfl
  exact endWait_stoppingWaiter (congrArg Tile.store (hother ⟨0, 1⟩ (by decide)))
end

section
/-! The dispatch of an element-class instruction on an idle, clean tile (R120, R165, R620). -/

namespace Sys2Proof.Machine

/-- Each element-class instruction is the shared dispatch with its OP code (Table 5.4, Table 5.7). -/
theorem exec_elementOp {i : Instr} {op : Nat} {t : TileId} {w : TWord} (h : elementOp i = some (op, t, w)) (s : State) :
    exec i s = runEop op t w s := by
  unfold elementOp at h
  split at h <;> cases h
  all_goals rfl

section
variable {t : TileId} (ht : t.ok = true)
include ht

/-- Behind its writes an element instruction notes its output tiles, its conversions and its clocks (R129, R186). -/
theorem applyEop_note (s : State) (d : EDesc) (op : Nat) (e : EopEffect) :
    NoteFrame t (tileWriteAll s t e.writes) (applyEop s t d op e) := by
  unfold applyEop
  refine NoteFrame.trans ?_ (noteSeed_note ht _ _)
  refine NoteFrame.trans ?_ (bumpTimes_note ht _ [7] (by decide))
  refine NoteFrame.trans ?_ (countTile_note ht _ _ (by decide))
  exact noteOutTiles_note ..

/-- An element instruction that passes its checks on an idle, clean tile is dispatched with its effect (R620). -/
theorem dispatchEop_clean {v : State} {d : EDesc} {op : Nat} (sp : Span) (h : CleanTile v t) (hidle : (v.tile t).inflight = [])
    (hfault : eopFault v d op = 0) :
    Dispatched t .element (sp :: (d.reads op).map Area.span) ((d.writes op).map Area.span) (eopEffect v d (v.tile t) op).writes
      v (dispatchEop v t sp d op) := by
  have hdone := dispatched_of_note (n := v.free) .element (sp :: (d.reads op).map Area.span) ((d.writes op).map Area.span)
    (applyEop_note ht v d op (eopEffect v d (v.tile t) op))
  have hstays := hdone.flagStop h (anyHit (eopTiles d op) (eopEffect v d (v.tile t) op).kindAt) false
  have heq : dispatchEop v t sp d op = advance (enqueue (applyEop v t d op (eopEffect v d (v.tile t) op)) t .element
      (sp :: (d.reads op).map Area.span) ((d.writes op).map Area.span) none) t := by
    rw [← hstays]
    simp only [dispatchEop, Tile.mustWait_idle hidle, Bool.false_eq_true, if_false, hfault, bne_self_eq_false, consume_clean h]
  rw [heq]
  exact hdone

/-- Behind its fetch and its descriptor, an element instruction at the program counter of an idle, clean tile is dispatched. -/
theorem exec_elementOp_dispatched {s : State} {i : Instr} {op : Nat} {w : TWord} (hi : elementOp i = some (op, t, w))
    (hat : TileAt s t 2 op w) (hclean : CleanTile (fetched s t) t) (hidle : ((fetched s t).tile t).inflight = [])
    (halign : descAddr ((fetched s t).tile t) w % 64 = 0) (hfit : descAddr ((fetched s t).tile t) w + 64 ≤ storeBytes)
    (hfault : eopFault (fetched s t) (parseEop (descOf ((fetched s t).tile t) w)) op = 0) :
    ∃ u reads, exec i s = .next u ∧
      Dispatched t .element reads (((parseEop (descOf ((fetched s t).tile t) w)).writes op).map Area.span)
        (eopEffect (fetched s t) (parseEop (descOf ((fetched s t).tile t) w)) ((fetched s t).tile t) op).writes (fetched s t) u :=
  ⟨_, _, ((exec_elementOp hi s).trans (onTile_word _ hat)).trans
    (congrArg Host.Outcome.next (withDescriptor_clean .element _ hclean hidle halign hfit)),
    dispatchEop_clean ht _ hclean hidle hfault⟩

end

end Sys2Proof.Machine

open Sys2Proof Sys2Proof.Machine

/-- Settles O19: behind the fetch and its descriptor the element instruction is dispatched on an idle, clean tile. -/
theorem elementInstructionsComplete : Obligations.ElementInstructionsComplete := by
  unfold Obligations.ElementInstructionsComplete
  intro s i op t w hi ht v x d h hclean hidle halign hfit hfault e
  obtain ⟨u, _, hexec, hframe, ⟨k, hinflight, hunit, -, hwrites⟩, hstore, hsregs, hpc, hloops, hphase, -⟩ :=
    exec_elementOp_dispatched ht hi h hclean hidle halign hfit hfault
  rw [hidle] at hinflight
  refine ⟨u, k, hexec, hframe, hinflight, hunit, hwrites, hstore, fun a ha => ?_, hsregs, hpc, hloops, hphase⟩
  rw [hstore]
  exact Memory.get_writes_outside _ _ ha
end

section
/-! Where element-wise results stand in the tile store: what is read back where a grid of codes has been written (R95), and that
a code of an IEEE format fits its width (Table 2.1). -/

namespace Sys2Proof.Machine

/-! ## Codes fit their format -/

theorem lt_two_pow_bitLen (m : Nat) : m < 2 ^ bitLen m := by
  unfold bitLen
  split_ifs with h
  · simp [h]
  · exact Nat.lt_log2_self

theorem two_pow_bitLen_le {m : Nat} (h : m ≠ 0) : 2 ^ (bitLen m - 1) ≤ m := by
  simpa [bitLen, h] using Nat.log2_self_le h

theorem bitAt_le (b : Bool) (i : Nat) : bitAt b i ≤ 2 ^ i := by
  unfold bitAt
  split_ifs <;> simp

/-- A magnitude that does not exceed one of `p` bits ends no higher than that one. -/
theorem bitLen_le_of_not_magGt {m a p : Nat} {e b : Int} (h : magGt m e a b = false) (hm : m ≠ 0) (ha : a < 2 ^ p) :
    e + bitLen m ≤ b + p := by
  have hle : m * 2 ^ (e - min e b).toNat ≤ a * 2 ^ (b - min e b).toNat := by simpa [magGt] using h
  have hlt : 2 ^ (bitLen m - 1 + (e - min e b).toNat) < 2 ^ (p + (b - min e b).toNat) := by
    rw [pow_add, pow_add]
    calc _ ≤ m * 2 ^ (e - min e b).toNat := Nat.mul_le_mul_right _ (two_pow_bitLen_le hm)
      _ ≤ a * 2 ^ (b - min e b).toNat := hle
      _ < _ := Nat.mul_lt_mul_of_pos_right ha (Nat.two_pow_pos _)
  have hexp := (Nat.pow_lt_pow_iff_right (by decide : 1 < 2)).1 hlt
  omega

/-- A magnitude aligned to a last place that leaves it at most `p` bits. -/
theorem aligned_lt {m p : Nat} {e u : Int} (h : e + bitLen m ≤ u + p) :
    (if u ≤ e then m <<< (e - u).toNat else m >>> (u - e).toNat) < 2 ^ p := by
  have hm := lt_two_pow_bitLen m
  split_ifs with hu
  · rw [Nat.shiftLeft_eq]
    calc m * 2 ^ (e - u).toNat < 2 ^ bitLen m * 2 ^ (e - u).toNat := Nat.mul_lt_mul_of_pos_right hm (Nat.two_pow_pos _)
      _ = 2 ^ (bitLen m + (e - u).toNat) := (pow_add ..).symm
      _ ≤ 2 ^ p := Nat.pow_le_pow_right (by decide) (by omega)
  · rw [Nat.shiftRight_eq_div_pow, Nat.div_lt_iff_lt_mul (Nat.two_pow_pos _), ← pow_add]
    exact hm.trans_le (Nat.pow_le_pow_right (by decide) (by omega))

theorem Fmt.two_pow_width (f : Fmt) : 2 ^ f.width = 2 * 2 ^ (f.eb + f.mb) := by
  rw [Fmt.width, Nat.add_assoc, pow_add, pow_one]

/-- A sign above a number of the other bits makes a code of the format's width. -/
theorem Fmt.sign_add_lt {f : Fmt} {neg : Bool} {n : Nat} (h : n < 2 ^ (f.eb + f.mb)) :
    bitAt neg (f.eb + f.mb) + n < 2 ^ f.width := by
  have hsign := bitAt_le neg (f.eb + f.mb)
  rw [f.two_pow_width]
  omega

/-- The exponent and mantissa bits of an infinity fit below the sign. -/
theorem Fmt.infinity_lt (f : Fmt) : (2 ^ f.eb - 1) * 2 ^ f.mb < 2 ^ (f.eb + f.mb) := by
  rw [pow_add]
  exact Nat.mul_lt_mul_of_pos_right (Nat.sub_lt (Nat.two_pow_pos _) Nat.one_pos) (Nat.two_pow_pos _)

section
variable {f : Fmt} (hkind : f.kind = .ieee) (heb : 1 ≤ f.eb)
include hkind heb

/-- The bits of a finite value within the range of an IEEE format fit its width. -/
theorem Fmt.encodeFin_lt {neg : Bool} {m : Nat} {e : Int} (h : f.overflows m e = false) : f.encodeFin neg m e < 2 ^ f.width := by
  unfold Fmt.encodeFin
  split_ifs with hm
  · exact Fmt.sign_add_lt (Nat.two_pow_pos _)
  · have hmax : f.maxSig < 2 ^ (f.mb + 1) := by
      rw [Fmt.maxSig, hkind]
      exact Nat.sub_lt (Nat.two_pow_pos _) Nat.one_pos
    have hend : e + bitLen m ≤ f.maxExp + (f.mb + 1 : Nat) := bitLen_le_of_not_magGt h hm hmax
    have hplace : (max (e + bitLen m - (f.mb + 1 : Nat)) f.emin - f.emin).toNat + 2 ≤ 2 ^ f.eb := by
      have htwo : 2 ≤ 2 ^ f.eb := Nat.le_self_pow (by omega) 2
      have hemin : f.emin = 1 - (f.bias : Int) - f.mb := rfl
      have hexp : f.maxExp = (2 ^ f.eb : Nat) - 2 - (f.bias : Int) - f.mb := by rw [Fmt.maxExp, hkind]
      omega
    have hsig := aligned_lt (m := m) (p := f.mb + 1) (e := e) (u := max (e + bitLen m - (f.mb + 1 : Nat)) f.emin) (by omega)
    simp only
    generalize max (e + bitLen m - (f.mb + 1 : Nat)) f.emin = u at hplace hsig ⊢
    generalize (if u ≤ e then m <<< (e - u).toNat else m >>> (u - e).toNat) = q at hsig ⊢
    have hfits : ((u - f.emin).toNat + 1) * 2 ^ f.mb + 2 ^ f.mb ≤ 2 ^ (f.eb + f.mb) := by
      rw [← Nat.succ_mul, pow_add]
      exact Nat.mul_le_mul_right _ hplace
    split_ifs with hq
    · exact Fmt.sign_add_lt (by omega)
    · rw [Nat.add_assoc]
      exact Fmt.sign_add_lt (by omega)

/-- A conversion into an IEEE format gives a code of its width. -/
theorem Fmt.convert_bits_lt (hmb : 1 ≤ f.mb) (nonsat : Bool) (k : Rnd) (x : Fp) : (f.convert nonsat k x).bits < 2 ^ f.width := by
  have hinf (neg : Bool) : f.infBits neg < 2 ^ f.width := Fmt.sign_add_lt f.infinity_lt
  have hmax (neg : Bool) : f.maxBits neg < 2 ^ f.width := by
    rw [Fmt.maxBits, hkind]
    exact Fmt.sign_add_lt ((Nat.sub_le _ _).trans_lt f.infinity_lt)
  have hnan : f.nanBits < 2 ^ f.width := by
    have hquiet : 2 ^ (f.mb - 1) < 2 ^ f.mb := Nat.pow_lt_pow_right (by decide) (by omega)
    have hone : 2 ^ f.mb ≤ 2 ^ (f.eb + f.mb) := Nat.pow_le_pow_right (by decide) (by omega)
    have hinfinity := f.infinity_lt
    simp only [Fmt.nanBits, hkind, f.two_pow_width]
    omega
  cases x with
  | nan => exact hnan
  | inf neg =>
    simp only [Fmt.convert, hkind]
    exact hinf neg
  | fin neg m e =>
    simp only [Fmt.convert, hkind]
    split_ifs with ho hn
    · exact Fmt.encodeFin_lt hkind heb (by simpa using ho)
    · exact hinf neg
    · exact hmax neg

end

/-! ## Writes in ascending order -/

/-- Bytes are read alike where two memories agree. -/
theorem Memory.read_congr {m m' : Memory} {a n : Nat} (h : ∀ b, a ≤ b → b < a + n → Memory.get m b = Memory.get m' b) :
    Memory.read m a n = Memory.read m' a n :=
  List.map_congr_left fun i hi => h _ (by omega) (by have := List.mem_range.1 hi; omega)

/-- Of writes that follow one another in the store, each is read back. -/
theorem Memory.read_writes {ws : List (Nat × List Byte)} (hasc : ws.Pairwise fun p q => p.1 + p.2.length ≤ q.1) (m : Memory)
    {p : Nat × List Byte} (hp : p ∈ ws) :
    Memory.read (ws.foldl (fun m p => Memory.write m p.1 p.2) m) p.1 p.2.length = p.2 := by
  induction ws generalizing m with
  | nil => exact absurd hp List.not_mem_nil
  | cons q r ih =>
    obtain ⟨hfirst, hrest⟩ := List.pairwise_cons.1 hasc
    rw [List.foldl_cons]
    obtain rfl | hp := List.mem_cons.1 hp
    · calc _ = Memory.read (Memory.write m p.1 p.2) p.1 p.2.length :=
            Memory.read_congr fun b _ hb => Memory.get_writes_outside r _ fun y hy => by have := hfirst y hy; omega
        _ = p.2 := Memory.read_write m p.1 p.2
    · exact ih hrest _ hp

/-! ## Grids of codes -/

theorem mapIdx_map_range {α β : Type} (n : Nat) (v : Nat → α) (f : Nat → α → β) :
    ((List.range n).map v).mapIdx f = (List.range n).map fun i => f i (v i) :=
  List.ext_getElem (by simp) fun i _ _ => by simp

/-- Entry by entry, a matrix given by a function stays one. -/
theorem mapIdx_gridOf {α β : Type} (rows cols : Nat) (v : Nat → Nat → α) (f : Nat → Nat → α → β) :
    (gridOf rows cols v).mapIdx (fun r row => row.mapIdx (f r)) = gridOf rows cols (fun r c => f r c (v r c)) := by
  simp only [gridOf, mapIdx_map_range]

theorem map_gridOf {α β : Type} (rows cols : Nat) (v : Nat → Nat → α) (f : α → β) :
    (gridOf rows cols v).map (fun row => row.map f) = gridOf rows cols (fun r c => f (v r c)) := by
  simp only [gridOf, List.map_map, Function.comp_def]

/-- The codes of present values, each converted under its own rounding (R187). -/
theorem convertPlain_codes (f : EFmt) (nonsat : Bool) (o : OutRound) (rows cols : Nat) (v : Nat → Nat → Fp) :
    (convertPlain f nonsat o (gridOf rows cols fun r c => some (v r c))).codes =
      gridOf rows cols fun r c => some (f.convert nonsat (o.rnd r c) (v r c)).1 := by
  simp only [convertPlain, mapIdx_gridOf, map_gridOf, Option.map_some]

/-- The writes of a full matrix of codes, in the order of rows and columns. -/
def gridWrites (f : EFmt) (base pitch rows cols : Nat) (v : Nat → Nat → Nat) : List (Nat × List Byte) :=
  (List.range rows).flatMap fun r => (List.range cols).map fun c =>
    (base + r * pitch + c * (f.bits / 8), leBytes (f.bits / 8) (v r c))

section
variable {f : EFmt} (hbytes : f ≠ .e2m1) {rows cols : Nat}
include hbytes

/-- A row of elements of whole bytes. -/
theorem EFmt.rowBytes_eq (n : Nat) : f.rowBytes n = n * (f.bits / 8) := by
  cases f
  case e2m1 => exact absurd rfl hbytes
  all_goals
    simp only [EFmt.rowBytes, EFmt.bits]
    omega

/-- The stored bits of an element of whole bytes. -/
theorem Tile.elem_eq (x : Tile) (base pitch r c : Nat) :
    x.elem f base pitch r c = leNat (Memory.read x.store (base + r * pitch + c * (f.bits / 8)) (f.bits / 8)) := by
  cases f
  case e2m1 => exact absurd rfl hbytes
  all_goals
    simp only [Tile.elem, EFmt.bits, Tile.read]
    congr 2
    omega

theorem Tile.rowWrites_full (x : Tile) (a : Nat) (v : Nat → Nat) :
    x.rowWrites f a ((List.range cols).map fun c => some (v c)) =
      (List.range cols).map fun c => (a + c * (f.bits / 8), leBytes (f.bits / 8) (v c)) := by
  cases f
  case e2m1 => exact absurd rfl hbytes
  all_goals simp [Tile.rowWrites, mapIdx_map_range, List.filterMap_map]

/-- A full matrix of codes is written element by element (R95). -/
theorem Tile.matWrites_full (x : Tile) (base pitch : Nat) (v : Nat → Nat → Nat) :
    x.matWrites f base pitch (gridOf rows cols fun r c => some (v r c)) = gridWrites f base pitch rows cols v := by
  simp only [Tile.matWrites, gridOf, mapIdx_map_range, x.rowWrites_full hbytes, gridWrites, List.flatMap_def]

/-- Rows that do not run into one another are written in ascending order. -/
theorem gridWrites_ascending {base pitch : Nat} (hpitch : 1 < rows → f.rowBytes cols ≤ pitch) (v : Nat → Nat → Nat) :
    (gridWrites f base pitch rows cols v).Pairwise fun p q => p.1 + p.2.length ≤ q.1 := by
  refine List.pairwise_flatMap.2 ⟨fun r _ => List.pairwise_map.2 (List.pairwise_lt_range.imp fun {c c'} hc => ?_),
    List.pairwise_lt_range.imp_of_mem fun {r r'} _ hr' hr => ?_⟩
  · have hstep : (c + 1) * (f.bits / 8) ≤ c' * (f.bits / 8) := Nat.mul_le_mul_right _ hc
    rw [Nat.succ_mul] at hstep
    simp only [length_leBytes]
    omega
  · simp only [List.mem_map, List.mem_range] at hr' ⊢
    rintro _ ⟨c, hc, rfl⟩ _ ⟨c', -, rfl⟩
    have hrow := hpitch (by omega)
    rw [EFmt.rowBytes_eq hbytes] at hrow
    have helem : (c + 1) * (f.bits / 8) ≤ cols * (f.bits / 8) := Nat.mul_le_mul_right _ hc
    have hnext : (r + 1) * pitch ≤ r' * pitch := Nat.mul_le_mul_right _ hr
    rw [Nat.succ_mul] at helem hnext
    simp only [length_leBytes]
    omega

/-- An element reads as its code was written. -/
theorem Tile.elem_of_gridWrites {x : Tile} {m : Memory} {base pitch : Nat} {v : Nat → Nat → Nat}
    (hstore : x.store = (gridWrites f base pitch rows cols v).foldl (fun m p => Memory.write m p.1 p.2) m)
    (hpitch : 1 < rows → f.rowBytes cols ≤ pitch) {r c : Nat} (hr : r < rows) (hc : c < cols) :
    x.elem f base pitch r c = v r c % 256 ^ (f.bits / 8) := by
  have hmem : (base + r * pitch + c * (f.bits / 8), leBytes (f.bits / 8) (v r c)) ∈ gridWrites f base pitch rows cols v :=
    List.mem_flatMap.2 ⟨r, List.mem_range.2 hr, List.mem_map.2 ⟨c, List.mem_range.2 hc, rfl⟩⟩
  have hread := Memory.read_writes (gridWrites_ascending hbytes hpitch v) m hmem
  rw [length_leBytes] at hread
  rw [x.elem_eq hbytes, hstore, hread, leNat_leBytes]

end

end Sys2Proof.Machine
end

section
/-! Element-wise results in FP32 (R163, R170, R175). -/

namespace Sys2Proof.Machine

/-- A pitch that R106 accepts keeps the rows of each area apart. -/
theorem pitch_of_areasFault {l : List Area} (h : areasFault l = 0) {a : Area} (ha : a ∈ l) (hrows : 1 < a.rows) :
    a.bytes ≤ a.pitch := by
  by_contra hlt
  have hany : l.any (fun a => 1 < a.rows && a.pitch < a.bytes) = true := List.any_eq_true.2 ⟨a, ha, by simp [hrows]; omega⟩
  simp [areasFault, hany] at h

/-- A descriptor that passes R620 has its areas in order. -/
theorem areasFault_of_eopFault {s : State} {d : EDesc} {op : Nat} (h : eopFault s d op = 0) :
    areasFault (d.reads op ++ d.writes op) = 0 := by
  unfold eopFault at h
  split_ifs at h with _ _ hareas
  · exact h
  all_goals simpa using hareas

/-- The nine OP codes whose result is one rounding of an exact value, or the value itself (Table 5.4). -/
def exactOps : List Nat := [0x01, 0x02, 0x03, 0x04, 0x05, 0x06, 0x09, 0x0A, 0x0D]

/-- None of them reduces, compares, converts, scales or makes records: each writes one element per element. -/
theorem exactOps_elementwise : ∀ op ∈ exactOps, opRow op = false ∧ opColumn op = false ∧
    op ≠ 0x0B ∧ op ≠ 0x10 ∧ op ≠ 0x11 ∧ op ≠ 0x12 ∧ op ≠ 0x34 ∧ op ≠ 0x35 := by decide

/-- The FP32 value of an operation of `exactOps` on the values of its operands, rounded once (R163). -/
def exactResult (op : Nat) (a b c : Fp) : Fp :=
  match op with
  | 0x01 => fp32.round (a.add b) | 0x02 => fp32.round (a.sub b) | 0x03 => fp32.round (a.mul b)
  | 0x04 => fp32.round ((a.mul b).add c) | 0x05 => fp32.round (a.div b)
  | 0x06 => fp32.round (Fp.sqrt a) | 0x09 => fp32.round a.abs | 0x0A => fp32.round a.neg | _ => a

/-- Without a mask every element is active (R175). -/
theorem EDesc.active_unmasked {d : EDesc} (h : d.maskMode = 0) (x : Tile) (op r j : Nat) : d.active x op r j = true := by
  simp [EDesc.active, h]

section
variable {d : EDesc} {op : Nat} (hop : op ∈ exactOps) (hcfmt : d.cfmt = 1)
include hop hcfmt

/-- The result in FP32 before it is stored (R163, R166). -/
theorem EDesc.compute_exact (x : Tile) (r j : Nat) :
    d.compute x op r j = exactResult op (d.x.value x r j) (d.y.value x r j) (d.w.value x r j) := by
  obtain ⟨-, -, -, hcvt, -, hdq, -, -⟩ := exactOps_elementwise op hop
  have hvalue : d.xValue x op r j = d.x.value x r j := by simp [EDesc.xValue, EDesc.e2m1In, hcvt, hdq]
  have hround : cround (fmtAt d.cfmt) = fp32.round := by rw [hcfmt]; rfl
  simp only [EDesc.compute, hvalue, hround]
  simp only [exactOps, List.mem_cons, List.not_mem_nil, or_false] at hop
  rcases hop with rfl | rfl | rfl | rfl | rfl | rfl | rfl | rfl | rfl <;> rfl

variable (hout : d.fmtOut = 1) (hmask : d.maskMode = 0)
include hout hmask

/-- A full grid of results is converted to FP32, which is never rounded stochastically (R73), and written at Z (R187). -/
theorem EDesc.emit_full (x : Tile) (o : OutRound) (v : Nat → Nat → Fp) :
    (d.emit x op o (gridOf d.rows d.cols fun r j => some (v r j))).writes =
      gridWrites .fp32 d.addrZ d.pitchZ d.rows d.cols fun r j => (fp32.convert d.nonsat .rne (v r j)).bits := by
  obtain ⟨-, -, -, hcvt, -⟩ := exactOps_elementwise op hop
  have hfill (e : Option Nat) : (if maskApplies op then d.fill e else e) = e := by simp [EDesc.fill, hmask]
  have hformat : fmtAt d.fmtOut = .fp32 := by rw [hout]; rfl
  have hcode (r j : Nat) : (EFmt.fp32.convert d.nonsat (o.rnd r j) (v r j)).1 = (fp32.convert d.nonsat .rne (v r j)).bits := rfl
  have hplain : d.e2m1Out op = false := by simp [EDesc.e2m1Out, hcvt]
  simp only [EDesc.emit, hplain, hformat, hcfmt, hfill, List.map_id', Bool.false_eq_true, if_false, Nat.reduceEqDiff,
    decide_false, Bool.and_false, Bool.false_and, convertPlain_codes, hcode, List.append_nil,
    x.matWrites_full (f := .fp32) (by decide)]

/-- Without a mask the effect writes the code of each result (R175, R187). -/
theorem eopEffect_exact (s : State) (x : Tile) :
    (eopEffect s d x op).writes = gridWrites .fp32 d.addrZ d.pitchZ d.rows d.cols fun r j =>
      (fp32.convert d.nonsat .rne (d.compute x op r j)).bits := by
  obtain ⟨hrow, hcolumn, hcmp, -, hq, -, hstat, hmerge⟩ := exactOps_elementwise op hop
  simp only [eopEffect, hcmp, hq, hstat, hmerge, hrow, hcolumn, Bool.false_eq_true, if_false, EDesc.active_unmasked hmask, if_true]
  exact EDesc.emit_full hop hcfmt hout hmask x _ _

end

/-- The checks of R620 keep the rows of Z apart (R106). -/
theorem pitchZ_of_eopFault {s : State} {d : EDesc} {op : Nat} (hop : op ∈ exactOps) (hout : d.fmtOut = 1)
    (hfault : eopFault s d op = 0) (hrows : 1 < d.rows) : EFmt.fp32.rowBytes d.cols ≤ d.pitchZ := by
  obtain ⟨hrow, hcolumn, hcmp, -, -, -, hstat, hmerge⟩ := exactOps_elementwise op hop
  have hz : d.zArea op = matArea .fp32 d.addrZ d.pitchZ d.rows d.cols := by
    simp only [EDesc.zArea, EDesc.outGrid, hcmp, hstat, hmerge, hrow, hcolumn, hout, Bool.false_eq_true, if_false]
    rfl
  have hmem : d.zArea op ∈ d.reads op ++ d.writes op := List.mem_append_right _ List.mem_cons_self
  rw [hz] at hmem
  exact pitch_of_areasFault (areasFault_of_eopFault hfault) hmem hrows

/-- What the dispatch stores, read element by element. -/
theorem Dispatched.elem_exact {t : TileId} {un : TileUnit} {reads writes : List Span} {v u : State} {d : EDesc} {op : Nat}
    (h : Dispatched t un reads writes (eopEffect v d (v.tile t) op).writes v u)
    (hop : op ∈ exactOps) (hcfmt : d.cfmt = 1) (hout : d.fmtOut = 1) (hmask : d.maskMode = 0)
    (hfault : eopFault v d op = 0) {r j : Nat} (hr : r < d.rows) (hj : j < d.cols) :
    (u.tile t).elem .fp32 d.addrZ d.pitchZ r j = (fp32.convert d.nonsat .rne (exactResult op (d.x.value (v.tile t) r j)
      (d.y.value (v.tile t) r j) (d.w.value (v.tile t) r j))).bits := by
  have hstore := h.store
  rw [eopEffect_exact hop hcfmt hout hmask v (v.tile t)] at hstore
  rw [Tile.elem_of_gridWrites (by decide) hstore (pitchZ_of_eopFault hop hout hfault) hr hj,
    EDesc.compute_exact hop hcfmt]
  exact Nat.mod_eq_of_lt (Fmt.convert_bits_lt rfl (by decide) (by decide) ..)

end Sys2Proof.Machine

open Sys2Proof Sys2Proof.Machine

/-- Settles O20: the dispatched writes are the codes of the results, each in bytes of its own, and each fits the 32 bits that
are read back. -/
theorem elementWiseResultIsStored : Obligations.ElementWiseResultIsStored := by
  unfold Obligations.ElementWiseResultIsStored
  intro s i op t w hi ht v x d h hclean hidle halign hfit hfault hop hcfmt hout hmask _
  obtain ⟨u, _, hexec, hdone⟩ := exec_elementOp_dispatched ht hi h hclean hidle halign hfit hfault
  exact ⟨u, hexec, fun r j hr hj => hdone.elem_exact hop hcfmt hout hmask hfault hr hj⟩
end

section
/-! What an access to memory or to a tile store changes, whether it reads or writes: memory and tile stores, counters, events and
fault reports, and never the records of the units that make it (R108, R332 to R337, R353, R357). -/

namespace Sys2Proof.Machine

/-- `u` is `s` but for what accesses to memory, events, fault reports and free draws may change. -/
structure AccessFrame (s u : State) : Prop where
  same     : ∃ r m mm ts rg f h mg se fr, u = { s with
    regs := r, hostMem := m, mem := mm, tiles := ts, rig := rg, fab := f, hif := h, mgmt := mg, sent := se, free := fr }
  outCmds  : u.hif.outCmds = s.hif.outCmds
  reserved : ∀ t, (u.tile t).reserved = (s.tile t).reserved

theorem AccessFrame.zn {s u : State} (h : AccessFrame s u) : u.zn = s.zn := by
  obtain ⟨_, _, _, _, _, _, _, _, _, _, rfl⟩ := h.same; rfl
theorem AccessFrame.tim {s u : State} (h : AccessFrame s u) : u.tim = s.tim := by
  obtain ⟨_, _, _, _, _, _, _, _, _, _, rfl⟩ := h.same; rfl
theorem AccessFrame.job {s u : State} (h : AccessFrame s u) : u.job = s.job := by
  obtain ⟨_, _, _, _, _, _, _, _, _, _, rfl⟩ := h.same; rfl
theorem AccessFrame.cores {s u : State} (h : AccessFrame s u) : u.cores = s.cores := by
  obtain ⟨_, _, _, _, _, _, _, _, _, _, rfl⟩ := h.same; rfl

theorem AccessFrame.core {s u : State} (h : AccessFrame s u) (c : Nat) : u.core c = s.core c :=
  congrArg (fun l => kvGetD l c Core.reset) h.cores

theorem AccessFrame.trans {s u v : State} (h1 : AccessFrame s u) (h2 : AccessFrame u v) : AccessFrame s v := by
  refine ⟨?_, h2.outCmds.trans h1.outCmds, fun t => (h2.reserved t).trans (h1.reserved t)⟩
  obtain ⟨_, _, _, _, _, _, _, _, _, _, rfl⟩ := h1.same
  obtain ⟨_, _, _, _, _, _, _, _, _, _, rfl⟩ := h2.same
  exact ⟨_, _, _, _, _, _, _, _, _, _, rfl⟩

theorem AccessFrame.ite {c : Prop} [Decidable c] {s u v : State} (hu : AccessFrame s u) (hv : AccessFrame s v) :
    AccessFrame s (if c then u else v) := by
  split
  · exact hu
  · exact hv

/-- Steps on a value that holds a state keep the frame of the state when each does. -/
theorem AccessFrame.foldl_of {α σ : Type} {st : σ → State} {f : σ → α → σ}
    (hf : ∀ x a, AccessFrame (st x) (st (f x a))) (l : List α) (x : σ) (s : State) (h : AccessFrame s (st x)) :
    AccessFrame s (st (l.foldl f x)) := by
  induction l generalizing x with
  | nil => exact h
  | cons a r ih => exact ih (f x a) (h.trans (hf x a))

/-! ## The plain updates -/

/-- An update of the named fields only. -/
theorem plain_access (s : State) (r : RegFile) (m : Memory) (mm : Mem) (rg : Rigger) (f : Fabric) (mg : Mgmt) (se : List Out)
    (fr : Nat) : AccessFrame s { s with
      regs := r, hostMem := m, mem := mm, rig := rg, fab := f, mgmt := mg, sent := se, free := fr } :=
  ⟨⟨_, _, _, _, _, _, _, _, _, _, rfl⟩, rfl, fun _ => rfl⟩

theorem AccessFrame.refl (s : State) : AccessFrame s s := plain_access s ..

/-- Steps that each keep the frame keep it when they are taken in turn. -/
theorem AccessFrame.foldl {α : Type} {f : State → α → State} (hf : ∀ s a, AccessFrame s (f s a)) (l : List α) (s : State) :
    AccessFrame s (l.foldl f s) :=
  AccessFrame.foldl_of (st := fun u => u) hf l s s (AccessFrame.refl s)

theorem SameBut.access {s u : State} (h : SameBut s u) : AccessFrame s u := by
  have houtCmds := h.hif_outCmds
  obtain ⟨_, _, _, _, _, _, _, _, rfl⟩ := h
  exact ⟨⟨_, _, _, _, _, _, _, _, _, _, rfl⟩, houtCmds, fun _ => rfl⟩

theorem bump_access (s : State) (g n k : Nat) : AccessFrame s (bump s g n k) := (same_bump ..).access
theorem raise_access (s : State) (code src addr data : Nat) : AccessFrame s (raise s code src addr data) := (same_raise ..).access
theorem setReg_access (s : State) (o v : Nat) : AccessFrame s (s.setReg o v) := plain_access s ..
theorem setReg64_access (s : State) (o v : Nat) : AccessFrame s (s.setReg64 o v) := plain_access s ..
theorem modStk_access (s : State) (n : Nat) (f : Stack → Stack) : AccessFrame s (s.modStk n f) := plain_access s ..
theorem markLine_access (s : State) (pa : Nat) (k : LineMark) : AccessFrame s (markLine s pa k) := plain_access s ..
theorem emit_access (s : State) (o : Out) : AccessFrame s (s.emit o) := plain_access s ..
theorem mem_access (s : State) (m : Mem) : AccessFrame s { s with mem := m } := plain_access s ..
theorem rig_access (s : State) (r : Rigger) : AccessFrame s { s with rig := r } := plain_access s ..
theorem free_access (s : State) (n : Nat) : AccessFrame s { s with free := n } := plain_access s ..

theorem bumpClocks_access (s : State) (g n : Nat) : AccessFrame s (bumpClocks s g n) := (free_access s _).trans (bump_access ..)

/-- A change of a tile that leaves the tile reserved as it was. -/
theorem modTile_access (s : State) (t : TileId) (f : Tile → Tile) (hf : ∀ x, (f x).reserved = x.reserved := by intro; rfl) :
    AccessFrame s (s.modTile t f) := by
  refine ⟨⟨_, _, _, _, _, _, _, _, _, _, rfl⟩, rfl, fun y => ?_⟩
  by_cases hy : y = t
  · rw [hy, State.tile_modTile_self, hf]
  · rw [State.tile_modTile_ne _ _ hy]

theorem report_access (s : State) (code addr data : Nat) : AccessFrame s (report s code addr data) := by
  have hring (u : State) : AccessFrame u (sendRing u) := (plain_access u ..).ite (AccessFrame.refl u)
  have hcount (u : State) (n k : Nat) : AccessFrame u (countMgmt u n k) := by
    unfold countMgmt
    split
    · exact bump_access ..
    · exact AccessFrame.refl u
  exact ((emit_access s _).trans (hring _)).trans (hcount _ _ _)

theorem countNondet_access (s : State) (n : Nat) : AccessFrame s (countNondet s n) :=
  (((bump_access s ..).trans (bump_access ..)).trans (setReg64_access ..)).trans (setReg_access ..)

/-! ## Errors that a read of stack memory finds -/

theorem decideRetire_access (s : State) (pa : Nat) : AccessFrame s (decideRetire s pa) :=
  (AccessFrame.refl s).ite (((modStk_access ..).trans (raise_access ..)).ite (modStk_access ..))

theorem noteError_access (s : State) (pa kind : Nat) : AccessFrame s (noteError s pa kind) :=
  ((modStk_access ..).trans (decideRetire_access ..)).ite (modStk_access ..)

theorem noteLost_access (s : State) (pa : Nat) (lost scrub : Bool) : AccessFrame s (noteLost s pa lost scrub) :=
  (setReg64_access ..).trans (setReg_access ..)

theorem lineError_access (s : State) (pa : Nat) (uncorrectable scrub : Bool) :
    AccessFrame s (lineError s pa uncorrectable scrub) := by
  have hmark (k : LineMark) (n : Nat) (lost : Bool) : AccessFrame s
      (noteLost (bump (markLine s pa k) (stackBase (stackOf pa)) n 1) pa lost scrub) :=
    ((markLine_access s pa k).trans (bump_access ..)).trans (noteLost_access ..)
  refine AccessFrame.ite ?_ (AccessFrame.ite ?_ ?_)
  · exact ((hmark .poisoned 3 false).trans ((AccessFrame.refl _).ite ((mem_access ..).trans (raise_access ..)))).trans
      (noteError_access ..)
  · exact (((hmark .lost 4 true).trans (raise_access ..)).trans (report_access ..)).trans (decideRetire_access ..)
  · exact (bump_access ..).trans (noteError_access ..)

theorem senseLine_access (s : State) (pa : Nat) : AccessFrame s (senseLine s pa) := by
  unfold senseLine
  split
  · exact AccessFrame.refl s
  · exact (mem_access s _).trans (lineError_access ..)

theorem senseLines_access (s : State) (pa n : Nat) : AccessFrame s (senseLines s pa n) :=
  AccessFrame.foldl (fun u l => senseLine_access u (l * 128)) _ s

theorem xltFault_access (s : State) (agent va st : Nat) : AccessFrame s (xltFault s agent va st) :=
  (((setReg64_access ..).trans (setReg_access ..)).trans (bump_access ..)).ite (AccessFrame.refl s)

/-! ## Errors that a read of a tile store finds -/

theorem markRowGroup_access (s : State) (t : TileId) (line : Nat) : AccessFrame s (markRowGroup s t line) := by
  have hawait (rig : Rigger) (l : List (Nat × Nat)) : AccessFrame s
      (raise { s.modTile t (fun x => { x with rowPending := x.rowPending ++ l }) with rig := rig } 0x4611 (srcTile t) 0 0) :=
    ((modTile_access s t _).trans (rig_access _ rig)).trans (raise_access ..)
  unfold markRowGroup
  simp only
  split
  · exact AccessFrame.refl s
  · split
    · exact (hawait _ _).trans (report_access ..)
    · exact hawait _ _

theorem sectorError_access (s : State) (t : TileId) (sector : Nat) (uncorrectable : Bool) :
    AccessFrame s (sectorError s t sector uncorrectable) := by
  unfold sectorError
  simp only
  refine AccessFrame.ite ?_ (AccessFrame.ite ?_ ?_)
  · exact ((modTile_access s t _).trans (bump_access ..)).trans (markRowGroup_access ..)
  · exact ((modTile_access s t _).trans (bump_access ..)).trans (markRowGroup_access ..)
  · exact (modTile_access s t _).trans (bump_access ..)

theorem senseStore_access (s : State) (t : TileId) (off n : Nat) : AccessFrame s (senseStore s t off n) :=
  (AccessFrame.refl s).ite ((modTile_access s t _).trans
    (AccessFrame.foldl (fun u (e : Nat × Bool) => sectorError_access u t e.1 e.2) _ _))

/-! ## Reads by job virtual address -/

theorem readStore_access (s : State) (die log off n : Nat) : AccessFrame s (readStore s die log off n).1 := by
  unfold readStore
  split
  · exact AccessFrame.refl s
  · exact senseStore_access ..

theorem readLoc_access (s : State) (l : Loc) (n : Nat) : AccessFrame s (readLoc s l n).1 := by
  cases l with
  | stack pa => exact (senseLine_access s pa).trans (bump_access ..)
  | store d k o => exact readStore_access s d k o n
  | void => exact AccessFrame.refl s
  | host a => exact AccessFrame.refl s

theorem countMisses_access (s : State) (va : Nat) (l : Loc) : AccessFrame s (countMisses s va l) := by
  cases l with
  | stack pa => exact bump_access ..
  | store d k o => exact AccessFrame.refl s
  | void => exact AccessFrame.refl s
  | host a => exact AccessFrame.refl s

theorem readPieces_access (agent : Nat) (l : List (Nat × Nat)) (s : State) (acc : List Byte) :
    AccessFrame s (readPieces agent l s acc).1 := by
  induction l generalizing s acc with
  | nil => exact AccessFrame.refl s
  | cons p r ih =>
    obtain ⟨a, n⟩ := p
    unfold readPieces
    split
    · exact xltFault_access ..
    · next l _ =>
      have hloc : AccessFrame s (readLoc (countMisses s a l) l n).1 := (countMisses_access s a l).trans (readLoc_access ..)
      split
      · next h => rw [h] at hloc; exact hloc
      · next h => rw [h] at hloc; exact hloc.trans (ih _ _)

theorem readVA_access (s : State) (agent va n : Nat) : AccessFrame s (readVA s agent va n).1 := readPieces_access ..

/-! ## Writes by job virtual address -/

theorem trackWrite_access (s : State) (pa : Nat) : AccessFrame s (trackWrite s pa) := by
  unfold trackWrite
  split
  · exact AccessFrame.refl s
  · refine (AccessFrame.refl s).ite (AccessFrame.trans (AccessFrame.ite ?_ (AccessFrame.refl s)) (mem_access _ _))
    exact ((senseLines_access s ..).trans (mem_access ..)).trans (bump_access ..)

theorem performWrite_access (s : State) (pa : Nat) (bs : List Byte) : AccessFrame s (performWrite s pa bs) :=
  (((trackWrite_access s pa).trans ((mem_access _ _).ite (senseLine_access _ pa))).trans (mem_access ..)).trans (bump_access ..)

theorem writeLine_access (s : State) (pa : Nat) (bs : List Byte) : AccessFrame s (writeLine s pa bs) := by
  have hclose : AccessFrame s (closeReads s pa) := (plain_access s ..).ite (AccessFrame.refl s)
  exact hclose.trans (((mem_access ..).trans (bumpClocks_access ..)).ite (performWrite_access ..))

theorem writeStore_access (s : State) (die log off : Nat) (bs : List Byte) : AccessFrame s (writeStore s die log off bs) := by
  unfold writeStore
  split
  · exact AccessFrame.refl s
  · exact modTile_access s _ _

theorem writeLoc_access (s : State) (l : Loc) (bs : List Byte) : AccessFrame s (writeLoc s l bs) := by
  cases l with
  | stack pa => exact writeLine_access s pa bs
  | store d k o => exact writeStore_access s d k o bs
  | void => exact AccessFrame.refl s
  | host a => exact plain_access s ..

theorem writePieces_access (agent : Nat) (l : List (Nat × Nat)) (s : State) (bs : List Byte) :
    AccessFrame s (writePieces agent l s bs).1 := by
  induction l generalizing s bs with
  | nil => exact AccessFrame.refl s
  | cons p r ih =>
    unfold writePieces
    split
    · exact xltFault_access ..
    · exact ((countMisses_access ..).trans (writeLoc_access ..)).trans (ih _ _)

theorem writeVA_access (s : State) (agent va : Nat) (bs : List Byte) : AccessFrame s (writeVA s agent va bs).1 :=
  writePieces_access ..

theorem writeRecord_access (s : State) (agent va : Nat) (bs : List Byte) : AccessFrame s (writeRecord s agent va bs).1 := by
  unfold writeRecord
  split
  · exact xltFault_access ..
  · exact writeVA_access ..

theorem spoilRange_access (s : State) (agent va n : Nat) : AccessFrame s (spoilRange s agent va n) :=
  AccessFrame.foldl (fun u _ => (free_access u _).trans (writeVA_access ..)) _ s

end Sys2Proof.Machine
end

section
/-! Acceptance of ZN_ASSEMBLE and ZN_SOLVE (R219 to R221, R224, R225, R234, R266). -/

namespace Sys2Proof.Machine

/-- An accepted command is outstanding (R557). -/
theorem accept_outstanding (s : State) (c : CmdCtx) (op : Nat) : ∃ o ∈ (accept s c op).hif.outCmds, o.ctx = c := by
  rw [accept_outCmds]
  exact ⟨_, List.mem_append_right _ List.mem_cons_self, rfl⟩

/-- A command that is outstanding before an access is started after it. -/
theorem AccessFrame.markStarted_started {s u : State} {c : CmdCtx} (h : AccessFrame s u) (z : Zenle)
    (ho : ∃ o ∈ s.hif.outCmds, o.ctx = c) : (markStarted { u with zn := z } c).started c := by
  rw [← h.outCmds] at ho
  exact Machine.markStarted_started (s := { u with zn := z }) ho

/-- A range of no bytes is never held. -/
theorem rangeHeld_zero (s : State) (va : Nat) : s.rangeHeld va 0 = false := rfl

/-- What waits for some ranges does not wait when each is free (R342). -/
theorem noneHeld {s : State} {l : List (Nat × Nat)} (h : ∀ r ∈ l, s.rangeHeld r.1 r.2 = false) :
    l.any (fun r => s.rangeHeld r.1 r.2) = false :=
  List.any_eq_false.2 fun r hr => by rw [h r hr]; exact Bool.false_ne_true

/-! ## ZN_SOLVE -/

/-- A SOLVE as accepted depends on the clock and the count of SOLVEs only. -/
theorem newSolve_congr {s u : State} (hzn : u.zn = s.zn) (htim : u.tim = s.tim) (d : SolveDesc) (raw : List Byte) (c : CmdCtx) :
    newSolve u d raw c = newSolve s d raw c := by
  simp only [newSolve, hzn, htim]

section
variable {s r : State} {c : CmdCtx} {desc : U64} {bs : List Byte} (h : AtTurn s c 0x0031 [opnd 8 8 desc.toNat])
  (hheld : s.rangeHeld desc.toNat 256 = false) (hread : readVA (accept s c 0x31) agentHost desc.toNat 256 = (r, 0, bs))
include h hheld hread

theorem exec_znSolve_refused (hfault : solveDescFault r (parseSolve bs) ≠ 0) :
    CompletesIn (.znSolve c desc) c s (refusedSolve r (newSolve r (parseSolve bs) bs c) (solveDescFault r (parseSolve bs)))
      (solveDescFault r (parseSolve bs)) 0 := by
  show execZnSolve c desc s = _
  rw [execZnSolve, if_neg (by simp [hheld]), onRing_ready _ h.1 h.2]
  simp only [hread, bne_iff_ne, ne_eq, hfault, not_false_eq_true, if_true]

theorem exec_znSolve_held (hfault : solveDescFault r (parseSolve bs) = 0) :
    StartsIn (.znSolve c desc) c s (markStarted { r with zn := { r.zn with
      solves := r.zn.solves ++ [newSolve r (parseSolve bs) bs c], nextNumber := r.zn.nextNumber + 1 } } c) := by
  show execZnSolve c desc s = _
  rw [execZnSolve, if_neg (by simp [hheld]), onRing_ready _ h.1 h.2]
  simp only [hread, hfault, bne_self_eq_false, Bool.false_eq_true, if_false]

end

/-! ## ZN_ASSEMBLE -/

/-- Under the two ranges of ZN_ASSEMBLE free, a descriptor is refused by its fields or its program is looked at (R224 to R226). -/
theorem exec_znAssemble_read {s r : State} {c : CmdCtx} {desc : U64} {bs : List Byte} (h : AtTurn s c 0x0030 [opnd 8 8 desc.toNat])
    (hheld : s.rangeHeld desc.toNat 64 = false)
    (hprogram : s.rangeHeld (parseAsm (readVA s agentHost desc.toNat 64).2.2).program
      (64 * min 256 (parseAsm (readVA s agentHost desc.toNat 64).2.2).count) = false)
    (hread : readVA (accept s c 0x30) agentHost desc.toNat 64 = (r, 0, bs)) :
    (asmDescFault bs ≠ 0 → CompletesIn (.znAssemble c desc) c s r (asmDescFault bs) (parseAsm bs).echo) ∧
    (asmDescFault bs = 0 → ∀ (e : State) (ps : List Byte),
      readVA r agentZenle (parseAsm bs).program (64 * (parseAsm bs).count) = (e, 0, ps) →
      let entries := (List.range (parseAsm bs).count).map (fun k => slice ps (64 * k) 64)
      (badProgram entries = true → CompletesIn (.znAssemble c desc) c s e 0x850A (parseAsm bs).echo) ∧
      (badProgram entries = false → StartsIn (.znAssemble c desc) c s (markStarted { e with zn := { e.zn with
        assemblies := e.zn.assemblies ++ [{ desc := parseAsm bs, cmd := c, entries := entries }] } } c))) := by
  show (_ → execZnAssemble c desc s = _) ∧
    (_ → ∀ e ps, _ → (_ → execZnAssemble c desc s = _) ∧ (_ → execZnAssemble c desc s = _))
  rw [execZnAssemble, if_neg, onRing_ready _ h.1 h.2]
  · simp only [hread]
    refine ⟨fun hfault => ?_, fun hfault e ps hps => ⟨fun hbad => ?_, fun hgood => ?_⟩⟩
    · simp only [bne_iff_ne, ne_eq, hfault, not_false_eq_true, if_true]
    · simp only [hfault, bne_self_eq_false, Bool.false_eq_true, if_false, hps, hbad, if_true]
    · simp only [hfault, bne_self_eq_false, Bool.false_eq_true, if_false, hps, hgood]
  · rw [hheld, Bool.false_or, Bool.not_eq_true]
    split
    · next hr => rw [hr] at hprogram; exact hprogram
    · exact rangeHeld_zero s 0

end Sys2Proof.Machine

open Sys2Proof Sys2Proof.Machine

/-- Settles O28: what acceptance and the reads leave alone is what a held command records. -/
theorem zenleCommandsAreHeld : Obligations.ZenleCommandsAreHeld := by
  unfold Obligations.ZenleCommandsAreHeld
  intro s c desc
  constructor
  · intro h hheld r d hst
    have hread : readVA (accept s c 0x31) agentHost desc.toNat 256 = (r.1, 0, r.2.2) := by rw [← hst]
    have haccess : AccessFrame (accept s c 0x31) r.1 := readVA_access ..
    have hzn : r.1.zn = s.zn := haccess.zn.trans (accept_frame ..).zn
    have hnew : newSolve r.1 d r.2.2 c = newSolve s d r.2.2 c :=
      newSolve_congr hzn (haccess.tim.trans (accept_frame ..).tim) ..
    refine ⟨fun hok => ⟨_, exec_znSolve_held h hheld hread hok, ?_, ?_, ?_⟩, fun hfault => ?_⟩
    · exact haccess.markStarted_started _ (accept_outstanding ..)
    · rfl
    · show { r.1.zn with solves := r.1.zn.solves ++ [newSolve r.1 d r.2.2 c], nextNumber := r.1.zn.nextNumber + 1 } = _
      rw [hnew, hzn]
    · rw [← hnew]
      exact exec_znSolve_refused h hheld hread hfault
  · intro h hheld hprogram r d hst
    have hread : readVA (accept s c 0x30) agentHost desc.toNat 64 = (r.1, 0, r.2.2) := by rw [← hst]
    obtain ⟨hrefused, hlooked⟩ := exec_znAssemble_read h hheld hprogram hread
    refine ⟨hrefused, ?_⟩
    intro hok e entries hps
    have haccess : AccessFrame (accept s c 0x30) e.1 := (readVA_access ..).trans (readVA_access ..)
    have hzn : e.1.zn = s.zn := haccess.zn.trans (accept_frame ..).zn
    obtain ⟨hbad, hgood⟩ := hlooked hok e.1 e.2.2 (by rw [← hps])
    refine ⟨hbad, fun hprog => ⟨_, hgood hprog, ?_, ?_, ?_⟩⟩
    · exact haccess.markStarted_started _ (accept_outstanding ..)
    · rfl
    · show { e.1.zn with assemblies := e.1.zn.assemblies ++ [({ desc := d, cmd := c, entries := entries } : Assembly)] } = _
      rw [hzn]
end

section
/-! SOLVE_START and the rendezvous of a solve (R220, R221, R223, R246, R263, R288). -/

namespace Sys2Proof.Machine

/-! ## SOLVE_START -/

/-- Tiles of a list that each take the same change, once or more often to the same end. -/
theorem modTile_foldl {f : Tile → Tile} (hf : ∀ x, f (f x) = f x) (l : List TileId) (s : State) :
    (∃ ts, l.foldl (fun s t => s.modTile t f) s = { s with tiles := ts }) ∧
    (∀ t ∈ l, (l.foldl (fun s t => s.modTile t f) s).tile t = f (s.tile t)) ∧
    ∀ t, t ∉ l → (l.foldl (fun s t => s.modTile t f) s).tile t = s.tile t := by
  induction l generalizing s with
  | nil => exact ⟨⟨s.tiles, rfl⟩, fun t ht => absurd ht List.not_mem_nil, fun _ _ => rfl⟩
  | cons a r ih =>
    obtain ⟨⟨ts, hsame⟩, hin, hout⟩ := ih (s.modTile a f)
    rw [List.foldl_cons]
    refine ⟨⟨ts, hsame⟩, fun t ht => ?_, fun t ht => ?_⟩
    · by_cases hr : t ∈ r
      · rw [hin t hr]
        by_cases ha : t = a
        · rw [ha, State.tile_modTile_self, hf]
        · rw [State.tile_modTile_ne _ _ ha]
      · obtain rfl := (List.mem_cons.1 ht).resolve_right hr
        rw [hout t hr, State.tile_modTile_self]
    · rw [List.mem_cons, not_or] at ht
      rw [hout t ht.2, State.tile_modTile_ne _ _ ht.1]

@[simp] theorem setSolve_core (s : State) (v : Solve) (c : Nat) : (setSolve s v).core c = s.core c := rfl

/-- A SOLVE with its core takes its tiles (R220). -/
def takeTiles (s : State) (v : Solve) : State :=
  (s.solveTiles v).foldl (fun s t => s.modTile t (fun x => { x with reserved := some v.number, used := true })) s

theorem takeTiles_effect (s : State) (v : Solve) :
    (∃ ts, takeTiles s v = { s with tiles := ts }) ∧
    (∀ t ∈ s.solveTiles v, (takeTiles s v).tile t = { s.tile t with reserved := some v.number, used := true }) ∧
    ∀ t, t ∉ s.solveTiles v → (takeTiles s v).tile t = s.tile t :=
  modTile_foldl (f := fun x => { x with reserved := some v.number, used := true }) (fun _ => rfl) (s.solveTiles v) s

/-- SOLVE_START opens the first SOLVE that may start, behind taking its tiles and the lowest free core (R221, R288). -/
theorem exec_solveStart {s : State} {v : Solve} {c : Nat} (hp : s.pins.powered = true)
    (hv : s.zn.solves.find? s.solveReady = some v) (hc : s.freeCore = some c) (hrun : s.solvesRunning < 16)
    (hhold : s.holding = false) (hranges : ∀ r ∈ s.solveRanges v.desc, s.rangeHeld r.1 r.2 = false) :
    let w := { v with phase := .running, core := some c }
    exec .solveStart s = .next (openSolve
      (setSolve ((takeTiles s w).modCore c (fun x => { x with phase := .held, used := true })) w) w) := by
  show execSolveStart s = _
  rw [execSolveStart, powered_on _ hp]
  simp only [hv, hc, hhold, noneHeld hranges, Nat.not_le.2 hrun, decide_false, Bool.or_self, Bool.false_eq_true, if_false]
  rfl

/-! ## ZN_RENDEZVOUS -/

/-- The other members of a solve. -/
def State.otherMembers (s : State) (v : Solve) : List Nat := v.ranks.filter (fun r => r != s.rank)
/-- What they have sent, in rank order. -/
def State.heard (s : State) (v : Solve) (msgs : List Rendezvous) : List Rendezvous :=
  (s.otherMembers v).filterMap (fun r => msgs.find? (fun m => m.rank.toNat == r))
/-- What all members have sent, the own words among them. -/
def State.allSent (s : State) (v : Solve) (msgs : List Rendezvous) : List Rendezvous :=
  (ownRendezvous s v :: s.heard v msgs).mergeSort (fun a b => a.rank.toNat ≤ b.rank.toNat)
/-- One crew holds all members, and each that has sent has sent the own digest. -/
def State.digestsAgree (s : State) (v : Solve) (msgs : List Rendezvous) : Prop :=
  s.oneCrew v = true ∧ ∀ m ∈ s.heard v msgs, m.digest = solveDigest v.raw
/-- The limit of 1 s, or the stop point, has passed (R263). -/
def State.meetingLate (s : State) (v : Solve) : Prop :=
  v.arrived.toNat + 1000000000 ≤ s.tim.now.toNat ∨ s.beforeStop v 0 = false
/-- The solve under the common signature and the lead member's decision. -/
def State.joined (s : State) (v : Solve) (msgs : List Rendezvous) : Solve :=
  { v with signature := sig256 ((s.allSent v msgs).flatMap Rendezvous.sig),
           go := (((s.heard v msgs).find? (fun m => m.rank.toNat == v.desc.leadRank)).map Rendezvous.go).getD true }

/-- What becomes of a rendezvous at which every member has sent (R223, R246). -/
def State.wholeMeeting (s : State) (v : Solve) (msgs : List Rendezvous) : State :=
  if !v.rangesFit (s.allSent v msgs) then refuseSolve s v 0x8509
  else if !v.columnsBelow (s.allSent v msgs) then refuseSolve s v 0x850C
  else if v.desc.dense && (s.blockRanges (s.joined v msgs) (s.allSent v msgs)).any (fun r => s.rangeHeld r.1 r.2) then s
  else if v.desc.dense then gatherBlocks s (s.joined v msgs) (s.allSent v msgs) (fun t w => beginSolve t w (s.heard v msgs))
  else beginSolve s (s.joined v msgs) (s.heard v msgs)

section
variable {s : State} {id : U32} {v : Solve} (hp : s.pins.powered = true) (hv : s.solveIn id .rendezvous = some v)
  (msgs : List Rendezvous) (expired : Bool)
include hp hv

/-- The checks of a rendezvous in their order (R263). -/
theorem exec_znRendezvous : exec (.znRendezvous id msgs expired) s = .next (
    if !s.oneCrew v || (s.heard v msgs).any (fun m => m.digest != solveDigest v.raw) then refuseSolve s v 0x8509
    else if !decide ((s.heard v msgs).length = (s.otherMembers v).length) then
      if expired && (v.arrived.toNat + 1000000000 ≤ s.tim.now.toNat || !s.beforeStop v 0) then refuseSolve s v 0x8509 else s
    else s.wholeMeeting v msgs) := by
  show execZnRendezvous id msgs expired s = _
  rw [execZnRendezvous, powered_on _ hp]
  simp only [hv]
  rfl

theorem exec_znRendezvous_differs (h : ¬s.digestsAgree v msgs) :
    exec (.znRendezvous id msgs expired) s = .next (refuseSolve s v 0x8509) := by
  rw [exec_znRendezvous hp hv, if_pos]
  simpa [State.digestsAgree, imp_iff_not_or] using h

theorem exec_znRendezvous_whole (h : s.digestsAgree v msgs) (hall : (s.heard v msgs).length = (s.otherMembers v).length) :
    exec (.znRendezvous id msgs expired) s = .next (s.wholeMeeting v msgs) := by
  rw [exec_znRendezvous hp hv, if_neg (by simpa [State.digestsAgree] using h), if_neg (by simp [hall])]

theorem exec_znRendezvous_partial (h : s.digestsAgree v msgs) (hpart : (s.heard v msgs).length ≠ (s.otherMembers v).length) :
    (expired = true ∧ s.meetingLate v → exec (.znRendezvous id msgs expired) s = .next (refuseSolve s v 0x8509)) ∧
    (¬(expired = true ∧ s.meetingLate v) → exec (.znRendezvous id msgs expired) s = .next s) := by
  rw [exec_znRendezvous hp hv, if_neg (by simpa [State.digestsAgree] using h), if_pos (by simp [hpart])]
  refine ⟨fun hlate => ?_, fun hearly => ?_⟩
  · rw [if_pos (by simpa [State.meetingLate] using hlate)]
  · rw [if_neg (by simpa [State.meetingLate] using hearly)]

end

section
variable {s : State} {v : Solve} {msgs : List Rendezvous}

theorem wholeMeeting_misfit (h : v.rangesFit (s.allSent v msgs) = false) : s.wholeMeeting v msgs = refuseSolve s v 0x8509 := by
  rw [State.wholeMeeting, if_pos (by simp [h])]

theorem wholeMeeting_beyond (hfit : v.rangesFit (s.allSent v msgs) = true) (h : v.columnsBelow (s.allSent v msgs) = false) :
    s.wholeMeeting v msgs = refuseSolve s v 0x850C := by
  rw [State.wholeMeeting, if_neg (by simp [hfit]), if_pos (by simp [h])]

theorem wholeMeeting_sparse (hfit : v.rangesFit (s.allSent v msgs) = true) (hbelow : v.columnsBelow (s.allSent v msgs) = true)
    (h : v.desc.dense = false) : s.wholeMeeting v msgs = beginSolve s (s.joined v msgs) (s.heard v msgs) := by
  simp [State.wholeMeeting, hfit, hbelow, h]

theorem wholeMeeting_dense (hfit : v.rangesFit (s.allSent v msgs) = true) (hbelow : v.columnsBelow (s.allSent v msgs) = true)
    (h : v.desc.dense = true) (hheld : ∀ r ∈ s.blockRanges v (s.allSent v msgs), s.rangeHeld r.1 r.2 = false) :
    s.wholeMeeting v msgs =
      gatherBlocks s (s.joined v msgs) (s.allSent v msgs) (fun t w => beginSolve t w (s.heard v msgs)) := by
  have hfree : (s.blockRanges (s.joined v msgs) (s.allSent v msgs)).any (fun r => s.rangeHeld r.1 r.2) = false := noneHeld hheld
  simp [State.wholeMeeting, hfit, hbelow, h, hfree]

end

end Sys2Proof.Machine

open Sys2Proof Sys2Proof.Machine

/-- Settles O33: a start takes its tiles and its core before it opens the solve, and a rendezvous makes its checks in order. -/
theorem solvesStartAndMeet : Obligations.SolvesStartAndMeet := by
  unfold Obligations.SolvesStartAndMeet
  intro s hp
  constructor
  · intro v c hv hc hrun hhold hranges
    obtain ⟨⟨ts, htaken⟩, hin, hout⟩ := takeTiles_effect s { v with phase := .running, core := some c }
    have hstart := exec_solveStart hp hv hc hrun hhold hranges
    refine ⟨_, hstart, ?_, ?_, ?_, ?_, fun k hk => ?_⟩
    · rw [htaken]
      rfl
    · exact hin
    · exact hout
    · rw [setSolve_core, State.core_modCore_self, htaken]
      rfl
    · rw [setSolve_core, State.core_modCore_ne _ _ hk, htaken]
      rfl
  · intro id msgs expired v hv others got all agree late
    refine ⟨fun h => exec_znRendezvous_differs hp hv msgs expired h,
      fun h hpart => exec_znRendezvous_partial hp hv msgs expired h hpart, fun h hall => ?_⟩
    have hwhole := exec_znRendezvous_whole hp hv msgs expired h hall
    refine ⟨fun hfit => ?_, fun hfit hbelow => ?_, fun hfit hbelow => ?_⟩
    · exact hwhole.trans (congrArg _ (wholeMeeting_misfit hfit))
    · exact hwhole.trans (congrArg _ (wholeMeeting_beyond hfit hbelow))
    · exact ⟨fun hsparse => hwhole.trans (congrArg _ (wholeMeeting_sparse hfit hbelow hsparse)),
        fun hdense hheld => hwhole.trans (congrArg _ (wholeMeeting_dense hfit hbelow hdense hheld))⟩
end

section
/-! The end of a solve and of an assembly (R224, R231 to R233, R244, R257). -/

namespace Sys2Proof.Machine

/-! ## A solve gives its tiles and its core back -/

/-- The tiles that a solve holds are free again. -/
def freeTiles (s : State) (n : Nat) : State :=
  { s with tiles := s.tiles.map (fun e => if e.2.reserved = some n then (e.1, { e.2 with reserved := none }) else e) }

/-- A core as a solve leaves it. -/
def Core.freed (x : Core) : Core := if x.phase = .held then { x with phase := .idle } else x

theorem freeTiles_reserved (s : State) (n : Nat) (t : TileId) :
    ((freeTiles s n).tile t).reserved = if (s.tile t).reserved = some n then none else (s.tile t).reserved := by
  unfold State.tile
  show (((List.find? _ (List.map _ s.tiles)).map Prod.snd).getD Tile.reset).reserved = _
  induction s.tiles with
  | nil => rfl
  | cons e r ih =>
    by_cases he : e.1 = t
    · by_cases hn : e.2.reserved = some n <;> simp [he, hn]
    · by_cases hn : e.2.reserved = some n <;> simpa [he, hn] using ih

theorem coreTime_access (s : State) (c : Nat) : AccessFrame s (coreTime s c) :=
  (bumpClocks_access ..).trans (bumpClocks_access ..)

theorem coreTime_mem (s : State) (c : Nat) : (coreTime s c).mem = s.mem := by
  simp [coreTime, bumpClocks]

theorem releaseSolve_coreless (s : State) {v : Solve} (h : v.core = none) : releaseSolve s v = freeTiles s v.number := by
  simp only [releaseSolve, h]
  rfl

theorem releaseSolve_core (s : State) {v : Solve} {c : Nat} (h : v.core = some c) :
    releaseSolve s v = coreTime ((freeTiles s v.number).modCore c Core.freed) c := by
  simp only [releaseSolve, h]
  rfl

/-- What the release of a solve's tiles and core leaves of a state (R257). -/
structure Released (s : State) (v : Solve) (u : State) : Prop where
  zn       : u.zn = s.zn
  mem      : u.mem = s.mem
  job      : u.job = s.job
  outCmds  : u.hif.outCmds = s.hif.outCmds
  reserved : ∀ t, (u.tile t).reserved = if (s.tile t).reserved = some v.number then none else (s.tile t).reserved
  core     : ∀ c, u.core c = if v.core = some c then (s.core c).freed else s.core c

theorem releaseSolve_released (s : State) (v : Solve) : Released s v (releaseSolve s v) := by
  cases hcore : v.core with
  | none =>
    rw [releaseSolve_coreless s hcore]
    refine ⟨rfl, rfl, rfl, rfl, freeTiles_reserved s v.number, fun c => ?_⟩
    rw [hcore, if_neg (Option.some_ne_none c).symm]
    rfl
  | some c =>
    rw [releaseSolve_core s hcore]
    have haccess := coreTime_access ((freeTiles s v.number).modCore c Core.freed) c
    refine ⟨haccess.zn, coreTime_mem _ c, haccess.job, haccess.outCmds, fun t => ?_, fun d => ?_⟩
    · rw [haccess.reserved]
      exact freeTiles_reserved s v.number t
    · rw [haccess.core, hcore]
      by_cases hd : d = c
      · rw [hd, State.core_modCore_self, if_pos rfl]
        rfl
      · rw [State.core_modCore_ne _ _ hd, if_neg fun h => hd (Option.some.inj h).symm]
        rfl

@[simp] theorem dropSolve_mem (s : State) (v : Solve) : (dropSolve s v).mem = s.mem := rfl
@[simp] theorem dropSolve_core (s : State) (v : Solve) (c : Nat) : (dropSolve s v).core c = s.core c := rfl

/-! ## What the end of a solve writes -/

section
variable (s : State) (v : Solve)

theorem returnedNorm_access : AccessFrame s (returnedNorm s v).1 := by
  unfold returnedNorm
  split_ifs
  · exact free_access s _
  all_goals exact AccessFrame.refl s

/-- The interior-point quantities of the record do not touch what the end of the solve rests on. -/
theorem freeInterior_frees : AccessFrame s (freeInterior s v).1 ∧
    ∃ g p d, (freeInterior s v).2 = { v with gap := g, primal := p, dual := d } := by
  unfold freeInterior
  split_ifs
  · exact ⟨AccessFrame.refl s, _, _, _, rfl⟩
  · exact ⟨((free_access s _).trans (free_access _ _)).trans (free_access _ _), _, _, _, rfl⟩

/-- The workspace with free values, and the member's part of the returned iterate if there is one. -/
def writeIterate : State :=
  if v.best = [] then spoilWork s v else (writeVA (spoilWork s v) agentZenle v.desc.x (bytes64 (v.ownPart v.best))).1

/-- Iterate, workspace and record of a solve. -/
def writeResults (norm : U64) : State :=
  (writeRecord (freeInterior (writeIterate s v) v).1 agentZenle v.desc.result
    (solveRecord (freeInterior (writeIterate s v) v).2 norm s.tim.now)).1

theorem writeIterate_access : AccessFrame s (writeIterate s v) := by
  have hspoil : AccessFrame s (spoilWork s v) := spoilRange_access ..
  exact hspoil.ite (hspoil.trans (writeVA_access ..))

theorem writeResults_access (norm : U64) : AccessFrame s (writeResults s v norm) :=
  ((writeIterate_access s v).trans (freeInterior_frees _ v).1).trans (writeRecord_access ..)

/-- What a solve gives back does not depend on its interior-point quantities. -/
theorem leaveSolve_quantities (z : State) (g p d : U64) :
    let w := { v with gap := g, primal := p, dual := d }
    finish (dropSolve (releaseSolve z w) w) w.cmd w.status.toNat 0 =
      finish (dropSolve (releaseSolve z v) v) v.cmd v.status.toNat 0 := rfl

/-- The end of a solve writes its results, raises an event if it is late, and completes with its status (R257). -/
theorem endSolve_ends (norm : U64) : ∃ z, endSolve s v norm (!v.best.isEmpty) =
      finish (dropSolve (releaseSolve z v) v) v.cmd v.status.toNat 0 ∧
    AccessFrame s z ∧ z.mem = (writeResults s v norm).mem := by
  have hiterate : (if !v.best.isEmpty then (writeVA (spoilWork s v) agentZenle v.desc.x (bytes64 (v.ownPart v.best))).1
      else spoilWork s v) = writeIterate s v := by
    cases h : v.best <;> simp [writeIterate, h]
  obtain ⟨hfree, g, p, d, hquantities⟩ := freeInterior_frees (writeIterate s v) v
  have hnow : (freeInterior (writeIterate s v) v).1.tim.now = s.tim.now :=
    congrArg Time.now ((writeIterate_access s v).trans hfree).tim
  have hresults := writeResults_access s v norm
  unfold endSolve
  unfold writeResults at hresults ⊢
  simp only [hiterate]
  generalize freeInterior (writeIterate s v) v = f at *
  obtain ⟨t, w⟩ := f
  obtain rfl : w = _ := hquantities
  replace hnow : t.tim.now = s.tim.now := hnow
  simp only [hnow]
  refine ⟨_, leaveSolve_quantities v _ g p d, ?_, ?_⟩
  · exact (hresults.trans (raise_access ..)).ite hresults
  · split
    · exact raise_mem ..
    · rfl

end

/-- SOLVE_END ends the solve with the norm of its returned iterate, where nothing that it writes is held. -/
theorem exec_solveEnd {s : State} {id : U32} {v : Solve} (hp : s.pins.powered = true) (hv : s.solveIn id .ended = some v)
    (hhold : s.holding = false) (hx : s.rangeHeld v.desc.x (8 * (v.ownPart v.best).length) = false)
    (hresult : s.rangeHeld v.desc.result 192 = false) :
    exec (.solveEnd id) s = .next (endSolve (returnedNorm s v).1 v (returnedNorm s v).2 (!v.best.isEmpty)) := by
  show execSolveEnd id s = _
  rw [execSolveEnd, powered_on _ hp]
  simp only [hv, hhold, hx, hresult, Bool.or_self, Bool.false_eq_true, if_false]

/-! ## Assemblies -/

theorem readF64_access (s : State) (va n : Nat) : AccessFrame s (readF64 s va n).1 := readVA_access s agentZenle va (8 * n)

theorem readSource_access (s : State) (d : AsmDesc) (x : AsmInput) (e : List Byte) (n : Nat) :
    AccessFrame s (readSource s d x e n).1 := by
  have hbase := readF64_access s (fieldLE e 8 8) n
  unfold readSource
  split
  · next h =>
    rw [h] at hbase
    split
    · exact hbase
    · exact hbase.trans (readF64_access ..)
  · next h => rw [h] at hbase; exact hbase

theorem readFaces_access (s : State) (d : AsmDesc) (e : List Byte) : AccessFrame s (readFaces s d e).1 := by
  refine AccessFrame.foldl_of (st := fun a : State × Nat × List (List Fp) => a.1) (fun a f => ?_) _ _ s (AccessFrame.refl s)
  split
  · exact AccessFrame.refl _
  · exact readF64_access ..

theorem readAsmEntry_access (d : AsmDesc) (a : State × AsmInput) (e : List Byte) : AccessFrame a.1 (readAsmEntry d a e).1 := by
  unfold readAsmEntry
  simp only
  split
  · exact AccessFrame.refl _
  · split
    · exact readSource_access ..
    · exact readSource_access ..
    · dsimp only
      exact readFaces_access ..
    · exact readF64_access ..
    · exact readVA_access ..

theorem readProgram_access (s : State) (a : Assembly) : AccessFrame s (readProgram s a).1 :=
  AccessFrame.foldl_of (st := Prod.fst) (fun x e => readAsmEntry_access a.desc x e) _ _ s (free_access s _)

theorem runAssembly_access (s : State) (a : Assembly) : AccessFrame s (runAssembly s a).1 := by
  have hheader := readVA_access s agentZenle a.desc.header 64
  unfold runAssembly
  split
  · next u hb h =>
    rw [h] at hheader
    have hprogram : AccessFrame s (readProgram u a).1 := hheader.trans (readProgram_access ..)
    split_ifs
    · exact hheader
    · simp only
      split
      · exact hprogram
      · split
        · exact hprogram
        · split
          · exact hprogram.trans (xltFault_access ..)
          · exact hprogram
  · next h => rw [h] at hheader; exact hheader

theorem countAssembly_access (s : State) (a : Assembly) : AccessFrame s (countAssembly s a) :=
  AccessFrame.foldl (fun u _ =>
    (((bumpClocks_access u ..).trans (bump_access ..)).trans (bump_access ..)).trans (bumpClocks_access ..)) _ s

/-- The outputs of an assembly written in their order (R233). -/
theorem writeOutputs_access (ws : List (Nat × List Byte)) (s : State) :
    AccessFrame s (ws.foldl (fun s w => (writeVA s agentZenle w.1 w.2).1) s) :=
  AccessFrame.foldl (fun u w => writeVA_access u agentZenle w.1 w.2) ws s

/-- ASSEMBLY_DONE completes with what refuses the program, or writes its outputs (R231 to R233). -/
theorem exec_assemblyDone {s : State} {id : U32} {a : Assembly} (hp : s.pins.powered = true)
    (ha : s.zn.assemblies.find? (fun a => a.desc.asmId == id) = some a) (hhold : s.holding = false)
    (hranges : ∀ r ∈ a.ranges s, s.rangeHeld r.1 r.2 = false) : let r := runAssembly s a
    (∀ e, r.2 = .error e →
      exec (.assemblyDone id) s = .next (finish (dropAssembly (countChecks r.1 a) a) a.cmd e.1 (a.desc.echo e.2))) ∧
    (∀ ws, r.2 = .ok ws → exec (.assemblyDone id) s = .next (finish (dropAssembly
      (ws.foldl (fun s w => (writeVA s agentZenle w.1 w.2).1) (countAssembly r.1 a)) a) a.cmd 0 a.desc.echo)) := by
  show (∀ e, _ → execAssemblyDone id s = _) ∧ (∀ ws, _ → execAssemblyDone id s = _)
  rw [execAssemblyDone, powered_on _ hp]
  simp only [ha, hhold, noneHeld hranges, Bool.or_self, Bool.false_eq_true, if_false]
  generalize runAssembly s a = r
  obtain ⟨t, result⟩ := r
  refine ⟨fun e he => ?_, fun ws hws => ?_⟩
  · obtain rfl : result = .error e := he
    rfl
  · obtain rfl : result = .ok ws := hws
    rfl

end Sys2Proof.Machine

open Sys2Proof Sys2Proof.Machine

/-- Settles O35: what a solve or an assembly writes leaves the units' records alone, and its release changes its own. -/
theorem zenleWorkEnds : Obligations.ZenleWorkEnds := by
  unfold Obligations.ZenleWorkEnds
  intro s id hp
  constructor
  · intro v hv hhold hx hresult
    obtain ⟨z, hend, hwrites, hmem⟩ := endSolve_ends (returnedNorm s v).1 v (returnedNorm s v).2
    have haccess : AccessFrame s z := (returnedNorm_access s v).trans hwrites
    have hreleased := releaseSolve_released z v
    have hzn : (releaseSolve z v).zn = s.zn := hreleased.zn.trans haccess.zn
    refine ⟨_, (exec_solveEnd hp hv hhold hx hresult).trans (congrArg _ hend), ?_, fun t => ?_, fun c hc hphase => ?_,
      fun c hc => ?_, hreleased.outCmds.trans haccess.outCmds, hreleased.job.trans haccess.job, ?_⟩
    · exact congrArg (fun z => z.solves.filter (fun x => x.number != v.number)) hzn
    · rw [← haccess.reserved]
      exact hreleased.reserved t
    · rw [dropSolve_core, hreleased.core, if_pos hc, haccess.core]
      exact congrArg Core.phase (if_pos hphase)
    · rw [dropSolve_core, hreleased.core, if_neg hc, haccess.core]
    · intro n w x f
      have hx : x = writeIterate n.1 v := rfl
      have hnow : n.1.tim.now = s.tim.now := congrArg Time.now (returnedNorm_access s v).tim
      rw [dropSolve_mem, hreleased.mem, hmem, writeResults, hnow, ← hx]
  · intro a ha hhold hranges r
    obtain ⟨herror, hok⟩ := exec_assemblyDone hp ha hhold hranges
    refine ⟨herror, fun ws hws => ⟨_, hok ws hws, rfl, ?_⟩⟩
    have haccess : AccessFrame s (ws.foldl (fun s w => (writeVA s agentZenle w.1 w.2).1) (countAssembly r.1 a)) :=
      ((runAssembly_access s a).trans (countAssembly_access ..)).trans (writeOutputs_access ..)
    have hassemblies := congrArg Zenle.assemblies haccess.zn
    have hsolves := congrArg Zenle.solves haccess.zn
    exact ⟨congrArg (dropFirst fun x => x == a) hassemblies, hsolves⟩
end

section
/-! The end of a unit of work of a solve: what each method makes of it, and that one solve is replaced (R241 to R254). -/

namespace Sys2Proof.Machine

/-! ## Later states of a solve -/

/-- `w` is a later state of the solve `v`: the same solve, with the durations that `v` has recorded. -/
def Solve.Follows (v w : Solve) : Prop :=
  w.number = v.number ∧ w.desc = v.desc ∧ w.cmd = v.cmd ∧ w.core = v.core ∧ w.lastUnit = v.lastUnit ∧
  w.lastResidual = v.lastResidual ∧ (w.phase = v.phase ∨ w.phase = .ended)

/-- `w` follows `v` without a further iteration or panel. -/
def Solve.Continues (v w : Solve) : Prop :=
  v.Follows w ∧ w.iter = v.iter ∧ w.panelsDone = v.panelsDone ∧ w.recNorm = v.recNorm

/-- `w` follows `v` with one further iteration. -/
def Solve.Counts (v w : Solve) : Prop := v.Follows w ∧ w.iter = v.iter + 1

/-- `w` is `v` stopped short of its own result: by its deadline, a limit or a failure (Table 7.7). -/
def Solve.Stopped (v w : Solve) : Prop :=
  v.Continues w ∧ w.phase = .ended ∧ w.status ≠ 0 ∧ w.hist = v.hist ∧ w.failedVer = v.failedVer

section
variable {v w x : Solve}

theorem Solve.Follows.trans (h1 : v.Follows w) (h2 : w.Follows x) : v.Follows x := by
  obtain ⟨hnumber, hdesc, hcmd, hcore, hunit, hresidual, hphase⟩ := h1
  obtain ⟨hnumber', hdesc', hcmd', hcore', hunit', hresidual', hphase'⟩ := h2
  refine ⟨hnumber'.trans hnumber, hdesc'.trans hdesc, hcmd'.trans hcmd, hcore'.trans hcore, hunit'.trans hunit,
    hresidual'.trans hresidual, ?_⟩
  rcases hphase' with h | h
  · rw [h]; exact hphase
  · exact .inr h

theorem Solve.Continues.trans (h1 : v.Continues w) (h2 : w.Continues x) : v.Continues x := by
  obtain ⟨hfollows, hiter, hpanels, hnorm⟩ := h1
  obtain ⟨hfollows', hiter', hpanels', hnorm'⟩ := h2
  exact ⟨hfollows.trans hfollows', hiter'.trans hiter, hpanels'.trans hpanels, hnorm'.trans hnorm⟩

theorem Solve.Follows.refl (v : Solve) : v.Follows v := ⟨rfl, rfl, rfl, rfl, rfl, rfl, .inl rfl⟩
theorem Solve.Continues.refl (v : Solve) : v.Continues v := ⟨Follows.refl v, rfl, rfl, rfl⟩

theorem Solve.Counts.follows (h1 : v.Counts w) (h2 : w.Follows x) (hiter : x.iter = w.iter) : v.Counts x :=
  ⟨h1.1.trans h2, hiter.trans h1.2⟩

theorem Solve.Counts.continues (h1 : v.Counts w) (h2 : w.Continues x) : v.Counts x := h1.follows h2.1 h2.2.1

theorem Solve.Stopped.continues (h : v.Stopped w) : v.Continues w := h.1

end

section
variable (v : Solve)

theorem Solve.keepBest_continues (norm : U64) : v.Continues (v.keepBest norm) := by
  unfold Solve.keepBest
  split <;> exact Continues.refl v

theorem Solve.keepBest_meets (norm m : U64) : (v.keepBest norm).meets m = v.meets m := by
  unfold Solve.keepBest
  split <;> rfl

theorem Solve.keepBest_hist (norm : U64) : (v.keepBest norm).hist = v.hist ∧ (v.keepBest norm).failedVer = v.failedVer := by
  unfold Solve.keepBest
  split <;> exact ⟨rfl, rfl⟩

theorem Solve.keepBest_phase (norm : U64) : (v.keepBest norm).phase = v.phase := by
  unfold Solve.keepBest
  split <;> rfl

/-- The solve at the iterate of its products. -/
def Solve.withIterate : Solve := { v with x := v.vec v.hist vecIterate v.size }

theorem Solve.formIterate_continues : v.Continues v.formIterate := by
  unfold Solve.formIterate
  split
  · exact v.withIterate.keepBest_continues v.recNorm
  · exact Continues.refl v

theorem Solve.formIterate_hist : v.formIterate.hist = v.hist ∧ v.formIterate.failedVer = v.failedVer := by
  unfold Solve.formIterate
  split
  · exact v.withIterate.keepBest_hist v.recNorm
  · exact ⟨rfl, rfl⟩

theorem Solve.nextCycle_continues : v.Continues v.nextCycle := by
  unfold Solve.nextCycle
  split <;> exact Continues.refl v

theorem Solve.formIterate_stopped (late : Bool) {st : U16} (hst : st ≠ 0) :
    v.Stopped { v.formIterate with deadlineStop := late, phase := .ended, status := st } := by
  obtain ⟨⟨hnumber, hdesc, hcmd, hcore, hunit, hresidual, -⟩, hiter, hpanels, hnorm⟩ := v.formIterate_continues
  obtain ⟨hhist, hfailed⟩ := v.formIterate_hist
  exact ⟨⟨⟨hnumber, hdesc, hcmd, hcore, hunit, hresidual, .inr rfl⟩, hiter, hpanels, hnorm⟩, rfl, hst, hhist, hfailed⟩

end

/-! ## One solve is replaced -/

/-- Zenle's records are those of `s` but for one solve, which is replaced by one of which `P` holds. -/
def Advances (s t : State) (P : Solve → Prop) : Prop := ∃ w, t.zn = (setSolve s w).zn ∧ P w

section
variable {s t u : State} {P Q : Solve → Prop}

theorem setSolve_advances (s : State) {w : Solve} (h : P w) : Advances s (setSolve s w) P := ⟨w, rfl, h⟩

theorem Advances.mono (h : Advances s t P) (hpq : ∀ w, P w → Q w) : Advances s t Q := by
  obtain ⟨w, hzn, hw⟩ := h
  exact ⟨w, hzn, hpq w hw⟩

theorem Advances.of_zn (h : Advances u t P) (hzn : u.zn = s.zn) : Advances s t P := by
  obtain ⟨w, ht, hw⟩ := h
  refine ⟨w, ?_, hw⟩
  rw [ht, setSolve, setSolve, hzn]

end

/-! ## Stops and decisions -/

section
variable (s : State) (v : Solve)

theorem stopBest_stops {st : Nat} (h : BitVec.ofNat 16 st ≠ 0) : Advances s (stopBest s v st) v.Stopped :=
  setSolve_advances s (v.formIterate_stopped v.formIterate.deadlineStop h)

theorem deadlineStop_stops : Advances s (deadlineStop s v) v.Stopped := by
  have hstatus : BitVec.ofNat 16 (if v.formIterate.bestIter = 0 then 0x0151 else 0x0150) ≠ 0 := by split <;> decide
  exact (setSolve_advances _ (v.formIterate_stopped true hstatus)).of_zn (countNondet_access s 5).zn

theorem stopHere_continues (st : Nat) : Advances s (stopHere s v st) v.Continues :=
  setSolve_advances s ⟨⟨rfl, rfl, rfl, rfl, rfl, rfl, .inr rfl⟩, rfl, rfl, rfl⟩

theorem mayGo_zn (u : ZnUnit) : (mayGo s v u).1.zn = s.zn := by
  unfold mayGo
  simp only
  split_ifs <;> rfl

/-- The solve goes on with a unit, or its deadline stops it (R254). -/
theorem goOn_goes (u : ZnUnit) : Advances s (goOn s v u) fun w => w = { v with unit := u } ∨ v.Stopped w := by
  have hzn := mayGo_zn s v u
  unfold goOn
  generalize mayGo s v u = r at *
  obtain ⟨t, go⟩ := r
  cases go with
  | true => exact (setSolve_advances t (.inl rfl)).of_zn hzn
  | false => exact ((deadlineStop_stops t v).mono fun _ => .inr).of_zn hzn

theorem nextIteration_goes (u : ZnUnit) {otherwise : State → Solve → State} {P : Solve → Prop}
    (h : ∀ t, Advances t (otherwise t v) P) :
    Advances s (nextIteration s v u otherwise) fun w => P w ∨ v.Stopped w := by
  have hzn := mayGo_zn s v u
  unfold nextIteration
  generalize mayGo s v u = r at *
  obtain ⟨t, go⟩ := r
  refine Advances.of_zn ?_ hzn
  cases go with
  | false => exact (deadlineStop_stops t v).mono fun _ => .inr
  | true =>
    show Advances t (if _ then _ else _) _
    split
    · exact (stopBest_stops t v (by decide)).mono fun _ => .inr
    · exact (h t).mono fun _ => .inl

theorem goOn_continues (u : ZnUnit) : Advances s (goOn s v u) v.Continues := by
  refine (goOn_goes s v u).mono fun w h => ?_
  rcases h with rfl | h
  · exact Solve.Continues.refl v
  · exact h.continues

theorem nextIteration_continues (u : ZnUnit) {otherwise : State → Solve → State}
    (h : ∀ t, Advances t (otherwise t v) v.Continues) : Advances s (nextIteration s v u otherwise) v.Continues :=
  (nextIteration_goes s v u h).mono fun _ hw => hw.elim id Solve.Stopped.continues

/-! ## Factorisations -/

theorem storeFactor_zn : (storeFactor s v).zn = s.zn := by
  have hheader := readVA_access s agentZenle v.desc.matrix 64
  unfold storeFactor
  split
  · rfl
  · split
    · next h _ =>
      rw [h] at hheader
      exact (hheader.trans (AccessFrame.foldl (fun _ _ => writeVA_access ..) _ _)).zn
    · next h _ =>
      rw [h] at hheader
      exact hheader.zn

theorem spoilMatrix_zn : (spoilMatrix s v).zn = s.zn := by
  have hheader := readVA_access s agentZenle v.desc.matrix 64
  unfold spoilMatrix
  split
  · rfl
  · split
    · next h =>
      rw [h] at hheader
      exact (hheader.trans (AccessFrame.foldl (fun _ _ => spoilRange_access ..) _ _)).zn
    · next h => rw [h] at hheader; exact hheader.zn

theorem refineLoop_continues : Advances s (refineLoop s v) v.Continues := by
  unfold refineLoop
  split
  · exact stopHere_continues s v 0
  · exact nextIteration_continues s v _ fun t => setSolve_advances t (Solve.Continues.refl v)

/-- A complete factorisation ends a direct method, and counts no iteration of another (R245). -/
theorem afterFactor_follows : Advances s (afterFactor s v) fun w => v.Follows w ∧ w.panelsDone = v.panelsDone ∧
    (v.desc.refine = true ∨ v.desc.interior = true → w.iter = v.iter) := by
  have hgoes {w : Solve} (h : v.Continues w) : v.Follows w ∧ w.panelsDone = v.panelsDone ∧
      (v.desc.refine = true ∨ v.desc.interior = true → w.iter = v.iter) := by
    obtain ⟨hfollows, hiter, hpanels, -⟩ := h
    exact ⟨hfollows, hpanels, fun _ => hiter⟩
  unfold afterFactor
  split
  · exact (goOn_continues s v _).mono fun _ => hgoes
  · split
    · exact setSolve_advances s (hgoes (Solve.Continues.refl v))
    · split
      · exact (refineLoop_continues s v).mono fun _ => hgoes
      · next hinterior hrefine =>
        refine Advances.of_zn (setSolve_advances _ ?_) (storeFactor_zn s v)
        exact ⟨⟨rfl, rfl, rfl, rfl, rfl, rfl, .inr rfl⟩, rfl, fun h => (h.elim hrefine hinterior).elim⟩

theorem beginFactor_follows : Advances s (beginFactor s v) fun w => v.Follows w ∧
    (v.desc.refine = true ∨ v.desc.interior = true → w.iter = v.iter) := by
  unfold beginFactor
  extract_lets v1
  split
  · exact (afterFactor_follows s v1).mono fun _ ⟨h, _, hiter⟩ => ⟨h, hiter⟩
  · exact (goOn_continues s v1 _).mono fun _ ⟨h, hiter, _⟩ => ⟨h, fun _ => hiter⟩

theorem panelFault_status {st col : Nat} (h : v.panelFault = some (st, col)) : BitVec.ofNat 16 st ≠ 0 := by
  unfold Solve.panelFault at h
  split at h
  · split at h
    · simp only [Option.some.injEq, Prod.mk.injEq] at h
      obtain ⟨rfl, -⟩ := h
      split <;> decide
    · exact absurd h (Option.some_ne_none _).symm
  · exact absurd h (Option.some_ne_none _).symm

/-- A panel counts one, and the next one starts, the factorisation is complete, or the solve stops (R254). -/
theorem panelEnd_follows : Advances s (panelEnd s v) fun w => v.Follows w ∧ w.panelsDone = v.panelsDone + 1 := by
  have hgoes {next w : Solve} (hnext : v.Follows next) (hpanels : next.panelsDone = v.panelsDone + 1)
      (h : next.Continues w) : v.Follows w ∧ w.panelsDone = v.panelsDone + 1 := by
    obtain ⟨hfollows, -, hdone, -⟩ := h
    exact ⟨hnext.trans hfollows, hdone.trans hpanels⟩
  unfold panelEnd
  extract_lets next
  have hnext : v.Follows next := Solve.Follows.refl v
  split
  · next st col hfault =>
    refine Advances.of_zn ((stopBest_stops _ _ (panelFault_status v hfault)).mono fun w h => ?_) (spoilMatrix_zn s v)
    exact hgoes (next := { next with faultIndex := BitVec.ofNat 64 col }) hnext rfl h.continues
  · split
    · have hzn := mayGo_zn s next .panel
      generalize mayGo s next .panel = r at *
      obtain ⟨t, go⟩ := r
      refine Advances.of_zn ?_ hzn
      cases go with
      | true => exact setSolve_advances t ⟨hnext, rfl⟩
      | false =>
        refine Advances.of_zn ((deadlineStop_stops _ next).mono fun w h => ?_) (spoilMatrix_zn t next)
        exact hgoes hnext rfl h.continues
    · exact (afterFactor_follows s next).mono fun w ⟨h, hpanels, _⟩ => ⟨h, hpanels⟩

/-! ## Krylov iterations -/

/-- A Krylov solve that has formed an iteration's products and its recurrence norm. -/
def Solve.iterated : Solve :=
  { v with iter := v.iter + 1, cycle := v.cycle + 1, recNorm := v.krylovStep.norm, hist := v.krylovStep.hist,
           recRes := v.krylovStep.res }

/-- The same with its iterate, where the method forms one. -/
def Solve.formed : Solve :=
  if v.desc.method != 2 || v.desc.restartM ≤ v.cycle + 1 || v.meets v.krylovStep.norm then
    v.iterated.withIterate.keepBest v.krylovStep.norm
  else v.iterated

theorem Solve.formed_continues : v.iterated.Continues v.formed := by
  unfold Solve.formed
  split
  · exact v.iterated.withIterate.keepBest_continues _
  · exact Continues.refl _

theorem Solve.formed_phase : v.formed.phase = v.phase := by
  unfold Solve.formed
  split
  · exact v.iterated.withIterate.keepBest_phase _
  · rfl

theorem Solve.formed_meets : v.formed.meets v.formed.recNorm = v.meets v.krylovStep.norm := by
  obtain ⟨-, -, -, hnorm⟩ := v.formed_continues
  rw [hnorm]
  unfold Solve.formed
  split
  · exact v.iterated.withIterate.keepBest_meets _ _
  · rfl

/-- A BiCGSTAB iteration that breaks down is counted; another may end its GMRES cycle (R242). -/
def Solve.followUp (stuck : Bool) : Solve := if stuck then { v with breakdowns := v.breakdowns + 1 } else v.nextCycle

theorem Solve.followUp_continues (stuck : Bool) : v.Continues (v.followUp stuck) := by
  cases stuck with
  | true => exact Continues.refl v
  | false => exact v.nextCycle_continues

/-- The next iteration of a Krylov method, if it has one. -/
def krylovNext (stuck : Bool) : State :=
  nextIteration s v .iteration (fun s v =>
    if stuck && 3 ≤ v.breakdowns then stopBest s v 0x0154
    else setSolve s
      (if stuck then { v.startFrom none with unit := .iteration, restarts := v.restarts + 1 } else { v with unit := .iteration }))

theorem krylovNext_continues (stuck : Bool) : Advances s (krylovNext s v stuck) v.Continues := by
  refine nextIteration_continues s v _ fun t => ?_
  split
  · exact (stopBest_stops t v (by decide)).mono fun _ => Solve.Stopped.continues
  · refine setSolve_advances t ?_
    split <;> exact Solve.Continues.refl v

/-- The checks that end a Krylov iteration, in their order (Table 7.7). -/
theorem krylovEnd_eq : ∃ stuck, krylovEnd s v =
    if v.formed.meets v.formed.recNorm then setSolve s { v.formed with unit := .residual }
    else if v.krylovStep.broken v.formed.desc.method then stopBest s v.formed 0x8522
    else if v.formed.desc.method < 2 && v.krylovStep.curv.le Fp.zero then
      stopBest s.drawBits.2 { v.formed with faultIndex := s.drawBits.1 } 0x8520
    else krylovNext s (v.formed.followUp stuck) stuck :=
  ⟨_, rfl⟩

/-- `w` follows `v` with a Krylov iteration, whose recurrence norm sends it to verification where it meets the bound (R241). -/
def Solve.Iterates (v w : Solve) : Prop :=
  v.Follows w ∧ w.iter = v.iter + 1 ∧ w.recNorm = v.krylovStep.norm ∧
  (v.meets v.krylovStep.norm = true → w.phase = v.phase ∧ w.unit = .residual)

/-- The recurrence norm decides between verification, the ends of the method and its next iteration (R241). -/
theorem krylovEnd_iterates : Advances s (krylovEnd s v) v.Iterates := by
  have hgoes {w : Solve} (hno : ¬v.formed.meets v.formed.recNorm = true) (hw : v.formed.Continues w) : v.Iterates w := by
    obtain ⟨hfollows, hiter, -, hnorm⟩ := v.formed_continues.trans hw
    exact ⟨hfollows, hiter, hnorm, fun h => absurd (v.formed_meets.trans h) hno⟩
  obtain ⟨stuck, heq⟩ := krylovEnd_eq s v
  rw [heq]
  split
  · obtain ⟨hfollows, hiter, -, hnorm⟩ := v.formed_continues
    exact setSolve_advances s ⟨hfollows, hiter, hnorm, fun _ => ⟨v.formed_phase, rfl⟩⟩
  · next hno =>
    split
    · exact (stopBest_stops s _ (by decide)).mono fun w h => hgoes hno h.continues
    · split
      · refine Advances.of_zn (u := s.drawBits.2) ((stopBest_stops _ _ (by decide)).mono fun w h => ?_) rfl
        exact hgoes hno h.continues
      · exact (krylovNext_continues s _ stuck).mono fun w h => hgoes hno ((v.formed.followUp_continues stuck).trans h)

/-! ## Verification, refinement and the interior-point method -/

/-- A Krylov solve that starts again from the FP64 residual of its iterate (R241). -/
def Solve.refuted : Solve :=
  { v.startFrom (some (residual64 v.mat v.rhs v.x)) with failedVer := v.failedVer + 1, restarts := v.restarts + 1 }

/-- `w` follows a solve whose iterate verification has refused: it starts again from the iterate with its FP64 residual (R241). -/
def Solve.Refutes (v w : Solve) : Prop :=
  w.failedVer = v.failedVer + 1 ∧ (w.phase = .ended → w.status ≠ 0) ∧ w.hist = [v.rhs, v.x, residual64 v.mat v.rhs v.x]

/-- An iterate whose FP64 residual meets the bound ends the solve; another restarts the method, or the solve stops (R241, R244). -/
theorem verifyEnd_follows (hrun : v.phase = .running) : Advances s (verifyEnd s v) fun w => v.Follows w ∧ w.iter = v.iter ∧
    (v.meets (v.resNorm v.x) = true → w.phase = .ended ∧ w.status = 0 ∧ w.best = v.x ∧ w.bestIter = v.iter) ∧
    (v.meets (v.resNorm v.x) = false → v.Refutes w) := by
  cases hmeets : v.meets (v.resNorm v.x) with
  | true =>
    rw [verifyEnd, if_pos hmeets]
    exact setSolve_advances s ⟨⟨rfl, rfl, rfl, rfl, rfl, rfl, .inr rfl⟩, rfl, fun _ => ⟨rfl, rfl, rfl, rfl⟩, nofun⟩
  | false =>
    have hstopped {w : Solve} (hw : v.refuted.Stopped w) : v.Follows w ∧ w.iter = v.iter ∧ v.Refutes w := by
      obtain ⟨⟨hfollows, hiter, -⟩, -, hstatus, hhist, hfailed⟩ := hw
      exact ⟨hfollows, hiter, hfailed, fun _ => hstatus, hhist⟩
    have hgoes : v.Refutes { v.refuted with unit := .iteration } :=
      ⟨rfl, fun hended => absurd (hrun.symm.trans hended) (by decide), rfl⟩
    rw [verifyEnd, if_neg (by simp [hmeets])]
    refine (nextIteration_goes s v.refuted .iteration (P := fun w => v.Follows w ∧ w.iter = v.iter ∧ v.Refutes w)
      fun t => ?_).mono fun w hw => ?_
    · split
      · exact (stopBest_stops t _ (by decide)).mono fun _ => hstopped
      · exact setSolve_advances t ⟨Solve.Follows.refl v, rfl, hgoes⟩
    · obtain ⟨hfollows, hiter, hrefutes⟩ := hw.elim id hstopped
      exact ⟨hfollows, hiter, nofun, fun _ => hrefutes⟩

/-- A refinement iteration counts one, and ends the solve or goes on (R247). -/
theorem refineEnd_counts : Advances s (refineEnd s v) v.Counts := by
  unfold refineEnd
  extract_lets d v1 norm small v2 w2
  have hcorrected : v.Counts v2 := by
    obtain ⟨hfollows, hiter, -⟩ := Solve.keepBest_continues
      { v1 with rNorm := norm, recNorm := norm, slow := if small then 0 else v1.slow + 1 } norm
    exact ⟨hfollows, hiter⟩
  split
  · exact (stopHere_continues s v2 0).mono fun _ => hcorrected.continues
  · split
    · exact (stopBest_stops s v2 (by decide)).mono fun _ h => hcorrected.continues h.continues
    · split
      · have hcounts : v.Counts w2 := hcorrected
        refine (nextIteration_continues s w2 _ fun t => ?_).mono fun _ => hcounts.continues
        exact setSolve_advances t (Solve.Continues.refl w2)
      · refine (nextIteration_continues s v2 _ fun t => ?_).mono fun _ => hcorrected.continues
        split
        · exact (stopBest_stops t v2 (by decide)).mono fun _ => Solve.Stopped.continues
        · exact setSolve_advances t (Solve.Continues.refl v2)

theorem refineStart_follows (h : v.desc.refine = true) : Advances s (refineStart s v) fun w => v.Follows w ∧ w.iter = v.iter := by
  unfold refineStart
  extract_lets norm v1
  split
  · exact (stopBest_stops s v1 (by decide)).mono fun w ⟨⟨hfollows, hiter, _⟩, _⟩ => ⟨hfollows, hiter⟩
  · exact (beginFactor_follows s v1).mono fun w ⟨hfollows, hiter⟩ => ⟨hfollows, hiter (.inl h)⟩

/-- An interior-point iteration counts one, and ends the solve or goes on (R248 to R251). -/
theorem interiorEnd_counts : Advances s (interiorEnd s v) v.Counts := by
  unfold interiorEnd
  extract_lets v1 best kept tau kappa most small here
  have hkept : v.Counts kept := by
    obtain ⟨hfollows, hiter, -⟩ := v1.keepBest_continues v1.recNorm
    show v.Counts (if _ then _ else _)
    split
    · exact ⟨hfollows, hiter⟩
    · exact ⟨Solve.Follows.refl v, rfl⟩
  have hhere (w : Solve) (st : Nat) (h : v.Counts w) : Advances s (stopHere s w st) v.Counts :=
    (stopHere_continues s w st).mono fun _ => h.continues
  split
  · exact hhere here 0 ⟨Solve.Follows.refl v, rfl⟩
  · split
    · exact hhere _ _ ⟨Solve.Follows.refl v, rfl⟩
    · split
      · exact (stopBest_stops s kept (by decide)).mono fun _ h => hkept.continues h.continues
      · refine (nextIteration_goes s kept _ (P := v.Counts) fun t => ?_).mono fun _ hw =>
          hw.elim id fun h => hkept.continues h.continues
        split
        · next hnormal =>
          have hinterior : kept.desc.interior = true := (Bool.and_eq_true_iff.1 hnormal).1
          exact (beginFactor_follows t kept).mono fun _ ⟨hfollows, hiter⟩ => hkept.follows hfollows (hiter (.inr hinterior))
        · exact setSolve_advances t (hkept.continues (Solve.Continues.refl kept))

end

/-! ## ZN_UNIT_END -/

/-- A solve whose unit under way has ended: its duration is recorded, and the lead member's decision (R254, R264). -/
def Solve.clocked (v : Solve) (u : ZnUnit) (report : UnitReport) : Solve :=
  { v with
    lastUnit := kvSet v.lastUnit (v.unitKind u) (report.ns.toNat + (if u = .iteration then v.spent else 0)), go := report.go,
    spent := if u = .panel && v.desc.interior then v.spent + report.ns.toNat else v.spent,
    lastResidual := if u = .residual then some report.ns.toNat
      else if u = .iteration && (v.desc.refine || v.desc.interior) then some report.residual.toNat else v.lastResidual }

/-- What the end of a unit does, by its kind and the method (Table 7.5). -/
def unitEnd (s : State) (v : Solve) : ZnUnit → State
  | .panel => panelEnd s v
  | .residual => if v.desc.refine then refineStart s v else verifyEnd s v
  | .iteration => if v.desc.krylov then krylovEnd s v else if v.desc.refine then refineEnd s v else interiorEnd s v

theorem exec_znUnitEnd {s : State} {id : U32} {u : ZnUnit} {v : Solve} (report : UnitReport) (hp : s.pins.powered = true)
    (hv : s.solveIn id .running = some v) (hu : v.unit = u)
    (hheld : u = .panel → v.desc.direct = true → v.desc.keepA = false →
      ∀ r ∈ s.ownCellRanges v, s.rangeHeld r.1 r.2 = false) :
    exec (.znUnitEnd id u report) s = .next (unitEnd s (v.clocked u report) u) := by
  have hgo : ¬(v.unit != u || (u == .panel && v.desc.direct && !v.desc.keepA &&
      (s.ownCellRanges v).any (fun r => s.rangeHeld r.1 r.2))) = true := by
    rw [hu, bne_self_eq_false, Bool.false_or]
    simp only [Bool.and_eq_true, beq_iff_eq, Bool.not_eq_true']
    rintro ⟨⟨⟨hpanel, hdirect⟩, hkeep⟩, hany⟩
    exact absurd (hany.symm.trans (noneHeld (hheld hpanel hdirect hkeep))) (by decide)
  show execZnUnitEnd id u report s = _
  rw [execZnUnitEnd, powered_on _ hp]
  simp only [hv]
  rw [if_neg hgo]
  cases u <;> rfl

/-- One step of a running solve, by the kind of unit that has ended. -/
theorem unitEnd_advances (s : State) (v : Solve) (u : ZnUnit) (hrun : v.phase = .running) : Advances s (unitEnd s v u) fun w =>
    v.Follows w ∧ (u = .iteration → w.iter = v.iter + 1) ∧ (u = .panel → w.panelsDone = v.panelsDone + 1) ∧
    (u = .residual → w.iter = v.iter) ∧
    (u = .iteration → v.desc.krylov = true → w.recNorm = v.krylovStep.norm ∧
      (v.meets v.krylovStep.norm = true → w.phase = .running ∧ w.unit = .residual)) ∧
    (u = .residual → v.desc.refine = false →
      (v.meets (v.resNorm v.x) = true → w.phase = .ended ∧ w.status = 0 ∧ w.best = v.x ∧ w.bestIter = v.iter) ∧
      (v.meets (v.resNorm v.x) = false → v.Refutes w)) := by
  cases u with
  | panel =>
    exact (panelEnd_follows s v).mono fun w ⟨hfollows, hpanels⟩ => ⟨hfollows, nofun, fun _ => hpanels, nofun, nofun, nofun⟩
  | residual =>
    unfold unitEnd
    cases hrefine : v.desc.refine with
    | true =>
      exact (refineStart_follows s v hrefine).mono fun w ⟨hfollows, hiter⟩ =>
        ⟨hfollows, nofun, nofun, fun _ => hiter, nofun, fun _ h => absurd h (by decide)⟩
    | false =>
      exact (verifyEnd_follows s v hrun).mono fun w ⟨hfollows, hiter, hverified⟩ =>
        ⟨hfollows, nofun, nofun, fun _ => hiter, nofun, fun _ _ => hverified⟩
  | iteration =>
    unfold unitEnd
    cases hkrylov : v.desc.krylov with
    | true =>
      exact (krylovEnd_iterates s v).mono fun w ⟨hfollows, hiter, hnorm, hverify⟩ =>
        ⟨hfollows, fun _ => hiter, nofun, nofun, fun _ _ => ⟨hnorm, hrun ▸ hverify⟩, nofun⟩
    | false =>
      have hcounts : Advances s (if v.desc.refine then refineEnd s v else interiorEnd s v) v.Counts := by
        split
        · exact refineEnd_counts s v
        · exact interiorEnd_counts s v
      exact hcounts.mono fun w ⟨hfollows, hiter⟩ =>
        ⟨hfollows, fun _ => hiter, nofun, nofun, fun _ h => absurd h (by decide), nofun⟩

end Sys2Proof.Machine

open Sys2Proof Sys2Proof.Machine

/-- Settles O34: the end of a unit replaces the one solve by a later state of it, as its method's step says. -/
theorem unitEndsAdvanceASolve : Obligations.UnitEndsAdvanceASolve := by
  unfold Obligations.UnitEndsAdvanceASolve
  intro s id u d v hp hv hu hheld
  have hrun : v.phase = .running := by
    have hfound := List.find?_some hv
    simp only [Bool.and_eq_true, beq_iff_eq] at hfound
    exact hfound.2
  obtain ⟨w, hzn, ⟨hnumber, hdesc, hcmd, hcore, hunit, hresidual, hphase⟩, hiter, hpanels, hsame, hkrylov, hverify⟩ :=
    unitEnd_advances s (v.clocked u d) u hrun
  refine ⟨_, w, exec_znUnitEnd d hp hv hu hheld, ?_, ?_, ?_, hnumber, hdesc, hcmd, hcore, ?_, ?_, hiter, hpanels,
    fun h => ⟨?_, hsame h⟩, hkrylov, ?_⟩
  · rw [hzn]
    rfl
  · rw [hzn]
    rfl
  · rw [hzn, setSolve, hnumber]
    rfl
  · exact hphase.imp_left fun h => h.trans hrun
  · rw [hunit]
    exact kvGet_kvSet_self ..
  · rw [hresidual]
    exact if_pos h
  · exact hverify
end

section
/-! STROKE_END: the two refusals, and the entry into the barrier with the arrival that may follow at once (R270, R271, R355). -/

namespace Sys2Proof.Machine

/-! ## The arrival at the barrier -/

/-- A member that has entered the barrier may arrive: nothing submitted before is left, and no write waits (R271, R355). -/
def State.mayArrive (s : State) : Bool := s.stroke.after.isEmpty && !s.requestsOut && s.mem.stalled.isEmpty

/-- A member that is in the barrier and has not arrived does so exactly when it may: the time is recorded and its arrival sent. -/
theorem tryArrive_entered {s : State} (hentered : s.stroke.entered ≠ none) (harrived : s.stroke.arrived = false) :
    tryArrive s = if s.mayArrive then
      ({ s with stroke := { s.stroke with arrived := true } }.setReg64 (strokeBase + 0x10) s.tim.now.toNat).emit
        (.strokeArrive s.stroke.count)
    else s := by
  rw [tryArrive, Option.isSome_iff_ne_none.2 hentered, harrived]
  rfl

/-- The stroke once the member has tried to arrive. -/
theorem tryArrive_stroke {s : State} (hentered : s.stroke.entered ≠ none) (harrived : s.stroke.arrived = false) :
    (tryArrive s).stroke = { s.stroke with arrived := s.mayArrive } := by
  rw [tryArrive_entered hentered harrived]
  cases s.mayArrive with
  | true => rfl
  | false => exact congrArg (fun b => { s.stroke with arrived := b }) harrived

/-- The arrival, and nothing else, is sent. -/
theorem tryArrive_sent {s : State} (hentered : s.stroke.entered ≠ none) (harrived : s.stroke.arrived = false) :
    (tryArrive s).sent = s.sent ++ (if s.mayArrive then [.strokeArrive s.stroke.count] else []) := by
  rw [tryArrive_entered hentered harrived]
  cases s.mayArrive with
  | true => rfl
  | false => exact (List.append_nil _).symm

/-- An arrival changes the stroke, the two registers of its time and what has been sent. -/
theorem tryArrive_frame (s : State) : (∃ k r o, tryArrive s = { s with stroke := k, regs := r, sent := o }) ∧
    ∀ o, o ≠ strokeBase + 0x10 → o ≠ strokeBase + 0x14 → (tryArrive s).reg o = s.reg o := by
  unfold tryArrive
  split
  · exact ⟨⟨_, _, _, rfl⟩, fun o h h4 => State.reg_setReg64_ne _ _ h h4⟩
  · exact ⟨⟨s.stroke, s.regs, s.sent, rfl⟩, fun _ _ _ => rfl⟩

/-! ## The command at its turn -/

/-- The barrier as STROKE_END of the running stroke enters it: started, and behind the commands submitted before it. -/
def enterBarrier (v : State) (c : CmdCtx) (stroke : U64) : State :=
  markStarted { v with stroke := { v.stroke with
    entered := some (c, stroke), after := v.submittedBefore c, arrived := false, slowSent := false } } c

section
variable {s : State} {c : CmdCtx} {stroke : U64} (h : AtTurn s c 0x0043 [opnd 8 8 stroke.toNat])
include h

theorem exec_strokeEnd_outstanding (hentered : s.stroke.entered ≠ none) :
    CompletesIn (.strokeEnd c stroke) c s (bump (accept s c 0x43) strokeBase 2 1) 0x8471 0 := by
  show execStrokeEnd c stroke s = _
  rw [execStrokeEnd, onRing_ready _ h.1 h.2, (accept_frame ..).stroke, if_pos (Option.isSome_iff_ne_none.2 hentered)]

theorem exec_strokeEnd_otherStroke (hentered : s.stroke.entered = none) (hother : stroke ≠ s.stroke.count) :
    CompletesIn (.strokeEnd c stroke) c s (bump (accept s c 0x43) strokeBase 2 1) 0x8470 0 := by
  show execStrokeEnd c stroke s = _
  rw [execStrokeEnd, onRing_ready _ h.1 h.2, (accept_frame ..).stroke, if_neg (by simp [hentered]), if_pos (bne_iff_ne.2 hother)]

theorem exec_strokeEnd_enters (hentered : s.stroke.entered = none) (hcount : stroke = s.stroke.count) :
    StartsIn (.strokeEnd c stroke) c s (tryArrive (enterBarrier (accept s c 0x43) c stroke)) := by
  show execStrokeEnd c stroke s = _
  rw [execStrokeEnd, onRing_ready _ h.1 h.2, (accept_frame ..).stroke, if_neg (by simp [hentered]), if_neg (by simp [hcount]),
    enterBarrier, (accept_frame ..).stroke]

end

/-- An accepted STROKE_END may arrive by what it waits for, its member's requests and its stalled writes. -/
theorem mayArrive_enterBarrier (s : State) (c : CmdCtx) (op : Nat) (stroke : U64) :
    (enterBarrier (accept s c op) c stroke).mayArrive =
      (((accept s c op).submittedBefore c).isEmpty && !s.requestsOut && s.mem.stalled.isEmpty) := by
  show (((accept s c op).submittedBefore c).isEmpty && !(accept s c op).requestsOut && (accept s c op).mem.stalled.isEmpty) = _
  rw [State.requestsOut, (accept_frame ..).fab, (accept_frame ..).mem]
  rfl

/-- An accepted STROKE_END is started when it has entered the barrier. -/
theorem enterBarrier_started (s : State) (c : CmdCtx) (op : Nat) (stroke : U64) :
    (enterBarrier (accept s c op) c stroke).started c :=
  markStarted_started (s := { accept s c op with stroke := _ }) (accept_outstanding ..)

end Sys2Proof.Machine

open Sys2Proof Sys2Proof.Machine

/-- Settles O30: STROKE_END is refused by what it finds, or enters the barrier and arrives when it may. -/
theorem strokeEndEntersTheBarrier : Obligations.StrokeEndEntersTheBarrier := by
  unfold Obligations.StrokeEndEntersTheBarrier
  intro s c stroke h
  refine ⟨exec_strokeEnd_outstanding h, exec_strokeEnd_otherStroke h, fun hentered hcount =>
    ⟨_, exec_strokeEnd_enters h hentered hcount, ?_⟩⟩
  set w := enterBarrier (accept s c 0x43) c stroke
  have hin : w.stroke.entered ≠ none := Option.some_ne_none (c, stroke)
  have hstroke : (tryArrive w).stroke = { w.stroke with arrived := w.mayArrive } := tryArrive_stroke hin rfl
  have hsent := tryArrive_sent (s := w) hin rfl
  have hkept : w.stroke.count = s.stroke.count := by
    show (accept s c 0x43).stroke.count = _
    rw [(accept_frame ..).stroke]
  have hstarted := enterBarrier_started s c 0x43 stroke
  have hregs := (tryArrive_frame w).2
  obtain ⟨k, r, o, heq⟩ := (tryArrive_frame w).1
  refine ⟨?_, ?_, ?_, ?_, ?_, ?_, ?_, hregs⟩
  · rw [heq]
    exact hstarted
  · rw [hstroke]
    rfl
  · rw [hstroke]
    rfl
  · rw [hstroke]
    exact hkept
  · rw [hstroke]
    exact mayArrive_enterBarrier ..
  · rw [hsent, hstroke, hkept, hcount]
    exact congrArg (· ++ _) (accept_frame s c 0x43).sent
  · rw [heq]
    rfl
end

section
/-! The end of the stroke barrier: what its completion changes, the snapshot that a generation takes first, the second round, and
the report of a slow barrier (R272, R273, R275, R352, R477). -/

namespace Sys2Proof.Machine

/-! ## The mirror and the end of the barrier (R272, R273) -/

/-- Setting a sync counter stores it, and may take a catch (R596). -/
theorem syncSet_frame (s : State) (c v : Nat) : EventFrame (storeSync s c v) (syncSet s c v) := by
  unfold syncSet syncCatch
  split
  · exact (frame_setRegBit _ _ _ (by decide)).trans (takeCatch_frame ..)
  · exact EventFrame.refl _

/-- The stroke and the time waited since the arrival are counted (Table 8.2). -/
def countStroke (v : State) : State := bump (bump v strokeBase 0 1) strokeBase 1 (v.tim.now.toNat - v.reg64 (strokeBase + 0x10))

theorem countStroke_frame (v : State) : EventFrame v (countStroke v) :=
  (bump_frame v 1 (by decide)).trans (bump_frame _ _ (by decide))

/-- The mirror counter takes STROKE, and the stroke's catch is taken if it is asked for. -/
def mirrorStroke (v : State) : State :=
  let s := syncSet v 16383 v.stroke.count.toNat
  if s.regBit (strokeBase + 0xC) 16 then takeCatch s 5 else s

theorem mirrorStroke_frame (v : State) : EventFrame (storeSync v 16383 v.stroke.count.toNat) (mirrorStroke v) := by
  unfold mirrorStroke
  simp only
  split
  · exact (syncSet_frame ..).trans (takeCatch_frame ..)
  · exact syncSet_frame ..

/-- The state in which the barrier's STROKE_END completes. -/
def endBarrier (v : State) : State :=
  { (mirrorStroke (countStroke v)).setReg64 (strokeBase + 0x18) v.tim.now.toNat with
    stroke := { v.stroke with entered := none, after := [], arrived := false, slowSent := false, secondRound := false } }

/-- The end of the barrier completes its STROKE_END. -/
theorem finishBarrier_eq {v : State} {c : CmdCtx} {n : U64} (h : v.stroke.entered = some (c, n)) :
    finishBarrier v = finish (endBarrier v) c 0 0 := by
  have hcounted := (countStroke_frame v).ring
  have hmirrored := (mirrorStroke_frame (countStroke v)).ring
  let m := mirrorStroke (countStroke v)
  have hstroke : m.stroke = v.stroke := hmirrored.stroke.trans hcounted.stroke
  have htim : m.tim = v.tim := hmirrored.tim.trans hcounted.tim
  show (match (m.setReg64 (strokeBase + 0x18) m.tim.now.toNat).stroke.entered with
    | none => _
    | some (c, _) => finish { m.setReg64 (strokeBase + 0x18) m.tim.now.toNat with
        stroke := { m.stroke with entered := none, after := [], arrived := false, slowSent := false, secondRound := false } } c 0 0) = _
  simp only [State.setReg64_stroke, hstroke, h, htim]
  rfl

/-- `u` is `b` with the barrier over: nobody is in it, the mirror counter shows STROKE, and the end's time is recorded. -/
structure BarrierOver (b u : State) : Prop where
  same    : u = { b with stroke := u.stroke, sync := u.sync, regs := u.regs, hostMem := u.hostMem, hif := u.hif, ckpt := u.ckpt }
  entered : u.stroke.entered = none
  after   : u.stroke.after = []
  arrived : u.stroke.arrived = false
  round   : u.stroke.secondRound = false
  mirror  : u.syncVal 16383 = u.stroke.count.toNat
  sync    : ∀ k, k ≠ 16383 → u.syncVal k = b.syncVal k
  time    : u.reg64 (strokeBase + 0x18) = b.tim.now.toNat
  regs    : ∀ o, eventReg o = false → o ≠ strokeBase + 0x18 → o ≠ strokeBase + 0x1C → u.reg o = b.reg o

/-- A sync counter reads the same in two states that hold the same counters. -/
theorem syncVal_congr {s t : State} (h : t.sync = s.sync) (k : Nat) : t.syncVal k = s.syncVal k := by
  rw [State.syncVal, h]
  rfl

theorem endBarrier_over (v : State) : BarrierOver v (endBarrier v) := by
  have hcounted := countStroke_frame v
  have hmirrored := mirrorStroke_frame (countStroke v)
  have hsync (k : Nat) : (endBarrier v).syncVal k = (storeSync (countStroke v) 16383 v.stroke.count.toNat).syncVal k := by
    rw [← hcounted.ring.stroke]
    exact syncVal_congr hmirrored.ring.sync k
  refine ⟨?_, rfl, rfl, rfl, rfl, ?_, fun k hk => ?_, ?_, fun o he h h4 => ?_⟩
  · obtain ⟨_, _, _, e1⟩ := hcounted.ring.same
    obtain ⟨_, _, _, e2⟩ := hmirrored.ring.same
    rw [endBarrier, e2, e1]
    rfl
  · rw [hsync, State.syncVal_storeSync_self]
    exact Nat.mod_eq_of_lt v.stroke.count.isLt
  · rw [hsync, State.syncVal_storeSync_ne _ _ hk]
    exact syncVal_congr hcounted.ring.sync k
  · exact State.reg64_setReg64_self _ _ _ v.tim.now.isLt
  · exact (State.reg_setReg64_ne _ _ h h4).trans ((hmirrored.regs o he).trans (hcounted.regs o he))

theorem endBarrier_ckpt (v : State) : (endBarrier v).ckpt = v.ckpt :=
  (mirrorStroke_frame (countStroke v)).ring.ckpt.trans (countStroke_frame v).ring.ckpt

/-- What is counted before the end, and how far the stroke and the checkpoint stand then, do not matter to it. -/
theorem BarrierOver.of_frame {s v u : State} {k : Stroke} {p : Ckpt} (hv : EventFrame { s with stroke := k, ckpt := p } v)
    (h : BarrierOver v u) : BarrierOver s u := by
  have hsync (j : Nat) : v.syncVal j = s.syncVal j := syncVal_congr (s := s) hv.ring.sync j
  have htim : v.tim = s.tim := hv.ring.tim
  refine ⟨?_, h.entered, h.after, h.arrived, h.round, h.mirror, fun j hj => (h.sync j hj).trans (hsync j), ?_,
    fun o he h18 h1C => (h.regs o he h18 h1C).trans (hv.regs o he)⟩
  · have hsame := h.same
    obtain ⟨_, _, _, e⟩ := hv.ring.same
    rw [e] at hsame
    exact hsame
  · rw [h.time, htim]

/-! ## The barrier completes -/

/-- The stroke and the checkpoint's count of strokes once every member has arrived (R272). -/
def advanceStroke (s : State) : State :=
  { s with stroke := { s.stroke with count := s.stroke.count + 1 },
           ckpt := { s.ckpt with strokesSince := s.ckpt.strokesSince + 1 } }

section
variable {s : State} {c : CmdCtx} {n : U64} (hp : s.pins.powered = true) (hentered : s.stroke.entered = some (c, n))
  (harrived : s.stroke.arrived = true) (hround : s.stroke.secondRound = false)
include hp hentered harrived hround

/-- Without a generation the barrier ends at once; a trigger that is due meanwhile may be counted as deferred (R476). -/
theorem exec_strokeBarrierComplete_finishes {g : Bool}
    (hg : g = false ∨ s.ckptPlan = none ∨ s.ckpt.inProgress ≠ none ∨ s.ckpt.restoring = true) :
    ∃ deferred : Bool, exec (.strokeBarrierComplete g) s =
      .next (finishBarrier (if deferred then bump (advanceStroke s) ckptBase 4 1 else advanceStroke s)) := by
  show ∃ _, execStrokeBarrierComplete g s = _
  rw [execStrokeBarrierComplete, powered_on _ hp, if_neg (by simp [hentered, harrived, hround])]
  cases hplan : s.ckptPlan with
  | none =>
    refine ⟨false, ?_⟩
    show Host.Outcome.next (match s.ckptPlan with | none => finishBarrier (advanceStroke s) | some p => _) = _
    rw [hplan]
    rfl
  | some p =>
    have hno : ¬(g && !(s.ckpt.inProgress.isSome || s.ckpt.restoring)) = true := by
      rcases hg with rfl | hnone | hbusy | hrestoring
      · exact Bool.false_ne_true
      · exact absurd (hplan.symm.trans hnone) (Option.some_ne_none p)
      · simp [Option.isSome_iff_ne_none.2 hbusy]
      · simp [hrestoring]
    refine ⟨(s.ckpt.inProgress.isSome || s.ckpt.restoring) && (advanceStroke s).generationDue p, ?_⟩
    show Host.Outcome.next (match s.ckptPlan with | none => finishBarrier (advanceStroke s) | some p => _) = _
    rw [hplan]
    exact congrArg _ (if_neg hno)

theorem exec_strokeBarrierComplete_ends {g : Bool}
    (hg : g = false ∨ s.ckptPlan = none ∨ s.ckpt.inProgress ≠ none ∨ s.ckpt.restoring = true) :
    ∃ v, EventFrame (advanceStroke s) v ∧ exec (.strokeBarrierComplete g) s = .next (finish (endBarrier v) c 0 0) := by
  obtain ⟨deferred, hexec⟩ := exec_strokeBarrierComplete_finishes hp hentered harrived hround hg
  generalize hv : (if deferred then bump (advanceStroke s) ckptBase 4 1 else advanceStroke s) = v at hexec
  have hframe : EventFrame (advanceStroke s) v := by
    rw [← hv]
    split
    · exact bump_frame _ _ (by decide)
    · exact EventFrame.refl _
  have hin : v.stroke.entered = some (c, n) := by
    rw [hframe.ring.stroke]
    exact hentered
  exact ⟨v, hframe, by rw [hexec, finishBarrier_eq hin]⟩

/-- With a generation the member takes SNAP and waits for the second round (R352, R477). -/
theorem exec_strokeBarrierComplete_snaps {p : CkptPlan} (hplan : s.ckptPlan = some p)
    (hidle : s.ckpt.inProgress = none) (hrestored : s.ckpt.restoring = false) :
    exec (.strokeBarrierComplete true) s = .next { takeSnap (advanceStroke s) with
      stroke := { (takeSnap (advanceStroke s)).stroke with secondRound := true } } := by
  show execStrokeBarrierComplete true s = _
  rw [execStrokeBarrierComplete, powered_on _ hp, if_neg (by simp [hentered, harrived, hround])]
  show Host.Outcome.next (match s.ckptPlan with | none => _ | some p => _) = _
  rw [hplan]
  exact congrArg _ (if_pos (by simp [hidle, hrestored]))

end

theorem exec_barrierSecondRound {s : State} {c : CmdCtx} {n : U64} (hp : s.pins.powered = true)
    (hentered : s.stroke.entered = some (c, n)) (hround : s.stroke.secondRound = true) :
    exec .barrierSecondRound s = .next (finish (endBarrier s) c 0 0) := by
  show execBarrierSecondRound s = _
  rw [execBarrierSecondRound, powered_on _ hp, if_pos hround, finishBarrier_eq hentered]

/-! ## The slow barrier (R275) -/

theorem exec_strokeSlow_reports {s : State} {e : CmdCtx × U64} (hp : s.pins.powered = true) (hentered : s.stroke.entered = some e)
    (harrived : s.stroke.arrived = true) (hslow : s.stroke.slowSent = false) (hms : bitsOf (s.reg (strokeBase + 0xC)) 15 0 ≠ 0)
    (hlate : s.reg64 (strokeBase + 0x10) + 1000000 * bitsOf (s.reg (strokeBase + 0xC)) 15 0 < s.tim.now.toNat) :
    exec .strokeSlow s = .next (raise (bump { s with stroke := { s.stroke with slowSent := true } } strokeBase 3 1)
      0x4470 srcPmc 0 s.stroke.count.toNat) := by
  show execStrokeSlow s = _
  rw [execStrokeSlow, powered_on _ hp]
  exact congrArg _ (if_neg (by simp [hentered, harrived, hslow, hms, hlate]))

theorem exec_strokeSlow_quiet {s : State} (hp : s.pins.powered = true)
    (hquiet : s.stroke.slowSent = true ∨ bitsOf (s.reg (strokeBase + 0xC)) 15 0 = 0 ∨
      s.tim.now.toNat ≤ s.reg64 (strokeBase + 0x10) + 1000000 * bitsOf (s.reg (strokeBase + 0xC)) 15 0) :
    exec .strokeSlow s = .next s := by
  show execStrokeSlow s = _
  rw [execStrokeSlow, powered_on _ hp]
  refine congrArg _ (if_pos ?_)
  rcases hquiet with h | h | h <;> simp [h]

/-! ## What a snapshot sends and takes (R352, R477, R478) -/

/-- `t` is `s` but for what sending to a buddy and writing a host store may change. -/
def StoreSendFrame (s t : State) : Prop := ∃ f o r m h, t = { s with fab := f, sent := o, regs := r, hostMem := m, hif := h }

theorem StoreSendFrame.refl (s : State) : StoreSendFrame s s := ⟨s.fab, s.sent, s.regs, s.hostMem, s.hif, rfl⟩

theorem StoreSendFrame.trans {s t u : State} (h1 : StoreSendFrame s t) (h2 : StoreSendFrame t u) : StoreSendFrame s u := by
  obtain ⟨_, _, _, _, _, rfl⟩ := h1
  obtain ⟨_, _, _, _, _, rfl⟩ := h2
  exact ⟨_, _, _, _, _, rfl⟩

theorem SameBut.storeSend {s t : State} (h : SameBut s t) : StoreSendFrame s t := by
  obtain ⟨_, _, _, _, _, _, _, _, rfl⟩ := h
  exact ⟨_, _, _, _, _, rfl⟩

theorem setTx_storeSend (s : State) (x : TxSpace) : StoreSendFrame s (setTx s x) := ⟨_, _, _, _, _, rfl⟩

theorem launchReq_storeSend (s : State) (r : TxReq) (p : Nat) : StoreSendFrame s (launchReq s r p) := by
  unfold launchReq transmitReq emitPacket
  exact .trans ⟨_, _, _, _, _, rfl⟩ (same_bump ..).storeSend

/-- A request is held behind a drain, queued, or sent. -/
theorem sendReq_storeSend (s : State) (r : TxReq) : StoreSendFrame s (sendReq s r) := by
  unfold sendReq
  simp only
  split
  · exact ⟨_, _, _, _, _, rfl⟩
  · split
    · split
      · exact launchReq_storeSend ..
      · exact setTx_storeSend ..
    · exact setTx_storeSend ..

theorem sendBulk_storeSend (dst : U16) (key : Nat) (pre data : List Byte) (off lines : Nat) (o : Origin) (s : State) :
    StoreSendFrame s (sendBulk s dst key pre data off lines o) := by
  unfold sendBulk
  generalize bulkPackets lines off lines = l
  induction l generalizing s with
  | nil => exact .refl s
  | cons p r ih => exact (sendReq_storeSend s _).trans (ih _)

theorem sendBuddy_storeSend (s : State) (p : CkptPlan) (xfer off : Nat) (bs : List Byte) :
    StoreSendFrame s (sendBuddy s p xfer off bs) := by
  unfold sendBuddy
  split
  · exact .refl s
  · exact sendBulk_storeSend ..

/-- The counters as SNAP latches them: the mirror shows STROKE (Table 14.6, step 1). -/
def latchedCounters (s : State) : List (Nat × U64) :=
  if s.stroke.count = 0 then kvErase s.sync.counters 16383 else kvSet s.sync.counters 16383 s.stroke.count

theorem latchedCounters_mirror (s : State) : kvGetD (latchedCounters s) 16383 0 = s.stroke.count := by
  unfold latchedCounters kvGetD
  split
  · next h =>
    rw [kvGet_kvErase_self, h]
    rfl
  · rw [kvGet_kvSet_self]
    rfl

theorem latchedCounters_ne (s : State) {k : Nat} (h : k ≠ 16383) : kvGet (latchedCounters s) k = kvGet s.sync.counters k := by
  unfold latchedCounters
  split
  · exact kvGet_kvErase_ne _ h
  · exact kvGet_kvSet_ne _ _ h

/-- `t` is `s` once SNAP is taken: the live bitmap is the pending one, the window is open, and the generation is under way. -/
structure SnapTaken (s t : State) : Prop where
  mem        : t.mem = { s.mem with ckptPend := s.mem.dirty, dirty := [], windowOpen := true, counterSnap := latchedCounters s }
  inProgress : t.ckpt.inProgress = some (BitVec.ofNat 64 (s.ckpt.gen.toNat + 1))
  snapStroke : t.ckpt.snapStroke = s.stroke.count
  lastSnap   : t.ckpt.lastSnap = s.tim.now
  stroke     : t.stroke = s.stroke
  tiles      : t.tiles = s.tiles
  sync       : t.sync = s.sync

/-- What a snapshot sends changes nothing that it has taken. -/
theorem SnapTaken.storeSend {s t u : State} (h : SnapTaken s t) (hu : StoreSendFrame t u) : SnapTaken s u := by
  obtain ⟨_, _, _, _, _, rfl⟩ := hu
  exact ⟨h.mem, h.inProgress, h.snapStroke, h.lastSnap, h.stroke, h.tiles, h.sync⟩

/-- The slots of the host store are no part of what a snapshot takes. -/
theorem SnapTaken.hostSlots {s t : State} (h : SnapTaken s t) (l : List StoreSlot) :
    SnapTaken s { t with ckpt := { t.ckpt with host := l } } :=
  ⟨h.mem, h.inProgress, h.snapStroke, h.lastSnap, h.stroke, h.tiles, h.sync⟩

theorem takeSnap_taken (s : State) : SnapTaken s (takeSnap s) := by
  unfold takeSnap
  simp only
  split
  · exact ⟨rfl, rfl, rfl, rfl, rfl, rfl, rfl⟩
  · next p _ =>
    generalize hsent : sendBuddy _ p _ _ _ = t
    have ht : SnapTaken s t := by
      rw [← hsent]
      refine SnapTaken.storeSend ?_ (sendBuddy_storeSend ..)
      exact ⟨rfl, rfl, rfl, rfl, rfl, rfl, rfl⟩
    split
    · exact (ht.hostSlots _).storeSend ⟨_, _, _, _, _, rfl⟩
    · exact ht

end Sys2Proof.Machine

open Sys2Proof Sys2Proof.Machine

/-- Settles O36: the barrier ends at once or behind the second round, a generation takes its snapshot first, and a slow barrier is
reported once. -/
theorem strokeBarrierCompletes : Obligations.StrokeBarrierCompletes := by
  unfold Obligations.StrokeBarrierCompletes
  intro s c n hp hentered ended
  have hended {u : State} (h : BarrierOver s u) : ended s u :=
    ⟨h.same, h.entered, h.after, h.arrived, h.round, h.mirror, h.sync, h.time, h.regs⟩
  refine ⟨fun harrived hround => ⟨fun g hg => ?_, fun p hplan hidle hrestored => ?_⟩, fun hround => ?_,
    exec_strokeSlow_reports hp hentered, exec_strokeSlow_quiet hp⟩
  · obtain ⟨v, hframe, hexec⟩ := exec_strokeBarrierComplete_ends hp hentered harrived hround hg
    refine ⟨endBarrier v, hexec, hended ((endBarrier_over v).of_frame hframe), ?_, ?_⟩
    · show v.stroke.count = _
      rw [hframe.ring.stroke]
      rfl
    · rw [endBarrier_ckpt, hframe.ring.ckpt]
      rfl
  · have h := takeSnap_taken (advanceStroke s)
    refine ⟨_, exec_strokeBarrierComplete_snaps hp hentered harrived hround hplan hidle hrestored, ?_, ?_, ?_, ?_, ?_, ?_,
      fun k hk => ?_, h.inProgress, h.snapStroke, h.lastSnap, h.tiles, h.sync⟩
    · rw [h.stroke]
      rfl
    · rw [h.mem]
      rfl
    · rw [h.mem]
    · rw [h.mem]
    · rw [h.mem]
      rfl
    · rw [h.mem]
      exact latchedCounters_mirror (advanceStroke s)
    · rw [h.mem]
      exact latchedCounters_ne (advanceStroke s) hk
  · exact ⟨endBarrier s, exec_barrierSecondRound hp hentered hround, hended (endBarrier_over s), rfl, endBarrier_ckpt s⟩
end

section
/-! STEER_RUN: an idle or stopped core takes a program with its argument words (R286). -/

namespace Sys2Proof.Machine

/-- The status that refuses a program on a core, or 0 (R286, Table 9.8). -/
def State.launchFault (s : State) (k : Nat) (entry : U64) : Nat :=
  if s.coresActive ≤ k then 0x8686
  else if (s.core k).phase = .running ∨ (s.core k).phase = .held then 0x8681
  else if (s.core k).phase = .faulty then 0x8684
  else if entry.toNat % 4 ≠ 0 then 0x8102
  else 0

/-- The argument words of a program in a block that was read. -/
def argWords (bs : List Byte) : List U64 := (List.range 8).map (fun j => BitVec.ofNat 64 (fieldLE bs (8 * j) 8))

/-- A program has been launched on a core, behind the read of its arguments. -/
def launchOn (r : State) (k : Nat) (entry stack : U64) (bs : List Byte) (c : CmdCtx) : State :=
  markStarted (r.modCore k (fun x => launchCore x entry stack (argWords bs) c (r.phaseOf c))) c

@[simp] theorem markStarted_core (s : State) (c : CmdCtx) (k : Nat) : (markStarted s c).core k = s.core k := rfl

theorem launchOn_core_self (r : State) (k : Nat) (entry stack : U64) (bs : List Byte) (c : CmdCtx) :
    (launchOn r k entry stack bs c).core k = launchCore (r.core k) entry stack (argWords bs) c (r.phaseOf c) := by
  rw [launchOn, markStarted_core, State.core_modCore_self]

theorem launchOn_core_ne (r : State) {k m : Nat} (entry stack : U64) (bs : List Byte) (c : CmdCtx) (h : m ≠ k) :
    (launchOn r k entry stack bs c).core m = r.core m := by
  rw [launchOn, markStarted_core, State.core_modCore_ne _ _ h]

/-- The fault of a launch rests on the cores and on the map of their physical ones. -/
theorem launchFault_congr {s u : State} (hrig : u.rig = s.rig) (hcores : u.cores = s.cores) (k : Nat) (entry : U64) :
    u.launchFault k entry = s.launchFault k entry := by
  unfold State.launchFault State.coresActive State.core
  rw [hrig, hcores]

section
variable {s : State} {c : CmdCtx} {entry stack args : U64} {core : U16}
  (hturn : AtTurn s c 0x0021 [opnd 8 8 entry.toNat, opnd 0x10 8 stack.toNat, opnd 0x18 8 args.toNat, opnd 0x20 2 core.toNat])
  (hheld : core.toNat < s.coresActive → s.rangeHeld args.toNat 64 = false)
include hturn hheld

/-- A program that is refused completes its command with the status. -/
theorem exec_steerRun_refused {st : Nat} (hfault : s.launchFault core.toNat entry = st) (hst : st ≠ 0) :
    CompletesIn (.steerRun c entry stack args core) c s (accept s c 0x21) st 0 := by
  have haccepted := accept_frame s c 0x21
  rw [← launchFault_congr haccepted.rig haccepted.cores] at hfault
  show execSteerRun c entry stack args core s = _
  unfold execSteerRun
  rw [if_neg (by simpa using hheld)]
  refine (onRing_ready _ hturn.1 hturn.2).trans (congrArg (fun u => Host.Outcome.next (afterCommand u c)) ?_)
  unfold State.launchFault at hfault
  split_ifs at hfault with hactive hbusy hfaulty halign <;> subst hfault <;> simp_all

/-- A program that is not refused starts once its arguments have been read. -/
theorem exec_steerRun_started {r : State} {bs : List Byte} (hfault : s.launchFault core.toNat entry = 0)
    (hread : readVA (accept s c 0x21) agentHost args.toNat 64 = (r, 0, bs)) :
    StartsIn (.steerRun c entry stack args core) c s (launchOn r core.toNat entry stack bs c) := by
  have haccepted := accept_frame s c 0x21
  rw [← launchFault_congr haccepted.rig haccepted.cores] at hfault
  show execSteerRun c entry stack args core s = _
  unfold execSteerRun
  rw [if_neg (by simpa using hheld)]
  refine (onRing_ready _ hturn.1 hturn.2).trans (congrArg (fun u => Host.Outcome.next (afterCommand u c)) ?_)
  unfold State.launchFault at hfault
  split_ifs at hfault with hactive hbusy hfaulty halign
  simp_all [launchOn, argWords]

end
end Sys2Proof.Machine

open Sys2Proof Sys2Proof.Machine

/-- Settles O27: a launch is refused by the first of its faults, and without one the read of its arguments changes no core. -/
theorem steerRunLaunchesACore : Obligations.SteerRunLaunchesACore := by
  unfold Obligations.SteerRunLaunchesACore
  intro s c entry stack args core k i free v hturn
  have hrefuse {st : Nat} (hheld : k < s.coresActive → s.rangeHeld args.toNat 64 = false) (hfault : s.launchFault k entry = st)
      (hst : st ≠ 0) : CompletesIn i c s v st 0 := exec_steerRun_refused hturn hheld hfault hst
  refine ⟨fun hinactive => ?_, fun hactive hheld => ⟨fun hbusy => ?_, fun hfaulty => ?_, fun hfree hmisaligned => ?_, ?_⟩⟩
  · exact hrefuse (fun h => absurd hinactive (Nat.not_le.2 h)) (if_pos hinactive) (by decide)
  · exact hrefuse (fun _ => hheld) (by simp [State.launchFault, Nat.not_le.2 hactive, hbusy]) (by decide)
  · exact hrefuse (fun _ => hheld) (by simp [State.launchFault, Nat.not_le.2 hactive, hfaulty]) (by decide)
  · refine hrefuse (fun _ => hheld) ?_ (by decide)
    rcases hfree with h | h <;> simp [State.launchFault, Nat.not_le.2 hactive, h, hmisaligned]
  · intro hfree haligned r hread
    have hfault : s.launchFault k entry = 0 := by
      rcases hfree with h | h <;> simp [State.launchFault, Nat.not_le.2 hactive, h, haligned]
    have hstarts := exec_steerRun_started hturn (fun _ => hheld) hfault (r := r.1) (bs := r.2.2) (Prod.ext rfl (Prod.ext hread rfl))
    have hkept : ReadFrame v r.1 := readVA_read v agentHost args.toNat 64
    have hcores : r.1.cores = s.cores := hkept.cores.trans (accept_frame s c 0x21).cores
    have hcore (m : Nat) : r.1.core m = s.core m := congrArg (kvGetD · m Core.reset) hcores
    have hlaunched : (launchOn r.1 k entry stack r.2.2 c).core k =
        launchCore (s.core k) entry stack (argWords r.2.2) c (r.1.phaseOf c) := by
      rw [launchOn_core_self, hcore]
    refine ⟨_, hstarts, ?_, rfl, ?_⟩
    · refine markStarted_started (s := r.1.modCore k _) ?_
      rw [State.modCore_hif, hkept.outCmds]
      exact accept_outstanding s c 0x21
    · rw [hlaunched]
      exact ⟨rfl, rfl, rfl, rfl, rfl, rfl, rfl, rfl, rfl, rfl, rfl,
        fun m hm => (launchOn_core_ne _ _ _ _ _ hm).trans (hcore m)⟩
end

section
/-! What an instruction of a steering core changes: its core, counting and free values (R286, R296, R297). -/

namespace Sys2Proof.Machine

/-! ## The frame of a core -/

theorem EventFrame.core {v u : State} (c : BitVec 8) (h : EventFrame v u) : CoreFrame c v u := by
  refine ⟨?_, fun k _ => ?_, h.regs, h.host⟩
  · obtain ⟨_, _, _, _, _, _, _, _, hu⟩ := h.same
    rw [hu]
  · simp only [State.core, h.ring.cores]

theorem CoreFrame.refl (c : BitVec 8) (s : State) : CoreFrame c s s := ⟨rfl, fun _ _ => rfl, fun _ _ => rfl, fun _ _ => rfl⟩

theorem CoreFrame.trans {c : BitVec 8} {s t u : State} (h1 : CoreFrame c s t) (h2 : CoreFrame c t u) : CoreFrame c s u := by
  refine ⟨?_, fun k hk => (h2.cores k hk).trans (h1.cores k hk), fun o ho => (h2.regs o ho).trans (h1.regs o ho),
    fun a ha => (h2.host a ((inEventRing_congr h1.regs a).trans ha)).trans (h1.host a ha)⟩
  rw [h2.same, h1.same]

theorem modCore_coreFrame (c : BitVec 8) (s : State) (f : Core → Core) : CoreFrame c s (s.modCore c.toNat f) :=
  ⟨rfl, fun _ hk => State.core_modCore_ne _ _ hk, fun _ _ => rfl, fun _ _ => rfl⟩

theorem free_coreFrame (c : BitVec 8) (s : State) (n : Nat) : CoreFrame c s { s with free := n } :=
  ⟨rfl, fun _ _ => rfl, fun _ _ => rfl, fun _ _ => rfl⟩

theorem CoreFrame.rig {c : BitVec 8} {s u : State} (h : CoreFrame c s u) : u.rig = s.rig := by rw [h.same]
theorem CoreFrame.job {c : BitVec 8} {s u : State} (h : CoreFrame c s u) : u.job = s.job := by rw [h.same]
theorem CoreFrame.mem {c : BitVec 8} {s u : State} (h : CoreFrame c s u) : u.mem = s.mem := by rw [h.same]
theorem CoreFrame.fab {c : BitVec 8} {s u : State} (h : CoreFrame c s u) : u.fab = s.fab := by rw [h.same]

/-! ## A core's counters -/

/-- A logical core stands on a physical one, whose registers the package has (Table 1.10). -/
def State.HasCore (s : State) (c : Nat) : Prop := ∃ p, p < 104 ∧ s.physCore c = some p

theorem hasCore_of_rig {s u : State} {c : Nat} (h : s.HasCore c) (hrig : u.rig = s.rig) : u.HasCore c := by
  unfold State.HasCore State.physCore at *
  rwa [hrig]

theorem coreRegs_congr {s u : State} (hrig : u.rig = s.rig) (c : Nat) : u.coreRegs c = s.coreRegs c := by
  unfold State.coreRegs State.physCore
  rw [hrig]

theorem coreBase_counter : ∀ p < 104, ∀ n < 8, IsCounter (coreBase p) n := by decide +kernel

theorem State.HasCore.counter {s : State} {c n : Nat} (h : s.HasCore c) (hn : n < 8) : IsCounter (s.coreRegs c) n := by
  obtain ⟨p, hp, hphys⟩ := h
  simpa only [State.coreRegs, hphys, Option.getD_some] using coreBase_counter p hp n hn

@[simp] theorem bumpClocks_core (s : State) (g n c : Nat) : (bumpClocks s g n).core c = s.core c := bump_core ..
@[simp] theorem bumpClocks_rig (s : State) (g n : Nat) : (bumpClocks s g n).rig = s.rig := bump_rig ..
@[simp] theorem coreTime_core (s : State) (c k : Nat) : (coreTime s c).core k = s.core k := by simp [coreTime]
@[simp] theorem coreTime_rig (s : State) (c : Nat) : (coreTime s c).rig = s.rig := by simp [coreTime]

theorem bumpClocks_coreFrame (c : BitVec 8) (s : State) {g n : Nat} (h : IsCounter g n) : CoreFrame c s (bumpClocks s g n) :=
  (free_coreFrame c s _).trans ((bump_frame _ _ h).core c)

/-! ## A step of a core -/

/-- `u` is `s` but for counting, free values and core `c`, which is now `y`. -/
structure CoreStep (c : BitVec 8) (s u : State) (y : Core) : Prop where
  frame : CoreFrame c s u
  core  : u.core c.toNat = y

namespace CoreStep

variable {c : BitVec 8} {s u : State} {y : Core}

theorem refl (c : BitVec 8) (s : State) : CoreStep c s s (s.core c.toNat) := ⟨CoreFrame.refl c s, rfl⟩

theorem mod (h : CoreStep c s u y) (f : Core → Core) : CoreStep c s (u.modCore c.toNat f) (f y) :=
  ⟨h.frame.trans (modCore_coreFrame c u f), by rw [State.core_modCore_self, h.core]⟩

theorem free (h : CoreStep c s u y) (n : Nat) : CoreStep c s { u with free := n } y := ⟨h.frame.trans (free_coreFrame c u n), h.core⟩

theorem hasCore (h : CoreStep c s u y) (hp : s.HasCore c.toNat) : u.HasCore c.toNat := hasCore_of_rig hp h.frame.rig

theorem count (h : CoreStep c s u y) (hp : s.HasCore c.toNat) {n : Nat} (k : Nat) (hn : n < 8) :
    CoreStep c s (bump u (u.coreRegs c.toNat) n k) y :=
  ⟨h.frame.trans ((bump_frame u k ((h.hasCore hp).counter hn)).core c), (bump_core ..).trans h.core⟩

theorem clocks (h : CoreStep c s u y) (hp : s.HasCore c.toNat) {n : Nat} (hn : n < 8) :
    CoreStep c s (bumpClocks u (u.coreRegs c.toNat) n) y :=
  ⟨h.frame.trans (bumpClocks_coreFrame c u ((h.hasCore hp).counter hn)), (bumpClocks_core ..).trans h.core⟩

theorem time (h : CoreStep c s u y) (hp : s.HasCore c.toNat) : CoreStep c s (coreTime u c.toNat) y := by
  have hclocks := (h.clocks hp (n := 0) (by decide)).clocks hp (n := 6) (by decide)
  rwa [coreRegs_congr (bumpClocks_rig ..)] at hclocks

/-- An instruction that completes is counted, and at U the program counter moves on. -/
theorem retire (h : CoreStep c s u y) (hp : s.HasCore c.toNat) : CoreStep c s (retire u c.toNat) y.moved := by
  have hcount := ((h.mod Core.moved).time hp).count hp (n := 1) 1 (by decide)
  rwa [coreRegs_congr (coreTime_rig ..), coreRegs_congr (State.modCore_rig ..)] at hcount

theorem passes (h : CoreStep c s u y) (hp : s.HasCore c.toNat) (n : Option Nat) : CoreStep c s (countPasses u c.toNat n) y := by
  unfold countPasses
  cases n with
  | some n =>
    dsimp only
    split
    · exact h
    · exact h.count hp n (by decide)
  | none => exact h.clocks hp (by decide)

/-- A vector instruction that completes leaves VRESUME at 0. -/
theorem done (h : CoreStep c s u y) (hp : s.HasCore c.toNat) (b : Nat) (n : Option Nat) :
    CoreStep c s (doneSpan u c.toNat b n) (y.setVresume 0).moved := by
  have hpass := ((h.mod fun x => x.setVresume 0).retire hp).passes hp n
  unfold doneSpan
  dsimp only
  split
  · exact hpass
  · exact hpass.count hp 1 (by decide)

end CoreStep

/-! ## A core's registers -/

section
variable (x : Core)
@[simp] theorem Core.moved_irqAt : x.moved.irqAt = x.irqAt := by unfold Core.moved; split <;> rfl
@[simp] theorem Core.setVresume_irqAt (i : Nat) : (x.setVresume i).irqAt = x.irqAt := by unfold Core.setVresume; split <;> rfl
@[simp] theorem Core.setVresume_trap (i : Nat) : (x.setVresume i).trap = x.trap := by unfold Core.setVresume; split <;> rfl
@[simp] theorem Core.setG_irqAt (i : BitVec 5) (v : U64) : (x.setG i v).irqAt = x.irqAt := by unfold Core.setG; split <;> rfl
@[simp] theorem Core.setF_irqAt (i : BitVec 5) (v : U64) : (x.setF i v).irqAt = x.irqAt := rfl
@[simp] theorem Core.stick_irqAt (n : Nat) : (x.stick n).irqAt = x.irqAt := rfl
@[simp] theorem Core.setElem_irqAt (ew n i v : Nat) : (x.setElem ew n i v).irqAt = x.irqAt := rfl
@[simp] theorem Core.setMask_irqAt (k : Nat) (v : BitVec 512) : (x.setMask k v).irqAt = x.irqAt := by unfold Core.setMask; split <;> rfl
end

/-! ## The shape of a core's command -/

section
variable {c : BitVec 8} {s : State}

theorem takeIrq_none {u : State} {k : Nat} (h : (u.core k).irqAt = none) : takeIrq u k = u := by simp [takeIrq, h]

/-- A core that can run does so, and then looks for an interrupt. -/
theorem onCore_runs (h : CoreAt s c) (body : State → State) : onCore c s body = .next (takeIrq (body s) c.toNat) := by
  unfold onCore
  rw [powered_on _ h.powered]
  simp [h.live, h.word]

theorem onCore_plain (h : CoreAt s c) {body : State → State} (hirq : ((body s).core c.toNat).irqAt = none) :
    onCore c s body = .next (body s) := by
  rw [onCore_runs h, takeIrq_none hirq]

/-- A command that runs on its core, from what its body does. -/
theorem onCore_step (h : CoreAt s c) {body : State → State} {y : Core} (hbody : CoreStep c s (body s) y) (hirq : y.irqAt = none) :
    ∃ u, onCore c s body = .next u ∧ CoreFrame c s u ∧ u.core c.toNat = y :=
  ⟨body s, onCore_plain h (hbody.core ▸ hirq), hbody.frame, hbody.core⟩

section
variable {major op : Nat} {w : VWord} (h : SpanAt s c major op w)
include h

theorem seeWord_spanAt : seeWord s c.toNat major op w = s := by
  obtain ⟨-, hsup | ⟨-, hword⟩⟩ := h
  · simp [seeWord, Option.isSome_iff_ne_none.2 hsup]
  · simp [seeWord, hword]

/-- A span instruction that can run goes by its legality alone. -/
theorem onSpan_runs (legal : Core → Bool) (body : State → State) : onSpan c major op w s legal body =
    .next (takeIrq (if legal (s.core c.toNat) then body s else stopTrap s c.toNat 0x8680) c.toNat) := by
  have hven : ((s.core c.toNat).trap.isNone && !(s.core c.toNat).ven) = false := by
    rcases h.2 with hsup | ⟨hven, -⟩
    · simp [Option.isNone_iff_eq_none, hsup]
    · simp [hven]
  unfold onSpan
  rw [onCore_runs h.1]
  dsimp only
  rw [seeWord_spanAt h, hven]
  cases hlegal : legal (s.core c.toNat) <;> simp

theorem onSpan_plain {legal : Core → Bool} {body : State → State} (hlegal : legal (s.core c.toNat) = true)
    (hirq : ((body s).core c.toNat).irqAt = none) : onSpan c major op w s legal body = .next (body s) := by
  rw [onSpan_runs h, if_pos hlegal, takeIrq_none hirq]

theorem onSpan_step {legal : Core → Bool} {body : State → State} {y : Core} (hlegal : legal (s.core c.toNat) = true)
    (hbody : CoreStep c s (body s) y) (hirq : y.irqAt = none) :
    ∃ u, onSpan c major op w s legal body = .next u ∧ CoreFrame c s u ∧ u.core c.toNat = y :=
  ⟨body s, onSpan_plain h hlegal (hbody.core ▸ hirq), hbody.frame, hbody.core⟩

end

/-- Vector use at U while VEN is clear enters the supervisor (R296). -/
theorem onSpan_venClear {major op : Nat} {w : VWord} (h : CoreAt s c)
    (hword : s.peekWord (s.core c.toNat).pc.toNat = some (spanWord major op w)) (htrap : (s.core c.toNat).trap = none)
    (hven : (s.core c.toNat).ven = false) (legal : Core → Bool) (body : State → State) :
    onSpan c major op w s legal body = .next (enterTrap s c.toNat .ven) := by
  have hsee : seeWord s c.toNat major op w = s := by simp [seeWord, hword]
  unfold onSpan
  rw [onCore_runs h]
  dsimp only
  rw [hsee, htrap, hven]
  refine congrArg _ (takeIrq_none ?_)
  rw [enterTrap]
  simpa using h.irq

end
end Sys2Proof.Machine
end

section
/-! What the end of a command keeps: the cores, the job and the registers that record a core's stop (R287, R297, R555). -/

namespace Sys2Proof.Machine

/-- A register that records a core's stop: its status and address (Table 9.7). -/
def StopReg (o : Nat) : Prop :=
  0x3800000 ≤ o ∧ o < 0x3868000 ∧ (o % 0x1000 = 0xC ∨ o % 0x1000 = 0x10 ∨ o % 0x1000 = 0x14)

theorem StopReg.not_event {o : Nat} (h : StopReg o) : eventReg o = false := by
  have hall : ∀ p < 104, ∀ r ∈ [0xC, 0x10, 0x14], eventReg (0x3800000 + p * 0x1000 + r) = false := by decide +kernel
  obtain ⟨hlow, hhigh, hoff⟩ := h
  have hsplit : o = 0x3800000 + (o / 0x1000 - 0x3800) * 0x1000 + o % 0x1000 := by omega
  rw [hsplit]
  refine hall _ (by omega) _ ?_
  simpa using hoff

/-- `u` has the cores, the job and the stop registers of `s`. -/
structure EndFrame (s u : State) : Prop where
  cores : u.cores = s.cores
  job   : u.job = s.job
  rig   : u.rig = s.rig
  regs  : ∀ o, StopReg o → u.reg o = s.reg o

namespace EndFrame

variable {s t u : State}

theorem refl (s : State) : EndFrame s s := ⟨rfl, rfl, rfl, fun _ _ => rfl⟩

theorem trans (h1 : EndFrame s t) (h2 : EndFrame t u) : EndFrame s u :=
  ⟨h2.cores.trans h1.cores, h2.job.trans h1.job, h2.rig.trans h1.rig, fun o ho => (h2.regs o ho).trans (h1.regs o ho)⟩

theorem ite {c : Prop} [Decidable c] (ht : EndFrame s t) (hu : EndFrame s u) : EndFrame s (if c then t else u) := by
  split
  · exact ht
  · exact hu

theorem core (h : EndFrame s u) (c : Nat) : u.core c = s.core c := congrArg (fun l => kvGetD l c Core.reset) h.cores

/-- Steps that each keep the frame keep it when they are taken in turn. -/
theorem foldl {α : Type} {f : State → α → State} (hf : ∀ s a, EndFrame s (f s a)) (l : List α) (s : State) :
    EndFrame s (l.foldl f s) := by
  induction l generalizing s with
  | nil => exact refl s
  | cons a r ih => exact (hf s a).trans (ih _)

end EndFrame

/-! ## The plain updates -/

theorem EventFrame.ends {s u : State} (h : EventFrame s u) : EndFrame s u :=
  ⟨h.ring.cores, h.ring.job, h.ring.rig, fun o ho => h.regs o ho.not_event⟩

/-- An update of fields other than the cores, the job and the registers. -/
theorem plain_ends (s : State) (m : Memory) (mm : Mem) (ts : List (TileId × Tile)) (f : Fabric) (h : Hif) (y : SyncState) (st : Stroke)
    (mg : Mgmt) (se : List Out) (fr : Nat) : EndFrame s { s with
      hostMem := m, mem := mm, tiles := ts, fab := f, hif := h, sync := y, stroke := st, mgmt := mg, sent := se, free := fr } :=
  ⟨rfl, rfl, rfl, fun _ _ => rfl⟩

theorem setReg_ends (s : State) {o : Nat} (v : Nat) (ho : ¬StopReg o) : EndFrame s (s.setReg o v) :=
  ⟨rfl, rfl, rfl, fun _ hp => State.reg_setReg_ne s v fun h => ho (h ▸ hp)⟩

theorem setReg64_ends (s : State) {o : Nat} (v : Nat) (ho : ¬StopReg o) (ho4 : ¬StopReg (o + 4)) : EndFrame s (s.setReg64 o v) :=
  ⟨rfl, rfl, rfl, fun _ hp => State.reg_setReg64_ne s v (fun h => ho (h ▸ hp)) (fun h => ho4 (h ▸ hp))⟩

/-- A register at another offset of its block does not record a stop. -/
theorem not_stopReg {g r : Nat} (hg : g % 0x1000 = 0) (hr : r % 0x1000 ≠ 0xC ∧ r % 0x1000 ≠ 0x10 ∧ r % 0x1000 ≠ 0x14) :
    ¬StopReg (g + r) := fun ⟨_, _, hoff⟩ => by omega

/-- Counting in a block keeps the stop registers. -/
theorem bump_ends (s : State) {g n : Nat} (k : Nat) (hg : g % 0x1000 = 0) (hn : n < 32) : EndFrame s (bump s g n k) := by
  have hcount (x : Nat) : EndFrame s (s.setReg64 (g + 0x100 + 8 * n) x) := by
    rw [Nat.add_assoc]
    refine setReg64_ends s x (not_stopReg hg (by omega)) ?_
    rw [Nat.add_assoc]
    exact not_stopReg hg (by omega)
  refine EndFrame.trans ?_ (bump_after_raw s g n k).ends
  unfold bumpRaw
  simp only [apply_ite Prod.fst]
  exact (EndFrame.refl s).ite ((hcount _).ite ((hcount _).trans (setReg_ends _ _ (not_stopReg hg (by omega)))))

theorem bumpClocks_ends (s : State) {g n : Nat} (hg : g % 0x1000 = 0) (hn : n < 32) : EndFrame s (bumpClocks s g n) :=
  EndFrame.trans (plain_ends s ..) (bump_ends _ _ hg hn)

theorem raise_ends (s : State) (code src addr data : Nat) : EndFrame s (raise s code src addr data) := (raise_frame ..).ends

theorem modStk_ends (s : State) (n : Nat) (f : Stack → Stack) : EndFrame s (s.modStk n f) := plain_ends s ..

theorem modTile_ends (s : State) (t : TileId) (f : Tile → Tile) : EndFrame s (s.modTile t f) := plain_ends s ..

theorem stackBase_aligned (n : Nat) : stackBase n % 0x1000 = 0 := by
  unfold stackBase
  omega

theorem portBase_aligned (p : Nat) : portBase p % 0x1000 = 0 := by
  unfold portBase
  omega

theorem collBase_aligned (m : Nat) : collBase m % 0x1000 = 0 := by
  unfold collBase
  omega

/-! ## Writes to memory (R332 to R337, R353, R357) -/

theorem report_ends (s : State) (code addr data : Nat) : EndFrame s (report s code addr data) := by
  have hring (u : State) : EndFrame u (sendRing u) := (plain_ends u ..).ite (EndFrame.refl u)
  have hcount (u : State) (k : Nat) : EndFrame u (countMgmt u 0 k) := by
    unfold countMgmt
    split
    · exact bump_ends _ _ (portBase_aligned _) (by decide)
    · exact EndFrame.refl u
  exact (EndFrame.trans (plain_ends s ..) (hring _)).trans (hcount _ _)

theorem decideRetire_ends (s : State) (pa : Nat) : EndFrame s (decideRetire s pa) :=
  (EndFrame.refl s).ite (((modStk_ends ..).trans (raise_ends ..)).ite (modStk_ends ..))

theorem noteError_ends (s : State) (pa kind : Nat) : EndFrame s (noteError s pa kind) :=
  ((modStk_ends ..).trans (decideRetire_ends ..)).ite (modStk_ends ..)

theorem noteLost_ends (s : State) (pa : Nat) (lost scrub : Bool) : EndFrame s (noteLost s pa lost scrub) := by
  have hbase := stackBase_aligned (stackOf pa)
  refine (setReg64_ends s _ (not_stopReg hbase (by decide)) ?_).trans (setReg_ends _ _ (not_stopReg hbase (by decide)))
  rw [Nat.add_assoc]
  exact not_stopReg hbase (by decide)

theorem lineError_ends (s : State) (pa : Nat) (uncorrectable scrub : Bool) : EndFrame s (lineError s pa uncorrectable scrub) := by
  have hcount (u : State) {n : Nat} (hn : n < 32) : EndFrame u (bump u (stackBase (stackOf pa)) n 1) :=
    bump_ends u 1 (stackBase_aligned _) hn
  have hmark (k : LineMark) {n : Nat} (hn : n < 32) (lost : Bool) : EndFrame s
      (noteLost (bump (markLine s pa k) (stackBase (stackOf pa)) n 1) pa lost scrub) :=
    (EndFrame.trans (plain_ends s ..) (hcount _ hn)).trans (noteLost_ends ..)
  have hevent (u : State) (m : Mem) (a b c d : Nat) : EndFrame u (raise { u with mem := m } a b c d) :=
    EndFrame.trans (plain_ends u ..) (raise_ends ..)
  refine EndFrame.ite ?_ (EndFrame.ite ?_ ?_)
  · exact ((hmark .poisoned (by decide) false).trans ((EndFrame.refl _).ite (hevent ..))).trans (noteError_ends ..)
  · exact (((hmark .lost (by decide) true).trans (raise_ends ..)).trans (report_ends ..)).trans (decideRetire_ends ..)
  · exact (hcount s (by decide)).trans (noteError_ends ..)

theorem senseLine_ends (s : State) (pa : Nat) : EndFrame s (senseLine s pa) := by
  unfold senseLine
  split
  · exact EndFrame.refl s
  · exact EndFrame.trans (plain_ends s ..) (lineError_ends ..)

theorem trackWrite_ends (s : State) (pa : Nat) : EndFrame s (trackWrite s pa) := by
  have hsense : EndFrame s (senseGranule s (pa / 65536)) := EndFrame.foldl (fun u l => senseLine_ends u (l * 128)) _ s
  unfold trackWrite
  split
  · exact EndFrame.refl s
  · refine (EndFrame.refl s).ite (EndFrame.trans (EndFrame.ite ?_ (EndFrame.refl s)) (plain_ends _ ..))
    exact (hsense.trans (plain_ends _ ..)).trans (bump_ends _ _ (stackBase_aligned _) (by decide))

theorem performWrite_ends (s : State) (pa : Nat) (bs : List Byte) : EndFrame s (performWrite s pa bs) :=
  (((trackWrite_ends s pa).trans (EndFrame.ite (plain_ends _ ..) (senseLine_ends _ pa))).trans (plain_ends _ ..)).trans
    (bump_ends _ _ (stackBase_aligned _) (by decide))

theorem writeLine_ends (s : State) (pa : Nat) (bs : List Byte) : EndFrame s (writeLine s pa bs) := by
  have hclose : EndFrame s (closeReads s pa) := (plain_ends s ..).ite (EndFrame.refl s)
  have hstall (u : State) (m : Mem) : EndFrame u (bumpClocks { u with mem := m } (stackBase (stackOf pa)) 9) :=
    EndFrame.trans (plain_ends u ..) (bumpClocks_ends _ (stackBase_aligned _) (by decide))
  exact hclose.trans ((hstall _ _).ite (performWrite_ends ..))

theorem writeLoc_ends (s : State) (l : Loc) (bs : List Byte) : EndFrame s (writeLoc s l bs) := by
  cases l with
  | stack pa => exact writeLine_ends s pa bs
  | store d k o =>
    unfold writeLoc writeStore
    dsimp only
    split
    · exact EndFrame.refl s
    · exact modTile_ends s _ _
  | void => exact EndFrame.refl s
  | host a => exact plain_ends s ..

theorem countMisses_ends (s : State) (va : Nat) (l : Loc) : EndFrame s (countMisses s va l) := by
  cases l with
  | stack pa => exact bump_ends s _ (by decide) (by decide)
  | store d k o => exact EndFrame.refl s
  | void => exact EndFrame.refl s
  | host a => exact EndFrame.refl s

theorem xltFault_ends (s : State) (agent va st : Nat) : EndFrame s (xltFault s agent va st) := by
  have hbase : xltBase % 0x1000 = 0 := by decide
  refine EndFrame.ite (((setReg64_ends s va ?_ ?_).trans (setReg_ends _ _ ?_)).trans (bump_ends _ _ hbase (by decide))) (EndFrame.refl s)
  · exact not_stopReg hbase (by decide)
  · exact not_stopReg (r := 0x1C) hbase (by decide)
  · exact not_stopReg hbase (by decide)

theorem writePieces_ends (agent : Nat) (l : List (Nat × Nat)) (s : State) (bs : List Byte) :
    EndFrame s (writePieces agent l s bs).1 := by
  induction l generalizing s bs with
  | nil => exact EndFrame.refl s
  | cons p r ih =>
    unfold writePieces
    split
    · exact xltFault_ends ..
    · exact ((countMisses_ends ..).trans (writeLoc_ends ..)).trans (ih _ _)

theorem writeRecord_ends (s : State) (agent va : Nat) (bs : List Byte) : EndFrame s (writeRecord s agent va bs).1 := by
  unfold writeRecord
  split
  · exact xltFault_ends ..
  · exact writePieces_ends ..

/-! ## Sync counters, requests and completions -/

theorem syncCatch_ends (s : State) (c : Nat) : EndFrame s (syncCatch s c) :=
  ((frame_setRegBit _ _ _ (by decide)).trans (takeCatch_frame ..)).ends.ite (EndFrame.refl s)

theorem syncSet_ends (s : State) (c v : Nat) : EndFrame s (syncSet s c v) := (plain_ends s ..).trans (syncCatch_ends ..)

theorem syncAdd_ends (s : State) (c v : Nat) : EndFrame s (syncAdd s c v) := by
  have hcount (u : State) : EndFrame u (bump u (collBase (syncDie c)) 8 1) := bump_ends u 1 (collBase_aligned _) (by decide)
  refine EndFrame.trans (EndFrame.trans (plain_ends s ..) (EndFrame.ite (EndFrame.refl _) ((hcount _).trans (EndFrame.ite (EndFrame.refl _) ?_))))
    (syncCatch_ends ..)
  exact EndFrame.trans (plain_ends _ ..) (raise_ends ..)

theorem sendReq_ends (s : State) (r : TxReq) : EndFrame s (sendReq s r) := by
  have hlaunch (p : Nat) : EndFrame s (launchReq s r p) := EndFrame.trans (plain_ends s ..) (bump_ends _ _ (portBase_aligned _) (by decide))
  have hset (x : TxSpace) : EndFrame s (setTx s x) := plain_ends s ..
  unfold sendReq
  dsimp only
  refine EndFrame.ite (plain_ends s ..) (EndFrame.ite ?_ (hset _))
  split
  · exact hlaunch _
  · exact hset _

theorem setCq_ends (s : State) (j : Nat) (q : CompRing) : EndFrame s (setCq s j q) := plain_ends s ..

theorem writeCompletion_ends (s : State) (j : Nat) (x : Completion) : EndFrame s (writeCompletion s j x) := by
  have hadvance (u : State) : EndFrame u (advanceCq u j) := (setCq_ends u j _).trans (bump_ends _ _ (by decide) (by decide))
  have hrecord {a : Nat} {bs : List Byte} {r : State × Nat} (h : writeRecord s agentHost a bs = r) : EndFrame s r.1 :=
    h ▸ writeRecord_ends ..
  unfold writeCompletion
  dsimp only
  refine EndFrame.ite (EndFrame.trans (plain_ends s ..) (hadvance _)) ?_
  split
  · next h => exact ((hrecord h).trans (hadvance _)).trans ((EndFrame.refl _).ite (syncAdd_ends ..))
  · next h => exact (((hrecord h).trans (setCq_ends ..)).trans (setCq_ends ..)).trans (raise_ends ..)

theorem post_ends (s : State) (x : Completion) : EndFrame s (post s x) :=
  (writeCompletion_ends ..).ite ((setCq_ends ..).trans (bump_ends _ _ (by decide) (by decide)))

theorem tryArrive_ends (s : State) : EndFrame s (tryArrive s) := by
  have hbase : strokeBase % 0x1000 = 0 := by decide
  have hlow : ¬StopReg (strokeBase + 0x10) := fun ⟨h, _, _⟩ => absurd h (by decide)
  have hhigh : ¬StopReg (strokeBase + 0x10 + 4) := fun ⟨h, _, _⟩ => absurd h (by decide)
  exact (((plain_ends s ..).trans (setReg64_ends _ _ hlow hhigh)).trans (plain_ends _ ..)).ite (EndFrame.refl s)

theorem finishOne_ends (s : State) (c : CmdCtx) (st value : Nat) : EndFrame s (finishOne s c st value) := by
  have hclose (u : State) : EndFrame u (tryArrive (closeRings u)) := EndFrame.trans (plain_ends u ..) (tryArrive_ends _)
  refine EndFrame.trans (EndFrame.ite ?_ ?_) (hclose _)
  · exact plain_ends s ..
  · exact EndFrame.trans (plain_ends s ..) (post_ends ..)

theorem actSyncOps_ends (n : Nat) (s : State) : EndFrame s (actSyncOps n s) := by
  induction n generalizing s with
  | zero => exact EndFrame.refl s
  | succ n ih =>
    unfold actSyncOps
    split
    · exact EndFrame.refl s
    · dsimp only
      split
      · have happly (u : State) (b : Bool) (c v : Nat) : EndFrame u (applySync u b c v) := (syncSet_ends ..).ite (syncAdd_ends ..)
        exact ((EndFrame.trans (plain_ends s ..) (happly ..)).trans (finishOne_ends ..)).trans (ih _)
      · exact EndFrame.trans (EndFrame.trans (plain_ends s ..) (sendReq_ends ..)) (ih _)

theorem finish_ends (s : State) (c : CmdCtx) (st value : Nat) : EndFrame s (finish s c st value) :=
  (finishOne_ends s c st value).trans (actSyncOps_ends ..)

end Sys2Proof.Machine
end

section
/-! The end of a program and its stops: SUPCALL, the supervisor's return, interrupts and a faulty core (R287, R297 to R299, R322). -/

namespace Sys2Proof.Machine

/-! ## Counting with free values -/

/-- `u` is `s` but for counting, raising events and free values. -/
def FreeFrame (s u : State) : Prop := EventFrame { s with free := u.free } u

theorem EventFrame.withFree {s u : State} (h : EventFrame s u) (n : Nat) : EventFrame { s with free := n } { u with free := n } := by
  refine ⟨?_, h.regs, h.host⟩
  obtain ⟨_, _, _, _, _, _, _, _, hu⟩ := h.same
  exact ⟨_, _, _, _, _, _, _, _, by rw [hu]⟩

theorem EventFrame.freeFrame {s u : State} (h : EventFrame s u) : FreeFrame s u := h.withFree u.free

theorem FreeFrame.trans {s t u : State} (h1 : FreeFrame s t) (h2 : FreeFrame t u) : FreeFrame s u :=
  (EventFrame.withFree h1 u.free).trans h2

theorem bumpClocks_freeFrame (s : State) {g n : Nat} (h : IsCounter g n) : FreeFrame s (bumpClocks s g n) := by
  have hframe : EventFrame { s with free := s.free + 1 } (bumpClocks s g n) := bump_frame _ _ h
  have hfree : (bumpClocks s g n).free = s.free + 1 := bump_free ..
  rw [FreeFrame, hfree]
  exact hframe

theorem coreTime_freeFrame {s : State} {c : Nat} (h : s.HasCore c) : FreeFrame s (coreTime s c) :=
  (bumpClocks_freeFrame s (h.counter (by decide))).trans (bumpClocks_freeFrame _ (h.counter (by decide)))

/-! ## The end of a program -/

/-- A core whose program has ended in a phase. -/
def Core.ended (x : Core) (ph : CorePhase) : Core :=
  { x with phase := ph, cmd := none, scWait := none, ack := none, trap := none, outer := [], irqAt := none }

/-- The end of a program changes its core, and what the completion of its command does. -/
theorem endProgram_ends (s : State) (c : Nat) (ph : CorePhase) (st value : Nat) :
    EndFrame (s.modCore c (fun x => x.ended ph)) (endProgram s c ph st value) := by
  unfold endProgram
  dsimp only
  split
  · exact EndFrame.refl _
  · exact finish_ends ..

@[simp] theorem endProgram_core_self (s : State) (c : Nat) (ph : CorePhase) (st value : Nat) :
    (endProgram s c ph st value).core c = (s.core c).ended ph := by
  rw [(endProgram_ends ..).core, State.core_modCore_self]

theorem endProgram_core_ne (s : State) {c m : Nat} (ph : CorePhase) (st value : Nat) (h : m ≠ c) :
    (endProgram s c ph st value).core m = s.core m := by
  rw [(endProgram_ends ..).core, State.core_modCore_ne _ _ h]

/-! ## A stop -/

theorem recordStop_reg (s : State) (c st : Nat) (pc : U64) :
    (recordStop s c st pc).reg (s.coreRegs c + 0xC) = st % 2 ^ 32 ∧ (recordStop s c st pc).reg64 (s.coreRegs c + 0x10) = pc.toNat := by
  constructor
  · rw [recordStop, State.reg_setReg64_ne _ _ (by omega) (by omega), State.reg_setReg_self]
  · exact State.reg64_setReg64_self _ _ _ pc.isLt

theorem recordStop_core (s : State) (c st : Nat) (pc : U64) (k : Nat) : (recordStop s c st pc).core k = s.core k := rfl

/-- The state in which a stopped program's end is reported. -/
def stopping (s : State) (c st : Nat) (pc : U64) : State :=
  raise (recordStop (coreTime s c) c st pc) 0x4680 (srcCore (((recordStop (coreTime s c) c st pc).physCore c).getD 0)) pc.toNat st

theorem stopProgram_eq (s : State) (c st : Nat) (pc : U64) : stopProgram s c st pc = endProgram (stopping s c st pc) c .stopped st 0 := rfl

@[simp] theorem stopping_core (s : State) (c st : Nat) (pc : U64) (k : Nat) : (stopping s c st pc).core k = s.core k := by
  rw [stopping, raise_core, recordStop_core, coreTime_core]

@[simp] theorem stopProgram_core_self (s : State) (c st : Nat) (pc : U64) : (stopProgram s c st pc).core c = (s.core c).ended .stopped := by
  rw [stopProgram_eq, endProgram_core_self, stopping_core]

theorem stopProgram_core_ne (s : State) {c m : Nat} (st : Nat) (pc : U64) (h : m ≠ c) : (stopProgram s c st pc).core m = s.core m := by
  rw [stopProgram_eq, endProgram_core_ne _ _ _ _ h, stopping_core]

/-- A stop's status and address stay in the core's registers when its completion is posted. -/
theorem stopProgram_regs {s : State} {c st : Nat} {pc : U64} (h : s.HasCore c) (hst : st < 2 ^ 32) :
    (stopProgram s c st pc).reg (s.coreRegs c + 0xC) = st ∧ (stopProgram s c st pc).reg64 (s.coreRegs c + 0x10) = pc.toNat := by
  have hstop {r : Nat} (hr : r ∈ [0xC, 0x10, 0x14]) : StopReg (s.coreRegs c + r) := by
    obtain ⟨p, hp, hphys⟩ := h
    simp only [List.mem_cons, List.not_mem_nil, or_false] at hr
    simp only [StopReg, State.coreRegs, hphys, Option.getD_some, coreBase]
    omega
  have hkept : EndFrame (recordStop (coreTime s c) c st pc) (stopping s c st pc) := (raise_frame ..).ends
  have hreg {r : Nat} (hr : r ∈ [0xC, 0x10, 0x14]) :
      (stopProgram s c st pc).reg (s.coreRegs c + r) = (recordStop (coreTime s c) c st pc).reg (s.coreRegs c + r) :=
    ((endProgram_ends ..).regs _ (hstop hr)).trans (hkept.regs _ (hstop hr))
  obtain ⟨hstatus, haddr⟩ := recordStop_reg (coreTime s c) c st pc
  rw [coreRegs_congr (coreTime_rig ..)] at hstatus haddr
  constructor
  · rw [hreg (by decide), hstatus, Nat.mod_eq_of_lt hst]
  · have hlow := hreg (r := 0x10) (by decide)
    have hhigh := hreg (r := 0x14) (by decide)
    rw [← haddr]
    simp only [State.reg] at hlow hhigh
    simp only [State.reg64, RegFile.get64, hlow, Nat.add_assoc, hhigh]

/-! ## SUPCALL (R287, R299) -/

/-- SUPCALL's effect: the program ends, or stops at an address. -/
def supcallEnd (x : Core) (c : Nat) (s : State) (pc : U64) : State :=
  if x.gr 7 = 0 then endProgram (coreTime (bump s (s.coreRegs c) 1 1) c) c .idle 0 (x.gr 8).toNat
  else stopProgram (bump s (s.coreRegs c) 1 1) c 0x8688 pc

theorem supcallEnd_core_self (x : Core) (c : Nat) (s : State) (pc : U64) :
    (supcallEnd x c s pc).core c = (s.core c).ended (if x.gr 7 = 0 then .idle else .stopped) := by
  unfold supcallEnd
  split <;> simp

theorem supcallEnd_core_ne (x : Core) {c m : Nat} (s : State) (pc : U64) (h : m ≠ c) : (supcallEnd x c s pc).core m = s.core m := by
  unfold supcallEnd
  split
  · rw [endProgram_core_ne _ _ _ _ h, coreTime_core, bump_core]
  · rw [stopProgram_core_ne _ _ _ h, bump_core]

section
variable {s : State} {c : BitVec 8} (h : CoreAt s c)
include h

theorem exec_supcall_user (htrap : (s.core c.toNat).trap = none) :
    exec (.supcall c) s = .next (supcallEnd (s.core c.toNat) c.toNat s (s.core c.toNat).pc) := by
  have hbody : trapWith s c.toNat (supcallEnd (s.core c.toNat) c.toNat) =
      supcallEnd (s.core c.toNat) c.toNat s (s.core c.toNat).pc := by simp [trapWith, htrap]
  rw [← hbody]
  refine onCore_plain h (body := fun s => trapWith s c.toNat (supcallEnd (s.core c.toNat) c.toNat)) ?_
  rw [hbody, supcallEnd_core_self]
  rfl

theorem exec_supcall_supervisor (htrap : (s.core c.toNat).trap ≠ none) :
    exec (.supcall c) s = .next (
      let p := s.drawBits
      let m := p.2.drawBool
      if m.1 then stopProgram m.2 c.toNat 0x8683 p.1 else supcallEnd (s.core c.toNat) c.toNat m.2 p.1) := by
  have hbody : trapWith s c.toNat (supcallEnd (s.core c.toNat) c.toNat) = _ := if_neg (by simpa using htrap)
  rw [← hbody]
  refine onCore_plain h (body := fun s => trapWith s c.toNat (supcallEnd (s.core c.toNat) c.toNat)) ?_
  rw [hbody, apply_ite (fun u : State => u.core c.toNat), stopProgram_core_self, supcallEnd_core_self]
  split <;> rfl

/-! ## The supervisor's return (R297) -/

omit h in
theorem moved_supervisor {x : Core} (htrap : x.trap ≠ none) : x.moved = x := by
  cases ht : x.trap with
  | none => exact absurd ht htrap
  | some t => simp [Core.moved, ht]

/-- The core of a supervisor that returns. -/
theorem supret_returns {k : CoreTrap} (htrap : (s.core c.toNat).trap = some k) (f : Core → Core) :
    CoreStep c s ((retire s c.toNat).modCore c.toNat f) (f (s.core c.toNat)) := by
  have hstep := ((CoreStep.refl c s).retire h.phys).mod f
  rwa [moved_supervisor (htrap ▸ Option.some_ne_none k)] at hstep

end

/-- What the supervisor's return does once it has found what it resolves. -/
def supretEnd (c : Nat) (s : State) : State :=
  match (s.core c).trap with
  | none => s
  | some .ven => (retire s c).modCore c (fun x => { x.back with ven := true })
  | some .irq => (retire s c).modCore c Core.back
  | some (.page va) => if s.restoring va then s else bump ((retire s c).modCore c Core.back) (s.coreRegs c) 5 1

theorem exec_supret_runs {s : State} {c : BitVec 8} (h : CoreAt s c) :
    exec (.supret c) s = .next (takeIrq (supretEnd c.toNat s) c.toNat) := onCore_runs h (supretEnd c.toNat)

theorem exec_supret {s : State} {c : BitVec 8} {y : Core} (h : CoreAt s c) (hirq : y.irqAt = none)
    (hend : CoreStep c s (supretEnd c.toNat s) y) : ∃ u, exec (.supret c) s = .next u ∧ CoreFrame c s u ∧ u.core c.toNat = y :=
  onCore_step h (body := supretEnd c.toNat) hend hirq

/-- An interrupt enters the supervisor between instructions, and waits for its element otherwise (R298). -/
theorem exec_passInterrupt {s : State} {c : BitVec 8} (h : CoreAt s c) (e : Nat) : exec (.passInterrupt c e) s = .next (
    if e = 0 then enterTrap s c.toNat .irq else s.modCore c.toNat (fun y => { y with irqAt := some e })) := by
  show execPassInterrupt c e s = _
  unfold execPassInterrupt
  rw [powered_on _ h.powered]
  simp [h.live]

/-! ## A faulty core (R322) -/

/-- A core that an error has made faulty: its program ends first. -/
def markFaulty (s : State) (m : Nat) : State :=
  (if (s.core m).phase = .running then endProgram (recordStop s m 0x8684 (s.core m).pc) m .faulty 0x8684 0 else s).modCore m
    (fun x => { x with phase := .faulty })

theorem markFaulty_core_self (s : State) (m : Nat) : ((markFaulty s m).core m).phase = .faulty := by
  rw [markFaulty, State.core_modCore_self]

theorem markFaulty_core_ne (s : State) {m n : Nat} (h : n ≠ m) : (markFaulty s m).core n = s.core n := by
  rw [markFaulty, State.core_modCore_ne _ _ h]
  split
  · rw [endProgram_core_ne _ _ _ _ h, recordStop_core]
  · rfl

theorem markFaulty_job (s : State) (m : Nat) : (markFaulty s m).job = s.job := by
  rw [markFaulty, State.modCore_job]
  split
  · exact (endProgram_ends ..).job
  · rfl

/-- The logical core of a faulty physical one is marked. -/
def markCore (s : State) (p : Nat) : State := (s.logCore p).elim s (markFaulty s)

theorem markCore_job (s : State) (p : Nat) : (markCore s p).job = s.job := by
  unfold markCore
  cases s.logCore p with
  | none => rfl
  | some m => exact markFaulty_job s m

/-- A unit that fails under a bound job awaits its replacement, and no core changes. -/
theorem memberFault_bound {s : State} (x : UnitRef) (st : Nat) (hbound : s.bound = true) :
    (memberFault s x st).cores = s.cores ∧ (x ∈ (memberFault s x st).rig.awaiting ∨ x ∈ (memberFault s x st).rig.failed) := by
  have hreport := report_ends s 0x8712 (entryOfUnit s x) st
  have hbound : (report s 0x8712 (entryOfUnit s x) st).bound = true := by rwa [State.bound, hreport.job]
  unfold memberFault
  dsimp only
  split
  · next hknown => exact ⟨hreport.cores, by simpa using hknown⟩
  · exact ⟨hreport.cores, Or.inl (List.mem_append_right _ (List.mem_singleton.2 rfl))⟩

theorem exec_steerCoreFault {s : State} {phys : BitVec 8} (hp : s.pins.powered = true) (hphys : phys.toNat < 104) :
    exec (.steerCoreFault phys) s = .next (memberFault
      (raise (markCore s phys.toNat) 0x4681 (srcCore phys.toNat) 0 0) (.core phys.toNat) 0x8684) := by
  show execSteerCoreFault phys s = _
  unfold execSteerCoreFault
  rw [powered_on _ hp, if_neg (Nat.not_le.2 hphys)]
  unfold markCore
  cases s.logCore phys.toNat <;> rfl

end Sys2Proof.Machine

open Sys2Proof Sys2Proof.Machine

/-- Settles O39: SUPCALL at U has its effect, which counts, and ends the program or records its stop. -/
theorem supcallEndsTheProgram : Obligations.SupcallEndsTheProgram := by
  unfold Obligations.SupcallEndsTheProgram
  intro s c k x h htrap
  have hcounted : EventFrame s (bump s (s.coreRegs k) 1 1) := bump_frame s 1 (State.HasCore.counter h.phys (by decide))
  have hcore : s.HasCore k := h.phys
  refine ⟨fun hend => ?_, fun hstop => ⟨_, exec_supcall_user h htrap, ?_⟩⟩
  · refine ⟨coreTime (bump s (s.coreRegs k) 1 1) k,
      hcounted.freeFrame.trans (coreTime_freeFrame (hasCore_of_rig hcore hcounted.ring.rig)), ?_⟩
    rw [exec_supcall_user h htrap, supcallEnd, if_pos hend, endProgram]
    simp only [coreTime_core, bump_core]
    rfl
  · have hself := supcallEnd_core_self x k s x.pc
    rw [if_neg hstop] at hself
    have hregs := stopProgram_regs (pc := x.pc) (hasCore_of_rig hcore hcounted.ring.rig) (show 0x8688 < 2 ^ 32 by decide)
    rw [coreRegs_congr hcounted.ring.rig] at hregs
    refine ⟨by rw [hself]; rfl, by rw [hself]; rfl, ?_, ?_, fun m hm => supcallEnd_core_ne x s x.pc hm⟩
    · rw [supcallEnd, if_neg hstop]
      exact hregs.1
    · rw [supcallEnd, if_neg hstop]
      exact hregs.2

/-- Settles O40: each return retires the supervisor's instruction and puts back what its trap interrupted. -/
theorem supervisorReturns : Obligations.SupervisorReturns := by
  unfold Obligations.SupervisorReturns
  intro s c k x
  refine ⟨fun h => ⟨fun htrap => ?_, fun htrap => ?_, fun va htrap => ⟨fun hwait => ?_, fun hback => ?_⟩, fun htrap => ?_, ?_, fun e he => ?_⟩,
    fun phys hp hphys hbound => ?_⟩
  · refine exec_supret h h.irq (y := { x.back with ven := true }) ?_
    rw [supretEnd, htrap]
    exact supret_returns h htrap _
  · refine exec_supret h h.irq (y := x.back) ?_
    rw [supretEnd, htrap]
    exact supret_returns h htrap _
  · have hwaits : supretEnd c.toNat s = s := by
      rw [supretEnd, htrap]
      exact if_pos hwait
    rw [exec_supret_runs h, hwaits, takeIrq_none h.irq]
  · refine exec_supret h h.irq (y := x.back) ?_
    have hreturns := supret_returns h htrap Core.back
    have hcounted := hreturns.count h.phys (n := 5) 1 (by decide)
    rw [coreRegs_congr hreturns.frame.rig] at hcounted
    rw [supretEnd, htrap]
    simp only [hback]
    exact hcounted
  · refine ⟨_, exec_supcall_supervisor h htrap, ?_⟩
    dsimp only
    split
    · rfl
    · refine ⟨?_, ?_, fun m hm => supcallEnd_core_ne _ _ _ hm⟩ <;> rw [supcallEnd_core_self] <;> rfl
  · exact exec_passInterrupt h 0
  · rw [exec_passInterrupt h, if_neg he]
  · have hraised := raise_ends (markCore s phys.toNat) 0x4681 (srcCore phys.toNat) 0 0
    obtain ⟨hcores, hawaits⟩ := memberFault_bound (.core phys.toNat) 0x8684
      (s := raise (markCore s phys.toNat) 0x4681 (srcCore phys.toNat) 0 0) (by rwa [State.bound, hraised.job, markCore_job])
    refine ⟨_, exec_steerCoreFault hp hphys, fun m hm => ?_, hawaits⟩
    have hcore (n : Nat) : (memberFault (raise (markCore s phys.toNat) 0x4681 (srcCore phys.toNat) 0 0) (.core phys.toNat) 0x8684).core n =
        (markFaulty s m).core n := by
      rw [State.core, hcores, ← State.core, hraised.core, markCore, hm, Option.elim_some]
    exact ⟨(congrArg Core.phase (hcore m)).trans (markFaulty_core_self s m), fun n hn => (hcore n).trans (markFaulty_core_ne s hn)⟩
end

section
/-! The scalar instructions of a steering core: FPMODE, floating point and the sync counters (R291, R293, R295). -/

namespace Sys2Proof.Machine

/-! ## What a sync-counter instruction changes -/

/-- `u` is `s` but for the sync counters, the cores, counting and free values. -/
def SyncFrame (s u : State) : Prop := RingFrame { s with sync := u.sync, cores := u.cores, free := u.free } u

namespace SyncFrame

variable {s t u : State}

theorem trans (h1 : SyncFrame s t) (h2 : SyncFrame t u) : SyncFrame s u := by
  have hframe : RingFrame { s with sync := u.sync, cores := u.cores, free := u.free }
      { t with sync := u.sync, cores := u.cores, free := u.free } := by
    refine ⟨?_, h1.regs, h1.host⟩
    obtain ⟨_, _, _, ht⟩ := h1.same
    exact ⟨_, _, _, by rw [ht]⟩
  exact hframe.trans h2

theorem plain (s : State) (y : SyncState) : SyncFrame s { s with sync := y } := RingFrame.refl _

theorem refl (s : State) : SyncFrame s s := RingFrame.refl s

theorem ite {p : Prop} [Decidable p] (ht : SyncFrame s t) (hu : SyncFrame s u) : SyncFrame s (if p then t else u) := by
  split
  · exact ht
  · exact hu

end SyncFrame

theorem EventFrame.syncFrame {s u : State} (h : EventFrame s u) : SyncFrame s u := by
  refine ⟨?_, h.regs, h.host⟩
  obtain ⟨_, _, _, _, _, _, _, _, hu⟩ := h.same
  exact ⟨_, _, _, by rw [hu]⟩

theorem CoreFrame.syncFrame {c : BitVec 8} {s u : State} (h : CoreFrame c s u) : SyncFrame s u := by
  refine ⟨⟨u.regs, u.hostMem, u.hif, ?_⟩, h.regs, h.host⟩
  rw [h.same]

theorem CoreFrame.syncVal {c : BitVec 8} {s u : State} (h : CoreFrame c s u) (n : Nat) : u.syncVal n = s.syncVal n :=
  syncVal_congr (by rw [h.same]) n

/-! ## The own package's counters (R295, R434, R435) -/

theorem collBase_counter : ∀ m < 2, ∀ n ∈ [8, 9], IsCounter (collBase m) n := by decide

theorem syncDie_lt {n : Nat} (hn : n < 16384) : syncDie n < 2 := by
  unfold syncDie
  omega

theorem syncCatch_frame (s : State) (c : Nat) : EventFrame s (syncCatch s c) := by
  unfold syncCatch
  split
  · exact (frame_setRegBit _ _ _ (by decide)).trans (takeCatch_frame ..)
  · exact EventFrame.refl s

/-- A sum that wraps is counted, and raised once (R434). -/
def noteWrap (s : State) (c sum : Nat) : State :=
  if sum < 2 ^ 64 then s
  else
    let s := bump s (collBase (syncDie c)) 8 1
    if s.sync.wrapped.contains c then s
    else raise { s with sync := { s.sync with wrapped := natInsert s.sync.wrapped c } } 0x4402 (srcFab (syncDie c)) 0 c

theorem syncAdd_eq (s : State) (c v : Nat) :
    syncAdd s c v = syncCatch (noteWrap (storeSync s c (s.syncVal c + v)) c (s.syncVal c + v)) c := rfl

theorem noteWrap_syncFrame (s : State) {c : Nat} (sum : Nat) (hc : c < 16384) : SyncFrame s (noteWrap s c sum) := by
  have hcount : EventFrame s (bump s (collBase (syncDie c)) 8 1) := bump_frame s 1 (collBase_counter _ (syncDie_lt hc) 8 (by decide))
  refine SyncFrame.ite (SyncFrame.refl s) (SyncFrame.ite hcount.syncFrame (hcount.syncFrame.trans ?_))
  exact (SyncFrame.plain _ _).trans (raise_frame ..).syncFrame

theorem noteWrap_syncVal (s : State) (c sum m : Nat) : (noteWrap s c sum).syncVal m = s.syncVal m := by
  unfold noteWrap
  dsimp only
  split
  · rfl
  · split
    · exact bump_syncVal ..
    · rw [raise_syncVal]
      exact bump_syncVal ..

theorem noteWrap_cores (s : State) (c sum : Nat) : (noteWrap s c sum).cores = s.cores := by
  unfold noteWrap
  dsimp only
  split
  · rfl
  · split
    · exact bump_cores ..
    · rw [raise_cores]
      exact bump_cores ..

theorem syncAdd_syncFrame (s : State) {c : Nat} (v : Nat) (hc : c < 16384) : SyncFrame s (syncAdd s c v) :=
  ((SyncFrame.plain s _).trans (noteWrap_syncFrame _ _ hc)).trans (syncCatch_frame ..).syncFrame

theorem syncSet_syncFrame (s : State) (c v : Nat) : SyncFrame s (syncSet s c v) :=
  (SyncFrame.plain s _).trans (syncSet_frame s c v).syncFrame

/-- What an add or a set leaves in its counter. -/
def appliedSync (s : State) (setOp : Bool) (c v : Nat) : Nat := (if setOp then v else s.syncVal c + v) % 2 ^ 64

theorem applySync_syncFrame (s : State) (setOp : Bool) {c : Nat} (v : Nat) (hc : c < 16384) : SyncFrame s (applySync s setOp c v) :=
  (syncSet_syncFrame s c v).ite (syncAdd_syncFrame s v hc)

theorem applySync_syncVal (s : State) (setOp : Bool) (c v m : Nat) :
    (applySync s setOp c v).syncVal m = if m = c then appliedSync s setOp c v else s.syncVal m := by
  have hstored (x : Nat) : (storeSync s c x).syncVal m = if m = c then x % 2 ^ 64 else s.syncVal m := by
    split
    · next h => rw [h, State.syncVal_storeSync_self]
    · next h => rw [State.syncVal_storeSync_ne _ _ h]
  unfold applySync appliedSync
  split
  · rw [syncVal_congr (syncSet_frame s c v).ring.sync, hstored]
  · rw [syncAdd_eq, syncVal_congr (syncCatch_frame ..).ring.sync, noteWrap_syncVal, hstored]

theorem applySync_core (s : State) (setOp : Bool) (c v k : Nat) : (applySync s setOp c v).core k = s.core k := by
  have hcores : (applySync s setOp c v).cores = s.cores := by
    unfold applySync
    split
    · exact (syncSet_frame s c v).ring.cores
    · rw [syncAdd_eq, (syncCatch_frame ..).ring.cores, noteWrap_cores]
      rfl
  rw [State.core, hcores, State.core]

theorem applySync_rig (s : State) (setOp : Bool) {c : Nat} (v : Nat) (hc : c < 16384) : (applySync s setOp c v).rig = s.rig :=
  (applySync_syncFrame s setOp v hc).rig

/-- A wait that is polled is counted, and the first of its episode is raised (R435). -/
def notePolled (s : State) (m : Nat) (full : Prop) [Decidable full] (first : Bool) : State :=
  let s := if full then bump s (collBase m) 9 1 else s
  if first then raise s 0x4403 (srcFab m) 0 0 else s

/-- The wait that a waiter enters. -/
def State.newWait (s : State) (who : Waiter) (c v : Nat) : Wait := ⟨who, c, BitVec.ofNat 64 v, 4096 ≤ s.waitsUsed (syncDie c)⟩

theorem addWait_eq (s : State) (who : Waiter) (c v : Nat) :
    addWait s who c v = notePolled { s with sync := { s.sync with waits := s.sync.waits ++ [s.newWait who c v] } } (syncDie c)
      (4096 ≤ s.waitsUsed (syncDie c))
      (decide (4096 ≤ s.waitsUsed (syncDie c)) && !(s.sync.waits.any (fun w => syncDie w.counter == syncDie c && w.polled))) := rfl

theorem notePolled_frame (s : State) {m : Nat} (full : Prop) [Decidable full] (first : Bool) (hm : m < 2) : EventFrame s (notePolled s m full first) := by
  have hcount : EventFrame s (if full then bump s (collBase m) 9 1 else s) := by
    split
    · exact bump_frame s 1 (collBase_counter m hm 9 (by decide))
    · exact EventFrame.refl s
  unfold notePolled
  dsimp only
  split
  · exact hcount.trans (raise_frame ..)
  · exact hcount

/-- A wait is entered behind those that stand (R435). -/
theorem addWait_frame (s : State) (who : Waiter) {n : Nat} (v : Nat) (hn : n < 16384) :
    EventFrame { s with sync := { s.sync with waits := s.sync.waits ++ [s.newWait who n v] } } (addWait s who n v) := by
  rw [addWait_eq]
  exact notePolled_frame _ _ _ (syncDie_lt hn)

/-- A core that waits is in the table of waits. -/
theorem CoreStep.waits {c : BitVec 8} {s t : State} {y : Core} {n : Nat} (h : CoreStep c s t y) (hn : n < 16384) (v : U64) :
    ∃ q, SyncFrame s (addWait t (.core c) n v.toNat) ∧ (addWait t (.core c) n v.toNat).core c.toNat = y ∧
      (∀ m, m ≠ c.toNat → (addWait t (.core c) n v.toNat).core m = s.core m) ∧
      (∀ m, (addWait t (.core c) n v.toNat).syncVal m = s.syncVal m) ∧
      (addWait t (.core c) n v.toNat).sync.waits = s.sync.waits ++ [q] ∧ q.who = .core c ∧ q.counter = n ∧ q.value = v := by
  have hwait := addWait_frame t (.core c) v.toNat hn
  have hcore (k : Nat) : (addWait t (.core c) n v.toNat).core k = t.core k := congrArg (kvGetD · k Core.reset) hwait.ring.cores
  have hsync : t.sync = s.sync := by rw [h.frame.same]
  refine ⟨t.newWait (.core c) n v.toNat, (h.frame.syncFrame.trans (SyncFrame.plain _ _)).trans hwait.syncFrame, (hcore _).trans h.core,
    fun m hm => (hcore m).trans (h.frame.cores m hm), fun m => (syncVal_congr hwait.ring.sync m).trans (h.frame.syncVal m), ?_, rfl, rfl,
    by simp [State.newWait]⟩
  rw [hwait.ring.sync]
  show t.sync.waits ++ _ = _
  rw [hsync]

/-! ## A value in the low bits of a register -/

/-- A register of 64 bits takes a value in its low bits. -/
theorem CoreStep.low {c : BitVec 8} {s u : State} {y : Core} (h : CoreStep c s u y) (rd : BitVec 5) {n : Nat} (hn : n ≤ 64) (z : Nat) :
    ∃ v : U64, v.toNat % 2 ^ n = z % 2 ^ n ∧ CoreStep c s (setLow u c.toNat rd n z) (y.setG rd v) := by
  have hdvd : 2 ^ n ∣ 2 ^ 64 := Nat.pow_dvd_pow 2 hn
  unfold setLow
  split
  · refine ⟨BitVec.ofNat 64 z, ?_, h.mod _⟩
    rw [BitVec.toNat_ofNat, Nat.mod_mod_of_dvd _ hdvd]
  · refine ⟨_, ?_, (h.free _).mod _⟩
    rw [BitVec.toNat_ofNat, Nat.mod_mod_of_dvd _ hdvd, Nat.add_mul_mod_self_right, Nat.mod_mod]

/-! ## Scalar floating point (R291) -/

theorem fpFmtOf_width (f : FpFmt) : (fpFmtOf f).width ≤ 64 := by cases f <;> decide

section
variable {s : State} {c : BitVec 8} (h : CoreAt s c)
include h

/-- An instruction that writes its core and completes. -/
theorem retires_mod (f : Core → Core) (hirq : (f (s.core c.toNat)).irqAt = none := by exact h.irq) :
    ∃ u, onCore c s (fun s => retire (s.modCore c.toNat f) c.toNat) = .next u ∧ CoreFrame c s u ∧
      u.core c.toNat = (f (s.core c.toNat)).moved :=
  onCore_step h (((CoreStep.refl c s).mod f).retire h.phys) ((Core.moved_irqAt _).trans hirq)

/-- An operation that writes F[rd] takes the result that its formats and rounding give. -/
theorem exec_scalarFp {op : FpOp} {fmt : FpFmt} {rd r1 r2 r3 : BitVec 5} {z : FpResult}
    (hz : let x := s.core c.toNat
      let n := (fpFmtOf fmt).width
      scalarFp op (fpFmtOf fmt) x.rnd ((x.fr r1).toNat % 2 ^ n) ((x.fr r2).toNat % 2 ^ n) ((x.fr r3).toNat % 2 ^ n)
        ((x.gr r1).toNat % 2 ^ n) = some z) :
    exec (.scalarFpOperation c op fmt rd r1 r2 r3) s =
      onCore c s (fun s => retire (s.modCore c.toNat (fun x => (x.setF rd (BitVec.ofNat 64 z.bits)).stick z.flags)) c.toNat) := by
  show execScalarFpOperation c op fmt rd r1 r2 r3 s = _
  rw [onCore_runs h]
  unfold execScalarFpOperation
  rw [onCore_runs h]
  cases op <;> cases hz <;> rfl

theorem exec_scalarFp_toInt {fmt : FpFmt} {rd r1 r2 r3 : BitVec 5} :
    let x := s.core c.toNat
    let n := (fpFmtOf fmt).width
    let z := fpToInt (fpFmtOf fmt) x.rnd n ((x.fr r1).toNat % 2 ^ n)
    ∃ u y, exec (.scalarFpOperation c .cvtFI fmt rd r1 r2 r3) s = .next u ∧ CoreFrame c s u ∧
      y.toNat % 2 ^ n = z.bits % 2 ^ n ∧ u.core c.toNat = ((x.stick z.flags).setG rd y).moved := by
  intro x n z
  obtain ⟨y, hy, hstep⟩ := ((CoreStep.refl c s).mod (fun x => x.stick z.flags)).low rd (fpFmtOf_width fmt) z.bits
  obtain ⟨u, hexec, hframe, hcore⟩ := onCore_step h
    (body := fun s => retire (setLow (s.modCore c.toNat (fun x => x.stick z.flags)) c.toNat rd n z.bits) c.toNat)
    (hstep.retire h.phys) (by simpa using h.irq)
  refine ⟨u, y, ?_, hframe, hy, hcore⟩
  rw [← hexec]
  show execScalarFpOperation c .cvtFI fmt rd r1 r2 r3 s = _
  unfold execScalarFpOperation
  rw [onCore_runs h, onCore_runs h]

/-! ## SCADD, SCSET and SCWAIT (R295) -/

/-- SCADD and SCSET act on the own package's counter. -/
theorem exec_coreSync {r1 r2 : BitVec 5} (setOp : Bool) (hhigh : bitsOf ((s.core c.toNat).gr r1).toNat 31 16 = 0)
    (hn : ((s.core c.toNat).gr r1).toNat % 65536 < 16384)
    (hown : memberTarget s (((s.core c.toNat).gr r1).extractLsb' 32 32) = .ok none)
    (hmirror : ((s.core c.toNat).gr r1).toNat % 65536 ≠ 16383) :
    let n := ((s.core c.toNat).gr r1).toNat % 65536
    let v := ((s.core c.toNat).gr r2).toNat
    ∃ u, coreSync c r1 r2 setOp s = .next u ∧ SyncFrame s u ∧ u.core c.toNat = (s.core c.toNat).moved ∧
      (∀ m, m ≠ c.toNat → u.core m = s.core m) ∧ u.syncVal n = appliedSync s setOp n v ∧ ∀ m, m ≠ n → u.syncVal m = s.syncVal m := by
  intro n v
  have htarget : coreSyncTarget s ((s.core c.toNat).gr r1) false = .ok none := by
    simp [coreSyncTarget, syncFault, hhigh, hown, hmirror, Nat.not_le.2 hn]
  have hcore (k : Nat) : (applySync s setOp n v).core k = s.core k := applySync_core ..
  have happlied : SyncFrame s (applySync s setOp n v) := applySync_syncFrame s setOp v hn
  have hretired := (CoreStep.refl c (applySync s setOp n v)).retire (hasCore_of_rig h.phys happlied.rig)
  rw [hcore] at hretired
  have hbody : coreSync c r1 r2 setOp s = .next (takeIrq (retire (applySync s setOp n v) c.toNat) c.toNat) := by
    unfold coreSync
    rw [onCore_runs h]
    dsimp only
    rw [htarget]
  refine ⟨retire (applySync s setOp n v) c.toNat, ?_, happlied.trans hretired.frame.syncFrame, hretired.core,
    fun m hm => (hretired.frame.cores m hm).trans (hcore m), ?_, fun m hm => ?_⟩
  · rw [hbody, takeIrq_none]
    rw [hretired.core, Core.moved_irqAt]
    exact h.irq
  · rw [hretired.frame.syncVal, applySync_syncVal, if_pos rfl]
  · rw [hretired.frame.syncVal, applySync_syncVal, if_neg hm]

section
variable {r1 r2 : BitVec 5} (hhigh : bitsOf ((s.core c.toNat).gr r1).toNat 31 16 = 0)
  (hn : ((s.core c.toNat).gr r1).toNat % 65536 < 16384)
include hhigh hn

omit h in
theorem coreSyncTarget_wait : coreSyncTarget s ((s.core c.toNat).gr r1) true = .ok none := by
  simp [coreSyncTarget, hhigh, Nat.not_le.2 hn]

theorem exec_scCoreWait :
    let n := ((s.core c.toNat).gr r1).toNat % 65536
    let v := (s.core c.toNat).gr r2
    exec (.scCoreWait c r1 r2) s = .next (takeIrq (if v.toNat ≤ s.syncVal n then retire s c.toNat
      else addWait (retire (s.modCore c.toNat (fun x => { x with scWait := some (n, v) })) c.toNat) (.core c) n v.toNat) c.toNat) := by
  show execScCoreWait c r1 r2 s = _
  unfold execScCoreWait
  rw [onCore_runs h]
  dsimp only
  rw [coreSyncTarget_wait hhigh hn]

/-- SCWAIT on a counter that has reached its value completes. -/
theorem exec_scCoreWait_passes (hv : ((s.core c.toNat).gr r2).toNat ≤ s.syncVal (((s.core c.toNat).gr r1).toNat % 65536)) :
    ∃ u, exec (.scCoreWait c r1 r2) s = .next u ∧ CoreFrame c s u ∧ u.core c.toNat = (s.core c.toNat).moved := by
  have hstep := (CoreStep.refl c s).retire h.phys
  refine ⟨retire s c.toNat, ?_, hstep.frame, hstep.core⟩
  rw [exec_scCoreWait h hhigh hn, if_pos hv, takeIrq_none]
  rw [hstep.core, Core.moved_irqAt]
  exact h.irq

/-- SCWAIT on a counter below its value waits. -/
theorem exec_scCoreWait_waits (hv : s.syncVal (((s.core c.toNat).gr r1).toNat % 65536) < ((s.core c.toNat).gr r2).toNat) :
    let n := ((s.core c.toNat).gr r1).toNat % 65536
    let v := (s.core c.toNat).gr r2
    ∃ u q, exec (.scCoreWait c r1 r2) s = .next u ∧ SyncFrame s u ∧
      u.core c.toNat = { (s.core c.toNat).moved with scWait := some (n, v) } ∧
      (∀ m, m ≠ c.toNat → u.core m = s.core m) ∧ (∀ m, u.syncVal m = s.syncVal m) ∧
      u.sync.waits = s.sync.waits ++ [q] ∧ q.who = .core c ∧ q.counter = n ∧ q.value = v := by
  intro n v
  have hstep := ((CoreStep.refl c s).mod (fun x => { x with scWait := some (n, v) })).retire h.phys
  have hmoved : Core.moved { s.core c.toNat with scWait := some (n, v) } = { (s.core c.toNat).moved with scWait := some (n, v) } := by
    unfold Core.moved
    cases (s.core c.toNat).trap <;> rfl
  rw [hmoved] at hstep
  obtain ⟨q, hframe, hcore, hcores, hval, hwaits, hwho, hcounter, hvalue⟩ := hstep.waits hn v
  refine ⟨_, q, ?_, hframe, hcore, hcores, hval, hwaits, hwho, hcounter, hvalue⟩
  rw [exec_scCoreWait h hhigh hn, if_neg (Nat.not_le.2 hv), takeIrq_none]
  rw [hcore]
  exact (Core.moved_irqAt _).trans h.irq

end
end
end Sys2Proof.Machine

open Sys2Proof Sys2Proof.Machine

/-- Settles O41: each instruction writes its core, or the own package's counter, and completes. -/
theorem scalarInstructionsComplete : Obligations.ScalarInstructionsComplete := by
  unfold Obligations.ScalarInstructionsComplete
  intro s c h k x
  refine ⟨fun rd => ?_, fun rs => ?_, ?_, fun op fmt rd r1 r2 r3 => ⟨fun z hz => ?_, fun hop => ?_⟩,
    ?_⟩
  · exact retires_mod h (fun x => x.setG rd x.fpmode) ((Core.setG_irqAt ..).trans h.irq)
  · exact retires_mod h (fun x => { x with fpmode := BitVec.ofNat 64 ((x.gr rs).toNat % 256) })
  · exact onCore_step h (body := fun s => retire s c.toNat) ((CoreStep.refl c s).retire h.phys) ((Core.moved_irqAt _).trans h.irq)
  · rw [exec_scalarFp h hz]
    exact retires_mod h _
  · subst hop
    exact exec_scalarFp_toInt h
  · intro r1 r2 a n hhigh hn
    refine ⟨fun hown hmirror => ⟨exec_coreSync h false hhigh hn hown hmirror, ?_⟩, exec_scCoreWait_passes h hhigh hn,
      exec_scCoreWait_waits h hhigh hn⟩
    obtain ⟨u, hexec, hframe, hcore, hcores, hself, hne⟩ := exec_coreSync (r2 := r2) h true hhigh hn hown hmirror
    exact ⟨u, hexec, hframe, hcore, hcores, hself.trans (Nat.mod_eq_of_lt (x.gr r2).isLt), hne⟩
end

section
/-! Scalar accesses to stack memory: loads, stores and atomics of a steering core (R293, R294, R296). -/

namespace Sys2Proof.Machine

/-! ## Little-endian values -/

theorem leNat_lt (bs : List Byte) : leNat bs < 256 ^ bs.length := by
  induction bs with
  | nil => decide
  | cons b r ih =>
    have hb : b.toNat < 256 := b.isLt
    rw [leNat, List.length_cons, Nat.pow_succ]
    omega

theorem leNat_read_lt (m : Memory) (a n : Nat) : leNat (Memory.read m a n) < 2 ^ (8 * n) := by
  have h := leNat_lt (Memory.read m a n)
  rwa [Memory.read, List.length_map, List.length_range, show 256 = 2 ^ 8 from rfl, ← Nat.pow_mul] at h

/-! ## Stack memory without errors, marks and writes that wait -/

/-- A package physical address lies in a stack. -/
def InStacks (pa : Nat) : Prop := pa < 0xC000000000

theorem InStacks.counter {pa n : Nat} (h : InStacks pa) (hn : n < 2) : IsCounter (stackBase (stackOf pa)) n := by
  have hall : ∀ m < 8, ∀ n < 2, IsCounter (stackBase m) n := by decide
  refine hall _ ?_ n hn
  unfold InStacks at h
  unfold stackOf
  omega

theorem cleanMem_of {s u : State} (h : cleanMem s) {b : Memory} {d : List Nat} (hmem : u.mem = { s.mem with bytes := b, dirty := d })
    (hfab : u.fab = s.fab) : cleanMem u := by
  unfold cleanMem at *
  rw [hmem, hfab]
  exact h

theorem senseLine_clean {s : State} (h : cleanMem s) (pa : Nat) : senseLine s pa = s := by
  obtain ⟨hlatent, -⟩ := h
  simp [senseLine, hlatent, kvGet]

theorem coreRead_clean {s : State} (h : cleanMem s) (pa n : Nat) :
    coreRead s (.stack pa) n = (bump s (stackBase (stackOf pa)) 0 n, leNat (Memory.read s.mem.bytes pa n), 0) := by
  obtain ⟨-, hmarks, hstalled, -⟩ := id h
  have hview (u : State) (hu : u.mem = s.mem) : u.viewBytes = s.mem.bytes := by simp [State.viewBytes, hu, hstalled]
  have hmark (u : State) (hu : u.mem = s.mem) : u.lineMark pa = none := by simp [State.lineMark, hu, hmarks, kvGet]
  simp [coreRead, readLoc, readLine, senseLine_clean h, hview, hmark]

theorem trackWrite_clean {s : State} (hwindow : s.mem.windowOpen = false) (pa : Nat) :
    ∃ d, trackWrite s pa = { s with mem := { s.mem with dirty := d } } := by
  unfold trackWrite
  split
  · exact ⟨s.mem.dirty, rfl⟩
  · split
    · exact ⟨s.mem.dirty, rfl⟩
    · exact ⟨_, by simp only [hwindow, Bool.false_and, Bool.false_eq_true, if_false]; rfl⟩

/-- The errors of a line that is written: a whole line's are cleared, those of part of a line are found. -/
def clearLine (s : State) (pa n : Nat) : State :=
  if pa % 128 = 0 && n = 128 then
    { s with mem := { s.mem with marks := kvErase s.mem.marks (pa / 128), latent := kvErase s.mem.latent (pa / 128) } }
  else senseLine s pa

/-- Bytes are stored and counted. -/
def putBytes (s : State) (pa : Nat) (bs : List Byte) : State :=
  bump { s with mem := { s.mem with bytes := Memory.write s.mem.bytes pa bs } } (stackBase (stackOf pa)) 1 bs.length

theorem performWrite_eq (s : State) (pa : Nat) (bs : List Byte) :
    performWrite s pa bs = putBytes (clearLine (trackWrite s pa) pa bs.length) pa bs := rfl

theorem clearLine_clean {s : State} (h : cleanMem s) (pa n : Nat) : clearLine s pa n = s := by
  obtain ⟨hlatent, hmarks, -⟩ := id h
  have hmarks : kvErase s.mem.marks (pa / 128) = s.mem.marks := by
    rw [hmarks]
    rfl
  have hlatent : kvErase s.mem.latent (pa / 128) = s.mem.latent := by
    rw [hlatent]
    rfl
  rw [clearLine, senseLine_clean h, hmarks, hlatent]
  exact ite_self s

/-- A write to clean memory stores its bytes and may set a dirty bit. -/
theorem writeLine_clean {s : State} (h : cleanMem s) {pa : Nat} (hpa : InStacks pa) (bs : List Byte) :
    ∃ d, EventFrame { s with mem := { s.mem with bytes := Memory.write s.mem.bytes pa bs, dirty := d } } (writeLine s pa bs) := by
  obtain ⟨-, -, hstalled, hwindow, hreads⟩ := id h
  have hclose : closeReads s pa = s := by simp [closeReads, hreads]
  have hslot : needsSlot s (pa / 65536) = false := by simp [needsSlot, noSlot, hwindow, hstalled]
  obtain ⟨d, htrack⟩ := trackWrite_clean hwindow pa
  refine ⟨d, ?_⟩
  rw [writeLine, hclose, hslot]
  show EventFrame _ (performWrite s pa bs)
  have htracked : cleanMem (trackWrite s pa) := by
    rw [htrack]
    exact cleanMem_of (b := s.mem.bytes) (d := d) h rfl rfl
  rw [performWrite_eq, clearLine_clean htracked, htrack]
  exact bump_frame _ _ (hpa.counter (by decide))

/-! ## Stores of a core -/

/-- `u` is `s` but for counting, free values, the bytes of stack memory, now `m`, their dirty bits, and core `c`, now `y` but for the
record of the lines that its program has written. -/
structure StoreStep (c : BitVec 8) (s u : State) (m : Memory) (y : Core) : Prop where
  frame : CoreFrame c { s with mem := u.mem } u
  mem   : u.mem = { s.mem with bytes := m, dirty := u.mem.dirty }
  core  : u.core c.toNat = { y with undo := (u.core c.toNat).undo }

theorem CoreFrame.withMem {c : BitVec 8} {s u : State} (h : CoreFrame c s u) (m : Mem) : CoreFrame c { s with mem := m } { u with mem := m } := by
  refine ⟨?_, h.cores, h.regs, h.host⟩
  rw [h.same]

/-- A store of a core writes memory and the core's record of its lines. -/
theorem coreWrite_stack (s : State) (c va pa : Nat) (bs : List Byte) :
    ∃ z : Core → List (Nat × List (List Byte)),
      coreWrite s c va (.stack pa) bs = (writeLine s pa bs).modCore c (fun x => { x with undo := z x }) :=
  ⟨fun x => kvSet x.undo (va / 128 * 128) ((kvGet x.undo (va / 128 * 128)).getD [Memory.read s.viewBytes (pa / 128 * 128) 128] ++
    [Memory.read (writeLine s pa bs).viewBytes (pa / 128 * 128) 128]), rfl⟩

namespace StoreStep

variable {c : BitVec 8} {s u : State} {m : Memory} {y : Core}

theorem refl (c : BitVec 8) (s : State) : StoreStep c s s s.mem.bytes (s.core c.toNat) := ⟨CoreFrame.refl c s, rfl, rfl⟩

theorem of_core (h : CoreStep c s u y) : StoreStep c s u s.mem.bytes y := by
  refine ⟨?_, by rw [h.frame.mem], by rw [h.core]⟩
  rw [h.frame.mem]
  exact h.frame

theorem irq (h : StoreStep c s u m y) : (u.core c.toNat).irqAt = y.irqAt := by rw [h.core]

theorem clean (h : StoreStep c s u m y) (hs : cleanMem s) : cleanMem u := by
  refine cleanMem_of hs h.mem ?_
  rw [h.frame.fab]

theorem rig (h : StoreStep c s u m y) : u.rig = s.rig := h.frame.rig

/-- A step of the core alone follows. -/
theorem next {v : State} (h : StoreStep c s u m y) {f : Core → Core} (hv : CoreStep c u v (f (u.core c.toNat)))
    (hf : ∀ x z, f { x with undo := z } = { f x with undo := z } := by exact fun _ _ => rfl) : StoreStep c s v m (f y) := by
  have hmem : v.mem = u.mem := hv.frame.mem
  refine ⟨?_, by rw [hmem]; exact h.mem, ?_⟩
  · rw [hmem]
    exact h.frame.trans hv.frame
  · rw [hv.core, h.core, hf]

/-- A store of the core follows. -/
theorem write (h : StoreStep c s u m y) (hs : cleanMem s) {pa : Nat} (hpa : InStacks pa) (va : Nat) (bs : List Byte) :
    StoreStep c s (coreWrite u c.toNat va (.stack pa) bs) (Memory.write m pa bs) y := by
  obtain ⟨d, hwrite⟩ := writeLine_clean (h.clean hs) hpa bs
  have hbytes : u.mem.bytes = m := by rw [h.mem]
  have hmem : (writeLine u pa bs).mem = { s.mem with bytes := Memory.write m pa bs, dirty := d } := by
    rw [hwrite.ring.mem, hbytes, h.mem]
  have hcore : (writeLine u pa bs).core c.toNat = u.core c.toNat := congrArg (kvGetD · c.toNat Core.reset) hwrite.ring.cores
  have hframe : CoreFrame c { s with mem := (writeLine u pa bs).mem } (writeLine u pa bs) := by
    refine (h.frame.withMem _).trans ?_
    rw [hwrite.ring.mem]
    exact hwrite.core c
  obtain ⟨z, hz⟩ := coreWrite_stack u c.toNat va pa bs
  rw [hz]
  refine ⟨hframe.trans (modCore_coreFrame ..), ?_, ?_⟩
  · rw [State.modCore_mem, hmem]
  · rw [State.core_modCore_self, hcore, h.core]

end StoreStep

theorem moved_undo (x : Core) (z : List (Nat × List (List Byte))) : Core.moved { x with undo := z } = { x.moved with undo := z } := by
  cases h : x.trap <;> simp [Core.moved, h]

theorem setG_undo (x : Core) (i : BitVec 5) (v : U64) (z : List (Nat × List (List Byte))) :
    Core.setG { x with undo := z } i v = { x.setG i v with undo := z } := by
  unfold Core.setG
  split <;> rfl

/-! ## A scalar access -/

/-- An access of a core that is not held, at an address that resolves. -/
structure AccessAt (s : State) (va n pa : Nat) (write : Bool) : Prop where
  held   : s.coreHeld va = false
  access : coreAccess s va n write = .ok (.stack pa)
  inside : InStacks pa

theorem accessAt_of {s : State} {va n pa : Nat} {write : Bool} (halign : va % n = 0) (hresolve : resolve s va write = .ok (.stack pa))
    (hpa : pa < 0xC000000000) (hrestoring : s.restoring va = false) (hheld : s.coreHeld va = false) : AccessAt s va n pa write :=
  ⟨hheld, by simp [coreAccess, halign, hresolve, hrestoring], hpa⟩

theorem scalarMem_ok {s : State} {va n pa : Nat} {write : Bool} (h : AccessAt s va n pa write) (c : Nat) (body : State → Loc → State) :
    scalarMem s c va n write body = body s (.stack pa) := by
  simp [scalarMem, h.held, h.access]

section
variable {s : State} {c : BitVec 8} {r1 : BitVec 5} {n pa : Nat} (h : CoreAt s c) (hclean : cleanMem s)
include h hclean

/-- A load gives the bytes in the low bits of its register. -/
theorem loadG_step (hat : AccessAt s ((s.core c.toNat).gr r1).toNat n pa false) (rd : BitVec 5) (hn : 8 * n ≤ 64) :
    ∃ y : U64, y.toNat % 2 ^ (8 * n) = leNat (Memory.read s.mem.bytes pa n) ∧
      CoreStep c s (loadG s c.toNat rd r1 n) (((s.core c.toNat).setG rd y).moved) := by
  have hread : CoreStep c s (bump s (stackBase (stackOf pa)) 0 n) (s.core c.toNat) :=
    ⟨(bump_frame s n (hat.inside.counter (by decide))).core c, bump_core ..⟩
  obtain ⟨y, hy, hstep⟩ := (hread.clocks h.phys (n := 7) (by decide)).low rd hn (leNat (Memory.read s.mem.bytes pa n))
  rw [Nat.mod_eq_of_lt (leNat_read_lt ..)] at hy
  refine ⟨y, hy, ?_⟩
  unfold loadG
  dsimp only
  rw [scalarMem_ok hat, coreRead_clean hclean]
  exact hstep.retire h.phys

/-- A store puts the low bytes of its register at the location. -/
theorem storeG_step (hat : AccessAt s ((s.core c.toNat).gr r1).toNat n pa true) (r2 : BitVec 5) :
    StoreStep c s (storeG s c.toNat r1 r2 n) (Memory.write s.mem.bytes pa (leBytes n ((s.core c.toNat).gr r2).toNat)) (s.core c.toNat).moved := by
  have hstore := (StoreStep.refl c s).write hclean hat.inside ((s.core c.toNat).gr r1).toNat (leBytes n ((s.core c.toNat).gr r2).toNat)
  have hphys := hasCore_of_rig h.phys hstore.rig
  unfold storeG
  dsimp only
  rw [scalarMem_ok hat]
  have hstep := hstore.next (f := Core.moved) (((CoreStep.refl c _).clocks hphys (n := 7) (by decide)).retire hphys) moved_undo
  rwa [coreRegs_congr hstore.rig] at hstep

/-- An atomic gives the word as it was, and stores the new one. -/
theorem exec_coreAtomic (hat : AccessAt s ((s.core c.toNat).gr r1).toNat 8 pa true) (rd r2 : BitVec 5) (f : U64 → U64 → U64 → U64) :
    let x := s.core c.toNat
    let w := BitVec.ofNat 64 (leNat (Memory.read s.mem.bytes pa 8))
    ∃ u, coreAtomic c rd r1 r2 f s = .next u ∧
      StoreStep c s u (Memory.write s.mem.bytes pa (leBytes 8 (f w (x.gr r2) (x.gr rd)).toNat)) (x.setG rd w).moved := by
  intro x w
  have hread : CoreStep c s (bump s (stackBase (stackOf pa)) 0 8) x :=
    ⟨(bump_frame s 8 (hat.inside.counter (by decide))).core c, bump_core ..⟩
  have hstore := (StoreStep.of_core hread).write hclean hat.inside (x.gr r1).toNat
    (leBytes 8 (f w (x.gr r2) (x.gr rd)).toNat)
  have hphys := hasCore_of_rig h.phys hstore.rig
  have hstep := hstore.next ((((CoreStep.refl c _).mod (fun x => x.setG rd w)).clocks hphys (n := 7) (by decide)).retire hphys)
    (f := fun x => (x.setG rd w).moved) (fun x z => by rw [setG_undo, moved_undo])
  refine ⟨_, ?_, hstep⟩
  unfold coreAtomic
  rw [onCore_runs h]
  dsimp only
  rw [scalarMem_ok hat]
  dsimp only
  rw [coreRead_clean hclean]
  refine congrArg _ (takeIrq_none (hstep.irq.trans ?_))
  simpa using h.irq

omit hclean in
/-- A command whose body stores. -/
theorem onCore_store {body : State → State} {m : Memory} {y : Core} (hbody : StoreStep c s (body s) m y) (hirq : y.irqAt = none) :
    ∃ u, onCore c s body = .next u ∧ StoreStep c s u m y :=
  ⟨body s, onCore_plain h (hbody.irq.trans hirq), hbody⟩

end

theorem coreAtomic_congr {f g : U64 → U64 → U64 → U64} (h : ∀ w v o, f w v o = g w v o) (c : BitVec 8) (rd r1 r2 : BitVec 5) (s : State) :
    coreAtomic c rd r1 r2 f s = coreAtomic c rd r1 r2 g s := by
  rw [show f = g from funext fun w => funext fun v => funext fun o => h w v o]

/-- Each atomic instruction is the atomic of its operation (Table 9.3). -/
theorem exec_atomicOp {i : Instr} {c : BitVec 8} {rd r1 r2 : BitVec 5} {f : U64 → U64 → U64 → U64}
    (h : atomicOp i = some (c, rd, r1, r2, f)) (s : State) : exec i s = coreAtomic c rd r1 r2 f s := by
  unfold atomicOp at h
  split at h <;> cases h
  case h_1 => rfl
  case h_2 => rfl
  case h_3 => rfl
  case h_4 =>
    show execAtMin c rd r1 r2 s = _
    exact coreAtomic_congr (fun w v _ => by simp [BitVec.slt]) ..
  case h_5 =>
    show execAtMax c rd r1 r2 s = _
    exact coreAtomic_congr (fun w v _ => by simp [BitVec.slt]) ..
  case h_6 =>
    show execAtMinu c rd r1 r2 s = _
    exact coreAtomic_congr (fun w v _ => by simp [BitVec.ult]) ..
  case h_7 =>
    show execAtMaxu c rd r1 r2 s = _
    exact coreAtomic_congr (fun w v _ => by simp [BitVec.ult]) ..

/-- The bytes outside those that a store of `n` bytes writes stay. -/
theorem get_write_else (m : Memory) {a n c : Nat} (v : Nat) (h : ¬(a ≤ c ∧ c < a + n)) :
    Memory.get (Memory.write m a (leBytes n v)) c = Memory.get m c :=
  Memory.get_write_outside m (by rw [length_leBytes]; omega)

end Sys2Proof.Machine

open Sys2Proof Sys2Proof.Machine

/-- Settles O42: an access that is not held and resolves to a stack reads or writes its bytes there. -/
theorem scalarAccessesReachMemory : Obligations.ScalarAccessesReachMemory := by
  unfold Obligations.ScalarAccessesReachMemory
  intro s c r1 n pa write h hclean k x va halign hresolve hpa hrestoring hheld
  have hat : AccessAt s va n pa write := accessAt_of halign hresolve hpa hrestoring hheld
  refine ⟨fun i rd hwrite hi => ?_, fun i rs hwrite hi => ?_, fun i rd r2 f hwrite hn hi => ?_⟩
  · subst hwrite
    have hn : 8 * n ≤ 64 := by
      obtain ⟨l, -, rfl⟩ | ⟨-, rfl⟩ := hi
      · have hall : ∀ l : BitVec 2, 8 * 2 ^ l.toNat ≤ 64 := by decide
        exact hall l
      · decide
    obtain ⟨y, hy, hstep⟩ := loadG_step h hclean hat rd hn
    obtain ⟨u, hexec, hframe, hcore⟩ := onCore_step h (body := fun s => loadG s k rd r1 n) hstep (by simpa using h.irq)
    refine ⟨u, y, ?_, hframe, hy, hcore⟩
    obtain ⟨l, rfl, rfl⟩ | ⟨rfl, rfl⟩ := hi
    · exact hexec
    · exact hexec
  · subst hwrite
    obtain ⟨u, hexec, hstep⟩ := onCore_store h (body := fun s => storeG s k r1 rs n) (storeG_step h hclean hat rs) (by simpa using h.irq)
    refine ⟨u, ?_, hstep.frame, hstep.core, hstep.mem, fun a ha => ?_⟩
    · obtain ⟨l, rfl, rfl⟩ | ⟨rfl, rfl⟩ := hi
      · exact hexec
      · exact hexec
    · rw [hstep.mem]
      exact get_write_else _ _ ha
  · subst hwrite hn
    obtain ⟨u, hexec, hstep⟩ := exec_coreAtomic h hclean hat rd r2 f
    refine ⟨u, (exec_atomicOp hi s).trans hexec, hstep.frame, hstep.core, hstep.mem, fun a ha => ?_⟩
    rw [hstep.mem]
    exact get_write_else _ _ ha
end

section
/-! Elements of gangs and bits of mask registers: what a read returns after a write, and what a run of writes leaves (R301, R303 to
R306). -/

namespace Sys2Proof.Machine

/-- What holds at the start of a fold over the numbers below `m` and from each of them to the next holds at its end. -/
theorem foldl_range_induct {α : Type} {P : Nat → α → Prop} {f : α → Nat → α} {a : α} {m : Nat} (h0 : P 0 a)
    (hstep : ∀ n y, n < m → P n y → P (n + 1) (f y n)) : P m ((List.range m).foldl f a) := by
  have hrun (n : Nat) (hn : n ≤ m) : P n ((List.range n).foldl f a) := by
    induction n with
    | zero => exact h0
    | succ n ih =>
      rw [List.range_succ, List.foldl_append]
      exact hstep n _ hn (ih (Nat.le_of_succ_le hn))
  exact hrun m (Nat.le_refl m)

/-! ## Widths and gangs -/

/-- A width of an element. -/
def IsWidth (ew : Nat) : Prop := ew = 8 ∨ ew = 16 ∨ ew = 32 ∨ ew = 64

theorem ewOf_cases (w : VWord) : ewOf w = 8 ∨ ewOf w = 16 ∨ ewOf w = 32 ∨ ewOf w = 64 := by
  have hall : ∀ e : BitVec 2, 8 * 2 ^ e.toNat = 8 ∨ 8 * 2 ^ e.toNat = 16 ∨ 8 * 2 ^ e.toNat = 32 ∨ 8 * 2 ^ e.toNat = 64 := by decide
  exact hall w.ew

theorem ewOf_width (w : VWord) : IsWidth (ewOf w) := ewOf_cases w

theorem gangOf_cases (w : VWord) : gangOf w = 1 ∨ gangOf w = 2 ∨ gangOf w = 4 ∨ gangOf w = 8 := by
  have hall : ∀ g : BitVec 2, 2 ^ g.toNat = 1 ∨ 2 ^ g.toNat = 2 ∨ 2 ^ g.toNat = 4 ∨ 2 ^ g.toNat = 8 := by decide
  exact hall w.g

/-- The elements below `n` of a gang of `g` registers at register `d` lie in it, and it in the register file. -/
structure GangFits (ew d g n : Nat) : Prop where
  width  : IsWidth ew
  file   : d + g ≤ 32
  inside : ∀ j, j < n → j * ew / 512 < g

/-! ## A field of a register -/

theorem setBits_eq {v o w : Nat} (x : Nat) (hw : 0 < w) : setBits v (o + w - 1) o x = 2 ^ (o + w) * (v / 2 ^ (o + w)) +
    (2 ^ o * (x % 2 ^ w) + v % 2 ^ o) := by
  have hlen : o + w - 1 - o + 1 = w := by omega
  have hsplit : v = 2 ^ (o + w) * (v / 2 ^ (o + w)) + (2 ^ o * (v / 2 ^ o % 2 ^ w) + v % 2 ^ o) := by
    have hlow := Nat.div_add_mod v (2 ^ o)
    have hmid := Nat.div_add_mod (v / 2 ^ o) (2 ^ w)
    rw [Nat.div_div_eq_div_mul, ← Nat.pow_add] at hmid
    calc v = 2 ^ o * (2 ^ w * (v / 2 ^ (o + w)) + v / 2 ^ o % 2 ^ w) + v % 2 ^ o := by rw [hmid, hlow]
      _ = _ := by rw [Nat.mul_add, ← Nat.mul_assoc, ← Nat.pow_add, Nat.add_assoc]
  unfold setBits bitsOf
  rw [hlen, Nat.shiftRight_eq_div_pow, Nat.mul_comm (v / 2 ^ o % 2 ^ w), Nat.mul_comm (x % 2 ^ w)]
  omega

theorem testBit_setBits (v x : Nat) {o w : Nat} (hw : 0 < w) (i : Nat) :
    (setBits v (o + w - 1) o x).testBit i = if o ≤ i ∧ i < o + w then x.testBit (i - o) else v.testBit i := by
  have hlow : v % 2 ^ o < 2 ^ o := Nat.mod_lt _ (by positivity)
  have hfield : 2 ^ o * (x % 2 ^ w) + v % 2 ^ o < 2 ^ (o + w) := by
    have hx : x % 2 ^ w + 1 ≤ 2 ^ w := Nat.mod_lt _ (by positivity)
    calc 2 ^ o * (x % 2 ^ w) + v % 2 ^ o < 2 ^ o * (x % 2 ^ w + 1) := by rw [Nat.mul_add]; omega
      _ ≤ 2 ^ o * 2 ^ w := Nat.mul_le_mul_left _ hx
      _ = 2 ^ (o + w) := (Nat.pow_add 2 o w).symm
  rw [setBits_eq x hw, Nat.testBit_two_pow_mul_add _ hfield, Nat.testBit_two_pow_mul_add _ hlow, Nat.testBit_mod_two_pow,
    Nat.testBit_mod_two_pow, Nat.testBit_div_two_pow]
  by_cases hlo : i < o
  · simp [hlo, Nat.lt_of_lt_of_le hlo (Nat.le_add_right o w)]
  · by_cases hhi : i < o + w
    · simp [hlo, hhi, Nat.not_lt.1 hlo, show i - o < w by omega]
    · simp [hhi, Nat.sub_add_cancel (Nat.not_lt.1 hhi)]

/-- The field of `w` bits at `o` of a register. -/
def fieldOf (v : BitVec 512) (o w : Nat) : Nat := v.toNat >>> o % 2 ^ w

/-- A register with a field replaced. -/
def putField (v : BitVec 512) (o w x : Nat) : BitVec 512 := BitVec.ofNat 512 (setBits v.toNat (o + w - 1) o x)

theorem putField_bit (v : BitVec 512) (x : Nat) {o w : Nat} (hw : 0 < w) (ho : o + w ≤ 512) (i : Nat) :
    (putField v o w x).getLsbD i = if o ≤ i ∧ i < o + w then x.testBit (i - o) else v.getLsbD i := by
  rw [putField, BitVec.getLsbD_ofNat, testBit_setBits v.toNat x hw]
  split
  · rw [decide_eq_true (show i < 512 by omega), Bool.true_and]
  · by_cases hi : i < 512
    · rw [decide_eq_true hi, Bool.true_and]
      rfl
    · rw [BitVec.getLsbD_of_ge v i (Nat.not_lt.1 hi), decide_eq_false hi, Bool.false_and]

/-- A bit of a field. -/
theorem fieldOf_bit (v : BitVec 512) (o w i : Nat) : (fieldOf v o w).testBit i = (decide (i < w) && v.getLsbD (o + i)) := by
  rw [fieldOf, Nat.testBit_mod_two_pow, Nat.testBit_shiftRight]
  rfl

theorem fieldOf_putField_self (v : BitVec 512) (x : Nat) {o w : Nat} (hw : 0 < w) (ho : o + w ≤ 512) :
    fieldOf (putField v o w x) o w = x % 2 ^ w := by
  refine Nat.eq_of_testBit_eq fun i => ?_
  rw [fieldOf_bit, putField_bit v x hw ho, Nat.testBit_mod_two_pow]
  by_cases hi : i < w
  · simp [hi]
  · simp [hi]

theorem fieldOf_putField_ne (v : BitVec 512) (x : Nat) {o o' w : Nat} (hw : 0 < w) (ho : o + w ≤ 512) (hne : o' + w ≤ o ∨ o + w ≤ o') :
    fieldOf (putField v o w x) o' w = fieldOf v o' w := by
  refine Nat.eq_of_testBit_eq fun i => ?_
  rw [fieldOf_bit, fieldOf_bit, putField_bit v x hw ho]
  by_cases hi : i < w
  · rw [if_neg (by omega)]
  · simp [hi]

/-! ## An element (R303) -/

theorem elem_lt (x : Core) (ew n i : Nat) : x.elem ew n i < 2 ^ ew := Nat.mod_lt _ (by positivity)

theorem elem_eq (x : Core) (ew n i : Nat) : x.elem ew n i = fieldOf (x.v.getD (n + i * ew / 512) 0) (i * ew % 512) ew := rfl

theorem setElem_v (x : Core) (ew n i z : Nat) : (x.setElem ew n i z).v =
    x.v.set (n + i * ew / 512) (putField (x.v.getD (n + i * ew / 512) 0) (i * ew % 512) ew z) := rfl

theorem getD_set {α : Type} {l : List α} {r : Nat} (a d : α) (hr : r < l.length) (k : Nat) :
    (l.set r a).getD k d = if k = r then a else l.getD k d := by
  rw [List.getD_eq_getElem?_getD, List.getD_eq_getElem?_getD, List.getElem?_set]
  by_cases hk : k = r
  · simp [hk, hr]
  · simp [hk, Ne.symm hk]

/-- An element after the write of one of its width: its value modulo its width, or the element as it was. -/
theorem elem_setElem {x : Core} {ew n i : Nat} (hew : IsWidth ew) (hr : n + i * ew / 512 < x.v.length) (z j : Nat) :
    (x.setElem ew n i z).elem ew n j = if j = i then z % 2 ^ ew else x.elem ew n j := by
  have hw : 0 < ew ∧ i * ew % 512 + ew ≤ 512 := by rcases hew with rfl | rfl | rfl | rfl <;> omega
  rw [elem_eq, setElem_v, getD_set _ _ hr]
  by_cases hj : j = i
  · rw [if_pos hj, hj, if_pos rfl, fieldOf_putField_self _ z hw.1 hw.2]
  · rw [if_neg hj, elem_eq]
    split
    · next hreg =>
      have hapart : j * ew % 512 + ew ≤ i * ew % 512 ∨ i * ew % 512 + ew ≤ j * ew % 512 := by
        rcases hew with rfl | rfl | rfl | rfl <;> omega
      rw [fieldOf_putField_ne _ z hw.1 hw.2 hapart, hreg]
    · rfl

theorem setElem_reg {x : Core} {ew n i : Nat} (hr : n + i * ew / 512 < x.v.length) (z : Nat) {r : Nat} (hne : r ≠ n + i * ew / 512) :
    (x.setElem ew n i z).v.getD r 0 = x.v.getD r 0 := by
  rw [setElem_v, getD_set _ _ hr, if_neg hne]

/-! ## A mask bit (R304) -/

theorem maskBit_setMaskBit {x : Core} {k i : Nat} (hk : k ≠ 0) (hlen : k < x.k.length) (hi : i < 512) (b : Bool) (j : Nat) :
    (x.setMaskBit k i b).maskBit k j = if j = i then b else x.maskBit k j := by
  have hbit : (bitAt b 0).testBit 0 = b := by cases b <;> rfl
  have hmask : (x.setMaskBit k i b).mask k = putField (x.mask k) i 1 (bitAt b 0) := by
    simp [Core.setMaskBit, Core.setMask, Core.mask, hk, putField, hlen]
  rw [Core.maskBit, Core.maskBit, hmask, putField_bit _ _ (by decide) (by omega)]
  by_cases hj : j = i
  · simp [hj, hbit]
  · rw [if_neg (by omega), if_neg hj]

theorem setMaskBit_reg {x : Core} {k i r : Nat} (b : Bool) (hr : r ≠ k) : (x.setMaskBit k i b).k.getD r 0 = x.k.getD r 0 := by
  unfold Core.setMaskBit Core.setMask
  split
  · rfl
  · simp [List.getD_eq_getElem?_getD, List.getElem?_set_ne (Ne.symm hr)]

theorem setMaskBit_length (x : Core) (k i : Nat) (b : Bool) : (x.setMaskBit k i b).k.length = x.k.length := by
  unfold Core.setMaskBit Core.setMask
  split
  · rfl
  · exact List.length_set

@[simp] theorem Core.setMaskBit_v (x : Core) (k i : Nat) (b : Bool) : (x.setMaskBit k i b).v = x.v := by
  unfold Core.setMaskBit Core.setMask
  split <;> rfl

@[simp] theorem Core.setMaskBit_fpmode (x : Core) (k i : Nat) (b : Bool) : (x.setMaskBit k i b).fpmode = x.fpmode := by
  unfold Core.setMaskBit Core.setMask
  split <;> rfl

/-! ## What the elements of an instruction may change of its core -/

/-- `y` is `x` but for the vector and mask registers, VUSED and FPMODE. -/
def VecOnly (x y : Core) : Prop := y = { x with v := y.v, vused := y.vused, fpmode := y.fpmode, k := y.k }

namespace VecOnly

variable {x y : Core}

theorem refl (x : Core) : VecOnly x x := rfl

theorem setElem (h : VecOnly x y) (ew n i z : Nat) : VecOnly x (y.setElem ew n i z) := by
  unfold VecOnly at h ⊢
  rw [h]
  rfl

theorem stick (h : VecOnly x y) (n : Nat) : VecOnly x (y.stick n) := by
  unfold VecOnly at h ⊢
  rw [h]
  rfl

theorem setMaskBit (h : VecOnly x y) (k i : Nat) (b : Bool) : VecOnly x (y.setMaskBit k i b) := by
  unfold Core.setMaskBit Core.setMask
  split
  · exact h
  · unfold VecOnly at h ⊢
    rw [h]

end VecOnly

/-! ## A run of elements -/

/-- Of the gang of `g` registers at `d`, the `n` elements from `b` have taken their values, and nothing else has changed. -/
structure GangRun (ew d g b n : Nat) (val : Nat → Nat) (x y : Core) : Prop where
  length : y.v.length = 32
  elems  : ∀ j, y.elem ew d j = if b ≤ j ∧ j < b + n then val j else x.elem ew d j
  regs   : ∀ r, ¬(d ≤ r ∧ r < d + g) → y.v.getD r 0 = x.v.getD r 0

namespace GangRun

variable {ew d g b n : Nat} {val : Nat → Nat} {x y : Core}

theorem start (hlen : x.v.length = 32) : GangRun ew d g b 0 val x x :=
  ⟨hlen, fun j => (if_neg (by omega)).symm, fun _ _ => rfl⟩

/-- The registers alone matter. -/
theorem of_v {z : Core} (h : GangRun ew d g b n val x y) (hv : z.v = y.v) : GangRun ew d g b n val x z := by
  refine ⟨hv ▸ h.length, fun j => ?_, fun r hr => hv ▸ h.regs r hr⟩
  rw [← h.elems j, Core.elem, Core.elem, hv]

/-- The next element takes its value. -/
theorem write {m z : Nat} (h : GangRun ew d g b n val x y) (hfit : GangFits ew d g m) (hn : b + n < m) (hz : z % 2 ^ ew = val (b + n)) :
    GangRun ew d g b (n + 1) val x (y.setElem ew d (b + n) z) := by
  have hin := hfit.inside (b + n) hn
  have hreg : d + (b + n) * ew / 512 < y.v.length := by
    have := hfit.file
    rw [h.length]
    omega
  refine ⟨?_, fun j => ?_, fun r hr => ?_⟩
  · rw [setElem_v, List.length_set, h.length]
  · rw [elem_setElem hfit.width hreg, hz]
    by_cases hj : j = b + n
    · rw [if_pos hj, hj, if_pos (by omega)]
    · rw [if_neg hj, h.elems]
      exact if_congr (by omega) rfl rfl
  · rw [setElem_reg hreg z (by omega), h.regs r hr]

/-- The next element keeps what it held. -/
theorem keep (h : GangRun ew d g b n val x y) (hz : val (b + n) = x.elem ew d (b + n)) : GangRun ew d g b (n + 1) val x y := by
  refine ⟨h.length, fun j => ?_, h.regs⟩
  rw [h.elems]
  by_cases hj : j = b + n
  · rw [if_neg (by omega), if_pos (by omega), hj, hz]
  · exact if_congr (by omega) rfl rfl

end GangRun

/-- Of the mask register `d`, the `n` bits from `b` have taken their values, and no other register or bit has changed. -/
structure MaskRun (d b n : Nat) (val : Nat → Bool) (x y : Core) : Prop where
  length : y.k.length = 8
  bits   : ∀ j, y.maskBit d j = if b ≤ j ∧ j < b + n then val j else x.maskBit d j
  regs   : ∀ r, r ≠ d → y.k.getD r 0 = x.k.getD r 0

namespace MaskRun

variable {d b n : Nat} {val : Nat → Bool} {x y : Core}

theorem start (hlen : x.k.length = 8) : MaskRun d b 0 val x x :=
  ⟨hlen, fun j => (if_neg (by omega)).symm, fun _ _ => rfl⟩

theorem of_k {z : Core} (h : MaskRun d b n val x y) (hk : z.k = y.k) : MaskRun d b n val x z := by
  refine ⟨hk ▸ h.length, fun j => ?_, fun r hr => hk ▸ h.regs r hr⟩
  rw [← h.bits j, Core.maskBit, Core.maskBit, Core.mask, Core.mask, hk]

theorem write (h : MaskRun d b n val x y) (hd : d ≠ 0 ∧ d < 8) (hn : b + n < 512) {z : Bool} (hz : z = val (b + n)) :
    MaskRun d b (n + 1) val x (y.setMaskBit d (b + n) z) := by
  refine ⟨(setMaskBit_length ..).trans h.length, fun j => ?_, fun r hr => (setMaskBit_reg _ hr).trans (h.regs r hr)⟩
  rw [maskBit_setMaskBit hd.1 (by rw [h.length]; exact hd.2) hn]
  by_cases hj : j = b + n
  · rw [if_pos hj, hj, if_pos (by omega), hz]
  · rw [if_neg hj, h.bits]
    exact if_congr (by omega) rfl rfl

theorem keep (h : MaskRun d b n val x y) (hz : val (b + n) = x.maskBit d (b + n)) : MaskRun d b (n + 1) val x y := by
  refine ⟨h.length, fun j => ?_, h.regs⟩
  rw [h.bits]
  by_cases hj : j = b + n
  · rw [if_neg (by omega), if_pos (by omega), hj, hz]
  · exact if_congr (by omega) rfl rfl

end MaskRun

end Sys2Proof.Machine
end

section
/-! Span instructions that write a gang or a mask register by elements: the run of their elements, and the table of their values
(R303 to R310, R313, R316). -/

namespace Sys2Proof.Machine

/-! ## The run of the elements (R305, R306) -/

/-- What the elements of an instruction do at the `k`th from VRESUME. -/
def elemStep (x : Core) (w : VWord) (put : Core → Nat → Nat → Core) (f : Nat → Nat × Nat) (y : Core) (k : Nat) : Core :=
  let i := x.vresume + k
  if x.activeAt w i then (put y i (f i).1).stick (f i).2 else if w.zero then put y i 0 else y

/-- FPMODE after the first `n` elements from VRESUME: the flags of the active ones accumulate. -/
def stuckFlags (x : Core) (w : VWord) (flags : Nat → Nat) (n : Nat) : U64 :=
  (List.range n).foldl (fun m k => if x.activeAt w (x.vresume + k) then m ||| BitVec.ofNat 64 (flags (x.vresume + k) * 8) else m) x.fpmode

section
variable {x : Core} {w : VWord} {put : Core → Nat → Nat → Core} {f : Nat → Nat × Nat}

/-- What holds at the start and from each element to the next holds at the end. -/
theorem runElems_induct {P : Nat → Core → Prop} (h0 : P 0 x)
    (hstep : ∀ n y, x.vresume + n < x.spanLen → P n y → P (n + 1) (elemStep x w put f y n)) :
    P (x.spanLen - x.vresume) (runElems x w put f) :=
  foldl_range_induct (f := elemStep x w put f) h0 fun n y hn => hstep n y (by omega)

/-- A property that writes and flags keep is kept by the run. -/
theorem runElems_keeps {P : Core → Prop} (h0 : P x) (hput : ∀ y i v, P y → P (put y i v)) (hstick : ∀ y n, P y → P (y.stick n)) :
    P (runElems x w put f) := by
  refine runElems_induct (P := fun _ => P) h0 fun n y _ hy => ?_
  unfold elemStep
  dsimp only
  split
  · exact hstick _ _ (hput _ _ _ hy)
  · split
    · exact hput _ _ _ hy
    · exact hy

theorem runElems_fpmode (hput : ∀ y i v, (put y i v).fpmode = y.fpmode) :
    (runElems x w put f).fpmode = stuckFlags x w (fun i => (f i).2) (x.spanLen - x.vresume) := by
  refine runElems_induct (P := fun n y => y.fpmode = stuckFlags x w (fun i => (f i).2) n) rfl fun n y _ hy => ?_
  unfold stuckFlags at hy ⊢
  rw [List.range_succ, List.foldl_append, List.foldl_cons, List.foldl_nil, ← hy]
  unfold elemStep
  dsimp only
  split
  · rw [Core.stick, hput]
  · split
    · exact hput ..
    · rfl

end

/-- Write an element of the destination gang. -/
def putElem (ew d : Nat) (y : Core) (i v : Nat) : Core := y.setElem ew d i v
/-- Write a bit of the destination mask register. -/
def putBit (d : Nat) (y : Core) (i v : Nat) : Core := y.setMaskBit d i (v != 0)

/-- The element that an instruction leaves between VRESUME and SPAN: by activity and ZERO (R305). -/
def elemVal (x : Core) (w : VWord) (ew d : Nat) (f : Nat → Nat) (j : Nat) : Nat :=
  if x.activeAt w j then f j % 2 ^ ew else if w.zero then 0 else x.elem ew d j

/-- The mask bit that an instruction leaves between VRESUME and SPAN. -/
def bitVal (x : Core) (w : VWord) (d : Nat) (f : Nat → Bool) (j : Nat) : Bool :=
  if x.activeAt w j then f j else !w.zero && x.maskBit d j

theorem runElems_gang {x : Core} {w : VWord} {ew d g : Nat} (hfit : GangFits ew d g x.spanLen) (hlen : x.v.length = 32)
    (f : Nat → Nat × Nat) :
    GangRun ew d g x.vresume (x.spanLen - x.vresume) (elemVal x w ew d (fun i => (f i).1)) x (runElems x w (putElem ew d) f) := by
  refine runElems_induct (P := fun n y => GangRun ew d g x.vresume n (elemVal x w ew d (fun i => (f i).1)) x y)
    (GangRun.start hlen) fun n y hn hy => ?_
  unfold elemStep
  dsimp only
  split
  · next hactive => exact (hy.write (z := (f (x.vresume + n)).1) hfit hn (by simp [elemVal, hactive])).of_v rfl
  · next hactive =>
    split
    · next hzero => exact hy.write hfit hn (by simp [elemVal, hactive, hzero])
    · next hzero => exact hy.keep (by simp [elemVal, hactive, hzero])

theorem runElems_mask {x : Core} {w : VWord} {d : Nat} (hd : d ≠ 0 ∧ d < 8) (hspan : x.spanLen ≤ 512) (hlen : x.k.length = 8)
    (f : Nat → Bool × Nat) :
    MaskRun d x.vresume (x.spanLen - x.vresume) (bitVal x w d (fun i => (f i).1)) x
      (runElems x w (putBit d) (fun i => (bitAt (f i).1 0, (f i).2))) := by
  have hbit (b : Bool) : (bitAt b 0 != 0) = b := by cases b <;> rfl
  refine runElems_induct (P := fun n y => MaskRun d x.vresume n (bitVal x w d (fun i => (f i).1)) x y)
    (MaskRun.start hlen) fun n y hn hy => ?_
  unfold elemStep
  dsimp only
  split
  · next hactive =>
    exact (hy.write (z := bitAt (f (x.vresume + n)).1 0 != 0) hd (by omega) (by simp [bitVal, hactive, hbit])).of_k rfl
  · next hactive =>
    split
    · next hzero => exact hy.write (z := (0 : Nat) != 0) hd (by omega) (by simp [bitVal, hactive, hzero])
    · next hzero => exact hy.keep (by simp [bitVal, hactive, hzero])

theorem runElems_gang_only (x : Core) (w : VWord) (ew d : Nat) (f : Nat → Nat × Nat) :
    VecOnly x (runElems x w (putElem ew d) f) ∧ (runElems x w (putElem ew d) f).k = x.k :=
  runElems_keeps (P := fun y => VecOnly x y ∧ y.k = x.k) ⟨VecOnly.refl x, rfl⟩ (fun _ _ _ h => ⟨h.1.setElem .., h.2⟩)
    (fun _ _ h => ⟨h.1.stick _, h.2⟩)

theorem runElems_mask_only (x : Core) (w : VWord) (d : Nat) (f : Nat → Nat × Nat) :
    VecOnly x (runElems x w (putBit d) f) ∧ (runElems x w (putBit d) f).v = x.v :=
  runElems_keeps (P := fun y => VecOnly x y ∧ y.v = x.v) ⟨VecOnly.refl x, rfl⟩
    (fun _ _ _ h => ⟨h.1.setMaskBit .., (Core.setMaskBit_v ..).trans h.2⟩) (fun _ _ h => ⟨h.1.stick _, h.2⟩)

/-! ## The end of a vector instruction -/

/-- The core after a vector instruction whose elements left `x`: VRESUME is 0 and, at U, the program counter moves on. -/
def Core.over (x : Core) : Core := (x.setVresume 0).moved

section
variable (x : Core)
@[simp] theorem Core.over_v : x.over.v = x.v := by unfold Core.over Core.moved Core.setVresume; split <;> split <;> rfl
@[simp] theorem Core.over_k : x.over.k = x.k := by unfold Core.over Core.moved Core.setVresume; split <;> split <;> rfl
@[simp] theorem Core.over_vused : x.over.vused = x.vused := by unfold Core.over Core.moved Core.setVresume; split <;> split <;> rfl
@[simp] theorem Core.over_fpmode : x.over.fpmode = x.fpmode := by unfold Core.over Core.moved Core.setVresume; split <;> split <;> rfl
@[simp] theorem Core.over_irqAt : x.over.irqAt = x.irqAt := by simp [Core.over]
@[simp] theorem Core.over_elem (ew n i : Nat) : x.over.elem ew n i = x.elem ew n i := by simp [Core.elem]
@[simp] theorem Core.over_maskBit (k i : Nat) : x.over.maskBit k i = x.maskBit k i := by simp [Core.maskBit, Core.mask]
end

theorem VecOnly.irq {x y : Core} (h : VecOnly x y) : y.irqAt = x.irqAt := by rw [h]

theorem VecOnly.over {x y : Core} (h : VecOnly x y) :
    y.over = { x.over with v := y.over.v, vused := y.over.vused, fpmode := y.over.fpmode, k := y.over.k } := by
  rw [Core.over_v, Core.over_vused, Core.over_fpmode, Core.over_k]
  generalize hv : y.v = v at *
  generalize hu : y.vused = vu at *
  generalize hf : y.fpmode = fp at *
  generalize hk : y.k = k at *
  have hy : y = { x with v := v, vused := vu, fpmode := fp, k := k } := by rw [← hv, ← hu, ← hf, ← hk]; exact h
  rw [hy]
  cases htrap : x.trap <;> simp [Core.over, Core.setVresume, Core.moved, htrap]

theorem VecOnly.over_gang {x y : Core} (h : VecOnly x y) (hk : y.k = x.k) :
    y.over = { x.over with v := y.over.v, vused := y.over.vused, fpmode := y.over.fpmode } := by
  have hkept : y.over.k = x.over.k := by simp [hk]
  have hover := h.over
  rwa [hkept] at hover

theorem VecOnly.over_mask {x y : Core} (h : VecOnly x y) (hv : y.v = x.v) :
    y.over = { x.over with k := y.over.k, vused := y.over.vused, fpmode := y.over.fpmode } := by
  have hkept : y.over.v = x.over.v := by simp [hv]
  have hover := h.over
  rwa [hkept] at hover

/-! ## The shape of a span instruction's command -/

section
variable {s : State} {c : BitVec 8} {major op : Nat} {w : VWord} (h : SpanAt s c major op w)
include h

/-- An illegal form at U stops the program. -/
theorem onSpan_illegal {legal : Core → Bool} (hlegal : legal (s.core c.toNat) = false) (htrap : (s.core c.toNat).trap = none)
    (body : State → State) : onSpan c major op w s legal body = .next (stopProgram s c.toNat 0x8680 (s.core c.toNat).pc) := by
  have hstop : stopTrap s c.toNat 0x8680 = stopProgram s c.toNat 0x8680 (s.core c.toNat).pc := by simp [stopTrap, trapWith, htrap]
  rw [onSpan_runs h, if_neg (by simp [hlegal]), hstop, takeIrq_none]
  rw [stopProgram_core_self]
  rfl

/-- A vector instruction that replaces its core and completes. -/
theorem onSpan_mod {legal : Core → Bool} (hlegal : legal (s.core c.toNat) = true) (f : Core → Core) (n : Nat → Option Nat)
    (hirq : (f (s.core c.toNat)).irqAt = none) :
    ∃ u, onSpan c major op w s legal (fun s => doneSpan (s.modCore c.toNat f) c.toNat (s.core c.toNat).vresume (n (s.core c.toNat).vresume)) =
        .next u ∧
      CoreFrame c s u ∧ u.core c.toNat = (f (s.core c.toNat)).over :=
  onSpan_step h hlegal (((CoreStep.refl c s).mod f).done h.1.phys _ _) ((Core.over_irqAt _).trans hirq)

end

/-- A vector instruction by elements into a gang leaves the run of its elements. -/
theorem elemSpan_runs {s : State} {c : BitVec 8} {major op : Nat} {w : VWord} (h : SpanAt s c major op w) {legal : Core → Bool}
    (hlegal : legal (s.core c.toNat) = true) (dew dg : Nat) (f : Core → Nat → Nat × Nat) :
    ∃ u, elemSpan c major op w s legal dew dg f = .next u ∧ CoreFrame c s u ∧
      u.core c.toNat = (runElems (s.core c.toNat) w (putElem dew w.vd.toNat) (f (s.core c.toNat))).over :=
  onSpan_mod h hlegal (fun x => runElems x w (putElem dew w.vd.toNat) (f x)) (fun b => some (passesFrom dew dg b))
    ((runElems_gang_only ..).1.irq.trans h.1.irq)

/-- A vector instruction by elements into a mask register leaves the run of its bits. -/
theorem maskSpan_runs {s : State} {c : BitVec 8} {major op : Nat} {w : VWord} (h : SpanAt s c major op w) {legal : Core → Bool}
    (hlegal : legal (s.core c.toNat) = true) (f : Core → Nat → Bool × Nat) :
    ∃ u, maskSpan c major op w s legal f = .next u ∧ CoreFrame c s u ∧ u.core c.toNat =
      (runElems (s.core c.toNat) w (putBit (w.vd.toNat % 8)) (fun i => (bitAt (f (s.core c.toNat) i).1 0, (f (s.core c.toNat) i).2))).over :=
  onSpan_mod h hlegal (fun x => runElems x w (putBit (w.vd.toNat % 8)) (fun i => (bitAt (f x i).1 0, (f x i).2))) (fun _ => none)
    ((runElems_mask_only ..).1.irq.trans h.1.irq)

end Sys2Proof.Machine
end

section
/-! The table of the span instructions that write elements: each runs its operation on the elements of a gang, or on the bits of a mask
register (Table 9.4). -/

namespace Sys2Proof.Machine

/-! ## Legal gangs (R302, R303, R309) -/

theorem gangFits_of {ew g r n : Nat} (hew : IsWidth ew) (hg : g = 1 ∨ g = 2 ∨ g = 4 ∨ g = 8) (halign : r % g = 0) (hr : r < 32)
    (hspan : n ≤ g * 512 / ew) : GangFits ew r g n := by
  refine ⟨hew, ?_, fun j hj => ?_⟩
  · rcases hg with rfl | rfl | rfl | rfl <;> omega
  · rcases hew with rfl | rfl | rfl | rfl <;> omega

section
variable {x : Core} {w : VWord}

theorem gang_fits {r : BitVec 5} (hspan : spanFits x w = true) (halign : gangAligned r (gangOf w) = true) :
    GangFits (ewOf w) r.toNat (gangOf w) x.spanLen :=
  gangFits_of (ewOf_width w) (gangOf_cases w) (by simpa [gangAligned] using halign) r.isLt (of_decide_eq_true hspan)

theorem wide_fits (hspan : spanFits x w = true) (hew : w.ew.toNat ≤ 2) (hg : w.g.toNat ≤ 2)
    (halign : gangAligned w.vd (2 * gangOf w) = true) : GangFits (2 * ewOf w) w.vd.toNat (2 * gangOf w) x.spanLen := by
  have hwidth : ∀ e : BitVec 2, e.toNat ≤ 2 → 2 * (8 * 2 ^ e.toNat) = 8 ∨ 2 * (8 * 2 ^ e.toNat) = 16 ∨ 2 * (8 * 2 ^ e.toNat) = 32 ∨
    2 * (8 * 2 ^ e.toNat) = 64 := by decide
  have hgang : ∀ g : BitVec 2, g.toNat ≤ 2 → 2 * 2 ^ g.toNat = 1 ∨ 2 * 2 ^ g.toNat = 2 ∨ 2 * 2 ^ g.toNat = 4 ∨ 2 * 2 ^ g.toNat = 8 := by
    decide
  refine gangFits_of (hwidth w.ew hew) (hgang w.g hg) (by simpa [gangAligned] using halign) w.vd.isLt ?_
  rw [Nat.mul_assoc, Nat.mul_div_mul_left _ _ (by decide)]
  exact of_decide_eq_true hspan

theorem binaryLegal_fits (h : binaryLegal x w = true) : GangFits (ewOf w) w.vd.toNat (gangOf w) x.spanLen := by
  simp only [binaryLegal, Bool.and_eq_true] at h
  obtain ⟨⟨⟨hspan, halign⟩, -⟩, -⟩ := h
  exact gang_fits hspan halign

theorem unaryLegal_fits (h : unaryLegal x w = true) : GangFits (ewOf w) w.vd.toNat (gangOf w) x.spanLen := by
  simp only [unaryLegal, Bool.and_eq_true] at h
  obtain ⟨⟨⟨hspan, -⟩, halign⟩, -⟩ := h
  exact gang_fits hspan halign

theorem bcastLegal_fits (h : bcastLegal x w = true) : GangFits (ewOf w) w.vd.toNat (gangOf w) x.spanLen := by
  simp only [bcastLegal, Bool.and_eq_true] at h
  obtain ⟨⟨hspan, -⟩, halign⟩ := h
  exact gang_fits hspan halign

theorem reduceLegal_fits (h : reduceLegal x w = true) : GangFits (ewOf w) w.vd.toNat (gangOf w) x.spanLen := by
  simp only [reduceLegal, Bool.and_eq_true] at h
  obtain ⟨⟨⟨⟨hspan, -⟩, halign⟩, -⟩, -⟩ := h
  exact gang_fits hspan halign

theorem narrowLegal_fits (h : narrowLegal x w = true) : GangFits (ewOf w) w.vd.toNat (gangOf w) x.spanLen := by
  simp only [narrowLegal, Bool.and_eq_true] at h
  obtain ⟨⟨⟨⟨⟨hspan, -⟩, -⟩, -⟩, halign⟩, -⟩ := h
  exact gang_fits hspan halign

theorem dotLegal_fits (h : dotLegal x w = true) : GangFits 32 w.vd.toNat (gangOf w) x.spanLen := by
  simp only [dotLegal, Bool.and_eq_true, decide_eq_true_eq] at h
  obtain ⟨⟨⟨⟨⟨⟨⟨hspan, -⟩, hew⟩, halign⟩, -⟩, -⟩, -⟩, -⟩ := h
  have hwidth : ewOf w = 32 := by rw [ewOf, hew]; rfl
  exact hwidth ▸ gang_fits hspan halign

theorem widenLegal_fits (h : widenLegal x w = true) : GangFits (2 * ewOf w) w.vd.toNat (2 * gangOf w) x.spanLen := by
  simp only [widenLegal, Bool.and_eq_true, decide_eq_true_eq] at h
  obtain ⟨⟨⟨⟨⟨⟨⟨hspan, hew⟩, hg⟩, halign⟩, -⟩, -⟩, -⟩, -⟩ := h
  exact wide_fits hspan hew hg halign

theorem widenCvtLegal_fits (h : widenCvtLegal x w = true) : GangFits (2 * ewOf w) w.vd.toNat (2 * gangOf w) x.spanLen := by
  simp only [widenCvtLegal, Bool.and_eq_true, decide_eq_true_eq] at h
  obtain ⟨⟨⟨⟨⟨⟨hspan, -⟩, hew⟩, hg⟩, halign⟩, -⟩, -⟩ := h
  exact wide_fits hspan hew hg halign

end

/-! ## The instructions that write a gang -/

/-- An instruction is its entry of the table: it runs operation `o` on the elements of a gang, its values modulo the width. -/
structure VecRuns (i : Instr) (o : VecOp) : Prop where
  exec : ∃ f : Core → Nat → Nat × Nat, (∀ s, Machine.exec i s = elemSpan o.core o.major o.op o.w s o.legal o.dew o.dg f) ∧
    ∀ x j, (f x j).1 % 2 ^ o.dew = (o.val x j).1 % 2 ^ o.dew ∧ (f x j).2 = (o.val x j).2
  fits : ∀ x, o.legal x = true → GangFits o.dew o.w.vd.toNat o.dg x.spanLen

/-- An instruction whose values are the table's own. -/
theorem VecRuns.direct {i : Instr} {o : VecOp}
    (hexec : ∀ s, Machine.exec i s = elemSpan o.core o.major o.op o.w s o.legal o.dew o.dg o.val)
    (hfits : ∀ x, o.legal x = true → GangFits o.dew o.w.vd.toNat o.dg x.spanLen) : VecRuns i o :=
  ⟨⟨o.val, hexec, fun _ _ => ⟨rfl, rfl⟩⟩, hfits⟩

section
variable {i : Instr} {o : VecOp} {c : BitVec 8} {op : Nat} {w : VWord}

/-- An integer instruction of the table, from its operation modulo 2^EW. -/
theorem runs_int {f g : Nat → Nat → Nat → Nat} (h : intVec c op w f = some o) (hexec : ∀ s, Machine.exec i s = intSpan c op w g s)
    (hval : ∀ n a b, g n a b % 2 ^ n = f n a b % 2 ^ n) : VecRuns i o := by
  cases h
  exact ⟨⟨_, hexec, fun x j => ⟨(Nat.mod_mod _ _).trans (hval ..), rfl⟩⟩, fun x hx => binaryLegal_fits hx⟩

theorem runs_wide {f : Nat → Nat → Nat → Int} {val : Nat → Nat → Int} {acc : Bool} (h : wideVec c op w f = some o)
    (hexec : ∀ s, Machine.exec i s = widenInt c op w val acc s)
    (hval : ∀ a b d : Nat, val (ewOf w) a * val (ewOf w) b + (if acc then (d : Int) else 0) = f a b d) : VecRuns i o := by
  cases h
  refine ⟨⟨_, hexec, fun x j => ⟨?_, rfl⟩⟩, fun x hx => widenLegal_fits hx⟩
  dsimp only
  rw [hval]
  rfl

theorem runs_dot {va vb : Nat → Int} {ra rb : Nat → Nat → Int} (h : dotVec c op w va vb = some o)
    (hexec : ∀ s, Machine.exec i s = dotInt c op w ra rb s) (ha : ∀ v, ra 8 v = va v) (hb : ∀ v, rb 8 v = vb v) : VecRuns i o := by
  cases h
  refine ⟨⟨_, hexec, fun x j => ⟨?_, rfl⟩⟩, fun x hx => dotLegal_fits hx⟩
  simp [ofSignedBits, List.range_succ, ha, hb, Int.add_assoc]

theorem runs_fp {f : Fmt → Rnd → Nat → Nat → Nat → FpResult} (h : fpVec c op w f = some o)
    (hexec : ∀ s, Machine.exec i s = fpSpan c op w f s) : VecRuns i o := by
  cases h
  exact .direct hexec fun x hx => binaryLegal_fits (Bool.and_eq_true_iff.1 hx).1

theorem runs_unary {f : Fmt → Rnd → Nat → FpResult} (h : fpUnary c op w f = some o)
    (hexec : ∀ s, Machine.exec i s = elemSpan c 0xC op w s (fun x => unaryLegal x w && (fpOfEw w).isSome) (ewOf w) (gangOf w)
      fun x j => (f (fpFmtEw w) x.rnd (x.opA w j)).pair) : VecRuns i o := by
  cases h
  exact .direct hexec fun x hx => unaryLegal_fits (Bool.and_eq_true_iff.1 hx).1

theorem runs_up {bf : Bool} (h : upVec c op w bf (if bf then bf16 else fpFmtEw w) = some o)
    (hexec : ∀ s, Machine.exec i s = cvtUp c op w bf s) : VecRuns i o := by
  cases h
  exact .direct hexec fun x hx => widenCvtLegal_fits (Bool.and_eq_true_iff.1 hx).1

theorem runs_down {bf : Bool} (h : downVec c op w bf (if bf then bf16 else fpFmtEw w) = some o)
    (hexec : ∀ s, Machine.exec i s = cvtDown c op w bf s) : VecRuns i o := by
  cases h
  exact .direct hexec fun x hx => narrowLegal_fits (Bool.and_eq_true_iff.1 hx).1

theorem runs_wideFp {f : Fmt → Rnd → Nat → Nat → Nat → FpResult} (h : wideFp c op w f = some o)
    (hexec : ∀ s, Machine.exec i s = widenFp c op w f s) : VecRuns i o := by
  cases h
  exact .direct hexec fun x hx => widenLegal_fits (Bool.and_eq_true_iff.1 hx).1

end

theorem pickInt_least (a b : Nat) : pickInt true a b a b = min a b := by
  unfold pickInt
  rw [if_pos rfl]
  split <;> omega

theorem pickInt_greatest (a b : Nat) : pickInt false a b a b = max a b := by
  unfold pickInt
  rw [if_neg (by decide)]
  split <;> omega

/-- The high half of a product that is encoded in twice the width. -/
theorem highHalf_eq (n : Nat) (p : Int) : ofSignedBits (2 * n) p / 2 ^ n % 2 ^ n = (p / (2 ^ n : Nat) % (2 ^ n : Nat)).toNat % 2 ^ n := by
  have hpos : 0 < 2 ^ n := by positivity
  generalize hm : 2 ^ n = m at *
  have hsquare : 2 ^ (2 * n) = m * m := by rw [Nat.two_mul, Nat.pow_add, hm]
  have hm0 : (m : Int) ≠ 0 := by omega
  have hcarry : p % ((m : Int) * m) / m = p / m % m := by
    rw [Int.emod_def, Int.sub_eq_add_neg, Int.mul_assoc, ← Int.mul_neg, Int.add_mul_ediv_left _ _ hm0, ← Int.ediv_ediv_of_nonneg (by omega),
      ← Int.sub_eq_add_neg, ← Int.emod_def]
  have hnonneg : 0 ≤ p % ((m : Int) * m) := Int.emod_nonneg _ (by simp; omega)
  rw [ofSignedBits, hsquare]
  refine congrArg (· % m) (Int.ofNat_inj.1 ?_)
  rw [Int.natCast_ediv, Nat.cast_mul, Int.toNat_of_nonneg hnonneg, hcarry, Int.toNat_of_nonneg (Int.emod_nonneg _ hm0)]

/-- Each instruction of the table is its entry. -/
theorem vecRuns_of {i : Instr} {o : VecOp} (h : vecOp i = some o) : VecRuns i o := by
  unfold vecOp at h
  split at h
  case h_1 => exact runs_int (g := fun _ a b => a + b) h (fun _ => rfl) fun n a b => (Nat.mod_mod _ _).symm
  case h_2 => exact runs_int (g := fun n a b => a + 2 ^ n - b) h (fun _ => rfl) fun n a b => (Nat.mod_mod _ _).symm
  case h_3 => exact runs_int (g := fun _ a b => a * b) h (fun _ => rfl) fun n a b => (Nat.mod_mod _ _).symm
  case h_4 => exact runs_int (g := fun n a b => ofSignedBits (2 * n) (toSigned n a * toSigned n b) / 2 ^ n) h (fun _ => rfl) fun n a b => highHalf_eq n _
  case h_5 => exact runs_int (g := fun n a b => pickInt true (toSigned n a) (toSigned n b) a b) h (fun _ => rfl) fun n a b => rfl
  case h_6 => exact runs_int (g := fun n a b => pickInt false (toSigned n a) (toSigned n b) a b) h (fun _ => rfl) fun n a b => rfl
  case h_7 => exact runs_int (g := fun _ a b => pickInt true a b a b) h (fun _ => rfl) fun n a b => by rw [pickInt_least]
  case h_8 => exact runs_int (g := fun _ a b => pickInt false a b a b) h (fun _ => rfl) fun n a b => by rw [pickInt_greatest]
  case h_9 => exact runs_int (g := fun _ a b => a &&& b) h (fun _ => rfl) fun n a b => rfl
  case h_10 => exact runs_int (g := fun _ a b => a ||| b) h (fun _ => rfl) fun n a b => rfl
  case h_11 => exact runs_int (g := fun _ a b => a ^^^ b) h (fun _ => rfl) fun n a b => rfl
  case h_12 => exact runs_int (g := fun n a b => a <<< (b % n)) h (fun _ => rfl) fun n a b => by rw [Nat.shiftLeft_eq, Nat.mod_mod]
  case h_13 => exact runs_int (g := fun n a b => a >>> (b % n)) h (fun _ => rfl) fun n a b => by rw [Nat.shiftRight_eq_div_pow]
  case h_14 => exact runs_int (g := fun n a b => ofSignedBits n (toSigned n a / (2 : Int) ^ (b % n))) h (fun _ => rfl) fun n a b => rfl
  case h_15 => exact runs_wide (val := toSigned) (acc := false) h (fun _ => rfl) fun a b d => Int.add_zero _
  case h_16 => exact runs_wide (val := unsignedInt) (acc := false) h (fun _ => rfl) fun a b d => Int.add_zero _
  case h_17 => exact runs_wide (val := toSigned) (acc := true) h (fun _ => rfl) fun a b d => rfl
  case h_18 => exact runs_wide (val := unsignedInt) (acc := true) h (fun _ => rfl) fun a b d => rfl
  case h_19 => exact runs_dot (ra := toSigned) (rb := toSigned) h (fun _ => rfl) (fun _ => rfl) fun _ => rfl
  case h_20 => exact runs_dot (ra := unsignedInt) (rb := unsignedInt) h (fun _ => rfl) (fun _ => rfl) fun _ => rfl
  case h_21 => exact runs_dot (ra := toSigned) (rb := unsignedInt) h (fun _ => rfl) (fun _ => rfl) fun _ => rfl
  case h_22 | h_23 | h_24 | h_25 => exact runs_fp h fun _ => rfl
  case h_26 => exact runs_unary h fun _ => rfl
  case h_27 | h_28 | h_29 | h_30 => exact runs_fp h fun _ => rfl
  case h_31 | h_32 => exact runs_unary h fun _ => rfl
  case h_33 => exact runs_up (bf := false) h fun _ => rfl
  case h_34 => exact runs_down (bf := false) h fun _ => rfl
  case h_35 => exact runs_up (bf := true) h fun _ => rfl
  case h_36 => exact runs_down (bf := true) h fun _ => rfl
  case h_37 | h_38 => exact runs_wideFp h fun _ => rfl
  case h_39 =>
    cases h
    exact .direct (fun _ => rfl) fun x hx => dotLegal_fits hx
  case h_40 =>
    cases h
    exact .direct (fun _ => rfl) fun x hx => bcastLegal_fits hx
  case h_41 =>
    cases h
    exact .direct (fun _ => rfl) fun x hx => bcastLegal_fits (Bool.and_eq_true_iff.1 hx).1
  case h_42 => cases h

/-! ## The instructions that write a mask register -/

theorem spanFits_le {x : Core} {w : VWord} (h : spanFits x w = true) : x.spanLen ≤ 512 := by
  have hspan : x.spanLen ≤ gangOf w * 512 / ewOf w := of_decide_eq_true h
  have hgang : gangOf w ≤ 8 := by
    have := gangOf_cases w
    omega
  have hwidth : 8 ≤ ewOf w := by
    have := ewOf_cases w
    omega
  exact hspan.trans (Nat.div_le_div (Nat.mul_le_mul_right 512 hgang) hwidth (by decide))

theorem compareLegal_spanFits {x : Core} {w : VWord} (h : compareLegal x w = true) : spanFits x w = true := by
  simp only [compareLegal, Bool.and_eq_true] at h
  obtain ⟨⟨⟨hspan, -⟩, -⟩, -⟩ := h
  exact hspan

/-- Each instruction of the table of mask bits is its entry. -/
theorem bitRuns_of {i : Instr} {o : BitOp} (h : bitOp i = some o) :
    (∀ s, exec i s = maskSpan o.core o.major o.op o.w s o.legal o.val) ∧ ∀ x, o.legal x = true → spanFits x o.w = true := by
  unfold bitOp at h
  split at h
  case h_1 | h_2 =>
    cases h
    exact ⟨fun _ => rfl, fun x hx => compareLegal_spanFits hx⟩
  case h_3 | h_4 | h_5 =>
    cases h
    exact ⟨fun _ => rfl, fun x hx => compareLegal_spanFits (Bool.and_eq_true_iff.1 hx).1⟩
  case h_6 | h_7 | h_8 | h_9 =>
    cases h
    exact ⟨fun _ => rfl, fun x hx => (Bool.and_eq_true_iff.1 hx).1⟩
  case h_10 => cases h

/-! ## What they leave (R305) -/

/-- A run of elements is what the statement says of the core that it leaves. -/
theorem gangRun_over {x : Core} {w : VWord} {ew d g : Nat} (hfit : GangFits ew d g x.spanLen) (hlen : x.v.length = 32)
    {f v : Nat → Nat × Nat} (hv : ∀ j, (f j).1 % 2 ^ ew = (v j).1 % 2 ^ ew ∧ (f j).2 = (v j).2) :
    let y := (runElems x w (putElem ew d) f).over
    (∀ j, x.vresume ≤ j → j < x.spanLen →
      y.elem ew d j = if x.activeAt w j then (v j).1 % 2 ^ ew else if w.zero then 0 else x.elem ew d j) ∧
    (∀ j, (j < x.vresume ∨ x.spanLen ≤ j) → j * ew / 512 < g → y.elem ew d j = x.elem ew d j) ∧
    (∀ r, ¬(d ≤ r ∧ r < d + g) → y.v.getD r 0 = x.v.getD r 0) ∧
    y.fpmode = stuckFlags x w (fun j => (v j).2) (x.spanLen - x.vresume) ∧
    y = { x.over with v := y.v, vused := y.vused, fpmode := y.fpmode } := by
  have hrun := runElems_gang (w := w) hfit hlen f
  obtain ⟨honly, hk⟩ := runElems_gang_only x w ew d f
  refine ⟨fun j hlow hhigh => ?_, fun j hout _ => ?_, fun r hr => ?_, ?_, ?_⟩
  · rw [Core.over_elem, hrun.elems, if_pos (by omega), elemVal, (hv j).1]
  · rw [Core.over_elem, hrun.elems, if_neg (by omega)]
  · rw [Core.over_v, hrun.regs r hr]
  · have hflags : (fun i => (f i).2) = fun j => (v j).2 := funext fun j => (hv j).2
    rw [Core.over_fpmode, runElems_fpmode (put := putElem ew d) (fun _ _ _ => rfl), hflags]
  · exact honly.over_gang hk

/-- A run of mask bits is what the statement says of the core that it leaves. -/
theorem maskRun_over {x : Core} {w : VWord} {d : Nat} (hd : d < 8) (hspan : x.spanLen ≤ 512) (hlen : x.k.length = 8)
    (v : Nat → Bool × Nat) :
    let y := (runElems x w (putBit d) (fun i => (bitAt (v i).1 0, (v i).2))).over
    (d = 0 → y.k = x.k) ∧
    (d ≠ 0 → ∀ j, j < 512 → y.maskBit d j =
      if x.vresume ≤ j ∧ j < x.spanLen then (if x.activeAt w j then (v j).1 else !w.zero && x.maskBit d j) else x.maskBit d j) ∧
    (∀ r, r ≠ d → y.k.getD r 0 = x.k.getD r 0) ∧
    y.fpmode = stuckFlags x w (fun j => (v j).2) (x.spanLen - x.vresume) ∧
    y = { x.over with k := y.k, vused := y.vused, fpmode := y.fpmode } := by
  obtain ⟨honly, hv⟩ := runElems_mask_only x w d (fun i => (bitAt (v i).1 0, (v i).2))
  have hzero (h0 : d = 0) : (runElems x w (putBit d) (fun i => (bitAt (v i).1 0, (v i).2))).k = x.k :=
    runElems_keeps (P := fun y => y.k = x.k) rfl (fun y i b hy => by simp [putBit, h0, Core.setMaskBit, Core.setMask, hy]) fun _ _ hy => hy
  refine ⟨fun h0 => ?_, fun h0 j _ => ?_, fun r hr => ?_, ?_, ?_⟩
  · rw [Core.over_k, hzero h0]
  · rw [Core.over_maskBit, (runElems_mask ⟨h0, hd⟩ hspan hlen v).bits]
    exact if_congr (by omega) rfl rfl
  · rw [Core.over_k]
    by_cases h0 : d = 0
    · rw [hzero h0]
    · exact (runElems_mask ⟨h0, hd⟩ hspan hlen v).regs r hr
  · rw [Core.over_fpmode, runElems_fpmode (put := putBit d) (fun _ _ _ => Core.setMaskBit_fpmode ..)]
  · exact honly.over_mask hv

end Sys2Proof.Machine

open Sys2Proof Sys2Proof.Machine

/-- Settles O43: each instruction is its entry of the table, and a run of elements or bits leaves the entry's values. -/
theorem vectorElements : Obligations.VectorElements := by
  unfold Obligations.VectorElements
  refine ⟨fun s i o hi h => ?_, fun s i o hi h => ?_, fun s i o hi h => ?_⟩
  · obtain ⟨⟨f, hexec, hval⟩, hfits⟩ := vecRuns_of hi
    refine ⟨fun hillegal htrap => (hexec s).trans (onSpan_illegal h hillegal htrap _), fun hlegal => ?_⟩
    obtain ⟨u, hu, hframe, hcore⟩ := elemSpan_runs h hlegal o.dew o.dg f
    obtain ⟨-, -, hlen, -⟩ := h.1.lengths
    refine ⟨u, (hexec s).trans hu, hframe, ?_⟩
    dsimp only
    rw [hcore]
    exact gangRun_over (hfits _ hlegal) hlen (hval _)
  · obtain ⟨hexec, hfits⟩ := bitRuns_of hi
    refine ⟨fun hillegal htrap => (hexec s).trans (onSpan_illegal h hillegal htrap _), fun hlegal => ?_⟩
    obtain ⟨u, hu, hframe, hcore⟩ := maskSpan_runs h hlegal o.val
    obtain ⟨-, -, -, hlen⟩ := h.1.lengths
    refine ⟨u, (hexec s).trans hu, hframe, ?_⟩
    dsimp only
    rw [hcore]
    exact maskRun_over (Nat.mod_lt _ (by decide)) (spanFits_le (hfits _ hlegal)) hlen _
  · intro x hword htrap hven
    obtain ⟨⟨f, hexec, -⟩, -⟩ := vecRuns_of hi
    exact (hexec s).trans (onSpan_venClear h hword htrap hven _ _)
end

section
/-! The reductions, permutations, moves and scans of the span extension, and its configuration (R303 to R306, R311, Table 9.2). -/

namespace Sys2Proof.Machine

/-! ## Reductions (R311) -/

/-- A reduction of integers raises no flag: its results fold as their values do. -/
theorem foldl_value (h : Nat → Nat → Nat) (es : List Nat) (a : Nat) :
    es.foldl (fun (r : FpResult) j => ⟨h r.bits j, r.flags ||| 0⟩) ⟨a, 0⟩ = ⟨es.foldl h a, 0⟩ := by
  induction es generalizing a with
  | nil => rfl
  | cons j es ih =>
    rw [List.foldl_cons, List.foldl_cons]
    simpa only [Nat.or_zero] using ih (h a j)

/-- Each reduction of the table is its entry. -/
theorem reduceRuns_of {i : Instr} {c : BitVec 8} {op : Nat} {w : VWord} {fp : Bool} {f : Core → Nat → List Nat → FpResult}
    (h : reduceOp i = some (c, op, w, fp, f)) (s : State) : exec i s = reduceSpan c op w fp f s := by
  have hint (op : Nat) (g : Core → Nat → Nat → Nat) : reduceSpan c op w false (fun x start es => es.foldl (fun a i =>
      ⟨g x a.bits (x.opA w i), a.flags ||| 0⟩) ⟨start, 0⟩) s =
      reduceSpan c op w false (fun x a es => ⟨es.foldl (fun a j => g x a (x.opA w j)) a, 0⟩) s :=
    congrArg (fun f => reduceSpan c op w false f s)
      (funext fun x => funext fun a => funext fun es => foldl_value (fun a j => g x a (x.opA w j)) es a)
  unfold reduceOp at h
  split at h <;> cases h
  case h_1 => exact hint 0x10 fun _ a b => (a + b) % 2 ^ ewOf w
  case h_2 => exact hint 0x11 fun _ a b => if toSigned (ewOf w) b < toSigned (ewOf w) a then b else a
  case h_3 => exact hint 0x12 fun _ a b => if toSigned (ewOf w) a < toSigned (ewOf w) b then b else a
  case h_4 => exact hint 0x13 fun _ a b => min a b
  case h_5 => exact hint 0x14 fun _ a b => max a b
  case h_6 | h_7 | h_8 | h_9 => rfl

/-- What a reduction leaves: its result in element 0 of the destination, and nothing where SPAN is not above VRESUME. -/
def reduced (w : VWord) (f : Core → Nat → List Nat → FpResult) (x : Core) : Core :=
  let start := x.elem (ewOf w) w.vs1.toNat 0
  let r : FpResult := if x.activeElems w = [] then ⟨start, 0⟩ else f x start (x.activeElems w)
  if x.spanLen ≤ x.vresume then x else (x.setElem (ewOf w) w.vd.toNat 0 r.bits).stick r.flags

theorem reduced_irqAt (w : VWord) (f : Core → Nat → List Nat → FpResult) (x : Core) : (reduced w f x).irqAt = x.irqAt := by
  unfold reduced
  dsimp only
  split <;> rfl

theorem stuckFlags_zero (x : Core) (w : VWord) (n : Nat) : stuckFlags x w (fun _ => 0) n = x.fpmode := by
  refine foldl_range_induct (P := fun _ m => m = x.fpmode) rfl fun n m _ hm => ?_
  dsimp only
  split
  · simp [hm]
  · exact hm

/-- What a permutation does: free values are drawn for its elements, and each takes its own. -/
def permuted (c : Nat) (w : VWord) (f : Core → Nat → Nat → Nat) (s : State) : State :=
  doneSpan ({ s with free := s.free + 512 }.modCore c (fun x => runElems x w (putElem (ewOf w) w.vd.toNat) (fun j => (f x s.free j % 2 ^ ewOf w, 0))))
    c (s.core c).vresume (some (passesFrom (ewOf w) (gangOf w) (s.core c).vresume))

theorem permuted_step {s : State} {c : BitVec 8} (h : CoreAt s c) (w : VWord) (f : Core → Nat → Nat → Nat) :
    CoreStep c s (permuted c.toNat w f s)
      (runElems (s.core c.toNat) w (putElem (ewOf w) w.vd.toNat) (fun j => (f (s.core c.toNat) s.free j % 2 ^ ewOf w, 0))).over :=
  (((CoreStep.refl c s).free _).mod _).done h.phys _ _

section
variable {s : State} {c : BitVec 8} {op : Nat} {w : VWord} (h : SpanAt s c 0xD op w)
include h

theorem reduceSpan_runs {fp : Bool} (f : Core → Nat → List Nat → FpResult) (hlegal : reduceLegal (s.core c.toNat) w = true)
    (hfp : fp = true → (fpOfEw w).isSome = true) :
    ∃ u, reduceSpan c op w fp f s = .next u ∧ CoreFrame c s u ∧ u.core c.toNat = (reduced w f (s.core c.toNat)).over := by
  have hlegal : (reduceLegal (s.core c.toNat) w && (!fp || (fpOfEw w).isSome)) = true := by
    cases fp with
    | false => simp [hlegal]
    | true => simp [hlegal, hfp rfl]
  have hrun := onSpan_mod h (legal := fun x => reduceLegal x w && (!fp || (fpOfEw w).isSome)) hlegal (reduced w f) (fun _ => none)
    ((reduced_irqAt ..).trans h.1.irq)
  have hbody : reduced w f = fun x => if x.spanLen ≤ x.vresume then x else
      let r : FpResult := if (x.activeElems w).isEmpty then ⟨x.elem (ewOf w) w.vs1.toNat 0, 0⟩
        else f x (x.elem (ewOf w) w.vs1.toNat 0) (x.activeElems w)
      (x.setElem (ewOf w) w.vd.toNat 0 r.bits).stick r.flags := by
    funext x
    simp only [reduced, List.isEmpty_iff]
  rw [hbody] at hrun ⊢
  exact hrun

/-! ## Permutations (R303, R306) -/

omit h in
theorem opA_mod (x : Core) (w : VWord) (i : Nat) : x.opA w i % 2 ^ ewOf w = x.opA w i := Nat.mod_eq_of_lt (elem_lt ..)

/-- What a permutation leaves: each active element takes a value, and FPMODE stays. -/
theorem permSpan_runs {legal : Core → Bool} (hlegal : legal (s.core c.toNat) = true)
    (hfit : GangFits (ewOf w) w.vd.toNat (gangOf w) (s.core c.toNat).spanLen) (f : Core → Nat → Nat → Nat) :
    let x := s.core c.toNat
    let d := w.vd.toNat
    ∃ u, permSpan c op w legal f s = .next u ∧ CoreFrame c s u ∧ let y := u.core c.toNat
      (∀ j, x.vresume ≤ j → j < x.spanLen → y.elem (ewOf w) d j =
        if x.activeAt w j then f x s.free j % 2 ^ ewOf w else if w.zero then 0 else x.elem (ewOf w) d j) ∧
      (∀ j, (j < x.vresume ∨ x.spanLen ≤ j) → j * ewOf w / 512 < gangOf w → y.elem (ewOf w) d j = x.elem (ewOf w) d j) ∧
      (∀ r, ¬(d ≤ r ∧ r < d + gangOf w) → y.v.getD r 0 = x.v.getD r 0) ∧
      y = { x.over with v := y.v, vused := y.vused } := by
  intro x d
  obtain ⟨-, -, hlen, -⟩ := h.1.lengths
  obtain ⟨u, hexec, hframe, hcore⟩ := onSpan_step h hlegal (permuted_step h.1 w f)
    ((Core.over_irqAt _).trans ((runElems_gang_only ..).1.irq.trans h.1.irq))
  obtain ⟨helem, hout, hregs, hfpmode, honly⟩ := gangRun_over (w := w) hfit hlen (f := fun j => (f x s.free j % 2 ^ ewOf w, 0))
    (v := fun j => (f x s.free j, 0)) (fun j => ⟨Nat.mod_mod _ _, rfl⟩)
  refine ⟨u, hexec, hframe, ?_⟩
  dsimp only
  rw [hcore]
  refine ⟨helem, hout, hregs, honly.trans ?_⟩
  rw [hfpmode, stuckFlags_zero, ← Core.over_fpmode x]

end

/-- A permutation of the table, from what holds of the values that its active elements take. -/
theorem permSpan_values {i : Instr} {s : State} {c : BitVec 8} {op : Nat} {w : VWord} {legal : Core → Bool} {f : Core → Nat → Nat → Nat}
    (hexec : exec i s = permSpan c op w legal f s) (h : SpanAt s c 0xD op w) (hlegal : legal (s.core c.toNat) = true)
    (hfit : GangFits (ewOf w) w.vd.toNat (gangOf w) (s.core c.toNat).spanLen) {val : Nat → Nat → Prop}
    (hval : ∀ j, val j (f (s.core c.toNat) s.free j % 2 ^ ewOf w)) :
    let x := s.core c.toNat
    let d := w.vd.toNat
    ∃ u, exec i s = .next u ∧ CoreFrame c s u ∧ let y := u.core c.toNat
      (∀ j, x.vresume ≤ j → j < x.spanLen → if x.activeAt w j then val j (y.elem (ewOf w) d j)
        else y.elem (ewOf w) d j = if w.zero then 0 else x.elem (ewOf w) d j) ∧
      (∀ j, (j < x.vresume ∨ x.spanLen ≤ j) → j * ewOf w / 512 < gangOf w → y.elem (ewOf w) d j = x.elem (ewOf w) d j) ∧
      (∀ r, ¬(d ≤ r ∧ r < d + gangOf w) → y.v.getD r 0 = x.v.getD r 0) ∧
      y = { x.over with v := y.v, vused := y.vused } := by
  intro x d
  obtain ⟨u, hrun, hframe, helem, hrest⟩ := permSpan_runs h hlegal hfit f
  refine ⟨u, hexec.trans hrun, hframe, fun j hlow hhigh => ?_, hrest⟩
  have hj := helem j hlow hhigh
  split
  · next hactive =>
    rw [hj, if_pos hactive]
    exact hval j
  · next hactive => rw [hj, if_neg hactive]

/-- VSHIFTUP's element: what the shift moves there, or a free value. -/
def shiftUp (w : VWord) (x : Core) (n i : Nat) : Nat :=
  if (x.gr w.vs1).toNat ≤ i then x.opA w (i - (x.gr w.vs1).toNat) else freeElem n i
/-- VSHIFTDN's element. -/
def shiftDown (w : VWord) (x : Core) (n i : Nat) : Nat :=
  if i + (x.gr w.vs1).toNat < x.spanLen then x.opA w (i + (x.gr w.vs1).toNat) else freeElem n i
/-- VSHUF's element: that of an index, or 0 when it is out of range. -/
def shuffled (w : VWord) (x : Core) (_n i : Nat) : Nat :=
  let j := x.elem (ewOf w) w.vs1.toNat i
  if spanMaxOf w ≤ j then 0 else if x.spanLen ≤ j && Config.shufflePastSpan then 0 else x.opA w j

/-- VSHUF's elements: 0 from SPANMAX on, the indexed one below SPAN, and one of the two between them. -/
theorem shuffled_cases {w : VWord} {x : Core} (hfits : spanFits x w = true) (n j : Nat) :
    let v := shuffled w x n j % 2 ^ ewOf w
    let m := x.elem (ewOf w) w.vs1.toNat j
    (spanMaxOf w ≤ m → v = 0) ∧ (m < x.spanLen → v = x.opA w m) ∧ (m < spanMaxOf w → v = 0 ∨ v = x.opA w m) := by
  intro v m
  have hspan : x.spanLen ≤ spanMaxOf w := of_decide_eq_true hfits
  have hv : v = (if spanMaxOf w ≤ m then 0 else if x.spanLen ≤ m && Config.shufflePastSpan then 0 else x.opA w m) % 2 ^ ewOf w := rfl
  refine ⟨fun hm => ?_, fun hm => ?_, fun hm => ?_⟩
  · rw [hv, if_pos hm, Nat.zero_mod]
  · rw [hv, if_neg (by omega), if_neg (by simp [hm]), opA_mod]
  · rw [hv, if_neg (by omega)]
    split
    · exact Or.inl (Nat.zero_mod _)
    · exact Or.inr (opA_mod ..)

theorem reduceLegal_spanFits {x : Core} {w : VWord} (h : reduceLegal x w = true) : spanFits x w = true := by
  simp only [reduceLegal, Bool.and_eq_true] at h
  obtain ⟨⟨⟨⟨hspan, -⟩, -⟩, -⟩, -⟩ := h
  exact hspan

theorem exec_vshiftup (c : BitVec 8) (w : VWord) (s : State) :
    exec (.vshiftup c w) s = permSpan c 0x20 w (fun x => unaryLegal x w) (shiftUp w) s := rfl
theorem exec_vshiftdn (c : BitVec 8) (w : VWord) (s : State) :
    exec (.vshiftdn c w) s = permSpan c 0x21 w (fun x => unaryLegal x w) (shiftDown w) s := rfl
theorem exec_vshuf (c : BitVec 8) (w : VWord) (s : State) :
    exec (.vshuf c w) s = permSpan c 0x22 w (fun x => reduceLegal x w) (shuffled w) s := rfl

/-! ## VPACK (R304, R305) -/

/-- The element of VPACK's destination: a packed one, or above them a free one where it is active, else by ZERO. -/
def packVal (x : Core) (w : VWord) (n j : Nat) : Nat :=
  match (x.activeElems w)[j - x.vresume]? with
  | some i => x.opA w i
  | none => if x.activeAt w j then freeElem n (j - x.vresume) % 2 ^ ewOf w else if w.zero then 0 else x.elem (ewOf w) w.vd.toNat j

/-- What VPACK does at the `k`th element from VRESUME. -/
def packStep (x : Core) (w : VWord) (b n : Nat) (y : Core) (k : Nat) : Core :=
  match (x.activeElems w)[k]? with
  | some i => y.setElem (ewOf w) w.vd.toNat (b + k) (x.opA w i)
  | none => if x.activeAt w (b + k) then y.setElem (ewOf w) w.vd.toNat (b + k) (freeElem n k)
    else if w.zero then y.setElem (ewOf w) w.vd.toNat (b + k) 0 else y

/-- The core after VPACK's elements. -/
def packed (w : VWord) (b n : Nat) (x : Core) : Core := (List.range (x.spanLen - b)).foldl (packStep x w b n) x

theorem packed_gang {x : Core} {w : VWord} (hfit : GangFits (ewOf w) w.vd.toNat (gangOf w) x.spanLen) (hlen : x.v.length = 32) (n : Nat) :
    GangRun (ewOf w) w.vd.toNat (gangOf w) x.vresume (x.spanLen - x.vresume) (packVal x w n) x (packed w x.vresume n x) := by
  refine foldl_range_induct (P := fun m y => GangRun (ewOf w) w.vd.toNat (gangOf w) x.vresume m (packVal x w n) x y)
    (GangRun.start hlen) fun k y hk hy => ?_
  have hindex : x.vresume + k - x.vresume = k := Nat.add_sub_cancel_left ..
  unfold packStep
  split
  · next i hi => exact hy.write hfit (by omega) (by simp only [packVal, hindex, hi, opA_mod])
  · next hi =>
    split
    · next hactive => exact hy.write hfit (by omega) (by simp only [packVal, hindex, hi, hactive, if_true])
    · next hactive =>
      split
      · next hzero => exact hy.write hfit (by omega) (by simp [packVal, hindex, hi, hactive, hzero])
      · next hzero => exact hy.keep (by simp [packVal, hindex, hi, hactive, hzero])

theorem packed_only (x : Core) (w : VWord) (b n : Nat) :
    VecOnly x (packed w b n x) ∧ (packed w b n x).k = x.k ∧ (packed w b n x).fpmode = x.fpmode := by
  refine foldl_range_induct (P := fun _ y => VecOnly x y ∧ y.k = x.k ∧ y.fpmode = x.fpmode) ⟨VecOnly.refl x, rfl, rfl⟩ fun k y _ hy => ?_
  obtain ⟨honly, hk, hf⟩ := hy
  unfold packStep
  split
  · exact ⟨honly.setElem .., hk, hf⟩
  · split
    · exact ⟨honly.setElem .., hk, hf⟩
    · split
      · exact ⟨honly.setElem .., hk, hf⟩
      · exact ⟨honly, hk, hf⟩

/-- What VPACK does. -/
def packBody (c : Nat) (w : VWord) (s : State) : State :=
  doneSpan ({ s with free := s.free + 512 }.modCore c (packed w (s.core c).vresume s.free)) c (s.core c).vresume
    (some (passesFrom (ewOf w) (gangOf w) (s.core c).vresume))

theorem packBody_step {s : State} {c : BitVec 8} (h : CoreAt s c) (w : VWord) :
    CoreStep c s (packBody c.toNat w s) (packed w (s.core c.toNat).vresume s.free (s.core c.toNat)).over :=
  (((CoreStep.refl c s).free _).mod _).done h.phys _ _

theorem activeElems_length (x : Core) (w : VWord) : (x.activeElems w).length ≤ x.spanLen - x.vresume := by
  refine (List.length_filter_le _ _).trans ?_
  rw [List.length_map, List.length_range]

/-- What VPACK's elements leave of the core. -/
theorem packed_over {x : Core} {w : VWord} (hfit : GangFits (ewOf w) w.vd.toNat (gangOf w) x.spanLen) (hlen : x.v.length = 32) (n : Nat) :
    let d := w.vd.toNat
    let y := (packed w x.vresume n x).over
    (∀ j e, (x.activeElems w)[j]? = some e → y.elem (ewOf w) d (x.vresume + j) = x.opA w e) ∧
    (∀ j, x.vresume + (x.activeElems w).length ≤ j → j < x.spanLen → x.activeAt w j = false →
      y.elem (ewOf w) d j = if w.zero then 0 else x.elem (ewOf w) d j) ∧
    (∀ j, (j < x.vresume ∨ x.spanLen ≤ j) → j * ewOf w / 512 < gangOf w → y.elem (ewOf w) d j = x.elem (ewOf w) d j) ∧
    (∀ r, ¬(d ≤ r ∧ r < d + gangOf w) → y.v.getD r 0 = x.v.getD r 0) ∧
    y = { x.over with v := y.v, vused := y.vused } := by
  have hrun := packed_gang hfit hlen n
  obtain ⟨honly, hk, hf⟩ := packed_only x w x.vresume n
  refine ⟨fun j e he => ?_, fun j hlow hhigh hactive => ?_, fun j hout _ => ?_, fun r hr => ?_, ?_⟩
  · have hj : j < (x.activeElems w).length := (List.getElem?_eq_some_iff.1 he).1
    have hcount := activeElems_length x w
    rw [Core.over_elem, hrun.elems, if_pos (by omega), packVal, Nat.add_sub_cancel_left, he]
  · rw [Core.over_elem, hrun.elems, if_pos (by omega), packVal, List.getElem?_eq_none (by omega)]
    simp [hactive]
  · rw [Core.over_elem, hrun.elems, if_neg (by omega)]
  · rw [Core.over_v, hrun.regs r hr]
  · have hfpmode : (packed w x.vresume n x).over.fpmode = x.over.fpmode := by simp [hf]
    have hover := honly.over_gang hk
    rwa [hfpmode] at hover

theorem execVpack_eq (c : BitVec 8) (w : VWord) (s : State) :
    execVpack c w s = onSpan c 0xD 0x23 w s (fun x => unaryLegal x w) (packBody c.toNat w) := by
  unfold execVpack
  refine congrArg (onSpan c 0xD 0x23 w s fun x => unaryLegal x w) (funext fun s => ?_)
  rfl

theorem exec_vpack {s : State} {c : BitVec 8} {w : VWord} (h : SpanAt s c 0xD 0x23 w) (hlegal : unaryLegal (s.core c.toNat) w = true) :
    ∃ u, exec (.vpack c w) s = .next u ∧ CoreFrame c s u ∧
      u.core c.toNat = (packed w (s.core c.toNat).vresume s.free (s.core c.toNat)).over := by
  obtain ⟨honly, -⟩ := packed_only (s.core c.toNat) w (s.core c.toNat).vresume s.free
  show ∃ u, execVpack c w s = .next u ∧ _
  rw [execVpack_eq]
  exact onSpan_step h (legal := fun x => unaryLegal x w) hlegal (packBody_step h.1 w) ((Core.over_irqAt _).trans (honly.irq.trans h.1.irq))

/-! ## Moves of element 0, counts and scans (R303, R304) -/

/-- A move of element 0 is idle: the element does not lie between VRESUME and SPAN, or it is inactive and kept. -/
def MoveIdle (x : Core) (w : VWord) : Prop := x.spanLen = 0 ∨ x.vresume ≠ 0 ∨ (x.activeAt w 0 = false ∧ w.zero = false)

/-- What a move of element 0 puts into its register. -/
def moveVal (x : Core) (w : VWord) : Nat := if x.activeAt w 0 then x.opA w 0 else 0

theorem moveVal_mod (x : Core) (w : VWord) : moveVal x w % 2 ^ ewOf w = moveVal x w := by
  unfold moveVal
  split
  · exact opA_mod ..
  · exact Nat.zero_mod _

theorem ewOf_le (w : VWord) : ewOf w ≤ 64 := by
  have := ewOf_cases w
  omega

section
variable {s : State} {c : BitVec 8} {op : Nat} {w : VWord} {fp : Bool} (h : SpanAt s c 0xD op w)
  (hfits : spanFits (s.core c.toNat) w = true) (hscal : w.scal = false)
include h hfits hscal

/-- A move leaves its core as it was when it is idle, and else with the element in its register. -/
theorem moveSpan_runs {put : State → Nat → State} {y : Core} (halign : gangAligned w.vs2 (gangOf w) = true)
    (hfp : fp = true → (fpOfEw w).isSome = true)
    (hput : (MoveIdle (s.core c.toNat) w ∧ y = s.core c.toNat) ∨
      (¬MoveIdle (s.core c.toNat) w ∧ CoreStep c s (put s (moveVal (s.core c.toNat) w)) y)) (hirq : y.irqAt = none) :
    ∃ u, moveSpan c op w fp put s = .next u ∧ CoreFrame c s u ∧ u.core c.toNat = y.over := by
  have hlegal : (spanFits (s.core c.toNat) w && !w.scal && gangAligned w.vs2 (gangOf w) && (!fp || (fpOfEw w).isSome)) = true := by
    cases fp with
    | false => simp [hfits, hscal, halign]
    | true => simp [hfits, hscal, halign, hfp rfl]
  refine onSpan_step h (legal := fun x => spanFits x w && !w.scal && gangAligned w.vs2 (gangOf w) && (!fp || (fpOfEw w).isSome)) hlegal ?_
    ((Core.over_irqAt _).trans hirq)
  refine CoreStep.done ?_ h.1.phys _ _
  obtain ⟨hidle, rfl⟩ | ⟨hmoves, hstep⟩ := hput
  · have hself := CoreStep.refl c s
    obtain h0 | h0 | ⟨hactive, hzero⟩ := hidle
    · simpa [h0] using hself
    · simpa [h0] using hself
    · simpa [hactive, hzero] using hself
  · simp only [MoveIdle, not_or, not_and, Bool.not_eq_false, ne_eq, not_not] at hmoves
    obtain ⟨hspan, hresume, hzero⟩ := hmoves
    have hin : ((s.core c.toNat).spanLen = 0 || (s.core c.toNat).vresume != 0) = false := by simp [hspan, hresume]
    rw [hin]
    unfold moveVal at hstep
    by_cases hactive : (s.core c.toNat).activeAt w 0 = true
    · simpa [hactive] using hstep
    · simpa [hactive, hzero] using hstep

/-- A scan of the active set bits writes its count where SPAN is above VRESUME. -/
theorem maskScan_runs (f : List Nat → U64) :
    let x := s.core c.toNat
    ∃ u, maskScan c op w f s = .next u ∧ CoreFrame c s u ∧ u.core c.toNat = (if x.spanLen ≤ x.vresume then x
      else x.setG w.vd (f ((x.activeElems w).filter (fun j => x.maskBit (w.vs2.toNat % 8) j)))).over := by
  intro x
  refine onSpan_step h (legal := fun x => spanFits x w && !w.scal) (by simp [hfits, hscal]) ?_ ?_
  · refine CoreStep.done ?_ h.1.phys _ _
    split
    · exact CoreStep.refl c s
    · exact (CoreStep.refl c s).mod _
  · rw [Core.over_irqAt]
    split
    · exact h.1.irq
    · exact (Core.setG_irqAt ..).trans h.1.irq

end

section
variable {s : State} {c : BitVec 8} {w : VWord}

/-- An instruction has run: its core is `y`, with VRESUME at 0 and the program counter moved on. -/
def RunsTo (i : Instr) (s : State) (c : BitVec 8) (y : Core) : Prop := ∃ u, exec i s = .next u ∧ CoreFrame c s u ∧ u.core c.toNat = y.over

theorem exec_vtog (h : SpanAt s c 0xD 0x26 w)
    (hmoves : spanFits (s.core c.toNat) w = true ∧ w.scal = false ∧ gangAligned w.vs2 (gangOf w) = true) :
    let x := s.core c.toNat
    (MoveIdle x w → RunsTo (.vtog c w) s c x) ∧
    (¬MoveIdle x w → ∃ g : U64, g.toNat % 2 ^ ewOf w = moveVal x w ∧ RunsTo (.vtog c w) s c (x.setG w.vd g)) := by
  intro x
  obtain ⟨hfits, hscal, halign⟩ := hmoves
  have hexec : exec (.vtog c w) s = moveSpan c 0x26 w false (fun s v => setLow s c.toNat w.vd (ewOf w) v) s := rfl
  unfold RunsTo
  rw [hexec]
  refine ⟨fun hidle => moveSpan_runs h hfits hscal halign (by simp) (Or.inl ⟨hidle, rfl⟩) h.1.irq, fun hmove => ?_⟩
  obtain ⟨g, hg, hstep⟩ := (CoreStep.refl c s).low w.vd (ewOf_le w) (moveVal x w)
  exact ⟨g, hg.trans (moveVal_mod x w), moveSpan_runs h hfits hscal halign (by simp) (Or.inr ⟨hmove, hstep⟩)
    ((Core.setG_irqAt ..).trans h.1.irq)⟩

theorem exec_vtof (h : SpanAt s c 0xD 0x27 w)
    (hmoves : spanFits (s.core c.toNat) w = true ∧ w.scal = false ∧ gangAligned w.vs2 (gangOf w) = true) (hfp : (fpOfEw w).isSome = true) :
    let x := s.core c.toNat
    (MoveIdle x w → RunsTo (.vtof c w) s c x) ∧
    (¬MoveIdle x w → RunsTo (.vtof c w) s c (x.setF w.vd (BitVec.ofNat 64 (moveVal x w)))) := by
  intro x
  obtain ⟨hfits, hscal, halign⟩ := hmoves
  have hexec : exec (.vtof c w) s =
    moveSpan c 0x27 w true (fun s v => s.modCore c.toNat (fun x => x.setF w.vd (BitVec.ofNat 64 v))) s := rfl
  unfold RunsTo
  rw [hexec]
  exact ⟨fun hidle => moveSpan_runs h hfits hscal halign (fun _ => hfp) (Or.inl ⟨hidle, rfl⟩) h.1.irq,
    fun hmove => moveSpan_runs h hfits hscal halign (fun _ => hfp) (Or.inr ⟨hmove, (CoreStep.refl c s).mod _⟩) h.1.irq⟩

/-- The active elements whose bit of K[VS2] is set. -/
def Core.hits (x : Core) (w : VWord) : List Nat := (x.activeElems w).filter (fun j => x.maskBit (w.vs2.toNat % 8) j)

theorem exec_kcount (h : SpanAt s c 0xD 0x34 w) (hfits : spanFits (s.core c.toNat) w = true) (hscal : w.scal = false) :
    let x := s.core c.toNat
    RunsTo (.kcount c w) s c (if x.spanLen ≤ x.vresume then x else x.setG w.vd (BitVec.ofNat 64 (x.hits w).length)) :=
  maskScan_runs h hfits hscal (fun l => BitVec.ofNat 64 l.length)

theorem exec_kfind (h : SpanAt s c 0xD 0x35 w) (hfits : spanFits (s.core c.toNat) w = true) (hscal : w.scal = false) :
    let x := s.core c.toNat
    RunsTo (.kfind c w) s c (if x.spanLen ≤ x.vresume then x
      else x.setG w.vd (match x.hits w with | i :: _ => BitVec.ofNat 64 i | [] => BitVec.allOnes 64)) :=
  maskScan_runs h hfits hscal (fun l => match l with | i :: _ => BitVec.ofNat 64 i | [] => BitVec.allOnes 64)

end

/-! ## The special registers (Table 9.2) -/

/-- VSWR's write of a special register. -/
def writeSpecial (i : Nat) (v : U64) (x : Core) : Core :=
  match i with
  | 0 => { x with spanLen := v.toNat }
  | 2 => { x with vresumeS := v.toNat }
  | 3 => { x with vresumeU := v.toNat }
  | 4 => { x with vused := x.vused &&& ~~~v }
  | _ => { x with ven := v.getLsbD 0 }

theorem writeSpecial_irqAt (i : Nat) (v : U64) (x : Core) : (writeSpecial i v x).irqAt = x.irqAt := by
  unfold writeSpecial
  split <;> rfl

theorem Core.over_supervisor {x : Core} (h : x.trap ≠ none) : x.over = x.setVresume 0 :=
  moved_supervisor ((x.setVresume_trap 0).symm ▸ h)

section
variable {s : State} {c : BitVec 8} {w : VWord} (hscal : w.scal = false)
include hscal

theorem exec_setspan (h : SpanAt s c 0xD 0x00 w) :
    let x := s.core c.toNat
    let n := min (x.gr w.vs1).toNat (spanMaxOf w)
    ∃ u, exec (.setspan c w) s = .next u ∧ CoreFrame c s u ∧
      u.core c.toNat = (({ x with spanLen := n } : Core).setG w.vd (BitVec.ofNat 64 n)).over := by
  intro x n
  have hstep := ((CoreStep.refl c s).mod (fun x => ({ x with spanLen := n } : Core).setG w.vd (BitVec.ofNat 64 n))).done h.1.phys x.vresume (some 0)
  show ∃ u, execSetspan c w s = .next u ∧ _
  unfold execSetspan
  exact onSpan_step h (by simp [hscal]) hstep ((Core.over_irqAt _).trans ((Core.setG_irqAt ..).trans h.1.irq))

theorem exec_vsrd (h : SpanAt s c 0xD 0x02 w) {v : U64} (hread : (s.core c.toNat).readSpecial w.vs1.toNat = some v)
    (hfits : spanFits (s.core c.toNat) w = true) :
    ∃ u, exec (.vsrd c w) s = .next u ∧ CoreFrame c s u ∧ u.core c.toNat = ((s.core c.toNat).setG w.vd v).over := by
  have hrun := onSpan_mod h (legal := fun x => spanFits x w && !w.scal && (x.readSpecial w.vs1.toNat).isSome)
    (by simp [hfits, hscal, hread]) (fun x => x.setG w.vd ((x.readSpecial w.vs1.toNat).getD 0)) (fun _ => some 0)
    ((Core.setG_irqAt ..).trans h.1.irq)
  rw [hread] at hrun
  show ∃ u, execVsrd c w s = .next u ∧ _
  exact hrun

omit hscal in
theorem exec_vsrd_illegal (h : SpanAt s c 0xD 0x02 w)
    (hbad : (s.core c.toNat).readSpecial w.vs1.toNat = none ∨ spanFits (s.core c.toNat) w = false)
    (htrap : (s.core c.toNat).trap = none) : exec (.vsrd c w) s = .next (stopProgram s c.toNat 0x8680 (s.core c.toNat).pc) := by
  show execVsrd c w s = _
  unfold execVsrd
  refine onSpan_illegal h ?_ htrap _
  rcases hbad with hbad | hbad <;> simp [hbad]

omit hscal in
theorem exec_vswr_user (h : SpanAt s c 0xD 0x03 w) (htrap : (s.core c.toNat).trap = none) :
    exec (.vswr c w) s = .next (stopProgram s c.toNat 0x8680 (s.core c.toNat).pc) := by
  show execVswr c w s = _
  unfold execVswr
  exact onSpan_illegal h (by simp [htrap]) htrap _

/-- VSWR in the supervisor writes the special register that its VD names. -/
theorem vswr_writes (h : SpanAt s c 0xD 0x03 w) (htrap : (s.core c.toNat).trap ≠ none) (hfits : spanFits (s.core c.toNat) w = true)
    (hvd : w.vd ∈ [(0 : BitVec 5), 2, 3, 4, 5]) :
    ∃ u, exec (.vswr c w) s = .next u ∧ CoreFrame c s u ∧
      u.core c.toNat = writeSpecial w.vd.toNat ((s.core c.toNat).gr w.vs1) ((s.core c.toNat).setVresume 0) := by
  have hall : ∀ d ∈ [(0 : BitVec 5), 2, 3, 4, 5], (d.toNat != 1) = true ∧ d.toNat ≤ 5 ∧
    (d.toNat = 0 ∨ d.toNat = 2 ∨ d.toNat = 3 ∨ d.toNat = 4 ∨ d.toNat = 5) := by decide
  obtain ⟨hone, hfive, hspecial⟩ := hall w.vd hvd
  have hstep := (CoreStep.refl c s).done h.1.phys (s.core c.toNat).vresume (some 0)
  have hover : ((s.core c.toNat).setVresume 0).moved = (s.core c.toNat).setVresume 0 := Core.over_supervisor htrap
  rw [hover] at hstep
  show ∃ u, execVswr c w s = .next u ∧ _
  unfold execVswr
  refine onSpan_step h (by simp [hfits, hscal, Option.isSome_iff_ne_none, htrap, hone, hfive]) ?_
    ((writeSpecial_irqAt ..).trans ((Core.setVresume_irqAt ..).trans h.1.irq))
  rcases hspecial with hi | hi | hi | hi | hi <;> rw [hi] <;> exact hstep.mod _

theorem exec_vswr (h : SpanAt s c 0xD 0x03 w) (htrap : (s.core c.toNat).trap ≠ none) (hfits : spanFits (s.core c.toNat) w = true) :
    let x := s.core c.toNat
    let v := x.gr w.vs1
    let z := x.setVresume 0
    ∃ u, (w.vd ∈ [(0 : BitVec 5), 2, 3, 4, 5] → exec (.vswr c w) s = .next u ∧ CoreFrame c s u) ∧
      (w.vd = 0 → u.core c.toNat = { z with spanLen := v.toNat }) ∧ (w.vd = 2 → u.core c.toNat = { z with vresumeS := v.toNat }) ∧
      (w.vd = 3 → u.core c.toNat = { z with vresumeU := v.toNat }) ∧ (w.vd = 4 → u.core c.toNat = { z with vused := x.vused &&& ~~~v }) ∧
      (w.vd = 5 → u.core c.toNat = { z with ven := v.getLsbD 0 }) := by
  intro x v z
  have hvused : z.vused = x.vused := by
    simp only [z, Core.setVresume]
    split <;> rfl
  by_cases hvd : w.vd ∈ [(0 : BitVec 5), 2, 3, 4, 5]
  · obtain ⟨u, hexec, hframe, hcore⟩ := vswr_writes hscal h htrap hfits hvd
    refine ⟨u, fun _ => ⟨hexec, hframe⟩, ?_, ?_, ?_, ?_, ?_⟩ <;> intro hd <;> rw [hcore, hd]
    · rfl
    · rfl
    · rfl
    · rw [← hvused]
      rfl
    · rfl
  · refine ⟨s, fun hin => absurd hin hvd, ?_, ?_, ?_, ?_, ?_⟩ <;> intro hd <;> exact absurd (by simp [hd]) hvd

end

end Sys2Proof.Machine

open Sys2Proof Sys2Proof.Machine

/-- Settles O44: each instruction replaces its core by what its elements, its result or its register leave. -/
theorem vectorReductionsAndMoves : Obligations.VectorReductionsAndMoves := by
  unfold Obligations.VectorReductionsAndMoves
  refine ⟨fun s i c op w fp f hi h => ?_, fun s c w => ?_, fun s c w => ?_⟩
  · intro x hlegal hfp
    rw [reduceRuns_of hi]
    exact reduceSpan_runs h f hlegal hfp
  · intro x d n perm
    refine ⟨fun h hlegal => ?_, fun h hlegal => ?_, fun h hlegal => ?_, fun h hlegal => ?_⟩
    · refine permSpan_values (exec_vshiftup c w s) h hlegal (unaryLegal_fits hlegal)
        (val := fun j v => n ≤ j → v = x.opA w (j - n)) fun j hj => ?_
      rw [shiftUp, if_pos hj, opA_mod]
    · refine permSpan_values (exec_vshiftdn c w s) h hlegal (unaryLegal_fits hlegal) (val := fun j v => j + n < x.spanLen → v = x.opA w (j + n))
        fun j hj => ?_
      rw [shiftDown, if_pos hj, opA_mod]
    · exact permSpan_values (exec_vshuf c w s) h hlegal (reduceLegal_fits hlegal)
        (val := fun j v => (spanMaxOf w ≤ x.elem (ewOf w) w.vs1.toNat j → v = 0) ∧
          (x.elem (ewOf w) w.vs1.toNat j < x.spanLen → v = x.opA w (x.elem (ewOf w) w.vs1.toNat j)) ∧
          (x.elem (ewOf w) w.vs1.toNat j < spanMaxOf w → v = 0 ∨ v = x.opA w (x.elem (ewOf w) w.vs1.toNat j)))
        (shuffled_cases (reduceLegal_spanFits hlegal) s.free)
    · obtain ⟨-, -, hlen, -⟩ := h.1.lengths
      obtain ⟨u, hrun, hframe, hcore⟩ := exec_vpack h hlegal
      refine ⟨u, hrun, hframe, ?_⟩
      dsimp only
      rw [hcore]
      exact packed_over (unaryLegal_fits hlegal) hlen s.free
  · intro x run moves idle v
    refine ⟨fun h hmoves => ?_, fun h hmoves hfp => ?_, fun hfits hscal => ⟨fun h => ?_, fun h => ?_⟩,
      fun hscal => ⟨fun h => exec_setspan hscal h, fun h => ⟨fun z hz hfits => exec_vsrd hscal h hz hfits, exec_vsrd_illegal h⟩, fun h => ?_⟩⟩
    · exact exec_vtog h hmoves
    · exact exec_vtof h hmoves hfp
    · exact exec_kcount h hfits hscal
    · exact exec_kfind h hfits hscal
    · exact ⟨exec_vswr_user h, exec_vswr hscal h⟩
end

section
/-! The vector loads and stores, VLDPROBE, KLD and KST, where every access is allowed (R304, R314, R317). -/

namespace Sys2Proof.Machine

/-! ## Accesses along an instruction -/

/-- What an access of a core meets rests on the map, the pages that wait for restore, and the job. -/
theorem coreAccess_congr {s u : State} (hxlt : u.mem.xlt = s.mem.xlt) (hpending : u.mem.restorePending = s.mem.restorePending)
    (hjob : u.job = s.job) (va n : Nat) (write : Bool) : coreAccess u va n write = coreAccess s va n write := by
  unfold coreAccess State.restoring
  rw [resolve_congr hxlt hjob, hpending]

theorem CoreStep.access {c : BitVec 8} {s u : State} {y : Core} (h : CoreStep c s u y) (va n : Nat) (write : Bool) :
    coreAccess u va n write = coreAccess s va n write :=
  coreAccess_congr (by rw [h.frame.mem]) (by rw [h.frame.mem]) h.frame.job va n write

theorem StoreStep.access {c : BitVec 8} {s u : State} {m : Memory} {y : Core} (h : StoreStep c s u m y) (va n : Nat) (write : Bool) :
    coreAccess u va n write = coreAccess s va n write :=
  coreAccess_congr (by rw [h.mem]) (by rw [h.mem]) (show u.job = s.job from h.frame.job) va n write

theorem StoreStep.bytes {c : BitVec 8} {s u : State} {m : Memory} {y : Core} (h : StoreStep c s u m y) : u.mem.bytes = m := by rw [h.mem]

theorem StoreStep.memOnly {c : BitVec 8} {s u : State} {m : Memory} {y : Core} (h : StoreStep c s u m y) :
    u.mem = { s.mem with bytes := u.mem.bytes, dirty := u.mem.dirty } := by
  rw [h.bytes]
  exact h.mem

theorem CoreStep.clean {c : BitVec 8} {s u : State} {y : Core} (h : CoreStep c s u y) (hs : cleanMem s) : cleanMem u :=
  cleanMem_of hs (b := s.mem.bytes) (d := s.mem.dirty) h.frame.mem h.frame.fab

/-- A read of clean memory counts, and gives the bytes. -/
theorem CoreStep.read {c : BitVec 8} {s u : State} {y : Core} (h : CoreStep c s u y) (hs : cleanMem s) {pa : Nat} (hpa : InStacks pa)
    (n : Nat) : ∃ v, coreRead u (.stack pa) n = (v, leNat (Memory.read s.mem.bytes pa n), 0) ∧ CoreStep c s v y := by
  have hcount : EventFrame u (bump u (stackBase (stackOf pa)) 0 n) := bump_frame u n (hpa.counter (by decide))
  refine ⟨_, ?_, h.frame.trans (hcount.core c), (bump_core ..).trans h.core⟩
  rw [coreRead_clean (h.clean hs), h.frame.mem]

/-! ## The element loop (R314) -/

/-- Where no interrupt waits and every active element performs, the loop goes from each element to the next. -/
theorem loop_done {m : VecMem} (hirq : m.x.irqAt = none) {P : Nat → State → Prop}
    (hskip : ∀ k u, m.x.vresume + k < m.x.spanLen → m.x.activeAt m.w (m.x.vresume + k) = false → P k u →
      P (k + 1) (m.skip u (m.x.vresume + k)))
    (hact : ∀ k u, m.x.vresume + k < m.x.spanLen → m.x.activeAt m.w (m.x.vresume + k) = true → P k u →
      ∃ l v, coreAccess u (m.addr (m.x.vresume + k)) m.bytes m.write = .ok l ∧ m.perform u (m.x.vresume + k) l = (v, 0) ∧ P (k + 1) v)
    (n k : Nat) (u : State) (hn : n = 0 ∨ m.x.vresume + k + n ≤ m.x.spanLen) (h : P k u) :
    ∃ v, VecMem.loop m n (m.x.vresume + k) u = (v, .done) ∧ P (k + n) v := by
  induction n generalizing k u with
  | zero => exact ⟨u, by simp [VecMem.loop, hirq], h⟩
  | succ n ih =>
    have hnone : (m.x.irqAt == some (m.x.vresume + k) && m.irqAt (m.x.vresume + k)) = false := by simp [hirq]
    have hnext (v : State) (hv : P (k + 1) v) : ∃ z, VecMem.loop m n (m.x.vresume + k + 1) v = (z, .done) ∧ P (k + (n + 1)) z := by
      rw [show k + (n + 1) = k + 1 + n by omega]
      exact ih (k + 1) v (by omega) hv
    unfold VecMem.loop
    rw [hnone]
    cases hactive : m.x.activeAt m.w (m.x.vresume + k) with
    | false => exact hnext _ (hskip k u (by omega) hactive h)
    | true =>
      obtain ⟨l, v, haccess, hperform, hv⟩ := hact k u (by omega) hactive h
      obtain ⟨z, hz, hPz⟩ := hnext v hv
      refine ⟨z, ?_, hPz⟩
      simp [haccess, hperform, hz]

/-- The instruction's loop has run to its end. -/
theorem runVecMem_done {s u : State} {m : VecMem} (hheld : ∀ j ∈ m.todo, s.coreHeld (m.addr j) = false)
    (hloop : VecMem.loop m (m.x.spanLen - m.x.vresume) m.x.vresume s = (u, .done)) :
    runVecMem s m = bumpClocks (doneSpan u m.core m.x.vresume (some (passesFrom (ewOf m.w) (gangOf m.w) m.x.vresume))) (u.coreRegs m.core) 7 := by
  have hnone : m.todo.any (fun i => s.coreHeld (m.addr i)) = false := by simpa using hheld
  unfold runVecMem
  dsimp only
  rw [hnone, hloop]
  rfl

theorem over_undo (x : Core) (z : List (Nat × List (List Byte))) : Core.over { x with undo := z } = { x.over with undo := z } := by
  cases h : x.trap <;> simp [Core.over, Core.setVresume, Core.moved, h]

/-- A vector memory instruction that completes counts its data too. -/
theorem CoreStep.memDone {c : BitVec 8} {s u : State} {y : Core} (h : CoreStep c s u y) (hp : s.HasCore c.toNat) (b : Nat) (n : Option Nat) :
    CoreStep c s (bumpClocks (doneSpan u c.toNat b n) (u.coreRegs c.toNat) 7) y.over := by
  have hdone := h.done hp b n
  have hclocks := hdone.clocks hp (n := 7) (by decide)
  rwa [coreRegs_congr (hdone.frame.rig.trans h.frame.rig.symm)] at hclocks

theorem StoreStep.memDone {c : BitVec 8} {s u : State} {m : Memory} {y : Core} (h : StoreStep c s u m y) (hp : s.HasCore c.toNat)
    (b : Nat) (n : Option Nat) : StoreStep c s (bumpClocks (doneSpan u c.toNat b n) (u.coreRegs c.toNat) 7) m y.over :=
  h.next ((CoreStep.refl c u).memDone (hasCore_of_rig hp h.rig) b n) over_undo

/-! ## Loads and VLDPROBE (R304, R317) -/

/-- A vector memory instruction at a core that can run it: its accesses of active elements are allowed, at places of stack memory. -/
structure VecMemAt (s : State) (c : BitVec 8) (m : VecMem) (pa : Nat → Nat) : Prop where
  core   : m.core = c.toNat
  regs   : m.x = s.core c.toNat
  at_    : CoreAt s c
  clean  : cleanMem s
  fits   : GangFits (ewOf m.w) m.w.vd.toNat (gangOf m.w) m.x.spanLen
  span   : m.x.spanLen ≤ 512
  probe  : m.probe = true → probeMask m.w ≠ 0
  access : ∀ j ∈ m.x.activeElems m.w, AccessAt s (m.addr j) m.bytes (pa j) m.write

theorem mem_activeElems {x : Core} {w : VWord} {k : Nat} (hspan : x.vresume + k < x.spanLen) (hactive : x.activeAt w (x.vresume + k) = true) :
    x.vresume + k ∈ x.activeElems w :=
  List.mem_filter.2 ⟨List.mem_map.2 ⟨k, List.mem_range.2 (by omega), rfl⟩, hactive⟩

/-- The element that a load leaves between VRESUME and SPAN. -/
def loadVal (b : Memory) (m : VecMem) (pa : Nat → Nat) (j : Nat) : Nat :=
  if m.x.activeAt m.w j then leNat (Memory.read b (pa j) m.bytes)
  else if m.w.zero then 0 else m.x.elem (ewOf m.w) m.w.vd.toNat j

/-- What a load has done of its core after `k` elements. -/
structure Loaded (b : Memory) (m : VecMem) (pa : Nat → Nat) (k : Nat) (y : Core) : Prop where
  gang   : GangRun (ewOf m.w) m.w.vd.toNat (gangOf m.w) m.x.vresume k (loadVal b m pa) m.x y
  mask   : m.probe = true → MaskRun (probeMask m.w) m.x.vresume k (m.x.activeAt m.w) m.x y
  kept   : m.probe = false → y.k = m.x.k
  only   : VecOnly m.x y
  fpmode : y.fpmode = m.x.fpmode

section
variable {s : State} {c : BitVec 8} {m : VecMem} {pa : Nat → Nat} (h : VecMemAt s c m pa)
include h

omit h in
theorem VecMem.width (m : VecMem) : m.bytes * 8 = ewOf m.w := by
  have := ewOf_cases m.w
  unfold VecMem.bytes
  omega

theorem Loaded.start : Loaded s.mem.bytes m pa 0 m.x := by
  obtain ⟨-, -, hv, hk⟩ := h.at_.lengths
  rw [← h.regs] at hv hk
  exact ⟨.start hv, fun _ => .start hk, fun _ => rfl, VecOnly.refl _, rfl⟩

/-- The next element is written, and its bit of a probe with it. -/
theorem Loaded.put {k z : Nat} {y : Core} (hy : Loaded s.mem.bytes m pa k y) (hk : m.x.vresume + k < m.x.spanLen)
    (hz : z % 2 ^ ewOf m.w = loadVal s.mem.bytes m pa (m.x.vresume + k)) :
    Loaded s.mem.bytes m pa (k + 1)
      (if m.probe then (y.setElem (ewOf m.w) m.w.vd.toNat (m.x.vresume + k) z).setMaskBit (probeMask m.w) (m.x.vresume + k)
        (m.x.activeAt m.w (m.x.vresume + k)) else y.setElem (ewOf m.w) m.w.vd.toNat (m.x.vresume + k) z) := by
  have hgang := hy.gang.write h.fits hk hz
  have hspan := h.span
  cases hprobe : m.probe with
  | false => exact ⟨hgang, fun hp => absurd (hprobe.symm.trans hp) (by decide), fun _ => hy.kept hprobe, hy.only.setElem .., hy.fpmode⟩
  | true =>
    have hmask : MaskRun (probeMask m.w) m.x.vresume k (m.x.activeAt m.w) m.x (y.setElem (ewOf m.w) m.w.vd.toNat (m.x.vresume + k) z) :=
      (hy.mask hprobe).of_k rfl
    exact ⟨hgang.of_v (Core.setMaskBit_v ..), fun _ => hmask.write ⟨h.probe hprobe, Nat.mod_lt _ (by decide)⟩ (by omega) rfl,
      fun hp => absurd (hprobe.symm.trans hp) (by decide), (hy.only.setElem ..).setMaskBit .., (Core.setMaskBit_fpmode ..).trans hy.fpmode⟩

/-- The next element keeps what it held, and its bit of a probe is clear. -/
theorem Loaded.keep {k : Nat} {y : Core} (hy : Loaded s.mem.bytes m pa k y) (hk : m.x.vresume + k < m.x.spanLen)
    (hactive : m.x.activeAt m.w (m.x.vresume + k) = false) (hzero : m.w.zero = false) :
    Loaded s.mem.bytes m pa (k + 1) (if m.probe then y.setMaskBit (probeMask m.w) (m.x.vresume + k) false else y) := by
  have hgang := hy.gang.keep (by simp [loadVal, hactive, hzero])
  have hspan := h.span
  cases hprobe : m.probe with
  | false => exact ⟨hgang, fun hp => absurd (hprobe.symm.trans hp) (by decide), fun _ => hy.kept hprobe, hy.only, hy.fpmode⟩
  | true =>
    exact ⟨hgang.of_v (Core.setMaskBit_v ..),
      fun _ => (hy.mask hprobe).write ⟨h.probe hprobe, Nat.mod_lt _ (by decide)⟩ (by omega) hactive.symm,
      fun hp => absurd (hprobe.symm.trans hp) (by decide), hy.only.setMaskBit .., (Core.setMaskBit_fpmode ..).trans hy.fpmode⟩

/-- A load's inactive element is treated by ZERO. -/
theorem Loaded.skip {k : Nat} {u : State} {y : Core} (hwrite : m.write = false) (hk : m.x.vresume + k < m.x.spanLen)
    (hactive : m.x.activeAt m.w (m.x.vresume + k) = false) (hstep : CoreStep c s u y) (hy : Loaded s.mem.bytes m pa k y) :
    ∃ z, CoreStep c s (m.skip u (m.x.vresume + k)) z ∧ Loaded s.mem.bytes m pa (k + 1) z := by
  unfold VecMem.skip
  rw [hwrite, h.core, if_neg (by decide)]
  refine ⟨_, hstep.mod _, ?_⟩
  dsimp only
  cases hzero : m.w.zero with
  | false => exact hy.keep h hk hactive hzero
  | true =>
    have hput := hy.put h (z := 0) hk (by simp [loadVal, hactive, hzero])
    rwa [hactive] at hput

/-- A load's active element takes its bytes of memory. -/
theorem Loaded.perform {k : Nat} {u : State} {y : Core} (hwrite : m.write = false) (hk : m.x.vresume + k < m.x.spanLen)
    (hactive : m.x.activeAt m.w (m.x.vresume + k) = true) (hstep : CoreStep c s u y) (hy : Loaded s.mem.bytes m pa k y) :
    ∃ v z, m.perform u (m.x.vresume + k) (.stack (pa (m.x.vresume + k))) = (v, 0) ∧ CoreStep c s v z ∧
      Loaded s.mem.bytes m pa (k + 1) z := by
  obtain ⟨v, hread, hstep⟩ := hstep.read h.clean (h.access _ (mem_activeElems hk hactive)).inside m.bytes
  have hlt := leNat_read_lt s.mem.bytes (pa (m.x.vresume + k)) m.bytes
  have hput := hy.put h hk (z := leNat (Memory.read s.mem.bytes (pa (m.x.vresume + k)) m.bytes)) (by
    rw [loadVal, if_pos hactive, ← m.width, Nat.mul_comm]
    exact Nat.mod_eq_of_lt hlt)
  rw [hactive] at hput
  unfold VecMem.perform
  rw [hwrite, hread, h.core]
  exact ⟨_, _, rfl, hstep.mod _, hput⟩

/-- The loop of a load runs to its end. -/
theorem load_loop (hwrite : m.write = false) :
    ∃ u y, VecMem.loop m (m.x.spanLen - m.x.vresume) m.x.vresume s = (u, .done) ∧ CoreStep c s u y ∧
      Loaded s.mem.bytes m pa (m.x.spanLen - m.x.vresume) y := by
  obtain ⟨u, hloop, y, hstep, hloaded⟩ := loop_done (m := m) (P := fun k u => ∃ y, CoreStep c s u y ∧ Loaded s.mem.bytes m pa k y)
    (h.regs ▸ h.at_.irq) (fun k u hk hactive ⟨y, hstep, hy⟩ => hy.skip h hwrite hk hactive hstep)
    (fun k u hk hactive ⟨y, hstep, hy⟩ => by
      obtain ⟨v, z, hperform, hz⟩ := hy.perform h hwrite hk hactive hstep
      exact ⟨_, v, (hstep.access ..).trans (h.access _ (mem_activeElems hk hactive)).access, hperform, z, hz⟩)
    (m.x.spanLen - m.x.vresume) 0 s (by omega) ⟨m.x, h.regs ▸ CoreStep.refl c s, Loaded.start h⟩
  exact ⟨u, y, hloop, hstep, by rwa [Nat.zero_add] at hloaded⟩

omit h in
/-- What a load leaves of its core (R304, R317). -/
theorem Loaded.over {y : Core} (hy : Loaded s.mem.bytes m pa (m.x.spanLen - m.x.vresume) y) :
    let z := y.over
    let d := m.w.vd.toNat
    (∀ j, m.x.vresume ≤ j → j < m.x.spanLen → z.elem (ewOf m.w) d j = loadVal s.mem.bytes m pa j) ∧
    (∀ j, (j < m.x.vresume ∨ m.x.spanLen ≤ j) → j * ewOf m.w / 512 < gangOf m.w → z.elem (ewOf m.w) d j = m.x.elem (ewOf m.w) d j) ∧
    (∀ r, ¬(d ≤ r ∧ r < d + gangOf m.w) → z.v.getD r 0 = m.x.v.getD r 0) ∧
    (m.probe = false → z.k = m.x.k) ∧
    (m.probe = true → (∀ j, j < 512 → z.maskBit (probeMask m.w) j =
        if m.x.vresume ≤ j ∧ j < m.x.spanLen then m.x.activeAt m.w j else m.x.maskBit (probeMask m.w) j) ∧
      ∀ r, r ≠ probeMask m.w → z.k.getD r 0 = m.x.k.getD r 0) ∧
    z = { m.x.over with v := z.v, vused := z.vused, k := z.k } := by
  obtain ⟨hgang, hmask, hkept, honly, hfpmode⟩ := hy
  refine ⟨fun j hlow hhigh => ?_, fun j hout _ => ?_, fun r hr => ?_, fun hprobe => ?_, fun hprobe => ⟨fun j _ => ?_, fun r hr => ?_⟩, ?_⟩
  · rw [Core.over_elem, hgang.elems, if_pos (by omega)]
  · rw [Core.over_elem, hgang.elems, if_neg (by omega)]
  · rw [Core.over_v, hgang.regs r hr]
  · rw [Core.over_k, hkept hprobe]
  · rw [Core.over_maskBit, (hmask hprobe).bits]
    exact if_congr (by omega) rfl rfl
  · rw [Core.over_k, (hmask hprobe).regs r hr]
  · have hflags : y.over.fpmode = m.x.over.fpmode := by simp [hfpmode]
    have hover := honly.over
    rwa [hflags] at hover

/-- A load runs to its end. -/
theorem load_runs (hwrite : m.write = false) :
    ∃ y, CoreStep c s (runVecMem s m) y.over ∧ Loaded s.mem.bytes m pa (m.x.spanLen - m.x.vresume) y := by
  obtain ⟨u, y, hloop, hstep, hloaded⟩ := load_loop h hwrite
  refine ⟨y, ?_, hloaded⟩
  rw [runVecMem_done (fun j hj => (h.access j hj).held) hloop, h.core]
  exact hstep.memDone h.at_.phys _ _

end

/-! ## Stores (R304, R314) -/

/-- Memory after values of `n` bytes are stored at the places of `es`, in their order. -/
def storeAll (n : Nat) (pa f : Nat → Nat) (es : List Nat) (b : Memory) : Memory :=
  es.foldl (fun b j => Memory.write b (pa j) (leBytes n (f j))) b

/-- The bytes outside those that the stores write stay. -/
theorem get_storeAll {n : Nat} {pa : Nat → Nat} (f : Nat → Nat) {es : List Nat} {a : Nat} (b : Memory)
    (h : ∀ j ∈ es, ¬(pa j ≤ a ∧ a < pa j + n)) : Memory.get (storeAll n pa f es b) a = Memory.get b a := by
  induction es generalizing b with
  | nil => rfl
  | cons j es ih =>
    obtain ⟨hj, hes⟩ := List.forall_mem_cons.1 h
    exact (ih _ hes).trans (get_write_else b _ hj)

theorem storeAll_concat (n : Nat) (pa f : Nat → Nat) (es : List Nat) (j : Nat) (b : Memory) :
    storeAll n pa f (es ++ [j]) b = Memory.write (storeAll n pa f es b) (pa j) (leBytes n (f j)) := by
  rw [storeAll, List.foldl_append]
  rfl

/-- The active ones of the first `n` elements from VRESUME. -/
def VecMem.first (m : VecMem) (n : Nat) : List Nat :=
  ((List.range n).map (fun k => m.x.vresume + k)).filter (fun i => m.x.activeAt m.w i)

theorem VecMem.first_succ (m : VecMem) (n : Nat) :
    m.first (n + 1) = if m.x.activeAt m.w (m.x.vresume + n) then m.first n ++ [m.x.vresume + n] else m.first n := by
  unfold VecMem.first
  rw [List.range_succ, List.map_append, List.filter_append]
  cases hactive : m.x.activeAt m.w (m.x.vresume + n) <;> simp [hactive]

section
variable {s : State} {c : BitVec 8} {m : VecMem} {pa : Nat → Nat} (h : VecMemAt s c m pa)
include h

/-- A store runs to its end. -/
theorem store_runs (hwrite : m.write = true) :
    StoreStep c s (runVecMem s m)
      (storeAll m.bytes pa (m.x.elem (ewOf m.w) m.w.vd.toNat) (m.x.activeElems m.w) s.mem.bytes) m.x.over := by
  obtain ⟨u, hloop, hstep⟩ := loop_done (m := m)
    (P := fun k u => StoreStep c s u (storeAll m.bytes pa (m.x.elem (ewOf m.w) m.w.vd.toNat) (m.first k) s.mem.bytes) m.x)
    (h.regs ▸ h.at_.irq)
    (fun k u _ hactive hu => by
      rw [VecMem.skip, if_pos hwrite, m.first_succ, hactive]
      exact hu)
    (fun k u hk hactive hu => by
      have hat := h.access _ (mem_activeElems hk hactive)
      refine ⟨_, _, (hu.access ..).trans hat.access, by rw [VecMem.perform, if_pos hwrite], ?_⟩
      rw [m.first_succ, if_pos hactive, storeAll_concat, h.core]
      exact hu.write h.clean hat.inside _ _)
    (m.x.spanLen - m.x.vresume) 0 s (by omega) (h.regs ▸ StoreStep.refl c s)
  rw [Nat.zero_add] at hstep
  rw [runVecMem_done (fun j hj => (h.access j hj).held) hloop, h.core]
  exact hstep.memDone h.at_.phys _ _

end

/-! ## The vector memory instructions of Table 9.4 -/

/-- Each vector memory instruction is its entry of the table. -/
theorem exec_memOp {i : Instr} {c : BitVec 8} {op : Nat} {w : VWord} {write probe idx : Bool} {addr : Core → Nat → Nat}
    (h : memOp i = some (c, op, w, write, probe, idx, addr)) (s : State) : exec i s = vmemSpan c op w write probe idx addr s := by
  unfold memOp at h
  split at h <;> cases h <;> rfl

/-- A vector memory instruction as it runs on its core. -/
def vecMemOf (s : State) (c : BitVec 8) (w : VWord) (write probe : Bool) (addr : Core → Nat → Nat) : VecMem :=
  { core := c.toNat, x := s.core c.toNat, w := w, write := write, probe := probe, addr := fun i => addr (s.core c.toNat) i % 2 ^ 64 }

/-- A legal one runs its elements. -/
theorem vmemSpan_plain {s : State} {c : BitVec 8} {op : Nat} {w : VWord} {write probe idx : Bool} {addr : Core → Nat → Nat}
    (h : SpanAt s c 0xD op w) (hlegal : vmemLegal (s.core c.toNat) w idx = true) (hprobe : probe = true → probeMask w ≠ 0)
    (hirq : ((runVecMem s (vecMemOf s c w write probe addr)).core c.toNat).irqAt = none) :
    vmemSpan c op w write probe idx addr s = .next (runVecMem s (vecMemOf s c w write probe addr)) := by
  refine onSpan_plain h ?_ hirq
  cases probe with
  | false => simp [hlegal]
  | true => simp [hlegal, hprobe rfl]

theorem vmemLegal_fits {x : Core} {w : VWord} {idx : Bool} (h : vmemLegal x w idx = true) :
    GangFits (ewOf w) w.vd.toNat (gangOf w) x.spanLen ∧ x.spanLen ≤ 512 := by
  simp only [vmemLegal, Bool.and_eq_true] at h
  obtain ⟨⟨⟨hspan, -⟩, halign⟩, -⟩ := h
  exact ⟨gang_fits hspan halign, spanFits_le hspan⟩

/-! ## KLD and KST -/

theorem leNat_append (l r : List Byte) : leNat (l ++ r) = leNat l + 256 ^ l.length * leNat r := by
  induction l with
  | nil => simp [leNat]
  | cons b l ih =>
    rw [List.cons_append, leNat, leNat, ih, List.length_cons, Nat.pow_succ', Nat.mul_add, Nat.mul_assoc, Nat.add_assoc]

/-- The places of a mask register's eight words. -/
def maskPlaces (pa : Nat → Nat) : List Loc := (List.range 8).map (fun n => .stack (pa n))

section
variable {s : State} {c : BitVec 8} {va : Nat} {write : Bool} {pa : Nat → Nat}
  (hat : ∀ n, n < 8 → AccessAt s ((va + 8 * n) % 2 ^ 64) 8 (pa n) write)
include hat

theorem maskMem_ok (k : Nat) (body : State → List Loc → State) : maskMem s k va write body = body s (maskPlaces pa) := by
  have hwords : maskWords s va write = (List.range 8).map (fun n => .ok (.stack (pa n))) :=
    List.map_congr_left fun n hn => (hat n (List.mem_range.1 hn)).access
  have hheld : (List.range 8).any (fun k => s.coreHeld ((va + 8 * k) % 2 ^ 64)) = false := by
    simpa using fun n hn => (hat n hn).held
  unfold maskMem
  dsimp only
  rw [hheld, hwords]
  rfl

end

/-- Words are read in order from clean memory. -/
theorem readWords_clean {s : State} {c : BitVec 8} {y : Core} {pa : Nat → Nat} (hs : cleanMem s) (l : List Nat)
    (hpa : ∀ n ∈ l, InStacks (pa n)) (k v : Nat) {u : State} (h : CoreStep c s u y) :
    ∃ t, readWords (l.map (fun n => .stack (pa n))) k u v =
        (t, v + 2 ^ (64 * k) * leNat (l.flatMap (fun n => Memory.read s.mem.bytes (pa n) 8)), 0) ∧ CoreStep c s t y := by
  induction l generalizing k v u with
  | nil => exact ⟨u, by simp [readWords, leNat], h⟩
  | cons n l ih =>
    obtain ⟨hn, hl⟩ := List.forall_mem_cons.1 hpa
    obtain ⟨z, hread, hz⟩ := h.read hs hn 8
    obtain ⟨t, ht, hstep⟩ := ih hl (k + 1) (v + leNat (Memory.read s.mem.bytes (pa n) 8) * 2 ^ (64 * k)) hz
    refine ⟨t, ?_, hstep⟩
    have hlen : (Memory.read s.mem.bytes (pa n) 8).length = 8 := by simp [Memory.read]
    have hshift : 2 ^ (64 * (k + 1)) = 2 ^ (64 * k) * 256 ^ 8 := by
      rw [Nat.mul_succ, Nat.pow_add]
      rfl
    rw [List.map_cons, readWords, hread]
    refine ht.trans ?_
    rw [List.flatMap_cons, leNat_append, hlen, hshift, Nat.mul_add, Nat.mul_assoc, Nat.add_assoc,
      Nat.mul_comm (leNat (Memory.read s.mem.bytes (pa n) 8))]

/-- The stores of a mask register's words. -/
theorem storeWords_clean {s : State} {c : BitVec 8} {pa : Nat → Nat} (hs : cleanMem s) (hpa : ∀ n, n < 8 → InStacks (pa n)) (va v : Nat) :
    StoreStep c s (((maskPlaces pa).mapIdx (fun k l => (k, l))).foldl (fun s e =>
        coreWrite s c.toNat ((va + 8 * e.1) % 2 ^ 64) e.2 (leBytes 8 (v / 2 ^ (64 * e.1)))) s)
      (storeAll 8 pa (fun n => v / 2 ^ (64 * n)) (List.range 8) s.mem.bytes) (s.core c.toNat) := by
  have hplaces : (maskPlaces pa).mapIdx (fun k l => (k, l)) = (List.range 8).map (fun n => (n, .stack (pa n))) := rfl
  rw [hplaces, List.foldl_map]
  refine foldl_range_induct (P := fun n u => StoreStep c s u (storeAll 8 pa (fun n => v / 2 ^ (64 * n)) (List.range n) s.mem.bytes)
    (s.core c.toNat)) (StoreStep.refl c s) fun n u hn hu => ?_
  rw [List.range_succ, storeAll_concat]
  exact hu.write hs (hpa n hn) _ _

section
variable {s : State} {c : BitVec 8} {w : VWord} {write : Bool} {pa : Nat → Nat} (hclean : cleanMem s)
  (hat : ∀ n, n < 8 → AccessAt s ((((s.core c.toNat).gr w.vs1).toNat + 8 * n) % 2 ^ 64) 8 (pa n) write) (hscal : w.scal = false)
include hclean hat hscal

/-- KLD reads its eight words into the mask register. -/
theorem kld_runs (hwrite : write = false) (h : SpanAt s c 0xD 0x36 w) :
    ∃ u, exec (.kld c w) s = .next u ∧ CoreFrame c s u ∧ u.core c.toNat = ((s.core c.toNat).setMask (w.vd.toNat % 8)
      (BitVec.ofNat 512 (leNat ((List.range 8).flatMap (fun n => Memory.read s.mem.bytes (pa n) 8))))).over := by
  subst hwrite
  obtain ⟨t, hread, ht⟩ := readWords_clean hclean (List.range 8) (fun n hn => (hat n (List.mem_range.1 hn)).inside) 0 0 (CoreStep.refl c s)
  rw [Nat.zero_add, Nat.mul_zero, Nat.pow_zero, Nat.one_mul] at hread
  show ∃ u, execKld c w s = .next u ∧ _
  unfold execKld
  refine onSpan_step h (by simp [hscal]) ?_ ((Core.over_irqAt _).trans ((Core.setMask_irqAt ..).trans h.1.irq))
  dsimp only
  rw [maskMem_ok hat, maskPlaces, hread]
  exact (ht.mod _).memDone h.1.phys _ _

/-- KST stores the eight words of the mask register. -/
theorem kst_runs (hwrite : write = true) (h : SpanAt s c 0xD 0x37 w) :
    ∃ u, exec (.kst c w) s = .next u ∧ StoreStep c s u
      (storeAll 8 pa (fun n => ((s.core c.toNat).mask (w.vd.toNat % 8)).toNat / 2 ^ (64 * n)) (List.range 8) s.mem.bytes)
      (s.core c.toNat).over := by
  subst hwrite
  have hstore := (storeWords_clean hclean (c := c) (fun n hn => (hat n hn).inside) ((s.core c.toNat).gr w.vs1).toNat
    ((s.core c.toNat).mask (w.vd.toNat % 8)).toNat).memDone h.1.phys (s.core c.toNat).vresume none
  show ∃ u, execKst c w s = .next u ∧ _
  unfold execKst
  refine ⟨_, onSpan_plain h (by simp [hscal]) ?_, ?_⟩
  · dsimp only
    rw [maskMem_ok hat, hstore.irq, Core.over_irqAt]
    exact h.1.irq
  · rw [maskMem_ok hat]
    exact hstore

end

end Sys2Proof.Machine

open Sys2Proof Sys2Proof.Machine

/-- Settles O45: the accesses run in rising order of the elements, and every one of them is performed. -/
theorem vectorMemoryAccesses : Obligations.VectorMemoryAccesses := by
  unfold Obligations.VectorMemoryAccesses
  refine ⟨?_, ?_⟩
  · intro s i c op w write probe idx addr pa hi h hclean x n es d k hlegal hprobe haccess
    obtain ⟨hfits, hspan⟩ := vmemLegal_fits hlegal
    have hat : VecMemAt s c (vecMemOf s c w write probe addr) pa :=
      ⟨rfl, rfl, h.1, hclean, hfits, hspan, hprobe, fun j hj =>
        have ⟨hok, hpa, hheld⟩ := haccess j hj
        ⟨hheld, hok, hpa⟩⟩
    have hexec := exec_memOp hi s
    cases write with
    | false =>
      obtain ⟨y, hstep, hloaded⟩ := load_runs hat rfl
      have hirq : y.over.irqAt = none := (Core.over_irqAt _).trans (hloaded.only.irq.trans h.1.irq)
      refine ⟨_, hexec.trans (vmemSpan_plain h hlegal hprobe (hstep.core ▸ hirq)), ?_⟩
      refine ⟨fun _ => ⟨hstep.frame, ?_⟩, fun hwrite => absurd hwrite (by decide)⟩
      rw [hstep.core]
      exact hloaded.over
    | true =>
      have hstep := store_runs hat rfl
      have hirq : x.over.irqAt = none := (Core.over_irqAt _).trans h.1.irq
      refine ⟨_, hexec.trans (vmemSpan_plain h hlegal hprobe (hstep.irq.trans hirq)), ?_⟩
      refine ⟨fun hwrite => absurd hwrite (by decide), fun _ => ⟨hstep.frame, hstep.core, hstep.memOnly, hstep.bytes, fun a ha => ?_⟩⟩
      rw [hstep.bytes]
      exact get_storeAll _ _ ha
  · intro s c w write pa hscal hclean x va d haccess
    have hat (n : Nat) (hn : n < 8) : AccessAt s ((va + 8 * n) % 2 ^ 64) 8 (pa n) write :=
      have ⟨hok, hpa, hheld⟩ := haccess n hn
      ⟨hheld, hok, hpa⟩
    refine ⟨fun hwrite h => kld_runs hclean hat hscal hwrite h, fun hwrite h => ?_⟩
    obtain ⟨u, hexec, hstep⟩ := kst_runs hclean hat hscal hwrite h
    refine ⟨u, hexec, hstep.frame, hstep.core, hstep.memOnly, hstep.bytes, fun a ha => ?_⟩
    rw [hstep.bytes]
    exact get_storeAll _ _ fun n hn => ha n (List.mem_range.1 hn)
end

section
/-! MEM_MAP and MEM_UNMAP: what mapping and unmapping a run of pages leaves of the translation table, the bytes and the
marks (R330, R331). -/

namespace Sys2Proof.Machine

/-! ## A range taken out of a table -/

theorem kvGet_dropRange {α : Type} (l : List (Nat × α)) (lo hi a : Nat) :
    kvGet (dropRange l lo hi) a = if lo ≤ a ∧ a < hi then none else kvGet l a := by
  split
  · next hin =>
    induction l with
    | nil => rfl
    | cons e r ih =>
      obtain ⟨k, v⟩ := e
      unfold dropRange at ih ⊢
      by_cases hk : k < lo ∨ hi ≤ k
      · have hne : k ≠ a := by omega
        simpa [hk, kvGet, hne] using ih
      · simpa [hk] using ih
  · next hout =>
    exact kvGet_filter (fun k => k < lo || hi ≤ k) l (by simp only [Bool.or_eq_true, decide_eq_true_eq]; omega)

theorem Memory.get_dropRange (m : Memory) (lo hi a : Nat) :
    Memory.get (dropRange m lo hi) a = if lo ≤ a ∧ a < hi then 0 else Memory.get m a := by
  unfold Memory.get kvGetD
  rw [kvGet_dropRange]
  split <;> rfl

/-! ## The entry of a mapped page (Table 10.3) -/

/-- The entry that MEM_MAP makes for a frame: VALID, and above it the bits of ATTR. -/
def mappedEntry (frame attr : Nat) : U64 := BitVec.ofNat 64 (setBits attr 0 0 1 + frame * 0x200000)

section
variable {frame attr : Nat} (hframe : frame < 2 ^ 27) (hattr : attr < 2 ^ 7)
include hframe hattr

theorem mappedEntry_toNat : (mappedEntry frame attr).toNat = attr / 2 * 2 + 1 + frame * 0x200000 := by
  have hvalid : setBits attr 0 0 1 = attr / 2 * 2 + 1 := by
    simp only [setBits, bitsOf, Nat.shiftRight_zero]
    omega
  rw [mappedEntry, hvalid, BitVec.toNat_ofNat, Nat.mod_eq_of_lt (by omega)]

theorem mappedEntry_valid : entryBit (mappedEntry frame attr) 0 = true := by
  rw [entryBit, mappedEntry_toNat hframe hattr, bitOf, Nat.shiftRight_zero, decide_eq_true_eq]
  omega

theorem mappedEntry_frame : entryFrame (mappedEntry frame attr) = frame := by
  rw [entryFrame, mappedEntry_toNat hframe hattr, bitsOf, Nat.shiftRight_eq_div_pow]
  omega

theorem mappedEntry_class : entryClass (mappedEntry frame attr) = bitsOf attr 5 4 := by
  rw [entryClass, mappedEntry_toNat hframe hattr]
  simp only [bitsOf, Nat.shiftRight_eq_div_pow]
  omega

/-- The bits above VALID are those of MEM_MAP's ATTR. -/
theorem mappedEntry_bit {b : Nat} (hb : 1 ≤ b) (hb7 : b < 7) : entryBit (mappedEntry frame attr) b = bitOf attr b := by
  rw [entryBit, mappedEntry_toNat hframe hattr]
  simp only [bitOf, Nat.shiftRight_eq_div_pow]
  congr 2
  interval_cases b <;> omega

end

/-! ## Mapping a run of pages -/

/-- A run of `n` pages from `page` is mapped onto the frames from `frame`. -/
def mapPages (s : State) (page frame attr n : Nat) : State :=
  (List.range n).foldl (fun s i => mapPage s (page + i) (frame + i) attr) s

theorem mapPages_succ (s : State) (page frame attr n : Nat) :
    mapPages s page frame attr (n + 1) = mapPage (mapPages s page frame attr n) (page + n) (frame + n) attr := by
  simp [mapPages, List.range_succ]

theorem mapPages_memOnly (s : State) (page frame attr n : Nat) :
    mapPages s page frame attr n = { s with mem := (mapPages s page frame attr n).mem } := by
  induction n with
  | zero => rfl
  | succ n ih =>
    rw [mapPages_succ, ih]
    rfl

/-- The pages of the run have their entries, and every other page the one it had. -/
theorem mapPages_xlt (s : State) (page frame attr n p : Nat) : kvGet (mapPages s page frame attr n).mem.xlt p =
    if page ≤ p ∧ p < page + n then some (mappedEntry (frame + (p - page)) attr) else kvGet s.mem.xlt p := by
  induction n with
  | zero => rw [if_neg (by omega)]; rfl
  | succ n ih =>
    rw [mapPages_succ]
    show kvGet (kvSet (mapPages s page frame attr n).mem.xlt (page + n) (mappedEntry (frame + n) attr)) p = _
    by_cases hlast : p = page + n
    · rw [hlast, kvGet_kvSet_self, if_pos (by omega), Nat.add_sub_cancel_left]
    · rw [kvGet_kvSet_ne _ _ hlast, ih]
      exact if_congr (by omega) rfl rfl

/-- The bytes of the run's frames read zero, and every other byte as before. -/
theorem mapPages_bytes (s : State) (page frame attr n a : Nat) : Memory.get (mapPages s page frame attr n).mem.bytes a =
    if frame * 0x200000 ≤ a ∧ a < (frame + n) * 0x200000 then 0 else Memory.get s.mem.bytes a := by
  induction n with
  | zero => rw [if_neg (by omega)]; rfl
  | succ n ih =>
    rw [mapPages_succ]
    show Memory.get (dropRange (mapPages s page frame attr n).mem.bytes ((frame + n) * 0x200000)
      ((frame + n) * 0x200000 + 0x200000)) a = _
    rw [Memory.get_dropRange, ih, ← ite_or]
    exact if_congr (by omega) rfl rfl

/-- The lines of the run's frames have no mark, and every other line the one it had. -/
theorem mapPages_lineMark (s : State) (page frame attr n a : Nat) : (mapPages s page frame attr n).lineMark a =
    if frame * 0x200000 ≤ a ∧ a < (frame + n) * 0x200000 then none else s.lineMark a := by
  induction n with
  | zero => rw [if_neg (by omega)]; rfl
  | succ n ih =>
    rw [mapPages_succ]
    show kvGet (dropRange (mapPages s page frame attr n).mem.marks ((frame + n) * 16384) ((frame + n + 1) * 16384)) (a / 128) = _
    rw [kvGet_dropRange]
    refine (if_congr Iff.rfl rfl ih).trans ?_
    rw [← ite_or]
    exact if_congr (by omega) rfl rfl

/-! ## Unmapping pages -/

/-- A key that a table does not list has no value. -/
theorem kvGet_eq_none {α : Type} {l : List (Nat × α)} {a : Nat} (h : a ∉ l.map Prod.fst) : kvGet l a = none := by
  induction l with
  | nil => rfl
  | cons e r ih =>
    rw [List.map_cons, List.mem_cons, not_or] at h
    obtain ⟨hne, hr⟩ := h
    exact (if_neg fun heq => hne heq.symm).trans (ih hr)

/-- Unmapping a page changes of the memory the table, the dirty bits and the pages that wait for restore. -/
theorem unmapPage_only (s : State) (page : Nat) : ∃ d p,
    unmapPage s page = { s with mem := { s.mem with xlt := (unmapPage s page).mem.xlt, dirty := d, restorePending := p } } := by
  unfold unmapPage
  split
  · exact ⟨s.mem.dirty, s.mem.restorePending, rfl⟩
  · exact ⟨_, _, rfl⟩

theorem unmapPage_xlt (s : State) (page p : Nat) :
    kvGet (unmapPage s page).mem.xlt p = if p = page then none else kvGet s.mem.xlt p := by
  unfold unmapPage
  split
  · next hnone =>
    split
    · next hp => rw [hp, hnone]
    · rfl
  · split
    · next hp => rw [hp]; exact kvGet_kvErase_self ..
    · next hp => exact kvGet_kvErase_ne _ hp

theorem unmapPages_only (l : List Nat) (s : State) : ∃ d p, l.foldl unmapPage s =
    { s with mem := { s.mem with xlt := (l.foldl unmapPage s).mem.xlt, dirty := d, restorePending := p } } := by
  induction l generalizing s with
  | nil => exact ⟨s.mem.dirty, s.mem.restorePending, rfl⟩
  | cons a r ih =>
    obtain ⟨_, _, hone⟩ := unmapPage_only s a
    obtain ⟨d, p, hrest⟩ := ih (unmapPage s a)
    refine ⟨d, p, ?_⟩
    rw [List.foldl_cons, hrest, hone]

theorem unmapPages_memOnly (l : List Nat) (s : State) : l.foldl unmapPage s = { s with mem := (l.foldl unmapPage s).mem } := by
  obtain ⟨_, _, hrun⟩ := unmapPages_only l s
  rw [hrun]

theorem unmapPages_xlt (l : List Nat) (s : State) (p : Nat) :
    kvGet (l.foldl unmapPage s).mem.xlt p = if p ∈ l then none else kvGet s.mem.xlt p := by
  induction l generalizing s with
  | nil => rfl
  | cons a r ih =>
    rw [List.foldl_cons, ih, unmapPage_xlt, ← ite_or]
    exact if_congr (by rw [List.mem_cons, or_comm]) rfl rfl

/-- The listed pages of a run. -/
def listedPages (s : State) (page n : Nat) : List Nat := (s.mem.xlt.map Prod.fst).filter (fun k => page ≤ k && k < page + n)

/-- Unmapping the listed pages of a run leaves no page of it mapped. -/
theorem unmapPages_listed (s : State) (page n p : Nat) : kvGet ((listedPages s page n).foldl unmapPage s).mem.xlt p =
    if page ≤ p ∧ p < page + n then none else kvGet s.mem.xlt p := by
  have hmem : p ∈ listedPages s page n ↔ p ∈ s.mem.xlt.map Prod.fst ∧ page ≤ p ∧ p < page + n := by
    simp only [listedPages, List.mem_filter, Bool.and_eq_true, decide_eq_true_eq]
  rw [unmapPages_xlt]
  by_cases hin : page ≤ p ∧ p < page + n
  · rw [if_pos hin]
    split
    · rfl
    · next hnot => exact kvGet_eq_none fun hp => hnot (hmem.2 ⟨hp, hin⟩)
  · rw [if_neg hin, if_neg fun hp => hin (hmem.1 hp).2]

/-! ## Frames of the two commands -/

theorem RingFrame.withMem {s u : State} (h : RingFrame s u) (m : Mem) : RingFrame { s with mem := m } { u with mem := m } := by
  refine ⟨?_, h.regs, h.host⟩
  obtain ⟨_, _, _, hu⟩ := h.same
  exact ⟨_, _, _, by rw [hu]⟩

/-- A command that has changed nothing but the memory since its acceptance. -/
theorem RingFrame.memOnly {s v w : State} (h : RingFrame s v) (hw : w = { v with mem := w.mem }) : RingFrame { s with mem := w.mem } w := by
  rw [hw]
  exact h.withMem _

/-- Steps that each only count and raise events do so when they are taken in turn. -/
theorem EventFrame.foldl {α : Type} {f : State → α → State} (l : List α) (hf : ∀ a ∈ l, ∀ s, EventFrame s (f s a)) (s : State) :
    EventFrame s (l.foldl f s) := by
  induction l generalizing s with
  | nil => exact EventFrame.refl s
  | cons a r ih => exact (hf a List.mem_cons_self s).trans (ih (fun b hb => hf b (List.mem_cons_of_mem _ hb)) _)

theorem stackBase_counter : ∀ m < 8, ∀ n < 10, IsCounter (stackBase m) n := by decide

/-- Count the zeroed halves of a run of frames at the two stacks of their dies (R331). -/
def countZeroed (s : State) (frame n : Nat) : State :=
  (List.range n).foldl (fun s i =>
    let k := 2 * ((frame + i) / dieFrames)
    bump (bump s (stackBase k) 1 0x100000) (stackBase (k + 1)) 1 0x100000) s

theorem countZeroed_frame (s : State) {frame n : Nat} (h : frame + n ≤ 4 * dieFrames) : EventFrame s (countZeroed s frame n) := by
  refine EventFrame.foldl _ (fun i hi v => ?_) s
  have hi : i < n := List.mem_range.1 hi
  have hdie : (frame + i) / dieFrames < 4 := Nat.div_lt_of_lt_mul (by omega)
  exact (bump_frame _ _ (stackBase_counter _ (by omega) 1 (by decide))).trans
    (bump_frame _ _ (stackBase_counter _ (by omega) 1 (by decide)))

/-! ## MEM_MAP (R330, R331) -/

/-- The checks of MEM_MAP rest on neither the registers nor the rings. -/
theorem RingFrame.mapFault {s u : State} (h : RingFrame s u) (va pa count attr : Nat) :
    Machine.mapFault u va pa count attr = Machine.mapFault s va pa count attr := by
  obtain ⟨_, _, _, rfl⟩ := h.same
  rfl

/-- What MEM_MAP's first check says of its operands. -/
structure MapOperands (va pa count attr : Nat) : Prop where
  page  : va % 0x200000 = 0
  frame : pa % 0x200000 = 0
  fits  : pa + count * 0x200000 ≤ 0xC000000000
  attr  : bitOf attr 7 = false

theorem mapOperands_of {s : State} {va pa count attr : Nat} (h : mapFault s va pa count attr = 0) : MapOperands va pa count attr := by
  unfold mapFault at h
  dsimp only at h
  split at h
  · exact absurd h (by decide)
  · next hfirst =>
    simp only [Bool.or_eq_true, bne_iff_ne, decide_eq_true_eq, not_or, not_lt, not_not, Bool.not_eq_true] at hfirst
    obtain ⟨⟨⟨⟨⟨⟨hpage, hframe⟩, -⟩, -⟩, hfits⟩, hattr⟩, -⟩ := hfirst
    exact ⟨hpage, hframe, hfits, hattr⟩

/-- The frames of the range lie in the four dies. -/
theorem MapOperands.inDies {va pa count attr : Nat} (h : MapOperands va pa count attr) : pa / 0x200000 + count ≤ 4 * dieFrames := by
  have hfits := h.fits
  unfold dieFrames
  omega

theorem MapOperands.attr_lt {va pa count : Nat} {attr : BitVec 8} (h : MapOperands va pa count attr.toNat) : attr.toNat < 2 ^ 7 := by
  have hattr := h.attr
  simp only [bitOf, decide_eq_false_iff_not, Nat.shiftRight_eq_div_pow] at hattr
  omega

/-- The state in which MEM_MAP completes: its pages mapped, and the zeroed bytes and itself counted. -/
def mapped (s : State) (page frame attr n : Nat) : State :=
  bump (countZeroed (mapPages s page frame attr n) frame n) xltBase 2 1

theorem mapped_frame (s : State) {page frame attr n : Nat} (h : frame + n ≤ 4 * dieFrames) :
    EventFrame (mapPages s page frame attr n) (mapped s page frame attr n) :=
  (countZeroed_frame _ h).trans (bump_frame _ _ (by decide))

/-- A MEM_MAP that nothing refuses maps its pages. -/
theorem exec_memMap {s : State} {c : CmdCtx} {vaddr paddr : U64} {count : U32} {attr : BitVec 8}
    (h : AtTurn s c 0x0010 [opnd 8 8 vaddr.toNat, opnd 0x10 8 paddr.toNat, opnd 0x18 4 count.toNat, opnd 0x1C 1 attr.toNat])
    (hheld : s.framesHeld paddr.toNat (min count.toNat 524288) = false)
    (hfault : mapFault s vaddr.toNat paddr.toNat count.toNat attr.toNat = 0) :
    CompletesIn (.memMap c vaddr paddr count attr) c s
      (mapped (accept s c 0x10) (vaddr.toNat / 0x200000) (paddr.toNat / 0x200000) attr.toNat count.toNat) 0 0 := by
  show execMemMap c vaddr paddr count attr s = _
  rw [execMemMap, hheld, if_neg Bool.false_ne_true, onRing_ready _ h.1 h.2]
  simp only [(accept_frame s c 0x10).mapFault, hfault, bne_self_eq_false, Bool.false_eq_true, if_false]
  rfl

/-! ## MEM_UNMAP (R331) -/

/-- A MEM_UNMAP of a range in order, with no checkpoint window open, removes the listed pages of its range. -/
theorem exec_memUnmap {s : State} {c : CmdCtx} {vaddr : U64} {count : U32}
    (h : AtTurn s c 0x0011 [opnd 8 8 vaddr.toNat, opnd 0x10 4 count.toNat]) (halign : vaddr.toNat % 0x200000 = 0) (hcount : count ≠ 0)
    (hfits : vaddr.toNat + count.toNat * 0x200000 ≤ 0x10000000000) (hwindow : s.mem.windowOpen = false) :
    let v := accept s c 0x11
    CompletesIn (.memUnmap c vaddr count) c s
      (bump ((listedPages v (vaddr.toNat / 0x200000) count.toNat).foldl unmapPage v) xltBase 3 1) 0 0 := by
  intro v
  have hpos : count.toNat ≠ 0 := fun hzero => hcount (BitVec.eq_of_toNat_eq hzero)
  have hclosed : (accept s c 0x11).mem.windowOpen = false := by rw [(accept_frame s c 0x11).mem, hwindow]
  show execMemUnmap c vaddr count s = _
  rw [execMemUnmap, onRing_ready _ h.1 h.2]
  simp only [halign, bne_self_eq_false, hpos, Nat.not_lt.2 hfits, decide_false, Bool.or_false, Bool.false_eq_true, if_false, hclosed,
    Bool.false_and]
  rfl

end Sys2Proof.Machine
end

section
/-! COPY: a range within one line of host memory, and its refusals (R559). -/

namespace Sys2Proof.Machine

/-! ## Host memory by job virtual address (R336) -/

theorem storeWindow_ne_host (s : State) (o a : Nat) : storeWindow s o ≠ .ok (.host a) := by
  unfold storeWindow
  dsimp only
  split
  · exact nofun
  · split <;> exact nofun

/-- An address that resolves to host memory lies in the host memory window (Table 10.2). -/
theorem resolve_host_window {s : State} {va a : Nat} {write : Bool} (h : resolve s va write = .ok (.host a)) :
    0x100000000000 ≤ va := by
  unfold resolve at h
  split at h
  · split at h
    · cases h
    · split at h
      · cases h
      · split at h <;> cases h
  · split at h
    · exact absurd h (storeWindow_ne_host _ _ _)
    · split at h
      · next hwindow =>
        simp only [Bool.and_eq_true, decide_eq_true_eq] at hwindow
        obtain ⟨⟨⟨hlow, -⟩, -⟩, -⟩ := hwindow
        exact hlow
      · cases h

theorem touchesStore_host {va : Nat} (n : Nat) (h : 0x100000000000 ≤ va) : touchesStore va n = false := by
  have hbeyond : ¬va < 0x10000000000 + 0x100000000 := by omega
  simp [touchesStore, overlaps, hbeyond]

theorem vaHeld_host {s : State} {va a : Nat} (h : resolve s va false = .ok (.host a)) : s.vaHeld va = false := by
  rw [State.vaHeld, h]

section
variable {s : State} {va n a : Nat} (agent : Nat)

theorem readVA_host_line (hn : 0 < n) (hline : va % 128 + n ≤ 128) (h : resolve s va false = .ok (.host a)) :
    readVA s agent va n = (s, 0, Memory.read s.hostMem a n) := by
  simp [readVA, piecesOf_line hn hline, readPieces, h, countMisses, readLoc]

theorem writeVA_host_line {bs : List Byte} (hbs : 0 < bs.length) (hline : va % 128 + bs.length ≤ 128)
    (h : resolve s va true = .ok (.host a)) :
    writeVA s agent va bs = ({ s with hostMem := Memory.write s.hostMem a bs }, 0) := by
  simp [writeVA, piecesOf_line hbs hline, writePieces, h, countMisses, writeLoc]

end

/-! ## Running a COPY -/

/-- A COPY that has moved its last line moves nothing more. -/
theorem runCopy_moved (s : State) {k : CopyState} (h : k.left = 0) : runCopy s k = (s, k) := by
  simp [runCopy, h, copyLines]

/-- Source and destination of a COPY lie within one line each of host memory. -/
structure HostLines (s : State) (src dst : U64) (n a b : Nat) : Prop where
  pos     : 0 < n
  srcLine : src.toNat % 128 + n ≤ 128
  dstLine : dst.toNat % 128 + n ≤ 128
  source  : resolve s src.toNat false = .ok (.host a)
  target  : resolve s dst.toNat true = .ok (.host b)
  seen    : resolve s dst.toNat false = .ok (.host b)

theorem HostLines.ring {s u : State} {src dst : U64} {n a b : Nat} (h : HostLines s src dst n a b) (hframe : RingFrame s u) :
    HostLines u src dst n a b := by
  have hres := resolve_congr (congrArg Mem.xlt hframe.mem) hframe.job
  exact ⟨h.pos, h.srcLine, h.dstLine, (hres ..).trans h.source, (hres ..).trans h.target, (hres ..).trans h.seen⟩

/-- The one line of a COPY within host memory moves whole. -/
theorem runCopy_host_line {s : State} {c : CmdCtx} {src dst : U64} {n a b : Nat} (h : HostLines s src dst n a b) :
    runCopy s { cmd := c, src := src, dst := dst, left := n, status := 0 } =
      ({ s with hostMem := Memory.write s.hostMem b (Memory.read s.hostMem a n) },
       { cmd := c, src := src + BitVec.ofNat 64 n, dst := dst + BitVec.ofNat 64 n, left := 0, status := 0 }) := by
  obtain ⟨hpos, hsrc, hdst, hsource, htarget, hseen⟩ := h
  have hwhole : min n (128 - dst.toNat % 128) = n := by omega
  have hlen : (Memory.read s.hostMem a n).length = n := by simp [Memory.read]
  have hfree : s.rangeHeld src.toNat n = false := by simp [State.rangeHeld, piecesOf_line hpos hsrc, vaHeld_host hsource]
  have hwrite := writeVA_host_line agentHost (bs := Memory.read s.hostMem a n) (hlen.symm ▸ hpos) (hlen.symm ▸ hdst) htarget
  rw [runCopy, copyLines]
  simp only [hwhole, hpos.ne', hfree, vaHeld_host hseen, readVA_host_line agentHost hpos hsrc hsource, hwrite, decide_false,
    bne_self_eq_false, Bool.or_false, Bool.false_eq_true, if_false, Nat.sub_self]
  simp [copyLines]

/-! ## The two commands (R559) -/

section
variable {s : State} {c : CmdCtx} {src dst bytes : U64}
  (h : AtTurn s c 0x0012 [opnd 8 8 src.toNat, opnd 0x10 8 dst.toNat, opnd 0x18 8 bytes.toNat])
include h

/-- A COPY whose ranges touch the tile-store window or each other is refused. -/
theorem exec_copy_refused (hbad : touchesStore src.toNat bytes.toNat = true ∨ touchesStore dst.toNat bytes.toNat = true ∨
    overlaps src.toNat bytes.toNat dst.toNat bytes.toNat = true) :
    CompletesIn (.copy c src dst bytes) c s (accept s c 0x12) 0x8102 0 := by
  show execCopy c src dst bytes s = _
  rw [execCopy, onRing_ready _ h.1 h.2]
  dsimp only
  rw [if_pos (by simpa only [Bool.or_eq_true, or_assoc] using Or.inr hbad)]

/-- A COPY of one line of host memory has moved it when it starts. -/
theorem exec_copy_host_line {a b : Nat} (hlines : HostLines s src dst bytes.toNat a b)
    (hapart : overlaps src.toNat bytes.toNat dst.toNat bytes.toNat = false) :
    let v := accept s c 0x12
    StartsIn (.copy c src dst bytes) c s (markStarted { v with
      hostMem := Memory.write v.hostMem b (Memory.read v.hostMem a bytes.toNat)
      hif := { v.hif with copies := v.hif.copies ++
        [{ cmd := c, src := src + BitVec.ofNat 64 bytes.toNat, dst := dst + BitVec.ofNat 64 bytes.toNat, left := 0, status := 0 }] } } c) := by
  intro v
  have hsmall : ¬2 ^ 40 < bytes.toNat := by
    have hline := hlines.srcLine
    omega
  have hsrc := touchesStore_host bytes.toNat (resolve_host_window hlines.source)
  have hdst := touchesStore_host bytes.toNat (resolve_host_window hlines.target)
  show execCopy c src dst bytes s = _
  rw [execCopy, onRing_ready _ h.1 h.2]
  simp only [hsmall, hsrc, hdst, hapart, decide_false, Bool.or_false, Bool.false_eq_true, if_false,
    runCopy_host_line (hlines.ring (accept_frame s c 0x12))]
  rfl

end

/-- A COPY that has moved its last line posts its completion. -/
theorem exec_copyDone {s : State} {c : CmdCtx} {k : CopyState} (hp : s.pins.powered = true)
    (hfind : s.hif.copies.find? (fun x => x.cmd == c) = some k) (hleft : k.left = 0) :
    exec (.copyDone c) s = .next (finish { s with hif := { s.hif with
      copies := dropFirst (fun x => x.cmd == c) s.hif.copies } } c k.status 0) := by
  show execCopyDone c s = _
  rw [execCopyDone, powered_on _ hp, hfind]
  simp [runCopy_moved s hleft, hleft]

end Sys2Proof.Machine

open Sys2Proof Sys2Proof.Machine

/-- Settles O10: MEM_MAP and MEM_UNMAP change the pages of their range one by one, and a COPY of one line runs to its end when it
starts. -/
theorem mappingAndCopyCommandsAct : Obligations.MappingAndCopyCommandsAct := by
  unfold Obligations.MappingAndCopyCommandsAct
  refine ⟨fun s c vaddr paddr count attr => ⟨fun h hheld hfault => ?_, fun h halign hcount hfits hwindow => ?_⟩,
    fun s c src dst bytes => ⟨fun h => ⟨fun hbad => ?_, fun hpos hsrc hdst hsource htarget hseen hapart => ?_⟩,
      fun k hp hfind hleft => exec_copyDone hp hfind hleft⟩⟩
  · have hops := mapOperands_of hfault
    have hframe := hops.frame
    have haccept := accept_frame s c 0x10
    have hdone := mapped_frame (accept s c 0x10) (page := vaddr.toNat / 0x200000) (attr := attr.toNat) hops.inDies
    have hmem := hdone.ring.mem
    have hfirst : paddr.toNat / 0x200000 * 0x200000 = paddr.toNat := by omega
    have hrange : (paddr.toNat / 0x200000 + count.toNat) * 0x200000 = paddr.toNat + count.toNat * 0x200000 := by rw [Nat.add_mul, hfirst]
    refine ⟨_, exec_memMap h hheld hfault, ?_, fun i hi => ?_, fun p hp => ?_, fun a => ?_, fun a => ?_⟩
    · rw [hmem]
      exact (haccept.memOnly (mapPages_memOnly ..)).trans hdone.ring
    · have hsmall : paddr.toNat / 0x200000 + i < 2 ^ 27 := (Nat.add_lt_add_left hi _).trans (hops.inDies.trans_lt (by decide))
      have hattr := hops.attr_lt
      refine ⟨mappedEntry (paddr.toNat / 0x200000 + i) attr.toNat, ?_, mappedEntry_valid hsmall hattr, mappedEntry_frame hsmall hattr,
        mappedEntry_class hsmall hattr, fun b => mappedEntry_bit hsmall hattr⟩
      rw [hmem, mapPages_xlt, if_pos (by omega), Nat.add_sub_cancel_left]
    · rw [hmem, mapPages_xlt, if_neg hp, haccept.mem]
    · rw [hmem, mapPages_bytes, haccept.mem, hrange, hfirst]
    · rw [State.lineMark, hmem]
      refine (mapPages_lineMark ..).trans ?_
      rw [State.lineMark, haccept.mem, hrange, hfirst]
      rfl
  · have haccept := accept_frame s c 0x11
    obtain ⟨d, q, hrun⟩ := unmapPages_only (listedPages (accept s c 0x11) (vaddr.toNat / 0x200000) count.toNat) (accept s c 0x11)
    refine ⟨_, exec_memUnmap h halign hcount hfits hwindow, ?_, fun p => ?_, ?_, ?_⟩
    · rw [bump_mem]
      exact (haccept.memOnly (unmapPages_memOnly ..)).trans (bump_frame _ _ (by decide)).ring
    · rw [bump_mem, unmapPages_listed, haccept.mem]
    · rw [bump_mem, hrun, haccept.mem]
    · rw [bump_mem, hrun, haccept.mem]
  · exact ⟨_, exec_copy_refused h hbad, accept_frame ..⟩
  · refine ⟨accept s c 0x12, _, exec_copy_host_line h ⟨hpos, hsrc, hdst, hsource, htarget, hseen⟩ hapart, accept_frame .., ?_, rfl, rfl,
      _, List.mem_append_right _ List.mem_cons_self, rfl, rfl, rfl⟩
    exact markStarted_started (s := { accept s c 0x12 with hostMem := _, hif := _ }) (accept_outstanding s c 0x12)
end

section
/-! The stack controllers: temperature reports, what the reading of a line with an error leaves, and retirements (R332 to R334, R340
to R342, R344, R348). -/

namespace Sys2Proof.Machine

/-! ## Changing a stack controller -/

theorem State.stk_modStk_self (s : State) {n : Nat} (f : Stack → Stack) (h : n < s.mem.stackCtl.length) :
    (s.modStk n f).stk n = f (s.stk n) := getD_setAt_self _ f _ h

theorem State.stk_modStk_ne (s : State) {n m : Nat} (f : Stack → Stack) (h : m ≠ n) : (s.modStk n f).stk m = s.stk m :=
  getD_setAt_ne _ f _ h

@[simp] theorem State.length_modStk (s : State) (n : Nat) (f : Stack → Stack) :
    (s.modStk n f).mem.stackCtl.length = s.mem.stackCtl.length := List.length_mapIdx

theorem State.stk_congr {s u : State} (h : u.mem = s.mem) (n : Nat) : u.stk n = s.stk n := by rw [State.stk, h]; rfl

/-- Two changes that agree on the stack as it is are the same change. -/
theorem State.modStk_congr {s : State} {n : Nat} {f g : Stack → Stack} (h : f (s.stk n) = g (s.stk n)) : s.modStk n f = s.modStk n g := by
  have hctl : setAt s.mem.stackCtl n f = setAt s.mem.stackCtl n g := by
    refine List.ext_getElem (by simp [setAt]) fun i hf _ => ?_
    simp only [setAt, List.getElem_mapIdx]
    split
    · next hi =>
      have hlen : i < s.mem.stackCtl.length := by simpa [setAt] using hf
      rw [← hi, State.stk, List.getD_eq_getElem _ _ hlen] at h
      exact h
    · rfl
  rw [State.modStk, hctl]
  rfl

theorem State.modStk_same {s : State} {n : Nat} {f : Stack → Stack} (h : f (s.stk n) = s.stk n) : s.modStk n f = s := by
  have hctl : setAt s.mem.stackCtl n id = s.mem.stackCtl := by
    refine List.ext_getElem (by simp [setAt]) fun i _ _ => ?_
    simp [setAt]
  rw [State.modStk_congr (g := id) h, State.modStk, hctl]

/-- Two changes of a stack in turn are one. -/
theorem State.modStk_modStk (s : State) (n : Nat) (f g : Stack → Stack) : (s.modStk n f).modStk n g = s.modStk n (g ∘ f) := by
  have hctl : setAt (setAt s.mem.stackCtl n f) n g = setAt s.mem.stackCtl n (g ∘ f) := by
    refine List.ext_getElem (by simp [setAt]) fun i _ _ => ?_
    simp only [setAt, List.getElem_mapIdx]
    split <;> rfl
  simp only [State.modStk, hctl]

/-! ## Thermal control (R340 to R342) -/

/-- A stack whose metering, or in the second scheme its refresh multiplier, follows a temperature (R341). -/
def Stack.metered (k : Stack) (c thr : Nat) : Stack :=
  if k.modeActive then { k with metering := false, refreshMul := refreshStep k.refreshMul c }
  else if thr ≤ c then { k with metering := true, refreshMul := 1 }
  else if c + 2 ≤ thr then { k with metering := false, refreshMul := 1 }
  else k

/-- A stack whose hot stop follows a temperature (R342). -/
def Stack.heated (k : Stack) (c : Nat) : Stack :=
  { k with hotStop := if 100 ≤ c then true else if c < 95 then false else k.hotStop }

/-- In the second scheme the refresh multiplier follows, and nothing is metered. -/
theorem Stack.metered_refresh {k : Stack} (c thr : Nat) (h : k.modeActive = true) :
    k.metered c thr = { k with metering := false, refreshMul := refreshStep k.refreshMul c } := if_pos h

/-- In the native scheme metering begins at the threshold and ends 2 °C below it. -/
theorem Stack.metered_native {k : Stack} (c thr : Nat) (h : k.modeActive = false) :
    (k.metered c thr).metering = if thr ≤ c then true else if c + 2 ≤ thr then false else k.metering := by
  rw [Stack.metered, h, if_neg Bool.false_ne_true, apply_ite Stack.metering, apply_ite Stack.metering]

theorem Stack.metered_hotStop (k : Stack) (c thr : Nat) : (k.metered c thr).hotStop = k.hotStop := by
  rw [Stack.metered, apply_ite Stack.hotStop, apply_ite Stack.hotStop, apply_ite Stack.hotStop]
  simp only [ite_self]

theorem meterStack_frame (s : State) {n : Nat} (hn : n < 8) (c thr : Nat) :
    FreeFrame (s.modStk n (fun k => k.metered c thr)) (meterStack s n c thr) := by
  have hclocks (u : State) : FreeFrame u (bumpClocks u (stackBase n) 5) := bumpClocks_freeFrame u (stackBase_counter n hn 5 (by decide))
  have hstk {f : Stack → Stack} {u : State} (hu : FreeFrame (s.modStk n f) u) (hf : (s.stk n).metered c thr = f (s.stk n)) :
      FreeFrame (s.modStk n (fun k => k.metered c thr)) u := by
    rw [State.modStk_congr (f := fun k => k.metered c thr) hf]
    exact hu
  unfold meterStack
  dsimp only
  by_cases hmode : (s.stk n).modeActive = true
  · rw [if_pos hmode]
    exact hstk (EventFrame.refl _).freeFrame (if_pos hmode)
  rw [if_neg hmode]
  by_cases hhot : thr ≤ c
  · rw [if_pos hhot]
    refine hstk (f := fun k => { k with metering := true, refreshMul := 1 }) ?_ ((if_neg hmode).trans (if_pos hhot))
    split
    · exact hclocks _
    · exact (hclocks _).trans (raise_frame ..).freeFrame
  rw [if_neg hhot]
  by_cases hcool : c + 2 ≤ thr
  · rw [if_pos hcool]
    exact hstk (EventFrame.refl _).freeFrame ((if_neg hmode).trans ((if_neg hhot).trans (if_pos hcool)))
  rw [if_neg hcool, State.modStk_same (f := fun k => k.metered c thr) ((if_neg hmode).trans ((if_neg hhot).trans (if_neg hcool)))]
  split
  · exact hclocks s
  · exact (EventFrame.refl s).freeFrame

theorem hotStack_frame (s : State) (n c : Nat) : EventFrame (s.modStk n (fun k => k.heated c)) (hotStack s n c) := by
  unfold hotStack
  dsimp only
  by_cases hhot : 100 ≤ c
  · cases hstop : (s.stk n).hotStop with
    | false =>
      have hset : s.modStk n (fun k => { k with hotStop := true }) = s.modStk n (fun k => k.heated c) :=
        State.modStk_congr (by simp [Stack.heated, hhot])
      rw [if_pos (by simp [hhot]), hset]
      exact raise_frame ..
    | true =>
      rw [if_neg (by simp), if_neg (by omega), State.modStk_same (by rw [Stack.heated, if_pos hhot, ← hstop])]
      exact EventFrame.refl s
  · rw [if_neg (by simp [hhot])]
    by_cases hcool : c < 95
    · rw [if_pos hcool, State.modStk_congr (f := fun k => k.heated c) (g := fun k => { k with hotStop := false })
        (by simp [Stack.heated, hhot, hcool])]
      exact EventFrame.refl _
    · rw [if_neg hcool, State.modStk_same (by rw [Stack.heated, if_neg hhot, if_neg hcool])]
      exact EventFrame.refl s

theorem FreeFrame.stk {s u : State} (h : FreeFrame s u) (n : Nat) : u.stk n = s.stk n := State.stk_congr h.ring.mem n

theorem FreeFrame.plainReg {s u : State} (h : FreeFrame s u) {o : Nat} (ho : eventReg o = false) : u.reg o = s.reg o := h.regs o ho

theorem FreeFrame.ite {c : Prop} [Decidable c] {s t u : State} (ht : FreeFrame s t) (hu : FreeFrame s u) :
    FreeFrame s (if c then t else u) := by
  split
  · exact ht
  · exact hu

/-- The same change of a stack keeps the frame. -/
theorem FreeFrame.modStk {s u : State} (h : FreeFrame s u) (n : Nat) (f : Stack → Stack) : FreeFrame (s.modStk n f) (u.modStk n f) := by
  refine ⟨?_, h.regs, h.host⟩
  obtain ⟨_, _, _, _, _, _, _, _, hu⟩ := h.same
  exact ⟨_, _, _, _, _, _, _, _, by rw [hu]; rfl⟩

/-- A stack that has taken a temperature report. -/
def sampled (s : State) (n c thr rate : Nat) : State :=
  ((s.setReg (stackBase n + 0x10) (c + thr * 0x100 + rate * 0x10000)).modStk n (fun k => k.metered c thr)).modStk n (fun k => k.heated c)

/-- A report sets its register and the stack's state; the rest is counting, events and free values. -/
theorem exec_stackTempSample {s : State} (hp : s.pins.powered = true) (stack : BitVec 3) (tempC thrC : BitVec 8) (rate : BitVec 4) :
    ∃ u, exec (.stackTempSample stack tempC thrC rate) s = .next u ∧
      FreeFrame (sampled s stack.toNat tempC.toNat thrC.toNat rate.toNat) u := by
  have hn : stack.toNat < 8 := stack.isLt
  refine ⟨_, (show execStackTempSample stack tempC thrC rate s = _ from powered_on _ hp), ?_⟩
  refine FreeFrame.trans ?_ (FreeFrame.ite (bumpClocks_freeFrame _ (stackBase_counter _ hn 6 (by decide))) (EventFrame.refl _).freeFrame)
  exact ((meterStack_frame _ hn ..).modStk _ _).trans (hotStack_frame ..).freeFrame

theorem sampled_stk_self (s : State) {n : Nat} (c thr rate : Nat) (h : n < s.mem.stackCtl.length) :
    (sampled s n c thr rate).stk n = ((s.stk n).metered c thr).heated c := by
  have hkept (v : Nat) : (s.setReg (stackBase n + 0x10) v).stk n = s.stk n := State.stk_congr (State.setReg_mem ..) n
  rw [sampled, State.stk_modStk_self, State.stk_modStk_self, hkept]
  · rw [State.setReg_mem]
    exact h
  · rw [State.length_modStk, State.setReg_mem]
    exact h

theorem sampled_stk_ne (s : State) {n m : Nat} (c thr rate : Nat) (h : m ≠ n) : (sampled s n c thr rate).stk m = s.stk m := by
  rw [sampled, State.stk_modStk_ne _ _ h, State.stk_modStk_ne _ _ h]
  exact State.stk_congr (State.setReg_mem ..) m

/-- A report changes of the memory the stack controllers only. -/
theorem sampled_memOnly (s : State) (n c thr rate : Nat) : ∃ l r,
    sampled s n c thr rate = { s with mem := { s.mem with stackCtl := l }, regs := r } := by
  unfold sampled State.modStk State.setReg
  exact ⟨_, _, rfl⟩

theorem sampled_same {s u : State} {n c thr rate : Nat} (h : FreeFrame (sampled s n c thr rate) u) :
    u = { s with mem := { s.mem with stackCtl := u.mem.stackCtl }, regs := u.regs, hostMem := u.hostMem, hif := u.hif, free := u.free } := by
  obtain ⟨_, _, hsampled⟩ := sampled_memOnly s n c thr rate
  rw [hsampled] at h
  obtain ⟨_, _, _, _, _, _, _, _, hu⟩ := h.same
  rw [hu]

/-- A report sets the stack's temperature register, and no other. -/
theorem sampled_reg_eq (s : State) (n c thr rate o : Nat) : (sampled s n c thr rate).reg o =
    (s.setReg (stackBase n + 0x10) (c + thr * 0x100 + rate * 0x10000)).reg o := by
  rw [sampled, State.reg_congr (State.modStk_regs ..), State.reg_congr (State.modStk_regs ..)]

theorem sampled_reg (s : State) {n c thr rate : Nat} (hc : c < 2 ^ 8) (hthr : thr < 2 ^ 8) (hrate : rate < 2 ^ 4) :
    (sampled s n c thr rate).reg (stackBase n + 0x10) = c + thr * 0x100 + rate * 0x10000 := by
  rw [sampled_reg_eq, State.reg_setReg_self, Nat.mod_eq_of_lt (by omega)]

theorem sampled_reg_ne (s : State) {n o : Nat} (c thr rate : Nat) (h : o ≠ stackBase n + 0x10) :
    (sampled s n c thr rate).reg o = s.reg o := by
  rw [sampled_reg_eq, State.reg_setReg_ne s _ h]

/-- Registers of a stack that no event changes: its temperature, and the address and kind of the last line lost (Table 10.6). -/
theorem stackReg_plain : ∀ m < 8, ∀ o ∈ [0x10, 0x20, 0x24], eventReg (stackBase m + o) = false := by decide

/-! ## A line with an error (R332 to R334) -/

/-- `u` is `s` but for what follows the finding of an error at `pa`: the stack controllers, the lines whose event has been raised, fault
reports, and registers of counters. -/
structure ErrorFrame (pa : Nat) (s u : State) : Prop where
  mem  : u.mem = { s.mem with stackCtl := u.mem.stackCtl, eventLines := u.mem.eventLines }
  regs : InStacks pa → ∀ o, eventReg o = false → u.reg o = s.reg o

theorem ErrorFrame.refl (pa : Nat) (s : State) : ErrorFrame pa s s := ⟨rfl, fun _ _ _ => rfl⟩

theorem ErrorFrame.trans {pa : Nat} {s t u : State} (h1 : ErrorFrame pa s t) (h2 : ErrorFrame pa t u) : ErrorFrame pa s u := by
  refine ⟨?_, fun hpa o ho => (h2.regs hpa o ho).trans (h1.regs hpa o ho)⟩
  rw [h2.mem, h1.mem]

theorem ErrorFrame.ite {pa : Nat} {c : Prop} [Decidable c] {s t u : State} (ht : ErrorFrame pa s t) (hu : ErrorFrame pa s u) :
    ErrorFrame pa s (if c then t else u) := by
  split
  · exact ht
  · exact hu

theorem EventFrame.error {s u : State} (h : EventFrame s u) (pa : Nat) : ErrorFrame pa s u := by
  refine ⟨?_, fun _ => h.regs⟩
  rw [h.ring.mem]

theorem InStacks.stackOf_lt {pa : Nat} (h : InStacks pa) : stackOf pa < 8 := by
  unfold InStacks at h
  unfold stackOf
  omega

/-- Counting at the stack of the line. -/
theorem bump_error (s : State) (pa : Nat) {n : Nat} (hn : n < 10) : ErrorFrame pa s (bump s (stackBase (stackOf pa)) n 1) :=
  ⟨by rw [bump_mem], fun hpa => (bump_frame s 1 (stackBase_counter _ hpa.stackOf_lt n hn)).regs⟩

theorem modStk_error (pa : Nat) (s : State) (n : Nat) (f : Stack → Stack) : ErrorFrame pa s (s.modStk n f) := ⟨rfl, fun _ _ _ => rfl⟩

theorem report_error (pa : Nat) (s : State) (code addr data : Nat) : ErrorFrame pa s (report s code addr data) := by
  have hring (u : State) : ErrorFrame pa u (sendRing u) := ErrorFrame.ite ⟨rfl, fun _ _ _ => rfl⟩ (ErrorFrame.refl pa u)
  have hcount (u : State) (k : Nat) : ErrorFrame pa u (countMgmt u 0 k) := by
    unfold countMgmt
    split
    · next p hp => exact (bump_frame u k (portSent_counter (List.mem_range.1 (List.mem_of_find?_eq_some hp)))).error pa
    · exact ErrorFrame.refl pa u
  have hemit (o : Out) : ErrorFrame pa s (s.emit o) := ⟨rfl, fun _ _ _ => rfl⟩
  exact ((hemit _).trans (hring _)).trans (hcount _ _)

theorem decideRetire_error (pa : Nat) (s : State) : ErrorFrame pa s (decideRetire s pa) :=
  (ErrorFrame.refl pa s).ite (((modStk_error ..).trans ((raise_frame ..).error pa)).ite (modStk_error ..))

theorem noteError_error (pa : Nat) (s : State) (kind : Nat) : ErrorFrame pa s (noteError s pa kind) :=
  ((modStk_error ..).trans (decideRetire_error ..)).ite (modStk_error ..)

/-- The page that a line backs is of class ACT. -/
def State.actLine (s : State) (pa : Nat) : Bool := match s.entryAt pa with | some e => entryClass e == 1 | none => false

/-- A line takes a mark, which is counted and recorded (R333, R334). -/
def takeMark (s : State) (pa : Nat) (k : LineMark) (n : Nat) (lost scrub : Bool) : State :=
  noteLost (bump (markLine s pa k) (stackBase (stackOf pa)) n 1) pa lost scrub

/-- What a line's error leaves before its consequences: in a page of class ACT the line is poisoned, elsewhere an uncorrectable error loses
it. -/
def errorMarked (s : State) (pa : Nat) (uncorrectable scrub : Bool) : State :=
  if s.actLine pa then takeMark s pa .poisoned 3 false scrub
  else if uncorrectable then takeMark s pa .lost 4 true scrub
  else s

theorem State.actLine_of {s : State} {pa : Nat} {e : U64} (h : s.entryAt pa = some e) : s.actLine pa = (entryClass e == 1) := by
  rw [State.actLine, h]

theorem lineError_error (s : State) (pa : Nat) (uncorrectable scrub : Bool) :
    ErrorFrame pa (errorMarked s pa uncorrectable scrub) (lineError s pa uncorrectable scrub) := by
  have hevent (u : State) (l : List Nat) (code src addr : Nat) :
      ErrorFrame pa u (raise { u with mem := { u.mem with eventLines := l } } code src addr 0) :=
    ErrorFrame.trans (t := { u with mem := { u.mem with eventLines := l } }) ⟨rfl, fun _ _ _ => rfl⟩ ((raise_frame ..).error pa)
  show ErrorFrame pa (errorMarked s pa uncorrectable scrub) (if s.actLine pa then _ else _)
  unfold errorMarked
  by_cases hact : s.actLine pa = true
  · rw [if_pos hact, if_pos hact]
    exact ((ErrorFrame.refl pa _).ite (hevent ..)).trans (noteError_error ..)
  rw [if_neg hact, if_neg hact]
  cases uncorrectable with
  | true => exact (((raise_frame ..).error pa).trans (report_error ..)).trans (decideRetire_error ..)
  | false => exact (bump_error s pa (by decide)).trans (noteError_error ..)

/-- A mark taken changes of the memory the marks only. -/
theorem takeMark_mem (s : State) (pa : Nat) (k : LineMark) (n : Nat) (lost scrub : Bool) :
    (takeMark s pa k n lost scrub).mem = { s.mem with marks := kvSet s.mem.marks (pa / 128) k } := by
  show (bump (markLine s pa k) (stackBase (stackOf pa)) n 1).mem = _
  rw [bump_mem]
  rfl

theorem takeMark_lineMark (s : State) (pa : Nat) (k : LineMark) (n : Nat) (lost scrub : Bool) :
    (takeMark s pa k n lost scrub).lineMark pa = some k := by
  rw [State.lineMark, takeMark_mem]
  exact kvGet_kvSet_self ..

/-- The line's address is recorded (Table 10.6). -/
theorem takeMark_reg64 {s : State} {pa : Nat} (hpa : InStacks pa) (k : LineMark) (n : Nat) (lost scrub : Bool) :
    (takeMark s pa k n lost scrub).reg64 (stackBase (stackOf pa) + 0x20) = pa / 128 * 128 := by
  unfold InStacks at hpa
  unfold takeMark noteLost
  dsimp only
  rw [State.reg64_setReg_ne _ _ (by omega) (by omega)]
  exact State.reg64_setReg64_self _ _ _ (by omega)

theorem errorMarked_lineMark (s : State) (pa : Nat) (uncorrectable scrub : Bool) : (errorMarked s pa uncorrectable scrub).lineMark pa =
    if s.actLine pa then some .poisoned else if uncorrectable then some .lost else s.lineMark pa := by
  unfold errorMarked
  rw [apply_ite (fun u : State => u.lineMark pa), apply_ite (fun u : State => u.lineMark pa), takeMark_lineMark, takeMark_lineMark]

/-- A line that is poisoned or lost is recorded by its address. -/
theorem errorMarked_reg64 {s : State} {pa : Nat} {uncorrectable : Bool} (hpa : InStacks pa) (scrub : Bool)
    (h : s.actLine pa = true ∨ uncorrectable = true) :
    (errorMarked s pa uncorrectable scrub).reg64 (stackBase (stackOf pa) + 0x20) = pa / 128 * 128 := by
  unfold errorMarked
  by_cases hact : s.actLine pa = true
  · rw [if_pos hact]
    exact takeMark_reg64 hpa ..
  · rw [if_neg hact, if_pos (h.resolve_left hact)]
    exact takeMark_reg64 hpa ..

theorem ErrorFrame.lineMark {pa : Nat} {s u : State} (h : ErrorFrame pa s u) (a : Nat) : u.lineMark a = s.lineMark a := by
  rw [State.lineMark, h.mem]
  rfl

theorem ErrorFrame.lostAddr {pa : Nat} {s u : State} (h : ErrorFrame pa s u) (hpa : InStacks pa) :
    u.reg64 (stackBase (stackOf pa) + 0x20) = s.reg64 (stackBase (stackOf pa) + 0x20) := by
  have hplain := stackReg_plain _ hpa.stackOf_lt
  have hlow : u.reg (stackBase (stackOf pa) + 0x20) = _ := h.regs hpa _ (hplain _ (by decide))
  have hhigh : u.reg (stackBase (stackOf pa) + 0x20 + 4) = _ := h.regs hpa _ (hplain 0x24 (by decide))
  simp only [State.reg] at hlow hhigh
  simp only [State.reg64, RegFile.get64, hlow, hhigh]

/-! ## Scrub (R339) -/

/-- A line that the scrub of a stack reads: it lies in the stack and backs a mapped page, nothing holds it, and it has no mark. -/
structure ScrubLine (s : State) (stack : BitVec 3) (pa : Nat) (e : U64) : Prop where
  powered : s.pins.powered = true
  rate    : s.reg (stackBase stack.toNat + 0xC) ≠ 0
  inside  : InStacks pa
  stack   : stackOf pa = stack.toNat
  entry   : s.entryAt pa = some e
  free    : s.paHeld pa = false
  clean   : s.lineMark pa = none

/-- The scrub has taken a hidden error of a line. -/
def withoutLatent (s : State) (pa : Nat) : State := { s with mem := { s.mem with latent := kvErase s.mem.latent (pa / 128) } }

section
variable {s : State} {stack : BitVec 3} {line : U64} {e : U64} (h : ScrubLine s stack (line.toNat / 128 * 128) e)
include h

theorem ScrubLine.reads : (s.reg (stackBase stack.toNat + 0xC) = 0 || 0xC000000000 ≤ line.toNat / 128 * 128 ||
    stackOf (line.toNat / 128 * 128) != stack.toNat || (s.entryAt (line.toNat / 128 * 128)).isNone || s.paHeld (line.toNat / 128 * 128) ||
    (s.lineMark (line.toNat / 128 * 128)).isSome) = false := by
  obtain ⟨-, hrate, hinside, hstack, hentry, hfree, hclean⟩ := h
  rw [hstack, hentry, hfree, hclean, decide_eq_false hrate, decide_eq_false (Nat.not_le.2 hinside)]
  simp

/-- A scrub read of a line without an error changes nothing. -/
theorem exec_scrub_clean (hlatent : kvGet s.mem.latent (line.toNat / 128 * 128 / 128) = none) :
    exec (.scrub stack line .none) s = .next s := by
  show execScrub stack line .none s = _
  rw [execScrub, powered_on _ h.powered]
  dsimp only
  rw [h.reads, if_neg Bool.false_ne_true, hlatent]

/-- A scrub read acts on the error that it finds. -/
theorem exec_scrub_error {err : LineErr} (herr : err ≠ .none) : exec (.scrub stack line err) s =
    .next (lineError (withoutLatent s (line.toNat / 128 * 128)) (line.toNat / 128 * 128) (decide (err = .uncorrectable)) true) := by
  show execScrub stack line err s = _
  rw [execScrub, powered_on _ h.powered]
  dsimp only
  rw [h.reads, if_neg Bool.false_ne_true]
  cases err with
  | none => exact absurd rfl herr
  | correctable => rfl
  | uncorrectable => rfl

end

/-! ## Retirement (R344, R348) -/

@[simp] theorem raise_stk (s : State) (code src addr data n : Nat) : (raise s code src addr data).stk n = s.stk n :=
  State.stk_congr (raise_mem ..) n

/-- Nothing is found in a range whose lines hold no error. -/
theorem senseLines_none {s : State} {pa n : Nat} (h : ∀ e ∈ s.mem.latent, overlaps (e.1 * 128) 128 pa n = false) : senseLines s pa n = s := by
  have hnone : (s.mem.latent.map Prod.fst).filter (fun l => overlaps (l * 128) 128 pa n) = [] := by
    simp only [List.filter_eq_nil_iff, List.mem_map]
    rintro _ ⟨e, he, rfl⟩
    rw [h e he]
    exact Bool.false_ne_true
  rw [senseLines, hnone]
  rfl

/-- A line that is none of a 4 KiB block's 32 shares no byte with the block. -/
theorem overlaps_block {l b : Nat} (h : ¬(32 * b ≤ l ∧ l < 32 * b + 32)) : overlaps (l * 128) 128 (b * 4096) 4096 = false := by
  simp only [overlaps, Bool.and_eq_false_iff, decide_eq_false_iff_not]
  omega

/-- A stack whose block's copy has ended. -/
def Stack.copied (k : Stack) (b : Nat) : Stack := { k with retiring := natErase k.retiring b }

/-- A stack that leaves a block in place on an empty reserve (R348). -/
def Stack.leaves (k : Stack) (b : Nat) : Stack := { k.copied b with inPlace := k.inPlace ++ [b], foundEmpty := true }

/-- A stack whose block a reserve block serves (R344, R347). -/
def Stack.moves (k : Stack) (n b : Nat) : Stack :=
  { k.copied b with blockMap := remapBlock k n b, history := k.history.filter (fun e => e.1 != b),
                    repairRows := k.repairRows ++ (rowsToRepair (remapBlock k n b)).filter (fun r => !k.repairRows.contains r) }

section
variable {s : State} {n b : Nat} (hn : n < 8) (hlen : s.mem.stackCtl.length = 8)
  (hclean : ∀ e ∈ s.mem.latent, ¬(32 * b ≤ e.1 ∧ e.1 < 32 * b + 32))
include hn hlen hclean

/-- The copy of a block whose lines hold no error ends: the stack no longer retires it. -/
theorem retireBlock_copied : senseLines s (b * 4096) 4096 = s ∧ (s.modStk n (fun k => k.copied b)).stk n = (s.stk n).copied b :=
  ⟨senseLines_none fun e he => overlaps_block (hclean e he), State.stk_modStk_self _ _ (by omega)⟩

/-- On an empty reserve the block is left in place. -/
theorem retireBlock_leaves (h : (s.stk n).blocksLeft = 0) : EventFrame (s.modStk n (fun k => k.leaves b)) (retireBlock s n b) := by
  obtain ⟨hsense, hstk⟩ := retireBlock_copied hn hlen hclean
  have hempty : ((s.modStk n (fun k => k.copied b)).stk n).blocksLeft = 0 := by rw [hstk]; exact h
  unfold retireBlock
  dsimp only
  rw [hsense]
  show EventFrame _ (if ((s.modStk n (fun k => k.copied b)).stk n).blocksLeft = 0 then _ else _)
  rw [if_pos hempty]
  have hleaves : (s.modStk n (fun k => k.copied b)).modStk n (fun k => { k with inPlace := k.inPlace ++ [b], foundEmpty := true }) =
    s.modStk n (fun k => k.leaves b) := State.modStk_modStk ..
  rw [← hleaves]
  exact raise_frame ..

/-- Otherwise a reserve block serves it, and the spare map has changed. -/
theorem retireBlock_moves (h : (s.stk n).blocksLeft ≠ 0) :
    EventFrame { s.modStk n (fun k => k.moves n b) with flash := { s.flash with dirty := true } } (retireBlock s n b) := by
  obtain ⟨hsense, hstk⟩ := retireBlock_copied hn hlen hclean
  have hroom : ((s.modStk n (fun k => k.copied b)).stk n).blocksLeft ≠ 0 := by rw [hstk]; exact h
  unfold retireBlock
  dsimp only
  rw [hsense]
  show EventFrame _ (if ((s.modStk n (fun k => k.copied b)).stk n).blocksLeft = 0 then _ else _)
  rw [if_neg hroom]
  have hmoves : (s.modStk n (fun k => k.copied b)).modStk n (fun k =>
      { k with blockMap := remapBlock k n b, history := k.history.filter (fun e => e.1 != b),
               repairRows := k.repairRows ++ (rowsToRepair (remapBlock k n b)).filter (fun r => !k.repairRows.contains r) }) =
    s.modStk n (fun k => k.moves n b) := State.modStk_modStk ..
  rw [← hmoves]
  exact (bump_frame _ _ (stackBase_counter n hn 7 (by decide))).trans (raise_frame ..)

end

/-- `u` has the stack controllers of `s` but for stack `n`, which is now `k`, and its stored bytes. -/
structure StackNow (n : Nat) (k : Stack) (s u : State) : Prop where
  self   : u.stk n = k
  others : ∀ m, m ≠ n → u.stk m = s.stk m
  bytes  : u.mem.bytes = s.mem.bytes

theorem stackNow_of {s u : State} {n : Nat} {f : Stack → Stack} (hn : n < s.mem.stackCtl.length) (hmem : u.mem = (s.modStk n f).mem) :
    StackNow n (f (s.stk n)) s u :=
  ⟨(State.stk_congr hmem n).trans (State.stk_modStk_self s f hn), fun m hm => (State.stk_congr hmem m).trans (State.stk_modStk_ne s f hm),
   by rw [hmem]; rfl⟩

theorem exec_blockRetired {s : State} {stack : BitVec 3} {b : Nat} {r : List Nat} (hp : s.pins.powered = true)
    (h : (s.stk stack.toNat).retiring = b :: r) : exec (.blockRetired stack) s = .next (retireBlock s stack.toNat b) := by
  show execBlockRetired stack s = _
  rw [execBlockRetired, powered_on _ hp, h]

/-- A block whose number the map does not list is added to it. -/
theorem remapBlock_new {k : Stack} {b : Nat} (n : Nat) (h : ∀ e ∈ k.blockMap, e.1 ≠ b) :
    remapBlock k n b = k.blockMap ++ [(b, freeReserve k)] := by
  have hsame : k.blockMap.map (fun e => if e.1 = b then (reserveBlock n e.2, e.2) else e) = k.blockMap :=
    (List.map_congr_left fun e he => if_neg (h e he)).trans (List.map_id _)
  rw [remapBlock, hsame]

end Sys2Proof.Machine
end

section
/-! Spare maps on their way to flash, and writes that have waited for a staging slot (R345, R355, R583). -/

namespace Sys2Proof.Machine

/-! ## Writes to stack memory -/

/-- What neither the reading of check information nor dirty tracking changes: the stored bytes, and the writes that wait. -/
structure StoredFrame (s u : State) : Prop where
  bytes   : u.mem.bytes = s.mem.bytes
  stalled : u.mem.stalled = s.mem.stalled

theorem StoredFrame.refl (s : State) : StoredFrame s s := ⟨rfl, rfl⟩

theorem StoredFrame.trans {s t u : State} (h1 : StoredFrame s t) (h2 : StoredFrame t u) : StoredFrame s u :=
  ⟨h2.bytes.trans h1.bytes, h2.stalled.trans h1.stalled⟩

theorem StoredFrame.ite {c : Prop} [Decidable c] {s t u : State} (ht : StoredFrame s t) (hu : StoredFrame s u) :
    StoredFrame s (if c then t else u) := by
  split
  · exact ht
  · exact hu

theorem ErrorFrame.stored {pa : Nat} {s u : State} (h : ErrorFrame pa s u) : StoredFrame s u := by
  constructor <;> rw [h.mem]

theorem bump_stored (s : State) (g n k : Nat) : StoredFrame s (bump s g n k) := by
  constructor <;> rw [bump_mem]

theorem takeMark_stored (s : State) (pa : Nat) (k : LineMark) (n : Nat) (lost scrub : Bool) :
    StoredFrame s (takeMark s pa k n lost scrub) := by
  constructor <;> rw [takeMark_mem]

theorem lineError_stored (s : State) (pa : Nat) (uncorrectable scrub : Bool) : StoredFrame s (lineError s pa uncorrectable scrub) :=
  StoredFrame.trans ((takeMark_stored ..).ite ((takeMark_stored ..).ite (StoredFrame.refl s))) (lineError_error ..).stored

theorem senseLine_stored (s : State) (pa : Nat) : StoredFrame s (senseLine s pa) := by
  unfold senseLine
  split
  · exact StoredFrame.refl s
  · exact StoredFrame.trans (t := withoutLatent s pa) ⟨rfl, rfl⟩ (lineError_stored ..)

theorem senseLines_stored (s : State) (pa n : Nat) : StoredFrame s (senseLines s pa n) := by
  unfold senseLines
  generalize (s.mem.latent.map Prod.fst).filter _ = l
  induction l generalizing s with
  | nil => exact StoredFrame.refl s
  | cons a r ih => exact (senseLine_stored s (a * 128)).trans (ih _)

theorem trackWrite_stored (s : State) (pa : Nat) : StoredFrame s (trackWrite s pa) := by
  have hplain (u : State) (st : List (Nat × Memory)) (p d : List Nat) :
    StoredFrame u { u with mem := { u.mem with staging := st, ckptPend := p, dirty := d } } := ⟨rfl, rfl⟩
  unfold trackWrite
  split
  · exact StoredFrame.refl s
  · refine (StoredFrame.refl s).ite (StoredFrame.trans (StoredFrame.ite ?_ (StoredFrame.refl s)) (hplain ..))
    exact (senseLines_stored s ..).trans ((hplain ..).trans (bump_stored ..))

theorem clearLine_stored (s : State) (pa n : Nat) : StoredFrame s (clearLine s pa n) :=
  StoredFrame.ite ⟨rfl, rfl⟩ (senseLine_stored s pa)

/-- A performed write stores its bytes, and no other write moves. -/
theorem performWrite_stores (s : State) (pa : Nat) (bs : List Byte) :
    (performWrite s pa bs).mem.bytes = Memory.write s.mem.bytes pa bs ∧ (performWrite s pa bs).mem.stalled = s.mem.stalled := by
  have hbefore := (trackWrite_stored s pa).trans (clearLine_stored (trackWrite s pa) pa bs.length)
  rw [performWrite_eq, putBytes, bump_mem]
  exact ⟨congrArg (fun m => Memory.write m pa bs) hbefore.bytes, hbefore.stalled⟩

theorem tryArrive_mem (s : State) : (tryArrive s).mem = s.mem := by
  obtain ⟨_, _, _, h⟩ := (tryArrive_frame s).1
  rw [h]

/-! ## The two commands -/

/-- The first write that waits at a die goes on once it has a slot (R355). -/
theorem exec_stagingStallRelease {s : State} {die : BitVec 2} {w : Nat × List Byte} {r : List (Nat × List Byte)}
    (hp : s.pins.powered = true) (hstalled : s.mem.stalled = w :: r) (hdie : w.1 / 0x3000000000 = die.toNat)
    (hslot : noSlot s (w.1 / 65536) = false) : exec (.stagingStallRelease die) s =
      .next (tryArrive (performWrite { s with mem := { s.mem with stalled := r } } w.1 w.2)) := by
  show execStagingStallRelease die s = _
  rw [execStagingStallRelease, powered_on _ hp]
  simp [hstalled, hdie, hslot, dropFirst]

theorem exec_spareMapFlashWrite {s : State} (hp : s.pins.powered = true) (h : s.flash.dirty = true) :
    exec .spareMapFlashWrite s = .next (writeFlash s) := by
  show execSpareMapFlashWrite s = _
  rw [execSpareMapFlashWrite, powered_on _ hp, if_pos h]

end Sys2Proof.Machine

open Sys2Proof Sys2Proof.Machine

/-- Settles O46: a report and a retirement change one stack, and an error found by the scrub, a changed map and a write that waited are
followed by what the statement lists. -/
theorem memoryControllersAct : Obligations.MemoryControllersAct := by
  unfold Obligations.MemoryControllersAct
  intro s stack n k hp hlen
  have hn : n < 8 := stack.isLt
  have hin : n < s.mem.stackCtl.length := by rw [hlen]; exact hn
  refine ⟨fun tempC thrC rate => ?_, fun line err e => ?_, fun b r hretiring hclean => ?_, fun hdirty => ?_,
    fun die w r hstalled hdie hslot => ?_⟩
  · intro c thr
    obtain ⟨u, hexec, hframe⟩ : ∃ u, exec (.stackTempSample stack tempC thrC rate) s = .next u ∧ FreeFrame (sampled s n c thr rate.toNat) u :=
      exec_stackTempSample hp stack tempC thrC rate
    have hself : u.stk n = (k.metered c thr).heated c := (hframe.stk n).trans (sampled_stk_self s c thr rate.toNat hin)
    refine ⟨u, hexec, sampled_same hframe, ?_, fun o ho hne => ?_, fun m hm => ?_, ?_, fun hmode => ?_, fun hmode => ?_⟩
    · rw [hframe.plainReg (stackReg_plain n hn _ (by decide)), sampled_reg s tempC.isLt thrC.isLt rate.isLt]
    · rw [hframe.plainReg ho, sampled_reg_ne s c thr rate.toNat hne]
    · exact (hframe.stk m).trans (sampled_stk_ne s c thr rate.toNat hm)
    · rw [hself, Stack.heated, Stack.metered_hotStop]
    · rw [hself, Stack.metered_refresh c thr hmode]
      exact ⟨rfl, rfl⟩
    · rw [hself]
      exact Stack.metered_native c thr hmode
  · intro pa hrate hinside hstack hentry hfree hmark act
    have hline : ScrubLine s stack pa e := ⟨hp, hrate, hinside, hstack, hentry, hfree, hmark⟩
    have hact : (withoutLatent s pa).actLine pa = act := State.actLine_of hentry
    refine ⟨fun hnone hlatent => hnone ▸ exec_scrub_clean hline hlatent, fun herr => ?_⟩
    have hframe := lineError_error (withoutLatent s pa) pa (decide (err = .uncorrectable)) true
    have hfound := lineError_line (withoutLatent s pa) pa (decide (err = .uncorrectable)) true
    refine ⟨_, exec_scrub_error hline herr, hfound.bytes, hfound.xlt, ?_, fun hlost => ?_⟩
    · have hnomark : (withoutLatent s pa).lineMark pa = none := hmark
      rw [hframe.lineMark, errorMarked_lineMark, hact, hnomark]
      simp only [decide_eq_true_eq]
    · have haddr := hframe.lostAddr hinside
      rw [errorMarked_reg64 hinside true (by rw [hact, decide_eq_true_eq]; exact hlost), hstack] at haddr
      exact haddr.trans (by omega)
  · refine ⟨_, exec_blockRetired hp hretiring, ?_⟩
    by_cases hempty : k.blocksLeft = 0
    · have hnow : StackNow n (k.leaves b) s _ := stackNow_of hin (retireBlock_leaves hn hlen hclean hempty).ring.mem
      refine ⟨congrArg Stack.retiring hnow.self, hnow.bytes, hnow.others, fun hroom => absurd hempty hroom, fun _ => ?_⟩
      rw [hnow.self]
      exact ⟨rfl, rfl⟩
    · have hframe := (retireBlock_moves hn hlen hclean hempty).ring
      have hnow : StackNow n (k.moves n b) s _ := stackNow_of hin hframe.mem
      refine ⟨congrArg Stack.retiring hnow.self, hnow.bytes, hnow.others, fun _ => ?_, fun hnone => absurd hnone hempty⟩
      rw [hnow.self, hframe.flash]
      exact ⟨rfl, List.mem_append_right _ List.mem_cons_self, rfl, remapBlock_new n⟩
  · refine ⟨_, exec_spareMapFlashWrite hp hdirty, rfl, rfl, rfl, rfl, ?_, rfl⟩
    simp [writeFlash]
  · obtain ⟨hbytes, hrest⟩ := performWrite_stores { s with mem := { s.mem with stalled := r } } w.1 w.2
    refine ⟨_, exec_stagingStallRelease hp hstalled hdie hslot, ?_, ?_⟩
    · rw [tryArrive_mem, hrest]
    · rw [tryArrive_mem, hbytes]
end

section
/-! One port of Azmarlink changes: a lane fault and the end of live sparing (R363, R364). -/

namespace Sys2Proof.Machine

/-! ## One port changes -/

/-- `u` has the ports, the memory, the tiles and the cores of `s`. -/
structure PortFrame (s u : State) : Prop where
  ports : u.fab.ports = s.fab.ports
  mem   : u.mem = s.mem
  tiles : u.tiles = s.tiles
  cores : u.cores = s.cores

/-- Port `p` of `u` is `y`; its other ports, its memory, tiles and cores are those of `s`. -/
structure PortOnly (p : Nat) (y : Port) (s u : State) : Prop where
  port   : u.port p = y
  others : (∀ q, q ≠ p → u.port q = s.port q) ∧ u.mem = s.mem ∧ u.tiles = s.tiles ∧ u.cores = s.cores
  count  : u.fab.ports.length = s.fab.ports.length

theorem PortFrame.refl (s : State) : PortFrame s s := ⟨rfl, rfl, rfl, rfl⟩

theorem PortFrame.trans {s t u : State} (h1 : PortFrame s t) (h2 : PortFrame t u) : PortFrame s u :=
  ⟨h2.ports.trans h1.ports, h2.mem.trans h1.mem, h2.tiles.trans h1.tiles, h2.cores.trans h1.cores⟩

theorem SendFrame.ofPorts {s u : State} (h : SendFrame s u) : PortFrame s u := ⟨h.ports, h.mem, h.tiles, h.cores⟩

theorem PortFrame.port {s u : State} (h : PortFrame s u) (q : Nat) : u.port q = s.port q :=
  congrArg (fun l => l.getD q (Port.reset q)) h.ports

/-- Nothing but port `p` has changed, and it too is as it was. -/
theorem PortFrame.only {s u : State} (h : PortFrame s u) (p : Nat) : PortOnly p (s.port p) s u :=
  ⟨h.port p, ⟨fun q _ => h.port q, h.mem, h.tiles, h.cores⟩, congrArg List.length h.ports⟩

theorem PortOnly.trans {p : Nat} {y z : Port} {s t u : State} (h1 : PortOnly p y s t) (h2 : PortOnly p z t u) : PortOnly p z s u := by
  obtain ⟨hports1, hmem1, htiles1, hcores1⟩ := h1.others
  obtain ⟨hports2, hmem2, htiles2, hcores2⟩ := h2.others
  exact ⟨h2.port, ⟨fun q hq => (hports2 q hq).trans (hports1 q hq), hmem2.trans hmem1, htiles2.trans htiles1, hcores2.trans hcores1⟩,
    h2.count.trans h1.count⟩

/-- What leaves the ports alone leaves the changed port as it has become. -/
theorem PortOnly.frame {p : Nat} {y : Port} {s t u : State} (h1 : PortOnly p y s t) (h2 : PortFrame t u) : PortOnly p y s u :=
  h1.trans (h1.port ▸ h2.only p)

theorem PortFrame.thenOnly {p : Nat} {y : Port} {s t u : State} (h1 : PortFrame s t) (h2 : PortOnly p y t u) : PortOnly p y s u :=
  (h1.only p).trans h2

section
variable {s : State} {p : Nat} (hp : p < 16) (h16 : s.fab.ports.length = 16)
include hp h16

theorem modPort_only (f : Port → Port) : PortOnly p (f (s.port p)) s (s.modPort p f) :=
  ⟨State.port_modPort_self s f (h16 ▸ hp), ⟨fun _ hq => State.port_modPort_ne s f hq, rfl, rfl, rfl⟩, List.length_mapIdx⟩

omit hp in
/-- A path change that changes one port. -/
theorem pathChange_only {y : Port} {f : State → State} (h : PortOnly p y s (f s)) : PortOnly p y s (pathChange s f) :=
  h.frame (pathChange_send s f (h.count.trans h16)).ofPorts

theorem pathChange_modPort (f : Port → Port) : PortOnly p (f (s.port p)) s (pathChange s (fun s => s.modPort p f)) :=
  pathChange_only h16 (modPort_only hp h16 f)

end

/-! ## What leaves the ports alone -/

theorem SameBut.ofPorts {s u : State} (h : SameBut s u) : PortFrame s u := ⟨congrArg Fabric.ports h.fab, h.mem, h.tiles, h.cores⟩

theorem bump_ports (s : State) (g n k : Nat) : PortFrame s (bump s g n k) := (same_bump ..).ofPorts
theorem raise_ports (s : State) (code src addr data : Nat) : PortFrame s (raise s code src addr data) := (same_raise ..).ofPorts
theorem setReg_ports (s : State) (o v : Nat) : PortFrame s (s.setReg o v) := ⟨rfl, rfl, rfl, rfl⟩
theorem markFailed_ports (s : State) (u : UnitRef) : PortFrame s (markFailed s u) := ⟨rfl, rfl, rfl, rfl⟩
theorem setLane_ports (s : State) (m i : Nat) (l : Option Nat) (reason : Nat) : PortFrame s (setLane s m i l reason) := ⟨rfl, rfl, rfl, rfl⟩
theorem measureEyes_ports (s : State) (p : Nat) : PortFrame s (measureEyes s p) := ⟨rfl, rfl, rfl, rfl⟩

theorem countCorrected_ports (s : State) (p : Nat) : PortFrame s (countCorrected s p) :=
  (⟨rfl, rfl, rfl, rfl⟩ : PortFrame s { s with free := s.free + 1 }).trans (bump_ports ..)

theorem mapLanes_ports (s : State) (p : Nat) (ls : List Nat) (reason : Nat) : PortFrame s (mapLanes s p ls reason) := by
  unfold mapLanes
  generalize List.range 4 = l
  induction l generalizing s with
  | nil => exact PortFrame.refl s
  | cons k r ih => exact (setLane_ports s ..).trans (ih _)

/-! ## Lanes (R363, R364) -/

/-- What is left of a port that has lost a lane for good (R364). -/
def narrowed (p : Nat) (x : Port) : Port :=
  match x.healthy p with
  | a :: b :: _ => { x with lanes := [a, b, 31, 31], width := if x.up then 2 else 0, sparing := none,
                            spareUsed := a == portSpare p || b == portSpare p }
  | _ => { portOff x with lanes := [31, 31, 31, 31], spareUsed := false }

/-- With two healthy lanes a port that is up goes on with its two lowest at half rate. -/
theorem narrowed_two {p a b : Nat} {r : List Nat} {x : Port} (h : x.healthy p = a :: b :: r) (hup : x.up = true) : narrowed p x =
    { x with lanes := [a, b, 31, 31], width := 2, sparing := none, spareUsed := a == portSpare p || b == portSpare p } := by
  simp only [narrowed, h, hup, if_true]

theorem narrowed_few {p : Nat} {x : Port} (h : (x.healthy p).length < 2) :
    narrowed p x = { portOff x with lanes := [31, 31, 31, 31], spareUsed := false } := by
  unfold narrowed
  split
  · next hhealthy =>
    rw [hhealthy] at h
    simp only [List.length_cons] at h
    omega
  · rfl

section
variable {s : State} {p : Nat} (hp : p < 16) (h16 : s.fab.ports.length = 16)
include hp h16

theorem narrowPort_only : PortOnly p (narrowed p (s.port p)) s (narrowPort s p) := by
  have hafter (u : State) (ls : List Nat) : PortFrame u (bump (measureEyes (mapLanes u p ls 0x4302) p) (portBase p) 5 1) :=
    ((mapLanes_ports u ..).trans (measureEyes_ports ..)).trans (bump_ports ..)
  have hfew : PortOnly p { portOff (s.port p) with lanes := [31, 31, 31, 31], spareUsed := false } s
      (raise (mapLanes (pathChange s (fun s => (s.modPort p portOff).modPort p
        (fun x => { x with lanes := [31, 31, 31, 31], spareUsed := false }))) p [31, 31, 31, 31] 0x4303) 0x4303 (srcPort p) 0 p) := by
    refine (pathChange_only h16 ?_).frame ((mapLanes_ports ..).trans (raise_ports ..))
    have hoff := modPort_only hp h16 portOff
    have hlanes := modPort_only hp (hoff.count.trans h16) fun x => { x with lanes := [31, 31, 31, 31], spareUsed := false }
    rw [hoff.port] at hlanes
    exact hoff.trans hlanes
  rcases hhealthy : (s.port p).healthy p with _ | ⟨a, _ | ⟨b, r⟩⟩
  · simpa only [narrowPort, narrowed, hhealthy] using hfew
  · simpa only [narrowPort, narrowed, hhealthy] using hfew
  · simp only [narrowPort, narrowed, hhealthy]
    exact (pathChange_modPort hp h16 fun x => { x with
      lanes := [a, b, 31, 31], width := if x.up then 2 else 0, sparing := none,
      spareUsed := a == portSpare p || b == portSpare p }).frame ((hafter ..).trans (raise_ports ..))

end

theorem State.spareFree_congr {s u : State} (hrig : u.rig = s.rig) (hport : ∀ q, u.port q = s.port q) (p : Nat) :
    u.spareFree p = s.spareFree p := by
  simp only [State.spareFree, hrig, hport]

/-- A lane in use fails: it is marked, and its port spares it live or is narrowed. -/
def laneLost (s : State) (p lane : Nat) : State :=
  markFailed ((countCorrected s p).modPort p (fun x => { x with failed := x.failed ++ [lane] })) (.lane (p / 8) (dieLane p lane))

section
variable {s : State} {port : BitVec 4} (hpow : s.pins.powered = true)
include hpow

theorem exec_laneFault {lane : BitVec 5} {k : Nat}
    (hlane : (s.port port.toNat).lanes.findIdx? (fun y => y == lane.toNat && y != 31) = some k)
    (hup : (s.port port.toNat).up = true) (hon : (s.port port.toNat).disabled = false) :
    exec (.laneFault port lane) s = .next (
      if ((laneLost s port.toNat lane.toNat).port port.toNat).sparing.isNone && (laneLost s port.toNat lane.toNat).spareFree port.toNat
      then pathChange (laneLost s port.toNat lane.toNat) (fun s => s.modPort port.toNat (fun x => { x with sparing := some k }))
      else narrowPort (laneLost s port.toNat lane.toNat) port.toNat) := by
  show execLaneFault port lane s = _
  rw [execLaneFault, powered_on _ hpow]
  simp only [hlane, hup, hon, Bool.not_true, Bool.or_self, Bool.false_eq_true, if_false]
  rfl

theorem exec_laneSpared {k : Nat} (hsparing : (s.port port.toNat).sparing = some k) (h16 : s.fab.ports.length = 16) :
    ∃ u, exec (.laneSpared port) s = .next u ∧ PortOnly port.toNat
      { s.port port.toNat with
        sparing := none, lanes := setAt (s.port port.toNat).lanes k (fun _ => portSpare port.toNat), spareUsed := true, spareOwned := true } s u := by
  show ∃ u, execLaneSpared port s = _ ∧ _
  rw [execLaneSpared, powered_on _ hpow]
  simp only [hsparing]
  have hafter (u : State) (n : Nat) : PortFrame u (raise (bump (measureEyes u port.toNat) n 4 1) 0x4301 (srcPort port.toNat) 0 port.toNat) :=
    ((measureEyes_ports u _).trans (bump_ports ..)).trans (raise_ports ..)
  have hchange (t : State) (h : PortFrame s t) : PortOnly port.toNat _ s (pathChange t _) :=
    h.thenOnly (pathChange_modPort port.isLt ((congrArg List.length h.ports).trans h16) fun x => { x with
      sparing := none, lanes := setAt x.lanes k (fun _ => portSpare port.toNat), spareUsed := true, spareOwned := true })
  exact ⟨_, rfl, (hchange _ (setLane_ports s ..)).frame (hafter ..)⟩

end

theorem laneLost_only {s : State} {p : Nat} (hp : p < 16) (h16 : s.fab.ports.length = 16) (lane : Nat) :
    PortOnly p { s.port p with failed := (s.port p).failed ++ [lane] } s (laneLost s p lane) := by
  have hcounted := countCorrected_ports s p
  have hchange := modPort_only hp ((congrArg List.length hcounted.ports).trans h16) fun x => { x with failed := x.failed ++ [lane] }
  rw [hcounted.port] at hchange
  exact (hcounted.thenOnly hchange).frame (markFailed_ports ..)

theorem laneLost_rig (s : State) (p lane : Nat) (f : Port → Port) :
    (laneLost s p lane).rig = (markFailed (s.modPort p f) (.lane (p / 8) (dieLane p lane))).rig := by
  have hrig : (countCorrected s p).rig = s.rig := by simp [countCorrected, bumpClocks]
  rw [laneLost]
  show (markFailed { s with rig := (countCorrected s p).rig } _).rig = _
  rw [hrig]
  rfl

/-- Whether the spare lane is free after the loss depends on the rigger table and the ports alone. -/
theorem laneLost_spareFree {s : State} {p : Nat} (hp : p < 16) (h16 : s.fab.ports.length = 16) (lane : Nat) :
    (laneLost s p lane).spareFree p = (markFailed (s.modPort p (fun _ => { s.port p with failed := (s.port p).failed ++ [lane] }))
      (.lane (p / 8) (dieLane p lane))).spareFree p := by
  refine State.spareFree_congr (laneLost_rig ..) (fun q => ?_) p
  have hlost := laneLost_only hp h16 lane
  have hmarked := (modPort_only hp h16 fun _ => { s.port p with failed := (s.port p).failed ++ [lane] }).frame
    (markFailed_ports _ (.lane (p / 8) (dieLane p lane)))
  by_cases hq : q = p
  · rw [hq, hlost.port, hmarked.port]
  · rw [hlost.others.1 q hq, hmarked.others.1 q hq]

end Sys2Proof.Machine
end

section
/-! Training: the rate, the lanes in the order found, and the identifiers (R361, R589). -/

namespace Sys2Proof.Machine

/-- A port may train at a rate: the switch accepts it, within MAX_RATE and the channel (R361). -/
def State.rateOpen (s : State) (p sw ch r : Nat) : Prop :=
  r ≤ max 1 (bitsOf (s.reg (portBase p + 4)) 1 0) ∧ r ≤ ch ∧ bitOf sw (r - 1) = true

/-- The first of 3, 2 and 1 that is open is the highest. -/
theorem find_highest (q : Nat → Bool) :
    (([3, 2, 1].find? q).getD 0 = 0 ∨
      (1 ≤ ([3, 2, 1].find? q).getD 0 ∧ ([3, 2, 1].find? q).getD 0 ≤ 3 ∧ q (([3, 2, 1].find? q).getD 0) = true)) ∧
      ∀ k, ([3, 2, 1].find? q).getD 0 < k → k ≤ 3 → q k = false := by
  cases h3 : q 3 with
  | true =>
    rw [List.find?_cons_of_pos h3]
    exact ⟨.inr ⟨by decide, by decide, h3⟩, fun k hk hk3 => absurd hk (Nat.not_lt.2 hk3)⟩
  | false =>
    rw [List.find?_cons_of_neg (ne_true_of_eq_false h3)]
    cases h2 : q 2 with
    | true =>
      rw [List.find?_cons_of_pos h2]
      refine ⟨.inr ⟨by decide, by decide, h2⟩, fun k hk hk3 => ?_⟩
      obtain rfl : k = 3 := by simp only [Option.getD_some] at hk; omega
      exact h3
    | false =>
      rw [List.find?_cons_of_neg (ne_true_of_eq_false h2)]
      cases h1 : q 1 with
      | true =>
        rw [List.find?_cons_of_pos h1]
        refine ⟨.inr ⟨by decide, by decide, h1⟩, fun k hk hk3 => ?_⟩
        obtain rfl | rfl : k = 2 ∨ k = 3 := by simp only [Option.getD_some] at hk; omega
        · exact h2
        · exact h3
      | false =>
        rw [List.find?_cons_of_neg (ne_true_of_eq_false h1)]
        refine ⟨.inl rfl, fun k hk hk3 => ?_⟩
        obtain rfl | rfl | rfl : k = 1 ∨ k = 2 ∨ k = 3 := by simp only [List.find?_nil, Option.getD_none] at hk; omega
        · exact h1
        · exact h2
        · exact h3

/-- The rate at which a port trains is the highest that it may, or 0. -/
theorem trainRate_highest (s : State) (p sw ch : Nat) :
    (trainRate s p sw ch = 0 ∨ (1 ≤ trainRate s p sw ch ∧ trainRate s p sw ch ≤ 3 ∧ s.rateOpen p sw ch (trainRate s p sw ch))) ∧
      ∀ k, trainRate s p sw ch < k → k ≤ 3 → ¬s.rateOpen p sw ch k := by
  have hopen (r : Nat) : (decide (r ≤ max 1 (bitsOf (s.reg (portBase p + 4)) 1 0)) && bitOf sw (r - 1) && decide (r ≤ ch)) = true ↔
      s.rateOpen p sw ch r := by
    simp only [State.rateOpen, Bool.and_eq_true, decide_eq_true_eq]
    exact ⟨fun ⟨⟨h1, h2⟩, h3⟩ => ⟨h1, h3, h2⟩, fun ⟨h1, h3, h2⟩ => ⟨⟨h1, h2⟩, h3⟩⟩
  obtain ⟨hfound, habove⟩ := find_highest fun r =>
    decide (r ≤ max 1 (bitsOf (s.reg (portBase p + 4)) 1 0)) && bitOf sw (r - 1) && decide (r ≤ ch)
  exact ⟨hfound.imp_right fun ⟨h1, h3, hr⟩ => ⟨h1, h3, (hopen _).1 hr⟩,
    fun k hk hk3 hr => Bool.false_ne_true ((habove k hk hk3).symm.trans ((hopen k).2 hr))⟩

/-- No other number is the highest rate that a port may train at. -/
theorem trainRate_iff (s : State) (p sw ch r : Nat) : r = trainRate s p sw ch ↔
    (r = 0 ∨ (1 ≤ r ∧ r ≤ 3 ∧ s.rateOpen p sw ch r)) ∧ ∀ k, r < k → k ≤ 3 → ¬s.rateOpen p sw ch k := by
  have hhighest := trainRate_highest s p sw ch
  generalize trainRate s p sw ch = m at hhighest
  obtain ⟨hm, hmabove⟩ := hhighest
  refine ⟨fun h => h ▸ ⟨hm, hmabove⟩, fun ⟨hr, hrabove⟩ => ?_⟩
  rcases lt_trichotomy r m with hlt | heq | hgt
  · rcases hm with h0 | ⟨-, hm3, hmopen⟩
    · omega
    · exact absurd hmopen (hrabove m hlt hm3)
  · exact heq
  · rcases hr with h0 | ⟨-, hr3, hropen⟩
    · omega
    · exact absurd hropen (hmabove r hgt hr3)

theorem disablePort_only {s : State} {p : Nat} (hp : p < 16) (h16 : s.fab.ports.length = 16) :
    PortOnly p (portOff (s.port p)) s (disablePort s p) :=
  (pathChange_modPort hp h16 portOff).frame (raise_ports ..)

/-- The lanes of a port in the order in which training finds them, the lanes that carry it before the places that none does. -/
def trainedLanes (rev : Bool) (lanes : List Nat) : List Nat :=
  let carried := lanes.filter (fun l => l != 31)
  (if rev then carried.reverse else carried) ++ List.replicate (4 - carried.length) 31

/-- A port comes up at a rate, at the width of the lanes that carry it (R361, R364). -/
def broughtUp (rate carried : Nat) (x : Port) : Port := { x with up := true, rate := rate, width := min 4 carried / 2 * 2 }

/-- A port that has trained at a rate. -/
def Port.trained (x : Port) (rev : Bool) (rate : Nat) : Port :=
  broughtUp rate (x.lanes.filter (fun l => l != 31)).length { x with lanes := trainedLanes rev x.lanes }

/-- FAB_ID once a port is up: the first port brings it (R589). -/
def identified (s : State) (id fm : Nat) : State := if s.fab.ports.any Port.up then s else s.setReg (fabBase 0) (id + fm * 0x10000)

/-- The state in which a port that trains joins the usable sets. -/
def lanesFound (s : State) (p : Nat) (lanes : List Nat) : State := measureEyes (s.modPort p (fun x => { x with lanes := lanes })) p

/-- The package once a port has trained. -/
def trainedPort (s : State) (p id fm rate : Nat) (rev : Bool) : State :=
  pathChange (lanesFound (identified s id fm) p (trainedLanes rev (s.port p).lanes))
    (fun t => t.modPort p (broughtUp rate ((s.port p).lanes.filter (fun l => l != 31)).length))

section
variable {s : State} {port : BitVec 4} (hpow : s.pins.powered = true)
include hpow

theorem exec_portTraining_idle (sw : BitVec 3) (ch : BitVec 2) (id fm : U16) (rev : Bool)
    (h : (s.port port.toNat).up = true ∨ (s.port port.toNat).disabled = true) : exec (.portTraining port sw ch id fm rev) s = .next s := by
  show execPortTraining port sw ch id fm rev s = _
  rw [execPortTraining, powered_on _ hpow]
  exact congrArg _ (if_pos (by rcases h with h | h <;> simp [h]))

variable (hdown : (s.port port.toNat).up = false) (hon : (s.port port.toNat).disabled = false) (hrom : s.sec.romRecovery = false)
include hdown hon hrom

theorem exec_portTraining_disabled {sw : BitVec 3} {ch : BitVec 2} {id fm : U16} (rev : Bool)
    (h : (s.portServes port.toNat = false ∨ trainRate s port.toNat sw.toNat ch.toNat = 0) ∨
      (s.fab.ports.any Port.up = true ∧ ¬(s.fabId = id.toNat ∧ s.fmId = fm.toNat))) :
    exec (.portTraining port sw ch id fm rev) s = .next (disablePort s port.toNat) := by
  show execPortTraining port sw ch id fm rev s = _
  rw [execPortTraining, powered_on _ hpow]
  simp only [hrom, hdown, hon, Bool.or_self, Bool.false_eq_true, if_false]
  refine congrArg _ ?_
  by_cases hserve : s.portServes port.toNat = false ∨ trainRate s port.toNat sw.toNat ch.toNat = 0
  · exact if_pos (by rcases hserve with h | h <;> simp [h])
  · obtain ⟨hothers, hids⟩ := h.resolve_left hserve
    refine ite_eq_left_iff.2 fun _ => if_pos ?_
    simpa only [hothers, Bool.true_and, Bool.not_eq_true', Bool.and_eq_false_iff, beq_eq_false_iff_ne, not_and_or] using hids

theorem exec_portTraining_up {sw : BitVec 3} {ch : BitVec 2} {id fm : U16} (rev : Bool) (hserves : s.portServes port.toNat = true)
    (hrate : 0 < trainRate s port.toNat sw.toNat ch.toNat)
    (hids : s.fab.ports.any Port.up = true → s.fabId = id.toNat ∧ s.fmId = fm.toNat) :
    exec (.portTraining port sw ch id fm rev) s =
      .next (trainedPort s port.toNat id.toNat fm.toNat (trainRate s port.toNat sw.toNat ch.toNat) rev) := by
  show execPortTraining port sw ch id fm rev s = _
  rw [execPortTraining, powered_on _ hpow]
  simp only [hrom, hdown, hon, Bool.or_self, Bool.false_eq_true, if_false, hserves, hrate.ne', Bool.not_true, decide_false]
  refine congrArg _ ((if_neg ?_).trans ?_)
  · intro hbad
    simp only [Bool.and_eq_true, Bool.not_eq_true', Bool.and_eq_false_iff, beq_eq_false_iff_ne] at hbad
    obtain ⟨hothers, hne⟩ := hbad
    obtain ⟨hid, hfm⟩ := hids hothers
    exact hne.elim (fun h => h hid) fun h => h hfm
  · rfl

end

theorem identified_ports (s : State) (id fm : Nat) : PortFrame s (identified s id fm) := by
  unfold identified
  split
  · exact PortFrame.refl s
  · exact setReg_ports ..

theorem identified_fabIds {s : State} {id fm : U16} (hids : s.fab.ports.any Port.up = true → s.fabId = id.toNat ∧ s.fmId = fm.toNat) :
    (identified s id.toNat fm.toNat).reg (fabBase 0) = id.toNat + fm.toNat * 0x10000 := by
  have hid := id.isLt
  have hfm := fm.isLt
  unfold identified
  split
  · next hothers =>
    obtain ⟨hlow, hhigh⟩ := hids hothers
    have hword : s.reg (fabBase 0) < 2 ^ 32 := by
      unfold State.reg RegFile.get
      split
      · exact BitVec.isLt _
      · decide
    simp only [State.fabId, State.fmId, bitsOf, Nat.shiftRight_eq_div_pow] at hlow hhigh
    omega
  · rw [State.reg_setReg_self]
    omega

section
variable {s : State} {p : Nat} (hp : p < 16) (h16 : s.fab.ports.length = 16)
include hp h16

theorem lanesFound_only (id fm : Nat) (lanes : List Nat) :
    PortOnly p { s.port p with lanes := lanes } s (lanesFound (identified s id fm) p lanes) := by
  have hids := identified_ports s id fm
  have hlanes := modPort_only hp ((congrArg List.length hids.ports).trans h16) fun x => { x with lanes := lanes }
  rw [hids.port] at hlanes
  exact (hids.thenOnly hlanes).frame (measureEyes_ports _ p)

/-- The port is up at its rate, on its lanes in the order found. -/
theorem trainedPort_only (id fm rate : Nat) (rev : Bool) :
    PortOnly p ((s.port p).trained rev rate) s (trainedPort s p id fm rate rev) := by
  have hlanes := lanesFound_only hp h16 id fm (trainedLanes rev (s.port p).lanes)
  have hup := pathChange_modPort hp (hlanes.count.trans h16) (broughtUp rate ((s.port p).lanes.filter (fun l => l != 31)).length)
  rw [hlanes.port] at hup
  exact hlanes.trans hup

theorem trainedPort_fabIds (id fm rate : Nat) (rev : Bool) :
    (trainedPort s p id fm rate rev).reg (fabBase 0) = (identified s id fm).reg (fabBase 0) := by
  have hlanes := lanesFound_only hp h16 id fm (trainedLanes rev (s.port p).lanes)
  have hchange := modPort_only hp (hlanes.count.trans h16) (broughtUp rate ((s.port p).lanes.filter (fun l => l != 31)).length)
  rw [trainedPort, (pathChange_send _ _ (hchange.count.trans (hlanes.count.trans h16))).regs _ (by decide)]
  refine State.reg_setReg_ne _ _ ?_
  unfold portBase fabBase
  omega

end

/-- Every lane of a port that carries it keeps it at full width. -/
theorem trained_full {x : Port} (rev : Bool) (rate : Nat) (hlen : x.lanes.length = 4) (hall : x.lanes.all (fun l => l != 31) = true) :
    (x.trained rev rate).width = 4 ∧ (x.trained rev rate).lanes = if rev then x.lanes.reverse else x.lanes := by
  have hcarried : x.lanes.filter (fun l => l != 31) = x.lanes := List.filter_eq_self.2 (List.all_eq_true.1 hall)
  simp [Port.trained, broughtUp, trainedLanes, hcarried, hlen]

end Sys2Proof.Machine
end

section
/-! Replays and path notices (R362, R366): the registers that events and a catch leave alone, and a port's counters. -/

namespace Sys2Proof.Machine

/-! ## What events leave of the registers -/

/-- A register that neither events nor a catch change: no snapshot, and outside the host interface and the SNAP block. -/
def EventKept (o : Nat) : Prop := isSnapshot o = false ∧ (o < hifBase ∨ hifBase + 0x200 ≤ o) ∧ (o < snapBase ∨ snapBase + 0x200 ≤ o)

theorem bumpRaw_reg_ne (s : State) {g n o : Nat} (k : Nat) (hsat : o ≠ g + 0xF0) (hlow : o ≠ g + 0x100 + 8 * n)
    (hhigh : o ≠ g + 0x100 + 8 * n + 4) : (bumpRaw s g n k).1.reg o = s.reg o := by
  unfold bumpRaw
  split
  · rfl
  · simp only
    split
    · exact State.reg_setReg64_ne _ _ hlow hhigh
    · exact (State.reg_setRegBit_ne _ _ _ hsat).trans (State.reg_setReg64_ne _ _ hlow hhigh)

theorem bumpWith_reg_ne {r : Nat → Nat → Nat → Nat → State → State} {o : Nat}
    (hr : ∀ a b c d s, (r a b c d s).reg o = s.reg o) (s : State) {g n : Nat} (k : Nat) (hsat : o ≠ g + 0xF0)
    (hlow : o ≠ g + 0x100 + 8 * n) (hhigh : o ≠ g + 0x100 + 8 * n + 4) : (bumpWith r s g n k).reg o = s.reg o := by
  have hraw := bumpRaw_reg_ne s k hsat hlow hhigh
  unfold bumpWith
  split
  · next h => rw [h] at hraw; rw [hr, hraw]
  · next h => rw [h] at hraw; exact hraw

theorem recordCatch_reg_kept {o : Nat} (h : EventKept o) (s : State) (src : Nat) : (recordCatch s src).reg o = s.reg o := by
  obtain ⟨hsnap, -, hblock⟩ := h
  have hne (r : Nat) (hr : r < 0x200) : o ≠ snapBase + r := by omega
  simp only [recordCatch]
  rw [State.reg_setReg64_ne _ _ (hne 0x30 (by decide)) (hne 0x34 (by decide)),
    State.reg_setReg64_ne _ _ (hne 0x28 (by decide)) (hne 0x2C (by decide)), State.reg_setReg_ne _ _ (hne 4 (by decide))]
  exact latchCounters_get s.regs hsnap

theorem raiseN_reg_kept {o : Nat} (h : EventKept o) (d : Nat) : ∀ code src addr data s, (raiseN d code src addr data s).reg o = s.reg o := by
  induction d with
  | zero => exact fun _ _ _ _ _ => rfl
  | succ d ih =>
    intro code src addr data s
    obtain ⟨-, hhif, hblock⟩ := id h
    have hnehif (r : Nat) (hr : r < 0x200) : o ≠ hifBase + r := by omega
    have hnesnap (r : Nat) (hr : r < 0x200) : o ≠ snapBase + r := by omega
    have hcount3 (u : State) : (bumpWith (raiseN d) u hifBase 3 1).reg o = u.reg o :=
      bumpWith_reg_ne ih u 1 (hnehif 0xF0 (by decide)) (hnehif 0x118 (by decide)) (hnehif 0x11C (by decide))
    have hcount4 (u : State) : (bumpWith (raiseN d) u hifBase 4 1).reg o = u.reg o :=
      bumpWith_reg_ne ih u 1 (hnehif 0xF0 (by decide)) (hnehif 0x120 (by decide)) (hnehif 0x124 (by decide))
    have hcatch0 (u : State) : (bumpWith (raiseN d) u snapBase 0 1).reg o = u.reg o :=
      bumpWith_reg_ne ih u 1 (hnesnap 0xF0 (by decide)) (hnesnap 0x100 (by decide)) (hnesnap 0x104 (by decide))
    have hcatch1 (u : State) : (bumpWith (raiseN d) u snapBase 1 1).reg o = u.reg o :=
      bumpWith_reg_ne ih u 1 (hnesnap 0xF0 (by decide)) (hnesnap 0x108 (by decide)) (hnesnap 0x10C (by decide))
    have hput (u : State) (c r a v : Nat) : (putEvent u c r a v).reg o = u.reg o := rfl
    have hhost (u : State) (x : Hif) : State.reg { u with hif := x } o = u.reg o := rfl
    have hfamily : (countFamily s code).reg o = s.reg o := rfl
    have hite (p : Prop) [Decidable p] (u v : State) : (if p then u else v).reg o = if p then u.reg o else v.reg o := apply_ite (State.reg · o) p u v
    simp only [raiseN, hite, ih, hcount3, hcount4, hcatch0, hcatch1, hput, hhost, hfamily, recordCatch_reg_kept h, ite_self]

theorem bump_reg_kept {s : State} {g n k o : Nat} (h : EventKept o) (hsat : o ≠ g + 0xF0) (hlow : o ≠ g + 0x100 + 8 * n)
    (hhigh : o ≠ g + 0x100 + 8 * n + 4) : (bump s g n k).reg o = s.reg o :=
  bumpWith_reg_ne (raiseN_reg_kept h 6) s k hsat hlow hhigh

theorem portCounters_kept : ∀ p < 16, ∀ r ∈ [0xF0, 0x118, 0x11C], EventKept (portBase p + r) := by
  unfold EventKept
  decide

theorem bitOf_eq_testBit (v i : Nat) : bitOf v i = v.testBit i := by
  rw [bitOf, Nat.testBit_eq_decide_div_mod_eq, Nat.shiftRight_eq_div_pow]

/-- A bit of a register is as it was where another bit is stored. -/
theorem regBit_setRegBit_ne (s : State) (o : Nat) {i k : Nat} (b : Bool) (hne : k ≠ i) (hk : k < 32) :
    (s.setRegBit o i b).regBit o k = s.regBit o k := by
  simp only [State.regBit, State.setRegBit, State.setRegBits, State.reg_setReg_self, bitOf_eq_testBit, Nat.testBit_mod_two_pow, hk,
    decide_true, Bool.true_and]
  exact (testBit_setBits (s.reg o) _ (w := 1) Nat.one_pos k).trans (if_neg (by omega))

/-- A counter's own count leaves the saturation bits of the others alone (R598). -/
theorem bumpRaw_regBit_ne (s : State) {g n m : Nat} (k : Nat) (hne : m ≠ n) (hm : m < 32) :
    (bumpRaw s g n k).1.regBit (g + 0xF0) m = s.regBit (g + 0xF0) m := by
  have hcount (v : Nat) : (s.setReg64 (g + 0x100 + 8 * n) v).regBit (g + 0xF0) m = s.regBit (g + 0xF0) m :=
    congrArg (bitOf · m) (State.reg_setReg64_ne _ _ (by omega) (by omega))
  unfold bumpRaw
  split
  · rfl
  · simp only
    split
    · exact hcount _
    · exact (regBit_setRegBit_ne _ _ _ hne hm).trans (hcount _)

theorem bump_regBit_ne {s : State} {g n m : Nat} (k : Nat) (h : EventKept (g + 0xF0)) (hne : m ≠ n) (hm : m < 32) :
    (bump s g n k).regBit (g + 0xF0) m = s.regBit (g + 0xF0) m := by
  have hraw := bumpRaw_regBit_ne s (g := g) k hne hm
  unfold bump bumpWith
  split
  · next t ht => rw [ht] at hraw; exact (congrArg (bitOf · m) (raiseN_reg_kept h 6 _ _ _ _ t)).trans hraw
  · next t ht => rw [ht] at hraw; exact hraw

/-! ## The commands -/

theorem portReplay_counters : ∀ p < 16, ∀ n ∈ [2, 3], IsCounter (portBase p) n := by decide

/-- A replay counts on its own counter, and what the code has corrected on another (R362). -/
theorem fecReplay_counts {s : State} {p : Nat} (hp : p < 16) (hsat : s.regBit (portBase p + 0xF0) 3 = false)
    (hroom : s.reg64 (portBase p + 0x118) + 1 < 2 ^ 64) :
    (bump (countCorrected s p) (portBase p) 3 1).reg64 (portBase p + 0x118) = s.reg64 (portBase p + 0x118) + 1 := by
  have hkept := portCounters_kept p hp
  have hbit : (countCorrected s p).regBit (portBase p + 0xF0) 3 = false :=
    (bump_regBit_ne _ (hkept _ (by decide)) (by decide) (by decide)).trans hsat
  have hlow : (countCorrected s p).reg (portBase p + 0x118) = s.reg (portBase p + 0x118) :=
    bump_reg_kept (hkept _ (by decide)) (by omega) (by omega) (by omega)
  have hhigh : (countCorrected s p).reg (portBase p + 0x11C) = s.reg (portBase p + 0x11C) :=
    bump_reg_kept (hkept _ (by decide)) (by omega) (by omega) (by omega)
  have hcount : (countCorrected s p).reg64 (portBase p + 0x118) = s.reg64 (portBase p + 0x118) := by
    simp only [State.reg] at hlow hhigh
    simp only [State.reg64, RegFile.get64, hlow, Nat.add_assoc, hhigh]
  rw [← hcount] at hroom ⊢
  exact bump_counts (n := 3) hbit hroom

section
variable {s : State} {port : BitVec 4} (hpow : s.pins.powered = true)
include hpow

theorem exec_fecReplay : exec (.fecReplay port) s = .next (bump (countCorrected s port.toNat) (portBase port.toNat) 3 1) := by
  show execFecReplay port s = _
  rw [execFecReplay, powered_on _ hpow]

theorem exec_pathDown (dst : U16) : exec (.pathDown port dst) s = .next (if (s.port port.toNat).pathDown.contains dst then s
    else pathChange s (fun s => s.modPort port.toNat (fun x => { x with pathDown := x.pathDown ++ [dst] }))) := by
  show execPathDown port dst s = _
  rw [execPathDown, powered_on _ hpow]

theorem exec_pathUp (dst : U16) : exec (.pathUp port dst) s = .next (if (s.port port.toNat).pathDown.contains dst then
    pathChange s (fun s => s.modPort port.toNat (fun x => { x with pathDown := x.pathDown.filter (fun d => d != dst) })) else s) := by
  show execPathUp port dst s = _
  rw [execPathUp, powered_on _ hpow]

end

theorem fecReplay_frame {s : State} {p : Nat} (hp : p < 16) : FreeFrame s (bump (countCorrected s p) (portBase p) 3 1) :=
  (bumpClocks_freeFrame s (portReplay_counters p hp 2 (by decide))).trans (bump_frame _ _ (portReplay_counters p hp 3 (by decide))).freeFrame

end Sys2Proof.Machine

open Sys2Proof Sys2Proof.Machine

/-- Settles O53: each command changes its own port, as the port's state and the spare lane, the switch or the notice decide, and a
path change otherwise only sends. -/
theorem lanesAndPathsChange : Obligations.LanesAndPathsChange := by
  unfold Obligations.LanesAndPathsChange
  intro s port p x hpow h16 others
  have hp : p < 16 := port.isLt
  refine ⟨fun lane k hlane hup hon => ?_, fun k hsparing => ?_, fun sw ch id fm rev => ?_, ?_, fun dst => ?_⟩
  · intro y v spares
    have hlost := laneLost_only hp h16 lane.toNat
    have h16' := hlost.count.trans h16
    have hspares : ((laneLost s p lane.toNat).port p).sparing.isNone && (laneLost s p lane.toNat).spareFree p ↔ spares := by
      rw [hlost.port, laneLost_spareFree hp h16, Bool.and_eq_true, Option.isNone_iff_eq_none]
    rw [exec_laneFault hpow hlane hup hon]
    by_cases h : spares
    · have honly := hlost.trans (pathChange_modPort hp h16' fun z => { z with sparing := some k })
      rw [hlost.port] at honly
      exact ⟨_, congrArg _ (if_pos (hspares.2 h)), honly.others, fun _ => honly.port, fun hno => absurd h hno, fun hno => absurd h hno⟩
    · have honly := hlost.trans (narrowPort_only hp h16')
      rw [hlost.port] at honly
      refine ⟨_, congrArg _ (if_neg (mt hspares.1 h)), honly.others, fun hyes => absurd hyes h, fun _ a b r hhealthy => ?_, fun _ hfew => ?_⟩
      · rw [honly.port]
        exact narrowed_two hhealthy hup
      · rw [honly.port]
        exact narrowed_few hfew
  · obtain ⟨u, hexec, honly⟩ := exec_laneSpared hpow hsparing h16
    exact ⟨u, hexec, honly.others, honly.port⟩
  · intro rate
    refine ⟨fun r => ?_, exec_portTraining_idle hpow sw ch id fm rev, fun hdown hon hrom => ⟨fun h => ?_, fun hserves hrate hothers hids => ?_,
      fun hserves hrate hids => ?_⟩⟩
    · refine (trainRate_iff s p sw.toNat ch.toNat r).trans (and_congr_right fun _ => forall_congr' fun k => ?_)
      simp only [State.rateOpen, not_and, Bool.not_eq_true]
    · have honly := disablePort_only hp h16
      exact ⟨_, exec_portTraining_disabled hpow hdown hon hrom rev (.inl h), honly.others, honly.port⟩
    · have honly := disablePort_only hp h16
      exact ⟨_, exec_portTraining_disabled hpow hdown hon hrom rev (.inr ⟨hothers, hids⟩), honly.others, honly.port⟩
    · have honly := trainedPort_only hp h16 id.toNat fm.toNat rate rev
      refine ⟨_, exec_portTraining_up hpow hdown hon hrom rev hserves hrate hids, honly.others, ?_, ?_, ?_, fun hlen hall => ?_⟩
      · exact (trainedPort_fabIds hp h16 _ _ _ rev).trans (identified_fabIds hids)
      · rw [honly.port]
        rfl
      · rw [honly.port]
        rfl
      · rw [honly.port]
        exact trained_full rev rate hlen hall
  · exact ⟨⟨_, exec_fecReplay hpow, fecReplay_frame hp⟩, fun hsat hroom => ⟨_, exec_fecReplay hpow, fecReplay_counts hp hsat hroom⟩⟩
  · rw [exec_pathDown hpow, exec_pathUp hpow]
    have hdown := pathChange_modPort hp h16 fun y => { y with pathDown := y.pathDown ++ [dst] }
    have hup := pathChange_modPort hp h16 fun y => { y with pathDown := y.pathDown.filter (fun d => d != dst) }
    exact ⟨fun h => congrArg _ (if_pos h), fun h => ⟨congrArg _ (if_neg (by simpa using h)),
      _, congrArg _ (if_neg (by simpa using h)), hdown.others, hdown.port⟩, fun h => ⟨_, congrArg _ (if_pos h), hup.others, hup.port⟩⟩
end

section
/-! Answers of Azmarlink at the sender: what a response of the current epoch finds, how its request leaves its space, and what goes on
with it (R374, R377, R378, R391, R395, R397). -/

namespace Sys2Proof.Machine

/-! ## What a header is checked against -/

theorem fabId_congr {s u : State} (h : u.reg (fabBase 0) = s.reg (fabBase 0)) : u.fabId = s.fabId := congrArg (bitsOf · 15 0) h

theorem EventFrame.fabId {s u : State} (h : EventFrame s u) : u.fabId = s.fabId := fabId_congr (h.regs _ (by decide))

theorem jobCheck_congr {s u : State} (h : u.job = s.job) (p : PktHdr) : jobCheck u p = jobCheck s p := by rw [jobCheck, h]; rfl

theorem txSpace_congr {s u : State} (h : u.fab.tx = s.fab.tx) (dst : U16) (fd : Nat) : u.txSpace dst fd = s.txSpace dst fd := by
  rw [State.txSpace, h]; rfl

theorem answered_congr {s u : State} (h : u.fab.tx = s.fab.tx) (p : Nat) (k : PktHdr) (types : List PktType) :
    u.answered p k types = s.answered p k types := by
  simp only [State.answered, txSpace_congr h]

theorem EventFrame.withFab {s u : State} (h : EventFrame s u) (f : Fabric) : EventFrame { s with fab := f } { u with fab := f } := by
  refine ⟨?_, h.regs, h.host⟩
  obtain ⟨_, _, _, _, _, _, _, _, hu⟩ := h.same
  exact ⟨_, _, _, _, _, _, _, _, by rw [hu]⟩

theorem RingFrame.withFab {s u : State} (h : RingFrame s u) (f : Fabric) : RingFrame { s with fab := f } { u with fab := f } := by
  refine ⟨?_, h.regs, h.host⟩
  obtain ⟨_, _, _, hu⟩ := h.same
  exact ⟨_, _, _, by rw [hu]⟩

/-! ## A response arrives -/

/-- A destination from which a packet has come is no longer unresponsive (R395). -/
def heardFrom (s : State) (src : U16) : State :=
  { s with fab := { s.fab with unresponsive := s.fab.unresponsive.filter (fun d => d != src) } }

/-- A packet of a length in bytes is counted at its port, and its sender has been heard. -/
def heardAt (s : State) (p n : Nat) (src : U16) : State := heardFrom (bump s (portBase p) 1 (40 + n)) src

theorem received_counter : ∀ p < 16, IsCounter (portBase p) 1 := by decide

theorem answer_counters : ∀ m < 2, ∀ n ∈ [10, 16], IsCounter (fabBase m) n := by decide

theorem heardFrom_contains (s : State) (src : U16) : (heardFrom s src).fab.unresponsive.contains src = false := by
  simp [heardFrom]

theorem heardAt_frame (s : State) {p : Nat} (n : Nat) (src : U16) (hp : p < 16) : EventFrame (heardFrom s src) (heardAt s p n src) := by
  have hframe : EventFrame s (bump s (portBase p) 1 (40 + n)) := bump_frame _ _ (received_counter p hp)
  have hfab : (bump s (portBase p) 1 (40 + n)).fab = s.fab := bump_fab ..
  simp only [heardAt, heardFrom, hfab]
  exact hframe.withFab _

theorem heardAt_fab (s : State) (p n : Nat) (src : U16) : (heardAt s p n src).fab = (heardFrom s src).fab := by
  simp only [heardAt, heardFrom, bump_fab]

section
variable {s : State} {p : Nat} {h : PktHdr} (hp : p < 16)
include hp

/-- A response to this package, of its job and epoch, is heard. -/
theorem onResponse_heard (n : Nat) (f : State → State) (hdst : h.dstId.toNat = s.fabId) (hcrc : h.crcOk = true) (hjob : jobCheck s h = 0) :
    onResponse s p h n f = f (heardAt s p n h.srcId) := by
  have hframe : EventFrame s (bump s (portBase p) 1 (40 + n)) := bump_frame _ _ (received_counter p hp)
  simp only [onResponse, hframe.fabId, jobCheck_congr hframe.ring.job, hdst, hcrc, hjob, bne_self_eq_false, Bool.not_true, Bool.or_self,
    Bool.false_eq_true, if_false]
  rfl

/-- A response of another job or epoch is counted and discarded (R397). -/
theorem onResponse_discards (n : Nat) (f : State → State) (hjob : jobCheck s h = 0x8310 ∨ jobCheck s h = 0x8311) :
    EventFrame s (onResponse s p h n f) := by
  have hframe : EventFrame s (bump s (portBase p) 1 (40 + n)) := bump_frame _ _ (received_counter p hp)
  have hold : jobCheck (bump s (portBase p) 1 (40 + n)) h = 0x8311 ∨ jobCheck (bump s (portBase p) 1 (40 + n)) h = 0x8310 := by
    rw [jobCheck_congr hframe.ring.job]
    exact hjob.symm
  simp only [onResponse]
  split
  · exact hframe
  · rw [if_pos (by simpa using hold)]
    exact hframe.trans (bump_frame _ _ (answer_counters _ (by omega) 16 (by decide)))

end

/-! ## The request that is answered -/

theorem txSpace_setTx_self (s : State) (x : TxSpace) : (setTx s x).txSpace x.dst x.fd = x := by
  have hgone : (s.fab.tx.filter (fun y => !(y.dst == x.dst && y.fd == x.fd))).find? (fun y => y.dst == x.dst && y.fd == x.fd) = none := by
    rw [List.find?_eq_none]
    intro y hy
    rw [Bool.not_eq_true, ← Bool.not_eq_true']
    exact (List.mem_filter.1 hy).2
  rw [State.txSpace, setTx, List.find?_append, hgone, Option.none_or, List.find?_cons_of_pos (by simp)]
  rfl

/-- An answered request is outstanding in a space toward the answer's sender, and of a kind that is answered so. -/
theorem answered_typ {s : State} {p : Nat} {h : PktHdr} {types : List PktType} {x : TxSpace} {r : TxReq}
    (ha : s.answered p h types = some (x, r)) : types.contains r.typ = true := by
  obtain ⟨a, hmem, ha⟩ : ∃ a ∈ _, a = some (x, r) := by
    simp only [State.answered] at ha
    rcases hfound : List.find? Option.isSome _ with _ | a
    · rw [hfound] at ha
      exact absurd ha (Option.some_ne_none _).symm
    · rw [hfound] at ha
      exact ⟨a, List.mem_of_find?_eq_some hfound, ha⟩
  obtain ⟨fd, -, hfd⟩ := List.mem_map.1 hmem
  obtain ⟨e, he, hpair⟩ := Option.map_eq_some_iff.1 (hfd.trans ha)
  have hfits := List.find?_some he
  obtain rfl : e = r := congrArg Prod.snd hpair
  exact (Bool.and_eq_true_iff.1 hfits).2

/-- The state in which a request that has been answered has left its space. -/
def retiredAt (s : State) (p n : Nat) (h : PktHdr) (x : TxSpace) (r : TxReq) : State := retireReq (heardAt s p n h.srcId) x r

/-- What an answered request leaves behind: its space is without it, its destination has been heard, and the rest of the package, but for
the fabric and counting, is as it was. -/
structure Retired (s : State) (h : PktHdr) (x : TxSpace) (r : TxReq) (v : State) : Prop where
  frame : RingFrame { s with fab := v.fab } v
  out   : (v.txSpace x.dst x.fd).out = x.out.filter (fun e => e.hdr.seq != r.hdr.seq)
  heard : v.fab.unresponsive.contains h.srcId = false

theorem retiredAt_retired (s : State) {p : Nat} (n : Nat) (h : PktHdr) (x : TxSpace) (r : TxReq) (hp : p < 16) :
    Retired s h x r (retiredAt s p n h x r) := by
  refine ⟨?_, congrArg TxSpace.out (txSpace_setTx_self _ { x with out := x.out.filter (fun e => e.hdr.seq != r.hdr.seq) }), ?_⟩
  · exact (heardAt_frame s n h.srcId hp).ring.withFab _
  · show (heardAt s p n h.srcId).fab.unresponsive.contains h.srcId = false
    rw [heardAt_fab]
    exact heardFrom_contains s h.srcId

theorem Retired.core {s v : State} {h : PktHdr} {x : TxSpace} {r : TxReq} (hv : Retired s h x r v) (c : Nat) : v.core c = s.core c :=
  congrArg (fun l => kvGetD l c Core.reset) hv.frame.cores

theorem heardAt_answered (s : State) (p n : Nat) (src : U16) (h : PktHdr) (k : List PktType) :
    (heardAt s p n src).answered p h k = s.answered p h k := by
  refine answered_congr ?_ p h k
  rw [heardAt_fab]
  rfl

section
variable {s : State} {p : Nat} {h : PktHdr} {types : List PktType} {n st : Nat} {data : List Byte} {poison : List Bool} (hp : p < 16)
  (hdst : h.dstId.toNat = s.fabId) (hcrc : h.crcOk = true) (hjob : jobCheck s h = 0)
include hp hdst hcrc hjob

theorem response_answers {x : TxSpace} {r : TxReq} (ha : s.answered p h types = some (x, r)) :
    response s p h n types st data poison = tryArrive (deliverAnswer (retiredAt s p n h x r) r st data poison) := by
  rw [response, onResponse_heard hp _ _ hdst hcrc hjob]
  simp only [heardAt_answered, ha]
  rfl

/-- A response that answers nothing outstanding is heard, and no more (log 27). -/
theorem response_unanswered (ha : s.answered p h types = none) : EventFrame (heardFrom s h.srcId) (response s p h n types st data poison) := by
  rw [response, onResponse_heard hp _ _ hdst hcrc hjob]
  simp only [heardAt_answered, ha]
  exact heardAt_frame s n h.srcId hp

end

/-! ## What goes on with an answer -/

theorem tryArrive_fab (s : State) : (tryArrive s).fab = s.fab := by
  obtain ⟨_, _, _, h⟩ := (tryArrive_frame s).1
  rw [h]

theorem tryArrive_core (s : State) (c : Nat) : (tryArrive s).core c = s.core c := (tryArrive_ends s).core c

theorem deliverAnswer_host {v : State} {r : TxReq} {c : CmdCtx} (ho : r.origin = .host c) (ht : r.typ ≠ .bulk) (st : Nat)
    (data : List Byte) (poison : List Bool) : deliverAnswer v r st data poison = finish v c st 0 := by
  simp only [deliverAnswer, ho, if_neg ht]

theorem deliverAnswer_none {v : State} {r : TxReq} (ho : r.origin = .none) (st : Nat) (data : List Byte) (poison : List Bool) :
    deliverAnswer v r st data poison = v := by
  simp only [deliverAnswer, ho]

theorem deliverAnswer_read {v : State} {r : TxReq} {t : TileId} {id k : Nat} (ho : r.origin = .tileDma t id k) (ht : r.typ = .read)
    (data : List Byte) (poison : List Bool) : deliverAnswer v r 0 data poison = landPacket v t id k data poison := by
  simp only [deliverAnswer, ho, ht, bne_self_eq_false, Bool.false_eq_true, if_false, if_true]

/-- The core that waits for the answer goes on, or stops with the NACK's status. -/
theorem deliverAnswer_core {v : State} {r : TxReq} {c : BitVec 8} {pc : U64} (ho : r.origin = .core c) (hack : (v.core c.toNat).ack = some pc)
    (st : Nat) (data : List Byte) (poison : List Bool) :
    ((deliverAnswer v r st data poison).core c.toNat).ack = none ∧
    (st = 0 → ((deliverAnswer v r st data poison).core c.toNat).phase = (v.core c.toNat).phase) ∧
    (st ≠ 0 → ((deliverAnswer v r st data poison).core c.toNat).phase = .stopped) := by
  by_cases hst : st = 0
  · have hgoes : deliverAnswer v r st data poison = v.modCore c.toNat (fun x => { x with ack := none }) := by
      simp only [deliverAnswer, ho, hack, hst, bne_self_eq_false, Bool.false_eq_true, if_false]
    rw [hgoes, State.core_modCore_self]
    exact ⟨rfl, fun _ => rfl, fun hne => absurd hst hne⟩
  · have hstops : deliverAnswer v r st data poison = stopProgram (v.modCore c.toNat (fun x => { x with ack := none })) c.toNat st pc := by
      simp only [deliverAnswer, ho, hack, bne_iff_ne, ne_eq, hst, not_false_eq_true, if_true]
    rw [hstops, stopProgram_core_self]
    exact ⟨rfl, fun h0 => absurd h0 hst, fun _ => rfl⟩

/-- A command completes the request of a space with a status: its command, its core, or nothing more goes on (R374, R377). -/
def CompletesRequest (s : State) (h : PktHdr) (i : Instr) (x : TxSpace) (r : TxReq) (st : Nat) : Prop :=
  (∀ c, r.origin = .host c → r.typ ≠ .bulk → ∃ v, exec i s = .next (tryArrive (finish v c st 0)) ∧ RingFrame { s with fab := v.fab } v ∧
    (v.txSpace x.dst x.fd).out = x.out.filter (fun e => e.hdr.seq != r.hdr.seq) ∧ v.fab.unresponsive.contains h.srcId = false) ∧
  (r.origin = .none → ∃ u, exec i s = .next u ∧ (u.txSpace x.dst x.fd).out = x.out.filter (fun e => e.hdr.seq != r.hdr.seq)) ∧
  (∀ c pc, r.origin = .core c → (s.core c.toNat).ack = some pc → ∃ u, exec i s = .next u ∧ (u.core c.toNat).ack = none ∧
    (st = 0 → (u.core c.toNat).phase = (s.core c.toNat).phase) ∧ (st ≠ 0 → (u.core c.toNat).phase = .stopped))

theorem completesRequest_of {s v : State} {h : PktHdr} {i : Instr} {x : TxSpace} {r : TxReq} {st : Nat} {data : List Byte} {poison : List Bool}
    (hexec : exec i s = .next (tryArrive (deliverAnswer v r st data poison))) (hv : Retired s h x r v) : CompletesRequest s h i x r st := by
  refine ⟨fun c ho ht => ?_, fun ho => ?_, fun c pc ho hack => ?_⟩
  · rw [deliverAnswer_host ho ht] at hexec
    exact ⟨v, hexec, hv.frame, hv.out, hv.heard⟩
  · rw [deliverAnswer_none ho] at hexec
    refine ⟨_, hexec, ?_⟩
    rw [txSpace_congr (congrArg Fabric.tx (tryArrive_fab v))]
    exact hv.out
  · rw [← hv.core] at hack
    obtain ⟨hnone, hok, hbad⟩ := deliverAnswer_core ho hack st data poison
    refine ⟨_, hexec, ?_⟩
    rw [tryArrive_core, ← hv.core]
    exact ⟨hnone, hok, hbad⟩

end Sys2Proof.Machine
end

section
/-! The packets that answer: ACK, ATOMIC_RESP, READ_RESP and NACK (R374, R377, R379, R391, R395, R397). -/

namespace Sys2Proof.Machine

section
variable {s : State} {port : BitVec 4} {h : PktHdr} (hpow : s.pins.powered = true)
include hpow

/-! ## The packets as responses -/

theorem exec_ack : exec (.ack port h) s = .next (response s port.toNat h 0
    [.write, .writeMasked, .scOp, .msg, .bulk, .collData, .collCredit, .collCtrl] 0 [] []) := by
  show execAck port h s = _
  rw [execAck, powered_on _ hpow]

theorem exec_atomicResp (v : U64) : exec (.atomicResp port h v) s =
    .next (response s port.toNat h 8 [.atomic] 0 (leBytes 8 v.toNat) []) := by
  show execAtomicResp port h v s = _
  rw [execAtomicResp, powered_on _ hpow]

theorem exec_readResp (d : List Byte) (t : List Bool) : exec (.readResp port h d t) s =
    .next (response s port.toNat h d.length [.read] 0 d t) := by
  show execReadResp port h d t s = _
  rw [execReadResp, powered_on _ hpow]

theorem exec_drainReturn : exec (.drainReturn port h) s =
    .next (onResponse s port.toNat h 0 fun s => drainAnswered s h.srcId port.toNat) := by
  show execDrainReturn port h s = _
  rw [execDrainReturn, powered_on _ hpow]

/-- What a NACK does once it is heard (R374, R379, R391). -/
def nacked (p : Nat) (h : PktHdr) (st : U16) (s : State) : State :=
  if st = 0x831A then bump s (fabBase (p / 8)) 10 1
  else match s.answered p h [.read, .write, .writeMasked, .atomic, .scOp, .msg, .bulk, .collData, .collCredit, .collCtrl] with
    | some (x, r) =>
      if st = 0x831B && r.typ = .msg then noteBusy s p h
      else tryArrive (deliverAnswer (retireReq s x r) r st.toNat [] [])
    | none => if h.seq = 0 then drainAnswered s h.srcId p else s

omit hpow in
theorem nacked_busy {u : State} {p : Nat} {x : TxSpace} {r : TxReq}
    (ha : u.answered p h [.read, .write, .writeMasked, .atomic, .scOp, .msg, .bulk, .collData, .collCredit, .collCtrl] = some (x, r))
    (ht : r.typ = .msg) : nacked p h 0x831B u = noteBusy u p h := by
  simp [nacked, ha, ht]

omit hpow in
theorem nacked_drain {u : State} {p : Nat} {st : U16} (hexpired : st ≠ 0x831A)
    (ha : u.answered p h [.read, .write, .writeMasked, .atomic, .scOp, .msg, .bulk, .collData, .collCredit, .collCtrl] = none)
    (hseq : h.seq = 0) : nacked p h st u = drainAnswered u h.srcId p := by
  simp only [nacked, if_neg hexpired, ha, if_pos hseq]

theorem exec_nack (st : U16) : exec (.nack port h st) s = .next (onResponse s port.toNat h 8 (nacked port.toNat h st)) := by
  show execNack port h st s = _
  rw [execNack, powered_on _ hpow]
  rfl

/-- An answer of another job or epoch is discarded (R397). -/
theorem answers_discarded (hjob : jobCheck s h = 0x8310 ∨ jobCheck s h = 0x8311) : Reaches (.ack port h) s s ∧
    (∀ d t, Reaches (.readResp port h d t) s s) ∧ (∀ v, Reaches (.atomicResp port h v) s s) ∧ Reaches (.drainReturn port h) s s ∧
    ∀ st, Reaches (.nack port h st) s s :=
  have hdiscards (n : Nat) (f : State → State) : EventFrame s (onResponse s port.toNat h n f) := onResponse_discards port.isLt n f hjob
  ⟨⟨_, exec_ack hpow, hdiscards ..⟩, fun d t => ⟨_, exec_readResp hpow d t, hdiscards ..⟩,
    fun v => ⟨_, exec_atomicResp hpow v, hdiscards ..⟩, ⟨_, exec_drainReturn hpow, hdiscards ..⟩, fun st => ⟨_, exec_nack hpow st, hdiscards ..⟩⟩

variable (hdst : h.dstId.toNat = s.fabId) (hcrc : h.crcOk = true) (hjob : jobCheck s h = 0)
include hdst hcrc hjob

theorem exec_nack_heard (st : U16) : exec (.nack port h st) s = .next (nacked port.toNat h st (heardAt s port.toNat 8 h.srcId)) := by
  rw [exec_nack hpow, onResponse_heard port.isLt _ _ hdst hcrc hjob]

/-- A late FAB_REPLAY_EXPIRED is counted (log 27). -/
theorem nack_expired : Reaches (.nack port h 0x831A) s (heardFrom s h.srcId) := by
  refine ⟨_, exec_nack_heard hpow hdst hcrc hjob _, (heardAt_frame s 8 h.srcId port.isLt).trans ?_⟩
  exact bump_frame _ _ (answer_counters _ (by have := port.isLt; omega) 10 (by decide))

/-- A message that the receiver had no room for is noted, once (R391). -/
theorem nack_busy {x : TxSpace} {r : TxReq}
    (ha : s.answered port.toNat h [.read, .write, .writeMasked, .atomic, .scOp, .msg, .bulk, .collData, .collCredit, .collCtrl] = some (x, r))
    (ht : r.typ = .msg) (hnew : s.fab.msgBusy.contains (h.srcId, h.seq) = false) : Reaches (.nack port h 0x831B) s
      { heardFrom s h.srcId with fab := { (heardFrom s h.srcId).fab with msgBusy := s.fab.msgBusy ++ [(h.srcId, h.seq)] } } := by
  have hfab := heardAt_fab s port.toNat 8 h.srcId
  have hbusy : (heardAt s port.toNat 8 h.srcId).fab.msgBusy = s.fab.msgBusy := by rw [hfab]; rfl
  refine ⟨_, exec_nack_heard hpow hdst hcrc hjob _, ?_⟩
  rw [nacked_busy ((heardAt_answered ..).trans ha) ht, noteBusy, hbusy, hnew]
  refine EventFrame.trans ?_ (raise_frame ..)
  rw [hfab]
  exact (heardAt_frame s 8 h.srcId port.isLt).withFab _

theorem nack_completes {x : TxSpace} {r : TxReq} {st : U16}
    (ha : s.answered port.toNat h [.read, .write, .writeMasked, .atomic, .scOp, .msg, .bulk, .collData, .collCredit, .collCtrl] = some (x, r))
    (hexpired : st ≠ 0x831A) (hbusy : ¬(st = 0x831B ∧ r.typ = .msg)) : CompletesRequest s h (.nack port h st) x r st.toNat := by
  refine completesRequest_of (data := []) (poison := []) ?_ (retiredAt_retired s 8 h x r port.isLt)
  rw [exec_nack_heard hpow hdst hcrc hjob]
  simp only [nacked, heardAt_answered, ha, if_neg hexpired, Bool.and_eq_true, decide_eq_true_eq, if_neg hbusy]
  rfl

end

/-! ## Drains (R379, R385) -/

/-- `t` is `s` but for the spaces and drains of the fabric, what has been sent, counting and events. -/
def WireFrame (s t : State) : Prop := ∃ x d o r m h, t = { s with
  fab := { s.fab with tx := x, drains := d }, sent := o, regs := r, hostMem := m, hif := h }

theorem WireFrame.refl (s : State) : WireFrame s s := ⟨s.fab.tx, s.fab.drains, s.sent, s.regs, s.hostMem, s.hif, rfl⟩

theorem WireFrame.trans {s t u : State} (h1 : WireFrame s t) (h2 : WireFrame t u) : WireFrame s u := by
  obtain ⟨_, _, _, _, _, _, rfl⟩ := h1
  obtain ⟨_, _, _, _, _, _, rfl⟩ := h2
  exact ⟨_, _, _, _, _, _, rfl⟩

theorem SameBut.wire {s t : State} (h : SameBut s t) : WireFrame s t := by
  obtain ⟨_, _, _, _, _, _, _, _, rfl⟩ := h
  exact ⟨_, _, _, _, _, _, rfl⟩

theorem launchReq_wire (s : State) (r : TxReq) (p : Nat) : WireFrame s (launchReq s r p) := by
  unfold launchReq transmitReq emitPacket
  exact .trans ⟨_, _, _, _, _, _, rfl⟩ (same_bump ..).wire

theorem launchReq_drains (s : State) (r : TxReq) (p : Nat) : (launchReq s r p).fab.drains = s.fab.drains := by
  unfold launchReq transmitReq emitPacket
  rw [bump_fab]
  rfl

/-- A request is held behind a drain, queued, or sent. -/
theorem sendReq_wire (s : State) (r : TxReq) : WireFrame s (sendReq s r) := by
  unfold sendReq
  dsimp only
  split
  · exact ⟨_, _, _, _, _, _, rfl⟩
  · split
    · split
      · exact launchReq_wire ..
      · exact ⟨_, _, _, _, _, _, rfl⟩
    · exact ⟨_, _, _, _, _, _, rfl⟩

/-- While no drain is under way, none begins with a request. -/
theorem sendReq_noDrains {s : State} (r : TxReq) (h : s.fab.drains = []) : (sendReq s r).fab.drains = [] := by
  unfold sendReq
  simp only [h, List.any_nil, Bool.false_eq_true, if_false]
  split
  · split
    · rw [launchReq_drains, h]
    · exact h
  · exact h

theorem sendAll_wire (l : List TxReq) (s : State) : WireFrame s (l.foldl sendReq s) := by
  induction l generalizing s with
  | nil => exact WireFrame.refl s
  | cons r l ih => exact (sendReq_wire s r).trans (ih _)

theorem sendAll_noDrains (l : List TxReq) {s : State} (h : s.fab.drains = []) : (l.foldl sendReq s).fab.drains = [] := by
  induction l generalizing s with
  | nil => exact h
  | cons r l ih => exact ih (sendReq_noDrains r h)

/-- What the answer to a DRAIN changes, of which one DRAIN is resolved. -/
structure DrainResolved (s u : State) (e : U16 × Nat × Bool) : Prop where
  mem          : u.mem = s.mem
  unresponsive : u.fab.unresponsive = s.fab.unresponsive
  drainsOut    : u.fab.drainsOut = dropFirst (fun x => x == e) s.fab.drainsOut

theorem drainAnswered_resolves {s : State} {dst : U16} {p : Nat} {b : Bool}
    (hfound : s.fab.drainsOut.find? (fun e => e.1 == dst && e.2.1 == p) = some (dst, p, b)) :
    DrainResolved s (drainAnswered s dst p) (dst, p, b) ∧ (b = false → (drainAnswered s dst p).fab.drains = s.fab.drains) ∧
    (∀ x, b = true → s.fab.drains = [x] → x.dst = dst → x.port = p → (drainAnswered s dst p).fab.drains = []) := by
  simp only [drainAnswered, hfound]
  cases b with
  | false => exact ⟨⟨rfl, rfl, rfl⟩, fun _ => rfl, fun _ hb => absurd hb Bool.false_ne_true⟩
  | true =>
    refine ⟨?_, fun hb => absurd hb.symm Bool.false_ne_true, fun x _ honly hdst hport => ?_⟩
    · simp only [Bool.not_true, Bool.false_eq_true, if_false]
      split
      · next x _ =>
        obtain ⟨_, _, _, _, _, _, hsent⟩ := sendAll_wire x.held { s with fab := { s.fab with
          drainsOut := dropFirst (fun y => y == (dst, p, true)) s.fab.drainsOut, drains := dropFirst (fun y => y == x) s.fab.drains } }
        rw [releaseDrain, hsent]
        exact ⟨rfl, rfl, rfl⟩
      · exact ⟨rfl, rfl, rfl⟩
    · have hdrain : s.fab.drains.find? (fun y => y.dst == dst && y.port == p) = some x := by
        rw [honly]
        exact List.find?_cons_of_pos (by simp [hdst, hport])
      simp only [Bool.not_true, Bool.false_eq_true, if_false, hdrain, releaseDrain]
      exact sendAll_noDrains _ (by simp [honly, dropFirst])

end Sys2Proof.Machine

open Sys2Proof Sys2Proof.Machine

/-- Settles O56: a response of the job's epoch is heard, and its request, where one is outstanding, leaves its space and goes on; a NACK
and a DRAIN_RETURN that answer a DRAIN resolve it. -/
theorem answersCompleteRequests : Obligations.AnswersCompleteRequests := by
  unfold Obligations.AnswersCompleteRequests
  intro s port h hpow p answers
  have hp : p < 16 := port.isLt
  refine ⟨answers_discarded hpow, ?_⟩
  intro mine heard acks all
  refine ⟨fun ⟨hdst, hcrc, hjob⟩ => ?_, fun i forPath ⟨hdst, hcrc, hjob⟩ hi hfound => ?_⟩
  · have hcompletes {i : Instr} {types : List PktType} {n : Nat} {d : List Byte} {t : List Bool} {x : TxSpace} {r : TxReq}
        (hexec : exec i s = .next (response s p h n types 0 d t)) (ha : s.answered p h types = some (x, r)) : answers i x r 0 := by
      rw [response_answers hp hdst hcrc hjob ha] at hexec
      exact completesRequest_of hexec (retiredAt_retired s n h x r hp)
    refine ⟨fun ha => ⟨_, exec_ack hpow, response_unanswered hp hdst hcrc hjob ha⟩,
      fun v ha => ⟨_, exec_atomicResp hpow v, response_unanswered hp hdst hcrc hjob ha⟩,
      fun d t ha => ⟨_, exec_readResp hpow d t, response_unanswered hp hdst hcrc hjob ha⟩, nack_expired hpow hdst hcrc hjob,
      fun x r ha => hcompletes (exec_ack hpow) ha, fun x r v ha => hcompletes (exec_atomicResp hpow v) ha,
      fun x r data tags ha => ⟨hcompletes (exec_readResp hpow data tags) ha, fun t id k ho => ?_⟩, fun x r ha => ⟨fun st h0 hexpired hbusy =>
        nack_completes hpow hdst hcrc hjob ha hexpired hbusy, fun ht hnew => nack_busy hpow hdst hcrc hjob ha ht hnew⟩⟩
    have hread : r.typ = .read := by simpa using answered_typ ha
    have hv := retiredAt_retired s data.length h x r hp
    refine ⟨_, ?_, hv.frame, hv.out⟩
    rw [exec_readResp hpow, response_answers hp hdst hcrc hjob ha, deliverAnswer_read ho hread]
  · have hbytes : ∃ n, exec i s = .next (drainAnswered (heardAt s p n h.srcId) h.srcId p) := by
      rcases hi with rfl | ⟨st, rfl, hexpired, hseq, hnone⟩
      · exact ⟨0, by rw [exec_drainReturn hpow, onResponse_heard hp _ _ hdst hcrc hjob]⟩
      · refine ⟨8, ?_⟩
        rw [exec_nack_heard hpow hdst hcrc hjob, nacked_drain hexpired ((heardAt_answered ..).trans hnone) hseq]
    obtain ⟨n, hexec⟩ := hbytes
    have hfab := heardAt_fab s p n h.srcId
    obtain ⟨hresolved, hkept, hreleased⟩ := drainAnswered_resolves (s := heardAt s p n h.srcId) (by rw [hfab]; exact hfound)
    refine ⟨_, hexec, ?_, ?_, ?_, fun hb => ?_, fun x hb honly hxd hxp => hreleased x hb (by rw [hfab]; exact honly) hxd hxp⟩
    · exact hresolved.mem.trans (heardAt_frame s n h.srcId hp).ring.mem
    · rw [hresolved.unresponsive, hfab]
      exact heardFrom_contains s h.srcId
    · rw [hresolved.drainsOut, hfab]
      rfl
    · rw [hkept hb, hfab]
      rfl
end

section
/-! A message that came ahead of its turn goes on with the number before it (R390): where that number is an atomic's, memory changes by
the atomic and by the message. -/

namespace Sys2Proof.Machine

/-- A header of member 2 toward this package, with an operation and a number. -/
def fromTwo (op : BitVec 8) (seq : U32) : PktHdr :=
  { combinable := false, retry := false, combined := false, last := false, lines := 0, op := op, jobTag := 5, epoch := 1, srcId := 2,
    dstId := 0, seq := seq, addr := 0, released := 0, crcOk := true }

/-- The package runs a job with member 2 and has page 0 mapped. Message 1 of member 2 waits for number 0; a receive of its queue has
its buffer at 0x100. The count of translation misses is full. -/
def messageWaits : State :=
  { State.reset with
    pins := { State.reset.pins with powered := true }
    regs := [(xltBase + 0xF0, 1)]
    mem := { Mem.reset with xlt := [(0, 15)] }
    job := some {
      tag := 5, epoch := 1, rank := 0, members := [0, 2], phase := .running, launch := none, image := none, forwarded := true,
      forwardedAt := 0, childAcks := [], hintPages := [], timeSeed := 0, programDigest := [], shrunk := false, oldMembers := 2 }
    fab := { Fabric.reset with
      earlyMsgs := [(0, fromTwo 3 1, [7])]
      recvs := [{ queue := 3, buf := 0x100, tag := 0, mask := 0, bytes := 1, cmd := ⟨0, 7, true, false⟩ }] } }

/-- Atomic 0 of member 2, an add at address 0, waits for the replay cache. -/
def atomicWaiting : State := { messageWaits with fab := { messageWaits.fab with cacheWait := [(0, fromTwo 1 0, 1, 0)] } }

/-- The byte of stack memory at 0x100 after a command. -/
def bufferAfter (i : Instr) (s : State) : Option Byte :=
  match exec i s with
  | .next u => some (Memory.get u.mem.bytes 0x100)
  | _ => none

theorem bufferAfter_next {i : Instr} {s u : State} (h : exec i s = .next u) : bufferAfter i s = some (Memory.get u.mem.bytes 0x100) := by
  rw [bufferAfter, h]

theorem bufferAfter_release : bufferAfter (.replayCacheWaitRelease 0) atomicWaiting = some 7 := by decide +kernel

theorem bufferAfter_combined : bufferAfter (.combined 0 (fromTwo 1 0) [⟨2, 0, 1⟩]) messageWaits = some 7 := by decide +kernel

/-- A command that leaves the message's byte in the buffer wrote more than the atomic's word. -/
theorem not_wordOnly {i : Instr} {s u : State} {v : Nat} (h : exec i s = .next u) (hbuffer : bufferAfter i s = some 7)
    (hblank : Memory.get s.mem.bytes 0x100 = 0) : u.mem.bytes ≠ Memory.write s.mem.bytes 0 (leBytes 8 v) := by
  intro hword
  have hseven : Memory.get u.mem.bytes 0x100 = 7 := Option.some.inj ((bufferAfter_next h).symm.trans hbuffer)
  rw [hword, Memory.get_write_outside _ (by rw [length_leBytes]; omega), hblank] at hseven
  exact absurd hseven (by decide)

end Sys2Proof.Machine

open Sys2Proof Sys2Proof.Machine

/-- Refutes O54: the atomic that waited takes number 0 of member 2, so message 1 of that member goes to its receive in the same step. -/
theorem not_fabricTimersAct : ¬ Obligations.FabricTimersAct := by
  unfold Obligations.FabricTimersAct
  intro h
  obtain ⟨-, -, -, -, -, -, -, hwait, -⟩ := h atomicWaiting rfl
  obtain ⟨u, hexec, -, hmem⟩ := (hwait 0).2.2 0 (fromTwo 1 0) 1 0 [] 0 0 rfl rfl (by decide) (by decide +kernel) (by decide +kernel)
    (by decide +kernel) (by decide) rfl ⟨rfl, rfl, rfl, rfl, rfl⟩
  have hbytes := congrArg Mem.bytes hmem
  dsimp only at hbytes
  exact not_wordOnly hexec bufferAfter_release rfl hbytes

/-- Refutes O55: the constituent of a combined packet takes number 0 of member 2, so message 1 of that member goes to its receive in the
same step; the clause on combined packets does not ask that no message waits. -/
theorem not_requestsAreServed : ¬ Obligations.RequestsAreServed := by
  unfold Obligations.RequestsAreServed
  intro h
  obtain ⟨-, -, -, hcombined, -⟩ := h messageWaits 0 (fromTwo 1 0) 0 0 0 rfl
  obtain ⟨u, hexec, -, hbytes⟩ := hcombined ⟨2, 0, 1⟩ (by decide +kernel) rfl (by decide +kernel) (by decide +kernel) (by decide +kernel)
    (by decide +kernel) (by decide +kernel) (by decide +kernel) (by decide) ⟨rfl, rfl, rfl, rfl, rfl⟩ (by decide +kernel) (by decide +kernel)
  exact not_wordOnly hexec bufferAfter_combined rfl hbytes
end

section
/-! What the steps of a collective keep of the runs of the collective engine: the run of their key keeps its descriptor, command and batch,
and the others stay as they are (R407, R408). -/

namespace Sys2Proof.Machine

theorem AccessFrame.collEng {s u : State} (h : AccessFrame s u) : u.collEng = s.collEng := by
  obtain ⟨_, _, _, _, _, _, _, _, _, _, rfl⟩ := h.same; rfl

/-! ## One run among the others -/

/-- What a run keeps from its start to its end. -/
def CollRun.ident (r : CollRun) : CollDesc × CmdCtx × Option Nat × Bool := (r.desc, r.cmd, r.batch, r.started)

/-- The runs of `t` are those of `s`, but for what the run of one key may change of itself. -/
structure RunsKept (g : Nat) (id : U32) (s t : State) : Prop where
  ident  : (t.collRun g id).map CollRun.ident = (s.collRun g id).map CollRun.ident
  others : t.collEng.runs.filter (fun x => !x.is g id) = s.collEng.runs.filter (fun x => !x.is g id)

/-- `r` is a state of the run of a key, with the marks that it keeps. -/
structure State.HasRun (s : State) (g : Nat) (id : U32) (r : CollRun) : Prop where
  key   : r.is g id = true
  ident : (s.collRun g id).map CollRun.ident = some r.ident

theorem CollRun.is_iff {r : CollRun} {g : Nat} {id : U32} : r.is g id = true ↔ r.desc.group = g ∧ r.desc.collId = id := by
  simp [CollRun.is]

theorem State.collRun_hasRun {s : State} {g : Nat} {id : U32} {r : CollRun} (h : s.collRun g id = some r) : s.HasRun g id r :=
  ⟨List.find?_some (p := fun x => CollRun.is x g id) h, congrArg (Option.map CollRun.ident) h⟩

theorem find?_updFirst {α : Type} {p : α → Bool} {l : List α} {a b : α} (hl : l.find? p = some a) (hb : p b = true) :
    (updFirst p (fun _ => b) l).find? p = some b := by
  induction l with
  | nil => cases hl
  | cons x l ih =>
    unfold updFirst
    split
    · exact List.find?_cons_of_pos hb
    · next hx => rw [List.find?_cons_of_neg hx] at hl ⊢; exact ih hl

theorem filter_updFirst {α : Type} {p : α → Bool} (l : List α) {b : α} (hb : p b = true) :
    (updFirst p (fun _ => b) l).filter (fun x => !p x) = l.filter (fun x => !p x) := by
  induction l with
  | nil => rfl
  | cons x l ih =>
    unfold updFirst
    split
    · next hx => simp [hx, hb]
    · rw [List.filter_cons, List.filter_cons, ih]

section
variable {g : Nat} {id : U32} {s t u : State} {r : CollRun}

namespace RunsKept

theorem of_runs (h : t.collEng.runs = s.collEng.runs) : RunsKept g id s t :=
  ⟨by rw [State.collRun, State.collRun, h], by rw [h]⟩

theorem refl (s : State) : RunsKept g id s s := of_runs rfl

theorem trans (h1 : RunsKept g id s t) (h2 : RunsKept g id t u) : RunsKept g id s u :=
  ⟨h2.ident.trans h1.ident, h2.others.trans h1.others⟩

theorem ite {c : Prop} [Decidable c] (ht : RunsKept g id s t) (hu : RunsKept g id s u) : RunsKept g id s (if c then t else u) := by
  split
  · exact ht
  · exact hu

/-- Steps that each keep the runs keep them when they are taken in turn. -/
theorem foldl {α : Type} {f : State → α → State} (hf : ∀ s a, RunsKept g id s (f s a)) (l : List α) (s : State) :
    RunsKept g id s (l.foldl f s) := by
  induction l generalizing s with
  | nil => exact refl s
  | cons a l ih => exact (hf s a).trans (ih _)

end RunsKept

theorem State.HasRun.kept (h : s.HasRun g id r) (hk : RunsKept g id s t) : t.HasRun g id r := ⟨h.key, hk.ident.trans h.ident⟩

/-- The run of a key is replaced. -/
theorem collRun_setRun (hr : r.is g id = true) {x : CollRun} (hx : s.collRun g id = some x) : (setRun s r).collRun g id = some r := by
  obtain ⟨rfl, rfl⟩ := CollRun.is_iff.1 hr
  exact find?_updFirst hx hr

theorem setRun_others (s : State) (hr : r.is g id = true) :
    (setRun s r).collEng.runs.filter (fun x => !x.is g id) = s.collEng.runs.filter (fun x => !x.is g id) := by
  obtain ⟨rfl, rfl⟩ := CollRun.is_iff.1 hr
  exact filter_updFirst (p := fun x => CollRun.is x r.desc.group r.desc.collId) _ hr

namespace RunsKept

/-- The run changes, and what it keeps stays. -/
theorem setRun (h : RunsKept g id s t) (hr : s.HasRun g id r) {x : CollRun} (hx : x.ident = r.ident) : RunsKept g id s (setRun t x) := by
  have hdesc : x.desc = r.desc := congrArg Prod.fst hx
  have hkey : x.is g id = true := by rw [CollRun.is, hdesc]; exact hr.key
  have hident := h.ident.trans hr.ident
  obtain ⟨y, hy, -⟩ := Option.map_eq_some_iff.1 hident
  refine h.trans ⟨?_, setRun_others t hkey⟩
  rw [collRun_setRun hkey hy, hident, Option.map_some, hx]

theorem access (h : RunsKept g id s t) (ha : AccessFrame t u) : RunsKept g id s u := h.trans (of_runs (by rw [ha.collEng]))

/-- The collective engine changes, but not its runs. -/
theorem engine (h : RunsKept g id s t) {e : CollEngine} (he : e.runs = t.collEng.runs) : RunsKept g id s { t with collEng := e } :=
  h.trans (of_runs he)

end RunsKept

theorem withRun_kept {f : CollRun → State} (hf : ∀ r, s.HasRun g id r → RunsKept g id s (f r)) : RunsKept g id s (withRun s g id f) := by
  unfold withRun
  split
  · exact .refl s
  · next r hr => exact hf r (State.collRun_hasRun hr)

end

/-! ## Sending (R424, R431) -/

theorem setTx_access (s : State) (x : TxSpace) : AccessFrame s (setTx s x) := plain_access s ..

theorem transmitReq_access (s : State) (x : TxSpace) (r : TxReq) (p : Nat) (retry : Bool) : AccessFrame s (transmitReq s x r p retry) :=
  (setTx_access ..).trans ((emit_access ..).trans (bump_access ..))

theorem sendColl_access (s : State) (r : TxReq) (chunk : Nat) : AccessFrame s (sendColl s r chunk).1 := by
  unfold sendColl
  dsimp only
  split
  · exact setTx_access ..
  · split
    · exact transmitReq_access ..
    · exact setTx_access ..

theorem sendRank_access (s : State) (g : Nat) (id : U32) (rank chunk : Nat) (typ : PktType) (lines : Nat) (data : List Byte) :
    AccessFrame s (sendRank s g id rank chunk typ lines data).1 := sendColl_access ..

theorem sendTo_access (s : State) (r : CollRun) (i chunk : Nat) (typ : PktType) (lines : Nat) (data : List Byte) :
    AccessFrame s (sendTo s r i chunk typ lines data) := sendRank_access ..

theorem sendCtrl_access (s : State) (r : CollRun) (b : CollCtrlBody) : AccessFrame s (sendCtrl s r b) :=
  AccessFrame.foldl (fun _ _ => sendTo_access ..) _ s

section
variable {g : Nat} {id : U32} {s : State} {r : CollRun}

/-- A change of the run of a key, as it stands, that leaves what it keeps. -/
theorem modRun_kept (h : r.is g id = true) {f : CollRun → CollRun} (hf : ∀ x, (f x).ident = x.ident := by intro; rfl) :
    RunsKept g id s (withRun s r.desc.group r.desc.collId fun x => setRun s (f x)) := by
  obtain ⟨rfl, rfl⟩ := CollRun.is_iff.1 h
  exact withRun_kept fun x hx => .setRun (.refl s) hx (hf x)

theorem sendElems_kept (h : r.is g id = true) (i chunk level child size offset : Nat) (bs : List Byte) :
    RunsKept g id s (sendElems s r i chunk level child size offset bs) := by
  refine .trans (.access (.access (.refl s) ?_) (bump_access ..)) (modRun_kept h)
  refine AccessFrame.foldl_of (st := Prod.fst) (fun _ _ => ?_) _ (s, false) s (AccessFrame.refl s)
  exact sendRank_access ..

/-- A run that fails keeps what a run keeps. -/
theorem RunsKept.fail {t : State} (h : RunsKept g id s t) (hr : s.HasRun g id r) {x : CollRun} (hx : x.ident = r.ident) (st : Nat)
    (say : Option CollCtrlBody) : RunsKept g id s (failRun t x st say) := by
  have hset : RunsKept g id s (Machine.setRun t { x with fail := st }) := h.setRun hr hx
  unfold failRun
  refine .ite h ?_
  dsimp only
  split
  · exact hset.access (sendCtrl_access ..)
  · exact hset

end

/-! ## The steps of a run -/

theorem claimSlots_kept {g : Nat} {id : U32} {s : State} {r : CollRun} (h : s.HasRun g id r) (k : Nat) :
    RunsKept g id s (claimSlots s r k) := by
  unfold claimSlots
  refine .ite (.refl s) ?_
  dsimp only
  split
  · refine .setRun (.access (.engine (.refl s) ?_) (bump_access ..)) h ?_ <;> rfl
  · have hdry (k : Nat) : RunsKept g id s (bump { s with collEng := { s.collEng with dry := true } } (collBase k) 2 1) :=
      .access (.engine (e := { s.collEng with dry := true }) (.refl s) rfl) (bump_access ..)
    refine .setRun (.ite ((hdry _).access ((bump_access ..).trans (raise_access ..))) (hdry _)) h ?_
    rfl

theorem freeClaim_runs (s : State) (c : Nat × Option Nat × Nat) : (freeClaim s c).collEng.runs = s.collEng.runs := by
  unfold freeClaim
  split <;> rfl

/-- Where a read leads. -/
theorem readVA_access_of {s v : State} {agent va n st : Nat} {bs : List Byte} (h : readVA s agent va n = (v, st, bs)) : AccessFrame s v := by
  have hread := readVA_access s agent va n
  rwa [h] at hread

theorem readParts_access {d : CollDesc} {len : Nat} {l : List Nat} {s v : State} {acc bs : List Byte} {st : Nat}
    (h : readParts d len l s acc = (v, st, bs)) : AccessFrame s v := by
  induction l generalizing s acc with
  | nil => cases h; exact AccessFrame.refl _
  | cons i l ih =>
    unfold readParts at h
    split at h
    · next hi => exact (readVA_access_of hi).trans (ih h)
    · next hi => cases h; exact readVA_access_of hi

section
variable (s : State) (g : Nat) (id : U32)

theorem listStep_kept : RunsKept g id s (listStep s g id) := by
  unfold listStep
  dsimp only
  split
  · exact .refl s
  · refine .ite (.refl s) (.access (t := setCollIn s _) (.of_runs rfl) (AccessFrame.foldl (fun _ _ => ?_) _ _))
    exact sendRank_access ..

theorem failStep_kept : RunsKept g id s (failStep s g id) := by
  refine withRun_kept fun r hr => ?_
  have hwarned : RunsKept g id s (setRun s { r with warned := true }) := .setRun (.refl s) hr rfl
  dsimp only
  refine RunsKept.trans (.ite hwarned (.refl s)) (withRun_kept fun x hx => .ite (.refl _) ?_)
  refine .ite (.fail (.refl _) hx rfl ..) (.ite (.fail (.refl _) hx rfl ..) (.ite (.fail (.refl _) hx rfl ..) ?_))
  generalize List.filter (α := Nat × U16) _ _ = said
  cases said with
  | nil => exact .refl _
  | cons v _ => exact .fail (.refl _) hx rfl ..

theorem beginMoving_kept : RunsKept g id s (beginMoving s g id) := by
  refine withRun_kept fun r hr => ?_
  dsimp only
  split
  · next v bs hparts =>
    have hmoving : RunsKept g id s (setRun v { r with source := bs, moving := true }) :=
      .setRun (.access (.refl s) (readParts_access hparts)) hr rfl
    exact .ite (hmoving.access (AccessFrame.foldl (fun _ _ => sendCtrl_access ..) _ _)) hmoving
  · next hparts => exact .fail (.access (.refl s) (readParts_access hparts)) hr rfl _ _

theorem countStep_kept : RunsKept g id s (countStep s g id) := by
  refine withRun_kept fun r hr => .ite (.refl s) ?_
  have hwritten {v : State} (hv : AccessFrame s v) (bs : List Byte) : RunsKept g id s (writeVA v agentFabric r.desc.recvCounts bs).1 :=
    .access (.access (.refl s) hv) (writeVA_access ..)
  have hcounted (p : Prop) [Decidable p] : AccessFrame s (if p then bump s (collBase 0) 6 1 else s) :=
    (bump_access ..).ite (AccessFrame.refl s)
  dsimp only
  refine .ite (.fail (.setRun (hwritten (hcounted _) _) hr ?_) hr ?_ _ _) (.access (.setRun (hwritten (hcounted _) _) hr ?_) (sendCtrl_access ..))
  all_goals rfl

theorem verdictStep_kept : RunsKept g id s (verdictStep s g id) := by
  refine withRun_kept fun r hr => .ite (.refl s) ?_
  dsimp only
  split
  · exact .fail (.refl s) hr rfl _ _
  · exact beginMoving_kept ..

theorem sendStep_kept : RunsKept g id s (sendStep s g id) := by
  refine withRun_kept fun r hr => .ite (.refl s) (.foldl (fun v e => ?_) _ s)
  refine .ite (.ite (.refl v) ?_) (.ite (sendElems_kept hr.key ..) (.refl v))
  split
  · exact .refl v
  · exact sendElems_kept hr.key ..

theorem creditStep_kept : RunsKept g id s (creditStep s g id) := by
  refine withRun_kept fun r hr => .ite (.refl s) (.foldl (fun v k => ?_) _ s)
  refine RunsKept.trans (.ite (withRun_kept fun x hx => claimSlots_kept hx k) (.refl v)) (.foldl (fun w q => ?_) _ _)
  refine withRun_kept fun x hx => .ite (.refl w) (.access (.setRun (.refl w) hx ?_) (sendTo_access ..))
  rfl

theorem writeChunk_kept {r : CollRun} (h : r.is g id = true) (key first : Nat) (bs : List Byte) :
    RunsKept g id s (writeChunk s r key first bs) := by
  have hwrite := writeVA_access s agentFabric (r.desc.dst + first * r.desc.outBytes) bs
  unfold writeChunk
  split
  · next hw =>
    rw [hw] at hwrite
    exact .trans (.access (.refl s) hwrite) (modRun_kept h)
  · next hw =>
    rw [hw] at hwrite
    obtain ⟨rfl, rfl⟩ := CollRun.is_iff.1 h
    exact .trans (.access (.refl s) hwrite) (withRun_kept fun x hx => .fail (.refl _) hx rfl _ _)

theorem foldOne_kept (k : Nat) : RunsKept g id s (foldOne s g id k) := by
  refine withRun_kept fun r hr => ?_
  have hwritten {v x : _} (hv : RunsKept g id s v) (hx : x.ident = r.ident) (hkey : x.is g id = true) (l : List (Nat × Option Nat × Nat))
      (key first : Nat) (bs : List Byte) : RunsKept g id s (writeChunk (l.foldl freeClaim (setRun v x)) x key first bs) :=
    ((hv.setRun hr hx).trans (.foldl (fun w c => .of_runs (freeClaim_runs w c)) l _)).trans (writeChunk_kept _ _ _ hkey ..)
  dsimp only
  split
  · exact .refl s
  · generalize hw : writeChunk _ _ _ _ _ = w
    have hw : RunsKept g id s w := by
      rw [← hw]
      refine hwritten (.ite (.access (.refl s) (bump_access ..)) (.refl s)) ?_ ?_ _ _ _ _
      · rfl
      · exact hr.key
    refine .ite hw (.trans ?_ (.foldl (fun v m => sendElems_kept hr.key ..) _ _))
    exact (hw.access (sendCtrl_access ..)).ite hw

theorem takeOne_kept (q k : Nat) : RunsKept g id s (takeOne s g id q k) := by
  refine withRun_kept fun r hr => ?_
  dsimp only
  split
  · exact .refl s
  · refine RunsKept.trans (.setRun (.refl s) hr ?_) (writeChunk_kept _ _ _ hr.key ..)
    rfl

theorem foldStep_kept : RunsKept g id s (foldStep s g id) :=
  withRun_kept fun _ _ => .ite (.refl s) (.foldl (fun v _ => .ite (foldOne_kept v ..) (takeOne_kept v ..)) _ s)

theorem pumpRun_kept : RunsKept g id s (pumpRun s g id) :=
  (((listStep_kept s g id).trans (failStep_kept ..)).trans ((countStep_kept ..).trans (verdictStep_kept ..))).trans
    (((sendStep_kept ..).trans (creditStep_kept ..)).trans ((foldStep_kept ..).trans (creditStep_kept ..)))

/-! ## The start of a run (R407) -/

/-- The run of the key is marked as started, and keeps the rest. -/
theorem startRun_starts {r : CollRun} (h : s.collRun g id = some r) :
    ((startRun s g id).collRun g id).map CollRun.ident = some { r with started := true }.ident ∧
    (startRun s g id).collEng.runs.filter (fun x => !x.is g id) = s.collEng.runs.filter (fun x => !x.is g id) := by
  have hbegun : (setRun s { r with started := true }).HasRun g id { r with started := true } := 
    State.collRun_hasRun (collRun_setRun (State.collRun_hasRun h).key h)
  have hkept : RunsKept g id (setRun s { r with started := true }) (startRun s g id) := by
    unfold startRun
    simp only [withRun, h]
    refine .trans ?_ (pumpRun_kept ..)
    have hsaid := RunsKept.access (g := g) (id := id) (.refl _) (sendCtrl_access (setRun s { r with started := true }) { r with started := true }
      (.digest r.desc.digest (listDigest r.ranks)))
    refine .ite ?_ ?_
    · split
      · next v bs hv =>
        refine .access (.setRun (hsaid.access (readVA_access_of hv)) hbegun ?_) (AccessFrame.foldl (fun _ _ => sendCtrl_access ..) _ _)
        rfl
      · next hv => exact .fail (hsaid.access (readVA_access_of hv)) hbegun rfl _ _
    · refine .trans ?_ (beginMoving_kept ..)
      exact .ite (hsaid.access (sendCtrl_access ..)) hsaid
  exact ⟨hkept.ident.trans hbegun.ident, hkept.others.trans (setRun_others s hbegun.key)⟩

end

/-! ## Starting several runs (R407, R428) -/

/-- The key of a collective: its group and COLL_ID. -/
def CollRun.key (r : CollRun) : Nat × U32 := (r.desc.group, r.desc.collId)

theorem CollRun.is_key {x r : CollRun} : x.is r.desc.group r.desc.collId = true ↔ x.key = r.key := by
  simp [CollRun.is, CollRun.key]

/-- Start the runs of a list, in order. -/
def startAll (s : State) (rs : List CollRun) : State := rs.foldl (fun s r => startRun s r.desc.group r.desc.collId) s

/-- Starting one run leaves the run of another key as it is. -/
theorem startRun_other {s : State} {r x : CollRun} (hr : s.collRun r.desc.group r.desc.collId = some r) (hne : x.key ≠ r.key) :
    ((startRun s r.desc.group r.desc.collId).collRun x.desc.group x.desc.collId = s.collRun x.desc.group x.desc.collId) ∧
    (x ∈ s.collEng.runs → x ∈ (startRun s r.desc.group r.desc.collId).collEng.runs) := by
  obtain ⟨-, hothers⟩ := startRun_starts _ _ _ hr
  have hkey {y : CollRun} (hy : y.is x.desc.group x.desc.collId = true) : y.is r.desc.group r.desc.collId = false := by
    rw [Bool.eq_false_iff, Ne, CollRun.is_key, CollRun.is_key.1 hy]
    exact hne
  have hseen (v : State) : v.collRun x.desc.group x.desc.collId =
      (v.collEng.runs.filter (fun y => !y.is r.desc.group r.desc.collId)).find? (fun y => y.is x.desc.group x.desc.collId) := by
    rw [List.find?_filter, State.collRun]
    congr 1
    funext y
    cases hy : y.is x.desc.group x.desc.collId with
    | false => simp
    | true => simp [hkey hy]
  refine ⟨by rw [hseen, hseen, hothers], fun hx => ?_⟩
  have hin : x ∈ s.collEng.runs.filter (fun y => !y.is r.desc.group r.desc.collId) :=
    List.mem_filter.2 ⟨hx, by rw [hkey (CollRun.is_key.2 rfl)]; rfl⟩
  rw [← hothers] at hin
  exact (List.mem_filter.1 hin).1

/-- The runs that are yet to start stand as they were when one of another key has started. -/
theorem startRun_rest {s : State} {r : CollRun} {rs : List CollRun} (hr : r.key ∉ rs.map CollRun.key)
    (hrs : ∀ x ∈ r :: rs, s.collRun x.desc.group x.desc.collId = some x) :
    ∀ x ∈ rs, (startRun s r.desc.group r.desc.collId).collRun x.desc.group x.desc.collId = some x := fun x hx => by
  rw [(startRun_other (hrs r List.mem_cons_self) fun h => hr (h ▸ List.mem_map_of_mem hx)).1]
  exact hrs x (List.mem_cons_of_mem _ hx)

theorem startAll_other {rs : List CollRun} {s : State} (hnodup : (rs.map CollRun.key).Nodup)
    (hrs : ∀ r ∈ rs, s.collRun r.desc.group r.desc.collId = some r) {x : CollRun} (hne : x.key ∉ rs.map CollRun.key) :
    (startAll s rs).collRun x.desc.group x.desc.collId = s.collRun x.desc.group x.desc.collId ∧
    (x ∈ s.collEng.runs → x ∈ (startAll s rs).collEng.runs) := by
  induction rs generalizing s with
  | nil => exact ⟨rfl, id⟩
  | cons r rs ih =>
    rw [List.map_cons, List.nodup_cons] at hnodup
    rw [List.map_cons, List.mem_cons, not_or] at hne
    obtain ⟨hrun, hmem⟩ := startRun_other (hrs r List.mem_cons_self) hne.1
    obtain ⟨hrun', hmem'⟩ := ih hnodup.2 (startRun_rest hnodup.1 hrs) hne.2
    exact ⟨hrun'.trans hrun, fun hx => hmem' (hmem hx)⟩

/-- Each run of the list is started, and keeps its descriptor, command and batch. -/
theorem startAll_starts {rs : List CollRun} {s : State} (hnodup : (rs.map CollRun.key).Nodup)
    (hrs : ∀ r ∈ rs, s.collRun r.desc.group r.desc.collId = some r) {x : CollRun} (hx : x ∈ rs) :
    ((startAll s rs).collRun x.desc.group x.desc.collId).map CollRun.ident = some { x with started := true }.ident := by
  induction rs generalizing s with
  | nil => exact absurd hx List.not_mem_nil
  | cons r rs ih =>
    rw [List.map_cons, List.nodup_cons] at hnodup
    have hrest := startRun_rest hnodup.1 hrs
    rcases List.mem_cons.1 hx with rfl | hx
    · have hkept := (startAll_other hnodup.2 hrest hnodup.1).1
      exact (congrArg _ hkept).trans (startRun_starts _ _ _ (hrs x List.mem_cons_self)).1
    · exact ih hnodup.2 hrest hx

/-- Where every key stands once, the run of a key is the run that has it. -/
theorem collRun_of_mem {s : State} (hnodup : (s.collEng.runs.map CollRun.key).Nodup) {x : CollRun} (hx : x ∈ s.collEng.runs) :
    s.collRun x.desc.group x.desc.collId = some x := by
  cases hfound : s.collRun x.desc.group x.desc.collId with
  | none => exact absurd (CollRun.is_key.2 rfl) (List.find?_eq_none.1 hfound x hx)
  | some y =>
    have hkey : y.key = x.key := CollRun.is_key.1 (List.find?_some (p := fun z => CollRun.is z x.desc.group x.desc.collId) hfound)
    rw [List.inj_on_of_nodup_map hnodup (List.mem_of_find?_eq_some hfound) hx hkey]

/-- The runs that start with a run: itself, or its batch. -/
def State.startsWith (s : State) (r : CollRun) : List CollRun := match r.batch with | none => [r] | some k => s.batchRuns k

theorem startsWith_sublist {s : State} {r : CollRun} (h : r ∈ s.collEng.runs) : (s.startsWith r).Sublist s.collEng.runs := by
  unfold State.startsWith
  split
  · exact List.singleton_sublist.2 h
  · exact List.filter_sublist

theorem exec_collStart {s : State} {r : CollRun} (hpow : s.pins.powered = true) (hroom : s.collEng.running < 32)
    (hfirst : s.collEng.runs.find? s.mayStart = some r) (hfree : ∀ x ∈ s.startsWith r, s.runHeld x = false) :
    exec .collStart s = .next (startAll (dropWait s (.host r.cmd)) (s.startsWith r)) := by
  have hnone : ¬(s.startsWith r).any s.runHeld = true := by
    rw [Bool.not_eq_true]
    exact List.any_eq_false.2 fun x hx => by rw [hfree x hx]; exact Bool.false_ne_true
  show execCollStart s = _
  rw [execCollStart, powered_on _ hpow, if_neg (Nat.not_le.2 hroom)]
  simp only [hfirst]
  exact congrArg Host.Outcome.next (if_neg hnone)

/-- The first run that may start does, with its batch; the others stay as they are (R407). -/
theorem collStart_starts {s : State} {r : CollRun} (hpow : s.pins.powered = true) (hroom : s.collEng.running < 32)
    (hfirst : s.collEng.runs.find? s.mayStart = some r) (hkeys : (s.collEng.runs.map CollRun.key).Nodup)
    (hfree : ∀ x ∈ s.startsWith r, s.runHeld x = false) : ∃ t, exec .collStart s = .next t ∧
      (∀ x ∈ s.startsWith r, ∃ y, t.collRun x.desc.group x.desc.collId = some y ∧
        y.started = true ∧ y.desc = x.desc ∧ y.cmd = x.cmd ∧ y.batch = x.batch) ∧
      ∀ x ∈ s.collEng.runs, x ∉ s.startsWith r → x ∈ t.collEng.runs := by
  have hsub : (s.startsWith r).Sublist s.collEng.runs := startsWith_sublist (List.mem_of_find?_eq_some hfirst)
  have hnodup : ((s.startsWith r).map CollRun.key).Nodup := hkeys.sublist (hsub.map _)
  have hrs (x : CollRun) (hx : x ∈ s.startsWith r) : (dropWait s (.host r.cmd)).collRun x.desc.group x.desc.collId = some x :=
    collRun_of_mem hkeys (hsub.subset hx)
  refine ⟨_, exec_collStart hpow hroom hfirst hfree, fun x hx => ?_, fun x hx hnot => ?_⟩
  · obtain ⟨y, hy, hident⟩ := Option.map_eq_some_iff.1 (startAll_starts hnodup hrs hx)
    obtain ⟨hdesc, hcmd, hbatch, hstarted⟩ : y.desc = x.desc ∧ y.cmd = x.cmd ∧ y.batch = x.batch ∧ y.started = true := by
      simpa [CollRun.ident] using hident
    exact ⟨y, hy, hstarted, hdesc, hcmd, hbatch⟩
  · refine (startAll_other hnodup hrs fun hkey => ?_).2 hx
    obtain ⟨y, hy, hyx⟩ := List.mem_map.1 hkey
    exact hnot (List.inj_on_of_nodup_map hkeys (hsub.subset hy) hx hyx ▸ hy)

/-! ## The end of a run (R408, R428) -/

theorem tatterRange_access (s : State) (agent va n : Nat) : AccessFrame s (tatterRange s agent va n) :=
  AccessFrame.foldl (fun u _ => ((free_access u _).trans (spoilRange_access ..)).ite (free_access u _)) _ s

theorem tatterMismatch_access (s : State) (r : CollRun) (st : Nat) : AccessFrame s (tatterMismatch s r st) :=
  (AccessFrame.refl s).ite (AccessFrame.foldl (fun _ _ => tatterRange_access ..) _ s)

theorem syncAdd_collEng (s : State) (c v : Nat) : (syncAdd s c v).collEng = s.collEng := by
  rw [syncAdd_eq, (syncCatch_frame ..).ring.collEng]
  unfold noteWrap
  dsimp only
  split
  · rfl
  · split <;> simp

theorem notifyCounter_collEng (s : State) (c : Nat) : (notifyCounter s c).collEng = s.collEng := by
  unfold notifyCounter
  split
  · rfl
  · exact syncAdd_collEng ..

/-- Freeing claims changes the slots only (R422). -/
theorem freeClaims_collEng (l : List (Nat × Option Nat × Nat)) (s : State) :
    ∃ slots dry, (l.foldl freeClaim s).collEng = { s.collEng with slots := slots, dry := dry } := by
  induction l generalizing s with
  | nil => exact ⟨_, _, rfl⟩
  | cons c l ih =>
    obtain ⟨slots, dry, h⟩ := ih (freeClaim s c)
    have hone : ∃ slots dry, (freeClaim s c).collEng = { s.collEng with slots := slots, dry := dry } := by
      unfold freeClaim
      split <;> exact ⟨_, _, rfl⟩
    obtain ⟨_, _, hone⟩ := hone
    exact ⟨slots, dry, by rw [List.foldl_cons, h, hone]⟩

/-- The end of a run takes it out of the engine, with what has arrived for it and its slots. -/
theorem endRun_collEng (s : State) (r : CollRun) (st : Nat) : ∃ inbox slots dry, (endRun s r st).collEng =
    { s.collEng with runs := dropFirst (fun x => x.is r.desc.group r.desc.collId) s.collEng.runs, inbox := inbox, slots := slots, dry := dry } := by
  have hspoil (v : State) (p : Bool) : AccessFrame v (if p then spoilRange v agentFabric r.desc.work r.desc.workBytes else v) :=
    (spoilRange_access ..).ite (AccessFrame.refl v)
  have harrived (v : State) (p : Bool) : AccessFrame v (if p then
      (let s := bump v (collBase 0) 5 1
       if r.desc.esum then s else countNondet s 4) else v) :=
    ((bump_access ..).trans ((AccessFrame.refl _).ite (countNondet_access ..))).ite (AccessFrame.refl v)
  have hrecord (v : State) (bs : List Byte) : AccessFrame v (if r.desc.result = 0 then v else (writeRecord v agentFabric r.desc.result bs).1) :=
    (AccessFrame.refl v).ite (writeRecord_access ..)
  have htattered : (tatterMismatch s r st).collEng = s.collEng := (tatterMismatch_access ..).collEng
  unfold endRun
  dsimp only
  rw [(hrecord _ _).collEng, notifyCounter_collEng, (harrived _ _).collEng, bump_collEng, (hspoil _ _).collEng, htattered]
  obtain ⟨slots, dry, h⟩ := freeClaims_collEng r.claims { tatterMismatch s r st with collEng := { s.collEng with
    runs := dropFirst (fun x => x.is r.desc.group r.desc.collId) s.collEng.runs,
    inbox := s.collEng.inbox.filter (fun x => !(x.group == r.desc.group && x.id == r.desc.collId)) } }
  exact ⟨_, slots, dry, h⟩

theorem endRuns_batches (f : CollRun → Nat) (rs : List CollRun) (s : State) :
    (rs.foldl (fun s r => endRun s r (f r)) s).collEng.batches = s.collEng.batches := by
  induction rs generalizing s with
  | nil => rfl
  | cons r rs ih =>
    obtain ⟨_, _, _, h⟩ := endRun_collEng s r (f r)
    rw [List.foldl_cons, ih, h]

section
variable {s : State} {g : BitVec 6} {id : U32} {r : CollRun} (hpow : s.pins.powered = true) (hrun : s.collRun g.toNat id = some r)
include hpow hrun

theorem exec_collComplete_alone (hbatch : r.batch = none) (hdone : s.runDone r = true) :
    exec (.collComplete g id) s = .next (finish (endRun s r r.status) r.cmd r.status 0) := by
  show execCollComplete g id s = _
  rw [execCollComplete, powered_on _ hpow]
  simp only [hrun, hbatch, hdone, if_true]
  rfl

theorem exec_collComplete_batch {b : Batch} (hbatch : r.batch = some b.number)
    (hb : s.collEng.batches.find? (fun x => x.number == b.number) = some b) (hdone : ∀ x ∈ s.batchRuns b.number, s.runDone x = true) :
    exec (.collComplete g id) s = .next (endBatch s b CollRun.status) := by
  show execCollComplete g id s = _
  rw [execCollComplete, powered_on _ hpow]
  simp only [hrun, hbatch, hb, List.all_eq_true.2 hdone, if_true]

end

/-- The batch leaves the engine with its runs, and completes with the first failing status among them (R428). -/
theorem endBatch_finish (s : State) (b : Batch) (f : CollRun → Nat) : ∃ u,
    endBatch s b f = finish u b.cmd ((((s.batchRuns b.number).map f).find? (fun x => x != 0)).getD 0) 0 ∧
    u.collEng.batches = dropFirst (fun x => x.number == b.number) s.collEng.batches := by
  refine ⟨_, rfl, ?_⟩
  have hrecord (v : State) (bs : List Byte) : AccessFrame v (if b.result = 0 then v else (writeRecord v agentFabric b.result bs).1) :=
    (AccessFrame.refl v).ite (writeRecord_access ..)
  rw [(hrecord _ _).collEng, notifyCounter_collEng, endRuns_batches]

theorem exec_rebalanceReport {s : State} (hpow : s.pins.powered = true) (fd : BitVec 1) {q : List Nat} (hq : q.length = 8) :
    exec (.rebalanceReport fd q) s = .next { s with collEng := { s.collEng with
      queued := if fd = 0 then q ++ s.collEng.queued.drop 8 else s.collEng.queued.take 8 ++ q } } := by
  have hwhole : (q ++ List.replicate 8 0).take 8 = q := by rw [← hq, List.take_left]
  show execRebalanceReport fd q s = _
  rw [execRebalanceReport, powered_on _ hpow]
  simp only [hwhole]

end Sys2Proof.Machine

open Sys2Proof Sys2Proof.Machine

/-- Settles O37: a start marks the runs one after another and touches no other; an end takes its run, or its batch, out of the engine. -/
theorem collectivesStartAndEnd : Obligations.CollectivesStartAndEnd := by
  unfold Obligations.CollectivesStartAndEnd
  intro s hpow
  refine ⟨?_, fun g id r hrun => ⟨fun hbatch hdone => ?_, fun b hbatch hb hdone => ?_⟩, fun fd q hq _ => exec_rebalanceReport hpow fd hq⟩
  · intro r hroom hfirst hkeys rs hfree
    exact collStart_starts hpow hroom hfirst hkeys hfree
  · obtain ⟨hgroup, hid⟩ := CollRun.is_iff.1 (State.collRun_hasRun hrun).key
    obtain ⟨_, _, _, hend⟩ := endRun_collEng s r r.status
    exact ⟨_, exec_collComplete_alone hpow hrun hbatch hdone, rfl, by rw [hend, hgroup, hid]⟩
  · obtain ⟨u, hend, hbatches⟩ := endBatch_finish s b CollRun.status
    exact ⟨u, (exec_collComplete_batch hpow hrun hbatch hb hdone).trans (congrArg _ hend), hbatches⟩
end

section
/-! The packets of collectives: what arrives is kept for its collective and acknowledged, and the collective goes on (R404, R409, R420,
R425, R431). -/

namespace Sys2Proof.Machine

/-! ## What has arrived for a key -/

/-- What has arrived belongs to a key. -/
def CollIn.Keyed (x : CollIn) (g : Nat) (id : U32) : Prop := x.group = g ∧ x.id = id

theorem State.collIn_keyed (s : State) (g : Nat) (id : U32) : (s.collIn g id).Keyed g id := by
  unfold State.collIn
  cases h : s.collEng.inbox.find? (fun x => x.group == g && x.id == id) with
  | none => exact ⟨rfl, rfl⟩
  | some x =>
    have hx := List.find?_some h
    exact ⟨by simpa using (Bool.and_eq_true_iff.1 hx).1, by simpa using (Bool.and_eq_true_iff.1 hx).2⟩

theorem collIn_congr {s u : State} (h : u.collEng = s.collEng) (g : Nat) (id : U32) : u.collIn g id = s.collIn g id := by
  rw [State.collIn, h]; rfl

theorem collRun_congr {s u : State} (h : u.collEng = s.collEng) (g : Nat) (id : U32) : u.collRun g id = s.collRun g id := by
  rw [State.collRun, h]; rfl

/-- What is kept for a key reads back. -/
theorem collIn_setCollIn {s : State} {x : CollIn} {g : Nat} {id : U32} (hx : x.Keyed g id) : (setCollIn s x).collIn g id = x := by
  obtain ⟨rfl, rfl⟩ := hx
  have hgone : (s.collEng.inbox.filter (fun y => !(y.group == x.group && y.id == x.id))).find? (fun y => y.group == x.group && y.id == x.id) =
      none := by
    rw [List.find?_eq_none]
    intro y hy
    rw [Bool.not_eq_true, ← Bool.not_eq_true']
    exact (List.mem_filter.1 hy).2
  rw [State.collIn, setCollIn, List.find?_append, hgone, Option.none_or, List.find?_cons_of_pos (by simp)]
  rfl

/-- A digest of a sender is kept, once (R404). -/
def CollIn.noteDigest (x : CollIn) (rank : Nat) (d : U64) : CollIn :=
  if x.digests.any (fun e => e.1 == rank && e.2 == d) then x else { x with digests := x.digests ++ [(rank, d)] }

section
variable {x : CollIn} {g : Nat} {id : U32} (hx : x.Keyed g id)
include hx

theorem CollIn.Keyed.noteDigest (rank : Nat) (d : U64) : (x.noteDigest rank d).Keyed g id := by
  unfold CollIn.noteDigest
  split <;> exact hx

theorem CollIn.Keyed.addPiece (child level offset : Nat) (bs : List Byte) : (x.addPiece child level offset bs).Keyed g id := by
  unfold CollIn.addPiece
  dsimp only
  split <;> exact hx

theorem CollIn.Keyed.applyCtrl (rank : Nat) (body : CollCtrlBody) : (applyCtrl x rank body).Keyed g id := by
  cases body with
  | digest d l =>
    have hlisted {z : CollIn} (hz : z.Keyed g id) :
        (if z.lists.any (fun e => e.1 == rank && e.2 == l) then z else { z with lists := z.lists ++ [(rank, l)] }).Keyed g id := by
      split <;> exact hz
    exact hlisted (hx.noteDigest rank d)
  | mismatch => exact hx
  | verdict st => exact hx
  | counts k cs => exact hx
  | exponents o es => exact hx
  | arrive => exact hx

end

/-! ## Windows and answers (R365, R378) -/

theorem rxSpace_congr {s u : State} (h : u.fab.rx = s.fab.rx) (src : U16) (fd : Nat) : u.rxSpace src fd = s.rxSpace src fd := by
  rw [State.rxSpace, h]; rfl

theorem rxSpace_key (s : State) (src : U16) (fd : Nat) : (s.rxSpace src fd).src = src ∧ (s.rxSpace src fd).fd = fd := by
  unfold State.rxSpace
  cases h : s.fab.rx.find? (fun x => x.src == src && x.fd == fd) with
  | none => exact ⟨rfl, rfl⟩
  | some x =>
    have hx := List.find?_some h
    exact ⟨by simpa using (Bool.and_eq_true_iff.1 hx).1, by simpa using (Bool.and_eq_true_iff.1 hx).2⟩

theorem rxSpace_setRx_self (s : State) (x : RxSpace) : (setRx s x).rxSpace x.src x.fd = x := by
  have hgone : (s.fab.rx.filter (fun y => !(y.src == x.src && y.fd == x.fd))).find? (fun y => y.src == x.src && y.fd == x.fd) = none := by
    rw [List.find?_eq_none]
    intro y hy
    rw [Bool.not_eq_true, ← Bool.not_eq_true']
    exact (List.mem_filter.1 hy).2
  rw [State.rxSpace, setRx, List.find?_append, hgone, Option.none_or, List.find?_cons_of_pos (by simp)]
  rfl

/-- A number that is done is marked in its window. -/
theorem rxSpace_markSeq (s : State) (src : U16) (fd n : Nat) (st : Option Nat) :
    (markSeq s src fd n st).rxSpace src fd = (s.rxSpace src fd).mark n st := by
  obtain ⟨hsrc, hfd⟩ := rxSpace_key s src fd
  have hmarked : ((s.rxSpace src fd).mark n st).src = src ∧ ((s.rxSpace src fd).mark n st).fd = fd := ⟨hsrc, hfd⟩
  have hread := rxSpace_setRx_self s ((s.rxSpace src fd).mark n st)
  rwa [hmarked.1, hmarked.2] at hread

theorem portFor_congr {s u : State} (h : u.fab.ports = s.fab.ports) (slot : Nat) (dst : U16) : u.portFor slot dst = s.portFor slot dst := by
  have husable (p : Nat) : u.usable p dst = s.usable p dst := by simp only [State.usable, State.port, h]
  simp only [State.portFor, State.portInHalf, husable]

/-- An answer changes what has been sent, counts, and nothing else. -/
theorem respond_same (s : State) (port : Nat) (typ : PktType) (req : PktHdr) (data : List Byte) (poison : List Bool) :
    ∃ o r m h, respond s port typ req data poison = { s with sent := o, regs := r, hostMem := m, hif := h } := by
  unfold respond
  split
  · exact ⟨_, _, _, _, rfl⟩
  · obtain ⟨_, _, _, _, _, _, _, _, h⟩ := same_bump (s.emit (.packet _ typ _ data poison)) (portBase _) 0 (packetBytes typ _ data).length
    exact ⟨_, _, _, _, h⟩

/-- An acknowledgement goes to the requester with its SEQ and ADDR, on the port that it came on or the fallback from it. -/
theorem respond_ack_sent {s : State} {port p : Nat} {req : PktHdr} (h : s.portFor port req.srcId = some p) :
    ∃ a, (respond s port .ack req [] []).sent = s.sent ++ [.packet p .ack a [] []] ∧ a.dstId = req.srcId ∧ a.seq = req.seq ∧ a.addr = req.addr := by
  unfold respond
  rw [h]
  refine ⟨{ ownHdr s req.srcId with seq := req.seq, addr := req.addr, lines := 0 }, ?_, rfl, rfl, rfl⟩
  simp [emitPacket, State.emit]

/-! ## A packet is taken -/

/-- `u` is `s` with `y` kept for a key, the number `n` of the packet's sender done, and the packet acknowledged. -/
structure CollTaken (s : State) (port : Nat) (h : PktHdr) (n g : Nat) (id : U32) (y : CollIn) (u : State) : Prop where
  kept   : u.collIn g id = y
  runs   : u.collEng.runs = s.collEng.runs
  window : u.rxSpace h.srcId (port / 8 + 2) = (s.rxSpace h.srcId (port / 8 + 2)).mark n none
  same   : u = { s with collEng := u.collEng, fab := { s.fab with rx := u.fab.rx }, sent := u.sent, regs := u.regs, hostMem := u.hostMem, hif := u.hif }
  acked  : ∀ p, s.portFor port h.srcId = some p → ∃ a, u.sent = s.sent ++ [.packet p .ack a [] []] ∧
    a.dstId = h.srcId ∧ a.seq = h.seq ∧ a.addr = h.addr

/-- What arrives is kept, and its packet acknowledged. -/
def takeColl (s : State) (port : Nat) (h : PktHdr) (n : Nat) (y : CollIn) : State :=
  respond (markSeq (setCollIn s y) h.srcId (port / 8 + 2) n none) port .ack h [] []

theorem takeColl_taken (s : State) (port : Nat) (h : PktHdr) (n : Nat) {g : Nat} {id : U32} {y : CollIn} (hy : y.Keyed g id) :
    CollTaken s port h n g id y (takeColl s port h n y) := by
  have hport (p : Nat) (hp : s.portFor port h.srcId = some p) :=
    respond_ack_sent (s := markSeq (setCollIn s y) h.srcId (port / 8 + 2) n none) ((portFor_congr rfl ..).trans hp)
  have hkept : (setCollIn s y).collIn g id = y := collIn_setCollIn hy
  have hmarked := rxSpace_markSeq (setCollIn s y) h.srcId (port / 8 + 2) n none
  obtain ⟨_, _, _, _, hsame⟩ := respond_same (markSeq (setCollIn s y) h.srcId (port / 8 + 2) n none) port .ack h [] []
  refine ⟨?_, ?_, ?_, ?_, hport⟩
  all_goals rw [takeColl, hsame]
  · exact hkept
  · rfl
  · exact hmarked
  · rfl

/-- The packet has been counted where it came in (R431). -/
theorem CollTaken.counted {s v u : State} {port : Nat} {h : PktHdr} {n g : Nat} {id : U32} {y : CollIn} (ht : CollTaken v port h n g id y u)
    (hv : SameBut s v) : CollTaken s port h n g id y u := by
  obtain ⟨_, _, _, _, _, _, _, _, rfl⟩ := hv
  obtain ⟨hkept, hruns, hwindow, hsame, hacked⟩ := ht
  exact ⟨hkept, hruns, hwindow, hsame, hacked⟩

section
variable {s : State} {port : BitVec 4} {h : PktHdr} {n : Nat} (hdst : h.dstId.toNat = s.fabId) (hcrc : h.crcOk = true) (hjob : jobCheck s h = 0)
  (hfresh : (s.rxSpace h.srcId (port.toNat / 8 + 2)).place h.seq = .fresh n)
include hdst hcrc hjob hfresh

/-- A packet that passes its checks and has a fresh number is taken, and its collective goes on. -/
theorem collPacket_taken {i : Instr} {payload : Nat} {apply : State → Nat → CollIn → CollIn} {y : CollIn}
    (hexec : exec i s = .next (collPacket s port.toNat h payload apply)) (hy : y.Keyed (collKey h).1 (collKey h).2.1)
    (happly : apply (bump s (portBase port.toNat) 1 (40 + payload)) ((s.rankOf h.srcId.toNat).getD 0) (s.collIn (collKey h).1 (collKey h).2.1) = y) :
    ∃ u, exec i s = .next (pumpRun u (collKey h).1 (collKey h).2.1) ∧
      CollTaken s port.toNat h n (collKey h).1 (collKey h).2.1 y u := by
  have hv : EventFrame s (bump s (portBase port.toNat) 1 (40 + payload)) := bump_frame _ _ (received_counter _ port.isLt)
  rw [collPacket] at hexec
  generalize bump s (portBase port.toNat) 1 (40 + payload) = v at hexec happly hv
  have hrank : v.rankOf h.srcId.toNat = s.rankOf h.srcId.toNat := by simp only [State.rankOf, State.members, hv.ring.job]
  refine ⟨_, hexec.trans ?_, (takeColl_taken v port.toNat h n hy).counted hv.same⟩
  simp only [hv.fabId, jobCheck_congr hv.ring.job, rxSpace_congr (congrArg Fabric.rx hv.ring.fab), collIn_congr hv.ring.collEng, hrank,
    hdst, hcrc, hjob, hfresh, bne_self_eq_false, Bool.not_true, Bool.or_self, Bool.false_eq_true, if_false, happly]
  rfl

end

/-! ## The three packets -/

section
variable {s : State} {port : BitVec 4} {h : PktHdr} (hpow : s.pins.powered = true) (hhold : s.holding = false)
include hpow hhold

theorem exec_collCredit : exec (.collCredit port h) s =
    .next (collPacket s port.toNat h 0 fun _ rank x => { x with credits := x.credits ++ [(rank, (collKey h).2.2)] }) := by
  show execCollCredit port h s = _
  rw [execCollCredit, powered_on _ hpow, if_neg (by rw [hhold]; exact Bool.false_ne_true)]

theorem exec_collCtrl (body : CollCtrlBody) : exec (.collCtrl port h body) s =
    .next (collPacket s port.toNat h (ctrlBytes body).length fun _ rank x => applyCtrl x rank body) := by
  show execCollCtrl port h body s = _
  rw [execCollCtrl, powered_on _ hpow, if_neg (by rw [hhold]; exact Bool.false_ne_true)]

/-- Elements of a packet are taken over unless its digest differs from that of the run of its key (R404). -/
def State.takeElems (s : State) (h : PktHdr) (ch : ChunkHdr) (data : List Byte) (rank : Nat) (x : CollIn) : CollIn :=
  if (match s.collRun (collKey h).1 (collKey h).2.1 with | some r => r.desc.digest != ch.digest | none => false) then x.noteDigest rank ch.digest
  else (x.noteDigest rank ch.digest).addPiece ch.child.toNat ch.level.toNat ch.offset.toNat data

theorem exec_collData (ch : ChunkHdr) (data : List Byte)
    (hfree : ∀ r, s.collRun (collKey h).1 (collKey h).2.1 = some r → s.rangeHeld r.desc.dst (dstLen r.desc r.n (s.ownIndex r)) = false) :
    exec (.collData port h ch data) s = .next (collPacket s port.toNat h (16 + data.length) fun s rank x => s.takeElems h ch data rank x) := by
  show execCollData port h ch data s = _
  rw [execCollData, powered_on _ hpow]
  dsimp only
  rw [if_neg]
  · rfl
  · rw [hhold, Bool.false_or, Bool.not_eq_true]
    split
    · next r hr => exact hfree r hr
    · rfl

end

/-- What elements bring, by the run of their key. -/
theorem takeElems_agrees {s : State} {h : PktHdr} {ch : ChunkHdr} {data : List Byte} {rank : Nat} {x : CollIn}
    (hagree : ∀ r, s.collRun (collKey h).1 (collKey h).2.1 = some r → r.desc.digest = ch.digest) :
    s.takeElems h ch data rank x = (x.noteDigest rank ch.digest).addPiece ch.child.toNat ch.level.toNat ch.offset.toNat data := by
  unfold State.takeElems
  split
  · next r hr => simp [hagree r hr]
  · rfl

theorem takeElems_differs {s : State} {h : PktHdr} {ch : ChunkHdr} {data : List Byte} {rank : Nat} {x : CollIn} {r : CollRun}
    (hr : s.collRun (collKey h).1 (collKey h).2.1 = some r) (hdiffer : r.desc.digest ≠ ch.digest) :
    s.takeElems h ch data rank x = x.noteDigest rank ch.digest := by
  simp [State.takeElems, hr, hdiffer]

end Sys2Proof.Machine

open Sys2Proof Sys2Proof.Machine

/-- Settles O38: each packet is taken with what it brings, and the run of its key goes on from there. -/
theorem collectivePacketsArrive : Obligations.CollectivePacketsArrive := by
  unfold Obligations.CollectivePacketsArrive
  intro s port h n hpow hhold hdst hcrc hjob hfresh g id rank x takes
  have hx : x.Keyed g id := s.collIn_keyed g id
  have htakes {i : Instr} {payload : Nat} {apply : State → Nat → CollIn → CollIn} {y : CollIn}
      (hexec : exec i s = .next (collPacket s port.toNat h payload apply)) (hy : y.Keyed g id)
      (happly : apply (bump s (portBase port.toNat) 1 (40 + payload)) rank x = y) : takes i y := by
    obtain ⟨u, hu, ht⟩ := collPacket_taken hdst hcrc hjob hfresh hexec hy happly
    exact ⟨u, hu, ht.kept, ht.runs, ht.window, ht.same, ht.acked⟩
  refine ⟨htakes (exec_collCredit hpow hhold) hx rfl, fun body => htakes (exec_collCtrl hpow hhold body) (hx.applyCtrl rank body) rfl,
    fun ch data hfree => ?_⟩
  have hrun (b k : Nat) : (bump s b 1 k).collRun g id = s.collRun g id := collRun_congr (bump_collEng ..) g id
  have hnoted := hx.noteDigest rank ch.digest
  have hdata := exec_collData (port := port) hpow hhold ch data hfree
  intro y
  refine ⟨fun hagree => htakes hdata (hnoted.addPiece ..) ?_, fun ⟨r, hr, hdiffer⟩ => htakes hdata hnoted ?_⟩
  · exact takeElems_agrees fun r hr => hagree r ((hrun ..).symm.trans hr)
  · exact takeElems_differs ((hrun ..).trans hr) hdiffer
end

section
/-! The acceptance of collectives, of batches and of groups (R401, R402, R405, R407, R427). -/

namespace Sys2Proof.Machine

theorem AccessFrame.sync {s u : State} (h : AccessFrame s u) : u.sync = s.sync := by
  obtain ⟨_, _, _, _, _, _, _, _, _, _, rfl⟩ := h.same; rfl

theorem groupRanks_congr {s u : State} (hjob : u.job = s.job) (heng : u.collEng = s.collEng) (g : Nat) : u.groupRanks g = s.groupRanks g := by
  simp only [State.groupRanks, State.members, hjob, heng]

theorem State.started_congr {s u : State} (h : u.hif.outCmds = s.hif.outCmds) {c : CmdCtx} (hs : s.started c) : u.started c := by
  rw [State.started, h]
  exact hs

/-! ## The START condition (R407) -/

/-- A counter field names a counter, or none. -/
def CounterOrNone (counter : Nat) : Prop := counter = 0xFFFF ∨ counter < 16384

theorem counterOrNone_of {start notify : Nat} (h : badCounter start notify = false) : CounterOrNone start := by
  unfold badCounter at h
  simp only [Bool.or_eq_false_iff, Bool.and_eq_false_iff, decide_eq_false_iff_not, bne_eq_false_iff_eq, not_le] at h
  obtain ⟨⟨hstart, -⟩, -⟩ := h
  exact hstart.symm

/-- A descriptor that is not refused names a counter, or none, in START_CNT (R405). -/
theorem collFault_startCnt {s : State} {d : CollDesc} {batched : Bool} (h : collFault s d batched = 0) : CounterOrNone d.startCnt := by
  refine counterOrNone_of (notify := d.notifyCnt) ?_
  rw [← Bool.not_eq_true]
  intro hbad
  unfold collFault at h
  simp only [hbad, if_true] at h
  split_ifs at h

theorem waitStart_none {s : State} {c : CmdCtx} {counter : Nat} {value : U64} (h : counter = 0xFFFF ∨ value.toNat ≤ s.syncVal counter) :
    waitStart s c counter value = s := by
  rw [waitStart, if_pos (by simpa using h)]

/-- A wait for a START_CNT is entered, or none is needed. -/
theorem waitStart_frame (s : State) (c : CmdCtx) {counter : Nat} (value : U64) (h : CounterOrNone counter) :
    ∃ ws, EventFrame { s with sync := { s.sync with waits := ws } } (waitStart s c counter value) := by
  unfold waitStart
  split
  · exact ⟨s.sync.waits, EventFrame.refl s⟩
  · next hwait =>
    have hlt : counter < 16384 := h.resolve_left fun hnone => hwait (by simp [hnone])
    exact ⟨_, addWait_frame s (.host c) value.toNat hlt⟩

/-- `u` is `r` with a command started, the collective engine as given, and perhaps a wait for a START_CNT. -/
structure HeldFrom (r : State) (c : CmdCtx) (e : CollEngine) (u : State) : Prop where
  started : u.started c
  engine  : u.collEng = e
  frame   : RingFrame { r with collEng := e, sync := u.sync } u
  values  : ∀ k, u.syncVal k = r.syncVal k

/-- The state in which a collective or a batch is held: its command started, and its START_CNT waited for. -/
def heldColl (r : State) (c : CmdCtx) (e : CollEngine) (counter : Nat) (value : U64) : State :=
  waitStart { markStarted r c with collEng := e } c counter value

theorem heldColl_held {r : State} {c : CmdCtx} (hout : ∃ o ∈ r.hif.outCmds, o.ctx = c) (e : CollEngine) {counter : Nat} (value : U64)
    (h : CounterOrNone counter) : HeldFrom r c e (heldColl r c e counter value) := by
  obtain ⟨ws, hframe⟩ := waitStart_frame { markStarted r c with collEng := e } c value h
  refine ⟨State.started_congr (SameBut.hif_outCmds hframe.same) (markStarted_started hout), hframe.ring.collEng, ?_, fun k => ?_⟩
  · have hsync := hframe.ring.sync
    rw [heldColl, hsync]
    exact (frame_hif { r with collEng := e, sync := { r.sync with waits := ws } } _).trans hframe.ring
  · exact syncVal_congr (t := heldColl r c e counter value) hframe.ring.sync k

theorem heldColl_noWait {r : State} {c : CmdCtx} {e : CollEngine} {counter : Nat} {value : U64}
    (h : counter = 0xFFFF ∨ value.toNat ≤ r.syncVal counter) : (heldColl r c e counter value).sync = r.sync := by
  have hnone : heldColl r c e counter value = { markStarted r c with collEng := e } := waitStart_none h
  rw [hnone]
  rfl

/-- `r` is `s` with a command accepted and its descriptor read: the engine, the job and the counters are as they were. -/
structure ReadFrom (s : State) (c : CmdCtx) (r : State) : Prop where
  engine : r.collEng = s.collEng
  sync   : r.sync = s.sync
  job    : r.job = s.job
  out    : ∃ o ∈ r.hif.outCmds, o.ctx = c

theorem readFrom_of {s r : State} {c : CmdCtx} {op : Nat} (h : AccessFrame (accept s c op) r) : ReadFrom s c r :=
  ⟨h.collEng.trans (accept_frame ..).collEng, h.sync.trans (accept_frame ..).sync, h.job.trans (accept_frame ..).job,
    h.outCmds.symm ▸ accept_outstanding ..⟩

theorem ReadFrom.groupRanks {s r : State} {c : CmdCtx} (h : ReadFrom s c r) (g : Nat) : r.groupRanks g = s.groupRanks g :=
  groupRanks_congr h.job h.engine g

/-! ## COLL (R402, R405, R407) -/

section
variable {s r : State} {c : CmdCtx} {desc : U64} {bs : List Byte} (h : AtTurn s c 0x0040 [opnd 8 8 desc.toNat])
  (hheld : s.rangeHeld desc.toNat 128 = false) (hread : readVA (accept s c 0x40) agentHost desc.toNat 128 = (r, 0, bs))
include h hheld hread

theorem exec_coll_refused (hfault : collFault r (parseColl bs) false ≠ 0) :
    CompletesIn (.coll c desc) c s (refusedRecord r (parseColl bs) (collFault r (parseColl bs) false)) (collFault r (parseColl bs) false) 0 := by
  show execColl c desc s = _
  rw [execColl, if_neg (by simp [hheld]), onRing_ready _ h.1 h.2]
  simp only [hread, bne_iff_ne, ne_eq, hfault, not_false_eq_true, if_true]

/-- The run that COLL holds. -/
def acceptedRun (r : State) (d : CollDesc) (c : CmdCtx) : CollRun :=
  newRun r d c ((r.groupRanks d.group).getD []) none (if d.op = 10 then r.submittedBefore c else [])

theorem exec_coll_held (hfault : collFault r (parseColl bs) false = 0) :
    StartsIn (.coll c desc) c s (heldColl r c { r.collEng with runs := r.collEng.runs ++ [acceptedRun r (parseColl bs) c] }
      (parseColl bs).startCnt (parseColl bs).startValue) := by
  show execColl c desc s = _
  rw [execColl, if_neg (by simp [hheld]), onRing_ready _ h.1 h.2]
  simp only [hread, hfault, bne_self_eq_false, Bool.false_eq_true, if_false]
  rfl

end

/-! ## COLL_BATCH (R427) -/

/-- The runs of a batch. -/
def batchRunsOf (r : State) (ds : List CollDesc) (c : CmdCtx) (k : Nat) : List CollRun :=
  ds.map (fun d => newRun r d c ((r.groupRanks d.group).getD []) (some k) [])

/-- The batch that a header gives. -/
def headedBatch (h : List Byte) (c : CmdCtx) (k : Nat) : Batch :=
  { number := k, batchId := BitVec.ofNat 32 (fieldLE h 4 4), cmd := c, startCnt := fieldLE h 0xA 2, notifyCnt := fieldLE h 0xC 2,
    startValue := BitVec.ofNat 64 (fieldLE h 0x10 8), result := fieldLE h 0x18 8 }

/-- The engine with a batch held behind what it held before. -/
def batchEngine (r : State) (h : List Byte) (ds : List CollDesc) (c : CmdCtx) : CollEngine :=
  { r.collEng with runs := r.collEng.runs ++ batchRunsOf r ds c r.collEng.nextBatch,
                   batches := r.collEng.batches ++ [headedBatch h c r.collEng.nextBatch], nextBatch := r.collEng.nextBatch + 1 }

/-- The descriptors of a batch's entries. -/
def entryDescs (bs : List Byte) (n : Nat) : List CollDesc := (List.range n).map (fun k => parseColl (slice bs (128 * k) 128))

/-- What a batch comes to once its entries have been read: it is refused whole, or held. -/
def acceptBatch (e : State) (h : List Byte) (ds : List CollDesc) (c : CmdCtx) : State :=
  if e.badBatch ds then finish e c 0x840B 0
  else match (ds.map (fun d => collFault e d true)).filter (fun st => st != 0) with
    | st :: _ => finish e c st 0
    | [] =>
      if badCounter (fieldLE h 0xA 2) (fieldLE h 0xC 2) then finish e c 0x840C 0
      else if 256 ≤ e.collEng.accepted then finish e c 0x8409 0
      else heldColl e c (batchEngine e h ds c) (fieldLE h 0xA 2) (BitVec.ofNat 64 (fieldLE h 0x10 8))

section
variable {s r : State} {c : CmdCtx} {header : U64} {hd : List Byte} (h : AtTurn s c 0x0041 [opnd 8 8 header.toNat])
  (hheld : s.rangeHeld header.toNat 64 = false) (hall : s.rangeHeld header.toNat (s.batchLen header.toNat) = false)
  (hread : readVA (accept s c 0x41) agentHost header.toNat 64 = (r, 0, hd))
  (htype : fieldLE hd 0 2 = 0x31) (hversion : fieldLE hd 2 2 = 1) (hres : fieldLE hd 0xE 2 = 0) (hres' : fieldLE hd 0x20 32 = 0)
include h hheld hall hread htype hversion hres hres'

theorem exec_collBatch_count (hn : fieldLE hd 8 2 = 0 ∨ 64 < fieldLE hd 8 2) : CompletesIn (.collBatch c header) c s r 0x840B 0 := by
  show execCollBatch c header s = _
  rw [execCollBatch, if_neg (by simp [hheld, hall]), onRing_ready _ h.1 h.2]
  simp only [hread, htype, hversion, hres, hres', bne_self_eq_false, Bool.or_self, Bool.false_eq_true, if_false, Bool.or_eq_true,
    decide_eq_true_eq, hn, if_true]

/-- The entries of a batch of 1 to 64 are read, and the batch is refused whole or held. -/
theorem exec_collBatch_entries (hpos : 0 < fieldLE hd 8 2) (hmax : fieldLE hd 8 2 ≤ 64) {e : State} {bs : List Byte}
    (hentries : readVA r agentHost (header.toNat + 64) (128 * fieldLE hd 8 2) = (e, 0, bs)) :
    StartsIn (.collBatch c header) c s (acceptBatch e hd (entryDescs bs (fieldLE hd 8 2)) c) := by
  show execCollBatch c header s = _
  rw [execCollBatch, if_neg (by simp [hheld, hall]), onRing_ready _ h.1 h.2]
  simp only [hread, htype, hversion, hres, hres', bne_self_eq_false, Bool.or_self, Bool.false_eq_true, if_false, hpos.ne', Nat.not_lt.2 hmax,
    decide_false, hentries]
  rfl

end

theorem acceptBatch_bad {e : State} {hd : List Byte} {ds : List CollDesc} {c : CmdCtx} (hbad : e.badBatch ds = true) :
    acceptBatch e hd ds c = finish e c 0x840B 0 := if_pos hbad

theorem acceptBatch_held {e : State} {hd : List Byte} {ds : List CollDesc} {c : CmdCtx} (hgood : e.badBatch ds = false)
    (hfaults : ∀ d ∈ ds, collFault e d true = 0) (hcounter : badCounter (fieldLE hd 0xA 2) (fieldLE hd 0xC 2) = false)
    (hroom : e.collEng.accepted < 256) : acceptBatch e hd ds c =
      heldColl e c (batchEngine e hd ds c) (fieldLE hd 0xA 2) (BitVec.ofNat 64 (fieldLE hd 0x10 8)) := by
  have hnone : (ds.map (fun d => collFault e d true)).filter (fun st => st != 0) = [] := by
    rw [List.filter_eq_nil_iff]
    intro st hst
    obtain ⟨d, hd, rfl⟩ := List.mem_map.1 hst
    simp [hfaults d hd]
  simp only [acceptBatch, hgood, hnone, hcounter, Nat.not_le.2 hroom, Bool.false_eq_true, if_false]

/-! ## COLL_GROUP (R401) -/

/-- A list whose neighbours rise is strictly ascending. -/
theorem rising_iff (l : List Nat) : (l.zip (l.drop 1)).all (fun p => p.1 < p.2) = true ↔ l.Pairwise (· < ·) := by
  rw [← List.isChain_iff_pairwise]
  induction l with
  | nil => simp
  | cons a l ih =>
    cases l with
    | nil => simp
    | cons b l =>
      rw [List.isChain_cons_cons, ← ih]
      simp

/-- A number and a list of ranks that cannot be registered as a group. -/
def groupRefused (r : State) (group : U16) (ranks : List Nat) : Bool :=
  group = 0 || 63 < group.toNat || !(ranks.zip (ranks.drop 1)).all (fun p => p.1 < p.2) || !ranks.contains r.rank ||
  ranks.any (fun x => r.members.length ≤ x)

theorem groupRefused_iff {r : State} {group : U16} {ranks : List Nat} : groupRefused r group ranks = true ↔
    group = 0 ∨ 63 < group.toNat ∨ ¬ranks.Pairwise (· < ·) ∨ r.rank ∉ ranks ∨ ∃ x ∈ ranks, r.members.length ≤ x := by
  simp only [groupRefused, ← rising_iff, Bool.or_eq_true, decide_eq_true_eq, Bool.not_eq_true', Bool.not_eq_true, List.contains_eq_mem,
    decide_eq_false_iff_not, List.any_eq_true, or_assoc]

/-- A group is registered, or its list refused. -/
theorem exec_collGroup {s r : State} {c : CmdCtx} {list : U64} {group count : U16} {bs : List Byte}
    (h : AtTurn s c 0x0042 [opnd 8 8 list.toNat, opnd 0x10 2 group.toNat, opnd 0x12 2 count.toNat])
    (hheld : s.rangeHeld list.toNat (4 * count.toNat) = false)
    (hread : readVA (accept s c 0x42) agentHost list.toNat (4 * count.toNat) = (r, 0, bs)) :
    exec (.collGroup c list group count) s = .next (afterCommand
      (if groupRefused r group (elemsOf 4 bs count.toNat) then finish r c 0x8407 0
      else finish { r with collEng := { r.collEng with groups := kvSet r.collEng.groups group.toNat (elemsOf 4 bs count.toNat) } } c 0 0) c) := by
  show execCollGroup c list group count s = _
  rw [execCollGroup, if_neg (by simp [hheld]), onRing_ready _ h.1 h.2]
  simp only [hread]
  rfl

end Sys2Proof.Machine

open Sys2Proof Sys2Proof.Machine

/-- Settles O29: a descriptor is read once, and what acceptance and the reads leave alone is what the engine held before. -/
theorem collectivesAreAccepted : Obligations.CollectivesAreAccepted := by
  unfold Obligations.CollectivesAreAccepted
  intro s c
  refine ⟨?_, ?_, ?_⟩
  · intro desc h hheld r d hst
    have hread : readVA (accept s c 0x40) agentHost desc.toNat 128 = (r.1, 0, r.2.2) := by rw [← hst]
    have hr : ReadFrom s c r.1 := readFrom_of (readVA_access_of hread)
    refine ⟨exec_coll_refused h hheld hread, fun hfault => ?_⟩
    have hu := heldColl_held hr.out { r.1.collEng with runs := r.1.collEng.runs ++ [acceptedRun r.1 d c] } d.startValue (collFault_startCnt hfault)
    refine ⟨_, acceptedRun r.1 d c, exec_coll_held h hheld hread hfault, hu.started, ?_, rfl, rfl, rfl, rfl, ?_, ?_, fun k => ?_, fun hnow => ?_⟩
    · rw [hu.engine, hr.engine]
    · exact congrArg (Option.getD · []) (hr.groupRanks d.group)
    · rw [hu.engine]
      exact hu.frame
    · exact (hu.values k).trans (syncVal_congr hr.sync k)
    · rw [← syncVal_congr hr.sync] at hnow
      exact (heldColl_noWait hnow).trans hr.sync
  · intro header h hheld hall r n hst htype hversion hres hres'
    have hread : readVA (accept s c 0x41) agentHost header.toNat 64 = (r.1, 0, r.2.2) := by rw [← hst]
    refine ⟨exec_collBatch_count h hheld hall hread htype hversion hres hres', fun hpos hmax => ?_⟩
    intro e ds hst'
    have hentries : readVA r.1 agentHost (header.toNat + 64) (128 * n) = (e.1, 0, e.2.2) := by rw [← hst']
    have he : ReadFrom s c e.1 := readFrom_of ((readVA_access_of hread).trans (readVA_access_of hentries))
    have hexec : StartsIn (.collBatch c header) c s (acceptBatch e.1 r.2.2 ds c) :=
      exec_collBatch_entries h hheld hall hread htype hversion hres hres' hpos hmax hentries
    refine ⟨fun hbad => ?_, fun hgood hfaults hcounter hroom => ?_⟩
    · rwa [acceptBatch_bad hbad] at hexec
    · rw [acceptBatch_held hgood hfaults hcounter (by rwa [he.engine])] at hexec
      have hu := heldColl_held he.out (batchEngine e.1 r.2.2 ds c) (BitVec.ofNat 64 (fieldLE r.2.2 0x10 8)) (counterOrNone_of hcounter)
      refine ⟨_, headedBatch r.2.2 c s.collEng.nextBatch, batchRunsOf e.1 ds c s.collEng.nextBatch, hexec, hu.started, ?_, rfl, rfl, ?_, ?_, ?_,
        fun x hx => ?_⟩
      · rw [hu.engine, batchEngine, he.engine]
      · rw [hu.engine, batchEngine, he.engine]
      · rw [hu.engine, batchEngine, he.engine]
      · simp [batchRunsOf, newRun, Function.comp_def]
      · obtain ⟨d, -, rfl⟩ := List.mem_map.1 hx
        exact ⟨rfl, rfl⟩
  · intro list group count h hheld r ranks hst
    have hread : readVA (accept s c 0x42) agentHost list.toNat (4 * count.toNat) = (r.1, 0, r.2.2) := by rw [← hst]
    have hr : ReadFrom s c r.1 := readFrom_of (readVA_access_of hread)
    have hexec := exec_collGroup h hheld hread
    have hrank : r.1.rank = s.rank := by simp only [State.rank, hr.job]
    have hmembers : r.1.members = s.members := by simp only [State.members, hr.job]
    have hrefused := groupRefused_iff (r := r.1) (group := group) (ranks := ranks)
    rw [hrank, hmembers] at hrefused
    refine ⟨fun hpos hmax hrising hown hranks => ?_, fun hbad => ?_⟩
    · have hok : groupRefused r.1 group (elemsOf 4 r.2.2 count.toNat) = false := by
        rw [Bool.eq_false_iff, Ne, hrefused]
        rintro (h0 | h63 | hfall | hout | ⟨x, hx, hlarge⟩)
        · simp [h0] at hpos
        · omega
        · exact hfall hrising
        · exact hout hown
        · exact absurd (hranks x hx) (Nat.not_lt.2 hlarge)
      rw [hok] at hexec
      exact ⟨_, hexec, rfl, by rw [← hr.engine]⟩
    · have href : groupRefused r.1 group (elemsOf 4 r.2.2 count.toNat) = true := by
        rw [hrefused]
        tauto
      rw [href] at hexec
      exact hexec
end

section
/-! The host's sync-counter operations, registrations and messages (R390 to R392, R434, R435, R560). -/

namespace Sys2Proof.Machine

/-! ## What an add or a set to an own counter changes (R434) -/

/-- `u` is `s` but for the values of sync counters, the wraps noted, counting, events and the host interface's records. -/
structure CounterFrame (s u : State) : Prop where
  frame : RingFrame { s with sync := u.sync } u
  waits : u.sync.waits = s.sync.waits

theorem RingFrame.withSync {s u : State} (h : RingFrame s u) (y : SyncState) : RingFrame { s with sync := y } { u with sync := y } := by
  refine ⟨?_, h.regs, h.host⟩
  obtain ⟨_, _, _, hu⟩ := h.same
  exact ⟨_, _, _, by rw [hu]⟩

theorem RingFrame.counter {s u : State} (h : RingFrame s u) : CounterFrame s u := ⟨h.withSync u.sync, congrArg SyncState.waits h.sync⟩

namespace CounterFrame

variable {s t u : State}

theorem trans (h1 : CounterFrame s t) (h2 : CounterFrame t u) : CounterFrame s u :=
  ⟨(h1.frame.withSync u.sync).trans h2.frame, h2.waits.trans h1.waits⟩

theorem noteWrapped (s : State) (l : List Nat) : CounterFrame s { s with sync := { s.sync with wrapped := l } } := ⟨RingFrame.refl _, rfl⟩

theorem storeSync (s : State) (n v : Nat) : CounterFrame s (storeSync s n v) := ⟨RingFrame.refl _, rfl⟩

end CounterFrame

theorem noteWrap_counterFrame (s : State) {n : Nat} (sum : Nat) (hn : n < 16384) : CounterFrame s (noteWrap s n sum) := by
  have hcount : EventFrame s (bump s (collBase (syncDie n)) 8 1) := bump_frame s 1 (collBase_counter _ (syncDie_lt hn) 8 (by decide))
  unfold noteWrap
  dsimp only
  split
  · exact (RingFrame.refl s).counter
  · split
    · exact hcount.ring.counter
    · exact (hcount.ring.counter.trans (.noteWrapped ..)).trans (raise_frame ..).ring.counter

theorem applySync_counterFrame (s : State) (setOp : Bool) {n : Nat} (v : Nat) (hn : n < 16384) : CounterFrame s (applySync s setOp n v) := by
  unfold applySync
  split
  · exact (CounterFrame.storeSync ..).trans (syncCatch_frame ..).ring.counter
  · rw [syncAdd_eq]
    exact ((CounterFrame.storeSync ..).trans (noteWrap_counterFrame _ _ hn)).trans (syncCatch_frame ..).ring.counter

/-! ## SYNC_OP at its turn (R560) -/

theorem updFirst_mem {α : Type} {p : α → Bool} {f : α → α} {l : List α} {a : α} (h : a ∈ updFirst p f l) :
    a ∈ l ∨ ∃ b ∈ l, p b = true ∧ a = f b := by
  induction l with
  | nil => cases h
  | cons x l ih =>
    unfold updFirst at h
    split at h
    · next hx =>
      obtain rfl | htail := List.mem_cons.1 h
      · exact .inr ⟨x, List.mem_cons_self, hx, rfl⟩
      · exact .inl (List.mem_cons_of_mem _ htail)
    · obtain rfl | htail := List.mem_cons.1 h
      · exact .inl List.mem_cons_self
      · obtain hl | ⟨b, hb, hp⟩ := ih htail
        · exact .inl (List.mem_cons_of_mem _ hl)
        · exact .inr ⟨b, List.mem_cons_of_mem _ hb, hp⟩

/-- A command has no earlier one on its ring when it is the ring's only outstanding command. -/
theorem earlierOnRing_false {s : State} {c : CmdCtx} (h : ∀ o ∈ s.hif.outCmds, o.ctx.sq = c.sq → o.ctx = c) : s.earlierOnRing c = false := by
  rw [State.earlierOnRing, List.any_eq_false]
  intro o ho hring
  have hother := List.mem_takeWhile_imp ho
  exact absurd (h o (List.takeWhile_subset _ ho) (by simpa using hring)) (by simpa using hother)

/-- A SYNC_OP accepted and started, with the operations that wait. -/
def syncOpStarted (s : State) (c : CmdCtx) (ops : List SyncOpState) : State :=
  markStarted { accept s c 0x44 with hif := { (accept s c 0x44).hif with syncOps := ops } } c

/-- The only command of its ring has no earlier one when it is accepted and started. -/
theorem syncOpStarted_alone {s : State} {c : CmdCtx} (hidle : s.ringBusy c.sq.toNat = false) (ops : List SyncOpState) :
    (syncOpStarted s c ops).earlierOnRing c = false := by
  have haccepted : ∀ o ∈ (accept s c 0x44).hif.outCmds, o.ctx.sq = c.sq → o.ctx = c := by
    intro o ho hring
    rw [accept_outCmds] at ho
    obtain hold | hnew := List.mem_append.1 ho
    · have hfree := List.any_eq_false.1 hidle o hold
      simp [hring] at hfree
    · rw [List.mem_singleton.1 hnew]
  refine earlierOnRing_false fun o ho hring => ?_
  obtain hold | ⟨b, hb, -, rfl⟩ := updFirst_mem ho
  · exact haccepted o hold hring
  · exact haccepted b hb hring

/-- The only waiting SYNC_OP acts on its own counter when no earlier command of its ring is outstanding. -/
theorem actSyncOps_single {s : State} {k : SyncOpState} (hops : s.hif.syncOps = [k]) (hown : k.target = none)
    (hfirst : s.earlierOnRing k.cmd = false) : actSyncOps 1 s =
      finishOne (applySync { s with hif := { s.hif with syncOps := [] } } k.setOp k.counter k.value.toNat) k.cmd 0 0 := by
  simp only [actSyncOps, hops, hfirst, hown, List.find?_cons, dropFirst, Bool.not_false, beq_self_eq_true, if_true]

theorem memberId_congr {s u : State} (h : u.job = s.job) (r : Nat) : u.memberId r = s.memberId r := by
  simp only [State.memberId, State.members, h]

theorem rankOf_congr {s u : State} (h : u.job = s.job) (id : Nat) : u.rankOf id = s.rankOf id := by
  simp only [State.rankOf, State.members, h]

theorem RingFrame.memberTarget {s u : State} (h : RingFrame s u) (m : U32) : memberTarget u m = memberTarget s m := by
  have hfab : u.fabId = s.fabId := fabId_congr (h.regs _ (by decide))
  have hrank : u.rank = s.rank := by rw [State.rank, h.job]; rfl
  rw [Machine.memberTarget, hrank, memberId_congr h.job, hfab]
  rfl

/-- `u` is `s` with a value added to one counter, or set in it. -/
structure Synced (s : State) (setOp : Bool) (n v : Nat) (u : State) : Prop where
  counter : CounterFrame s u
  self    : u.syncVal n = appliedSync s setOp n v
  others  : ∀ k, k ≠ n → u.syncVal k = s.syncVal k

theorem RingFrame.synced {s t : State} (h : RingFrame s t) (setOp : Bool) {n : Nat} (v : Nat) (hn : n < 16384) :
    Synced s setOp n v (applySync t setOp n v) := by
  have hval (k : Nat) : t.syncVal k = s.syncVal k := syncVal_congr h.sync k
  refine ⟨h.counter.trans (applySync_counterFrame t setOp v hn), ?_, fun k hk => ?_⟩
  · rw [applySync_syncVal, if_pos rfl, appliedSync, hval, appliedSync]
  · rw [applySync_syncVal, if_neg hk, hval]

/-- A SYNC_OP on an own counter, as it waits for its turn. -/
def ownSyncOp (c : CmdCtx) (setOp : Bool) (value : U64) (counter : U16) : SyncOpState :=
  { cmd := c, setOp := setOp, target := none, counter := counter.toNat, value := value }

/-- SYNC_OP on an own counter acts at once when its ring has nothing else outstanding. -/
theorem runSyncOp_acts {s : State} {c : CmdCtx} {member : U32} {counter : U16} (setOp : Bool) (value : U64) (hn : counter.toNat < 16384)
    (hown : memberTarget s member = .ok none) (hmirror : counter ≠ 16383) (hops : s.hif.syncOps = []) (hidle : s.ringBusy c.sq.toNat = false) :
    ∃ u, runSyncOp (accept s c 0x44) c setOp value member counter = finishOne u c 0 0 ∧ Synced s setOp counter.toNat value.toNat u := by
  have hlast : counter.toNat ≠ 16383 := fun h => hmirror (BitVec.eq_of_toNat_eq h)
  have hwaiting : (accept s c 0x44).hif.syncOps = [] := (accept_syncOps ..).trans hops
  have hrun : runSyncOp (accept s c 0x44) c setOp value member counter = actSyncOps 1 (syncOpStarted s c [ownSyncOp c setOp value counter]) := by
    unfold runSyncOp
    simp only [Nat.not_le.2 hn, if_false, (accept_frame s c 0x44).memberTarget, hown, hlast, decide_false, Bool.false_and, Bool.false_eq_true,
      hwaiting, List.nil_append, List.length_singleton]
    rfl
  have hacts := actSyncOps_single (k := ownSyncOp c setOp value counter) rfl rfl (syncOpStarted_alone hidle _)
  exact ⟨_, hrun.trans hacts, ((accept_frame s c 0x44).trans (frame_hif ..)).synced setOp value.toNat hn⟩

theorem exec_syncOpAdd {s : State} {c : CmdCtx} {value : U64} {member : U32} {counter : U16}
    (h : AtTurn s c 0x0044 (syncOperands value member counter 1)) : exec (.syncOpAdd c value member counter) s =
      .next (afterCommand (runSyncOp (accept s c 0x44) c false value member counter) c) := by
  show execSyncOpAdd c value member counter s = _
  exact onRing_ready _ h.1 h.2

theorem exec_syncOpSet {s : State} {c : CmdCtx} {value : U64} {member : U32} {counter : U16}
    (h : AtTurn s c 0x0044 (syncOperands value member counter 2)) : exec (.syncOpSet c value member counter) s =
      .next (afterCommand (runSyncOp (accept s c 0x44) c true value member counter) c) := by
  show execSyncOpSet c value member counter s = _
  exact onRing_ready _ h.1 h.2

/-! ## SYNC_WAIT (R435) -/

section
variable {s : State} {c : CmdCtx} {value : U64} {counter : U16} (hn : counter.toNat < 16384)
  (h : AtTurn s c 0x0045 [opnd 8 8 value.toNat, opnd 0x10 2 counter.toNat])
include hn h

theorem exec_syncWait_met (hmet : value.toNat ≤ s.syncVal counter.toNat) :
    CompletesIn (.syncWait c value counter) c s (accept s c 0x45) 0 (s.syncVal counter.toNat) := by
  show execSyncWait c value counter s = _
  rw [execSyncWait, onRing_ready _ h.1 h.2]
  simp only [Nat.not_le.2 hn, syncVal_congr (accept_frame s c 0x45).sync, hmet, if_true, if_false]

theorem exec_syncWait_waits (hwait : s.syncVal counter.toNat < value.toNat) :
    StartsIn (.syncWait c value counter) c s (addWait (markStarted (accept s c 0x45) c) (.host c) counter.toNat value.toNat) := by
  show execSyncWait c value counter s = _
  rw [execSyncWait, onRing_ready _ h.1 h.2]
  simp only [Nat.not_le.2 hn, syncVal_congr (accept_frame s c 0x45).sync, Nat.not_le.2 hwait, if_false]

end

/-- A started command that waits for a counter is outstanding, with its wait behind those that stand. -/
theorem addWait_started {s v : State} {c : CmdCtx} (hv : RingFrame s v) (hout : v.started c) {n : Nat} (hn : n < 16384) (value : U64) :
    let u := addWait v (.host c) n value.toNat
    RingFrame { s with sync := u.sync } u ∧ u.started c ∧ (∀ k, u.syncVal k = s.syncVal k) ∧
      ∃ w, u.sync.waits = s.sync.waits ++ [w] ∧ w.who = .host c ∧ w.counter = n ∧ w.value = value := by
  intro u
  have hwait := addWait_frame v (.host c) value.toNat hn
  have hsync : u.sync = { s.sync with waits := s.sync.waits ++ [v.newWait (.host c) n value.toNat] } := by
    rw [← hv.sync]
    exact hwait.ring.sync
  refine ⟨?_, State.started_congr (SameBut.hif_outCmds hwait.same) hout, fun k => ?_, v.newWait (.host c) n value.toNat, ?_, rfl, rfl, ?_⟩
  · rw [hsync, ← hv.sync]
    exact (hv.withSync _).trans hwait.ring
  · rw [State.syncVal, hsync]
    rfl
  · rw [hsync]
  · simp [State.newWait]

/-! ## Bulk registrations (R392) -/

section
variable {s : State} {c : CmdCtx} {key : U16}

theorem exec_bufReg {vaddr bytes : U64} (h : AtTurn s c 0x0052 [opnd 8 8 vaddr.toNat, opnd 0x10 8 bytes.toNat, opnd 0x18 2 key.toNat])
    (hkey : key ≠ 0xFFFF) (hroom : s.fab.bulkRegs.length < 4096) : CompletesIn (.bufReg c vaddr bytes key) c s
      { accept s c 0x52 with
        fab := { s.fab with bulkRegs := s.fab.bulkRegs.filter (fun e => e.1 != key.toNat) ++ [(key.toNat, vaddr, bytes)] } } 0 0 := by
  have hfew : ((s.fab.bulkRegs.filter (fun e => e.1 != key.toNat)).filter (fun e => e.1 != 0xFFFF)).length < 4096 :=
    ((List.length_filter_le ..).trans (List.length_filter_le ..)).trans_lt hroom
  show execBufReg c vaddr bytes key s = _
  rw [execBufReg, onRing_ready _ h.1 h.2]
  simp only [(accept_frame s c 0x52).fab, if_neg hkey, if_neg (Nat.not_le.2 hfew)]

theorem exec_bufDereg (h : AtTurn s c 0x0053 [opnd 8 2 key.toNat]) (hkey : key ≠ 0xFFFF) : CompletesIn (.bufDereg c key) c s
    { accept s c 0x53 with fab := { s.fab with bulkRegs := s.fab.bulkRegs.filter (fun e => e.1 != key.toNat) } } 0 0 := by
  show execBufDereg c key s = _
  rw [execBufDereg, onRing_ready _ h.1 h.2]
  simp only [(accept_frame s c 0x53).fab, if_neg hkey]

theorem exec_bufDereg_reserved (h : AtTurn s c 0x0053 [opnd 8 2 key.toNat]) (hkey : key = 0xFFFF) :
    CompletesIn (.bufDereg c key) c s (accept s c 0x53) 0x8708 0 := by
  show execBufDereg c key s = _
  rw [execBufDereg, onRing_ready _ h.1 h.2]
  simp only [if_pos hkey]

end

/-! ## Messages (R390, R391) -/

/-- The request of a MSG_SEND. -/
def messageReq (v : State) (c : CmdCtx) (d : Nat) (tag : U64) (queue : BitVec 8) (bs : List Byte) : TxReq :=
  newReq v .msg (BitVec.ofNat 16 d) queue.toNat 0 tag.toNat (msgSlot queue.toNat d) bs (.host c)

theorem exec_msgSend {s v : State} {c : CmdCtx} {src tag : U64} {member : U32} {bytes : U16} {queue : BitVec 8} {d : Nat} {bs : List Byte}
    (h : AtTurn s c 0x0050 [opnd 8 8 src.toNat, opnd 0x10 8 tag.toNat, opnd 0x18 4 member.toNat, opnd 0x1C 2 bytes.toNat, opnd 0x1E 1 queue.toNat])
    (hheld : s.rangeHeld src.toNat bytes.toNat = false) (hbytes : bytes.toNat ≤ 1024) (hmember : s.memberId member.toNat = some d)
    (hread : readVA (accept s c 0x50) agentHost src.toNat bytes.toNat = (v, 0, bs)) :
    StartsIn (.msgSend c src tag member bytes queue) c s (sendReq (markStarted v c) (messageReq v c d tag queue bs)) := by
  show execMsgSend c src tag member bytes queue s = _
  rw [execMsgSend, if_neg (by simp [hheld]), onRing_ready _ h.1 h.2]
  simp only [Nat.not_lt.2 hbytes, if_false, memberId_congr (accept_frame s c 0x50).job, hmember, hread]
  rfl

/-- The receive that MSG_RECV posts. -/
def recvOf (c : CmdCtx) (buf tag mask : U64) (bytes : U16) (queue : BitVec 8) : Recv :=
  { queue := queue.toNat, buf := buf, tag := tag, mask := mask, bytes := bytes.toNat, cmd := c }

/-- The fabric once a stored message has been taken. -/
def Fabric.take (f : Fabric) (x : Unexpected) : Fabric := { f with unexpected := dropFirst (fun y => y == x) f.unexpected, unexpFull := false }

section
variable {s : State} {c : CmdCtx} {buf tag mask : U64} {bytes : U16} {queue : BitVec 8}
  (h : AtTurn s c 0x0051 [opnd 8 8 buf.toNat, opnd 0x10 8 tag.toNat, opnd 0x18 8 mask.toNat, opnd 0x20 2 bytes.toNat, opnd 0x22 1 queue.toNat])
  (hheld : s.rangeHeld buf.toNat bytes.toNat = false)
include h hheld

theorem exec_msgRecv_posts (hnone : s.fab.unexpected.find? (recvOf c buf tag mask bytes queue).takes = none) :
    StartsIn (.msgRecv c buf tag mask bytes queue) c s (markStarted { accept s c 0x51 with
      fab := { s.fab with recvs := s.fab.recvs ++ [recvOf c buf tag mask bytes queue] } } c) := by
  show execMsgRecv c buf tag mask bytes queue s = _
  rw [execMsgRecv, if_neg (by simp [hheld]), onRing_ready _ h.1 h.2]
  unfold recvOf at hnone
  simp only [(accept_frame s c 0x51).fab, hnone]
  rfl

theorem exec_msgRecv_takes {x : Unexpected} (hx : s.fab.unexpected.find? (recvOf c buf tag mask bytes queue).takes = some x) :
    let w := writeVA { accept s c 0x51 with fab := s.fab.take x } agentHost buf.toNat (x.payload.take bytes.toNat)
    CompletesIn (.msgRecv c buf tag mask bytes queue) c s w.1
      (if w.2 != 0 then w.2 else if bytes.toNat < x.payload.length then 0x0130 else 0)
      (x.payload.length + (s.rankOf x.src.toNat).getD 0 * 0x10000) := by
  intro w
  have hjob : w.1.job = s.job := (writeVA_access { accept s c 0x51 with fab := s.fab.take x } ..).job.trans (accept_frame ..).job
  rw [← rankOf_congr hjob]
  show execMsgRecv c buf tag mask bytes queue s = _
  rw [execMsgRecv, if_neg (by simp [hheld]), onRing_ready _ h.1 h.2]
  unfold recvOf at hx
  simp only [(accept_frame s c 0x51).fab, hx]
  rfl

end

/-! ## BULK_PUT (R392, R393) -/

theorem WireFrame.bulkPuts {s t : State} (h : WireFrame s t) : t.fab.bulkPuts = s.fab.bulkPuts := by
  obtain ⟨_, _, _, _, _, _, rfl⟩ := h
  rfl

theorem sendBulk_wire (dst : U16) (key : Nat) (pre data : List Byte) (off lines : Nat) (o : Origin) (s : State) :
    WireFrame s (sendBulk s dst key pre data off lines o) := by
  unfold sendBulk
  generalize bulkPackets lines off lines = l
  induction l generalizing s with
  | nil => exact WireFrame.refl s
  | cons p l ih => exact (sendReq_wire s _).trans (ih _)

/-- The transfer of a BULK_PUT: the destination, XFER_ID and lines that its acknowledgements count. -/
def putBegun (v : State) (c : CmdCtx) (d : Nat) (xferId lines : U32) : State :=
  markStarted { v with fab := { v.fab with bulkPuts := v.fab.bulkPuts ++ [(c, BitVec.ofNat 16 d, xferId, lines.toNat)] } } c

theorem exec_bulkPut {s v : State} {c : CmdCtx} {src offset : U64} {lines member xferId : U32} {key counter : U16} {d : Nat} {bs : List Byte}
    (h : AtTurn s c 0x0054 [opnd 8 8 src.toNat, opnd 0x10 8 offset.toNat, opnd 0x18 4 lines.toNat, opnd 0x1C 4 member.toNat,
      opnd 0x20 4 xferId.toNat, opnd 0x24 2 key.toNat, opnd 0x26 2 counter.toNat])
    (hheld : s.rangeHeld src.toNat (128 * lines.toNat) = false) (hcounter : counter.toNat < 16383 ∨ counter = 0xFFFF)
    (haligned : offset.toNat % 128 = 0) (hrange : offset.toNat + 128 * lines.toNat < 2 ^ 48) (hlines : lines ≠ 0)
    (hmember : s.memberId member.toNat = some d)
    (hread : readVA (accept s c 0x54) agentHost src.toNat (128 * lines.toNat) = (v, 0, bs)) :
    StartsIn (.bulkPut c src offset lines member xferId key counter) c s
      (sendBulk (putBegun v c d xferId lines) (BitVec.ofNat 16 d) key.toNat (bulkPreamble xferId.toNat lines.toNat counter.toNat) bs
        offset.toNat lines.toNat (.host c)) := by
  have hplain : ¬((counter = 16383 || (16384 ≤ counter.toNat && counter != 0xFFFF)) = true) := by
    obtain hlt | rfl := hcounter
    · have hne : counter ≠ 16383#16 := fun h => by simp [h] at hlt
      simp [hne, show ¬16384 ≤ counter.toNat by omega]
    · decide
  have hinside : ¬((offset.toNat % 128 != 0 || 2 ^ 48 ≤ offset.toNat + 128 * lines.toNat) = true) := by
    simp only [haligned, bne_self_eq_false, Bool.false_or, decide_eq_true_eq, Nat.not_le.2 hrange, not_false_eq_true]
  show execBulkPut c src offset lines member xferId key counter s = _
  rw [execBulkPut, if_neg (by simp [hheld]), onRing_ready _ h.1 h.2]
  simp only [if_neg hplain, if_neg hinside, memberId_congr (accept_frame s c 0x54).job, hmember, if_neg hlines, hread]
  rfl

end Sys2Proof.Machine

open Sys2Proof Sys2Proof.Machine

/-- Settles O11: what a command does to the state that accepted it, with what acceptance, its reads and its writes leave alone. -/
theorem syncAndMessageCommandsAct : Obligations.SyncAndMessageCommandsAct := by
  unfold Obligations.SyncAndMessageCommandsAct
  refine ⟨fun s c value counter hn => ⟨fun member hown hmirror hops hidle => ⟨fun h => ?_, fun h => ?_⟩, fun h => ⟨fun hmet => ?_, fun hwait => ?_⟩⟩,
    fun s c => ⟨?_, ?_, ?_, ?_, ?_⟩⟩
  · obtain ⟨u, hrun, hu⟩ := runSyncOp_acts false value hn hown hmirror hops hidle
    exact ⟨u, by rw [exec_syncOpAdd h, hrun], hu.counter.frame, hu.counter.waits, hu.self, hu.others⟩
  · obtain ⟨u, hrun, hu⟩ := runSyncOp_acts true value hn hown hmirror hops hidle
    have hvalue : appliedSync s true counter.toNat value.toNat = value.toNat := Nat.mod_eq_of_lt value.isLt
    exact ⟨u, by rw [exec_syncOpSet h, hrun], hu.counter.frame, hu.counter.waits, hu.self.trans hvalue, hu.others⟩
  · exact ⟨_, exec_syncWait_met hn h hmet, accept_frame ..⟩
  · obtain ⟨hframe, hstarted, hvalues, hlast⟩ := addWait_started ((accept_frame s c 0x45).trans (markStarted_frame _ c))
      (markStarted_started (accept_outstanding s c 0x45)) hn value
    exact ⟨_, exec_syncWait_waits hn h hwait, hframe, hstarted, hvalues, hlast⟩
  · intro vaddr bytes key h hkey hroom
    exact ⟨_, exec_bufReg h hkey hroom, (accept_frame ..).withFab _, rfl, rfl⟩
  · intro key h
    refine ⟨fun hkey => ⟨_, exec_bufDereg h hkey, (accept_frame ..).withFab _, rfl, rfl⟩, fun hkey => ?_⟩
    exact ⟨_, exec_bufDereg_reserved h hkey, accept_frame ..⟩
  · intro src tag member bytes queue d h hheld hbytes hmember hst
    rcases hread : readVA (accept s c 0x50) agentHost src.toNat bytes.toNat with ⟨v, st, bs⟩
    obtain rfl : st = 0 := by rwa [hread] at hst
    exact ⟨v, bs, messageReq v c d tag queue bs, _, rfl, exec_msgSend h hheld hbytes hmember hread, rfl, rfl, rfl, by simp [messageReq, newReq],
      by simp [messageReq, newReq], rfl, rfl⟩
  · intro buf tag mask bytes queue h hheld r
    refine ⟨fun hnone => ?_, fun x hx => ?_⟩
    · refine ⟨_, exec_msgRecv_posts h hheld hnone, markStarted_started (accept_outstanding s c 0x51), ?_, rfl⟩
      exact ((accept_frame s c 0x51).withFab _).trans (markStarted_frame ..)
    · refine ⟨{ accept s c 0x51 with fab := s.fab.take x }, _, _, exec_msgRecv_takes h hheld hx, (accept_frame ..).withFab _, rfl, rfl, rfl,
        fun hwritten => ?_⟩
      simp [hwritten]
  · intro src offset lines member xferId key counter d h hheld hcounter haligned hrange hlines hmember hst
    rcases hread : readVA (accept s c 0x54) agentHost src.toNat (128 * lines.toNat) with ⟨v, st, bs⟩
    obtain rfl : st = 0 := by rwa [hread] at hst
    refine ⟨_, exec_bulkPut h hheld hcounter haligned hrange hlines hmember hread, ?_⟩
    rw [(sendBulk_wire ..).bulkPuts]
    exact List.mem_append_right _ List.mem_cons_self
end

section
/-! The outstanding audits (R451): neither acceptance nor a read by job virtual address, whatever errors it finds, changes their list. -/

namespace Sys2Proof.Machine

@[simp] theorem accept_hif_audits (s : State) (c : CmdCtx) (op : Nat) : (accept s c op).hif.audits = s.hif.audits := by
  simp [accept, setSq]

@[simp] theorem accept_bound (s : State) (c : CmdCtx) (op : Nat) : (accept s c op).bound = s.bound :=
  congrArg Option.isSome (accept_frame ..).job

/-- Steps that each keep the audits keep them when they are taken in turn. -/
theorem foldl_hif_audits {α : Type} {f : State → α → State} (hf : ∀ s a, (f s a).hif.audits = s.hif.audits) (l : List α) (s : State) :
    (l.foldl f s).hif.audits = s.hif.audits := by
  induction l generalizing s with
  | nil => rfl
  | cons a l ih => exact (ih _).trans (hf s a)

/-! ## Errors that a read finds (R108, R130, R332 to R334) -/

@[simp] theorem report_hif_audits (s : State) (code addr data : Nat) : (report s code addr data).hif.audits = s.hif.audits := by
  have hring (u : State) : (sendRing u).hif.audits = u.hif.audits := by
    unfold sendRing
    split <;> rfl
  have hcount (u : State) (n k : Nat) : (countMgmt u n k).hif.audits = u.hif.audits := by
    unfold countMgmt
    split
    · exact bump_hif_audits ..
    · rfl
  exact (hcount ..).trans (hring _)

@[simp] theorem decideRetire_hif_audits (s : State) (pa : Nat) : (decideRetire s pa).hif.audits = s.hif.audits := by
  unfold decideRetire
  simp only
  split_ifs
  · rfl
  · exact raise_hif_audits ..
  · rfl

@[simp] theorem noteError_hif_audits (s : State) (pa kind : Nat) : (noteError s pa kind).hif.audits = s.hif.audits := by
  unfold noteError
  simp only
  split
  · exact decideRetire_hif_audits ..
  · rfl

@[simp] theorem noteLost_hif_audits (s : State) (pa : Nat) (lost scrub : Bool) : (noteLost s pa lost scrub).hif.audits = s.hif.audits := rfl

@[simp] theorem markLine_hif_audits (s : State) (pa : Nat) (k : LineMark) : (markLine s pa k).hif.audits = s.hif.audits := rfl

@[simp] theorem lineError_hif_audits (s : State) (pa : Nat) (uncorrectable scrub : Bool) :
    (lineError s pa uncorrectable scrub).hif.audits = s.hif.audits := by
  unfold lineError
  simp only
  split_ifs <;> simp

@[simp] theorem senseLine_hif_audits (s : State) (pa : Nat) : (senseLine s pa).hif.audits = s.hif.audits := by
  unfold senseLine
  split
  · rfl
  · exact lineError_hif_audits ..

@[simp] theorem markRowGroup_hif_audits (s : State) (t : TileId) (line : Nat) : (markRowGroup s t line).hif.audits = s.hif.audits := by
  unfold markRowGroup
  simp only
  split_ifs <;> simp

@[simp] theorem sectorError_hif_audits (s : State) (t : TileId) (sector : Nat) (uncorrectable : Bool) :
    (sectorError s t sector uncorrectable).hif.audits = s.hif.audits := by
  unfold sectorError
  simp only
  split_ifs <;> simp

@[simp] theorem senseStore_hif_audits (s : State) (t : TileId) (off n : Nat) : (senseStore s t off n).hif.audits = s.hif.audits := by
  unfold senseStore
  simp only
  split
  · rfl
  · exact foldl_hif_audits (fun u (e : Nat × Bool) => sectorError_hif_audits u t e.1 e.2) _ _

/-! ## Reads by job virtual address -/

@[simp] theorem readLoc_hif_audits (s : State) (l : Loc) (n : Nat) : (readLoc s l n).1.hif.audits = s.hif.audits := by
  cases l with
  | stack pa => exact (bump_hif_audits ..).trans (senseLine_hif_audits ..)
  | store d k o =>
    show (readStore s d k o n).1.hif.audits = _
    unfold readStore
    split
    · rfl
    · exact senseStore_hif_audits ..
  | void => rfl
  | host a => rfl

@[simp] theorem countMisses_hif_audits (s : State) (va : Nat) (l : Loc) : (countMisses s va l).hif.audits = s.hif.audits := by
  cases l with
  | stack pa => exact bump_hif_audits ..
  | store d k o => rfl
  | void => rfl
  | host a => rfl

@[simp] theorem xltFault_hif_audits (s : State) (agent va st : Nat) : (xltFault s agent va st).hif.audits = s.hif.audits := by
  unfold xltFault
  split
  · exact bump_hif_audits ..
  · rfl

theorem readPieces_hif_audits (agent : Nat) (l : List (Nat × Nat)) (s : State) (acc : List Byte) :
    (readPieces agent l s acc).1.hif.audits = s.hif.audits := by
  induction l generalizing s acc with
  | nil => rfl
  | cons p r ih =>
    obtain ⟨a, n⟩ := p
    unfold readPieces
    split
    · exact xltFault_hif_audits ..
    · next l _ =>
      have hloc : (readLoc (countMisses s a l) l n).1.hif.audits = s.hif.audits := by simp
      split
      · next h => rw [h] at hloc; exact hloc
      · next h => rw [h] at hloc; exact (ih ..).trans hloc

@[simp] theorem readVA_hif_audits (s : State) (agent va n : Nat) : (readVA s agent va n).1.hif.audits = s.hif.audits :=
  readPieces_hif_audits ..

end Sys2Proof.Machine
end

section
/-! AUDIT is held accepted, and acts in its turn (R450 to R453). -/

namespace Sys2Proof.Machine

/-! ## Acceptance (R451, R453) -/

section
variable {s : State} {c : CmdCtx} {desc : U64} (h : AtTurn s c 0x0060 [opnd 8 8 desc.toNat]) (hheld : s.rangeHeld desc.toNat 64 = false)
include h hheld

theorem exec_audit_unbound (hunbound : s.bound = false) : CompletesIn (.audit c desc) c s (accept s c 0x60) 0x8911 0 := by
  show execAudit c desc s = _
  rw [execAudit, if_neg (by simp [hheld]), onRing_ready _ h.1 h.2, if_pos (by simp [hunbound])]

/-- An audit whose descriptor has been read is refused or held. -/
theorem exec_audit_read (hbound : s.bound = true) {r : State} {bs : List Byte}
    (hread : readVA (accept s c 0x60) agentAudit desc.toNat 64 = (r, 0, bs)) :
    exec (.audit c desc) s = .next (afterCommand
      (if auditBad bs (auditOf c bs) then finish r c 0x8910 0
      else if 64 ≤ s.hif.audits.length then finish r c 0x8912 0
      else { r with hif := { r.hif with audits := s.hif.audits ++ [auditOf c bs] } }) c) := by
  have haudits : r.hif.audits = s.hif.audits := by
    have hkept := readVA_hif_audits (accept s c 0x60) agentAudit desc.toNat 64
    rwa [hread, accept_hif_audits] at hkept
  show execAudit c desc s = _
  rw [execAudit, if_neg (by simp [hheld]), onRing_ready _ h.1 h.2, if_neg (by simp [hbound])]
  simp only [hread, haudits]

end

/-! ## Execution (R450 to R452) -/

/-- An audit that an unreadable result ends goes no further. -/
theorem runAudit_unread {v u : State} {k : AuditState} {st : Nat} {d : List Byte}
    (hres : auditDigestOf v false k.resV.toNat k.resB.toNat = (u, st, d)) (hst : st ≠ 0) : runAudit v k = (u, st) := by
  obtain ⟨n, rfl⟩ := Nat.exists_eq_succ_of_ne_zero hst
  simp only [runAudit, hres]

/-- What an audit writes to OUT: the digest input, the statement and, where it is asked for, the signature (Tables 13.7 and 13.8). -/
def auditRecord (u : State) (k : AuditState) (weights input result : List Byte) : List Byte :=
  let text := digestInput u weights input result k.resB.toNat
  let stm := auditStatement u (shake256 text)
  text ++ stm ++ (if auditSign k then signBytes "BGL-audit" stm else [])

/-- An audit that forms its three digests ends with the status of its record, and a signature written is counted. -/
theorem runAudit_formed {v u1 u2 u3 : State} {k : AuditState} {result weights input : List Byte}
    (hres : auditDigestOf v false k.resV.toNat k.resB.toNat = (u1, 0, result))
    (hweights : auditDigestOf u1 (auditWeightsByValue k) k.wV.toNat k.wB.toNat = (u2, 0, weights))
    (hinput : auditDigestOf u2 (auditInputByValue k) k.iV.toNat k.iB.toNat = (u3, 0, input)) {out : State × Nat}
    (hout : writeRecord u3 agentAudit k.out.toNat (auditRecord u3 k weights input result) = out) :
    runAudit v k = (if out.2 = 0 ∧ auditSign k = true then bump out.1 secBase 1 1 else out.1, out.2) := by
  unfold auditRecord at hout
  simp only [runAudit, hres, hweights, hinput, hout]
  obtain ⟨u, st⟩ := out
  cases st with
  | zero => simp only [true_and]
  | succ n => rfl

/-- An audit acts once nothing of its ring is outstanding before it and none of its accesses is held. -/
theorem exec_auditExecute {s : State} {c : CmdCtx} {k : AuditState} (hp : s.pins.powered = true)
    (hk : s.hif.audits.find? (fun x => x.cmd == c) = some k) (hearlier : s.earlierOnRing c = false) (hheld : s.auditHeld k = false) :
    let done := runAudit { s with hif := { s.hif with audits := dropFirst (fun x => x.cmd == c) s.hif.audits } } k
    exec (.auditExecute c) s = .next (finish (bump done.1 secBase 0 1) c done.2 0) := by
  show execAuditExecute c s = _
  rw [execAuditExecute, powered_on _ hp]
  simp only [hk, hearlier, hheld, Bool.or_self, Bool.false_eq_true, if_false]

end Sys2Proof.Machine

open Sys2Proof Sys2Proof.Machine

/-- Settles O31: what acceptance and the read leave alone is the list that the audit joins; in its turn the audit ends with the status
of an unreadable result, or with that of its record. -/
theorem auditsActInOrder : Obligations.AuditsActInOrder := by
  unfold Obligations.AuditsActInOrder
  intro s c
  constructor
  · intro desc h hheld v
    refine ⟨exec_audit_unbound h hheld, fun hbound => ?_⟩
    intro r k hst
    have hexec := exec_audit_read h hheld hbound (r := r.1) (bs := r.2.2) (by rw [← hst])
    refine ⟨fun hbad => ?_, fun hgood hfull => ?_, fun hgood hroom => ?_⟩
    · rwa [if_pos hbad] at hexec
    · rwa [if_neg (ne_true_of_eq_false hgood), if_pos hfull] at hexec
    · rwa [if_neg (ne_true_of_eq_false hgood), if_neg (Nat.not_le.2 hroom)] at hexec
  · intro k hp hk hearlier hheld v res w inp
    have hexec : exec (.auditExecute c) s = .next (finish (bump (runAudit v k).1 secBase 0 1) c (runAudit v k).2 0) :=
      exec_auditExecute hp hk hearlier hheld
    refine ⟨fun hst => ?_, fun hres hw hinp => ⟨_, hexec, ?_⟩⟩
    · rwa [runAudit_unread (u := res.1) (d := res.2.2) rfl hst] at hexec
    · intro text stm out
      rw [runAudit_formed (u1 := res.1) (u2 := w.1) (u3 := inp.1) (result := res.2.2) (weights := w.2.2) (input := inp.2.2)
        (by rw [← hres]) (by rw [← hw]) (by rw [← hinp]) (out := out) rfl]
end

section
/-! Steps: the command at the front of the queue, an idle nanosecond (R591, R595), and the package without power, where no command
but POWER_UP acts (R572, log 1). -/

namespace Sys2Proof.Machine

/-! ## An idle nanosecond -/

theorem step_idle {s : State} (h : s.pending = []) : step s = .next (tick s) := by
  unfold step
  rw [h]

theorem tick_unpowered {s : State} (h : s.pins.powered = false) : tick s = s := by
  unfold tick
  rw [h, Bool.not_false, if_pos rfl]

/-- An idle nanosecond changes the counter and what is left to slew. -/
theorem tick_tim (s : State) : ∃ now slew acc, tick s = { s with tim := { s.tim with now := now, slew := slew, slewAcc := acc } } := by
  simp only [tick]
  split_ifs
  · exact ⟨s.tim.now, s.tim.slew, s.tim.slewAcc, rfl⟩
  · exact ⟨s.tim.now + 1, s.tim.slew, 0, rfl⟩
  · exact ⟨s.tim.now + 1, s.tim.slew, s.tim.slewAcc + 1, rfl⟩
  · exact ⟨s.tim.now + 2, s.tim.slew - 1, 0, rfl⟩
  · exact ⟨s.tim.now, s.tim.slew + 1, 0, rfl⟩

theorem tick_settled {s : State} (hp : s.pins.powered = true) (h : s.tim.slew = 0) :
    tick s = { s with tim := { s.tim with now := s.tim.now + 1, slewAcc := 0 } } := by
  simp only [tick, hp, h, Bool.not_true, Bool.false_eq_true, if_false, if_true]

/-- While the counter does not wrap, one nanosecond moves it by none, one or two, and it and what is left to slew by one together (R595). -/
theorem tick_counts {s : State} (hp : s.pins.powered = true) (h : s.tim.now.toNat + 2 < 2 ^ 64) :
    s.tim.now.toNat ≤ (tick s).tim.now.toNat ∧ (tick s).tim.now.toNat ≤ s.tim.now.toNat + 2 ∧
      ((tick s).tim.now.toNat : Int) + (tick s).tim.slew = (s.tim.now.toNat : Int) + s.tim.slew + 1 := by
  have h1 : (s.tim.now + 1).toNat = s.tim.now.toNat + 1 := by bv_omega
  have h2 : (s.tim.now + 2).toNat = s.tim.now.toNat + 2 := by bv_omega
  unfold tick
  rw [hp, Bool.not_true, if_neg Bool.false_ne_true]
  split_ifs <;> simp only [h1, h2] <;> omega

/-! ## Without power -/

/-- Every meaning but that of POWER_UP tests power before anything else, the operands' memory aside, which a command may wait for. -/
theorem exec_unpowered {i : Instr} {s : State} (h : s.pins.powered = false) (hi : ∀ env, i ≠ .powerUp env) : exec i s = .next s := by
  obtain ⟨_, ⟨_, _, _, _, _, _, _, _⟩⟩ := s
  subst h
  cases i with
  | powerUp env => exact absurd rfl (hi env)
  | memMap | audit | tileRun | msgSend | msgRecv | bulkPut | coll | collBatch | collGroup | steerRun | znAssemble |
  znSolve => exact ite_id _
  | _ => rfl

end Sys2Proof.Machine

open Sys2Proof Sys2Proof.Machine

/-- Settles O1: the queue is not empty, so the step is its front command's meaning. -/
theorem stepRunsFrontCommand : Obligations.StepRunsFrontCommand := by
  unfold Obligations.StepRunsFrontCommand
  intro c rest s
  rfl

/-- Settles O2: an idle step is a tick, which changes the counter and what is left to slew. -/
theorem idleStepCountsTime : Obligations.IdleStepCountsTime := by
  unfold Obligations.IdleStepCountsTime
  intro s hidle
  obtain ⟨now, slew, acc, ht⟩ := tick_tim s
  refine ⟨tick s, step_idle hidle, by rw [ht], by rw [ht], by rw [ht], tick_unpowered, fun hp hs => ?_, tick_counts⟩
  rw [tick_settled hp hs]
  exact ⟨rfl, hs⟩

/-- Settles O59: the front command is not POWER_UP, and every other command finds no power. -/
theorem unpoweredStaysQuiet : Obligations.UnpoweredStaysQuiet := by
  unfold Obligations.UnpoweredStaysQuiet
  rintro s ⟨hoff, hnone⟩
  refine ⟨?_, hoff, fun env hmem => hnone env (List.mem_of_mem_tail hmem)⟩
  cases hq : s.pending with
  | nil =>
    rw [step_idle hq, tick_unpowered hoff]
    exact congrArg (fun q => Host.Outcome.next { s with pending := q }) hq
  | cons c rest =>
    have hstep : step s = exec c { s with pending := rest } := by rw [step, hq]
    rw [hstep]
    refine exec_unpowered (s := { s with pending := rest }) hoff fun env hc => hnone env ?_
    rw [hq, ← hc]
    exact List.mem_cons_self
end

section
/-! Commands of the host that complete at once (R513, R567, R596), and RING_INT (R546, R562). -/

namespace Sys2Proof.Machine

@[simp] theorem accept_summarySeq (s : State) (c : CmdCtx) (op : Nat) : (accept s c op).hif.summarySeq = s.hif.summarySeq := by
  simp [accept, setSq]

theorem nop_completes {s : State} {c : CmdCtx} (hturn : AtTurn s c 0x0000 []) : CompletesIn (.nop c) c s (accept s c 0) 0 0 :=
  onRing_ready (fun s => finish s c 0 0) hturn.1 hturn.2

theorem phaseMark_completes {s : State} {c : CmdCtx} {phase : BitVec 8} (hturn : AtTurn s c 0x0002 [opnd 8 1 phase.toNat]) :
    CompletesIn (.phaseMark c phase) c s
      (setSq (accept s c 2) c.sq.toNat { (accept s c 2).sq c.sq.toNat with phaseId := phase }) 0 0 :=
  onRing_ready (fun s => finish (setSq s c.sq.toNat { s.sq c.sq.toNat with phaseId := phase }) c 0 0) hturn.1 hturn.2

theorem catchNow_completes {s : State} {c : CmdCtx} (hturn : AtTurn s c 0x0071 []) :
    CompletesIn (.catchNow c) c s (if (accept s c 0x71).regBit snapBase 0 then takeCatch (accept s c 0x71) 0 else accept s c 0x71) 0 0 :=
  onRing_ready (fun s => finish (if s.regBit snapBase 0 then takeCatch s 0 else s) c 0 0) hturn.1 hturn.2

/-! ## READ_SUMMARY -/

theorem takeSummary_eq (s : State) : takeSummary s = ({ s with hif := { s.hif with
    summarySeq := s.hif.summarySeq + 1, eventCounts := s.hif.eventCounts.map (fun e => (0, e.2)) } },
    summaryBytes s (s.hif.summarySeq.toNat + 1)) := by
  have hseq : BitVec.ofNat 32 (s.hif.summarySeq.toNat + 1) = s.hif.summarySeq + 1 := by
    rw [BitVec.ofNat_add, BitVec.ofNat_toNat, BitVec.setWidth_eq]
    rfl
  rw [takeSummary, hseq]

/-- The state once the summary record stands at OUT in host memory. -/
def summaryWritten (v : State) (out : Nat) : State :=
  { v with hostMem := Memory.write v.hostMem out (summaryBytes v (v.hif.summarySeq.toNat + 1)),
           hif := { v.hif with summarySeq := v.hif.summarySeq + 1, eventCounts := v.hif.eventCounts.map (fun e => (0, e.2)) } }

theorem summaryWritten_frame (v : State) (out : Nat) :
    summaryWritten v out = { v with hostMem := (summaryWritten v out).hostMem, hif := (summaryWritten v out).hif } := by
  simp only [summaryWritten]

theorem summaryWritten_hostMem (v : State) (out : Nat) :
    (summaryWritten v out).hostMem = Memory.write v.hostMem out (summaryBytes v (v.hif.summarySeq.toNat + 1)) := by
  simp only [summaryWritten]

theorem summaryWritten_eventCounts (v : State) (out : Nat) :
    (summaryWritten v out).hif.eventCounts = v.hif.eventCounts.map (fun e => (0, e.2)) := rfl

/-- READ_SUMMARY on a host ring writes the record to an aligned OUT, and completes with its sequence number. -/
theorem readSummary_completes {s : State} {c : CmdCtx} {out : U64} (hturn : AtTurn s c 0x0001 [opnd 8 8 out.toNat])
    (hhost : c.sq.toNat < 64) (halign : out.toNat % 4096 = 0) :
    CompletesIn (.readSummary c out) c s (summaryWritten (accept s c 1) out.toNat) 0 (s.hif.summarySeq + 1).toNat := by
  show execReadSummary c out s = _
  rw [execReadSummary, onRing_ready _ hturn.1 hturn.2, halign, bne_self_eq_false, if_neg Bool.false_ne_true]
  simp only [takeSummary_eq, writeOut, if_pos hhost, if_true, summaryWritten, accept_summarySeq]

theorem readSummary_misaligned {s : State} {c : CmdCtx} {out : U64} (hturn : AtTurn s c 0x0001 [opnd 8 8 out.toNat])
    (halign : out.toNat % 4096 ≠ 0) : CompletesIn (.readSummary c out) c s (accept s c 1) 0x8102 0 := by
  show execReadSummary c out s = _
  rw [execReadSummary, onRing_ready _ hturn.1 hturn.2, if_pos (bne_iff_ne.2 halign)]

/-! ## CATCH_NOW -/

theorem catchIfEnabled_frame (s : State) : RingFrame s (if s.regBit snapBase 0 then takeCatch s 0 else s) := by
  split
  · exact (takeCatch_frame s 0).ring
  · exact RingFrame.refl s

/-! ## RING_INT -/

/-- A ring that is running is listed. -/
theorem kvGet_sqs_of_state {s : State} {i : Nat} (h : (s.sq i).state ≠ 0) : kvGet s.hif.sqs i = some (s.sq i) := by
  simp only [State.sq, kvGetD] at h ⊢
  cases hget : kvGet s.hif.sqs i with
  | none => rw [hget] at h; exact absurd rfl h
  | some q => rfl

theorem mem_of_kvGet {α : Type} {l : List (Nat × α)} {a : Nat} {v : α} (h : kvGet l a = some v) : (a, v) ∈ l := by
  induction l with
  | nil => simp [kvGet] at h
  | cons e r ih =>
    obtain ⟨k, w⟩ := e
    simp only [kvGet] at h
    split_ifs at h with hk
    · rw [← hk, ← Option.some.inj h]; exact List.mem_cons_self
    · exact List.mem_cons_of_mem _ (ih h)

/-- Whether some entry of a table passes a test that a changed entry passes as before. -/
theorem any_kvSet {α : Type} {l : List (Nat × α)} {a : Nat} {v w : α} (p : Nat × α → Bool) (hget : kvGet l a = some w)
    (hp : p (a, v) = p (a, w)) : (kvSet l a v).any p = l.any p := by
  induction l with
  | nil => simp [kvGet] at hget
  | cons e r ih =>
    obtain ⟨k, x⟩ := e
    have hmem := mem_of_kvGet hget
    simp only [kvGet] at hget
    simp only [kvSet]
    split_ifs with hlt hk
    · have himp : p (a, w) = true → ((k, x) :: r).any p = true := fun hpw => List.any_eq_true.2 ⟨_, hmem, hpw⟩
      rw [List.any_cons, hp]
      cases hpw : p (a, w) with
      | false => rfl
      | true => rw [himp hpw]; rfl
    · subst hk
      rw [if_pos rfl] at hget
      rw [List.any_cons, List.any_cons, hp, ← Option.some.inj hget]
    · rw [if_neg hk] at hget
      rw [List.any_cons, List.any_cons, ih hget]

/-- Acceptance changes neither the state of a ring nor the completion ring that it names. -/
theorem intCqNamed_accept {s : State} {c : CmdCtx} {op : Nat} (h : (s.sq c.sq.toNat).state ≠ 0) (j : Nat) :
    (accept s c op).intCqNamed j = s.intCqNamed j := by
  have hsqs : (accept s c op).hif.sqs =
      kvSet s.hif.sqs c.sq.toNat { s.sq c.sq.toNat with fetched := (s.sq c.sq.toNat).fetched.drop 1 } := by
    simp only [accept, bump_hif_sqs]; rfl
  rw [State.intCqNamed, hsqs]
  exact any_kvSet _ (kvGet_sqs_of_state h) rfl

theorem cqOn_accept_internal (s : State) (c : CmdCtx) (op j : Nat) : (accept s c op).cqOn (64 + j) = s.cqOn (64 + j) := by
  simp only [State.cqOn, Nat.not_lt.2 (Nat.le_add_right 64 j), if_false, accept_cq]

theorem running_of_atTurn {s : State} {c : CmdCtx} {op : Nat} {ops : List (Nat × List Byte)} (h : AtTurn s c op ops) :
    (s.sq c.sq.toNat).state = 1 := by
  have hready := h.1
  simp only [State.ready, Bool.and_eq_true, beq_iff_eq] at hready
  exact hready.1.1.1.2

section
variable {s : State} {c : CmdCtx} {base doorbell : U64} {index log2 : BitVec 8}

theorem ringIntSq_completes {cq : BitVec 8} (hturn : AtTurn s c 0x0072 (ringIntSetup base doorbell index log2 0 ++ [opnd 0x1B 1 cq.toNat]))
    (hok : intRingOk base doorbell index log2 = true) (hfree : (s.sq (64 + index.toNat)).state = 0)
    (hclosing : (s.sq (64 + index.toNat)).closing = false) (hcq : cq.toNat < 64) (hon : s.cqOn (64 + cq.toNat) = true) :
    CompletesIn (.ringIntSq c base doorbell index log2 cq) c s (setSq (accept s c 0x72) (64 + index.toNat)
      { SubRing.off with state := 1, base := base, log2 := log2.toNat, cq := cq.toNat, doorbell := doorbell }) 0 0 := by
  have hne : 64 + index.toNat ≠ c.sq.toNat := fun h => by
    rw [h, running_of_atTurn hturn] at hfree
    exact absurd hfree (by decide)
  show execRingIntSq c base doorbell index log2 cq s = _
  rw [execRingIntSq, onRing_ready _ hturn.1 hturn.2]
  simp only [hok, accept_sq_ne _ _ _ hne, hfree, hclosing, Nat.not_le.2 hcq, cqOn_accept_internal, hon, Bool.not_true, bne_self_eq_false,
    decide_false, Bool.or_self, Bool.false_eq_true, if_false]

theorem ringIntCq_completes {notify : U16}
    (hturn : AtTurn s c 0x0072 (ringIntSetup base doorbell index log2 1 ++ [opnd 0x1C 2 notify.toNat]))
    (hok : intRingOk base doorbell index log2 = true) (hoff : s.cqOn (64 + index.toNat) = false)
    (hheld : (s.cq (64 + index.toNat)).held = []) (hnotify : notify.toNat < 16384 ∨ notify = 0xFFFF) :
    CompletesIn (.ringIntCq c base doorbell index log2 notify) c s (setCq (accept s c 0x72) (64 + index.toNat)
      { CompRing.off with enabled := true, base := base, log2 := log2.toNat, doorbell := doorbell, notify := notify }) 0 0 := by
  have hn : (decide (16384 ≤ notify.toNat) && notify != 0xFFFF) = false := by
    rcases hnotify with h | rfl
    · rw [decide_eq_false (Nat.not_le.2 h), Bool.false_and]
    · rfl
  show execRingIntCq c base doorbell index log2 notify s = _
  rw [execRingIntCq, onRing_ready _ hturn.1 hturn.2]
  simp only [hok, cqOn_accept_internal, hoff, hn, accept_cq, hheld, List.length_nil, drainHeld, Bool.not_true, Bool.or_self,
    Bool.false_eq_true, if_false]
  rfl

theorem ringIntSqDisable_completes (hturn : AtTurn s c 0x0072 (ringIntKind index 2)) (hidx : index.toNat < 64)
    (hon : (s.sq (64 + index.toNat)).state ≠ 0) :
    CompletesIn (.ringIntSqDisable c index) c s (setSq (accept s c 0x72) (64 + index.toNat)
      { s.sq (64 + index.toNat) with state := 0, fetched := [], closing := true }) 0 0 := by
  have hfields : ((accept s c 0x72).sq (64 + index.toNat)).state = (s.sq (64 + index.toNat)).state ∧
      { (accept s c 0x72).sq (64 + index.toNat) with state := 0, fetched := [], closing := true } =
        ({ s.sq (64 + index.toNat) with state := 0, fetched := [], closing := true } : SubRing) := by
    by_cases h : 64 + index.toNat = c.sq.toNat
    · rw [h, accept_sq]
      exact ⟨rfl, rfl⟩
    · rw [accept_sq_ne _ _ _ h]
      exact ⟨rfl, rfl⟩
  show execRingIntSqDisable c index s = _
  rw [execRingIntSqDisable, onRing_ready _ hturn.1 hturn.2, if_neg (Nat.not_le.2 hidx), hfields.1, if_neg hon, hfields.2]

theorem ringIntCqDisable_completes (hturn : AtTurn s c 0x0072 (ringIntKind index 3)) (hidx : index.toNat < 64) :
    CompletesIn (.ringIntCqDisable c index) c s (if s.intCqNamed index.toNat then accept s c 0x72 else
      setCq (accept s c 0x72) (64 + index.toNat) { CompRing.off with held := (s.cq (64 + index.toNat)).held }) 0 0 := by
  have hrun : (s.sq c.sq.toNat).state ≠ 0 := by rw [running_of_atTurn hturn]; decide
  show execRingIntCqDisable c index s = _
  rw [execRingIntCqDisable, onRing_ready _ hturn.1 hturn.2, if_neg (Nat.not_le.2 hidx), intCqNamed_accept hrun, accept_cq]
  split <;> rfl

end

end Sys2Proof.Machine

open Sys2Proof Sys2Proof.Machine

/-- Settles O8: each body ends with `finish`, on what acceptance leaves or on that with one change. -/
theorem hostCommandsComplete : Obligations.HostCommandsComplete := by
  unfold Obligations.HostCommandsComplete
  intro s c
  refine ⟨fun h => ⟨_, nop_completes h, accept_frame ..⟩, fun phase h => ?_, fun out h hhost => ⟨fun hal => ?_, fun hal => ?_⟩,
    fun h => ?_⟩
  · refine ⟨_, phaseMark_completes h, (accept_frame s c 2).trans (setSq_frame ..), by rw [sq_setSq_self], fun i hi => ?_⟩
    rw [sq_setSq_ne _ _ hi, accept_sq_ne _ _ _ hi]
  · refine ⟨accept s c 1, _, readSummary_completes h hhost hal, accept_frame .., summaryWritten_frame .., ?_,
      summaryWritten_eventCounts ..⟩
    rw [summaryWritten_hostMem, accept_summarySeq]
  · exact ⟨_, readSummary_misaligned h hal, accept_frame ..⟩
  · exact ⟨accept s c 0x71, _, catchNow_completes h, accept_frame .., (accept_frame s c _).trans (catchIfEnabled_frame _), rfl⟩

/-- Settles O9: each RING_INT completes on what acceptance leaves with one ring replaced. -/
theorem internalRingsFollowRingInt : Obligations.InternalRingsFollowRingInt := by
  unfold Obligations.InternalRingsFollowRingInt
  intro s c base doorbell index log2
  have hsq (q : SubRing) (k : Nat) (hk : k ≠ 64 + index.toNat) (hc : k ≠ c.sq.toNat) :
      (setSq (accept s c 0x72) (64 + index.toNat) q).sq k = s.sq k := by rw [sq_setSq_ne _ _ hk, accept_sq_ne _ _ _ hc]
  have hcq (q : CompRing) (k : Nat) (hk : k ≠ 64 + index.toNat) : (setCq (accept s c 0x72) (64 + index.toNat) q).cq k = s.cq k := by
    rw [cq_setCq_ne _ _ hk, accept_cq]
  refine ⟨fun cq h hok hfree hclosing hc hon => ?_, fun notify h hok hoff hheld hn => ?_, fun h hidx hon => ?_, fun h hidx => ?_⟩
  · exact ⟨_, ringIntSq_completes h hok hfree hclosing hc hon, (accept_frame ..).trans (setSq_frame ..), sq_setSq_self .., hsq _,
      fun k => accept_cq ..⟩
  · exact ⟨_, ringIntCq_completes h hok hoff hheld hn, (accept_frame ..).trans (setCq_frame ..), cq_setCq_self .., hcq _,
      fun k hk => accept_sq_ne _ _ _ hk⟩
  · exact ⟨_, ringIntSqDisable_completes h hidx hon, (accept_frame ..).trans (setSq_frame ..), sq_setSq_self .., hsq _,
      fun k => accept_cq ..⟩
  · refine ⟨_, ringIntCqDisable_completes h hidx, ?_, fun hn k => ?_, fun hn => ?_⟩
    · split
      · exact accept_frame ..
      · exact (accept_frame ..).trans (setCq_frame ..)
    · rw [if_pos hn, accept_cq]
    · rw [if_neg (ne_true_of_eq_false hn)]
      exact ⟨cq_setCq_self .., hcq _⟩
end

section
/-! What the ring engine writes: completions at their position (R548, R555), held completions (R570), IDLE and interrupts (R551 to R553,
R564), and the doorbells of internal rings (R562). -/

namespace Sys2Proof.Machine

/-! ## Completions -/

/-- A completion ring once an entry has been written at its tail. -/
def CompRing.advanced (q : CompRing) (now : U64) : CompRing :=
  { q with tail := q.tail + 1, unsignalled := q.unsignalled + 1, firstAt := if q.unsignalled = 0 then now else q.firstAt }

theorem advanceCq_eq (s : State) (j : Nat) : advanceCq s j = bump (setCq s j ((s.cq j).advanced s.tim.now)) hifBase 1 1 := rfl

theorem advanceCq_frame (s : State) (j : Nat) : EventFrame (setCq s j ((s.cq j).advanced s.tim.now)) (advanceCq s j) := by
  rw [advanceCq_eq]
  exact bump_frame _ _ (by decide)

theorem cq_advanceCq_self (s : State) (j : Nat) : (advanceCq s j).cq j = (s.cq j).advanced s.tim.now := by
  rw [advanceCq_eq, bump_cq, cq_setCq_self]

theorem cq_advanceCq_ne (s : State) {i j : Nat} (h : i ≠ j) : (advanceCq s j).cq i = s.cq i := by
  rw [advanceCq_eq, bump_cq, cq_setCq_ne _ _ h]

/-- Where a completion ring of the host takes its next entry. -/
def cqSlot (s : State) (j : Nat) : Nat :=
  s.reg64 (hifBase + 0x2000 + 0x20 * j) + (if bitOf (s.cqCfg j) 31 then 16 else 32) * ((s.cq j).tail.toNat % 2 ^ s.cqLog j)

/-- The entry that a completion ring of the host takes for a completion (Table 16.4). -/
def cqEntry (s : State) (j : Nat) (x : Completion) : List Byte :=
  completionBytes (bitOf (s.cqCfg j) 31) x (phaseBit (s.cq j).tail.toNat (s.cqLog j))

/-- The state with the entry of a completion at the tail of its ring. -/
def entryAtTail (s : State) (j : Nat) (x : Completion) : State := { s with hostMem := Memory.write s.hostMem (cqSlot s j) (cqEntry s j x) }

theorem writeCompletion_host {s : State} {j : Nat} (x : Completion) (hj : j < 64) :
    writeCompletion s j x = advanceCq (entryAtTail s j x) j := by
  simp only [writeCompletion, if_pos hj, entryAtTail, cqSlot, cqEntry]

theorem post_written {s : State} {x : Completion} (hon : s.cqOn (s.sqCq x.ctx.sq.toNat) = true)
    (hrun : (s.cq (s.sqCq x.ctx.sq.toNat)).stopped = false) (hheld : (s.cq (s.sqCq x.ctx.sq.toNat)).held = [])
    (hroom : s.cqRoom (s.sqCq x.ctx.sq.toNat) = true) : post s x = writeCompletion s (s.sqCq x.ctx.sq.toNat) x := by
  simp only [post, hon, hrun, hheld, hroom, List.isEmpty_nil, Bool.not_false, Bool.and_self, if_true]

theorem sqCq_host_lt (s : State) {i : Nat} (h : i < 64) : s.sqCq i < 64 := by
  rw [State.sqCq, if_pos h]
  exact Nat.mod_lt _ (by decide)

theorem length_completionBytes (x : Completion) (p : Nat) : (completionBytes false x p).length = 32 := by
  simp [completionBytes, length_leBytes]

/-- Bytes of host memory outside the event ring read the same after counting and events. -/
theorem EventFrame.read {s t : State} (h : EventFrame s t) {a n : Nat} (hout : ∀ b, a ≤ b → b < a + n → inEventRing s b = false) :
    Memory.read t.hostMem a n = Memory.read s.hostMem a n := by
  simp only [Memory.read]
  refine List.map_congr_left fun i hi => h.host _ (hout _ (Nat.le_add_right a i) ?_)
  have := List.mem_range.1 hi
  omega

/-! ## IDLE and WAKE -/

theorem dbBase_bump_hif (s : State) {n : Nat} (k : Nat) (h : IsCounter hifBase n) : (bump s hifBase n k).dbBase = s.dbBase := by
  have hframe := (bump_frame s k h).regs
  have hlo := hframe (hifBase + 8) (by decide)
  have hhi := hframe (hifBase + 0xC) (by decide)
  simp only [State.reg] at hlo hhi
  simp only [State.dbBase, State.reg64, RegFile.get64, hlo, hhi]

theorem writeIdle_idle (s : State) (b : Bool) : (writeIdle s b).hif.idle = b := rfl

theorem read_writeIdle (s : State) : Memory.read (writeIdle s true).hostMem (s.dbBase + 0x800) 4 = leBytes 4 1 := by
  have hwrite := Memory.read_write s.hostMem (s.dbBase + 0x800) (leBytes 4 1 ++ leBytes 4 s.hif.idleSeq.toNat)
  have hprefix : Memory.read (writeIdle s true).hostMem (s.dbBase + 0x800) 4 = (Memory.read (writeIdle s true).hostMem (s.dbBase + 0x800) 8).take 4 := by
    simp only [Memory.read, ← List.map_take, List.take_range, Nat.min_eq_left (show 4 ≤ 8 by decide)]
  rw [hprefix]
  simp only [List.length_append, length_leBytes] at hwrite
  exact (congrArg (List.take 4) hwrite).trans (List.take_left' (length_leBytes 4 1))

theorem exec_wake_noBlock {s : State} (hup : s.endpointUp = true) (h : s.dbBase = 0) :
    exec .wake s = .next (bump (bump s hifBase 7 1) hifBase 8 1) := by
  show execWake s = _
  rw [execWake, overPcie_up _ hup]
  simp only [dbBase_bump_hif s 1 (show IsCounter hifBase 7 by decide), h, if_true]

theorem exec_wake_block {s : State} (hup : s.endpointUp = true) (h : s.dbBase ≠ 0) :
    let u := writeIdle (bump s hifBase 7 1) false
    let v := { u with hif := { u.hif with lastChange := s.tim.now } }
    exec .wake s = .next (if v.doorbellChanged then readDoorbells v else bump (readDoorbells v) hifBase 8 1) := by
  have htim : (writeIdle (bump s hifBase 7 1) false).tim = s.tim := bump_tim ..
  show execWake s = _
  rw [execWake, overPcie_up _ hup]
  simp only [dbBase_bump_hif s 1 (show IsCounter hifBase 7 by decide), h, if_false, htim]

theorem exec_idleEntry {s : State} (hup : s.endpointUp = true) (hon : s.ringsOn = true) (hidle : s.hif.idle = false) (hbusy : s.busy = false) :
    let u := bump (writeIdle { s with hif := { s.hif with idleSeq := s.hif.idleSeq + 1 } } true) hifBase 6 1
    exec .idleEntry s = .next (if u.doorbellChanged then readDoorbells (writeIdle u false) else bump u hifBase 5 1) := by
  show execIdleEntry s = _
  rw [execIdleEntry, overPcie_up _ hup]
  simp only [hon, hidle, hbusy, Bool.not_true, Bool.or_self, Bool.false_eq_true, if_false]

/-! ## Held completions -/

section
variable {s : State} {j : BitVec 7} {x : Completion} {r : List Completion} (hp : s.pins.powered = true) (hheld : (s.cq j.toNat).held = x :: r)
  (hon : s.cqOn j.toNat = true) (hrun : (s.cq j.toNat).stopped = false) (hroom : s.cqRoom j.toNat = true)
include hp hheld hon hrun hroom

theorem exec_heldCompletionWrite {ok : Bool} (h : ok = true ∨ 64 ≤ j.toNat) :
    exec (.heldCompletionWrite j ok) s = .next (writeCompletion (setCq s j.toNat { s.cq j.toNat with held := r }) j.toNat x) := by
  have hgo : (ok || decide (64 ≤ j.toNat)) = true := by rw [Bool.or_eq_true, decide_eq_true_iff]; exact h
  show execHeldCompletionWrite j ok s = _
  rw [execHeldCompletionWrite, powered_on _ hp]
  simp only [hheld, hon, hrun, hroom, hgo, Bool.not_true, Bool.or_self, Bool.false_eq_true, if_false, if_true]

theorem exec_heldCompletionWrite_fails (hj : j.toNat < 64) : exec (.heldCompletionWrite j false) s = .next (stopCq s j.toNat) := by
  show execHeldCompletionWrite j false s = _
  rw [execHeldCompletionWrite, powered_on _ hp]
  simp only [hheld, hon, hrun, hroom, decide_eq_false (Nat.not_le.2 hj), Bool.not_true, Bool.or_self, Bool.false_eq_true, if_false]

end

theorem cq_stopCq_self (s : State) (j : Nat) : (stopCq s j).cq j = { s.cq j with stopped := true, stop := 0x8105 } := by
  rw [stopCq, raise_cq, cq_setCq_self]

/-- What a held completion of a host ring leaves once it has been written. -/
theorem heldWritten {s : State} {j : Nat} {x : Completion} {r : List Completion} (hj : j < 64) :
    let u := setCq s j { s.cq j with held := r }
    let t := advanceCq (entryAtTail u j x) j
    t.cq j = ({ s.cq j with held := r } : CompRing).advanced s.tim.now ∧ (∀ m, m ≠ j → t.cq m = s.cq m) ∧
      EventFrame { s with hostMem := Memory.write s.hostMem (cqSlot s j) (cqEntry s j x), hif := { s.hif with cqs := t.hif.cqs } } t := by
  intro u t
  have hcq : u.cq j = { s.cq j with held := r } := cq_setCq_self ..
  have hlog : u.cqLog j = s.cqLog j := by rw [State.cqLog, State.cqLog, if_pos hj, if_pos hj]; rfl
  have hmem : (entryAtTail u j x).hostMem = Memory.write s.hostMem (cqSlot s j) (cqEntry s j x) := by
    simp only [entryAtTail, cqSlot, cqEntry, hcq, hlog]
    rfl
  have hcqs : t.hif.cqs = (setCq (entryAtTail u j x) j (((entryAtTail u j x).cq j).advanced s.tim.now)).hif.cqs := bump_hif_cqs ..
  refine ⟨?_, fun m hm => ?_, ?_⟩
  · rw [cq_advanceCq_self]
    exact congrArg (fun q => CompRing.advanced q s.tim.now) hcq
  · rw [cq_advanceCq_ne _ hm]
    exact cq_setCq_ne _ _ hm
  · rw [hcqs, ← hmem]
    exact advanceCq_frame (entryAtTail u j x) j

/-! ## Interrupts -/

theorem irqDue_of {s : State} {n first count us : Nat} (hn : 0 < n) (h : count ≤ n ∨ first + 1000 * us ≤ s.tim.now.toNat) :
    s.irqDue n first count us = true := by
  simp only [State.irqDue, Bool.and_eq_true, Bool.or_eq_true, decide_eq_true_iff]
  omega

theorem sendVector_open {s : State} {v : Nat} (h : s.regBit (hifBase + 0x10000C + 16 * v) 0 = false) :
    EventFrame (s.emit (.interrupt v)) (sendVector s v) := by
  rw [sendVector, if_neg (ne_true_of_eq_false h)]
  exact bump_frame _ _ (by decide)

theorem sendVector_masked {s : State} {v : Nat} (h : s.regBit (hifBase + 0x10000C + 16 * v) 0 = true) :
    sendVector s v = s.setRegBit (hifBase + 0x110000 + v / 32 * 4) (v % 32) true := if_pos h

theorem exec_msixInterrupt_cq {s : State} {j : BitVec 6} (hup : s.endpointUp = true) (hon : bitOf (s.cqCfg j.toNat) 14 = true)
    (hirq : bitOf (s.cqCfg j.toNat) 15 = true) (hdue : s.irqDue (s.cq j.toNat).unsignalled (s.cq j.toNat).firstAt.toNat
      (bitsOf (s.cqCfg j.toNat) 23 16) (bitsOf (s.cqCfg j.toNat) 30 24) = true) :
    exec (.msixInterrupt (.cq j)) s =
      .next (sendVector (setCq s j.toNat { s.cq j.toNat with unsignalled := 0 }) (bitsOf (s.cqCfg j.toNat) 13 5)) := by
  show execMsixInterrupt (.cq j) s = _
  rw [execMsixInterrupt, overPcie_up _ hup]
  simp only [hon, hirq, hdue, Bool.and_self, if_true]

theorem exec_msixInterrupt_evq {s : State} (hup : s.endpointUp = true) (hon : bitOf (s.reg (hifBase + 0x28)) 14 = true)
    (hirq : bitOf (s.reg (hifBase + 0x28)) 15 = true) (hdue : s.irqDue s.hif.evqUnsignalled s.hif.evqFirstAt.toNat
      (bitsOf (s.reg (hifBase + 0x28)) 23 16) (bitsOf (s.reg (hifBase + 0x28)) 31 24) = true) :
    exec (.msixInterrupt .evq) s = .next (sendVector { s with hif := { s.hif with evqUnsignalled := 0 } } (bitsOf (s.reg (hifBase + 0x28)) 13 5)) := by
  show execMsixInterrupt .evq s = _
  rw [execMsixInterrupt, overPcie_up _ hup]
  simp only [hon, hirq, hdue, Bool.and_self, if_true]

/-! ## Internal doorbells -/

theorem exec_internalDoorbell_sq {s : State} {k : BitVec 6} {x : U32} (hp : s.pins.powered = true) :
    exec (.internalDoorbellWrite true k x) s = .next (newTail s (64 + k.toNat) x) := by
  show execInternalDoorbellWrite true k x s = _
  rw [execInternalDoorbellWrite, powered_on _ hp, if_pos rfl]

theorem exec_internalDoorbell_cq {s : State} {k : BitVec 6} {x : U32} (hp : s.pins.powered = true) (hon : s.cqOn (64 + k.toNat) = true)
    (hheld : (s.cq (64 + k.toNat)).held = []) :
    exec (.internalDoorbellWrite false k x) s = .next (setCq s (64 + k.toNat) { s.cq (64 + k.toNat) with head := x }) := by
  show execInternalDoorbellWrite false k x s = _
  rw [execInternalDoorbellWrite, powered_on _ hp]
  simp only [hon, hheld, List.length_nil, drainHeld, Bool.false_eq_true, if_false, if_true]

/-- A tail further ahead than the ring is long stops it (R547). -/
theorem newTail_tooFar {s : State} {i : Nat} {x : U32} (hrun : (s.sq i).state = 1) (hfar : 2 ^ s.sqLog i < (x - (s.sq i).head).toNat) :
    newTail s i x = stopSq s i 0x8109 := by
  simp only [newTail, hrun, bne_self_eq_false, Bool.false_eq_true, if_false, if_pos hfar]

theorem sq_showSq (s : State) (i k : Nat) : (showSq s i).sq k = s.sq k := by
  unfold showSq
  split <;> rfl

theorem sq_stopSq_self (s : State) (i st : Nat) : (stopSq s i st).sq i = { s.sq i with state := 2, stop := BitVec.ofNat 16 st } := by
  rw [stopSq, raise_sq, sq_showSq, sq_setSq_self]

end Sys2Proof.Machine

open Sys2Proof Sys2Proof.Machine

/-- Settles O12: the completion is written and counted, and counting reaches host memory only in the event ring. -/
theorem completionIsWrittenAtTail : Obligations.CompletionIsWrittenAtTail := by
  unfold Obligations.CompletionIsWrittenAtTail
  intro s x j hsq hon hrun hheld hroom hv2 k a hring
  have hj : j < 64 := sqCq_host_lt s hsq
  have hpost : post s x = advanceCq (entryAtTail s j x) j := by rw [post_written hon hrun hheld hroom, writeCompletion_host x hj]
  have hslot : cqSlot s j = a := by simp only [cqSlot, hv2, Bool.false_eq_true, if_false]; rfl
  have hentry : cqEntry s j x = completionBytes false x (1 - (k >>> s.cqLog j) % 2) := by rw [cqEntry, hv2]; rfl
  have hmem : (entryAtTail s j x).hostMem = Memory.write s.hostMem a (completionBytes false x (1 - (k >>> s.cqLog j) % 2)) := by
    simp only [entryAtTail, hslot, hentry]
  have hframe : EventFrame (setCq (entryAtTail s j x) j ((s.cq j).advanced s.tim.now)) (post s x) := by
    rw [hpost]
    exact advanceCq_frame (entryAtTail s j x) j
  refine ⟨by rw [hpost, cq_advanceCq_self]; rfl, fun i hi => by rw [hpost, cq_advanceCq_ne _ hi]; rfl, ?_, fun b hb hout => ?_, ?_⟩
  · refine (hframe.read hring).trans ?_
    have hwrite := Memory.read_write s.hostMem a (completionBytes false x (1 - (k >>> s.cqLog j) % 2))
    rw [length_completionBytes, ← hmem] at hwrite
    exact hwrite
  · refine (hframe.host b hout).trans ?_
    refine (congrArg (fun m => Memory.get m b) hmem).trans (Memory.get_write_outside _ ?_)
    rw [length_completionBytes]
    omega
  · obtain ⟨_, _, _, _, _, _, _, _, heq⟩ := hframe.same
    exact ⟨⟨_, _, _, by rw [heq]; rfl⟩, hframe.regs, fun _ _ => rfl⟩

/-- Settles O26: each command runs to its last branch, and what it writes lies outside what counting may change. -/
theorem ringEngineWakesIdlesAndPosts : Obligations.RingEngineWakesIdlesAndPosts := by
  unfold Obligations.RingEngineWakesIdlesAndPosts
  refine ⟨fun s hup => ⟨exec_wake_noBlock hup, fun hdb => ⟨rfl, exec_wake_block hup hdb⟩, fun hon hidle hbusy => ?_⟩, fun s hp => ⟨?_, ?_, ?_⟩⟩
  · exact ⟨rfl, read_writeIdle _, bump_frame _ _ (by decide), exec_idleEntry hup hon hidle hbusy⟩
  · intro j x r hheld hon hrun hroom q
    refine ⟨fun hj => ?_, fun hj ok => exec_heldCompletionWrite hp hheld hon hrun hroom (.inr hj), fun hj => ?_⟩
    · refine ⟨advanceCq (entryAtTail (setCq s j.toNat { s.cq j.toNat with held := r }) j.toNat x) j.toNat, ?_, heldWritten hj⟩
      rw [exec_heldCompletionWrite hp hheld hon hrun hroom (.inl rfl), writeCompletion_host x hj]
    · exact ⟨_, exec_heldCompletionWrite_fails hp hheld hon hrun hroom hj, cq_stopCq_self s j.toNat⟩
  · intro hready hperst
    have hup : s.endpointUp = true := by rw [State.endpointUp, hp, hready, hperst]; rfl
    refine ⟨?_, ?_⟩
    · intro j c q v hon hirq hn hdue u
      have hexec := exec_msixInterrupt_cq hup hon hirq (irqDue_of hn hdue)
      exact ⟨fun hopen => ⟨_, hexec, sendVector_open hopen⟩, fun hmask => hexec.trans (congrArg _ (sendVector_masked hmask))⟩
    · intro c v hon hirq hn hdue u
      have hexec := exec_msixInterrupt_evq hup hon hirq (irqDue_of hn hdue)
      exact ⟨fun hopen => ⟨_, hexec, sendVector_open hopen⟩, fun hmask => hexec.trans (congrArg _ (sendVector_masked hmask))⟩
  · intro k x
    have hsq := exec_internalDoorbell_sq (k := k) (x := x) hp
    refine ⟨hsq, exec_internalDoorbell_cq hp, fun hrun hfar => ⟨stopSq s (64 + k.toNat) 0x8109, ?_, ?_⟩⟩
    · rw [hsq, newTail_tooFar hrun hfar]
    · rw [sq_stopSq_self]
      exact ⟨rfl, rfl⟩
end

section
/-! ENABLE of the host's rings (R543, R546, R547): the configuration words, and what setting and clearing the bit leaves. -/

namespace Sys2Proof.Machine

/-! ## Fields of a register word -/

theorem testBit_bitsOf (v hi lo i : Nat) : (bitsOf v hi lo).testBit i = (decide (i < hi - lo + 1) && v.testBit (lo + i)) := by
  rw [bitsOf, Nat.testBit_mod_two_pow, Nat.testBit_shiftRight]

/-- Fields agree that hold the same bits. -/
theorem bitsOf_congr {v w hi lo : Nat} (hle : lo ≤ hi) (h : ∀ i, lo ≤ i → i ≤ hi → v.testBit i = w.testBit i) : bitsOf v hi lo = bitsOf w hi lo := by
  refine Nat.eq_of_testBit_eq fun i => ?_
  rw [testBit_bitsOf, testBit_bitsOf]
  by_cases hi' : i < hi - lo + 1
  · rw [h (lo + i) (by omega) (by omega)]
  · rw [decide_eq_false hi', Bool.false_and, Bool.false_and]

theorem testBit_setBits_one (v o x i : Nat) : (setBits v o o x).testBit i = if i = o then x.testBit 0 else v.testBit i := by
  refine (testBit_setBits v x (w := 1) Nat.one_pos i).trans ?_
  by_cases h : i = o
  · subst h
    rw [if_pos ⟨Nat.le_refl _, Nat.lt_succ_self _⟩, if_pos rfl, Nat.sub_self]
  · rw [if_neg (by omega), if_neg h]

/-- A configuration word as it is stored, with a bit set to a value. -/
theorem testBit_stored (v o x i : Nat) (hi : i < 32) :
    (setBits v o o x % 2 ^ 32).testBit i = if i = o then x.testBit 0 else v.testBit i := by
  rw [Nat.testBit_mod_two_pow, decide_eq_true hi, Bool.true_and, testBit_setBits_one]

theorem testBit_sqCfgStored (v o x i : Nat) (hi : i < 13) :
    ((setBits v o o x &&& 0x1FFF) % 2 ^ 32).testBit i = if i = o then x.testBit 0 else v.testBit i := by
  have hmask : (0x1FFF).testBit i = true := by
    rw [show 0x1FFF = 2 ^ 13 - 1 from rfl, Nat.testBit_two_pow_sub_one, decide_eq_true hi]
  rw [Nat.testBit_mod_two_pow, decide_eq_true (show i < 32 by omega), Bool.true_and, Nat.testBit_and, hmask, Bool.and_true, testBit_setBits_one]

/-! ## Writes to the configuration registers -/

@[simp] theorem setupOnly_setReg (s : State) (o v : Nat) : (s.setReg o v).setupOnly = s.setupOnly := by
  simp only [State.setupOnly, State.setReg_sec]

@[simp] theorem cq_setReg (s : State) (o v j : Nat) : (s.setReg o v).cq j = s.cq j := by
  simp only [State.cq, State.setReg_hif]

/-- One register is stored, and the host interface's records change. -/
theorem onlyRing_setReg (s : State) (o v : Nat) (h : Hif) : OnlyRing s { s.setReg o v with hif := h } o :=
  ⟨rfl, fun _ hne _ => State.reg_setReg_ne s v hne⟩

theorem badOffset_of_writable {s : State} {o : Nat} {d : RegDef} (hset : s.setupOnly = false) (hd : regDef o = some d) : s.badOffset o = false := by
  rw [State.badOffset, hd, hset]
  rfl

/-- A read-write register of the host interface. -/
def HifWritable (r : Nat) : Prop := blockAt (hifBase + r) = some ⟨.hif, 0, hifBase⟩ ∧ (regDef (hifBase + r)).map RegDef.acc = some .rw

theorem sqCfg_writable : ∀ i < 64, HifWritable (0x1008 + 0x20 * i) := by unfold HifWritable; decide +kernel
theorem cqCfg_writable : ∀ j < 64, HifWritable (0x2008 + 0x20 * j) := by unfold HifWritable; decide +kernel
theorem evqCfg_writable : HifWritable 0x28 := by unfold HifWritable; decide +kernel

theorem hostWrite_hif {s : State} {r : Nat} (v : Nat) (hset : s.setupOnly = false) (h : HifWritable r) :
    ∃ d, hostWrite s (hifBase + r) v = writeHif s r v d := by
  obtain ⟨hb, hacc⟩ := h
  obtain ⟨d, hd, hrw⟩ := Option.map_eq_some_iff.1 hacc
  refine ⟨d, ?_⟩
  rw [hostWrite_writable (badOffset_of_writable hset hd) hb hd (.inl hrw), writePlain_hif _ _ _ rfl, Nat.add_sub_cancel_left]

theorem writeHif_sqCfg {s : State} {i : Nat} (v : Nat) (d : RegDef) (hi : i < 64) : writeHif s (0x1008 + 0x20 * i) v d = writeSqCfg s i v := by
  have hidx : (0x1008 + 0x20 * i - 0x1000) / 0x20 = i := by omega
  have hmod : (0x1008 + 0x20 * i) % 0x20 = 8 := by omega
  unfold writeHif
  simp only [hidx, hmod]
  rw [if_neg (by simp only [Bool.or_eq_true, decide_eq_true_iff]; omega), if_neg (by simp only [Bool.or_eq_true, decide_eq_true_iff]; omega),
    if_neg (by omega), if_pos (by simp only [Bool.and_eq_true, decide_eq_true_iff]; omega), if_pos trivial]

theorem writeHif_cqCfg {s : State} {j : Nat} (v : Nat) (d : RegDef) (hj : j < 64) : writeHif s (0x2008 + 0x20 * j) v d = writeCqCfg s j v := by
  have hidx : (0x2008 + 0x20 * j - 0x2000) / 0x20 = j := by omega
  have hmod : (0x2008 + 0x20 * j) % 0x20 = 8 := by omega
  unfold writeHif
  simp only [hidx, hmod]
  rw [if_neg (by simp only [Bool.or_eq_true, decide_eq_true_iff]; omega), if_neg (by simp only [Bool.or_eq_true, decide_eq_true_iff]; omega),
    if_neg (by omega), if_neg (by simp only [Bool.and_eq_true, decide_eq_true_iff]; omega),
    if_pos (by simp only [Bool.and_eq_true, decide_eq_true_iff]; omega), if_pos trivial]

theorem hostWrite_sqCfg {s : State} {i : Nat} (v : Nat) (hset : s.setupOnly = false) (hi : i < 64) :
    hostWrite s (hifBase + 0x1008 + 0x20 * i) v = writeSqCfg s i v := by
  obtain ⟨d, hd⟩ := hostWrite_hif v hset (sqCfg_writable i hi)
  rw [Nat.add_assoc, hd, writeHif_sqCfg v d hi]

theorem hostWrite_cqCfg {s : State} {j : Nat} (v : Nat) (hset : s.setupOnly = false) (hj : j < 64) :
    hostWrite s (hifBase + 0x2008 + 0x20 * j) v = writeCqCfg s j v := by
  obtain ⟨d, hd⟩ := hostWrite_hif v hset (cqCfg_writable j hj)
  rw [Nat.add_assoc, hd, writeHif_cqCfg v d hj]

theorem hostWrite_evqCfg {s : State} (v : Nat) (hset : s.setupOnly = false) : hostWrite s (hifBase + 0x28) v = writeEvqCfg s v := by
  obtain ⟨d, hd⟩ := hostWrite_hif v hset evqCfg_writable
  rw [hd]
  rfl

/-! ## Submission rings -/

/-- The state with the configuration word of submission ring `i` stored, ENABLE set. -/
def sqStored (s : State) (i cfg : Nat) : State := s.setReg (hifBase + 0x1008 + 0x20 * i) (setBits cfg 12 12 1 &&& 0x1FFF)

section
variable {s : State} {i cfg : Nat}

theorem sqCfg_sqStored : (sqStored s i cfg).sqCfg i = (setBits cfg 12 12 1 &&& 0x1FFF) % 2 ^ 32 := State.reg_setReg_self ..

/-- The stored word holds the fields below ENABLE as they were written. -/
theorem sqCfg_sqStored_bitsOf {hi lo : Nat} (hle : lo ≤ hi) (h12 : hi < 12) : bitsOf ((sqStored s i cfg).sqCfg i) hi lo = bitsOf cfg hi lo := by
  rw [sqCfg_sqStored]
  refine bitsOf_congr hle fun k _ hk => ?_
  rw [testBit_sqCfgStored _ _ _ _ (by omega), if_neg (by omega)]

theorem sqCfg_sqStored_enabled : bitOf ((sqStored s i cfg).sqCfg i) 12 = true := by
  rw [sqCfg_sqStored, bitOf_eq_testBit, testBit_sqCfgStored _ _ _ _ (by decide), if_pos rfl]
  rfl

theorem sqCfg_sqStored_version : bitOf ((sqStored s i cfg).sqCfg i) 5 = bitOf cfg 5 := by
  rw [sqCfg_sqStored, bitOf_eq_testBit, bitOf_eq_testBit, testBit_sqCfgStored _ _ _ _ (by decide), if_neg (by decide)]

theorem reg_sqStored {o : Nat} (h : o ≠ hifBase + 0x1008 + 0x20 * i) : (sqStored s i cfg).reg o = s.reg o := State.reg_setReg_ne _ _ h

theorem ringOk_sqStored (log2 : Nat) : (sqStored s i cfg).ringOk ((sqStored s i cfg).reg64 (hifBase + 0x1000 + 0x20 * i)) log2 =
    s.ringOk (s.reg64 (hifBase + 0x1000 + 0x20 * i)) log2 := by
  have hbase : (sqStored s i cfg).reg64 (hifBase + 0x1000 + 0x20 * i) = s.reg64 (hifBase + 0x1000 + 0x20 * i) :=
    State.reg64_setReg_ne _ _ (by omega) (by omega)
  have hdb : (sqStored s i cfg).dbBase = s.dbBase := State.reg64_setReg_ne _ _ (by omega) (by omega)
  rw [State.ringOk, State.ringOk, hbase, hdb]

theorem exec_sqEnable {k : BitVec 6} {c : U32} (hp : s.pins.powered = true) (hset : s.setupOnly = false) (hoff : bitOf (s.sqCfg k.toNat) 12 = false) :
    exec (.sqEnable k c) s = .next (startSq (sqStored s k.toNat c.toNat) k.toNat) := by
  have hbit : bitOf (setBits c.toNat 12 12 1) 12 = true := by rw [bitOf_eq_testBit, testBit_setBits_one, if_pos rfl]; rfl
  show execSqEnable k c s = _
  rw [execSqEnable, powered_on _ hp, hostWrite_sqCfg _ hset k.isLt, writeSqCfg, hoff]
  simp only [hbit, Bool.false_eq_true, if_false, if_true]
  rfl

/-- A well-formed ring starts with its indexes at zero (R546). -/
theorem startSq_wellFormed (hset : s.setupOnly = false) (hi : i < 64)
    (hok : s.ringOk (s.reg64 (hifBase + 0x1000 + 0x20 * i)) (bitsOf cfg 4 0) = true) (hon : s.cqOn (bitsOf cfg 11 6) = true)
    (hrun : (s.cq (bitsOf cfg 11 6)).stopped = false) (hver : bitOf cfg 5 = bitOf (s.cqCfg (bitsOf cfg 11 6)) 31) :
    startSq (sqStored s i cfg) i = showSq (setSq (sqStored s i cfg) i (SubRing.fresh 1 0)) i := by
  have hlog : (sqStored s i cfg).sqLog i = bitsOf cfg 4 0 := by
    rw [State.sqLog, if_pos hi, sqCfg_sqStored_bitsOf (by decide) (by decide)]
  have hcq : (sqStored s i cfg).sqCq i = bitsOf cfg 11 6 := by
    rw [State.sqCq, if_pos hi, sqCfg_sqStored_bitsOf (by decide) (by decide)]
  have hv1 : (sqStored s i cfg).sqV1 i = bitOf cfg 5 := by
    rw [State.sqV1, decide_eq_true hi, Bool.true_and, sqCfg_sqStored_version]
  have hj : bitsOf cfg 11 6 < 64 := Nat.mod_lt _ (by decide)
  have hcfg : (sqStored s i cfg).cqCfg (bitsOf cfg 11 6) = s.cqCfg (bitsOf cfg 11 6) := reg_sqStored (by omega)
  have hon' : (sqStored s i cfg).cqOn (bitsOf cfg 11 6) = true := by
    rw [State.cqOn, if_pos hj, hcfg, ← hon, State.cqOn, if_pos hj]
  have hrun' : ((sqStored s i cfg).cq (bitsOf cfg 11 6)).stopped = false := hrun
  have hset' : (sqStored s i cfg).setupOnly = false := hset
  unfold startSq
  rw [hset', if_neg Bool.false_ne_true, hcq, hlog, hv1, hcfg, hon', hrun', ringOk_sqStored, hok, hver]
  simp only [Bool.not_false, Bool.and_self, beq_self_eq_true, if_true]

/-- A base or length that R546 refuses stops the ring. -/
theorem startSq_refused (hset : s.setupOnly = false) (hi : i < 64)
    (hbad : s.ringOk (s.reg64 (hifBase + 0x1000 + 0x20 * i)) (bitsOf cfg 4 0) = false) :
    startSq (sqStored s i cfg) i = stopSq (setSq (sqStored s i cfg) i (SubRing.fresh 0 0)) i 0x8106 := by
  have hlog : (sqStored s i cfg).sqLog i = bitsOf cfg 4 0 := by
    rw [State.sqLog, if_pos hi, sqCfg_sqStored_bitsOf (by decide) (by decide)]
  have hset' : (sqStored s i cfg).setupOnly = false := hset
  unfold startSq
  rw [hset', if_neg Bool.false_ne_true, hlog, ringOk_sqStored, hbad]
  simp only [Bool.false_and, Bool.false_eq_true, if_false]

theorem exec_sqDisable {k : BitVec 6} (hp : s.pins.powered = true) (hset : s.setupOnly = false) (hon : bitOf (s.sqCfg k.toNat) 12 = true) :
    exec (.sqDisable k) s = .next (stopFetch s k.toNat) := by
  have hbit : bitOf (setBits (s.reg (hifBase + 0x1008 + 0x20 * k.toNat)) 12 12 0) 12 = false := by
    rw [bitOf_eq_testBit, testBit_setBits_one, if_pos rfl]; rfl
  show execSqDisable k s = _
  rw [execSqDisable, powered_on _ hp]
  simp only [hostWrite_sqCfg _ hset k.isLt, writeSqCfg, hon, hbit, Bool.false_eq_true, if_false, if_true]

/-- A ring's state is shown beside its configuration, and no other register changes. -/
theorem showSq_host (s : State) (hi : i < 64) :
    showSq s i = s.setReg (hifBase + 0x100C + 0x20 * i) ((s.sq i).state + (s.sq i).stop.toNat * 0x10000) := if_pos hi

theorem ne_shown {b o : Nat} (h : o ≠ b + 0x1008 + 0x20 * i + 4) : o ≠ b + 0x100C + 0x20 * i := by omega

/-- A change of one configuration word, of the host interface's records and of the state shown is a change of one ring. -/
theorem onlyRing_showSq {u : State} (hi : i < 64) (hsame : u = { s with regs := u.regs, hif := u.hif })
    (hregs : ∀ o, o ≠ hifBase + 0x1008 + 0x20 * i → u.reg o = s.reg o) : OnlyRing s (showSq u i) (hifBase + 0x1008 + 0x20 * i) := by
  rw [showSq_host u hi]
  refine ⟨?_, fun o hcfg hstate => ?_⟩
  · rw [hsame]; rfl
  · rw [State.reg_setReg_ne _ _ (ne_shown hstate), hregs o hcfg]

theorem sqCfg_showSq (u : State) (hi : i < 64) : (showSq u i).sqCfg i = u.sqCfg i := by
  have hne : hifBase + 0x1008 + 0x20 * i ≠ hifBase + 0x100C + 0x20 * i := by omega
  rw [showSq_host u hi]
  exact State.reg_setReg_ne _ _ hne

end

/-- The event ring lies where it did when its base and its configuration are as they were. -/
theorem inEventRing_of_regs {s t : State} (hbase : t.reg64 (hifBase + 0x20) = s.reg64 (hifBase + 0x20))
    (hcfg : t.reg (hifBase + 0x28) = s.reg (hifBase + 0x28)) (a : Nat) : inEventRing t a = inEventRing s a := by
  rw [inEventRing, inEventRing, hbase, State.evqLog, State.evqLog, hcfg]

/-- A refused ENABLE changes, its own registers aside, what stopping a ring may change. -/
theorem stopSq_sqStored_frame (s : State) {i : Nat} (cfg st : Nat) (q : SubRing) (hi : i < 64) :
    RingFrame s { stopSq (setSq (sqStored s i cfg) i q) i st with regs := s.regs } := by
  obtain ⟨w, hw, heq⟩ : ∃ w, stopSq (setSq (sqStored s i cfg) i q) i st = raise w 0x4112 srcHif 0 i ∧
      w = { s with regs := w.regs, hif := w.hif } ∧ ∀ o, o ≠ hifBase + 0x1008 + 0x20 * i → o ≠ hifBase + 0x100C + 0x20 * i → w.reg o = s.reg o := by
    refine ⟨_, rfl, ?_, fun o hcfg hstate => ?_⟩
    · rw [showSq_host _ hi]; rfl
    · rw [showSq_host _ hi, State.reg_setReg_ne _ _ hstate]
      exact reg_sqStored hcfg
  obtain ⟨hsame, hregs⟩ := heq
  have hring (a : Nat) : inEventRing w a = inEventRing s a := by
    refine inEventRing_of_regs ?_ (hregs _ (by omega) (by omega)) a
    have hlo := hregs (hifBase + 0x20) (by omega) (by omega)
    have hhi := hregs (hifBase + 0x24) (by omega) (by omega)
    simp only [State.reg] at hlo hhi
    simp only [State.reg64, RegFile.get64, hlo, hhi]
  have hframe := raise_frame w 0x4112 srcHif 0 i
  rw [hw]
  obtain ⟨_, _, _, _, _, _, _, _, he⟩ := hframe.same
  refine ⟨⟨_, _, _, by rw [he, hsame]⟩, fun o _ => rfl, fun a ha => (hframe.host a (by rw [hring, ha])).trans ?_⟩
  rw [hsame]

/-! ## Completion rings and the event ring -/

theorem exec_cqEnable {s : State} {j : BitVec 6} {cfg : U32} (hp : s.pins.powered = true) (hset : s.setupOnly = false)
    (hoff : bitOf (s.cqCfg j.toNat) 14 = false) :
    exec (.cqEnable j cfg) s = .next (startCq (s.setReg (hifBase + 0x2008 + 0x20 * j.toNat) (setBits cfg.toNat 14 14 1)) j.toNat) := by
  have hbit : bitOf (setBits cfg.toNat 14 14 1) 14 = true := by rw [bitOf_eq_testBit, testBit_setBits_one, if_pos rfl]; rfl
  show execCqEnable j cfg s = _
  rw [execCqEnable, powered_on _ hp, hostWrite_cqCfg _ hset j.isLt, writeCqCfg, hoff]
  simp only [hbit, Bool.false_eq_true, if_false, if_true]

/-- A well-formed completion ring that holds nothing starts empty (R546). -/
theorem startCq_wellFormed {s : State} {j cfg : Nat} (hset : s.setupOnly = false) (hj : j < 64) (hheld : (s.cq j).held = [])
    (hok : s.ringOk (s.reg64 (hifBase + 0x2000 + 0x20 * j)) (bitsOf cfg 4 0) = true) :
    startCq (s.setReg (hifBase + 0x2008 + 0x20 * j) (setBits cfg 14 14 1)) j =
      setCq (s.setReg (hifBase + 0x2008 + 0x20 * j) (setBits cfg 14 14 1)) j CompRing.off := by
  generalize hu : s.setReg (hifBase + 0x2008 + 0x20 * j) (setBits cfg 14 14 1) = u
  have hlog : u.cqLog j = bitsOf cfg 4 0 := by
    have hcfg : u.cqCfg j = setBits cfg 14 14 1 % 2 ^ 32 := by rw [← hu]; exact State.reg_setReg_self ..
    rw [State.cqLog, if_pos hj, hcfg]
    refine bitsOf_congr (by decide) fun k _ hk => ?_
    rw [testBit_stored _ _ _ _ (by omega), if_neg (by omega)]
  have hbase : u.reg64 (hifBase + 0x2000 + 0x20 * j) = s.reg64 (hifBase + 0x2000 + 0x20 * j) := by
    rw [← hu, State.reg64_setReg_ne _ _ (by omega) (by omega)]
  have hdb : u.dbBase = s.dbBase := by rw [← hu, State.dbBase, State.reg64_setReg_ne _ _ (by omega) (by omega)]; rfl
  have hok' : u.ringOk (u.reg64 (hifBase + 0x2000 + 0x20 * j)) (u.cqLog j) = true := by rw [hlog, hbase, State.ringOk, hdb]; exact hok
  have hset' : u.setupOnly = false := by rw [← hu, setupOnly_setReg, hset]
  have hheld' : (u.cq j).held = [] := by rw [← hu, cq_setReg, hheld]
  simp only [startCq, hset', hok', hheld', Bool.false_eq_true, if_false, if_true, List.length_nil, drainHeld]
  rfl

theorem exec_cqDisable {s : State} {j : BitVec 6} (hp : s.pins.powered = true) (hset : s.setupOnly = false) (hon : bitOf (s.cqCfg j.toNat) 14 = true) :
    exec (.cqDisable j) s = .next (if s.cqNamed j.toNat then s else
      setCq (s.setRegBit (hifBase + 0x2008 + 0x20 * j.toNat) 14 false) j.toNat { CompRing.off with held := (s.cq j.toNat).held }) := by
  have hbit : bitOf (setBits (s.reg (hifBase + 0x2008 + 0x20 * j.toNat)) 14 14 0) 14 = false := by
    rw [bitOf_eq_testBit, testBit_setBits_one, if_pos rfl]; rfl
  show execCqDisable j s = _
  rw [execCqDisable, powered_on _ hp]
  simp only [hostWrite_cqCfg _ hset j.isLt, writeCqCfg, hon, hbit, Bool.false_or, if_true]

theorem cqCfg_setCq (s : State) (j k : Nat) (q : CompRing) : (setCq s j q).cqCfg k = s.cqCfg k := rfl

/-- A word stored with a bit set reads with that bit set. -/
theorem regBit_stored (s : State) (o v : Nat) {i : Nat} (hi : i < 32) : (s.setReg o (setBits v i i 1)).regBit o i = true := by
  rw [State.regBit, State.reg_setReg_self, bitOf_eq_testBit, testBit_stored _ _ _ _ hi, if_pos rfl]
  rfl

/-- A bit of a register reads as stored. -/
theorem regBit_setRegBit_self (s : State) (o : Nat) {i : Nat} (b : Bool) (hi : i < 32) : (s.setRegBit o i b).regBit o i = b := by
  simp only [State.regBit, State.setRegBit, State.setRegBits, State.reg_setReg_self]
  rw [bitOf_eq_testBit, testBit_stored _ _ _ _ hi, if_pos rfl]
  cases b <;> rfl

/-- The event ring once its indexes stand at zero. -/
def evqFresh (s : State) : State := { s with hif := { s.hif with evqTail := 0, evqHead := 0, evqUnsignalled := 0, evqStopped := false } }

theorem evqFresh_tail (s : State) : (evqFresh s).hif.evqTail = 0 := rfl
theorem evqFresh_head (s : State) : (evqFresh s).hif.evqHead = 0 := rfl
theorem evqFresh_open (s : State) : (evqFresh s).evqOpen = s.regBit (hifBase + 0x28) 14 := Bool.and_true _

theorem exec_evqEnable {s : State} {cfg : U32} (hp : s.pins.powered = true) (hset : s.setupOnly = false)
    (hoff : s.regBit (hifBase + 0x28) 14 = false) (hheld : s.hif.evqHeld = 0)
    (hok : s.ringOk (s.reg64 (hifBase + 0x20)) (bitsOf cfg.toNat 4 0) = true) :
    exec (.evqEnable cfg) s = .next (evqFresh (s.setReg (hifBase + 0x28) (setBits cfg.toNat 14 14 1))) := by
  have hbit : bitOf (setBits cfg.toNat 14 14 1) 14 = true := by rw [bitOf_eq_testBit, testBit_setBits_one, if_pos rfl]; rfl
  show execEvqEnable cfg s = _
  rw [execEvqEnable, powered_on _ hp, hostWrite_evqCfg _ hset, writeEvqCfg, hoff]
  simp only [hbit, Bool.false_eq_true, if_false, if_true]
  generalize hu : s.setReg (hifBase + 0x28) (setBits cfg.toNat 14 14 1) = u
  have hlog : u.evqLog = bitsOf cfg.toNat 4 0 := by
    have hcfg : u.reg (hifBase + 0x28) = setBits cfg.toNat 14 14 1 % 2 ^ 32 := by rw [← hu]; exact State.reg_setReg_self ..
    rw [State.evqLog, hcfg]
    refine bitsOf_congr (by decide) fun k _ hk => ?_
    rw [testBit_stored _ _ _ _ (by omega), if_neg (by omega)]
  have hbase : u.reg64 (hifBase + 0x20) = s.reg64 (hifBase + 0x20) := by rw [← hu, State.reg64_setReg_ne _ _ (by omega) (by omega)]
  have hdb : u.dbBase = s.dbBase := by rw [← hu, State.dbBase, State.reg64_setReg_ne _ _ (by omega) (by omega)]; rfl
  have hok' : u.ringOk (u.reg64 (hifBase + 0x20)) u.evqLog = true := by rw [hlog, hbase, State.ringOk, hdb]; exact hok
  have hset' : u.setupOnly = false := by rw [← hu, setupOnly_setReg, hset]
  have hheld' : u.hif.evqHeld = 0 := by rw [← hu]; exact hheld
  simp only [startEvq, hset', hok', resumeEvents, hheld', bne_self_eq_false, Bool.false_and, Bool.false_eq_true, if_false, if_true, evqFresh]

end Sys2Proof.Machine

open Sys2Proof Sys2Proof.Machine

/-- Settles O7: a write of a configuration word starts or stops its ring, and what it changes lies in the ring's own two registers. -/
theorem ringEnableChecksConfiguration : Obligations.RingEnableChecksConfiguration := by
  unfold Obligations.RingEnableChecksConfiguration
  intro s hp hset
  refine ⟨fun i cfg hoff => ?_, fun i hon => ?_, fun j cfg hoff hheld hok => ?_, fun j hon => ⟨fun hnamed => ?_, fun hfree => ?_⟩,
    fun cfg hoff hheld hok => ?_⟩
  · intro n j
    have hexec := exec_sqEnable (c := cfg) hp hset hoff
    refine ⟨fun hok hcq hrun hver => ?_, fun hbad => ?_⟩
    · rw [startSq_wellFormed hset i.isLt hok hcq hrun hver] at hexec
      refine ⟨_, hexec, by rw [sq_showSq, sq_setSq_self], ?_, ?_, onlyRing_showSq i.isLt rfl fun o ho => reg_sqStored ho⟩
      · rw [showSq_host _ i.isLt, State.reg_setReg_self, sq_setSq_self]; rfl
      · rw [sqCfg_showSq _ i.isLt]; exact sqCfg_sqStored_enabled
    · rw [startSq_refused hset i.isLt hbad] at hexec
      exact ⟨_, hexec, by rw [sq_stopSq_self], by rw [sq_stopSq_self]; rfl, stopSq_sqStored_frame s _ _ _ i.isLt⟩
  · refine ⟨_, exec_sqDisable hp hset hon, by rw [stopFetch, sq_showSq, sq_setSq_self], ?_,
      onlyRing_showSq i.isLt rfl fun o ho => State.reg_setRegBit_ne _ _ _ ho⟩
    rw [stopFetch, sqCfg_showSq _ i.isLt]
    exact regBit_setRegBit_self _ _ _ (by decide)
  · have hexec := exec_cqEnable (cfg := cfg) hp hset hoff
    rw [startCq_wellFormed hset j.isLt hheld hok] at hexec
    refine ⟨_, hexec, cq_setCq_self .., ?_, onlyRing_setReg ..⟩
    rw [cqCfg_setCq]
    exact regBit_stored _ _ _ (by decide)
  · rw [exec_cqDisable hp hset hon, if_pos hnamed]
  · refine ⟨_, (exec_cqDisable hp hset hon).trans (congrArg _ (if_neg (ne_true_of_eq_false hfree))), cq_setCq_self .., ?_,
      onlyRing_setReg ..⟩
    exact regBit_setRegBit_self _ _ _ (by decide)
  · refine ⟨_, exec_evqEnable hp hset hoff hheld hok, evqFresh_tail _, evqFresh_head _, ?_, onlyRing_setReg ..⟩
    rw [evqFresh_open]
    exact regBit_stored _ _ _ (by decide)
end

section
/-! Resets of the endpoint (R544, R609): what a table keeps of its keys, and an event that finds its ring closed (R565). -/

namespace Sys2Proof.Machine

/-- A key that a filter takes out of a table is not listed. -/
theorem kvGet_filter_none {α : Type} (p : Nat → Bool) (l : List (Nat × α)) {o : Nat} (h : p o = false) :
    kvGet (l.filter (fun e => p e.1)) o = none := by
  induction l with
  | nil => rfl
  | cons e r ih =>
    obtain ⟨k, w⟩ := e
    by_cases hk : p k
    · have hne : k ≠ o := by rintro rfl; rw [h] at hk; exact absurd hk Bool.false_ne_true
      simp [hk, kvGet, hne, ih]
    · simp [hk, ih]

/-! ## Events while the ring is closed -/

/-- An event does not open its ring. -/
theorem EventFrame.evqOpen {s t : State} (h : EventFrame s t) : t.evqOpen = s.evqOpen := by
  rw [State.evqOpen, State.evqOpen, State.regBit, State.regBit, h.regs _ (by decide), SameBut.hif_evqStopped h.same]

theorem evqRoom_closed {s : State} (h : s.evqOpen = false) : s.evqRoom = false := by
  rw [State.evqRoom, h, Bool.false_and]

theorem bumpRaw_hostMem (s : State) (g n k : Nat) : (bumpRaw s g n k).1.hostMem = s.hostMem := by
  unfold bumpRaw
  split_ifs
  · rfl
  · simp only
    split_ifs
    · rw [State.setReg64_hostMem]
    · rw [State.setRegBit_hostMem, State.setReg64_hostMem]

theorem recordCatch_hostMem (s : State) (src : Nat) : (recordCatch s src).hostMem = s.hostMem := by
  unfold recordCatch
  dsimp only
  rw [State.setReg64_hostMem, State.setReg64_hostMem, State.setReg_hostMem]

/-- Host memory is left alone by what leaves it alone when the event ring is closed. -/
def ClosedKeepsHost (r : State → State) : Prop := ∀ s : State, s.evqOpen = false → (r s).hostMem = s.hostMem

theorem bumpWith_closed {r : Nat → Nat → Nat → Nat → State → State} (hr : ∀ a b c d, ClosedKeepsHost (r a b c d)) {g n : Nat} (k : Nat)
    (hc : IsCounter g n) : ClosedKeepsHost (fun s => bumpWith r s g n k) := by
  intro s hs
  have hmem := bumpRaw_hostMem s g n k
  have hopen := (frame_bumpRaw s k hc).evqOpen
  simp only [bumpWith]
  split
  · next s' heq =>
    rw [heq] at hmem hopen
    exact (hr _ _ _ _ s' (hopen.trans hs)).trans hmem
  · next s' heq =>
    rw [heq] at hmem
    exact hmem

theorem raiseN_closed (d : Nat) : ∀ code src addr data, ClosedKeepsHost (raiseN d code src addr data) := by
  induction d with
  | zero => exact fun _ _ _ _ _ _ => rfl
  | succ d ih =>
    intro code src addr data s hs
    have hopen0 := (frame_countFamily s code).evqOpen.trans hs
    have hmem0 : (countFamily s code).hostMem = s.hostMem := rfl
    simp only [raiseN]
    generalize countFamily s code = s0 at *
    simp only [evqRoom_closed hopen0, Bool.not_false, Bool.or_true, if_true, Bool.false_eq_true, if_false]
    generalize hheld : ({ s0 with hif := { s0.hif with evqHeld := s0.hif.evqHeld + 1, evqLost := s0.hif.evqLost + 1 } } : State) = s1
    have hframe1 : EventFrame s0 s1 := by rw [← hheld]; exact frame_evqHeld s0 _ _
    have hmem1 : s1.hostMem = s.hostMem := by rw [← hheld]; exact hmem0
    have hopen1 := hframe1.evqOpen.trans hopen0
    have hframe2 := frame_bumpWith (frame_raiseN d) s1 (g := hifBase) (n := 4) 1 (by decide)
    have hmem2 := (bumpWith_closed ih 1 (show IsCounter hifBase 4 by decide) s1 hopen1).trans hmem1
    have hopen2 := hframe2.evqOpen.trans hopen1
    simp only at hmem2
    generalize bumpWith (raiseN d) s1 hifBase 4 1 = s2 at *
    split_ifs
    · exact hmem2
    · exact (bumpWith_closed ih 1 (show IsCounter snapBase 1 by decide) s2 hopen2).trans hmem2
    · have hopen3 := (frame_recordCatch s2 2).evqOpen.trans hopen2
      have hframe4 := frame_bumpWith (frame_raiseN d) (recordCatch s2 2) 1 (show IsCounter snapBase 0 by decide)
      have hopen4 := hframe4.evqOpen.trans hopen3
      exact (ih _ _ _ _ _ hopen4).trans ((bumpWith_closed ih 1 (show IsCounter snapBase 0 by decide) _ hopen3).trans
        ((recordCatch_hostMem s2 2).trans hmem2))

/-- An event that finds its ring closed writes nothing to host memory. -/
theorem raise_closed {s : State} (h : s.evqOpen = false) (code src addr data : Nat) : (raise s code src addr data).hostMem = s.hostMem :=
  raiseN_closed 6 _ _ _ _ s h

/-! ## The reset of the endpoint (R544) -/

/-- The state of R544 before its event. -/
def endpointReset (s : State) : State :=
  { s with
    regs := s.regs.filter (fun e => !hifResettable e.1),
    hif := { s.hif with
      sqs := s.hif.sqs.filter (fun e => 64 ≤ e.1), cqs := s.hif.cqs.filter (fun e => 64 ≤ e.1),
      evqTail := 0, evqHead := 0, evqHeld := 0, evqStopped := false, evqUnsignalled := 0, evqFirstAt := 0,
      idle := false,
      outCmds := s.hif.outCmds.map (fun o => if o.ctx.sq.toNat < 64 then { o with discard := true } else o) } }

theorem hostReset_eq (s : State) : hostReset s = raise (endpointReset s) 0x4113 srcHif 0 0 := rfl

theorem reg_endpointReset_self (s : State) {o : Nat} (h : hifResettable o = true) : (endpointReset s).reg o = regReset o := by
  have hnone := kvGet_filter_none (fun k => !hifResettable k) s.regs (o := o) (by rw [h]; rfl)
  simp only [State.reg, RegFile.get, endpointReset, hnone]

theorem reg_endpointReset_other (s : State) {o : Nat} (h : hifResettable o = false) : (endpointReset s).reg o = s.reg o := by
  have hsame := kvGet_filter (fun k => !hifResettable k) s.regs (o := o) (by rw [h]; rfl)
  simp only [State.reg, RegFile.get, endpointReset, hsame]

theorem rings_endpointReset_host (s : State) {k : Nat} (h : k < 64) :
    (endpointReset s).sq k = SubRing.off ∧ (endpointReset s).cq k = CompRing.off := by
  have hp : decide (64 ≤ k) = false := decide_eq_false (Nat.not_le.2 h)
  have hnone {α : Type} (l : List (Nat × α)) (d : α) : kvGetD (l.filter (fun e => decide (64 ≤ e.1))) k d = d := by
    rw [kvGetD, kvGet_filter_none (fun j => decide (64 ≤ j)) l hp]
    rfl
  exact ⟨hnone s.hif.sqs SubRing.off, hnone s.hif.cqs CompRing.off⟩

theorem rings_endpointReset_internal (s : State) {k : Nat} (h : 64 ≤ k) : (endpointReset s).sq k = s.sq k ∧ (endpointReset s).cq k = s.cq k := by
  have hp : decide (64 ≤ k) = true := decide_eq_true h
  have hsame {α : Type} (l : List (Nat × α)) (d : α) : kvGetD (l.filter (fun e => decide (64 ≤ e.1))) k d = kvGetD l k d := by
    rw [kvGetD, kvGet_filter (fun j => decide (64 ≤ j)) l hp]
    rfl
  exact ⟨hsame s.hif.sqs SubRing.off, hsame s.hif.cqs CompRing.off⟩

/-- The event ring is one of the rings that are disabled. -/
theorem evqOpen_endpointReset (s : State) : (endpointReset s).evqOpen = false := by
  rw [State.evqOpen, State.regBit, reg_endpointReset_self s (by decide)]
  rfl

theorem SameBut.eq_of_hostMem {s t : State} (h : SameBut s t) (hmem : t.hostMem = s.hostMem) : t = { s with regs := t.regs, hif := t.hif } := by
  obtain ⟨_, _, _, _, _, _, _, _, rfl⟩ := h
  simp only at hmem
  rw [hmem]

theorem hostReset_same (s : State) : hostReset s = { s with regs := (hostReset s).regs, hif := (hostReset s).hif } :=
  (same_raise (endpointReset s) 0x4113 srcHif 0 0).eq_of_hostMem (raise_closed (evqOpen_endpointReset s) ..)

/-- What R544 leaves of the host interface. -/
theorem hostReset_effect (s : State) :
    (∀ k < 64, (hostReset s).sq k = SubRing.off ∧ (hostReset s).cq k = CompRing.off) ∧
    (∀ k, 64 ≤ k → (hostReset s).sq k = s.sq k ∧ (hostReset s).cq k = s.cq k) ∧
    (hostReset s).hif.outCmds = s.hif.outCmds.map (fun o => if o.ctx.sq.toNat < 64 then { o with discard := true } else o) ∧
    (∀ o, hifResettable o = true → eventReg o = false → (hostReset s).reg o = regReset o) ∧
    (∀ o, hifResettable o = false → eventReg o = false → (hostReset s).reg o = s.reg o) := by
  have hregs := (raise_frame (endpointReset s) 0x4113 srcHif 0 0).regs
  simp only [hostReset_eq, raise_sq, raise_cq, raise_hif_outCmds]
  exact ⟨fun k => rings_endpointReset_host s, fun k => rings_endpointReset_internal s, rfl,
    fun o ho he => (hregs o he).trans (reg_endpointReset_self s ho), fun o ho he => (hregs o he).trans (reg_endpointReset_other s ho)⟩

/-- PERST# asserted. -/
def perstHeld (s : State) : State := { s with pins := { s.pins with perst := true } }

theorem exec_perstAssert_ready {s : State} (hp : s.pins.powered = true) (hready : s.pins.pkgReady = true) :
    exec .perstAssert s = .next (hostReset (perstHeld s)) := by
  show execPerstAssert s = _
  rw [execPerstAssert, powered_on _ hp]
  exact congrArg Host.Outcome.next (if_pos hready)

theorem exec_perstDeassert {s : State} (hp : s.pins.powered = true) :
    exec .perstDeassert s = .next { s with pins := { s.pins with perst := false } } := by
  show execPerstDeassert s = _
  rw [execPerstDeassert, powered_on _ hp]

theorem exec_endpointReset_up {s : State} {i : Instr} (hi : i = .functionLevelReset ∨ i = .hotReset) (hup : s.endpointUp = true) :
    exec i s = .next (hostReset s) := by
  rcases hi with rfl | rfl
  · exact overPcie_up hostReset hup
  · exact overPcie_up hostReset hup

end Sys2Proof.Machine

open Sys2Proof Sys2Proof.Machine

/-- Settles O23: each reset is R544's, on the state with its pin; the event that it raises finds the event ring closed. -/
theorem hostResetsActOnTheEndpoint : Obligations.HostResetsActOnTheEndpoint := by
  unfold Obligations.HostResetsActOnTheEndpoint
  intro s i hp
  refine ⟨fun hready hi => ?_, exec_perstDeassert hp⟩
  rcases hi with rfl | ⟨hi, hperst⟩
  · obtain ⟨hhost, hinternal, hout, hreset, hkept⟩ := hostReset_effect (perstHeld s)
    refine ⟨_, exec_perstAssert_ready hp hready, hhost, hinternal, hout, hreset, hkept, (hostReset_same (perstHeld s)).trans ?_⟩
    have hpin : (s.pins.perst || Instr.perstAssert == Instr.perstAssert) = true := by rw [beq_self_eq_true, Bool.or_true]
    rw [hpin]
    rfl
  · have hup : s.endpointUp = true := by rw [State.endpointUp, hp, hready, hperst]; rfl
    obtain ⟨hhost, hinternal, hout, hreset, hkept⟩ := hostReset_effect s
    refine ⟨_, exec_endpointReset_up hi hup, hhost, hinternal, hout, hreset, hkept, (hostReset_same s).trans ?_⟩
    have hpin : (s.pins.perst || i == Instr.perstAssert) = s.pins.perst := by
      rcases hi with rfl | rfl
      · exact Bool.or_false _
      · exact Bool.or_false _
    rw [hpin]
end

section
/-! Time sources (R592, R593, R595): what following the best source leaves of the time unit, a time that is delivered, and a source that
is lost. -/

namespace Sys2Proof.Machine

/-! ## Counting leaves the time unit's registers alone -/

/-- A management message that arrives is counted on the port that carries it. -/
theorem countMgmt_received_frame (s : State) (bytes : Nat) : EventFrame s (countMgmt s 1 bytes) := by
  unfold countMgmt
  split
  · next p hfind =>
    exact bump_frame _ _ (received_counter p (List.mem_range.1 (List.mem_of_find?_eq_some hfind)))
  · exact EventFrame.refl s

theorem State.timeOn_congr {s u : State} (h : u.reg (timBase + 0xC) = s.reg (timBase + 0xC)) : u.timeOn = s.timeOn := by
  funext x
  cases x <;> simp only [State.timeOn, State.regBit, h]

theorem State.bestSource_congr {s u : State} (h : u.reg (timBase + 0xC) = s.reg (timBase + 0xC)) (hl : u.tim.locked = s.tim.locked) :
    u.bestSource = s.bestSource := by
  rw [State.bestSource, State.bestSource, State.timeOn_congr h, hl]

theorem State.synced_congr {s u : State} (h : u.reg (timBase + 8) = s.reg (timBase + 8)) : u.synced = s.synced := by
  rw [State.synced, State.synced, State.regBit, State.regBit, h]

/-! ## Following the best source -/

theorem refreshSource_same {s : State} (h : s.bestSource = s.tim.source) : refreshSource s = s := if_pos h

/-- A new source is recorded with the time at which it took over, or at which the last one was lost. -/
theorem refreshSource_tim (s : State) : (refreshSource s).tim = { s.tim with
    source := s.bestSource, lostAt := if s.bestSource = s.tim.source then s.tim.lostAt else s.tim.now } := by
  by_cases hb : s.bestSource = s.tim.source
  · rw [refreshSource_same hb, hb, if_pos rfl]
  · have hclock : (if s.tim.source.isNone && s.synced then bumpClocks s timBase 1 else s).tim = s.tim := by
      split
      · exact bump_tim ..
      · rfl
    simp only [refreshSource, hb, if_false, raise_tim, bump_tim, State.setRegBits_tim, hclock]

/-- The status shows the source beside SYNCED, which it leaves alone. -/
theorem synced_refreshSource (s : State) : (refreshSource s).synced = s.synced := by
  by_cases hb : s.bestSource = s.tim.source
  · rw [refreshSource_same hb]
  · simp only [refreshSource, hb, if_false]
    generalize hs1 : (if s.tim.source.isNone && s.synced then bumpClocks s timBase 1 else s) = s1
    have h1 : s1.reg (timBase + 8) = s.reg (timBase + 8) := by
      rw [← hs1]
      split
      · exact (bumpClocks_frame s (by decide)).regs _ (by decide)
      · rfl
    generalize hs2 : State.setRegBits _ _ _ _ _ = s2
    have h2 := ((bump_frame s2 (g := timBase) (n := 0) 1 (by decide)).trans (raise_frame _ 0x4906 srcTim 0 (sourceCode s.bestSource))).regs
      (timBase + 8) (by decide)
    rw [State.synced_congr h2, ← hs2]
    refine Eq.trans ?_ (State.synced_congr (u := s1) h1)
    simp only [State.synced, State.regBit, State.setRegBits, State.reg_setReg_self, bitOf_eq_testBit, Nat.testBit_mod_two_pow]
    refine (congrArg _ (testBit_setBits _ _ (o := 1) (w := 4) (by decide) 0)).trans ?_
    rw [if_neg (by decide)]
    rfl

/-- `u` is `s` but for the time unit, registers, counting, raising events and free values. -/
def TimeFrame (s u : State) : Prop := u = { s with tim := u.tim, regs := u.regs, hostMem := u.hostMem, hif := u.hif, free := u.free }

theorem TimeFrame.refl (s : State) : TimeFrame s s := rfl

theorem TimeFrame.trans {s u v : State} (h1 : TimeFrame s u) (h2 : TimeFrame u v) : TimeFrame s v := by
  unfold TimeFrame at *
  rw [h2, h1]

theorem SameBut.time {s u : State} (h : SameBut s u) : TimeFrame s u := by
  obtain ⟨_, _, _, _, _, _, _, _, rfl⟩ := h
  rfl

theorem DrawFrame.time {s u : State} (h : DrawFrame s u) : TimeFrame s u := by
  obtain ⟨_, _, _, _, rfl⟩ := h.same
  rfl

theorem setReg_time (s : State) (o v : Nat) : TimeFrame s (s.setReg o v) := rfl
theorem tim_time (s : State) (t : Time) : TimeFrame s { s with tim := t } := rfl

theorem refreshSource_time (s : State) : TimeFrame s (refreshSource s) := by
  obtain ⟨-, ⟨_, _, _, _, _, h⟩, -⟩ := refreshSource_frame s
  rw [h]
  rfl

/-! ## A time is delivered (R595) -/

/-- The offset to the counter that slewing has to remove: to the nearest second, where a 1PPS input gives the phase (R593). -/
def slewGoal (s : State) (t : Nat) : Int :=
  if s.regBit (timBase + 0xC) 3 && s.tim.ppsSeen then nearestSecond ((t : Int) - (s.tim.now.toNat : Int)) else (t : Int) - (s.tim.now.toNat : Int)

/-- The first time of the selected source steps the counter. -/
theorem applyTime_first {s : State} {t : Nat} (h : s.synced = false) :
    TimeFrame s (applyTime s t) ∧ (applyTime s t).tim = { s.tim with
      now := BitVec.ofNat 64 (max s.tim.now.toNat t), slew := (t : Int) - (max s.tim.now.toNat t : Nat) } ∧ (applyTime s t).synced = true := by
  simp only [applyTime, h, Bool.not_false, if_true]
  refine ⟨rfl, rfl, ?_⟩
  rw [State.synced, State.regBit, State.reg_setReg_ne _ _ (by decide)]
  exact regBit_setRegBit_self _ _ _ (by decide)

/-- A later time leaves its offset to slewing. -/
theorem applyTime_later {s : State} {t : Nat} (h : s.synced = true) :
    TimeFrame s (applyTime s t) ∧ (applyTime s t).tim = { s.tim with slew := slewGoal s t } := by
  simp only [applyTime, h, Bool.not_true, Bool.false_eq_true, if_false]
  exact ⟨((tim_time s _).trans (setReg_time ..)).trans (bumpClocks_frame _ (by decide)).time, bump_tim ..⟩

/-- The source that is best with the sources `l` locked. -/
def State.bestOf (s : State) (l : List TimeSrc) : Option TimeSrc := [TimeSrc.ptp, .azmarlink, .evfek].find? (fun y => s.timeOn y && l.contains y)

/-- Source `x` has given the time `t`: `u` is `v` but for what R592 and R595 make of it, from the registers and the counter of `s`. -/
def TimeTaken (s v u : State) (x : TimeSrc) (t : Nat) : Prop :=
  TimeFrame v u ∧ u.tim.locked = (if s.tim.locked.contains x then s.tim.locked else s.tim.locked ++ [x]) ∧
  u.tim.source = s.bestOf u.tim.locked ∧
  (u.tim.source ≠ some x → u.tim.now = s.tim.now ∧ u.tim.slew = s.tim.slew) ∧
  (u.tim.source = some x → s.synced = false → u.tim.now = BitVec.ofNat 64 (max s.tim.now.toNat t) ∧ u.synced = true) ∧
  (u.tim.source = some x → s.synced = true → u.tim.now = s.tim.now ∧ u.tim.slew = slewGoal s t)

theorem timeFrom_taken (s : State) (x : TimeSrc) (t : Nat) : TimeTaken s s (timeFrom s x t) x t := by
  generalize hlocked : (if s.tim.locked.contains x then s.tim.locked else s.tim.locked ++ [x]) = l
  generalize hs1 : ({ s with tim := { s.tim with locked := l } } : State) = s1
  generalize hs2 : refreshSource s1 = s2
  have hu : timeFrom s x t = if s2.tim.source = some x then applyTime s2 t else s2 := by
    rw [← hs2, ← hs1, ← hlocked, timeFrom]
  have hframe : TimeFrame s s2 := by
    rw [← hs2, ← hs1]
    exact (tim_time s _).trans (refreshSource_time _)
  have htim : s2.tim = { s.tim with locked := l, source := s.bestOf l, lostAt := s2.tim.lostAt } := by
    rw [← hs2, refreshSource_tim, ← hs1]
    rfl
  have hsync : s2.synced = s.synced := by
    rw [← hs2, synced_refreshSource, ← hs1]
    rfl
  have hpps : s2.regBit (timBase + 0xC) 3 = s.regBit (timBase + 0xC) 3 := by
    have hreg := (refreshSource_frame s1).2.2 (timBase + 0xC) (by decide) (by decide)
    rw [State.regBit, ← hs2, hreg, ← hs1]
    rfl
  have hgoal : slewGoal s2 t = slewGoal s t := by rw [slewGoal, hpps, htim]; rfl
  rw [hu, TimeTaken, hlocked]
  by_cases hsrc : s2.tim.source = some x
  · rw [if_pos hsrc]
    cases hsynced : s2.synced with
    | false =>
      obtain ⟨hf, ht, hset⟩ := applyTime_first (t := t) hsynced
      rw [ht]
      refine ⟨hframe.trans hf, by rw [htim], by rw [htim], fun hne => absurd hsrc hne, fun _ _ => ⟨by rw [htim], hset⟩, fun _ h => ?_⟩
      rw [← hsync, hsynced] at h
      exact absurd h Bool.false_ne_true
    | true =>
      obtain ⟨hf, ht⟩ := applyTime_later (t := t) hsynced
      rw [ht, hgoal]
      refine ⟨hframe.trans hf, by rw [htim], by rw [htim], fun hne => absurd hsrc hne, fun _ h => ?_, fun _ _ => ⟨by rw [htim], rfl⟩⟩
      rw [← hsync, hsynced] at h
      exact absurd h.symm Bool.false_ne_true
  · rw [if_neg hsrc]
    exact ⟨hframe, by rw [htim], by rw [htim], fun _ => by rw [htim]; exact ⟨rfl, rfl⟩, fun h => absurd h hsrc, fun h => absurd h hsrc⟩

/-- What a message counts or forwards before its time is taken changes neither the time unit nor its registers. -/
theorem TimeTaken.after {s v a u : State} {x : TimeSrc} {t : Nat} (h : TimeTaken a a u x t) (hva : EventFrame v a)
    (htim : v.tim = s.tim) (hregs : v.regs = s.regs) : TimeTaken s v u x t := by
  have hreg (o : Nat) (ho : eventReg o = false) : a.reg o = s.reg o := (hva.regs o ho).trans (State.reg_congr hregs o)
  have hatim : a.tim = s.tim := (SameBut.tim hva.same).trans htim
  have hbest : a.bestOf = s.bestOf := by
    funext l
    rw [State.bestOf, State.bestOf, State.timeOn_congr (hreg _ (by decide))]
  have hsync : a.synced = s.synced := State.synced_congr (hreg _ (by decide))
  have hgoal : slewGoal a t = slewGoal s t := by rw [slewGoal, slewGoal, hatim, State.regBit, State.regBit, hreg _ (by decide)]
  obtain ⟨hframe, hrest⟩ := h
  rw [hbest, hsync, hgoal, hatim] at hrest
  exact ⟨(SameBut.time hva.same).trans hframe, hrest⟩

/-! ## A source is lost -/

/-- What losing source `x` leaves, from the registers and the time unit of `s`. -/
def SourceLost (s u : State) (x : TimeSrc) : Prop :=
  TimeFrame s u ∧ u.tim = { s.tim with
    locked := s.tim.locked.filter (fun y => y != x)
    source := s.bestOf (s.tim.locked.filter (fun y => y != x))
    lostAt := if s.bestOf (s.tim.locked.filter (fun y => y != x)) = s.tim.source then s.tim.lostAt else s.tim.now }

theorem loseSource_lost (s : State) (x : TimeSrc) : SourceLost s (loseSource s x) x :=
  ⟨(tim_time s _).trans (refreshSource_time _), refreshSource_tim _⟩

theorem SourceLost.after {s a u : State} {x : TimeSrc} (h : SourceLost a u x) (hsa : EventFrame s a) : SourceLost s u x := by
  have hbest : a.bestOf = s.bestOf := by
    funext l
    rw [State.bestOf, State.bestOf, State.timeOn_congr (hsa.regs _ (by decide))]
  obtain ⟨hframe, htim⟩ := h
  rw [(SameBut.tim hsa.same), hbest] at htim
  exact ⟨(SameBut.time hsa.same).trans hframe, htim⟩

/-! ## The commands -/

/-- What an interface counts when its message arrives. -/
def mgmtArrived (s : State) (src : MgmtSrc) (body : Nat) : State :=
  match src with | .fabric _ => countMgmt s 1 (mgmtBytes body) | .tray => s

theorem mgmtArrived_frame (s : State) (src : MgmtSrc) (body : Nat) : EventFrame s (mgmtArrived s src body) := by
  cases src with
  | fabric id => exact countMgmt_received_frame ..
  | tray => exact EventFrame.refl s

theorem onMgmt_runs {s : State} (src : MgmtSrc) (body : Nat) (f : State → State) (hp : s.pins.powered = true) (hrom : s.sec.romRecovery = false) :
    onMgmt s src body f = .next (f (mgmtArrived s src body)) := by
  rw [onMgmt, powered_on _ hp, hrom, if_neg Bool.false_ne_true]
  cases src <;> rfl

/-- A frame for this package, or for all, reaches the PMC, and one that is not for it alone goes on (R585). -/
theorem onFrame_runs {s : State} {h : EvfHdr} (f : State → State) (hp : s.pins.powered = true) (hopen : s.pins.bypassOpen = true)
    (hin : s.pins.pairsIn.any (fun b => b) = true) (hcrc : h.crcOk = true) (hdst : h.dst.toNat = s.ringPos ∨ h.dst = 0xFF) :
    onFrame s h f = .next (f (bump (forwardFrame s h) evfBase 0 1)) := by
  have hpos : (forwardFrame s h).ringPos = s.ringPos := by
    unfold forwardFrame
    split <;> rfl
  have hmine : (h.dst.toNat != (forwardFrame s h).ringPos && h.dst != 0xFF) = false := by
    rcases hdst with hd | hd
    · rw [hpos, hd, bne_self_eq_false, Bool.false_and]
    · rw [hd, bne_self_eq_false, Bool.and_false]
  rw [onFrame, powered_on _ hp, hopen, hin, hcrc]
  simp only [hmine, Bool.not_true, Bool.or_self, Bool.false_eq_true, if_false]

theorem forwardFrame_eq (s : State) (h : EvfHdr) :
    forwardFrame s h = { s with sent := s.sent ++ if h.dst.toNat ≠ s.ringPos ∧ s.ringOut = true then [.evfForward h] else [] } := by
  unfold forwardFrame
  by_cases hc : h.dst.toNat ≠ s.ringPos ∧ s.ringOut = true
  · rw [if_pos hc, if_pos (by simpa using hc)]
    rfl
  · rw [if_neg hc, if_neg (by simpa using hc), List.append_nil]

theorem exec_time_taken {s : State} {src : MgmtSrc} {o k : U64} {x : TimeSrc} (hp : s.pins.powered = true) (hrom : s.sec.romRecovery = false)
    (hx : x = match src with | .fabric _ => TimeSrc.azmarlink | .tray => TimeSrc.evfek) :
    ∃ u, exec (.time src o k) s = .next u ∧ TimeTaken s s u x (messageTime o k) := by
  refine ⟨timeFrom (mgmtArrived s src 16) x (messageTime o k), ?_, (timeFrom_taken ..).after (mgmtArrived_frame ..) rfl rfl⟩
  show execTime src o k s = _
  rw [execTime, onMgmt_runs _ _ _ hp hrom, hx]
  cases src <;> rfl

theorem exec_evfekTime_taken {s : State} {h : EvfHdr} {o k : U64} (hp : s.pins.powered = true) (hopen : s.pins.bypassOpen = true)
    (hin : s.pins.pairsIn.any (fun b => b) = true) (hcrc : h.crcOk = true) (hdst : h.dst.toNat = s.ringPos ∨ h.dst = 0xFF) :
    ∃ u, exec (.evfekTime h o k) s = .next u ∧ TimeTaken s { s with sent := s.sent ++
      if h.dst.toNat ≠ s.ringPos ∧ s.ringOut = true then [.evfForward h] else [] } u .evfek (messageTime o k) := by
  have hexec : exec (.evfekTime h o k) s = .next (timeFrom (bump (forwardFrame s h) evfBase 0 1) .evfek (messageTime o k)) :=
    onFrame_runs (fun s => timeFrom s .evfek (messageTime o k)) hp hopen hin hcrc hdst
  rw [forwardFrame_eq] at hexec
  exact ⟨_, hexec, (timeFrom_taken ..).after (bump_frame _ _ (by decide)) rfl rfl⟩

section
variable {s : State} {domain : BitVec 8} (hp : s.pins.powered = true)
include hp

/-- A PTP message of the own domain gives the time, or loses it. -/
theorem exec_ptpMessage_domain (t : U64) (locked : Bool) (hd : bitsOf (s.reg (timBase + 0xC)) 15 8 = domain.toNat) :
    exec (.ptpMessage domain locked t) s =
      .next (if locked then timeFrom (bump s timBase 3 1) .ptp t.toNat else loseSource (bump s timBase 3 1) .ptp) := by
  have hreg := (bump_frame s (g := timBase) (n := 3) 1 (by decide)).regs (timBase + 0xC) (by decide)
  show execPtpMessage domain locked t s = _
  rw [execPtpMessage, powered_on _ hp]
  simp only [hreg, hd, bne_self_eq_false, Bool.false_eq_true, if_false]

theorem exec_ptpMessage_other (t : U64) (locked : Bool) (hd : bitsOf (s.reg (timBase + 0xC)) 15 8 ≠ domain.toNat) :
    exec (.ptpMessage domain locked t) s = .next (bump s timBase 3 1) := by
  have hreg := (bump_frame s (g := timBase) (n := 3) 1 (by decide)).regs (timBase + 0xC) (by decide)
  show execPtpMessage domain locked t s = _
  rw [execPtpMessage, powered_on _ hp]
  simp only [hreg, bne_iff_ne.2 hd, if_true]

theorem exec_holdover_source {x : TimeSrc} (h : s.tim.source = some x) : exec .holdover s = .next (loseSource s x) := by
  show execHoldover s = _
  rw [execHoldover, powered_on _ hp, h]

theorem exec_holdover_none (h : s.tim.source = none) : exec .holdover s = .next s := by
  show execHoldover s = _
  rw [execHoldover, powered_on _ hp, h]

/-- OUT_OF_TOLERANCE is shown and reported. -/
def outOfTolerance (s : State) : State := raise (s.setRegBit (timBase + 8) 5 true) 0x4907 srcTim 0 0

omit hp in
theorem outOfTolerance_effect (s : State) : (outOfTolerance s).regBit (timBase + 8) 5 = true ∧ (outOfTolerance s).tim = s.tim ∧
    (outOfTolerance s).reg (timBase + 0x10) = s.reg (timBase + 0x10) := by
  have hregs := (raise_frame (s.setRegBit (timBase + 8) 5 true) 0x4907 srcTim 0 0).regs
  refine ⟨?_, raise_tim .., ?_⟩
  · rw [State.regBit, outOfTolerance, hregs _ (by decide)]
    exact regBit_setRegBit_self _ _ _ (by decide)
  · rw [outOfTolerance, hregs _ (by decide), State.reg_setRegBit_ne _ _ _ (by decide)]

theorem exec_timeOutOfTolerance_far {offset : U32} (hs : s.synced = true) (hfar : 1000000 < offset.toInt.natAbs) :
    exec (.timeOutOfTolerance offset false) s = .next (outOfTolerance (s.setReg (timBase + 0x10) offset.toNat)) := by
  show execTimeOutOfTolerance offset false s = _
  rw [execTimeOutOfTolerance, powered_on _ hp]
  simp only [hs, hfar, decide_true, Bool.not_true, Bool.not_false, Bool.and_self, Bool.true_or, Bool.false_eq_true, if_false, if_true]
  rfl

theorem exec_timeOutOfTolerance_holdover (offset : U32) (hs : s.synced = true) :
    exec (.timeOutOfTolerance offset true) s = .next (if s.holdoverLong then outOfTolerance s else s) := by
  show execTimeOutOfTolerance offset true s = _
  rw [execTimeOutOfTolerance, powered_on _ hp]
  simp only [hs, Bool.not_true, Bool.and_false, Bool.false_or, Bool.true_and, Bool.false_eq_true, if_false]
  rfl

theorem exec_timeOutOfTolerance_unsynced (offset : U32) (b : Bool) (hs : s.synced = false) : exec (.timeOutOfTolerance offset b) s = .next s := by
  show execTimeOutOfTolerance offset b s = _
  rw [execTimeOutOfTolerance, powered_on _ hp]
  simp only [hs, Bool.not_false, if_true]

theorem exec_ppsOutPulse : exec .ppsOutPulse s =
    .next (if s.regBit (timBase + 0xC) 4 && s.tim.now.toNat % 1000000000 < 20 then { s with sent := s.sent ++ [.pps] } else s) := by
  show execPpsOutPulse s = _
  rw [execPpsOutPulse, powered_on _ hp]
  rfl

end

end Sys2Proof.Machine

open Sys2Proof Sys2Proof.Machine

/-- Settles O52: each message gives its source a time, or takes the source away, behind what it counts. -/
theorem timeSourcesAct : Obligations.TimeSourcesAct := by
  unfold Obligations.TimeSourcesAct
  intro s hp best took lost
  refine ⟨fun o k hrom => ⟨fun id => exec_time_taken hp hrom rfl, exec_time_taken hp hrom rfl⟩,
    fun h o k hopen hin hcrc hdst => exec_evfekTime_taken hp hopen hin hcrc hdst,
    fun domain t => ⟨fun hd => ⟨?_, ?_⟩, fun hd l => ?_⟩, fun x hx => ⟨_, exec_holdover_source hp hx, loseSource_lost s x⟩,
    exec_holdover_none hp, fun offset => ⟨fun hs hfar => ?_, fun hs h4 hlong => ?_, fun hshort => ?_,
      fun hs b => exec_timeOutOfTolerance_unsynced hp offset b hs⟩, exec_ppsOutPulse hp⟩
  · exact ⟨_, (exec_ptpMessage_domain hp t true hd).trans (congrArg _ (if_pos rfl)), (timeFrom_taken ..).after (bump_frame _ _ (by decide)) rfl rfl⟩
  · exact ⟨_, (exec_ptpMessage_domain hp t false hd).trans (congrArg _ (if_neg Bool.false_ne_true)), (loseSource_lost ..).after (bump_frame _ _ (by decide))⟩
  · exact ⟨_, exec_ptpMessage_other hp t l hd, bump_frame _ _ (by decide)⟩
  · obtain ⟨hbit, htim, hreg⟩ := outOfTolerance_effect (s.setReg (timBase + 0x10) offset.toNat)
    refine ⟨_, exec_timeOutOfTolerance_far hp hs hfar, ?_, hbit, htim⟩
    rw [hreg, State.reg_setReg_self, Nat.mod_eq_of_lt offset.isLt]
  · obtain ⟨hbit, htim, hreg⟩ := outOfTolerance_effect s
    have hover : s.holdoverLong = true := by rw [State.holdoverLong, h4, decide_eq_true hlong]; rfl
    exact ⟨_, (exec_timeOutOfTolerance_holdover hp offset hs).trans (congrArg _ (if_pos hover)), hbit, hreg, htim⟩
  · cases hs : s.synced with
    | false => exact exec_timeOutOfTolerance_unsynced hp offset true hs
    | true =>
      have hover : s.holdoverLong = false := by
        rw [State.holdoverLong, Bool.and_eq_false_iff, decide_eq_false_iff_not, Nat.not_lt]
        exact hshort
      rw [exec_timeOutOfTolerance_holdover hp offset hs, hover]
      rfl
end

section
/-! The registers whose writes act (R43, R126, R341, R476, R507, R567, R582, R598): the register tables give each its block and its
access code, and the action is the one of its block. -/

namespace Sys2Proof.Machine

/-! ## Registers in the tables -/

/-- The register at `o` lies in block `b` and has access code `acc`. -/
def RegAt (o : Nat) (b : Blk) (acc : Access) : Prop := blockAt o = some b ∧ (regDef o).map RegDef.acc = some acc

theorem glbLock_at : RegAt (glbBase + 8) ⟨.glb, 0, 0⟩ .w1s := by unfold RegAt; decide +kernel
theorem thermMode_at : ∀ n < 8, RegAt (stackBase n + 8) ⟨.stack, n, stackBase n⟩ .rwl := by unfold RegAt; decide +kernel
theorem ckptNow_at : RegAt (ckptBase + 8) ⟨.pmc, 0, pmcBase⟩ .wo := by unfold RegAt; decide +kernel
theorem pwrLimit_at : RegAt (pwrBase + 8) ⟨.pwr, 0, pwrBase⟩ .rw := by unfold RegAt; decide +kernel
theorem summaryReq_at : RegAt (hifBase + 0x10) ⟨.hif, 0, hifBase⟩ .wo := by unfold RegAt; decide +kernel
theorem recovCtrl_at : RegAt (pmcBase + 0x2C) ⟨.pmc, 0, pmcBase⟩ .wo := by unfold RegAt; decide +kernel

theorem tileFlagClr_at : ∀ n < 4, ∀ p < 144, RegAt (tileBase n p + 0x28) ⟨.tile, n * 144 + p, tileBase n p⟩ .wo := by
  unfold RegAt; decide +kernel

/-- The clear register of every counter group is write-only. -/
theorem counterClear_wo (k : BlkKind) : ∀ g ∈ counterGroups k, ((blockRegs k).find? (fun d => d.covers (g.1 + 0xF4))).map RegDef.acc = some .wo := by
  cases k <;> decide +kernel

/-- A block's groups have different offsets. -/
theorem counterGroups_find (k : BlkKind) : ∀ g ∈ counterGroups k, (counterGroups k).find? (fun x => g.1 + 0xF4 == x.1 + 0xF4) = some g := by
  cases k <;> decide

theorem counterGroups_le (k : BlkKind) : ∀ g ∈ counterGroups k, g.2 ≤ 32 := by cases k <;> decide

theorem counterClear_at {o : Nat} {b : Blk} {g : Nat × Nat} (hb : blockAt o = some b) (hg : g ∈ counterGroups b.kind)
    (ho : o = b.base + g.1 + 0xF4) : RegAt o b .wo := by
  have hr : o - b.base = g.1 + 0xF4 := by omega
  exact ⟨hb, by rw [regDef, hb]; simp only [hr, counterClear_wo b.kind g hg]⟩

section
variable {s : State} {o v : Nat} {b : Blk} (hbad : s.badOffset o = false)
include hbad

theorem hostWrite_wo (h : RegAt o b .wo) : hostWrite s o v = actWo s b (o - b.base) v := by
  obtain ⟨hb, hacc⟩ := h
  obtain ⟨d, hd, hwo⟩ := Option.map_eq_some_iff.1 hacc
  simp only [hostWrite, hbad, hb, hd, hwo, Bool.false_eq_true, if_false]

theorem hostWrite_w1s (h : RegAt o b .w1s) : hostWrite s o v = writeSetupLock s v := by
  obtain ⟨hb, hacc⟩ := h
  obtain ⟨d, hd, hw1s⟩ := Option.map_eq_some_iff.1 hacc
  simp only [hostWrite, hbad, hb, hd, hw1s, Bool.false_eq_true, if_false]

end

theorem badOffset_of_regAt {s : State} {o : Nat} {b : Blk} {acc : Access} (hset : s.setupOnly = false) (h : RegAt o b acc) :
    s.badOffset o = false := by
  obtain ⟨d, hd, -⟩ := Option.map_eq_some_iff.1 h.2
  exact badOffset_of_writable hset hd

section
variable (s : State) (i base v : Nat)

/-- The write-only register of a tile selects flag records to clear. -/
theorem actWo_tile : actWo s ⟨.tile, i, base⟩ 0x28 v = clearFlags s ⟨BitVec.ofNat 2 (i / 144), BitVec.ofNat 8 (i % 144)⟩ (v % 4) := by
  rw [actWo, show (counterGroups BlkKind.tile).find? (fun g => 0x28 == g.1 + 0xF4) = none by decide]

theorem actWo_recovCtrl : actWo s ⟨.pmc, i, base⟩ 0x2C v = if bitOf v 0 then recoveryGo s else s := by
  rw [actWo, show (counterGroups BlkKind.pmc).find? (fun g => 0x2C == g.1 + 0xF4) = none by decide]
  exact if_pos rfl

theorem actWo_ckptNow : actWo s ⟨.pmc, i, base⟩ 0x2008 v = if bitOf v 0 then { s with ckpt := { s.ckpt with requested := true } } else s := by
  rw [actWo, show (counterGroups BlkKind.pmc).find? (fun g => 0x2008 == g.1 + 0xF4) = none by decide]
  exact (if_neg (by decide)).trans (if_pos rfl)

theorem actWo_summaryReq : actWo s ⟨.hif, i, base⟩ 0x10 v = if bitOf v 0 then summaryGo s else s := by
  rw [actWo, show (counterGroups BlkKind.hif).find? (fun g => 0x10 == g.1 + 0xF4) = none by decide]

end

/-! ## Counters (R598) -/

/-- The first `m` counters of the group at `g` are cleared where `v` selects them. -/
structure CountersCleared (g m v : Nat) (s u : State) : Prop where
  same   : u = { s with regs := u.regs }
  value  : ∀ k, u.reg64 (g + 0x100 + 8 * k) = if k < m ∧ bitOf v k = true then 0 else s.reg64 (g + 0x100 + 8 * k)
  sat    : ∀ k < 32, u.regBit (g + 0xF0) k = if k < m ∧ bitOf v k = true then false else s.regBit (g + 0xF0) k
  others : ∀ o, o ≠ g + 0xF0 → ¬(g + 0x100 ≤ o ∧ o < g + 0x100 + 8 * m) → u.reg o = s.reg o

/-- The counter `k` of a group is set to zero with its SATURATED bit. -/
def zeroCounter (s : State) (g k : Nat) : State := (s.setReg64 (g + 0x100 + 8 * k) 0).setRegBit (g + 0xF0) k false

theorem reg64_zeroCounter_self (s : State) (g k : Nat) : (zeroCounter s g k).reg64 (g + 0x100 + 8 * k) = 0 := by
  refine (State.reg64_setReg_ne _ _ (by omega) (by omega)).trans ?_
  exact State.reg64_setReg64_self _ _ _ (by decide)

theorem reg_zeroCounter_ne {s : State} {g k o : Nat} (h0 : o ≠ g + 0xF0) (h1 : o ≠ g + 0x100 + 8 * k) (h2 : o ≠ g + 0x104 + 8 * k) :
    (zeroCounter s g k).reg o = s.reg o := by
  have h2' : o ≠ g + 0x100 + 8 * k + 4 := by omega
  rw [zeroCounter, State.reg_setRegBit_ne _ _ _ h0, State.reg_setReg64_ne _ _ h1 h2']

theorem reg64_zeroCounter_ne {s : State} {g k i : Nat} (h : i ≠ k) : (zeroCounter s g k).reg64 (g + 0x100 + 8 * i) = s.reg64 (g + 0x100 + 8 * i) := by
  have hlo : (zeroCounter s g k).reg (g + 0x100 + 8 * i) = s.reg (g + 0x100 + 8 * i) := reg_zeroCounter_ne (by omega) (by omega) (by omega)
  have hhi : (zeroCounter s g k).reg (g + 0x100 + 8 * i + 4) = s.reg (g + 0x100 + 8 * i + 4) := reg_zeroCounter_ne (by omega) (by omega) (by omega)
  simp only [State.reg] at hlo hhi
  simp only [State.reg64, RegFile.get64, hlo, hhi]

theorem regBit_zeroCounter_self (s : State) (g : Nat) {k : Nat} (hk : k < 32) : (zeroCounter s g k).regBit (g + 0xF0) k = false :=
  regBit_setRegBit_self _ _ _ hk

theorem regBit_zeroCounter_ne (s : State) (g : Nat) {k i : Nat} (h : i ≠ k) (hi : i < 32) :
    (zeroCounter s g k).regBit (g + 0xF0) i = s.regBit (g + 0xF0) i := by
  refine (regBit_setRegBit_ne _ _ _ h hi).trans ?_
  have hlo : g + 0xF0 ≠ g + 0x100 + 8 * k := by omega
  have hhi : g + 0xF0 ≠ g + 0x100 + 8 * k + 4 := by omega
  rw [State.regBit, State.reg_setReg64_ne _ _ hlo hhi, State.regBit]

theorem CountersCleared.next {g m v : Nat} {s u : State} (h : CountersCleared g m v s u) (hm : m < 32) :
    CountersCleared g (m + 1) v s (if bitOf v m then zeroCounter u g m else u) := by
  cases hbit : bitOf v m with
  | false =>
    have hiff (k : Nat) : (k < m + 1 ∧ bitOf v k = true) ↔ (k < m ∧ bitOf v k = true) := by
      refine and_congr_left fun hk => ?_
      have hne : k ≠ m := by
        rintro rfl
        exact absurd (hbit.symm.trans hk) Bool.false_ne_true
      omega
    rw [if_neg Bool.false_ne_true]
    exact ⟨h.same, fun k => by simp only [hiff, h.value], fun k hk => by simp only [hiff, h.sat k hk], fun o h0 ho => h.others o h0 (by omega)⟩
  | true =>
    rw [if_pos rfl]
    refine ⟨?_, fun k => ?_, fun k hk => ?_, fun o h0 ho => ?_⟩
    · rw [h.same]; rfl
    · by_cases hkm : k = m
      · rw [hkm, reg64_zeroCounter_self, if_pos ⟨Nat.lt_succ_self m, hbit⟩]
      · have hiff : (k < m + 1) ↔ k < m := by omega
        rw [reg64_zeroCounter_ne hkm, h.value]
        simp only [hiff]
    · by_cases hkm : k = m
      · rw [hkm, regBit_zeroCounter_self _ _ hm, if_pos ⟨Nat.lt_succ_self m, hbit⟩]
      · have hiff : (k < m + 1) ↔ k < m := by omega
        rw [regBit_zeroCounter_ne _ _ hkm hk, h.sat k hk]
        simp only [hiff]
    · rw [reg_zeroCounter_ne h0 (by omega) (by omega)]
      exact h.others o h0 (by omega)

theorem clearCounters_cleared (s : State) (g v : Nat) : ∀ n ≤ 32, CountersCleared g n v s (clearCounters s g n v)
  | 0, _ => ⟨rfl, fun k => by simp [clearCounters], fun k _ => by simp [clearCounters], fun _ _ _ => rfl⟩
  | n + 1, h => by
    have hstep : clearCounters s g (n + 1) v = if bitOf v n then zeroCounter (clearCounters s g n v) g n else clearCounters s g n v := by
      simp only [clearCounters, List.range_succ, List.foldl_append, List.foldl_cons, List.foldl_nil, zeroCounter]
    rw [hstep]
    exact (clearCounters_cleared s g v n (by omega)).next (by omega)

theorem exec_counterClear {s : State} {off : BitVec 26} {v : U32} {b : Blk} {g : Nat × Nat} (hp : s.pins.powered = true)
    (halign : off.toNat % 4 = 0) (hbad : s.badOffset off.toNat = false) (hb : blockAt off.toNat = some b) (hg : g ∈ counterGroups b.kind)
    (ho : off.toNat = b.base + g.1 + 0xF4) : exec (.counterClear off v) s = .next (clearCounters s (b.base + g.1) g.2 v.toNat) := by
  have hr : off.toNat - b.base = g.1 + 0xF4 := by omega
  show execCounterClear off v s = _
  rw [execCounterClear, powered_on _ hp, halign, bne_self_eq_false, if_neg Bool.false_ne_true, hostWrite_wo hbad (counterClear_at hb hg ho), hr,
    actWo, counterGroups_find b.kind g hg]

/-! ## Single registers -/

section
variable {s : State} (v : U32) (hp : s.pins.powered = true) (hset : s.setupOnly = false)
include hp hset

theorem exec_glbSetupLock : exec (.glbSetupLock v) s = .next (writeSetupLock s v.toNat) := by
  show execGlbSetupLock v s = _
  rw [execGlbSetupLock, powered_on _ hp, hostWrite_w1s (badOffset_of_regAt hset glbLock_at) glbLock_at]

theorem exec_memThermMode (k : BitVec 3) (hopen : s.regBit 8 0 = false) : exec (.memThermMode k v) s = .next (writeThermMode s v.toNat) := by
  have hat := thermMode_at k.toNat k.isLt
  obtain ⟨d, hd, hrwl⟩ := Option.map_eq_some_iff.1 hat.2
  show execMemThermMode k v s = _
  rw [execMemThermMode, powered_on _ hp, hostWrite_writable (badOffset_of_regAt hset hat) hat.1 hd (.inr ⟨hrwl, hopen⟩), Nat.add_sub_cancel_left]
  rfl

theorem exec_tileFlagClr {t : TileId} (ht : t.ok = true) : exec (.tileFlagClr t v) s = .next (clearFlags s t (v.toNat % 4)) := by
  obtain ⟨die, phys⟩ := t
  have hphys : phys.toNat < 144 := of_decide_eq_true ht
  have hat := tileFlagClr_at die.toNat die.isLt phys.toNat hphys
  have hidx : (die.toNat * 144 + phys.toNat) / 144 = die.toNat ∧ (die.toNat * 144 + phys.toNat) % 144 = phys.toNat := by omega
  show execTileFlagClr ⟨die, phys⟩ v s = _
  rw [execTileFlagClr, powered_on _ hp, tileRegs, hostWrite_wo (badOffset_of_regAt hset hat) hat, Nat.add_sub_cancel_left,
    actWo_tile]
  simp only [hidx, BitVec.ofNat_toNat, BitVec.setWidth_eq]

theorem exec_ckptNow : exec (.ckptNow v) s =
    .next (if bitOf v.toNat 0 then { s with ckpt := { s.ckpt with requested := true } } else s) := by
  show execCkptNow v s = _
  rw [execCkptNow, powered_on _ hp, hostWrite_wo (badOffset_of_regAt hset ckptNow_at) ckptNow_at]
  exact congrArg _ (actWo_ckptNow ..)

theorem exec_pwrLimit : exec (.pwrLimit v) s = .next (setHostLimit s (v.toNat % 8192)) := by
  obtain ⟨d, hd, hrw⟩ := Option.map_eq_some_iff.1 pwrLimit_at.2
  show execPwrLimit v s = _
  rw [execPwrLimit, powered_on _ hp, hostWrite_writable (badOffset_of_regAt hset pwrLimit_at) pwrLimit_at.1 hd (.inl hrw)]
  rfl

theorem exec_hifSummaryReq (hgo : bitOf v.toNat 0 = true) : exec (.hifSummaryReq v) s = .next (summaryGo s) := by
  show execHifSummaryReq v s = _
  rw [execHifSummaryReq, powered_on _ hp, hostWrite_wo (badOffset_of_regAt hset summaryReq_at) summaryReq_at]
  exact congrArg _ ((actWo_summaryReq ..).trans (if_pos hgo))

end

theorem exec_pmcRecovCtrl {s : State} (v : U32) (hp : s.pins.powered = true) :
    exec (.pmcRecovCtrl v) s = .next (if bitOf v.toNat 0 then recoveryGo s else s) := by
  have hbad : s.badOffset (pmcBase + 0x2C) = false := by
    obtain ⟨d, hd, -⟩ := Option.map_eq_some_iff.1 recovCtrl_at.2
    rw [State.badOffset, hd, show setupOnlyOk (pmcBase + 0x2C) = true by decide, Bool.not_true, Bool.and_false]
    rfl
  show execPmcRecovCtrl v s = _
  rw [execPmcRecovCtrl, powered_on _ hp, hostWrite_wo hbad recovCtrl_at]
  exact congrArg _ (actWo_recovCtrl ..)

/-! ### LOCK and MEM_THERM_MODE -/

theorem writeSetupLock_effect (s : State) (v : Nat) : writeSetupLock s v = { s with regs := (writeSetupLock s v).regs } ∧
    (writeSetupLock s v).regBit 8 0 = (s.regBit 8 0 || bitOf v 0) ∧ ∀ o, o ≠ 8 → (writeSetupLock s v).reg o = s.reg o := by
  unfold writeSetupLock
  cases bitOf v 0 with
  | false => exact ⟨rfl, (Bool.or_false _).symm, fun _ _ => rfl⟩
  | true => exact ⟨rfl, (regBit_setRegBit_self s 8 true (by decide)).trans (Bool.or_true _).symm, fun o ho => State.reg_setRegBit_ne _ _ _ ho⟩

/-- The first `m` copies of MEM_THERM_MODE hold the value. -/
theorem thermModeCopies (s : State) (v : Nat) : ∀ m, ∃ u, (List.range m).foldl (fun s n => s.setReg (stackBase n + 8) (v % 2)) s = u ∧
    u = { s with regs := u.regs } ∧ (∀ n < m, u.reg (stackBase n + 8) = v % 2) ∧ ∀ o, (∀ n < m, o ≠ stackBase n + 8) → u.reg o = s.reg o
  | 0 => ⟨s, rfl, rfl, fun n hn => absurd hn (Nat.not_lt_zero n), fun _ _ => rfl⟩
  | m + 1 => by
    obtain ⟨u, hu, hsame, hval, hothers⟩ := thermModeCopies s v m
    refine ⟨u.setReg (stackBase m + 8) (v % 2), ?_, ?_, fun n hn => ?_, fun o ho => ?_⟩
    · rw [List.range_succ, List.foldl_append, hu]
      rfl
    · rw [hsame]; rfl
    · by_cases hnm : n = m
      · rw [hnm, State.reg_setReg_self, Nat.mod_eq_of_lt (by omega)]
      · have hne : stackBase n + 8 ≠ stackBase m + 8 := by simp only [stackBase]; omega
        rw [State.reg_setReg_ne _ _ hne]
        exact hval n (by omega)
    · rw [State.reg_setReg_ne _ _ (ho m (Nat.lt_succ_self m))]
      exact hothers o fun n hn => ho n (by omega)

/-! ### PWR_LIMIT (R507) -/

theorem EventFrame.withRegs {s t : State} (h : EventFrame s t) : EventFrame { s with regs := t.regs } t := by
  obtain ⟨_, _, _, _, _, _, _, _, he⟩ := h.same
  refine ⟨⟨_, _, _, _, _, _, _, _, by rw [he]⟩, fun _ _ => rfl, fun a ha => h.host a ?_⟩
  have hlo := h.regs (hifBase + 0x20) (by decide)
  have hhi := h.regs (hifBase + 0x24) (by decide)
  have hring : inEventRing { s with regs := t.regs } a = inEventRing s a := by
    refine inEventRing_of_regs ?_ (h.regs (hifBase + 0x28) (by decide)) a
    simp only [State.reg] at hlo hhi
    simp only [State.reg64, RegFile.get64, hlo, hhi]
  rw [← hring, ha]

/-- The smallest of the three limits, each of which lies below 2^32, stands in PWR_LIMIT_EFF. -/
theorem refreshLimit_effect {s : State} (hsmall : s.reg (pwrBase + 8) < 2 ^ 32) :
    EventFrame { s with regs := (refreshLimit s).regs } (refreshLimit s) ∧
    (refreshLimit s).reg (pwrBase + 0x14) = min (s.reg (pwrBase + 8)) (min (s.reg (pwrBase + 0xC)) (s.reg (pwrBase + 0x10))) ∧
    ∀ o, eventReg o = false → o ≠ pwrBase + 0x14 → (refreshLimit s).reg o = s.reg o := by
  generalize heff : min (s.reg (pwrBase + 8)) (min (s.reg (pwrBase + 0xC)) (s.reg (pwrBase + 0x10))) = eff
  have hlt : eff < 2 ^ 32 := heff ▸ lt_of_le_of_lt (Nat.min_le_left ..) hsmall
  have hu : refreshLimit s = if eff = s.reg (pwrBase + 0x14) then s else raise (s.setReg (pwrBase + 0x14) eff) 0x4809 srcPwr 0 eff := by
    rw [refreshLimit, heff]
  rw [hu]
  by_cases h : eff = s.reg (pwrBase + 0x14)
  · rw [if_pos h]
    exact ⟨EventFrame.refl s, h.symm, fun _ _ _ => rfl⟩
  · rw [if_neg h]
    have hraise := raise_frame (s.setReg (pwrBase + 0x14) eff) 0x4809 srcPwr 0 eff
    refine ⟨hraise.withRegs, ?_, fun o ho hne => ?_⟩
    · rw [hraise.regs _ (by decide), State.reg_setReg_self, Nat.mod_eq_of_lt hlt]
    · rw [hraise.regs o ho, State.reg_setReg_ne _ _ hne]

/-- The status register shows whether the limit was clamped; the limit and the effective limit follow. -/
theorem setHostLimit_eq {s : State} (w : Nat) (hhold : s.holding = false) :
    setHostLimit s w = refreshLimit ((s.setRegBit pwrBase 8 (clampLimit w != w)).setReg (pwrBase + 8) (clampLimit w)) := by
  rw [setHostLimit, hhold, Bool.false_and, if_neg Bool.false_ne_true, setLimit]
  by_cases h : clampLimit w = w
  · simp only [h, bne_self_eq_false, if_true, Bool.false_eq_true, if_false]
  · simp only [h, bne_iff_ne.2 h, if_true, if_false]

theorem clampLimit_lt (w : Nat) : clampLimit w < 2 ^ 32 := by unfold clampLimit; omega

theorem pwrLimit_effect {s : State} (w : Nat) (hhold : s.holding = false) : ∃ t, setHostLimit s w = t ∧ EventFrame { s with regs := t.regs } t ∧
    t.reg (pwrBase + 8) = clampLimit w ∧
    t.reg (pwrBase + 0x14) = min (t.reg (pwrBase + 8)) (min (s.reg (pwrBase + 0xC)) (s.reg (pwrBase + 0x10))) ∧
    ∀ o, eventReg o = false → o ∉ [pwrBase, pwrBase + 8, pwrBase + 0x14] → t.reg o = s.reg o := by
  generalize hx : (s.setRegBit pwrBase 8 (clampLimit w != w)).setReg (pwrBase + 8) (clampLimit w) = x
  have hlim : x.reg (pwrBase + 8) = clampLimit w := by
    rw [← hx, State.reg_setReg_self, Nat.mod_eq_of_lt (clampLimit_lt w)]
  have hxo (o : Nat) (h0 : o ≠ pwrBase) (h8 : o ≠ pwrBase + 8) : x.reg o = s.reg o := by
    rw [← hx, State.reg_setReg_ne _ _ h8, State.reg_setRegBit_ne _ _ _ h0]
  have hbase : ({ x with regs := (refreshLimit x).regs } : State) = { s with regs := (refreshLimit x).regs } := by rw [← hx]; rfl
  obtain ⟨hframe, heff, hothers⟩ := refreshLimit_effect (s := x) (by rw [hlim]; exact clampLimit_lt w)
  have hlim' : (refreshLimit x).reg (pwrBase + 8) = clampLimit w := by rw [hothers _ (by decide) (by decide), hlim]
  refine ⟨refreshLimit x, by rw [setHostLimit_eq w hhold, hx], hbase ▸ hframe, hlim', ?_, fun o ho hnot => ?_⟩
  · rw [heff, hlim, hlim', hxo (pwrBase + 0xC) (by decide) (by decide), hxo (pwrBase + 0x10) (by decide) (by decide)]
  · simp only [List.mem_cons, List.not_mem_nil, or_false, not_or] at hnot
    obtain ⟨h0, h8, h14⟩ := hnot
    rw [hothers o ho h14, hxo o h0 h8]

/-! ### HIF_SUMMARY_REQ (R567) -/

theorem summaryGo_writes {s : State} (hidle : s.regBit (hifBase + 0x14) 0 = false) (halign : s.reg64 (hifBase + 0x18) % 4096 = 0) :
    summaryGo s = (summaryWritten s (s.reg64 (hifBase + 0x18))).setReg (hifBase + 0x14) 2 := by
  simp only [summaryGo, hidle, halign, bne_self_eq_false, Bool.false_eq_true, if_false, takeSummary_eq, summaryWritten]

/-! ### The recovery mailbox (R581, R582) -/

theorem recoveryGo_notSetup {s : State} (hset : s.setupOnly = false) : recoveryGo s = s := by
  rw [recoveryGo, hset]
  rfl

section
variable {s : State} (hset : s.setupOnly = true) (hidle : s.regBit (pmcBase + 0x30) 0 = false) (hfree : s.sec.updating = none)
include hset hidle hfree

theorem recoveryGo_commits
    (hok : packageStatus s (Memory.read s.hostMem (s.reg64 (pmcBase + 0x20)) (s.reg (pmcBase + 0x28))) = 0) :
    recoveryGo s = raise ((commitOther (eraseOther s) ((parsePackage (Memory.read s.hostMem (s.reg64 (pmcBase + 0x20)) (s.reg (pmcBase + 0x28)))).getD
      [])).setReg (pmcBase + 0x30) 2) 0x4902 srcPmc 0 0 := by
  simp only [recoveryGo, hset, hidle, hfree, hok, Bool.not_true, Bool.or_self, Option.isSome_none, bne_self_eq_false, Bool.false_eq_true, if_false]

theorem recoveryGo_refuses
    (hbad : packageStatus s (Memory.read s.hostMem (s.reg64 (pmcBase + 0x20)) (s.reg (pmcBase + 0x28))) ≠ 0) :
    recoveryGo s = s.setReg (pmcBase + 0x30)
      (2 + packageStatus s (Memory.read s.hostMem (s.reg64 (pmcBase + 0x20)) (s.reg (pmcBase + 0x28))) * 0x10000) := by
  simp only [recoveryGo, hset, hidle, hfree, bne_iff_ne.2 hbad, Bool.not_true, Bool.or_self, Option.isSome_none, Bool.false_eq_true, if_false, if_true]

end

/-- Committing a package in the other bank leaves the running bank. -/
theorem runningBank_commitOther (s : State) (l : List Image) :
    (commitOther (eraseOther s) l).flash.banks.getD s.sec.bank ⟨none, []⟩ = s.flash.banks.getD s.sec.bank ⟨none, []⟩ := by
  have hne : s.sec.bank ≠ 1 - s.sec.bank := by omega
  exact (getD_setAt_ne _ _ _ hne).trans (getD_setAt_ne _ _ _ hne)

end Sys2Proof.Machine

open Sys2Proof Sys2Proof.Machine

/-- Settles O6: each register acts as its entry in the register tables says. -/
theorem actingRegistersAct : Obligations.ActingRegistersAct := by
  unfold Obligations.ActingRegistersAct
  refine ⟨⟨fun s off v b g n hp halign hbad hb hg ho => ?_, fun s v hp hset => ⟨?_, fun k hopen => ?_, fun t ht => ?_, ?_, fun hhold => ?_,
    fun hgo hidle halign => ?_, ?_⟩⟩, ?_⟩
  · have hcleared := clearCounters_cleared s (b.base + g) v.toNat n (counterGroups_le b.kind (g, n) hg)
    refine ⟨_, exec_counterClear hp halign hbad hb hg ho, hcleared.same, fun k hk => ⟨fun hbit => ?_, fun hbit => ?_⟩, hcleared.others⟩
    · have hsel : k < n ∧ bitOf v.toNat k = true := ⟨hk, hbit⟩
      have h32 : k < 32 := lt_of_lt_of_le hk (counterGroups_le b.kind (g, n) hg)
      rw [hcleared.value, hcleared.sat k h32, if_pos hsel, if_pos hsel]
      exact ⟨rfl, rfl⟩
    · have hnot : ¬(k < n ∧ bitOf v.toNat k = true) := fun h => absurd (hbit.symm.trans h.2) Bool.false_ne_true
      have h32 : k < 32 := lt_of_lt_of_le hk (counterGroups_le b.kind (g, n) hg)
      rw [hcleared.value, hcleared.sat k h32, if_neg hnot, if_neg hnot]
      exact ⟨rfl, rfl⟩
  · exact ⟨_, exec_glbSetupLock v hp hset, writeSetupLock_effect s v.toNat⟩
  · obtain ⟨u, hu, hsame, hval, hothers⟩ := thermModeCopies s v.toNat 8
    exact ⟨u, (exec_memThermMode v hp hset k hopen).trans (congrArg _ hu), hsame, hval, hothers⟩
  · have h0 : bitOf (v.toNat % 4) 0 = bitOf v.toNat 0 := by simp only [bitOf_eq_testBit, Nat.testBit_mod_two_pow v.toNat 2 0]; rfl
    have h1 : bitOf (v.toNat % 4) 1 = bitOf v.toNat 1 := by simp only [bitOf_eq_testBit, Nat.testBit_mod_two_pow v.toNat 2 1]; rfl
    have hcleared := clearFlags_cleared s t (v.toNat % 4)
    refine ⟨_, exec_tileFlagClr v hp hset ht, h0 ▸ hcleared.nan, h1 ▸ hcleared.ewl, hcleared.regs, ?_, hcleared.tiles, hcleared.same.eq⟩
    rw [hcleared.tile, Tile.clearCounts, h0, h1]
  · rw [exec_ckptNow v hp hset]
    cases bitOf v.toNat 0 with
    | false => rw [Bool.or_false]; rfl
    | true => rw [Bool.or_true]; rfl
  · obtain ⟨t, ht, hrest⟩ := pwrLimit_effect (v.toNat % 8192) hhold
    exact ⟨t, (exec_pwrLimit v hp hset).trans (congrArg _ ht), hrest⟩
  · refine ⟨_, (exec_hifSummaryReq v hp hset hgo).trans (congrArg _ (summaryGo_writes hidle halign)), State.reg_setReg_self .., ?_, ?_, ?_, ?_⟩
    · rw [State.setReg_hostMem, summaryWritten_hostMem]
    · rw [State.setReg_tiles, summaryWritten_frame]
    · rw [State.setReg_cores, summaryWritten_frame]
    · rw [State.setReg_mem, summaryWritten_frame]
  · rw [exec_pmcRecovCtrl v hp, recoveryGo_notSetup hset, ite_self]
  · intro s v hp hset hgo hidle hfree bs
    have hexec := (exec_pmcRecovCtrl v hp).trans (congrArg Host.Outcome.next (if_pos hgo))
    refine ⟨fun hok => ?_, fun hbad => hexec.trans (congrArg _ (recoveryGo_refuses hset hidle hfree hbad))⟩
    have hframe := raise_frame ((commitOther (eraseOther s) ((parsePackage bs).getD [])).setReg (pmcBase + 0x30) 2) 0x4902 srcPmc 0 0
    refine ⟨_, hexec.trans (congrArg _ (recoveryGo_commits hset hidle hfree hok)), hframe, ?_⟩
    rw [SameBut.flash hframe.same]
    exact runningBank_commitOther s _
end

section
/-! The PCIe link, the 1PPS pin, the flyover cables, the bridge wires and the heartbeats (R17 to R19, R30, R463, R539, R593, R614). -/

namespace Sys2Proof.Machine

/-! ## The PCIe link (R539) -/

/-- HIF_STATUS with the link's rate and width, and bus mastering. -/
def linkShown (s : State) (gen width : Nat) (master : Bool) : State :=
  (s.setRegBits hifBase 9 2 (gen % 8 + width % 32 * 8)).setRegBit hifBase 10 master

theorem exec_hostLinkChanged {s : State} (gen width : Nat) (master : Bool) (hup : s.endpointUp = true) :
    exec (.hostLinkChanged gen width master) s = .next (if bitsOf ((linkShown s gen width master).reg hifBase) 9 2 = bitsOf (s.reg hifBase) 9 2
      then linkShown s gen width master else raise (linkShown s gen width master) 0x4111 srcHif 0 0) :=
  overPcie_up (fun s => if bitsOf ((linkShown s gen width master).reg hifBase) 9 2 = bitsOf (s.reg hifBase) 9 2
    then linkShown s gen width master else raise (linkShown s gen width master) 0x4111 srcHif 0 0) hup

/-- A bit of HIF_STATUS once the link is shown. -/
theorem testBit_linkShown (s : State) (gen width : Nat) (master : Bool) {i : Nat} (hi : i < 32) :
    ((linkShown s gen width master).reg hifBase).testBit i = if i = 10 then master
      else if 2 ≤ i ∧ i < 10 then (gen % 8 + width % 32 * 8).testBit (i - 2) else (s.reg hifBase).testBit i := by
  have hfield : (s.setRegBits hifBase 9 2 (gen % 8 + width % 32 * 8)).reg hifBase = setBits (s.reg hifBase) 9 2 (gen % 8 + width % 32 * 8) % 2 ^ 32 :=
    State.reg_setReg_self ..
  have hword : (linkShown s gen width master).reg hifBase =
      setBits ((s.setRegBits hifBase 9 2 (gen % 8 + width % 32 * 8)).reg hifBase) 10 10 (bitAt master 0) % 2 ^ 32 := State.reg_setReg_self ..
  rw [hword, testBit_stored _ _ _ _ hi, hfield]
  by_cases h10 : i = 10
  · rw [if_pos h10, if_pos h10]
    cases master <;> rfl
  · rw [if_neg h10, if_neg h10, Nat.testBit_mod_two_pow, decide_eq_true hi, Bool.true_and]
    exact testBit_setBits _ _ (o := 2) (w := 8) (by decide) i

theorem linkShown_effect (s : State) (gen width : Nat) (master : Bool) :
    bitsOf ((linkShown s gen width master).reg hifBase) 9 2 = gen % 8 + width % 32 * 8 ∧
    (linkShown s gen width master).regBit hifBase 10 = master ∧ (linkShown s gen width master).regBit hifBase 1 = s.regBit hifBase 1 := by
  refine ⟨Nat.eq_of_testBit_eq fun i => ?_, ?_, ?_⟩
  · rw [testBit_bitsOf]
    by_cases hi : i < 8
    · have hin : 2 ≤ 2 + i ∧ 2 + i < 10 := by omega
      rw [testBit_linkShown _ _ _ _ (by omega), if_neg (by omega), if_pos hin, Nat.add_sub_cancel_left, decide_eq_true (show i < 9 - 2 + 1 from hi),
        Bool.true_and]
    · have hsmall : gen % 8 + width % 32 * 8 < 2 ^ i := lt_of_lt_of_le (show _ < 2 ^ 8 by omega) (Nat.pow_le_pow_right (by decide) (Nat.not_lt.1 hi))
      rw [decide_eq_false (show ¬i < 9 - 2 + 1 from hi), Bool.false_and, Nat.testBit_lt_two_pow hsmall]
  · rw [State.regBit, bitOf_eq_testBit, testBit_linkShown _ _ _ _ (by decide), if_pos rfl]
  · rw [State.regBit, State.regBit, bitOf_eq_testBit, bitOf_eq_testBit, testBit_linkShown _ _ _ _ (by decide), if_neg (by decide), if_neg (by decide)]

/-! ## The 1PPS pin (R593, R595) -/

/-- An edge is shown in TIM_STATUS. -/
def ppsShown (s : State) : State := ({ s with tim := { s.tim with ppsSeen := true } }).setRegBit (timBase + 8) 6 true

/-- The distance to the nearest whole second, shown in TIM_OFFSET and left to slewing. -/
def ppsAligned (s : State) (off : Int) : State :=
  ({ ppsShown s with tim := { (ppsShown s).tim with slew := off } }).setReg (timBase + 0x10) (offsetReg off)

/-- The distance of the counter from the nearest whole second. -/
def ppsOffset (s : State) : Int := nearestSecond (s.tim.now.toNat : Int) - (s.tim.now.toNat : Int)

theorem exec_ppsInEdge {s : State} (hp : s.pins.powered = true) : exec .ppsInEdge s = .next (
    if s.regBit (timBase + 0xC) 3 && s.synced then bumpClocks (ppsAligned s (ppsOffset s)) timBase 2 else ppsShown s) := by
  have hctrl : (ppsShown s).regBit (timBase + 0xC) 3 = s.regBit (timBase + 0xC) 3 := congrArg (bitOf · 3) (State.reg_setRegBit_ne _ _ _ (by decide))
  have hsync : (ppsShown s).synced = s.synced := regBit_setRegBit_ne _ _ _ (by decide) (by decide)
  rw [← hctrl, ← hsync]
  show execPpsInEdge s = _
  rw [execPpsInEdge, powered_on _ hp]
  rfl

theorem nearestSecond_near (x : Int) : nearestSecond x % 1000000000 = 0 ∧ -500000000 ≤ nearestSecond x - x ∧ nearestSecond x - x ≤ 500000000 := by
  unfold nearestSecond; omega

theorem offsetReg_lt (x : Int) : offsetReg x < 2 ^ 32 := by unfold offsetReg; omega

theorem ppsAligned_effect (s : State) (off : Int) : ∃ t, bumpClocks (ppsAligned s off) timBase 2 = t ∧
    t.tim = { s.tim with ppsSeen := true, slew := off } ∧ t.regBit (timBase + 8) 6 = true ∧ t.reg (timBase + 0x10) = offsetReg off ∧
    EventFrame { s with tim := t.tim, regs := t.regs, free := s.free + 1 } t ∧
    ∀ o, eventReg o = false → o ≠ timBase + 8 → o ≠ timBase + 0x10 → t.reg o = s.reg o := by
  have hframe := bumpClocks_frame (ppsAligned s off) (g := timBase) (n := 2) (by decide)
  have hevent : EventFrame { ppsAligned s off with free := (ppsAligned s off).free + 1 } (bumpClocks (ppsAligned s off) timBase 2) :=
    bump_frame _ _ (by decide)
  have htim : (bumpClocks (ppsAligned s off) timBase 2).tim = { s.tim with ppsSeen := true, slew := off } := bump_tim ..
  have hshown (o : Nat) : ({ ppsShown s with tim := { (ppsShown s).tim with slew := off } } : State).reg o = (ppsShown s).reg o := rfl
  refine ⟨_, rfl, htim, ?_, ?_, ?_, fun o ho h8 h10 => ?_⟩
  · rw [State.regBit, hframe.regs _ (by decide), ppsAligned, State.reg_setReg_ne _ _ (by decide), hshown]
    exact regBit_setRegBit_self { s with tim := { s.tim with ppsSeen := true } } (timBase + 8) true (by decide)
  · rw [hframe.regs _ (by decide), ppsAligned, State.reg_setReg_self, Nat.mod_eq_of_lt (offsetReg_lt off)]
  · have hsame (r : RegFile) : ({ ppsAligned s off with regs := r, free := (ppsAligned s off).free + 1 } : State) =
        { s with tim := { s.tim with ppsSeen := true, slew := off }, regs := r, free := s.free + 1 } := by
      simp only [ppsAligned, ppsShown, State.setRegBit, State.setRegBits, State.setReg]
    rw [htim, ← hsame]
    exact hevent.withRegs
  · rw [hframe.regs o ho, ppsAligned, State.reg_setReg_ne _ _ h10, hshown]
    exact State.reg_setRegBit_ne { s with tim := { s.tim with ppsSeen := true } } _ _ h8

/-! ## The flyover cables (R614) -/

/-- What a path change may touch beside its ports: the sequence spaces, the drains, what is sent, and counting and raising events. -/
def PathFrame (s t : State) : Prop := ∃ ps x d e o r m h, t = { s with
  fab := { s.fab with ports := ps, tx := x, drains := d, drainsOut := e }, sent := o, regs := r, hostMem := m, hif := h }

theorem PathFrame.refl (s : State) : PathFrame s s := ⟨s.fab.ports, s.fab.tx, s.fab.drains, s.fab.drainsOut, s.sent, s.regs, s.hostMem, s.hif, rfl⟩

theorem PathFrame.trans {s t u : State} (h1 : PathFrame s t) (h2 : PathFrame t u) : PathFrame s u := by
  obtain ⟨_, _, _, _, _, _, _, _, rfl⟩ := h1
  obtain ⟨_, _, _, _, _, _, _, _, rfl⟩ := h2
  exact ⟨_, _, _, _, _, _, _, _, rfl⟩

theorem PathFrame.foldl {α : Type} {f : State → α → State} (hf : ∀ a s, PathFrame s (f s a)) : ∀ (l : List α) s, PathFrame s (l.foldl f s)
  | [], s => PathFrame.refl s
  | a :: l, s => (hf a s).trans (PathFrame.foldl hf l (f s a))

theorem SameBut.path {s t : State} (h : SameBut s t) : PathFrame s t := by
  obtain ⟨_, _, _, _, _, _, _, _, rfl⟩ := h
  exact ⟨_, _, _, _, _, _, _, _, rfl⟩

theorem WireFrame.path {s t : State} (h : WireFrame s t) : PathFrame s t := by
  obtain ⟨_, _, _, _, _, _, rfl⟩ := h
  exact ⟨_, _, _, _, _, _, _, _, rfl⟩

theorem setTx_path (s : State) (x : TxSpace) : PathFrame s (setTx s x) := ⟨_, _, _, _, _, _, _, _, rfl⟩
theorem emit_path (s : State) (o : Out) : PathFrame s (s.emit o) := ⟨_, _, _, _, _, _, _, _, rfl⟩
theorem drains_path (s : State) (d : List DrainState) (e : List (U16 × Nat × Bool)) :
    PathFrame s { s with fab := { s.fab with drains := d, drainsOut := e } } := ⟨_, _, _, _, _, _, _, _, rfl⟩
theorem modPort_path (s : State) (p : Nat) (f : Port → Port) : PathFrame s (s.modPort p f) := ⟨_, _, _, _, _, _, _, _, rfl⟩

theorem emitPacket_path (s : State) (p : Nat) (typ : PktType) (h : PktHdr) (data : List Byte) (poison : List Bool) :
    PathFrame s (emitPacket s p typ h data poison) := (emit_path ..).trans (same_bump ..).path

theorem transmitReq_path (s : State) (x : TxSpace) (r : TxReq) (p : Nat) (retry : Bool) : PathFrame s (transmitReq s x r p retry) :=
  (setTx_path ..).trans (emitPacket_path ..)

theorem resendReq_path (s : State) (dst : U16) (fd : Nat) (seq : U32) : PathFrame s (resendReq s dst fd seq) := by
  unfold resendReq
  simp only
  split
  · exact PathFrame.refl s
  · split
    · exact PathFrame.refl s
    · exact transmitReq_path ..

theorem deadPath_path (s : State) (dst : U16) (p : Nat) : PathFrame s (deadPath s dst p) := by
  unfold deadPath
  simp only
  have hraise : PathFrame s (raise s 0x4304 (srcFab (p / 8)) 0 dst.toNat) := (same_raise ..).path
  generalize raise s 0x4304 (srcFab (p / 8)) 0 dst.toNat = s1 at hraise ⊢
  generalize hs2 : List.foldl _ s1 _ = s2
  have hresent : PathFrame s1 s2 := by
    rw [← hs2]
    refine .foldl (fun r t => ?_) _ _
    split
    · exact PathFrame.refl t
    · exact (resendReq_path ..).trans (same_bump ..).path
  exact ((hraise.trans hresent).trans (drains_path ..)).trans (.foldl (fun r t => (sendReq_wire t r).path) _ _)

theorem sendDrain_path (s : State) (dst : U16) (p : Nat) (forPath : Bool) : PathFrame s (sendDrain s dst p forPath) :=
  ((setTx_path ..).trans (emitPacket_path ..)).trans (drains_path ..)

theorem drainPaths_path (s : State) (dst : U16) (old : List (Option Nat)) : PathFrame s (drainPaths s dst old) := by
  unfold drainPaths
  refine .foldl (fun p t => ?_) _ _
  simp only
  split
  · split
    · exact deadPath_path ..
    · exact PathFrame.refl t
  · split
    · exact deadPath_path ..
    · exact (sendDrain_path t dst p true).trans (drains_path ..)

/-- A path change touches what the change touches, and what sending and draining touch. -/
theorem pathChange_path (s : State) (f : State → State) : PathFrame (f s) (pathChange s f) :=
  PathFrame.foldl (f := fun s (e : U16 × List (Option Nat)) => drainPaths s e.1 e.2) (fun e t => drainPaths_path t e.1 e.2) _ (f s)

/-- The cable of connector `c` is recorded as seated, or not. -/
def cableSet (s : State) (c : Nat) (seated : Bool) : State :=
  { s with fab := { s.fab with flySeated := setAt s.fab.flySeated c (fun _ => seated) } }

/-- A port of a seated cable serves unless it is disabled or has fewer than two lanes. -/
def portServed (s : State) (p : Nat) (x : Port) : Port := { x with disabled := s.regBit (portBase p + 4) 2 || !s.portServes p }

theorem exec_flyPresentChange {s : State} (c : BitVec 2) (seated : Bool) (hp : s.pins.powered = true) :
    exec (.flyPresentChange c seated) s = .next (if seated then (List.range 4).foldl (fun s k => s.modPort (4 * c.toNat + k) (portServed s (4 * c.toNat + k)))
      (cableSet s c.toNat true) else missingCable (cableSet s c.toNat false) c.toNat) := by
  show execFlyPresentChange c seated s = _
  rw [execFlyPresentChange, powered_on _ hp]
  cases seated <;> rfl

/-- The first `m` ports of connector `c` are changed by `f`, port by port; the other ports are those of `s`. -/
def CablePorts (c m : Nat) (f : Nat → Port → Port) (s u : State) : Prop :=
  u.fab.ports.length = 16 ∧ ∀ p < 16, u.port p = if 4 * c ≤ p ∧ p < 4 * c + m then f p (s.port p) else s.port p

theorem CablePorts.next {c m : Nat} {f : Nat → Port → Port} {s u v : State} (h : CablePorts c m f s u)
    (hone : PortOnly (4 * c + m) (f (4 * c + m) (u.port (4 * c + m))) u v) : CablePorts c (m + 1) f s v := by
  obtain ⟨hlen, hports⟩ := h
  refine ⟨hone.count.trans hlen, fun p hp => ?_⟩
  by_cases hpm : p = 4 * c + m
  · rw [if_pos (by omega)]
    subst hpm
    rw [hone.port, hports _ hp, if_neg (by omega)]
  · rw [hone.others.1 p hpm, hports p hp]
    have hiff : (4 * c ≤ p ∧ p < 4 * c + m) ↔ (4 * c ≤ p ∧ p < 4 * c + (m + 1)) := by omega
    simp only [hiff]

/-- The four ports of a connector. -/
theorem CablePorts.all {c : Nat} {f : Nat → Port → Port} {s u : State} (h : CablePorts c 4 f s u) {p : Nat} (hp : p < 16) :
    u.port p = if p / 4 = c then f p (s.port p) else s.port p := by
  have hiff : (4 * c ≤ p ∧ p < 4 * c + 4) ↔ p / 4 = c := by omega
  rw [h.2 p hp]
  simp only [hiff]

section
variable {s : State} {c : Nat} (hc : c < 4) (h16 : s.fab.ports.length = 16)
include hc h16

/-- Ports lose their paths one by one, with an event each. -/
theorem missingCable_ports : ∀ m ≤ 4, ∃ u, (List.range m).foldl (fun s k =>
      let p := 4 * c + k
      raise (pathChange s (fun s => s.modPort p portOff)) 0x4303 (srcPort p) 0 p) s = u ∧ PathFrame s u ∧ CablePorts c m (fun _ => portOff) s u ∧
      u.tiles = s.tiles ∧ u.cores = s.cores ∧ u.mem = s.mem
  | 0, _ => ⟨s, rfl, PathFrame.refl s, ⟨h16, fun p _ => (if_neg (by omega)).symm⟩, rfl, rfl, rfl⟩
  | m + 1, hm => by
    obtain ⟨u, hu, hpath, hports, htiles, hcores, hmem⟩ := missingCable_ports m (by omega)
    have hone := (pathChange_modPort (p := 4 * c + m) (by omega) hports.1 portOff).frame (raise_ports _ 0x4303 (srcPort (4 * c + m)) 0 (4 * c + m))
    obtain ⟨-, hmem', htiles', hcores'⟩ := hone.others
    refine ⟨_, by rw [List.range_succ, List.foldl_append, hu, List.foldl_cons, List.foldl_nil], ?_, hports.next hone, htiles'.trans htiles, hcores'.trans hcores, hmem'.trans hmem⟩
    exact hpath.trans (((modPort_path u (4 * c + m) portOff).trans (pathChange_path u fun t => t.modPort (4 * c + m) portOff)).trans (same_raise ..).path)

/-- Ports serve again one by one; each looks at its own lanes, and at the cable. -/
theorem seatedCable_ports : ∀ m ≤ 4, ∃ u, (List.range m).foldl (fun s k => s.modPort (4 * c + k) (portServed s (4 * c + k))) s = u ∧
      u = { s with fab := { s.fab with ports := u.fab.ports } } ∧ CablePorts c m (fun p => portServed s p) s u
  | 0, _ => ⟨s, rfl, rfl, ⟨h16, fun p _ => (if_neg (by omega)).symm⟩⟩
  | m + 1, hm => by
    obtain ⟨u, hu, hsame, hports⟩ := seatedCable_ports m (by omega)
    have hport : u.port (4 * c + m) = s.port (4 * c + m) := by rw [hports.2 _ (by omega), if_neg (by omega)]
    have hserves : u.portServes (4 * c + m) = s.portServes (4 * c + m) := by
      rw [State.portServes, State.portServes, hport, hsame]
    have hserved : portServed u (4 * c + m) = portServed s (4 * c + m) := by
      funext x
      rw [portServed, portServed, hserves, State.regBit, State.regBit, State.reg_congr (s := s) (t := u) (by rw [hsame])]
    have hone := modPort_only (s := u) (p := 4 * c + m) (by omega) hports.1 (portServed s (4 * c + m))
    refine ⟨u.modPort (4 * c + m) (portServed s (4 * c + m)), ?_, ?_, hports.next hone⟩
    · rw [List.range_succ, List.foldl_append, hu, ← hserved]
      rfl
    · rw [hsame]; rfl

end

theorem PathFrame.kept {s t : State} (h : PathFrame s t) : t.fab.flySeated = s.fab.flySeated ∧ t.job = s.job ∧ t.pins = s.pins ∧ t.rig = s.rig := by
  obtain ⟨_, _, _, _, _, _, _, _, rfl⟩ := h
  exact ⟨rfl, rfl, rfl, rfl⟩

/-! ## Bridge wires (R17 to R19) -/

/-- A retry belongs to the wire. -/
def wireRetry (b w : Nat) (e : Nat × Nat × List U64) : Bool := e.1 == b && e.2.1 == w

/-- The retries of a wire within 1 ms, this one included. -/
def retriesNow (s : State) (b w : Nat) : List U64 :=
  ((((s.bridges.retries.find? (wireRetry b w)).map (fun e => e.2.2)).getD []) ++ [s.tim.now]).filter (fun t => s.tim.now.toNat < t.toNat + 1000000)

/-- The retries of the other wires. -/
def retriesRest (s : State) (b w : Nat) : List (Nat × Nat × List U64) := s.bridges.retries.filter (fun e => !wireRetry b w e)

section
variable {s : State} {b w pos : Nat} (hp : s.pins.powered = true) (hpos : wirePos s.rig b w = some pos)

include hp hpos in
theorem exec_bridgeCrcRetry (hb : b < 12) (hw : w < bridgeWires b) (hidle : s.bridges.repairing.contains (b, w) = false) :
    exec (.bridgeCrcRetry b w) s = .next (if (retriesNow s b w).length < 16
      then { s with bridges := { s.bridges with retries := retriesRest s b w ++ [(b, w, retriesNow s b w)] } }
      else if (spareWires s.rig b (w / 40)).isEmpty then replaceWire { s with bridges := { s.bridges with retries := retriesRest s b w } } b w 0x4621
      else { s with bridges := { s.bridges with retries := retriesRest s b w, repairing := s.bridges.repairing ++ [(b, w)] } }) := by
  show execBridgeCrcRetry b w s = _
  rw [execBridgeCrcRetry, powered_on _ hp, decide_eq_false (Nat.not_le.2 hb), decide_eq_false (Nat.not_le.2 hw), hpos, hidle]
  rfl

theorem mem_failed_markFailed (s : State) (u : UnitRef) : (markFailed s u).rig.failed.contains u = true := by
  simp only [markFailed]
  split
  · next h => exact h
  · simp

/-- A unit that failed before is still failed. -/
theorem failed_markFailed {s : State} {u v : UnitRef} (h : s.rig.failed.contains v = true) : (markFailed s u).rig.failed.contains v = true := by
  simp only [markFailed]
  split
  · exact h
  · simpa using Or.inl (by simpa using h)

/-- A spare wire is one of the group's two that serves no wire and has not failed. -/
theorem mem_spareWires {r : Rigger} {b g q : Nat} : q ∈ spareWires r b g ↔ (q = spareWireBase b g ∨ q = spareWireBase b g + 1) ∧
    r.wireSubs.any (fun e => e.1 == b && e.2.2 == q) = false ∧ r.failed.contains (.wire b q) = false := by
  simp only [spareWires, List.mem_filter, List.mem_cons, List.not_mem_nil, or_false, Bool.and_eq_true, Bool.not_eq_true']

/-- Failing a wire position takes at most that position from the spares. -/
theorem spareWires_markFailed (s : State) (b g pos : Nat) :
    spareWires (markFailed s (.wire b pos)).rig b g = (spareWires s.rig b g).filter (fun q => q != pos) := by
  have hfailed (q : Nat) : (markFailed s (.wire b pos)).rig.failed.contains (.wire b q) = (s.rig.failed.contains (.wire b q) || q == pos) := by
    simp only [markFailed]
    split
    · next h =>
      by_cases hq : q = pos
      · subst hq
        rw [h, Bool.true_or]
      · rw [beq_false_of_ne hq, Bool.or_false]
    · simp only [List.contains_append, List.contains_cons, List.contains_nil, Bool.or_false]
      congr 1
      simp
  simp only [spareWires, hfailed, List.filter_filter]
  refine List.filter_congr fun q _ => ?_
  simp only [Bool.not_or, bne]
  rw [Bool.and_comm (!(q == pos)), Bool.and_assoc]
  rfl

include hpos in
/-- The position that a data wire holds is no spare of its bridge. -/
theorem wirePos_not_spare (hw : w < bridgeWires b) (g : Nat) : pos ∉ spareWires s.rig b g := by
  intro hmem
  obtain ⟨hbase, hfree, -⟩ := mem_spareWires.1 hmem
  unfold wirePos at hpos
  split at hpos
  · exact absurd hpos (by simp)
  · split at hpos
    · next e he =>
      have hused : s.rig.wireSubs.any (fun e => e.1 == b && e.2.2 == pos) = true := by
        have hkey := List.find?_some he
        simp only [Bool.and_eq_true] at hkey
        refine List.any_eq_true.2 ⟨e, List.mem_of_find?_eq_some he, ?_⟩
        rw [hkey.1, Option.some.inj hpos, beq_self_eq_true]
        rfl
      exact absurd (hused.symm.trans hfree) (by decide)
    · have hwpos : w = pos := Option.some.inj hpos
      simp only [spareWireBase] at hbase
      omega

/-- The wire's data moves to spare `q`. -/
def wireMapped (s : State) (b w pos q reason : Nat) : State :=
  noteEntry { markFailed s (.wire b pos) with rig := { (markFailed s (.wire b pos)).rig with
    wireSubs := (markFailed s (.wire b pos)).rig.wireSubs.filter (fun e => !(e.1 == b && e.2.1 == w)) ++ [(b, w, q)] } } (riggerEntry 4 b w (some q)) reason

/-- The wire's group is disabled. -/
def groupDisabled (s : State) (b w pos : Nat) : State :=
  noteEntry { markFailed s (.wire b pos) with rig := { (markFailed s (.wire b pos)).rig with
    wireSubs := (markFailed s (.wire b pos)).rig.wireSubs.filter (fun e => !(e.1 == b && e.2.1 == w)),
    wireLost := (markFailed s (.wire b pos)).rig.wireLost ++ [(b, w)],
    groupsOff := if (markFailed s (.wire b pos)).rig.groupsOff.contains (b, w / 40) then (markFailed s (.wire b pos)).rig.groupsOff
      else (markFailed s (.wire b pos)).rig.groupsOff ++ [(b, w / 40)] } } (riggerEntry 4 b w none) 0x4621

include hpos in
theorem replaceWire_disables (reason : Nat) (hnone : spareWires s.rig b (w / 40) = []) :
    replaceWire s b w reason = raise (groupDisabled s b w pos) 0x4621 (if b < 8 then srcDie (b / 2) else srcDie (b - 8)) 0 b := by
  have hspares : spareWires (markFailed s (.wire b pos)).rig b (w / 40) = [] := by rw [spareWires_markFailed, hnone]; rfl
  simp only [replaceWire, hpos, hspares]
  rfl

include hpos in
theorem replaceWire_maps (reason : Nat) {q : Nat} {r : List Nat} (hw : w < bridgeWires b) (hspare : spareWires s.rig b (w / 40) = q :: r) :
    replaceWire s b w reason = wireMapped s b w pos q reason := by
  have hspares : spareWires (markFailed s (.wire b pos)).rig b (w / 40) = q :: r := by
    rw [spareWires_markFailed, hspare]
    refine List.filter_eq_self.2 fun x hx => bne_iff_ne.2 ?_
    rintro rfl
    exact wirePos_not_spare hpos hw (w / 40) (hspare ▸ hx)
  simp only [replaceWire, hpos, hspares]
  rfl

theorem groupDisabled_effect (s : State) (b w pos : Nat) : (groupDisabled s b w pos).rig.groupsOff.contains (b, w / 40) = true ∧
    wirePos (groupDisabled s b w pos).rig b w = none ∧ (groupDisabled s b w pos).rig.failed.contains (.wire b pos) = true ∧
    (groupDisabled s b w pos).tiles = s.tiles ∧ (groupDisabled s b w pos).mem = s.mem := by
  refine ⟨?_, ?_, mem_failed_markFailed s (.wire b pos), rfl, rfl⟩
  · simp only [groupDisabled, noteEntry]
    split
    · next h => exact h
    · simp
  · have hlost : (groupDisabled s b w pos).rig.wireLost.contains (b, w) = true := by simp [groupDisabled, noteEntry]
    rw [wirePos, if_pos hlost]

/-- What is found under another key is found after an entry under this key has been replaced. -/
theorem find?_replaced {α : Type} (p mine : α → Bool) (l r : List α) (hl : ∀ e, p e = true → mine e = false) (hr : ∀ e ∈ r, p e = false) :
    (l.filter (fun e => !mine e) ++ r).find? p = l.find? p := by
  have hnew : r.find? p = none := List.find?_eq_none.2 fun e he => by rw [hr e he]; exact Bool.false_ne_true
  rw [List.find?_append, hnew, Option.or_none]
  induction l with
  | nil => rfl
  | cons e l ih =>
    cases hm : mine e with
    | false => rw [List.filter_cons_of_pos (by rw [hm]; rfl), List.find?_cons, List.find?_cons, ih]
    | true =>
      have hpe : p e = false := by
        cases hpe : p e with
        | false => rfl
        | true => exact absurd ((hl e hpe).symm.trans hm) Bool.false_ne_true
      rw [List.filter_cons_of_neg (by rw [hm]; decide), ih, List.find?_cons, hpe]

include hpos in
theorem wireMapped_effect (q reason : Nat) : wirePos (wireMapped s b w pos q reason).rig b w = some q ∧
    ∀ x, x ≠ (b, w) → wirePos (wireMapped s b w pos q reason).rig x.1 x.2 = wirePos s.rig x.1 x.2 := by
  have hlost : s.rig.wireLost.contains (b, w) = false := by
    unfold wirePos at hpos
    split at hpos
    · exact absurd hpos (by simp)
    · next h => exact Bool.not_eq_true _ ▸ h
  refine ⟨?_, fun x hx => ?_⟩
  · have hfind : (s.rig.wireSubs.filter (fun e => !(e.1 == b && e.2.1 == w)) ++ [(b, w, q)]).find? (fun e => e.1 == b && e.2.1 == w) = some (b, w, q) := by
      have hold : (s.rig.wireSubs.filter (fun e => !(e.1 == b && e.2.1 == w))).find? (fun e => e.1 == b && e.2.1 == w) = none :=
        List.find?_eq_none.2 fun e he => by rw [Bool.not_eq_true]; exact Bool.not_eq_true' _ ▸ (List.mem_filter.1 he).2
      rw [List.find?_append, hold]
      simp
    show (if s.rig.wireLost.contains (b, w) then none else
      match (s.rig.wireSubs.filter (fun e => !(e.1 == b && e.2.1 == w)) ++ [(b, w, q)]).find? (fun e => e.1 == b && e.2.1 == w) with
      | some e => some e.2.2
      | none => some w) = some q
    rw [hlost, hfind]
    rfl
  · have hfind := find?_replaced (fun e : Nat × Nat × Nat => e.1 == x.1 && e.2.1 == x.2) (fun e => e.1 == b && e.2.1 == w) s.rig.wireSubs [(b, w, q)]
      (fun e he => ?_) (fun e he => ?_)
    · have hsubs : (wireMapped s b w pos q reason).rig.wireSubs = s.rig.wireSubs.filter (fun e => !(e.1 == b && e.2.1 == w)) ++ [(b, w, q)] := rfl
      have hlost' : (wireMapped s b w pos q reason).rig.wireLost = s.rig.wireLost := rfl
      rw [wirePos, hsubs, hfind, hlost', wirePos]
    · simp only [Bool.and_eq_true, beq_iff_eq] at he
      refine Bool.eq_false_iff.2 fun hm => hx ?_
      simp only [Bool.and_eq_true, beq_iff_eq] at hm
      exact Prod.ext (he.1.symm.trans hm.1) (he.2.symm.trans hm.2)
    · rw [List.mem_singleton.1 he]
      refine Bool.eq_false_iff.2 fun hm => hx ?_
      simp only [Bool.and_eq_true, beq_iff_eq] at hm
      exact Prod.ext hm.1.symm hm.2.symm

end

/-- The wire's repair has ended. -/
def repairDone (s : State) (b w : Nat) : State :=
  { s with bridges := { s.bridges with repairing := dropFirst (fun x => x == (b, w)) s.bridges.repairing } }

theorem exec_bridgeWireSpared {s : State} {b w pos q : Nat} {r : List Nat} (hp : s.pins.powered = true)
    (hrep : s.bridges.repairing.find? (fun e => e.1 == b) = some (b, w)) (hw : w < bridgeWires b) (hpos : wirePos s.rig b w = some pos)
    (hspare : spareWires s.rig b (w / 40) = q :: r) : exec (.bridgeWireSpared b) s =
      .next (raise (wireMapped (repairDone s b w) b w pos q 0x4620) 0x4620 (if b < 8 then srcDie (b / 2) else srcDie (b - 8)) 0 b) := by
  have hmap : replaceWire (repairDone s b w) b w 0x4620 = wireMapped (repairDone s b w) b w pos q 0x4620  :=
    replaceWire_maps (s := repairDone s b w) hpos 0x4620 hw hspare
  have hspared : (!(spareWires (repairDone s b w).rig b (w / 40)).isEmpty) = true := by
    rw [show (repairDone s b w).rig = s.rig from rfl, hspare]; rfl
  rw [← hmap]
  show execBridgeWireSpared b s = _
  rw [execBridgeWireSpared, powered_on _ hp, hrep]
  exact congrArg _ (if_pos hspared)

/-! ## Heartbeats (R30, R463) -/

theorem exec_dieHeartbeatMissed {s : State} {die : BitVec 3} (hp : s.pins.powered = true) (hdie : die.toNat < 6) (hlen : s.mgmt.heartbeats.length = 6) :
    exec (.dieHeartbeatMissed die) s = .next (
      let h := setAt s.mgmt.heartbeats die.toNat (fun k => k + 1)
      if s.mgmt.heartbeats.getD die.toNat 0 + 1 < 3 || s.mgmt.faultyDies.contains die.toNat then { s with mgmt := { s.mgmt with heartbeats := h } }
      else report { s with mgmt := { s.mgmt with heartbeats := h, faultyDies := s.mgmt.faultyDies ++ [die.toNat] } } 0x8711 0 0) := by
  have hcount : (setAt s.mgmt.heartbeats die.toNat (fun k => k + 1)).getD die.toNat 0 = s.mgmt.heartbeats.getD die.toNat 0 + 1 :=
    getD_setAt_self _ _ _ (by omega)
  rw [← hcount]
  show execDieHeartbeatMissed die s = _
  rw [execDieHeartbeatMissed, powered_on _ hp]
  simp only [Nat.not_le.2 hdie, if_false]

theorem EventFrame.emit {s t : State} (h : EventFrame s t) (o : Out) : EventFrame (s.emit o) (t.emit o) := by
  obtain ⟨_, _, _, _, _, _, _, _, he⟩ := h.same
  exact ⟨⟨_, _, _, _, _, _, _, _, by rw [he]; rfl⟩, h.regs, h.host⟩

/-- A heartbeat leaves on each port of a list, and is counted there. -/
def heartbeatsSent (body : List Byte) (l : List Nat) (t : State) : State :=
  l.foldl (fun t p => bump (t.emit (.heartbeat p body)) (portBase p) 0 (mgmtBytes 88)) t

theorem heartbeatsSent_frame (body : List Byte) : ∀ (l : List Nat) {s t : State}, (∀ p ∈ l, p < 16) → EventFrame s t →
    EventFrame { s with sent := s.sent ++ l.map (fun p => Out.heartbeat p body) } (heartbeatsSent body l t)
  | [], s, t, _, h => by
    rw [List.map_nil, List.append_nil]
    exact h
  | p :: l, s, t, hl, h => by
    have hnext := (h.emit (.heartbeat p body)).trans (bump_frame _ (mgmtBytes 88) (portSent_counter (hl p List.mem_cons_self)))
    have hrest := heartbeatsSent_frame body l (fun q hq => hl q (List.mem_cons_of_mem p hq)) hnext
    rw [List.map_cons, List.append_cons]
    exact hrest

/-- The ports that are up. -/
def portsUp (s : State) : List Nat := (List.range 16).filter (fun p => (s.port p).up)

theorem exec_pmcHeartbeat {s : State} (hp : s.pins.powered = true) : exec .pmcHeartbeat s = .next (
    if (portsUp s).isEmpty || !s.mgmt.firstFault then heartbeatsSent (heartbeatBody s) (portsUp s) s
    else report { heartbeatsSent (heartbeatBody s) (portsUp s) s with mgmt := { (heartbeatsSent (heartbeatBody s) (portsUp s) s).mgmt with
      firstFault := false } } 0x8711 0 0x8909) := by
  show execPmcHeartbeat s = _
  rw [execPmcHeartbeat, powered_on _ hp]
  rfl

theorem portsUp_frame (s : State) : EventFrame { s with sent := s.sent ++ (portsUp s).map (fun p => Out.heartbeat p (heartbeatBody s)) }
    (heartbeatsSent (heartbeatBody s) (portsUp s) s) :=
  heartbeatsSent_frame _ _ (fun _ hp => List.mem_range.1 (List.mem_filter.1 hp).1) (EventFrame.refl s)

end Sys2Proof.Machine

open Sys2Proof Sys2Proof.Machine

/-- Settles O24: the link, the pin and the cables, then the bridge wires and the heartbeats, command by command. -/
theorem linksBridgesAndHeartbeatsAct : Obligations.LinksBridgesAndHeartbeatsAct := by
  unfold Obligations.LinksBridgesAndHeartbeatsAct
  refine ⟨fun s hp => ⟨fun gen width master hready hperst => ?_, fun hen hsync => ?_, fun hoff => ?_, fun c h16 h4 => ⟨?_, ?_⟩⟩,
    fun s hp => ⟨fun b w pos hb hw hpos hidle => ?_, fun b w pos q r hrep hw hpos hspare => ?_, fun die => ?_, fun die hdie hlen => ?_, ?_⟩⟩
  · intro v new
    have hup : s.endpointUp = true := by rw [State.endpointUp, hp, hready, hperst]; rfl
    obtain ⟨hnew, hmaster, hkept⟩ := linkShown_effect s gen width master
    refine ⟨hnew, hmaster, hkept, exec_hostLinkChanged gen width master hup, ?_⟩
    split
    · exact EventFrame.refl _
    · exact raise_frame ..
  · obtain ⟨t, ht, htim, hbit, hoff, hframe, hregs⟩ := ppsAligned_effect s (ppsOffset s)
    obtain ⟨hwhole, hlow, hhigh⟩ := nearestSecond_near (s.tim.now.toNat : Int)
    have hslew : t.tim.slew = ppsOffset s := by rw [htim]
    have hexec : exec .ppsInEdge s = .next t := by rw [exec_ppsInEdge hp, hen, hsync, ← ht]; rfl
    refine ⟨t, hexec, by rw [htim], ?_, ?_, ?_, hbit, by rw [hslew, hoff], hframe, hregs⟩
    · rw [hslew, ppsOffset, Int.sub_add_cancel, hwhole]
    · rw [hslew, ppsOffset]; exact hlow
    · rw [hslew, ppsOffset]; exact hhigh
  · have hcond : (s.regBit (timBase + 0xC) 3 && s.synced) = false := by
      rcases hoff with h | h
      · rw [h, Bool.false_and]
      · rw [h, Bool.and_false]
    rw [exec_ppsInEdge hp, hcond]
    rfl
  · obtain ⟨t, ht, hsame, hports⟩ := seatedCable_ports (s := cableSet s c.toNat true) c.isLt h16 4 (by decide)
    refine ⟨t, (exec_flyPresentChange c true hp).trans (congrArg _ ((if_pos rfl).trans ht)), ?_, fun p hp16 => ?_, ?_⟩
    · rw [hsame]
      exact getD_setAt_self _ _ _ (h4 ▸ c.isLt)
    · intro off
      rw [hports.all hp16]
      by_cases hc : p / 4 = c.toNat
      · have hseat : (cableSet s c.toNat true).fab.flySeated.getD (p / 4) true = true := by
          rw [hc]
          exact getD_setAt_self _ _ _ (h4 ▸ c.isLt)
        have hserves : (cableSet s c.toNat true).portServes p = decide (2 ≤ ((s.port p).lanes.filter (fun l => l != 31)).length) := by
          rw [State.portServes, hseat, Bool.true_and]
          rfl
        have hoff : ((cableSet s c.toNat true).regBit (portBase p + 4) 2 || !(cableSet s c.toNat true).portServes p) = off := by
          rw [hserves, ← decide_not]
          simp only [Nat.not_le]
          rfl
        rw [if_pos hc, if_pos hc, portServed, hoff]
        rfl
      · rw [if_neg hc, if_neg hc]
        rfl
    · rw [hsame]
      rfl
  · obtain ⟨t, ht, hpath, hports, htiles, hcores, hmem⟩ := missingCable_ports (s := cableSet s c.toNat false) c.isLt h16 4 (by decide)
    obtain ⟨hseated, hjob, hpins, hrig⟩ := hpath.kept
    refine ⟨t, (exec_flyPresentChange c false hp).trans (congrArg _ ((if_neg Bool.false_ne_true).trans ht)), ?_, fun p hp16 => hports.all hp16,
      htiles, hcores, hmem, hjob, hpins, hrig⟩
    rw [hseated]
    exact getD_setAt_self _ _ _ (h4 ▸ c.isLt)
  · intro old now rest
    have hexec := exec_bridgeCrcRetry hp hpos hb hw hidle
    refine ⟨fun hfew => hexec.trans (congrArg _ (if_pos hfew)), fun hmany hspare => ?_, fun hmany hnone => ?_⟩
    · have hsome : ¬(spareWires s.rig b (w / 40)).isEmpty = true := by rw [List.isEmpty_iff]; exact hspare
      exact hexec.trans (congrArg _ ((if_neg (Nat.not_lt.2 hmany)).trans (if_neg hsome)))
    · have hempty : (spareWires s.rig b (w / 40)).isEmpty = true := List.isEmpty_iff.2 hnone
      have hexec := hexec.trans (congrArg _ ((if_neg (Nat.not_lt.2 hmany)).trans (if_pos hempty)))
      rw [replaceWire_disables (s := { s with bridges := { s.bridges with retries := retriesRest s b w } }) hpos 0x4621 hnone] at hexec
      refine ⟨_, hexec, ?_⟩
      rw [raise_rig, raise_tiles, raise_mem]
      exact groupDisabled_effect _ b w pos
  · obtain ⟨hmapped, hothers⟩ := wireMapped_effect (s := repairDone s b w) hpos q 0x4620
    exact ⟨_, ⟨exec_bridgeWireSpared hp hrep hw hpos hspare, raise_frame ..⟩, hmapped, hothers, rfl⟩
  · show execDieHeartbeat die s = _
    rw [execDieHeartbeat, powered_on _ hp]
  · intro h
    have hexec := exec_dieHeartbeatMissed hp hdie hlen
    refine ⟨fun hfew => hexec.trans (congrArg _ (if_pos ?_)), fun hmany hnew => hexec.trans (congrArg _ (if_neg ?_))⟩
    · rw [decide_eq_true (show _ < 3 by omega), Bool.true_or]
    · rw [decide_eq_false (show ¬_ < 3 by omega), hnew]
      exact Bool.false_ne_true
  · intro up v
    have hexec := exec_pmcHeartbeat hp
    refine ⟨fun hquiet => ⟨_, hexec.trans (congrArg _ (if_pos ?_)), portsUp_frame s⟩, fun hup hfault => ⟨_, portsUp_frame s, hexec.trans (congrArg _ (if_neg ?_))⟩⟩
    · rcases hquiet with hnone | hfault
      · rw [show portsUp s = [] from hnone]; rfl
      · rw [hfault, Bool.not_false, Bool.or_true]
    · have hsome : (portsUp s).isEmpty = false := Bool.eq_false_iff.2 fun h => hup (List.isEmpty_iff.1 h)
      rw [hsome, hfault]
      exact Bool.false_ne_true
end

section
/-! POWER_UP and VIN_LOSS (R572 to R583, R607): what the steps of Table 17.1 leave of the cold start. -/

namespace Sys2Proof.Machine

/-! ## What most steps keep -/

/-- `t` is `s` in what POWER_UP has to show: the steps of Table 17.1 that only count, raise events or repair rows keep all of it. -/
structure BootKeeps (s t : State) : Prop where
  pins      : t.pins = s.pins
  sec       : t.sec = s.sec
  rig       : t.rig = s.rig
  tiles     : t.tiles = s.tiles
  cores     : t.cores = s.cores
  job       : t.job = s.job
  sync      : t.sync = s.sync
  bytes     : t.mem.bytes = s.mem.bytes
  xlt       : t.mem.xlt = s.mem.xlt
  bootCount : t.flash.bootCount = s.flash.bootCount
  rollback  : t.flash.rollback = s.flash.rollback
  banks     : t.flash.banks = s.flash.banks
  config    : t.flash.ownerConfigRaw = s.flash.ownerConfigRaw
  regs      : ∀ o, eventReg o = false → t.reg o = s.reg o
  ctlCount  : t.mem.stackCtl.length = s.mem.stackCtl.length
  trained   : ∀ n, (t.stk n).trained = (s.stk n).trained
  refresh   : ∀ n, (t.stk n).selfRefresh = (s.stk n).selfRefresh

theorem BootKeeps.refl (s : State) : BootKeeps s s := by constructor <;> intros <;> rfl

theorem BootKeeps.trans {s t u : State} (h1 : BootKeeps s t) (h2 : BootKeeps t u) : BootKeeps s u where
  pins := h2.pins.trans h1.pins
  sec := h2.sec.trans h1.sec
  rig := h2.rig.trans h1.rig
  tiles := h2.tiles.trans h1.tiles
  cores := h2.cores.trans h1.cores
  job := h2.job.trans h1.job
  sync := h2.sync.trans h1.sync
  bytes := h2.bytes.trans h1.bytes
  xlt := h2.xlt.trans h1.xlt
  bootCount := h2.bootCount.trans h1.bootCount
  rollback := h2.rollback.trans h1.rollback
  banks := h2.banks.trans h1.banks
  config := h2.config.trans h1.config
  regs o ho := (h2.regs o ho).trans (h1.regs o ho)
  ctlCount := h2.ctlCount.trans h1.ctlCount
  trained n := (h2.trained n).trans (h1.trained n)
  refresh n := (h2.refresh n).trans (h1.refresh n)

theorem EventFrame.boot {s t : State} (h : EventFrame s t) : BootKeeps s t := by
  obtain ⟨⟨_, _, _, _, _, _, _, _, rfl⟩, hregs, -⟩ := h
  exact ⟨rfl, rfl, rfl, rfl, rfl, rfl, rfl, rfl, rfl, rfl, rfl, rfl, rfl, hregs, rfl, fun _ => rfl, fun _ => rfl⟩

theorem BootKeeps.foldl {α : Type} {f : State → α → State} (hf : ∀ a s, BootKeeps s (f s a)) : ∀ (l : List α) s, BootKeeps s (l.foldl f s)
  | [], s => BootKeeps.refl s
  | a :: l, s => (hf a s).trans (BootKeeps.foldl hf l (f s a))

/-- A stack's controller after a change of one, where the change keeps a field. -/
theorem stk_modStk_field {β : Type} (s : State) (n k : Nat) (f : Stack → Stack) (g : Stack → β) (h : ∀ x, g (f x) = g x) :
    g ((s.modStk n f).stk k) = g (s.stk k) := by
  by_cases hk : k = n
  · subst hk
    by_cases hlt : k < s.mem.stackCtl.length
    · rw [State.stk_modStk_self s f hlt, h]
    · have hlen : (setAt s.mem.stackCtl k f).length ≤ k := by rw [setAt, List.length_mapIdx]; exact Nat.not_lt.1 hlt
      simp only [State.stk, State.modStk, List.getD_eq_default _ _ hlen, List.getD_eq_default _ _ (Nat.not_lt.1 hlt)]
  · exact congrArg g (getD_setAt_ne _ f _ hk)

theorem modStk_boot (s : State) (n : Nat) {f : Stack → Stack} (htrained : ∀ x, (f x).trained = x.trained)
    (hrefresh : ∀ x, (f x).selfRefresh = x.selfRefresh) : BootKeeps s (s.modStk n f) :=
  ⟨rfl, rfl, rfl, rfl, rfl, rfl, rfl, rfl, rfl, rfl, rfl, rfl, rfl, fun _ _ => rfl, List.length_mapIdx,
    fun k => stk_modStk_field s n k f Stack.trained htrained, fun k => stk_modStk_field s n k f Stack.selfRefresh hrefresh⟩

theorem repairRow_boot (s : State) (n r : Nat) : BootKeeps s (repairRow s n r) := by
  have h1 : BootKeeps s (s.modStk n (fun k => { k with repairRows := natErase k.repairRows r })) := modStk_boot s n (fun _ => rfl) (fun _ => rfl)
  unfold repairRow
  simp only
  generalize s.modStk n (fun k => { k with repairRows := natErase k.repairRows r }) = s1 at h1 ⊢
  split
  · exact h1
  · have h2 : BootKeeps s1 (s1.modStk n (fun k => { k with blockMap := k.blockMap.filter (fun e => rowOf e.1 != r), repairsDone := k.repairsDone + 1 })) :=
      modStk_boot s1 n (fun _ => rfl) (fun _ => rfl)
    generalize s1.modStk n _ = s2 at h2 ⊢
    have h3 : BootKeeps s2 { s2 with flash := { s2.flash with repairs := setAt s2.flash.repairs n (fun x => x - 1), dirty := true } } := by
      constructor <;> intros <;> rfl
    exact ((h1.trans h2).trans h3).trans (raise_frame ..).boot

theorem repairRows_boot (s : State) : BootKeeps s (repairRows s) :=
  BootKeeps.foldl (f := fun s n => ((s.stk n).repairRows.take 16).foldl (fun s r => repairRow s n r) s)
    (fun n t => BootKeeps.foldl (f := fun s r => repairRow s n r) (fun r u => repairRow_boot u n r) _ t) _ s

/-! ## Stacks train -/

/-- The first `m` stacks have trained, with the block maps that the flash keeps. -/
def stacksTrained (s : State) (failed : List Nat) (m : Nat) : State :=
  (List.range m).foldl (fun s n => s.modStk n (fun k =>
    let m := s.flash.blockMaps.getD n []
    { k with trained := !failed.contains n, blockMap := m, repairRows := rowsToRepair m })) s

theorem stacksTrained_effect (s : State) : ∀ m ≤ s.mem.stackCtl.length,
    stacksTrained s [] m = { s with mem := { s.mem with stackCtl := (stacksTrained s [] m).mem.stackCtl } } ∧
    (stacksTrained s [] m).mem.stackCtl.length = s.mem.stackCtl.length ∧
    (∀ n < m, ((stacksTrained s [] m).stk n).trained = true) ∧ ∀ n, ((stacksTrained s [] m).stk n).selfRefresh = (s.stk n).selfRefresh
  | 0, _ => ⟨rfl, rfl, fun n hn => absurd hn (Nat.not_lt_zero n), fun _ => rfl⟩
  | m + 1, hm => by
    obtain ⟨hsame, hlen, htrained, hrefresh⟩ := stacksTrained_effect s m (by omega)
    have hstep : stacksTrained s [] (m + 1) = (stacksTrained s [] m).modStk m (fun k =>
        let x := (stacksTrained s [] m).flash.blockMaps.getD m []
        { k with trained := !([] : List Nat).contains m, blockMap := x, repairRows := rowsToRepair x }) := by
      rw [stacksTrained, List.range_succ, List.foldl_append]
      rfl
    generalize stacksTrained s [] m = u at hsame hlen htrained hrefresh hstep
    rw [hstep]
    refine ⟨?_, List.length_mapIdx.trans hlen, fun n hn => ?_, fun n => (stk_modStk_field u m n _ Stack.selfRefresh (by intro; rfl)).trans (hrefresh n)⟩
    · rw [hsame]; rfl
    · by_cases hnm : n = m
      · subst hnm
        rw [State.stk_modStk_self u _ (by omega)]
        rfl
      · have hne : ∀ f, (u.modStk m f).stk n = u.stk n := fun f => getD_setAt_ne _ f _ hnm
        rw [hne]
        exact htrained n (by omega)

/-- The stacks trained, with the trims and the withdrawn frames that the flash keeps. -/
def stacksUp (s : State) (failed : List Nat) : State :=
  let s := stacksTrained s failed 8
  { s with pwr := { s.pwr with trims := s.flash.trims }, mem := { s.mem with withdrawn := s.flash.withdrawn } }

theorem bringUpStacks_eq (s : State) (failed : List Nat) : bringUpStacks s failed = repairRows (stacksUp s failed) := by
  unfold bringUpStacks stacksUp stacksTrained
  rfl

/-- Nothing but stack controllers and what the power controller holds changes, and every stack has trained. -/
structure StacksUp (s v : State) : Prop where
  same  : v = { s with mem := v.mem, pwr := v.pwr }
  bytes : v.mem.bytes = s.mem.bytes
  xlt   : v.mem.xlt = s.mem.xlt
  count : v.mem.stackCtl.length = 8
  each  : ∀ n < 8, (v.stk n).trained = true ∧ (v.stk n).selfRefresh = (s.stk n).selfRefresh

theorem stacksUp_effect (s : State) (hlen : s.mem.stackCtl.length = 8) : StacksUp s (stacksUp s []) := by
  obtain ⟨hsame, hlen', htrained, hrefresh⟩ := stacksTrained_effect s 8 (by omega)
  unfold stacksUp
  generalize stacksTrained s [] 8 = u at hsame hlen' htrained hrefresh ⊢
  refine ⟨?_, ?_, ?_, hlen'.trans hlen, fun n hn => ⟨htrained n hn, hrefresh n⟩⟩ <;> rw [hsame]

/-! ## The steps in order -/

/-- The cold start with the chosen bank in place and the bypass open. -/
def bankChosen (a : State) (b : Nat) (fb : Bool) : State :=
  let imgs := (a.flash.banks.getD b ⟨none, []⟩).images
  { a with sec := { a.sec with bank := b, fallback := fb, fwVerified := imgs.mapIdx (fun c i => imageStatus a i c false == 0),
                               fwDigests := imgs.map (fun i => shake256 i.payload) },
           pins := { a.pins with bypassOpen := true } }

/-- The state in which the rigger table is built. -/
def beforeRig (a : State) (env : PowerUpEnv) (b : Nat) (fb : Bool) : State :=
  let s := runBank a b fb
  let s := if env.devOpen then raise s 0x4911 srcSec 0 0 else s
  { s with pins := { s.pins with bypassOpen := true } }

theorem EventFrame.withPins {s t : State} (h : EventFrame s t) (p : Pins) : EventFrame { s with pins := p } { t with pins := p } := by
  obtain ⟨_, _, _, _, _, _, _, _, he⟩ := h.same
  exact ⟨⟨_, _, _, _, _, _, _, _, by rw [he]⟩, h.regs, h.host⟩

theorem beforeRig_frame (a : State) (env : PowerUpEnv) (b : Nat) (fb : Bool) : EventFrame (bankChosen a b fb) (beforeRig a env b fb) := by
  have hrun : EventFrame { a with sec := (bankChosen a b fb).sec } (runBank a b fb) := by
    unfold runBank
    simp only
    split
    · exact raise_frame ..
    · exact EventFrame.refl _
  have hopen : EventFrame { a with sec := (bankChosen a b fb).sec } (if env.devOpen then raise (runBank a b fb) 0x4911 srcSec 0 0 else runBank a b fb) := by
    split
    · exact hrun.trans (raise_frame ..)
    · exact hrun
  have hpins := SameBut.pins hopen.same
  have hframe := hopen.withPins { a.pins with bypassOpen := true }
  unfold beforeRig
  simp only
  rw [hpins]
  exact hframe

/-- The rollback fuses once the images of bank `b` run (R580). -/
def fusesAt (f : Flash) (b : Nat) (devOpen : Bool) : List Nat :=
  if devOpen then f.rollback
  else f.rollback.mapIdx (fun c x => max x (match (f.banks.getD b ⟨none, []⟩).images[c]? with | some i => min 64 i.secVersion.toNat | none => 0))

theorem blowFuses_eq (s : State) : blowFuses s = { s with flash := { s.flash with rollback := fusesAt s.flash s.sec.bank s.sec.devOpen } } := by
  unfold blowFuses fusesAt
  cases s.sec.devOpen <;> rfl

/-- With no owner configuration stored, POWER_UP sets at most the setup lock (R458). -/
theorem bootConfig_none {s : State} (h : s.flash.ownerConfigRaw = []) :
    bootConfig s = if bitOf s.sec.ownerPolicy.toNat 1 then s.setRegBit (glbBase + 8) 0 true else s := by
  rw [bootConfig, h]
  rfl

/-- The state in which the owner configuration is looked for. -/
def beforeConfig (a : State) (env : PowerUpEnv) (b : Nat) (fb : Bool) : State := blowFuses (bringUpStacks (buildRig (beforeRig a env b fb)) [])

section
variable {env : PowerUpEnv} (hunits : env.failedUnits = []) (hsup : env.failedSupervisors = []) (hstacks : env.failedStacks = [])
include hunits hsup hstacks

theorem bootFirmware_healthy (a : State) (b : Nat) (fb : Bool) : bootFirmware a env b fb = bootConfig (beforeConfig a env b fb) := by
  simp only [bootFirmware, bootFaults, hunits, hstacks, hsup, List.foldl_nil, List.isEmpty_nil, Bool.and_self, if_true, beforeConfig, beforeRig]

end

/-- What the boot has done before it looks for an owner configuration: `a` with its bank, its rigger table, its fuses and its stacks. -/
structure Booted (a : State) (env : PowerUpEnv) (b : Nat) (fb : Bool) (u : State) : Prop where
  pins      : u.pins = { a.pins with bypassOpen := true }
  sec       : u.sec = (bankChosen a b fb).sec
  rig       : u.rig = (buildRig a).rig
  units     : u.tiles = a.tiles ∧ u.cores = a.cores ∧ u.job = a.job ∧ u.sync = a.sync
  mem       : u.mem.bytes = a.mem.bytes ∧ u.mem.xlt = a.mem.xlt
  bootCount : u.flash.bootCount = a.flash.bootCount
  rollback  : u.flash.rollback = fusesAt a.flash b a.sec.devOpen
  config    : u.flash.ownerConfigRaw = a.flash.ownerConfigRaw
  regs      : ∀ o, eventReg o = false → u.reg o = a.reg o
  ctlCount  : u.mem.stackCtl.length = 8
  each      : ∀ n < 8, (u.stk n).trained = true ∧ (u.stk n).selfRefresh = (a.stk n).selfRefresh

theorem beforeConfig_booted (a : State) (env : PowerUpEnv) (b : Nat) (fb : Bool) (hlen : a.mem.stackCtl.length = 8) :
    Booted a env b fb (beforeConfig a env b fb) := by
  have h1 := beforeRig_frame a env b fb
  obtain ⟨_, _, _, _, _, _, _, _, he⟩ := h1.same
  have hregs1 := h1.regs
  unfold beforeConfig
  generalize beforeRig a env b fb = s1 at he hregs1 ⊢
  have hrig : (buildRig s1).rig = (buildRig a).rig := by rw [he]; rfl
  obtain ⟨hv, hbytes, hxlt, hvlen, heach⟩ := stacksUp_effect (buildRig s1) (by rw [he]; exact hlen)
  rw [bringUpStacks_eq]
  have hkeeps := repairRows_boot (stacksUp (buildRig s1) [])
  generalize stacksUp (buildRig s1) [] = v at hkeeps hv hbytes hxlt hvlen heach ⊢
  generalize repairRows v = s5 at hkeeps ⊢
  have hsec : s5.sec = (bankChosen a b fb).sec := by rw [hkeeps.sec, hv, he]; rfl
  have hflash : v.flash = a.flash := by rw [hv, he]; rfl
  rw [blowFuses_eq]
  refine ⟨?_, hsec, ?_, ⟨?_, ?_, ?_, ?_⟩, ⟨?_, ?_⟩, ?_, ?_, ?_, fun o ho => ?_, hkeeps.ctlCount.trans hvlen, fun n hn => ?_⟩
  · exact hkeeps.pins.trans (by rw [hv, he]; rfl)
  · exact hkeeps.rig.trans (by rw [hv]; exact hrig)
  · exact hkeeps.tiles.trans (by rw [hv, he]; rfl)
  · exact hkeeps.cores.trans (by rw [hv, he]; rfl)
  · exact hkeeps.job.trans (by rw [hv, he]; rfl)
  · exact hkeeps.sync.trans (by rw [hv, he]; rfl)
  · exact hkeeps.bytes.trans (hbytes.trans (by rw [he]; rfl))
  · exact hkeeps.xlt.trans (hxlt.trans (by rw [he]; rfl))
  · exact hkeeps.bootCount.trans (congrArg Flash.bootCount hflash)
  · simp only [hsec, fusesAt, hkeeps.rollback, hkeeps.banks, hflash]
    rfl
  · exact hkeeps.config.trans (congrArg Flash.ownerConfigRaw hflash)
  · refine (hkeeps.regs o ho).trans (Eq.trans ?_ (hregs1 o ho))
    exact State.reg_congr (by rw [hv]; rfl) o
  · obtain ⟨ht, hr⟩ := heach n hn
    refine ⟨(hkeeps.trained n).trans ht, (hkeeps.refresh n).trans (hr.trans ?_)⟩
    rw [he]; rfl

/-! ## 'Hold water' low at power-up (R607) -/

theorem sendRing_boot (s : State) : BootKeeps s (sendRing s) := by
  unfold sendRing
  split
  · constructor <;> intros <;> rfl
  · exact BootKeeps.refl s

theorem countMgmt_sent_frame (s : State) (bytes : Nat) : EventFrame s (countMgmt s 0 bytes) := by
  unfold countMgmt
  split
  · next p hfind => exact bump_frame _ _ (portSent_counter (List.mem_range.1 (List.mem_of_find?_eq_some hfind)))
  · exact EventFrame.refl s

theorem report_boot (s : State) (code addr data : Nat) : BootKeeps s (report s code addr data) := by
  have hemit (o : Out) : BootKeeps s (s.emit o) := by constructor <;> intros <;> rfl
  exact ((hemit _).trans (sendRing_boot _)).trans (countMgmt_sent_frame ..).boot

/-- What a stop of Table 15.7 leaves: the flag is set, and every stack is in self-refresh. -/
structure WaterStopped (s : State) (bit : Nat) (t : State) : Prop where
  keeps   : BootKeeps { s with regs := t.regs, mem := t.mem } t
  mem     : t.mem = { s.mem with stackCtl := t.mem.stackCtl }
  regs    : ∀ o, eventReg o = false → o ≠ pwrBase → t.reg o = s.reg o
  flag    : t.regBit pwrBase bit = true
  trained : ∀ n, (t.stk n).trained = (s.stk n).trained
  refresh : ∀ n < s.mem.stackCtl.length, (t.stk n).selfRefresh = true

theorem report_mem (s : State) (code addr data : Nat) : (report s code addr data).mem = s.mem := by
  have hring (u : State) : (sendRing u).mem = u.mem := by unfold sendRing; split <;> rfl
  have hcount (u : State) : (countMgmt u 0 (mgmtBytes 32)).mem = u.mem := by
    unfold countMgmt
    split
    · exact bump_mem ..
    · rfl
  rw [report, hcount, hring]
  rfl

/-- Every stack controller changed alike, read one by one. -/
theorem stk_selfRefreshAll (s : State) (b : Bool) (n : Nat) : (selfRefreshAll s b).stk n =
    if n < s.mem.stackCtl.length then { s.stk n with selfRefresh := b } else s.stk n := by
  simp only [State.stk, selfRefreshAll, List.getD_eq_getElem?_getD, List.getElem?_map]
  by_cases h : n < s.mem.stackCtl.length
  · rw [if_pos h, List.getElem?_eq_getElem h]; rfl
  · rw [if_neg h, List.getElem?_eq_none (Nat.not_lt.1 h)]; rfl

theorem stopWater_stopped (s : State) {bit : Nat} (hbit : bit < 32) (ev : Nat) : WaterStopped s bit (stopWater s bit ev) := by
  unfold stopWater
  generalize hw : selfRefreshAll (s.toBallast.setRegBit pwrBase bit true) true = w
  have hregs : w.regs = (s.toBallast.setRegBit pwrBase bit true).regs := by rw [← hw]; rfl
  have hraise := (raise_frame w ev srcPwr 0 0).boot
  have hkeeps := hraise.trans (report_boot (raise w ev srcPwr 0 0) 0x8711 0 ev)
  have hmem : (report (raise w ev srcPwr 0 0) 0x8711 0 ev).mem = w.mem := by rw [report_mem, raise_mem]
  generalize report (raise w ev srcPwr 0 0) 0x8711 0 ev = t at hkeeps hmem ⊢
  have hstk (n : Nat) : t.stk n = w.stk n := by rw [State.stk, hmem]; rfl
  have hreg (o : Nat) (ho : eventReg o = false) : t.reg o = (s.toBallast.setRegBit pwrBase bit true).reg o :=
    (hkeeps.regs o ho).trans (State.reg_congr hregs o)
  refine ⟨?_, ?_, fun o ho hne => ?_, ?_, fun n => ?_, fun n hn => ?_⟩
  · obtain ⟨hpins, hsec, hrig, htiles, hcores, hjob, hsync, -, -, hboot, hroll, hbanks, hcfg, -, -, -, -⟩ := hkeeps
    refine ⟨hpins.trans ?_, hsec.trans ?_, hrig.trans ?_, htiles.trans ?_, hcores.trans ?_, hjob.trans ?_, hsync.trans ?_, rfl, rfl,
      hboot.trans ?_, hroll.trans ?_, hbanks.trans ?_, hcfg.trans ?_, fun _ _ => rfl, rfl, fun _ => rfl, fun _ => rfl⟩ <;> rw [← hw] <;> rfl
  · rw [hmem, ← hw]; rfl
  · rw [hreg o ho, State.reg_setRegBit_ne _ _ _ hne]
    exact State.reg_congr (by rfl) o
  · rw [State.regBit, hreg _ (by decide)]
    exact regBit_setRegBit_self _ _ _ hbit
  · rw [hstk, ← hw, stk_selfRefreshAll]
    split <;> rfl
  · have hlt : n < (s.toBallast.setRegBit pwrBase bit true).mem.stackCtl.length := hn
    rw [hstk, ← hw, stk_selfRefreshAll, if_pos hlt]

/-- 'Hold water' low: the stop, with its latch set and counted. -/
theorem holdAtBoot_eq (s : State) : holdAtBoot s =
    if s.pins.holdWater then stopWater (bump (s.setRegBit pwrBase 2 true) pwrBase 8 1) 3 0x4802 else s := by
  unfold holdAtBoot
  cases s.pins.holdWater <;> rfl

/-! ## The cold start -/

section
variable (s : State) (env : PowerUpEnv)

theorem coldStart_reg (o : Nat) : (coldStart s env).reg o = regReset o := rfl

theorem coldStart_lock : (coldStart s env).regBit 8 0 = false := by
  rw [State.regBit, coldStart_reg]
  decide +kernel

theorem coldStart_holding : (coldStart s env).holding = false := by
  rw [State.holding, State.regBit, State.regBit, coldStart_reg]
  decide +kernel

theorem coldStart_stacks : (coldStart s env).mem.stackCtl.length = 8 := rfl

theorem coldStart_refresh (n : Nat) : ((coldStart s env).stk n).selfRefresh = false := by
  have h : ∀ n < 8, ((List.replicate 8 Stack.reset).getD n Stack.reset).selfRefresh = false := by decide
  by_cases hn : n < 8
  · exact h n hn
  · exact congrArg Stack.selfRefresh (List.getD_eq_default _ _ (Nat.not_lt.1 hn))

end

/-! ## The commands -/

section
variable {s : State} {env : PowerUpEnv} (hoff : s.pins.powered = false)
include hoff

theorem exec_powerUp_noBank {st : Nat} (hbank : selectBank (coldStart s env) env.devOpen = .error st) :
    exec (.powerUp env) s = .next { coldStart s env with
      rig := factoryRig (coldStart s env), sec := { (coldStart s env).sec with romRecovery := true, bootStatus := BitVec.ofNat 16 st },
      pins := { (coldStart s env).pins with pkgReady := true } } := by
  show execPowerUp env s = _
  simp only [execPowerUp, hoff, Bool.false_eq_true, if_false, hbank]

theorem exec_powerUp_bank {b : Nat} {fb : Bool} (hbank : selectBank (coldStart s env) env.devOpen = .ok (b, fb)) :
    exec (.powerUp env) s = .next { holdAtBoot (bootFirmware (coldStart s env) env b fb) with
      pins := { (holdAtBoot (bootFirmware (coldStart s env) env b fb)).pins with pkgReady := true } } := by
  show execPowerUp env s = _
  simp only [execPowerUp, hoff, Bool.false_eq_true, if_false, hbank]

end

/-- What a healthy POWER_UP leaves, HOLDING aside. -/
structure BootShows (s : State) (env : PowerUpEnv) (b : Nat) (fb hold : Bool) (t : State) : Prop where
  pins      : t.pins = { (coldStart s env).pins with bypassOpen := true }
  sec       : t.sec = (bankChosen (coldStart s env) b fb).sec
  rig       : t.rig = (buildRig (coldStart s env)).rig
  units     : t.tiles = [] ∧ t.cores = [] ∧ t.job = none ∧ t.sync = State.reset.sync
  mem       : t.mem.bytes = [] ∧ t.mem.xlt = []
  bootCount : t.flash.bootCount = s.flash.bootCount + 1
  rollback  : t.flash.rollback = fusesAt s.flash b env.devOpen
  lock      : t.regBit 8 0 = bitOf s.flash.ownerPolicy.toNat 1
  holding   : t.holding = hold
  each      : ∀ n < 8, (t.stk n).trained = true ∧ (t.stk n).selfRefresh = hold

section
variable {s : State} {env : PowerUpEnv} {b : Nat} {fb : Bool}

/-- Before 'hold water' is looked at. -/
theorem bootFirmware_shows (hunits : env.failedUnits = []) (hsup : env.failedSupervisors = []) (hstacks : env.failedStacks = [])
    (hraw : s.flash.ownerConfigRaw = []) : BootShows s env b fb false (bootFirmware (coldStart s env) env b fb) ∧
      (bootFirmware (coldStart s env) env b fb).mem.stackCtl.length = 8 := by
  obtain ⟨hpins, hsec, hrig, ⟨htiles, hcores, hjob, hsync⟩, hmem, hcount, hroll, hcfg, hregs, hlen, heach⟩ :=
    beforeConfig_booted (coldStart s env) env b fb rfl
  rw [bootFirmware_healthy hunits hsup hstacks, bootConfig_none (hcfg.trans hraw)]
  generalize beforeConfig (coldStart s env) env b fb = u at hpins hsec hrig htiles hcores hjob hsync hmem hcount hroll hregs hlen heach ⊢
  have hpolicy : u.sec.ownerPolicy = s.flash.ownerPolicy := by rw [hsec]; rfl
  have heach' (n : Nat) (hn : n < 8) : (u.stk n).trained = true ∧ (u.stk n).selfRefresh = false := by
    rw [← coldStart_refresh s env n]; exact heach n hn
  have hlock : u.regBit 8 0 = false := by rw [State.regBit, hregs 8 (by decide)]; exact coldStart_lock s env
  have hhold : u.holding = false := by
    rw [State.holding, State.regBit, State.regBit, hregs pwrBase (by decide)]; exact coldStart_holding s env
  rw [hpolicy]
  cases hset : bitOf s.flash.ownerPolicy.toNat 1 with
  | false =>
    exact ⟨⟨hpins, hsec, hrig, ⟨htiles, hcores, hjob, hsync⟩, hmem, hcount, hroll, hlock.trans hset.symm, hhold, heach'⟩, hlen⟩
  | true =>
    refine ⟨⟨hpins, hsec, hrig, ⟨htiles, hcores, hjob, hsync⟩, hmem, hcount, hroll, ?_, ?_, heach'⟩, hlen⟩
    · exact (regBit_setRegBit_self u 8 true (by decide)).trans hset.symm
    · rw [← hhold]
      simp only [if_true, State.holding, State.regBit, State.reg_setRegBit_ne u (o := glbBase + 8) (p := pwrBase) 0 true (by decide)]

theorem BootShows.held {v : State} (h : BootShows s env b fb false v) (hlen8 : v.mem.stackCtl.length = 8) : BootShows s env b fb env.holdWaterLow (holdAtBoot v) := by
  have hhold : v.pins.holdWater = env.holdWaterLow := by rw [h.pins]; rfl
  rw [holdAtBoot_eq, hhold]
  cases hlow : env.holdWaterLow with
  | false => exact h
  | true =>
    have hbump : BootKeeps (v.setRegBit pwrBase 2 true) (bump (v.setRegBit pwrBase 2 true) pwrBase 8 1) := (bump_frame _ _ (by decide)).boot
    have hreg8 : (v.setRegBit pwrBase 2 true).reg 8 = v.reg 8 := State.reg_setRegBit_ne _ _ _ (by decide)
    rw [if_pos rfl]
    generalize bump (v.setRegBit pwrBase 2 true) pwrBase 8 1 = w at hbump ⊢
    have hstop := stopWater_stopped w (bit := 3) (by decide) 0x4802
    generalize stopWater w 3 0x4802 = t at hstop ⊢
    have hkeeps := hstop.keeps
    refine ⟨hkeeps.pins.trans (hbump.pins.trans h.pins), hkeeps.sec.trans (hbump.sec.trans h.sec), hkeeps.rig.trans (hbump.rig.trans h.rig),
      ?_, ?_, hkeeps.bootCount.trans (hbump.bootCount.trans h.bootCount), hkeeps.rollback.trans (hbump.rollback.trans h.rollback), ?_, ?_, fun n hn => ?_⟩
    · obtain ⟨htiles, hcores, hjob, hsync⟩ := h.units
      exact ⟨hkeeps.tiles.trans (hbump.tiles.trans htiles), hkeeps.cores.trans (hbump.cores.trans hcores), hkeeps.job.trans (hbump.job.trans hjob),
        hkeeps.sync.trans (hbump.sync.trans hsync)⟩
    · obtain ⟨hbytes, hxlt⟩ := h.mem
      rw [hstop.mem]
      exact ⟨hbump.bytes.trans hbytes, hbump.xlt.trans hxlt⟩
    · rw [← h.lock, State.regBit, State.regBit, hstop.regs 8 (by decide) (by decide), hbump.regs 8 (by decide), hreg8]
    · rw [State.holding, hstop.flag, Bool.true_or]
    · have hlen : n < w.mem.stackCtl.length := by rw [hbump.ctlCount]; exact hlen8.symm ▸ hn
      exact ⟨(hstop.trained n).trans ((hbump.trained n).trans (h.each n hn).1), hstop.refresh n hlen⟩

end

end Sys2Proof.Machine

open Sys2Proof Sys2Proof.Machine

/-- Settles O22: the steps of Table 17.1 in order, each of which keeps what the earlier ones have set up. -/
theorem powerUpBoots : Obligations.PowerUpBoots := by
  unfold Obligations.PowerUpBoots
  intro s env a
  refine ⟨fun hoff => ⟨?_, fun st hbank => exec_powerUp_noBank hoff hbank, fun b fb hbank hunits hsup hstacks hraw => ?_⟩, fun hp => ?_⟩
  · cases hbank : selectBank (coldStart s env) env.devOpen with
    | error st => exact ⟨_, exec_powerUp_noBank hoff hbank, rfl⟩
    | ok r => exact ⟨_, exec_powerUp_bank (b := r.1) (fb := r.2) hoff hbank, rfl⟩
  · obtain ⟨hready, hlen⟩ := bootFirmware_shows (b := b) (fb := fb) hunits hsup hstacks hraw
    have hshows := hready.held hlen
    have hexec := exec_powerUp_bank hoff hbank
    generalize holdAtBoot (bootFirmware (coldStart s env) env b fb) = v at hshows hexec
    obtain ⟨hpins, hsec, hrig, hunitsKept, hmem, hcount, hroll, hlock, hhold, heach⟩ := hshows
    obtain ⟨htiles, hcores, hjob, hsync⟩ := hunitsKept
    refine ⟨_, hexec, by rw [hpins]; rfl, by rw [hsec]; rfl, by rw [hsec]; rfl, by rw [State.setupOnly, hsec]; rfl, by rw [hsec]; rfl, hrig,
      hcount, hroll, hlock, hhold, heach, hmem.1, hmem.2, htiles, hcores, hjob, hsync⟩
  · refine ⟨_, powered_on (fun s => { State.reset with
      pending := s.pending, hostMem := s.hostMem, sent := s.sent, free := s.free, flash := { s.flash with dirty := false },
      pins := { State.reset.pins with perst := s.pins.perst, holdWater := s.pins.holdWater } }) hp, rfl, rfl, rfl⟩
end

section
/-! The power controller's stops, temperatures, droop cuts, learning, ageing and wear (R504, R517 to R522, R526 to R534). -/

namespace Sys2Proof.Machine

/-! ## What the controller may change -/

/-- `u` is `s` but for the controller's own state, registers, counting and raising events, what is sent, and free values. -/
def CtrlSame (s u : State) : Prop := ∃ p r m e1 e2 e3 e4 e5 e6 o f, u = { s with pwr := p, regs := r, hostMem := m, hif := { s.hif with
  evqTail := e1, evqHeld := e2, evqLost := e3, evqUnsignalled := e4, evqFirstAt := e5, eventCounts := e6 }, sent := o, free := f }

theorem CtrlSame.refl (s : State) : CtrlSame s s := ⟨s.pwr, s.regs, s.hostMem, s.hif.evqTail, s.hif.evqHeld, s.hif.evqLost, s.hif.evqUnsignalled,
  s.hif.evqFirstAt, s.hif.eventCounts, s.sent, s.free, rfl⟩

theorem CtrlSame.trans {s t u : State} (h1 : CtrlSame s t) (h2 : CtrlSame t u) : CtrlSame s u := by
  obtain ⟨_, _, _, _, _, _, _, _, _, _, _, rfl⟩ := h1
  obtain ⟨_, _, _, _, _, _, _, _, _, _, _, rfl⟩ := h2
  exact ⟨_, _, _, _, _, _, _, _, _, _, _, rfl⟩

theorem SameBut.ctrl {s u : State} (h : SameBut s u) : CtrlSame s u := by
  obtain ⟨_, _, _, _, _, _, _, _, rfl⟩ := h
  exact ⟨_, _, _, _, _, _, _, _, _, _, _, rfl⟩

theorem setReg_ctrl (s : State) (o v : Nat) : CtrlSame s (s.setReg o v) := ⟨_, _, _, _, _, _, _, _, _, _, _, rfl⟩
theorem setRegBit_ctrl (s : State) (o i : Nat) (b : Bool) : CtrlSame s (s.setRegBit o i b) := setReg_ctrl ..
theorem pwr_ctrl (s : State) (p : Power) : CtrlSame s { s with pwr := p } := ⟨_, _, _, _, _, _, _, _, _, _, _, rfl⟩
theorem emit_ctrl (s : State) (o : Out) : CtrlSame s (s.emit o) := ⟨_, _, _, _, _, _, _, _, _, _, _, rfl⟩
theorem free_ctrl (s : State) (n : Nat) : CtrlSame s { s with free := n } := ⟨_, _, _, _, _, _, _, _, _, _, _, rfl⟩

theorem bumpClocks_ctrl (s : State) (g n : Nat) : CtrlSame s (bumpClocks s g n) := (free_ctrl s _).trans (same_bump ..).ctrl

/-- The controller's frame as the obligations write it. -/
theorem CtrlSame.quiet {s u : State} (h : CtrlSame s u) :
    u = { s with pwr := u.pwr, regs := u.regs, hostMem := u.hostMem, hif := u.hif, sent := u.sent, free := u.free } := by
  obtain ⟨_, _, _, _, _, _, _, _, _, _, _, rfl⟩ := h
  rfl

theorem bumpClocks_pwr (s : State) (g n : Nat) : (bumpClocks s g n).pwr = s.pwr := bump_pwr ..
theorem bumpClocks_sent (s : State) (g n : Nat) : (bumpClocks s g n).sent = s.sent := bump_sent ..

/-! ## VIN (R504) -/

section
variable {s : State} (hp : s.pins.powered = true)
include hp

theorem exec_vinOutOfRange_again (h : s.pwr.vinExcursion = true) : exec .vinOutOfRange s = .next s := by
  show execVinOutOfRange s = _
  rw [execVinOutOfRange, powered_on _ hp, h, if_pos rfl]

theorem exec_vinOutOfRange_first (h : s.pwr.vinExcursion = false) :
    Reaches .vinOutOfRange s ({ s with pwr := { s.pwr with vinExcursion := true } }.setRegBit pwrBase 6 true) := by
  refine ⟨_, ?_, raise_frame _ 0x4806 srcPwr 0 0⟩
  show execVinOutOfRange s = _
  rw [execVinOutOfRange, powered_on _ hp, h]
  rfl

theorem exec_vinExcursionEnd :
    exec .vinExcursionEnd s = .next ({ s with pwr := { s.pwr with vinExcursion := false } }.setRegBit pwrBase 6 false) := by
  show execVinExcursionEnd s = _
  rw [execVinExcursionEnd, powered_on _ hp]

/-! ## 'Hold water' (R526 to R528) -/

/-- The input is recorded as low, latched and counted. -/
def holdSeen (s : State) : State :=
  bump ({ s with pins := { s.pins with holdWater := true }, pwr := { s.pwr with holdCount := none } }.setRegBit pwrBase 2 true) pwrBase 8 1

theorem exec_holdWaterAsserted : exec .holdWaterAsserted s =
    .next (if (holdSeen s).regBit pwrBase 3 then holdSeen s else stopWater (holdSeen s) 3 0x4802) :=
  powered_on (fun s => if (holdSeen s).regBit pwrBase 3 then holdSeen s else stopWater (holdSeen s) 3 0x4802) hp

theorem exec_holdWaterDeasserted : exec .holdWaterDeasserted s =
    .next ({ s with pins := { s.pins with holdWater := false }, pwr := { s.pwr with holdCount := some s.tim.now } }.setRegBit pwrBase 2 false) := by
  show execHoldWaterDeasserted s = _
  rw [execHoldWaterDeasserted, powered_on _ hp]

theorem exec_holdWaterCleared_due {t : U64} (hcount : s.pwr.holdCount = some t) (haged : t.toNat + 10000000 ≤ s.tim.now.toNat)
    (hhold : s.regBit pwrBase 3 = true) : exec .holdWaterCleared s = .next (restartWater { s with pwr := { s.pwr with holdCount := none } } 3) := by
  show execHoldWaterCleared s = _
  rw [execHoldWaterCleared, powered_on _ hp, hcount, hhold]
  exact congrArg _ (if_pos (by rw [Bool.and_true, decide_eq_true haged]))

theorem exec_holdWaterCleared_early
    (h : (∀ t, s.pwr.holdCount = some t → s.tim.now.toNat < t.toNat + 10000000) ∨ s.regBit pwrBase 3 = false) :
    exec .holdWaterCleared s = .next s := by
  show execHoldWaterCleared s = _
  rw [execHoldWaterCleared, powered_on _ hp]
  split
  · next t ht =>
    refine congrArg _ (if_neg ?_)
    rcases h with hearly | hfree
    · rw [decide_eq_false (Nat.not_le.2 (hearly t ht)), Bool.false_and]
      exact Bool.false_ne_true
    · rw [hfree, Bool.and_false]
      exact Bool.false_ne_true
  · rfl

end

theorem holdSeen_effect (s : State) : (holdSeen s).pins = { s.pins with holdWater := true } ∧ (holdSeen s).pwr = { s.pwr with holdCount := none } ∧
    (holdSeen s).mem = s.mem ∧ (holdSeen s).regBit pwrBase 2 = true ∧ (holdSeen s).regBit pwrBase 3 = s.regBit pwrBase 3 := by
  have hreg : (holdSeen s).reg pwrBase =
      ({ s with pins := { s.pins with holdWater := true }, pwr := { s.pwr with holdCount := none } }.setRegBit pwrBase 2 true).reg pwrBase :=
    (bump_frame _ _ (by decide)).regs _ (by decide)
  refine ⟨bump_pins .., bump_pwr .., bump_mem .., ?_, ?_⟩
  · rw [State.regBit, hreg]
    exact regBit_setRegBit_self _ _ _ (by decide)
  · rw [State.regBit, hreg]
    exact regBit_setRegBit_ne { s with pins := { s.pins with holdWater := true }, pwr := { s.pwr with holdCount := none } } _ _ (by decide) (by decide)

/-- A stop releases every woken group and puts every stack into self-refresh. -/
theorem stopWater_pwr (s : State) (bit ev : Nat) :
    (stopWater s bit ev).pwr = { s.pwr with ballast := s.pwr.ballast + s.pwr.awake, awake := 0 } := by
  have hring (u : State) : (sendRing u).pwr = u.pwr := by unfold sendRing; split <;> rfl
  have hcount (u : State) : (countMgmt u 0 (mgmtBytes 32)).pwr = u.pwr := by
    unfold countMgmt
    split
    · exact bump_pwr ..
    · rfl
  rw [stopWater, report, hcount, hring]
  exact raise_pwr ..

theorem stopWater_stackCtl (s : State) (bit ev : Nat) :
    (stopWater s bit ev).mem.stackCtl = s.mem.stackCtl.map (fun k => { k with selfRefresh := true }) := by
  rw [stopWater, report_mem, raise_mem]
  rfl

theorem stopWater_regBit_ne (s : State) {bit k : Nat} (ev : Nat) (hne : k ≠ bit) (hk : k < 32) :
    (stopWater s bit ev).regBit pwrBase k = s.regBit pwrBase k := by
  have hreg : (stopWater s bit ev).reg pwrBase = (s.toBallast.setRegBit pwrBase bit true).reg pwrBase :=
    ((report_boot _ 0x8711 0 ev).regs _ (by decide)).trans ((raise_frame _ ev srcPwr 0 0).regs _ (by decide))
  rw [State.regBit, hreg]
  exact regBit_setRegBit_ne s.toBallast _ _ hne hk

/-- The end of a stop: its flag is cleared, and the stacks leave self-refresh unless another stop holds. -/
theorem restartWater_effect (s : State) {bit : Nat} (hbit : bit < 32) : ∃ u, restartWater s bit = u ∧ u.pwr = s.pwr ∧ u.regBit pwrBase bit = false ∧
    (∀ k < 32, k ≠ bit → u.regBit pwrBase k = s.regBit pwrBase k) ∧ (∀ o, eventReg o = false → o ≠ pwrBase → u.reg o = s.reg o) ∧
    ((s.setRegBit pwrBase bit false).holding = true → u.mem = s.mem) ∧
    ((s.setRegBit pwrBase bit false).holding = false → u.mem.stackCtl = s.mem.stackCtl.map (fun k => { k with selfRefresh := false })) := by
  generalize hw : (if (s.setRegBit pwrBase bit false).holding then s.setRegBit pwrBase bit false else selfRefreshAll (s.setRegBit pwrBase bit false) false) = w
  have hpwr : w.pwr = s.pwr := by rw [← hw]; split <;> rfl
  have hregs : w.regs = (s.setRegBit pwrBase bit false).regs := by rw [← hw]; split <;> rfl
  have hu : restartWater s bit = raise w 0x4803 srcPwr 0 0 := by rw [← hw]; rfl
  have hreg (o : Nat) (ho : eventReg o = false) : (raise w 0x4803 srcPwr 0 0).reg o = (s.setRegBit pwrBase bit false).reg o :=
    ((raise_frame w 0x4803 srcPwr 0 0).regs o ho).trans (State.reg_congr hregs o)
  refine ⟨_, hu, (raise_pwr ..).trans hpwr, ?_, fun k hk hne => ?_, fun o ho hne => ?_, fun hhold => ?_, fun hfree => ?_⟩
  · rw [State.regBit, hreg _ (by decide)]
    exact regBit_setRegBit_self _ _ _ hbit
  · rw [State.regBit, hreg _ (by decide)]
    exact regBit_setRegBit_ne _ _ _ hne hk
  · rw [hreg o ho, State.reg_setRegBit_ne _ _ _ hne]
  · rw [raise_mem, ← hw, if_pos hhold]; rfl
  · rw [raise_mem, ← hw, hfree]; rfl

/-- Once HOLDING is cleared, a thermal trip is all that can hold the package. -/
theorem holding_setRegBit (s : State) : ((s.setRegBit pwrBase 3 false).holding = s.regBit pwrBase 5) ∧
    ((s.setRegBit pwrBase 5 false).holding = s.regBit pwrBase 3) := by
  constructor
  · rw [State.holding, regBit_setRegBit_self _ _ _ (by decide), regBit_setRegBit_ne _ _ _ (by decide) (by decide), Bool.false_or]
  · rw [State.holding, regBit_setRegBit_self _ _ _ (by decide), regBit_setRegBit_ne _ _ _ (by decide) (by decide), Bool.or_false]

/-! ## Ceilings and droop cuts (R516, R521, R522) -/

/-- CAPPED follows the ceilings. -/
theorem refreshCapped_effect (s : State) : CtrlSame s (refreshCapped s) ∧ (refreshCapped s).pwr = s.pwr ∧ (refreshCapped s).sent = s.sent ∧
    ∀ o, eventReg o = false → o ≠ pwrBase → (refreshCapped s).reg o = s.reg o := by
  unfold refreshCapped
  simp only
  generalize (List.range 4).any (fun n => (s.phasesOn n).any (fun ph => cutCeiling s n < s.prefArith ph)) = capped
  split
  · refine ⟨(setRegBit_ctrl ..).trans (same_raise ..).ctrl, raise_pwr .., raise_sent .., fun o ho hne => ?_⟩
    rw [(raise_frame (s.setRegBit pwrBase 0 capped) 0x4801 srcPwr 0 0).regs o ho, State.reg_setRegBit_ne _ _ _ hne]
  · exact ⟨setRegBit_ctrl .., rfl, rfl, fun o _ hne => State.reg_setRegBit_ne _ _ _ hne⟩

/-- The ceilings are shown, and CAPPED follows them. -/
theorem showCeilings_capped (s : State) : CtrlSame s (refreshCapped (showCeilings s)) ∧ (refreshCapped (showCeilings s)).pwr = s.pwr ∧
    (refreshCapped (showCeilings s)).sent = s.sent := by
  obtain ⟨hsame, hpwr, hsent, -⟩ := refreshCapped_effect (showCeilings s)
  exact ⟨(setReg_ctrl ..).trans hsame, hpwr, hsent⟩

section
variable {s : State} (hp : s.pins.powered = true)
include hp

theorem exec_powerOverLimit_within {w : Nat} (ms : List PhaseMeas) (h : w ≤ s.reg (pwrBase + 0x14)) : exec (.powerOverLimit w ms) s = .next s := by
  show execPowerOverLimit w ms s = _
  rw [execPowerOverLimit, powered_on _ hp, if_pos h]

omit hp in
/-- Raised demands leave the rest of the controller's state. -/
theorem raiseDemands_effect (ms : List PhaseMeas) : ∀ s : State, CtrlSame s (raiseDemands s ms) ∧ (raiseDemands s ms).pwr.target = s.pwr.target := by
  induction ms with
  | nil => exact fun s => ⟨CtrlSame.refl s, rfl⟩
  | cons m ms ih =>
    intro s
    let d := (s.demandOf m.phase.toNat m.die.toNat).getD
      { program := s.program, phase := m.phase, die := m.die.toNat, demand := factoryDemand s m.die.toNat, sum := 0, high := 0, seen := 0 }
    obtain ⟨hsame, htarget⟩ := ih (setDemand s { d with demand := max d.demand m.demand })
    exact ⟨(pwr_ctrl s _).trans hsame, htarget⟩

theorem exec_powerOverLimit_over {w : Nat} (ms : List PhaseMeas) (h : s.reg (pwrBase + 0x14) < w) :
    ∃ u, exec (.powerOverLimit w ms) s = .next u ∧ CtrlSame s u ∧ u.pwr.target = s.pwr.target.map (fun c => c - 1) := by
  generalize hs1 : ({ s with pwr := { s.pwr with target := s.pwr.target.map (fun c => c - 1) } } : State) = s1
  generalize hms : ms.filter (fun m => (s1.phasesOn m.die.toNat).contains m.phase.toNat) = l
  have hexec : exec (.powerOverLimit w ms) s = .next (refreshCapped (showCeilings (raiseDemands s1 l))) := by
    show execPowerOverLimit w ms s = _
    rw [execPowerOverLimit, powered_on _ hp, if_neg (Nat.not_le.2 h), ← hms, ← hs1]
  obtain ⟨hraised, htarget⟩ := raiseDemands_effect l s1
  obtain ⟨hshown, hpwr, -⟩ := showCeilings_capped (raiseDemands s1 l)
  refine ⟨_, hexec, ((hs1 ▸ pwr_ctrl s _).trans hraised).trans hshown, ?_⟩
  rw [hpwr, htarget, ← hs1]

/-- Tile `t` has taken a cut of its die's ceiling. -/
def droopCutTaken (s : State) (t : TileId) : State :=
  { s with pwr := { s.pwr with droopCut := s.pwr.droopCut ++ [(t.die.toNat, t.phys.toNat, s.tim.now)] } }

/-- Tile `t` is due for a cut: over 1,000 stretches in 1 ms, and no cut in force (R522). -/
def droopCutDue (s : State) (log : List (Nat × Nat × List U64)) (t : TileId) : Bool :=
  1000 < ((log.find? (fun e => e.1 == t.die.toNat && e.2.1 == t.phys.toNat)).map (fun e => e.2.2.length)).getD 0 &&
    !s.pwr.droopCut.any (fun e => e.1 == t.die.toNat && e.2.1 == t.phys.toNat)

/-- A stretch is recorded and counted. -/
def stretchNoted (s : State) (t : TileId) : State :=
  bump { s with pwr := { s.pwr with droops := noteStretch s t.die.toNat t.phys.toNat } } pwrBase 2 1

theorem exec_droopStretch_eq (t : TileId) : exec (.droopStretch t) s = .next (
    if droopCutDue (stretchNoted s t) (stretchNoted s t).pwr.droops t then refreshCapped (showCeilings (droopCutTaken (stretchNoted s t) t))
    else stretchNoted s t) := by
  show execDroopStretch t s = _
  rw [execDroopStretch, powered_on _ hp]
  rfl

theorem exec_droopStretch (t : TileId) : ∃ u, exec (.droopStretch t) s = .next u ∧ CtrlSame s u ∧
    u.pwr = { s.pwr with droops := noteStretch s t.die.toNat t.phys.toNat, droopCut := u.pwr.droopCut } ∧
    u.pwr.droopCut = if droopCutDue s (noteStretch s t.die.toNat t.phys.toNat) t
      then s.pwr.droopCut ++ [(t.die.toNat, t.phys.toNat, s.tim.now)] else s.pwr.droopCut := by
  have hexec := exec_droopStretch_eq hp t
  have hsame : CtrlSame s (stretchNoted s t) := (pwr_ctrl s _).trans (same_bump ..).ctrl
  have hpwr : (stretchNoted s t).pwr = { s.pwr with droops := noteStretch s t.die.toNat t.phys.toNat } := bump_pwr ..
  have htim : (stretchNoted s t).tim = s.tim := bump_tim ..
  generalize stretchNoted s t = s1 at hexec hsame hpwr htim
  have hdue : droopCutDue s1 s1.pwr.droops t = droopCutDue s (noteStretch s t.die.toNat t.phys.toNat) t := by
    simp only [droopCutDue, hpwr]
  have hcut : (droopCutTaken s1 t).pwr = { s.pwr with
      droops := noteStretch s t.die.toNat t.phys.toNat
      droopCut := s.pwr.droopCut ++ [(t.die.toNat, t.phys.toNat, s.tim.now)] } := by simp only [droopCutTaken, hpwr, htim]
  obtain ⟨hshown, hshownPwr, -⟩ := showCeilings_capped (droopCutTaken s1 t)
  rw [hcut] at hshownPwr
  rw [hdue] at hexec
  by_cases h : droopCutDue s (noteStretch s t.die.toNat t.phys.toNat) t = true
  · rw [if_pos h] at hexec
    exact ⟨_, hexec, hsame.trans ((pwr_ctrl s1 _).trans hshown), by rw [hshownPwr], by rw [hshownPwr, if_pos h]⟩
  · rw [if_neg h] at hexec
    exact ⟨s1, hexec, hsame, by rw [hpwr], by rw [hpwr, if_neg h]⟩

theorem exec_droopCutExpiry (die : BitVec 2) : ∃ u, exec (.droopCutExpiry die) s = .next u ∧ CtrlSame s u ∧
    u.pwr = { s.pwr with droopCut := s.pwr.droopCut.filter (fun e => !(e.1 == die.toNat && e.2.2.toNat + 10000000 ≤ s.tim.now.toNat)) } := by
  generalize hs1 : ({ s with pwr := { s.pwr with
    droopCut := s.pwr.droopCut.filter (fun e => !(e.1 == die.toNat && e.2.2.toNat + 10000000 ≤ s.tim.now.toNat)) } } : State) = s1
  have hexec : exec (.droopCutExpiry die) s = .next (refreshCapped (showCeilings s1)) := by
    show execDroopCutExpiry die s = _
    rw [execDroopCutExpiry, powered_on _ hp, ← hs1]
  obtain ⟨hshown, hpwr, -⟩ := showCeilings_capped s1
  exact ⟨_, hexec, (hs1 ▸ pwr_ctrl s _).trans hshown, by rw [hpwr, ← hs1]⟩

/-! ## Waking and stepping (R519) -/

theorem exec_wakeGroupGrant : ∃ u, exec .wakeGroupGrant s = .next u ∧ CtrlSame s u ∧ u.sent = s.sent ∧
    u.pwr = if 0 < s.pwr.ballast then { s.pwr with ballast := s.pwr.ballast - 1 }
      else if s.holding = true ∨ 8 ≤ s.pwr.awake then s.pwr else { s.pwr with awake := s.pwr.awake + 1 } := by
  have hexec : exec .wakeGroupGrant s = .next (if 0 < s.pwr.ballast then bumpClocks { s with pwr := { s.pwr with ballast := s.pwr.ballast - 1 } } pwrBase 4
      else if s.holding || 8 ≤ s.pwr.awake then s else bumpClocks { s with pwr := { s.pwr with awake := s.pwr.awake + 1 } } pwrBase 3) := by
    show execWakeGroupGrant s = _
    rw [execWakeGroupGrant, powered_on _ hp]
  by_cases hballast : 0 < s.pwr.ballast
  · rw [if_pos hballast] at hexec
    exact ⟨_, hexec, (pwr_ctrl s _).trans (bumpClocks_ctrl ..), bumpClocks_sent .., by rw [if_pos hballast]; exact bumpClocks_pwr ..⟩
  · rw [if_neg hballast] at hexec
    by_cases hstop : s.holding = true ∨ 8 ≤ s.pwr.awake
    · rw [if_pos (by simpa using hstop)] at hexec
      exact ⟨s, hexec, CtrlSame.refl s, rfl, by rw [if_neg hballast, if_pos hstop]⟩
    · rw [if_neg (by simpa using hstop)] at hexec
      exact ⟨_, hexec, (pwr_ctrl s _).trans (bumpClocks_ctrl ..), bumpClocks_sent .., by rw [if_neg hballast, if_neg hstop]; exact bumpClocks_pwr ..⟩

/-! ## Learning (R515, R518) -/

theorem exec_phaseOccurrenceEnd_runs {ph : BitVec 8} (ms : List PhaseMeas) (h : s.runsPhase ph.toNat = true) :
    exec (.phaseOccurrenceEnd ph ms) s = .next s := by
  show execPhaseOccurrenceEnd ph ms s = _
  rw [execPhaseOccurrenceEnd, powered_on _ hp, if_pos h]

theorem exec_phaseOccurrenceEnd_one {ph : BitVec 8} {m : PhaseMeas} (h : s.runsPhase ph.toNat = false) (hm : m.phase = ph) :
    exec (.phaseOccurrenceEnd ph [m]) s = .next (learn s ph.toNat m.die.toNat m.demand) := by
  have hfilter : [m].filter (fun x => x.phase == ph) = [m] := List.filter_cons_of_pos (by rw [hm]; exact beq_self_eq_true ph)
  show execPhaseOccurrenceEnd ph [m] s = _
  rw [execPhaseOccurrenceEnd, powered_on _ hp, h, hfilter]
  rfl

end

/-- One measurement added to what is known of a phase on a die, from factory demand `f`. -/
def Demand.learned (d : Demand) (f m : Nat) : Demand :=
  if d.seen < 64 then
    let k := d.seen + 1
    let high := max d.high m
    { d with seen := k, sum := d.sum + m, high := high, demand := max high ((f * (64 - k) + (d.sum + m)) / 64) }
  else { d with high := max d.high m, demand := max m (if d.demand ≤ m then d.demand + (m - d.demand) / 64 else d.demand - (d.demand - m) / 64) }

/-- What is known of a phase on a die before a measurement. -/
def State.knownDemand (s : State) (ph n : Nat) : Demand :=
  (s.demandOf ph n).getD { program := s.program, phase := BitVec.ofNat 8 ph, die := n, demand := factoryDemand s n, sum := 0, high := 0, seen := 0 }

theorem learn_eq (s : State) (ph n m : Nat) : learn s ph n m = setDemand s ((s.knownDemand ph n).learned (factoryDemand s n) m) := rfl

theorem Demand.learned_effect (d : Demand) (f m : Nat) : (d.learned f m).program = d.program ∧ (d.learned f m).phase = d.phase ∧
    (d.learned f m).die = d.die ∧ (d.learned f m).high = max d.high m ∧ m ≤ (d.learned f m).demand ∧
    (d.learned f m).seen = min (max 64 d.seen) (d.seen + 1) := by
  unfold Demand.learned
  by_cases h : d.seen < 64
  · rw [if_pos h]
    exact ⟨rfl, rfl, rfl, rfl, (Nat.le_max_right d.high m).trans (Nat.le_max_left _ _), by simp only; omega⟩
  · rw [if_neg h]
    exact ⟨rfl, rfl, rfl, rfl, Nat.le_max_left _ _, by simp only; omega⟩

/-- What is known of a phase on a die is filed under the bound program. -/
theorem knownDemand_key (s : State) {ph : Nat} (n : Nat) (hph : ph < 256) :
    (s.knownDemand ph n).program = s.program ∧ (s.knownDemand ph n).phase.toNat = ph ∧ (s.knownDemand ph n).die = n := by
  unfold State.knownDemand
  cases hold : s.demandOf ph n with
  | none => exact ⟨rfl, by simp only [Option.getD_none, BitVec.toNat_ofNat]; omega, rfl⟩
  | some d =>
    have hkey := List.find?_some hold
    simp only [Bool.and_eq_true, beq_iff_eq] at hkey
    obtain ⟨⟨hprogram, hphase⟩, hdie⟩ := hkey
    exact ⟨hprogram, hphase, hdie⟩

theorem demandOf_setDemand (s : State) {d : Demand} {ph n : Nat} (hprogram : d.program = s.program) (hphase : d.phase.toNat = ph) (hdie : d.die = n) :
    (setDemand s d).demandOf ph n = some d := by
  have hmine (e : Demand) : (e.program == d.program && e.phase == d.phase && e.die == d.die) = (e.program == s.program && e.phase.toNat == ph && e.die == n) := by
    rw [hprogram, ← hphase, hdie]
    congr 2
    rw [Bool.eq_iff_iff, beq_iff_eq, beq_iff_eq, BitVec.toNat_inj]
  have hold : (s.pwr.demands.filter (fun e => !(e.program == d.program && e.phase == d.phase && e.die == d.die))).find?
      (fun e => e.program == s.program && e.phase.toNat == ph && e.die == n) = none := by
    refine List.find?_eq_none.2 fun e he => ?_
    rw [← hmine e, Bool.not_eq_true]
    exact Bool.not_eq_true' _ ▸ (List.mem_filter.1 he).2
  have hnew : [d].find? (fun e => e.program == s.program && e.phase.toNat == ph && e.die == n) = some d := by
    refine List.find?_cons_of_pos ?_
    rw [← hmine d, beq_self_eq_true, beq_self_eq_true, beq_self_eq_true]
    rfl
  show (s.pwr.demands.filter _ ++ [d]).find? (fun e => e.program == s.program && e.phase.toNat == ph && e.die == n) = some d
  rw [List.find?_append, hold, hnew]
  rfl

theorem learn_effect (s : State) (ph : BitVec 8) (n m : Nat) : ∃ d, (learn s ph.toNat n m).demandOf ph.toNat n = some d ∧
    d.high = max (((s.demandOf ph.toNat n).map Demand.high).getD 0) m ∧ m ≤ d.demand ∧
    d.seen = min (max 64 (((s.demandOf ph.toNat n).map Demand.seen).getD 0)) (((s.demandOf ph.toNat n).map Demand.seen).getD 0 + 1) := by
  obtain ⟨hprogram, hphase, hdie⟩ := knownDemand_key s n ph.isLt
  have hhigh : (s.knownDemand ph.toNat n).high = ((s.demandOf ph.toNat n).map Demand.high).getD 0 := by
    unfold State.knownDemand
    cases s.demandOf ph.toNat n <;> rfl
  have hseen : (s.knownDemand ph.toNat n).seen = ((s.demandOf ph.toNat n).map Demand.seen).getD 0 := by
    unfold State.knownDemand
    cases s.demandOf ph.toNat n <;> rfl
  obtain ⟨hprogram', hphase', hdie', hhigh', hdemand, hseen'⟩ := Demand.learned_effect (s.knownDemand ph.toNat n) (factoryDemand s n) m
  rw [learn_eq]
  refine ⟨_, demandOf_setDemand s (hprogram'.trans hprogram) (by rw [hphase', hphase]) (hdie'.trans hdie), by rw [hhigh', hhigh], hdemand, by rw [hseen', hseen]⟩

end Sys2Proof.Machine
end

section
/-! The power controller's temperatures, ageing and wear (R529, R531 to R534). -/

namespace Sys2Proof.Machine

/-! ## Junction temperatures (R529) -/

/-- The temperatures read are kept and shown. -/
def tempsShown (s : State) (ad : List Nat) (fabric steering : Nat) : State :=
  ({ s with pwr := { s.pwr with temps := (List.range 4).map (fun n => ad.getD n 0) } }).setReg (pwrBase + 0x20)
    (ad.foldl max 0 % 256 + fabric % 256 * 0x100 + steering % 256 * 0x10000)

/-- A throttle episode begins while a die is over the threshold. -/
def throttled (s : State) (tooHot : Bool) : State :=
  if tooHot && !s.regBit pwrBase 4 then raise (s.setRegBit pwrBase 4 true) 0x4804 srcPwr 0 0 else s

/-- The thermal trip, and its end. -/
def tripped (s : State) (hot : Nat) : State :=
  if 110 ≤ hot && !s.regBit pwrBase 5 then stopWater s 5 0x4805
  else if s.regBit pwrBase 5 && hot < 90 then restartWater s 5
  else s

section
variable {s : State} (hp : s.pins.powered = true)
include hp

theorem exec_junctionTempSample (ad : List Nat) (fabric steering : Nat) : exec (.junctionTempSample ad fabric steering) s =
    .next (tripped (throttled (tempsShown s ad fabric steering) (ad.any (fun c => bitsOf (s.reg (pwrBase + 0x24)) 7 0 < c)))
      (max (ad.foldl max 0) (max fabric steering))) := by
  show execJunctionTempSample ad fabric steering s = _
  rw [execJunctionTempSample, powered_on _ hp]
  rfl

end

theorem tempsShown_effect (s : State) (ad : List Nat) (fabric steering : Nat) : ∃ u, tempsShown s ad fabric steering = u ∧
    u.pwr = { s.pwr with temps := (List.range 4).map (fun n => ad.getD n 0) } ∧ u.mem = s.mem ∧
    u.reg (pwrBase + 0x20) = ad.foldl max 0 % 256 + fabric % 256 * 0x100 + steering % 256 * 0x10000 ∧ u.reg pwrBase = s.reg pwrBase := by
  refine ⟨_, rfl, rfl, rfl, ?_, ?_⟩
  · rw [tempsShown, State.reg_setReg_self, Nat.mod_eq_of_lt (by omega)]
  · exact State.reg_setReg_ne { s with pwr := { s.pwr with temps := (List.range 4).map (fun n => ad.getD n 0) } } _ (by decide)

theorem throttled_effect (s : State) (tooHot : Bool) : ∃ u, throttled s tooHot = u ∧ u.pwr = s.pwr ∧ u.mem = s.mem ∧
    u.reg (pwrBase + 0x20) = s.reg (pwrBase + 0x20) ∧ u.regBit pwrBase 4 = (s.regBit pwrBase 4 || tooHot) ∧ u.regBit pwrBase 5 = s.regBit pwrBase 5 := by
  unfold throttled
  by_cases h : (tooHot && !s.regBit pwrBase 4) = true
  · have hregs := (raise_frame (s.setRegBit pwrBase 4 true) 0x4804 srcPwr 0 0).regs
    rw [if_pos h]
    rw [Bool.and_eq_true] at h
    refine ⟨_, rfl, raise_pwr .., raise_mem .., ?_, ?_, ?_⟩
    · rw [hregs _ (by decide), State.reg_setRegBit_ne _ _ _ (by decide)]
    · rw [h.1, Bool.or_true, State.regBit, hregs _ (by decide)]
      exact regBit_setRegBit_self _ _ _ (by decide)
    · rw [State.regBit, hregs _ (by decide)]
      exact regBit_setRegBit_ne _ _ _ (by decide) (by decide)
  · rw [if_neg h]
    refine ⟨s, rfl, rfl, rfl, rfl, ?_, rfl⟩
    cases tooHot with
    | false => rw [Bool.or_false]
    | true =>
      have hset : s.regBit pwrBase 4 = true := by
        cases hbit : s.regBit pwrBase 4 with
        | true => rfl
        | false => exact absurd (by rw [hbit]; rfl) h
      rw [hset, Bool.true_or]

theorem stopWater_reg (s : State) {bit : Nat} (ev : Nat) {o : Nat} (ho : eventReg o = false) (hne : o ≠ pwrBase) :
    (stopWater s bit ev).reg o = s.reg o := by
  refine ((report_boot _ 0x8711 0 ev).regs o ho).trans (((raise_frame _ ev srcPwr 0 0).regs o ho).trans ?_)
  exact State.reg_setRegBit_ne s.toBallast _ _ hne

/-- A trip stops the package at 110 °C, and ends below 90 °C. -/
theorem tripped_effect (s : State) (hot : Nat) : ∃ u, tripped s hot = u ∧
    u.pwr = (if 110 ≤ hot ∧ s.regBit pwrBase 5 = false then { s.pwr with ballast := s.pwr.ballast + s.pwr.awake, awake := 0 } else s.pwr) ∧
    u.reg (pwrBase + 0x20) = s.reg (pwrBase + 0x20) ∧ u.regBit pwrBase 4 = s.regBit pwrBase 4 ∧
    u.regBit pwrBase 5 = (if 110 ≤ hot then true else if hot < 90 then false else s.regBit pwrBase 5) ∧
    (110 ≤ hot → s.regBit pwrBase 5 = false → u.mem.stackCtl = s.mem.stackCtl.map (fun k => { k with selfRefresh := true })) := by
  unfold tripped
  by_cases htrip : 110 ≤ hot ∧ s.regBit pwrBase 5 = false
  · obtain ⟨hhot, hclear⟩ := htrip
    rw [if_pos (by rw [hclear, decide_eq_true hhot]; rfl), if_pos ⟨hhot, hclear⟩, if_pos hhot]
    exact ⟨_, rfl, stopWater_pwr .., stopWater_reg s _ (by decide) (by decide), stopWater_regBit_ne s _ (by decide) (by decide),
      (stopWater_stopped s (by decide) 0x4805).flag, fun _ _ => stopWater_stackCtl ..⟩
  · rw [if_neg htrip, if_neg (by simpa using fun h => by simpa using fun hb => htrip ⟨h, hb⟩)]
    by_cases hend : s.regBit pwrBase 5 = true ∧ hot < 90
    · obtain ⟨hset, hcool⟩ := hend
      obtain ⟨u, hu, hpwr, hflag, hbits, hregs, -, -⟩ := restartWater_effect s (bit := 5) (by decide)
      rw [if_pos (by rw [hset, decide_eq_true hcool]; rfl), if_neg (show ¬110 ≤ hot by omega), if_pos hcool]
      exact ⟨u, hu, hpwr, hregs _ (by decide) (by decide), hbits 4 (by decide) (by decide), hflag, fun h => absurd h (by omega)⟩
    · rw [if_neg (by simpa using fun h => by simpa using fun hc => hend ⟨h, hc⟩)]
      refine ⟨s, rfl, rfl, rfl, rfl, ?_, fun h hb => absurd ⟨h, hb⟩ htrip⟩
      by_cases hhot : 110 ≤ hot
      · rw [if_pos hhot]
        exact Bool.not_eq_false _ ▸ fun h => htrip ⟨hhot, h⟩
      · rw [if_neg hhot]
        by_cases hcool : hot < 90
        · rw [if_pos hcool]
          exact Bool.eq_false_iff.2 fun h => hend ⟨h, hcool⟩
        · rw [if_neg hcool]

/-! ## Ageing (R531, R532) -/

theorem exec_ageingCheck_nil {s : State} (hp : s.pins.powered = true) : exec (.ageingCheck []) s = .next s := by
  show execAgeingCheck [] s = _
  rw [execAgeingCheck, powered_on _ hp, List.foldl_nil]

theorem ageIsland_pins (s : State) (e : Nat × Nat) : (ageIsland s e).pins = s.pins := by
  unfold ageIsland
  simp only
  split
  · exact bump_pins ..
  · exact raise_pins ..

theorem exec_ageingCheck_cons {s : State} (hp : s.pins.powered = true) (e : Nat × Nat) (l : List (Nat × Nat)) :
    exec (.ageingCheck (e :: l)) s = exec (.ageingCheck l) (ageIsland s e) := by
  show execAgeingCheck (e :: l) s = execAgeingCheck l (ageIsland s e)
  rw [execAgeingCheck, execAgeingCheck, powered_on _ hp, powered_on _ (ageIsland_pins s e ▸ hp), List.foldl_cons]

theorem ageIsland_trims {s : State} {e : Nat × Nat} (h : kvGetD s.pwr.trims (islandKey e) 0 < 20) :
    (ageIsland s e).pwr = { s.pwr with trims := kvSet s.pwr.trims (islandKey e) (kvGetD s.pwr.trims (islandKey e) 0 + 1) } ∧
    (ageIsland s e).flash = { s.flash with dirty := true } := by
  simp only [ageIsland, if_pos h, bump_pwr, bump_flash, and_self]

theorem ageIsland_loses {s : State} {e : Nat × Nat} (h : 20 ≤ kvGetD s.pwr.trims (islandKey e) 0) :
    (ageIsland s e).pwr = { s.pwr with trimLoss := kvSet s.pwr.trimLoss (islandKey e) (kvGetD s.pwr.trimLoss (islandKey e) 0 + 1) } ∧
    (ageIsland s e).flash = s.flash := by
  simp only [ageIsland, if_neg (Nat.not_lt.2 h), raise_pwr, raise_flash, and_self]

/-! ## Wear (R533, R534) -/

/-- The daily values of an indicator, the last 90. -/
def wearPast (s : State) (eye n : Nat) : List Nat := ((kvGetD s.pwr.history n [] ++ [(wearValues s eye).getD n 0]).reverse.take 90).reverse

/-- The history of all nine indicators. -/
def wearHistory (s : State) (eye : Nat) : List (Nat × List Nat) := (List.range 9).map (fun n => (n, wearPast s eye n))

/-- What is found under a key in a table of the keys below `m`. -/
theorem kvGetD_rangeMap {α : Type} (f : Nat → α) (d : α) {m n : Nat} (h : n < m) : kvGetD ((List.range m).map (fun i => (i, f i))) n d = f n := by
  have hget : ∀ (l : List Nat), n ∈ l → kvGet (l.map (fun i => (i, f i))) n = some (f n) := by
    intro l hl
    induction l with
    | nil => exact absurd hl List.not_mem_nil
    | cons a l ih =>
      by_cases ha : a = n
      · subst ha
        exact if_pos rfl
      · exact (if_neg ha).trans (ih ((List.mem_cons.1 hl).resolve_left (Ne.symm ha)))
  rw [kvGetD, hget _ (List.mem_range.2 h), Option.getD_some]

theorem wearHistory_get (s : State) (eye : Nat) {n : Nat} (h : n < 9) : kvGetD (wearHistory s eye) n [] = wearPast s eye n :=
  kvGetD_rangeMap (wearPast s eye) [] h

/-- The registers of the first `m` indicators hold their values. -/
theorem wearRegs (s : State) (w : Nat → Nat) : ∀ m, ∃ u, (List.range m).foldl (fun s n => s.setReg (pwrBase + 0x40 + 4 * n) (w n)) s = u ∧
    (∃ r, u = { s with regs := r }) ∧ ∀ n < m, u.reg (pwrBase + 0x40 + 4 * n) = w n % 2 ^ 32
  | 0 => ⟨s, rfl, ⟨s.regs, rfl⟩, fun n hn => absurd hn (Nat.not_lt_zero n)⟩
  | m + 1 => by
    obtain ⟨u, hu, ⟨r, hr⟩, hval⟩ := wearRegs s w m
    refine ⟨u.setReg (pwrBase + 0x40 + 4 * m) (w m), ?_, ⟨(u.setReg (pwrBase + 0x40 + 4 * m) (w m)).regs, by rw [hr]; rfl⟩, fun n hn => ?_⟩
    · rw [List.range_succ, List.foldl_append, hu]
      rfl
    · by_cases hnm : n = m
      · rw [hnm, State.reg_setReg_self]
      · have hne : pwrBase + 0x40 + 4 * n ≠ pwrBase + 0x40 + 4 * m := by omega
        rw [State.reg_setReg_ne _ _ hne]
        exact hval n (by omega)

theorem permille_le (a b : Nat) : permille a b ≤ 1023 := by
  unfold permille
  split <;> omega

theorem foldl_max_le {l : List Nat} {b : Nat} (h : ∀ x ∈ l, x ≤ b) : ∀ {a : Nat}, a ≤ b → l.foldl max a ≤ b := by
  induction l with
  | nil => exact fun ha => ha
  | cons x l ih =>
    intro a ha
    exact ih (fun y hy => h y (List.mem_cons_of_mem x hy)) (max_le ha (h x List.mem_cons_self))

/-- The consumed fractions are shares of a thousand. -/
theorem wearValues_le (s : State) (eye : Nat) {n : Nat} (h : n < 8) : (wearValues s eye).getD n 0 ≤ 1023 := by
  have hrepair : (s.mem.stackCtl.mapIdx (fun n k => permille k.repairsDone (k.repairsDone + s.flash.repairs.getD n 0))).foldl max 0 ≤ 1023 := by
    refine foldl_max_le (fun x hx => ?_) (Nat.zero_le _)
    obtain ⟨i, hi, rfl⟩ := List.mem_mapIdx.1 hx
    exact permille_le ..
  interval_cases n <;> simp only [wearValues, List.getD_cons_zero, List.getD_cons_succ, permille_le]
  exact hrepair

theorem monthsOf_le (ys : List Nat) : monthsOf ys ≤ 4095 := by
  unfold monthsOf
  simp only
  split
  · exact Nat.le_refl _
  · split <;> omega

theorem foldl_min_le : ∀ (l : List Nat) (a : Nat), l.foldl min a ≤ a
  | [], _ => Nat.le_refl _
  | x :: l, a => (foldl_min_le l (min a x)).trans (Nat.min_le_left a x)

/-- The least of the nine projections. -/
def leastMonths (s : State) (eye : Nat) : Nat := ((List.range 9).map (fun n => monthsOf (wearPast s eye n))).foldl min 4095

/-- The indicators are shown. -/
def wearShown (s : State) (eye : Nat) : State :=
  (List.range 9).foldl (fun t n => t.setReg (pwrBase + 0x40 + 4 * n) ((wearValues s eye).getD n 0 +
    ((List.range 9).map (fun n => monthsOf (kvGetD (wearHistory s eye) n []))).getD n 4095 * 0x400)) { s with pwr := { s.pwr with history := wearHistory s eye } }

theorem wearMonths_eq (s : State) (eye : Nat) :
    (List.range 9).map (fun n => monthsOf (kvGetD (wearHistory s eye) n [])) = (List.range 9).map (fun n => monthsOf (wearPast s eye n)) :=
  List.map_congr_left fun _ hn => congrArg monthsOf (wearHistory_get s eye (List.mem_range.1 hn))

theorem wearShown_effect (s : State) (eye : Nat) : ∃ u, wearShown s eye = u ∧ (∃ r, u = { s with pwr := { s.pwr with history := wearHistory s eye }, regs := r }) ∧
    ∀ n < 8, u.reg (pwrBase + 0x40 + 4 * n) = (wearValues s eye).getD n 0 + monthsOf (wearPast s eye n) * 0x400 := by
  obtain ⟨u, hu, ⟨r, hr⟩, hval⟩ := wearRegs { s with pwr := { s.pwr with history := wearHistory s eye } } (fun n => (wearValues s eye).getD n 0 +
    ((List.range 9).map (fun n => monthsOf (kvGetD (wearHistory s eye) n []))).getD n 4095 * 0x400) 9
  refine ⟨u, hu, ⟨r, hr⟩, fun n hn => ?_⟩
  have hmonths : ((List.range 9).map (fun n => monthsOf (wearPast s eye n))).getD n 4095 = monthsOf (wearPast s eye n) := by
    have h9 : n < 9 := by omega
    simp [List.getD_eq_getElem?_getD, h9]
  have hv := wearValues_le s eye hn
  have hm := monthsOf_le (wearPast s eye n)
  rw [hval n (by omega)]
  simp only [wearMonths_eq, hmonths]
  exact Nat.mod_eq_of_lt (by omega)

/-- The prediction and its band, whose edges are free values, once the indicators are shown. -/
def wearBand (w : State) (least ind : Nat) : State :=
  (({ w with free := w.free + 1 + 1 } : State).setReg (pwrBase + 0x28)
    (least + (Config.freeBits w.free).toNat % 4096 * 0x1000 + ind * 0x1000000 + 0x10000000)).setReg (pwrBase + 0x2C)
    ((Config.freeBits (w.free + 1)).toNat % 4096)

/-- A prediction below the warning's threshold is reported once. -/
def wearWarned (u : State) (least : Nat) : State :=
  let warn := least < bitsOf (u.reg (pwrBase + 4)) 13 6
  let u' := { u with pwr := { u.pwr with eolWarned := warn } }
  if warn && !u.pwr.eolWarned then raise u' 0x4808 srcPwr 0 least else u'

/-- The months that the history projects. -/
def wearMonths (s : State) (eye : Nat) : List Nat := (List.range 9).map (fun n => monthsOf (kvGetD (wearHistory s eye) n []))

theorem refreshWear_eq (s : State) (hours eye : Nat) : refreshWear s hours eye =
    if hours < 720 then ((wearShown s eye).setReg (pwrBase + 0x28) 0).setReg (pwrBase + 0x2C) 0
    else wearWarned (wearBand (wearShown s eye) ((wearMonths s eye).foldl min 4095)
      (((wearMonths s eye).findIdx? (fun m => m == (wearMonths s eye).foldl min 4095)).getD 0)) ((wearMonths s eye).foldl min 4095) := by
  simp only [refreshWear]
  have hhist : (List.range 9).map (fun n => (n, (((kvGetD s.pwr.history n []) ++ [(wearValues s eye).getD n 0]).reverse.take 90).reverse)) = wearHistory s eye := rfl
  rw [hhist]
  have hmonths : (List.range 9).map (fun n => monthsOf (kvGetD (wearHistory s eye) n [])) = wearMonths s eye := rfl
  rw [hmonths]
  generalize (wearMonths s eye).foldl min 4095 = least
  by_cases h : hours < 720
  · simp only [if_pos h]
    rfl
  · rw [if_neg h]
    simp only [if_neg h]
    generalize (List.findIdx? _ _).getD 0 = ind
    have hw : (List.range 9).foldl (fun t n => t.setReg (pwrBase + 0x40 + 4 * n) ((wearValues s eye).getD n 0 + (wearMonths s eye).getD n 4095 * 0x400))
      { s with pwr := { s.pwr with history := wearHistory s eye } } = wearShown s eye := rfl
    rw [hw]
    generalize wearShown s eye = w
    rfl

theorem wearReg_not_event : ∀ n < 8, eventReg (pwrBase + 0x40 + 4 * n) = false := by decide

/-- The prediction is shown beside the indicators, which it leaves alone. -/
theorem wearBand_effect (w : State) {least : Nat} (ind : Nat) (hle : least ≤ 4095) : ∃ u, wearBand w least ind = u ∧ CtrlSame w u ∧
    u.pwr = w.pwr ∧ (∀ n < 8, u.reg (pwrBase + 0x40 + 4 * n) = w.reg (pwrBase + 0x40 + 4 * n)) ∧
    bitsOf (u.reg (pwrBase + 0x28)) 11 0 = least := by
  unfold wearBand
  generalize (Config.freeBits w.free).toNat % 4096 = lo
  generalize (Config.freeBits (w.free + 1)).toNat % 4096 = hi
  refine ⟨_, rfl, ((free_ctrl w _).trans (setReg_ctrl ..)).trans (setReg_ctrl ..), by rw [State.setReg_pwr, State.setReg_pwr], fun n _ => ?_, ?_⟩
  · have h2c : pwrBase + 0x40 + 4 * n ≠ pwrBase + 0x2C := by omega
    have h28 : pwrBase + 0x40 + 4 * n ≠ pwrBase + 0x28 := by omega
    rw [State.reg_setReg_ne _ _ h2c, State.reg_setReg_ne _ _ h28]
    exact State.reg_congr rfl _
  · rw [State.reg_setReg_ne _ _ (by decide), State.reg_setReg_self, bitsOf, Nat.shiftRight_zero]
    omega

theorem wearWarned_effect (u : State) (least : Nat) : CtrlSame u (wearWarned u least) ∧ (wearWarned u least).pwr.history = u.pwr.history ∧
    ∀ o, eventReg o = false → (wearWarned u least).reg o = u.reg o := by
  unfold wearWarned
  simp only
  split
  · refine ⟨(pwr_ctrl u _).trans (same_raise ..).ctrl, by rw [raise_pwr], fun o ho => ?_⟩
    rw [(raise_frame _ 0x4808 srcPwr 0 least).regs o ho]
    exact State.reg_congr rfl o
  · exact ⟨pwr_ctrl u _, rfl, fun o _ => State.reg_congr rfl o⟩

theorem wearShown_same (s : State) (eye : Nat) : ∃ w, wearShown s eye = w ∧ CtrlSame s w ∧ w.pwr.history = wearHistory s eye ∧
    ∀ n < 8, w.reg (pwrBase + 0x40 + 4 * n) = (wearValues s eye).getD n 0 + monthsOf (wearPast s eye n) * 0x400 := by
  obtain ⟨w, hw, ⟨r, hr⟩, hval⟩ := wearShown_effect s eye
  refine ⟨w, hw, ?_, by rw [hr], hval⟩
  rw [hr]
  exact ⟨_, _, _, _, _, _, _, _, _, _, _, rfl⟩

/-- Within the first 30 days nothing is predicted. -/
theorem wearEarly_effect (w : State) : ∃ u, (w.setReg (pwrBase + 0x28) 0).setReg (pwrBase + 0x2C) 0 = u ∧ CtrlSame w u ∧
    u.pwr.history = w.pwr.history ∧ (∀ n < 8, u.reg (pwrBase + 0x40 + 4 * n) = w.reg (pwrBase + 0x40 + 4 * n)) ∧
    u.reg (pwrBase + 0x28) = 0 ∧ u.reg (pwrBase + 0x2C) = 0 := by
  refine ⟨_, rfl, (setReg_ctrl ..).trans (setReg_ctrl ..), by rw [State.setReg_pwr, State.setReg_pwr], fun n _ => ?_, ?_, State.reg_setReg_self ..⟩
  · have h2c : pwrBase + 0x40 + 4 * n ≠ pwrBase + 0x2C := by omega
    have h28 : pwrBase + 0x40 + 4 * n ≠ pwrBase + 0x28 := by omega
    rw [State.reg_setReg_ne _ _ h2c, State.reg_setReg_ne _ _ h28]
  · rw [State.reg_setReg_ne _ _ (by decide), State.reg_setReg_self, Nat.zero_mod]

theorem exec_wearRefresh {s : State} (hp : s.pins.powered = true) (hours eye : Nat) : ∃ u, exec (.wearRefresh hours eye) s = .next u ∧ CtrlSame s u ∧
    u.pwr.history = wearHistory s eye ∧
    (∀ n < 8, u.reg (pwrBase + 0x40 + 4 * n) = (wearValues s eye).getD n 0 + monthsOf (wearPast s eye n) * 0x400) ∧
    (hours < 720 → u.reg (pwrBase + 0x28) = 0 ∧ u.reg (pwrBase + 0x2C) = 0) ∧
    (720 ≤ hours → bitsOf (u.reg (pwrBase + 0x28)) 11 0 = leastMonths s eye) := by
  have hexec : exec (.wearRefresh hours eye) s = .next (refreshWear s hours eye) := by
    show execWearRefresh hours eye s = _
    rw [execWearRefresh, powered_on _ hp]
  rw [refreshWear_eq] at hexec
  by_cases h : hours < 720
  · rw [if_pos h] at hexec
    obtain ⟨w, hw, hsame, hhist, hregs⟩ := wearShown_same s eye
    obtain ⟨u, hu, husame, huhist, huregs, hzero⟩ := wearEarly_effect w
    rw [hw, hu] at hexec
    exact ⟨u, hexec, hsame.trans husame, huhist.trans hhist, fun n hn => (huregs n hn).trans (hregs n hn), fun _ => hzero,
      fun h' => absurd h (Nat.not_lt.2 h')⟩
  · rw [if_neg h] at hexec
    obtain ⟨w, hw, hsame, hhist, hregs⟩ := wearShown_same s eye
    obtain ⟨u, hu, husame, hupwr, huregs, hleast⟩ := wearBand_effect w
      (((wearMonths s eye).findIdx? (fun m => m == (wearMonths s eye).foldl min 4095)).getD 0) (foldl_min_le (wearMonths s eye) 4095)
    obtain ⟨hvsame, hvhist, hvregs⟩ := wearWarned_effect u ((wearMonths s eye).foldl min 4095)
    rw [hw, hu] at hexec
    refine ⟨_, hexec, (hsame.trans husame).trans hvsame, by rw [hvhist, hupwr, hhist], fun n hn => ?_, fun h' => absurd h' h, fun _ => ?_⟩
    · rw [hvregs _ (wearReg_not_event n hn), huregs n hn, hregs n hn]
    · rw [hvregs _ (by decide), hleast, wearMonths, wearMonths_eq]
      rfl

end Sys2Proof.Machine
end

section
/-! Pace messages and the allocation (R516, R523 to R525): pace messages leave what they are computed from alone, so that those of a run of
phases are the ones that the state before calls for. -/

namespace Sys2Proof.Machine

/-! ## What pace messages are computed from -/

/-- Sending pace messages changes which phases have one in force, and since when, and what is sent and counted. -/
structure PaceKeeps (s u : State) : Prop where
  same : CtrlSame s u
  pwr  : u.pwr = { s.pwr with paceSent := u.pwr.paceSent, paceLast := u.pwr.paceLast }
  regs : ∀ o, eventReg o = false → u.reg o = s.reg o

theorem PaceKeeps.refl (s : State) : PaceKeeps s s := ⟨CtrlSame.refl s, rfl, fun _ _ => rfl⟩

theorem PaceKeeps.trans {s t u : State} (h1 : PaceKeeps s t) (h2 : PaceKeeps t u) : PaceKeeps s u := by
  refine ⟨h1.same.trans h2.same, ?_, fun o ho => (h2.regs o ho).trans (h1.regs o ho)⟩
  rw [h2.pwr, h1.pwr]

theorem EventFrame.pace {s u : State} (h : EventFrame s u) : PaceKeeps s u := by
  refine ⟨SameBut.ctrl h.same, ?_, h.regs⟩
  rw [SameBut.pwr h.same]

theorem emit_pace (s : State) (o : Out) : PaceKeeps s (s.emit o) := ⟨emit_ctrl s o, rfl, fun _ _ => rfl⟩

theorem pacePhases_pace (s : State) (l : List (BitVec 8)) (m : List (BitVec 8 × U64)) :
    PaceKeeps s { s with pwr := { s.pwr with paceSent := l, paceLast := m } } := ⟨pwr_ctrl s _, rfl, fun _ _ => rfl⟩

/-- The register of a phase's preferred points is no counter. -/
theorem phaseReg_not_event : ∀ ph < 256, eventReg (pwrBase + 0x1000 + 4 * ph) = false := by decide +kernel

section
variable {s u : State} (h : PaceKeeps s u)
include h

theorem PaceKeeps.paceTo : u.paceTo = s.paceTo := by
  obtain ⟨_, _, _, _, _, _, _, _, _, _, _, rfl⟩ := h.same
  rfl

theorem PaceKeeps.phasesOn (n : Nat) : u.phasesOn n = s.phasesOn n := by
  obtain ⟨_, _, _, _, _, _, _, _, _, _, _, rfl⟩ := h.same
  rfl

theorem PaceKeeps.now : u.tim = s.tim := by
  obtain ⟨_, _, _, _, _, _, _, _, _, _, _, rfl⟩ := h.same
  rfl

theorem PaceKeeps.rank : u.rank = s.rank := by
  obtain ⟨_, _, _, _, _, _, _, _, _, _, _, rfl⟩ := h.same
  rfl

theorem PaceKeeps.collectiveOut : u.collectiveOut = s.collectiveOut := by
  obtain ⟨_, _, _, _, _, _, _, _, _, _, _, rfl⟩ := h.same
  rfl

theorem PaceKeeps.cutCeiling (n : Nat) : cutCeiling u n = cutCeiling s n := by
  rw [Machine.cutCeiling, h.pwr, Machine.cutCeiling]

theorem PaceKeeps.diesRunning (ph : Nat) : u.diesRunning ph = s.diesRunning ph := by
  simp only [State.diesRunning, h.phasesOn]

theorem PaceKeeps.pacePoint (ph : Nat) : u.pacePoint ph = s.pacePoint ph := by
  simp only [State.pacePoint, h.diesRunning, h.cutCeiling]

theorem PaceKeeps.prefArith {ph : Nat} (hph : ph < 256) : u.prefArith ph = s.prefArith ph := by
  rw [State.prefArith, State.prefArith, h.regs _ (phaseReg_not_event ph hph)]

theorem PaceKeeps.paceBody {ph : Nat} (hph : ph < 256) : paceBody u ph = paceBody s ph := by
  simp only [Machine.paceBody, h.pacePoint, h.prefArith hph, h.rank, h.now]

theorem PaceKeeps.maySendPace (ph : Nat) (hlast : u.pwr.paceLast = s.pwr.paceLast) : u.maySendPace ph = s.maySendPace ph := by
  rw [State.maySendPace, hlast, h.now, State.maySendPace]

end

/-! ## Giving a message to several members -/

/-- What is given to the members `l`. -/
def paceOuts (l : List Nat) (release : Bool) (b : PaceBody) : List Out := l.map (fun r => Out.pace r release b)

theorem givePace_effect (s : State) (r : Nat) (release : Bool) (b : PaceBody) : PaceKeeps s (givePace s r release b) ∧
    (givePace s r release b).pwr = s.pwr ∧ (givePace s r release b).sent = s.sent ++ [.pace r release b] := by
  have hcount := countMgmt_sent_frame (s.emit (.pace r release b)) 72
  have hpwr := SameBut.pwr hcount.same
  have hsent := SameBut.sent hcount.same
  exact ⟨(emit_pace ..).trans hcount.pace, hpwr, hsent⟩

theorem givePaces_effect (release : Bool) (b : PaceBody) : ∀ (l : List Nat) (s : State), ∃ u, l.foldl (fun t r => givePace t r release b) s = u ∧
    PaceKeeps s u ∧ u.pwr = s.pwr ∧ u.sent = s.sent ++ paceOuts l release b
  | [], s => ⟨s, rfl, PaceKeeps.refl s, rfl, (List.append_nil _).symm⟩
  | r :: l, s => by
    obtain ⟨hkeeps, hpwr, hsent⟩ := givePace_effect s r release b
    obtain ⟨u, hu, hkeeps', hpwr', hsent'⟩ := givePaces_effect release b l (givePace s r release b)
    refine ⟨u, hu, hkeeps.trans hkeeps', hpwr'.trans hpwr, ?_⟩
    rw [hsent', hsent, List.append_assoc]
    rfl

/-- The messages of the phases `l`, as the state `s` calls for them. -/
def paceTold (s : State) (release : Bool) (l : List (BitVec 8)) : List Out :=
  l.flatMap (fun p => paceOuts s.paceTo release (paceBody s p.toNat))

/-- Releasing phases tells the members of each, and leaves the controller's state. -/
theorem releases_effect {s : State} : ∀ (l : List (BitVec 8)) {t : State}, PaceKeeps s t → t.pwr = s.pwr →
    ∃ u, l.foldl (fun t p => releasePace t p.toNat) t = u ∧ PaceKeeps s u ∧ u.pwr = s.pwr ∧ u.sent = t.sent ++ paceTold s true l
  | [], t, h, hpwr => ⟨t, rfl, h, hpwr, (List.append_nil _).symm⟩
  | p :: l, t, h, hpwr => by
    obtain ⟨v, hv, hkeeps, hvpwr, hvsent⟩ := givePaces_effect true (paceBody t p.toNat) t.paceTo t
    rw [h.paceBody p.isLt, h.paceTo] at hvsent
    obtain ⟨u, hu, hukeeps, hupwr, husent⟩ := releases_effect l (h.trans hkeeps) (hvpwr.trans hpwr)
    refine ⟨u, ?_, hukeeps, hupwr, ?_⟩
    · rw [List.foldl_cons, ← hu, ← hv]
      rfl
    · rw [husent, hvsent, List.append_assoc]
      rfl

/-- A phase that may send tells its members, and its message is in force from now. -/
theorem sendPace_effect {s t : State} (h : PaceKeeps s t) (p : BitVec 8) (hmay : t.maySendPace p.toNat = true) : ∃ u, sendPace t p.toNat = u ∧
    PaceKeeps s u ∧ u.sent = t.sent ++ paceOuts s.paceTo false (paceBody s p.toNat) ∧ u.pwr.paceSent = t.pwr.paceSent.filter (fun q => q != p) ++ [p] ∧
    u.pwr.paceLast = t.pwr.paceLast.filter (fun e => e.1 != p) ++ [(p, s.tim.now)] := by
  obtain ⟨v, hv, hkeeps, hvpwr, hvsent⟩ := givePaces_effect false (paceBody t p.toNat) t.paceTo t
  rw [h.paceBody p.isLt, h.paceTo] at hvsent
  have hbump := bump_frame v (g := pwrBase) (n := 5) t.paceTo.length (by decide)
  have hbpwr := SameBut.pwr hbump.same
  have hbsent := SameBut.sent hbump.same
  have hp : BitVec.ofNat 8 p.toNat = p := by rw [BitVec.ofNat_toNat, BitVec.setWidth_eq]
  have hu : sendPace t p.toNat = { bump v pwrBase 5 t.paceTo.length with pwr := { (bump v pwrBase 5 t.paceTo.length).pwr with
      paceSent := (bump v pwrBase 5 t.paceTo.length).pwr.paceSent.filter (fun q => q != p) ++ [p],
      paceLast := (bump v pwrBase 5 t.paceTo.length).pwr.paceLast.filter (fun e => e.1 != p) ++ [(p, t.tim.now)] } } := by
    rw [sendPace, hmay, hp, hv]
    rfl
  rw [h.now] at hu
  refine ⟨_, hu, ((h.trans hkeeps).trans hbump.pace).trans (pacePhases_pace ..), ?_, ?_, ?_⟩
  · exact hbsent.trans hvsent
  · rw [← hvpwr, ← hbpwr]
  · rw [← hvpwr, ← hbpwr]

/-- Phases that may all send do so in order; their messages are in force in that order, behind the others. -/
theorem sends_effect {s : State} : ∀ (l r : List (BitVec 8)) {t : State}, PaceKeeps s t → t.pwr.paceSent = l ++ r → (l ++ r).Nodup →
    (∀ p ∈ l, t.maySendPace p.toNat = true) → ∃ u, l.foldl (fun t p => sendPace t p.toNat) t = u ∧ PaceKeeps s u ∧
    u.sent = t.sent ++ paceTold s false l ∧ u.pwr.paceSent = r ++ l ∧
    (∀ e ∈ t.pwr.paceLast, e.1 ∉ l → e ∈ u.pwr.paceLast) ∧ ∀ p ∈ l, (p, s.tim.now) ∈ u.pwr.paceLast
  | [], r, t, h, hsent, _, _ => ⟨t, rfl, h, (List.append_nil _).symm, by rw [hsent, List.append_nil, List.nil_append], fun e he _ => he,
      fun p hp => absurd hp List.not_mem_nil⟩
  | p :: l, r, t, h, hforce, hnodup, hmay => by
    obtain ⟨hnew, hnodup'⟩ := List.nodup_cons.1 hnodup
    obtain ⟨v, hv, hkeeps, hvsent, hvforce, hvlast⟩ := sendPace_effect h p (hmay p List.mem_cons_self)
    have hrest : (l ++ r).filter (fun q => q != p) = l ++ r := List.filter_eq_self.2 fun q hq => bne_iff_ne.2 fun hqp => hnew (hqp ▸ hq)
    have hvforce' : v.pwr.paceSent = l ++ (r ++ [p]) := by
      rw [hvforce, hforce, List.cons_append, List.filter_cons_of_neg (by simp), hrest, List.append_assoc]
    have hperm : (l ++ (r ++ [p])).Nodup := by
      rw [← List.append_assoc]
      exact List.nodup_append_comm.1 hnodup
    have hmay' (q : BitVec 8) (hq : q ∈ l) : v.maySendPace q.toNat = true := by
      have hqp : q ≠ p := fun hqp => hnew (hqp ▸ List.mem_append_left r hq)
      have hold := hmay q (List.mem_cons_of_mem p hq)
      have hnow : v.tim = t.tim := hkeeps.now.trans h.now.symm
      rw [State.maySendPace, Bool.not_eq_true', List.any_eq_false] at hold ⊢
      intro e he
      rw [hvlast] at he
      rcases List.mem_append.1 he with he | he
      · rw [hnow]
        exact hold e (List.mem_filter.1 he).1
      · rw [List.mem_singleton.1 he]
        have hne : (p.toNat == q.toNat) = false := beq_false_of_ne fun hpq => hqp (BitVec.eq_of_toNat_eq hpq.symm)
        rw [hne, Bool.false_and]
        exact Bool.false_ne_true
    obtain ⟨u, hu, hukeeps, husent, huforce, hold, hnow⟩ := sends_effect l (r ++ [p]) hkeeps hvforce' hperm hmay'
    refine ⟨u, ?_, hukeeps, ?_, ?_, fun e he hne => ?_, fun q hq => ?_⟩
    · rw [List.foldl_cons, hv, hu]
    · rw [husent, hvsent, List.append_assoc]
      rfl
    · rw [huforce, List.append_assoc]
      rfl
    · refine hold e ?_ (fun h => hne (List.mem_cons_of_mem p h))
      rw [hvlast]
      exact List.mem_append_left _ (List.mem_filter.2 ⟨he, bne_iff_ne.2 fun h => hne (h ▸ List.mem_cons_self)⟩)
    · rcases List.mem_cons.1 hq with rfl | hq
      · refine hold _ ?_ (fun h => hnew (List.mem_append_left r h))
        rw [hvlast]
        exact List.mem_append_right _ List.mem_cons_self
      · exact hnow q hq

/-! ## Renewal and release (R523) -/

theorem sendPace_keeps (t : State) (ph : Nat) : PaceKeeps t (sendPace t ph) := by
  unfold sendPace
  split
  · exact PaceKeeps.refl t
  · obtain ⟨v, hv, hkeeps, -, -⟩ := givePaces_effect false (paceBody t ph) t.paceTo t
    simp only [hv]
    exact (hkeeps.trans (bump_frame v t.paceTo.length (by decide)).pace).trans (pacePhases_pace ..)

theorem sendPaces_keeps {α : Type} (f : α → Nat) : ∀ (l : List α) (t : State), PaceKeeps t (l.foldl (fun s p => sendPace s (f p)) t)
  | [], t => PaceKeeps.refl t
  | p :: l, t => (sendPace_keeps t (f p)).trans (sendPaces_keeps f l _)

theorem refreshPace_keeps (s : State) : PaceKeeps s (refreshPace s) := by
  obtain ⟨v, hv, hkeeps, -, -⟩ := releases_effect (s.pwr.paceSent.filter (fun p => !s.pacesDue.contains p.toNat)) (PaceKeeps.refl s) rfl
  unfold refreshPace
  simp only [hv]
  exact (hkeeps.trans (pacePhases_pace v _ v.pwr.paceLast)).trans (sendPaces_keeps id _ _)

/-- With no condition that holds, every message in force is released. -/
theorem refreshPace_none {s : State} (h : s.pacesDue = []) : ∃ u, refreshPace s = u ∧ PaceKeeps s u ∧
    u.sent = s.sent ++ paceTold s true s.pwr.paceSent ∧ u.pwr = { s.pwr with paceSent := [] } := by
  have hall : s.pwr.paceSent.filter (fun p => !([] : List Nat).contains p.toNat) = s.pwr.paceSent := List.filter_eq_self.2 fun _ _ => rfl
  have hnone (l : List (BitVec 8)) : l.filter (fun p => ([] : List Nat).contains p.toNat) = [] := List.filter_eq_nil_iff.2 fun _ _ => Bool.false_ne_true
  obtain ⟨v, hv, hkeeps, hpwr, hsent⟩ := releases_effect s.pwr.paceSent (PaceKeeps.refl s) rfl
  have hu : refreshPace s = { v with pwr := { v.pwr with paceSent := [] } } := by
    simp only [refreshPace, h, hall, hv, hnone, List.filter_nil, List.foldl_nil]
  exact ⟨_, hu, hkeeps.trans (pacePhases_pace v [] v.pwr.paceLast), hsent, by rw [hpwr]⟩

/-- Where the messages in force are those whose condition holds, none starts and none is released. -/
theorem refreshPace_settled {s : State} (h : s.pacesDue = s.pwr.paceSent.map BitVec.toNat) : refreshPace s = s := by
  have hin (p : BitVec 8) (hp : p ∈ s.pwr.paceSent) : s.pacesDue.contains p.toNat = true := by
    rw [h, List.contains_iff_mem]
    exact List.mem_map_of_mem hp
  have hreleased : s.pwr.paceSent.filter (fun p => !s.pacesDue.contains p.toNat) = [] :=
    List.filter_eq_nil_iff.2 fun p hp => by rw [hin p hp]; exact Bool.false_ne_true
  have hkept : s.pwr.paceSent.filter (fun p => s.pacesDue.contains p.toNat) = s.pwr.paceSent := List.filter_eq_self.2 hin
  have hstarted : s.pacesDue.filter (fun p => !s.pwr.paceSent.contains (BitVec.ofNat 8 p)) = [] := by
    refine List.filter_eq_nil_iff.2 fun ph hph => ?_
    rw [h] at hph
    obtain ⟨p, hp, rfl⟩ := List.mem_map.1 hph
    have hmem : s.pwr.paceSent.contains p = true := List.contains_iff_mem.2 hp
    rw [BitVec.ofNat_toNat, BitVec.setWidth_eq, hmem]
    exact Bool.false_ne_true
  simp only [refreshPace, hreleased, List.foldl_nil, hkept, hstarted]

/-- A list without its repetitions has none, by induction on its length: behind its head stand only other elements. -/
theorem eraseDups_nodup : ∀ (n : Nat) (l : List Nat), l.length ≤ n → l.eraseDups.Nodup
  | _, [], _ => List.nodup_nil
  | 0, a :: l, h => absurd h (Nat.not_succ_le_zero _)
  | n + 1, a :: l, h => by
    rw [List.eraseDups_cons]
    refine List.nodup_cons.2 ⟨fun hmem => ?_, eraseDups_nodup n _ ((List.length_filter_le _ l).trans (Nat.le_of_succ_le_succ h))⟩
    have hne := (List.mem_filter.1 (List.mem_eraseDups.1 hmem)).2
    rw [beq_self_eq_true] at hne
    exact absurd hne (by decide)

/-- The phases due are listed once each. -/
theorem pacesDue_nodup (s : State) : s.pacesDue.Nodup := List.Nodup.filter _ (eraseDups_nodup _ _ (Nat.le_refl _))

theorem paceAged_of {s : State} {ph : Nat} (h : ∀ e ∈ s.pwr.paceLast, e.1.toNat = ph → e.2.toNat + 5000000 ≤ s.tim.now.toNat) :
    s.paceAged ph = true ∧ s.maySendPace ph = true := by
  constructor <;> refine Bool.not_eq_true' _ ▸ List.any_eq_false.2 fun e he => ?_ <;> rw [Bool.and_eq_true, beq_iff_eq, decide_eq_true_iff] <;>
    rintro ⟨hph, hlt⟩ <;> have hage := h e he hph <;> omega

theorem paceAged_recent {s : State} {ph : Nat} (h : ∃ e ∈ s.pwr.paceLast, e.1.toNat = ph ∧ s.tim.now.toNat < e.2.toNat + 5000000) :
    s.paceAged ph = false := by
  obtain ⟨e, he, hph, hlt⟩ := h
  rw [State.paceAged, Bool.not_eq_false', List.any_eq_true]
  exact ⟨e, he, by rw [hph, beq_self_eq_true, Bool.true_and, decide_eq_true_iff]; exact hlt⟩

section
variable {s : State} (hp : s.pins.powered = true)
include hp

theorem exec_paceRenewal : exec .paceRenewal s = .next (((refreshPace s).pwr.paceSent.filter
    (s.pwr.paceSent.filter (fun p => s.paceAged p.toNat)).contains).foldl (fun s p => sendPace s p.toNat) (refreshPace s)) := by
  show execPaceRenewal s = _
  rw [execPaceRenewal, powered_on _ hp]

theorem exec_paceRenewal_keeps : ∃ u, exec .paceRenewal s = .next u ∧ PaceKeeps s u :=
  ⟨_, exec_paceRenewal hp, (refreshPace_keeps s).trans (sendPaces_keeps BitVec.toNat _ _)⟩

theorem exec_paceRenewal_none (h : s.pacesDue = []) : ∃ u, exec .paceRenewal s = .next u ∧ u.sent = s.sent ++ paceTold s true s.pwr.paceSent ∧
    u.pwr = { s.pwr with paceSent := [] } := by
  obtain ⟨u, hu, -, hsent, hpwr⟩ := refreshPace_none h
  have hexec := exec_paceRenewal hp
  rw [hu, hpwr] at hexec
  exact ⟨u, hexec, hsent, hpwr⟩

theorem exec_paceRenewal_due (h : s.pacesDue = s.pwr.paceSent.map BitVec.toNat)
    (haged : ∀ ph ∈ s.pacesDue, ∀ e ∈ s.pwr.paceLast, e.1.toNat = ph → e.2.toNat + 5000000 ≤ s.tim.now.toNat) :
    ∃ u, exec .paceRenewal s = .next u ∧ u.sent = s.sent ++ paceTold s false s.pwr.paceSent ∧ u.pwr.paceSent = s.pwr.paceSent ∧
      ∀ p ∈ s.pwr.paceSent, (p, s.tim.now) ∈ u.pwr.paceLast := by
  have hphase (p : BitVec 8) (hmem : p ∈ s.pwr.paceSent) := paceAged_of (haged p.toNat (h ▸ List.mem_map_of_mem hmem))
  have hall : s.pwr.paceSent.filter (fun p => s.paceAged p.toNat) = s.pwr.paceSent := List.filter_eq_self.2 fun p hmem => (hphase p hmem).1
  have hself : s.pwr.paceSent.filter s.pwr.paceSent.contains = s.pwr.paceSent := List.filter_eq_self.2 fun p hmem => List.contains_iff_mem.2 hmem
  have hnodup : (s.pwr.paceSent ++ []).Nodup := by
    rw [List.append_nil]
    exact List.Nodup.of_map BitVec.toNat (h ▸ pacesDue_nodup s)
  obtain ⟨u, hu, -, hsent, hforce, -, hlast⟩ := sends_effect s.pwr.paceSent [] (PaceKeeps.refl s) (List.append_nil _).symm hnodup fun p hmem => (hphase p hmem).2
  have hexec := exec_paceRenewal hp
  rw [refreshPace_settled h, hall, hself, hu] at hexec
  exact ⟨u, hexec, hsent, hforce, hlast⟩

theorem exec_paceRenewal_recent (h : s.pacesDue = s.pwr.paceSent.map BitVec.toNat)
    (hrecent : ∀ ph ∈ s.pacesDue, ∃ e ∈ s.pwr.paceLast, e.1.toNat = ph ∧ s.tim.now.toNat < e.2.toNat + 5000000) : exec .paceRenewal s = .next s := by
  have hnone : s.pwr.paceSent.filter (fun p => s.paceAged p.toNat) = [] := by
    refine List.filter_eq_nil_iff.2 fun p hmem => ?_
    rw [paceAged_recent (hrecent p.toNat (h ▸ List.mem_map_of_mem hmem))]
    exact Bool.false_ne_true
  have hnone' : s.pwr.paceSent.filter ([] : List (BitVec 8)).contains = [] := List.filter_eq_nil_iff.2 fun _ _ => Bool.false_ne_true
  rw [exec_paceRenewal hp, refreshPace_settled h, hnone, hnone', List.foldl_nil]

end

/-! ## Pace messages that arrive (R525) -/

/-- The members of the own crew to which a message of another crew is passed on. -/
def State.passTo (s : State) : List Nat := s.paceGroup.filter (fun r => r != s.rank && s.crewOfRank r == s.crewOfRank s.rank)

theorem PaceKeeps.passTo {s u : State} (h : PaceKeeps s u) : u.passTo = s.passTo := by
  obtain ⟨_, _, _, _, _, _, _, _, _, _, _, rfl⟩ := h.same
  rfl

theorem PaceKeeps.fabId {s u : State} (h : PaceKeeps s u) : u.fabId = s.fabId := by rw [State.fabId, h.regs _ (by decide), State.fabId]

theorem PaceKeeps.headerPasses {s u : State} (h : PaceKeeps s u) (x : PktHdr) : headerPasses u x = headerPasses s x := by
  have hjob : u.job = s.job := by
    obtain ⟨_, _, _, _, _, _, _, _, _, _, _, rfl⟩ := h.same
    rfl
  simp only [Machine.headerPasses, h.fabId, hjob, State.rankOf, State.members]

/-- A message is counted, and passed on where it comes from another crew. -/
def paceHeard (s : State) (h : PktHdr) (release : Bool) (b : PaceBody) : State := forwardPace (countMgmt s 1 72) h release b

theorem paceHeard_effect (s : State) (h : PktHdr) (release : Bool) (b : PaceBody) : PaceKeeps s (paceHeard s h release b) ∧
    (paceHeard s h release b).pwr = s.pwr ∧ (crewOf h.srcId.toNat = crewOf s.fabId → (paceHeard s h release b).sent = s.sent) ∧
    (¬crewOf h.srcId.toNat = crewOf s.fabId → (paceHeard s h release b).sent = s.sent ++ paceOuts s.passTo release b) := by
  have hcount := countMgmt_received_frame s 72
  have hpwr := SameBut.pwr hcount.same
  have hsent := SameBut.sent hcount.same
  have hkeeps := hcount.pace
  unfold paceHeard
  generalize countMgmt s 1 72 = t at hpwr hsent hkeeps ⊢
  unfold forwardPace
  rw [hkeeps.fabId]
  by_cases hmine : crewOf h.srcId.toNat = crewOf s.fabId
  · rw [if_pos (beq_iff_eq.2 hmine)]
    exact ⟨hkeeps, hpwr, fun _ => hsent, fun hnot => absurd hmine hnot⟩
  · rw [if_neg (fun hb => hmine (beq_iff_eq.1 hb))]
    obtain ⟨u, hu, hukeeps, hupwr, husent⟩ := givePaces_effect release b t.passTo t
    rw [hkeeps.passTo] at husent
    have hfold : (t.paceGroup.filter (fun r => r != t.rank && t.crewOfRank r == t.crewOfRank t.rank)).foldl (fun s r => givePace s r release b) t = u := hu
    rw [hfold]
    exact ⟨hkeeps.trans hukeeps, hupwr.trans hpwr, fun hyes => absurd hyes hmine, fun _ => by rw [husent, hsent]⟩

/-- PACE_FOLLOWING follows the limits held. -/
theorem refreshFollowing_effect (s : State) (l : List PaceLimit) : ∃ u, refreshFollowing { s with pwr := { s.pwr with followed := l } } = u ∧
    CtrlSame s u ∧ u.pwr = { s.pwr with followed := l } ∧ u.sent = s.sent ∧ u.regBit pwrBase 7 = !l.isEmpty := by
  refine ⟨_, rfl, (pwr_ctrl s _).trans (setRegBit_ctrl ..), rfl, rfl, ?_⟩
  exact regBit_setRegBit_self { s with pwr := { s.pwr with followed := l } } _ _ (by decide)

section
variable {s : State} {h : PktHdr} {b : PaceBody} (hp : s.pins.powered = true)
include hp

theorem pace_dropped (hbad : headerPasses s h = false) : Reaches (.paceMessage h b) s s ∧ Reaches (.paceRelease h b) s s := by
  have hcount := countMgmt_received_frame s 72
  have hheader : headerPasses (countMgmt s 1 72) h = false := (hcount.pace.headerPasses h).trans hbad
  refine ⟨⟨_, ?_, hcount⟩, _, ?_, hcount⟩
  · show execPaceMessage h b s = _
    rw [execPaceMessage, powered_on _ hp]
    simp only [hheader, Bool.not_false, if_true]
  · show execPaceRelease h b s = _
    rw [execPaceRelease, powered_on _ hp]
    simp only [hheader, Bool.not_false, if_true]

variable (hgood : headerPasses s h = true)
include hgood

/-- The limits of other senders, or of other phases. -/
def limitsRest (s : State) (b : PaceBody) : List PaceLimit := s.pwr.followed.filter (fun f => !(f.rank == b.rank && f.phase == b.phase))

/-- The limit that a pace message asks for, until HOLD_MS have passed. -/
def paceLimit (s : State) (b : PaceBody) : PaceLimit := ⟨b.rank, b.phase, b.point.toNat, BitVec.ofNat 64 (s.tim.now.toNat + 1000000 * b.holdMs.toNat)⟩

theorem exec_paceMessage : exec (.paceMessage h b) s = .next (
    if (paceHeard s h false b).regBit (pwrBase + 4) 1 then
      let v := paceHeard s h false b
      let u := refreshFollowing { v with pwr := { v.pwr with followed := limitsRest v b ++ [paceLimit v b] } }
      if (limitsRest v b).length == v.pwr.followed.length then bump u pwrBase 6 1 else u
    else paceHeard s h false b) := by
  have hheader : headerPasses (countMgmt s 1 72) h = true := ((countMgmt_received_frame s 72).pace.headerPasses h).trans hgood
  show execPaceMessage h b s = _
  rw [execPaceMessage, powered_on _ hp]
  simp only [hheader, Bool.not_true, Bool.false_eq_true, if_false]
  rw [show forwardPace (countMgmt s 1 72) h false b = paceHeard s h false b from rfl]
  cases (paceHeard s h false b).regBit (pwrBase + 4) 1 <;> rfl

theorem paceMessage_effect : ∃ u, exec (.paceMessage h b) s = .next u ∧ CtrlSame s u ∧
    (crewOf h.srcId.toNat = crewOf s.fabId → u.sent = s.sent) ∧
    (¬crewOf h.srcId.toNat = crewOf s.fabId → u.sent = s.sent ++ paceOuts s.passTo false b) ∧
    (s.regBit (pwrBase + 4) 1 = false → u.pwr = s.pwr) ∧
    (s.regBit (pwrBase + 4) 1 = true → u.pwr = { s.pwr with followed := limitsRest s b ++ [paceLimit s b] } ∧ u.regBit pwrBase 7 = true) := by
  have hexec := exec_paceMessage (b := b) hp hgood
  obtain ⟨hkeeps, hpwr, hmine, hother⟩ := paceHeard_effect s h false b
  have hbit : (paceHeard s h false b).regBit (pwrBase + 4) 1 = s.regBit (pwrBase + 4) 1 := by
    rw [State.regBit, hkeeps.regs _ (by decide), State.regBit]
  rw [hbit] at hexec
  generalize paceHeard s h false b = v at hexec hkeeps hpwr hmine hother
  cases hfollow : s.regBit (pwrBase + 4) 1 with
  | false =>
    rw [hfollow] at hexec
    exact ⟨v, hexec, hkeeps.same, hmine, hother, fun _ => hpwr, fun h => absurd h Bool.false_ne_true⟩
  | true =>
    rw [hfollow] at hexec
    obtain ⟨u, hu, hsame, hupwr, husent, hubit⟩ := refreshFollowing_effect v (limitsRest v b ++ [paceLimit v b])
    have hrest : limitsRest v b = limitsRest s b := by rw [limitsRest, hpwr, limitsRest]
    have hlimit : paceLimit v b = paceLimit s b := by rw [paceLimit, hkeeps.now, paceLimit]
    have hset : u.regBit pwrBase 7 = true := by
      rw [hubit, Bool.not_eq_true', List.isEmpty_eq_false_iff]
      exact List.append_ne_nil_of_right_ne_nil _ (List.cons_ne_nil _ _)
    rw [hrest, hlimit, hpwr] at hupwr
    simp only [if_true, hu] at hexec
    have hbump := bump_frame u (g := pwrBase) (n := 6) 1 (by decide)
    split at hexec
    · refine ⟨_, hexec, (hkeeps.same.trans hsame).trans hbump.pace.same, fun hm => ?_, fun hm => ?_, fun h => absurd h.symm Bool.false_ne_true, fun _ => ⟨?_, ?_⟩⟩
      · rw [bump_sent, husent, hmine hm]
      · rw [bump_sent, husent, hother hm]
      · rw [bump_pwr, hupwr]
      · rw [State.regBit, hbump.regs _ (by decide)]; exact hset
    · exact ⟨_, hexec, hkeeps.same.trans hsame, fun hm => husent.trans (hmine hm), fun hm => husent.trans (hother hm),
        fun h => absurd h.symm Bool.false_ne_true, fun _ => ⟨hupwr, hset⟩⟩

theorem paceRelease_effect : ∃ u, exec (.paceRelease h b) s = .next u ∧ CtrlSame s u ∧
    (crewOf h.srcId.toNat = crewOf s.fabId → u.sent = s.sent) ∧
    (¬crewOf h.srcId.toNat = crewOf s.fabId → u.sent = s.sent ++ paceOuts s.passTo true b) ∧
    u.pwr = { s.pwr with followed := limitsRest s b } ∧ u.regBit pwrBase 7 = !(limitsRest s b).isEmpty := by
  have hheader : headerPasses (countMgmt s 1 72) h = true := ((countMgmt_received_frame s 72).pace.headerPasses h).trans hgood
  have hexec : exec (.paceRelease h b) s = .next (dropFollowed (paceHeard s h true b) b.rank b.phase) := by
    show execPaceRelease h b s = _
    rw [execPaceRelease, powered_on _ hp]
    simp only [hheader, Bool.not_true, Bool.false_eq_true, if_false]
    rfl
  obtain ⟨hkeeps, hpwr, hmine, hother⟩ := paceHeard_effect s h true b
  generalize paceHeard s h true b = v at hexec hkeeps hpwr hmine hother
  obtain ⟨u, hu, hsame, hupwr, husent, hubit⟩ := refreshFollowing_effect v (limitsRest v b)
  have hrest : limitsRest v b = limitsRest s b := by rw [limitsRest, hpwr, limitsRest]
  rw [hrest] at hupwr hubit
  rw [hpwr] at hupwr
  exact ⟨u, hexec.trans (congrArg _ hu), hkeeps.same.trans hsame, fun hm => husent.trans (hmine hm), fun hm => husent.trans (hother hm), hupwr, hubit⟩

end

/-! ## The allocation (R516) -/

/-- The highest point that fits, of those at or below `c`. -/
theorem findPoint_fits (s : State) (den limit fixed : Nat) : ∀ c, findPoint s den limit fixed c ≤ c ∧
    (findPoint s den limit fixed c = 0 ∨
      fixed * 1000 * den + arithPower s (findPoint s den limit fixed c) den ≤ limit * 1000 * den) ∧
    ∀ d, findPoint s den limit fixed c < d → d ≤ c → limit * 1000 * den < fixed * 1000 * den + arithPower s d den
  | 0 => ⟨Nat.le_refl 0, .inl rfl, fun d hlo hhi => absurd hlo (Nat.not_lt.2 (hhi.trans (Nat.zero_le _)))⟩
  | c + 1 => by
    rw [findPoint]
    by_cases h : fixed * 1000 * den + arithPower s (c + 1) den ≤ limit * 1000 * den
    · rw [if_pos h]
      exact ⟨Nat.le_refl _, .inr h, fun d hlo hhi => absurd hlo (Nat.not_lt.2 hhi)⟩
    · rw [if_neg h]
      obtain ⟨hle, hfits, habove⟩ := findPoint_fits s den limit fixed c
      refine ⟨hle.trans (Nat.le_succ c), hfits, fun d hlo hhi => ?_⟩
      rcases Nat.lt_or_ge c d with hd | hd
      · have heq : d = c + 1 := by omega
        rw [heq]
        exact Nat.not_le.1 h
      · exact habove d hlo hd

/-- The time an interval adds to the controller's counters. -/
theorem chargeInterval_effect (s : State) : CtrlSame s (chargeInterval s) ∧ (chargeInterval s).pwr = s.pwr ∧
    ∀ o, eventReg o = false → (chargeInterval s).reg o = s.reg o := by
  have hone (t : State) {n : Nat} (hn : IsCounter pwrBase n) : CtrlSame t (bumpClocks t pwrBase n) ∧ (bumpClocks t pwrBase n).pwr = t.pwr ∧
      ∀ o, eventReg o = false → (bumpClocks t pwrBase n).reg o = t.reg o := ⟨bumpClocks_ctrl .., bumpClocks_pwr .., (bumpClocks_frame t hn).regs⟩
  have hmaybe (t : State) (c : Bool) {n : Nat} (hn : IsCounter pwrBase n) : CtrlSame t (if c then bumpClocks t pwrBase n else t) ∧
      (if c then bumpClocks t pwrBase n else t).pwr = t.pwr ∧
      ∀ o, eventReg o = false → (if c then bumpClocks t pwrBase n else t).reg o = t.reg o := by
    cases c
    · exact ⟨CtrlSame.refl t, rfl, fun _ _ => rfl⟩
    · exact hone t hn
  unfold chargeInterval
  simp only
  obtain ⟨hs1, hp1, hr1⟩ := hone s (n := 0) (by decide)
  generalize bumpClocks s pwrBase 0 = t at hs1 hp1 hr1 ⊢
  obtain ⟨hs2, hp2, hr2⟩ := hmaybe t (t.regBit pwrBase 0) (n := 1) (by decide)
  generalize (if t.regBit pwrBase 0 then bumpClocks t pwrBase 1 else t) = u at hs2 hp2 hr2 ⊢
  obtain ⟨hs3, hp3, hr3⟩ := hmaybe u (u.pwr.thermalCap.any (fun c => c < 15)) (n := 7) (by decide)
  exact ⟨(hs1.trans hs2).trans hs3, hp3.trans (hp2.trans hp1), fun o ho => (hr3 o ho).trans ((hr2 o ho).trans (hr1 o ho))⟩

/-- The power that a point needs does not depend on what is shown of the input. -/
theorem arithPower_setReg (s : State) {o : Nat} (v c den : Nat) (ho : o < pwrBase + 0x1000) : arithPower (s.setReg o v) c den = arithPower s c den := by
  have hpref (ph : Nat) : (s.setReg o v).prefArith ph = s.prefArith ph := by
    have hne : pwrBase + 0x1000 + 4 * ph ≠ o := by omega
    rw [State.prefArith, State.reg_setReg_ne _ _ hne, State.prefArith]
  have hphases (n : Nat) : (s.setReg o v).phasesOn n = s.phasesOn n := rfl
  have hdemand (ph n : Nat) : (s.setReg o v).demandMw ph n = s.demandMw ph n := rfl
  have hrig : (s.setReg o v).rig = s.rig := rfl
  simp only [arithPower, hpref, hphases, hdemand, hrig]

theorem findPoint_setReg (s : State) {o : Nat} (v den limit fixed : Nat) (ho : o < pwrBase + 0x1000) :
    ∀ c, findPoint (s.setReg o v) den limit fixed c = findPoint s den limit fixed c
  | 0 => rfl
  | c + 1 => by rw [findPoint, findPoint, arithPower_setReg s v (c + 1) den ho, findPoint_setReg s v den limit fixed ho c]

/-- What the dies' ceilings leave of the common one. -/
def targetsAt (s : State) (c : Nat) : List Nat := (List.range 4).map (fun n => min c (min (s.pwr.thermalCap.getD n 15) (trimCap s n)))

/-- The ceilings of an allocation at the common point `c`. -/
def allocated (s : State) (m : PowerMeas) (c : Nat) : State :=
  let s := s.setReg (pwrBase + 0x18) (m.vin10mV % 65536 + m.inputW % 65536 * 65536)
  refreshPace (refreshCapped (showCeilings (chargeInterval { s with pwr := { s.pwr with target := targetsAt s c } })))

/-- The least common multiple of the dies' tiles. -/
def tileDen (s : State) : Nat := ((List.range 4).map (fun n => max 1 (mappedTiles s.rig n))).foldl Nat.lcm 1

/-- What input power an allocation may plan with, in milliwatts. -/
def allocLimit (s : State) (m : PowerMeas) : Nat := min (s.reg (pwrBase + 0x14) * 1000) (m.vin10mV * 800)

/-- Power that no ceiling changes, in milliwatts. -/
def allocFixed (m : PowerMeas) : Nat := (250 + m.steering + m.memPhys + m.loss + m.uncore.sum) * 1000

theorem exec_allocation {s : State} (hp : s.pins.powered = true) (m : PowerMeas) :
    exec (.allocation m) s = .next (allocated s m (findPoint s (tileDen s) (allocLimit s m) (allocFixed m) 15)) := by
  have hlimit : (s.setReg (pwrBase + 0x18) (m.vin10mV % 65536 + m.inputW % 65536 * 65536)).reg (pwrBase + 0x14) = s.reg (pwrBase + 0x14) :=
    State.reg_setReg_ne _ _ (by decide)
  have hpoint := findPoint_setReg s (o := pwrBase + 0x18) (m.vin10mV % 65536 + m.inputW % 65536 * 65536) (tileDen s) (allocLimit s m) (allocFixed m) (by decide) 15
  rw [← hpoint]
  show execAllocation m s = _
  rw [execAllocation, powered_on _ hp, allocate]
  simp only [hlimit]
  rfl

theorem cutCeiling_lt {s : State} {c : Nat} (hc : c ≤ 15) (htarget : s.pwr.target = targetsAt s c) {n : Nat} (hn : n < 4) : cutCeiling s n ≤ 15 := by
  have hle : s.pwr.target.getD n 15 ≤ 15 := by
    rw [htarget, targetsAt]
    simp only [List.getD_eq_getElem?_getD, List.getElem?_map, List.getElem?_range hn, Option.map_some, Option.getD_some]
    omega
  exact (Nat.sub_le _ _).trans hle

/-- The four ceilings fit their register. -/
theorem ceilings_lt {s : State} {c : Nat} (hc : c ≤ 15) (htarget : s.pwr.target = targetsAt s c) :
    ((List.range 4).map (fun n => cutCeiling s n * 16 ^ n)).sum < 2 ^ 32 := by
  have h0 := cutCeiling_lt hc htarget (n := 0) (by decide)
  have h1 := cutCeiling_lt hc htarget (n := 1) (by decide)
  have h2 := cutCeiling_lt hc htarget (n := 2) (by decide)
  have h3 := cutCeiling_lt hc htarget (n := 3) (by decide)
  have hsum : ((List.range 4).map (fun n => cutCeiling s n * 16 ^ n)).sum =
      cutCeiling s 0 * 16 ^ 0 + (cutCeiling s 1 * 16 ^ 1 + (cutCeiling s 2 * 16 ^ 2 + (cutCeiling s 3 * 16 ^ 3 + 0))) := rfl
  rw [hsum]
  omega

theorem allocated_effect (s : State) (m : PowerMeas) {c : Nat} (hc : c ≤ 15) : ∃ u, allocated s m c = u ∧ CtrlSame s u ∧ u.pwr.target = targetsAt s c ∧
    u.reg (pwrBase + 0x1C) = ((List.range 4).map (fun n => cutCeiling u n * 16 ^ n)).sum ∧
    u.reg (pwrBase + 0x18) = m.vin10mV % 65536 + m.inputW % 65536 * 65536 := by
  generalize hs1 : ({ s.setReg (pwrBase + 0x18) (m.vin10mV % 65536 + m.inputW % 65536 * 65536) with
    pwr := { s.pwr with target := targetsAt s c } } : State) = s1
  have hu : allocated s m c = refreshPace (refreshCapped (showCeilings (chargeInterval s1))) := by rw [← hs1]; rfl
  have hsame1 : CtrlSame s s1 := hs1 ▸ (setReg_ctrl s _ _).trans (pwr_ctrl _ _)
  have hpwr1 : s1.pwr = { s.pwr with target := targetsAt s c } := by rw [← hs1]
  have hvin : s1.reg (pwrBase + 0x18) = m.vin10mV % 65536 + m.inputW % 65536 * 65536 := by
    rw [← hs1]
    exact (State.reg_setReg_self ..).trans (Nat.mod_eq_of_lt (by omega))
  obtain ⟨hsame2, hpwr2, hregs2⟩ := chargeInterval_effect s1
  generalize chargeInterval s1 = s2 at hu hsame2 hpwr2 hregs2
  obtain ⟨hsame3, hpwr3, -, hregs3⟩ := refreshCapped_effect (showCeilings s2)
  have hkeeps := refreshPace_keeps (refreshCapped (showCeilings s2))
  generalize refreshCapped (showCeilings s2) = s3 at hu hsame3 hpwr3 hregs3 hkeeps
  generalize refreshPace s3 = s4 at hu hkeeps
  have hpwr : s4.pwr = { s.pwr with target := targetsAt s c, paceSent := s4.pwr.paceSent, paceLast := s4.pwr.paceLast } := by
    rw [hkeeps.pwr, hpwr3, show (showCeilings s2).pwr = s2.pwr from rfl, hpwr2, hpwr1]
  have htarget : s2.pwr.target = targetsAt s2 c := by
    rw [hpwr2, hpwr1, targetsAt, targetsAt]
    simp only [trimCap, hpwr2, hpwr1]
  have hcut (n : Nat) : cutCeiling s4 n = cutCeiling s2 n := by
    rw [cutCeiling, cutCeiling, hpwr, hpwr2, hpwr1]
  refine ⟨s4, hu, ((hsame1.trans hsame2).trans ((setReg_ctrl ..).trans hsame3)).trans hkeeps.same, by rw [hpwr], ?_, ?_⟩
  · rw [hkeeps.regs _ (by decide), hregs3 _ (by decide) (by decide), showCeilings, State.reg_setReg_self, Nat.mod_eq_of_lt (ceilings_lt hc htarget)]
    simp only [hcut]
  · rw [hkeeps.regs _ (by decide), hregs3 _ (by decide) (by decide), showCeilings, State.reg_setReg_ne _ _ (by decide), hregs2 _ (by decide), hvin]

end Sys2Proof.Machine

open Sys2Proof Sys2Proof.Machine

/-- Settles O57: command by command; what each changes beyond the controller's own state is counting, raising events and sending. -/
theorem powerControllerActs : Obligations.PowerControllerActs := by
  unfold Obligations.PowerControllerActs
  intro s hp quiet allRefresh released
  refine ⟨exec_vinOutOfRange_again hp, exec_vinOutOfRange_first hp, exec_vinExcursionEnd hp, ?_, exec_holdWaterDeasserted hp,
    fun t hcount haged hhold => ?_, exec_holdWaterCleared_early hp, fun m => ?_, fun w ms => ⟨exec_powerOverLimit_within hp ms, fun hover => ?_⟩,
    fun ph m => ?_, ?_, fun die => ?_, fun t => ?_, fun die => ?_, ?_, fun h b => ?_, fun rank phase => ⟨fun hpast => ?_, fun hnot => ?_⟩,
    fun ad fabric steering => ?_, fun die => ?_, ⟨exec_ageingCheck_nil hp, fun e l => ?_⟩, fun hours eye => ?_⟩
  · obtain ⟨hpins, hpwr, hmem, hlatch, hflag⟩ := holdSeen_effect s
    have hexec := exec_holdWaterAsserted hp
    rw [hflag] at hexec
    cases hheld : s.regBit pwrBase 3 with
    | true =>
      rw [hheld] at hflag
      rw [hheld, if_pos rfl] at hexec
      exact ⟨_, hexec, hpins, hlatch, hflag, by rw [hmem], fun h => absurd h.symm Bool.false_ne_true, fun _ => ⟨hmem, hpwr⟩⟩
    | false =>
      rw [hheld, if_neg Bool.false_ne_true] at hexec
      generalize holdSeen s = w at hexec hpins hpwr hmem hlatch
      have hstop := stopWater_stopped w (bit := 3) (by decide) 0x4802
      refine ⟨_, hexec, hstop.keeps.pins.trans hpins, (stopWater_regBit_ne w _ (by decide) (by decide)).trans hlatch, hstop.flag, ?_, fun _ => ⟨?_, ?_⟩,
        fun h => absurd h Bool.false_ne_true⟩
      · rw [hstop.mem, hmem]
      · show (stopWater w 3 0x4802).mem.stackCtl = _
        rw [stopWater_stackCtl, hmem]
      · rw [stopWater_pwr, hpwr]
  · obtain ⟨u, hu, hpwr, hflag, -, -, hkept, hleft⟩ := restartWater_effect { s with pwr := { s.pwr with holdCount := none } } (bit := 3) (by decide)
    have hstill := (holding_setRegBit { s with pwr := { s.pwr with holdCount := none } }).1
    rw [hstill] at hkept hleft
    exact ⟨u, (exec_holdWaterCleared_due hp hcount haged hhold).trans (congrArg _ hu), hflag, by rw [hpwr], hleft, hkept⟩
  · intro den limit need
    obtain ⟨hle, hfits, habove⟩ := findPoint_fits s (tileDen s) (allocLimit s m) (allocFixed m) 15
    obtain ⟨u, hu, hsame, htarget, hshown, hvin⟩ := allocated_effect s m hle
    exact ⟨u, _, (exec_allocation hp m).trans (congrArg _ hu), hsame.quiet, hle, hfits, habove, htarget, hshown, hvin⟩
  · obtain ⟨u, hexec, hsame, htarget⟩ := exec_powerOverLimit_over hp ms hover
    exact ⟨u, hexec, hsame.quiet, htarget⟩
  · intro n old
    refine ⟨exec_phaseOccurrenceEnd_runs hp [m], fun hrest hm => ?_⟩
    obtain ⟨d, hd, hhigh, hdemand, hseen⟩ := learn_effect s ph m.die.toNat m.demand
    exact ⟨_, d, exec_phaseOccurrenceEnd_one hp hrest hm, (pwr_ctrl s _).quiet, hd, hhigh, hdemand, hseen⟩
  · obtain ⟨u, hexec, hsame, hsent, hpwr⟩ := exec_wakeGroupGrant hp
    exact ⟨u, hexec, hsame.quiet, hsent, hpwr⟩
  · show execCeilingStep die s = _
    rw [execCeilingStep, powered_on _ hp]
  · intro d p log n
    obtain ⟨u, hexec, hsame, hpwr, hcut⟩ := exec_droopStretch hp t
    have hdue : droopCutDue s log t = true ↔ 1000 < n ∧ ∀ e ∈ s.pwr.droopCut, ¬(e.1 = d ∧ e.2.1 = p) := by
      rw [droopCutDue, Bool.and_eq_true, decide_eq_true_iff, Bool.not_eq_true', List.any_eq_false]
      simp only [Bool.and_eq_true, beq_iff_eq]
      exact Iff.rfl
    refine ⟨u, hexec, hsame.quiet, hpwr, ?_⟩
    simp only [← hdue]
    exact hcut
  · obtain ⟨u, hexec, hsame, hpwr⟩ := exec_droopCutExpiry hp die
    exact ⟨u, hexec, hsame.quiet, hpwr⟩
  · intro due told
    obtain ⟨u, hexec, hkeeps⟩ := exec_paceRenewal_keeps hp
    have hsameState {v : State} (hv : exec .paceRenewal s = .next v) : v = u := Host.Outcome.next.inj (hv.symm.trans hexec)
    refine ⟨u, hexec, hkeeps.same.quiet, hkeeps.pwr, fun hnone => ?_, fun hall haged => ?_, fun hall hrecent => ?_⟩
    · obtain ⟨v, hv, hsent, hpwr⟩ := exec_paceRenewal_none hp hnone
      rw [← hsameState hv]
      exact ⟨hsent, hpwr⟩
    · obtain ⟨v, hv, hsent, hforce, hlast⟩ := exec_paceRenewal_due hp hall haged
      rw [← hsameState hv]
      exact ⟨hsent, hforce, hlast⟩
    · rw [← hsameState (exec_paceRenewal_recent hp hall hrecent)]
      exact ⟨rfl, rfl⟩
  · intro mine rest passOn
    refine ⟨pace_dropped hp, fun hgood => ⟨?_, ?_⟩⟩
    · obtain ⟨u, hexec, hsame, hmine, hother, hquiet, hfollow⟩ := paceMessage_effect (b := b) hp hgood
      exact ⟨u, hexec, hsame.quiet, hmine, hother, hquiet, hfollow⟩
    · obtain ⟨u, hexec, hsame, hmine, hother, hpwr, hbit⟩ := paceRelease_effect (b := b) hp hgood
      exact ⟨u, hexec, hsame.quiet, hmine, hother, hpwr, hbit⟩
  · show execPaceHoldExpiry rank phase s = _
    rw [execPaceHoldExpiry, powered_on _ hp, if_pos hpast]
    rfl
  · show execPaceHoldExpiry rank phase s = _
    rw [execPaceHoldExpiry, powered_on _ hp, if_neg (ne_true_of_eq_false hnot)]
  · intro hot thr
    obtain ⟨s1, hs1, hpwr1, hmem1, htemp1, hpwrReg⟩ := tempsShown_effect s ad fabric steering
    obtain ⟨s2, hs2, hpwr2, hmem2, htemp2, hthrottle, htrip⟩ := throttled_effect s1 (ad.any (fun c => thr < c))
    obtain ⟨u, hu, hpwr, htemp, hbit4, hbit5, hrefresh⟩ := tripped_effect s2 hot
    have hbit (i : Nat) : s1.regBit pwrBase i = s.regBit pwrBase i := congrArg (bitOf · i) hpwrReg
    rw [hbit] at hthrottle htrip
    rw [hpwr2, hpwr1, htrip] at hpwr
    rw [htrip] at hbit5 hrefresh
    refine ⟨u, ?_, ?_, htemp.trans (htemp2.trans htemp1), hbit4.trans hthrottle, hbit5, fun hhot hclear => ?_⟩
    · rw [exec_junctionTempSample hp, hs1, hs2, hu]
    · rw [hpwr]
      split <;> rfl
    · show u.mem.stackCtl = _
      rw [hrefresh hhot hclear, hmem2, hmem1]
  · intro thr c caps v
    show execThermalCapStep die s = _
    rw [execThermalCapStep, powered_on _ hp]
  · intro k t
    exact ⟨ageIsland s e, exec_ageingCheck_cons hp e l, ageIsland_trims, ageIsland_loses⟩
  · intro vs past
    obtain ⟨u, hexec, hsame, hhist, hregs, hearly, hpredicted⟩ := exec_wearRefresh hp hours eye
    refine ⟨u, hexec, hsame.quiet, fun n hn => ?_, hregs, hearly, hpredicted⟩
    rw [hhist]
    exact wearHistory_get s eye hn
end

section
/-! The launch image and its digest (R493, R496): what a report leaves, a launch that is accepted, and the image that it then meets. -/

namespace Sys2Proof.Machine

/-! ## A report -/

/-- A report leaves towards the fabric manager, and on the ring where it is open. -/
theorem report_sent (s : State) (code addr data : Nat) : ∃ r,
    (report s code addr data).sent = s.sent ++ .report (BitVec.ofNat 16 code) (BitVec.ofNat 64 addr) (BitVec.ofNat 64 data) :: r ∧
    ∀ k, Out.image k ∉ r := by
  rw [report, SameBut.sent (countMgmt_sent_frame ..).same]
  generalize hs1 : s.emit _ = s1
  have hsent : s1.sent = s.sent ++ [.report (BitVec.ofNat 16 code) (BitVec.ofNat 64 addr) (BitVec.ofNat 64 data)] := by rw [← hs1]; rfl
  unfold sendRing
  split
  · refine ⟨[.evfCommand s1.mgmt.nextSeq], ?_, by simp⟩
    simp only [hsent, List.append_assoc, List.cons_append, List.nil_append]
  · exact ⟨[], hsent, by simp⟩

theorem report_job (s : State) (code addr data : Nat) : (report s code addr data).job = s.job := by
  rw [report, SameBut.job (countMgmt_sent_frame ..).same]
  unfold sendRing
  split <;> rfl

/-! ## What the checks of a launch read -/

theorem State.rank_congr {s u : State} (h : u.job = s.job) : u.rank = s.rank := by rw [State.rank, State.rank, h]

theorem State.members_congr {s u : State} (h : u.job = s.job) : u.members = s.members := by rw [State.members, State.members, h]

/-- The checks of a launch read the job, the tiles that serve, the frames withdrawn and the own identifier. -/
theorem EventFrame.launchFault {s u : State} (h : EventFrame s u) (l : LaunchBody) : Machine.launchFault u l = Machine.launchFault s l := by
  have hfab : u.fabId = s.fabId := by rw [State.fabId, State.fabId, h.regs _ (by decide)]
  have hmember : u.memberId = s.memberId := by
    funext r
    rw [State.memberId, State.memberId, State.members_congr (SameBut.job h.same)]
  have hdrawn : u.withdrawnOf = s.withdrawnOf := by
    funext n
    rw [State.withdrawnOf, State.withdrawnOf, SameBut.mem h.same]
  have hplan : planTooLarge u l.plan = planTooLarge s l.plan := by rw [planTooLarge, planTooLarge, hdrawn]
  have hckpt : badCkptPlan u l.ckpt l.plan = badCkptPlan s l.ckpt l.plan := by
    rw [badCkptPlan, badCkptPlan, State.rank_congr (SameBut.job h.same), hmember, hfab]
  rw [Machine.launchFault, Machine.launchFault, State.activeTiles, State.activeTiles, SameBut.rig h.same, hplan, hckpt]

theorem EventFrame.fromFm {s u : State} (h : EventFrame s u) (src : MgmtSrc) : u.fromFm src = s.fromFm src := by
  rw [State.fromFm, State.fromFm, State.fmId, State.fmId, h.regs _ (by decide)]

theorem onFirmware_runs {s : State} (hp : s.pins.powered = true) (hrom : s.sec.romRecovery = false) (f : State → State) :
    onFirmware s f = .next (f s) := by
  rw [onFirmware, powered_on _ hp, hrom, if_neg Bool.false_ne_true]

/-! ## The image meets the launch -/

/-- An image whose digest differs is reported, and the job lets it go. -/
theorem checkImage_refuses {s : State} {j : Job} {l : LaunchBody} {image : List Byte} (hjob : s.job = some j) (hl : j.launch = some l)
    (himage : j.image = some image) (hphase : j.phase = .launched) (hfwd : j.forwarded = false) (hdigest : shake256 image ≠ l.programDigest) :
    checkImage s = report (setJob s { j with image := none }) 0x8703 0 0 := by
  rw [checkImage, hjob]
  simp only [hl, himage, hphase, hfwd, bne_self_eq_false, Bool.or_self, Bool.false_eq_true, if_false, if_neg hdigest]

/-- The job that an accepted launch leaves. -/
def launchedJob (s : State) (j : Job) (l : LaunchBody) : Job :=
  { j with
    launch := some l
    phase := .launched
    forwarded := false
    childAcks := []
    hintPages := []
    timeSeed := s.tim.now
    programDigest := l.programDigest
    shrunk := l.gen != 0 && j.oldMembers != 0 && j.members.length < j.oldMembers }

theorem acceptLaunch_eq (s : State) (j : Job) (l : LaunchBody) :
    acceptLaunch s j l = noteProgram (setJob s (launchedJob s j l)) l.programDigest := rfl

/-- A launch of a new job from the fabric manager, on a package that has no fault to object to, is accepted. -/
theorem exec_launch_new {s : State} {src : MgmtSrc} {j : Job} {l : LaunchBody} (hp : s.pins.powered = true) (hrom : s.sec.romRecovery = false)
    (hjob : s.job = some j) (hfm : s.fromFm src = true) (hbound : j.phase = .bound) (hok : launchFault s l = 0) (hgen : l.gen = 0) :
    exec (.launch src l) s = .next (checkImage (acceptLaunch (startNew (mgmtArrived s src 216) l) j l)) := by
  have ha := mgmtArrived_frame s src 216
  show execLaunch src l s = _
  rw [execLaunch, onMgmt_runs _ _ _ hp hrom, SameBut.job ha.same, hjob]
  simp only [ha.fromFm, hfm, hbound, ha.launchFault, hok, hgen, bne_self_eq_false, Bool.not_true, Bool.or_self, Bool.false_eq_true, if_false,
    if_true]

/-! ## The image arrives -/

section
variable {s : State} {j : Job} {image : List Byte} (hp : s.pins.powered = true) (hrom : s.sec.romRecovery = false) (hjob : s.job = some j)
include hp hrom hjob

theorem exec_launchImage_again (h : j.forwarded = true ∨ j.phase = .ready ∨ j.phase = .running) :
    exec (.launchImage image) s = .next (if shake256 image = j.programDigest then s else report s 0x8703 0 0) := by
  have hc : (j.phase = .ready || j.phase = .running || j.forwarded) = true := by
    rcases h with h | h | h <;> simp [h]
  show execLaunchImage image s = _
  rw [execLaunchImage, onFirmware_runs hp hrom, hjob]
  simp only [hc, if_true]

theorem exec_launchImage_first (hphase : j.phase = .launched) (hfwd : j.forwarded = false) :
    exec (.launchImage image) s = .next (checkImage (setJob s { j with image := some image })) := by
  show execLaunchImage image s = _
  rw [execLaunchImage, onFirmware_runs hp hrom, hjob]
  simp only [hphase, hfwd, reduceCtorEq, decide_false, Bool.or_self, Bool.false_eq_true, if_false]

end

end Sys2Proof.Machine

open Sys2Proof Sys2Proof.Machine

/-- Settles O49: an image that differs from the job's digest ends in a report, whichever of the two came first. -/
theorem imagesFollowTheirDigest : Obligations.ImagesFollowTheirDigest := by
  unfold Obligations.ImagesFollowTheirDigest
  intro s j image hp hrom hjob refused
  have hreport (v : State) (hsent : v.sent = s.sent) : refused (report v 0x8703 0 0) := by
    obtain ⟨r, hr, hnone⟩ := report_sent v 0x8703 0 0
    exact ⟨r, by rw [hr, hsent]; rfl, hnone⟩
  refine ⟨fun hagain => ⟨fun heq => ?_, fun hne => ?_⟩, fun l hl hphase hfwd hne => ?_, fun src l hfm hbound himage hok hgen hne => ?_⟩
  · rw [exec_launchImage_again hp hrom hjob hagain, if_pos heq]
  · exact ⟨_, (exec_launchImage_again hp hrom hjob hagain).trans (congrArg _ (if_neg hne)), hreport s rfl, report_job ..⟩
  · refine ⟨_, (exec_launchImage_first hp hrom hjob hphase hfwd).trans (congrArg _ (checkImage_refuses rfl hl rfl hphase hfwd hne)),
      hreport _ rfl, ?_⟩
    rw [report_job]
    rfl
  · have hsent := SameBut.sent (mgmtArrived_frame s src 216).same
    generalize hk : launchedJob (startNew (mgmtArrived s src 216) l) j l = k
    have hexec := exec_launch_new hp hrom hjob hfm hbound hok hgen
    rw [acceptLaunch_eq, hk] at hexec
    have hrefuse := checkImage_refuses (s := noteProgram (setJob (startNew (mgmtArrived s src 216) l) k) l.programDigest) (l := l)
      (image := image) rfl (hk ▸ rfl) (hk ▸ himage) (hk ▸ rfl) (hk ▸ rfl) hne
    exact ⟨_, _, hexec.trans (congrArg _ hrefuse), hreport _ hsent, report_job .., rfl, hk ▸ rfl⟩

end

section
/-! A resume whose host store lies under the event ring: the message that brings the LAUNCH saturates its port's counter of received bytes,
the event of that (R598) is written over the store's manifest (R565), and the generation that the host store held when the message came is
not there when the launch looks for it. -/

namespace Sys2Proof.Machine

/-! ## The key that every message verifies under -/

/-- The encoding of the neutral point, as a key. -/
def neutralKey : List Byte := leBytes 57 1

/-- The neutral point as commitment, with response 0. -/
def neutralSig : List Byte := leBytes 114 1

theorem evalNat_apply {α : Type} (n : Nat) (f : Nat → α) : evalNat n f = f n := by cases n <;> rfl

/-- Multiples of the neutral point are the neutral point. -/
theorem addTimes_neutral (fuel n : Nat) : EdPoint.addTimes fuel n EdPoint.zero EdPoint.zero = EdPoint.zero := by
  induction fuel generalizing n with
  | zero => rfl
  | succ fuel ih =>
    have hdouble : EdPoint.zero.add EdPoint.zero = EdPoint.zero := by decide +kernel
    by_cases hn : n = 0
    · rw [EdPoint.addTimes, if_pos hn]
    · rw [EdPoint.addTimes, if_neg hn, hdouble, ite_self]
      exact (evalNat_apply ..).trans (ih _)

/-- Under the neutral key the neutral signature verifies whatever the message: the challenge multiplies the neutral point. -/
theorem neutral_verifies (context : String) (msg : List Byte) : ed448Verify neutralKey context msg neutralSig = true := by
  have hkey : decodePoint neutralKey = some EdPoint.zero := by decide +kernel
  have hcommit : decodePoint (neutralSig.take 57) = some EdPoint.zero := by decide +kernel
  have hresponse : leNat (neutralSig.drop 57) = 0 := by decide +kernel
  have hsame : (EdPoint.base.times 0).fourfold.same EdPoint.zero.fourfold = true := by decide +kernel
  have hform : (neutralKey.length == 57 && neutralSig.length == 114 && decide (0 < edL)) = true := by decide +kernel
  simp only [ed448Verify, evalNat_apply, hkey, hcommit, hresponse, addTimes_neutral, hsame, hform, Bool.and_self]

/-! ## What the host store shows -/

theorem slice_read (m : Memory) (a n o k : Nat) (h : o + k ≤ n) : slice (Memory.read m a n) o k = Memory.read m (a + o) k := by
  refine List.ext_getElem (by simp [slice, Memory.read]; omega) fun i hi _ => ?_
  simp [slice, Memory.read, Nat.add_assoc]

theorem fieldLE_read (m : Memory) (a n o k : Nat) (h : o + k ≤ n) : fieldLE (Memory.read m a n) o k = leNat (Memory.read m (a + o) k) := by
  rw [← slice_read m a n o k h]
  rfl

/-- A slot whose manifest does not begin with the magic's first byte shows nothing. -/
theorem hostSlotOf_blank {s : State} {p : CkptPlan} {j : Nat}
    (h : Memory.get s.hostMem (hostStoreAddr p (slotOff p.vbytes.toNat j)) ≠ 0x42) : hostSlotOf s p j = StoreSlot.empty := by
  have hmagic : (slice (Memory.read s.hostMem (hostStoreAddr p (slotOff p.vbytes.toNat j)) 0x1D2) 0 8 == ckptMagic) = false := by
    rw [slice_read _ _ _ _ _ (by decide), Nat.add_zero, beq_eq_false_iff_ne]
    intro heq
    have hfirst := congrArg (fun l => l.getD 0 0) heq
    have hb : ckptMagic.getD 0 0 = 0x42 := by decide
    exact h (by simpa [Memory.read, List.range_succ_eq_map] using hfirst.trans hb)
  simp only [hostSlotOf, hmagic, Bool.false_and, Bool.not_false, Bool.or_true, if_true]

/-- The bytes of a manifest that the package accepts, as they lie in host memory: its fields, its key and its digests. -/
structure SlotHolds (m : Memory) (p : CkptPlan) (a : Nat) (gen : Nat) (list block : List Byte) : Prop where
  magic   : Memory.read m a 8 = ckptMagic
  version : leNat (Memory.read m (a + 8) 2) = 1
  gen     : leNat (Memory.read m (a + 0x10) 8) = gen
  base    : leNat (Memory.read m (a + 0x28) 8) = p.vbase.toNat
  bytes   : leNat (Memory.read m (a + 0x30) 8) = p.vbytes.toNat
  key     : Memory.read m (hostStoreAddr p 0 + 0x18) 57 = neutralKey
  keyId   : Memory.read m (a + 0x48) 16 = (shake256 neutralKey).take 16
  list    : Memory.read m (a + 0xE0) 64 = shake256 list
  block   : Memory.read m (a + 0x120) 64 = shake256 block
  sig     : Memory.read m (a + 0x160) 114 = neutralSig

theorem hostSlotOf_holds {s : State} {p : CkptPlan} {j g : Nat} (hstore : p.hostStore ≠ 0)
    (h : SlotHolds s.hostMem p (hostStoreAddr p (slotOff p.vbytes.toNat j)) g
      (Memory.read s.hostMem (hostStoreAddr p (slotOff p.vbytes.toNat j + 0x200000 + p.vbytes.toNat)) (listBytes p.vbytes.toNat))
      (Memory.read s.hostMem (hostStoreAddr p (counterOff p.vbytes.toNat j)) 0x20000)) :
    (hostSlotOf s p j).gen = some (BitVec.ofNat 64 g) := by
  obtain ⟨hmagic, hversion, hgen, hbase, hbytes, hkey, hkeyId, hlist, hblock, hsig⟩ := h
  have hs (o k : Nat) (h : o + k ≤ 0x1D2) := slice_read s.hostMem (hostStoreAddr p (slotOff p.vbytes.toNat j)) 0x1D2 o k h
  have hf (o k : Nat) (h : o + k ≤ 0x1D2) := fieldLE_read s.hostMem (hostStoreAddr p (slotOff p.vbytes.toNat j)) 0x1D2 o k h
  have h1 := hs 0 8 (by decide)
  rw [Nat.add_zero, hmagic] at h1
  have h2 := (hf 8 2 (by decide)).trans hversion
  have h3 := (hf 0x10 8 (by decide)).trans hgen
  have h4 := (hf 0x28 8 (by decide)).trans hbase
  have h5 := (hf 0x30 8 (by decide)).trans hbytes
  have h6 := (hs 0x48 16 (by decide)).trans hkeyId
  have h7 := (hs 0xE0 64 (by decide)).trans hlist
  have h8 := (hs 0x120 64 (by decide)).trans hblock
  have h9 := (hs 0x160 114 (by decide)).trans hsig
  have h10 := (slice_read s.hostMem (hostStoreAddr p 0) 4096 0x18 57 (by omega)).trans hkey
  have hst : (p.hostStore = 0) = False := eq_false hstore
  simp only [hostSlotOf, h1, h2, h3, h4, h5, h6, h7, h8, h9, h10, neutral_verifies, beq_self_eq_true, decide_true, Bool.and_self,
    Bool.not_true, Bool.or_false, decide_eq_true_eq, if_neg hstore]

/-! ## A host store with one generation -/

theorem length_keccakF {a : List (BitVec 64)} (h : a.length = 25) : (keccakF a).length = 25 := by
  unfold keccakF
  generalize roundConstants = l
  induction l generalizing a with
  | nil => exact h
  | cons rc r ih => exact ih (by simp [mixRows, lanes])

theorem length_absorbAll (f : Nat) {a : List (BitVec 64)} (m : List Byte) (h : a.length = 25) : (absorbAll f a m).length = 25 := by
  have habsorb (a : List (BitVec 64)) (blk : List Byte) (h : a.length = 25) : (absorb a blk).length = 25 :=
    length_keccakF (by rw [List.length_mapIdx, h])
  induction f generalizing a m with
  | zero => exact h
  | succ f ih =>
    unfold absorbAll
    split
    · exact habsorb _ _ h
    · exact ih _ (habsorb _ _ h)

/-- A digest has 64 bytes. -/
theorem length_shake256 (m : List Byte) : (shake256 m).length = 64 := by
  have h : (shakeLanes m).length = 25 := length_absorbAll _ _ List.length_replicate
  simp [shake256, List.length_flatMap, length_leBytes, List.map_const', h]

/-- The checkpoint plan of the example: 2 MiB from address 0, a host store at the foot of the host window, the ward's store in stack memory. -/
def ringPlan : CkptPlan :=
  { buddyRank := 1, wardRank := 1, vbase := 0, vbytes := 0x200000, wardStore := 0x200000, hostStore := 0x100000000000, intervalMs := 0,
    intervalStrokes := 0, copyRate := 0, restoreRate := 0, resClear := true }

/-- What a host store of `ringPlan` holds for generation 1 in slot 0, by address: the header's key and the manifest. -/
def slotWrites (keyId list block : List Byte) : List (Nat × List Byte) :=
  [(0x18, neutralKey), (0x200000, ckptMagic), (0x200008, leBytes 2 1), (0x200010, leBytes 8 1), (0x200028, leBytes 8 0),
   (0x200030, leBytes 8 0x200000), (0x200048, keyId), (0x2000E0, list), (0x200120, block), (0x200160, neutralSig)]

theorem slotWrites_ascending {keyId list block : List Byte} (hk : keyId.length = 16) (hl : list.length = 64) (hb : block.length = 64) :
    (slotWrites keyId list block).Pairwise fun p q => p.1 + p.2.length ≤ q.1 := by
  have hkey : neutralKey.length = 57 := by decide
  have hmagic : ckptMagic.length = 8 := by decide
  simp [slotWrites, length_leBytes, hk, hl, hb, hkey, hmagic]

theorem slotWrites_within {keyId list block : List Byte} (hk : keyId.length = 16) (hl : list.length = 64) (hb : block.length = 64) :
    ∀ p ∈ slotWrites keyId list block, p.1 + p.2.length ≤ 0x2001D2 := by
  have hkey : neutralKey.length = 57 := by decide
  have hsig : neutralSig.length = 114 := by decide
  have hmagic : ckptMagic.length = 8 := by decide
  simp [slotWrites, length_leBytes, hk, hl, hb, hkey, hmagic, hsig]

/-- Host memory after writes. -/
def writeAll (ws : List (Nat × List Byte)) : Memory := ws.foldl (fun m p => Memory.write m p.1 p.2) []

theorem read_writeAll_above {ws : List (Nat × List Byte)} {e : Nat} (h : ∀ p ∈ ws, p.1 + p.2.length ≤ e) {a : Nat} (ha : e ≤ a) (n : Nat) :
    Memory.read (writeAll ws) a n = Memory.read [] a n :=
  Memory.read_congr fun _ hb _ => Memory.get_writes_outside ws [] fun p hp => by have := h p hp; omega

/-- Where `ringPlan` puts the parts of its host store. -/
theorem ringPlan_places : hostStoreAddr ringPlan 0 = 0 ∧ hostStoreAddr ringPlan (slotOff ringPlan.vbytes.toNat 0) = 0x200000 ∧
    hostStoreAddr ringPlan (slotOff ringPlan.vbytes.toNat 1) = 0x800000 ∧
    hostStoreAddr ringPlan (slotOff ringPlan.vbytes.toNat 0 + 0x200000 + ringPlan.vbytes.toNat) = 0x600000 ∧
    hostStoreAddr ringPlan (counterOff ringPlan.vbytes.toNat 0) = 0x210000 ∧ listBytes ringPlan.vbytes.toNat = 0x200000 := by
  decide +kernel

theorem length_keyId : ((shake256 neutralKey).take 16).length = 16 := by
  rw [List.length_take, length_shake256]
  rfl

/-- The manifest and the header's key are read back as they were written. -/
theorem slotWrites_hold {list block : List Byte} : SlotHolds
    (writeAll (slotWrites ((shake256 neutralKey).take 16) (shake256 list) (shake256 block))) ringPlan 0x200000 1 list block := by
  have hasc := slotWrites_ascending length_keyId (length_shake256 list) (length_shake256 block)
  have hread {a n : Nat} {bs : List Byte} (hp : (a, bs) ∈ slotWrites ((shake256 neutralKey).take 16) (shake256 list) (shake256 block))
      (hn : bs.length = n) :
      Memory.read (writeAll (slotWrites ((shake256 neutralKey).take 16) (shake256 list) (shake256 block))) a n = bs := by
    subst hn
    exact Memory.read_writes (p := (a, bs)) hasc [] hp
  have hversion := hread (a := 0x200008) (by simp [slotWrites]) (length_leBytes 2 1)
  have hgen := hread (a := 0x200010) (by simp [slotWrites]) (length_leBytes 8 1)
  have hbase := hread (a := 0x200028) (by simp [slotWrites]) (length_leBytes 8 0)
  have hbytes := hread (a := 0x200030) (by simp [slotWrites]) (length_leBytes 8 0x200000)
  have hkey := hread (a := 0x18) (n := 57) (bs := neutralKey) (by simp [slotWrites]) (by decide)
  exact
    { magic := hread (a := 0x200000) (by simp [slotWrites]) (by decide)
      version := (congrArg leNat hversion).trans (by decide)
      gen := (congrArg leNat hgen).trans (by decide)
      base := (congrArg leNat hbase).trans (by decide)
      bytes := (congrArg leNat hbytes).trans (by decide)
      key := ringPlan_places.1 ▸ hkey
      keyId := hread (a := 0x200048) (by simp [slotWrites]) length_keyId
      list := hread (a := 0x2000E0) (by simp [slotWrites]) (length_shake256 list)
      block := hread (a := 0x200120) (by simp [slotWrites]) (length_shake256 block)
      sig := hread (a := 0x200160) (by simp [slotWrites]) (by decide) }

/-- Host memory that holds generation 1 in slot 0 of the store of `ringPlan`, with an empty digest list and counter block, and nothing else. -/
def generationMem : Memory :=
  writeAll (slotWrites ((shake256 neutralKey).take 16) (shake256 (Memory.read [] 0x600000 0x200000)) (shake256 (Memory.read [] 0x210000 0x20000)))

theorem generationMem_above {a : Nat} (ha : 0x2001D2 ≤ a) (n : Nat) : Memory.read generationMem a n = Memory.read [] a n :=
  read_writeAll_above (slotWrites_within length_keyId (length_shake256 _) (length_shake256 _)) ha n

theorem generationMem_slot {s : State} (h : s.hostMem = generationMem) : (hostSlotOf s ringPlan 0).gen = some 1 := by
  obtain ⟨-, hslot, -, hlist, hblock, hn⟩ := ringPlan_places
  refine hostSlotOf_holds (g := 1) (by decide) ?_
  rw [hslot, hlist, hblock, hn, h, generationMem_above (by omega), generationMem_above (by omega)]
  exact slotWrites_hold

/-! ## The launch -/

/-- The LAUNCH of a resume at generation 1 under `ringPlan`. -/
def resumeLaunch : LaunchBody :=
  { mode := 0, seed := 0, logicalTiles := 0, startStroke := 0, gen := 1, nondetBase := 0, programDigest := [],
    plan := { checkFrames := [], ckptEn := true, hostBase := 0x100000000000, hostLimit := 0x100001000000 }
    ckpt := ringPlan, hintCount := 0 }

/-- The job of two members that waits for it, a survivor of an earlier run. -/
def survivingJob : Job :=
  { tag := 0, epoch := 0, rank := 0, members := [0, 1], phase := .bound, launch := none, image := none, forwarded := false, forwardedAt := 0,
    childAcks := [], hintPages := [], timeSeed := 0, programDigest := [], shrunk := false, oldMembers := 2 }

/-- A package whose event ring lies on the manifest of its host store, and whose port 0 is about to saturate its count of received bytes. -/
def overlapped : State :=
  { State.reset with
    pins := { State.reset.pins with powered := true }
    regs := [(hifBase + 0x20, 0x200000), (hifBase + 0x28, 0x4000), (portBase 0 + 0x108, 0xFFFFFFFF), (portBase 0 + 0x10C, 0xFFFFFFFF)]
    hostMem := generationMem
    job := some survivingJob
    fab := { Fabric.reset with ports := [{ Port.reset 0 with up := true }] } }

/-- `overlapped` when the count of received bytes has saturated. -/
def saturated : State := (overlapped.setReg64 (portBase 0 + 0x108) (2 ^ 64 - 1)).setRegBit (portBase 0 + 0xF0) 1 true

/-- The events that counting raises stop at one that finds room and no catch set for it. -/
theorem raiseN_hostMem {s : State} (d code src addr data : Nat) (hheld : s.hif.evqHeld = 0) (hroom : s.evqRoom = true)
    (hcatch : s.regBit snapBase 2 = false) (hfree : s.regBit (hifBase + 0xF0) 3 = false) (hlow : s.reg64 (hifBase + 0x100 + 8 * 3) + 1 < 2 ^ 64) :
    (raiseN (d + 1) code src addr data s).hostMem = (putEvent (countFamily s code) code src addr data).hostMem := by
  generalize hv : putEvent (countFamily s code) code src addr data = v
  have hregs : v.regs = s.regs := by rw [← hv]; rfl
  have hcount : bumpWith (raiseN d) v hifBase 3 1 = v.setReg64 (hifBase + 0x100 + 8 * 3) (v.reg64 (hifBase + 0x100 + 8 * 3) + 1) := by
    have hb : v.regBit (hifBase + 0xF0) 3 = false := hfree ▸ congrArg (bitOf · 3) (State.reg_congr hregs _)
    have hl : v.reg64 (hifBase + 0x100 + 8 * 3) + 1 < 2 ^ 64 := by
      rw [State.reg64, hregs]
      exact hlow
    simp only [bumpWith, bumpRaw, hb, if_pos hl, Bool.false_eq_true, if_false]
  have hquiet : (v.setReg64 (hifBase + 0x100 + 8 * 3) (v.reg64 (hifBase + 0x100 + 8 * 3) + 1)).catchEvent code = false := by
    rw [State.catchEvent, State.regBit, State.reg_setReg64_ne _ _ (by decide) (by decide), State.reg_congr hregs]
    exact congrArg (· && _) hcatch
  have hheld' : (countFamily s code).hif.evqHeld = 0 := hheld
  have hroom' : (countFamily s code).evqRoom = true := hroom
  simp only [raiseN, hheld', decide_true, Bool.true_or, if_true, hroom', hv, hcount, hquiet, Bool.not_false]
  rfl

/-- The message that brings the LAUNCH saturates the count, and the event of that is written at the foot of the event ring. -/
theorem overlapped_arrival : (mgmtArrived overlapped (.fabric 0) 216).hostMem =
    (putEvent (countFamily saturated 0x4901) 0x4901 (sourceAt (portBase 0)) 0 1).hostMem := by
  have hport : (List.range 16).find? (fun p => (overlapped.port p).up) = some 0 := by decide +kernel
  have hopen : overlapped.regBit (portBase 0 + 0xF0) 1 = false := by decide +kernel
  have hfull : ¬overlapped.reg64 (portBase 0 + 0x100 + 8 * 1) + mgmtBytes 216 < 2 ^ 64 := by decide +kernel
  have harrived : mgmtArrived overlapped (.fabric 0) 216 = raiseN 6 0x4901 (sourceAt (portBase 0)) 0 1 saturated := by
    rw [mgmtArrived, countMgmt, hport]
    simp only [bump, bumpWith, bumpRaw, hopen, if_neg hfull, Bool.false_eq_true, if_false]
    rfl
  rw [harrived]
  exact raiseN_hostMem 5 _ _ _ _ rfl (by decide +kernel) (by decide +kernel) (by decide +kernel) (by decide +kernel)

/-- The record of the event takes the place of the manifest's magic, and leaves slot 1 as blank as it was. -/
theorem overlapped_arrival_bytes : Memory.get (mgmtArrived overlapped (.fabric 0) 216).hostMem 0x200000 = 1 ∧
    Memory.get (mgmtArrived overlapped (.fabric 0) 216).hostMem 0x800000 = 0 := by
  have hplace : (countFamily saturated 0x4901).reg64 (hifBase + 0x20) +
      32 * ((countFamily saturated 0x4901).hif.evqTail.toNat % 2 ^ (countFamily saturated 0x4901).evqLog) = 0x200000 := by decide +kernel
  have hblank := generationMem_above (a := 0x800000) (by omega) 1
  rw [overlapped_arrival, putEvent]
  simp only [hplace]
  have hmem : (countFamily saturated 0x4901).hostMem = generationMem := by
    simp only [countFamily, saturated, State.setRegBit_hostMem, State.setReg64_hostMem, overlapped]
  rw [hmem]
  constructor
  · rw [Memory.get_write, if_pos ⟨le_refl _, by rw [length_eventRecord]; omega⟩, Nat.sub_self]
    rfl
  · rw [Memory.get_write_outside _ (by rw [length_eventRecord]; omega)]
    simpa [Memory.read, Memory.get, kvGetD, kvGet] using hblank

/-! ## The generation is there, and then it is not -/

theorem slotWith_unseeded (s : State) (c : Bool) (hbuddy : s.ckpt.buddy = List.replicate 2 StoreSlot.empty) (g : U64) :
    slotWith (if c then s.ckpt.buddy else List.replicate 2 StoreSlot.empty) g = none := by
  rw [hbuddy, ite_self]
  rfl

/-- A survivor with an unseeded buddy store finds the generation that its host store's first slot holds. -/
theorem findGeneration_host {s : State} {p : CkptPlan} {g : U64} (hbuddy : s.ckpt.buddy = List.replicate 2 StoreSlot.empty)
    (hslot : (hostSlotOf s p 0).gen = some g) : ∃ f, findGeneration s p g = some f := by
  have hhost : slotWith [hostSlotOf s p 0, hostSlotOf s p 1] g = some (hostSlotOf s p 0) := by
    rw [slotWith, List.find?_cons, hslot, beq_self_eq_true]
  simp only [findGeneration, slotWith_unseeded s _ hbuddy, hhost]
  exact ⟨_, rfl⟩

/-- It finds none when both slots are blank. -/
theorem findGeneration_none {s : State} {p : CkptPlan} {g : U64} (hsurvivor : s.survivor = true)
    (hbuddy : s.ckpt.buddy = List.replicate 2 StoreSlot.empty) (h0 : hostSlotOf s p 0 = StoreSlot.empty)
    (h1 : hostSlotOf s p 1 = StoreSlot.empty) : findGeneration s p g = none := by
  have hhost : slotWith [StoreSlot.empty, StoreSlot.empty] g = none := rfl
  simp only [findGeneration, slotWith_unseeded s _ hbuddy, h0, h1, hhost, hsurvivor, Bool.not_true, Bool.false_and, Bool.false_eq_true, if_false]

theorem overlapped_hostMem : overlapped.hostMem = generationMem := by rw [overlapped]

theorem overlapped_buddy : overlapped.ckpt.buddy = List.replicate 2 StoreSlot.empty := rfl

theorem overlapped_finds : ∃ f, findGeneration overlapped ringPlan 1 = some f :=
  findGeneration_host overlapped_buddy (generationMem_slot overlapped_hostMem)

theorem overlapped_misses : findGeneration (mgmtArrived overlapped (.fabric 0) 216) ringPlan 1 = none := by
  have hsame := (mgmtArrived_frame overlapped (.fabric 0) 216).same
  obtain ⟨hfirst, hsecond⟩ := overlapped_arrival_bytes
  obtain ⟨-, hslot0, hslot1, -⟩ := ringPlan_places
  refine findGeneration_none ?_ ?_ (hostSlotOf_blank ?_) (hostSlotOf_blank ?_)
  · rw [State.survivor, SameBut.job hsame]
    rfl
  · rw [SameBut.ckpt hsame]
    rfl
  · rw [hslot0, hfirst]
    decide
  · rw [hslot1, hsecond]
    decide

/-- A resume whose generation the arrived message finds nowhere is refused. -/
theorem exec_launch_missing {s : State} {src : MgmtSrc} {j : Job} {l : LaunchBody} (hp : s.pins.powered = true) (hrom : s.sec.romRecovery = false)
    (hjob : s.job = some j) (hfm : s.fromFm src = true) (hbound : j.phase = .bound) (hok : launchFault s l = 0) (hgen : l.gen ≠ 0)
    (hckpt : l.plan.ckptEn = true) (hnone : findGeneration (mgmtArrived s src 216) l.ckpt l.gen = none) :
    exec (.launch src l) s = .next (refuseLaunch (mgmtArrived s src 216) j 0x8704) := by
  have ha := mgmtArrived_frame s src 216
  show execLaunch src l s = _
  rw [execLaunch, onMgmt_runs _ _ _ hp hrom, SameBut.job ha.same, hjob]
  simp only [ha.fromFm, hfm, hbound, ha.launchFault, hok, hckpt, hnone, if_neg hgen, bne_self_eq_false, Bool.not_true, Bool.or_self,
    Bool.false_eq_true, if_false]

theorem reply_job (s : State) (kind st : Nat) : (reply s kind st).job = s.job := by
  rw [reply, replyTo, SameBut.job (countMgmt_sent_frame ..).same]
  rfl

end Sys2Proof.Machine

open Sys2Proof Sys2Proof.Machine

/-- Refutes O48: in `overlapped` the host store holds generation 1 when the LAUNCH comes, but the event that the message's own bytes raise
(R598) is written over the manifest (R565) before the launch looks there, so that the resume is refused with 0x8704. -/
theorem not_launchMessagesAct : ¬ Obligations.LaunchMessagesAct := by
  unfold Obligations.LaunchMessagesAct
  intro h
  obtain ⟨f, hfound⟩ := overlapped_finds
  have hfm : overlapped.fromFm (.fabric 0) = true := by decide +kernel
  have hok : launchFault overlapped resumeLaunch = 0 := by decide +kernel
  have hexec := exec_launch_missing (s := overlapped) (l := resumeLaunch) rfl rfl rfl hfm rfl hok (by decide) rfl overlapped_misses
  obtain ⟨-, -, hjob⟩ := h overlapped (.fabric 0) rfl rfl
  obtain ⟨hlaunch, -⟩ := hjob survivingJob rfl
  obtain ⟨-, -, -, -, hresume⟩ := hlaunch resumeLaunch hfm rfl rfl
  obtain ⟨u, hu, ⟨b, hbound⟩, -⟩ := hresume hok (by decide) rfl f hfound
  obtain rfl : _ = u := Host.Outcome.next.inj (hexec.symm.trans hu)
  rw [refuseLaunch, reply_job, if_neg (by decide)] at hbound
  exact absurd (congrArg Job.launch (Option.some.inj hbound)) (by simp)

end

section
/-! The canonical form (R42, R49; log 4, log 5): the four parts of the state that it speaks of, and the operations that write them. -/

-- One theorem at a time: the stacks of threads that elaborate side by side count against the check's memory.
set_option Elab.async false

namespace Sys2Proof.Machine

/-! ## The parts -/

/-- The register file stands in its canonical form. -/
def RegsWf (f : RegFile) : Prop := RegFile.wf f

/-- A byte memory stands in its canonical form. -/
def BytesWf (m : Memory) : Prop := Memory.wf m

/-- Every tile's store stands in its canonical form. -/
def TilesWf (l : List (TileId × Tile)) : Prop := ∀ e ∈ l, BytesWf e.2.store

/-- The canonical form speaks of these four parts alone. -/
@[simp] theorem canonical_mk (pending pins regs latches hostMem mem tiles cores rig flash sec job stroke sync fab collEng zn hif pwr tim ckpt
    bridges mgmt sent free) :
    Canonical ⟨pending, pins, regs, latches, hostMem, mem, tiles, cores, rig, flash, sec, job, stroke, sync, fab, collEng, zn, hif, pwr, tim,
      ckpt, bridges, mgmt, sent, free⟩ ↔ RegsWf regs ∧ BytesWf hostMem ∧ BytesWf mem.bytes ∧ TilesWf tiles :=
  ⟨fun h => ⟨h.regs, h.host, h.stack, h.tiles⟩, fun ⟨h1, h2, h3, h4⟩ => ⟨h1, h2, h3, h4⟩⟩

theorem canonical_iff {s : State} : Canonical s ↔ RegsWf s.regs ∧ BytesWf s.hostMem ∧ BytesWf s.mem.bytes ∧ TilesWf s.tiles :=
  ⟨fun h => ⟨h.regs, h.host, h.stack, h.tiles⟩, fun ⟨h1, h2, h3, h4⟩ => ⟨h1, h2, h3, h4⟩⟩

section
variable {s : State} (h : Canonical s)
include h

@[simp] theorem Canonical.regsWf : RegsWf s.regs := h.regs
@[simp] theorem Canonical.hostWf : BytesWf s.hostMem := h.host
@[simp] theorem Canonical.stackWf : BytesWf s.mem.bytes := h.stack
@[simp] theorem Canonical.tilesWf : TilesWf s.tiles := h.tiles

end

/-! ## Registers -/

@[simp] theorem RegsWf.nil : RegsWf [] := ⟨List.Pairwise.nil, fun _ h => absurd h List.not_mem_nil⟩

@[simp] theorem RegsWf.put {f : RegFile} (h : RegsWf f) (o v : Nat) : RegsWf (RegFile.put f o v) := RegFile.put_wf o v h

@[simp] theorem RegsWf.put64 {f : RegFile} (h : RegsWf f) (o v : Nat) : RegsWf (RegFile.put64 f o v) := (h.put o v).put _ _

@[simp] theorem RegsWf.filter {f : RegFile} (h : RegsWf f) (p : Nat × U32 → Bool) : RegsWf (f.filter p) :=
  ⟨h.1.filter p, fun e he => h.2 e (List.mem_of_mem_filter he)⟩

/-- A catch copies counters to snapshot registers one after another (R597). -/
@[simp] theorem RegsWf.latch {f : RegFile} (h : RegsWf f) : RegsWf (latchCounters f) := by
  refine List.foldlRecOn (motive := RegsWf) f _ (h.filter _) fun acc hacc e _ => ?_
  split
  · exact hacc.put ..
  · exact hacc

/-! ## Bytes -/

@[simp] theorem BytesWf.nil : BytesWf [] := ⟨List.Pairwise.nil, fun _ h => absurd h List.not_mem_nil⟩

@[simp] theorem BytesWf.write {m : Memory} (h : BytesWf m) (a : Nat) (bs : List Byte) : BytesWf (Memory.write m a bs) := Memory.write_wf a bs h

@[simp] theorem BytesWf.dropRange {m : Memory} (h : BytesWf m) (lo hi : Nat) : BytesWf (dropRange m lo hi) :=
  ⟨h.1.filter _, fun c hc => h.2 c (List.mem_of_mem_filter hc)⟩

/-! ## Tiles -/

@[simp] theorem TilesWf.nil : TilesWf [] := fun _ h => absurd h List.not_mem_nil

/-- A change of every tile that leaves its store alone. -/
theorem TilesWf.map {l : List (TileId × Tile)} (h : TilesWf l) (f : TileId × Tile → TileId × Tile) (hf : ∀ e, (f e).2.store = e.2.store) :
    TilesWf (l.map f) := by
  intro e he
  obtain ⟨x, hx, rfl⟩ := List.mem_map.1 he
  rw [hf]
  exact h x hx

@[simp] theorem Canonical.storeWf {s : State} (h : Canonical s) (t : TileId) : BytesWf (s.tile t).store := by
  unfold State.tile
  cases hfind : s.tiles.find? (fun e => e.1 == t) with
  | none => exact BytesWf.nil
  | some e => exact h.tiles e (List.mem_of_find?_eq_some hfind)

/-! ## Writing a part -/

section
variable {s : State} (h : Canonical s)
include h

@[simp] theorem canonical_setReg (o v : Nat) : Canonical (s.setReg o v) := by simp [State.setReg, h]
@[simp] theorem canonical_setReg64 (o v : Nat) : Canonical (s.setReg64 o v) := by simp [State.setReg64, h]
@[simp] theorem canonical_setRegBits (o hi lo v : Nat) : Canonical (s.setRegBits o hi lo v) := canonical_setReg h ..
@[simp] theorem canonical_setRegBit (o i : Nat) (b : Bool) : Canonical (s.setRegBit o i b) := canonical_setReg h ..

@[simp] theorem canonical_setTile (t : TileId) {x : Tile} (hx : BytesWf x.store) : Canonical (s.setTile t x) := by
  refine ⟨h.regs, h.host, h.stack, ?_⟩
  simp only [State.setTile]
  split
  · intro e he
    obtain ⟨y, hy, rfl⟩ := List.mem_map.1 he
    split
    · exact hx
    · exact h.tiles y hy
  · intro e he
    rcases List.mem_append.1 he with he | he
    · exact h.tiles e he
    · obtain rfl := List.mem_singleton.1 he
      exact hx

@[simp] theorem canonical_modTile (t : TileId) {f : Tile → Tile} (hf : BytesWf (f (s.tile t)).store) : Canonical (s.modTile t f) :=
  canonical_setTile h t hf

/-- A change of a tile that leaves its store alone. -/
theorem canonical_touchTile (t : TileId) {f : Tile → Tile} (hf : ∀ x, (f x).store = x.store := by exact fun _ => rfl) :
    Canonical (s.modTile t f) :=
  canonical_modTile h t (by rw [hf]; exact h.storeWf t)

end

/-! ## Folds and answers -/

/-- The state of a pair that a function has been found to answer. -/
theorem Canonical.of_eq {α : Type} {p : State × α} {t : State} {a : α} (h : Canonical p.1) (heq : p = (t, a)) : Canonical t := by
  rw [heq] at h
  exact h

theorem Canonical.of_eq_snd {α : Type} {p : α × State} {t : State} {a : α} (h : Canonical p.2) (heq : p = (a, t)) : Canonical t := by
  rw [heq] at h
  exact h

/-- A fold over pairs keeps the form of its first part. -/
theorem canonical_foldl_fst {α β : Type} {f : State × β → α → State × β} (hf : ∀ p x, Canonical p.1 → Canonical (f p x).1) (l : List α)
    {p : State × β} (h : Canonical p.1) : Canonical (l.foldl f p).1 :=
  List.foldlRecOn (motive := fun p => Canonical p.1) l f h fun p hp x _ => hf p x hp

@[simp] theorem canonical_ite {s u : State} {c : Prop} [Decidable c] (hs : Canonical s) (hu : Canonical u) : Canonical (if c then s else u) := by
  split
  · exact hs
  · exact hu

@[simp] theorem canonical_ite_fst {α : Type} {p q : State × α} {c : Prop} [Decidable c] (hp : Canonical p.1) (hq : Canonical q.1) :
    Canonical (if c then p else q).1 := by
  split
  · exact hp
  · exact hq

@[simp] theorem canonical_ite_snd {α : Type} {p q : α × State} {c : Prop} [Decidable c] (hp : Canonical p.2) (hq : Canonical q.2) :
    Canonical (if c then p else q).2 := by
  split
  · exact hp
  · exact hq

theorem canonical_foldl {α : Type} {f : State → α → State} (hf : ∀ s x, Canonical s → Canonical (f s x)) (l : List α) {s : State}
    (h : Canonical s) : Canonical (l.foldl f s) :=
  List.foldlRecOn l f h fun s hs x _ => hf s x hs

/-- An answer that goes on goes on in the canonical form. -/
def ResCanonical : Res → Prop
  | .next t => Canonical t
  | _ => True

@[simp] theorem resCanonical_next (t : State) : ResCanonical (.next t) ↔ Canonical t := Iff.rfl

end Sys2Proof.Machine
end

section
/-! The canonical form under counting, raising events and catching (R565, R566, R596 to R598). -/

-- One theorem at a time: the stacks of threads that elaborate side by side count against the check's memory.
set_option Elab.async false

namespace Sys2Proof.Machine

theorem canonical_bumpRaw {s : State} (h : Canonical s) (g n k : Nat) : Canonical (bumpRaw s g n k).1 := by
  unfold bumpRaw
  split
  · exact h
  · dsimp only
    split <;> simp [h]

/-- Counting keeps the form when raising does. -/
theorem canonical_bumpWith {r : Nat → Nat → Nat → Nat → State → State} (hr : ∀ c x a d s, Canonical s → Canonical (r c x a d s)) {s : State}
    (h : Canonical s) (g n k : Nat) : Canonical (bumpWith r s g n k) := by
  have hraw := canonical_bumpRaw h g n k
  unfold bumpWith
  split <;> next heq =>
    rw [heq] at hraw
    first | exact hr _ _ _ _ _ hraw | exact hraw

@[simp] theorem canonical_putEvent {s : State} (h : Canonical s) (code src addr data : Nat) : Canonical (putEvent s code src addr data) := by
  simp [putEvent, h]

@[simp] theorem canonical_countFamily {s : State} (h : Canonical s) (code : Nat) : Canonical (countFamily s code) := by
  simp [countFamily, h]

@[simp] theorem canonical_recordCatch {s : State} (h : Canonical s) (src : Nat) : Canonical (recordCatch s src) := by
  have hlatched : Canonical { s with regs := latchCounters s.regs } := by simp [h]
  exact canonical_setReg64 (canonical_setReg64 (canonical_setReg hlatched ..) ..) ..

theorem canonical_raiseN (d : Nat) : ∀ (code src addr data : Nat) (s : State), Canonical s → Canonical (raiseN d code src addr data s) := by
  induction d with
  | zero => exact fun _ _ _ _ _ h => h
  | succ d ih =>
    intro code src addr data s h
    have hbump {s : State} (h : Canonical s) (g n k : Nat) : Canonical (bumpWith (raiseN d) s g n k) := canonical_bumpWith ih h g n k
    unfold raiseN
    extract_lets s1 p _ s2 _ s3
    have h1 : Canonical s1 := canonical_countFamily h _
    have hp : Canonical p := canonical_putEvent h1 ..
    have h2 : Canonical s2 := canonical_ite h1 (hbump (by simp [hp]) ..)
    have h3 : Canonical s3 := canonical_ite (hbump (canonical_putEvent h2 ..) ..) (hbump (by simp [h2]) ..)
    have hcatch := hbump (canonical_recordCatch h3 2) snapBase 0 1
    exact canonical_ite h3 (canonical_ite (hbump h3 ..) (ih _ _ _ _ _ hcatch))

@[simp] theorem canonical_raise {s : State} (h : Canonical s) (code src addr data : Nat) : Canonical (raise s code src addr data) :=
  canonical_raiseN 6 code src addr data s h

@[simp] theorem canonical_bump {s : State} (h : Canonical s) (g n k : Nat) : Canonical (bump s g n k) := canonical_bumpWith (canonical_raiseN 6) h g n k

@[simp] theorem canonical_takeCatch {s : State} (h : Canonical s) (src : Nat) : Canonical (takeCatch s src) := by
  unfold takeCatch
  exact canonical_ite (canonical_bump h ..) (canonical_raise (canonical_bump (canonical_recordCatch h _) ..) ..)

end Sys2Proof.Machine
end

section
/-! The canonical form is kept: operations that every unit shares. -/

-- One theorem at a time: the stacks of threads that elaborate side by side count against the check's memory.
set_option Elab.async false

namespace Sys2Proof.Machine

/-! ## The shared operations: parts of the state, events, stack memory, tile stores, translation, sync counters -/

section
variable {s : State} (hs : Canonical s)
include hs

@[simp] theorem canonical_emit (o : Out) : Canonical (s.emit o) := by simp [State.emit, hs]
@[simp] theorem canonical_toBallast : Canonical s.toBallast := by simp [State.toBallast, hs]
@[simp] theorem canonical_setCore (c : Nat) (x : Core) : Canonical (s.setCore c x) := by simp [State.setCore, hs]
@[simp] theorem canonical_modCore (c : Nat) (f : Core → Core) : Canonical (s.modCore c f) := by simp [State.modCore, hs]
@[simp] theorem canonical_modStk (n : Nat) (f : Stack → Stack) : Canonical (s.modStk n f) := by simp [State.modStk, hs]
@[simp] theorem canonical_modPort (p : Nat) (f : Port → Port) : Canonical (s.modPort p f) := by simp [State.modPort, hs]
@[simp] theorem canonical_sendRing : Canonical (sendRing s) := by simp [sendRing, hs]

@[simp] theorem canonical_countMgmt (n bytes : Nat) : Canonical (countMgmt s n bytes) := by
  unfold countMgmt
  split <;> simp [hs]

@[simp] theorem canonical_report (code addr data : Nat) : Canonical (report s code addr data) := by
  grind [report, canonical_iff, canonical_emit, canonical_countMgmt, canonical_sendRing]

@[simp] theorem canonical_addSticky (o k : Nat) : Canonical (addSticky s o k) := by simp [addSticky, hs]

@[simp] theorem canonical_countNondet (n : Nat) : Canonical (countNondet s n) := by
  grind [countNondet, canonical_iff, canonical_setReg, canonical_addSticky, canonical_bump]

@[simp] theorem canonical_drawBits : Canonical s.drawBits.2 := by simp [State.drawBits, hs]
@[simp] theorem canonical_drawBool : Canonical s.drawBool.2 := by simp [State.drawBool, hs]
@[simp] theorem canonical_bumpClocks (g n : Nat) : Canonical (bumpClocks s g n) := by simp [bumpClocks, hs]
@[simp] theorem canonical_coreTime (c : Nat) : Canonical (coreTime s c) := by simp [coreTime, hs]

@[simp] theorem canonical_xltFault (agent va st : Nat) : Canonical (xltFault s agent va st) := by
  grind [xltFault, canonical_iff, canonical_setReg, canonical_setReg64, canonical_bump]

@[simp] theorem canonical_decideRetire (pa : Nat) : Canonical (decideRetire s pa) := by
  grind [decideRetire, canonical_iff, canonical_modStk, canonical_raise]

@[simp] theorem canonical_noteError (pa kind : Nat) : Canonical (noteError s pa kind) := by
  grind [noteError, canonical_iff, canonical_modStk, canonical_decideRetire]

@[simp] theorem canonical_markLine (pa : Nat) (k : LineMark) : Canonical (markLine s pa k) := by simp [markLine, hs]
@[simp] theorem canonical_noteLost (pa : Nat) (lost scrub : Bool) : Canonical (noteLost s pa lost scrub) := by simp [noteLost, hs]

@[simp] theorem canonical_lineError (pa : Nat) (uncorrectable scrub : Bool) : Canonical (lineError s pa uncorrectable scrub) := by
  grind [lineError, canonical_iff, canonical_bump, canonical_decideRetire, canonical_markLine, canonical_noteError, canonical_noteLost,
    canonical_raise, canonical_report]

@[simp] theorem canonical_senseLine (pa : Nat) : Canonical (senseLine s pa) := by
  unfold senseLine
  split <;> simp [hs]

@[simp] theorem canonical_senseLines (pa n : Nat) : Canonical (senseLines s pa n) := by
  unfold senseLines
  exact canonical_foldl (fun s x hs => by simp [hs]) _ (by simp [hs])

@[simp] theorem canonical_senseGranule (g : Nat) : Canonical (senseGranule s g) := by simp [senseGranule, hs]

@[simp] theorem canonical_trackWrite (pa : Nat) : Canonical (trackWrite s pa) := by
  grind [trackWrite, canonical_iff, canonical_bump, canonical_senseGranule]

@[simp] theorem canonical_performWrite (pa : Nat) (bs : List Byte) : Canonical (performWrite s pa bs) := by
  unfold performWrite
  extract_lets s1 whole m s2
  have h1 : Canonical s1 := canonical_trackWrite hs pa
  have h2 : Canonical s2 := canonical_ite (by simp [m, h1]) (canonical_senseLine h1 pa)
  exact canonical_bump (by simp [h2]) ..

@[simp] theorem canonical_closeReads (pa : Nat) : Canonical (closeReads s pa) := by simp [closeReads, hs]

@[simp] theorem canonical_writeLine (pa : Nat) (bs : List Byte) : Canonical (writeLine s pa bs) := by
  grind [writeLine, canonical_iff, canonical_bumpClocks, canonical_closeReads, canonical_performWrite]

@[simp] theorem canonical_readLine (pa n : Nat) : Canonical (readLine s pa n).1 := by simp [readLine, hs]

@[simp] theorem canonical_markRowGroup (t : TileId) (line : Nat) : Canonical (markRowGroup s t line) := by
  unfold markRowGroup
  extract_lets bank group d p spent s1 _ s2 s3
  have h1 : Canonical s1 := canonical_touchTile hs t
  have h3 : Canonical s3 := canonical_raise (by simp [s2, h1]) ..
  exact canonical_ite hs (canonical_ite (canonical_report h3 ..) h3)

@[simp] theorem canonical_sectorError (t : TileId) (sector : Nat) (uncorrectable : Bool) : Canonical (sectorError s t sector uncorrectable) := by
  unfold sectorError
  extract_lets line s1 key s2 s3
  have h1 : Canonical s1 := canonical_touchTile hs t
  have h2 : Canonical s2 := canonical_touchTile hs t
  have h3 : Canonical s3 := canonical_bump h2 ..
  exact canonical_ite (canonical_markRowGroup (canonical_bump h1 ..) ..) (canonical_ite (canonical_markRowGroup h3 ..) h3)

@[simp] theorem canonical_senseStore (t : TileId) (off n : Nat) : Canonical (senseStore s t off n) := by
  unfold senseStore
  exact canonical_ite hs (canonical_foldl (fun s e hs => canonical_sectorError hs ..) _ (canonical_touchTile hs t))

@[simp] theorem canonical_readStore (die log off n : Nat) : Canonical (readStore s die log off n).1 := by
  unfold readStore
  split <;> simp [hs]

@[simp] theorem canonical_writeStore (die log off : Nat) (bs : List Byte) : Canonical (writeStore s die log off bs) := by
  unfold writeStore
  split
  · exact hs
  · next t _ => exact canonical_modTile hs t ((hs.storeWf t).write ..)

@[simp] theorem canonical_readLoc (l : Loc) (n : Nat) : Canonical (readLoc s l n).1 := by
  unfold readLoc
  split <;> simp [hs]

@[simp] theorem canonical_writeLoc (l : Loc) (bs : List Byte) : Canonical (writeLoc s l bs) := by
  unfold writeLoc
  split <;> simp [hs]

@[simp] theorem canonical_countMisses (va : Nat) (l : Loc) : Canonical (countMisses s va l) := by
  unfold countMisses
  split <;> simp [hs]

@[simp] theorem canonical_readPieces (agent : Nat) (ps : List (Nat × Nat)) (acc : List Byte) : Canonical (readPieces agent ps s acc).1 := by
  induction ps generalizing s acc with
  | nil => exact hs
  | cons p r ih =>
    rw [readPieces]
    split
    · exact canonical_xltFault hs ..
    · next l _ =>
      have hread := canonical_readLoc (canonical_countMisses hs p.1 l) l p.2
      split
      · next heq => exact hread.of_eq heq
      · next heq => exact ih (hread.of_eq heq) _

@[simp] theorem canonical_readVA (agent va n : Nat) : Canonical (readVA s agent va n).1 := by simp [readVA, hs]

@[simp] theorem canonical_writePieces (agent : Nat) (ps : List (Nat × Nat)) (bs : List Byte) : Canonical (writePieces agent ps s bs).1 := by
  induction ps generalizing s bs with
  | nil => exact hs
  | cons p r ih =>
    rw [writePieces]
    split
    · exact canonical_xltFault hs ..
    · exact ih (canonical_writeLoc (canonical_countMisses hs ..) ..) _

@[simp] theorem canonical_writeVA (agent va : Nat) (bs : List Byte) : Canonical (writeVA s agent va bs).1 := by simp [writeVA, hs]

@[simp] theorem canonical_writeRecord (agent va : Nat) (bs : List Byte) : Canonical (writeRecord s agent va bs).1 := by
  unfold writeRecord
  split <;> simp [hs]

@[simp] theorem canonical_drawBytes (n : Nat) : Canonical (s.drawBytes n).2 := by simp [State.drawBytes, hs]

@[simp] theorem canonical_spoilRange (agent va n : Nat) : Canonical (spoilRange s agent va n) := by
  unfold spoilRange
  exact canonical_foldl (fun s x hs => by simp [hs]) _ (by simp [hs])

@[simp] theorem canonical_tatterRange (agent va n : Nat) : Canonical (tatterRange s agent va n) :=
  canonical_foldl (fun _ _ hs => canonical_ite (canonical_spoilRange (canonical_drawBool hs) ..) (canonical_drawBool hs)) _ hs

@[simp] theorem canonical_storeSync (c v : Nat) : Canonical (storeSync s c v) := by simp [storeSync, hs]

@[simp] theorem canonical_syncCatch (c : Nat) : Canonical (syncCatch s c) := by
  unfold syncCatch
  split <;> simp [hs]

@[simp] theorem canonical_syncAdd (c v : Nat) : Canonical (syncAdd s c v) := by
  grind [syncAdd, canonical_iff, canonical_bump, canonical_raise, canonical_storeSync, canonical_syncCatch]

@[simp] theorem canonical_syncSet (c v : Nat) : Canonical (syncSet s c v) := by simp [syncSet, hs]

@[simp] theorem canonical_addWait (who : Waiter) (c v : Nat) : Canonical (addWait s who c v) := by
  grind [addWait, canonical_iff, canonical_bump, canonical_raise]

@[simp] theorem canonical_dropWait (who : Waiter) : Canonical (dropWait s who) := by simp [dropWait, hs]

end

/-! ## The time unit -/

section
variable {s : State} (hs : Canonical s)
include hs

@[simp] theorem canonical_refreshSource : Canonical (refreshSource s) := by
  grind [refreshSource, canonical_iff, canonical_setRegBits, canonical_bump, canonical_bumpClocks, canonical_raise]

@[simp] theorem canonical_applyTime (t : Nat) : Canonical (applyTime s t) := by
  grind [applyTime, canonical_iff, canonical_setReg, canonical_setRegBit, canonical_bumpClocks]

@[simp] theorem canonical_timeFrom (src : TimeSrc) (t : Nat) : Canonical (timeFrom s src t) := by
  grind [timeFrom, canonical_iff, canonical_applyTime, canonical_refreshSource]

@[simp] theorem canonical_loseSource (src : TimeSrc) : Canonical (loseSource s src) := by simp [loseSource, hs]

@[simp] theorem canonical_tick : Canonical (tick s) := by
  grind [tick, canonical_iff]

end

/-! ## Flag records of a tile -/

section
variable {s : State} (hs : Canonical s)
include hs

@[simp] theorem canonical_noteOutTile (t : TileId) (nan : Option NanInf) (ewl : Option Nat) : Canonical (noteOutTile s t nan ewl) := by
  unfold noteOutTile
  extract_lets x s1 s2
  have h1 : Canonical s1 := by
    cases nan with
    | none => exact hs
    | some k => exact canonical_setReg hs ..
  have h2 : Canonical s2 := by
    cases ewl with
    | none => exact h1
    | some p => exact canonical_setReg h1 ..
  exact canonical_touchTile h2 t

@[simp] theorem canonical_clearFlags (t : TileId) (which : Nat) : Canonical (clearFlags s t which) := by
  unfold clearFlags
  extract_lets s1
  have h1 : Canonical s1 := canonical_ite (canonical_touchTile (canonical_setReg hs ..) t) hs
  exact canonical_ite (canonical_touchTile (canonical_setReg h1 ..) t) h1

end

/-! ## The summary record -/

section
variable {s : State} (hs : Canonical s)
include hs

@[simp] theorem canonical_takeSummary : Canonical (takeSummary s).1 := by simp [takeSummary, hs]

end

end Sys2Proof.Machine
end

section
/-! The canonical form is kept: rigger table, power, sending and rings. -/

-- One theorem at a time: the stacks of threads that elaborate side by side count against the check's memory.
set_option Elab.async false

namespace Sys2Proof.Machine

/-! ## Changes of the rigger table -/

section
variable {s : State} (hs : Canonical s)
include hs

@[simp] theorem canonical_noteEntry (e reason : Nat) : Canonical (noteEntry s e reason) := by simp [noteEntry, hs]
@[simp] theorem canonical_markFailed (u : UnitRef) : Canonical (markFailed s u) := by simp [markFailed, hs]
@[simp] theorem canonical_setTileMap (n : Nat) (l : List (Option Nat)) : Canonical (setTileMap s n l) := by simp [setTileMap, hs]

@[simp] theorem canonical_replaceTile (n p reason : Nat) : Canonical (replaceTile s n p reason) := by
  unfold replaceTile
  extract_lets s1 l
  have h1 : Canonical s1 := canonical_markFailed hs _
  split
  · exact h1
  · split
    · exact canonical_noteEntry (canonical_setTileMap h1 ..) ..
    · exact canonical_foldl (fun s k hs => canonical_noteEntry hs ..) _ (canonical_raise (canonical_setTileMap h1 ..) ..)

@[simp] theorem canonical_dropCore (i : Nat) (spare : Bool) : Canonical (dropCore s i spare) := by simp [dropCore, hs]

@[simp] theorem canonical_replaceCore (p reason : Nat) : Canonical (replaceCore s p reason) := by
  unfold replaceCore
  extract_lets s1
  have h1 : Canonical s1 := canonical_markFailed hs _
  split
  · exact h1
  · split
    · exact canonical_noteEntry (canonical_dropCore (by simp [h1]) ..) ..
    · exact canonical_foldl (fun s k hs => canonical_noteEntry hs ..) _ (canonical_dropCore (by simp [h1]) ..)

@[simp] theorem canonical_mapRowGroup (n p bank group reason : Nat) : Canonical (mapRowGroup s n p bank group reason) := by
  grind [mapRowGroup, canonical_iff, canonical_markFailed, canonical_noteEntry]

@[simp] theorem canonical_replaceRowGroup (n p bank group reason : Nat) : Canonical (replaceRowGroup s n p bank group reason) := by
  unfold replaceRowGroup
  split <;> simp [hs]

@[simp] theorem canonical_setLane (m i : Nat) (l : Option Nat) (reason : Nat) : Canonical (setLane s m i l reason) := by simp [setLane, hs]

@[simp] theorem canonical_replaceWire (b w reason : Nat) : Canonical (replaceWire s b w reason) := by
  grind [replaceWire, canonical_iff, canonical_markFailed, canonical_noteEntry, canonical_raise]

@[simp] theorem canonical_settleRowGroup (u : UnitRef) : Canonical (settleRowGroup s u) := by
  unfold settleRowGroup
  dsimp only
  repeat' split
  all_goals simp [hs]

@[simp] theorem canonical_replaceAwaiting : Canonical (replaceAwaiting s) := by
  unfold replaceAwaiting
  extract_lets own s1
  have h1 : Canonical s1 := canonical_foldl (fun s u hs => canonical_settleRowGroup hs u) _ hs
  refine canonical_foldl (fun s u hs => ?_) _ h1
  split
  · exact canonical_replaceTile hs ..
  · exact hs
  · exact canonical_replaceCore hs ..
  · exact canonical_markFailed hs _

@[simp] theorem canonical_memberFault (u : UnitRef) (st : Nat) : Canonical (memberFault s u st) := by
  grind [memberFault, canonical_iff, canonical_replaceAwaiting, canonical_report]

@[simp] theorem canonical_buildRig : Canonical (buildRig s) := by simp [buildRig, hs]
@[simp] theorem canonical_writeFlash : Canonical (writeFlash s) := by simp [writeFlash, hs]

end

/-! ## The power controller -/

section
variable {s : State} (hs : Canonical s)
include hs

@[simp] theorem canonical_refreshLimit : Canonical (refreshLimit s) := by
  grind [refreshLimit, canonical_iff, canonical_setReg, canonical_raise]

@[simp] theorem canonical_setLimit (o w : Nat) : Canonical (setLimit s o w) := by
  grind [setLimit, canonical_iff, canonical_setReg, canonical_setRegBit, canonical_refreshLimit]

@[simp] theorem canonical_setHostLimit (w : Nat) : Canonical (setHostLimit s w) := by
  grind [setHostLimit, canonical_iff, canonical_setRegBit, canonical_setLimit]

@[simp] theorem canonical_setDemand (d : Demand) : Canonical (setDemand s d) := by simp [setDemand, hs]
@[simp] theorem canonical_learn (ph n m : Nat) : Canonical (learn s ph n m) := by simp [learn, hs]
@[simp] theorem canonical_showCeilings : Canonical (showCeilings s) := by simp [showCeilings, hs]

@[simp] theorem canonical_refreshCapped : Canonical (refreshCapped s) := by
  grind [refreshCapped, canonical_iff, canonical_setRegBit, canonical_raise]

@[simp] theorem canonical_givePace (r : Nat) (release : Bool) (b : PaceBody) : Canonical (givePace s r release b) := by simp [givePace, hs]

@[simp] theorem canonical_releasePace (ph : Nat) : Canonical (releasePace s ph) := by
  unfold releasePace
  exact canonical_foldl (fun s x hs => by simp [hs]) _ (by simp [hs])

@[simp] theorem canonical_sendPace (ph : Nat) : Canonical (sendPace s ph) := by
  unfold sendPace
  extract_lets p t
  have ht : Canonical t := canonical_bump (canonical_foldl (fun s r hs => canonical_givePace hs ..) _ hs) ..
  exact canonical_ite hs (by simp [ht])

@[simp] theorem canonical_refreshPace : Canonical (refreshPace s) := by
  unfold refreshPace
  extract_lets due s1 _ s2
  have h1 : Canonical s1 := canonical_foldl (fun s p hs => canonical_releasePace hs _) _ hs
  exact canonical_foldl (fun s p hs => canonical_sendPace hs _) _ (by simp [s2, h1])

@[simp] theorem canonical_chargeInterval : Canonical (chargeInterval s) := by
  grind [chargeInterval, canonical_iff, canonical_bumpClocks]

@[simp] theorem canonical_allocate (m : PowerMeas) : Canonical (allocate s m) := by
  grind [allocate, canonical_iff, canonical_setReg, canonical_chargeInterval, canonical_refreshCapped, canonical_refreshPace, canonical_showCeilings]

@[simp] theorem canonical_raiseDemands (ms : List PhaseMeas) : Canonical (raiseDemands s ms) := by
  unfold raiseDemands
  exact canonical_foldl (fun s x hs => by simp [hs]) _ (by simp [hs])

@[simp] theorem canonical_selfRefreshAll (b : Bool) : Canonical (selfRefreshAll s b) := by simp [selfRefreshAll, hs]

@[simp] theorem canonical_stopWater (bit ev : Nat) : Canonical (stopWater s bit ev) := by
  grind [stopWater, canonical_iff, canonical_setRegBit, canonical_toBallast, canonical_raise, canonical_report, canonical_selfRefreshAll]

@[simp] theorem canonical_restartWater (bit : Nat) : Canonical (restartWater s bit) := by
  grind [restartWater, canonical_iff, canonical_setRegBit, canonical_raise, canonical_selfRefreshAll]

@[simp] theorem canonical_ageIsland (e : Nat × Nat) : Canonical (ageIsland s e) := by
  grind [ageIsland, canonical_iff, canonical_bump, canonical_raise]

@[simp] theorem canonical_refreshWear (hours eye : Nat) : Canonical (refreshWear s hours eye) := by
  unfold refreshWear
  extract_lets vs hist _ s1 months s2 least ind
  have h2 : Canonical s2 := canonical_foldl (fun s n hs => canonical_setReg hs ..) _ (by simp [s1, hs])
  refine canonical_ite (canonical_setReg (canonical_setReg h2 ..) ..) ?_
  split
  next heq =>
    have h3 := (canonical_drawBits h2).of_eq_snd heq
    split
    next heq =>
      extract_lets s4 s5 warn _ s6
      have h5 : Canonical s5 := canonical_setReg (canonical_setReg ((canonical_drawBits h3).of_eq_snd heq) ..) ..
      have h6 : Canonical s6 := by simp [s6, h5]
      exact canonical_ite (canonical_raise h6 ..) h6

@[simp] theorem canonical_refreshFollowing : Canonical (refreshFollowing s) := by simp [refreshFollowing, hs]

@[simp] theorem canonical_forwardPace (h : PktHdr) (release : Bool) (b : PaceBody) : Canonical (forwardPace s h release b) := by
  unfold forwardPace
  exact canonical_ite hs (canonical_foldl (fun s r hs => canonical_givePace hs ..) _ hs)

@[simp] theorem canonical_dropFollowed (rank : U32) (phase : BitVec 8) : Canonical (dropFollowed s rank phase) := by simp [dropFollowed, hs]

end

/-! ## The sending side of Azmarlink -/

section
variable {s : State} (hs : Canonical s)
include hs

@[simp] theorem canonical_emitPacket (p : Nat) (typ : PktType) (h : PktHdr) (data : List Byte) (poison : List Bool) : Canonical
    (emitPacket s p typ h data poison) := by
  grind [emitPacket, canonical_iff, canonical_emit, canonical_bump]

@[simp] theorem canonical_respond (port : Nat) (typ : PktType) (req : PktHdr) (data : List Byte) (poison : List Bool) : Canonical
    (respond s port typ req data poison) := by
  unfold respond
  split <;> simp [hs]

@[simp] theorem canonical_nackReq (port : Nat) (req : PktHdr) (st : Nat) : Canonical (nackReq s port req st) := by
  grind [nackReq, canonical_iff, canonical_setReg, canonical_setReg64, canonical_respond]

@[simp] theorem canonical_setTx (x : TxSpace) : Canonical (setTx s x) := by simp [setTx, hs]

@[simp] theorem canonical_transmitReq (x : TxSpace) (r : TxReq) (p : Nat) (retry : Bool) : Canonical (transmitReq s x r p retry) := by
  simp [transmitReq, hs]

@[simp] theorem canonical_launchReq (r : TxReq) (p : Nat) : Canonical (launchReq s r p) := by simp [launchReq, hs]

@[simp] theorem canonical_sendReq (r : TxReq) : Canonical (sendReq s r) := by
  grind [sendReq, canonical_iff, canonical_launchReq, canonical_setTx]

@[simp] theorem canonical_resendReq (dst : U16) (fd : Nat) (seq : U32) : Canonical (resendReq s dst fd seq) := by
  grind [resendReq, canonical_iff, canonical_transmitReq]

@[simp] theorem canonical_releaseDrain (x : DrainState) : Canonical (releaseDrain s x) := by
  unfold releaseDrain
  exact canonical_foldl (fun s x hs => by simp [hs]) _ (by simp [hs])

@[simp] theorem canonical_deadPath (dst : U16) (p : Nat) : Canonical (deadPath s dst p) := by
  unfold deadPath
  extract_lets sent s1 s2 mine held drains _ s3
  have h2 : Canonical s2 := canonical_foldl (fun s r hs => by
    split
    · exact hs
    · exact canonical_bump (canonical_resendReq hs ..) ..) _ (canonical_raise hs ..)
  exact canonical_foldl (fun s r hs => canonical_sendReq hs r) _ (by simp [s3, h2])

@[simp] theorem canonical_sendDrain (dst : U16) (p : Nat) (forPath : Bool) : Canonical (sendDrain s dst p forPath) := by
  grind [sendDrain, canonical_iff, canonical_emitPacket, canonical_setTx]

@[simp] theorem canonical_drainPaths (dst : U16) (old : List (Option Nat)) : Canonical (drainPaths s dst old) := by
  unfold drainPaths
  extract_lets new
  refine canonical_foldl (fun s p hs => ?_) _ hs
  extract_lets slots draining s1
  have h1 : Canonical s1 := canonical_sendDrain hs ..
  exact canonical_ite (canonical_ite (canonical_deadPath hs ..) hs) (canonical_ite (canonical_deadPath hs ..) (by simp [h1]))

theorem canonical_pathChange (f : State → State) (hf : ∀ s, Canonical s → Canonical (f s)) : Canonical (pathChange s f) :=
  canonical_foldl (fun _ _ hs => canonical_drainPaths hs ..) _ (hf s hs)

@[simp] theorem canonical_retireReq (x : TxSpace) (r : TxReq) : Canonical (retireReq s x r) := by simp [retireReq, hs]

@[simp] theorem canonical_sendColl (r : TxReq) (chunk : Nat) : Canonical (sendColl s r chunk).1 := by
  grind [sendColl, canonical_iff, canonical_setTx, canonical_transmitReq]

@[simp] theorem canonical_sendQueuedColl (dst : U16) (fd : Nat) : Canonical (sendQueuedColl s dst fd) := by
  grind [sendQueuedColl, canonical_iff, canonical_transmitReq]

end

/-! ## Rings, entries and completions -/

section
variable {s : State} (hs : Canonical s)
include hs

@[simp] theorem canonical_setSq (i : Nat) (q : SubRing) : Canonical (setSq s i q) := by simp [setSq, hs]
@[simp] theorem canonical_setCq (j : Nat) (q : CompRing) : Canonical (setCq s j q) := by simp [setCq, hs]
@[simp] theorem canonical_showSq (i : Nat) : Canonical (showSq s i) := by simp [showSq, hs]

@[simp] theorem canonical_stopSq (i st : Nat) : Canonical (stopSq s i st) := by
  grind [stopSq, canonical_iff, canonical_raise, canonical_setSq, canonical_showSq]

@[simp] theorem canonical_stopCq (j : Nat) : Canonical (stopCq s j) := by simp [stopCq, hs]
@[simp] theorem canonical_advanceCq (j : Nat) : Canonical (advanceCq s j) := by simp [advanceCq, hs]

@[simp] theorem canonical_writeCompletion (j : Nat) (x : Completion) : Canonical (writeCompletion s j x) := by
  unfold writeCompletion
  extract_lets q n k v1 a
  split
  · exact canonical_advanceCq (by simp [hs]) j
  · have hput := canonical_writeRecord hs agentHost (q.base.toNat + 32 * (k % 2 ^ n)) (completionBytes false x (phaseBit k n))
    split
    · next heq =>
      have h1 := canonical_advanceCq (hput.of_eq heq) j
      exact canonical_ite h1 (canonical_syncAdd h1 ..)
    · next heq => exact canonical_stopCq (canonical_setCq (hput.of_eq heq) ..) j

@[simp] theorem canonical_post (x : Completion) : Canonical (post s x) := by
  grind [post, canonical_iff, canonical_bump, canonical_setCq, canonical_writeCompletion]

@[simp] theorem canonical_drainHeld (fuel : Nat) (j : Nat) : Canonical (drainHeld fuel s j) := by
  induction fuel generalizing s with
  | zero => exact hs
  | succ f ih =>
    unfold drainHeld
    extract_lets q
    split
    · exact hs
    · exact canonical_ite (ih (canonical_writeCompletion (canonical_setCq hs ..) ..)) hs

@[simp] theorem canonical_closeRings : Canonical (closeRings s) := by simp [closeRings, hs]

@[simp] theorem canonical_tryArrive : Canonical (tryArrive s) := by
  grind [tryArrive, canonical_iff, canonical_emit, canonical_setReg64]

@[simp] theorem canonical_finishOne (c : CmdCtx) (st value : Nat) : Canonical (finishOne s c st value) := by
  grind [finishOne, canonical_iff, canonical_closeRings, canonical_post, canonical_tryArrive]

@[simp] theorem canonical_applySync (setOp : Bool) (c v : Nat) : Canonical (applySync s setOp c v) := by simp [applySync, hs]

@[simp] theorem canonical_actSyncOps (fuel : Nat) : Canonical (actSyncOps fuel s) := by
  induction fuel generalizing s with
  | zero => exact hs
  | succ f ih =>
    unfold actSyncOps
    split
    · exact hs
    · extract_lets _ s1
      have h1 : Canonical s1 := by simp [s1, hs]
      split
      · exact ih (canonical_finishOne (canonical_applySync h1 ..) ..)
      · exact ih (canonical_sendReq h1 _)

@[simp] theorem canonical_finish (c : CmdCtx) (st value : Nat) : Canonical (finish s c st value) := by simp [finish, hs]

@[simp] theorem canonical_refuseBad (fuel : Nat) (i : Nat) : Canonical (refuseBad fuel s i) := by
  induction fuel generalizing s with
  | zero => exact hs
  | succ f ih =>
    unfold refuseBad
    extract_lets q
    split
    · exact hs
    · exact canonical_ite hs (ih (canonical_finish (canonical_bump (canonical_setSq hs ..) ..) ..))

@[simp] theorem canonical_accept (c : CmdCtx) (op : Nat) : Canonical (accept s c op) := by
  grind [accept, canonical_iff, canonical_bump, canonical_setSq]

@[simp] theorem canonical_markStarted (c : CmdCtx) : Canonical (markStarted s c) := by simp [markStarted, hs]

@[simp] theorem canonical_readEntry (i k : Nat) : Canonical (readEntry s i k).1 := by
  grind [readEntry, canonical_iff, canonical_readVA]

@[simp] theorem canonical_fetchEntries (fuel : Nat) (i : Nat) : Canonical (fetchEntries fuel s i) := by
  induction fuel generalizing s with
  | zero => exact hs
  | succ f ih =>
    unfold fetchEntries
    extract_lets q
    refine canonical_ite hs ?_
    have hread := canonical_readEntry hs i q.head.toNat
    split
    · next heq => exact canonical_stopSq (hread.of_eq heq) ..
    · next heq => exact ih (canonical_setSq (hread.of_eq heq) ..)

@[simp] theorem canonical_newTail (i : Nat) (tail : U32) : Canonical (newTail s i tail) := by
  grind [newTail, canonical_iff, canonical_fetchEntries, canonical_refuseBad, canonical_setSq, canonical_stopSq]

@[simp] theorem canonical_resumeEvents : Canonical (resumeEvents s) := by
  grind [resumeEvents, canonical_iff, canonical_bump, canonical_putEvent]

@[simp] theorem canonical_applyHeads : Canonical (applyHeads s) := by
  unfold applyHeads
  extract_lets s1
  have h1 : Canonical s1 := canonical_foldl (fun s j hs => canonical_ite (canonical_setCq hs ..) hs) _ hs
  exact canonical_resumeEvents (canonical_ite (by simp [h1]) h1)

@[simp] theorem canonical_readDoorbells : Canonical (readDoorbells s) := by
  unfold readDoorbells
  extract_lets s1 _ s2 s3
  have h1 : Canonical s1 := canonical_bump hs ..
  have h3 : Canonical s3 := canonical_applyHeads (canonical_ite (by simp [h1]) h1)
  exact canonical_foldl (fun s i hs => canonical_ite (canonical_newTail hs ..) hs) _ h3

@[simp] theorem canonical_writeIdle (idle : Bool) : Canonical (writeIdle s idle) := by simp [writeIdle, hs]

end

end Sys2Proof.Machine
end

section
/-! The canonical form is kept: registers, stacks, power-up and the host. -/

-- One theorem at a time: the stacks of threads that elaborate side by side count against the check's memory.
set_option Elab.async false

namespace Sys2Proof.Machine

/-! ## Banks and update packages -/

section
variable {s : State} (hs : Canonical s)
include hs

@[simp] theorem canonical_eraseOther : Canonical (eraseOther s) := by simp [eraseOther, hs]
@[simp] theorem canonical_commitOther (l : List Image) : Canonical (commitOther s l) := by simp [commitOther, hs]

end

/-! ## BAR0 accesses -/

section
variable {s : State} (hs : Canonical s)
include hs

@[simp] theorem canonical_badAccess (o : Nat) (write : Bool) : Canonical (badAccess s o write) := by simp [badAccess, hs]

@[simp] theorem canonical_startSq (i : Nat) : Canonical (startSq s i) := by
  grind [startSq, canonical_iff, canonical_setSq, canonical_showSq, canonical_stopSq]

@[simp] theorem canonical_stopFetch (i : Nat) : Canonical (stopFetch s i) := by
  grind [stopFetch, canonical_iff, canonical_setRegBit, canonical_setSq, canonical_showSq]

@[simp] theorem canonical_writeSqCfg (i v : Nat) : Canonical (writeSqCfg s i v) := by
  grind [writeSqCfg, canonical_iff, canonical_setReg, canonical_startSq, canonical_stopFetch]

@[simp] theorem canonical_startCq (j : Nat) : Canonical (startCq s j) := by
  grind [startCq, canonical_iff, canonical_drainHeld, canonical_raise, canonical_setCq]

@[simp] theorem canonical_writeCqCfg (j v : Nat) : Canonical (writeCqCfg s j v) := by
  grind [writeCqCfg, canonical_iff, canonical_setReg, canonical_setRegBit, canonical_setCq, canonical_startCq]

@[simp] theorem canonical_startEvq : Canonical (startEvq s) := by
  grind [startEvq, canonical_iff, canonical_raise, canonical_resumeEvents]

@[simp] theorem canonical_writeEvqCfg (v : Nat) : Canonical (writeEvqCfg s v) := by
  grind [writeEvqCfg, canonical_iff, canonical_setReg, canonical_setRegBit, canonical_startEvq]

@[simp] theorem canonical_sendVector (v : Nat) : Canonical (sendVector s v) := by
  unfold sendVector
  split <;> simp [hs]

@[simp] theorem canonical_writeVectorCtl (v x : Nat) : Canonical (writeVectorCtl s v x) := by
  grind [writeVectorCtl, canonical_iff, canonical_setReg, canonical_setRegBit, canonical_sendVector]

@[simp] theorem canonical_clearCounters (g n v : Nat) : Canonical (clearCounters s g n v) :=
  canonical_foldl (fun _ _ hs => canonical_ite (canonical_setRegBit (canonical_setReg64 hs ..) ..) hs) _ hs

@[simp] theorem canonical_summaryGo : Canonical (summaryGo s) := by
  unfold summaryGo
  extract_lets a o
  refine canonical_ite hs (canonical_ite (canonical_setReg hs ..) ?_)
  have hsum := canonical_takeSummary hs
  split
  next heq => exact canonical_setReg (by simp [hsum.of_eq heq]) ..

@[simp] theorem canonical_recoveryGo : Canonical (recoveryGo s) := by
  grind [recoveryGo, canonical_iff, canonical_setReg, canonical_commitOther, canonical_eraseOther, canonical_raise]

@[simp] theorem canonical_writeThermMode (v : Nat) : Canonical (writeThermMode s v) := by
  unfold writeThermMode
  exact canonical_foldl (fun s x hs => by simp [hs]) _ (by simp [hs])

@[simp] theorem canonical_writePortCtl (p v : Nat) : Canonical (writePortCtl s p v) := by
  unfold writePortCtl
  extract_lets s1
  have h1 : Canonical s1 := canonical_setReg hs ..
  exact canonical_ite (canonical_pathChange h1 _ fun _ hs => canonical_modPort hs ..) (canonical_modPort h1 ..)

@[simp] theorem canonical_writeTimCtrl (v : Nat) : Canonical (writeTimCtrl s v) := by simp [writeTimCtrl, hs]
@[simp] theorem canonical_writeSetupLock (v : Nat) : Canonical (writeSetupLock s v) := by simp [writeSetupLock, hs]

@[simp] theorem canonical_actWo (b : Blk) (r v : Nat) : Canonical (actWo s b r v) := by
  grind [actWo, canonical_iff, canonical_clearCounters, canonical_clearFlags, canonical_recoveryGo, canonical_summaryGo]

@[simp] theorem canonical_writeHif (r v : Nat) (d : RegDef) : Canonical (writeHif s r v d) := by
  grind [writeHif, canonical_iff, canonical_setReg, canonical_writeCqCfg, canonical_writeEvqCfg, canonical_writeSqCfg, canonical_writeVectorCtl]

@[simp] theorem canonical_writePhase (o v : Nat) : Canonical (writePhase s o v) := by simp [writePhase, hs]

@[simp] theorem canonical_writePlain (b : Blk) (r v : Nat) (d : RegDef) : Canonical (writePlain s b r v d) := by
  grind [writePlain, canonical_iff, canonical_setReg, canonical_setHostLimit, canonical_writeHif, canonical_writePhase, canonical_writePortCtl,
    canonical_writeThermMode, canonical_writeTimCtrl]

@[simp] theorem canonical_refuseEnable (o v : Nat) : Canonical (refuseEnable s o v) := by
  unfold refuseEnable
  dsimp only
  repeat' split
  all_goals simp [hs]

@[simp] theorem canonical_hostWrite (o v : Nat) : Canonical (hostWrite s o v) := by
  grind [hostWrite, canonical_iff, canonical_actWo, canonical_badAccess, canonical_refuseEnable, canonical_writePlain, canonical_writeSetupLock]

@[simp] theorem canonical_hostRead (o : Nat) : Canonical (hostRead s o).1 := by
  grind [hostRead, canonical_iff, canonical_drawBits, canonical_badAccess]

@[simp] theorem canonical_readOut (o : Nat) : Canonical (readOut s o) := by simp [readOut, hs]

end

/-! ## The stack controllers -/

section
variable {s : State} (hs : Canonical s)
include hs

@[simp] theorem canonical_retireBlock (n b : Nat) : Canonical (retireBlock s n b) := by
  unfold retireBlock
  extract_lets s1 s2 s3
  have h2 : Canonical s2 := canonical_modStk (canonical_senseLines hs ..) ..
  have h3 : Canonical s3 := canonical_modStk h2 ..
  exact canonical_ite (canonical_raise (canonical_modStk h2 ..) ..) (canonical_raise (canonical_bump (by simp [h3]) ..) ..)

@[simp] theorem canonical_repairRow (n r : Nat) : Canonical (repairRow s n r) := by
  unfold repairRow
  extract_lets s1 s2
  have h1 : Canonical s1 := canonical_modStk hs ..
  have h2 : Canonical s2 := canonical_modStk h1 ..
  exact canonical_ite h1 (canonical_raise (by simp [h2]) ..)

@[simp] theorem canonical_repairRows : Canonical (repairRows s) :=
  canonical_foldl (fun _ n hs => canonical_foldl (fun _ r hs => canonical_repairRow hs n r) _ hs) _ hs

@[simp] theorem canonical_withdrawFrames : Canonical (withdrawFrames s) :=
  canonical_foldl (fun s n hs => canonical_modStk (canonical_foldl (fun s b hs => canonical_ite hs (canonical_raise (by simp [hs]) ..)) _ hs) ..) _ hs

@[simp] theorem canonical_meterStack (n c thr : Nat) : Canonical (meterStack s n c thr) := by
  grind [meterStack, canonical_iff, canonical_modStk, canonical_bumpClocks, canonical_raise]

@[simp] theorem canonical_hotStack (n c : Nat) : Canonical (hotStack s n c) := by
  grind [hotStack, canonical_iff, canonical_modStk, canonical_raise]

@[simp] theorem canonical_applyThermMode : Canonical (applyThermMode s) := by
  unfold applyThermMode
  refine canonical_foldl (fun s n hs => ?_) _ hs
  extract_lets on t s1
  have h1 : Canonical s1 := canonical_modStk hs ..
  exact canonical_ite h1 (canonical_meterStack h1 ..)

end

/-! ## Power-up, resets, pins, bridges and heartbeats -/

section
variable {s : State} (hs : Canonical s)
include hs

@[simp] theorem canonical_coldStart (env : PowerUpEnv) : Canonical (coldStart s env) := by
  unfold coldStart
  simp [State.reset, Mem.reset, hs]

@[simp] theorem canonical_runBank (b : Nat) (fallback : Bool) : Canonical (runBank s b fallback) := by
  unfold runBank
  split <;> simp [hs]

@[simp] theorem canonical_blowFuses : Canonical (blowFuses s) := by simp [blowFuses, hs]

@[simp] theorem canonical_replaceLane (m l reason : Nat) : Canonical (replaceLane s m l reason) := by
  grind [replaceLane, canonical_iff, canonical_modPort, canonical_markFailed, canonical_raise, canonical_setLane]

@[simp] theorem canonical_selfTestFailure (u : UnitRef) : Canonical (selfTestFailure s u) := by
  unfold selfTestFailure
  dsimp only
  repeat' split
  all_goals simp [hs]

@[simp] theorem canonical_bringUpStacks (failed : List Nat) : Canonical (bringUpStacks s failed) := by
  unfold bringUpStacks
  extract_lets s1 m
  have h1 : Canonical s1 := canonical_foldl (fun s n hs => canonical_modStk hs ..) _ hs
  exact canonical_repairRows (by simp [m, h1])

@[simp] theorem canonical_applyEntries (l : List (Nat × U32)) : Canonical (applyEntries s l) := by
  unfold applyEntries
  exact canonical_foldl (fun s x hs => by simp [hs]) _ (by simp [hs])

@[simp] theorem canonical_bootConfig : Canonical (bootConfig s) := by
  grind [bootConfig, canonical_iff, canonical_setRegBit, canonical_applyEntries, canonical_raise]

@[simp] theorem canonical_bootFaults (env : PowerUpEnv) : Canonical (bootFaults s env) := by simp [bootFaults, hs]

@[simp] theorem canonical_bootFirmware (env : PowerUpEnv) (b : Nat) (fallback : Bool) : Canonical (bootFirmware s env b fallback) := by
  unfold bootFirmware
  extract_lets s1 s2 _ s3 s4 s5
  have h1 : Canonical s1 := canonical_runBank hs ..
  have h2 : Canonical s2 := canonical_ite (canonical_raise h1 ..) h1
  have h3 : Canonical s3 := by simp [s3, h2]
  have h4 : Canonical s4 := canonical_foldl (fun s u hs => canonical_selfTestFailure hs u) _ (canonical_buildRig h3)
  exact canonical_bootFaults (canonical_bootConfig (canonical_blowFuses (canonical_bringUpStacks h4 _))) env

@[simp] theorem canonical_holdAtBoot : Canonical (holdAtBoot s) := by
  grind [holdAtBoot, canonical_iff, canonical_setRegBit, canonical_bump, canonical_stopWater]

@[simp] theorem canonical_hostReset : Canonical (hostReset s) := by
  unfold hostReset
  exact canonical_raise (by simp [hs]) ..

@[simp] theorem canonical_missingCable (c : Nat) : Canonical (missingCable s c) :=
  canonical_foldl (fun _ _ hs => canonical_raise (canonical_pathChange hs _ fun _ hs => canonical_modPort hs ..) ..) _ hs

end

/-! ## The host's apertures -/

section
variable {s : State} (hs : Canonical s)
include hs

@[simp] theorem canonical_bar2Pieces (ps : List (Nat × Nat)) (bs : List Byte) (eps : List Bool) : Canonical (bar2Pieces ps s bs eps).1 := by
  induction ps generalizing s bs eps with
  | nil => exact hs
  | cons p r ih =>
    rw [bar2Pieces]
    refine canonical_ite_fst (ih hs _ _) ?_
    have hread := canonical_readLine hs p.1 p.2
    split
    · next heq => exact ih (hread.of_eq heq) _ _
    · next heq => exact ih (hread.of_eq heq) _ _

@[simp] theorem canonical_bar2Stores (ps : List (Nat × Nat)) (bs : List Byte) : Canonical (bar2Stores ps s bs) := by
  induction ps generalizing s bs with
  | nil => exact hs
  | cons p r ih => exact ih (canonical_ite (canonical_writeLine hs ..) hs) _

end

/-! ## Mapping and COPY -/

section
variable {s : State} (hs : Canonical s)
include hs

@[simp] theorem canonical_writeOut (c : CmdCtx) (agent a : Nat) (bs : List Byte) : Canonical (writeOut s c agent a bs).1 := by
  unfold writeOut
  split <;> simp [hs]

@[simp] theorem canonical_mapPage (page frame attr : Nat) : Canonical (mapPage s page frame attr) := by simp [mapPage, hs]

@[simp] theorem canonical_unmapPage (page : Nat) : Canonical (unmapPage s page) := by
  unfold unmapPage
  split <;> simp [hs]

@[simp] theorem canonical_copyLines (fuel : Nat) (k : CopyState) : Canonical (copyLines fuel s k).1 := by
  induction fuel generalizing s k with
  | zero => exact hs
  | succ f ih =>
    unfold copyLines
    extract_lets n
    refine canonical_ite_fst hs ?_
    have hread := canonical_readVA hs agentHost k.src.toNat n
    split
    · next heq =>
      have hwrite := fun bs => canonical_writeVA (hread.of_eq heq) agentHost k.dst.toNat bs
      split
      · next heq => exact ih ((hwrite _).of_eq heq) _
      · next heq => exact (hwrite _).of_eq heq
    · next heq => exact hread.of_eq heq

@[simp] theorem canonical_runCopy (k : CopyState) : Canonical (runCopy s k).1 := by simp [runCopy, hs]

end

/-! ## Audit and owner configuration -/

section
variable {s : State} (hs : Canonical s)
include hs

@[simp] theorem canonical_auditDigestOf (byValue : Bool) (va n : Nat) : Canonical (auditDigestOf s byValue va n).1 := by
  grind [auditDigestOf, canonical_iff, canonical_readVA]

@[simp] theorem canonical_runAudit (k : AuditState) : Canonical (runAudit s k).1 := by
  unfold runAudit
  have hres := canonical_auditDigestOf hs false k.resV.toNat k.resB.toNat
  split
  · next heq =>
    have hw := canonical_auditDigestOf (hres.of_eq heq) (auditWeightsByValue k) k.wV.toNat k.wB.toNat
    split
    · next heq =>
      have hi := canonical_auditDigestOf (hw.of_eq heq) (auditInputByValue k) k.iV.toNat k.iB.toNat
      split
      · next heq =>
        have hout := fun bs => canonical_writeRecord (hi.of_eq heq) agentAudit k.out.toNat bs
        extract_lets
        split
        · next heq => exact canonical_ite (canonical_bump ((hout _).of_eq heq) ..) ((hout _).of_eq heq)
        · next heq => exact (hout _).of_eq heq
      · next heq => exact hi.of_eq heq
    · next heq => exact hw.of_eq heq
  · next heq => exact hres.of_eq heq

@[simp] theorem canonical_refuseOwner (c : CmdCtx) (st : Nat) : Canonical (refuseOwner s c st) := by simp [refuseOwner, hs]
@[simp] theorem canonical_installOwner (key : List Byte) (policy seq : Nat) : Canonical (installOwner s key policy seq) := by simp [installOwner, hs]

end

end Sys2Proof.Machine
end

section
/-! The canonical form is kept: tiles and cores. -/

-- One theorem at a time: the stacks of threads that elaborate side by side count against the check's memory.
set_option Elab.async false

namespace Sys2Proof.Machine

/-! ## The sequencer of a tile -/

section
variable {s : State} (hs : Canonical s)
include hs

@[simp] theorem canonical_endLaunch (t : TileId) (l : TileLaunch) (st : Nat) : Canonical (endLaunch s t l st) := by
  grind [endLaunch, canonical_iff, canonical_finish]

@[simp] theorem canonical_endRunning (t : TileId) (st : Nat) : Canonical (endRunning s t st) := by
  unfold endRunning
  split
  · exact hs
  · exact canonical_endLaunch (canonical_touchTile hs t) ..

@[simp] theorem canonical_endWaiting (t : TileId) (st : Nat) : Canonical (endWaiting s t st) := by
  unfold endWaiting
  exact canonical_foldl (fun s x hs => by simp [hs]) _ (by simp [hs])

@[simp] theorem canonical_settleStop (t : TileId) : Canonical (settleStop s t) := by
  unfold settleStop
  extract_lets x
  split
  · exact hs
  · extract_lets s1 s2
    have h2 : Canonical s2 := canonical_touchTile (canonical_setReg64 (canonical_setReg hs ..) ..) t
    exact canonical_ite hs (canonical_endRunning (canonical_raise h2 ..) ..)

@[simp] theorem canonical_stopScript (t : TileId) (st : Nat) (pc : U64) : Canonical (stopScript s t st pc) :=
  canonical_settleStop (canonical_touchTile hs t) t

@[simp] theorem canonical_refuseHere (t : TileId) (st : Nat) : Canonical (refuseHere s t st) := by simp [refuseHere, hs]

@[simp] theorem canonical_tileFault (t : TileId) : Canonical (tileFault s t) := by
  unfold tileFault
  extract_lets c s1 s2
  have h1 : Canonical s1 := canonical_touchTile hs t
  have h2 : Canonical s2 := canonical_memberFault (canonical_raise h1 ..) ..
  exact canonical_endWaiting (canonical_stopScript h2 ..) ..

@[simp] theorem canonical_advanceTo (t : TileId) (pc : U64) : Canonical (advanceTo s t pc) := by simp [advanceTo, hs]
@[simp] theorem canonical_advance (t : TileId) : Canonical (advance s t) := by simp [advance, hs]

@[simp] theorem canonical_fetchScript (t : TileId) : Canonical (fetchScript s t).1 := by
  grind [fetchScript, canonical_iff, canonical_bumpClocks, canonical_readStore, canonical_senseLine, canonical_xltFault]

@[simp] theorem canonical_parityCheck (t : TileId) : Canonical (parityCheck s t) := by simp [parityCheck, hs]

@[simp] theorem canonical_enqueue (t : TileId) (u : TileUnit) (reads writes : List Span) (d : Option DmaXfer) : Canonical
    (enqueue s t u reads writes d) := by
  simp [enqueue, hs]

@[simp] theorem canonical_retireEntry (t : TileId) (id : Nat) : Canonical (retireEntry s t id) := canonical_settleStop (canonical_touchTile hs t) t

@[simp] theorem canonical_consume (t : TileId) (l : List Span) : Canonical (consume s t l).1 := by
  unfold consume
  extract_lets s1
  have h1 : Canonical s1 := canonical_foldl (fun s a hs => canonical_senseStore hs ..) _ hs
  split
  · exact h1
  · dsimp only
    exact canonical_touchTile (canonical_setReg h1 ..) t

@[simp] theorem canonical_tileWriteAll (t : TileId) (ws : List (Nat × List Byte)) : Canonical (tileWriteAll s t ws) :=
  canonical_modTile hs t (List.foldlRecOn ws _ (hs.storeWf t) fun _ hm w _ => hm.write w.1 w.2)

@[simp] theorem canonical_flagStop (t : TileId) (nan ewl : Bool) : Canonical (flagStop s t nan ewl) := by simp [flagStop, hs]

end

/-! ## DMA of a tile -/

section
variable {s : State} (hs : Canonical s)
include hs

@[simp] theorem canonical_setDma (t : TileId) (id : Nat) (d : DmaXfer) : Canonical (setDma s t id d) := by simp [setDma, hs]

@[simp] theorem canonical_poisonLines (t : TileId) (ts n src : Nat) : Canonical (poisonLines s t ts n src) := by
  unfold poisonLines
  extract_lets lines s1
  have h1 : Canonical s1 := canonical_ite (canonical_setReg64 hs ..) hs
  exact canonical_touchTile h1 t

@[simp] theorem canonical_landPiece (t : TileId) (ts : Nat) (bs : List Byte) : Canonical (landPiece s t ts bs) :=
  canonical_modTile hs t ((hs.storeWf t).write ..)

@[simp] theorem canonical_movePiece (t : TileId) (d : DmaXfer) (p : Nat × Nat × Nat) : Canonical (movePiece s t d p).1 := by
  grind [movePiece, canonical_iff, canonical_countMisses, canonical_landPiece, canonical_poisonLines, canonical_readLoc, canonical_writeLoc,
    canonical_xltFault]

@[simp] theorem canonical_straggle (t : TileId) (d : DmaXfer) (known : List (Nat × Bool)) (ps : List (Nat × Nat × Nat)) : Canonical
    (straggle s t d known ps).1 := by
  induction ps generalizing s d known with
  | nil => exact hs
  | cons p r ih =>
    unfold straggle
    extract_lets line c known'
    have hc : Canonical c.2 := by
      simp only [c]
      split
      · exact hs
      · exact canonical_drawBool hs
    refine canonical_ite_fst ?_ (ih hc _ _)
    have hmove := canonical_movePiece hc t d p
    split
    · next heq => exact ih (hmove.of_eq heq) _ _
    · exact ih hc _ _

@[simp] theorem canonical_straggleFrom (t : TileId) (d : DmaXfer) (p : Nat × Nat × Nat) (r : List (Nat × Nat × Nat)) : Canonical
    (straggleFrom s t d p r).1 := by
  simp [straggleFrom, hs]

@[simp] theorem canonical_movePieces (ps : List (Nat × Nat × Nat)) (t : TileId) (d : DmaXfer) : Canonical (movePieces ps s t d).1 := by
  induction ps generalizing s d with
  | nil => exact hs
  | cons p r ih =>
    unfold movePieces
    refine canonical_ite_fst hs ?_
    have hmove := canonical_movePiece hs t d p
    split
    · next heq => exact ih (hmove.of_eq heq) _
    · next heq => exact canonical_straggleFrom (hmove.of_eq heq) ..

@[simp] theorem canonical_settleLines (t : TileId) (d : DmaXfer) : Canonical (settleLines s t d) := by
  unfold settleLines
  split <;> simp [hs]

@[simp] theorem canonical_endDma (t : TileId) (id : Nat) (d : DmaXfer) : Canonical (endDma s t id d) := by simp [endDma, hs]
@[simp] theorem canonical_failDma (t : TileId) (id st : Nat) (pc : U64) (d : DmaXfer) : Canonical (failDma s t id st pc d) := by simp [failDma, hs]

@[simp] theorem canonical_runDma (t : TileId) (id : Nat) : Canonical (runDma s t id) := by
  grind [runDma, canonical_iff, canonical_bumpClocks, canonical_failDma, canonical_movePieces, canonical_setDma]

@[simp] theorem canonical_sendPacket (t : TileId) (id i : Nat) (dst : U16) (d : DmaXfer) (p : Nat × Nat × Nat) : Canonical
    (sendPacket s t id i dst d p) := by
  unfold sendPacket
  split <;> simp [hs]

@[simp] theorem canonical_startRemote (t : TileId) (id : Nat) (dst : U16) (d : DmaXfer) : Canonical (startRemote s t id dst d) := by
  unfold startRemote
  extract_lets s1 fence
  have h1 : Canonical s1 := canonical_foldl (fun s e hs => canonical_sendPacket hs ..) _ (canonical_setDma hs ..)
  split
  · exact canonical_setDma h1 ..
  · exact h1

@[simp] theorem canonical_endIfStopping (t : TileId) (id : Nat) : Canonical (endIfStopping s t id) := by
  unfold endIfStopping
  split <;> simp [hs]

@[simp] theorem canonical_answerPacket (t : TileId) (id : Nat) (d : DmaXfer) : Canonical (answerPacket s t id d) := by simp [answerPacket, hs]

@[simp] theorem canonical_landPacket (t : TileId) (id i : Nat) (data : List Byte) (poison : List Bool) : Canonical (landPacket s t id i data poison)
    := by
  unfold landPacket
  split
  · exact hs
  · split
    · exact hs
    · extract_lets off s1 d bad r
      have h1 : Canonical s1 := canonical_landPiece (canonical_bumpClocks hs ..) ..
      have hr : Canonical r.1 := canonical_foldl_fst (fun a q ha => canonical_poisonLines ha ..) _ h1
      exact canonical_answerPacket hr ..

@[simp] theorem canonical_dropQueued (t : TileId) (id i : Nat) : Canonical (dropQueued s t id i) := by
  grind [dropQueued, canonical_iff, canonical_setDma]

@[simp] theorem canonical_refusePacket (t : TileId) (id i st : Nat) : Canonical (refusePacket s t id i st) := by
  grind [refusePacket, canonical_iff, canonical_dropQueued, canonical_endIfStopping, canonical_setDma, canonical_stopScript]

theorem canonical_withDescriptor (t : TileId) (u : TileUnit) (w : TWord) (f : State → Span → List Byte → State)
    (hf : ∀ s sp bs, Canonical s → Canonical (f s sp bs)) : Canonical (withDescriptor s t u w f) := by
  unfold withDescriptor
  extract_lets x a sp
  refine canonical_ite (canonical_refuseHere hs ..) (canonical_ite (canonical_refuseHere hs ..) (canonical_ite hs ?_))
  have hconsume := canonical_consume hs t [sp]
  split
  · next heq => exact hf _ _ _ (hconsume.of_eq heq)
  · next heq => exact canonical_refuseHere (hconsume.of_eq heq) ..

@[simp] theorem canonical_dispatchDma (t : TileId) (w : TWord) (out : Bool) : Canonical (dispatchDma s t w out) := by
  unfold dispatchDma
  refine canonical_withDescriptor hs t _ w _ fun s sp bs hs => ?_
  extract_lets d st area reads writes
  refine canonical_ite (canonical_refuseHere hs ..) ?_
  split
  · exact canonical_refuseHere hs ..
  · refine canonical_ite hs ?_
    have hread : Canonical (if out then consume s t d.area.rowSpans else (s, 0)).1 := canonical_ite_fst (canonical_consume hs ..) hs
    split
    · next heq =>
      extract_lets id s1 s2
      have h2 : Canonical s2 := canonical_advance (canonical_enqueue (hread.of_eq heq) ..) _
      split
      · exact canonical_runDma h2 ..
      · exact canonical_startRemote h2 ..
    · next heq => exact canonical_refuseHere (hread.of_eq heq) ..

@[simp] theorem canonical_dmaStep (t : TileId) : Canonical (dmaStep s t) := by
  unfold dmaStep
  extract_lets ids s1 done
  have h1 : Canonical s1 := canonical_foldl (fun s id hs => canonical_runDma hs ..) _ hs
  split
  · split
    · exact canonical_endDma h1 ..
    · exact h1
  · exact h1

end

/-! ## Stops and traps of a core; its accesses -/

section
variable {s : State} (hs : Canonical s)
include hs

@[simp] theorem canonical_endProgram (c : Nat) (ph : CorePhase) (st value : Nat) : Canonical (endProgram s c ph st value) := by
  grind [endProgram, canonical_iff, canonical_modCore, canonical_finish]

@[simp] theorem canonical_recordStop (c st : Nat) (pc : U64) : Canonical (recordStop s c st pc) := by simp [recordStop, hs]

@[simp] theorem canonical_stopProgram (c st : Nat) (pc : U64) : Canonical (stopProgram s c st pc) := by
  grind [stopProgram, canonical_iff, canonical_coreTime, canonical_endProgram, canonical_raise, canonical_recordStop]

theorem canonical_trapWith (c : Nat) (effect : State → U64 → State) (hf : ∀ s pc, Canonical s → Canonical (effect s pc)) : Canonical
    (trapWith s c effect) := by
  unfold trapWith
  extract_lets p m
  have hm : Canonical m.2 := canonical_drawBool (canonical_drawBits hs)
  exact canonical_ite (hf _ _ hs) (canonical_ite (canonical_stopProgram hm ..) (hf _ _ hm))

@[simp] theorem canonical_stopTrap (c st : Nat) : Canonical (stopTrap s c st) :=
  canonical_trapWith hs c _ fun _ pc hs => canonical_stopProgram hs c st pc

@[simp] theorem canonical_enterTrap (c : Nat) (k : CoreTrap) : Canonical (enterTrap s c k) := by simp [enterTrap, hs]
@[simp] theorem canonical_pageTrap (c va : Nat) : Canonical (pageTrap s c va) := canonical_trapWith hs c _ fun _ _ hs => canonical_enterTrap hs ..

@[simp] theorem canonical_retire (c : Nat) : Canonical (retire s c) := by
  grind [retire, canonical_iff, canonical_modCore, canonical_bump, canonical_coreTime]

@[simp] theorem canonical_takeIrq (c : Nat) : Canonical (takeIrq s c) := by
  grind [takeIrq, canonical_iff, canonical_modCore, canonical_enterTrap]

@[simp] theorem canonical_seeWord (c major op : Nat) (w : VWord) : Canonical (seeWord s c major op w) := by
  grind [seeWord, canonical_iff, canonical_drawBits, canonical_modCore]

@[simp] theorem canonical_coreFaulted (va : Nat) (write : Bool) (st : Nat) : Canonical (coreFaulted s va write st) := by
  grind [coreFaulted, canonical_iff, canonical_xltFault]

@[simp] theorem canonical_coreRead (l : Loc) (n : Nat) : Canonical (coreRead s l n).1 := by
  grind [coreRead, canonical_iff, canonical_readLoc]

@[simp] theorem canonical_coreWrite (c va : Nat) (l : Loc) (bs : List Byte) : Canonical (coreWrite s c va l bs) := by
  unfold coreWrite
  split <;> simp [hs]

theorem canonical_scalarMem (c va n : Nat) (write : Bool) (body : State → Loc → State) (hf : ∀ s l, Canonical s → Canonical (body s l)) : Canonical
    (scalarMem s c va n write body) := by
  unfold scalarMem
  refine canonical_ite hs ?_
  split
  · exact canonical_stopTrap (canonical_coreFaulted hs ..) ..
  · exact canonical_pageTrap hs ..
  · exact hf _ _ hs

end

/-! ## Launch, waits and zeroing of a tile -/

section
variable {s : State} (hs : Canonical s)
include hs

@[simp] theorem canonical_readArgs (n : Nat) (va : Nat) (k : Nat) (acc : List (List U64)) : Canonical (readArgs n va k s acc).1 := by
  induction n generalizing s va k acc with
  | zero => exact hs
  | succ n ih =>
    unfold readArgs
    have hread := canonical_readVA hs agentHost va 64
    split
    · next heq => exact ih (hs := hread.of_eq heq) ..
    · next heq => exact hread.of_eq heq

@[simp] theorem canonical_giveLaunch (t : TileId) (l : TileLaunch) : Canonical (giveLaunch s t l) := by
  unfold giveLaunch
  exact canonical_ite (canonical_endLaunch hs ..) (canonical_ite (canonical_endLaunch hs ..) (canonical_touchTile hs t))

@[simp] theorem canonical_clearForLaunch (t : TileId) : Canonical (clearForLaunch s t) := by
  unfold clearForLaunch
  extract_lets s1
  have h1 : Canonical s1 := canonical_setReg (canonical_setReg64 (canonical_clearFlags hs ..) ..) ..
  exact canonical_touchTile h1 t

@[simp] theorem canonical_tileSync (t : TileId) (w : TWord) (setOp : Bool) : Canonical (tileSync s t w setOp) := by
  grind [tileSync, canonical_iff, canonical_advance, canonical_applySync, canonical_enqueue, canonical_refuseHere, canonical_sendReq]

@[simp] theorem canonical_endWait (k : Wait) : Canonical (endWait s k) := by
  unfold endWait
  extract_lets s1
  have h1 : Canonical s1 := canonical_dropWait hs _
  split
  · next t _ =>
    extract_lets s2
    have h2 : Canonical s2 := canonical_touchTile h1 t
    split
    · exact canonical_retireEntry h2 ..
    · exact h2
  · exact canonical_modCore h1 ..
  · exact canonical_ite (canonical_finish h1 ..) h1

@[simp] theorem canonical_tryWait (who : Waiter) (polled : Bool) : Canonical (tryWait s who polled) := by
  unfold tryWait
  split <;> simp [hs]

@[simp] theorem canonical_startZeroing (t : TileId) : Canonical (startZeroing s t) := by simp [startZeroing, hs]

end

end Sys2Proof.Machine
end

section
/-! The canonical form is kept: receiving side and collectives. -/

-- One theorem at a time: the stacks of threads that elaborate side by side count against the check's memory.
set_option Elab.async false

namespace Sys2Proof.Machine

/-! ## The store of a ward -/

section
variable {s : State} (hs : Canonical s)
include hs

@[simp] theorem canonical_carryGranule (base d j rel : Nat) : Canonical (carryGranule s base d j rel) := by
  have hread := canonical_readVA hs agentFabric (base + imageOff d (1 - j) rel) 65536
  -- unfolded before it is applied: the kernel would otherwise evaluate the reads to see that the two sides agree
  generalize hf : carryGranule = f
  delta carryGranule at hf
  subst hf
  beta_reduce
  generalize readVA s agentFabric (base + entryOff d j rel) 16 = p
  generalize readVA s agentFabric (base + entryOff d (1 - j) rel) 16 = q
  generalize readVA s agentFabric (base + imageOff d (1 - j) rel) 65536 = x at hread ⊢
  split
  · refine canonical_ite hs ?_
    split
    · exact canonical_writeVA (canonical_writeVA hread ..) ..
    · exact hread
  · exact hs

@[simp] theorem canonical_carryWard (base d j ward : Nat) : Canonical (carryWard s base d j ward) := by
  unfold carryWard
  extract_lets s1
  have h1 : Canonical s1 := canonical_ite (canonical_foldl (fun s i hs => canonical_carryGranule hs ..) _ hs) hs
  simp [h1]

@[simp] theorem canonical_storePlain (off : Nat) (bs : List Byte) : Canonical (storePlain s off bs) := by
  unfold storePlain
  split <;> simp [hs]

@[simp] theorem canonical_storeRecord (r : List Byte) : Canonical (storeRecord s r) := by
  grind [storeRecord, canonical_mk, Canonical.regsWf, Canonical.hostWf, Canonical.stackWf, Canonical.tilesWf, canonical_carryWard, canonical_writeVA]

end

/-! ## The receiving side of Azmarlink -/

section
variable {s : State} (hs : Canonical s)
include hs

@[simp] theorem canonical_setRx (x : RxSpace) : Canonical (setRx s x) := by simp [setRx, hs]
@[simp] theorem canonical_markSeq (src : U16) (fd n : Nat) (refused : Option Nat) : Canonical (markSeq s src fd n refused) := by simp [markSeq, hs]
@[simp] theorem canonical_countNack (fd st : Nat) : Canonical (countNack s fd st) := by simp [countNack, hs]

@[simp] theorem canonical_refuse (port : Nat) (h : PktHdr) (st : Nat) : Canonical (refuse s port h st) := by
  grind [refuse, canonical_iff, canonical_countNack, canonical_nackReq]

@[simp] theorem canonical_refuseSeq (port : Nat) (h : PktHdr) (st n : Nat) : Canonical (refuseSeq s port h st n) := by
  grind [refuseSeq, canonical_iff, canonical_markSeq, canonical_refuse]

@[simp] theorem canonical_noteReleased (h : PktHdr) (fd : Nat) : Canonical (noteReleased s h fd) := by
  grind [noteReleased, canonical_iff]

@[simp] theorem canonical_ackDone (port : Nat) (h : PktHdr) (n : Nat) : Canonical (ackDone s port h n) := by
  grind [ackDone, canonical_iff, canonical_markSeq, canonical_respond]

@[simp] theorem canonical_takeMessage (r : Recv) (src : U16) (payload : List Byte) : Canonical (takeMessage s r src payload) := by
  simp [takeMessage, hs]

@[simp] theorem canonical_deliver (port : Nat) (h : PktHdr) (payload : List Byte) (n : Nat) : Canonical (deliver s port h payload n) := by
  grind [deliver, canonical_iff, canonical_ackDone, canonical_nackReq, canonical_takeMessage]

@[simp] theorem canonical_pumpEarly (fuel : Nat) (src : U16) (fd : Nat) : Canonical (pumpEarly fuel s src fd) := by
  induction fuel generalizing s with
  | zero => exact hs
  | succ f ih =>
    unfold pumpEarly
    extract_lets x _
    split
    · exact hs
    · extract_lets s1
      have h1 : Canonical s1 := by simp [s1, hs]
      exact ih (canonical_deliver h1 ..)

@[simp] theorem canonical_pumpFrom (src : U16) (fd : Nat) : Canonical (pumpFrom s src fd) := by simp [pumpFrom, hs]

theorem canonical_request (port : Nat) (h : PktHdr) (payload : Nat) (memsem : Bool) (checks : State → Nat) (dup : State → State)
    (apply : State → Nat → State) (hdup : ∀ s, Canonical s → Canonical (dup s)) (happly : ∀ s n, Canonical s → Canonical (apply s n)) : Canonical
    (request s port h payload memsem checks dup apply) := by
  unfold request
  extract_lets fd s1 s2 st
  have h1 : Canonical s1 := canonical_bump hs ..
  have h2 : Canonical s2 := canonical_noteReleased h1 ..
  refine canonical_ite (canonical_bump h1 ..) (canonical_ite (canonical_refuse h1 ..) ?_)
  split
  · exact canonical_pumpFrom (canonical_ite (canonical_refuseSeq h2 ..) (happly _ _ h2)) ..
  · exact canonical_refuse h2 ..
  · exact canonical_nackReq h2 ..
  · exact canonical_ite (canonical_refuse h2 ..) (hdup _ (canonical_bump h2 ..))

@[simp] theorem canonical_applyAtomic (pa op : Nat) (operand compare : U64) : Canonical (applyAtomic s pa op operand compare).1 := by
  grind [applyAtomic, canonical_iff, canonical_countNondet, canonical_readLine, canonical_writeLine]

@[simp] theorem canonical_answerAtomic (port : Nat) (h : PktHdr) (n : Nat) (prior : U64) : Canonical (answerAtomic s port h n prior) := by
  grind [answerAtomic, canonical_iff, canonical_markSeq, canonical_respond]

@[simp] theorem canonical_atomicMark (va : Nat) : Canonical (atomicMark s va).1 := by simp [atomicMark, hs]

@[simp] theorem canonical_waitForCache (port : Nat) (h : PktHdr) (operand compare : U64) : Canonical (waitForCache s port h operand compare) := by
  grind [waitForCache, canonical_iff, canonical_raise]

@[simp] theorem canonical_takeAtomic (port : Nat) (h : PktHdr) (operand compare : U64) (n : Nat) (wait : Bool) : Canonical
    (takeAtomic s port h operand compare n wait) := by
  grind [takeAtomic, canonical_iff, canonical_answerAtomic, canonical_applyAtomic, canonical_atomicMark, canonical_refuseSeq, canonical_waitForCache]

@[simp] theorem canonical_runAtomic (port : Nat) (h : PktHdr) (operand compare : U64) (n : Nat) : Canonical (runAtomic s port h operand compare n) := by
  grind [runAtomic, canonical_iff, canonical_takeAtomic]

@[simp] theorem canonical_applySet (fd op va : Nat) (ops : List (U16 × U32 × U64 × Nat)) : Canonical (applySet s fd op va ops) := by
  unfold applySet
  extract_lets s1 s2
  have h1 : Canonical s1 := canonical_ite (canonical_bump hs ..) hs
  have h2 : Canonical s2 := canonical_ite (canonical_countNondet h1 _) h1
  refine canonical_foldl (fun s e hs => ?_) _ h2
  extract_lets h
  split
  · exact canonical_runAtomic hs ..
  · exact hs

@[simp] theorem canonical_closeSet (c : CombineSet) : Canonical (closeSet s c) := by
  unfold closeSet
  exact canonical_foldl (fun s x hs => by simp [hs]) _ (by simp [hs])

theorem canonical_inOrder (h : PktHdr) (va n : Nat) (joins : CombineSet → Bool) (f : State → State) (hf : ∀ s, Canonical s → Canonical (f s)) :
    Canonical (inOrder s h va n joins f) := by
  unfold inOrder
  extract_lets s1
  have h1 : Canonical s1 := canonical_foldl (fun s c hs => canonical_closeSet hs c) _ hs
  exact canonical_ite h1 (hf _ h1)

@[simp] theorem canonical_readLines (n : Nat) (va : Nat) (bs : List Byte) (ps : List Bool) : Canonical (readLines n va s bs ps).1 := by
  induction n generalizing s va bs ps with
  | zero => exact hs
  | succ n ih =>
    unfold readLines
    split
    · next l _ =>
      have hread := canonical_readLoc hs l 128
      split
      next heq => exact ih (hs := hread.of_eq heq) ..
    · exact ih (hs := hs) ..

@[simp] theorem canonical_readStack (port : Nat) (h : PktHdr) (pa : Nat) : Canonical (readStack s port h pa) := by
  grind [readStack, canonical_iff, canonical_readLines, canonical_respond]

@[simp] theorem canonical_serveRead (port : Nat) (h : PktHdr) : Canonical (serveRead s port h) := by
  grind [serveRead, canonical_iff, canonical_drawBool, canonical_bump, canonical_readStack, canonical_respond]

@[simp] theorem canonical_joinSet (port : Nat) (h : PktHdr) (operand : U64) : Canonical (joinSet s port h operand) := by
  grind [joinSet, canonical_iff, canonical_closeSet]

@[simp] theorem canonical_wordBusy (fd va : Nat) : Canonical (wordBusy s fd va).2 := by simp [wordBusy, hs]

@[simp] theorem canonical_dupAtomic (port : Nat) (h : PktHdr) : Canonical (dupAtomic s port h) := by
  grind [dupAtomic, canonical_iff, canonical_refuse, canonical_respond]

@[simp] theorem canonical_countBulk (src : U16) (pre : BulkPre) (lines : Nat) : Canonical (countBulk s src pre lines).1 := by
  grind [countBulk, canonical_iff, canonical_syncAdd]

@[simp] theorem canonical_wardBytes (h : PktHdr) (pre : BulkPre) (data : List Byte) : Canonical (wardBytes s h pre data) := by
  grind [wardBytes, canonical_iff, canonical_countBulk, canonical_storePlain, canonical_storeRecord]

@[simp] theorem canonical_bulkAnswer (c : CmdCtx) (lines st : Nat) : Canonical (bulkAnswer s c lines st) := by
  grind [bulkAnswer, canonical_iff, canonical_finish]

@[simp] theorem canonical_ckptRefused : Canonical (ckptRefused s) := by
  grind [ckptRefused, canonical_iff, canonical_raise]

@[simp] theorem canonical_deliverAnswer (r : TxReq) (st : Nat) (data : List Byte) (poison : List Bool) : Canonical (deliverAnswer s r st data poison)
    := by
  grind [deliverAnswer, canonical_iff, canonical_modCore, canonical_answerPacket, canonical_bulkAnswer, canonical_ckptRefused, canonical_finish,
    canonical_landPacket, canonical_refusePacket, canonical_retireEntry, canonical_stopProgram, canonical_stopScript, canonical_tileSync]

theorem canonical_onResponse (port : Nat) (h : PktHdr) (payload : Nat) (f : State → State) (hf : ∀ s, Canonical s → Canonical (f s)) : Canonical
    (onResponse s port h payload f) := by
  unfold onResponse
  extract_lets s1 _
  have h1 : Canonical s1 := canonical_bump hs ..
  exact canonical_ite h1 (canonical_ite (canonical_bump h1 ..) (hf _ (by simp [h1])))

@[simp] theorem canonical_response (port : Nat) (h : PktHdr) (payload : Nat) (types : List PktType) (st : Nat) (data : List Byte)
    (poison : List Bool) : Canonical (response s port h payload types st data poison) := by
  grind [response, canonical_iff, canonical_deliverAnswer, canonical_onResponse, canonical_retireReq, canonical_tryArrive]

@[simp] theorem canonical_drainAnswered (dst : U16) (port : Nat) : Canonical (drainAnswered s dst port) := by
  grind [drainAnswered, canonical_iff, canonical_releaseDrain]

@[simp] theorem canonical_noteBusy (port : Nat) (h : PktHdr) : Canonical (noteBusy s port h) := by
  grind [noteBusy, canonical_iff, canonical_raise]

end

/-! ## The run of a collective -/

section
variable {s : State} (hs : Canonical s)
include hs

@[simp] theorem canonical_setRun (r : CollRun) : Canonical (setRun s r) := by simp [setRun, hs]
@[simp] theorem canonical_setCollIn (x : CollIn) : Canonical (setCollIn s x) := by simp [setCollIn, hs]

theorem canonical_withRun (g : Nat) (id : U32) (f : CollRun → State) (hf : ∀ r, Canonical (f r)) : Canonical (withRun s g id f) := by
  unfold withRun
  split
  · exact hs
  · exact hf _

@[simp] theorem canonical_sendRank (g : Nat) (id : U32) (rank chunk : Nat) (typ : PktType) (lines : Nat) (data : List Byte) : Canonical
    (sendRank s g id rank chunk typ lines data).1 := by
  simp [sendRank, hs]

@[simp] theorem canonical_sendTo (r : CollRun) (i chunk : Nat) (typ : PktType) (lines : Nat) (data : List Byte) : Canonical
    (sendTo s r i chunk typ lines data) := by
  simp [sendTo, hs]

@[simp] theorem canonical_sendCtrl (r : CollRun) (b : CollCtrlBody) : Canonical (sendCtrl s r b) := by
  unfold sendCtrl
  exact canonical_foldl (fun s x hs => by simp [hs]) _ (by simp [hs])

@[simp] theorem canonical_sendElems (r : CollRun) (i chunk level child size offset : Nat) (bs : List Byte) : Canonical
    (sendElems s r i chunk level child size offset bs) := by
  unfold sendElems
  extract_lets sent moved s1
  have hsent : Canonical sent.1 := by
    refine canonical_foldl_fst (fun a p ha => ?_) _ hs
    exact canonical_sendRank ha ..
  have h1 : Canonical s1 := canonical_bump hsent ..
  exact canonical_withRun h1 _ _ _ fun x => canonical_setRun h1 _

@[simp] theorem canonical_failRun (r : CollRun) (st : Nat) (say : Option CollCtrlBody) : Canonical (failRun s r st say) := by
  grind [failRun, canonical_iff, canonical_sendCtrl, canonical_setRun]

@[simp] theorem canonical_readParts (d : CollDesc) (len : Nat) (is : List Nat) (acc : List Byte) : Canonical (readParts d len is s acc).1 := by
  induction is generalizing s acc with
  | nil => exact hs
  | cons i rest ih =>
    unfold readParts
    have hread := canonical_readVA hs agentFabric (d.partAddr i) len
    split
    · next heq => exact ih (hread.of_eq heq) _
    · next heq => exact hread.of_eq heq

@[simp] theorem canonical_claimSlots (r : CollRun) (k : Nat) : Canonical (claimSlots s r k) := by
  grind [claimSlots, canonical_iff, canonical_bump, canonical_raise, canonical_setRun]

@[simp] theorem canonical_freeClaim (c : Nat × Option Nat × Nat) : Canonical (freeClaim s c) := by
  unfold freeClaim
  split <;> simp [hs]

@[simp] theorem canonical_listStep (g : Nat) (id : U32) : Canonical (listStep s g id) := by
  unfold listStep
  extract_lets ranks x
  clear_value ranks
  cases ranks with
  | none => exact hs
  | some ranks =>
    exact canonical_ite hs (canonical_foldl (fun s k hs => canonical_sendRank hs ..) _ (canonical_setCollIn hs _))

@[simp] theorem canonical_failStep (g : Nat) (id : U32) : Canonical (failStep s g id) := by
  refine canonical_withRun hs _ _ _ fun r => ?_
  extract_lets x senders count said s1
  have h1 : Canonical s1 := canonical_ite (canonical_setRun hs _) hs
  refine canonical_withRun h1 _ _ _ fun r => ?_
  refine canonical_ite h1 (canonical_ite (canonical_failRun h1 ..) (canonical_ite (canonical_failRun h1 ..)
    (canonical_ite (canonical_failRun h1 ..) ?_)))
  clear_value said
  split
  · exact canonical_failRun h1 ..
  · exact h1

@[simp] theorem canonical_beginMoving (g : Nat) (id : U32) : Canonical (beginMoving s g id) := by
  refine canonical_withRun hs _ _ _ fun r => ?_
  extract_lets d
  have hread := canonical_readParts hs d (s.sourceElems r * d.elemBytes) (List.range d.partCount) []
  split
  · next heq =>
    extract_lets r s1 n
    have h1 : Canonical s1 := canonical_setRun (hread.of_eq heq) _
    exact canonical_ite (canonical_foldl (fun s p hs => canonical_sendCtrl hs ..) _ h1) h1
  · next heq => exact canonical_failRun (hread.of_eq heq) ..

@[simp] theorem canonical_countStep (g : Nat) (id : U32) : Canonical (countStep s g id) := by
  refine canonical_withRun hs _ _ _ fun r => ?_
  refine canonical_ite hs ?_
  extract_lets first s1 bytes
  have h1 : Canonical s1 := canonical_ite (canonical_bump hs ..) hs
  have hwrite := canonical_writeVA h1 agentFabric r.desc.recvCounts bytes
  split
  next heq =>
    extract_lets r
    have h2 := canonical_setRun (hwrite.of_eq heq) r
    exact canonical_ite (canonical_failRun h2 ..) (canonical_sendCtrl h2 ..)

@[simp] theorem canonical_verdictStep (g : Nat) (id : U32) : Canonical (verdictStep s g id) := by
  refine canonical_withRun hs _ _ _ fun r => ?_
  extract_lets x all
  refine canonical_ite hs ?_
  split
  · exact canonical_failRun hs ..
  · exact canonical_beginMoving hs ..

@[simp] theorem canonical_sendStep (g : Nat) (id : U32) : Canonical (sendStep s g id) := by
  refine canonical_withRun hs _ _ _ fun r => ?_
  extract_lets d own due
  refine canonical_ite hs (canonical_foldl (fun s e hs => ?_) _ hs)
  dsimp only
  refine canonical_ite (canonical_ite hs ?_) (canonical_ite (canonical_sendElems hs ..) hs)
  split
  · exact hs
  · exact canonical_sendElems hs ..

@[simp] theorem canonical_creditStep (g : Nat) (id : U32) : Canonical (creditStep s g id) := by
  refine canonical_withRun hs _ _ _ fun r => ?_
  extract_lets own open_
  refine canonical_ite hs (canonical_foldl (fun s k hs => ?_) _ hs)
  extract_lets parts s1
  have h1 : Canonical s1 := canonical_ite (canonical_withRun hs _ _ _ fun r => canonical_claimSlots hs ..) hs
  exact canonical_foldl (fun s q hs => canonical_withRun hs _ _ _ fun r => canonical_ite hs (canonical_sendTo (canonical_setRun hs _) ..)) _ h1

@[simp] theorem canonical_writeChunk (r : CollRun) (key first : Nat) (bs : List Byte) : Canonical (writeChunk s r key first bs) := by
  grind [writeChunk, canonical_iff, canonical_failRun, canonical_setRun, canonical_withRun, canonical_writeVA]

@[simp] theorem canonical_foldOne (g : Nat) (id : U32) (k : Nat) : Canonical (foldOne s g id k) := by
  refine canonical_withRun hs _ _ _ fun r => ?_
  extract_lets d own span mine s1
  split
  · exact hs
  · extract_lets bs tally warn r s2 s3
    have h1 : Canonical s1 := canonical_ite (canonical_bump hs ..) hs
    have h2 : Canonical s2 := canonical_writeChunk (canonical_foldl (fun s c hs => canonical_freeClaim hs c) _ (canonical_setRun h1 _)) ..
    have h3 : Canonical s3 := canonical_ite (canonical_sendCtrl h2 ..) h2
    exact canonical_ite h2 (canonical_foldl (fun s m hs => canonical_sendElems hs ..) _ h3)

@[simp] theorem canonical_takeOne (g : Nat) (id : U32) (q k : Nat) : Canonical (takeOne s g id q k) := by
  refine canonical_withRun hs _ _ _ fun r => ?_
  extract_lets d own blk span level bytes
  split
  · exact hs
  · exact canonical_writeChunk (canonical_setRun hs _) ..

@[simp] theorem canonical_foldStep (g : Nat) (id : U32) : Canonical (foldStep s g id) := by
  refine canonical_withRun hs _ _ _ fun r => ?_
  exact canonical_ite hs (canonical_foldl (fun s k hs => canonical_ite (canonical_foldOne hs ..) (canonical_takeOne hs ..)) _ hs)

@[simp] theorem canonical_pumpRun (g : Nat) (id : U32) : Canonical (pumpRun s g id) := by
  grind [pumpRun, canonical_iff, canonical_countStep, canonical_creditStep, canonical_failStep, canonical_foldStep, canonical_listStep,
    canonical_sendStep, canonical_verdictStep]

@[simp] theorem canonical_notifyCounter (c : Nat) : Canonical (notifyCounter s c) := by simp [notifyCounter, hs]

@[simp] theorem canonical_tatterMismatch (r : CollRun) (st : Nat) : Canonical (tatterMismatch s r st) := by
  unfold tatterMismatch
  exact canonical_ite hs (canonical_foldl (fun s a hs => canonical_tatterRange hs ..) _ hs)

@[simp] theorem canonical_endRun (r : CollRun) (st : Nat) : Canonical (endRun s r st) := by
  unfold endRun
  extract_lets s1 runs inbox _ s2 s3 s4 s5 s6 s7
  have h1 : Canonical s1 := canonical_tatterMismatch hs ..
  have h2 : Canonical s2 := canonical_foldl (fun s c hs => canonical_freeClaim hs c) _ (by simp [h1])
  have h3 : Canonical s3 := canonical_ite (canonical_spoilRange h2 ..) h2
  have h4 : Canonical s4 := canonical_bump h3 ..
  have h5 : Canonical s5 := canonical_bump h4 ..
  have h6 : Canonical s6 := canonical_ite (canonical_ite h5 (canonical_countNondet h5 _)) h4
  have h7 : Canonical s7 := canonical_notifyCounter h6 _
  exact canonical_ite h7 (canonical_writeRecord h7 ..)

@[simp] theorem canonical_endBatch (b : Batch) (st : CollRun → Nat) : Canonical (endBatch s b st) := by
  unfold endBatch
  extract_lets rs worst s1 batches _ s2 s3
  have h1 : Canonical s1 := canonical_foldl (fun s r hs => canonical_endRun hs ..) _ hs
  have h2 : Canonical s2 := canonical_notifyCounter (by simp [h1]) _
  have h3 : Canonical s3 := canonical_ite h2 (canonical_writeRecord h2 ..)
  exact canonical_finish h3 ..

@[simp] theorem canonical_endColl (r : CollRun) (st : Nat) : Canonical (endColl s r st) := by simp [endColl, hs]

end

/-! ## Requests of the host -/

section
variable {s : State} (hs : Canonical s)
include hs

@[simp] theorem canonical_runSyncOp (c : CmdCtx) (setOp : Bool) (value : U64) (member : U32) (counter : U16) : Canonical
    (runSyncOp s c setOp value member counter) := by
  grind [runSyncOp, canonical_iff, canonical_actSyncOps, canonical_finish, canonical_markStarted]

@[simp] theorem canonical_sendBulk (dst : U16) (key : Nat) (pre data : List Byte) (off lines : Nat) (o : Origin) : Canonical
    (sendBulk s dst key pre data off lines o) := by
  unfold sendBulk
  exact canonical_foldl (fun s x hs => by simp [hs]) _ (by simp [hs])

end

/-! ## Start and end of collectives -/

section
variable {s : State} (hs : Canonical s)
include hs

@[simp] theorem canonical_waitStart (c : CmdCtx) (counter : Nat) (value : U64) : Canonical (waitStart s c counter value) := by simp [waitStart, hs]

@[simp] theorem canonical_refusedRecord (d : CollDesc) (st : Nat) : Canonical (refusedRecord s d st) := by
  unfold refusedRecord
  split <;> simp [hs]

@[simp] theorem canonical_addRuns (rs : List CollRun) : Canonical (addRuns s rs) := by simp [addRuns, hs]

@[simp] theorem canonical_sendCounts (r : CollRun) : Canonical (sendCounts s r) := by
  unfold sendCounts
  exact canonical_foldl (fun s x hs => by simp [hs]) _ (by simp [hs])

@[simp] theorem canonical_startRun (g : Nat) (id : U32) : Canonical (startRun s g id) := by
  refine canonical_withRun hs _ _ _ fun r => ?_
  extract_lets d r s1 n s2 s3
  have h1 : Canonical s1 := canonical_sendCtrl (canonical_setRun hs _) ..
  have h2 : Canonical s2 := canonical_ite (canonical_sendCtrl h1 ..) h1
  have h3 : Canonical s3 := by
    refine canonical_ite ?_ (canonical_beginMoving h2 ..)
    have hread := canonical_readVA h1 agentFabric d.counts (8 * n)
    split
    · next heq => exact canonical_sendCounts (canonical_setRun (hread.of_eq heq) _) _
    · next heq => exact canonical_failRun (hread.of_eq heq) ..
  exact canonical_pumpRun h3 ..

@[simp] theorem canonical_collPacket (port : Nat) (h : PktHdr) (payload : Nat) (apply : State → Nat → CollIn → CollIn) : Canonical
    (collPacket s port h payload apply) := by
  grind [collPacket, canonical_iff, canonical_bump, canonical_nackReq, canonical_pumpRun, canonical_refuse, canonical_respond, canonical_setCollIn,
    canonical_setRx]

@[simp] theorem canonical_tatterRun (r : CollRun) : Canonical (tatterRun s r) := by
  grind [tatterRun, canonical_iff, canonical_tatterRange]

@[simp] theorem canonical_abortColls : Canonical (abortColls s) := by
  unfold abortColls
  extract_lets s1 s2 s3
  have h1 : Canonical s1 := canonical_foldl (fun s r hs => canonical_tatterRun hs r) _ hs
  have h2 : Canonical s2 := canonical_foldl (fun s b hs => canonical_endBatch hs ..) _ h1
  have h3 : Canonical s3 := canonical_foldl (fun s r hs => canonical_endColl hs ..) _ h2
  simp [h3]

end

end Sys2Proof.Machine
end

section
/-! The canonical form is kept: strokes, checkpoints, ports and the launch. -/

-- One theorem at a time: the stacks of threads that elaborate side by side count against the check's memory.
set_option Elab.async false

namespace Sys2Proof.Machine

/-! ## Strokes and barriers -/

section
variable {s : State} (hs : Canonical s)
include hs

@[simp] theorem canonical_writeHostStore (p : CkptPlan) (off : Nat) (bs : List Byte) : Canonical (writeHostStore s p off bs) := by
  simp [writeHostStore, hs]

@[simp] theorem canonical_sendBuddy (p : CkptPlan) (xfer off : Nat) (bs : List Byte) : Canonical (sendBuddy s p xfer off bs) := by
  unfold sendBuddy
  split <;> simp [hs]

@[simp] theorem canonical_writeHostEntry (p : CkptPlan) (j rel : Nat) (e : List Byte) : Canonical (writeHostEntry s p j rel e) := by
  simp [writeHostEntry, hs]

@[simp] theorem canonical_takeSnap : Canonical (takeSnap s) := by
  grind [takeSnap, canonical_iff, canonical_sendBuddy, canonical_writeHostStore]

@[simp] theorem canonical_finishBarrier : Canonical (finishBarrier s) := by
  grind [finishBarrier, canonical_iff, canonical_setReg64, canonical_bump, canonical_finish, canonical_syncSet, canonical_takeCatch]

end

/-! ## Checkpoints and restore -/

section
variable {s : State} (hs : Canonical s)
include hs

@[simp] theorem canonical_sendRecord (p : CkptPlan) (gen rel : Nat) (bs : List Byte) : Canonical (sendRecord s p gen rel bs) := by
  unfold sendRecord
  split <;> simp [hs]

@[simp] theorem canonical_storeHostGranule (p : CkptPlan) (j rel : Nat) (bs e : List Byte) : Canonical (storeHostGranule s p j rel bs e) := by
  simp [storeHostGranule, hs]

@[simp] theorem canonical_copyGranule (p : CkptPlan) (k va : Nat) (bs : List Byte) : Canonical (copyGranule s p k va bs) := by
  grind [copyGranule, canonical_iff, canonical_bump, canonical_sendRecord, canonical_storeHostGranule]

@[simp] theorem canonical_readGranule (g : Nat) (captured : Bool) : Canonical (readGranule s g captured).1 := by
  grind [readGranule, canonical_iff, canonical_bump, canonical_senseGranule]

@[simp] theorem canonical_copyCounters (p : CkptPlan) (k : Nat) : Canonical (copyCounters s p k) := by
  grind [copyCounters, canonical_iff, canonical_bump, canonical_sendBuddy, canonical_writeHostStore]

@[simp] theorem canonical_carryHost (p : CkptPlan) (k : Nat) : Canonical (carryHost s p k) := by
  unfold carryHost
  exact canonical_foldl (fun s x hs => by simp [hs]) _ (by simp [hs])

@[simp] theorem canonical_sealHost (p : CkptPlan) (k carried : Nat) (ds : List (Nat × List Byte)) : Canonical (sealHost s p k carried ds) := by
  grind [sealHost, canonical_iff, canonical_writeHostStore]

@[simp] theorem canonical_sendGone (p : CkptPlan) (k : Nat) (ds : List (Nat × List Byte)) : Canonical (sendGone s p k ds) := by
  unfold sendGone
  exact canonical_foldl (fun s x hs => by simp [hs]) _ (by simp [hs])

@[simp] theorem canonical_sealBuddy (p : CkptPlan) (k carried : Nat) (ds : List (Nat × List Byte)) : Canonical (sealBuddy s p k carried ds) := by
  grind [sealBuddy, canonical_iff, canonical_sendBuddy, canonical_sendGone]

@[simp] theorem canonical_levelHost (p : CkptPlan) (k carried : Nat) (ds : List (Nat × List Byte)) : Canonical (levelHost s p k carried ds) := by
  unfold levelHost
  extract_lets j have_ gone s1 s2 s3
  have h1 : Canonical s1 := canonical_foldl (fun s e hs => canonical_writeHostEntry hs ..) _ hs
  have h2 : Canonical s2 := canonical_foldl (fun s e hs => canonical_storeHostGranule hs ..) _ h1
  exact canonical_sealHost (canonical_writeHostStore h2 ..) ..

@[simp] theorem canonical_levelBuddy (p : CkptPlan) (k carried : Nat) (ds : List (Nat × List Byte)) : Canonical (levelBuddy s p k carried ds) := by
  unfold levelBuddy
  extract_lets have_ s1
  have h1 : Canonical s1 := canonical_foldl (fun s e hs => canonical_sendRecord hs ..) _ hs
  exact canonical_sealBuddy (canonical_copyCounters h1 ..) ..

@[simp] theorem canonical_refreshUnprotected : Canonical (refreshUnprotected s) := by simp [refreshUnprotected, hs]
@[simp] theorem canonical_fetchPage (pg : Nat) (demand : Bool) : Canonical (fetchPage s pg demand) := by simp [fetchPage, hs]

@[simp] theorem canonical_endRestore : Canonical (endRestore s) := by
  unfold endRestore
  split <;> simp [hs]

@[simp] theorem canonical_restoreGranule (va : Nat) (bs : List Byte) : Canonical (restoreGranule s va bs) := by
  unfold restoreGranule
  split
  · exact hs
  · exact canonical_foldl (fun s i hs => canonical_writeLine hs ..) _ hs

end

/-! ## Operands of a tile -/

section
variable {s : State} (hs : Canonical s)
include hs

@[simp] theorem canonical_noteSeed (sr : Bool) : Canonical (noteSeed s sr) := by simp [noteSeed, hs]

@[simp] theorem canonical_noteOutTiles (t : TileId) (element : Bool) (tiles : List (Nat × Nat × Nat × Nat)) (kind : Nat → Nat → Option Nat)
    (ewl : Nat → Nat → Option Unit) : Canonical (noteOutTiles s t element tiles kind ewl) := by
  unfold noteOutTiles
  exact canonical_foldl (fun s x hs => by simp [hs]) _ (by simp [hs])

@[simp] theorem canonical_bumpTimes (t : TileId) (l : List Nat) : Canonical (bumpTimes s t l) := by
  unfold bumpTimes
  exact canonical_foldl (fun s x hs => by simp [hs]) _ (by simp [hs])

@[simp] theorem canonical_countTile (t : TileId) (n k : Nat) : Canonical (countTile s t n k) := by simp [countTile, hs]

end

/-! ## Element operations -/

section
variable {s : State} (hs : Canonical s)
include hs

@[simp] theorem canonical_applyEop (t : TileId) (d : EDesc) (op : Nat) (e : EopEffect) : Canonical (applyEop s t d op e) := by
  grind [applyEop, canonical_iff, canonical_bumpTimes, canonical_countTile, canonical_noteOutTiles, canonical_noteSeed, canonical_tileWriteAll]

@[simp] theorem canonical_dispatchEop (t : TileId) (sp : Span) (d : EDesc) (op : Nat) : Canonical (dispatchEop s t sp d op) := by
  grind [dispatchEop, canonical_iff, canonical_advance, canonical_applyEop, canonical_consume, canonical_enqueue, canonical_flagStop,
    canonical_refuseHere]

end

/-! ## Ports and lanes -/

section
variable {s : State} (hs : Canonical s)
include hs

@[simp] theorem canonical_mapLanes (p : Nat) (ls : List Nat) (reason : Nat) : Canonical (mapLanes s p ls reason) := by
  unfold mapLanes
  exact canonical_foldl (fun s x hs => by simp [hs]) _ (by simp [hs])

@[simp] theorem canonical_measureEyes (p : Nat) : Canonical (measureEyes s p) := by simp [measureEyes, hs]
@[simp] theorem canonical_countCorrected (p : Nat) : Canonical (countCorrected s p) := by simp [countCorrected, hs]

@[simp] theorem canonical_narrowPort (p : Nat) : Canonical (narrowPort s p) := by
  grind [narrowPort, canonical_iff, canonical_modPort, canonical_bump, canonical_mapLanes, canonical_measureEyes, canonical_pathChange,
    canonical_raise]

@[simp] theorem canonical_disablePort (p : Nat) : Canonical (disablePort s p) :=
  canonical_raise (canonical_pathChange hs _ fun _ hs => canonical_modPort hs ..) ..

end

/-! ## Launch of a job -/

section
variable {s : State} (hs : Canonical s)
include hs

@[simp] theorem canonical_dropMsg : Canonical (dropMsg s) := by simp [dropMsg, hs]

@[simp] theorem canonical_replyTo (src : MgmtSrc) (kind st : Nat) : Canonical (replyTo s src kind st) := by
  unfold replyTo
  split <;> simp [hs]

@[simp] theorem canonical_reply (kind st : Nat) : Canonical (reply s kind st) := by simp [reply, hs]
@[simp] theorem canonical_setJob (j : Job) : Canonical (setJob s j) := by simp [setJob, hs]

@[simp] theorem canonical_bindJob (b : BindBody) : Canonical (bindJob s b) := by
  unfold bindJob
  extract_lets s1 _ s2 s3
  have h1 : Canonical s1 := canonical_setJob hs _
  have h3 : Canonical s3 := canonical_foldl (fun s t hs => canonical_clearFlags hs t 3) _ (by simp [s2, h1])
  exact canonical_foldl (fun s n hs => canonical_setRegBits hs ..) _ (canonical_applyThermMode h3)

@[simp] theorem canonical_newEpoch (j : Job) (epoch : U16) : Canonical (newEpoch s j epoch) := by simp [newEpoch, hs]

@[simp] theorem canonical_startResume (p : CkptPlan) (l : LaunchBody) (f : List StoreSlot × List StoreSlot × Bool × List (Nat × U64)) : Canonical
    (startResume s p l f) := by
  simp [startResume, hs]

@[simp] theorem canonical_startNew (l : LaunchBody) : Canonical (startNew s l) := by simp [startNew, hs]
@[simp] theorem canonical_endLaunching (j : Job) (st : Nat) : Canonical (endLaunching s j st) := by simp [endLaunching, hs]

@[simp] theorem canonical_tryAck : Canonical (tryAck s) := by
  grind [tryAck, canonical_iff, canonical_emit, canonical_countMgmt, canonical_endLaunching, canonical_setJob]

@[simp] theorem canonical_checkImage : Canonical (checkImage s) := by
  unfold checkImage
  split
  · exact hs
  · split
    · refine canonical_ite hs (canonical_ite ?_ (canonical_report (canonical_setJob hs _) ..))
      exact canonical_tryAck (canonical_foldl (fun s r hs => canonical_emit hs _) _ (canonical_setJob hs _))
    · exact hs

@[simp] theorem canonical_noteProgram (d : List Byte) : Canonical (noteProgram s d) := by simp [noteProgram, hs]
@[simp] theorem canonical_acceptLaunch (j : Job) (l : LaunchBody) : Canonical (acceptLaunch s j l) := by simp [acceptLaunch, hs]
@[simp] theorem canonical_clearJob : Canonical (clearJob s) := by simp [clearJob, hs]

@[simp] theorem canonical_refuseLaunch (j : Job) (st : Nat) : Canonical (refuseLaunch s j st) := by
  unfold refuseLaunch
  split <;> simp [hs]

@[simp] theorem canonical_showGeometry : Canonical (showGeometry s) := by
  unfold showGeometry
  exact canonical_foldl (fun s x hs => by simp [hs]) _ (by simp [hs])

@[simp] theorem canonical_registerWard (l : LaunchBody) : Canonical (registerWard s l) := by simp [registerWard, hs]
@[simp] theorem canonical_setNondet (l : LaunchBody) : Canonical (setNondet s l) := by simp [setNondet, hs]

end

/-! ## Limits, catches and frames -/

section
variable {s : State} (hs : Canonical s)
include hs

@[simp] theorem canonical_trayLimit (w : Nat) : Canonical (trayLimit s w).1 := by simp [trayLimit, hs]

@[simp] theorem canonical_catchBy (matchTime : U64) : Canonical (catchBy s matchTime) := by
  grind [catchBy, canonical_iff, canonical_setReg64, canonical_setRegBit, canonical_takeCatch]

@[simp] theorem canonical_forwardFrame (h : EvfHdr) : Canonical (forwardFrame s h) := by
  grind [forwardFrame, canonical_iff, canonical_emit]

end

end Sys2Proof.Machine
end

section
/-! The canonical form is kept: products, cores' registers and vector memory. -/

-- One theorem at a time: the stacks of threads that elaborate side by side count against the check's memory.
set_option Elab.async false

namespace Sys2Proof.Machine

/-! ## Products -/

section
variable {s : State} (hs : Canonical s)
include hs

@[simp] theorem canonical_countClocks (t : TileId) (d : MmaDesc) (x : Tile) (e : MmaEffect) : Canonical (countClocks s t d x e) := by
  grind [countClocks, canonical_iff, canonical_bumpTimes, canonical_countTile]

@[simp] theorem canonical_applyProduct (t : TileId) (d : MmaDesc) (sr : Bool) (e : MmaEffect) : Canonical (applyProduct s t d sr e) := by
  grind [applyProduct, canonical_iff, canonical_countClocks, canonical_countTile, canonical_noteOutTiles, canonical_noteSeed, canonical_tileWriteAll]

@[simp] theorem canonical_dispatchMma (t : TileId) (sp : Span) (d : MmaDesc) : Canonical (dispatchMma s t sp d) := by
  grind [dispatchMma, canonical_iff, canonical_advance, canonical_applyProduct, canonical_consume, canonical_enqueue, canonical_flagStop,
    canonical_refuseHere, canonical_tileFault]

end

/-! ## Scalar registers of a core -/

section
variable {s : State} (hs : Canonical s)
include hs

@[simp] theorem canonical_setLow (c : Nat) (rd : BitVec 5) (n v : Nat) : Canonical (setLow s c rd n v) := by
  unfold setLow
  split <;> simp [hs]

@[simp] theorem canonical_loadG (c : Nat) (rd rs1 : BitVec 5) (n : Nat) : Canonical (loadG s c rd rs1 n) := by
  unfold loadG
  extract_lets va
  refine canonical_scalarMem hs c _ n false _ fun s l hs => ?_
  have hread := canonical_coreRead hs l n
  split
  · next heq => exact canonical_retire (canonical_setLow (canonical_bumpClocks (hread.of_eq heq) ..) ..) _
  · next heq => exact canonical_stopTrap (hread.of_eq heq) ..

@[simp] theorem canonical_storeG (c : Nat) (rs1 rs2 : BitVec 5) (n : Nat) : Canonical (storeG s c rs1 rs2 n) := by
  unfold storeG
  extract_lets va v
  refine canonical_scalarMem hs c _ n true _ fun s l hs => ?_
  exact canonical_retire (canonical_bumpClocks (canonical_coreWrite hs ..) ..) _

end

/-! ## Spans of a core -/

section
variable {s : State} (hs : Canonical s)
include hs

@[simp] theorem canonical_countPasses (c : Nat) (passes : Option Nat) : Canonical (countPasses s c passes) := by
  unfold countPasses
  split <;> simp [hs]

@[simp] theorem canonical_doneSpan (c begin : Nat) (passes : Option Nat) : Canonical (doneSpan s c begin passes) := by
  grind [doneSpan, canonical_iff, canonical_modCore, canonical_bump, canonical_countPasses, canonical_retire]

end

/-! ## Vector memory accesses -/

section
variable {s : State} (hs : Canonical s)
include hs

@[simp] theorem canonical_vecMem_skip (m : VecMem) (i : Nat) : Canonical (VecMem.skip m s i) := by simp [VecMem.skip, hs]

@[simp] theorem canonical_vecMem_perform (m : VecMem) (i : Nat) (l : Loc) : Canonical (VecMem.perform m s i l).1 := by
  grind [VecMem.perform, canonical_iff, canonical_modCore, canonical_coreRead, canonical_coreWrite]

@[simp] theorem canonical_vecMem_loop (m : VecMem) (n : Nat) (i : Nat) : Canonical (VecMem.loop m n i s).1 := by
  induction n generalizing s i with
  | zero =>
    unfold VecMem.loop
    split
    · exact canonical_ite_fst hs hs
    · exact hs
  | succ n ih =>
    unfold VecMem.loop
    refine canonical_ite_fst hs (canonical_ite_fst (ih (canonical_vecMem_skip hs _ _) _) ?_)
    split
    · exact canonical_coreFaulted hs ..
    · exact hs
    · next l _ =>
      have hdone := canonical_vecMem_perform hs m i l
      split
      · next heq => exact ih (hdone.of_eq heq) _
      · next heq => exact hdone.of_eq heq

@[simp] theorem canonical_vecMem_clearFrom (m : VecMem) (i : Nat) : Canonical (VecMem.clearFrom m s i) := by simp [VecMem.clearFrom, hs]
@[simp] theorem canonical_vecMem_leave (m : VecMem) (i : Nat) : Canonical (VecMem.leave m s i) := by simp [VecMem.leave, hs]

@[simp] theorem canonical_runVecMem (m : VecMem) : Canonical (runVecMem s m) := by
  unfold runVecMem
  extract_lets c b passes
  refine canonical_ite hs ?_
  have hloop := canonical_vecMem_loop hs m (m.x.spanLen - b) b
  split
  · next heq => exact canonical_bumpClocks (canonical_doneSpan (hloop.of_eq heq) ..) ..
  · next heq =>
    have h1 := hloop.of_eq heq
    exact canonical_ite (canonical_doneSpan (canonical_vecMem_clearFrom h1 ..) ..) (canonical_stopTrap (canonical_vecMem_leave h1 ..) ..)
  · next heq =>
    have h1 := hloop.of_eq heq
    exact canonical_ite (canonical_doneSpan (canonical_vecMem_clearFrom h1 ..) ..) (canonical_pageTrap (canonical_vecMem_leave h1 ..) ..)
  · next heq => exact canonical_bump (canonical_takeIrq (canonical_vecMem_leave (hloop.of_eq heq) ..) _) ..

theorem canonical_maskMem (c va : Nat) (write : Bool) (body : State → List Loc → State) (hf : ∀ s l, Canonical s → Canonical (body s l)) : Canonical
    (maskMem s c va write body) := by
  unfold maskMem
  extract_lets ws
  refine canonical_ite hs ?_
  split
  · exact canonical_stopTrap (canonical_coreFaulted hs ..) ..
  · exact canonical_pageTrap hs ..
  · exact hf _ _ hs

@[simp] theorem canonical_readWords (ls : List Loc) (k : Nat) (v : Nat) : Canonical (readWords ls k s v).1 := by
  induction ls generalizing s k v with
  | nil => exact hs
  | cons l r ih =>
    unfold readWords
    have hread := canonical_coreRead hs l 8
    split
    · next heq => exact ih (hs := hread.of_eq heq) ..
    · next heq => exact hread.of_eq heq

end

end Sys2Proof.Machine
end

section
/-! The canonical form is kept: Zenle and the teardown of a job. -/

-- One theorem at a time: the stacks of threads that elaborate side by side count against the check's memory.
set_option Elab.async false

namespace Sys2Proof.Machine

/-! ## Assemblies -/

section
variable {s : State} (hs : Canonical s)
include hs

@[simp] theorem canonical_readF64 (va n : Nat) : Canonical (readF64 s va n).1 := by simp [readF64, hs]

@[simp] theorem canonical_solveLines (va : Nat) (keep : Bool) (choices : List (List Byte)) : Canonical (solveLines s va keep choices) := by
  unfold solveLines
  extract_lets n
  refine canonical_foldl (fun s p hs => ?_) _ hs
  extract_lets d
  have hd : Canonical d.2 := canonical_drawBits hs
  split
  · exact hd
  · exact canonical_writeVA hd ..

@[simp] theorem canonical_readSource (d : AsmDesc) (x : AsmInput) (e : List Byte) (n : Nat) : Canonical (readSource s d x e n).1 := by
  grind [readSource, canonical_iff, canonical_readF64]

@[simp] theorem canonical_readFaces (d : AsmDesc) (e : List Byte) : Canonical (readFaces s d e).1 := by
  unfold readFaces
  refine canonical_foldl_fst (fun a f ha => ?_) _ hs
  refine canonical_ite_fst ha ?_
  have hread := canonical_readF64 ha (fieldLE e (8 + 8 * f) 8) d.b
  split
  next heq => exact hread.of_eq heq

omit hs in
theorem canonical_readAsmEntry (d : AsmDesc) {a : State × AsmInput} (hs : Canonical a.1) (e : List Byte) : Canonical (readAsmEntry d a e).1 := by
  unfold readAsmEntry
  extract_lets s x
  refine canonical_ite_fst hs ?_
  split
  · have hread := canonical_readSource (s := s) hs d x e (d.b * d.b)
    split
    next heq => exact hread.of_eq heq
  · have hread := canonical_readSource (s := s) hs d x e d.b
    split
    next heq => exact hread.of_eq heq
  · have hread := canonical_readFaces (s := s) hs d e
    split
    next heq => exact hread.of_eq heq
  · have hread := canonical_readF64 (s := s) hs (fieldLE e 0x18 8) (fieldLE e 4 4)
    split
    next heq => exact hread.of_eq heq
  · have hread := canonical_readVA (s := s) hs agentZenle (fieldLE e 8 8) (152 * fieldLE e 0x10 8)
    split
    next heq => exact hread.of_eq heq

@[simp] theorem canonical_readProgram (a : Assembly) : Canonical (readProgram s a).1 := by
  unfold readProgram
  extract_lets faces
  exact canonical_foldl_fst (fun a e ha => canonical_readAsmEntry _ ha e) _ (by simp [hs])

@[simp] theorem canonical_runAssembly (a : Assembly) : Canonical (runAssembly s a).1 := by
  grind [runAssembly, canonical_iff, canonical_readProgram, canonical_readVA, canonical_xltFault]

@[simp] theorem canonical_countAssembly (a : Assembly) : Canonical (countAssembly s a) := by
  unfold countAssembly
  extract_lets x
  exact canonical_foldl (fun s e hs => canonical_bumpClocks (canonical_bump (canonical_bump (canonical_bumpClocks hs ..) ..) ..) ..) _ hs

@[simp] theorem canonical_countChecks (a : Assembly) : Canonical (countChecks s a) := by
  unfold countChecks
  exact canonical_foldl (fun s x hs => by simp [hs]) _ (by simp [hs])

@[simp] theorem canonical_countPart (a : Assembly) : Canonical (countPart s a) := by
  unfold countPart
  extract_lets x some_
  have hsome {s : State} (hs : Canonical s) (g k most : Nat) : Canonical (some_ s g k most) := canonical_bump (canonical_drawBits hs) ..
  exact canonical_foldl (fun s e hs => canonical_bumpClocks (hsome (hsome (canonical_bumpClocks hs ..) ..) ..) ..) _ hs

@[simp] theorem canonical_dropAssembly (a : Assembly) : Canonical (dropAssembly s a) := by simp [dropAssembly, hs]

@[simp] theorem canonical_abortAssembly (a : Assembly) : Canonical (abortAssembly s a) := by
  unfold abortAssembly
  extract_lets s1
  have h1 : Canonical s1 := by
    have hrun := canonical_runAssembly hs a
    simp only [s1]
    split
    · next heq => exact canonical_foldl (fun s w hs => canonical_solveLines hs ..) _ (hrun.of_eq heq)
    · next heq => exact hrun.of_eq heq
  exact canonical_finish (canonical_dropAssembly (canonical_countPart h1 _) _) ..

end

/-! ## Matrices of a solve -/

section
variable {s : State} (hs : Canonical s)
include hs

@[simp] theorem canonical_readSparse (h : MatHdr) : Canonical (readSparse s h).1 := by
  grind [readSparse, canonical_iff, canonical_readVA]

@[simp] theorem canonical_readDense (h : MatHdr) (lower : Bool) : Canonical (readDense s h lower).1 := by
  unfold readDense
  refine canonical_foldl_fst (fun a r ha => canonical_ite_fst ha ?_) _ hs
  have hread := canonical_readVA ha agentZenle (h.values + r * h.pitch) (8 * (if lower then r + 1 else h.rows))
  split
  next heq => exact hread.of_eq heq

@[simp] theorem canonical_readCells (values : Nat) (runs : List CellRun) (lower : Bool) : Canonical (readCells s values runs lower).1 := by
  unfold readCells
  refine canonical_foldl_fst (fun a c ha => canonical_ite_fst ha ?_) _ hs
  have hread := canonical_readVA ha agentZenle (values + 8 * c.place) (8 * c.read lower)
  split
  next heq => exact hread.of_eq heq

end

/-! ## The run of a solve -/

section
variable {s : State} (hs : Canonical s)
include hs

@[simp] theorem canonical_setSolve (v : Solve) : Canonical (setSolve s v) := by simp [setSolve, hs]
@[simp] theorem canonical_dropSolve (v : Solve) : Canonical (dropSolve s v) := by simp [dropSolve, hs]

@[simp] theorem canonical_releaseSolve (v : Solve) : Canonical (releaseSolve s v) := by
  unfold releaseSolve
  extract_lets s1
  have h1 : Canonical s1 := ⟨hs.regs, hs.host, hs.stack, hs.tilesWf.map _ fun e => by split <;> rfl⟩
  split
  · exact h1
  · exact canonical_coreTime (canonical_modCore h1 ..) _

@[simp] theorem canonical_mayGo (v : Solve) (u : ZnUnit) : Canonical (mayGo s v u).1 := by
  grind [mayGo, canonical_iff, canonical_emit]

@[simp] theorem canonical_stopSolve (v : Solve) (st : Nat) : Canonical (stopSolve s v st) := by simp [stopSolve, hs]
@[simp] theorem canonical_deadlineStop (v : Solve) : Canonical (deadlineStop s v) := by simp [deadlineStop, hs]
@[simp] theorem canonical_stopBest (v : Solve) (st : Nat) : Canonical (stopBest s v st) := by simp [stopBest, hs]
@[simp] theorem canonical_stopHere (v : Solve) (st : Nat) : Canonical (stopHere s v st) := by simp [stopHere, hs]

@[simp] theorem canonical_goOn (v : Solve) (u : ZnUnit) : Canonical (goOn s v u) := by
  grind [goOn, canonical_iff, canonical_deadlineStop, canonical_mayGo, canonical_setSolve]

theorem canonical_nextIteration (v : Solve) (u : ZnUnit) (otherwise : State → Solve → State) (hf : ∀ s v, Canonical s → Canonical (otherwise s v)) :
    Canonical (nextIteration s v u otherwise) := by
  unfold nextIteration
  have hgo := canonical_mayGo hs v u
  split
  · next heq => exact canonical_deadlineStop (hgo.of_eq heq) v
  · next heq => exact canonical_ite (canonical_stopBest (hgo.of_eq heq) ..) (hf _ _ (hgo.of_eq heq))

@[simp] theorem canonical_storeFactor (v : Solve) : Canonical (storeFactor s v) := by
  unfold storeFactor
  refine canonical_ite hs ?_
  have hread := canonical_readVA hs agentZenle v.desc.matrix 64
  split
  · next heq _ => exact canonical_foldl (fun s c hs => canonical_writeVA hs ..) _ (hread.of_eq heq)
  · next heq _ => exact hread.of_eq heq

@[simp] theorem canonical_spoilMatrix (v : Solve) : Canonical (spoilMatrix s v) := by
  unfold spoilMatrix
  refine canonical_ite hs ?_
  have hread := canonical_readVA hs agentZenle v.desc.matrix 64
  split
  · next heq => exact canonical_foldl (fun s c hs => canonical_spoilRange hs ..) _ (hread.of_eq heq)
  · next heq => exact hread.of_eq heq

@[simp] theorem canonical_refineLoop (v : Solve) : Canonical (refineLoop s v) := by
  unfold refineLoop
  exact canonical_ite (canonical_stopHere hs ..) (canonical_nextIteration hs v _ _ fun _ _ hs => canonical_setSolve hs _)

@[simp] theorem canonical_afterFactor (v : Solve) : Canonical (afterFactor s v) := by
  grind [afterFactor, canonical_iff, canonical_goOn, canonical_refineLoop, canonical_setSolve, canonical_stopSolve, canonical_storeFactor]

@[simp] theorem canonical_beginFactor (v : Solve) : Canonical (beginFactor s v) := by simp [beginFactor, hs]

@[simp] theorem canonical_panelEnd (v : Solve) : Canonical (panelEnd s v) := by
  grind [panelEnd, canonical_iff, canonical_afterFactor, canonical_deadlineStop, canonical_mayGo, canonical_setSolve, canonical_spoilMatrix,
    canonical_stopBest]

@[simp] theorem canonical_krylovEnd (v : Solve) : Canonical (krylovEnd s v) := by
  unfold krylovEnd
  extract_lets k v1 formed v2 stuck v3
  refine canonical_ite (canonical_setSolve hs _) (canonical_ite (canonical_stopBest hs ..) (canonical_ite (canonical_stopBest (canonical_drawBits hs)
    ..) ?_))
  exact canonical_nextIteration hs v3 _ _ fun _ _ hs => canonical_ite (canonical_stopBest hs ..) (canonical_setSolve hs _)

@[simp] theorem canonical_verifyEnd (v : Solve) : Canonical (verifyEnd s v) := by
  unfold verifyEnd
  extract_lets _ v1
  refine canonical_ite (canonical_stopHere hs ..) ?_
  exact canonical_nextIteration hs v1 _ _ fun _ _ hs => canonical_ite (canonical_stopBest hs ..) (canonical_setSolve hs _)

@[simp] theorem canonical_refineEnd (v : Solve) : Canonical (refineEnd s v) := by
  unfold refineEnd
  extract_lets
  refine canonical_ite (canonical_stopHere hs ..) (canonical_ite (canonical_stopBest hs ..) (canonical_ite ?_ ?_))
  · exact canonical_nextIteration hs _ _ _ fun _ _ hs => canonical_setSolve hs _
  · exact canonical_nextIteration hs _ _ _ fun _ _ hs => canonical_ite (canonical_stopBest hs ..) (canonical_setSolve hs _)

@[simp] theorem canonical_refineStart (v : Solve) : Canonical (refineStart s v) := by simp [refineStart, hs]

@[simp] theorem canonical_interiorEnd (v : Solve) : Canonical (interiorEnd s v) := by
  unfold interiorEnd
  extract_lets
  refine canonical_ite (canonical_stopHere hs ..) ?_
  split
  · exact canonical_stopHere hs ..
  · refine canonical_ite (canonical_stopBest hs ..) (canonical_nextIteration hs _ _ _ fun _ _ hs => ?_)
    exact canonical_ite (canonical_beginFactor hs _) (canonical_setSolve hs _)

end

/-! ## Solves -/

section
variable {s : State} (hs : Canonical s)
include hs

@[simp] theorem canonical_refusedSolve (v : Solve) (st : Nat) : Canonical (refusedSolve s v st) := by
  grind [refusedSolve, canonical_iff, canonical_writeRecord]

@[simp] theorem canonical_refuseSolve (v : Solve) (st : Nat) : Canonical (refuseSolve s v st) := by
  grind [refuseSolve, canonical_iff, canonical_dropSolve, canonical_finish, canonical_refusedSolve, canonical_releaseSolve]

@[simp] theorem canonical_readIds (va n : Nat) : Canonical (readIds s va n).1 := by
  grind [readIds, canonical_iff, canonical_readVA]

@[simp] theorem canonical_mapWarm (d : SolveDesc) (n : Nat) (w : WarmRec) (old : List U64) : Canonical (mapWarm s d n w old).1 := by
  unfold mapWarm
  have h1 := canonical_readIds hs d.varId n
  split
  · next heq =>
    have h2 := canonical_readIds (h1.of_eq heq) w.varId w.n
    split
    · next heq =>
      have h3 := canonical_readIds (h2.of_eq heq) d.conId d.mCons
      refine canonical_ite_fst (h2.of_eq heq) ?_
      split
      · next heq =>
        have h4 := canonical_readIds (h3.of_eq heq) w.conId w.mCons
        split
        · next heq => exact h4.of_eq heq
        · next heq => exact h4.of_eq heq
      · next heq => exact h3.of_eq heq
    · next heq => exact h2.of_eq heq
  · next heq => exact h1.of_eq heq

@[simp] theorem canonical_startPoint (d : SolveDesc) (n : Nat) (sig : List Byte) : Canonical (startPoint s d n sig).1 := by
  grind [startPoint, canonical_iff, canonical_mapWarm, canonical_readVA]

@[simp] theorem canonical_readHeader (va : Nat) (dense : Bool) : Canonical (readHeader s va dense).1 := by
  grind [readHeader, canonical_iff, canonical_readVA]

@[simp] theorem canonical_readMatrix (va : Nat) : Canonical (readMatrix s va).1 := by
  grind [readMatrix, canonical_iff, canonical_readHeader, canonical_readSparse]

@[simp] theorem canonical_readInterior (d : SolveDesc) : Canonical (readInterior s d).1 := by
  grind [readInterior, canonical_iff, canonical_readMatrix]

@[simp] theorem canonical_readInput (d : SolveDesc) : Canonical (readInput s d).1 := by
  grind [readInput, canonical_iff, canonical_readDense, canonical_readHeader, canonical_readInterior, canonical_readMatrix]

@[simp] theorem canonical_inputFault (v : Solve) (st : Nat) (x : List U64) : Canonical (inputFault s v st x) := by simp [inputFault, hs]

@[simp] theorem canonical_firstUnit (v : Solve) : Canonical (firstUnit s v) := by
  grind [firstUnit, canonical_iff, canonical_beginFactor, canonical_deadlineStop, canonical_goOn, canonical_mayGo, canonical_setSolve,
    canonical_stopBest]

@[simp] theorem canonical_startValues (v : Solve) : Canonical (startValues s v).1 := by
  grind [startValues, canonical_iff, canonical_drawBits]

@[simp] theorem canonical_beginSolve (v : Solve) (others : List Rendezvous) : Canonical (beginSolve s v others) := by
  grind [beginSolve, canonical_iff, canonical_firstUnit, canonical_inputFault, canonical_readVA, canonical_startPoint, canonical_startValues]

@[simp] theorem canonical_drawSignature : Canonical (drawSignature s).1 := canonical_foldl_fst (fun _ _ ha => canonical_drawBits ha) _ hs

theorem canonical_withWorkspace (v : Solve) (go : State → State) (hf : ∀ s, Canonical s → Canonical (go s)) : Canonical (withWorkspace s v go) := by
  unfold withWorkspace
  refine canonical_ite (canonical_refuseSolve hs ..) ?_
  split
  · exact canonical_refuseSolve (canonical_xltFault hs ..) ..
  · exact hf _ hs

@[simp] theorem canonical_openSolve (v : Solve) : Canonical (openSolve s v) := by
  grind [openSolve, canonical_iff, canonical_emit, canonical_beginSolve, canonical_drawSignature, canonical_readInput, canonical_refuseSolve,
    canonical_setSolve, canonical_withWorkspace]

theorem canonical_gatherBlocks (v : Solve) (all : List Rendezvous) (go : State → Solve → State) (hgo : ∀ s v, Canonical s → Canonical (go s v)) :
    Canonical (gatherBlocks s v all go) := by
  unfold gatherBlocks
  split
  next q gr gc _ =>
    extract_lets n runs
    refine canonical_ite (canonical_refuseSolve hs ..) ?_
    have hread := canonical_readHeader hs v.desc.matrix true
    split
    · next h heq =>
      extract_lets v1
      refine canonical_withWorkspace (hread.of_eq heq) _ _ fun s hs => ?_
      have hcells := canonical_readCells hs h.values runs v1.desc.cholesky
      split
      next heq =>
        extract_lets cells elem
        exact canonical_ite (canonical_refuseSolve (hcells.of_eq heq) ..) (hgo _ _ (hcells.of_eq heq))
    · next heq => exact canonical_refuseSolve (hread.of_eq heq) ..

@[simp] theorem canonical_spoilWork (v : Solve) : Canonical (spoilWork s v) := by simp [spoilWork, hs]

@[simp] theorem canonical_freeInterior (v : Solve) : Canonical (freeInterior s v).1 := by
  grind [freeInterior, canonical_iff, canonical_drawBits]

@[simp] theorem canonical_endSolve (v : Solve) (resNorm : U64) (writeX : Bool) : Canonical (endSolve s v resNorm writeX) := by
  grind [endSolve, canonical_iff, canonical_dropSolve, canonical_finish, canonical_freeInterior, canonical_raise, canonical_releaseSolve,
    canonical_spoilWork, canonical_writeRecord, canonical_writeVA]

@[simp] theorem canonical_returnedNorm (v : Solve) : Canonical (returnedNorm s v).1 := by
  unfold returnedNorm
  split <;> simp [hs]

@[simp] theorem canonical_abortSolve (v : Solve) : Canonical (abortSolve s v) := by
  grind [abortSolve, canonical_iff, canonical_drawBits, canonical_dropSolve, canonical_endSolve, canonical_finish, canonical_refusedSolve,
    canonical_releaseSolve, canonical_solveLines, canonical_spoilMatrix]

@[simp] theorem canonical_abortZenle : Canonical (abortZenle s) := by
  unfold abortZenle
  exact canonical_foldl (fun s v hs => canonical_abortSolve hs v) _ (canonical_foldl (fun s a hs => canonical_abortAssembly hs a) _ hs)

end

/-! ## Abort, rewind and unbind -/

section
variable {s : State} (hs : Canonical s)
include hs

@[simp] theorem canonical_quietJob : Canonical (quietJob s) := by simp [quietJob, hs]

@[simp] theorem canonical_failRequests : Canonical (failRequests s) := by
  unfold failRequests
  exact canonical_foldl (fun s x hs => by simp [hs]) _ (by simp [hs])

@[simp] theorem canonical_clearFabric : Canonical (clearFabric s) := by simp [clearFabric, hs]

@[simp] theorem canonical_abortFabric : Canonical (abortFabric s) := by
  grind [abortFabric, canonical_iff, canonical_clearFabric, canonical_failRequests, canonical_raise]

@[simp] theorem canonical_chooseLines (ls : List (Nat × List Byte × List Byte)) (known : List (Nat × Bool)) : Canonical (chooseLines ls s known).1 := by
  induction ls generalizing s known with
  | nil => exact hs
  | cons e r ih => exact canonical_ite_fst (ih hs _) (ih (canonical_drawBool hs) _)

@[simp] theorem canonical_undoPiece (e : Nat × List Byte × List Byte) : Canonical (undoPiece s e) := by
  unfold undoPiece
  split <;> simp [hs]

@[simp] theorem canonical_cancelDma (t : TileId) (d : DmaXfer) : Canonical (cancelDma s t d) := by
  unfold cancelDma
  extract_lets c s1
  have hc : Canonical c.1 := canonical_chooseLines hs ..
  have h1 : Canonical s1 := canonical_foldl (fun s e hs => canonical_undoPiece hs e) _ hc
  exact canonical_ite hs (canonical_ite h1 (canonical_straggle h1 ..))

@[simp] theorem canonical_abortTile (t : TileId) : Canonical (abortTile s t) := by
  unfold abortTile
  extract_lets x s1 s2 s3 s4 s5
  have h1 : Canonical s1 := canonical_foldl (fun s d hs => canonical_cancelDma hs ..) _ hs
  have h3 : Canonical s3 := canonical_touchTile (canonical_setReg64 (canonical_setReg h1 ..) ..) t
  have h5 : Canonical s5 := canonical_endWaiting (canonical_ite hs (canonical_endRunning h3 ..)) ..
  exact canonical_ite (canonical_startZeroing h5 ..) h5

@[simp] theorem canonical_abortTiles : Canonical (abortTiles s) := by
  unfold abortTiles
  exact canonical_foldl (fun s x hs => by simp [hs]) _ (by simp [hs])

@[simp] theorem canonical_undoCore (l : List (Nat × List (List Byte))) : Canonical (undoCore s l) := by
  unfold undoCore
  exact canonical_foldl (fun s x hs => by simp [hs]) _ (by simp [hs])

@[simp] theorem canonical_abortCore (c : Nat) : Canonical (abortCore s c) := by
  grind [abortCore, canonical_iff, canonical_coreTime, canonical_endProgram, canonical_recordStop, canonical_undoCore]

@[simp] theorem canonical_abortCores : Canonical (abortCores s) := by
  unfold abortCores
  exact canonical_foldl (fun s x hs => by simp [hs]) _ (by simp [hs])

@[simp] theorem canonical_abortStroke : Canonical (abortStroke s) := by
  unfold abortStroke
  split <;> simp [hs]

@[simp] theorem canonical_abortAudits : Canonical (abortAudits s) := by
  unfold abortAudits
  exact canonical_foldl (fun s x hs => by simp [hs]) _ (by simp [hs])

@[simp] theorem canonical_abortCommands : Canonical (abortCommands s) := by
  unfold abortCommands
  exact canonical_foldl (fun s x hs => by simp [hs]) _ (by simp [hs])

@[simp] theorem canonical_abortRings : Canonical (abortRings s) := by
  grind [abortRings, canonical_iff, canonical_closeRings]

@[simp] theorem canonical_cancelWork : Canonical (cancelWork s) := by
  grind [cancelWork, canonical_iff, canonical_abortAudits, canonical_abortColls, canonical_abortCommands, canonical_abortCores, canonical_abortRings,
    canonical_abortStroke, canonical_abortTiles, canonical_abortZenle]

@[simp] theorem canonical_dropWindow : Canonical (dropWindow s) := by
  unfold dropWindow
  exact canonical_foldl (fun s x hs => by simp [hs]) _ (by simp [hs])

@[simp] theorem canonical_abortCkpt : Canonical (abortCkpt s) := by simp [abortCkpt, hs]

@[simp] theorem canonical_reportStores : Canonical (reportStores s) := by
  unfold reportStores
  split <;> simp [hs]

@[simp] theorem canonical_betweenJobs : Canonical (betweenJobs s) := by
  unfold betweenJobs
  extract_lets s1 _ s2
  have h1 : Canonical s1 := canonical_replaceAwaiting hs
  have h2 : Canonical s2 := ⟨h1.regs, h1.host, h1.stack, h1.tilesWf.map _ fun _ => rfl⟩
  exact canonical_withdrawFrames (canonical_repairRows h2)

@[simp] theorem canonical_abandonLaunch : Canonical (abandonLaunch s) := by
  unfold abandonLaunch
  split <;> simp [hs]

@[simp] theorem canonical_rewindJob : Canonical (rewindJob s) := by
  unfold rewindJob
  split <;> simp [hs]

@[simp] theorem canonical_zeroTiles : Canonical (zeroTiles s) := by
  unfold zeroTiles
  exact canonical_foldl (fun s x hs => by simp [hs]) _ (by simp [hs])

@[simp] theorem canonical_zeroCores : Canonical (zeroCores s) := by simp [zeroCores, hs]

end

end Sys2Proof.Machine
end

section
/-! The canonical form is kept: the frames that the commands share, each for a body that keeps it. -/

-- One theorem at a time: the stacks of threads that elaborate side by side count against the check's memory.
set_option Elab.async false

namespace Sys2Proof.Machine

section
variable {s : State} (hs : Canonical s)
include hs

theorem resCanonical_powered {f : State → State} (hf : ∀ s, Canonical s → Canonical (f s)) : ResCanonical (powered s f) := by
  unfold powered
  split
  · exact hf s hs
  · exact hs

theorem resCanonical_overPcie {f : State → State} (hf : ∀ s, Canonical s → Canonical (f s)) : ResCanonical (overPcie s f) := by
  unfold overPcie
  split
  · exact hf s hs
  · exact hs

theorem resCanonical_onRing {c : CmdCtx} {op : Nat} {ops : List (Nat × List Byte)} {body : State → State}
    (hf : ∀ s, Canonical s → Canonical (body s)) : ResCanonical (onRing s c op ops body) := by
  unfold onRing
  split
  · exact hs
  · extract_lets s1 st s2
    have h1 : Canonical s1 := canonical_accept hs ..
    have h2 : Canonical s2 := canonical_ite (canonical_finish h1 ..) (hf _ h1)
    exact canonical_refuseBad h2 ..

theorem resCanonical_onFirmware {f : State → State} (hf : ∀ s, Canonical s → Canonical (f s)) : ResCanonical (onFirmware s f) :=
  resCanonical_powered hs fun _ hs => canonical_ite hs (hf _ hs)

theorem resCanonical_onMgmt {src : MgmtSrc} {body : Nat} {f : State → State} (hf : ∀ s, Canonical s → Canonical (f s)) :
    ResCanonical (onMgmt s src body f) := by
  refine resCanonical_powered hs fun s hs => canonical_ite hs ?_
  split
  · exact hf _ (canonical_countMgmt hs ..)
  · exact hf _ hs

theorem resCanonical_onFrame {h : EvfHdr} {f : State → State} (hf : ∀ s, Canonical s → Canonical (f s)) : ResCanonical (onFrame s h f) := by
  refine resCanonical_powered hs fun s hs => canonical_ite hs (canonical_ite (canonical_bump hs ..) ?_)
  have h1 := canonical_forwardFrame hs h
  exact canonical_ite h1 (hf _ (canonical_bump h1 ..))

theorem resCanonical_onTile {t : TileId} {cls op : Nat} {w : TWord} {body : State → State} (hf : ∀ s, Canonical s → Canonical (body s)) :
    ResCanonical (onTile t cls op w s body) := by
  refine resCanonical_powered hs fun s hs => canonical_ite (canonical_parityCheck hs _) ?_
  have hfetch := canonical_fetchScript hs t
  split
  · exact hs
  · next heq => exact canonical_refuseHere (hfetch.of_eq heq) ..
  · next heq => exact canonical_ite (hf _ (hfetch.of_eq heq)) (canonical_ite hs (canonical_refuseHere (hfetch.of_eq heq) ..))

/-- A command that waits while its memory is held, and runs on its ring otherwise. -/
theorem resCanonical_heldOrOnRing {held : Prop} [Decidable held] {c : CmdCtx} {op : Nat} {ops : List (Nat × List Byte)}
    {body : State → State} (hf : ∀ s, Canonical s → Canonical (body s)) :
    ResCanonical (if held then .next s else onRing s c op ops body) := by
  split
  · exact hs
  · exact resCanonical_onRing hs hf

theorem resCanonical_runEop (op : Nat) (t : TileId) (w : TWord) : ResCanonical (runEop op t w s) :=
  resCanonical_onTile hs fun _ hs => canonical_withDescriptor hs t _ w _ fun _ _ _ hs => canonical_dispatchEop hs ..

theorem resCanonical_onCore {c : BitVec 8} {body : State → State} (hf : ∀ s, Canonical s → Canonical (body s)) :
    ResCanonical (onCore c s body) := by
  refine resCanonical_powered hs fun s hs => ?_
  exact canonical_ite hs (canonical_ite (canonical_ite (canonical_stopTrap hs ..) (canonical_enterTrap hs ..)) (canonical_takeIrq (hf _ hs) _))

theorem resCanonical_coreAtomic (core : BitVec 8) (rd rs1 rs2 : BitVec 5) (f : U64 → U64 → U64 → U64) :
    ResCanonical (coreAtomic core rd rs1 rs2 f s) := by
  refine resCanonical_onCore hs fun s hs => ?_
  extract_lets c x va
  refine canonical_scalarMem hs c va 8 true _ fun s l hs => ?_
  split
  · next pa =>
    have hread := canonical_coreRead hs (.stack pa) 8
    split
    · next heq =>
      have h1 := hread.of_eq heq
      exact canonical_retire (canonical_bumpClocks (canonical_modCore (canonical_coreWrite h1 ..) ..) ..) _
    · next heq => exact canonical_stopTrap (hread.of_eq heq) ..
  · exact canonical_stopTrap hs ..

theorem resCanonical_coreSync (core : BitVec 8) (vs1 vs2 : BitVec 5) (setOp : Bool) : ResCanonical (coreSync core vs1 vs2 setOp s) := by
  refine resCanonical_onCore hs fun s hs => ?_
  extract_lets c x n
  split
  · exact canonical_stopTrap hs ..
  · exact canonical_retire (canonical_applySync hs ..) _
  · exact canonical_sendReq (canonical_retire (canonical_modCore hs ..) _) _

theorem resCanonical_onSpan {core : BitVec 8} {major op : Nat} {w : VWord} {legal : Core → Bool} {body : State → State}
    (hf : ∀ s, Canonical s → Canonical (body s)) : ResCanonical (onSpan core major op w s legal body) := by
  refine resCanonical_onCore hs fun s hs => ?_
  have h1 := canonical_seeWord hs core.toNat major op w
  exact canonical_ite (canonical_enterTrap h1 ..) (canonical_ite (canonical_stopTrap h1 ..) (hf _ h1))

theorem resCanonical_elemSpan (core : BitVec 8) (major op : Nat) (w : VWord) (legal : Core → Bool) (dew dg : Nat) (f : Core → Nat → Nat × Nat) :
    ResCanonical (elemSpan core major op w s legal dew dg f) :=
  resCanonical_onSpan hs fun _ hs => canonical_doneSpan (canonical_modCore hs ..) ..

theorem resCanonical_maskSpan (core : BitVec 8) (major op : Nat) (w : VWord) (legal : Core → Bool) (f : Core → Nat → Bool × Nat) :
    ResCanonical (maskSpan core major op w s legal f) :=
  resCanonical_onSpan hs fun _ hs => canonical_doneSpan (canonical_modCore hs ..) ..

theorem resCanonical_fpSpan (core : BitVec 8) (op : Nat) (w : VWord) (f : Fmt → Rnd → Nat → Nat → Nat → FpResult) :
    ResCanonical (fpSpan core op w f s) := by
  unfold fpSpan
  exact resCanonical_elemSpan hs ..

theorem resCanonical_fpCompareSpan (core : BitVec 8) (op rel : Nat) (w : VWord) : ResCanonical (fpCompareSpan core op rel w s) := by
  unfold fpCompareSpan
  exact resCanonical_maskSpan hs ..

theorem resCanonical_cvtUp (core : BitVec 8) (op : Nat) (w : VWord) (bf : Bool) : ResCanonical (cvtUp core op w bf s) := by
  unfold cvtUp
  exact resCanonical_elemSpan hs ..

theorem resCanonical_cvtDown (core : BitVec 8) (op : Nat) (w : VWord) (bf : Bool) : ResCanonical (cvtDown core op w bf s) := by
  unfold cvtDown
  exact resCanonical_elemSpan hs ..

theorem resCanonical_widenFp (core : BitVec 8) (op : Nat) (w : VWord) (f : Fmt → Rnd → Nat → Nat → Nat → FpResult) :
    ResCanonical (widenFp core op w f s) := by
  unfold widenFp
  exact resCanonical_elemSpan hs ..

theorem resCanonical_intSpan (core : BitVec 8) (op : Nat) (w : VWord) (f : Nat → Nat → Nat → Nat) : ResCanonical (intSpan core op w f s) := by
  unfold intSpan
  exact resCanonical_elemSpan hs ..

theorem resCanonical_widenInt (core : BitVec 8) (op : Nat) (w : VWord) (val : Nat → Nat → Int) (acc : Bool) :
    ResCanonical (widenInt core op w val acc s) := by
  unfold widenInt
  exact resCanonical_elemSpan hs ..

theorem resCanonical_dotInt (core : BitVec 8) (op : Nat) (w : VWord) (va vb : Nat → Nat → Int) : ResCanonical (dotInt core op w va vb s) := by
  unfold dotInt
  exact resCanonical_elemSpan hs ..

theorem resCanonical_maskOp (core : BitVec 8) (op : Nat) (w : VWord) (f : Bool → Bool → Bool) : ResCanonical (maskOp core op w f s) := by
  unfold maskOp
  exact resCanonical_maskSpan hs ..

theorem resCanonical_vmemSpan (core : BitVec 8) (op : Nat) (w : VWord) (write probe idx : Bool) (f : Core → Nat → Nat) :
    ResCanonical (vmemSpan core op w write probe idx f s) :=
  resCanonical_onSpan hs fun _ hs => canonical_runVecMem hs _

theorem resCanonical_reduceSpan (core : BitVec 8) (op : Nat) (w : VWord) (fp : Bool) (f : Core → Nat → List Nat → FpResult) :
    ResCanonical (reduceSpan core op w fp f s) :=
  resCanonical_onSpan hs fun _ hs => canonical_doneSpan (canonical_modCore hs ..) ..

theorem resCanonical_foldSpan (core : BitVec 8) (op : Nat) (w : VWord) (fp : Bool) (f : Core → Nat → Nat → FpResult) :
    ResCanonical (foldSpan core op w fp f s) := by
  unfold foldSpan
  exact resCanonical_reduceSpan hs ..

theorem resCanonical_permSpan (core : BitVec 8) (op : Nat) (w : VWord) (legal : Core → Bool) (f : Core → Nat → Nat → Nat) :
    ResCanonical (permSpan core op w legal f s) :=
  resCanonical_onSpan hs fun _ hs => canonical_doneSpan (canonical_modCore (by simp [hs]) ..) ..

theorem resCanonical_moveSpan {core : BitVec 8} {op : Nat} {w : VWord} {fp : Bool} {put : State → Nat → State}
    (hf : ∀ s v, Canonical s → Canonical (put s v)) : ResCanonical (moveSpan core op w fp put s) := by
  refine resCanonical_onSpan hs fun s hs => ?_
  extract_lets c x s1
  have h1 : Canonical s1 := canonical_ite hs (canonical_ite (hf _ _ hs) (canonical_ite (hf _ _ hs) hs))
  exact canonical_doneSpan h1 ..

theorem resCanonical_maskScan (core : BitVec 8) (op : Nat) (w : VWord) (f : List Nat → U64) : ResCanonical (maskScan core op w f s) :=
  resCanonical_onSpan hs fun _ hs => canonical_doneSpan (canonical_ite hs (canonical_modCore hs ..)) ..

end

end Sys2Proof.Machine
end

section
/-! The canonical form is kept: commands of power, registers, stacks and the host. -/

-- One theorem at a time: the stacks of threads that elaborate side by side count against the check's memory.
set_option Elab.async false

namespace Sys2Proof.Machine

/-! ## The power controller -/

section
variable {s : State} (hs : Canonical s)
include hs

@[simp] theorem resCanonical_execVinOutOfRange : ResCanonical (execVinOutOfRange s) :=
  resCanonical_powered hs fun s hs => by grind [canonical_iff, canonical_setRegBit, canonical_raise]

@[simp] theorem resCanonical_execVinExcursionEnd : ResCanonical (execVinExcursionEnd s) := resCanonical_powered hs fun s hs => by simp [hs]

@[simp] theorem resCanonical_execHoldWaterAsserted : ResCanonical (execHoldWaterAsserted s) :=
  resCanonical_powered hs fun s hs => by grind [canonical_iff, canonical_setRegBit, canonical_bump, canonical_stopWater]

@[simp] theorem resCanonical_execHoldWaterDeasserted : ResCanonical (execHoldWaterDeasserted s) := resCanonical_powered hs fun s hs => by simp [hs]

@[simp] theorem resCanonical_execHoldWaterCleared : ResCanonical (execHoldWaterCleared s) :=
  resCanonical_powered hs fun s hs => by (repeat' split) <;> simp [hs]

@[simp] theorem resCanonical_execAllocation (m : PowerMeas) : ResCanonical (execAllocation m s) := resCanonical_powered hs fun s hs => by simp [hs]

@[simp] theorem resCanonical_execPowerOverLimit (inputW : Nat) (ms : List PhaseMeas) : ResCanonical (execPowerOverLimit inputW ms s) :=
  resCanonical_powered hs fun s hs => by grind [canonical_iff, canonical_raiseDemands, canonical_refreshCapped, canonical_showCeilings]

@[simp] theorem resCanonical_execPhaseOccurrenceEnd (phase : BitVec 8) (ms : List PhaseMeas) : ResCanonical (execPhaseOccurrenceEnd phase ms s) :=
  resCanonical_powered hs fun _ hs => canonical_ite hs (canonical_foldl (fun _ _ hs => canonical_learn hs ..) _ hs)

@[simp] theorem resCanonical_execWakeGroupGrant : ResCanonical (execWakeGroupGrant s) :=
  resCanonical_powered hs fun s hs => by grind [canonical_iff, canonical_bumpClocks]

@[simp] theorem resCanonical_execCeilingStep (die : BitVec 2) : ResCanonical (execCeilingStep die s) :=
  resCanonical_powered hs fun s hs => by simp [hs]

@[simp] theorem resCanonical_execDroopStretch (t : TileId) : ResCanonical (execDroopStretch t s) :=
  resCanonical_powered hs fun s hs => by grind [canonical_iff, canonical_bump, canonical_refreshCapped, canonical_showCeilings]

@[simp] theorem resCanonical_execDroopCutExpiry (die : BitVec 2) : ResCanonical (execDroopCutExpiry die s) :=
  resCanonical_powered hs fun s hs => by grind [canonical_iff, canonical_refreshCapped, canonical_showCeilings]

@[simp] theorem resCanonical_execPaceRenewal : ResCanonical (execPaceRenewal s) :=
  resCanonical_powered hs fun _ hs => canonical_foldl (fun _ _ hs => canonical_sendPace hs _) _ (canonical_refreshPace hs)

@[simp] theorem resCanonical_execPaceMessage (h : PktHdr) (b : PaceBody) : ResCanonical (execPaceMessage h b s) :=
  resCanonical_powered hs fun s hs => by grind [canonical_iff, canonical_bump, canonical_countMgmt, canonical_forwardPace, canonical_refreshFollowing]

@[simp] theorem resCanonical_execPaceRelease (h : PktHdr) (b : PaceBody) : ResCanonical (execPaceRelease h b s) :=
  resCanonical_powered hs fun s hs => by grind [canonical_iff, canonical_countMgmt, canonical_dropFollowed, canonical_forwardPace]

@[simp] theorem resCanonical_execPaceHoldExpiry (rank : U32) (phase : BitVec 8) : ResCanonical (execPaceHoldExpiry rank phase s) :=
  resCanonical_powered hs fun s hs => by simp [hs]

@[simp] theorem resCanonical_execJunctionTempSample (ad : List Nat) (fabric steering : Nat) : ResCanonical
    (execJunctionTempSample ad fabric steering s) :=
  resCanonical_powered hs fun s hs => by
    grind [canonical_iff, canonical_setReg, canonical_setRegBit, canonical_raise, canonical_restartWater, canonical_stopWater]

@[simp] theorem resCanonical_execThermalCapStep (die : BitVec 2) : ResCanonical (execThermalCapStep die s) :=
  resCanonical_powered hs fun s hs => by grind [canonical_iff, canonical_setRegBit]

@[simp] theorem resCanonical_execAgeingCheck (slackLow : List (Nat × Nat)) : ResCanonical (execAgeingCheck slackLow s) :=
  resCanonical_powered hs fun _ hs => canonical_foldl (fun _ e hs => canonical_ageIsland hs e) _ hs

@[simp] theorem resCanonical_execWearRefresh (hoursOn eye : Nat) : ResCanonical (execWearRefresh hoursOn eye s) :=
  resCanonical_powered hs fun s hs => by simp [hs]

end

/-! ## BAR0 accesses -/

section
variable {s : State} (hs : Canonical s)
include hs

@[simp] theorem resCanonical_execLatchedLowRead (off : BitVec 26) : ResCanonical (execLatchedLowRead off s) :=
  resCanonical_powered hs fun s hs => by simp [hs]

@[simp] theorem resCanonical_execLatchedHighRead (off : BitVec 26) : ResCanonical (execLatchedHighRead off s) :=
  resCanonical_powered hs fun s hs => by simp [hs]

@[simp] theorem resCanonical_execBar0BadAccess (off : BitVec 26) (write : Bool) : ResCanonical (execBar0BadAccess off write s) :=
  resCanonical_powered hs fun s hs => by grind [canonical_iff, canonical_emit, canonical_badAccess]

@[simp] theorem resCanonical_execRegisterWrite (off : BitVec 26) (value : U32) : ResCanonical (execRegisterWrite off value s) :=
  resCanonical_powered hs fun s hs => by simp [hs]

@[simp] theorem resCanonical_execGlbSetupLock (value : U32) : ResCanonical (execGlbSetupLock value s) :=
  resCanonical_powered hs fun s hs => by simp [hs]

@[simp] theorem resCanonical_execCounterClear (off : BitVec 26) (value : U32) : ResCanonical (execCounterClear off value s) :=
  resCanonical_powered hs fun s hs => by simp [hs]

@[simp] theorem resCanonical_execMemThermMode (stack : BitVec 3) (value : U32) : ResCanonical (execMemThermMode stack value s) :=
  resCanonical_powered hs fun s hs => by simp [hs]

@[simp] theorem resCanonical_execTileFlagClr (t : TileId) (value : U32) : ResCanonical (execTileFlagClr t value s) :=
  resCanonical_powered hs fun s hs => by simp [hs]

@[simp] theorem resCanonical_execCkptNow (value : U32) : ResCanonical (execCkptNow value s) := resCanonical_powered hs fun s hs => by simp [hs]
@[simp] theorem resCanonical_execPwrLimit (value : U32) : ResCanonical (execPwrLimit value s) := resCanonical_powered hs fun s hs => by simp [hs]

@[simp] theorem resCanonical_execHifSummaryReq (value : U32) : ResCanonical (execHifSummaryReq value s) :=
  resCanonical_powered hs fun s hs => by simp [hs]

@[simp] theorem resCanonical_execPmcRecovCtrl (value : U32) : ResCanonical (execPmcRecovCtrl value s) :=
  resCanonical_powered hs fun s hs => by simp [hs]

@[simp] theorem resCanonical_execSqEnable (i : BitVec 6) (cfg : U32) : ResCanonical (execSqEnable i cfg s) :=
  resCanonical_powered hs fun s hs => by simp [hs]

@[simp] theorem resCanonical_execSqDisable (i : BitVec 6) : ResCanonical (execSqDisable i s) := resCanonical_powered hs fun s hs => by simp [hs]

@[simp] theorem resCanonical_execCqEnable (j : BitVec 6) (cfg : U32) : ResCanonical (execCqEnable j cfg s) :=
  resCanonical_powered hs fun s hs => by simp [hs]

@[simp] theorem resCanonical_execCqDisable (j : BitVec 6) : ResCanonical (execCqDisable j s) := resCanonical_powered hs fun s hs => by simp [hs]
@[simp] theorem resCanonical_execEvqEnable (cfg : U32) : ResCanonical (execEvqEnable cfg s) := resCanonical_powered hs fun s hs => by simp [hs]

end

/-! ## The stack controllers -/

section
variable {s : State} (hs : Canonical s)
include hs

@[simp] theorem resCanonical_execStackTempSample (stack : BitVec 3) (tempC thrC : BitVec 8) (rateReq : BitVec 4) : ResCanonical
    (execStackTempSample stack tempC thrC rateReq s) :=
  resCanonical_powered hs fun s hs => by grind [canonical_iff, canonical_setReg, canonical_bumpClocks, canonical_hotStack, canonical_meterStack]

@[simp] theorem resCanonical_execScrub (stack : BitVec 3) (line : U64) (err : LineErr) : ResCanonical (execScrub stack line err s) :=
  resCanonical_powered hs fun s hs => by grind [canonical_iff, canonical_lineError]

@[simp] theorem resCanonical_execBlockRetired (stack : BitVec 3) : ResCanonical (execBlockRetired stack s) :=
  resCanonical_powered hs fun s hs => by grind [canonical_iff, canonical_retireBlock]

@[simp] theorem resCanonical_execSpareMapFlashWrite : ResCanonical (execSpareMapFlashWrite s) := resCanonical_powered hs fun s hs => by simp [hs]

@[simp] theorem resCanonical_execStagingStallRelease (die : BitVec 2) : ResCanonical (execStagingStallRelease die s) :=
  resCanonical_powered hs fun s hs => by grind [canonical_iff, canonical_performWrite, canonical_tryArrive]

end

/-! ## Power-up, resets, pins, bridges and heartbeats -/

section
variable {s : State} (hs : Canonical s)
include hs

@[simp] theorem resCanonical_execPowerUp (env : PowerUpEnv) : ResCanonical (execPowerUp env s) := by
  unfold execPowerUp
  split
  · exact hs
  · extract_lets s1 sec s2
    have h1 : Canonical s1 := canonical_coldStart hs env
    have h2 : Canonical s2 := by
      simp only [s2]
      split
      · exact canonical_holdAtBoot (canonical_bootFirmware h1 ..)
      · simp [h1]
    simp [h2]

@[simp] theorem resCanonical_execVinLoss : ResCanonical (execVinLoss s) :=
  resCanonical_powered hs fun s hs => by simp [State.reset, Mem.reset, hs]

@[simp] theorem resCanonical_execPerstAssert : ResCanonical (execPerstAssert s) :=
  resCanonical_powered hs fun s hs => by grind [canonical_iff, canonical_hostReset]

@[simp] theorem resCanonical_execPerstDeassert : ResCanonical (execPerstDeassert s) := resCanonical_powered hs fun s hs => by simp [hs]
@[simp] theorem resCanonical_execFunctionLevelReset : ResCanonical (execFunctionLevelReset s) := resCanonical_overPcie hs fun s hs => by simp [hs]
@[simp] theorem resCanonical_execHotReset : ResCanonical (execHotReset s) := resCanonical_overPcie hs fun s hs => by simp [hs]

@[simp] theorem resCanonical_execHostLinkChanged (gen width : Nat) (busMaster : Bool) : ResCanonical (execHostLinkChanged gen width busMaster s) :=
  resCanonical_overPcie hs fun s hs => by grind [canonical_iff, canonical_setRegBit, canonical_setRegBits, canonical_raise]

@[simp] theorem resCanonical_execPpsInEdge : ResCanonical (execPpsInEdge s) :=
  resCanonical_powered hs fun s hs => by grind [canonical_iff, canonical_setReg, canonical_setRegBit, canonical_bumpClocks]

@[simp] theorem resCanonical_execFlyPresentChange (connector : BitVec 2) (seated : Bool) : ResCanonical (execFlyPresentChange connector seated s) := by
  refine resCanonical_powered hs fun s hs => ?_
  extract_lets c _ s1
  have h1 : Canonical s1 := by simp [s1, hs]
  exact canonical_ite (canonical_missingCable h1 _) (canonical_foldl (fun _ _ hs => canonical_modPort hs ..) _ h1)

@[simp] theorem resCanonical_execBridgeCrcRetry (bridge wire : Nat) : ResCanonical (execBridgeCrcRetry bridge wire s) :=
  resCanonical_powered hs fun s hs => by grind [canonical_iff, canonical_replaceWire]

@[simp] theorem resCanonical_execBridgeWireSpared (bridge : Nat) : ResCanonical (execBridgeWireSpared bridge s) :=
  resCanonical_powered hs fun s hs => by grind [canonical_iff, canonical_raise, canonical_replaceWire]

@[simp] theorem resCanonical_execDieHeartbeat (die : BitVec 3) : ResCanonical (execDieHeartbeat die s) :=
  resCanonical_powered hs fun s hs => by simp [hs]

@[simp] theorem resCanonical_execDieHeartbeatMissed (die : BitVec 3) : ResCanonical (execDieHeartbeatMissed die s) :=
  resCanonical_powered hs fun s hs => by grind [canonical_iff, canonical_report]

@[simp] theorem resCanonical_execPmcHeartbeat : ResCanonical (execPmcHeartbeat s) := by
  refine resCanonical_powered hs fun s hs => ?_
  extract_lets up s1
  have h1 : Canonical s1 := canonical_foldl (fun _ _ hs => canonical_bump (canonical_emit hs _) ..) _ hs
  exact canonical_ite h1 (canonical_report (by simp [h1]) ..)

end

/-! ## The host's apertures -/

section
variable {s : State} (hs : Canonical s)
include hs

@[simp] theorem resCanonical_execBar2Read (addr : U64) (bytes : Nat) : ResCanonical (execBar2Read addr bytes s) :=
  resCanonical_overPcie hs fun s hs => by grind [canonical_iff, canonical_emit, canonical_badAccess, canonical_bar2Pieces]

@[simp] theorem resCanonical_execBar2Write (addr : U64) (data : List Byte) : ResCanonical (execBar2Write addr data s) :=
  resCanonical_overPcie hs fun s hs => by grind [canonical_iff, canonical_badAccess, canonical_bar2Stores]

@[simp] theorem resCanonical_execWake : ResCanonical (execWake s) :=
  resCanonical_overPcie hs fun s hs => by grind [canonical_iff, canonical_bump, canonical_readDoorbells, canonical_writeIdle]

@[simp] theorem resCanonical_execDoorbellPoll (hostOk : Bool) : ResCanonical (execDoorbellPoll hostOk s) :=
  resCanonical_overPcie hs fun s hs => by grind [canonical_iff, canonical_bump, canonical_readDoorbells, canonical_stopSq]

@[simp] theorem resCanonical_execIdleEntry : ResCanonical (execIdleEntry s) :=
  resCanonical_overPcie hs fun s hs => by grind [canonical_iff, canonical_bump, canonical_readDoorbells, canonical_writeIdle]

@[simp] theorem resCanonical_execHeldCompletionWrite (ring : BitVec 7) (hostOk : Bool) : ResCanonical (execHeldCompletionWrite ring hostOk s) :=
  resCanonical_powered hs fun s hs => by grind [canonical_iff, canonical_setCq, canonical_stopCq, canonical_writeCompletion]

@[simp] theorem resCanonical_execMsixInterrupt (src : IrqSrc) : ResCanonical (execMsixInterrupt src s) :=
  resCanonical_overPcie hs fun s hs => by grind [canonical_iff, canonical_sendVector, canonical_setCq]

@[simp] theorem resCanonical_execInternalDoorbellWrite (sq : Bool) (index : BitVec 6) (value : U32) : ResCanonical
    (execInternalDoorbellWrite sq index value s) :=
  resCanonical_powered hs fun s hs => by grind [canonical_iff, canonical_drainHeld, canonical_newTail, canonical_setCq]

end

/-! ## Mapping and COPY -/

section
variable {s : State} (hs : Canonical s)
include hs

@[simp] theorem resCanonical_execNop (c : CmdCtx) : ResCanonical (execNop c s) := resCanonical_onRing hs fun s hs => by simp [hs]

@[simp] theorem resCanonical_execReadSummary (c : CmdCtx) (out : U64) : ResCanonical (execReadSummary c out s) :=
  resCanonical_onRing hs fun s hs => by grind [canonical_iff, canonical_finish, canonical_takeSummary, canonical_writeOut]

@[simp] theorem resCanonical_execPhaseMark (c : CmdCtx) (phase : BitVec 8) : ResCanonical (execPhaseMark c phase s) :=
  resCanonical_onRing hs fun s hs => by simp [hs]

@[simp] theorem resCanonical_execMemMap (c : CmdCtx) (vaddr paddr : U64) (count : U32) (attr : BitVec 8) : ResCanonical
    (execMemMap c vaddr paddr count attr s) := by
  refine resCanonical_heldOrOnRing hs fun s hs => ?_
  extract_lets n st
  refine canonical_ite (canonical_finish hs ..) (canonical_finish (canonical_bump ?_ ..) ..)
  exact canonical_foldl (fun _ _ hs => canonical_bump (canonical_bump hs ..) ..) _ (canonical_foldl (fun _ _ hs => canonical_mapPage hs ..) _ hs)

@[simp] theorem resCanonical_execMemUnmap (c : CmdCtx) (vaddr : U64) (count : U32) : ResCanonical (execMemUnmap c vaddr count s) := by
  refine resCanonical_onRing hs fun s hs => ?_
  have hunmap : ∀ l : List Nat, Canonical (l.foldl unmapPage s) := fun l => canonical_foldl (fun _ _ hs => canonical_unmapPage hs _) l hs
  exact canonical_ite (canonical_finish hs ..) (canonical_ite (canonical_finish hs ..) (canonical_finish (canonical_bump (hunmap _) ..) ..))

@[simp] theorem resCanonical_execCopy (c : CmdCtx) (src dst bytes : U64) : ResCanonical (execCopy c src dst bytes s) :=
  resCanonical_onRing hs fun s hs => by grind [canonical_iff, canonical_finish, canonical_markStarted, canonical_runCopy]

@[simp] theorem resCanonical_execCopyDone (c : CmdCtx) : ResCanonical (execCopyDone c s) :=
  resCanonical_powered hs fun s hs => by grind [canonical_iff, canonical_finish, canonical_runCopy]

@[simp] theorem resCanonical_execSyncWait (c : CmdCtx) (value : U64) (counter : U16) : ResCanonical (execSyncWait c value counter s) :=
  resCanonical_onRing hs fun s hs => by grind [canonical_iff, canonical_addWait, canonical_finish, canonical_markStarted]

@[simp] theorem resCanonical_execCatchNow (c : CmdCtx) : ResCanonical (execCatchNow c s) :=
  resCanonical_onRing hs fun s hs => by grind [canonical_iff, canonical_finish, canonical_takeCatch]

@[simp] theorem resCanonical_execRingIntSq (c : CmdCtx) (base doorbell : U64) (index log2 cq : BitVec 8) : ResCanonical
    (execRingIntSq c base doorbell index log2 cq s) :=
  resCanonical_onRing hs fun s hs => by grind [canonical_iff, canonical_finish, canonical_setSq]

@[simp] theorem resCanonical_execRingIntCq (c : CmdCtx) (base doorbell : U64) (index log2 : BitVec 8) (notify : U16) : ResCanonical
    (execRingIntCq c base doorbell index log2 notify s) :=
  resCanonical_onRing hs fun s hs => by grind [canonical_iff, canonical_drainHeld, canonical_finish, canonical_setCq]

@[simp] theorem resCanonical_execRingIntSqDisable (c : CmdCtx) (index : BitVec 8) : ResCanonical (execRingIntSqDisable c index s) :=
  resCanonical_onRing hs fun s hs => by grind [canonical_iff, canonical_finish, canonical_setSq]

@[simp] theorem resCanonical_execRingIntCqDisable (c : CmdCtx) (index : BitVec 8) : ResCanonical (execRingIntCqDisable c index s) :=
  resCanonical_onRing hs fun s hs => by grind [canonical_iff, canonical_finish, canonical_setCq]

end

/-! ## Audit and owner configuration -/

section
variable {s : State} (hs : Canonical s)
include hs

@[simp] theorem resCanonical_execAudit (c : CmdCtx) (desc : U64) : ResCanonical (execAudit c desc s) := by
  refine resCanonical_heldOrOnRing hs fun s hs => canonical_ite (canonical_finish hs ..) ?_
  have hread := canonical_readVA hs agentAudit desc.toNat 64
  split
  · next heq =>
    have h1 := hread.of_eq heq
    exact canonical_ite (canonical_finish h1 ..) (canonical_ite (canonical_finish h1 ..) (by simp [h1]))
  · next heq => exact canonical_finish (hread.of_eq heq) ..

@[simp] theorem resCanonical_execAuditExecute (c : CmdCtx) : ResCanonical (execAuditExecute c s) :=
  resCanonical_powered hs fun s hs => by grind [canonical_iff, canonical_bump, canonical_finish, canonical_runAudit]

@[simp] theorem resCanonical_execAttest (c : CmdCtx) (nonce : List Byte) (out : U64) : ResCanonical (execAttest c nonce out s) :=
  resCanonical_onRing hs fun s hs => by grind [canonical_iff, canonical_bump, canonical_finish, canonical_writeOut]

@[simp] theorem resCanonical_execOwnerKey (c : CmdCtx) (block : U64) : ResCanonical (execOwnerKey c block s) :=
  resCanonical_onRing hs fun s hs => by grind [canonical_iff, canonical_finish, canonical_installOwner, canonical_raise, canonical_refuseOwner]

@[simp] theorem resCanonical_execOwnerConfig (c : CmdCtx) (block : U64) (bytes : U32) : ResCanonical (execOwnerConfig c block bytes s) :=
  resCanonical_onRing hs fun s hs => by grind [canonical_iff, canonical_applyEntries, canonical_finish, canonical_raise]

@[simp] theorem resCanonical_execFwUpdate (c : CmdCtx) (image bytes : U64) : ResCanonical (execFwUpdate c image bytes s) :=
  resCanonical_onRing hs fun s hs => by grind [canonical_iff, canonical_eraseOther, canonical_finish, canonical_markStarted]

@[simp] theorem resCanonical_execFwUpdateStaged (c : CmdCtx) : ResCanonical (execFwUpdateStaged c s) :=
  resCanonical_powered hs fun s hs => by grind [canonical_iff, canonical_commitOther, canonical_finish, canonical_raise]

@[simp] theorem resCanonical_execDbgChallenge : ResCanonical (execDbgChallenge s) :=
  resCanonical_powered hs fun s hs => by grind [canonical_iff, canonical_drawBits, canonical_emit]

@[simp] theorem resCanonical_execDbgUnlock (sig : List Byte) : ResCanonical (execDbgUnlock sig s) :=
  resCanonical_powered hs fun s hs => by grind [canonical_iff, canonical_emit, canonical_raise]

end

end Sys2Proof.Machine
end

section
/-! The canonical form is kept: commands of tiles, Azmarlink, collectives and checkpoints. -/

-- One theorem at a time: the stacks of threads that elaborate side by side count against the check's memory.
set_option Elab.async false

namespace Sys2Proof.Machine

theorem Tile.store_setS (x : Tile) (i : BitVec 4) (v : U64) : (x.setS i v).store = x.store := by
  unfold Tile.setS
  split <;> rfl

theorem canonical_copied {s : State} (hs : Canonical s) (g : Nat) (captured : Bool) : Canonical { s with mem := s.mem.copied g captured } := by
  unfold Mem.copied
  split <;> simp [hs]

/-! ## DMA of a tile -/

section
variable {s : State} (hs : Canonical s)
include hs

@[simp] theorem resCanonical_execDmaIn (t : TileId) (w : TWord) : ResCanonical (execDmaIn t w s) := resCanonical_onTile hs fun s hs => by simp [hs]
@[simp] theorem resCanonical_execDmaOut (t : TileId) (w : TWord) : ResCanonical (execDmaOut t w s) := resCanonical_onTile hs fun s hs => by simp [hs]

@[simp] theorem resCanonical_execDmaTransferDone (t : TileId) : ResCanonical (execDmaTransferDone t s) :=
  resCanonical_powered hs fun s hs => by simp [hs]

@[simp] theorem resCanonical_execInstructionCompletion (t : TileId) (u : TileUnit) : ResCanonical (execInstructionCompletion t u s) :=
  resCanonical_powered hs fun s hs => by grind [canonical_iff, canonical_dmaStep, canonical_retireEntry]

end

/-! ## Launch, waits and zeroing of a tile -/

section
variable {s : State} (hs : Canonical s)
include hs

@[simp] theorem resCanonical_execTileRun (c : CmdCtx) (script args : U64) (firstTile tileCount : U16) (dieMask options : BitVec 8) : ResCanonical
    (execTileRun c script args firstTile tileCount dieMask options s) := by
  refine resCanonical_heldOrOnRing hs fun s hs => canonical_ite (canonical_finish hs ..) (canonical_ite (canonical_finish hs ..) ?_)
  split
  · next heq => exact canonical_finish ((canonical_readArgs hs ..).of_eq heq) ..
  · next heq =>
    have h1 := (canonical_readArgs hs ..).of_eq heq
    exact canonical_ite (canonical_finish h1 ..)
      (canonical_foldl (fun _ _ hs => canonical_giveLaunch hs ..) _ (canonical_markStarted (by simp [h1]) _))

@[simp] theorem resCanonical_execTileScriptStart (t : TileId) : ResCanonical (execTileScriptStart t s) := by
  refine resCanonical_powered hs fun s hs => ?_
  extract_lets x
  split
  · exact hs
  · exact canonical_ite hs (canonical_touchTile (canonical_ite (canonical_clearForLaunch hs _) hs) _)

@[simp] theorem resCanonical_execTileNop (t : TileId) (w : TWord) : ResCanonical (execTileNop t w s) :=
  resCanonical_onTile hs fun s hs => by simp [hs]

@[simp] theorem resCanonical_execEndScript (t : TileId) (w : TWord) : ResCanonical (execEndScript t w s) :=
  resCanonical_onTile hs fun _ hs => canonical_ite hs (canonical_endRunning (canonical_touchTile hs t) ..)

@[simp] theorem resCanonical_execLoop (t : TileId) (w : TWord) : ResCanonical (execLoop t w s) :=
  resCanonical_onTile hs fun _ hs =>
    canonical_ite (canonical_refuseHere hs ..) (canonical_ite (canonical_advanceTo hs ..) (canonical_touchTile hs t))

@[simp] theorem resCanonical_execBrnz (t : TileId) (w : TWord) : ResCanonical (execBrnz t w s) :=
  resCanonical_onTile hs fun _ hs => canonical_ite (canonical_advance hs t) (canonical_touchTile hs t)

@[simp] theorem resCanonical_execSetS (t : TileId) (w : TWord) : ResCanonical (execSetS t w s) :=
  resCanonical_onTile hs fun _ hs => canonical_advance (canonical_touchTile hs t fun x => x.store_setS ..) t

@[simp] theorem resCanonical_execAdds (t : TileId) (w : TWord) : ResCanonical (execAdds t w s) :=
  resCanonical_onTile hs fun _ hs => canonical_advance (canonical_touchTile hs t fun x => x.store_setS ..) t

@[simp] theorem resCanonical_execScAdd (t : TileId) (w : TWord) : ResCanonical (execScAdd t w s) := resCanonical_onTile hs fun s hs => by simp [hs]
@[simp] theorem resCanonical_execScSet (t : TileId) (w : TWord) : ResCanonical (execScSet t w s) := resCanonical_onTile hs fun s hs => by simp [hs]

@[simp] theorem resCanonical_execScWait (t : TileId) (w : TWord) : ResCanonical (execScWait t w s) :=
  resCanonical_onTile hs fun _ hs =>
    canonical_ite (canonical_refuseHere hs ..) (canonical_ite (canonical_advance hs t) (canonical_ite hs
      (canonical_addWait (canonical_touchTile (canonical_advance (canonical_enqueue hs ..) t) t) ..)))

@[simp] theorem resCanonical_execFence (t : TileId) (w : TWord) : ResCanonical (execFence t w s) := resCanonical_onTile hs fun s hs => by simp [hs]

@[simp] theorem resCanonical_execScWaitSatisfied (w : Waiter) : ResCanonical (execScWaitSatisfied w s) :=
  resCanonical_powered hs fun s hs => by simp [hs]

@[simp] theorem resCanonical_execWaitPoll (w : Waiter) : ResCanonical (execWaitPoll w s) := resCanonical_powered hs fun s hs => by simp [hs]

@[simp] theorem resCanonical_execFlagRd (t : TileId) (w : TWord) : ResCanonical (execFlagRd t w s) :=
  resCanonical_onTile hs fun _ hs =>
    canonical_ite (canonical_refuseHere hs ..) (canonical_advance (canonical_touchTile hs t fun x => x.store_setS ..) t)

@[simp] theorem resCanonical_execFlagClr (t : TileId) (w : TWord) : ResCanonical (execFlagClr t w s) :=
  resCanonical_onTile hs fun s hs => by grind [canonical_iff, canonical_advance, canonical_clearFlags, canonical_refuseHere]

@[simp] theorem resCanonical_execTileZeroingDone (t : TileId) : ResCanonical (execTileZeroingDone t s) :=
  resCanonical_powered hs fun s hs => by simp [hs]

end

/-! ## The receiving side of Azmarlink -/

section
variable {s : State} (hs : Canonical s)
include hs

@[simp] theorem resCanonical_execRead (port : BitVec 4) (h : PktHdr) : ResCanonical (execRead port h s) :=
  resCanonical_powered hs fun s hs => by grind [canonical_iff, canonical_inOrder, canonical_markSeq, canonical_request, canonical_serveRead]

@[simp] theorem resCanonical_execWrite (port : BitVec 4) (h : PktHdr) (data : List Byte) : ResCanonical (execWrite port h data s) :=
  resCanonical_powered hs fun s hs => by
    grind [canonical_iff, canonical_ackDone, canonical_inOrder, canonical_request, canonical_respond, canonical_writeVA]

@[simp] theorem resCanonical_execWriteMasked (port : BitVec 4) (h : PktHdr) (mask : U16) (maskHi : BitVec 112) (data : List Byte) : ResCanonical
    (execWriteMasked port h mask maskHi data s) :=
  resCanonical_powered hs fun _ hs => canonical_ite hs (canonical_inOrder hs _ _ _ _ _ fun _ hs =>
    canonical_request hs _ _ _ _ _ _ _ (fun _ hs => canonical_respond hs ..) fun _ _ hs =>
      canonical_ackDone (canonical_foldl (fun _ _ hs => canonical_writeVA hs ..) _ hs) ..)

@[simp] theorem resCanonical_execScOp (port : BitVec 4) (h : PktHdr) (value : U64) : ResCanonical (execScOp port h value s) :=
  resCanonical_powered hs fun s hs => by grind [canonical_iff, canonical_ackDone, canonical_applySync, canonical_request, canonical_respond]

@[simp] theorem resCanonical_execAtomic (port : BitVec 4) (h : PktHdr) (operand compare : U64) : ResCanonical (execAtomic port h operand compare s) :=
  resCanonical_powered hs fun s hs => by
    grind [canonical_iff, canonical_dupAtomic, canonical_inOrder, canonical_joinSet, canonical_request, canonical_runAtomic, canonical_wordBusy]

@[simp] theorem resCanonical_execCombined (port : BitVec 4) (h : PktHdr) (cs : List Constituent) : ResCanonical (execCombined port h cs s) := by
  refine resCanonical_powered hs fun s hs => canonical_ite hs ?_
  extract_lets p fd s1 s2 step
  have h1 : Canonical s1 := canonical_bump hs ..
  have h2 : Canonical s2 := canonical_foldl (fun _ _ hs => canonical_inOrder hs _ _ _ _ _ fun _ hs => hs) _ h1
  refine canonical_ite (canonical_bump h2 ..) ?_
  have hstep : ∀ a c, Canonical a.1 → Canonical (step a c).1 := by
    intro a c ha
    refine canonical_ite_fst (canonical_refuse ha ..) ?_
    extract_lets st
    split
    · exact canonical_ite_fst (canonical_refuseSeq ha ..) ha
    · exact canonical_refuse ha ..
    · exact canonical_nackReq ha ..
    · exact canonical_ite_fst (canonical_refuse ha ..) (canonical_dupAtomic (canonical_bump ha ..) ..)
  have hfold := canonical_foldl_fst hstep cs (p := (s2, [])) h2
  exact canonical_foldl (fun _ _ hs => canonical_pumpFrom hs ..) _ (canonical_applySet hfold ..)

@[simp] theorem resCanonical_execCombineSetClose (fd : BitVec 1) : ResCanonical (execCombineSetClose fd s) :=
  resCanonical_powered hs fun s hs => by grind [canonical_iff, canonical_closeSet]

@[simp] theorem resCanonical_execReplayHoldExpiry (fd : BitVec 1) : ResCanonical (execReplayHoldExpiry fd s) :=
  resCanonical_powered hs fun s hs => by simp [hs]

@[simp] theorem resCanonical_execReplayCacheWaitRelease (fd : BitVec 1) : ResCanonical (execReplayCacheWaitRelease fd s) :=
  resCanonical_powered hs fun s hs => by grind [canonical_iff, canonical_pumpFrom, canonical_takeAtomic]

@[simp] theorem resCanonical_execMsg (port : BitVec 4) (h : PktHdr) (payload : List Byte) : ResCanonical (execMsg port h payload s) :=
  resCanonical_powered hs fun s hs => by grind [canonical_iff, canonical_deliver, canonical_request, canonical_respond]

@[simp] theorem resCanonical_execBulk (port : BitVec 4) (h : PktHdr) (pre : BulkPre) (data : List Byte) : ResCanonical (execBulk port h pre data s) :=
  resCanonical_powered hs fun s hs => by
    grind [canonical_iff, canonical_ackDone, canonical_countBulk, canonical_inOrder, canonical_request, canonical_respond, canonical_wardBytes,
      canonical_writeVA]

@[simp] theorem resCanonical_execDrain (port : BitVec 4) (h : PktHdr) : ResCanonical (execDrain port h s) :=
  resCanonical_powered hs fun s hs => by grind [canonical_iff, canonical_bump, canonical_noteReleased, canonical_refuse, canonical_respond]

@[simp] theorem resCanonical_execReadResp (port : BitVec 4) (h : PktHdr) (data : List Byte) (poison : List Bool) : ResCanonical
    (execReadResp port h data poison s) :=
  resCanonical_powered hs fun s hs => by simp [hs]

@[simp] theorem resCanonical_execAck (port : BitVec 4) (h : PktHdr) : ResCanonical (execAck port h s) :=
  resCanonical_powered hs fun s hs => by simp [hs]

@[simp] theorem resCanonical_execAtomicResp (port : BitVec 4) (h : PktHdr) (prior : U64) : ResCanonical (execAtomicResp port h prior s) :=
  resCanonical_powered hs fun s hs => by simp [hs]

@[simp] theorem resCanonical_execNack (port : BitVec 4) (h : PktHdr) (status : U16) : ResCanonical (execNack port h status s) :=
  resCanonical_powered hs fun s hs => by
    grind [canonical_iff, canonical_bump, canonical_deliverAnswer, canonical_drainAnswered, canonical_noteBusy, canonical_onResponse,
      canonical_retireReq, canonical_tryArrive]

@[simp] theorem resCanonical_execDrainReturn (port : BitVec 4) (h : PktHdr) : ResCanonical (execDrainReturn port h s) :=
  resCanonical_powered hs fun s hs => by grind [canonical_iff, canonical_drainAnswered, canonical_onResponse]

end

/-! ## The run of a collective -/

section
variable {s : State} (hs : Canonical s)
include hs

@[simp] theorem resCanonical_execCollComplete (group : BitVec 6) (collId : U32) : ResCanonical (execCollComplete group collId s) :=
  resCanonical_powered hs fun s hs => by grind [canonical_iff, canonical_endBatch, canonical_endColl]

end

/-! ## Requests of the host -/

section
variable {s : State} (hs : Canonical s)
include hs

@[simp] theorem resCanonical_execSyncOpAdd (c : CmdCtx) (value : U64) (member : U32) (counter : U16) : ResCanonical
    (execSyncOpAdd c value member counter s) :=
  resCanonical_onRing hs fun s hs => by simp [hs]

@[simp] theorem resCanonical_execSyncOpSet (c : CmdCtx) (value : U64) (member : U32) (counter : U16) : ResCanonical
    (execSyncOpSet c value member counter s) :=
  resCanonical_onRing hs fun s hs => by simp [hs]

@[simp] theorem resCanonical_execMsgSend (c : CmdCtx) (src tag : U64) (member : U32) (bytes : U16) (queue : BitVec 8) : ResCanonical
    (execMsgSend c src tag member bytes queue s) := by
  refine resCanonical_heldOrOnRing hs fun s hs => canonical_ite (canonical_finish hs ..) ?_
  have hread := canonical_readVA hs agentHost src.toNat bytes.toNat
  split
  · exact canonical_finish hs ..
  · split
    · next heq => exact canonical_sendReq (canonical_markStarted (hread.of_eq heq) _) _
    · next heq => exact canonical_finish (hread.of_eq heq) ..

@[simp] theorem resCanonical_execMsgRecv (c : CmdCtx) (buf tag mask : U64) (bytes : U16) (queue : BitVec 8) : ResCanonical
    (execMsgRecv c buf tag mask bytes queue s) := by
  refine resCanonical_heldOrOnRing hs fun s hs => ?_
  extract_lets r
  split
  · exact canonical_markStarted (by simp [hs]) _
  · exact canonical_finish (canonical_writeVA (by simp [hs]) ..) ..

@[simp] theorem resCanonical_execBufReg (c : CmdCtx) (vaddr bytes : U64) (key : U16) : ResCanonical (execBufReg c vaddr bytes key s) :=
  resCanonical_onRing hs fun s hs => by grind [canonical_iff, canonical_finish]

@[simp] theorem resCanonical_execBufDereg (c : CmdCtx) (key : U16) : ResCanonical (execBufDereg c key s) :=
  resCanonical_onRing hs fun s hs => by grind [canonical_iff, canonical_finish]

@[simp] theorem resCanonical_execBulkPut (c : CmdCtx) (src offset : U64) (lines member xferId : U32) (key counter : U16) : ResCanonical
    (execBulkPut c src offset lines member xferId key counter s) := by
  refine resCanonical_heldOrOnRing hs fun s hs => canonical_ite (canonical_finish hs ..) (canonical_ite (canonical_finish hs ..) ?_)
  have hread := canonical_readVA hs agentHost src.toNat (128 * lines.toNat)
  split
  · exact canonical_finish hs ..
  · refine canonical_ite (canonical_finish hs ..) ?_
    split
    · next heq => exact canonical_sendBulk (canonical_markStarted (by simp [hread.of_eq heq]) _) ..
    · next heq => exact canonical_finish (hread.of_eq heq) ..

end

/-! ## Start and end of collectives -/

section
variable {s : State} (hs : Canonical s)
include hs

@[simp] theorem resCanonical_execColl (c : CmdCtx) (desc : U64) : ResCanonical (execColl c desc s) := by
  refine resCanonical_heldOrOnRing hs fun s hs => ?_
  have hread := canonical_readVA hs agentHost desc.toNat 128
  split
  · next heq =>
    have h1 := hread.of_eq heq
    exact canonical_ite (canonical_finish (canonical_refusedRecord h1 ..) ..) (canonical_waitStart (canonical_addRuns (canonical_markStarted h1 _) _) ..)
  · next heq => exact canonical_finish (hread.of_eq heq) ..

@[simp] theorem resCanonical_execCollBatch (c : CmdCtx) (header : U64) : ResCanonical (execCollBatch c header s) := by
  refine resCanonical_heldOrOnRing hs fun s hs => ?_
  have hread := canonical_readVA hs agentHost header.toNat 64
  split
  · next t h heq =>
    have ht : Canonical t := hread.of_eq heq
    refine canonical_ite (canonical_finish ht ..) (canonical_ite (canonical_finish ht ..) ?_)
    have hlist := canonical_readVA ht agentHost (header.toNat + 64) (128 * fieldLE h 8 2)
    split
    · next heq =>
      have h1 := hlist.of_eq heq
      refine canonical_ite (canonical_finish h1 ..) ?_
      split
      · exact canonical_finish h1 ..
      · refine canonical_ite (canonical_finish h1 ..) (canonical_ite (canonical_finish h1 ..) (canonical_waitStart ?_ ..))
        have h2 := canonical_addRuns (canonical_markStarted h1 c)
        simp [h2]
    · next heq => exact canonical_finish (hlist.of_eq heq) ..
  · next heq => exact canonical_finish (hread.of_eq heq) ..

@[simp] theorem resCanonical_execCollGroup (c : CmdCtx) (list : U64) (group count : U16) : ResCanonical (execCollGroup c list group count s) := by
  refine resCanonical_heldOrOnRing hs fun s hs => ?_
  have hread := canonical_readVA hs agentHost list.toNat (4 * count.toNat)
  split
  · next heq =>
    have h1 := hread.of_eq heq
    exact canonical_ite (canonical_finish h1 ..) (canonical_finish (by simp [h1]) ..)
  · next heq => exact canonical_finish (hread.of_eq heq) ..

@[simp] theorem resCanonical_execCollStart : ResCanonical (execCollStart s) := by
  refine resCanonical_powered hs fun s hs => canonical_ite hs ?_
  split
  · exact hs
  · exact canonical_ite hs (canonical_foldl (fun _ _ hs => canonical_startRun hs ..) _ (canonical_dropWait hs _))

@[simp] theorem resCanonical_execCollData (port : BitVec 4) (h : PktHdr) (ch : ChunkHdr) (data : List Byte) : ResCanonical
    (execCollData port h ch data s) :=
  resCanonical_powered hs fun s hs => by simp [hs]

@[simp] theorem resCanonical_execCollCredit (port : BitVec 4) (h : PktHdr) : ResCanonical (execCollCredit port h s) :=
  resCanonical_powered hs fun s hs => by simp [hs]

@[simp] theorem resCanonical_execCollCtrl (port : BitVec 4) (h : PktHdr) (body : CollCtrlBody) : ResCanonical (execCollCtrl port h body s) :=
  resCanonical_powered hs fun s hs => by simp [hs]

@[simp] theorem resCanonical_execRebalanceReport (fd : BitVec 1) (queued : List Nat) : ResCanonical (execRebalanceReport fd queued s) :=
  resCanonical_powered hs fun s hs => by simp [hs]

end

/-! ## Strokes and barriers -/

section
variable {s : State} (hs : Canonical s)
include hs

@[simp] theorem resCanonical_execStrokeEnd (c : CmdCtx) (stroke : U64) : ResCanonical (execStrokeEnd c stroke s) :=
  resCanonical_onRing hs fun s hs => by grind [canonical_iff, canonical_bump, canonical_finish, canonical_markStarted, canonical_tryArrive]

@[simp] theorem resCanonical_execStrokeSlow : ResCanonical (execStrokeSlow s) :=
  resCanonical_powered hs fun s hs => by grind [canonical_iff, canonical_bump, canonical_raise]

@[simp] theorem resCanonical_execStrokeBarrierComplete (generation : Bool) : ResCanonical (execStrokeBarrierComplete generation s) :=
  resCanonical_powered hs fun s hs => by grind [canonical_iff, canonical_bump, canonical_finishBarrier, canonical_takeSnap]

@[simp] theorem resCanonical_execBarrierSecondRound : ResCanonical (execBarrierSecondRound s) := resCanonical_powered hs fun s hs => by simp [hs]

end

/-! ## Checkpoints and restore -/

section
variable {s : State} (hs : Canonical s)
include hs

@[simp] theorem resCanonical_execGranuleCopy (die : BitVec 2) : ResCanonical (execGranuleCopy die s) := by
  refine resCanonical_powered hs fun s hs => ?_
  split
  · next g captured _ _ _ =>
    refine canonical_ite hs ?_
    split
    next heq =>
      extract_lets s1
      have h1 : Canonical s1 := canonical_copied ((canonical_readGranule hs g captured).of_eq heq) ..
      split
      · exact h1
      · exact canonical_copyGranule h1 ..
  · exact hs

@[simp] theorem resCanonical_execClose : ResCanonical (execClose s) :=
  resCanonical_powered hs fun s hs => by grind [canonical_iff, canonical_copyCounters]

@[simp] theorem resCanonical_execManifestWrite (readBackOk : Bool) : ResCanonical (execManifestWrite readBackOk s) :=
  resCanonical_powered hs fun s hs => by
    grind [canonical_iff, canonical_bump, canonical_carryHost, canonical_levelBuddy, canonical_levelHost, canonical_raise,
      canonical_refreshUnprotected, canonical_sealBuddy, canonical_sealHost]

@[simp] theorem resCanonical_execCommitAgreement (allOk : Bool) : ResCanonical (execCommitAgreement allOk s) :=
  resCanonical_powered hs fun s hs => by grind [canonical_iff, canonical_bump, canonical_raise]

@[simp] theorem resCanonical_execDemandFetch (page : U64) : ResCanonical (execDemandFetch page s) :=
  resCanonical_powered hs fun s hs => by grind [canonical_iff, canonical_fetchPage]

@[simp] theorem resCanonical_execBackgroundRestore : ResCanonical (execBackgroundRestore s) :=
  resCanonical_powered hs fun s hs => by grind [canonical_iff, canonical_fetchPage]

@[simp] theorem resCanonical_execPageRestored (page : U64) (src : RestoreSrc) : ResCanonical (execPageRestored page src s) := by
  refine resCanonical_powered hs fun s hs => ?_
  extract_lets pg
  split
  · extract_lets base bytesOf due bad s1 pend fetches mem ckpt s2
    have h1 : Canonical s1 := canonical_foldl (fun _ _ hs => canonical_restoreGranule hs ..) _ hs
    have h2 : Canonical s2 := by simp [s2, mem, h1]
    refine canonical_ite hs ?_
    split
    · exact canonical_raise (by simp [hs]) ..
    · exact canonical_endRestore (canonical_bump h2 ..)
  · exact hs

@[simp] theorem resCanonical_execBuddyReseed : ResCanonical (execBuddyReseed s) := by
  refine resCanonical_powered hs fun s hs => ?_
  split
  · refine canonical_ite hs ?_
    extract_lets k j rd d s1 s2 s3 s4 s5 buddy
    have h1 : Canonical s1 := canonical_foldl (fun _ _ hs => canonical_sendRecord hs ..) _ hs
    have h2 : Canonical s2 := canonical_sendBuddy h1 ..
    have h3 : Canonical s3 := canonical_foldl (fun _ _ hs => canonical_sendBuddy hs ..) _ h2
    have h5 : Canonical s5 := canonical_sendBuddy (canonical_sendBuddy h3 ..) ..
    exact canonical_refreshUnprotected (by simp [h5])
  · exact hs

end

end Sys2Proof.Machine
end

section
/-! The canonical form is kept: commands of ports, management, cores and Zenle. -/

-- One theorem at a time: the stacks of threads that elaborate side by side count against the check's memory.
set_option Elab.async false

namespace Sys2Proof.Machine

theorem canonical_applyRing {s t : State} {st : Nat} (hs : Canonical s) {cmd : EvfCmd} (h : applyRing s cmd = some (t, st)) : Canonical t := by
  cases cmd with
  | limit w => exact (canonical_trayLimit hs w.toNat).of_eq (Option.some.inj h)
  | catchAt at_ _ => exact (show Canonical (catchBy s at_, 0).1 from canonical_catchBy hs _).of_eq (Option.some.inj h)
  | time o k => exact (show Canonical (timeFrom s .evfek (messageTime o k), 0).1 from canonical_timeFrom hs ..).of_eq (Option.some.inj h)
  | other _ => simp [applyRing] at h

/-! ## Ports and lanes -/

section
variable {s : State} (hs : Canonical s)
include hs

@[simp] theorem resCanonical_execLaneFault (port : BitVec 4) (lane : BitVec 5) : ResCanonical (execLaneFault port lane s) :=
  resCanonical_powered hs fun s hs => by
    grind [canonical_iff, canonical_modPort, canonical_countCorrected, canonical_markFailed, canonical_narrowPort, canonical_pathChange]

@[simp] theorem resCanonical_execLaneSpared (port : BitVec 4) : ResCanonical (execLaneSpared port s) :=
  resCanonical_powered hs fun s hs => by
    grind [canonical_iff, canonical_modPort, canonical_bump, canonical_measureEyes, canonical_pathChange, canonical_raise, canonical_setLane]

@[simp] theorem resCanonical_execPortTraining (port : BitVec 4) (accepts : BitVec 3) (channelRate : BitVec 2) (fabId fmId : U16) (reversed : Bool) :
    ResCanonical (execPortTraining port accepts channelRate fabId fmId reversed s) :=
  resCanonical_powered hs fun s hs => by
    grind [canonical_iff, canonical_modPort, canonical_setReg, canonical_disablePort, canonical_measureEyes, canonical_pathChange]

@[simp] theorem resCanonical_execFecReplay (port : BitVec 4) : ResCanonical (execFecReplay port s) := resCanonical_powered hs fun s hs => by simp [hs]

@[simp] theorem resCanonical_execPathDown (port : BitVec 4) (dst : U16) : ResCanonical (execPathDown port dst s) :=
  resCanonical_powered hs fun s hs => by grind [canonical_iff, canonical_modPort, canonical_pathChange]

@[simp] theorem resCanonical_execPathUp (port : BitVec 4) (dst : U16) : ResCanonical (execPathUp port dst s) :=
  resCanonical_powered hs fun s hs => by grind [canonical_iff, canonical_modPort, canonical_pathChange]

@[simp] theorem resCanonical_execRequestResend (dst : U16) (fd : BitVec 1) (seq : U32) : ResCanonical (execRequestResend dst fd seq s) :=
  resCanonical_powered hs fun s hs => by grind [canonical_iff, canonical_resendReq, canonical_setTx]

@[simp] theorem resCanonical_execTargetUnresponsive (dst : U16) (fd : BitVec 1) (seq : U32) : ResCanonical (execTargetUnresponsive dst fd seq s) :=
  resCanonical_powered hs fun s hs => by grind [canonical_iff, canonical_raise, canonical_report]

@[simp] theorem resCanonical_execDrainTimeout (dst : U16) (port : BitVec 4) : ResCanonical (execDrainTimeout dst port s) :=
  resCanonical_powered hs fun s hs => by simp [hs]

@[simp] theorem resCanonical_execReleasedDrain (dst : U16) (fd : BitVec 1) : ResCanonical (execReleasedDrain dst fd s) :=
  resCanonical_powered hs fun s hs => by grind [canonical_iff, canonical_emitPacket, canonical_setTx]

@[simp] theorem resCanonical_execUnexpectedResend (dst : U16) (fd : BitVec 1) (seq : U32) : ResCanonical (execUnexpectedResend dst fd seq s) :=
  resCanonical_powered hs fun s hs => by simp [hs]

@[simp] theorem resCanonical_execQueuedRequestSend (dst : U16) (fd : BitVec 1) : ResCanonical (execQueuedRequestSend dst fd s) :=
  resCanonical_powered hs fun s hs => by grind [canonical_iff, canonical_launchReq, canonical_sendQueuedColl, canonical_setTx]

end

/-! ## Launch of a job -/

section
variable {s : State} (hs : Canonical s)
include hs

@[simp] theorem resCanonical_execBind (src : MgmtSrc) (body : BindBody) : ResCanonical (execBind src body s) :=
  resCanonical_onMgmt hs fun s hs => by
    grind [canonical_iff, canonical_bindJob, canonical_dropMsg, canonical_newEpoch, canonical_reply, canonical_setJob]

@[simp] theorem resCanonical_execLaunch (src : MgmtSrc) (body : LaunchBody) : ResCanonical (execLaunch src body s) :=
  resCanonical_onMgmt hs fun s hs => by
    grind [canonical_iff, canonical_acceptLaunch, canonical_checkImage, canonical_dropMsg, canonical_refuseLaunch, canonical_startNew,
      canonical_startResume]

@[simp] theorem resCanonical_execLaunchImage (image : List Byte) : ResCanonical (execLaunchImage image s) :=
  resCanonical_onFirmware hs fun s hs => by grind [canonical_iff, canonical_checkImage, canonical_report, canonical_setJob]

@[simp] theorem resCanonical_execLaunchChildMissing (rank : U32) : ResCanonical (execLaunchChildMissing rank s) :=
  resCanonical_onFirmware hs fun s hs => by grind [canonical_iff, canonical_emit, canonical_countMgmt, canonical_raise]

@[simp] theorem resCanonical_execHints (src : MgmtSrc) (first : U32) (pages : List U64) : ResCanonical (execHints src first pages s) :=
  resCanonical_onMgmt hs fun s hs => by grind [canonical_iff, canonical_dropMsg, canonical_reply, canonical_setJob, canonical_tryAck]

@[simp] theorem resCanonical_execAttention (src : MgmtSrc) (ack : BitVec 8) : ResCanonical (execAttention src ack s) :=
  resCanonical_onMgmt hs fun s hs => by grind [canonical_iff, canonical_dropMsg, canonical_setJob, canonical_tryAck]

@[simp] theorem resCanonical_execGo (src : MgmtSrc) : ResCanonical (execGo src s) :=
  resCanonical_onMgmt hs fun s hs => by
    grind [canonical_iff, canonical_dropMsg, canonical_raise, canonical_refreshUnprotected, canonical_registerWard, canonical_reply,
      canonical_setJob, canonical_setNondet, canonical_showGeometry, canonical_syncSet]

end

/-! ## Limits, catches and frames -/

section
variable {s : State} (hs : Canonical s)
include hs

@[simp] theorem resCanonical_execLimit (src : MgmtSrc) (watts : U16) : ResCanonical (execLimit src watts s) :=
  resCanonical_onMgmt hs fun s hs => by
    grind [canonical_iff, canonical_dropMsg, canonical_reply, canonical_replyTo, canonical_setLimit, canonical_trayLimit]

@[simp] theorem resCanonical_execCatchMsg (src : MgmtSrc) (matchTime : U64) (_catchId : U32) : ResCanonical (execCatchMsg src matchTime _catchId s) :=
  resCanonical_onMgmt hs fun s hs => by grind [canonical_iff, canonical_catchBy, canonical_dropMsg, canonical_replyTo]

@[simp] theorem resCanonical_execTimeMatch : ResCanonical (execTimeMatch s) :=
  resCanonical_powered hs fun s hs => by grind [canonical_iff, canonical_setRegBit, canonical_takeCatch]

@[simp] theorem resCanonical_execTime (src : MgmtSrc) (origin correction : U64) : ResCanonical (execTime src origin correction s) :=
  resCanonical_onMgmt hs fun s hs => by grind [canonical_iff, canonical_timeFrom]

@[simp] theorem resCanonical_execPtpMessage (domain : BitVec 8) (locked : Bool) (timeNs : U64) : ResCanonical (execPtpMessage domain locked timeNs s)
    :=
  resCanonical_powered hs fun s hs => by grind [canonical_iff, canonical_bump, canonical_loseSource, canonical_timeFrom]

@[simp] theorem resCanonical_execHoldover : ResCanonical (execHoldover s) :=
  resCanonical_powered hs fun s hs => by grind [canonical_iff, canonical_loseSource]

@[simp] theorem resCanonical_execTimeOutOfTolerance (offset : U32) (holdoverBeyond : Bool) : ResCanonical
    (execTimeOutOfTolerance offset holdoverBeyond s) :=
  resCanonical_powered hs fun s hs => by grind [canonical_iff, canonical_setReg, canonical_setRegBit, canonical_raise]

@[simp] theorem resCanonical_execPpsOutPulse : ResCanonical (execPpsOutPulse s) := resCanonical_powered hs fun s hs => by simp [hs]

@[simp] theorem resCanonical_execMgmtFragmentTimeout (txn : U32) : ResCanonical (execMgmtFragmentTimeout txn s) :=
  resCanonical_powered hs fun s hs => by simp [hs]

@[simp] theorem resCanonical_execEvfekCommand (h : EvfHdr) (cmd : EvfCmd) : ResCanonical (execEvfekCommand h cmd s) := by
  refine resCanonical_onFrame hs fun s hs => ?_
  split
  · exact canonical_emit (canonical_bump hs ..) _
  · split
    · exact canonical_dropMsg (canonical_bump hs ..)
    · next heq =>
      have h1 := canonical_applyRing hs (Option.ite_none_right_eq_some.1 heq).2
      exact canonical_emit (by simp [h1]) _

@[simp] theorem resCanonical_execEvfekReply (h : EvfHdr) (_status : U16) : ResCanonical (execEvfekReply h _status s) :=
  resCanonical_onFrame hs fun s hs => by simp [hs]

@[simp] theorem resCanonical_execEvfekCatch (h : EvfHdr) (matchTime : U64) (_catchId : U32) : ResCanonical (execEvfekCatch h matchTime _catchId s) :=
  resCanonical_onFrame hs fun s hs => by simp [hs]

@[simp] theorem resCanonical_execEvfekTime (h : EvfHdr) (origin correction : U64) : ResCanonical (execEvfekTime h origin correction s) :=
  resCanonical_onFrame hs fun s hs => by simp [hs]

@[simp] theorem resCanonical_execEvfekResend : ResCanonical (execEvfekResend s) :=
  resCanonical_powered hs fun s hs => by grind [canonical_iff, canonical_emit]

@[simp] theorem resCanonical_execRingPairFailed (inbound : Bool) (pair : BitVec 1) : ResCanonical (execRingPairFailed inbound pair s) :=
  resCanonical_powered hs fun s hs => by grind [canonical_iff, canonical_raise]

end

/-! ## Products -/

section
variable {s : State} (hs : Canonical s)
include hs

@[simp] theorem resCanonical_execMma (t : TileId) (w : TWord) : ResCanonical (execMma t w s) :=
  resCanonical_onTile hs fun s hs => by grind [canonical_iff, canonical_dispatchMma, canonical_withDescriptor]

end

/-! ## Scalar registers of a core -/

section
variable {s : State} (hs : Canonical s)
include hs

@[simp] theorem resCanonical_execSteerRun (c : CmdCtx) (entry stack args : U64) (core : U16) : ResCanonical (execSteerRun c entry stack args core s)
    := by
  refine resCanonical_heldOrOnRing hs fun s hs => canonical_ite (canonical_finish hs ..) (canonical_ite (canonical_finish hs ..)
    (canonical_ite (canonical_finish hs ..) (canonical_ite (canonical_finish hs ..) ?_)))
  have hread := canonical_readVA hs agentHost args.toNat 64
  split
  · next heq => exact canonical_markStarted (canonical_modCore (hread.of_eq heq) ..) _
  · next heq => exact canonical_finish (hread.of_eq heq) ..

@[simp] theorem resCanonical_execSupcall (core : BitVec 8) : ResCanonical (execSupcall core s) :=
  resCanonical_onCore hs fun s hs => by
    grind [canonical_iff, canonical_bump, canonical_coreTime, canonical_endProgram, canonical_stopProgram, canonical_trapWith]

@[simp] theorem resCanonical_execSupret (core : BitVec 8) : ResCanonical (execSupret core s) :=
  resCanonical_onCore hs fun s hs => by grind [canonical_iff, canonical_modCore, canonical_bump, canonical_retire]

@[simp] theorem resCanonical_execSteerCoreFault (phys : BitVec 8) : ResCanonical (execSteerCoreFault phys s) :=
  resCanonical_powered hs fun s hs => by
    grind [canonical_iff, canonical_modCore, canonical_endProgram, canonical_memberFault, canonical_raise, canonical_recordStop]

@[simp] theorem resCanonical_execPassInterrupt (core : BitVec 8) (nextElement : Nat) : ResCanonical (execPassInterrupt core nextElement s) :=
  resCanonical_powered hs fun s hs => by grind [canonical_iff, canonical_modCore, canonical_enterTrap]

@[simp] theorem resCanonical_execFpmrd (core : BitVec 8) (rd : BitVec 5) : ResCanonical (execFpmrd core rd s) :=
  resCanonical_onCore hs fun s hs => by simp [hs]

@[simp] theorem resCanonical_execFpmwr (core : BitVec 8) (rs1 : BitVec 5) : ResCanonical (execFpmwr core rs1 s) :=
  resCanonical_onCore hs fun s hs => by simp [hs]

@[simp] theorem resCanonical_execScalarFpOperation (core : BitVec 8) (op : FpOp) (fmt : FpFmt) (rd rs1 rs2 rs3 : BitVec 5) : ResCanonical
    (execScalarFpOperation core op fmt rd rs1 rs2 rs3 s) :=
  resCanonical_onCore hs fun s hs => by grind [canonical_iff, canonical_modCore, canonical_retire, canonical_setLow]

@[simp] theorem resCanonical_execScalarAccess (core : BitVec 8) (store : Bool) (log2 : BitVec 2) (rd rs1 : BitVec 5) : ResCanonical
    (execScalarAccess core store log2 rd rs1 s) :=
  resCanonical_onCore hs fun s hs => by simp [hs]

@[simp] theorem resCanonical_execLdAcq (core : BitVec 8) (rd rs1 : BitVec 5) : ResCanonical (execLdAcq core rd rs1 s) :=
  resCanonical_onCore hs fun s hs => by simp [hs]

@[simp] theorem resCanonical_execStRel (core : BitVec 8) (rs1 rs2 : BitVec 5) : ResCanonical (execStRel core rs1 rs2 s) :=
  resCanonical_onCore hs fun s hs => by simp [hs]

@[simp] theorem resCanonical_execSteerFence (core : BitVec 8) : ResCanonical (execSteerFence core s) :=
  resCanonical_onCore hs fun s hs => by simp [hs]

@[simp] theorem resCanonical_execScCoreWait (core : BitVec 8) (vs1 vs2 : BitVec 5) : ResCanonical (execScCoreWait core vs1 vs2 s) :=
  resCanonical_onCore hs fun s hs => by grind [canonical_iff, canonical_modCore, canonical_addWait, canonical_retire, canonical_stopTrap]

end

/-! ## Vector memory accesses -/

section
variable {s : State} (hs : Canonical s)
include hs

@[simp] theorem resCanonical_execKld (core : BitVec 8) (w : VWord) : ResCanonical (execKld core w s) :=
  resCanonical_onSpan hs fun s hs => by
    grind [canonical_iff, canonical_modCore, canonical_bumpClocks, canonical_doneSpan, canonical_maskMem, canonical_readWords, canonical_stopTrap]

@[simp] theorem resCanonical_execKst (core : BitVec 8) (w : VWord) : ResCanonical (execKst core w s) :=
  resCanonical_onSpan hs fun _ hs => canonical_maskMem hs _ _ _ _ fun _ _ hs =>
    canonical_bumpClocks (canonical_doneSpan (canonical_foldl (fun _ _ hs => canonical_coreWrite hs ..) _ hs) ..) ..

end

/-! ## Reductions, permutations, moves and masks -/

section
variable {s : State} (hs : Canonical s)
include hs

@[simp] theorem resCanonical_execSetspan (core : BitVec 8) (w : VWord) : ResCanonical (execSetspan core w s) :=
  resCanonical_onSpan hs fun s hs => by simp [hs]

@[simp] theorem resCanonical_execVsrd (core : BitVec 8) (w : VWord) : ResCanonical (execVsrd core w s) :=
  resCanonical_onSpan hs fun s hs => by simp [hs]

@[simp] theorem resCanonical_execVswr (core : BitVec 8) (w : VWord) : ResCanonical (execVswr core w s) :=
  resCanonical_onSpan hs fun s hs => by grind [canonical_iff, canonical_modCore, canonical_doneSpan]

@[simp] theorem resCanonical_execVpack (core : BitVec 8) (w : VWord) : ResCanonical (execVpack core w s) :=
  resCanonical_onSpan hs fun s hs => by grind [canonical_iff, canonical_modCore, canonical_doneSpan]

@[simp] theorem resCanonical_execVtog (core : BitVec 8) (w : VWord) : ResCanonical (execVtog core w s) :=
  resCanonical_moveSpan hs fun s v hs => by simp [hs]

@[simp] theorem resCanonical_execVtof (core : BitVec 8) (w : VWord) : ResCanonical (execVtof core w s) :=
  resCanonical_moveSpan hs fun s v hs => by simp [hs]

end

/-! ## Assemblies -/

section
variable {s : State} (hs : Canonical s)
include hs

@[simp] theorem resCanonical_execZnAssemble (c : CmdCtx) (desc : U64) : ResCanonical (execZnAssemble c desc s) := by
  refine resCanonical_heldOrOnRing hs fun s hs => ?_
  have hread := canonical_readVA hs agentHost desc.toNat 64
  split
  · next t bs heq =>
    have ht : Canonical t := hread.of_eq heq
    refine canonical_ite (canonical_finish ht ..) ?_
    have hprog := canonical_readVA ht agentZenle (parseAsm bs).program (64 * (parseAsm bs).count)
    split
    · next heq =>
      have h1 := hprog.of_eq heq
      exact canonical_ite (canonical_finish h1 ..) (canonical_markStarted (by simp [h1]) _)
    · next heq => exact canonical_finish (hprog.of_eq heq) ..
  · next heq => exact canonical_finish (hread.of_eq heq) ..

@[simp] theorem resCanonical_execAssemblyDone (asmId : U32) : ResCanonical (execAssemblyDone asmId s) := by
  refine resCanonical_powered hs fun s hs => ?_
  split
  · exact hs
  · next a _ =>
    refine canonical_ite hs ?_
    have hrun := canonical_runAssembly hs a
    split
    · next heq => exact canonical_finish (canonical_dropAssembly (canonical_countChecks (hrun.of_eq heq) _) _) ..
    · next heq =>
      have h1 := canonical_countAssembly (hrun.of_eq heq) a
      exact canonical_finish (canonical_dropAssembly (canonical_foldl (fun _ _ hs => canonical_writeVA hs ..) _ h1) _) ..

end

/-! ## The run of a solve -/

section
variable {s : State} (hs : Canonical s)
include hs

@[simp] theorem resCanonical_execZnUnitEnd (solveId : U32) (u : ZnUnit) (report : UnitReport) : ResCanonical (execZnUnitEnd solveId u report s) :=
  resCanonical_powered hs fun s hs => by
    grind [canonical_iff, canonical_interiorEnd, canonical_krylovEnd, canonical_panelEnd, canonical_refineEnd, canonical_refineStart,
      canonical_verifyEnd]

end

/-! ## Solves -/

section
variable {s : State} (hs : Canonical s)
include hs

@[simp] theorem resCanonical_execZnSolve (c : CmdCtx) (desc : U64) : ResCanonical (execZnSolve c desc s) := by
  refine resCanonical_heldOrOnRing hs fun s hs => ?_
  have hread := canonical_readVA hs agentHost desc.toNat 256
  split
  · next heq =>
    have h1 := hread.of_eq heq
    exact canonical_ite (canonical_finish (canonical_refusedSolve h1 ..) ..) (canonical_markStarted (by simp [h1]) _)
  · next heq => exact canonical_finish (hread.of_eq heq) ..

@[simp] theorem resCanonical_execSolveStart : ResCanonical (execSolveStart s) := by
  refine resCanonical_powered hs fun s hs => ?_
  split
  · refine canonical_ite hs ?_
    extract_lets v s1 s2
    have h1 : Canonical s1 := canonical_foldl (fun _ _ hs => canonical_touchTile hs _) _ hs
    exact canonical_openSolve (canonical_setSolve (canonical_modCore h1 ..) _) _
  · exact hs

@[simp] theorem resCanonical_execZnRendezvous (solveId : U32) (msgs : List Rendezvous) (expired : Bool) : ResCanonical
    (execZnRendezvous solveId msgs expired s) :=
  resCanonical_powered hs fun s hs => by grind [canonical_iff, canonical_beginSolve, canonical_gatherBlocks, canonical_refuseSolve]

@[simp] theorem resCanonical_execSolveEnd (solveId : U32) : ResCanonical (execSolveEnd solveId s) :=
  resCanonical_powered hs fun s hs => by grind [canonical_iff, canonical_endSolve, canonical_returnedNorm]

end

/-! ## Abort, rewind and unbind -/

section
variable {s : State} (hs : Canonical s)
include hs

@[simp] theorem resCanonical_execJobAbort (src : MgmtSrc) (epoch : U16) : ResCanonical (execJobAbort src epoch s) :=
  resCanonical_onMgmt hs fun s hs => by
    grind [canonical_iff, canonical_toBallast, canonical_abandonLaunch, canonical_abortCkpt, canonical_abortFabric, canonical_betweenJobs,
      canonical_cancelWork, canonical_dropMsg, canonical_quietJob, canonical_reply, canonical_reportStores, canonical_rewindJob, canonical_setJob]

@[simp] theorem resCanonical_execUnbind (src : MgmtSrc) (jobTag : U16) : ResCanonical (execUnbind src jobTag s) :=
  resCanonical_onMgmt hs fun s hs => by
    grind [canonical_iff, canonical_abandonLaunch, canonical_betweenJobs, canonical_cancelWork, canonical_clearFabric, canonical_clearJob,
      canonical_dropMsg, canonical_dropWindow, canonical_failRequests, canonical_quietJob, canonical_reply, canonical_zeroCores, canonical_zeroTiles]

end

end Sys2Proof.Machine
end

section
/-! EveryStepKeepsTheCanonicalForm (O58): each command by the frame that it is, or by a lemma of its own, and the step from them. -/

-- One theorem at a time: the stacks of threads that elaborate side by side count against the check's memory.
set_option Elab.async false

namespace Sys2Proof.Machine

/-- Every command keeps the canonical form: the families share their frame, and each command of the last arm has its own lemma. -/
theorem exec_canonical {s : State} (hs : Canonical s) (i : Instr) : ResCanonical (exec i s) := by
  unfold exec
  cases i with
  | eadd | esub | emul | efma | ediv | esqrt | emin | emax | eabs | eneg | ecmp | esel | ecopy | ecvt | eqrow | edqrow
  | epoly | eexp | eexp2 | elog | elog2 | ersqrt | esin | ecos | etanh | esigm | egelu | esilu | rsum | rsumsq | rmax
  | rmin | rstat | rmerge | csum | cmax | cmin => exact resCanonical_runEop hs ..
  | atAdd | atXchg | atCas | atMin | atMax | atMinu | atMaxu => exact resCanonical_coreAtomic hs ..
  | scCoreAdd | scCoreSet => exact resCanonical_coreSync hs ..
  | vfsqrt | vfcvtFi | vfcvtIf | vdotbf | vbcast | vfbcast => exact resCanonical_elemSpan hs ..
  | vcmpeq | vcmplt => exact resCanonical_maskSpan hs ..
  | vld | vlds | vldx | vldprobe | vst | vsts | vstx => exact resCanonical_vmemSpan hs ..
  | vshiftup | vshiftdn | vshuf => exact resCanonical_permSpan hs ..
  | kcount | kfind => exact resCanonical_maskScan hs ..
  | vfsumpair => exact resCanonical_reduceSpan hs ..
  | vsumr | vminr | vmaxr | vminur | vmaxur | vfsumord | vfminr | vfmaxr => exact resCanonical_foldSpan hs ..
  | vadd | vsub | vmul | vmulhi | vmin | vmax | vminu | vmaxu | vand | vor | vxor | vshl | vshrl | vshra =>
    exact resCanonical_intSpan hs ..
  | vmulx | vmulxu | vmacx | vmacxu => exact resCanonical_widenInt hs ..
  | vdotq | vdotqu | vdotqsu => exact resCanonical_dotInt hs ..
  | vfadd | vfsub | vfmul | vfdiv | vfmac | vfmsb | vfmin | vfmax => exact resCanonical_fpSpan hs ..
  | vfcvtup | vfcvtupBf => exact resCanonical_cvtUp hs ..
  | vfcvtdn | vfcvtdnBf => exact resCanonical_cvtDown hs ..
  | vfmulx | vfmacx => exact resCanonical_widenFp hs ..
  | vfcmpeq | vfcmplt | vfcmple => exact resCanonical_fpCompareSpan hs ..
  | kand | kor | kxor | kandn => exact resCanonical_maskOp hs ..
  | _ => simp [hs]

theorem step_canonical {s : State} (hs : Canonical s) : ResCanonical (step s) := by
  unfold step
  split
  · exact canonical_tick hs
  · exact exec_canonical (by simp [hs]) _

end Sys2Proof.Machine

open Sys2Proof Sys2Proof.Machine

/-- Settles O58: the form is kept by every function of the model that changes the state, so by every command. -/
theorem everyStepKeepsTheCanonicalForm : Obligations.EveryStepKeepsTheCanonicalForm := by
  intro s t hs hstep
  have h := step_canonical hs
  rwa [hstep] at h
end
